-- ==== Sys2Proof/Word.lean ====
section
/-!
DEFINITION. Word sizes of the Chohinto T7 trigger module and the plainest arithmetic on them.

Registers are 32 bits wide (R11); a byte is the smallest unit of the record, link and image formats (R10);
the horizon count, the sequence numbers and the time counter are 64 bits wide (R40, R318, R477).
-/
namespace Sys2Proof

/-- One byte of a format, a buffer or a memory (R10). -/
abbrev Byte := BitVec 8

/-- One register (R11). -/
abbrev Word := BitVec 32

/-- A horizon count, a sequence number or a counter value of 64 bits (R40, R318, R477). -/
abbrev U64 := BitVec 64

/-- A verdict word (R73). -/
abbrev Verdict := BitVec 16

/-- A sparse store, keyed by a natural number. Every store of the state keeps its keys strictly rising. -/
abbrev Map (α : Type) := List (Nat × α)

end Sys2Proof
end

