-- ==== Sys2Proof/Syntax.lean ====
section
/-!
DEFINITION. The commands of the module: one constructor for each row of spec/opcode_table.json, in the table's order, with the data
its rule names as operands. The table gives no operand bits.
-/
namespace Sys2Proof

/-- The three access paths to the registers (R531, R533). -/
inductive Path where
  | host | mgt | jtag
deriving DecidableEq, Repr, Inhabited

/-- An error that a unit reports while it handles a frame: unit word (Table 11.12), class (Table 11.1), and the tags that the unit holds then
(R53, R95). -/
structure UnitError where
  unit : Word
  cls : Nat
  held : List Nat
deriving DecidableEq, Repr, Inhabited

/-- How a loess work item went: well; well, with `n` silt words corrected on the way (R223); with a history read that DRAM failed (R214); with
an uncorrectable silt read in a column (R223); with the data stream of a stage `data` blocks and its scale stream `scale` blocks ahead at a
block that a unit consumes (R259, R260). -/
inductive Work where
  | good
  | corrected (n : Nat)
  | readFailed
  | siltFailed (unit : Word)
  | slip (unit : Word) (stage block data scale : Nat)
deriving DecidableEq, Repr, Inhabited

/-- How a DRAM transaction went (R208, R214). -/
inductive DramOutcome where
  | good
  | corrected
  | uncorrectable
deriving DecidableEq, Repr, Inhabited

/-- An access of port 0 to a silt word of sixteen 32-bit elements (R216, R220). -/
inductive SiltAccess where
  | read
  | write (data : List Word)
  | add (mask : BitVec 16) (data : List Word)
  | swap (mask : BitVec 16) (data : List Word)
deriving DecidableEq, Repr, Inhabited

/-- A settled answer: its instant, in picoseconds after the tick of the count in force, and how its work items went (R256, R257). -/
structure Answer where
  ps : Nat
  work : Work
deriving DecidableEq, Repr, Inhabited

/-- Both sides of a silt access that met BUSY: the word of the bank, port 0's access, and what port 1 writes, or none where it reads (R219). -/
structure BusyAccess where
  bank : Fin 256
  word : Fin 8192
  port0 : SiltAccess
  write : Option (List Word)
deriving DecidableEq, Repr, Inhabited

/-- A launch message of the cascade (R450): the lead's horizon, a member's answer, a cancellation. -/
inductive LaunchMsg where
  | commit
  | answer (accepted : Bool)
  | cancel
deriving DecidableEq, Repr, Inhabited

/-- What the lock-step partner sends at the start horizon (R310). -/
structure LckPeer where
  reachable : Bool
  armed : Bool
  growing : Bool
  firm : Bool
  imageDigest : List Byte
  keyDigest : List Byte
  launch : U64
  d : Word
  w : Word
deriving DecidableEq, Repr, Inhabited

/-- A tick digest of the partner (R308, R311). -/
structure PeerTick where
  hzn : U64
  bed : Nat
  digest : U64
deriving DecidableEq, Repr, Inhabited

/-- An IEEE 1588 message as the servo takes it (R480, R481); times in nanoseconds: t1 and t4 are the master's stamps, t3 the
module's own departure stamp. -/
inductive PtpMsg where
  | announce (master : U64)
  | sync (t1 corr : Int)
  | delayResp (t3 t4 corr : Int)
  | pdelayResp (meanPath : Int)
  /-- a message the servo takes nothing from: an event message or a general one -/
  | other (event : Bool)
deriving DecidableEq, Repr, Inhabited

/-- The commands (spec/opcode_table.json). -/
inductive Instr where
  /-- MAIN_RAILS_VALID (R554). The main rails reach regulation with VSTBY and 12 V good and PWR_MAIN_EN high, and a cold Waking starts. -/
  | mainRailsValid (temps : Vector Int 18)
  /-- DRAM_INIT_DONE (R209). DRAM zero-initialisation and the silt clear complete, and LSS_MEM_STAT.INIT_DONE is set. -/
  | dramInitDone
  /-- FIRMWARE_LOAD_COMPLETE (R380). The firmware read finishes and is verified, producing a boot code that halts the Waking or lets it continue. -/
  | firmwareLoadComplete
  /-- IMAGE_LOAD_COMPLETE (R379). The image has been streamed into the DRAM copy; the loader checks run and the module becomes Sown or Unplanted. -/
  | imageLoadComplete
  /-- MAIN_RAILS_LOST (R30). The main rails are lost in any state, and the module goes Off. -/
  | mainRailsLost
  /-- BROWN_OUT (R513). In low-power mode a core rail overload or undervoltage removes the main rails and sets BROWNOUT. -/
  | brownOut
  /-- PWR_MAIN_EN_LOW (R555). PWR_MAIN_EN driven low removes the main rails within 1 ms without draining. -/
  | pwrMainEnLow
  /-- RST_WARM_N_ASSERT (R555). RST_WARM_N held low for 1 µs is an undrained warm reset, and frames in flight lose their verdicts. -/
  | rstWarmNAssert
  /-- RST_WARM_N_RELEASE (R555). RST_WARM_N returns high and the warm Waking begins. -/
  | rstWarmNRelease
  /-- VSTBY_LOST (R559). VSTBY is lost, the main rails are removed and the bedrock counters are lost. -/
  | vstbyLost
  /-- TOP_WARM_RESET (R359). A write of 1 to TOP_CTL.WARM_RESET requests a drained warm reset. -/
  | topWarmReset (path : Path)
  /-- DRAIN_COMPLETE (R359). The last accepted frame's settled release time has passed and its record entry is in the tail, so the module enters Waking (warm). -/
  | drainComplete
  /-- WARM_WAKING_COMPLETE (R34). The warm Waking finishes its DRAM retrain, digest check and bed reload, or turns cold on a digest mismatch. -/
  | warmWakingComplete (fwBad : Bool) (imgBad : Bool)
  /-- FIRMWARE_WATCHDOG_EXPIRY (R354). The firmware watchdog passes 100 ms without service, and the module halts. -/
  | firmwareWatchdogExpiry
  /-- THERMAL_TRIP (R524). A junction reaches 105 °C or a DRAM stack reaches 95 °C; the module halts with halt cause 4 and asserts THM_TRIP_N. -/
  | thermalTrip (sensor : Fin 18) (temp : Int)
  /-- TRIP_GATING (R525). Once the verdicts due after a trip are out, the power controller gates the beds and loess engines. -/
  | tripGating
  /-- CRITICAL_SHUTDOWN (R524). A junction reaches 115 °C, the main rails are removed and THERMAL_OFF is set. -/
  | criticalShutdown (sensor : Fin 18) (temp : Int)
  /-- THERMAL_WARNING (R524). A junction reaches THM_WARN, which sets WARN and increments THM_WARN_CNT. -/
  | thermalWarning (sensor : Fin 18) (temp : Int)
  /-- DRAM_STACK_HOT (R207). A DRAM stack crosses 85 °C, which halves the refresh interval and sets HOT. -/
  | dramStackHot (die : Fin 2) (temp : Int)
  /-- POWER_MEASUREMENT (R522). A new 1 ms PWR_MEAS average is compared with PWR_BUDGET and starts or ends throttling. -/
  | powerMeasurement (meas : BitVec 16) (vin : BitVec 16) (iin : BitVec 16) (vstby : BitVec 16)
  /-- POWER_ALARM (R523). Throttling has run for 100 ms with power still over budget, so ALARM is set and PWR_OVER_CNT increments. -/
  | powerAlarm
  /-- PLL_UNLOCK (R521). A PLL loses lock or the reference oscillator stops, and CLK_STAT reports it. -/
  | pllUnlock (domain : Fin 60)
  /-- IDLE_TIMER_EXPIRY (R32). The idle timer reaches PWR_IDLE_TICKS and entry to Fallow starts once nothing blocks it. -/
  | idleTimerExpiry
  /-- FALLOW_NOW (R507). A write of 1 to PWR_CTL.FALLOW_NOW acts as an idle timer expiry at the next tick unless a hold condition applies. -/
  | fallowNow (path : Path)
  /-- FALLOW_ABORT (R508). At an abort point a pending wake, halt or warm reset abandons entry and the steps are undone in reverse order. -/
  | fallowAbort (point : Fin 6)
  /-- FALLOW_ENTRY_COMPLETE (R509). Abort point A6 passes with nothing pending; the regulators enter low-power mode and the module is Fallow. -/
  | fallowEntryComplete
  /-- MGT_ADDRESS_MATCH (R514). The management port's target address is received in Fallow or Off, which is a wake event. -/
  | mgtAddressMatch (bytes : List Byte) (reads : Nat)
  /-- HOST_WAKE (R473). Signal activity on a host lane in Fallow, while WAKE_HOST_EN is 1, is a wake event. -/
  | hostWake (lane : Fin 8)
  /-- RESTORE_COMPLETE (R516). The restore from Fallow finishes and the module returns to the state it left. -/
  | restoreComplete
  /-- TICK (R40). A rising edge of the divided tick clock increments the horizon count. -/
  | tick (ps : Nat) (sync : Bool)
  /-- TICK_LOSS (R42). No tick arrives within twice HZN_TICK_PERIOD; tick loss is declared and acceptance stops. -/
  | tickLoss
  /-- FLYWHEEL_TICK (R42). A flywheel tick on the grid of the last real tick increments the horizon count during tick loss. -/
  | flywheelTick
  /-- TICK_PERIOD_MEASURED (R46). A run of 1,024 ticks completes and the measured period sets or clears TICK_UNSTABLE. -/
  | tickPeriodMeasured (ps : Nat)
  /-- ACCEPTANCE_RESUME (R45). At the horizon boundary that follows the stability conditions, the module releases the hold and accepts frames again. -/
  | acceptanceResume
  /-- PRESET_ARM (R51). A write of 1 to HZN_CTL.PRESET_ARM arms the preset count unless the module is Growing or the low bits are not zero. -/
  | presetArm (path : Path)
  /-- PRESET_APPLY (R51). At the next sync pulse or sync tick the preset is loaded into the horizon count and SLIP is cleared. -/
  | presetApply
  /-- LAUNCH_COMMIT (R55). A write of HZN_LAUNCH_HI commits the launch horizon or refuses it. -/
  | launchCommit (path : Path) (value : Word)
  /-- LAUNCH (R56). The count reaches the pending launch horizon and the module enters Growing if every condition holds. -/
  | launch
  /-- LANE_BLOCK_RECEIVED (R397). A receiver takes one block, removes stuff bits, checks SYNC and PAR and delivers it good or failed. -/
  | laneBlockReceived (lane : Fin 80) (line : BitVec 1032)
  /-- FRAME_ITEM (R422). A frame item is taken whole, bound or quarantined, and judged early, late, corrupt or on time. -/
  | frameItem (lane : Fin 48) (sender : Word) (stamp : BitVec 24) (payload : List Byte) (broken : Bool) (bridge : Bool) (ps : Nat)
  /-- SUMMARY_ITEM (R424). A slow summary item is checked and its entries routed to their group's slab buffer. -/
  | summaryItem (lane : Fin 48) (sender : Word) (stamp : BitVec 24) (body : List Byte) (broken : Bool) (ps : Nat)
  /-- FRAME_ENTRY (R100). At a slot's alignment deadline the entry unit normalises, places the context, decides TALLY, tags the frame and drives it into the bed. -/
  | frameEntry (bed : Fin 4) (slot : Fin 64) (hzn : U64) (errs : List UnitError)
  /-- BED_EXIT (R103). The exit unit assembles the verdict bits, causes and summary and writes the bed verdict register. -/
  | bedExit (bed : Fin 4) (slot : Fin 64) (hzn : U64) (errs : List UnitError)
  /-- VERDICT_OUTPUT (R426). A quick or settled verdict reaches its lane's framer at its line time and is placed into a decision block entry. -/
  | verdictOutput (bed : Fin 4) (slot : Fin 64) (hzn : U64) (settled : Bool) (ui : List Nat)
  /-- STREAM_RING_ENTRY_WRITE (R196). The frame's 32-byte entry is written into its stream ring head 10 fc after the verdict register time. -/
  | streamRingEntryWrite (bed : Fin 4) (slot : Fin 64) (hzn : U64)
  /-- SETTLED_ANSWER (R256). An admitted query's VERDICT stage completes and its answer enters the release queue. -/
  | settledAnswer (engine : Fin 2) (bed : Fin 4) (slot : Fin 64) (hzn : U64) (answer : Answer)
  /-- SETTLED_RELEASE (R70). At the release time the queued settled answer, or a default, leaves toward the decision quad. -/
  | settledRelease (bed : Fin 4) (slot : Fin 64) (hzn : U64)
  /-- SLAB_CLOSE (R200). At SLOW_DEADLINE the slab buffer closes, absent entries take ABSENT and the slab is written to DRAM. -/
  | slabClose (engine : Fin 2) (group : Fin 256) (period : U64)
  /-- CONTEXT_PACKAGE_WRITE (R241). The engine writes the 128-byte context package of a slot and tick into the context buffer. -/
  | contextPackageWrite (engine : Fin 2) (ring : Fin 128) (hzn : U64) (hist : U64) (ps : Nat) (ns : Nat) (work : Work)
  /-- WARMING_START (R247). Warming begins at the launch or restart horizon, and seed packages are used. -/
  | warmingStart (engine : Fin 2)
  /-- WARMING_END (R250). At tick s + W warming ends, WARM_DONE is set and the bucket starts full. -/
  | warmingEnd (engine : Fin 2)
  /-- ENGINE_RESET (R247). A write of 1 to LSS_CTL.ENGINE_RESET resets the engine, clears its banks and announces a restart horizon. -/
  | engineReset (path : Path) (engine : Fin 2)
  /-- CHECKPOINT_HORIZON (R264). At a horizon whose low 24 bits are zero each engine starts assembling a checkpoint. -/
  | checkpointHorizon (engine : Fin 2)
  /-- CHECKPOINT_COMPLETE (R264). The checkpoint is complete and staged with its digest, and the EVENT record is written. -/
  | checkpointComplete (engine : Fin 2)
  /-- SPILL_UNIT (R226). A spillable ring's oldest unit is sent to the host before its space is rewritten, or dropped. -/
  | spillUnit (engine : Fin 2) (stream : Bool) (ring : Fin 256) (first : U64) (sent : Bool)
  /-- DRAM_REFRESH (R207). A bank's per-bank refresh falls due and holds the bank for 120 ns. -/
  | dramRefresh (engine : Fin 2) (chan : Fin 8) (bank : Fin 64)
  /-- DRAM_TRANSACTION_BOUNDARY (R210). At a transaction boundary the channel starts the oldest waiting transaction of the highest class within its ceiling. -/
  | dramTransactionBoundary (engine : Fin 2) (chan : Fin 8) (outcome : DramOutcome)
  /-- SILT_MOVER_RETRY (R219). A port-1 access that met BUSY is retried in the bank's next mover slot. -/
  | siltMoverRetry (engine : Fin 2) (busy : BusyAccess)
  /-- SILT_COLUMN_REPAIR_DONE (R224). The live column repair copy finishes, the spare replaces the column and COL_SPARED is set. -/
  | siltColumnRepairDone (engine : Fin 2) (bank : Fin 256)
  /-- LOOSE_WRITE (R261). A write to TOP_CTL.LOOSE requests firm or loose mode, and is ignored when FIRM_LOCK is set. -/
  | looseWrite (path : Path) (value : Bool)
  /-- MODE_CHANGE (R261). The requested mode takes effect at the next horizon boundary, and an EVENT record is written. -/
  | modeChange
  /-- RECORD_ENTRY (R24). The auger unit writes a frame's FRAME record or adds it to a RUN, and numbers and chains the records. -/
  | recordEntry (bed : Fin 4) (slot : Fin 64) (hzn : U64)
  /-- RECORD_HOLD_RELEASE (R341). At a horizon boundary with the used tail space at 256 MiB or less, acceptance resumes. -/
  | recordHoldRelease
  /-- SEAL_CLOSE (R332). A seal closes on a lane count, a tick count, SEAL_NOW or a state change, takes the next number and is signed. -/
  | sealClose
  /-- SEAL_NOW (R332). A write of 1 to AUG_CTL.SEAL_NOW requests a seal close. -/
  | sealNow (path : Path)
  /-- SEAL_SIGNED (R334). The RSA engine finishes the seal signature, and the records waiting behind it may be delivered. -/
  | sealSigned (good : Bool)
  /-- MIRROR_ACK (R336). The neighbour reports a record stored in its mirror, and the proposed number becomes assigned. -/
  | mirrorAck (seq : U64)
  /-- MIRROR_TIMEOUT (R337). After 10 ms without a neighbour acknowledgement, numbers are assigned at tail write and UNMIRRORED is set. -/
  | mirrorTimeout
  /-- ORPHAN_TAIL_FORWARD (R340). A lost neighbour's unacknowledged records are forwarded from the mirror, and an orphan tail close pair is written. -/
  | orphanTailForward (serial : U64)
  /-- SELF_TEST_COMPLETE (R351). A targeted self-test ends, and the detection is classed transient or lasting. -/
  | selfTestComplete (unit : Word) (pass : Bool) (failing : List Word)
  /-- SPARE_COLUMN_LOADED (R112). A spare column finishes loading from the image copy, and the switch waits for a horizon boundary. -/
  | spareColumnLoaded (bed : Fin 4)
  /-- SPARE_COLUMN_SWITCH (R112). At the horizon boundary the spare multiplexers switch to the spare column. -/
  | spareColumnSwitch (bed : Fin 4)
  /-- RING_FRAME_RECEIVED (R439). A ring frame's fixed-region codeword is decoded, corrected or marked uncorrectable. -/
  | ringFrameReceived (port : Fin 4) (errors : Nat) (slots : List (List Byte))
  /-- ELASTIC_CELL_RECEIVED (R440). An elastic cell is accepted in order or discarded, and acknowledges the peer's cells. -/
  | elasticCellReceived (port : Fin 4) (cell : List Byte)
  /-- ELASTIC_RETRANSMIT (R440). A cell unacknowledged for 64 frame times causes go-back-N retransmission. -/
  | elasticRetransmit (port : Fin 4)
  /-- COMBINING_SLOT (R444). At BUDGET after the source's send time the destination reads the part and combines it. -/
  | combiningSlot (bed : Fin 4) (slot : Fin 64) (hzn : U64)
  /-- RING_LINK_DOWN (R451). A port leaves Up or delivers no good frame for 10 µs, and its link is down. -/
  | ringLinkDown (port : Fin 4)
  /-- REROUTE (R451). At the next horizon boundary a route meeting a down link is replaced by its alternate. -/
  | reroute
  /-- LEAD_TAKEOVER (R452). The deputy takes the lead role at the horizon boundary after the lead is lost. -/
  | leadTakeover
  /-- RING_HELLO (R443). A hello message is received, measuring cable delay, reachability and the sync count. -/
  | ringHello (port : Fin 4) (src : Fin 64) (count : U64) (reach : List (Fin 64)) (cable : Nat)
  /-- LAUNCH_MESSAGE (R450). A member receives the lead's launch message, commits it and answers. -/
  | launchMessage (src : Fin 64) (hzn : U64) (msg : LaunchMsg)
  /-- LAUNCH_CONFIRM_DEADLINE (R450). At 1,024 ticks before the horizon the lead cancels the launch if any position has not confirmed. -/
  | launchConfirmDeadline
  /-- ROLE_CHANGE_MESSAGE (R452). A module receives a role change message from the new lead. -/
  | roleChangeMessage (src : Fin 64)
  /-- LCK_EN (R310). A write to RNG_LCK_CTL.EN arms or stops lock-step comparison. -/
  | lckEn (path : Path) (value : Bool)
  /-- LCK_START_COMMIT (R310). A write of RNG_LCK_START_HI commits the lock-step start horizon. -/
  | lckStartCommit (path : Path) (value : Word)
  /-- LCK_START (R310). At the start horizon the partners exchange digests and begin comparing, or arming is refused. -/
  | lckStart (partner : LckPeer)
  /-- LCK_WINDOW_CLOSE (R308). A 64-tick window closes and its window digest is sent to the partner. -/
  | lckWindowClose (start : U64) (late : Bool)
  /-- LCK_PARTNER_DIGEST (R311). The partner's window digest arrives and is compared, and a mismatch freezes the module. -/
  | lckPartnerDigest (start : U64) (digest : U64)
  /-- LCK_FREEZE_MESSAGE (R311). A freeze message from the partner freezes the digest store. -/
  | lckFreezeMessage
  /-- LCK_LOCATE_DONE (R311). The digest exchange locates the first divergent tick, bed and slot. -/
  | lckLocateDone (ticks : List PeerTick) (results : List U64)
  /-- LCK_SNAPSHOT (R312). At the first horizon boundary after freezing, a lock-step snapshot is staged. -/
  | lckSnapshot
  /-- LCK_FREEZE (R311). A write of 1 to RNG_LCK_CTL.FREEZE freezes as for a mismatch. -/
  | lckFreeze (path : Path)
  /-- LCK_REARM (R313). A write of 1 to RNG_LCK_CTL.REARM releases the freeze. -/
  | lckRearm (path : Path)
  /-- LCK_CAPTURE_GAP (R309). A partner digest missing 65,536 ticks after its window closed makes a capture gap. -/
  | lckCaptureGap (start : U64)
  /-- BED_SELFTEST (R127). A write of 1 to BED_CTL.SELFTEST starts a full bed self-test. -/
  | bedSelftest (path : Path) (bed : Fin 4)
  /-- MIRROR_RELEASE (R121). A write to BED_CTL.MIRROR_RELEASE requests single-bed operation or pairing again. -/
  | mirrorRelease (path : Path) (bed : Fin 4) (value : Bool)
  /-- MIRROR_RELEASE_BOUNDARY (R121). At the next horizon boundary the pair enters single-bed operation. -/
  | mirrorReleaseBoundary
  /-- MIRROR_REJOIN_LOADED (R500). The partner has loaded the running variant, and the pair rejoins at the next horizon boundary. -/
  | mirrorRejoinLoaded (pair : Fin 2)
  /-- CORR_ARM (R114). A write of BED_CORR_HI arms a weight correction, or refuses it. -/
  | corrArm (path : Path) (bed : Fin 4) (value : Word)
  /-- CORR_COMMIT (R114). At the commit horizon every filled correction register is written into its grain bank. -/
  | corrCommit (bed : Fin 4)
  /-- CORR_CANCEL (R115). A write of 1 to BED_CTL.CORR_CANCEL cancels an armed correction. -/
  | corrCancel (path : Path) (bed : Fin 4)
  /-- GRN_SNAPSHOT_STATUS (R128). GRN_CMD 0x1 snapshots the selected grain's status. -/
  | grnSnapshotStatus (path : Path)
  /-- GRN_MAC_SCAN (R128). GRN_CMD 0x2 starts a MAC scan of the selected grain. -/
  | grnMacScan (path : Path)
  /-- GRN_BANK_MARCH (R128). GRN_CMD 0x3 starts a bank march test of the selected grain. -/
  | grnBankMarch (path : Path)
  /-- GRN_TEST_DONE (R128). A GRN command finishes, and GRN_STAT.TEST reports pass or fail. -/
  | grnTestDone (pass : Bool)
  /-- GRN_WINDOW_WRITE (R128). A write to the grain bank window takes effect, or is ignored with WREJ while the bed runs. -/
  | grnWindowWrite (path : Path) (addr : Word) (value : Word)
  /-- SOW_BEGIN (R465). The SOW_BEGIN request opens a live or staged sow and zeroes its buffer. -/
  | sowBegin (tag : BitVec 16) (arg : U64)
  /-- SOW_DATA (R465). The SOW_DATA request writes image bytes into the sow buffer. -/
  | sowData (tag : BitVec 16) (arg : U64) (payload : List Byte)
  /-- SOW_END (R465). The SOW_END request runs the loader on the buffer and returns the refusal code. -/
  | sowEnd (tag : BitVec 16)
  /-- REG_READ (R563). The REG_READ request performs 32-bit reads at ascending addresses and returns the words. -/
  | regRead (tag : BitVec 16) (arg : U64)
  /-- REG_WRITE (R563). The REG_WRITE request performs 32-bit writes at ascending addresses up to any refused word. -/
  | regWrite (tag : BitVec 16) (arg : U64) (payload : List Byte)
  /-- FLASH_ERASE (R464). The FLASH_ERASE request erases 4 KiB sectors of a flash device. -/
  | flashErase (tag : BitVec 16) (arg : U64) (good : Bool)
  /-- FLASH_PROGRAM (R464). The FLASH_PROGRAM request programs one page and reads it back. -/
  | flashProgram (tag : BitVec 16) (arg : U64) (payload : List Byte) (good : Bool)
  /-- FLASH_READ (R464). The FLASH_READ request returns up to 4,096 flash bytes. -/
  | flashRead (tag : BitVec 16) (arg : U64)
  /-- REC_ACK (R467). The adapter acknowledges records cumulatively, freeing tail or mirror space. -/
  | recAck (tag : BitVec 16) (next : U64) (serial : U64)
  /-- CAPTURE_READ (R470). The CAPTURE_READ request returns a divergence capture and frees its place. -/
  | captureRead (tag : BitVec 16) (arg : U64)
  /-- COLD_WRITE (R470). The COLD_WRITE request places cold history into the read-back buffer. -/
  | coldWrite (tag : BitVec 16) (arg : U64) (payload : List Byte)
  /-- LINK_MESSAGE (R471). A LINK message sets the active lane set from a named SEQ and reports LAST_TAG. -/
  | linkMessage (mask : Byte) (seq : BitVec 16)
  /-- HOST_CELL_RECEIVED (R459). A host link cell is accepted in order or discarded, and its ACK and credits are applied. -/
  | hostCellReceived (lane : Fin 8) (cell : List Byte)
  /-- HOST_RETRANSMIT (R459). After 256 block times without ACK advance the sender retransmits and restarts the REC channel. -/
  | hostRetransmit
  /-- HOST_LINK_UP (R457). The active lane set forms and both sides exchange LINK messages, bringing the link up. -/
  | hostLinkUp
  /-- HOST_LINK_DOWN (R472). No lane is Up, or no good cell arrives for 1 ms, so the link is down and its state discarded. -/
  | hostLinkDown
  /-- LINK_RESET (R472). A write of 1 to HST_CTL.LINK_RESET takes the link down and forms it again. -/
  | linkReset (path : Path)
  /-- FLASH_RESTART (R378). A write of 1 to CFG_CTL.FLASH_RESTART in Unplanted rereads the directory and image and runs the loader. -/
  | flashRestart (path : Path)
  /-- ROT_LOAD (R493). TOP_ROT_CTL.CMD 0x1 places the moving layout beds of the incoming phase on idle beds and loads them. -/
  | rotLoad (path : Path)
  /-- ROT_LOAD_COMPLETE (R494). Loading of the rotation targets finishes, and CODE reads loaded. -/
  | rotLoadComplete
  /-- ROT_ARM (R495). A write of TOP_ROT_HZN_HI arms the rotation at its change horizon, or defers or refuses it. -/
  | rotArm (path : Path) (value : Word)
  /-- ROT_CANCEL (R499). TOP_ROT_CTL.CMD 0x2 cancels the open rotation. -/
  | rotCancel (path : Path)
  /-- ROT_CHANGE_HORIZON (R496). At H frames enter the target beds under the new phase and the phase registers are written. -/
  | rotChangeHorizon
  /-- OLD_BED_IDLE (R496). An old bed becomes idle once its last frame's verdict register time has passed. -/
  | oldBedIdle (bed : Fin 4)
  /-- STAGED_IMAGE_COPY_DONE (R498). The mover finishes copying the staged image into the image copy region. -/
  | stagedImageCopyDone
  /-- UC_VERIFY (R502). TOP_UC_CTL.CMD 0x1 verifies a microcode package and loads it into the standby bank. -/
  | ucVerify (path : Path)
  /-- UC_ARM (R502). TOP_UC_CTL.CMD 0x2 arms the microcode swap. -/
  | ucArm (path : Path)
  /-- UC_CANCEL (R503). TOP_UC_CTL.CMD 0x3 cancels the armed swap. -/
  | ucCancel (path : Path)
  /-- UC_SWAP (R503). The standby microcode bank takes over at the block boundary of the horizon boundary. -/
  | ucSwap
  /-- BIND_COPY_ACTIVE (R418). STM_BIND_CMD 0x1 copies the active binding table to the pending table. -/
  | bindCopyActive (path : Path)
  /-- BIND_WRITE_ENTRY (R418). STM_BIND_CMD 0x2 writes the staged sender and target into the pending entry. -/
  | bindWriteEntry (path : Path)
  /-- BIND_READ_PENDING (R418). STM_BIND_CMD 0x3 reads a pending table entry into staging. -/
  | bindReadPending (path : Path)
  /-- BIND_READ_ACTIVE (R418). STM_BIND_CMD 0x4 reads an active table entry into staging. -/
  | bindReadActive (path : Path)
  /-- BIND_APPLY (R418). STM_BIND_CMD 0x5 checks and applies the pending table at once outside Growing. -/
  | bindApply (path : Path)
  /-- BIND_CANCEL (R418). STM_BIND_CMD 0x6 cancels an armed binding commit. -/
  | bindCancel (path : Path)
  /-- BIND_COMMIT_ARM (R418). A write of STM_BIND_COMMIT_HI arms a binding commit, or refuses it with code 0x3. -/
  | bindCommitArm (path : Path) (value : Word)
  /-- BIND_COMMIT_HORIZON (R418). At the commit horizon the pending table is checked and becomes active, or the commit is refused. -/
  | bindCommitHorizon
  /-- QUAR_CLEAR_ENTRY (R419). STM_QUAR_CMD bit 0 clears the selected quarantine entry. -/
  | quarClearEntry (path : Path)
  /-- QUAR_CLEAR_ALL (R419). STM_QUAR_CMD bit 1 clears every quarantine entry. -/
  | quarClearAll (path : Path)
  /-- TX_BLOCK (R395). A transmitter forms the next block, chooses the first fitting seed and stuffs it to 1,032 line bits. -/
  | txBlock (lane : Fin 80)
  /-- TRAIN_COMPLETE (R399). Both sides are ready and an agreed rate is found, so the lane leaves Train. -/
  | trainComplete (lane : Fin 80)
  /-- TRAIN_TIMEOUT (R399). Train exceeds 10 ms and the lane returns to Detect. -/
  | trainTimeout (lane : Fin 80)
  /-- RATE_STEP_DONE (R399). After the step blocks the lane locks at the next rate, or the step fails. -/
  | rateStepDone (lane : Fin 80) (locked : Bool)
  /-- VERIFY_COMPLETE (R399). The lane has received 65,536 training blocks without failure at a rate, or has failed verification there. -/
  | verifyComplete (lane : Fin 80)
  /-- LANE_LOCK_LOSS_TIMEOUT (R399). An Up lane stays without lock for 5 ms and restarts bring-up. -/
  | laneLockLossTimeout (lane : Fin 80)
  /-- LNK_RETRAIN (R399). A write of 1 to LNK_CTL.RETRAIN restarts the lane's bring-up. -/
  | lnkRetrain (path : Path) (lane : Fin 80)
  /-- PRBS_TEST (R408). A write of 1 to LNK_CTL.PRBS_TEST starts the lane's PRBS31 self-test outside Growing. -/
  | prbsTest (path : Path) (lane : Fin 80)
  /-- PRBS_TEST_DONE (R408). The PRBS31 test over 2^32 bits ends, which sets PRBS_DONE and, on error, PRBS_FAIL. -/
  | prbsTestDone (lane : Fin 80) (errors : Nat)
  /-- EYE_POINT_START (R407). A write of LNK_EYE_CTL.START begins one eye scan point on the selected lane. -/
  | eyePointStart (path : Path) (value : Word)
  /-- EYE_POINT_DONE (R407). An eye scan point finishes or is aborted, which sets DONE. -/
  | eyePointDone (errors : Word) (bits : U64)
  /-- PEAK_STEP (R406). Every 1,024 blocks the peaking code in force moves one step toward PEAK. -/
  | peakStep (lane : Fin 80)
  /-- DEC_SPARE_SWITCH (R429). After the next horizon boundary a failed decision lane's blocks move to the quad's spare. -/
  | decSpareSwitch
  /-- PTP_MESSAGE (R480). An IEEE 1588 message is received on a timing port, time-stamped and processed by the servo. -/
  | ptpMessage (domain : Fin 2) (msg : PtpMsg)
  /-- HOLDOVER_ENTRY (R482). Three announce intervals pass without Sync and the domain enters holdover. -/
  | holdoverEntry (domain : Fin 2)
  /-- RATE_CHANGE (R479). A domain's rate changes at one counter value, with offset compensation for continuity. -/
  | rateChange (domain : Fin 2) (rate : Word)
  /-- TIME_STEP (R479). A step is applied to a domain's offset, or handled as a jump. -/
  | timeStep (domain : Fin 2) (ns : Int)
  /-- JUMP_ACCEPT (R488). A write of 1 to TIM_CTL.JUMP_ACCEPT applies the pending step once. -/
  | jumpAccept (path : Path)
  /-- SWITCH_REQUEST (R486). A write to TIM_CTL.SEL requests a switch of the record time domain. -/
  | switchRequest (path : Path) (sel : Fin 2)
  /-- DOMAIN_SWITCH (R486). At the first whole second of the new domain the switch takes effect and EVENT 0x0703 is written. -/
  | domainSwitch
  /-- PPS_EDGE (R489). A 1 PPS rising edge is stamped and checked against a whole second. -/
  | ppsEdge
  /-- PPS_MISSING (R489). No 1 PPS edge arrives within 1.5 s, so PPS_MISS is set. -/
  | ppsMissing
  /-- BURN_ORDER (R373). SEC_CMD 0x2 checks the burn order in the buffer and starts burning its target. -/
  | burnOrder (path : Path)
  /-- BURN_COMPLETE (R373). The burn and read-back finish, which sets DONE and RESULT. -/
  | burnComplete (good : Bool)
  /-- ATTEST (R385). SEC_CMD 0x1 latches the nonce and starts forming a signed attestation statement. -/
  | attest (path : Path)
  /-- ATTEST_COMPLETE (R385). The attestation statement is signed and DONE is set. -/
  | attestComplete
  /-- PRIVATE_JTAG (R371). A private JTAG instruction is used while DEBUG_LOCK is clear, setting DEBUG_USED and writing EVENT 0x0104 on first use. -/
  | privateJtag
  /-- MGT_TRANSACTION (R532). A management port transaction addresses the register space and reads or writes words. -/
  | mgtTransaction (bytes : List Byte) (reads : Nat)
  /-- READ_CLEAR (R534). A read of an RC field returns and clears its value for every path. -/
  | readClear (path : Path) (addr : Word)
  /-- LEADING_REGISTER_READ (R535). A read of a group's leading register loads that path's latch with the other registers. -/
  | leadingRegisterRead (path : Path) (addr : Word)
  /-- REGISTER_WRITE (R533). A write to a register without a row of its own stores its fields under its access codes. -/
  | registerWrite (path : Path) (addr : Word) (value : Word)
  /-- FLASH_DIRECTORY_READ (R379). Cold Waking step 3 finishes its SFDP discovery of FL0 and FL1 and its directory check, halting the Waking with boot code 0x02 or 0x03 or starting the firmware read of step 4. -/
  | flashDirectoryRead
deriving DecidableEq, Repr, Inhabited

end Sys2Proof
end

