-- ==== Sys2Proof/WellFormed.lean ====
section
/-!
DEFINITION. Which commands are well formed: the operands that the spec bounds and a type does not.
-/
namespace Sys2Proof

/-- A temperature fits THM_TEMP, 16 bits in 1/16 °C (Table 19.10). -/
def tempOk (t : Int) : Bool := decide (-32768 ≤ t ∧ t < 32768)

/-- A silt word that is written holds sixteen 32-bit elements (R215, R220). -/
def siltDataOk (data : List Word) : Bool := decide (data.length = 16)

/-- The data of an access of port 0. -/
def siltAccessOk : SiltAccess → Bool
  | .read => true
  | .write data | .add _ data | .swap _ data => siltDataOk data

/-- A message carries at most 65,536 payload bytes (R462). -/
def messageOk (payload : List Byte) : Bool := decide (payload.length ≤ 65536)

/-- The command is well formed: item lengths (R414), temperatures (R524), ring frames and cells (R438, R440), host cells and messages (R458,
R462), grain windows (Table 20.2), lane self-tests (R408), time steps (R479), digests (R310). -/
def Instr.wellFormed : Instr → Bool
  | .mainRailsValid temps => temps.toList.all tempOk
  | .dramInitDone => true
  | .firmwareLoadComplete => true
  | .imageLoadComplete => true
  | .mainRailsLost => true
  | .brownOut => true
  | .pwrMainEnLow => true
  | .rstWarmNAssert => true
  | .rstWarmNRelease => true
  | .vstbyLost => true
  | .topWarmReset _ => true
  | .drainComplete => true
  | .warmWakingComplete _ _ => true
  | .firmwareWatchdogExpiry => true
  | .thermalTrip _ temp => tempOk temp
  | .tripGating => true
  | .criticalShutdown _ temp => tempOk temp
  | .thermalWarning _ temp => tempOk temp
  | .dramStackHot _ temp => tempOk temp
  | .powerMeasurement _ _ _ _ => true
  | .powerAlarm => true
  | .pllUnlock _ => true
  | .idleTimerExpiry => true
  | .fallowNow _ => true
  | .fallowAbort _ => true
  | .fallowEntryComplete => true
  | .mgtAddressMatch _ _ => true
  | .hostWake _ => true
  | .restoreComplete => true
  | .tick _ _ => true
  | .tickLoss => true
  | .flywheelTick => true
  | .tickPeriodMeasured _ => true
  | .acceptanceResume => true
  | .presetArm _ => true
  | .presetApply => true
  | .launchCommit _ _ => true
  | .launch => true
  | .laneBlockReceived _ _ => true
  | .frameItem _ _ _ payload _ _ _ => decide (8 ≤ payload.length ∧ payload.length ≤ 512 ∧ payload.length % 8 = 0)
  | .summaryItem _ _ _ body _ _ => decide (8 ≤ body.length ∧ body.length ≤ 512 ∧ body.length % 8 = 0)
  | .frameEntry _ _ _ _ => true
  | .bedExit _ _ _ _ => true
  | .verdictOutput _ _ _ _ _ => true
  | .streamRingEntryWrite _ _ _ => true
  | .settledAnswer _ _ _ _ _ => true
  | .settledRelease _ _ _ => true
  | .slabClose _ _ _ => true
  | .contextPackageWrite _ _ _ _ _ _ _ => true
  | .warmingStart _ => true
  | .warmingEnd _ => true
  | .engineReset _ _ => true
  | .checkpointHorizon _ => true
  | .checkpointComplete _ => true
  | .spillUnit _ _ _ _ _ => true
  | .dramRefresh _ _ _ => true
  | .dramTransactionBoundary _ _ _ => true
  | .siltMoverRetry _ busy => siltAccessOk busy.port0 && busy.write.all siltDataOk
  | .siltColumnRepairDone _ _ => true
  | .looseWrite _ _ => true
  | .modeChange => true
  | .recordEntry _ _ _ => true
  | .recordHoldRelease => true
  | .sealClose => true
  | .sealNow _ => true
  | .sealSigned _ => true
  | .mirrorAck _ => true
  | .mirrorTimeout => true
  | .orphanTailForward _ => true
  | .selfTestComplete _ _ _ => true
  | .spareColumnLoaded _ => true
  | .spareColumnSwitch _ => true
  | .ringFrameReceived _ _ slots => decide (slots.length = 20) && slots.all (fun b => decide (b.length = 32))
  | .elasticCellReceived _ cell => decide (cell.length = 336)
  | .elasticRetransmit _ => true
  | .combiningSlot _ _ _ => true
  | .ringLinkDown _ => true
  | .reroute => true
  | .leadTakeover => true
  | .ringHello _ _ _ _ _ => true
  | .launchMessage _ _ _ => true
  | .launchConfirmDeadline => true
  | .roleChangeMessage _ => true
  | .lckEn _ _ => true
  | .lckStartCommit _ _ => true
  | .lckStart partner => decide (partner.imageDigest.length = 64 ∧ partner.keyDigest.length = 64)
  | .lckWindowClose _ _ => true
  | .lckPartnerDigest _ _ => true
  | .lckFreezeMessage => true
  | .lckLocateDone _ _ => true
  | .lckSnapshot => true
  | .lckFreeze _ => true
  | .lckRearm _ => true
  | .lckCaptureGap _ => true
  | .bedSelftest _ _ => true
  | .mirrorRelease _ _ _ => true
  | .mirrorReleaseBoundary => true
  | .mirrorRejoinLoaded _ => true
  | .corrArm _ _ _ => true
  | .corrCommit _ => true
  | .corrCancel _ _ => true
  | .grnSnapshotStatus _ => true
  | .grnMacScan _ => true
  | .grnBankMarch _ => true
  | .grnTestDone _ => true
  | .grnWindowWrite _ addr _ => decide (addr.toNat % 4 = 0 ∧ 0x100000 ≤ addr.toNat ∧ addr.toNat < 0x104100)
  | .sowBegin _ _ => true
  | .sowData _ _ payload => messageOk payload
  | .sowEnd _ => true
  | .regRead _ _ => true
  | .regWrite _ _ payload => messageOk payload
  | .flashErase _ _ _ => true
  | .flashProgram _ _ payload _ => messageOk payload
  | .flashRead _ _ => true
  | .recAck _ _ _ => true
  | .captureRead _ _ => true
  | .coldWrite _ _ payload => messageOk payload
  | .linkMessage _ _ => true
  | .hostCellReceived _ cell => decide (cell.length = 127)
  | .hostRetransmit => true
  | .hostLinkUp => true
  | .hostLinkDown => true
  | .linkReset _ => true
  | .flashRestart _ => true
  | .rotLoad _ => true
  | .rotLoadComplete => true
  | .rotArm _ _ => true
  | .rotCancel _ => true
  | .rotChangeHorizon => true
  | .oldBedIdle _ => true
  | .stagedImageCopyDone => true
  | .ucVerify _ => true
  | .ucArm _ => true
  | .ucCancel _ => true
  | .ucSwap => true
  | .bindCopyActive _ => true
  | .bindWriteEntry _ => true
  | .bindReadPending _ => true
  | .bindReadActive _ => true
  | .bindApply _ => true
  | .bindCancel _ => true
  | .bindCommitArm _ _ => true
  | .bindCommitHorizon => true
  | .quarClearEntry _ => true
  | .quarClearAll _ => true
  | .txBlock _ => true
  | .trainComplete _ => true
  | .trainTimeout _ => true
  | .rateStepDone _ _ => true
  | .verifyComplete _ => true
  | .laneLockLossTimeout _ => true
  | .lnkRetrain _ _ => true
  | .prbsTest _ _ => true
  | .prbsTestDone _ errors => decide (errors ≤ 2 ^ 32)
  | .eyePointStart _ _ => true
  | .eyePointDone _ _ => true
  | .peakStep _ => true
  | .decSpareSwitch => true
  | .ptpMessage _ _ => true
  | .holdoverEntry _ => true
  | .rateChange _ _ => true
  | .timeStep _ ns => decide (-(2 ^ 63) ≤ ns ∧ ns < 2 ^ 63)
  | .jumpAccept _ => true
  | .switchRequest _ _ => true
  | .domainSwitch => true
  | .ppsEdge => true
  | .ppsMissing => true
  | .burnOrder _ => true
  | .burnComplete _ => true
  | .attest _ => true
  | .attestComplete => true
  | .privateJtag => true
  | .mgtTransaction _ _ => true
  | .readClear _ _ => true
  | .leadingRegisterRead _ _ => true
  | .registerWrite _ _ _ => true
  | .flashDirectoryRead => true

end Sys2Proof
end

