-- ==== Sys2Proof/Decode.lean ====
section
/-!
DEFINITION. The commands that the table's words spell. No row of spec/opcode_table.json gives bits: the commands are events and accesses, not
instruction words, so no word spells one.
-/
namespace Sys2Proof

/-- The command that a word of the opcode table spells: the table gives no bits, so none. -/
def decodeTableWord (_nbits _w : Nat) : Option Instr := none

end Sys2Proof
end

