-- ==== Sys2Proof/Machine/Crypto.lean ====
section
/-!
DEFINITION. The checks over bytes that the spec names: CRC-64 exactly as crc64() (R323), CRC-32 (R366), SHA-512 and the
RSASSA-PKCS1-v1_5 verification of RFC 8017 (R334, R372, R381). SHA-512 is taken from FIPS 180-4 and PKCS #1 from
RFC 8017: PRESUMED, unsafe (log entry 6): the spec names both and prints neither.
-/
namespace Sys2Proof.Machine

/-- One bit of a reflected CRC with the given polynomial. -/
def crcBit (poly c : Nat) : Nat :=
  if c % 2 = 1 then Nat.xor (c / 2) poly else c / 2

/-- One byte of a reflected CRC. -/
def crcByte (poly c : Nat) (b : Byte) : Nat :=
  (List.range 8).foldl (fun x _ => crcBit poly x) (Nat.xor c b.toNat)

/-- CRC-64 of R323: polynomial 0x42F0_E1EB_A9EA_3693 reflected, initial value and final XOR all ones. -/
def crc64 (bs : List Byte) : Nat :=
  Nat.xor (bs.foldl (crcByte 0xC96C5795D7870F42) 0xFFFFFFFFFFFFFFFF) 0xFFFFFFFFFFFFFFFF

/-- CRC-32 of R366: polynomial 0xEDB8_8320 reflected, initial value and final XOR all ones. -/
def crc32 (bs : List Byte) : Nat :=
  Nat.xor (bs.foldl (crcByte 0xEDB88320) 0xFFFFFFFF) 0xFFFFFFFF

/-- The 64-bit words of a number of `n` words, the most significant first. -/
def wordsOf : Nat → Nat → List Nat
  | 0, _ => []
  | n + 1, x => wordsOf n (x / 2 ^ 64) ++ [x % 2 ^ 64]

/-- The 80 round constants of SHA-512, eight to a number (FIPS 180-4). -/
def sha512K : List Nat := ([
  0x428a2f98d728ae227137449123ef65cdb5c0fbcfec4d3b2fe9b5dba58189dbbc3956c25bf348b53859f111f1b605d019923f82a4af194f9bab1c5ed5da6d8118,
  0xd807aa98a303024212835b0145706fbe243185be4ee4b28c550c7dc3d5ffb4e272be5d74f27b896f80deb1fe3b1696b19bdc06a725c71235c19bf174cf692694,
  0xe49b69c19ef14ad2efbe4786384f25e30fc19dc68b8cd5b5240ca1cc77ac9c652de92c6f592b02754a7484aa6ea6e4835cb0a9dcbd41fbd476f988da831153b5,
  0x983e5152ee66dfaba831c66d2db43210b00327c898fb213fbf597fc7beef0ee4c6e00bf33da88fc2d5a79147930aa72506ca6351e003826f142929670a0e6e70,
  0x27b70a8546d22ffc2e1b21385c26c9264d2c6dfc5ac42aed53380d139d95b3df650a73548baf63de766a0abb3c77b2a881c2c92e47edaee692722c851482353b,
  0xa2bfe8a14cf10364a81a664bbc423001c24b8b70d0f89791c76c51a30654be30d192e819d6ef5218d69906245565a910f40e35855771202a106aa07032bbd1b8,
  0x19a4c116b8d2d0c81e376c085141ab532748774cdf8eeb9934b0bcb5e19b48a8391c0cb3c5c95a634ed8aa4ae3418acb5b9cca4f7763e373682e6ff3d6b2b8a3,
  0x748f82ee5defb2fc78a5636f43172f6084c87814a1f0ab728cc702081a6439ec90befffa23631e28a4506cebde82bde9bef9a3f7b2c67915c67178f2e372532b,
  0xca273eceea26619cd186b8c721c0c207eada7dd6cde0eb1ef57d4f7fee6ed17806f067aa72176fba0a637dc5a2c898a6113f9804bef90dae1b710b35131c471b,
  0x28db77f523047d8432caab7b40c724933c9ebe0a15c9bebc431d67c49c100d4c4cc5d4becb3e42b6597f299cfc657e2a5fcb6fab3ad6faec6c44198c4a475817] : List Nat).flatMap (wordsOf 8)

/-- The words that the hash starts from (FIPS 180-4). -/
def sha512Init : List Nat := wordsOf 8
  0x6a09e667f3bcc908bb67ae8584caa73b3c6ef372fe94f82ba54ff53a5f1d36f1510e527fade682d19b05688c2b3e6c1f1f83d9abfb41bd6b5be0cd19137e2179

/-- Exclusive or of a 64-bit word's right rotations by the amounts given. -/
def turns (x : Nat) (amounts : List Nat) : Nat :=
  amounts.foldl (fun acc n => Nat.xor acc ((x + x * 2 ^ 64) / 2 ^ n % 2 ^ 64)) 0

/-- One round over the eight working words, given the sum of the schedule word and the round constant (FIPS 180-4). The word that a round
makes goes in front of the others; the last one falls off. -/
def shaRound (v : List Nat) (kw : Nat) : List Nat :=
  let word := fun i => v.getD i 0
  let chosen := Nat.xor (word 6) (Nat.land (word 4) (Nat.xor (word 5) (word 6)))
  let most := Nat.lor (Nat.land (word 0) (word 1)) (Nat.land (word 2) (Nat.lor (word 0) (word 1)))
  let sum := word 7 + turns (word 4) [14, 18, 41] + chosen + kw
  let front := (sum + turns (word 0) [28, 34, 39] + most) % 2 ^ 64
  (front :: v.take 3) ++ ((word 3 + sum) % 2 ^ 64 :: (v.drop 4).take 3)

/-- The schedule word that follows sixteen, oldest first (FIPS 180-4). -/
def shaNextW (w : List Nat) : Nat :=
  let early := w.getD 1 0
  let late := w.getD 14 0
  (w.getD 0 0 + Nat.xor (turns early [1, 8]) (early / 2 ^ 7) + w.getD 9 0 + Nat.xor (turns late [19, 61]) (late / 2 ^ 6)) % 2 ^ 64

/-- Run the rounds with constants `ks` over the sliding sixteen schedule words. -/
def shaRounds : List Nat → List Nat → List Nat → List Nat
  | [], _, v => v
  | k :: ks, w, v => shaRounds ks (w.drop 1 ++ [shaNextW w]) (shaRound v ((k + w.getD 0 0) % 2 ^ 64))

/-- Compress one 128-byte block. -/
def shaBlock (h : List Nat) (blk : List Byte) : List Nat :=
  let w := (List.range 16).map (fun i => beNat ((blk.drop (8 * i)).take 8))
  List.zipWith (fun x y => (x + y) % 2 ^ 64) h (shaRounds sha512K w h)

/-- The padded message of FIPS 180-4. -/
def shaPad (bs : List Byte) : List Byte :=
  let n := bs.length
  bs ++ [0x80] ++ zeroBytes ((239 - n % 128) % 128) ++ beBytes 16 (8 * n)

/-- Compress `n` blocks. -/
def shaBlocks : Nat → List Byte → List Nat → List Nat
  | 0, _, h => h
  | n + 1, bs, h => shaBlocks n (bs.drop 128) (shaBlock h (bs.take 128))

/-- SHA-512 of a byte string, 64 bytes in the standard output order (R328). -/
def sha512 (bs : List Byte) : List Byte :=
  let p := shaPad bs
  (shaBlocks (p.length / 128) p sha512Init).flatMap (beBytes 8)

/-- `b ^ e mod m` by repeated squaring over the bits of `e` (fuel: the number of bits). -/
def powMod (m : Nat) : Nat → Nat → Nat → Nat
  | 0, _, _ => 1 % m
  | fuel + 1, b, e =>
    if e = 0 then 1 % m
    else
      let r := powMod m fuel (b * b % m) (e / 2)
      if e % 2 = 1 then b * r % m else r

/-- The DigestInfo prefix of SHA-512 in PKCS #1 (RFC 8017). -/
def sha512Prefix : List Byte := [0x30, 0x51, 0x30, 0x0D, 0x06, 0x09, 0x60, 0x86, 0x48, 0x01,
  0x65, 0x03, 0x04, 0x02, 0x03, 0x05, 0x00, 0x04, 0x40]

/-- The PKCS #1 v1.5 encoding of a 64-byte digest in 512 bytes. -/
def pkcs1Encode (digest : List Byte) : List Byte :=
  [0x00, 0x01] ++ List.replicate 426 0xFF ++ [0x00] ++ sha512Prefix ++ digest

/-- RSASSA-PKCS1-v1_5 verification with SHA-512 of `digest`, 4,096-bit modulus bytes most significant first. -/
def rsaVerify (modulus : List Byte) (exp : Nat) (digest sig : List Byte) : Bool :=
  let n := beNat modulus
  let s := beNat sig
  decide (n ≠ 0) && decide (s < n) && decide (beBytes 512 (powMod n 33 s exp) = pkcs1Encode digest)

end Sys2Proof.Machine
end

