-- ==== Sys2Proof/Machine/TypesCore.lean ====
section
/-!
DEFINITION. The types of the module-wide state: module states, records, the auger unit, faults, the horizon count,
power, network time and trust. Plain data only.
-/
namespace Sys2Proof.Machine

/-- The seven module states (R26, Table 1.4). -/
inductive ModState where
  | off | waking | unplanted | sown | growing | fallow | halted
deriving DecidableEq, Repr, Inhabited

/-- What took a wake event to the module (R514, PWR_STAT.WAKE_SRC). -/
inductive WakeSrc where
  | management | hostLink | resetPin
deriving DecidableEq, Repr, Inhabited

/-- An entry to Fallow in progress (R508): what arrived since it began. -/
structure FallowEntry where
  /-- a wake event arrived: the next abort point abandons the entry -/
  wake : Bool
  /-- a halt cause arrived: the module enters Halted when the undoing ends -/
  halt : Option Nat
  /-- a warm reset request arrived: the module enters Waking (warm) when the undoing ends -/
  reset : Bool
deriving DecidableEq, Repr, Inhabited

/-- A management transfer held in Fallow until the restore completes (R515). -/
structure MgtHeld where
  bytes : List Byte
  reads : Nat
deriving DecidableEq, Repr, Inhabited

/-- Module control: state, start-up, Fallow, resets, supplies, mode (chapters 1, 12, 19, 21). -/
structure ModCtl where
  /-- module state (R26) -/
  st : ModState
  /-- the Waking in progress is warm (R34) -/
  warm : Bool
  /-- step 2 of the cold Waking has ended (R379) -/
  dramDone : Bool
  /-- step 3 of the cold Waking has ended well (R380) -/
  dirRead : Bool
  /-- step 4 of the cold Waking has ended well, and the firmware runs (R379) -/
  fwOk : Bool
  /-- the boot ROM serves register access after boot codes 0x01 to 0x08 (R380) -/
  bootRom : Bool
  /-- halt cause of the last halt (R345) -/
  haltCause : Nat
  /-- the state left on entry to Fallow (R30) -/
  left : ModState
  /-- entry to Fallow in progress (R508) -/
  entry : Option FallowEntry
  /-- an expiry waits until nothing of R507 is open -/
  expiryWaits : Bool
  /-- FALLOW_NOW was written and acts at the next tick (R507) -/
  fallowNow : Bool
  /-- frames are refused until the first horizon boundary after a wake or an abandoned entry (R33, R510) -/
  wakeHold : Bool
  /-- first checkpoint horizon skipped in Fallow (R512) -/
  fallowCkpt : Option U64
  /-- a drained warm reset is running (R359) -/
  draining : Bool
  /-- RST_WARM_N is low (R555) -/
  rstLow : Bool
  /-- RST_WARM_N holds the module in reset (R555) -/
  rstHeld : Bool
  /-- horizons of the frames that the reset contact has taken out of flight (R339) -/
  lost : List Nat
  /-- a wake event in Fallow starts the restore: its source and when it came (R514, R516) -/
  wakeSrc : Option (WakeSrc × U64)
  /-- a reset from the contact waits for the restore or the end of a burn (R559, R386) -/
  rstWaits : Bool
  /-- a warm reset requested during a burn waits for its end (R386) -/
  resetWaits : Bool
  /-- VSTBY in regulation (R554) -/
  vstby : Bool
  /-- main rails in regulation (R554) -/
  rails : Bool
  /-- PWR_MAIN_EN level (R554) -/
  mainEn : Bool
  /-- the last Off was a critical shutdown (R517) -/
  criticalOff : Bool
  /-- a wake event in Off waits for the rails (R517) -/
  wakeOff : Bool
  /-- THM_TRIP_N asserted (R525) -/
  thmTrip : Bool
  /-- beds and loess engines gated after a trip (R525) -/
  tripGated : Bool
  /-- loose mode in force (R261) -/
  loose : Bool
  /-- records still carry LOOSE up to this horizon after the return to firm mode (R263) -/
  looseTail : Option U64
  /-- the last changes of mode, newest first: the tick from which the mode is in force (R261) -/
  modes : List (U64 × Bool)
  /-- management transfer held in Fallow (R515) -/
  mgtHeld : Option MgtHeld
  /-- SHA-512 of the verified firmware, in bedrock memory (R382) -/
  fwDigest : List Byte
  /-- SHA-512 of the verified image copy, in bedrock memory (R382) -/
  copyDigest : List Byte
  /-- ticks or microseconds of idleness (R32); PWR_IDLE_COUNT shows it -/
  idle : Nat
  /-- nanoseconds towards the next microsecond of the bedrock clock (R32) -/
  idleNs : Nat
  /-- a frame was accepted, or an access arrived, in the current tick (R32) -/
  busyTick : Bool
deriving DecidableEq, Repr, Inhabited

/-- The horizon count and its tick machinery (chapter 2). -/
structure Hz where
  /-- the horizon count (R40) -/
  count : U64
  /-- a tick loss is in force (R42, R43) -/
  loss : Bool
  /-- flywheel ticks counted in the loss in force (R43) -/
  flyTicks : Nat
  /-- ticks have returned; the conditions of R45 are being gathered -/
  returning : Bool
  /-- consecutive ticks within 1,000 ppm since the return, at most 1,024 (R45) -/
  goodRun : Nat
  /-- 1,024 consecutive good ticks have come since the return (R45) -/
  steady : Bool
  /-- a sync pulse at the expected count has been sampled since the return (R45) -/
  syncSince : Bool
  /-- tick loss holds acceptance (R44) -/
  lossHold : Bool
  /-- a preset is armed (R51) -/
  armed : Bool
  /-- the pulse or sync tick that applies the armed preset has come (R51) -/
  due : Bool
  /-- the pending launch horizon (R55); HZN_STAT.LAUNCH_PEND says whether one is pending -/
  launchAt : U64
  /-- HZN_SYNC_OUT level (R47) -/
  syncOut : Bool
  /-- ps between the last ticks, newest first, as far back as an arrival can be judged (R39, R61) -/
  spans : List Nat
deriving DecidableEq, Repr, Inhabited

/-- FRAME record content (Table 10.4). -/
structure FrameBody where
  hzn : U64
  slot : Byte
  phase : Byte
  quick : Verdict
  settled : Verdict
  epoch : BitVec 16
  qCauses : Word
  sCauses : Word
  inputCrc : U64
  imageIndex : BitVec 16
  length : BitVec 16
  lag : Word
  summary : List Byte
  context : List Byte
deriving DecidableEq, Repr, Inhabited

/-- RUN record content (Table 10.5). -/
structure RunBody where
  start : U64
  crc : U64
  count : BitVec 16
  qAccepts : BitVec 16
  slot : Byte
  phase : Byte
  causes : BitVec 16
deriving DecidableEq, Repr, Inhabited

/-- EVENT record content (Table 10.6). `args` are the values of the DATA column of Table 10.7 in its order; `value` is the
32-byte half of the value of a pair (R328). -/
structure EventBody where
  hzn : U64
  code : BitVec 16
  part : Byte
  time : Word
  args : List Nat
  value : List Byte
deriving DecidableEq, Repr, Inhabited

/-- SEAL record content (Table 10.8); the signature is absent until the RSA engine has signed (R334). -/
structure SealBody where
  sealNo : U64
  firstSeq : U64
  sealSeq : U64
  hzn : U64
  ptpSec : U64
  ptpNs : Word
  reason : Nat
  counts : List Nat
  keyId : List Byte
  heads : List (List Byte)
  signature : Option (List Byte)
deriving DecidableEq, Repr, Inhabited

/-- The four record types (Table 10.2). -/
inductive RecBody where
  | frame (b : FrameBody)
  | run (b : RunBody)
  | event (b : EventBody)
  | close (b : SealBody)
deriving DecidableEq, Repr, Inhabited

/-- A record: FLAGS and LANE of its header (Table 10.1) and its content. -/
structure Record where
  flags : BitVec 16
  lane : Byte
  body : RecBody
deriving DecidableEq, Repr, Inhabited

/-- A record in the tail under its sequence number (R318, R336). -/
structure TailRec where
  seq : U64
  record : Record
deriving DecidableEq, Repr, Inhabited

/-- A head snapshot of one lane (R335). -/
structure HeadSnap where
  lane : Nat
  head : List Byte
  nextSeq : U64
  count : Nat
deriving DecidableEq, Repr, Inhabited

/-- An open run of one slot (R325). -/
structure OpenRun where
  flags : BitVec 16
  start : U64
  count : Nat
  qAccepts : Nat
  phase : Byte
  causes : BitVec 16
  crcs : List U64
deriving DecidableEq, Repr, Inhabited

/-- A neighbour's record held in the mirror region (R336, R340). -/
structure MirrorRec where
  serial : U64
  seq : U64
  isSeal : Bool
  bytes : List Byte
deriving DecidableEq, Repr, Inhabited

/-- What the auger unit has for its mirroring neighbour: a numbered record (R336), or the host's acknowledgement of the records below a number
(R338). -/
inductive MirrorOut where
  | record (seq : U64) (bytes : List Byte)
  | ack (next : U64)
deriving DecidableEq, Repr, Inhabited

/-- What a DRAM transaction is for (R210, R214): a store; a read of no loess work item; a settled query's scan, by tick, layout bed and slot; a
scan for the packages of the slot of a stream ring. -/
inductive TxItem where
  | store
  | none
  | query (hzn bed slot : Nat)
  | scan (ring : Nat)
deriving DecidableEq, Repr, Inhabited

/-- A DRAM transaction that waits (R206, R210): its class, bank and row, the 8 KiB block of die-local address that it reaches (none for a row
under test), when it began to wait, the work item that reads by it. -/
structure DramTx where
  cls : Nat
  bank : Nat
  row : Nat
  block : Option Nat
  ns : U64
  item : TxItem
deriving DecidableEq, Repr, Inhabited

/-- A transaction that a unit has asked for and its channel has not taken yet. -/
structure DramJob where
  die : Nat
  chan : Nat
  tx : DramTx
deriving DecidableEq, Repr, Inhabited

/-- The auger unit (chapter 10). -/
structure Aug where
  /-- the unit runs (R27, Table 1.5) -/
  running : Bool
  /-- next sequence number (R318) -/
  nextSeq : U64
  /-- first unacknowledged number (R338) -/
  ack : U64
  /-- first unassigned number (R336) -/
  assigned : U64
  /-- the record tail, oldest first (R320, R341) -/
  tail : List TailRec
  /-- chain heads, 64 bytes each (R330) -/
  heads : Vector (List Byte) 8
  /-- records of each lane since the last seal (R330) -/
  counts : Vector Nat 8
  /-- records of each lane since its last head snapshot (R335) -/
  sinceSnap : Vector Nat 8
  /-- the latest head snapshot of each lane that has one (R335) -/
  snaps : List HeadSnap
  /-- seals closed (R332) -/
  sealNo : U64
  /-- first sequence number of the seal interval (R332) -/
  firstSeq : U64
  /-- reason of a seal close that is due; 0 none (R332) -/
  sealDue : Nat
  /-- open runs, by layout bed × 64 + slot (R325) -/
  runs : Map OpenRun
  /-- last normalisation table logged per layout bed × 64 + slot, after 8 bytes with the checkpoint interval it was logged in (R298) -/
  normLog : Map (List Byte)
  /-- record time of the last timed record, whole ns (R484) -/
  lastTimed : Option U64
  /-- first horizon of the record hold in force (R341) -/
  hold : Option U64
  /-- the neighbour's records in the mirror region (R336, R340) -/
  mirror : List MirrorRec
  /-- what waits to be sent to the mirroring neighbour, oldest first (R336 to R339) -/
  mirrorOut : List MirrorOut
  /-- the neighbour's acknowledgement is overdue: numbers are assigned at tail write (R337) -/
  unmirrored : Bool
  /-- record bytes numbered since the last seal closed (R343, AUG_RATE) -/
  intervalBytes : Nat
  /-- time counter when the last seal closed (R343, AUG_RATE) -/
  intervalStart : U64
  /-- the duplicated numbering logic disagrees: no number is assigned any more (class 0x10, R354) -/
  numberingFailed : Bool
  /-- the RSA engine has a lasting fault: seals wait unsigned (R354) -/
  rsaFailed : Bool
  /-- place in the record tail region of the next record's first byte (R191, R320) -/
  tailAt : Nat
  /-- place in the neighbour's mirror region of the next record's first byte (R191, R336) -/
  mirrorAt : Nat
  /-- rows that the unit has filled in the record tail and the mirror region and that wait for their channels (R210) -/
  jobs : List DramJob
deriving DecidableEq, Repr, Inhabited

/-- One unit of the fault history (R351). -/
structure HistEntry where
  unit : Word
  last : U64
deriving DecidableEq, Repr, Inhabited

/-- A unit under targeted self-test (R349, R351). -/
structure UnitTest where
  unit : Word
  cls : Nat
  hzn : U64
  repeated : Bool
  /-- the test runs again after a Waking (R362) -/
  waits : Bool
  /-- the steering unit whose test this grain takes part in: it ends with that test (R108, Table 11.1) -/
  part : Option Word
deriving DecidableEq, Repr, Inhabited

/-- A unit that touches frames: from the detection to its clearing or retirement (R346). -/
structure Touching where
  unit : Word
  cause : Nat
  hzn : U64
  /-- the boundary of the spare switch: frames of it and later are not touched (R112) -/
  stop : Option U64
deriving DecidableEq, Repr, Inhabited

/-- A divergence capture (Table 11.5); the bank digests are absent until the whole-bed test ends (R356). -/
structure Capture where
  hzn : U64
  slot : Byte
  phase : Byte
  eastBits : BitVec 16
  westBits : BitVec 16
  kind : Nat
  eastSummary : List Byte
  westSummary : List Byte
  eastEntry : List Byte
  westEntry : List Byte
  package : List Byte
  eastBanks : Option (List Byte)
  westBanks : Option (List Byte)
deriving DecidableEq, Repr, Inhabited

/-- A test of both copies of a mirror pair after a disagreement (R355). -/
structure PairTest where
  pair : Nat
  /-- 0 quick, 1 settled -/
  kind : Nat
  /-- captures that wait for the test, oldest first -/
  indices : List Nat
  /-- disagreements met while the test runs (R362) -/
  further : Nat
  hzn : U64
  slot : Byte
deriving DecidableEq, Repr, Inhabited

/-- Fault state (chapter 11). -/
structure Flt where
  /-- the history of 256 units, in bedrock memory (R351) -/
  hist : List HistEntry
  /-- units under test (R349, R351) -/
  tests : List UnitTest
  /-- units touching frames (R346) -/
  touching : List Touching
  /-- pair tests running (R355) -/
  pairTests : List PairTest
  /-- unexplained divergences in the current window, per pair (R357) -/
  divCount : Vector Nat 2
  /-- start of the current divergence window, per pair (R357) -/
  divStart : Vector (Option U64) 2
  /-- the tick of each unit's last detection record (R345) -/
  seen : Map U64
  /-- the boundary of a release that the divergence alarm has ordered, per pair (R357) -/
  alarmRelease : Vector (Option U64) 2
  /-- captures not yet read, by index (R356) -/
  captures : Map Capture
  /-- next capture index (R356) -/
  capNext : Nat
  /-- bridge spare lanes assigned, per direction (R344, Table 11.1) -/
  bridgeSpares : Vector Nat 2
  /-- bridge lanes that move to a spare at a boundary: unit, spare index, boundary (R352) -/
  bridgeDue : List (Word × Nat × U64)
  /-- failed exit copies, per bed: A, B (R353) -/
  exitFailed : Vector (Bool × Bool) 4
  /-- passes over DRAM rows under test, and rewrites of rows given up, that wait for their channels (R210, R349) -/
  jobs : List DramJob
deriving DecidableEq, Repr, Inhabited

/-- A step of a domain (R479). -/
structure Step where
  domain : Fin 2
  ns : Int
deriving DecidableEq, Repr, Inhabited

/-- Network time (chapter 17). -/
structure Tim where
  /-- the time counter C, ns (R477) -/
  c : U64
  /-- offsets O_d, units of 2^−32 ns (R478) -/
  off : Vector (BitVec 96) 2
  /-- consecutive Sync intervals within 100 ns, per domain, at most 16 (R482) -/
  lockRun : Vector Nat 2
  /-- the refused step that waits (R488) -/
  pend : Option Step
  /-- a switch waits for its domain's lock or whole second (R486) -/
  switchTo : Option (Fin 2)
  /-- a step that applies once the switch has taken effect (R487) -/
  afterSwitch : Option Step
  /-- the first step of a domain newly tracked in single mode is not a jump (R490) -/
  firstStep : Bool
  /-- of the last Sync of each domain: its arrival less its departure and correction, ns (R480) -/
  syncDelay : Vector Int 2
  /-- a 1 PPS edge has arrived since PPS_EN or since the last missing edge (R489) -/
  ppsSeen : Bool
deriving DecidableEq, Repr, Inhabited

/-- Sensors and the power budget (R522, R524). -/
structure Pwr where
  /-- sensors 0 to 17, 1/16 °C (R524) -/
  temps : Vector Int 18
  /-- averages in a row at or below 95% of the budget while throttled, ms (R522) -/
  calmMs : Nat
  /-- averages of the throttling in force, ms (R523) -/
  throttleMs : Nat
  /-- the throttling in force has raised its alarm (R523) -/
  alarmed : Bool
  /-- refresh interval halved, per die (R207) -/
  hotRefresh : Vector Bool 2
deriving DecidableEq, Repr, Inhabited

/-- The command the security engine runs. -/
inductive SecCmd where
  /-- a burn order of the given target and index with its payload -/
  | burn (target index : Nat) (payload : List Byte)
  /-- an attestation statement with the nonce latched (R385) -/
  | attest (nonce : List Byte)
deriving DecidableEq, Repr, Inhabited

/-- The hardpan and the security engine (chapter 12). -/
structure Sec where
  /-- the hardpan's bytes (R365); an unprogrammed bit reads 0 -/
  hardpan : Map Byte
  /-- programmed fuses of the three of each revoke and lock bit (R366): 0 to 3 GEN_REVOKE, 4 to 7 SLOT_REVOKE,
  8 FIRM_LOCK, 9 DEBUG_LOCK -/
  fuses : Vector Nat 10
  /-- the shadow sensed at start-up step 1 (R367) -/
  shadow : Map Byte
  /-- targets a burn left bad: generations 0 to 3, slots 4 to 7 (R374) -/
  bad : Vector Bool 8
  /-- generation in force; none: the shipped values under DEFAULTS (R369) -/
  gen : Option Nat
  /-- the order buffer (R388) -/
  order : Map Byte
  /-- the statement buffer (R388) -/
  stmt : Map Byte
  /-- the command that runs (R373, R385) -/
  cmd : Option SecCmd
  /-- a private JTAG session is open (R371) -/
  jtag : Bool
  /-- private JTAG was used since the cold Waking (R371) -/
  debugUsed : Bool
deriving DecidableEq, Repr, Inhabited

/-- One configuration flash socket (R375, R376). -/
structure FlashDev where
  /-- a device with a valid SFDP header is present (R375, R376) -/
  present : Bool
  /-- log2 of the device bytes (R376) -/
  density : Nat
  /-- SFDP minor revision (R376) -/
  sfdpMinor : Nat
  /-- the SFDP tables list the 1-4-4 fast read (R376) -/
  quad : Bool
  /-- the SFDP tables list the 8D-8D-8D read (R376) -/
  octal : Bool
  /-- contents; an erased byte reads 0xFF (R464) -/
  bytes : Map Byte
deriving DecidableEq, Repr, Inhabited

/-- Configuration flash (R375, R464). -/
structure Flash where
  /-- FL0 and FL1 (R375) -/
  dev : Vector FlashDev 2
deriving DecidableEq, Repr, Inhabited

end Sys2Proof.Machine
end

