-- ==== Sys2Proof/Machine/TypesProg.lean ====
section
/-!
DEFINITION. The program an image holds, after its sections have been read: phases, entry orders, the networks of the beds, decision
maps, loess programs, the cascade (chapters 3 to 8, 15). Plain data only.
-/
namespace Sys2Proof.Machine

/-- A query kind of a phase (Table 8.5, lower part). -/
structure QueryKind where
  mask : Nat
  value : Nat
  f : Nat
  dflt : Nat
  cost : Nat
  setWcet : Nat
  program : Nat
deriving DecidableEq, Repr, Inhabited

/-- A PHASE section (Table 8.5). -/
structure Phase where
  id : Nat
  log2II : Nat
  layoutBeds : Nat
  mirrored : Bool
  warmPolicy : Nat
  a : Nat
  earlyTol : Nat
  cap3 : Nat
  cap4 : Nat
  cap5 : Nat
  bedmap : Nat
  q : Nat
  powerBase : Nat
  s : Nat
  d : Nat
  w : Nat
  rate : Nat
  bucketMax : Nat
  looseBacklog : Nat
  histEast : Nat
  histWest : Nat
  ctxWcet : Nat
  kinds : List QueryKind
deriving DecidableEq, Repr, Inhabited

/-- The initiation interval of a phase, in fc (R97). -/
def Phase.ii (p : Phase) : Nat := 2 ^ p.log2II

/-- A normalisation group (Table 4.6). -/
structure NormGroup where
  enable : Bool
  format : BitVec 2
  nshift : BitVec 5
  scaleMin : BitVec 16
  scaleMax : BitVec 16
  offsetMin : BitVec 16
  offsetMax : BitVec 16
deriving DecidableEq, Repr, Inhabited

/-- What stands in one byte of an entry map: a normalised payload element or a context byte (R100, R157). -/
inductive EntrySource where
  | elem (off : Nat) (group : Fin 16)
  | ctx (i : Nat)
deriving DecidableEq, Repr, Inhabited

/-- One byte of an entry map: the west port row, the slot and the byte of the port word that the entry unit drives it onto (R100). -/
structure EntryByte where
  row : Nat
  slot : Nat
  lane : Nat
  src : EntrySource
deriving DecidableEq, Repr, Inhabited

/-- A stream slot of an entry order (R58, Table 8.3 ENTRY). -/
structure SlotProg where
  slot : Nat
  length : Nat
  absentPolicy : Nat
  corruptPolicy : Nat
  tallyP : Nat
  map : List EntryByte
deriving DecidableEq, Repr, Inhabited

/-- The ENTRY section of a phase: an entry order per layout bed and the 16 normalisation groups. -/
structure EntrySection where
  orders : List (List SlotProg)
  groups : Vector NormGroup 16
deriving DecidableEq, Repr, Inhabited

/-- One line of the decision map: layout bed, kind (0 quick, 1 settled), logical lanes (R426). -/
structure DecLine where
  bed : Nat
  kind : Nat
  lanes : List Nat
deriving DecidableEq, Repr, Inhabited

/-- The compiled default of a part (R348): a span input, a merge part or a bed part. -/
structure PartDefault where
  part : Nat
  bits : Nat
  values : List Int
deriving DecidableEq, Repr, Inhabited

/-- The DECISION section of a phase: decision map, substitute bits per cause 0 to 7, disagreement bits, default summary, part
defaults (Table 8.3, R103, R348). -/
structure DecisionSection where
  map : List DecLine
  subst : List Nat
  disagree : Nat
  summary : List Int
  parts : List PartDefault
deriving DecidableEq, Repr, Inhabited

/-- The SEEDS section of a phase (R183, R288). -/
structure Keys where
  rounding : Nat
  tally : Nat
  marl : Nat
deriving DecidableEq, Repr, Inhabited

/-- Seed and default package of one layout bed and slot, 128 bytes each (Table 8.3 CONTEXT). -/
structure SlotContext where
  bed : Nat
  slot : Nat
  seed : List Byte
  dflt : List Byte
deriving DecidableEq, Repr, Inhabited

/-! The fabric of a bed. Every instant is an fc of the frame's own schedule, counted from the fc in which the entry unit drives slot 0 of the
frame, on the signature that the tool chain assumed; the ledger restores those instants on the silicon (R284; log entry 107). -/

/-- A port word: 64 data bits with the 24-bit sideband of Table 3.5 (R90). -/
structure PortWord where
  data : BitVec 64
  side : BitVec 24
deriving DecidableEq, Repr, Inhabited

/-- Where an operation of a grain takes elements from. -/
inductive Source where
  /-- the words that the compute input select takes from its ports, in the receive registers at an fc (R92, stages P1 and P2) -/
  | ports (fc : Nat)
  /-- bytes of the staging region, by their bank offset (Table 3.4) -/
  | staged (off len : Nat)
deriving DecidableEq, Repr, Inhabited

/-- Elements that an operation takes: their source, the table slot of graded codes (R138 to R140), the zero point of their tensor (R133),
and the VALID value that the schedule expects of their words; none where a steering unit decides it (R95, R106). -/
structure Take where
  src : Source
  graded : Option (Fin 8)
  zp : BitVec 8
  valid : Option Bool
deriving DecidableEq, Repr, Inhabited

/-- One step of a grain on a MAC path, for all its rows (R165). -/
inductive MacStep where
  /-- an input vector of 16 elements, with the weights of one fc: slots 128 × word on, 16 for each row (R98, R166, R167) -/
  | vec (inp : List Take) (word : Nat)
  /-- the group closes: bank offset of each row's scale word (R168 to R170) -/
  | close (scales : List Nat)
  /-- a residual entry of one row: an element of a word, its scale word (R172) -/
  | residual (row : Nat) (inp : Take) (elem scaleAt : Nat)
deriving DecidableEq, Repr, Inhabited

/-- One of the 8 MAC rows: its row descriptor word (Table 5.2), the table slot of graded weights, the bank offset of its row offset word in
the chain's first grain (R171). -/
structure MacRow where
  desc : Nat
  graded : Option (Fin 8)
  offsetAt : Nat
deriving DecidableEq, Repr, Inhabited

/-- An operation of a grain. -/
inductive GrainOp where
  /-- a grain of an accumulation chain; `west` is the fc in which the link words of the western grain arrive, none in the chain's first
  grain (R85, R171) -/
  | mac (rows : List MacRow) (west : Option Nat) (steps : List MacStep)
  /-- marl transform of a staged vector, with its descriptor word (R147, R150) -/
  | marl (inp : List Take) (desc : Nat)
  /-- threshold of 16 elements: a 16-bit mask (Table 5.4) -/
  | threshold (inp : List Take) (t : BitVec 8)
  /-- sliding window sums (Table 5.4) -/
  | window (inp : List Take) (w wsh : Nat)
  /-- local maxima of the grain's word over the words on its four neighbour ports at some fc (Table 5.4, R84) -/
  | localMax (inp : List Take) (fcs : List Nat)
  /-- sort of 16 elements (Table 5.4) -/
  | sort (inp : List Take)
  /-- merge of two sorted lists, keeping k (Table 5.4) -/
  | merge (x y : List Take) (k : Nat)
  /-- words gathered at a meeting point or into staging (R94) -/
  | move (inp : List Take)
deriving DecidableEq, Repr, Inhabited

/-- Where the outputs of an operation go: the compute output, one word an fc; the staging region; or, of a MAC grain that narrows nothing,
the accumulation link to the east (R85). -/
inductive GrainOut where
  | port (fc : Nat)
  | stage (off : Nat)
  | link (fc : Nat)
deriving DecidableEq, Repr, Inhabited

/-- One entry of a grain's schedule: operation, grading encoder with its table slot and mode (R138, R141, R142), zero point of the output
tensor (R133), place of the outputs. -/
structure GrainStep where
  grain : Nat
  op : GrainOp
  encode : Option (Fin 8 × Bool)
  zp : BitVec 8
  out : GrainOut
deriving DecidableEq, Repr, Inhabited

/-- A destination of a steering unit (R105). -/
inductive SteerDest where
  | exit
  | edge (row : Nat)
  | span (port : Fin 8)
  | discard
deriving DecidableEq, Repr, Inhabited

/-- A steering unit's table: nominal slot, maximum skew K, data words per tag, the row whose east port carries the token, and the four-entry
destination table (R105 to R107). -/
structure Steering where
  row : Nat
  nominal : Nat
  skew : Nat
  words : Nat
  token : Nat
  dests : Vector SteerDest 4
deriving DecidableEq, Repr, Inhabited

/-- One entry of a bed's schedule, in the image's order. -/
inductive BedStep where
  | grain (g : GrainStep)
  | steer (u : Steering)
deriving DecidableEq, Repr, Inhabited

/-- A route table entry: source, tap, ledger mark (R92, Table 3.18). -/
structure Route where
  grain : Nat
  port : Nat
  slot : Nat
  source : Nat
  tap : Nat
  ledger : Bool
deriving DecidableEq, Repr, Inhabited

/-- An entry of a grain's compute input select: the ports whose words it takes in a slot, as SOURCE numbers them (R92, Table 3.18). -/
structure Select where
  grain : Nat
  slot : Nat
  ports : List Nat
deriving DecidableEq, Repr, Inhabited

/-- What a bank region holds (Table 3.4). -/
inductive RegionKind where
  | weights | scales | tables | staging
deriving DecidableEq, Repr, Inhabited

/-- One bank region of a grain (R86, Table 3.4). -/
structure Region where
  grain : Nat
  kind : RegionKind
  off : Nat
  size : Nat
deriving DecidableEq, Repr, Inhabited

/-- Table slots of a grain: bank offsets of its grading tables, slots 0 to 7, and of its activation tables, slots 0 to 3 (R138, R177). -/
structure GrainTables where
  grain : Nat
  grading : List Nat
  act : List Nat
deriving DecidableEq, Repr, Inhabited

/-- A row whose words the exit unit takes as summary elements, with their compiled slots (R103). -/
structure SummaryRow where
  row : Nat
  fcs : List Nat
deriving DecidableEq, Repr, Inhabited

/-- The exit tables: verdict row, its compiled slot, the VALID value expected there, and the summary rows (R103). -/
structure ExitTable where
  row : Nat
  fc : Nat
  valid : Option Bool
  summary : List SummaryRow
deriving DecidableEq, Repr, Inhabited

/-- A word that leaves a span port: port, slot, target layout bed, part number (R122, R348). -/
structure SpanOut where
  port : Fin 8
  fc : Nat
  target : Nat
  part : Nat
deriving DecidableEq, Repr, Inhabited

/-- What a VARIANT section holds beside its header (R279): grain banks and their regions, table slots, route tables, compute input selects,
schedules, exit tables, span outputs. Grain g is row g / 64, logical column g % 64. -/
structure Network where
  /-- bank bytes, keyed grain × 16384 + offset -/
  banks : Map Byte
  regions : List Region
  tables : List GrainTables
  routes : List Route
  selects : List Select
  steps : List BedStep
  exit : ExitTable
  spans : List SpanOut
deriving DecidableEq, Repr, Inhabited

/-- What a grain record holds after its bank image (R279): its length in bytes, bank regions, table slots, route tables, and its schedule, each
entry with the fc in which it starts. -/
structure GrainRecord where
  size : Nat
  regions : List Region
  tables : List GrainTables
  routes : List Route
  selects : List Select
  steps : List (Nat × GrainStep)
deriving DecidableEq, Repr, Inhabited

/-- The exit tables and the steering units' tables of a VARIANT section (R279), a unit's with the fc in which it acts. -/
structure BedTables where
  exit : ExitTable
  spans : List SpanOut
  steering : List (Nat × Steering)
deriving DecidableEq, Repr, Inhabited

/-- A VARIANT section (Table 8.6) with its LEDGER (Table 8.7) already read beside it. -/
structure Variant where
  phase : Nat
  layoutBed : Nat
  u : Nat
  bedLat : Nat
  powerFabric : Nat
  net : Network
deriving DecidableEq, Repr, Inhabited

/-- Aggregate of a WINDOW stage (Table 7.2). -/
inductive Agg where
  | sum | max | min | count
deriving DecidableEq, Repr, Inhabited

/-- A source of ring data: a stream ring (layout bed × 64 + slot) and element (16 is ACCEPT), or a channel group and index (R234); `own`
names the stream ring of the slot that the program serves. -/
structure RingElem where
  stream : Bool
  ring : Nat
  elem : Nat
  own : Bool
deriving DecidableEq, Repr, Inhabited

/-- The ring that a source names in a program that serves stream ring `self`. -/
def RingElem.at_ (r : RingElem) (self : Nat) : Nat := if r.stream && r.own then self else r.ring

/-- An input of a PROJECT stage (R236): a ring entry at an age, a window result or state element through a scale word, or an
element of an earlier projection. -/
inductive StageIn where
  | entry (r : RingElem) (age : Nat)
  | window (stage : Nat) (agg : Agg) (m e : Nat)
  | state (stage elem m e : Nat)
  | project (stage elem : Nat)
deriving DecidableEq, Repr, Inhabited

/-- An int32 value that a NORM or VERDICT stage reads. -/
inductive StageRef where
  | window (stage : Nat) (agg : Agg)
  | state (stage elem : Nat)
  | project (stage elem : Nat)
deriving DecidableEq, Repr, Inhabited

/-- A loess stage (Table 7.2). -/
inductive Stage where
  | window (r : RingElem) (lo hi : Nat)
  /-- weights per output, scale words, width 8 or 32, place in the package of the first output of a read-out stage -/
  | project (ins : List StageIn) (w : List (List Int)) (sw : List (Nat × Nat)) (bits : Nat) (readout : Option Nat)
  /-- the projection it takes its inputs from, decays, initial states; a channel recurrence names its group -/
  | recur (project : Nat) (decay : List Nat) (init : List Int) (group : Option Nat)
  | norm (level spread : StageRef) (lsh : Nat) (table : List Nat) (group : Nat)
  | verdict (scores : List StageRef) (t p : List Int)
  /-- a stage of a kind outside Table 7.2 -/
  | other (kind : Nat)
deriving DecidableEq, Repr, Inhabited

/-- An access of a scan lane to a silt word, with the int32 values that it writes or adds, element by element (R216, R220). -/
inductive LaneOp where
  | read
  | write (vals : List StageRef)
  | add (mask : BitVec 16) (vals : List StageRef)
  | swap (mask : BitVec 16) (vals : List StageRef)
deriving DecidableEq, Repr, Inhabited

/-- A scan lane's access in one engine cycle of a work item (R216, R221). -/
structure LaneAccess where
  lane : Nat
  bank : Nat
  word : Nat
  op : LaneOp
deriving DecidableEq, Repr, Inhabited

/-- A word region of the silt map, a block of one bank, and its owner (R217). -/
structure SiltRegion where
  bank : Nat
  first : Nat
  words : Nat
  mover : Bool
deriving DecidableEq, Repr, Inhabited

/-- A context program of one stream ring of the die (layout bed × 64 + slot): its stages, and the silt accesses of a work item, cycle by
cycle. -/
structure CtxProg where
  ring : Nat
  stages : List Stage
  silt : List (List LaneAccess)
deriving DecidableEq, Repr, Inhabited

/-- A stream ring declaration (R193, R195, R203); `ring` is layout bed × 64 + slot. -/
structure StreamDecl where
  ring : Nat
  depth : Nat
  spill : Bool
  base : Nat
deriving DecidableEq, Repr, Inhabited

/-- A channel group declaration (Table 6.3); `absent` is the entry as a raw number. -/
structure GroupDecl where
  group : Nat
  channels : Nat
  width : Nat
  signed : Bool
  absent : Nat
  depth : Nat
  slowTicks : Nat
  slowDeadline : Nat
  slowSettle : Nat
  spill : Bool
  base : Nat
deriving DecidableEq, Repr, Inhabited

/-- A run of the channel map: channels `first` to `first + count - 1` stand in a group from index `index` on (R197). -/
structure ChanRun where
  first : Nat
  count : Nat
  group : Nat
  index : Nat
deriving DecidableEq, Repr, Inhabited

/-- The LOESS section of a phase and die (Table 8.3). -/
structure LoessSection where
  streams : List StreamDecl
  groups : List GroupDecl
  chans : List ChanRun
  ctx : List CtxProg
  settled : List (List Stage)
  /-- silt accesses of each settled program's work items -/
  settledSilt : List (List (List LaneAccess))
  siltMap : List SiltRegion
  warmVerdict : Nat
  /-- deadline work names cold history (R227) -/
  readsCold : Bool
  /-- deadline work reads a ring of the other die (R20) -/
  readsOther : Bool
  /-- the section is too damaged to read -/
  malformed : Bool
  /-- allocation units of strata (R235) -/
  strataUnits : Nat
deriving DecidableEq, Repr, Inhabited

/-- A silt region holds a word. -/
def SiltRegion.holds (r : SiltRegion) (bank word : Nat) : Bool := r.bank == bank && decide (r.first ≤ word ∧ word < r.first + r.words)

/-- The access changes its word. -/
def LaneOp.writes : LaneOp → Bool
  | .read => false
  | _ => true

/-- The engine program writes a mover-owned region (R217, code 0x35). -/
def LoessSection.writesMover (l : LoessSection) : Bool :=
  (l.ctx.map CtxProg.silt ++ l.settledSilt).any (fun cs => cs.any (fun c => c.any (fun a =>
    a.op.writes && l.siltMap.any (fun r => r.mover && r.holds a.bank a.word))))

/-- A span of the cascade (Table 15.1). -/
structure CascSpan where
  kind : Nat
  src : Nat
  srcPart : Nat
  dest : Nat
  destPart : Nat
  slotIdx : Nat
  altIdx : Nat
  budget : Nat
  altBudget : Nat
deriving DecidableEq, Repr, Inhabited

/-- The CASCADE section (Table 15.1); positions list (serial, role). -/
structure Cascade where
  xdim : Nat
  ydim : Nat
  lead : Nat
  deputy : Nat
  rate : Nat
  cableMax : Nat
  positions : List (Nat × Nat)
  spans : List CascSpan
deriving DecidableEq, Repr, Inhabited

/-- A RESHARD entry (Table 8.9). -/
structure ReshardEntry where
  fromBed : Nat
  fromSlot : Nat
  toBed : Nat
  toSlot : Nat
  action : Nat
deriving DecidableEq, Repr, Inhabited

/-- One phase with all its sections read. -/
structure PhaseProg where
  ph : Phase
  entry : EntrySection
  decision : DecisionSection
  keys : Keys
  ctx : List SlotContext
  variants : List Variant
  east : LoessSection
  west : LoessSection
deriving DecidableEq, Repr, Inhabited

/-- An accepted image, read: PROGRAM, its phases, CASCADE and RESHARD sections (Table 8.3). -/
structure Program where
  tickPs : Nat
  firstPhase : Nat
  modules : Nat
  phases : List PhaseProg
  cascade : Option Cascade
  reshard : List (Nat × Nat × List ReshardEntry)
deriving DecidableEq, Repr, Inhabited

/-- The program's phase of a given number. -/
def Program.phase? (p : Program) (n : Nat) : Option PhaseProg := p.phases.find? (fun q => q.ph.id == n)

/-- The LOESS section of a die. -/
def PhaseProg.loess (p : PhaseProg) (die : Nat) : LoessSection := if die = 0 then p.east else p.west

/-- The entry order of a layout bed (R58). -/
def PhaseProg.order (p : PhaseProg) (bed : Nat) : List SlotProg := p.entry.orders.getD bed []

/-- The slot of an entry order, if it stands in it. -/
def PhaseProg.slot? (p : PhaseProg) (bed slot : Nat) : Option SlotProg := (p.order bed).find? (fun q => q.slot == slot)

/-- The weight region of a grain (R86). -/
def Network.weightRegion (n : Network) (g : Nat) : Option Region := n.regions.find? (fun r => r.grain == g && r.kind == .weights)

/-- Weight-port words of 256 bytes that a grain's weight region reaches into (Table 3.4). -/
def Network.weightWords (n : Network) (g : Nat) : Nat := ((n.weightRegion g).map (fun r => (r.size + 255) / 256)).getD 0

/-- Bank offset of a grain's weight region. -/
def Network.weightBase (n : Network) (g : Nat) : Nat := ((n.weightRegion g).map Region.off).getD 0

/-- A bank byte of a grain lies in its staging region (Table 3.4). -/
def Network.isStaging (n : Network) (g off : Nat) : Bool :=
  n.regions.any (fun r => r.grain == g && r.kind == .staging && decide (r.off ≤ off ∧ off < r.off + r.size))

/-- The die of a layout bed: BEDMAP (Table 8.5). -/
def Phase.die (p : Phase) (bed : Nat) : Nat := p.bedmap / 2 ^ bed % 2

end Sys2Proof.Machine
end

