-- ==== Sys2Proof/Config.lean ====
section
/-!
DEFINITION. What an implementation fixes and the free values: constants without a body, so that nothing in Lean can see them.
A statement that holds of the model holds whatever they are. Each names the log entry that says why it is open.
-/
namespace Sys2Proof

/-- A free byte: the n-th value the model draws where the spec leaves a byte open (log entry 2). -/
opaque Config.freeByte : Nat → Byte

/-- A free natural number: the n-th value the model draws where the spec leaves a number open (log entry 2). -/
opaque Config.freeNat : Nat → Nat

/-- Byte i of the RSA signature of the attestation private key over the bytes given (R334, R385; log entry 7): the key never
leaves the security engine, so no one outside knows the value. -/
opaque Config.attSign : List Byte → Nat → Byte

/-- Key hash (64 bytes) of Xogrim firmware key 0 or 1 in the boot ROM (R377; log entry 8). -/
opaque Config.xogrimKeyHash : Nat → Nat → Byte

/-- DATA byte i of an EVENT record of the given code whose DATA layout the spec does not give, from the values of Table 10.7
(R327, R329; log entry 9). -/
opaque Config.eventData : Nat → List Nat → Nat → Byte

/-- What a grain record of a VARIANT section holds after its bank image, from the grain and the bytes that follow that image (R279; log
entry 13). -/
opaque Config.grainRecord : Nat → List Byte → Machine.GrainRecord

/-- What stands at TABLES_OFFSET of a VARIANT section, from the bytes there (R279; log entry 13). -/
opaque Config.bedTables : List Byte → Machine.BedTables

/-- What an ENTRY section holds, read from its bytes (Table 8.3; log entry 13). -/
opaque Config.entrySection : List Byte → Machine.EntrySection

/-- What a DECISION section holds, read from its bytes (Table 8.3; log entry 13). -/
opaque Config.decisionSection : List Byte → Machine.DecisionSection

/-- The packages of a CONTEXT section, read from its bytes (Table 8.3; log entry 13). -/
opaque Config.contextSection : List Byte → List Machine.SlotContext

/-- What a LOESS section holds, read from its bytes (Table 8.3; log entry 13). -/
opaque Config.loessSection : List Byte → Machine.LoessSection

/-- Failed physical columns of a bed and the spares assigned to them (spare, failed), from the repair data of the hardpan
(R111; log entry 14). -/
opaque Config.repairColumns : List Byte → Nat → List (Nat × Nat)

/-- Silt spare columns the repair data assigns per bank of a die (R224; log entry 14). -/
opaque Config.repairSilt : List Byte → Nat → Nat → Nat

/-- What a record mirror message of the ring holds (R336, R338, Table 15.3 TYPE 4; log entry 17), a record, or a module's serial and the number
below which its host has acknowledged: the message's layout is open. -/
opaque Config.mirrorMessage : List Byte → Machine.MirrorRec ⊕ (Nat × Nat)

/-- The bytes of a ring message of a type (Table 15.3), from the values that the spec says it carries and from a record's bytes (log entry 9):
the layout is open. -/
opaque Config.ringMessage : Nat → List Nat → List Byte → List Byte

/-- The SECDED check byte of 64 bits of a silt word (R215, R223; log entry 113): the spec names the code and does not give it. -/
opaque Config.secded : List Byte → Byte

/-- Bank and row that a channel's n-th 8 KiB block maps to (R192 gives the channel only; log entry 18). -/
opaque Config.dramRow : Nat → Nat × Nat

/-- The bytes of an image copy into which corrections (phase, layout bed, grain, word index, 256 bytes) have been written (R115; log entry 19):
where a weight word stands in a VARIANT section is the tool chain's. -/
opaque Config.correctedImage : List Byte → List (Nat × Nat × Nat × Nat × List Byte) → List Byte

/-- Byte i of the 680-byte codeword of a ring frame's 642 message bytes (R437, R438; log entry 20): the code is that of IEEE 802.3 clause 91,
which the spec names and does not give. -/
opaque Config.ringCodeword : List Byte → Nat → Byte

/-- Byte of the entry bytes that a divergence capture gives for a bed's frame of a tick and slot whose tag its entry unit no longer keeps
(R356; log entry 126). -/
opaque Config.lostEntry : Nat → Nat → Nat → Nat → Byte

end Sys2Proof
end

