-- ==== Sys2Proof/Machine/Regs.lean ====
section
/-!
DEFINITION. The register map: the address of every register (Table 20.1 and the register tables of the chapters), the place of every
field, and for each register its Reset value and which of its bits are RW, W1C and RC (Table 0.4, R12). Registers of a
block with several instances stand at the address of instance 0; `regCanon` takes any instance to it.
-/
namespace Sys2Proof.Machine

/-- The place of a register field: register address, low bit, width. -/
structure Field where
  addr : Nat
  lo : Nat
  w : Nat
deriving DecidableEq, Repr

/-- The same field of another instance, `off` bytes further on. -/
def Field.on (f : Field) (off : Nat) : Field := { f with addr := f.addr + off }

/-- A register: address of instance 0, Reset value, RW, W1C and RC bits. Bits in none of the three are RO, WO or rsvd. -/
structure RegRow where
  addr : Nat
  reset : Word
  rw : Word
  w1c : Word
  rc : Word
deriving DecidableEq, Repr

def HZN_COUNT_LO : Nat := 0x10000
def HZN_COUNT_HI : Nat := 0x10004
def HZN_LAUNCH_LO : Nat := 0x10008
def HZN_LAUNCH_HI : Nat := 0x1000C
def HZN_PRESET_LO : Nat := 0x10010
def HZN_PRESET_HI : Nat := 0x10014
def HZN_CTL : Nat := 0x10018
def HZN_STAT : Nat := 0x1001C
def HZN_TICK_PERIOD : Nat := 0x10020
def HZN_ALIGN : Nat := 0x10024
def HZN_QLAT : Nat := 0x10028
def HZN_SLAT : Nat := 0x1002C
def HZN_LATE_CNT : Nat := 0x10030
def HZN_EARLY_CNT : Nat := 0x10034
def HZN_ABSENT_CNT : Nat := 0x10038
def HZN_SLIP_CNT : Nat := 0x1003C
def HZN_CAP : Nat := 0x10040
def BED_CTL : Nat := 0x20000
def BED_STAT : Nat := 0x20004
def BED_LAT : Nat := 0x20008
def BED_CAP : Nat := 0x2000C
def BED_II : Nat := 0x20010
def BED_COLMAP : Nat := 0x20014
def BED_MIRROR : Nat := 0x20018
def BED_TSIG0 : Nat := 0x2001C
def BED_TSIG1 : Nat := 0x20020
def BED_TSIG2 : Nat := 0x20024
def BED_SLOTS_LO : Nat := 0x20028
def BED_SLOTS_HI : Nat := 0x2002C
def BED_FRAMES_LO : Nat := 0x20030
def BED_FRAMES_HI : Nat := 0x20034
def BED_SUB_CNT : Nat := 0x20038
def BED_SAT_CNT : Nat := 0x2003C
def BED_OCC_ERR_CNT : Nat := 0x20040
def BED_STEER_ERR_CNT : Nat := 0x20044
def BED_SOLO_CNT : Nat := 0x20048
def BED_CORR_LO : Nat := 0x2004C
def BED_CORR_HI : Nat := 0x20050
def BED_CORR_STAT : Nat := 0x20054
def GRN_SEL : Nat := 0x30000
def GRN_CMD : Nat := 0x30004
def GRN_STAT : Nat := 0x30008
def GRN_ECC_CNT : Nat := 0x3000C
def GRN_SAT_CNT : Nat := 0x30010
def GRN_ROUTE_IDX : Nat := 0x30014
def GRN_ROUTE : Nat := 0x30018
def GRN_CORR_ADDR : Nat := 0x3001C
def LSS_MEM_CAP : Nat := 0x40400
def LSS_MEM_ALLOC : Nat := 0x40404
def LSS_MEM_STAT : Nat := 0x40408
def LSS_MEM_CTL : Nat := 0x4040C
def LSS_DRAM_CAPS : Nat := 0x40410
def LSS_DRAM_ECC_CNT : Nat := 0x40414
def LSS_DRAM_UNCORR_CNT : Nat := 0x40418
def LSS_SILT_ECC_CNT : Nat := 0x4041C
def LSS_SILT_BUSY_CNT : Nat := 0x40420
def LSS_SILT_ATOM_SAT_CNT : Nat := 0x40424
def LSS_SPILL_DROP_CNT : Nat := 0x40428
def LSS_SPILL_LO : Nat := 0x4042C
def LSS_SPILL_HI : Nat := 0x40430
def LSS_BLOCK_SEL : Nat := 0x40434
def LSS_BLOCK_MAX : Nat := 0x40438
def LSS_SILT_SEL : Nat := 0x4043C
def LSS_SILT_SPARE : Nat := 0x40440
def LSS_RING_SEL : Nat := 0x40444
def LSS_RING_DEPTH : Nat := 0x40448
def LSS_RING_VALID : Nat := 0x4044C
def LSS_RING_BASE : Nat := 0x40450
def LSS_RING_UNITS : Nat := 0x40454
def LSS_RING_START_LO : Nat := 0x40458
def LSS_RING_START_HI : Nat := 0x4045C
def LSS_CAP : Nat := 0x40000
def LSS_CTL : Nat := 0x40004
def LSS_STAT : Nat := 0x40008
def LSS_LAG : Nat := 0x4000C
def LSS_LAG_USED : Nat := 0x40010
def LSS_WARM : Nat := 0x40014
def LSS_WARM_END_LO : Nat := 0x40018
def LSS_WARM_END_HI : Nat := 0x4001C
def LSS_CTX_LATE_CNT : Nat := 0x40020
def LSS_SET_LATE_CNT : Nat := 0x40024
def LSS_SHED_CNT : Nat := 0x40028
def LSS_ADMIT_CNT : Nat := 0x4002C
def LSS_INFLIGHT : Nat := 0x40030
def LSS_INFLIGHT_MAX : Nat := 0x40034
def LSS_BUCKET : Nat := 0x40038
def LSS_SEQ_ERR_CNT : Nat := 0x4003C
def LSS_SAT_CNT : Nat := 0x40040
def LSS_CLAMP_CNT : Nat := 0x40044
def LSS_CTX_TIME_MAX : Nat := 0x40048
def LSS_SET_TIME_MAX : Nat := 0x4004C
def LSS_CKPT_LO : Nat := 0x40050
def LSS_CKPT_HI : Nat := 0x40054
def LSS_CKPT_STAT : Nat := 0x40058
def LSS_MIRROR_LO : Nat := 0x4005C
def LSS_MIRROR_HI : Nat := 0x40060
def LSS_MIRROR_GAP_CNT : Nat := 0x40064
def RNG_LCK_CTL : Nat := 0xC0C00
def RNG_LCK_STAT : Nat := 0xC0C04
def RNG_LCK_START_LO : Nat := 0xC0C08
def RNG_LCK_START_HI : Nat := 0xC0C0C
def RNG_LCK_DIV_LO : Nat := 0xC0C10
def RNG_LCK_DIV_HI : Nat := 0xC0C14
def RNG_LCK_DIV_LOC : Nat := 0xC0C18
def RNG_LCK_SNAP_LO : Nat := 0xC0C1C
def RNG_LCK_SNAP_HI : Nat := 0xC0C20
def RNG_LCK_WIN_LO : Nat := 0xC0C24
def RNG_LCK_WIN_HI : Nat := 0xC0C28
def RNG_LCK_GAP_CNT : Nat := 0xC0C2C
def AUG_CAP : Nat := 0x50000
def AUG_CTL : Nat := 0x50004
def AUG_STAT : Nat := 0x50008
def AUG_SEQ_LO : Nat := 0x5000C
def AUG_SEQ_HI : Nat := 0x50010
def AUG_ACK_LO : Nat := 0x50014
def AUG_ACK_HI : Nat := 0x50018
def AUG_MIRR_LO : Nat := 0x5001C
def AUG_MIRR_HI : Nat := 0x50020
def AUG_SEAL_LO : Nat := 0x50024
def AUG_SEAL_HI : Nat := 0x50028
def AUG_TAIL_USED : Nat := 0x5002C
def AUG_TAIL_RSV : Nat := 0x50030
def AUG_RATE : Nat := 0x50034
def AUG_HOLD_CNT : Nat := 0x50038
def AUG_GAP_CNT : Nat := 0x5003C
def AUG_ORPHAN_CNT : Nat := 0x50040
def AUG_WIN_BASE : Nat := 0x50044
def FLT_CAP : Nat := 0x60000
def FLT_CTL : Nat := 0x60004
def FLT_STAT : Nat := 0x60008
def FLT_CAUSE : Nat := 0x6000C
def FLT_UNIT : Nat := 0x60010
def FLT_HZN_LO : Nat := 0x60014
def FLT_HZN_HI : Nat := 0x60018
def FLT_WINDOW : Nat := 0x6001C
def FLT_DIV_LIMIT : Nat := 0x60020
def FLT_DIV_WINDOW : Nat := 0x60024
def FLT_DIV_CNT : Nat := 0x60028
def FLT_TRANSIENT_CNT : Nat := 0x6002C
def FLT_LASTING_CNT : Nat := 0x60030
def FLT_SUB_CNT : Nat := 0x60034
def FLT_PARTIAL_CNT : Nat := 0x60038
def FLT_DISAGREE_CNT : Nat := 0x6003C
def FLT_UNEXPL_CNT : Nat := 0x60040
def FLT_DEGRADED : Nat := 0x60044
def FLT_WDOG : Nat := 0x60048
def CFG_CAP : Nat := 0x70000
def CFG_CTL : Nat := 0x70004
def CFG_BOOT_STAT : Nat := 0x70008
def CFG_LOAD_STAT : Nat := 0x7000C
def CFG_GEN_STAT : Nat := 0x70010
def CFG_FW_VER : Nat := 0x70014
def CFG_SERIAL_LO : Nat := 0x70018
def CFG_SERIAL_HI : Nat := 0x7001C
def CFG_FLASH0 : Nat := 0x70020
def CFG_FLASH1 : Nat := 0x70024
def SEC_CAP : Nat := 0x80000
def SEC_CMD : Nat := 0x80004
def SEC_STAT : Nat := 0x80008
def SEC_LOCK : Nat := 0x8000C
def SEC_SLOTS : Nat := 0x80010
def SEC_ATT_CNT : Nat := 0x80014
def SEC_KEYID_LO : Nat := 0x80018
def SEC_KEYID_HI : Nat := 0x8001C
def SEC_NONCE0 : Nat := 0x80020
def SEC_NONCE1 : Nat := 0x80024
def SEC_NONCE2 : Nat := 0x80028
def SEC_NONCE3 : Nat := 0x8002C
def SEC_NONCE4 : Nat := 0x80030
def SEC_NONCE5 : Nat := 0x80034
def SEC_NONCE6 : Nat := 0x80038
def SEC_NONCE7 : Nat := 0x8003C
def SEC_NONCE8 : Nat := 0x80040
def SEC_NONCE9 : Nat := 0x80044
def SEC_NONCE10 : Nat := 0x80048
def SEC_NONCE11 : Nat := 0x8004C
def SEC_NONCE12 : Nat := 0x80050
def SEC_NONCE13 : Nat := 0x80054
def SEC_NONCE14 : Nat := 0x80058
def SEC_NONCE15 : Nat := 0x8005C
def LNK_CTL : Nat := 0x90000
def LNK_STAT : Nat := 0x90004
def LNK_EQ : Nat := 0x90008
def LNK_ID : Nat := 0x9000C
def LNK_HDR_ERR_CNT : Nat := 0x90010
def LNK_CODE_ERR_CNT : Nat := 0x90014
def LNK_LOCK_LOSS_CNT : Nat := 0x90018
def LNK_NOFIT_CNT : Nat := 0x9001C
def LNK_ERASE_CNT : Nat := 0x90020
def LNK_RETRAIN_CNT : Nat := 0x90024
def LNK_BLOCKS_LO : Nat := 0x90028
def LNK_BLOCKS_HI : Nat := 0x9002C
def LNK_PEER : Nat := 0x90030
def LNK_PRBS_ERR_CNT : Nat := 0x90034
def LNK_CAP : Nat := 0x9F000
def LNK_EYE_SEL : Nat := 0x9F004
def LNK_EYE_CTL : Nat := 0x9F008
def LNK_EYE_STAT : Nat := 0x9F00C
def LNK_EYE_ERR : Nat := 0x9F010
def LNK_EYE_BITS_LO : Nat := 0x9F014
def LNK_EYE_BITS_HI : Nat := 0x9F018
def STM_CAP : Nat := 0xA0000
def STM_STAT : Nat := 0xA0004
def STM_BIND_IDX : Nat := 0xA0008
def STM_BIND_SENDER : Nat := 0xA000C
def STM_BIND_TARGET : Nat := 0xA0010
def STM_BIND_CMD : Nat := 0xA0014
def STM_BIND_COMMIT_LO : Nat := 0xA0018
def STM_BIND_COMMIT_HI : Nat := 0xA001C
def STM_BIND_STAT : Nat := 0xA0020
def STM_QUAR_IDX : Nat := 0xA0024
def STM_QUAR_SENDER : Nat := 0xA0028
def STM_QUAR_INFO : Nat := 0xA002C
def STM_QUAR_FIRST_LO : Nat := 0xA0030
def STM_QUAR_FIRST_HI : Nat := 0xA0034
def STM_QUAR_CMD : Nat := 0xA0038
def STM_QUAR_USED : Nat := 0xA003C
def STM_QUAR_OVF_CNT : Nat := 0xA0040
def STM_LOST_CNT : Nat := 0xA0044
def STM_RSVD_CNT : Nat := 0xA0048
def STM_SUM_OK_CNT : Nat := 0xA004C
def STM_SUM_LATE_CNT : Nat := 0xA0050
def STM_SUM_DUP_CNT : Nat := 0xA0054
def STM_SUM_BAD_CNT : Nat := 0xA0058
def STM_VERBAD_LO : Nat := 0xA005C
def STM_VERBAD_HI : Nat := 0xA0060
def STM_LANE_RET_LO : Nat := 0xA0064
def STM_LANE_RET_HI : Nat := 0xA0068
def STM_SLOT_SEL : Nat := 0xA0070
def STM_SLOT_SENDER : Nat := 0xA0074
def STM_SLOT_OK_CNT : Nat := 0xA0078
def STM_SLOT_LATE_CNT : Nat := 0xA007C
def STM_SLOT_EARLY_CNT : Nat := 0xA0080
def STM_SLOT_CORRUPT_CNT : Nat := 0xA0084
def STM_SLOT_ABSENT_CNT : Nat := 0xA0088
def STM_SLOT_REFUSED_CNT : Nat := 0xA008C
def STM_SLOT_DUP_CNT : Nat := 0xA0090
def DEC_CAP : Nat := 0xB0000
def DEC_CTL : Nat := 0xB0004
def DEC_STAT : Nat := 0xB0008
def DEC_HOLD_CAUSE : Nat := 0xB000C
def DEC_LANE_MAP : Nat := 0xB0010
def DEC_QUICK_LO : Nat := 0xB0014
def DEC_QUICK_HI : Nat := 0xB0018
def DEC_SETTLED_LO : Nat := 0xB001C
def DEC_SETTLED_HI : Nat := 0xB0020
def DEC_HOLD_CNT : Nat := 0xB0024
def DEC_PLACE_MAX : Nat := 0xB0028
def RNG_CAP : Nat := 0xC0000
def RNG_CTL : Nat := 0xC0004
def RNG_STAT : Nat := 0xC0008
def RNG_ROLE : Nat := 0xC000C
def RNG_PORT_STAT0 : Nat := 0xC0010
def RNG_PORT_STAT1 : Nat := 0xC0014
def RNG_PORT_STAT2 : Nat := 0xC0018
def RNG_PORT_STAT3 : Nat := 0xC001C
def RNG_CABLE0 : Nat := 0xC0020
def RNG_CABLE1 : Nat := 0xC0024
def RNG_CABLE2 : Nat := 0xC0028
def RNG_CABLE3 : Nat := 0xC002C
def RNG_FEC_CORR_CNT : Nat := 0xC0030
def RNG_FEC_UNCORR_CNT : Nat := 0xC0034
def RNG_RETRY_CNT : Nat := 0xC0038
def RNG_REROUTE_CNT : Nat := 0xC003C
def RNG_LAUNCH : Nat := 0xC0040
def RNG_REACH_LO : Nat := 0xC0044
def RNG_REACH_HI : Nat := 0xC0048
def RNG_MIRROR_TGT : Nat := 0xC004C
def RNG_TAKEOVER_LO : Nat := 0xC0050
def RNG_TAKEOVER_HI : Nat := 0xC0054
def HST_CAP : Nat := 0xD0000
def HST_CTL : Nat := 0xD0004
def HST_STAT : Nat := 0xD0008
def HST_LANES : Nat := 0xD000C
def HST_TX_SEQ : Nat := 0xD0010
def HST_RX_SEQ : Nat := 0xD0014
def HST_CREDIT0 : Nat := 0xD0018
def HST_CREDIT1 : Nat := 0xD001C
def HST_LAST_TAG : Nat := 0xD0020
def HST_RETRY_CNT : Nat := 0xD0024
def HST_CRC_ERR_CNT : Nat := 0xD0028
def HST_SEQ_DISCARD_CNT : Nat := 0xD002C
def HST_LINKDOWN_CNT : Nat := 0xD0030
def HST_REQ_CNT : Nat := 0xD0034
def HST_REQ_ERR_CNT : Nat := 0xD0038
def HST_WAKE_CNT : Nat := 0xD003C
def HST_BULK_LO : Nat := 0xD0040
def HST_BULK_HI : Nat := 0xD0044
def TIM_CAP : Nat := 0xE0000
def TIM_CTL : Nat := 0xE0004
def TIM_STAT : Nat := 0xE0008
def TIM_JUMP_LIMIT : Nat := 0xE000C
def TIM_CNT_LO : Nat := 0xE0010
def TIM_CNT_HI : Nat := 0xE0014
def TIM_NOW_LO : Nat := 0xE0018
def TIM_NOW_HI : Nat := 0xE001C
def TIM_NOW_FRAC : Nat := 0xE0020
def TIM_PPS_LO : Nat := 0xE0024
def TIM_PPS_HI : Nat := 0xE0028
def TIM_PPS_TOL : Nat := 0xE002C
def TIM_SWITCH_CNT : Nat := 0xE0030
def TIM_JUMP_REF_CNT : Nat := 0xE0034
def TIM_STEP_CNT : Nat := 0xE0038
def TIM_PPS_MISS_CNT : Nat := 0xE003C
def TIM_D_CTL : Nat := 0xE0100
def TIM_D_STAT : Nat := 0xE0104
def TIM_D_RATE : Nat := 0xE0108
def TIM_D_OFF0 : Nat := 0xE010C
def TIM_D_OFF1 : Nat := 0xE0110
def TIM_D_OFF2 : Nat := 0xE0114
def TIM_D_STEP_LO : Nat := 0xE0118
def TIM_D_STEP_HI : Nat := 0xE011C
def TIM_D_MASTER_LO : Nat := 0xE0120
def TIM_D_MASTER_HI : Nat := 0xE0124
def TIM_D_OFM : Nat := 0xE0128
def TIM_D_MPD : Nat := 0xE012C
def TIM_D_ASYM : Nat := 0xE0130
def TIM_D_RX_CNT : Nat := 0xE0134
def TOP_ROT_CTL : Nat := 0x00100
def TOP_ROT_STAT : Nat := 0x00104
def TOP_ROT_HZN_LO : Nat := 0x00108
def TOP_ROT_HZN_HI : Nat := 0x0010C
def TOP_ROT_QNEW : Nat := 0x00110
def TOP_ROT_SNEW : Nat := 0x00114
def TOP_UC_CTL : Nat := 0x00120
def TOP_UC_STAT : Nat := 0x00124
def TOP_UC_VER : Nat := 0x00128
def PWR_CAP : Nat := 0xF0000
def PWR_CTL : Nat := 0xF0004
def PWR_STAT : Nat := 0xF0008
def PWR_IDLE_TICKS : Nat := 0xF000C
def PWR_IDLE_COUNT : Nat := 0xF0010
def PWR_BUDGET : Nat := 0xF0014
def PWR_MEAS : Nat := 0xF0018
def PWR_PEAK : Nat := 0xF001C
def PWR_VIN : Nat := 0xF0020
def PWR_IIN : Nat := 0xF0024
def PWR_VSTBY : Nat := 0xF0028
def PWR_FALLOW_CNT : Nat := 0xF002C
def PWR_ABORT_CNT : Nat := 0xF0030
def PWR_BROWNOUT_CNT : Nat := 0xF0034
def PWR_OVER_CNT : Nat := 0xF0038
def CLK_CAP : Nat := 0xF0400
def CLK_SEL : Nat := 0xF0404
def CLK_FREQ : Nat := 0xF0408
def CLK_STAT : Nat := 0xF040C
def CLK_UNLOCK_CNT : Nat := 0xF0410
def THM_CAP : Nat := 0xF0800
def THM_LIMITS : Nat := 0xF0804
def THM_WARN : Nat := 0xF0808
def THM_SEL : Nat := 0xF080C
def THM_TEMP : Nat := 0xF0810
def THM_MAX : Nat := 0xF0814
def THM_STAT : Nat := 0xF0818
def THM_WARN_CNT : Nat := 0xF081C
def TOP_ID : Nat := 0x00000
def TOP_VERSION : Nat := 0x00004
def TOP_CAP : Nat := 0x00008
def TOP_CTL : Nat := 0x0000C
def TOP_STAT : Nat := 0x00010
def TOP_SCRATCH : Nat := 0x00014
def TOP_ACC_STAT : Nat := 0x00018
def TOP_ACC_ADDR : Nat := 0x0001C

def HZN_CTL_TICK_DIV : Field := ⟨HZN_CTL, 16, 12⟩
def HZN_CTL_SYNC_ADJ : Field := ⟨HZN_CTL, 12, 4⟩
def HZN_CTL_PRESET_ARM : Field := ⟨HZN_CTL, 8, 1⟩
def HZN_CTL_SYNC_OUT_EN : Field := ⟨HZN_CTL, 4, 1⟩
def HZN_CTL_SRC : Field := ⟨HZN_CTL, 0, 2⟩
def HZN_STAT_LREF_CODE : Field := ⟨HZN_STAT, 12, 4⟩
def HZN_STAT_LREF : Field := ⟨HZN_STAT, 10, 1⟩
def HZN_STAT_PRESET_DONE : Field := ⟨HZN_STAT, 9, 1⟩
def HZN_STAT_SLIP : Field := ⟨HZN_STAT, 8, 1⟩
def HZN_STAT_TICK_UNSTABLE : Field := ⟨HZN_STAT, 4, 1⟩
def HZN_STAT_LAUNCH_PEND : Field := ⟨HZN_STAT, 3, 1⟩
def HZN_STAT_SYNC_LOCK : Field := ⟨HZN_STAT, 2, 1⟩
def HZN_STAT_FLYWHEEL : Field := ⟨HZN_STAT, 1, 1⟩
def HZN_STAT_TICK_OK : Field := ⟨HZN_STAT, 0, 1⟩
def HZN_ALIGN_EARLY_TOL : Field := ⟨HZN_ALIGN, 20, 4⟩
def HZN_ALIGN_OFFSET : Field := ⟨HZN_ALIGN, 0, 16⟩
def HZN_CAP_TAG_HZN_BITS : Field := ⟨HZN_CAP, 20, 4⟩
def HZN_CAP_VERSION : Field := ⟨HZN_CAP, 0, 4⟩
def BED_CTL_MIRROR_RELEASE : Field := ⟨BED_CTL, 2, 1⟩
def BED_CTL_CORR_CANCEL : Field := ⟨BED_CTL, 1, 1⟩
def BED_CTL_SELFTEST : Field := ⟨BED_CTL, 0, 1⟩
def BED_STAT_STATE : Field := ⟨BED_STAT, 24, 4⟩
def BED_STAT_SOLO : Field := ⟨BED_STAT, 6, 1⟩
def BED_STAT_STEER_ERR : Field := ⟨BED_STAT, 5, 1⟩
def BED_STAT_OCC_ERR : Field := ⟨BED_STAT, 4, 1⟩
def BED_STAT_SAT : Field := ⟨BED_STAT, 3, 1⟩
def BED_STAT_SPARE_USED : Field := ⟨BED_STAT, 2, 1⟩
def BED_STAT_CORR_DONE : Field := ⟨BED_STAT, 1, 1⟩
def BED_STAT_ECC_CORR : Field := ⟨BED_STAT, 0, 1⟩
def BED_CAP_USABLE_COLS : Field := ⟨BED_CAP, 16, 8⟩
def BED_CAP_SPARES_LEFT : Field := ⟨BED_CAP, 8, 2⟩
def BED_CAP_VERSION : Field := ⟨BED_CAP, 4, 4⟩
def BED_CAP_PRESENT : Field := ⟨BED_CAP, 0, 1⟩
def BED_COLMAP_SPARE1_FOR : Field := ⟨BED_COLMAP, 8, 7⟩
def BED_COLMAP_SPARE0_FOR : Field := ⟨BED_COLMAP, 0, 7⟩
def BED_MIRROR_PARTNER : Field := ⟨BED_MIRROR, 4, 2⟩
def BED_MIRROR_SINGLE : Field := ⟨BED_MIRROR, 1, 1⟩
def BED_MIRROR_MIRRORED : Field := ⟨BED_MIRROR, 0, 1⟩
def BED_CORR_STAT_CODE : Field := ⟨BED_CORR_STAT, 0, 4⟩
def GRN_SEL_BED : Field := ⟨GRN_SEL, 24, 2⟩
def GRN_SEL_ROW : Field := ⟨GRN_SEL, 16, 5⟩
def GRN_SEL_PHYS : Field := ⟨GRN_SEL, 7, 1⟩
def GRN_SEL_COLUMN : Field := ⟨GRN_SEL, 0, 7⟩
def GRN_STAT_TEST : Field := ⟨GRN_STAT, 12, 4⟩
def GRN_STAT_WREJ : Field := ⟨GRN_STAT, 2, 1⟩
def GRN_STAT_SEL_BAD : Field := ⟨GRN_STAT, 1, 1⟩
def GRN_STAT_BUSY : Field := ⟨GRN_STAT, 0, 1⟩
def GRN_ROUTE_SOURCE : Field := ⟨GRN_ROUTE, 13, 3⟩
def GRN_ROUTE_TAP : Field := ⟨GRN_ROUTE, 8, 5⟩
def GRN_ROUTE_LEDGER : Field := ⟨GRN_ROUTE, 0, 1⟩
def LSS_MEM_CAP_VERSION : Field := ⟨LSS_MEM_CAP, 24, 4⟩
def LSS_MEM_CAP_HIST_UNITS : Field := ⟨LSS_MEM_CAP, 0, 20⟩
def LSS_MEM_STAT_INIT_DONE : Field := ⟨LSS_MEM_STAT, 15, 1⟩
def LSS_MEM_STAT_HOT : Field := ⟨LSS_MEM_STAT, 8, 1⟩
def LSS_MEM_STAT_SPILL_DROP : Field := ⟨LSS_MEM_STAT, 7, 1⟩
def LSS_MEM_STAT_COL_SPARED : Field := ⟨LSS_MEM_STAT, 6, 1⟩
def LSS_MEM_STAT_ROW_SPARED : Field := ⟨LSS_MEM_STAT, 5, 1⟩
def LSS_MEM_STAT_SILT_UNCORR : Field := ⟨LSS_MEM_STAT, 4, 1⟩
def LSS_MEM_STAT_SILT_CORR : Field := ⟨LSS_MEM_STAT, 3, 1⟩
def LSS_MEM_STAT_DRAM_UNCORR : Field := ⟨LSS_MEM_STAT, 2, 1⟩
def LSS_MEM_STAT_DRAM_CORR : Field := ⟨LSS_MEM_STAT, 1, 1⟩
def LSS_MEM_STAT_ALLOC_OK : Field := ⟨LSS_MEM_STAT, 0, 1⟩
def LSS_MEM_CTL_SPILL_EN : Field := ⟨LSS_MEM_CTL, 0, 1⟩
def LSS_DRAM_CAPS_CAP5 : Field := ⟨LSS_DRAM_CAPS, 24, 4⟩
def LSS_DRAM_CAPS_CAP4 : Field := ⟨LSS_DRAM_CAPS, 16, 4⟩
def LSS_DRAM_CAPS_CAP3 : Field := ⟨LSS_DRAM_CAPS, 8, 4⟩
def LSS_DRAM_CAPS_CAP2 : Field := ⟨LSS_DRAM_CAPS, 0, 4⟩
def LSS_RING_SEL_STREAM : Field := ⟨LSS_RING_SEL, 31, 1⟩
def LSS_RING_SEL_NUMBER : Field := ⟨LSS_RING_SEL, 0, 8⟩
def LSS_CAP_VERSION : Field := ⟨LSS_CAP, 24, 4⟩
def LSS_CAP_LANES : Field := ⟨LSS_CAP, 8, 8⟩
def LSS_CAP_INFLIGHT_LOG2 : Field := ⟨LSS_CAP, 0, 4⟩
def LSS_CTL_ENGINE_RESET : Field := ⟨LSS_CTL, 3, 1⟩
def LSS_CTL_SLOW_MIRROR : Field := ⟨LSS_CTL, 2, 1⟩
def LSS_CTL_CKPT_EXPORT : Field := ⟨LSS_CTL, 1, 1⟩
def LSS_STAT_STATE : Field := ⟨LSS_STAT, 24, 4⟩
def LSS_STAT_LOOSE : Field := ⟨LSS_STAT, 8, 1⟩
def LSS_STAT_MIRROR_GAP : Field := ⟨LSS_STAT, 6, 1⟩
def LSS_STAT_SEQ_ERR : Field := ⟨LSS_STAT, 5, 1⟩
def LSS_STAT_SAT : Field := ⟨LSS_STAT, 4, 1⟩
def LSS_STAT_SHED : Field := ⟨LSS_STAT, 3, 1⟩
def LSS_STAT_SET_LATE : Field := ⟨LSS_STAT, 2, 1⟩
def LSS_STAT_CTX_LATE : Field := ⟨LSS_STAT, 1, 1⟩
def LSS_STAT_WARM_DONE : Field := ⟨LSS_STAT, 0, 1⟩
def LSS_CKPT_STAT_STAGED : Field := ⟨LSS_CKPT_STAT, 4, 4⟩
def LSS_CKPT_STAT_STATE : Field := ⟨LSS_CKPT_STAT, 0, 4⟩
def RNG_LCK_CTL_FREEZE : Field := ⟨RNG_LCK_CTL, 17, 1⟩
def RNG_LCK_CTL_REARM : Field := ⟨RNG_LCK_CTL, 16, 1⟩
def RNG_LCK_CTL_PARTNER : Field := ⟨RNG_LCK_CTL, 8, 6⟩
def RNG_LCK_CTL_EN : Field := ⟨RNG_LCK_CTL, 0, 1⟩
def RNG_LCK_STAT_REF_CODE : Field := ⟨RNG_LCK_STAT, 12, 4⟩
def RNG_LCK_STAT_STATE : Field := ⟨RNG_LCK_STAT, 8, 4⟩
def RNG_LCK_STAT_SNAP_SKIP : Field := ⟨RNG_LCK_STAT, 4, 1⟩
def RNG_LCK_STAT_SNAP_DONE : Field := ⟨RNG_LCK_STAT, 3, 1⟩
def RNG_LCK_STAT_GAP : Field := ⟨RNG_LCK_STAT, 2, 1⟩
def RNG_LCK_STAT_DIVERGED : Field := ⟨RNG_LCK_STAT, 1, 1⟩
def RNG_LCK_DIV_LOC_SLOT_VALID : Field := ⟨RNG_LCK_DIV_LOC, 8, 1⟩
def RNG_LCK_DIV_LOC_BED : Field := ⟨RNG_LCK_DIV_LOC, 6, 2⟩
def RNG_LCK_DIV_LOC_SLOT : Field := ⟨RNG_LCK_DIV_LOC, 0, 6⟩
def AUG_CAP_TAIL_MIB : Field := ⟨AUG_CAP, 16, 16⟩
def AUG_CAP_REC_VERSION : Field := ⟨AUG_CAP, 8, 8⟩
def AUG_CAP_LANES : Field := ⟨AUG_CAP, 4, 4⟩
def AUG_CAP_VERSION : Field := ⟨AUG_CAP, 0, 4⟩
def AUG_CTL_SEAL_NOW : Field := ⟨AUG_CTL, 1, 1⟩
def AUG_CTL_MIRROR_EN : Field := ⟨AUG_CTL, 0, 1⟩
def AUG_STAT_LAST_REASON : Field := ⟨AUG_STAT, 8, 4⟩
def AUG_STAT_ACK_BAD : Field := ⟨AUG_STAT, 7, 1⟩
def AUG_STAT_SIGN_BUSY : Field := ⟨AUG_STAT, 6, 1⟩
def AUG_STAT_GAP : Field := ⟨AUG_STAT, 5, 1⟩
def AUG_STAT_ORPHAN : Field := ⟨AUG_STAT, 4, 1⟩
def AUG_STAT_SEAL_FORCED : Field := ⟨AUG_STAT, 3, 1⟩
def AUG_STAT_HOLD_SEEN : Field := ⟨AUG_STAT, 2, 1⟩
def AUG_STAT_HOLD : Field := ⟨AUG_STAT, 1, 1⟩
def AUG_STAT_UNMIRRORED : Field := ⟨AUG_STAT, 0, 1⟩
def FLT_CTL_DIV_KEEP : Field := ⟨FLT_CTL, 8, 1⟩
def FLT_STAT_ALARM : Field := ⟨FLT_STAT, 5, 1⟩
def FLT_STAT_DEGRADED : Field := ⟨FLT_STAT, 4, 1⟩
def FLT_STAT_LASTING : Field := ⟨FLT_STAT, 3, 1⟩
def FLT_STAT_TRANSIENT : Field := ⟨FLT_STAT, 2, 1⟩
def FLT_STAT_TESTING : Field := ⟨FLT_STAT, 1, 1⟩
def FLT_STAT_FAULT : Field := ⟨FLT_STAT, 0, 1⟩
def FLT_CAUSE_STATUS : Field := ⟨FLT_CAUSE, 30, 2⟩
def FLT_CAUSE_ACTION : Field := ⟨FLT_CAUSE, 28, 2⟩
def FLT_CAUSE_CLASS : Field := ⟨FLT_CAUSE, 16, 8⟩
def FLT_CAUSE_VCAUSE : Field := ⟨FLT_CAUSE, 4, 4⟩
def FLT_DEGRADED_RSA : Field := ⟨FLT_DEGRADED, 9, 1⟩
def FLT_DEGRADED_BRIDGE : Field := ⟨FLT_DEGRADED, 8, 1⟩
def FLT_DEGRADED_ENGINES : Field := ⟨FLT_DEGRADED, 6, 2⟩
def FLT_DEGRADED_PAIR_SINGLE : Field := ⟨FLT_DEGRADED, 4, 2⟩
def FLT_DEGRADED_BEDS : Field := ⟨FLT_DEGRADED, 0, 4⟩
def CFG_BOOT_STAT_CODE : Field := ⟨CFG_BOOT_STAT, 16, 8⟩
def CFG_BOOT_STAT_STEP : Field := ⟨CFG_BOOT_STAT, 12, 4⟩
def CFG_BOOT_STAT_GEN : Field := ⟨CFG_BOOT_STAT, 10, 2⟩
def CFG_BOOT_STAT_DEFAULTS : Field := ⟨CFG_BOOT_STAT, 9, 1⟩
def CFG_BOOT_STAT_WARM : Field := ⟨CFG_BOOT_STAT, 8, 1⟩
def CFG_LOAD_STAT_SECTION : Field := ⟨CFG_LOAD_STAT, 16, 16⟩
def CFG_LOAD_STAT_SOURCE : Field := ⟨CFG_LOAD_STAT, 12, 4⟩
def CFG_LOAD_STAT_CODE : Field := ⟨CFG_LOAD_STAT, 0, 8⟩
def CFG_FW_VER_FW_MIN : Field := ⟨CFG_FW_VER, 16, 16⟩
def CFG_FW_VER_RUNNING : Field := ⟨CFG_FW_VER, 0, 16⟩
def CFG_FLASH0_DENSITY : Field := ⟨CFG_FLASH0, 24, 8⟩
def CFG_FLASH0_SFDP_MINOR : Field := ⟨CFG_FLASH0, 16, 8⟩
def CFG_FLASH0_MODE : Field := ⟨CFG_FLASH0, 8, 4⟩
def CFG_FLASH0_CLOCK : Field := ⟨CFG_FLASH0, 0, 8⟩
def CFG_FLASH1_DENSITY : Field := ⟨CFG_FLASH1, 24, 8⟩
def CFG_FLASH1_SFDP_MINOR : Field := ⟨CFG_FLASH1, 16, 8⟩
def CFG_FLASH1_MODE : Field := ⟨CFG_FLASH1, 8, 4⟩
def CFG_FLASH1_CLOCK : Field := ⟨CFG_FLASH1, 0, 8⟩
def SEC_STAT_RESULT : Field := ⟨SEC_STAT, 16, 8⟩
def SEC_STAT_DEBUG_USED : Field := ⟨SEC_STAT, 3, 1⟩
def SEC_STAT_DONE : Field := ⟨SEC_STAT, 2, 1⟩
def SEC_STAT_BUSY : Field := ⟨SEC_STAT, 1, 1⟩
def SEC_SLOTS_IMG_SLOT : Field := ⟨SEC_SLOTS, 8, 2⟩
def SEC_SLOTS_STATUS : Field := ⟨SEC_SLOTS, 0, 8⟩
def LNK_CTL_MAX_RATE : Field := ⟨LNK_CTL, 8, 4⟩
def LNK_CTL_PRBS_TEST : Field := ⟨LNK_CTL, 5, 1⟩
def LNK_CTL_RETRAIN : Field := ⟨LNK_CTL, 4, 1⟩
def LNK_CTL_TX_IDLE : Field := ⟨LNK_CTL, 2, 1⟩
def LNK_CTL_ENABLE : Field := ⟨LNK_CTL, 0, 1⟩
def LNK_STAT_STATE : Field := ⟨LNK_STAT, 28, 4⟩
def LNK_STAT_RATE : Field := ⟨LNK_STAT, 24, 4⟩
def LNK_STAT_PEER_MAX : Field := ⟨LNK_STAT, 20, 4⟩
def LNK_STAT_INVERTED : Field := ⟨LNK_STAT, 9, 1⟩
def LNK_STAT_STEP_FAIL : Field := ⟨LNK_STAT, 8, 1⟩
def LNK_STAT_NOFIT : Field := ⟨LNK_STAT, 7, 1⟩
def LNK_STAT_ERASE : Field := ⟨LNK_STAT, 6, 1⟩
def LNK_STAT_CODE_ERR : Field := ⟨LNK_STAT, 5, 1⟩
def LNK_STAT_HDR_ERR : Field := ⟨LNK_STAT, 4, 1⟩
def LNK_STAT_LOCK_LOSS : Field := ⟨LNK_STAT, 3, 1⟩
def LNK_STAT_PRBS_FAIL : Field := ⟨LNK_STAT, 2, 1⟩
def LNK_STAT_PRBS_DONE : Field := ⟨LNK_STAT, 1, 1⟩
def LNK_STAT_LOCK : Field := ⟨LNK_STAT, 0, 1⟩
def LNK_EQ_PEAK_USED : Field := ⟨LNK_EQ, 12, 4⟩
def LNK_EQ_PEAK : Field := ⟨LNK_EQ, 4, 4⟩
def LNK_EQ_AUTO : Field := ⟨LNK_EQ, 0, 1⟩
def LNK_CAP_LANES : Field := ⟨LNK_CAP, 16, 8⟩
def LNK_CAP_RATES : Field := ⟨LNK_CAP, 8, 8⟩
def LNK_CAP_LANE_MINOR : Field := ⟨LNK_CAP, 4, 4⟩
def LNK_CAP_VERSION : Field := ⟨LNK_CAP, 0, 4⟩
def LNK_EYE_CTL_START : Field := ⟨LNK_EYE_CTL, 31, 1⟩
def LNK_EYE_CTL_DWELL : Field := ⟨LNK_EYE_CTL, 20, 5⟩
def LNK_EYE_CTL_VOFF : Field := ⟨LNK_EYE_CTL, 8, 8⟩
def LNK_EYE_CTL_HOFF : Field := ⟨LNK_EYE_CTL, 0, 7⟩
def LNK_EYE_STAT_ABORTED : Field := ⟨LNK_EYE_STAT, 2, 1⟩
def LNK_EYE_STAT_DONE : Field := ⟨LNK_EYE_STAT, 1, 1⟩
def LNK_EYE_STAT_BUSY : Field := ⟨LNK_EYE_STAT, 0, 1⟩
def STM_STAT_QUAR_OVF : Field := ⟨STM_STAT, 5, 1⟩
def STM_STAT_LANE_RET : Field := ⟨STM_STAT, 4, 1⟩
def STM_STAT_VER_BAD : Field := ⟨STM_STAT, 3, 1⟩
def STM_STAT_QUAR : Field := ⟨STM_STAT, 2, 1⟩
def STM_STAT_BIND_DONE : Field := ⟨STM_STAT, 1, 1⟩
def STM_BIND_TARGET_FRAMES : Field := ⟨STM_BIND_TARGET, 15, 1⟩
def STM_BIND_TARGET_SUMMARIES : Field := ⟨STM_BIND_TARGET, 14, 1⟩
def STM_BIND_TARGET_LAYOUT_BED : Field := ⟨STM_BIND_TARGET, 6, 2⟩
def STM_BIND_TARGET_SLOT : Field := ⟨STM_BIND_TARGET, 0, 6⟩
def STM_BIND_STAT_CONFLICT : Field := ⟨STM_BIND_STAT, 16, 16⟩
def STM_BIND_STAT_CODE : Field := ⟨STM_BIND_STAT, 0, 4⟩
def STM_QUAR_INFO_ITEMS : Field := ⟨STM_QUAR_INFO, 16, 16⟩
def STM_QUAR_INFO_SUMMARY : Field := ⟨STM_QUAR_INFO, 9, 1⟩
def STM_QUAR_INFO_FRAME : Field := ⟨STM_QUAR_INFO, 8, 1⟩
def STM_QUAR_INFO_LANE : Field := ⟨STM_QUAR_INFO, 0, 6⟩
def DEC_CTL_SPARE1 : Field := ⟨DEC_CTL, 4, 4⟩
def DEC_CTL_SPARE0 : Field := ⟨DEC_CTL, 0, 4⟩
def DEC_STAT_HOLD1 : Field := ⟨DEC_STAT, 9, 1⟩
def DEC_STAT_HOLD0 : Field := ⟨DEC_STAT, 8, 1⟩
def DEC_STAT_SPARED : Field := ⟨DEC_STAT, 2, 1⟩
def DEC_STAT_LANE_FAULT : Field := ⟨DEC_STAT, 1, 1⟩
def DEC_HOLD_CAUSE_WEST_BEDS : Field := ⟨DEC_HOLD_CAUSE, 7, 1⟩
def DEC_HOLD_CAUSE_EAST_BEDS : Field := ⟨DEC_HOLD_CAUSE, 6, 1⟩
def DEC_HOLD_CAUSE_DRAIN : Field := ⟨DEC_HOLD_CAUSE, 5, 1⟩
def DEC_HOLD_CAUSE_RECORD_HOLD : Field := ⟨DEC_HOLD_CAUSE, 4, 1⟩
def DEC_HOLD_CAUSE_SYNC_SLIP : Field := ⟨DEC_HOLD_CAUSE, 3, 1⟩
def DEC_HOLD_CAUSE_TICK_LOSS : Field := ⟨DEC_HOLD_CAUSE, 2, 1⟩
def DEC_HOLD_CAUSE_FALLOW : Field := ⟨DEC_HOLD_CAUSE, 1, 1⟩
def DEC_HOLD_CAUSE_NOT_GROWING : Field := ⟨DEC_HOLD_CAUSE, 0, 1⟩
def RNG_CTL_CASC_EN : Field := ⟨RNG_CTL, 0, 1⟩
def RNG_STAT_NO_LEAD : Field := ⟨RNG_STAT, 5, 1⟩
def RNG_STAT_COUNT_BAD : Field := ⟨RNG_STAT, 4, 1⟩
def RNG_STAT_LOCAL_LAUNCH : Field := ⟨RNG_STAT, 3, 1⟩
def RNG_STAT_TAKEOVER : Field := ⟨RNG_STAT, 2, 1⟩
def RNG_STAT_REROUTE : Field := ⟨RNG_STAT, 1, 1⟩
def RNG_STAT_FEC_UNCORR : Field := ⟨RNG_STAT, 0, 1⟩
def RNG_ROLE_YDIM : Field := ⟨RNG_ROLE, 24, 4⟩
def RNG_ROLE_XDIM : Field := ⟨RNG_ROLE, 16, 8⟩
def RNG_ROLE_ROLE : Field := ⟨RNG_ROLE, 14, 2⟩
def RNG_ROLE_LEAD : Field := ⟨RNG_ROLE, 8, 6⟩
def RNG_ROLE_ANCHOR_Y : Field := ⟨RNG_ROLE, 7, 1⟩
def RNG_ROLE_ANCHOR_X : Field := ⟨RNG_ROLE, 6, 1⟩
def RNG_ROLE_POSITION : Field := ⟨RNG_ROLE, 0, 6⟩
def RNG_PORT_STAT0_PEER : Field := ⟨RNG_PORT_STAT0, 8, 6⟩
def RNG_PORT_STAT0_CABLE_BAD : Field := ⟨RNG_PORT_STAT0, 4, 1⟩
def RNG_PORT_STAT0_RATE_BAD : Field := ⟨RNG_PORT_STAT0, 3, 1⟩
def RNG_PORT_STAT0_VER_BAD : Field := ⟨RNG_PORT_STAT0, 2, 1⟩
def RNG_PORT_STAT0_DOWN : Field := ⟨RNG_PORT_STAT0, 1, 1⟩
def RNG_PORT_STAT0_UP : Field := ⟨RNG_PORT_STAT0, 0, 1⟩
def RNG_LAUNCH_MISSING : Field := ⟨RNG_LAUNCH, 8, 6⟩
def RNG_LAUNCH_CODE : Field := ⟨RNG_LAUNCH, 0, 4⟩
def RNG_MIRROR_TGT_VALID : Field := ⟨RNG_MIRROR_TGT, 6, 1⟩
def RNG_MIRROR_TGT_POSITION : Field := ⟨RNG_MIRROR_TGT, 0, 6⟩
def HST_CTL_BULK_SHARE : Field := ⟨HST_CTL, 4, 4⟩
def HST_CTL_LINK_RESET : Field := ⟨HST_CTL, 1, 1⟩
def HST_CTL_LINK_EN : Field := ⟨HST_CTL, 0, 1⟩
def HST_STAT_LANESET : Field := ⟨HST_STAT, 7, 1⟩
def HST_STAT_SOW_OPEN : Field := ⟨HST_STAT, 6, 1⟩
def HST_STAT_WAKE : Field := ⟨HST_STAT, 5, 1⟩
def HST_STAT_BOOTROM : Field := ⟨HST_STAT, 4, 1⟩
def HST_STAT_RETRY : Field := ⟨HST_STAT, 3, 1⟩
def HST_STAT_LINK_DOWN : Field := ⟨HST_STAT, 2, 1⟩
def HST_STAT_VER_BAD : Field := ⟨HST_STAT, 1, 1⟩
def HST_STAT_LINK_UP : Field := ⟨HST_STAT, 0, 1⟩
def HST_LANES_RATE : Field := ⟨HST_LANES, 8, 4⟩
def HST_LANES_MASK : Field := ⟨HST_LANES, 0, 8⟩
def HST_TX_SEQ_UNACKED : Field := ⟨HST_TX_SEQ, 16, 16⟩
def HST_TX_SEQ_NEXT : Field := ⟨HST_TX_SEQ, 0, 16⟩
def HST_CREDIT0_REC : Field := ⟨HST_CREDIT0, 16, 16⟩
def HST_CREDIT0_RSP : Field := ⟨HST_CREDIT0, 0, 16⟩
def HST_CREDIT1_REQ : Field := ⟨HST_CREDIT1, 16, 16⟩
def HST_CREDIT1_BULK : Field := ⟨HST_CREDIT1, 0, 16⟩
def TIM_CTL_MANUAL : Field := ⟨TIM_CTL, 4, 1⟩
def TIM_CTL_PPS_EN : Field := ⟨TIM_CTL, 3, 1⟩
def TIM_CTL_JUMP_ACCEPT : Field := ⟨TIM_CTL, 2, 1⟩
def TIM_CTL_AUTO_SWITCH : Field := ⟨TIM_CTL, 1, 1⟩
def TIM_CTL_SEL : Field := ⟨TIM_CTL, 0, 1⟩
def TIM_STAT_PPS_BAD : Field := ⟨TIM_STAT, 7, 1⟩
def TIM_STAT_PPS_MISS : Field := ⟨TIM_STAT, 6, 1⟩
def TIM_STAT_JUMP_REF : Field := ⟨TIM_STAT, 5, 1⟩
def TIM_STAT_JUMP_PEND : Field := ⟨TIM_STAT, 4, 1⟩
def TIM_STAT_SWITCHED : Field := ⟨TIM_STAT, 3, 1⟩
def TIM_STAT_PARALLEL : Field := ⟨TIM_STAT, 2, 1⟩
def TIM_STAT_SELECTED : Field := ⟨TIM_STAT, 1, 1⟩
def TIM_STAT_LOCKED : Field := ⟨TIM_STAT, 0, 1⟩
def TIM_D_CTL_DOMAIN : Field := ⟨TIM_D_CTL, 16, 7⟩
def TIM_D_CTL_P2P : Field := ⟨TIM_D_CTL, 8, 1⟩
def TIM_D_CTL_UDP : Field := ⟨TIM_D_CTL, 1, 1⟩
def TIM_D_CTL_EN : Field := ⟨TIM_D_CTL, 0, 1⟩
def TIM_D_STAT_MASTER_CHG : Field := ⟨TIM_D_STAT, 3, 1⟩
def TIM_D_STAT_HOLDOVER : Field := ⟨TIM_D_STAT, 2, 1⟩
def TIM_D_STAT_LOCKED : Field := ⟨TIM_D_STAT, 1, 1⟩
def TIM_D_STAT_LINK : Field := ⟨TIM_D_STAT, 0, 1⟩
def TOP_ROT_CTL_PHASE : Field := ⟨TOP_ROT_CTL, 16, 4⟩
def TOP_ROT_CTL_MOVE : Field := ⟨TOP_ROT_CTL, 8, 4⟩
def TOP_ROT_CTL_SOURCE : Field := ⟨TOP_ROT_CTL, 6, 1⟩
def TOP_ROT_CTL_CMD : Field := ⟨TOP_ROT_CTL, 0, 4⟩
def TOP_ROT_STAT_TARGETS : Field := ⟨TOP_ROT_STAT, 24, 4⟩
def TOP_ROT_STAT_LEAVING : Field := ⟨TOP_ROT_STAT, 20, 4⟩
def TOP_ROT_STAT_DEFERRED : Field := ⟨TOP_ROT_STAT, 4, 1⟩
def TOP_ROT_STAT_CODE : Field := ⟨TOP_ROT_STAT, 0, 4⟩
def TOP_UC_CTL_PORT : Field := ⟨TOP_UC_CTL, 8, 5⟩
def TOP_UC_CTL_CMD : Field := ⟨TOP_UC_CTL, 0, 4⟩
def TOP_UC_STAT_CODE : Field := ⟨TOP_UC_STAT, 0, 4⟩
def TOP_UC_VER_STANDBY : Field := ⟨TOP_UC_VER, 16, 16⟩
def TOP_UC_VER_RUNNING : Field := ⟨TOP_UC_VER, 0, 16⟩
def PWR_CTL_WAKE_HOST_EN : Field := ⟨PWR_CTL, 2, 1⟩
def PWR_CTL_FALLOW_NOW : Field := ⟨PWR_CTL, 1, 1⟩
def PWR_STAT_LAST_ABORT : Field := ⟨PWR_STAT, 9, 3⟩
def PWR_STAT_WAKE_SRC : Field := ⟨PWR_STAT, 6, 2⟩
def PWR_STAT_BROWNOUT : Field := ⟨PWR_STAT, 5, 1⟩
def PWR_STAT_THERMAL_OFF : Field := ⟨PWR_STAT, 4, 1⟩
def PWR_STAT_ALARM : Field := ⟨PWR_STAT, 3, 1⟩
def PWR_STAT_THROTTLE : Field := ⟨PWR_STAT, 2, 1⟩
def PWR_STAT_OVER : Field := ⟨PWR_STAT, 1, 1⟩
def PWR_STAT_WOKE : Field := ⟨PWR_STAT, 0, 1⟩
def CLK_SEL_DOMAIN : Field := ⟨CLK_SEL, 0, 6⟩
def CLK_STAT_DSTATE : Field := ⟨CLK_STAT, 24, 4⟩
def CLK_STAT_REF_LOSS : Field := ⟨CLK_STAT, 3, 1⟩
def CLK_STAT_UNLOCK : Field := ⟨CLK_STAT, 2, 1⟩
def CLK_STAT_PLLS_LOCKED : Field := ⟨CLK_STAT, 1, 1⟩
def CLK_STAT_REF_OK : Field := ⟨CLK_STAT, 0, 1⟩
def THM_WARN_LEVEL : Field := ⟨THM_WARN, 0, 8⟩
def THM_SEL_SENSOR : Field := ⟨THM_SEL, 0, 5⟩
def THM_MAX_STACK : Field := ⟨THM_MAX, 16, 16⟩
def THM_MAX_JUNCTION : Field := ⟨THM_MAX, 0, 16⟩
def THM_STAT_TRIP_SRC : Field := ⟨THM_STAT, 8, 2⟩
def THM_STAT_TRIPPED : Field := ⟨THM_STAT, 2, 1⟩
def THM_STAT_WARN_SEEN : Field := ⟨THM_STAT, 1, 1⟩
def THM_STAT_WARN : Field := ⟨THM_STAT, 0, 1⟩
def TOP_ID_PART : Field := ⟨TOP_ID, 16, 16⟩
def TOP_ID_ORDER : Field := ⟨TOP_ID, 12, 4⟩
def TOP_ID_STEPPING : Field := ⟨TOP_ID, 8, 4⟩
def TOP_ID_VERSION : Field := ⟨TOP_ID, 0, 4⟩
def TOP_VERSION_ARCH_MAJOR : Field := ⟨TOP_VERSION, 20, 4⟩
def TOP_VERSION_IMG_MINOR : Field := ⟨TOP_VERSION, 8, 8⟩
def TOP_VERSION_REG_MINOR : Field := ⟨TOP_VERSION, 0, 8⟩
def TOP_CAP_SLOTS_PER_BED : Field := ⟨TOP_CAP, 16, 8⟩
def TOP_CAP_STREAM_LANES : Field := ⟨TOP_CAP, 8, 8⟩
def TOP_CAP_ENGINES : Field := ⟨TOP_CAP, 4, 2⟩
def TOP_CAP_BEDS : Field := ⟨TOP_CAP, 0, 4⟩
def TOP_CTL_WARM_RESET : Field := ⟨TOP_CTL, 8, 1⟩
def TOP_CTL_LOOSE : Field := ⟨TOP_CTL, 0, 1⟩
def TOP_STAT_DRAINING : Field := ⟨TOP_STAT, 12, 1⟩
def TOP_STAT_FIRM_LOCKED : Field := ⟨TOP_STAT, 11, 1⟩
def TOP_STAT_LOOSE_IN_FORCE : Field := ⟨TOP_STAT, 10, 1⟩
def TOP_STAT_HOLD : Field := ⟨TOP_STAT, 9, 1⟩
def TOP_STAT_DEGRADED : Field := ⟨TOP_STAT, 8, 1⟩
def TOP_STAT_STATE : Field := ⟨TOP_STAT, 0, 4⟩
def TOP_ACC_STAT_REASON : Field := ⟨TOP_ACC_STAT, 4, 4⟩
def TOP_ACC_STAT_PATH : Field := ⟨TOP_ACC_STAT, 1, 2⟩
def TOP_ACC_STAT_ERR : Field := ⟨TOP_ACC_STAT, 0, 1⟩
def TOP_ACC_ADDR_ADDR : Field := ⟨TOP_ACC_ADDR, 0, 32⟩

/-- Offset of bed `b`'s registers (Table 20.1). -/
def bedOff (b : Nat) : Nat := b * 0x4000
/-- Offset of engine `e`'s registers: 0 east, 1 west (Table 20.1). -/
def lssOff (e : Nat) : Nat := e * 0x8000
/-- Offset of lane `l`'s registers (Table 20.1). -/
def lnkOff (l : Nat) : Nat := l * 0x100
/-- Offset of domain `d`'s registers: 0 TIMA, 1 TIMB (R491). -/
def timOff (d : Nat) : Nat := d * 0x100

/-- The address of instance 0 of the register at `a` (Table 20.1). -/
def regCanon (a : Nat) : Nat :=
  if 0x20000 ≤ a ∧ a < 0x30000 then 0x20000 + a % 0x4000
  else if 0x40000 ≤ a ∧ a < 0x50000 then 0x40000 + a % 0x8000
  else if 0x90000 ≤ a ∧ a < 0x95000 then 0x90000 + a % 0x100
  else if 0xE0200 ≤ a ∧ a < 0xE0300 then a - 0x100
  else a

def rows00_a : List RegRow := [
  ⟨TOP_ID, 0x0, 0x0, 0x0, 0x0⟩,
  ⟨TOP_VERSION, 0x100000, 0x0, 0x0, 0x0⟩,
  ⟨TOP_CAP, 0x0, 0x0, 0x0, 0x0⟩,
  ⟨TOP_CTL, 0x0, 0x1, 0x0, 0x0⟩,
  ⟨TOP_STAT, 0x200, 0x0, 0x0, 0x0⟩,
  ⟨TOP_SCRATCH, 0x0, 0xFFFFFFFF, 0x0, 0x0⟩,
  ⟨TOP_ACC_STAT, 0x0, 0x0, 0x1, 0x0⟩,
  ⟨TOP_ACC_ADDR, 0x0, 0x0, 0x0, 0x0⟩,
  ⟨TOP_ROT_CTL, 0x0, 0xF0F40, 0x0, 0x0⟩,
  ⟨TOP_ROT_STAT, 0x0, 0x0, 0x0, 0x0⟩,
  ⟨TOP_ROT_HZN_LO, 0x0, 0xFFFFFFFF, 0x0, 0x0⟩,
  ⟨TOP_ROT_HZN_HI, 0x0, 0xFFFFFFFF, 0x0, 0x0⟩,
  ⟨TOP_ROT_QNEW, 0x0, 0x0, 0x0, 0x0⟩,
  ⟨TOP_ROT_SNEW, 0x0, 0x0, 0x0, 0x0⟩,
  ⟨TOP_UC_CTL, 0x0, 0x1F00, 0x0, 0x0⟩,
  ⟨TOP_UC_STAT, 0x0, 0x0, 0x0, 0x0⟩]

def rows00_b : List RegRow := [
  ⟨TOP_UC_VER, 0x0, 0x0, 0x0, 0x0⟩]

/-- The registers of block 0x0 (Table 20.1). -/
def rows00 : List RegRow := rows00_a ++ rows00_b

def rows01_a : List RegRow := [
  ⟨HZN_COUNT_LO, 0x0, 0x0, 0x0, 0x0⟩,
  ⟨HZN_COUNT_HI, 0x0, 0x0, 0x0, 0x0⟩,
  ⟨HZN_LAUNCH_LO, 0x0, 0xFFFFFFFF, 0x0, 0x0⟩,
  ⟨HZN_LAUNCH_HI, 0x0, 0xFFFFFFFF, 0x0, 0x0⟩,
  ⟨HZN_PRESET_LO, 0x0, 0xFFFFFFFF, 0x0, 0x0⟩,
  ⟨HZN_PRESET_HI, 0x0, 0xFFFFFFFF, 0x0, 0x0⟩,
  ⟨HZN_CTL, 0x0, 0xFFFF013, 0x0, 0x0⟩,
  ⟨HZN_STAT, 0x0, 0x0, 0x700, 0x0⟩,
  ⟨HZN_TICK_PERIOD, 0x0, 0x0, 0x0, 0x0⟩,
  ⟨HZN_ALIGN, 0x0, 0x0, 0x0, 0x0⟩,
  ⟨HZN_QLAT, 0x0, 0x0, 0x0, 0x0⟩,
  ⟨HZN_SLAT, 0x0, 0x0, 0x0, 0x0⟩,
  ⟨HZN_LATE_CNT, 0x0, 0x0, 0x0, 0xFFFFFFFF⟩,
  ⟨HZN_EARLY_CNT, 0x0, 0x0, 0x0, 0xFFFFFFFF⟩,
  ⟨HZN_ABSENT_CNT, 0x0, 0x0, 0x0, 0xFFFFFFFF⟩,
  ⟨HZN_SLIP_CNT, 0x0, 0x0, 0x0, 0xFFFFFFFF⟩]

def rows01_b : List RegRow := [
  ⟨HZN_CAP, 0xA00001, 0x0, 0x0, 0x0⟩]

/-- The registers of block 0x1 (Table 20.1). -/
def rows01 : List RegRow := rows01_a ++ rows01_b

def rows02_a : List RegRow := [
  ⟨BED_CTL, 0x0, 0x4, 0x0, 0x0⟩,
  ⟨BED_STAT, 0x1000000, 0x0, 0x7F, 0x0⟩,
  ⟨BED_LAT, 0x0, 0x0, 0x0, 0x0⟩,
  ⟨BED_CAP, 0x400211, 0x0, 0x0, 0x0⟩,
  ⟨BED_II, 0x0, 0x0, 0x0, 0x0⟩,
  ⟨BED_COLMAP, 0x7F7F, 0x0, 0x0, 0x0⟩,
  ⟨BED_MIRROR, 0x0, 0x0, 0x0, 0x0⟩,
  ⟨BED_TSIG0, 0x0, 0x0, 0x0, 0x0⟩,
  ⟨BED_TSIG1, 0xA020414, 0x0, 0x0, 0x0⟩,
  ⟨BED_TSIG2, 0x20C0406, 0x0, 0x0, 0x0⟩,
  ⟨BED_SLOTS_LO, 0x0, 0x0, 0x0, 0x0⟩,
  ⟨BED_SLOTS_HI, 0x0, 0x0, 0x0, 0x0⟩,
  ⟨BED_FRAMES_LO, 0x0, 0x0, 0x0, 0x0⟩,
  ⟨BED_FRAMES_HI, 0x0, 0x0, 0x0, 0x0⟩,
  ⟨BED_SUB_CNT, 0x0, 0x0, 0x0, 0xFFFFFFFF⟩,
  ⟨BED_SAT_CNT, 0x0, 0x0, 0x0, 0xFFFFFFFF⟩]

def rows02_b : List RegRow := [
  ⟨BED_OCC_ERR_CNT, 0x0, 0x0, 0x0, 0xFFFFFFFF⟩,
  ⟨BED_STEER_ERR_CNT, 0x0, 0x0, 0x0, 0xFFFFFFFF⟩,
  ⟨BED_SOLO_CNT, 0x0, 0x0, 0x0, 0xFFFFFFFF⟩,
  ⟨BED_CORR_LO, 0x0, 0xFFFFFFFF, 0x0, 0x0⟩,
  ⟨BED_CORR_HI, 0x0, 0xFFFFFFFF, 0x0, 0x0⟩,
  ⟨BED_CORR_STAT, 0x0, 0x0, 0x0, 0x0⟩]

/-- The registers of block 0x2 (Table 20.1). -/
def rows02 : List RegRow := rows02_a ++ rows02_b

def rows03_a : List RegRow := [
  ⟨GRN_SEL, 0x0, 0x31F00FF, 0x0, 0x0⟩,
  ⟨GRN_CMD, 0x0, 0x0, 0x0, 0x0⟩,
  ⟨GRN_STAT, 0x0, 0x0, 0x4, 0x0⟩,
  ⟨GRN_ECC_CNT, 0x0, 0x0, 0x0, 0xFFFFFFFF⟩,
  ⟨GRN_SAT_CNT, 0x0, 0x0, 0x0, 0xFFFFFFFF⟩,
  ⟨GRN_ROUTE_IDX, 0x0, 0xFF, 0x0, 0x0⟩,
  ⟨GRN_ROUTE, 0x0, 0x0, 0x0, 0x0⟩,
  ⟨GRN_CORR_ADDR, 0x0, 0x3F, 0x0, 0x0⟩]

/-- The registers of block 0x3 (Table 20.1). -/
def rows03 : List RegRow := rows03_a

def rows04_a : List RegRow := [
  ⟨LSS_CAP, 0x100800A, 0x0, 0x0, 0x0⟩,
  ⟨LSS_CTL, 0x2, 0x6, 0x0, 0x0⟩,
  ⟨LSS_STAT, 0x0, 0x0, 0x7F, 0x0⟩,
  ⟨LSS_LAG, 0x0, 0x0, 0x0, 0x0⟩,
  ⟨LSS_LAG_USED, 0x0, 0x0, 0x0, 0x0⟩,
  ⟨LSS_WARM, 0x0, 0x0, 0x0, 0x0⟩,
  ⟨LSS_WARM_END_LO, 0x0, 0x0, 0x0, 0x0⟩,
  ⟨LSS_WARM_END_HI, 0x0, 0x0, 0x0, 0x0⟩,
  ⟨LSS_CTX_LATE_CNT, 0x0, 0x0, 0x0, 0xFFFFFFFF⟩,
  ⟨LSS_SET_LATE_CNT, 0x0, 0x0, 0x0, 0xFFFFFFFF⟩,
  ⟨LSS_SHED_CNT, 0x0, 0x0, 0x0, 0xFFFFFFFF⟩,
  ⟨LSS_ADMIT_CNT, 0x0, 0x0, 0x0, 0xFFFFFFFF⟩,
  ⟨LSS_INFLIGHT, 0x0, 0x0, 0x0, 0x0⟩,
  ⟨LSS_INFLIGHT_MAX, 0x0, 0x0, 0x0, 0x7FF⟩,
  ⟨LSS_BUCKET, 0x0, 0x0, 0x0, 0x0⟩,
  ⟨LSS_SEQ_ERR_CNT, 0x0, 0x0, 0x0, 0xFFFFFFFF⟩]

def rows04_b : List RegRow := [
  ⟨LSS_SAT_CNT, 0x0, 0x0, 0x0, 0xFFFFFFFF⟩,
  ⟨LSS_CLAMP_CNT, 0x0, 0x0, 0x0, 0xFFFFFFFF⟩,
  ⟨LSS_CTX_TIME_MAX, 0x0, 0x0, 0x0, 0xFFFF⟩,
  ⟨LSS_SET_TIME_MAX, 0x0, 0x0, 0x0, 0xFFFF⟩,
  ⟨LSS_CKPT_LO, 0x0, 0x0, 0x0, 0x0⟩,
  ⟨LSS_CKPT_HI, 0x0, 0x0, 0x0, 0x0⟩,
  ⟨LSS_CKPT_STAT, 0x0, 0x0, 0x0, 0x0⟩,
  ⟨LSS_MIRROR_LO, 0x0, 0x0, 0x0, 0x0⟩,
  ⟨LSS_MIRROR_HI, 0x0, 0x0, 0x0, 0x0⟩,
  ⟨LSS_MIRROR_GAP_CNT, 0x0, 0x0, 0x0, 0xFFFFFFFF⟩,
  ⟨LSS_MEM_CAP, 0x1058000, 0x0, 0x0, 0x0⟩,
  ⟨LSS_MEM_ALLOC, 0x0, 0x0, 0x0, 0x0⟩,
  ⟨LSS_MEM_STAT, 0x0, 0x0, 0xFE, 0x0⟩,
  ⟨LSS_MEM_CTL, 0x0, 0x1, 0x0, 0x0⟩,
  ⟨LSS_DRAM_CAPS, 0x2080802, 0x0, 0x0, 0x0⟩,
  ⟨LSS_DRAM_ECC_CNT, 0x0, 0x0, 0x0, 0xFFFFFFFF⟩]

def rows04_c : List RegRow := [
  ⟨LSS_DRAM_UNCORR_CNT, 0x0, 0x0, 0x0, 0xFFFFFFFF⟩,
  ⟨LSS_SILT_ECC_CNT, 0x0, 0x0, 0x0, 0xFFFFFFFF⟩,
  ⟨LSS_SILT_BUSY_CNT, 0x0, 0x0, 0x0, 0xFFFFFFFF⟩,
  ⟨LSS_SILT_ATOM_SAT_CNT, 0x0, 0x0, 0x0, 0xFFFFFFFF⟩,
  ⟨LSS_SPILL_DROP_CNT, 0x0, 0x0, 0x0, 0xFFFFFFFF⟩,
  ⟨LSS_SPILL_LO, 0x0, 0x0, 0x0, 0x0⟩,
  ⟨LSS_SPILL_HI, 0x0, 0x0, 0x0, 0x0⟩,
  ⟨LSS_BLOCK_SEL, 0x1, 0x7, 0x0, 0x0⟩,
  ⟨LSS_BLOCK_MAX, 0x0, 0x0, 0x0, 0xFFFF⟩,
  ⟨LSS_SILT_SEL, 0x0, 0xFF, 0x0, 0x0⟩,
  ⟨LSS_SILT_SPARE, 0x0, 0x0, 0x0, 0x0⟩,
  ⟨LSS_RING_SEL, 0x0, 0x800000FF, 0x0, 0x0⟩,
  ⟨LSS_RING_DEPTH, 0x0, 0x0, 0x0, 0x0⟩,
  ⟨LSS_RING_VALID, 0x0, 0x0, 0x0, 0x0⟩,
  ⟨LSS_RING_BASE, 0x0, 0x0, 0x0, 0x0⟩,
  ⟨LSS_RING_UNITS, 0x0, 0x0, 0x0, 0x0⟩]

def rows04_d : List RegRow := [
  ⟨LSS_RING_START_LO, 0x0, 0x0, 0x0, 0x0⟩,
  ⟨LSS_RING_START_HI, 0x0, 0x0, 0x0, 0x0⟩]

/-- The registers of block 0x4 (Table 20.1). -/
def rows04 : List RegRow := rows04_a ++ rows04_b ++ rows04_c ++ rows04_d

def rows05_a : List RegRow := [
  ⟨AUG_CAP, 0x2000181, 0x0, 0x0, 0x0⟩,
  ⟨AUG_CTL, 0x1, 0x1, 0x0, 0x0⟩,
  ⟨AUG_STAT, 0x0, 0x0, 0xBC, 0x0⟩,
  ⟨AUG_SEQ_LO, 0x0, 0x0, 0x0, 0x0⟩,
  ⟨AUG_SEQ_HI, 0x0, 0x0, 0x0, 0x0⟩,
  ⟨AUG_ACK_LO, 0x0, 0x0, 0x0, 0x0⟩,
  ⟨AUG_ACK_HI, 0x0, 0x0, 0x0, 0x0⟩,
  ⟨AUG_MIRR_LO, 0x0, 0x0, 0x0, 0x0⟩,
  ⟨AUG_MIRR_HI, 0x0, 0x0, 0x0, 0x0⟩,
  ⟨AUG_SEAL_LO, 0x0, 0x0, 0x0, 0x0⟩,
  ⟨AUG_SEAL_HI, 0x0, 0x0, 0x0, 0x0⟩,
  ⟨AUG_TAIL_USED, 0x0, 0x0, 0x0, 0x0⟩,
  ⟨AUG_TAIL_RSV, 0x0, 0x0, 0x0, 0x0⟩,
  ⟨AUG_RATE, 0x0, 0x0, 0x0, 0x0⟩,
  ⟨AUG_HOLD_CNT, 0x0, 0x0, 0x0, 0xFFFFFFFF⟩,
  ⟨AUG_GAP_CNT, 0x0, 0x0, 0x0, 0xFFFFFFFF⟩]

def rows05_b : List RegRow := [
  ⟨AUG_ORPHAN_CNT, 0x0, 0x0, 0x0, 0xFFFFFFFF⟩,
  ⟨AUG_WIN_BASE, 0x0, 0x1FFF, 0x0, 0x0⟩]

/-- The registers of block 0x5 (Table 20.1). -/
def rows05 : List RegRow := rows05_a ++ rows05_b

def rows06_a : List RegRow := [
  ⟨FLT_CAP, 0x130001, 0x0, 0x0, 0x0⟩,
  ⟨FLT_CTL, 0x0, 0x100, 0x0, 0x0⟩,
  ⟨FLT_STAT, 0x0, 0x0, 0x2D, 0x0⟩,
  ⟨FLT_CAUSE, 0x0, 0x0, 0x0, 0x0⟩,
  ⟨FLT_UNIT, 0x0, 0x0, 0x0, 0x0⟩,
  ⟨FLT_HZN_LO, 0x0, 0x0, 0x0, 0x0⟩,
  ⟨FLT_HZN_HI, 0x0, 0x0, 0x0, 0x0⟩,
  ⟨FLT_WINDOW, 0x1000000, 0xFFFFFFFF, 0x0, 0x0⟩,
  ⟨FLT_DIV_LIMIT, 0x2, 0xFF, 0x0, 0x0⟩,
  ⟨FLT_DIV_WINDOW, 0x1000000, 0xFFFFFFFF, 0x0, 0x0⟩,
  ⟨FLT_DIV_CNT, 0x0, 0x0, 0x0, 0x0⟩,
  ⟨FLT_TRANSIENT_CNT, 0x0, 0x0, 0x0, 0xFFFFFFFF⟩,
  ⟨FLT_LASTING_CNT, 0x0, 0x0, 0x0, 0xFFFFFFFF⟩,
  ⟨FLT_SUB_CNT, 0x0, 0x0, 0x0, 0xFFFFFFFF⟩,
  ⟨FLT_PARTIAL_CNT, 0x0, 0x0, 0x0, 0xFFFFFFFF⟩,
  ⟨FLT_DISAGREE_CNT, 0x0, 0x0, 0x0, 0xFFFFFFFF⟩]

def rows06_b : List RegRow := [
  ⟨FLT_UNEXPL_CNT, 0x0, 0x0, 0x0, 0xFFFFFFFF⟩,
  ⟨FLT_DEGRADED, 0x0, 0x0, 0x0, 0x0⟩,
  ⟨FLT_WDOG, 0x64, 0x0, 0x0, 0x0⟩]

/-- The registers of block 0x6 (Table 20.1). -/
def rows06 : List RegRow := rows06_a ++ rows06_b

def rows07_a : List RegRow := [
  ⟨CFG_CAP, 0x1, 0x0, 0x0, 0x0⟩,
  ⟨CFG_CTL, 0x0, 0x0, 0x0, 0x0⟩,
  ⟨CFG_BOOT_STAT, 0x0, 0x0, 0x0, 0x0⟩,
  ⟨CFG_LOAD_STAT, 0xFFFF0000, 0x0, 0x0, 0x0⟩,
  ⟨CFG_GEN_STAT, 0x0, 0x0, 0x0, 0x0⟩,
  ⟨CFG_FW_VER, 0x0, 0x0, 0x0, 0x0⟩,
  ⟨CFG_SERIAL_LO, 0x0, 0x0, 0x0, 0x0⟩,
  ⟨CFG_SERIAL_HI, 0x0, 0x0, 0x0, 0x0⟩,
  ⟨CFG_FLASH0, 0x0, 0x0, 0x0, 0x0⟩,
  ⟨CFG_FLASH1, 0x0, 0x0, 0x0, 0x0⟩]

/-- The registers of block 0x7 (Table 20.1). -/
def rows07 : List RegRow := rows07_a

def rows08_a : List RegRow := [
  ⟨SEC_CAP, 0x411, 0x0, 0x0, 0x0⟩,
  ⟨SEC_CMD, 0x0, 0x0, 0x0, 0x0⟩,
  ⟨SEC_STAT, 0x0, 0x0, 0x4, 0x0⟩,
  ⟨SEC_LOCK, 0x0, 0x0, 0x0, 0x0⟩,
  ⟨SEC_SLOTS, 0x0, 0x0, 0x0, 0x0⟩,
  ⟨SEC_ATT_CNT, 0x0, 0x0, 0x0, 0xFFFFFFFF⟩,
  ⟨SEC_KEYID_LO, 0x0, 0x0, 0x0, 0x0⟩,
  ⟨SEC_KEYID_HI, 0x0, 0x0, 0x0, 0x0⟩,
  ⟨SEC_NONCE0, 0x0, 0xFFFFFFFF, 0x0, 0x0⟩,
  ⟨SEC_NONCE1, 0x0, 0xFFFFFFFF, 0x0, 0x0⟩,
  ⟨SEC_NONCE2, 0x0, 0xFFFFFFFF, 0x0, 0x0⟩,
  ⟨SEC_NONCE3, 0x0, 0xFFFFFFFF, 0x0, 0x0⟩,
  ⟨SEC_NONCE4, 0x0, 0xFFFFFFFF, 0x0, 0x0⟩,
  ⟨SEC_NONCE5, 0x0, 0xFFFFFFFF, 0x0, 0x0⟩,
  ⟨SEC_NONCE6, 0x0, 0xFFFFFFFF, 0x0, 0x0⟩,
  ⟨SEC_NONCE7, 0x0, 0xFFFFFFFF, 0x0, 0x0⟩]

def rows08_b : List RegRow := [
  ⟨SEC_NONCE8, 0x0, 0xFFFFFFFF, 0x0, 0x0⟩,
  ⟨SEC_NONCE9, 0x0, 0xFFFFFFFF, 0x0, 0x0⟩,
  ⟨SEC_NONCE10, 0x0, 0xFFFFFFFF, 0x0, 0x0⟩,
  ⟨SEC_NONCE11, 0x0, 0xFFFFFFFF, 0x0, 0x0⟩,
  ⟨SEC_NONCE12, 0x0, 0xFFFFFFFF, 0x0, 0x0⟩,
  ⟨SEC_NONCE13, 0x0, 0xFFFFFFFF, 0x0, 0x0⟩,
  ⟨SEC_NONCE14, 0x0, 0xFFFFFFFF, 0x0, 0x0⟩,
  ⟨SEC_NONCE15, 0x0, 0xFFFFFFFF, 0x0, 0x0⟩]

/-- The registers of block 0x8 (Table 20.1). -/
def rows08 : List RegRow := rows08_a ++ rows08_b

def rows09_a : List RegRow := [
  ⟨LNK_CTL, 0x401, 0xF05, 0x0, 0x0⟩,
  ⟨LNK_STAT, 0x0, 0x0, 0x1FE, 0x0⟩,
  ⟨LNK_EQ, 0x1, 0xF1, 0x0, 0x0⟩,
  ⟨LNK_ID, 0x0, 0x0, 0x0, 0x0⟩,
  ⟨LNK_HDR_ERR_CNT, 0x0, 0x0, 0x0, 0xFFFFFFFF⟩,
  ⟨LNK_CODE_ERR_CNT, 0x0, 0x0, 0x0, 0xFFFFFFFF⟩,
  ⟨LNK_LOCK_LOSS_CNT, 0x0, 0x0, 0x0, 0xFFFFFFFF⟩,
  ⟨LNK_NOFIT_CNT, 0x0, 0x0, 0x0, 0xFFFFFFFF⟩,
  ⟨LNK_ERASE_CNT, 0x0, 0x0, 0x0, 0xFFFFFFFF⟩,
  ⟨LNK_RETRAIN_CNT, 0x0, 0x0, 0x0, 0xFFFFFFFF⟩,
  ⟨LNK_BLOCKS_LO, 0x0, 0x0, 0x0, 0x0⟩,
  ⟨LNK_BLOCKS_HI, 0x0, 0x0, 0x0, 0x0⟩,
  ⟨LNK_PEER, 0x0, 0x0, 0x0, 0x0⟩,
  ⟨LNK_PRBS_ERR_CNT, 0x0, 0x0, 0x0, 0xFFFFFFFF⟩,
  ⟨LNK_CAP, 0x501F01, 0x0, 0x0, 0x0⟩,
  ⟨LNK_EYE_SEL, 0x0, 0x7F, 0x0, 0x0⟩]

def rows09_b : List RegRow := [
  ⟨LNK_EYE_CTL, 0x1000000, 0x1F0FF7F, 0x0, 0x0⟩,
  ⟨LNK_EYE_STAT, 0x0, 0x0, 0x6, 0x0⟩,
  ⟨LNK_EYE_ERR, 0x0, 0x0, 0x0, 0x0⟩,
  ⟨LNK_EYE_BITS_LO, 0x0, 0x0, 0x0, 0x0⟩,
  ⟨LNK_EYE_BITS_HI, 0x0, 0x0, 0x0, 0x0⟩]

/-- The registers of block 0x9 (Table 20.1). -/
def rows09 : List RegRow := rows09_a ++ rows09_b

def rows0A_a : List RegRow := [
  ⟨STM_CAP, 0x1001, 0x0, 0x0, 0x0⟩,
  ⟨STM_STAT, 0x0, 0x0, 0x3E, 0x0⟩,
  ⟨STM_BIND_IDX, 0x0, 0xFFF, 0x0, 0x0⟩,
  ⟨STM_BIND_SENDER, 0x0, 0xFFFFFFFF, 0x0, 0x0⟩,
  ⟨STM_BIND_TARGET, 0x0, 0xC0FF, 0x0, 0x0⟩,
  ⟨STM_BIND_CMD, 0x0, 0x0, 0x0, 0x0⟩,
  ⟨STM_BIND_COMMIT_LO, 0x0, 0xFFFFFFFF, 0x0, 0x0⟩,
  ⟨STM_BIND_COMMIT_HI, 0x0, 0xFFFFFFFF, 0x0, 0x0⟩,
  ⟨STM_BIND_STAT, 0x0, 0x0, 0x0, 0x0⟩,
  ⟨STM_QUAR_IDX, 0x0, 0xFF, 0x0, 0x0⟩,
  ⟨STM_QUAR_SENDER, 0x0, 0x0, 0x0, 0x0⟩,
  ⟨STM_QUAR_INFO, 0x0, 0x0, 0x0, 0x0⟩,
  ⟨STM_QUAR_FIRST_LO, 0x0, 0x0, 0x0, 0x0⟩,
  ⟨STM_QUAR_FIRST_HI, 0x0, 0x0, 0x0, 0x0⟩,
  ⟨STM_QUAR_CMD, 0x0, 0x0, 0x0, 0x0⟩,
  ⟨STM_QUAR_USED, 0x0, 0x0, 0x0, 0x0⟩]

def rows0A_b : List RegRow := [
  ⟨STM_QUAR_OVF_CNT, 0x0, 0x0, 0x0, 0xFFFFFFFF⟩,
  ⟨STM_LOST_CNT, 0x0, 0x0, 0x0, 0xFFFFFFFF⟩,
  ⟨STM_RSVD_CNT, 0x0, 0x0, 0x0, 0xFFFFFFFF⟩,
  ⟨STM_SUM_OK_CNT, 0x0, 0x0, 0x0, 0xFFFFFFFF⟩,
  ⟨STM_SUM_LATE_CNT, 0x0, 0x0, 0x0, 0xFFFFFFFF⟩,
  ⟨STM_SUM_DUP_CNT, 0x0, 0x0, 0x0, 0xFFFFFFFF⟩,
  ⟨STM_SUM_BAD_CNT, 0x0, 0x0, 0x0, 0xFFFFFFFF⟩,
  ⟨STM_VERBAD_LO, 0x0, 0x0, 0x0, 0x0⟩,
  ⟨STM_VERBAD_HI, 0x0, 0x0, 0x0, 0x0⟩,
  ⟨STM_LANE_RET_LO, 0x0, 0x0, 0x0, 0x0⟩,
  ⟨STM_LANE_RET_HI, 0x0, 0x0, 0x0, 0x0⟩,
  ⟨STM_SLOT_SEL, 0x0, 0xFF, 0x0, 0x0⟩,
  ⟨STM_SLOT_SENDER, 0x0, 0x0, 0x0, 0x0⟩,
  ⟨STM_SLOT_OK_CNT, 0x0, 0x0, 0x0, 0xFFFFFFFF⟩,
  ⟨STM_SLOT_LATE_CNT, 0x0, 0x0, 0x0, 0xFFFFFFFF⟩,
  ⟨STM_SLOT_EARLY_CNT, 0x0, 0x0, 0x0, 0xFFFFFFFF⟩]

def rows0A_c : List RegRow := [
  ⟨STM_SLOT_CORRUPT_CNT, 0x0, 0x0, 0x0, 0xFFFFFFFF⟩,
  ⟨STM_SLOT_ABSENT_CNT, 0x0, 0x0, 0x0, 0xFFFFFFFF⟩,
  ⟨STM_SLOT_REFUSED_CNT, 0x0, 0x0, 0x0, 0xFFFFFFFF⟩,
  ⟨STM_SLOT_DUP_CNT, 0x0, 0x0, 0x0, 0xFFFFFFFF⟩]

/-- The registers of block 0xa (Table 20.1). -/
def rows0A : List RegRow := rows0A_a ++ rows0A_b ++ rows0A_c

def rows0B_a : List RegRow := [
  ⟨DEC_CAP, 0x1081, 0x0, 0x0, 0x0⟩,
  ⟨DEC_CTL, 0xFF, 0xFF, 0x0, 0x0⟩,
  ⟨DEC_STAT, 0x300, 0x0, 0x6, 0x0⟩,
  ⟨DEC_HOLD_CAUSE, 0x1, 0x0, 0x0, 0x0⟩,
  ⟨DEC_LANE_MAP, 0x76543210, 0x0, 0x0, 0x0⟩,
  ⟨DEC_QUICK_LO, 0x0, 0x0, 0x0, 0x0⟩,
  ⟨DEC_QUICK_HI, 0x0, 0x0, 0x0, 0x0⟩,
  ⟨DEC_SETTLED_LO, 0x0, 0x0, 0x0, 0x0⟩,
  ⟨DEC_SETTLED_HI, 0x0, 0x0, 0x0, 0x0⟩,
  ⟨DEC_HOLD_CNT, 0x0, 0x0, 0x0, 0xFFFFFFFF⟩,
  ⟨DEC_PLACE_MAX, 0x0, 0x0, 0x0, 0xFFFF⟩]

/-- The registers of block 0xb (Table 20.1). -/
def rows0B : List RegRow := rows0B_a

def rows0C_a : List RegRow := [
  ⟨RNG_CAP, 0x401001, 0x0, 0x0, 0x0⟩,
  ⟨RNG_CTL, 0x0, 0x1, 0x0, 0x0⟩,
  ⟨RNG_STAT, 0x0, 0x0, 0x1F, 0x0⟩,
  ⟨RNG_ROLE, 0x0, 0x0, 0x0, 0x0⟩,
  ⟨RNG_PORT_STAT0, 0x0, 0x0, 0x0, 0x0⟩,
  ⟨RNG_PORT_STAT1, 0x0, 0x0, 0x0, 0x0⟩,
  ⟨RNG_PORT_STAT2, 0x0, 0x0, 0x0, 0x0⟩,
  ⟨RNG_PORT_STAT3, 0x0, 0x0, 0x0, 0x0⟩,
  ⟨RNG_CABLE0, 0x0, 0x0, 0x0, 0x0⟩,
  ⟨RNG_CABLE1, 0x0, 0x0, 0x0, 0x0⟩,
  ⟨RNG_CABLE2, 0x0, 0x0, 0x0, 0x0⟩,
  ⟨RNG_CABLE3, 0x0, 0x0, 0x0, 0x0⟩,
  ⟨RNG_FEC_CORR_CNT, 0x0, 0x0, 0x0, 0xFFFFFFFF⟩,
  ⟨RNG_FEC_UNCORR_CNT, 0x0, 0x0, 0x0, 0xFFFFFFFF⟩,
  ⟨RNG_RETRY_CNT, 0x0, 0x0, 0x0, 0xFFFFFFFF⟩,
  ⟨RNG_REROUTE_CNT, 0x0, 0x0, 0x0, 0xFFFFFFFF⟩]

def rows0C_b : List RegRow := [
  ⟨RNG_LAUNCH, 0x0, 0x0, 0x0, 0x0⟩,
  ⟨RNG_REACH_LO, 0x0, 0x0, 0x0, 0x0⟩,
  ⟨RNG_REACH_HI, 0x0, 0x0, 0x0, 0x0⟩,
  ⟨RNG_MIRROR_TGT, 0x0, 0x0, 0x0, 0x0⟩,
  ⟨RNG_TAKEOVER_LO, 0x0, 0x0, 0x0, 0x0⟩,
  ⟨RNG_TAKEOVER_HI, 0x0, 0x0, 0x0, 0x0⟩,
  ⟨RNG_LCK_CTL, 0x0, 0x3F01, 0x0, 0x0⟩,
  ⟨RNG_LCK_STAT, 0x0, 0x0, 0x1E, 0x0⟩,
  ⟨RNG_LCK_START_LO, 0x0, 0xFFFFFFFF, 0x0, 0x0⟩,
  ⟨RNG_LCK_START_HI, 0x0, 0xFFFFFFFF, 0x0, 0x0⟩,
  ⟨RNG_LCK_DIV_LO, 0x0, 0x0, 0x0, 0x0⟩,
  ⟨RNG_LCK_DIV_HI, 0x0, 0x0, 0x0, 0x0⟩,
  ⟨RNG_LCK_DIV_LOC, 0x0, 0x0, 0x0, 0x0⟩,
  ⟨RNG_LCK_SNAP_LO, 0x0, 0x0, 0x0, 0x0⟩,
  ⟨RNG_LCK_SNAP_HI, 0x0, 0x0, 0x0, 0x0⟩,
  ⟨RNG_LCK_WIN_LO, 0x0, 0x0, 0x0, 0x0⟩]

def rows0C_c : List RegRow := [
  ⟨RNG_LCK_WIN_HI, 0x0, 0x0, 0x0, 0x0⟩,
  ⟨RNG_LCK_GAP_CNT, 0x0, 0x0, 0x0, 0xFFFFFFFF⟩]

/-- The registers of block 0xc (Table 20.1). -/
def rows0C : List RegRow := rows0C_a ++ rows0C_b ++ rows0C_c

def rows0D_a : List RegRow := [
  ⟨HST_CAP, 0x1081, 0x0, 0x0, 0x0⟩,
  ⟨HST_CTL, 0x41, 0xF1, 0x0, 0x0⟩,
  ⟨HST_STAT, 0x0, 0x0, 0xAE, 0x0⟩,
  ⟨HST_LANES, 0x0, 0x0, 0x0, 0x0⟩,
  ⟨HST_TX_SEQ, 0x0, 0x0, 0x0, 0x0⟩,
  ⟨HST_RX_SEQ, 0x0, 0x0, 0x0, 0x0⟩,
  ⟨HST_CREDIT0, 0x0, 0x0, 0x0, 0x0⟩,
  ⟨HST_CREDIT1, 0x0, 0x0, 0x0, 0x0⟩,
  ⟨HST_LAST_TAG, 0x0, 0x0, 0x0, 0x0⟩,
  ⟨HST_RETRY_CNT, 0x0, 0x0, 0x0, 0xFFFFFFFF⟩,
  ⟨HST_CRC_ERR_CNT, 0x0, 0x0, 0x0, 0xFFFFFFFF⟩,
  ⟨HST_SEQ_DISCARD_CNT, 0x0, 0x0, 0x0, 0xFFFFFFFF⟩,
  ⟨HST_LINKDOWN_CNT, 0x0, 0x0, 0x0, 0xFFFFFFFF⟩,
  ⟨HST_REQ_CNT, 0x0, 0x0, 0x0, 0xFFFFFFFF⟩,
  ⟨HST_REQ_ERR_CNT, 0x0, 0x0, 0x0, 0xFFFFFFFF⟩,
  ⟨HST_WAKE_CNT, 0x0, 0x0, 0x0, 0xFFFFFFFF⟩]

def rows0D_b : List RegRow := [
  ⟨HST_BULK_LO, 0x0, 0x0, 0x0, 0x0⟩,
  ⟨HST_BULK_HI, 0x0, 0x0, 0x0, 0x0⟩]

/-- The registers of block 0xd (Table 20.1). -/
def rows0D : List RegRow := rows0D_a ++ rows0D_b

def rows0E_a : List RegRow := [
  ⟨TIM_CAP, 0x2121, 0x0, 0x0, 0x0⟩,
  ⟨TIM_CTL, 0x2, 0x1B, 0x0, 0x0⟩,
  ⟨TIM_STAT, 0x4, 0x0, 0xE8, 0x0⟩,
  ⟨TIM_JUMP_LIMIT, 0x3E8, 0xFFFFFFFF, 0x0, 0x0⟩,
  ⟨TIM_CNT_LO, 0x0, 0x0, 0x0, 0x0⟩,
  ⟨TIM_CNT_HI, 0x0, 0x0, 0x0, 0x0⟩,
  ⟨TIM_NOW_LO, 0x0, 0x0, 0x0, 0x0⟩,
  ⟨TIM_NOW_HI, 0x0, 0x0, 0x0, 0x0⟩,
  ⟨TIM_NOW_FRAC, 0x0, 0x0, 0x0, 0x0⟩,
  ⟨TIM_PPS_LO, 0x0, 0x0, 0x0, 0x0⟩,
  ⟨TIM_PPS_HI, 0x0, 0x0, 0x0, 0x0⟩,
  ⟨TIM_PPS_TOL, 0x64, 0xFFFF, 0x0, 0x0⟩,
  ⟨TIM_SWITCH_CNT, 0x0, 0x0, 0x0, 0xFFFFFFFF⟩,
  ⟨TIM_JUMP_REF_CNT, 0x0, 0x0, 0x0, 0xFFFFFFFF⟩,
  ⟨TIM_STEP_CNT, 0x0, 0x0, 0x0, 0xFFFFFFFF⟩,
  ⟨TIM_PPS_MISS_CNT, 0x0, 0x0, 0x0, 0xFFFFFFFF⟩]

def rows0E_b : List RegRow := [
  ⟨TIM_D_CTL, 0x1, 0x7F0103, 0x0, 0x0⟩,
  ⟨TIM_D_STAT, 0x0, 0x0, 0x8, 0x0⟩,
  ⟨TIM_D_RATE, 0x0, 0xFFFFFFFF, 0x0, 0x0⟩,
  ⟨TIM_D_OFF0, 0x0, 0x0, 0x0, 0x0⟩,
  ⟨TIM_D_OFF1, 0x0, 0x0, 0x0, 0x0⟩,
  ⟨TIM_D_OFF2, 0x0, 0x0, 0x0, 0x0⟩,
  ⟨TIM_D_STEP_LO, 0x0, 0xFFFFFFFF, 0x0, 0x0⟩,
  ⟨TIM_D_STEP_HI, 0x0, 0xFFFFFFFF, 0x0, 0x0⟩,
  ⟨TIM_D_MASTER_LO, 0x0, 0x0, 0x0, 0x0⟩,
  ⟨TIM_D_MASTER_HI, 0x0, 0x0, 0x0, 0x0⟩,
  ⟨TIM_D_OFM, 0x0, 0x0, 0x0, 0x0⟩,
  ⟨TIM_D_MPD, 0x0, 0x0, 0x0, 0x0⟩,
  ⟨TIM_D_ASYM, 0x0, 0xFFFFFFFF, 0x0, 0x0⟩,
  ⟨TIM_D_RX_CNT, 0x0, 0x0, 0x0, 0xFFFFFFFF⟩]

/-- The registers of block 0xe (Table 20.1). -/
def rows0E : List RegRow := rows0E_a ++ rows0E_b

def rows0F_a : List RegRow := [
  ⟨PWR_CAP, 0x1B580601, 0x0, 0x0, 0x0⟩,
  ⟨PWR_CTL, 0x4, 0x4, 0x0, 0x0⟩,
  ⟨PWR_STAT, 0x0, 0x0, 0x39, 0x0⟩,
  ⟨PWR_IDLE_TICKS, 0x0, 0xFFFFFFFF, 0x0, 0x0⟩,
  ⟨PWR_IDLE_COUNT, 0x0, 0x0, 0x0, 0x0⟩,
  ⟨PWR_BUDGET, 0x1B58, 0xFFFF, 0x0, 0x0⟩,
  ⟨PWR_MEAS, 0x0, 0x0, 0x0, 0x0⟩,
  ⟨PWR_PEAK, 0x0, 0x0, 0x0, 0xFFFF⟩,
  ⟨PWR_VIN, 0x0, 0x0, 0x0, 0x0⟩,
  ⟨PWR_IIN, 0x0, 0x0, 0x0, 0x0⟩,
  ⟨PWR_VSTBY, 0x0, 0x0, 0x0, 0x0⟩,
  ⟨PWR_FALLOW_CNT, 0x0, 0x0, 0x0, 0xFFFFFFFF⟩,
  ⟨PWR_ABORT_CNT, 0x0, 0x0, 0x0, 0xFFFFFFFF⟩,
  ⟨PWR_BROWNOUT_CNT, 0x0, 0x0, 0x0, 0xFFFFFFFF⟩,
  ⟨PWR_OVER_CNT, 0x0, 0x0, 0x0, 0xFFFFFFFF⟩,
  ⟨CLK_CAP, 0x3C01, 0x0, 0x0, 0x0⟩]

def rows0F_b : List RegRow := [
  ⟨CLK_SEL, 0x0, 0x3F, 0x0, 0x0⟩,
  ⟨CLK_FREQ, 0x0, 0x0, 0x0, 0x0⟩,
  ⟨CLK_STAT, 0x0, 0x0, 0xC, 0x0⟩,
  ⟨CLK_UNLOCK_CNT, 0x0, 0x0, 0x0, 0xFFFFFFFF⟩,
  ⟨THM_CAP, 0x1201, 0x0, 0x0, 0x0⟩,
  ⟨THM_LIMITS, 0x73695F00, 0x0, 0x0, 0x0⟩,
  ⟨THM_WARN, 0x5F, 0xFF, 0x0, 0x0⟩,
  ⟨THM_SEL, 0x0, 0x1F, 0x0, 0x0⟩,
  ⟨THM_TEMP, 0x0, 0x0, 0x0, 0x0⟩,
  ⟨THM_MAX, 0x0, 0x0, 0x0, 0x0⟩,
  ⟨THM_STAT, 0x0, 0x0, 0x2, 0x0⟩,
  ⟨THM_WARN_CNT, 0x0, 0x0, 0x0, 0xFFFFFFFF⟩]

/-- The registers of block 0xf (Table 20.1). -/
def rows0F : List RegRow := rows0F_a ++ rows0F_b

/-- The registers of the block at `a`. -/
def blockRows (a : Nat) : List RegRow :=
  match a / 0x10000 with
  | 0x0 => rows00
  | 0x1 => rows01
  | 0x2 => rows02
  | 0x3 => rows03
  | 0x4 => rows04
  | 0x5 => rows05
  | 0x6 => rows06
  | 0x7 => rows07
  | 0x8 => rows08
  | 0x9 => rows09
  | 0xA => rows0A
  | 0xB => rows0B
  | 0xC => rows0C
  | 0xD => rows0D
  | 0xE => rows0E
  | 0xF => rows0F
  | _ => []

/-- The register at `a`, if a table names one; rsvd offsets have none (R528). -/
def rowOf (a : Nat) : Option RegRow :=
  (blockRows a).find? (fun r => r.addr == regCanon a)

/-- The Reset value of the register at `a`; a rsvd register reads zero (R537, R539). -/
def regReset (a : Nat) : Word :=
  match rowOf a with
  | some r => r.reset
  | none => 0

end Sys2Proof.Machine
end

