-- ==== Sys2Proof/Machine/LaneCode.lean ====
section
/-!
DEFINITION. The lane block on the wire: header, scrambling, stuffing and fill of a 1,032-bit block and their removal (R392 to R398),
and the bodies the lane machinery itself reads: training blocks (R400) and CSL data blocks (R413).
-/
namespace Sys2Proof.Machine

/-- The bits of a byte, bit 0 first (R392). -/
def byteBits (b : Byte) : List Bool := (List.range 8).map (fun i => b.getLsbD i)

/-- The byte of eight bits, bit 0 first. -/
def bitsByte (bs : List Bool) : Byte :=
  BitVec.ofNat 8 ((List.range 8).foldl (fun n i => if bs.getD i false then n + 2 ^ i else n) 0)

/-- The bits of a byte string in sending order. -/
def toLineBits (bs : List Byte) : List Bool := bs.flatMap byteBits

/-- The byte string of `n` bytes that bits spell. -/
def ofLineBits : Nat → List Bool → List Byte
  | 0, _ => []
  | n + 1, bs => bitsByte (bs.take 8) :: ofLineBits n (bs.drop 8)

/-- seed_value (R393). -/
def seedValue (seed : Nat) : Nat := [0x7FFFFFFF, 0x55555555, 0x2AAAAAAA, 0x12345679].getD (seed % 4) 0

/-- scramble_body(): additive PRBS31, the same function descrambles (R393). -/
def scramble : Nat → List Bool → List Bool
  | _, [] => []
  | s, x :: xs =>
    let b := (s / 2 ^ 30 + s / 2 ^ 27) % 2
    xor x (b == 1) :: scramble ((s * 2 + b) % 2 ^ 31) xs

/-- Even parity of the low seven bits. -/
def parity7 (n : Nat) : Nat := ((List.range 7).map (fun i => n / 2 ^ i % 2)).sum % 2

/-- A lane header: KIND, SEED, SYNC 0b01 and PAR (Table 13.3). -/
def laneHeader (kind seed : Nat) : Byte :=
  let low := kind % 4 * 16 + seed % 4 * 4 + 1
  BitVec.ofNat 8 (parity7 low * 128 + low)

/-- SYNC is 0b01 and PAR is right (R397). -/
def headerGood (h : Byte) : Bool := h.toNat % 4 = 1 && parity7 h.toNat == h.toNat / 128

/-- The last line bit and the length of its run (R394). -/
structure RunState where
  last : Bool
  run : Nat
deriving DecidableEq, Repr, Inhabited

/-- One line bit passes (R394). -/
def RunState.push (r : RunState) (b : Bool) : RunState :=
  if b = r.last ∧ 0 < r.run then ⟨b, r.run + 1⟩ else ⟨b, 1⟩

/-- Stuff content bits after the run `r`: the line bits, the number of stuff bits, the run left (R394). -/
def stuff : RunState → List Bool → List Bool × Nat × RunState
  | r, [] => ([], 0, r)
  | r, b :: bs =>
    let r1 := r.push b
    if r1.run = 24 then
      let t := stuff ⟨!b, 1⟩ bs
      (b :: (!b) :: t.1, t.2.1 + 1, t.2.2)
    else
      let t := stuff r1 bs
      (b :: t.1, t.2.1, t.2.2)

/-- Fill bits: each the complement of the line bit before it (R395). -/
def fillBits : Nat → RunState → List Bool × RunState
  | 0, r => ([], r)
  | n + 1, r =>
    let t := fillBits n ⟨!r.last, 1⟩
    ((!r.last) :: t.1, t.2)

/-- The line image of content bits, when they fit: at most 8 stuff bits (R395). -/
def lineImage (r : RunState) (content : List Bool) : Option (List Bool × RunState) :=
  let t := stuff r content
  if t.2.1 ≤ 8 then
    let f := fillBits (8 - t.2.1) t.2.2
    some (t.1 ++ f.1, f.2)
  else none

/-- The content of a data or training block under a seed. -/
def blockContent (kind seed : Nat) (body : List Byte) : List Bool :=
  byteBits (laneHeader kind seed) ++ scramble (seedValue seed) (toLineBits (padTo 127 body))

/-- The content of an idle (KIND 1) or erase (KIND 3) block: an unscrambled body of 0x55 (R396). -/
def plainContent (kind : Nat) : List Bool :=
  byteBits (laneHeader kind 0) ++ toLineBits (List.replicate 127 0x55)

/-- A block as sent: its line bits, the run left, and whether it is an erase block in the data block's place (R395, R396). -/
structure SentBlock where
  line : List Bool
  run : RunState
  erased : Bool
deriving DecidableEq, Repr, Inhabited

/-- An idle or erase block, which always fits (R396). -/
def sendPlain (r : RunState) (kind : Nat) : SentBlock :=
  match lineImage r (plainContent kind) with
  | some (l, r') => ⟨l, r', decide (kind = 3)⟩
  | none => ⟨[], r, true⟩

/-- Form a data or training block: the first of seeds 0 to 3 that fits, else an erase block (R395, R396). -/
def sendBlock (r : RunState) (kind : Nat) (body : List Byte) : SentBlock :=
  match [0, 1, 2, 3].findSome? (fun seed => lineImage r (blockContent kind seed body)) with
  | some (l, r') => ⟨l, r', false⟩
  | none => sendPlain r 3

/-- What the receiver takes from the line bits of one block: content bits, stuff bits, a run of 25, and the run left (R397). -/
structure Unstuffed where
  content : List Bool
  stuffed : Nat
  run25 : Bool
  fillBad : Bool
  run : RunState
deriving DecidableEq, Repr, Inhabited

/-- Remove the bit after every run of 24 and take 1,024 content bits; the bits left over are fill (R397). -/
def unstuff : Nat → RunState → List Bool → Unstuffed
  | _, r, [] => ⟨[], 0, false, false, r⟩
  | 0, r, b :: bs =>
    if r.run = 24 then
      let t := unstuff 0 ⟨b, 1⟩ bs
      { t with stuffed := t.stuffed + 1, run25 := t.run25 || (b == r.last) }
    else
      let t := unstuff 0 (r.push b) bs
      { t with fillBad := t.fillBad || (b == r.last) }
  | n + 1, r, b :: bs =>
    if r.run = 24 then
      let t := unstuff (n + 1) ⟨b, 1⟩ bs
      { t with stuffed := t.stuffed + 1, run25 := t.run25 || (b == r.last) }
    else
      let t := unstuff n (r.push b) bs
      { t with content := b :: t.content }

/-- A received block: header, body bytes (descrambled where it is scrambled), code error and whether it counts as failed. -/
structure RxBlock where
  header : Byte
  kind : Nat
  body : List Byte
  codeError : Bool
  headerBad : Bool
  failed : Bool
  run : RunState
deriving DecidableEq, Repr, Inhabited

/-- Take one block of 1,032 line bits (R397); `inverted` undoes an inverted lane (R402). -/
def receiveBlock (r : RunState) (inverted : Bool) (line : BitVec 1032) : RxBlock :=
  let bits := (List.range 1032).map (fun i => xor (line.getLsbD i) inverted)
  let u := unstuff 1024 r bits
  let h := bitsByte (u.content.take 8)
  let kind := h.toNat / 16 % 4
  let seed := h.toNat / 4 % 4
  let raw := u.content.drop 8
  let body := if kind = 0 ∨ kind = 2 then scramble (seedValue seed) raw else raw
  let code := u.run25 || u.fillBad || decide (8 < u.stuffed)
  let hb := !headerGood h
  { header := h, kind := kind, body := ofLineBits 127 body, codeError := code, headerBad := hb
    failed := code || hb || decide (kind = 3), run := u.run }

/-- A training body (Table 13.5); none when its CRC is wrong (R400). -/
structure Training where
  lverMajor : Nat
  lverMinor : Nat
  tstate : Nat
  maxRate : Nat
  nextRate : Nat
  link : Nat
  lane : Nat
  peerId : Word
deriving DecidableEq, Repr, Inhabited

/-- Read a training body (R400). -/
def parseTraining (body : List Byte) : Option Training :=
  if leAt body 12 4 = crc32 (slice body 0 12) then
    some { lverMajor := leAt body 0 1 / 16, lverMinor := leAt body 0 1 % 16, tstate := leAt body 1 1
           maxRate := leAt body 2 1 % 16, nextRate := leAt body 3 1 % 16, link := leAt body 4 1, lane := leAt body 5 1
           peerId := BitVec.ofNat 32 (leAt body 8 4) }
  else none

/-- The training body a transmitter sends (Table 13.5). -/
def trainingBody (tstate maxRate nextRate link lane : Nat) (peerId : Word) : List Byte :=
  let b := [BitVec.ofNat 8 0x10, BitVec.ofNat 8 tstate, BitVec.ofNat 8 maxRate, BitVec.ofNat 8 nextRate,
    BitVec.ofNat 8 link, BitVec.ofNat 8 lane, 0, 0] ++ leBytes 4 peerId.toNat
  padTo 127 (b ++ leBytes 4 (crc32 b))

/-- The FIRST byte and the 122 stream bytes of a CSL data block; none when its CRC is wrong (R413). -/
def parseCsl (body : List Byte) : Option (Nat × List Byte) :=
  if leAt body 123 4 = crc32 (slice body 0 123) then some (leAt body 0 1, slice body 1 122) else none

/-- The link a lane index belongs to: 0 stream, 1 decision, 2 ring, 3 host (Tables 13.1, 13.5). -/
def laneLink (l : Nat) : Nat := if l < 48 then 0 else if l < 56 then 1 else if l < 72 then 2 else 3

/-- The lane number within its link (Table 13.5): a ring lane counts within its port. -/
def laneNumber (l : Nat) : Nat := if l < 48 then l else if l < 56 then l - 48 else if l < 72 then (l - 56) % 4 else l - 72

/-- Decision framing and serialiser latency in fc at a rate code (Table 13.2). -/
def framingFc (rate : Nat) : Nat := [328, 134, 76, 47, 40].getD rate 40

/-- UI of a rate code in units of 1/100 ps (Table 13.2). -/
def uiHundredthPs (rate : Nat) : Nat := [40000, 16000, 8000, 4000, 3125].getD rate 3125

end Sys2Proof.Machine
end

