-- ==== Sys2Proof/Machine/TypesRun.lean ====
section
/-!
DEFINITION. The types of the running state beside the module-wide one: the program in force, beds, frames, loess engines, bindings,
decision output, lanes, ring, lock-step, host link and service. Plain data only.
-/
namespace Sys2Proof.Machine

/-- An image copy in DRAM (R191, R379, R498): bytes, digest, key slot that verified it, image digest index (R289). -/
structure ImageCopy where
  bytes : List Byte
  digest : List Byte
  keySlot : Nat
  index : Nat
  program : Program
deriving DecidableEq, Repr, Inhabited

/-- A committed weight correction: phase, layout bed, grain, word index, 256 bytes (R115). -/
structure Correction where
  phase : Nat
  layoutBed : Nat
  grain : Nat
  word : Nat
  bytes : List Byte
deriving DecidableEq, Repr, Inhabited

/-- A sow in progress (R465). -/
structure Sow where
  staged : Bool
  length : Nat
  bytes : Map Byte
deriving DecidableEq, Repr, Inhabited

/-- A program, phase and placement that were in force for the ticks before `stop` (R496, R121). -/
structure PastProg where
  stop : U64
  image : Option ImageCopy
  phase : Nat
  place : List (Nat × Option Nat)
deriving DecidableEq, Repr, Inhabited

/-- The program in force and what surrounds it (chapter 8). -/
structure Prog where
  /-- the image in force (R289, R292) -/
  image : Option ImageCopy
  /-- the phase in force (R292, R496) -/
  phase : Nat
  /-- physical beds of each layout bed: the bed, and the partner of a mirrored one (R281) -/
  place : List (Nat × Option Nat)
  /-- what was in force before the last changes, newest first: frames of earlier ticks still enter under it (R496) -/
  past : List PastProg
  /-- next image digest index (R289) -/
  nextIndex : Nat
  /-- committed weight corrections (R115) -/
  corrections : List Correction
  /-- the sow in progress (R465) -/
  sow : Option Sow
  /-- the staged image buffer after SOW_END (R498) -/
  staged : Option (List Byte × List Byte)
  /-- the staged image copy runs: bedrock memory holds both digests (R498) -/
  copying : Bool
  /-- the digest of the copy in the image copy region, while copying (R498) -/
  oldDigest : List Byte
  /-- weight correction: per physical bed, armed commit horizon (R114) -/
  corrArmed : Vector (Option U64) 4
deriving DecidableEq, Repr, Inhabited

/-- A spare column that loads or waits for its switch (R112). -/
structure SpareLoad where
  spare : Nat
  /-- the column whose place the spare takes -/
  failed : Nat
  /-- the retired unit that moves -/
  unit : Word
  /-- loading has ended: the boundary of the switch -/
  loaded : Option U64
deriving DecidableEq, Repr, Inhabited

/-- A bed (chapter 3). -/
structure Bed where
  /-- failed physical columns (R112, R280) -/
  failed : List Nat
  /-- spare columns assigned: physical spare and the physical column it replaces (R109) -/
  spares : List (Nat × Nat)
  /-- spare columns that load or wait for their switch (R112) -/
  spareLoad : List SpareLoad
  /-- no spare was left: every frame takes cause 3 (R113) -/
  degraded : Bool
  /-- the variant in force, its phase number and its layout bed (R284, R496) -/
  variant : Option Variant
  /-- the layout bed placed on this bed (R284) -/
  layoutBed : Nat
  /-- the variant loaded as a rotation or rejoin target (R493, R500) -/
  target : Option Variant
  /-- the layout bed of the target variant (R493) -/
  targetBed : Nat
  /-- bank bytes that differ from the zeros of a cleared bank, keyed grain × 16384 + offset (R86, R225) -/
  banks : Map Byte
  /-- weight latches of the MAC arrays, keyed as the banks: the bank bytes as loaded, which serve at II = 1 (R87) -/
  latches : Map Byte
  /-- staging regions that frames have used since the bank was loaded: their bytes are what the frames left (R81, R86) -/
  dirty : List Region
  /-- bytes written through the bank window since the last frame or load (R128) -/
  fresh : Map Byte
  /-- bank bytes of the target variant (R493) -/
  targetBanks : Map Byte
  /-- correction registers, keyed grain × 256 + offset, and the target word index of each filled register (R114) -/
  corrBytes : Map Byte
  /-- word offsets that the correction registers name, by grain (R114) -/
  corrWord : Map Nat
  /-- full bed self-test in progress, and the state to return to (R127) -/
  selfTest : Option Nat
  /-- routes in force after the ledger (R284) -/
  routes : List Route
  /-- a released mirror bed whose last frame is still inside, or the last frame of a bed that leaves (R496, R500) -/
  leaving : Bool
  /-- bank bytes that frames of ticks before a correction's horizon read, newest horizon first (R114) -/
  before : List (U64 × Map Byte)
  /-- the boundary at which this bed of a pair is released (R121) -/
  releaseDue : Option U64
  /-- the running variant has been loaded again: the boundary at which this bed rejoins its pair (R500) -/
  rejoinAt : Option U64
deriving DecidableEq, Repr, Inhabited

/-- A GRN command that runs (R128): 1 snapshot, 2 MAC scan, 3 bank march. -/
structure GrnRun where
  /-- the GRN command that runs (R128) -/
  cmd : Nat
  /-- its bed (R128) -/
  bed : Nat
  /-- its grain (R128) -/
  grain : Nat
deriving DecidableEq, Repr, Inhabited

/-- On-time frames held in the alignment stage for one slot and tick (R58 to R64). -/
structure Arrived where
  layoutBed : Nat
  slot : Nat
  hzn : U64
  count : Nat
  corrupt : Bool
  /-- a class 0x08 error met it on the bridge (R344) -/
  bridge : Bool
  payload : List Byte
  /-- a deepening part was not valid at its combining slot (R447) -/
  missing : Bool
  /-- causes that a valid deepening part carries from its sender (R348) -/
  causes : List Nat
deriving DecidableEq, Repr, Inhabited

/-- One copy of a frame in a bed (R119): verdict bits, summary, intactness, saturation events, entry bytes. -/
structure BedCopy where
  bed : Nat
  bits : Nat
  summary : List Int
  intact : Bool
  /-- cause of the fault that touched it (R347) -/
  cause : Nat
  events : Nat
  entry : List Byte
  /-- the errors that units reported while they handled the copy (R344) -/
  errs : List UnitError
deriving DecidableEq, Repr, Inhabited

/-- An accepted frame, from entry to record (R21, R24). -/
structure Frame where
  hzn : U64
  layoutBed : Nat
  slot : Nat
  phase : Nat
  imageIndex : Nat
  payload : List Byte
  length : Nat
  ownData : Bool
  tally : Bool
  /-- the whole verdict is a compiled substitute from entry (Table 2.1 policy 0) -/
  substitute : Bool
  /-- causes that apply to both verdicts so far -/
  causes : List Nat
  warm : Bool
  dflt : Bool
  clamp : Bool
  sat : Bool
  loose : Bool
  mirror : Bool
  package : List Byte
  /-- the normalisation table came from the loess tier (R298) -/
  fromLoess : Bool
  lag : Nat
  epoch : Nat
  copies : List BedCopy
  /-- the bed verdict register has been written (R103) -/
  exited : Bool
  quick : Verdict
  summary : List Int
  qCauses : List Nat
  /-- query kind opened (R251) -/
  kind : Option Nat
  admitted : Bool
  /-- pass-through, warm-policy or default verdict known at exit -/
  settledReady : Option Verdict
  sCauses : List Nat
  settledDone : Bool
  settled : Verdict
  quickSent : Bool
  settledSent : Bool
  ringDone : Bool
  /-- a merged frame of the lead (R446) -/
  merged : Bool
  /-- the phase gives settled verdicts: S is not 0 (R69) -/
  hasSettled : Bool
  /-- its record entry has been written (R24) -/
  recorded : Bool
deriving DecidableEq, Repr, Inhabited

/-- Frames in the module and the fast tier's memory of them. -/
structure Fast where
  /-- on-time frames in the alignment stage that wait for their slot (R58, R66) -/
  arrived : List Arrived
  /-- frames in flight from their entry to their record (R21, R25) -/
  frames : List Frame
  /-- payload of the last frame of each slot that entered with its own data, by layout bed × 64 + slot (R65, R423) -/
  last : Map (List Byte)
  /-- start horizons since the cold Waking, newest first (R201, R202; Table 10.4, EPOCH) -/
  starts : List U64
  /-- values received through span ports, by part × 2^64 + tag horizon (R122) -/
  spans : Map PortWord
  /-- ticks from which frames are accepted, newest first: first tick, and the last one once acceptance has stopped (R29, R430) -/
  accept : List (Nat × Option Nat)
  /-- tick of the last EVENT record 0x0560: one a tick at most (R348; Table 11.2) -/
  partialAt : Option U64
deriving DecidableEq, Repr, Inhabited

/-- A stream ring entry (Table 6.2). -/
structure StreamEntry where
  summary : List Int
  verdict : Verdict
  cause : Nat
  present : Bool
deriving DecidableEq, Repr, Inhabited

/-- A stream ring: its declaration, start horizon, entries by horizon, ranges given up (R193 to R202, R214). -/
structure StreamRing where
  decl : StreamDecl
  start : U64
  entries : Map StreamEntry
  givenUp : List (Nat × Nat)
  newest : Nat
deriving DecidableEq, Repr, Inhabited

/-- A slab (R199), or the open slab buffer of a period: values by index, indices met more than once, valid count. -/
structure Slab where
  values : Map Nat
  dups : List Nat
  count : Nat
deriving DecidableEq, Repr, Inhabited

/-- A channel group: declaration, start horizon, slabs written by period, open slab buffers (R197 to R200), periods given up (R214). -/
structure ChanGroup where
  decl : GroupDecl
  start : U64
  slabs : Map Slab
  openBufs : Map Slab
  /-- periods whose open buffer an engine reset cleared (R228) -/
  lost : List Nat
  givenUp : List (Nat × Nat)
  newest : Nat
deriving DecidableEq, Repr, Inhabited

/-- A context package in the context buffer (R241). -/
structure Package where
  ring : Nat
  hzn : U64
  histTick : U64
  bytes : List Byte
  sat : Bool
  loose : Bool
  /-- the first tick whose ready time it met (R244) -/
  usable : Nat
  /-- the work item failed: the default is used with this cause (R214, R260) -/
  cause : Nat
deriving DecidableEq, Repr, Inhabited

/-- A recurrence of one stage for one program and ring (R238): the next tick or slow period, the inputs of the open block, the
carry into it, and the state elements of every tick or period evaluated since the start horizon; each element has its SAT mark (R560). -/
structure Recur where
  next : Nat
  inputs : List (List (Int × Bool))
  carry : List Int
  values : Map (List (Int × Bool))
deriving DecidableEq, Repr, Inhabited

/-- The recurrences of an engine since a start horizon: every one has taken its inputs of the ticks before `next` (R237, R238). -/
structure Recurs where
  start : Nat
  next : Nat
  map : Map Recur
deriving DecidableEq, Repr, Inhabited

/-- An admitted query (R254), with its answer once the VERDICT stage has ended (R256). -/
structure Query where
  hzn : U64
  bed : Nat
  slot : Nat
  kind : Nat
  admitNs : U64
  answer : Option (Nat × Bool × List Nat)
  /-- not admitted (R255) -/
  shed : Bool
  /-- its answer counts for nothing: an engine reset discarded it, a sequence mismatch invalidated it, or it came inside the release margin
  (R257, R260) -/
  discarded : Bool
  /-- a DRAM read of its scan failed (R214) -/
  failed : Bool
deriving DecidableEq, Repr, Inhabited

/-- A checkpoint or lock-step snapshot in staging (R264, R312). -/
structure Staged where
  hzn : U64
  snapshot : Bool
  digest : List Byte
  bytes : List Byte
deriving DecidableEq, Repr, Inhabited

/-- A checkpoint being assembled (R264): its horizon and the state it captures as it stands at that horizon. -/
structure Assembling where
  hzn : U64
  loose : Bool
  warming : Bool
  /-- bucket and queries in flight after the last tick before it, once that tick has been served -/
  taken : Option (Nat × List Query)
  /-- the packages of the ticks from its horizon on, as they are written -/
  pkgs : List Package
  /-- rings whose last package of the checkpoint exists -/
  ready : List Nat
deriving DecidableEq, Repr, Inhabited

/-- A transaction that has started: class, bank, time. -/
structure DramStart where
  cls : Nat
  bank : Nat
  ns : U64
deriving DecidableEq, Repr, Inhabited

/-- A DRAM channel (R205 to R211). -/
structure DramChan where
  waiting : List DramTx
  /-- starts of the last 1,000 ns -/
  started : List DramStart
  /-- bank held by a refresh, until when -/
  refresh : List (Nat × U64)
deriving DecidableEq, Repr, Inhabited

/-- A live silt column repair (R224): the spare that takes the column's place, and the bits that have gone to it beside the column, by
word. -/
structure SiltRepair where
  bank : Nat
  column : Nat
  spare : Nat
  bits : Map Bool
  broken : Bool
deriving DecidableEq, Repr, Inhabited

/-- A spill unit that waits to be sent (R226). -/
structure SpillUnit where
  stream : Bool
  ring : Nat
  first : Nat
  sent : Bool
deriving DecidableEq, Repr, Inhabited

/-- A loess engine with its die's memories (chapters 6 and 7). -/
structure Engine where
  /-- the engine runs (R27, Table 1.5); a reset one announces a restart horizon (R202) -/
  running : Bool
  /-- start or restart horizon s (R201, R202) -/
  start : Option U64
  /-- the engine warms (R247) -/
  warming : Bool
  /-- warming has ended since the start horizon (R250) -/
  warmed : Bool
  /-- the warming length in force (R247) -/
  warmW : Nat
  /-- for the ticks before a change horizon: that horizon, and the start horizon and W that were in force before it (R496, R501) -/
  prior : Option (U64 × Option U64 × Nat)
  /-- stream rings, by ring (R191) -/
  streams : Map StreamRing
  /-- channel groups with their slabs (R197, R200) -/
  groups : Map ChanGroup
  /-- the context buffer: packages (R241) -/
  pkgs : List Package
  /-- recurrences (R237, R238): by ring × 2^16 + stage for a context program; for settled program n, 2^24 × (2 n + 1) + ring × 2^16 + stage
  by stream ring, and 2^24 × (2 n + 2) + stage for the channel recurrences that its rings share -/
  recur : Recurs
  /-- the recurrences of the program before the change horizon in `prior`, which ticks before that horizon read (R496, R501) -/
  former : Recurs
  /-- settled queries in flight (R252, R254) -/
  queries : List Query
  /-- the last tick the admission bucket has served (R254) -/
  bucketAt : U64
  /-- late packages per tick, for the one EVENT record of R245: the tick and the count -/
  lateTick : Option (U64 × Nat)
  /-- the checkpoint being assembled (R264) -/
  assembling : Option Assembling
  /-- checkpoints and snapshots in the staging (R264, R312) -/
  staged : List Staged
  /-- loose mode was in force since the last checkpoint (R264) -/
  looseSinceCkpt : Bool
  /-- SLOW_MIRROR in force since the last checkpoint horizon (R266) -/
  slowMirror : Bool
  /-- a slab waits to be sent, by group: period (R470) -/
  slabWaits : Map Nat
  /-- spill units that wait to be sent (R226) -/
  spills : List SpillUnit
  /-- silt bytes written through the window since the engine last started work, keyed bank × 524288 + byte offset (R215) -/
  silt : Map Byte
  /-- every other silt byte reads zero: the banks have been cleared and the engine has done no work since (R225) -/
  siltCleared : Bool
  /-- spare columns used per bank (R224) -/
  siltUsed : Map Nat
  /-- live silt column repairs (R224) -/
  repairs : List SiltRepair
  /-- silt banks marked degraded (R224) -/
  siltDegraded : List Nat
  /-- mover-owned blocks, by place in the silt map, whose completion mark stands; the others have their release mark (R217) -/
  filled : List Nat
  /-- the word that port 1 has read last for the mover (R219) -/
  moverWord : List Byte
  /-- DRAM channels with their transactions (R205 to R211) -/
  chans : Vector DramChan 8
  /-- DRAM rows retired to a spare row: channel × 2^20 + bank × 2^13 + row (R208) -/
  rowsSpared : List Nat
  /-- rows given up that are under test, with the horizon (R214) -/
  rowsTested : List Nat
  /-- stream rings of which a scan for packages met a failed read (R214) -/
  scanFailed : List Nat
deriving DecidableEq, Repr, Inhabited

/-- A binding table entry (R417): sender and target word (Table 14.8). -/
structure Binding where
  sender : Word
  target : Word
deriving DecidableEq, Repr, Inhabited

/-- A quarantine entry (R419). -/
structure Quar where
  sender : Word
  lane : Nat
  frameSeen : Bool
  sumSeen : Bool
  first : U64
  items : Nat
deriving DecidableEq, Repr, Inhabited

/-- Stream input (chapter 14). -/
structure Stm where
  /-- the active binding table (R417) -/
  active : Map Binding
  /-- tables superseded by a commit, with the horizon at which each ended, newest first (R418) -/
  former : List (U64 × Map Binding)
  /-- the pending binding table (R418) -/
  pending : Map Binding
  /-- the horizon of an armed binding commit (R418) -/
  armed : Option U64
  /-- the quarantine table, 256 entries (R419) -/
  quar : Map Quar
deriving DecidableEq, Repr, Inhabited

/-- A verdict that waits for its entry in a decision block (R427). -/
structure DecEntry where
  tick7 : Nat
  kind : Nat
  bed : Nat
  slot : Nat
  verdict : Verdict
  /-- line time, in UI after the first line bit of the lane's next block (R427) -/
  place : Int
deriving DecidableEq, Repr, Inhabited

/-- Decision output (chapter 14). -/
structure Dec where
  /-- verdicts waiting per logical lane (R427) -/
  queue : Vector (List DecEntry) 8
  /-- failed physical lanes that wait for the boundary, with the spare chosen (R429) -/
  moveDue : List (Nat × Nat)
  /-- failed physical lanes (R429) -/
  failedLanes : List Nat
  /-- HOLD_N lines as last driven (R430) -/
  lines : Vector Bool 2
deriving DecidableEq, Repr, Inhabited

/-- Reassembly of the items of a stream lane (R414, R415). -/
structure Reasm where
  /-- stream bytes of the open item's header, when they have not all come -/
  bytes : List Byte
  /-- bytes of the open item that follow its header and have not come -/
  rest : Nat
  /-- bytes are dropped until the next FIRST byte -/
  seek : Bool
deriving DecidableEq, Repr, Inhabited

/-- A lane: receiver, transmitter, bring-up (chapter 13). -/
structure Lane where
  /-- running bit run of the receiver (R397) -/
  rx : RunState
  /-- running bit run of the transmitter (R395) -/
  tx : RunState
  /-- header history, newest first, at most 64: true good (R398) -/
  heads : List Bool
  /-- correct headers in a row, for block lock (R398) -/
  goodRun : Nat
  /-- consecutive blocks that suggest an inverted lane (R402) -/
  invSeen : Nat
  /-- the last valid training block of this bring-up (R400) -/
  peer : Option Training
  /-- a block failed during the verification in progress (R399) -/
  verifyBad : Bool
  /-- failures of this bring-up at the rate being stepped to or verified (R399) -/
  attempts : Nat
  /-- the rate the bring-up ends at: the agreed rate, or the last verified one after failures (R399) -/
  target : Nat
  /-- rate frozen at sowing or at launch (R403) -/
  frozen : Option Nat
  /-- the eye scan runs on this lane (R407) -/
  eyeOn : Bool
  /-- STATE before the self-test that runs (R408) -/
  tested : Option Nat
  /-- blocks since the peaking code last moved (R406) -/
  blocksToPeak : Nat
  /-- reassembly of the items of a stream lane (R414) -/
  reasm : Reasm
  /-- the lane has been brought up once (R399, LNK_RETRAIN_CNT) -/
  brought : Bool
  /-- the line bits of the block that the transmitter sent last, the first bit in bit 0 (R395) -/
  line : BitVec 1032
deriving DecidableEq, Repr, Inhabited

/-- An elastic cell (Table 15.3). -/
structure RingCell where
  seq : Nat
  ack : Nat
  dest : Nat
  src : Nat
  typ : Nat
  frag : Nat
  msgSeq : Nat
  data : List Byte
deriving DecidableEq, Repr, Inhabited

/-- A ring port (R440, R451). -/
structure RingPort where
  /-- next SEQ to send (R440) -/
  nextSeq : Nat
  /-- next SEQ expected (R440) -/
  expected : Nat
  /-- cells sent and not acknowledged (R440) -/
  unacked : List RingCell
  /-- how many of the unacknowledged cells have been sent since the last retransmission (R440) -/
  sent : Nat
  /-- the link is down (R451) -/
  down : Bool
  /-- parts that wait for their reserved slot: slot index and bytes (R438, R444) -/
  slots : List (Nat × List Byte)
  /-- frame counter, modulo 4,096 (R437) -/
  frameNo : Nat
  /-- the frame being sent, 1,016 bytes, and whether its first block time has passed (R437) -/
  frame : List Byte
  /-- the next block of lane 0 is the second of its ring frame (R437) -/
  second : Bool
deriving DecidableEq, Repr, Inhabited

/-- A part of a span (Table 15.2). -/
structure Part where
  hzn : U64
  src : Nat
  part : Nat
  flags : Nat
  bits : Nat
  causes : Nat
  summary : List Int
deriving DecidableEq, Repr, Inhabited

/-- The ring and the cascade (chapter 15). -/
structure Ring where
  /-- the four ports (R434) -/
  ports : Vector RingPort 4
  /-- parts received and not yet combined (R444) -/
  parts : List Part
  /-- last MSG_SEQ delivered, by source (R440) -/
  delivered : Map Nat
  /-- data of the messages that cells build, by source × 16 + type (R440) -/
  building : Map (List Byte)
  /-- positions reachable through each port, as the last hello there said (R451) -/
  reach : Vector (List Nat) 4
  /-- a route change waits for the boundary (R451) -/
  rerouteDue : Bool
  /-- spans on their alternate route, by place in the CASCADE section (R451) -/
  onAlt : List Nat
  /-- the lead was lost: a takeover waits for the boundary (R452) -/
  leadLost : Bool
  /-- SYNC_OUT_EN set at the next sync tick (R452) -/
  syncOutDue : Bool
  /-- launch commits confirmed, by position (R450) -/
  confirmed : List Nat
  /-- the lead waits for the answers to its launch message (R450) -/
  launchOpen : Bool
  /-- count disagreement since the last hello (R449) -/
  countBad : Bool
  /-- next MSG_SEQ of an own message, by destination (R440, Table 15.3) -/
  msgSeq : Map Nat
  /-- measured one-way delay refused (R443) -/
  cables : Vector (Option Nat) 4
  /-- a module was lost: its position (R451) -/
  lost : List Nat
  /-- another reachable module claims this module's position (R435) -/
  dupPos : Bool
deriving DecidableEq, Repr, Inhabited

/-- A result digest of a frame (R307). -/
structure ResultDigest where
  hzn : U64
  bed : Nat
  slot : Nat
  digest : U64
deriving DecidableEq, Repr, Inhabited

/-- A window that has closed here and waits for the partner's digest (R308, R309): the count at its close. -/
structure LckWindow where
  start : U64
  digest : U64
  closedAt : U64
deriving DecidableEq, Repr, Inhabited

/-- Lock-step comparison (chapter 9). -/
structure Lck where
  /-- the count when the start horizon was committed (R310) -/
  commitAt : U64
  /-- a start horizon has been committed (R310) -/
  startSet : Bool
  /-- result digests of the open windows (R307) -/
  results : List ResultDigest
  /-- windows closed here and not yet compared (R308) -/
  windows : List LckWindow
  /-- partner digests not yet matched (R308) -/
  partner : List (U64 × U64)
  /-- the window that a freeze names (R311) -/
  frozenWindow : Option U64
  /-- where the comparison starts again after REARM (R313) -/
  rearmAt : Option U64
  /-- the first window that has not closed here (R308) -/
  next : U64
  /-- the boundary at which a snapshot is due (R312) -/
  snapDue : Option U64
  /-- the checkpoint that is assembling serves as the snapshot (R312, Table 9.8) -/
  ckptServes : Bool
  /-- windows in which a capture gap has been counted (R309) -/
  gapWindows : List U64
  /-- place in each die's mover scratch of the next digest's first byte (R309) -/
  storeAt : Vector Nat 2
  /-- writes of the digest store to mover scratch that wait for their channels (R302, R309) -/
  jobs : List DramJob
deriving DecidableEq, Repr, Inhabited

/-- A request of the host link (R462, Table 16.3). `good` says how the flash device answers an erase or program. -/
structure HostReq where
  tag : Nat
  op : Nat
  arg : U64
  payload : List Byte
  good : Bool
deriving DecidableEq, Repr, Inhabited

/-- A response that the module has formed (R463). -/
structure Response where
  tag : Nat
  status : Nat
  code : Nat
  payload : List Byte
deriving DecidableEq, Repr, Inhabited

/-- A bulk object (R469): OP, ARG, SOURCE and INDEX of Table 16.5, its bytes, and how many of them have been put into messages. -/
structure Bulk where
  op : Nat
  arg : U64
  source : Nat
  index : Nat
  data : List Byte
  sent : Nat
deriving DecidableEq, Repr, Inhabited

/-- A cell the module has sent and that is not acknowledged (Table 16.1, R459). `object` is the number of the object's bytes that a
BULK cell carries, `done` says that it is the object's last cell. -/
structure HostCell where
  seq : Nat
  kind : Nat
  first : Bool
  last : Bool
  data : List Byte
  object : Nat
  done : Bool
deriving DecidableEq, Repr, Inhabited

/-- A message that the module is sending on one channel: the bytes not sent yet (R462). -/
structure HostTx where
  rest : List Byte
  first : Bool
deriving DecidableEq, Repr, Inhabited

/-- The host link (chapter 16). -/
structure Hst where
  /-- the link is up (R457) -/
  up : Bool
  /-- next SEQ to send (R459) -/
  txSeq : Nat
  /-- cells sent and not acknowledged (R459) -/
  unacked : List HostCell
  /-- cells to be sent again, in order (R459) -/
  resend : List HostCell
  /-- next SEQ expected (R459) -/
  rxSeq : Nat
  /-- RSP credits granted by the adapter and unspent (R460) -/
  credRsp : Nat
  /-- REC credits granted by the adapter and unspent (R460) -/
  credRec : Nat
  /-- BULK credits granted by the adapter and unspent (R460) -/
  credBulk : Nat
  /-- REQ credits granted and unspent (R460) -/
  credReq : Nat
  /-- messages in reassembly, by channel KIND (R462) -/
  msgs : Map (List Byte)
  /-- messages being sent, by channel KIND (R462) -/
  sending : Map HostTx
  /-- link control messages that wait (R471) -/
  control : List (List Byte)
  /-- requests complete and not yet executed, oldest first (R463) -/
  requests : List HostReq
  /-- responses that wait to be sent (R463) -/
  responses : List Response
  /-- bulk objects that wait or are being sent (R469) -/
  bulk : List Bulk
  /-- next own record sequence number to send (R466) -/
  recNext : U64
  /-- forwarded records of lost neighbours: serial and number, and whether it has been sent since the last restart (R466, R468) -/
  forward : List (U64 × U64)
  /-- neighbour records forwarded and not acknowledged: serial and number (R340, R467) -/
  forwardSent : List (U64 × U64)
  /-- TAG of the request executed last (R471) -/
  lastTag : Nat
  /-- active lane set, host lanes 0 to 7 (R457) -/
  mask : Byte
  /-- a change of the active lane set that takes effect at a SEQ from the adapter (R471) -/
  maskAt : Option (Byte × Nat)
  /-- cells sent since the last BULK cell (R461) -/
  cellsSinceBulk : Nat
  /-- requests held while a Waking runs (R294, R386) -/
  held : List HostReq
deriving DecidableEq, Repr, Inhabited

/-- A rotation that is open (R492 to R499). -/
structure Rotation where
  phase : Nat
  staged : Bool
  /-- layout bed, target bed, its partner in a mirrored phase -/
  moves : List (Nat × Nat × Option Nat)
  image : Option ImageCopy
  loaded : Bool
  armed : Option U64
deriving DecidableEq, Repr, Inhabited

/-- A microcode bank pair of a port (R502). -/
structure UcPort where
  running : Nat
  standby : Option Nat
deriving DecidableEq, Repr, Inhabited

/-- Live service (chapter 18). -/
structure Svc where
  /-- the rotation that is open (R492 to R499) -/
  rot : Option Rotation
  /-- the microcode bank pairs of the 19 ports (R502) -/
  uc : Vector UcPort 19
  /-- the microcode package buffer (R502) -/
  ucBuf : Map Byte
  /-- port armed and the horizon from which it may swap (R503) -/
  ucArmed : Option (Nat × U64)
  /-- the read-back buffer of cold history (R227, R470) -/
  readBack : Map Byte
  /-- rows of the read-back buffer that a COLD_WRITE has filled and that wait for their channels (R210, R227) -/
  jobs : List DramJob
  /-- accesses to a silt window that wait for its banks to be cleared: path, address, word written (R225, R228) -/
  siltWaits : List (Path × Nat × Option Word)
deriving DecidableEq, Repr, Inhabited

end Sys2Proof.Machine
end

