-- ==== Sys2Proof/Machine/State.lean ====
section
/-!
DEFINITION. The state of the Chohinto T7 trigger module, the reasons a step can stop, and the state after reset.
-/
namespace Sys2Proof.Machine

/-- The reasons a command can stop the module with a fault. There are none: the spec gives the module no exception and every
command of the table answers a next state. -/
inductive Fault where
deriving DecidableEq, Repr

/-- The reasons a command is refused. -/
inductive Refusal where
  /-- Raised by an arm of `exec` that has no meaning yet; safe: nothing is claimed of the command. -/
  | notModelled (mnemonic : String)
deriving DecidableEq, Repr

/-- The state of the module (INVENTORY.md, State). -/
structure State where
  /-- commands that wait, first in first out -/
  pending : List Instr
  /-- registers, keyed by address; an address not listed holds its Reset value (R539). Counters with a selector are
  kept at address + 2^24 × (index + 1) -/
  regs : Map Word
  /-- latches of the leading registers, keyed path × 2^24 + register address (R535) -/
  latches : Map Word
  /-- what the last read of each path returned: host link, management port, JTAG (R532, R563) -/
  answers : Vector Word 3
  mod : ModCtl
  hz : Hz
  prog : Prog
  beds : Vector Bed 4
  grn : Option GrnRun
  fast : Fast
  eng : Vector Engine 2
  aug : Aug
  flt : Flt
  stm : Stm
  dec : Dec
  lanes : Vector Lane 80
  ring : Ring
  lck : Lck
  hst : Hst
  tim : Tim
  pwr : Pwr
  sec : Sec
  flash : Flash
  svc : Svc
  /-- the model's own counter of free values drawn (log entry 2) -/
  free : Nat
deriving DecidableEq, Repr

/-- The hardpan of a part as shipped: CHT7-A of stepping 1 with serial 1, no repairs, settings generation 0, blank key slots
(Tables 12.1, 12.2; DESIGN CHOICE, log entry 4). -/
def shippedHardpan : Map Byte :=
  [(0x0000, 0x01), (0x0008, 0x0A), (0x0009, 0x01), (0x00FC, 0x3A), (0x00FD, 0x98), (0x00FE, 0xCC), (0x00FF, 0xDD)] ++
  [(0x04FC, 0x86), (0x04FD, 0xAF), (0x04FE, 0xBB), (0x04FF, 0x67)] ++
  [(0x0501, 0xFF), (0x0502, 0xFF), (0x0503, 0x50), (0x0504, 0x58), (0x0505, 0x1B), (0x0507, 0x01), (0x0509, 0x03), (0x057C, 0xD6), (0x057D, 0x16), (0x057E, 0xBC), (0x057F, 0x4F)]

/-- A bed before start-up: no failed column, nothing loaded (R225). -/
def Bed.off : Bed :=
  { failed := [], spares := [], spareLoad := [], degraded := false, variant := none, layoutBed := 0, target := none, targetBed := 0
    banks := [], latches := [], dirty := [], fresh := [], targetBanks := [], corrBytes := [], corrWord := [], selfTest := none, routes := [], leaving := false
    before := [], releaseDue := none, rejoinAt := none }

/-- A DRAM channel with nothing waiting. -/
def DramChan.idle : DramChan := { waiting := [], started := [], refresh := [] }

/-- A loess engine that holds nothing. -/
def Engine.off : Engine :=
  { running := false, start := none, warming := false, warmed := false, warmW := 0, prior := none, streams := [], groups := [], pkgs := []
    recur := ⟨0, 0, []⟩, former := ⟨0, 0, []⟩, queries := [], bucketAt := 0, lateTick := none, assembling := none, staged := [], looseSinceCkpt := false, slowMirror := false
    slabWaits := [], spills := [], silt := [], siltCleared := false, siltUsed := [], repairs := [], siltDegraded := [], filled := []
    moverWord := [], chans := Vector.replicate 8 DramChan.idle, rowsSpared := [], rowsTested := [], scanFailed := [] }

/-- The auger unit while it is unpowered; a cold Waking starts it anew (R318, R330). -/
def Aug.cold : Aug :=
  { running := true, nextSeq := 0, ack := 0, assigned := 0, tail := []
    heads := Vector.replicate 8 (List.replicate 64 0), counts := Vector.replicate 8 0, sinceSnap := Vector.replicate 8 0
    snaps := [], sealNo := 0, firstSeq := 0, sealDue := 0, runs := [], normLog := [], lastTimed := none, hold := none
    mirror := [], mirrorOut := [], unmirrored := false, intervalBytes := 0, intervalStart := 0
    numberingFailed := false, rsaFailed := false, tailAt := 0, mirrorAt := 0, jobs := [] }

/-- A lane before bring-up. -/
def Lane.off : Lane :=
  { rx := ⟨false, 0⟩, tx := ⟨false, 0⟩, heads := [], goodRun := 0, invSeen := 0, peer := none
    verifyBad := false, attempts := 0, target := 0, frozen := none, eyeOn := false, tested := none
    blocksToPeak := 0, reasm := ⟨[], 0, true⟩, brought := false, line := 0 }

/-- A ring port with nothing sent. -/
def RingPort.off : RingPort := { nextSeq := 0, expected := 0, unacked := [], sent := 0, down := true, slots := [], frameNo := 0, frame := [], second := false }

/-- No program. -/
def Prog.none : Prog :=
  { image := .none, phase := 0, place := [], past := [], nextIndex := 0, corrections := [], sow := .none, staged := .none,
    copying := false, oldDigest := [], corrArmed := Vector.replicate 4 .none }

/-- No frame in the module. -/
def Fast.empty : Fast := { arrived := [], frames := [], last := [], starts := [], spans := [], accept := [], partialAt := none }

/-- No cascade. -/
def Ring.off : Ring :=
  { ports := Vector.replicate 4 RingPort.off, parts := [], delivered := [], building := [], reach := Vector.replicate 4 [], rerouteDue := false, onAlt := []
    leadLost := false, syncOutDue := false, confirmed := [], launchOpen := false, countBad := false, msgSeq := []
    cables := Vector.replicate 4 none, lost := [], dupPos := false }

/-- Lock-step comparison off. -/
def Lck.off : Lck :=
  { commitAt := 0, startSet := false, results := [], windows := [], partner := [], frozenWindow := none, rearmAt := none
    next := 0, snapDue := none, ckptServes := false, gapWindows := [], storeAt := Vector.replicate 2 0, jobs := [] }

/-- The host link before it forms. -/
def Hst.off : Hst :=
  { up := false, txSeq := 0, unacked := [], resend := [], rxSeq := 0, credRsp := 0, credRec := 0, credBulk := 0, credReq := 0
    msgs := [], sending := [], control := [], requests := [], responses := [], bulk := [], recNext := 0, forward := []
    forwardSent := [], lastTag := 0, mask := 0, maskAt := none, cellsSinceBulk := 0, held := [] }

/-- No service operation open. -/
def Svc.idle : Svc :=
  { rot := none, uc := Vector.replicate 19 ⟨0x0100, none⟩, ucBuf := [], ucArmed := none, readBack := [], jobs := [], siltWaits := [] }

/-- The state after reset: Off, the main rails down, VSTBY in regulation, PWR_MAIN_EN high, every register at its Reset value
(Table 1.4, R539; log entries 3, 4 and 5). -/
def State.reset : State :=
  { pending := []
    regs := []
    latches := []
    answers := Vector.replicate 3 0
    mod := {
      st := .off, warm := false, dramDone := false, dirRead := false, fwOk := false, bootRom := false
      haltCause := 0, left := .unplanted, entry := none, expiryWaits := false, fallowNow := false
      wakeHold := false, fallowCkpt := none, draining := false, rstLow := false, rstHeld := false, lost := [], wakeSrc := none, rstWaits := false, resetWaits := false
      vstby := true, rails := false, mainEn := true, criticalOff := false, wakeOff := false, thmTrip := false
      tripGated := false, loose := false, looseTail := none, modes := [], mgtHeld := none, fwDigest := [], copyDigest := [], idle := 0
      idleNs := 0, busyTick := false }
    hz := {
      count := 0, loss := false, flyTicks := 0, returning := false, goodRun := 0, steady := false, syncSince := false, lossHold := false
      armed := false, due := false, launchAt := 0, syncOut := false, spans := [] }
    prog := Prog.none
    beds := Vector.replicate 4 Bed.off
    grn := none
    fast := Fast.empty
    eng := Vector.replicate 2 Engine.off
    aug := { Aug.cold with running := false }
    flt := {
      hist := [], tests := [], touching := [], pairTests := [], divCount := Vector.replicate 2 0
      divStart := Vector.replicate 2 none, seen := [], alarmRelease := Vector.replicate 2 none, captures := [], capNext := 0
      bridgeSpares := Vector.replicate 2 0, bridgeDue := [], exitFailed := Vector.replicate 4 (false, false), jobs := [] }
    stm := { active := [], former := [], pending := [], armed := none, quar := [] }
    dec := { queue := Vector.replicate 8 [], moveDue := [], failedLanes := [], lines := Vector.replicate 2 true }
    lanes := Vector.replicate 80 Lane.off
    ring := Ring.off
    lck := Lck.off
    hst := Hst.off
    tim := {
      c := 0, off := Vector.replicate 2 0, lockRun := Vector.replicate 2 0, pend := none, switchTo := none
      afterSwitch := none, firstStep := false, syncDelay := Vector.replicate 2 0, ppsSeen := false }
    pwr := { temps := Vector.replicate 18 0, calmMs := 0, throttleMs := 0, alarmed := false, hotRefresh := Vector.replicate 2 false }
    sec := {
      hardpan := shippedHardpan, fuses := Vector.replicate 10 0, shadow := [], bad := Vector.replicate 8 false, gen := none
      order := [], stmt := [], cmd := none, jtag := false, debugUsed := false }
    flash := {
      dev := Vector.ofFn (fun (i : Fin 2) =>
        { present := i == 0, density := 29, sfdpMinor := 6, quad := true, octal := true, bytes := [] }) }
    svc := Svc.idle
    free := 0 }

end Sys2Proof.Machine
end

