-- ==== Sys2Proof/Machine/Store.lean ====
section
/-!
DEFINITION. The operations on sparse stores. A store lists (key, value) pairs with strictly rising keys; a store with a
default value lists no entry equal to its key's default, so equal contents are equal lists.
-/
namespace Sys2Proof.Machine

/-- The entry at key `k`, if the store lists one. -/
def mapFind {α : Type} (m : Map α) (k : Nat) : Option α :=
  match m with
  | [] => none
  | (j, v) :: rest => if j = k then some v else mapFind rest k

/-- The store without the entry at `k`. -/
def mapErase {α : Type} (m : Map α) (k : Nat) : Map α :=
  m.filter (fun e => e.1 != k)

/-- Put one entry before the first entry with a greater key. -/
def mapInsert {α : Type} (m : Map α) (k : Nat) (v : α) : Map α :=
  match m with
  | [] => [(k, v)]
  | (j, w) :: rest => if k < j then (k, v) :: (j, w) :: rest else (j, w) :: mapInsert rest k v

/-- The store with `v` at key `k`. -/
def mapSet {α : Type} (m : Map α) (k : Nat) (v : α) : Map α :=
  mapInsert (mapErase m k) k v

/-- What key `k` reads as in a store with default `d`. -/
def mapGet {α : Type} (d : Nat → α) (m : Map α) (k : Nat) : α :=
  (mapFind m k).getD (d k)

/-- Write `v` at `k` in a store with default `d`: writing the default removes the entry. -/
def mapPut {α : Type} [DecidableEq α] (d : Nat → α) (m : Map α) (k : Nat) (v : α) : Map α :=
  if v = d k then mapErase m k else mapSet m k v

/-- The keys of a store rise strictly. -/
abbrev mapSorted {α : Type} (m : Map α) : Prop := (m.map Prod.fst).Pairwise (· < ·)

/-- The canonical form of a store with default `d`: keys rise strictly and no entry equals its default. -/
abbrev mapCanon {α : Type} [DecidableEq α] (d : Nat → α) (m : Map α) : Prop :=
  mapSorted m ∧ ∀ e ∈ m, e.2 ≠ d e.1

/-- The default of a store of bytes that reads as zeros. -/
def zeroByte (_ : Nat) : Byte := 0

/-- The default of erased flash (NOR flash erases to all ones). -/
def erasedByte (_ : Nat) : Byte := 0xFF

/-- `n` bytes of a byte store from address `a` on. -/
def bytesAt (d : Nat → Byte) (m : Map Byte) (a n : Nat) : List Byte :=
  (List.range n).map (fun i => mapGet d m (a + i))

/-- Write a list of bytes at address `a` on. -/
def putBytes (d : Nat → Byte) (m : Map Byte) (a : Nat) : List Byte → Map Byte
  | [] => m
  | b :: bs => putBytes d (mapPut d m a b) (a + 1) bs

end Sys2Proof.Machine
end

