-- ==== Sys2Proof/Machine/Ops.lean ====
section
/-!
DEFINITION. The named operations over the register store and over the module's clocks that every family uses.
-/
namespace Sys2Proof.Machine

/-- What a command answers. -/
abbrev Out := Host.Outcome State Fault Refusal

/-- The bits `lo` to `lo + w - 1` of a register replaced by `v`. -/
def putBits (r : Word) (lo w v : Nat) : Word :=
  let m : Word := (BitVec.ofNat 32 (2 ^ w - 1)) <<< lo
  (r &&& ~~~m) ||| (((BitVec.ofNat 32 v) <<< lo) &&& m)

/-- The register stored at address `a` (its Reset value where nothing has written it, R539). -/
def State.reg (s : State) (a : Nat) : Word := mapGet regReset s.regs a

/-- Store a register. -/
def State.setReg (s : State) (a : Nat) (v : Word) : State := { s with regs := mapPut regReset s.regs a v }

/-- The value of a field. -/
def State.fld (s : State) (f : Field) : Nat := bitsOf (s.reg f.addr).toNat f.lo f.w

/-- Store a field and leave the register's other bits. -/
def State.setFld (s : State) (f : Field) (v : Nat) : State := s.setReg f.addr (putBits (s.reg f.addr) f.lo f.w v)

/-- A one-bit field. -/
def State.flag (s : State) (f : Field) : Bool := s.fld f != 0

/-- Set or clear a one-bit field. -/
def State.setFlag (s : State) (f : Field) (b : Bool) : State := s.setFld f b.toNat

/-- Add to a counter, which saturates at 0xFFFF_FFFF (R78, R343, R363 and the other register tables). -/
def State.bumpBy (s : State) (a n : Nat) : State :=
  s.setReg a (BitVec.ofNat 32 (min ((s.reg a).toNat + n) 0xFFFFFFFF))

/-- Add one to a saturating counter. -/
def State.bump (s : State) (a : Nat) : State := s.bumpBy a 1

/-- The 64-bit value of a _LO and _HI pair (R11). -/
def State.reg64 (s : State) (lo : Nat) : U64 := BitVec.ofNat 64 ((s.reg (lo + 4)).toNat * 2 ^ 32 + (s.reg lo).toNat)

/-- Store a _LO and _HI pair. -/
def State.setReg64 (s : State) (lo : Nat) (v : U64) : State :=
  (s.setReg lo (v.truncate 32)).setReg (lo + 4) ((v >>> 32).truncate 32)

/-- Add to a 64-bit count held in a _LO and _HI pair. -/
def State.bump64 (s : State) (lo n : Nat) : State := s.setReg64 lo (s.reg64 lo + BitVec.ofNat 64 n)

/-- Raise a "longest observed" field to `v`, saturating at the field's width. -/
def State.raiseFld (s : State) (f : Field) (v : Nat) : State :=
  s.setFld f (max (s.fld f) (min v (2 ^ f.w - 1)))

/-! DRAM places (R191, R192, Table 6.1). A reserved region serves one purpose on the east die and another on the west one. -/

/-- The verified image copy on the east die, the record tail on the west one. -/
def copyBase : Nat := 0x580000000

/-- Checkpoint staging. -/
def stagingBase : Nat := 0x5A0000000

/-- The ring neighbour's record tail mirror on the east die, the read-back buffer of cold history on the west one. -/
def buffersBase : Nat := 0x5C0000000

/-- Mover scratch. -/
def scratchBase : Nat := 0x5E0000000

/-- Bytes at the start of mover scratch that hold a staged image on the east die (R498). -/
def stagedBytes : Nat := 0x10000000

/-- Bytes at the top of mover scratch that keep the copy of the firmware on the east die (R382). -/
def firmwareBytes : Nat := 0x1000000

/-- Bytes of the ring of 4,096 divergence captures of 2,048 bytes, below the firmware's copy (R356; the place is the model's, log entry 126). -/
def captureBytes : Nat := 0x800000

/-- Bytes of a reserved region. -/
def regionBytes : Nat := 0x20000000

/-- Where the divergence captures stand on the east die (R356, log entry 126). -/
def captureBase : Nat := scratchBase + regionBytes - firmwareBytes - captureBytes

/-- Where the digest store of lock-step comparison stands on each die: between the staged image and the captures (R309, log entry 112). -/
def storeBase : Nat := scratchBase + stagedBytes

/-- Bytes of the digest store. -/
def storeBytes : Nat := captureBase - storeBase

/-- The 8 KiB blocks that `n` bytes from a die-local address on reach into. -/
def blocksOf (addr n : Nat) : List Nat :=
  if n = 0 then [] else (List.range ((addr % 8192 + n + 8191) / 8192)).map (fun i => addr / 8192 + i)

/-- A transaction of a class for a block. Bank and row within the channel are the memory's own (log entry 18). -/
def blockTx (cls block : Nat) (ns : U64) (item : TxItem) : DramTx :=
  let place := Config.dramRow (block / 8)
  { cls := cls, bank := place.1 % 64, row := place.2 % 8192, block := some block, ns := ns, item := item }

/-- Transactions that a unit of the module asks a die's channels for, one for each block (R192, R206, R210). -/
def blockJobs (die cls : Nat) (blocks : List Nat) (ns : U64) : List DramJob :=
  blocks.map (fun b => ⟨die, b % 8, blockTx cls b ns .store⟩)

/-- Transactions for one row of a bank: passes of its test, or its rewrite (R210, R349). -/
def rowJobs (die chan bank row cls n : Nat) (ns : U64) : List DramJob :=
  List.replicate n ⟨die, chan, { cls := cls, bank := bank, row := row, block := none, ns := ns, item := .none }⟩

/-- Draw the next free number (log entry 2). -/
def State.drawNat (s : State) : Nat × State := (Config.freeNat s.free, { s with free := s.free + 1 })

/-- Draw `n` free bytes (log entry 2). -/
def State.drawBytes (s : State) (n : Nat) : List Byte × State :=
  ((List.range n).map (fun i => Config.freeByte (s.free + i)), { s with free := s.free + n })

/-- The horizon count (R40). -/
abbrev State.count (s : State) : U64 := s.hz.count

/-- The low `n` bits of a count are zero (R47, R52). -/
def lowZero (n : Nat) (c : U64) : Bool := c.toNat % 2 ^ n = 0

/-- The count stands at a horizon boundary (R52). -/
def State.atBoundary (s : State) : Bool := lowZero 10 s.count

/-- The first horizon boundary after count `c` (R52). -/
def nextBoundary (c : U64) : U64 := BitVec.ofNat 64 ((c.toNat / 1024 + 1) * 1024)

/-- TOP_STAT.STATE (Table 1.4); Off and Fallow are not readable, and records name Fallow 0xF (Table 10.7). -/
def ModState.code : ModState → Nat
  | .off => 0xF
  | .waking => 0
  | .unplanted => 1
  | .sown => 2
  | .growing => 3
  | .halted => 4
  | .fallow => 0xF

/-- The domain's time in units of 2^−32 ns, exactly read_time() (R478). -/
def readTime (c : U64) (r : Int) (o : BitVec 96) : BitVec 96 :=
  BitVec.ofInt 96 ((c.toNat : Int) * 2 ^ 32 + ((c.toNat : Int) * r) / 64) + o

/-- The rate r_d of a domain (R478). -/
def State.rate (s : State) (d : Fin 2) : Int := signedOf 32 (s.reg (TIM_D_RATE + timOff d)).toNat

/-- The time of a domain now (R478). -/
def State.domainTime (s : State) (d : Fin 2) : BitVec 96 := readTime s.tim.c (s.rate d) s.tim.off[d]

/-- The domain in force (R483). -/
def State.selected (s : State) : Fin 2 := if s.flag TIM_STAT_SELECTED then 1 else 0

/-- Whole nanoseconds of a domain's time (R478). -/
def wholeNs (t : BitVec 96) : U64 := (t >>> 32).truncate 64

/-- The record time in whole nanoseconds (R483). -/
def State.recordNs (s : State) : U64 := wholeNs (s.domainTime s.selected)

/-- Seconds and nanoseconds of ptp_fields() (R478). -/
def ptpFields (ns : U64) : Nat × Nat := (ns.toNat / 1000000000, ns.toNat % 1000000000)

end Sys2Proof.Machine
end

