-- ==== Sys2Proof/Machine/RecordBytes.lean ====
section
/-!
DEFINITION. The bytes of every record (Tables 10.1 to 10.8).
-/
namespace Sys2Proof.Machine

/-- TYPE of a record (Table 10.2). -/
def RecBody.typeCode : RecBody → Nat
  | .frame _ => 1
  | .run _ => 2
  | .event _ => 3
  | .close _ => 4

/-- Size of a record in bytes (Table 10.2). -/
def RecBody.size : RecBody → Nat
  | .frame _ => 128
  | .run _ => 32
  | .event _ => 64
  | .close _ => 1024

/-- The 8-byte header (Table 10.1): TYPE, VERSION 0x01, FLAGS, LANE. -/
def headerBytes (r : Record) : List Byte :=
  leBytes 1 r.body.typeCode ++ [0x01] ++ leBytes 2 r.flags.toNat ++ [r.lane] ++ zeroBytes 3

/-- Event codes written as a pair of records (Table 10.7, R328, R345). -/
def isPairCode (code : Nat) : Bool :=
  code = 0x0301 || code = 0x0405 || code = 0x040A || code = 0x0581 || code = 0x0602 || code = 0x0603 || code = 0x0803

/-- DATA of an EVENT record, 40 bytes, where the spec gives its layout: chain start (Table 10.7), time mark (Table 17.2), error
detections (R345) and pairs (R328). Any other code's layout is free (log entry 9). -/
def eventData (b : EventBody) : List Byte :=
  let code := b.code.toNat
  let arg := fun i => b.args.getD i 0
  if isPairCode code then padTo 8 (leBytes 8 (arg 0)) ++ padTo 32 b.value
  else if code = 0x0001 then
    padTo 40 (leBytes 8 (arg 0) ++ leBytes 1 (arg 1) ++ zeroBytes 7 ++ leBytes 8 (arg 2) ++ leBytes 4 (arg 3))
  else if code = 0x0708 then padTo 40 (leBytes 8 (arg 0) ++ leBytes 4 (arg 1))
  else if 0x0501 ≤ code ∧ code ≤ 0x0513 then
    padTo 40 (leBytes 4 (arg 0) ++ leBytes 8 (arg 1) ++ leBytes 2 (arg 2))
  else (List.range 40).map (fun i => Config.eventData code b.args i)

/-- The content bytes after the header. -/
def bodyBytes : RecBody → List Byte
  | .frame b =>
    leBytes 8 b.hzn.toNat ++ [b.slot, b.phase] ++ leBytes 2 b.quick.toNat ++ leBytes 2 b.settled.toNat ++
      leBytes 2 b.epoch.toNat ++ leBytes 4 b.qCauses.toNat ++ leBytes 4 b.sCauses.toNat ++ leBytes 8 b.inputCrc.toNat ++
      leBytes 2 b.imageIndex.toNat ++ leBytes 2 b.length.toNat ++ leBytes 4 b.lag.toNat ++
      padTo 16 b.summary ++ padTo 64 b.context
  | .run b =>
    leBytes 8 b.start.toNat ++ leBytes 8 b.crc.toNat ++ leBytes 2 b.count.toNat ++ leBytes 2 b.qAccepts.toNat ++
      [b.slot, b.phase] ++ leBytes 2 b.causes.toNat
  | .event b =>
    leBytes 8 b.hzn.toNat ++ leBytes 2 b.code.toNat ++ [b.part, 0] ++ leBytes 4 b.time.toNat ++ eventData b
  | .close b =>
    leBytes 8 b.sealNo.toNat ++ leBytes 8 b.firstSeq.toNat ++ leBytes 8 b.sealSeq.toNat ++ leBytes 8 b.hzn.toNat ++
      leBytes 8 b.ptpSec.toNat ++ leBytes 4 b.ptpNs.toNat ++ leBytes 4 b.reason ++
      (List.range 8).flatMap (fun l => leBytes 4 (b.counts.getD l 0)) ++ padTo 8 b.keyId ++ zeroBytes 32 ++
      (List.range 8).flatMap (fun l => padTo 48 (b.heads.getD l [])) ++ padTo 512 (b.signature.getD [])

/-- The bytes of a record. -/
def recBytes (r : Record) : List Byte := headerBytes r ++ bodyBytes r.body

end Sys2Proof.Machine
end

