-- ==== Sys2Proof/Machine/AugerOps.lean ====
section
/-!
DEFINITION. Shared operations of the auger unit: numbering and chaining a record (R318, R330), EVENT records and their pairs
(R327, R328), time marks (R484), runs (R325, R326), head snapshots (R335) and closing a seal (R332).
-/
namespace Sys2Proof.Machine

/-- KEY_ID: the first 8 bytes of SHA-512 over the attestation modulus (R333), held in the hardpan at 0x0840 (Table 12.1). -/
def State.keyId (s : State) : List Byte := (sha512 (bytesAt zeroByte s.sec.hardpan 0x0840 512)).take 8

/-- The module serial (Table 12.1). -/
def State.serial (s : State) : Nat := leNat (bytesAt zeroByte s.sec.shadow 0 8)

/-- Records are mirrored to a ring neighbour (R336, R337): a number is then only proposed at its tail write. The module stands in a cascade
while the image in force has a CASCADE section; a neighbour that cannot be reached is one that does not answer (Table 15.5). -/
def State.mirrored (s : State) : Bool :=
  s.flag AUG_CTL_MIRROR_EN && (s.prog.image.bind (fun i => i.program.cascade)).isSome && !s.aug.unmirrored

/-- The LOOSE flag of a record made now (Table 10.3, R263). -/
def State.looseNow (s : State) : Bool :=
  s.mod.loose || (match s.mod.looseTail with | some e => decide (s.count.toNat < e.toNat) | none => false)

/-- FLAGS of an EVENT record made now (Table 10.3). -/
def State.eventFlags (s : State) : BitVec 16 := if s.looseNow then 8 else 0

/-- chain_record(): the new head of a lane (R330). -/
def chainHead (head : List Byte) (seq : U64) (bytes : List Byte) : List Byte :=
  sha512 (head ++ leBytes 8 seq.toNat ++ bytes)

/-- The unit can give a sequence number: it runs and its numbering logic agrees (R316, R354). -/
def State.canNumber (s : State) : Bool := s.aug.running && !s.aug.numberingFailed

/-- The rows of a stretch of `size` bytes of DRAM that `n` bytes fill to their end when they follow place `at_`; it is used as a ring. -/
def rowsFilled (base size at_ n : Nat) : List Nat :=
  (List.range ((at_ % 8192 + n) / 8192)).map (fun i => base / 8192 + (at_ / 8192 + i) % (size / 8192))

/-- Write a record into the tail under the next sequence number; it is assigned at once unless it goes to the mirroring neighbour first (R318,
R336). A row of the tail region
goes to DRAM in class 5 once it is full (R191, R210, R320; log entry 112). -/
def Aug.append (a : Aug) (r : Record) (mirrored : Bool) (now : U64) : Aug :=
  { a with
    nextSeq := a.nextSeq + 1
    assigned := if mirrored then a.assigned else a.nextSeq + 1
    mirrorOut := if mirrored then a.mirrorOut ++ [.record a.nextSeq (recBytes r)] else a.mirrorOut
    tail := a.tail ++ [⟨a.nextSeq, r⟩]
    intervalBytes := a.intervalBytes + r.body.size
    tailAt := (a.tailAt + r.body.size) % regionBytes
    jobs := a.jobs ++ blockJobs 1 5 (rowsFilled copyBase regionBytes a.tailAt r.body.size) now }

/-- The records of the tail from a number on, for the mirroring neighbour. -/
def Aug.tailFrom (a : Aug) (n : U64) : List MirrorOut :=
  (a.tail.filter (fun t => decide (n.toNat ≤ t.seq.toNat))).map (fun t => .record t.seq (recBytes t.record))

/-- Update a lane's head and counts for a chained record numbered `seq` (R330, R335). -/
def Aug.chain (a : Aug) (l : Fin 8) (seq : U64) (bytes : List Byte) : Aug :=
  { a with
    heads := a.heads.set l (chainHead a.heads[l] seq bytes)
    counts := a.counts.set l (a.counts[l] + 1)
    sinceSnap := a.sinceSnap.set l (a.sinceSnap[l] + 1) }

/-- Write a head snapshot of a lane (R335). -/
def Aug.snapshot (a : Aug) (l : Fin 8) : Aug :=
  { a with
    snaps := a.snaps.filter (fun h => h.lane != l.val) ++ [⟨l.val, a.heads[l], a.nextSeq, a.counts[l]⟩]
    sinceSnap := a.sinceSnap.set l 0 }

/-- A seal close of reason `r` falls due: the first reason stands, but a lane count at a tick close is reason 1 (R332, R342). -/
def Aug.sealFalls (a : Aug) (r : Nat) : Aug :=
  { a with sealDue := if a.sealDue = 0 then r else if a.sealDue = 2 ∧ r = 1 then 1 else a.sealDue }

/-- Number and chain one FRAME, RUN or EVENT record (R318, R330, R335, R332). -/
def State.numberRec (s : State) (r : Record) : State :=
  if s.canNumber then
    let l : Fin 8 := Fin.ofNat 8 r.lane.toNat
    let seq := s.aug.nextSeq
    let a := (s.aug.append r s.mirrored s.tim.c).chain l seq (recBytes r)
    let a := if a.sinceSnap[l] = 65536 then a.snapshot l else a
    let a := if a.counts[l] = 1048576 then a.sealFalls 1 else a
    { s with aug := a }
  else s

/-- The RUN record of an open run (Table 10.5, R326). -/
def runRecord (key : Nat) (r : OpenRun) : Record :=
  { flags := r.flags
    lane := BitVec.ofNat 8 (key % 64 % 8)
    body := .run {
      start := r.start
      crc := BitVec.ofNat 64 (crc64 (r.crcs.flatMap (fun c => leBytes 8 c.toNat)))
      count := BitVec.ofNat 16 r.count
      qAccepts := BitVec.ofNat 16 r.qAccepts
      slot := BitVec.ofNat 8 key
      phase := r.phase
      causes := r.causes } }

/-- Close the open run of a slot, if there is one: its RUN record takes the next number (R325). -/
def State.closeRun (s : State) (key : Nat) : State :=
  match mapFind s.aug.runs key with
  | none => s
  | some r =>
    let s := s.numberRec (runRecord key r)
    { s with aug := { s.aug with runs := mapErase s.aug.runs key } }

/-- Close every open run, in ascending layout bed and slot (R325; the order is log entry 10). -/
def State.closeRuns (s : State) : State :=
  (s.aug.runs.map Prod.fst).foldl State.closeRun s

/-- The SEAL record that close_seal() forms (R332, Table 10.8); FORCED when REASON is 3 or more. -/
def State.sealRecord (s : State) (reason : Nat) : Record :=
  let t := ptpFields s.recordNs
  { flags := if 3 ≤ reason then 0x40 else 0
    lane := 0xFF
    body := .close {
      sealNo := s.aug.sealNo
      firstSeq := s.aug.firstSeq
      sealSeq := s.aug.nextSeq
      hzn := s.count
      ptpSec := BitVec.ofNat 64 t.1
      ptpNs := BitVec.ofNat 32 t.2
      reason := reason
      counts := s.aug.counts.toList
      keyId := s.keyId
      heads := s.aug.heads.toList.map (List.take 48)
      signature := none } }

/-- Record bytes per second over a seal interval, MB/s, rounded down (Table 10.10; log entry 11). -/
def augRate (bytes ns : Nat) : Nat := min (bytes * 1000 / max ns 1) 0xFFFF

/-- close_seal(): open runs close first and are covered; the seal takes the next number; lane counts restart (R325, R332, R335,
R342). Nothing happens when no record has been numbered since the last seal. -/
def State.closeSeal (s : State) (reason : Nat) : State :=
  if s.canNumber then
    let s := s.closeRuns
    let s := { s with aug := { s.aug with sealDue := 0 } }
    if s.aug.nextSeq = s.aug.firstSeq then s
    else
      let r := s.sealRecord reason
      let a := s.aug.append r s.mirrored s.tim.c
      let rate := augRate a.intervalBytes (s.tim.c - a.intervalStart).toNat
      let a := { a with
        counts := Vector.replicate 8 0
        firstSeq := a.nextSeq
        sealNo := a.sealNo + 1
        lastTimed := some s.recordNs
        intervalBytes := 0
        intervalStart := s.tim.c }
      let a := (List.finRange 8).foldl Aug.snapshot a
      let s := { s with aug := a }
      let s := (s.setReg AUG_RATE (BitVec.ofNat 32 rate)).setFld AUG_STAT_LAST_REASON reason
      let s := s.setFlag AUG_STAT_SIGN_BUSY true
      if 3 ≤ reason then s.setFlag AUG_STAT_SEAL_FORCED true else s
  else s

/-- A seal is being signed: the tail holds one without a signature (R334). -/
def TailRec.unsigned (t : TailRec) : Bool :=
  match t.record.body with
  | .close b => b.signature.isNone
  | _ => false

/-- Close the seal that is due before any further record is numbered; SEAL_NOW while a seal is signing waits until a record
stands after it (R332, R342). -/
def State.closeDueSeal (s : State) : State :=
  if s.aug.sealDue = 0 then s
  else if s.aug.sealDue = 3 && s.aug.tail.any TailRec.unsigned && s.aug.nextSeq == s.aug.firstSeq then s
  else s.closeSeal s.aug.sealDue

/-- The record time has moved 2^30 ns or more past the last timed record, or before it (R484). -/
def State.markDue (s : State) : Bool :=
  match s.aug.lastTimed with
  | none => false
  | some t => decide (s.recordNs.toNat < t.toNat) || decide (t.toNat + 2 ^ 30 ≤ s.recordNs.toNat)

/-- An EVENT record made now (Table 10.6). -/
def State.eventRecord (s : State) (code : Nat) (hzn : U64) (lane part : Nat) (args : List Nat) (value : List Byte) : Record :=
  { flags := s.eventFlags
    lane := BitVec.ofNat 8 lane
    body := .event {
      hzn := hzn
      code := BitVec.ofNat 16 code
      part := BitVec.ofNat 8 part
      time := s.recordNs.truncate 32
      args := args
      value := value } }

/-- Number one EVENT record, which is a timed record (R484). -/
def State.numberEvent (s : State) (code : Nat) (hzn : U64) (lane part : Nat) (args : List Nat) (value : List Byte) : State :=
  let s := s.numberRec (s.eventRecord code hzn lane part args value)
  if s.canNumber then { s with aug := { s.aug with lastTimed := some s.recordNs } } else s

/-- Write the time mark EVENT 0x0708 with the full time where one is due (R484). -/
def State.timeMark (s : State) : State :=
  if s.markDue then
    let t := ptpFields s.recordNs
    s.numberEvent 0x0708 s.count 0 1 [t.1, t.2] []
  else s

/-- Write one EVENT record in a lane: a due seal and a due time mark come first (R327, R332, R484). -/
def State.writeEventAt (s : State) (code : Nat) (hzn : U64) (lane : Nat) (args : List Nat) : State :=
  let s := s.closeDueSeal
  let s := s.timeMark
  s.numberEvent code hzn lane 1 args []

/-- Write an EVENT record that names no stream slot: lane 0, the horizon count now (R317, R327). -/
def State.writeEvent (s : State) (code : Nat) (args : List Nat) : State := s.writeEventAt code s.count 0 args

/-- Write an event with a 64-byte value as a pair on consecutive sequence numbers of one lane (R328). -/
def State.writePair (s : State) (code : Nat) (hzn : U64) (lane ctx : Nat) (value : List Byte) : State :=
  let s := s.closeDueSeal
  let s := s.timeMark
  let s := s.numberEvent code hzn lane 0x02 [ctx] (slice value 0 32)
  s.numberEvent code hzn lane 0x12 [ctx] (slice value 32 32)

/-- Record a state change (code 0x0101): from, to, halt cause, boot code (Table 10.7, R380). -/
def State.writeStateChange (s : State) (old new : ModState) (haltCause bootCode : Nat) : State :=
  s.writeEvent 0x0101 [old.code, new.code, haltCause, bootCode]

/-- The chain start records of lanes 0 to 7, numbered 0 to 7 (R331). -/
def State.chainStart (s : State) : State :=
  (List.range 8).foldl (fun s l =>
    let t := ptpFields s.recordNs
    s.numberEvent 0x0001 s.count l 1 [s.serial, l, t.1, t.2] []) s

/-- A tail record may be freed: the host has acknowledged it and a later head snapshot of its lane exists; a SEAL, which has no
lane, needs only the acknowledgement (R335; log entry 12). -/
def Aug.freed (a : Aug) (t : TailRec) : Bool :=
  decide (t.seq.toNat < a.ack.toNat) &&
    (match t.record.body with
     | .close _ => true
     | _ => a.snaps.any (fun h => h.lane == t.record.lane.toNat && decide (t.seq.toNat < h.nextSeq.toNat)))

/-- Drop the tail records that may be freed (R335). -/
def Aug.release (a : Aug) : Aug := { a with tail := a.tail.filter (fun t => !a.freed t) }

/-- Bytes of the tail in use. -/
def Aug.used (a : Aug) : Nat := (a.tail.map (fun t => t.record.body.size)).sum

end Sys2Proof.Machine
end

