-- ==== Sys2Proof/Machine/TrustOps.lean ====
section
/-!
DEFINITION. Shared operations on the hardpan and on signatures: settings generations (R368, R369), key-hash slots (R370), lock bits
(R366, R371), signature blocks (R277, R372, R377, R381).
-/
namespace Sys2Proof.Machine

/-- Hardpan bytes as they stand now (R365). -/
def State.hardpanBytes (s : State) (off n : Nat) : List Byte := bytesAt zeroByte s.sec.hardpan off n

/-- Bytes of the shadow (R367). -/
def State.shadowBytes (s : State) (off n : Nat) : List Byte := bytesAt zeroByte s.sec.shadow off n

/-- A revoke or lock bit: at least two of its three fuses are programmed (R366). -/
def State.fuse (s : State) (i : Fin 10) : Bool := decide (2 ≤ s.sec.fuses[i])

/-- GEN_REVOKE of a generation. -/
def State.genRevoked (s : State) (g : Fin 4) : Bool := s.fuse ⟨g.val, by omega⟩

/-- SLOT_REVOKE of a slot. -/
def State.slotRevoked (s : State) (k : Fin 4) : Bool := s.fuse ⟨4 + k.val, by omega⟩

/-- FIRM_LOCK (R371). -/
def State.firmLock (s : State) : Bool := s.fuse 8

/-- DEBUG_LOCK (R371). -/
def State.debugLock (s : State) : Bool := s.fuse 9

/-- Hardpan bytes 0x0820 and 0x0821 as the fuses read: GEN_REVOKE, SLOT_REVOKE, FIRM_LOCK, DEBUG_LOCK (Table 12.1, R366). -/
def State.lockBytes (s : State) : List Byte :=
  [BitVec.ofNat 8 (((List.finRange 8).map (fun i => (s.fuse ⟨i.val, by omega⟩).toNat * 2 ^ i.val)).sum),
   BitVec.ofNat 8 (s.firmLock.toNat + 2 * s.debugLock.toNat)]

/-- The 128 bytes of a settings generation (Table 12.1). -/
def State.genBytes (s : State) (g : Fin 4) : List Byte := s.hardpanBytes (0x0500 + 0x80 * g.val) 128

/-- All bytes are zero. -/
def allZero (bs : List Byte) : Bool := bs.all (fun b => b == 0)

/-- Status of a generation: 0 blank, 1 valid, 2 bad, 3 revoked (R369, Table 12.10). -/
def State.genStatus (s : State) (g : Fin 4) : Nat :=
  let b := s.genBytes g
  if s.genRevoked g then 3
  else if allZero b && !s.sec.bad[g.val]! then 0
  else if s.sec.bad[g.val]! || leAt b 124 4 != crc32 (b.take 124) || leAt b 0 1 != g.val then 2
  else 1

/-- CFG_GEN_STAT (Table 12.10). -/
def State.genStat (s : State) : Nat :=
  ((List.finRange 4).map (fun g => s.genStatus g * 4 ^ g.val)).sum

/-- The highest-numbered valid generation (R369). -/
def State.pickGen (s : State) : Option Nat :=
  ((List.finRange 4).reverse.find? (fun g => s.genStatus g == 1)).map Fin.val

/-- Generation 0 as shipped, used under DEFAULTS (Table 12.2). -/
def shippedGen : List Byte :=
  let b := [0, 0xFF, 0xFF, 0x50] ++ leBytes 2 7000 ++ leBytes 2 0x0100 ++ [0, 0x03] ++ zeroBytes 114
  b ++ leBytes 4 (crc32 b)

/-- The 128 bytes of the generation in force (R369). -/
def State.settings (s : State) : List Byte :=
  match s.sec.gen with
  | some 0 => s.genBytes 0
  | some 1 => s.genBytes 1
  | some 2 => s.genBytes 2
  | some _ => s.genBytes 3
  | none => shippedGen

/-- ROLE of the generation in force (Table 12.2). -/
def State.setRole (s : State) : Nat := leAt s.settings 1 1

/-- POSITION of the generation in force. -/
def State.setPosition (s : State) : Nat := leAt s.settings 2 1

/-- I2C_ADDR of the generation in force. -/
def State.i2cAddr (s : State) : Nat := leAt s.settings 3 1 % 128

/-- BUDGET_CAP of the generation in force; above 7,000 acts as 7,000 (Table 12.2). -/
def State.budgetCap (s : State) : Nat := min (leAt s.settings 4 2) 7000

/-- FW_MIN of the generation in force. -/
def State.fwMin (s : State) : Nat := leAt s.settings 6 2

/-- FLASH_LIMIT of the generation in force. -/
def State.flashLimit (s : State) : Nat := leAt s.settings 8 1 % 4

/-- HOST_SOW_EN of the generation in force. -/
def State.hostSowEn (s : State) : Bool := leAt s.settings 9 1 % 2 = 1

/-- FLASH_WRITE_EN of the generation in force. -/
def State.flashWriteEn (s : State) : Bool := leAt s.settings 9 1 / 2 % 2 = 1

/-- XKEY_DISABLE bit of a Xogrim firmware key. -/
def State.xkeyDisabled (s : State) (k : Nat) : Bool := leAt s.settings 9 1 / 2 ^ (2 + k) % 2 = 1

/-- The 64 bytes of a key-hash slot (Table 12.1). -/
def State.slotBytes (s : State) (k : Fin 4) : List Byte := s.hardpanBytes (0x0700 + 0x40 * k.val) 64

/-- Status of a slot: 0 blank, 1 valid, 2 bad, 3 revoked (R370, Table 12.13). -/
def State.slotStatus (s : State) (k : Fin 4) : Nat :=
  let b := s.slotBytes k
  let c := leNat (s.hardpanBytes (0x0800 + 4 * k.val) 4)
  let bad := s.sec.bad[4 + k.val]!
  if s.slotRevoked k then 3
  else if allZero b && c == 0 && !bad then 0
  else if bad || c != crc32 b then 2
  else 1

/-- SEC_SLOTS.STATUS (Table 12.13). -/
def State.slotStat (s : State) : Nat :=
  ((List.finRange 4).map (fun k => s.slotStatus k * 4 ^ k.val)).sum

/-- The key hash of a signature block: SHA-512 of bytes 12 to 527 (R370). -/
def blockKeyHash (blk : List Byte) : List Byte := sha512 (slice blk 12 516)

/-- The valid slot that holds a key hash (R370). -/
def State.keySlot (s : State) (h : List Byte) : Option Nat :=
  ((List.finRange 4).find? (fun k => s.slotStatus k == 1 && s.slotBytes k == h)).map Fin.val

/-- The signature of a block over a digest is valid with KEY_EXP 65,537 (R372, R381). -/
def blockVerifies (blk digest : List Byte) : Bool :=
  leAt blk 12 4 == 65537 && rsaVerify (slice blk 16 512) 65537 digest (slice blk 592 512)

/-- A key hash is that of an enabled Xogrim firmware key (R377, R368). -/
def State.xogrimKey (s : State) (h : List Byte) : Bool :=
  [0, 1].any (fun k => !s.xkeyDisabled k && h == (List.range 64).map (Config.xogrimKeyHash k))

/-- The factory identity and repair data pass their CRCs (Table 12.7 code 0x01). -/
def State.factoryGood (s : State) : Bool :=
  let id := s.hardpanBytes 0 256
  let rep := s.hardpanBytes 0x100 1024
  leAt id 252 4 == crc32 (id.take 252) && leAt rep 1020 4 == crc32 (rep.take 1020)

/-- The ordering code and stepping of the part (R2, Table 12.1); log entry 4 gives their codes. -/
def State.isB (s : State) : Bool := leNat (s.shadowBytes 8 1) == 0x0B

/-- Stepping 2 (Table 12.1). -/
def State.isS2 (s : State) : Bool := leNat (s.shadowBytes 9 1) == 2

/-- The bed is present: bed 3 is absent on CHT7-B (R3, R4). -/
def State.bedPresent (s : State) (b : Nat) : Bool := !(s.isB && b == 3)

/-- The repair data of the shadow, without its CRC (Table 12.1). -/
def State.repairData (s : State) : List Byte := s.shadowBytes 0x100 1020

/-- Spares assigned at manufacture to a bed's columns: (spare, failed column); unprogrammed repair data assigns none (R111, R365; log
entry 14). -/
def State.factoryColumns (s : State) (b : Nat) : List (Nat × Nat) :=
  if allZero s.repairData then [] else Config.repairColumns s.repairData b

/-- Silt spare columns assigned at manufacture in a bank of a die (R224; log entry 14). -/
def State.factorySilt (s : State) (die bank : Nat) : Nat :=
  if allZero s.repairData then 0 else Config.repairSilt s.repairData die bank

/-- Silt spare columns left in a bank: 4 minus those the repair data and live repairs have assigned (Table 6.10). -/
def State.siltSparesLeft (s : State) (e : Fin 2) (bank : Nat) : Nat :=
  4 - (s.factorySilt e bank + (mapFind s.eng[e].siltUsed bank).getD 0)

end Sys2Proof.Machine
end

