-- ==== Sys2Proof/Machine/Control.lean ====
section
/-!
DEFINITION. Shared operations of the whole module: placement lookups, hold conditions and the HOLD_N lines (R28, R430), acceptance,
state changes (R26, R30), the halt (R36, R37, R354) and the idle timer's conditions (R32).
-/
namespace Sys2Proof.Machine

/-- The module runs with its main rails up: not Off. -/
def ModState.powered : ModState → Bool
  | .off => false
  | _ => true

/-- The four states in which the firmware serves the module (R30). -/
def ModState.serving : ModState → Bool
  | .unplanted | .sown | .growing | .halted => true
  | _ => false

/-- The die of a physical bed (Table 0.1): beds 0 and 1 east, 2 and 3 west. -/
def bedDie (b : Nat) : Nat := if b < 2 then 0 else 1

/-- The program in force, read. -/
def State.program? (s : State) : Option Program := s.prog.image.map (fun i => i.program)

/-- The phase in force with its sections. -/
def State.phase? (s : State) : Option PhaseProg := s.program?.bind (fun p => p.phase? s.prog.phase)

/-- The program, phase and placement that frames of tick `h` enter under (R496). -/
def State.progAt (s : State) (h : Nat) : PastProg :=
  (s.prog.past.reverse.find? (fun p => decide (h < p.stop.toNat))).getD ⟨0, s.prog.image, s.prog.phase, s.prog.place⟩

/-- HZN_TICK_PERIOD in ps. -/
def State.tickPs (s : State) : Nat := (s.reg HZN_TICK_PERIOD).toNat

/-- The phase of a program in force at some tick. -/
def PastProg.phase? (p : PastProg) : Option PhaseProg := p.image.bind (fun i => i.program.phase? p.phase)

/-- The phase that frames of tick `h` enter under. -/
def State.phaseAt (s : State) (h : Nat) : Option PhaseProg := (s.progAt h).phase?

/-- Keep what is in force for the frames of the ticks before `h`. -/
def Prog.keepPast (p : Prog) (h : U64) : Prog :=
  if p.past.head?.map PastProg.stop = some h then p else { p with past := ⟨h, p.image, p.phase, p.place⟩ :: p.past.take 3 }

/-- The physical beds of a layout bed in a placement (R281). -/
def PastProg.beds (p : PastProg) (lb : Nat) : List (Fin 4) :=
  match p.place[lb]? with
  | none => []
  | some (b, none) => [Fin.ofNat 4 b]
  | some (b, some c) => [Fin.ofNat 4 b, Fin.ofNat 4 c]

/-- A phase of the program in force. -/
def State.phaseOf? (s : State) (n : Nat) : Option PhaseProg := s.program?.bind (fun p => p.phase? n)

/-- The physical beds that serve a layout bed: one, or a mirror pair (R281). -/
def State.bedsOf (s : State) (layoutBed : Nat) : List Nat :=
  match s.prog.place[layoutBed]? with
  | none => []
  | some (b, none) => [b]
  | some (b, some c) => [b, c]

/-- Every placed bed with its partner, if it is a pair. -/
def State.placed (s : State) : List (Nat × Option Nat) := s.prog.place

/-- A physical bed carries a layout bed of the program in force. -/
def State.isPlaced (s : State) (b : Nat) : Bool := s.placed.any (fun p => p.1 == b || p.2 == some b)

/-- A bed is unable to produce verdicts: both copies of its exit path have failed (R353). -/
def State.bedUnable (s : State) (b : Nat) : Bool :=
  let e := s.flt.exitFailed[b]!
  e.1 && e.2

/-- A placed bed counts as unable: of a pair only while both are (R430). -/
def State.placeUnable (s : State) (p : Nat × Option Nat) : Bool :=
  s.bedUnable p.1 && (match p.2 with | some c => s.bedUnable c | none => true)

/-- Die d carries placed beds and every one is unable (R430). -/
def State.dieUnable (s : State) (d : Nat) : Bool :=
  let ps := s.placed.filter (fun p => bedDie p.1 == d || p.2.any (fun c => bedDie c == d))
  !ps.isEmpty && ps.all s.placeUnable

/-- A sync slip holds acceptance in Growing (R50). -/
def State.slipHold (s : State) : Bool := s.mod.st == .growing && s.flag HZN_STAT_SLIP

/-- DEC_HOLD_CAUSE: every condition that holds (R430, Table 14.11). -/
def State.holdCause (s : State) : Nat :=
  (s.mod.st != .growing).toNat
    + (s.mod.entry.isSome || s.mod.wakeHold).toNat * 2
    + s.hz.lossHold.toNat * 4
    + s.slipHold.toNat * 8
    + s.aug.hold.isSome.toNat * 16
    + s.mod.draining.toNat * 32
    + (s.dieUnable 0).toNat * 64
    + (s.dieUnable 1).toNat * 128

/-- A module-wide hold condition, or a state other than Growing (R28, R430). -/
def State.moduleHold (s : State) : Bool := s.holdCause % 64 != 0

/-- HOLD_N[d] is asserted (R28, R430). -/
def State.holdLine (s : State) (d : Nat) : Bool := s.moduleHold || s.dieUnable d

/-- Frames of tick `h` are accepted: acceptance was in force at that tick (R29, R430). -/
def State.tickOpen (s : State) (h : U64) : Bool :=
  s.fast.accept.any (fun w => decide (w.1 ≤ h.toNat) && (match w.2 with | none => true | some l => decide (h.toNat ≤ l)))

/-- Acceptance windows after the hold conditions have changed at the present count. -/
def nextAccept (held : Bool) (count : Nat) : List (Nat × Option Nat) → List (Nat × Option Nat)
  | [] => if held then [] else [(count, none)]
  | (a, none) :: rest => if held then (a, some count) :: rest.take 7 else (a, none) :: rest
  | (a, some l) :: rest => if held then (a, some l) :: rest else (count, none) :: (a, some l) :: rest.take 7

/-- Drive the HOLD_N lines from the hold conditions: DEC_STAT, the count of assertions, the acceptance windows (R28, R430). -/
def State.driveHold (s : State) : State :=
  let l0 := s.holdLine 0
  let l1 := s.holdLine 1
  let s := if l0 && !s.dec.lines[0] then s.bump DEC_HOLD_CNT else s
  let s := if l1 && !s.dec.lines[1] then s.bump DEC_HOLD_CNT else s
  let s := (s.setFlag DEC_STAT_HOLD0 l0).setFlag DEC_STAT_HOLD1 l1
  { s with
    dec := { s.dec with lines := (s.dec.lines.set 0 l0).set 1 l1 }
    fast := { s.fast with accept := nextAccept s.moduleHold s.count.toNat s.fast.accept } }

/-- Write the record of an engine's late packages of one tick (R245). -/
def State.flushLate (s : State) (e : Fin 2) : State :=
  let g : Engine := s.eng[e]
  match g.lateTick with
  | none => s
  | some (h, n) =>
    let s := { s with eng := s.eng.set e { g with lateTick := none } }
    s.writeEventAt 0x0403 h 0 [e, n]

/-- What leaving Growing does of itself: the late packages are recorded and open runs close (R245, R325). -/
def State.leaveGrowing (s : State) : State := if s.mod.st == .growing then ((s.flushLate 0).flushLate 1).closeRuns else s

/-- Enter a module state with its EVENT record 0x0101 (R26, R30, Table 10.7); a seal of the reason given follows the record (R332). -/
def State.enterState (s : State) (new : ModState) (haltCause bootCode sealReason : Nat) : State :=
  let old := s.mod.st
  let s := s.leaveGrowing
  let s := { s with mod := { s.mod with st := new } }
  let s := s.writeStateChange old new haltCause bootCode
  let s := if sealReason = 0 then s else s.closeSeal sealReason
  s.driveHold

/-- A settled verdict is outstanding: a frame's settled verdict has not left (R32). -/
def State.settledOutstanding (s : State) : Bool := s.fast.frames.any (fun f => f.hasSettled && !f.settledSent)

/-- Verdicts of accepted frames are still due: a quick or settled verdict has not reached its framers, or waits there for its block (R21,
R358, R360). -/
def State.verdictsDue (s : State) : Bool :=
  s.fast.frames.any (fun f => !f.quickSent || !f.settledSent) || s.dec.queue.toList.any (fun q => !q.isEmpty)

/-- A record entry of an accepted frame is still to be written. -/
def State.entriesDue (s : State) : Bool := s.canNumber && s.fast.frames.any (fun f => !f.recorded)

/-- Cancel a pending launch with a refusal code (R31, R79). -/
def State.refuseLaunch (s : State) (code : Nat) : State :=
  let s := (s.setFlag HZN_STAT_LAUNCH_PEND false).setFlag HZN_STAT_LREF true
  let s := s.setFld HZN_STAT_LREF_CODE code
  s.writeEvent 0x0103 [code]

/-- A pending launch whose horizon passed while the auger unit was stopped is refused once the unit runs again (R31). -/
def State.refusePassed (s : State) : State :=
  if s.flag HZN_STAT_LAUNCH_PEND && decide (s.hz.launchAt.toNat ≤ s.count.toNat) then s.refuseLaunch 3 else s

/-- The substitute bits [10:0] of a cause in the phase in force (R103). -/
def State.substBits (s : State) (cause : Nat) : Nat :=
  match s.phase? with
  | some p => p.decision.subst.getD cause 0 % 2048
  | none => 0

/-- Order of R75: the first cause of a list in the order 3, 6, 4, 2, 1, 5, 7; 0 for none. -/
def firstCause (cs : List Nat) : Nat := ([3, 6, 4, 2, 1, 5, 7].find? (fun c => cs.contains c)).getD 0

/-- A verdict word (Table 2.5, R74, R75). -/
def verdictWord (bits : Nat) (causes : List Nat) (sub tally : Bool) : Verdict :=
  BitVec.ofNat 16 (firstCause causes * 8192 + sub.toNat * 4096 + tally.toNat * 2048 + bits % 2048)

/-- The causes without repeats, ascending (R321). -/
def causeList (cs : List Nat) : List Nat := ([1, 2, 3, 4, 5, 6, 7].filter (fun c => cs.contains c))

/-- The quick verdict of a frame takes the substitute with cause 3 at a halt: it has not reached its framers (R37). Saturation events met
so far stay (R190). -/
def Frame.quickHalted (f : Frame) (sub : Nat) : Frame :=
  let q := causeList (3 :: (if f.exited then f.qCauses else f.causes))
  { f with exited := true, qCauses := q, quick := verdictWord sub q true f.tally, sat := f.sat || f.copies.any (fun c => c.events != 0) }

/-- The settled verdict of a frame takes the substitute with cause 3 at a halt: it has not reached its framers (R37, R257). -/
def Frame.settledHalted (f : Frame) (sub : Nat) : Frame :=
  let cs := causeList (3 :: f.sCauses ++ f.qCauses)
  let v := verdictWord sub cs true f.tally
  if f.settledDone then { f with settled := v, sCauses := cs }
  else { f with settledReady := some v, sCauses := cs, kind := none, admitted := false }

/-- A frame at a halt: every verdict of it that has not reached its framers is substituted with cause 3, computed or not; one whose
record entry holds both verdicts keeps them (R37; DEDUCED, log entry 104). -/
def Frame.halted (f : Frame) (sub : Nat) : Frame :=
  if f.recorded then f
  else
    let f := if f.quickSent then f else f.quickHalted sub
    if f.settledSent then f else f.settledHalted sub

/-- The launch of this very tick: the module has entered Growing at the present count (R37). -/
def State.launchedNow (s : State) : Bool := s.mod.st == .growing && s.hz.launchAt == s.count && !s.flag HZN_STAT_LAUNCH_PEND

/-- Drop what an entry to Fallow holds when the module leaves its course. -/
def State.clearEntry (s : State) : State := { s with mod := { s.mod with entry := none, expiryWaits := false, fallowNow := false } }

/-- Enter Halted for a halt cause once the firmware runs (R36, R37, R354): verdicts due take the substitute with cause 3 and count
(R347), beds and engines stop, the state change record names the cause, a seal of REASON 5 follows (R332). A launch of the same tick is
refused (Table 1.7); one that is still pending is refused when its horizon passes (R31). -/
def State.haltNow (s : State) (cause : Nat) : State :=
  let sub := s.substBits 3
  let frames := s.fast.frames.map (fun f => f.halted sub)
  let changed := (s.fast.frames.filter (fun f => !f.recorded && !f.quickSent)).length
  let launched := s.launchedNow
  let s := s.bumpBy FLT_SUB_CNT changed
  let s := { s with
    fast := { s.fast with frames := frames, arrived := [] }
    eng := s.eng.map (fun (e : Engine) => { e with running := false, queries := [] })
    mod := { s.mod with haltCause := cause, entry := none, expiryWaits := false
                        fallowNow := false } }
  let s := if launched then s.refuseLaunch 3 else s
  s.enterState .halted cause 0 5

/-- A halt cause arrives: during entry to Fallow it waits for the undoing (R37, R508); in Off, Fallow and Halted it changes no
state. -/
def State.halt (s : State) (cause : Nat) : State :=
  match s.mod.entry with
  | some e => { s with mod := { s.mod with entry := some { e with halt := some cause } } }
  | none =>
    if s.mod.st.serving && s.mod.st != .halted || s.mod.st == .waking then s.haltNow cause else s

/-- A wake event while an entry to Fallow runs abandons it at the next abort point (R37, R508). -/
def State.wakeEntry (s : State) : State :=
  match s.mod.entry with
  | some e => { s with mod := { s.mod with entry := some { e with wake := true } } }
  | none => s

/-- A wake event of a source in Fallow: the first starts the restore; both together read management (R514, R526). -/
def State.wakes (s : State) (src : WakeSrc) : State :=
  let new := match s.mod.wakeSrc with
    | none => (src, s.tim.c)
    | some (old, c) => if src = .management ∧ c = s.tim.c then (src, c) else (old, c)
  { s with mod := { s.mod with wakeSrc := some new } }

/-- Activity on the host lanes in Fallow (R473, R514). -/
def State.hostWakes (s : State) : State :=
  let s := if s.mod.wakeSrc.isNone then s.bump HST_WAKE_CNT else s
  s.wakes .hostLink

/-- One step of the idle timer, which stands at its limit while an expiry waits (R32, R507). -/
def State.idleNext (s : State) : Nat :=
  let n := (s.reg PWR_IDLE_TICKS).toNat
  if n = 0 then s.mod.idle + 1 else min n (s.mod.idle + 1)

/-- The idle timer restarts at zero in Unplanted and Sown on any access (R32). -/
def State.idleRestart (s : State) : State :=
  if s.mod.st == .unplanted || s.mod.st == .sown then { s with mod := { s.mod with idle := 0, idleNs := 0, busyTick := true } } else s

/-- A condition of R32 holds the idle timer at zero: a ring port up, a settled verdict outstanding, a launch pending. -/
def State.idleHeld (s : State) : Bool :=
  s.ring.ports.toList.any (fun p => !p.down) || s.settledOutstanding || s.flag HZN_STAT_LAUNCH_PEND

/-- The idle timer stands at zero: a condition that holds it has begun (R32). -/
def State.idleZero (s : State) : State := { s with mod := { s.mod with idle := 0, idleNs := 0 } }

/-- Something that R507 names is open. -/
def State.fallowBlocked (s : State) : Bool :=
  s.svc.rot.isSome || s.prog.sow.isSome || s.sec.cmd.isSome
    || !s.flt.tests.isEmpty || !s.flt.pairTests.isEmpty
    || [1, 2, 3].contains (s.fld RNG_LCK_STAT_STATE)
    || s.eng.toList.any (fun e => e.assembling.isSome)

/-- Replace an engine. -/
def State.setEng (s : State) (e : Fin 2) (g : Engine) : State := { s with eng := s.eng.set e g }

/-- Replace a bed. -/
def State.setBed (s : State) (b : Fin 4) (g : Bed) : State := { s with beds := s.beds.set b g }

/-- Replace a lane. -/
def State.setLane (s : State) (l : Fin 80) (g : Lane) : State := { s with lanes := s.lanes.set l g }

/-- Replace a ring port. -/
def State.setPort (s : State) (p : Fin 4) (g : RingPort) : State :=
  { s with ring := { s.ring with ports := s.ring.ports.set p g } }

/-- Update the frame of a layout bed, slot and tick. -/
def State.updFrame (s : State) (bed slot : Nat) (h : U64) (f : Frame → Frame) : State :=
  { s with fast := { s.fast with
      frames := s.fast.frames.map (fun x => if x.layoutBed = bed ∧ x.slot = slot ∧ x.hzn = h then f x else x) } }

/-- The frame of a layout bed, slot and tick. -/
def State.frame? (s : State) (bed slot : Nat) (h : U64) : Option Frame :=
  s.fast.frames.find? (fun x => x.layoutBed == bed && x.slot == slot && x.hzn == h)

/-- Drop the frames that nothing more is due for: verdicts sent, ring entry written, record entry written. -/
def State.purge (s : State) : State :=
  { s with fast := { s.fast with
      frames := s.fast.frames.filter (fun f => !(f.recorded && f.quickSent && f.settledSent && f.ringDone)) } }

/-- The reserve of the record tail: 256 bytes for each accepted frame whose entry is due and whose quick verdict has ACCEPT, opened an
admitted query, or carries TALLY (R341). -/
def State.tailReserve (s : State) : Nat :=
  256 * (s.fast.frames.filter (fun f => !f.recorded && (f.quick.getLsbD 0 || f.admitted || f.tally))).length

/-- A record hold begins when the free tail space falls below the reserve plus 64 KiB: from the next tick no frame is accepted
(R341). -/
def State.checkTail (s : State) : State :=
  if s.aug.running && s.aug.hold.isNone && decide (512 * 2 ^ 20 < s.aug.used + s.tailReserve + 65536) then
    let s := { s with aug := { s.aug with hold := some (s.count + 1) } }
    ((s.setFlag AUG_STAT_HOLD true).setFlag AUG_STAT_HOLD_SEEN true).driveHold
  else s

/-- STATE of a bed (Table 3.15). -/
def State.bedState (s : State) (b : Nat) : Nat := s.fld (BED_STAT_STATE.on (bedOff b))

/-- Set STATE of a bed. -/
def State.setBedState (s : State) (b v : Nat) : State := s.setFld (BED_STAT_STATE.on (bedOff b)) v

/-- A bed loaded as a target is given back: it is idle again (R499). -/
def State.dropTarget (s : State) (b : Fin 4) : State :=
  let bed : Bed := s.beds[b]
  if bed.target.isSome then
    let s := s.setBed b { bed with target := none, targetBanks := [], rejoinAt := none }
    if s.bedState b = 6 then s.setBedState b 1 else s
  else s

/-- The open rotation is cancelled: its targets return to idle, CODE reads 0x9 (R499, Table 18.1). -/
def State.cancelRotation (s : State) : State :=
  match s.svc.rot with
  | none => s
  | some r =>
    let bs := r.moves.flatMap (fun m => m.2.1 :: m.2.2.toList)
    let s := bs.foldl (fun s b => s.dropTarget (Fin.ofNat 4 b)) { s with svc := { s.svc with rot := none } }
    let s := (s.setFld TOP_ROT_STAT_TARGETS 0).setFld TOP_ROT_STAT_LEAVING 0
    (s.setFlag TOP_ROT_STAT_DEFERRED false).setFld TOP_ROT_STAT_CODE 9

/-- The normal STATE of a placed bed: degraded, running in Growing, else loaded (Table 3.15). -/
def State.bedHome (s : State) (b : Fin 4) : Nat :=
  if s.flag ⟨FLT_DEGRADED, b, 1⟩ then 4 else if s.mod.st == .growing then 3 else 2

/-- Columns in use: the usable columns of a bed (R280). -/
def Bed.usable (b : Bed) : Nat := if b.failed.length ≤ 2 then 64 else 66 - b.failed.length

/-- Spares left (Table 3.16): failed columns whose spare is not assigned yet count too. -/
def Bed.sparesLeft (b : Bed) : Nat := 2 - b.failed.length

/-- The physical column that serves a logical column (R109, R280). -/
def Bed.physOf (b : Bed) (c : Nat) : Nat :=
  if b.failed.length ≤ 2 then
    let home := if c < 32 then c else c + 2
    match b.spares.find? (fun p => p.2 == home) with
    | some p => p.1
    | none => home
  else ((List.range 66).filter (fun p => !b.failed.contains p)).getD c 0

/-- The logical column that a physical column serves, if any (R109, R280). -/
def Bed.logicalOf (b : Bed) (p : Nat) : Option Nat := (List.range b.usable).find? (fun c => b.physOf c == p)

/-- BED_COLMAP (Table 3.16). -/
def Bed.colmap (b : Bed) : Nat :=
  let f := fun p => if b.failed.contains p then 0x7F else (b.logicalOf p).getD 0x7F
  let s0 := if b.failed.length ≤ 2 && !b.spares.any (fun q => q.1 == 32) then 0x7F else f 32
  let s1 := if b.failed.length ≤ 2 && !b.spares.any (fun q => q.1 == 33) then 0x7F else f 33
  s1 * 256 + s0

end Sys2Proof.Machine
end

