-- ==== Sys2Proof/Machine/AccessOps.lean ====
section
/-!
DEFINITION. When a register access completes (R526, R531, R540), what a refused one leaves (Table 20.9), what any access does beside its
effect (R32, R508). Every command that is a register write goes through `State.via`.
-/
namespace Sys2Proof.Machine

/-- PATH of TOP_ACC_STAT (Table 20.9). -/
def pathCode : Path → Nat
  | .host => 0
  | .mgt => 1
  | .jtag => 2

/-- Index of a path, in the order of its codes. -/
def pathIx : Path → Fin 3
  | .host => 0
  | .mgt => 1
  | .jtag => 2

/-- TOP_ACC_STAT and TOP_ACC_ADDR describe a refused access (Table 20.9). -/
def State.refuseAccess (s : State) (p : Path) (addr reason : Nat) : State :=
  let s := (s.setFlag TOP_ACC_STAT_ERR true).setFld TOP_ACC_STAT_PATH (pathCode p)
  (s.setFld TOP_ACC_STAT_REASON reason).setReg TOP_ACC_ADDR (BitVec.ofNat 32 addr)

/-- The block of an address answers (Table 20.4). In a warm Waking the firmware restarts as the Waking begins (log entry 127), so LNK and HST
answer. -/
def State.blockAnswers (s : State) (a : Nat) : Bool :=
  let k := a / 0x10000
  let early := [0, 5, 6, 7, 8, 0xF, 0x31].contains k
  let none := decide (0xF < k ∧ k ≠ 0x10 ∧ ¬ (0x20 ≤ k ∧ k ≤ 0x33))
  let links := k == 9 || k == 0xD
  if s.mod.bootRom then early || none || links
  else if s.mod.st == .waking && s.mod.warm then early || none || links
  else if s.mod.st == .waking && !s.mod.fwOk then early || none
  else true

/-- Bed of a register address (Table 20.1). -/
def bedOf (a : Nat) : Fin 4 := Fin.ofNat 4 (a / 0x4000 % 4)

/-- Bed 3's block of a CHT7-B: writes are ignored and reads return zero (R4). -/
def State.absentBlock (s : State) (a : Nat) : Bool := a / 0x10000 == 2 && !s.bedPresent (bedOf a)

/-- The firmware or the boot ROM serves the host link (Table 20.4, R380); in a warm Waking once its lanes have retrained and it is up
(Table 1.5, R540). -/
def State.hostServed (s : State) : Bool :=
  s.mod.st.serving || s.mod.bootRom ||
    (s.mod.st == .waking && (if s.mod.warm then s.hst.up && !s.mod.rstHeld else s.mod.fwOk))

/-- The host link runs: while it is served, and through a warm Waking, in which its lanes train and it comes up (Table 1.5). -/
def State.hostLinkRuns (s : State) : Bool := s.hostServed || (s.mod.st == .waking && s.mod.warm && !s.mod.rstHeld)

/-- Accesses of a path complete: not in Off or Fallow (R26); the host link exists from start-up step 5; JTAG needs DEBUG_LOCK clear
(R371, R540). -/
def State.pathWorks (s : State) (p : Path) : Bool :=
  s.mod.st.powered && s.mod.st != .fallow && !s.mod.rstHeld &&
    (match p with
     | .host => s.hostServed
     | .mgt => true
     | .jtag => !s.debugLock)

/-- A private JTAG instruction is used: DEBUG_USED until the next cold Waking, EVENT 0x0104 on the first use (R371). -/
def State.usePrivate (s : State) : State :=
  if s.sec.debugUsed then { s with sec := { s.sec with jtag := true } }
  else
    (({ s with sec := { s.sec with jtag := true, debugUsed := true } } : State).setFlag SEC_STAT_DEBUG_USED true).writeEvent 0x0104 []

/-- An access over JTAG is a use of a private instruction. -/
def State.pathUsed (s : State) (p : Path) : State := if p = .jtag then s.usePrivate else s

/-- An access restarts the idle timer and is a wake event during entry to Fallow (R32, R508). -/
def State.accessSeen (s : State) : State := s.idleRestart.wakeEntry

/-- Perform a register write of a path, or refuse it with REASON 1 (R540); a write to the block of a bed that the part does not have is
ignored and is no error (R4, R544). -/
def State.via (s : State) (p : Path) (a : Nat) (f : State → State) : State :=
  if s.pathWorks p then
    let s := (s.pathUsed p).accessSeen
    if s.absentBlock a then s else if s.blockAnswers a then f s else s.refuseAccess p a 1
  else s

end Sys2Proof.Machine
end

