-- ==== Sys2Proof/Machine/FaultOps.lean ====
section
/-!
DEFINITION. Shared operations of chapter 11: detection of an error (R344 to R346), classification (R351), retirement to a spare and
degradation (R352, R353, R112, R113), the halt causes (R354).
-/
namespace Sys2Proof.Machine

/-- TYPE of a unit word (Table 11.12). -/
def unitType (u : Word) : Nat := bitsOf u.toNat 28 4

/-- Die bit of a unit word. -/
def unitDie (u : Word) : Nat := bitsOf u.toNat 27 1

/-- Bed of a grain or bed unit word. -/
def unitBed (u : Word) : Nat := bitsOf u.toNat 25 2

/-- Unit word of a grain (Table 11.12). -/
def grainUnit (bed row phys : Nat) : Word :=
  BitVec.ofNat 32 (0x10000000 + bedDie bed * 2 ^ 27 + bed * 2 ^ 25 + row * 2 ^ 16 + phys)

/-- Unit word of a bed unit: 0 entry, 1 and 2 exit copies, 3 comparator, 4 tag status queue, 5 steering unit (Table 11.12). -/
def bedUnit (bed row part : Nat) : Word :=
  BitVec.ofNat 32 (0x20000000 + bedDie bed * 2 ^ 27 + bed * 2 ^ 25 + row * 2 ^ 16 + part)

/-- Unit word of a DRAM row (Table 11.12). -/
def dramUnit (die chan bank row : Nat) : Word :=
  BitVec.ofNat 32 (0x30000000 + die * 2 ^ 27 + chan * 2 ^ 23 + bank * 2 ^ 17 + row)

/-- Unit word of a silt column (Table 11.12). -/
def siltUnit (die bank col : Nat) : Word := BitVec.ofNat 32 (0x40000000 + die * 2 ^ 27 + bank * 2 ^ 15 + col)

/-- Unit word of a stream lane (Table 11.12); lanes 24 to 47 stand on the west die (Table 1.1). -/
def streamLaneUnit (lane : Nat) : Word := BitVec.ofNat 32 (0x60000000 + (if lane < 24 then 0 else 2 ^ 27) + lane)

/-- Unit word of a decision lane (Table 11.12). -/
def decLaneUnit (lane : Nat) : Word := BitVec.ofNat 32 (0x70000000 + (if lane < 4 then 0 else 2 ^ 27) + lane)

/-- Unit word of a ring lane (Table 11.12). -/
def ringLaneUnit (port lane : Nat) : Word := BitVec.ofNat 32 (0x80000000 + (if port < 2 then 0 else 2 ^ 27) + port * 4 + lane)

/-- Unit word of the auger unit, the security engine, the firmware and the thermal unit (Table 11.12). -/
def augerUnit : Word := 0xA8000000

/-- Unit word of the security engine. -/
def rsaUnit : Word := 0xB0000000

/-- Unit word of the firmware. -/
def firmwareUnit : Word := 0xC0000000

/-- Unit word of the thermal unit of a die. -/
def thermalUnit (die : Nat) : Word := BitVec.ofNat 32 (0xD0000000 + die * 2 ^ 27)

/-- The verdict cause of an error class, 0 for none (Table 11.1). A stream lane's slots are absent, cause 1; a bridge transfer
that is no span part gives 3. -/
def classCause (cls : Nat) : Nat :=
  if 1 ≤ cls ∧ cls ≤ 6 then 3
  else if cls = 7 then 6
  else if 8 ≤ cls ∧ cls ≤ 0xB then 3
  else if cls = 0xC then 5
  else if cls = 0xD then 1
  else if cls = 0xF then 4
  else 0

/-- Halt cause of an error class: 2 auger numbering, 3 firmware watchdog, 4 thermal trip; 0 for none (R354, R345). -/
def classHalt (cls : Nat) : Nat := if cls = 0x10 then 2 else if cls = 0x12 then 3 else if cls = 0x13 then 4 else 0

/-- FLT_STAT.TESTING follows the tests that run. -/
def State.showTesting (s : State) : State :=
  s.setFlag FLT_STAT_TESTING (s.flt.tests.any (fun t => !t.waits) || !s.flt.pairTests.isEmpty)

/-- Set STATUS and ACTION of the last detection when it names the unit (Table 11.10). -/
def State.showStatus (s : State) (u : Word) (status action : Nat) : State :=
  if s.reg FLT_UNIT = u then
    let s := s.setFld FLT_CAUSE_STATUS status
    if action = 0 then s else s.setFld FLT_CAUSE_ACTION action
  else s

/-- A grain, row × 64 + logical column, stands on a program's path (R346). -/
def Network.uses (n : Network) (g : Nat) : Bool :=
  n.steps.any (fun x => match x with | .grain y => y.grain == g | .steer _ => false) || n.routes.any (fun r => r.grain == g)

/-- The steering unit of a row in a network. -/
def Network.steering? (n : Network) (row : Nat) : Option Steering :=
  n.steps.findSome? (fun x => match x with | .steer u => if u.row = row then some u else none | .grain _ => none)

/-- A unit computes, moves or checks a word of every frame of a bed (R346): a grain on its program's path, a bed unit. -/
def State.unitOnPath (s : State) (u : Word) (b : Fin 4) : Bool :=
  let bed : Bed := s.beds[b]
  unitBed u == b.val && (match unitType u, bed.variant with
    | 1, some v => (match bed.logicalOf (bitsOf u.toNat 0 7) with
        | some c => v.net.uses (bitsOf u.toNat 16 5 * 64 + c)
        | none => false)
    | 2, some v => bitsOf u.toNat 0 4 != 5 || (v.net.steering? (bitsOf u.toNat 16 5)).isSome
    | _, _ => false)

/-- A touched copy is not intact; the first cause stands. -/
def BedCopy.touch (c : BedCopy) (cause : Nat) : BedCopy := if c.intact then { c with intact := false, cause := cause } else c

/-- Touching by a unit ends: it is cleared or retired (R346). Frames it touched that are still in the bed stay touched. -/
def State.endTouch (s : State) (u : Word) : State :=
  match s.flt.touching.find? (fun t => t.unit == u && t.stop.isNone) with
  | none => s
  | some t =>
    let mark := fun (f : Frame) =>
      if f.exited || decide (f.hzn.toNat < t.hzn.toNat) then f
      else { f with copies := f.copies.map (fun (c : BedCopy) =>
        if s.unitOnPath u (Fin.ofNat 4 c.bed) then c.touch t.cause else c) }
    { s with
      fast := { s.fast with frames := s.fast.frames.map mark }
      flt := { s.flt with touching := s.flt.touching.filter (fun (t : Touching) => t.unit != u || t.stop.isSome) } }

/-- Touching by a column ends with its boundary switch: frames of earlier ticks finish on the old column (R112). -/
def State.stopTouch (s : State) (u : Word) (h : U64) : State :=
  let live := s.flt.touching.filter (fun (t : Touching) => match t.stop with
    | some x => decide (h.toNat < x.toNat + 131072)
    | none => true)
  { s with flt := { s.flt with touching := live.map (fun (t : Touching) =>
      if t.unit = u ∧ t.stop = none then { t with stop := some h } else t) } }

/-- A fault touches the frames of tick `h` of a bed: the cause of the first unit that does (R346, R347). -/
def State.touchCause (s : State) (b : Fin 4) (h : U64) : Option Nat :=
  (s.flt.touching.find? (fun (t : Touching) => s.unitOnPath t.unit b && decide (t.hzn.toNat ≤ h.toNat)
    && (match t.stop with | some x => decide (h.toNat < x.toNat) | none => true))).map Touching.cause

/-- FLT_STAT.DEGRADED shows whether a bit of FLT_DEGRADED is set (Table 11.9). -/
def State.showDegraded (s : State) : State := s.setFlag FLT_STAT_DEGRADED (s.reg FLT_DEGRADED != 0)

/-- Mark degraded: EVENT 0x0573, touching ends (R346, R352). -/
def State.markDegraded (s : State) (u : Word) : State :=
  let s := s.writeEvent 0x0573 [u.toNat]
  ((s.showStatus u 2 2).endTouch u).showDegraded

/-- Bit b of FLT_DEGRADED.BEDS (Table 11.11). -/
def degradedBed (b : Nat) : Field := ⟨FLT_DEGRADED, b, 1⟩

/-- Bit of FLT_DEGRADED.ENGINES (Table 11.11). -/
def degradedEngine (e : Nat) : Field := ⟨FLT_DEGRADED, 6 + e, 1⟩

/-- A bed is marked degraded: every frame it computes is substituted with cause 3 (R113, R352). -/
def State.degradeBed (s : State) (b : Fin 4) (u : Word) (substitute : Bool) : State :=
  let s := if substitute then s.setBed b { s.beds[b] with degraded := true } else s
  let s := s.setFlag (degradedBed b) true
  let s := if s.bedState b = 0 then s else s.setBedState b 4
  s.markDegraded u

/-- An engine is marked degraded (R352). -/
def State.degradeEngine (s : State) (e : Nat) (u : Word) : State :=
  let s := s.setFlag (degradedEngine e) true
  let s := s.setFld (LSS_STAT_STATE.on (lssOff e)) 3
  s.markDegraded u

/-- A retired unit has moved to its spare: EVENT 0x0572, touching ends (R352). -/
def State.unitMoved (s : State) (u : Word) (spare : Nat) (h : U64) : State :=
  let s := s.writeEvent 0x0572 [u.toNat, spare, h.toNat]
  (s.showStatus u 2 1).endTouch u

/-- A spare column of a bed that is free: not failed, not assigned, not loading (R109, R112). -/
def Bed.freeSpare (b : Bed) : Option Nat :=
  [32, 33].find? (fun s => !b.failed.contains s && !b.spares.any (fun p => p.1 == s) && !b.spareLoad.any (fun l => l.spare == s))

/-- A lasting grain fault in physical column `p` of a bed (R112, R113, R126): with a spare left it loads, else the bed is
degraded. -/
def State.retireColumn (s : State) (b : Fin 4) (p : Nat) (u : Word) : State :=
  let bed : Bed := s.beds[b]
  if bed.failed.contains p then
    if bed.spareLoad.any (fun l => decide (s.beds[b].physOf (if l.failed < 32 then l.failed else l.failed - 2) = p)) then s else s.endTouch u
  else
    -- the column whose place the failing one takes or was about to take
    let home : Option Nat := match bed.spareLoad.find? (fun l => l.spare == p) with
      | some l => some l.failed
      | none => match bed.spares.find? (fun q => q.1 == p) with
        | some q => some q.2
        | none => if p = 32 ∨ p = 33 then none else some p
    let bed : Bed := { bed with failed := bed.failed ++ [p], spareLoad := bed.spareLoad.filter (fun l => l.spare != p) }
    match home with
    | none => ((s.setBed b bed).showStatus u 2 1).endTouch u
    | some h =>
      -- a bed that loads is placed again with the columns that are left (R294)
      if s.bedState b = 6 ∧ bed.freeSpare.isNone then ((s.setBed b bed).showStatus u 2 1).endTouch u else
      match bed.freeSpare with
      | some sp =>
        let moved := match s.beds[b].spareLoad.find? (fun l => l.spare == p) with | some l => l.unit | none => u
        if bed.failed.length ≤ 2 then s.setBed b { bed with spareLoad := bed.spareLoad ++ [(⟨sp, h, moved, none⟩ : SpareLoad)] }
        else (s.setBed b bed).degradeBed b u true
      | none => (s.setBed b bed).degradeBed b u true

/-- Every placed bed is unable to produce verdicts (R353, R354). -/
def State.allUnable (s : State) : Bool := !s.placed.isEmpty && s.placed.all s.placeUnable

/-- A lasting exit path fault in one copy: the bed is degraded; with every placed bed unable the module halts (R353, R354). -/
def State.retireExit (s : State) (b : Fin 4) (copyB : Bool) (u : Word) : State :=
  let e := s.flt.exitFailed[b]
  let s := { s with flt := { s.flt with exitFailed := s.flt.exitFailed.set b (e.1 || !copyB, e.2 || copyB) } }
  let s := (s.degradeBed b u false).driveHold
  if s.allUnable then (s.setFld FLT_CAUSE_ACTION 3).halt 1 else s

/-- The spare lane of a decision quad, if DEC_CTL names a usable one (R429). -/
def State.decSpare (s : State) (quad : Nat) : Option Nat :=
  let l := s.fld (if quad = 0 then DEC_CTL_SPARE0 else DEC_CTL_SPARE1)
  let inMap := match s.phase? with
    | some p => p.decision.map.any (fun m => m.lanes.contains l)
    | none => false
  let rate := fun (n : Nat) => s.fld (LNK_STAT_RATE.on (lnkOff (48 + n)))
  let up := fun (n : Nat) => s.fld (LNK_STAT_STATE.on (lnkOff (48 + n))) = 5
  if l / 4 = quad ∧ l < 8 ∧ !inMap ∧ up l ∧ (List.range 4).all (fun i => !(decide (up (4 * quad + i))) || rate (4 * quad + i) == rate l)
      ∧ !s.dec.failedLanes.contains l ∧ !s.dec.moveDue.any (fun m => m.2 == l)
      ∧ !(List.range 4).any (fun i => bitsOf (s.reg DEC_LANE_MAP).toNat (4 * (4 * quad + i)) 4 == l && 4 * quad + i != l)
  then some l else none

/-- A lasting decision lane fault (R429). -/
def State.retireDecLane (s : State) (lane : Nat) (u : Word) : State :=
  let known := s.dec.failedLanes.contains lane
  match (if known then none else s.decSpare (lane / 4)) with
  | some sp => { s with dec := { s.dec with failedLanes := s.dec.failedLanes ++ [lane], moveDue := s.dec.moveDue ++ [(lane, sp)] } }
  | none =>
    let s := { s with dec := { s.dec with failedLanes := if known then s.dec.failedLanes else s.dec.failedLanes ++ [lane] } }
    (s.setFlag DEC_STAT_LANE_FAULT true).markDegraded u

/-- The eye scan on a lane ends early: DONE and ABORTED, and what it has compared is open (Table 13.6). -/
def State.abortEye (s : State) (l : Fin 80) : State :=
  let ln : Lane := s.lanes[l]
  if ln.eyeOn then
    let e := s.drawNat
    let b := e.2.drawNat
    let s := b.2.setLane l { ln with eyeOn := false }
    let s := (s.setReg LNK_EYE_ERR (BitVec.ofNat 32 e.1)).setReg64 LNK_EYE_BITS_LO (BitVec.ofNat 64 b.1)
    ((s.setFlag LNK_EYE_STAT_BUSY false).setFlag LNK_EYE_STAT_DONE true).setFlag LNK_EYE_STAT_ABORTED true
  else s

/-- The open item of a stream lane ends unfinished: it is lost when its header has been received in part (R415). -/
def State.dropItem (s : State) (l : Fin 80) : State :=
  let ln : Lane := s.lanes[l]
  let s := s.setLane l { ln with reasm := ⟨[], 0, true⟩ }
  if ln.reasm.bytes.isEmpty then s else s.bump STM_LOST_CNT

/-- A lasting stream lane fault: the receiver is disabled, its open item and its scan end, and the lane is reported (R421, Table 14.5). -/
def State.retireStreamLane (s : State) (lane : Fin 80) (u : Word) : State :=
  let s := s.setFlag STM_STAT_LANE_RET true
  let s := s.setFlag ⟨if lane.val < 32 then STM_LANE_RET_LO else STM_LANE_RET_HI, lane.val % 32, 1⟩ true
  let s := (s.abortEye lane).dropItem lane
  let s := s.setFld (LNK_STAT_STATE.on (lnkOff lane)) 0
  let s := s.setFlag (LNK_STAT_LOCK.on (lnkOff lane)) false
  s.unitMoved u 0xFF s.count

/-- A silt bank is marked degraded, and its engine with it (R224). -/
def State.degradeBank (s : State) (e : Fin 2) (bank : Nat) (u : Word) : State :=
  let eng : Engine := s.eng[e]
  (s.setEng e { eng with siltDegraded := eng.siltDegraded.filter (· != bank) ++ [bank] }).degradeEngine e u

/-- A lasting silt column fault: live repair with the bank's next spare, else the bank is degraded (R224). A bank's spares 0 to 3 are taken in
order, those of the repair data first (log entry 90). -/
def State.retireSilt (s : State) (e : Fin 2) (bank col : Nat) (u : Word) : State :=
  let eng : Engine := s.eng[e]
  let used := (mapFind eng.siltUsed bank).getD 0
  if eng.repairs.any (fun r => r.bank == bank) then
    (s.setEng e { eng with repairs := eng.repairs.map (fun r => if r.bank = bank then { r with broken := true } else r) }).degradeBank e bank u
  else if 0 < s.siltSparesLeft e bank then
    s.setEng e { eng with
      siltUsed := mapPut (fun _ => 0) eng.siltUsed bank (used + 1)
      repairs := eng.repairs ++ [(⟨bank, col, 4 - s.siltSparesLeft e bank, [], false⟩ : SiltRepair)] }
  else s.degradeBank e bank u

/-- A lasting bridge lane fault: a spare lane at the next horizon boundary while the direction has one, else degraded (R352). -/
def State.retireBridge (s : State) (d : Fin 2) (u : Word) : State :=
  if s.flt.bridgeSpares[d] < 2 then
    { s with flt := { s.flt with
        bridgeSpares := s.flt.bridgeSpares.set d (s.flt.bridgeSpares[d] + 1)
        bridgeDue := s.flt.bridgeDue ++ [(u, s.flt.bridgeSpares[d], nextBoundary s.count)] } }
  else (s.setFlag FLT_DEGRADED_BRIDGE true).markDegraded u

/-- The part of retire() that moves the unit to its spare or marks it (R352). The spec numbers no spare row: EVENT 0x0572 gives index 0 (DESIGN
CHOICE, log entry 90). -/
def State.retireUnit (s : State) (u : Word) : State :=
  let bed : Fin 4 := Fin.ofNat 4 (unitBed u)
  match unitType u with
  | 1 => s.retireColumn bed (bitsOf u.toNat 0 7) u
  | 2 =>
    match bitsOf u.toNat 0 4 with
    | 1 => s.retireExit bed false u
    | 2 => s.retireExit bed true u
    | _ => s.degradeBed bed u true
  | 3 =>
    let e : Fin 2 := Fin.ofNat 2 (unitDie u)
    let key := bitsOf u.toNat 23 3 * 2 ^ 20 + bitsOf u.toNat 17 6 * 2 ^ 13 + bitsOf u.toNat 0 13
    let s := s.setEng e { s.eng[e] with rowsSpared := s.eng[e].rowsSpared.filter (· != key) ++ [key] }
    (s.setFlag (LSS_MEM_STAT_ROW_SPARED.on (lssOff e)) true).unitMoved u 0 s.count
  | 4 => s.retireSilt (Fin.ofNat 2 (unitDie u)) (bitsOf u.toNat 15 8) (bitsOf u.toNat 0 10) u
  | 5 => s.degradeEngine (unitDie u) u
  | 6 => s.retireStreamLane (Fin.ofNat 80 (bitsOf u.toNat 0 6)) u
  | 7 => s.retireDecLane (bitsOf u.toNat 0 3) u
  | 8 => s.markDegraded u
  | 9 => s.retireBridge (Fin.ofNat 2 (bitsOf u.toNat 7 1)) u
  | 0xB =>
    let s := { s with aug := { s.aug with rsaFailed := true } }
    (s.setFlag FLT_DEGRADED_RSA true).markDegraded u
  | _ => s.markDegraded u

/-- A lasting fault in a target bed cancels the rotation, or the loading of a rejoining partner (R499, R500); a grain fault in a bed that still
loads does not: its placement starts again as it loads (R294; log entry 118). -/
def State.dropFaultyTarget (s : State) (u : Word) : State :=
  let b : Fin 4 := Fin.ofNat 4 (unitBed u)
  if (unitType u = 1 ∨ unitType u = 2) ∧ s.bedState b = 6 then
    let mine := match s.svc.rot with
      | some r => r.moves.any (fun m => m.2.1 == b.val || m.2.2 == some b.val)
      | none => false
    let loads : Bool := if mine then s.svc.rot.any (fun (r : Rotation) => !r.loaded) else (s.beds[b] : Bed).rejoinAt.isNone
    if unitType u == 1 && loads then s
    else if mine then s.cancelRotation else s.dropTarget b
  else s

/-- retire(): classified lasting, EVENT 0x0571 with its reason, then R352 (R351). -/
def State.retire (s : State) (u : Word) (reason : Nat) : State :=
  let s := (s.bump FLT_LASTING_CNT).setFlag FLT_STAT_LASTING true
  let s := s.showStatus u 2 0
  let s := s.writeEvent 0x0571 [u.toNat, reason]
  (s.dropFaultyTarget u).retireUnit u

/-- Store a transient in the history of 256 units; when full the entry with the oldest horizon gives way (R351). -/
def histStore (hist : List HistEntry) (u : Word) (h : U64) : List HistEntry :=
  let rest := hist.filter (fun e => e.unit != u)
  if rest.length < 256 then rest ++ [⟨u, h⟩]
  else
    let oldest := rest.foldl (fun m e => min m e.last.toNat) (2 ^ 64)
    match rest.findIdx? (fun e => e.last.toNat == oldest) with
    | some i => rest.eraseIdx i ++ [⟨u, h⟩]
    | none => rest ++ [⟨u, h⟩]

/-- FLT_WINDOW in ticks (R351). -/
def State.fltWindow (s : State) : Nat := (s.reg FLT_WINDOW).toNat * 1024

/-- Store a detection as transient: history, EVENT 0x0570, touching ends (R346, R351). -/
def State.transient (s : State) (u : Word) (h : U64) : State :=
  let s := { s with flt := { s.flt with hist := histStore s.flt.hist u h } }
  let s := ((s.bump FLT_TRANSIENT_CNT).setFlag FLT_STAT_TRANSIENT true).showStatus u 1 0
  (s.writeEvent 0x0570 [u.toNat, h.toNat]).endTouch u

/-- The entry order of a bed's layout bed leaves no empty position in any tick: a tick's whole fabric clocks hold no more positions than
slots stand in it (R58, R350). -/
def State.bedFull (s : State) (b : Nat) : Bool :=
  let bed : Bed := s.beds[b % 4]!
  match bed.variant, s.phase? with
  | some _, some p => decide (s.tickPs / 800 / p.ph.ii ≤ (p.order bed.layoutBed).length)
  | _, _ => false

/-- The class has no test on this unit: a MAC scan or an exit path test alone, on a bed without an empty position; repetition alone decides
(R350, Table 11.1). -/
def State.noTest (s : State) (u : Word) (cls : Nat) : Bool := (cls == 2 || cls == 6) && s.bedFull (unitBed u)

/-- The march of a DRAM row: ten passes in class 6 (R210, R349, Table 11.3). -/
def rowTestJobs (u : Word) (ns : U64) : List DramJob :=
  if unitType u = 3 then rowJobs (unitDie u) (bitsOf u.toNat 23 3) (bitsOf u.toNat 17 6) (bitsOf u.toNat 0 13) 6 10 ns else []

/-- classify() up to the start of the self-test (R349 to R351). A unit without a test is stored as transient at once (log entry 109). -/
def State.classify (s : State) (u : Word) (cls : Nat) (h : U64) : State :=
  if s.flt.tests.any (fun t => t.unit == u) then
    { s with flt := { s.flt with tests := s.flt.tests.map (fun t => if t.unit = u then { t with repeated := true } else t) } }
  else if s.flt.hist.any (fun e => e.unit == u && decide (e.last.toNat + s.fltWindow > h.toNat)) then s.retire u 2
  else if s.noTest u cls then s.transient u h
  else
    { s with flt := { s.flt with
        tests := s.flt.tests ++ [(⟨u, cls, h, false, false, none⟩ : UnitTest)]
        jobs := s.flt.jobs ++ rowTestJobs u s.tim.c } }.showTesting

/-- The grains that feed a steering unit: the last logical column of its data row and of its token row (R105, R108). -/
def State.feeders (s : State) (u : Word) : List Word :=
  let b := unitBed u
  let bed : Bed := s.beds[b % 4]!
  match bed.variant with
  | none => []
  | some v => match v.net.steering? (bitsOf u.toNat 16 5) with
    | none => []
    | some y => ([y.row, y.token].eraseDups).map (fun row => grainUnit b row (bed.physOf (v.u - 1)))

/-- The grains that feed a failing steering unit enter its self-test (R108); on a bed without an empty position no MAC scan runs (R350). -/
def State.testFeeders (s : State) (u : Word) (h : U64) : State :=
  if s.bedFull (unitBed u) ∨ !s.flt.tests.any (fun t => t.unit == u) then s
  else
    let new := (s.feeders u).filter (fun g => !s.flt.tests.any (fun t => t.unit == g))
    { s with flt := { s.flt with tests := s.flt.tests ++ new.map (fun g => (⟨g, 5, h, false, false, some u⟩ : UnitTest)) } }

/-- Status bits and counters that a class sets beside the FLT block (R89, R95, R108, R208, R223, R260). -/
def State.classSide (s : State) (u : Word) (cls : Nat) : State :=
  let b := bedOff (unitBed u)
  let e := lssOff (unitDie u)
  match cls with
  | 4 => (s.setFlag (BED_STAT_OCC_ERR.on b) true).bump (BED_OCC_ERR_CNT + b)
  | 5 => (s.setFlag (BED_STAT_STEER_ERR.on b) true).bump (BED_STEER_ERR_CNT + b)
  | 9 => (s.setFlag (LSS_MEM_STAT_DRAM_UNCORR.on e) true).bump (LSS_DRAM_UNCORR_CNT + e)
  | 0xA => s.setFlag (LSS_MEM_STAT_SILT_UNCORR.on e) true
  | 0xC => (s.setFlag (LSS_STAT_SEQ_ERR.on e) true).bump (LSS_SEQ_ERR_CNT + e)
  | _ => s

/-- A detection of this unit already wrote its record in this tick (R345). -/
def State.inBurst (s : State) (u : Word) (h : U64) : Bool := mapFind s.flt.seen u.toNat == some h

/-- The EVENT record of a detection: unit, first touched tick, tag; none within a burst (R327, R345). -/
def State.detectEvent (s : State) (u : Word) (cls : Nat) (h : U64) (tag : Nat) : State :=
  if s.inBurst u h then s
  else ({ s with flt := { s.flt with seen := mapSet s.flt.seen u.toNat h } }).writeEventAt (0x0500 + cls) h 0 [u.toNat, h.toNat, tag]

/-- FAULT_DETECTED: a unit reports an error of a class at tick `h` with a frame tag (0 where none applies) (R344 to R346, R349, R351,
R354, R362). `cause` is the verdict cause of touched verdicts. Loess classes touch only the work item (R346). -/
def State.detectAs (s : State) (u : Word) (cls cause : Nat) (h : U64) (tag : Nat) : State :=
  let s := s.wakeEntry
  let s := s.setReg FLT_CAUSE (BitVec.ofNat 32 (cls * 65536 + cause * 16))
  let s := (s.setReg FLT_UNIT u).setReg64 FLT_HZN_LO h
  let s := (s.setFlag FLT_STAT_FAULT true).classSide u cls
  let s := s.detectEvent u cls h tag
  let hc := classHalt cls
  if hc ≠ 0 then
    let s := (s.setFld FLT_CAUSE_ACTION 3).halt hc
    if cls = 0x10 then { s with aug := { s.aug with numberingFailed := true } } else s
  else
    let touch := ((1 ≤ cls ∧ cls ≤ 6) ∨ cls = 8) ∧ !s.noTest u cls
    let s := if touch ∧ !s.flt.touching.any (fun t => t.unit == u && t.stop.isNone) then
        { s with flt := { s.flt with touching := s.flt.touching ++ [(⟨u, cause, h, none⟩ : Touching)] } }
      else s
    -- a mirror disagreement is classed by its own tests (R355)
    if cls = 7 then s
    else
      let s := s.classify u cls h
      if cls = 5 then s.testFeeders u h else s

/-- FAULT_DETECTED with the cause of Table 11.1. -/
def State.detect (s : State) (u : Word) (cls : Nat) (h : U64) (tag : Nat) : State := s.detectAs u cls (classCause cls) h tag

/-- The frame tag of a tick and slot (R53). -/
def frameTag (h : U64) (slot : Nat) : Nat := h.toNat % 1024 * 64 + slot

end Sys2Proof.Machine
end

