-- ==== Sys2Proof/Machine/Arith.lean ====
section
/-!
DEFINITION. The integer arithmetic of the fast tier and the counter mixer, exactly as the pseudocode of chapters 4 and 5 states it
(R131, R140 to R142, R150, R161, R165 to R187). A function that can saturate answers its value and the number of saturation
events it met (R132, R188).
-/
namespace Sys2Proof.Machine

/-- asr(): floor of v / 2^sh (R131). -/
def asr (v : Int) (sh : Nat) : Int := v / (2 ^ sh : Nat)

/-- round_half_even() (R131). -/
def roundHalfEven (v : Int) (sh : Nat) : Int :=
  if sh = 0 then v
  else
    let q := asr v sh
    let r := v - q * (2 ^ sh : Nat)
    let half : Int := (2 ^ (sh - 1) : Nat)
    if r > half ∨ (r = half ∧ q % 2 = 1) then q + 1 else q

/-- sat(): clamp to a signed integer of `bits` bits (R131). -/
def sat (v : Int) (bits : Nat) : Int :=
  let hi : Int := (2 ^ (bits - 1) : Nat) - 1
  let lo : Int := -(2 ^ (bits - 1) : Nat)
  if v > hi then hi else if v < lo then lo else v

/-- sat() with its saturation event: one when the value changed (R132). -/
def satE (v : Int) (bits : Nat) : Int × Nat :=
  let r := sat v bits
  (r, if r = v then 0 else 1)

/-- round_stochastic() (R175). -/
def roundStochastic (v : Int) (sh u : Nat) : Int :=
  if sh = 0 then v
  else
    let q := asr v sh
    let r := (v - q * (2 ^ sh : Nat)).toNat
    let frac := if sh ≤ 16 then r * 2 ^ (16 - sh) else r / 2 ^ (sh - 16)
    if u < frac then q + 1 else q

/-- tree_sum() (R178): adjacent pairs, level by level; the fuel is the number of levels. -/
def treeSum : Nat → List Int → Int
  | _, [] => 0
  | _, [x] => x
  | 0, x :: _ => x
  | n + 1, xs => treeSum n (pairUp xs)
where
  pairUp : List Int → List Int
    | a :: b :: rest => (a + b) :: pairUp rest
    | rest => rest

/-- The sum of a list under tree_sum(). -/
def treeSumOf (xs : List Int) : Int := treeSum xs.length xs

/-- One level of tree_sum_sat() (R178). -/
def pairUpSat (bits : Nat) : List Int → List Int × Nat
  | a :: b :: rest =>
    let s := satE (a + b) bits
    let t := pairUpSat bits rest
    (s.1 :: t.1, s.2 + t.2)
  | rest => (rest, 0)

/-- tree_sum_sat() with its saturation events (R178). -/
def treeSumSat (bits : Nat) : Nat → List Int → Int × Nat
  | _, [] => (0, 0)
  | _, [x] => (x, 0)
  | 0, x :: _ => (x, 0)
  | n + 1, xs =>
    let l := pairUpSat bits xs
    let r := treeSumSat bits n l.1
    (r.1, l.2 + r.2)

/-- grade_decode() (R140). -/
def gradeDecode (lvl : List Int) (c : Nat) : Int := lvl.getD c 0

/-- grade_encode_nearest() (R141); an input outside the levels is a saturation event (R143). -/
def gradeEncodeNearest (a : Int) (lvl : List Int) : Nat × Nat :=
  let c := (List.range 15).foldl (fun c i =>
    let t := lvl.getD i 0 + lvl.getD (i + 1) 0
    if 2 * a > t then i + 1 else if 2 * a = t ∧ i % 2 = 1 then i + 1 else c) 0
  (c, if a < lvl.getD 0 0 ∨ a > lvl.getD 15 0 then 1 else 0)

/-- grade_encode_stochastic() (R142, R143). -/
def gradeEncodeStochastic (a : Int) (lvl : List Int) (u : Nat) : Nat × Nat :=
  let ev := if a < lvl.getD 0 0 ∨ a > lvl.getD 15 0 then 1 else 0
  if a ≤ lvl.getD 0 0 then (0, ev)
  else if a ≥ lvl.getD 15 0 then (15, ev)
  else
    let c := (List.range 14).foldl (fun c i => if lvl.getD (i + 1) 0 ≤ a then i + 1 else c) 0
    let d := lvl.getD (c + 1) 0 - lvl.getD c 0
    let r := a - lvl.getD c 0
    if r * 65536 > (u : Int) * d then (c + 1, ev) else (c, ev)

/-- rotl64() (R181). -/
def rotl64 (x n : Nat) : Nat := Nat.lor (x * 2 ^ n % 2 ^ 64) (x / 2 ^ (64 - n))

/-- add64() (R181). -/
def add64 (x y : Nat) : Nat := (x + y) % 2 ^ 64

/-- One round of cmx(): words x and y, round i (R181). -/
def cmxRound (k0 k1 : Nat) (w : Nat × Nat) (i : Nat) : Nat × Nat :=
  let rot := [19, 33, 7, 45, 27, 58].getD (i % 6) 0
  let t := add64 (rotl64 w.1 rot) w.2
  let y := Nat.xor (Nat.xor (rotl64 w.2 31) t) (i + 1)
  if i % 6 = 5 then
    let even := i / 6 % 2 = 0
    (add64 t (if even then k0 else k1), Nat.xor y (rotl64 (if even then k1 else k0) 13))
  else (t, y)

/-- cmx(): the counter mixer (R181, R182). -/
def cmx (key hzn slot grain use : Nat) : Nat :=
  let k0 := key % 2 ^ 64
  let k1 := key / 2 ^ 64 % 2 ^ 64
  let c1 := use % 2 ^ 32 * 2 ^ 32 + grain % 2 ^ 16 * 2 ^ 8 + slot % 2 ^ 8
  let w := (List.range 18).foldl (cmxRound k0 k1) (Nat.xor (hzn % 2 ^ 64) k1, add64 c1 k0)
  add64 w.1 (rotl64 w.2 17)

/-- The 16-bit draw of stochastic consumer `e` of a grain for a frame (R185, R186). -/
def drawU (key hzn slot grain e : Nat) : Nat := cmx key hzn slot grain (e / 4) / 2 ^ (16 * (e % 4)) % 65536

/-- The tally decision of a frame (R187): grain field 0x2000 + layout bed. -/
def tallyOf (key hzn slot layoutBed tallyP : Nat) : Bool :=
  decide (tallyP = 0xFFFFFFFF) || decide (cmx key hzn slot (0x2000 + layoutBed) 0 % 2 ^ 32 < tallyP)

/-- A marl descriptor (Table 4.1). -/
structure MarlDesc where
  pattern : Nat
  signs : Bool
  inverse : Bool
  shift : Nat
  log2n : Nat
deriving DecidableEq, Repr

/-- The fields of a marl descriptor word (Table 4.1). -/
def marlDesc (w : Nat) : MarlDesc :=
  { pattern := bitsOf w 20 12, signs := bitsOf w 19 1 = 1, inverse := bitsOf w 18 1 = 1
    shift := bitsOf w 8 4, log2n := bitsOf w 0 4 }

/-- flip() (R148): sign words from the phase's marl key (R149). -/
def marlFlip (d : MarlDesc) (key j : Nat) : Bool :=
  d.signs && decide (cmx key 0 0 d.pattern (j / 64) / 2 ^ (j % 64) % 2 = 1)

/-- One butterfly stage of half-width `h` (R150). -/
def butterfly (h : Nat) (y : List Int) : List Int :=
  (List.range y.length).map (fun j =>
    if j / h % 2 = 0 then y.getD j 0 + y.getD (j + h) 0 else y.getD (j - h) 0 - y.getD j 0)

/-- marl() with its saturation events (R150, R151). -/
def marl (x : List Int) (d : MarlDesc) (key : Nat) : List Int × Nat :=
  let n := 2 ^ d.log2n
  let flip := fun (j : Nat) (v : Int) => if marlFlip d key j then -v else v
  let y := (List.range n).map (fun j => if d.inverse then x.getD j 0 else flip j (x.getD j 0))
  let y := (List.range d.log2n).foldl (fun y k => butterfly (2 ^ k) y) y
  let sh := if d.inverse then d.log2n - d.shift else d.shift
  let out := (List.range n).map (fun j =>
    let v := roundHalfEven (y.getD j 0) sh
    satE (if d.inverse then flip j v else v) 8)
  (out.map Prod.fst, (out.map Prod.snd).sum)

/-- A row descriptor (Table 5.2). -/
structure RowDesc where
  ns : Nat
  sr : Bool
  act : Bool
  atab : Nat
  ash : Nat
  zpOut : Int
  zpW : Int
deriving DecidableEq, Repr

/-- The fields of a row descriptor word (Table 5.2). -/
def rowDesc (w : Nat) : RowDesc :=
  { ns := bitsOf w 26 6, sr := bitsOf w 25 1 = 1, act := bitsOf w 24 1 = 1, atab := bitsOf w 22 2
    ash := bitsOf w 17 5, zpOut := signedOf 8 (bitsOf w 8 8), zpW := signedOf 8 (bitsOf w 0 8) }

/-- A group scale: mantissa and shift of a scale word (R154). -/
structure Scale where
  m : Nat
  e : Nat
deriving DecidableEq, Repr

/-- The fields of a scale word (R154). -/
def scaleOf (w : Nat) : Scale := { m := bitsOf w 0 16, e := bitsOf w 16 6 }

/-- One activation table: 64 segments of slope and base (R177). -/
abbrev ActTable := List (Int × Int)

/-- The segment of an activation table word: slope in the high half, base in the low half (R177). -/
def actSegment (w : Nat) : Int × Int := (signedOf 16 (bitsOf w 16 16), signedOf 16 (bitsOf w 0 16))

/-- activate() with its saturation event (R177). -/
def activate (h : Int) (t : ActTable) (ash : Nat) (zpOut : Int) : Int × Nat :=
  let x := (h + 32768).toNat
  let seg := t.getD (x / 1024) (0, 0)
  let v := seg.2 * 1024 + seg.1 * ((x % 1024 : Nat) : Int)
  satE (roundHalfEven v ash + zpOut) 8

/-- round_mode() (R174). -/
def roundMode (v : Int) (sh : Nat) (sr : Bool) (u : Nat) : Int :=
  if sr then roundStochastic v sh u else roundHalfEven v sh

/-- narrow() with its saturation events (R174). -/
def narrow (acc : Int) (rd : RowDesc) (ats : List ActTable) (u : Nat) : Int × Nat :=
  let y := roundMode acc rd.ns rd.sr u
  if rd.act then
    let h := satE y 16
    let a := activate h.1 (ats.getD rd.atab []) rd.ash rd.zpOut
    (a.1, h.2 + a.2)
  else satE (y + rd.zpOut) 8

/-- row_sum(): products and adder tree (R166). -/
def rowSum (a w : List Int) : Int := treeSumOf (List.zipWith (· * ·) a w)

/-- One row of a grain on a MAC path: the partial of the open group, the accumulator, and the saturation events so far (R165). -/
structure MacLane where
  part : Int
  acc : Int
  events : Nat
deriving DecidableEq, Repr, Inhabited

/-- An input vector enters the open group: its row sum, less zp_w times its column sum (R166 to R169). -/
def MacLane.vec (l : MacLane) (zpW : Int) (a w : List Int) : MacLane :=
  { l with part := l.part + rowSum a w - zpW * treeSumOf a }

/-- An amount enters the accumulator with sat(, 40) (R170, R172). -/
def MacLane.add (l : MacLane) (v : Int) : MacLane :=
  let q := satE (l.acc + v) 40
  { l with acc := q.1, events := l.events + q.2 }

/-- The group closes: rescale into the accumulator; the next group starts at zero (R168, R170). -/
def MacLane.close (l : MacLane) (s : Scale) : MacLane :=
  { l.add (roundHalfEven (l.part * s.m) s.e) with part := 0 }

/-- One residual entry (R172). -/
def MacLane.residual (l : MacLane) (x zp : Int) (s : Scale) : MacLane := l.add (roundHalfEven ((x - zp) * s.m) s.e)

/-- The accumulation link word of a lane: int24 partial in [23:0], int40 accumulator in [63:24] (R85). -/
def MacLane.word (l : MacLane) : BitVec 64 := BitVec.ofInt 64 (l.acc * 2 ^ 24 + l.part % 2 ^ 24)

/-- A lane as the eastern grain takes it from the link word (R85, R169, R171). -/
def MacLane.ofWord (w : BitVec 64) : MacLane := ⟨signedOf 24 (bitsOf w.toNat 0 24), signedOf 40 (bitsOf w.toNat 24 40), 0⟩

/-- decode_format(): int8, uint8, int16 or uint16 (Table 4.6). -/
def decodeFormat (raw format : Nat) : Int :=
  match format with
  | 0 => signedOf 8 raw
  | 1 => ((raw % 256 : Nat) : Int)
  | 2 => signedOf 16 raw
  | _ => ((raw % 65536 : Nat) : Int)

/-- normalise(): the element, its clamp flag and its saturation event (R161, R163). -/
def normalise (raw : Nat) (g : NormGroup) (md : Nat) (od : Int) : Int × Bool × Nat :=
  if g.enable then
    let x := decodeFormat raw g.format.toNat
    let m := min (max md g.scaleMin.toNat) g.scaleMax.toNat
    let o := min (max od g.offsetMin.toInt) g.offsetMax.toInt
    let r := satE (roundHalfEven ((x - o) * m) g.nshift.toNat) 8
    (r.1, decide (m ≠ md ∨ o ≠ od), r.2)
  else (signedOf 8 raw, false, 0)

/-- Threshold of 16 elements: bit j set when x[j] ≥ T (Table 5.4). -/
def thresholdMask (x : List Int) (t : Int) : Nat :=
  (List.range 16).foldl (fun m j => if x.getD j 0 ≥ t then m + 2 ^ j else m) 0

/-- Window sums with their saturation events (Table 5.4). -/
def windowSums (x : List Int) (w wsh : Nat) : List Int × Nat :=
  let out := (List.range 16).map (fun j =>
    if j + w ≤ 16 then satE (roundHalfEven (treeSumOf ((x.drop j).take w)) wsh) 8 else (0, 0))
  (out.map Prod.fst, (out.map Prod.snd).sum)

/-- Local maxima against the four neighbours; a null neighbour supplies −128 (Table 5.4). -/
def localMaxMask (x n w s e : List Int) : Nat :=
  (List.range 16).foldl (fun m j =>
    let v := x.getD j 0
    if v > n.getD j (-128) ∧ v > w.getD j (-128) ∧ v ≥ s.getD j (-128) ∧ v ≥ e.getD j (-128)
    then m + 2 ^ j else m) 0

/-- Insert into a list in descending order of value; equal values stay in the order they came (Table 5.4). -/
def insertDesc (p : Int × Nat) : List (Int × Nat) → List (Int × Nat)
  | [] => [p]
  | q :: rest => if p.1 > q.1 then p :: q :: rest else q :: insertDesc p rest

/-- Sort of 16 elements: values with their indices, descending, ties by ascending index (Table 5.4). -/
def sort16 (x : List Int) : List (Int × Nat) :=
  (List.range 16).foldl (fun acc j => insertDesc (x.getD j 0, j) acc) []

/-- Merge of two sorted lists; on equal values an entry of the first list comes first (Table 5.4). -/
def mergeDesc : Nat → List (Int × Nat) → List (Int × Nat) → List (Int × Nat)
  | 0, _, _ => []
  | _ + 1, [], ys => ys
  | _ + 1, xs, [] => xs
  | n + 1, x :: xs, y :: ys =>
    if y.1 > x.1 then y :: mergeDesc n (x :: xs) ys else x :: mergeDesc n xs (y :: ys)

/-- Merge keeping the first k entries (Table 5.4). -/
def mergeTopK (k : Nat) (xs ys : List (Int × Nat)) : List (Int × Nat) :=
  (mergeDesc (xs.length + ys.length) xs ys).take k

end Sys2Proof.Machine
end

