-- ==== Sys2Proof/Machine/LoessOps.lean ====
section
/-!
DEFINITION. Loess arithmetic and the evaluation of loess programs (R232 to R242, R560), ring contents and validity (R194 to R202),
admission of queries (R251 to R255), engine state.
-/
namespace Sys2Proof.Machine

/-- scale_to() with its saturation event (R232). -/
def scaleTo (v : Int) (m e bits : Nat) : Int × Nat := satE (roundHalfEven (v * m) e) bits

/-! Rings -/

/-- Extra entries of a spillable stream ring, and extra slabs of a spillable group (R203). -/
def StreamRing.extra (r : StreamRing) : Nat := if r.decl.spill then 512 else 0

/-- The entry of a tick, if it is valid (R201): at or after the start horizon, still stored, not given up (R214). -/
def StreamRing.entry? (r : StreamRing) (t : Nat) : Option StreamEntry :=
  if t < r.start.toNat ∨ r.givenUp.any (fun g => decide (g.1 ≤ t ∧ t ≤ g.2)) then none else mapFind r.entries t

/-- The first tick from which period `p` is readable (R200). -/
def GroupDecl.readableAt (g : GroupDecl) (p : Nat) : Nat := (p + 1) * g.slowTicks + g.slowDeadline + g.slowSettle

/-- The newest period readable at tick `u` (R200, R234). -/
def GroupDecl.newest (g : GroupDecl) (u : Nat) : Option Nat :=
  let d := u - (g.slowDeadline + g.slowSettle)
  if u < g.slowDeadline + g.slowSettle + g.slowTicks then none else some (d / max g.slowTicks 1 - 1)

/-- The slab of a period, if it is valid (R201). -/
def ChanGroup.slab? (g : ChanGroup) (p : Nat) : Option Slab :=
  if p * g.decl.slowTicks < g.start.toNat ∨ g.givenUp.any (fun r => decide (r.1 ≤ p ∧ p ≤ r.2)) then none else mapFind g.slabs p

/-- A channel entry as a number in its group's FORMAT (R197). -/
def GroupDecl.value (g : GroupDecl) (raw : Nat) : Int :=
  if g.signed then signedOf (8 * g.width) raw else ((raw % 2 ^ (8 * g.width) : Nat) : Int)

/-- The entry of an index in a slab (R200): ABSENT where no valid summary stands. -/
def ChanGroup.raw (g : ChanGroup) (s : Slab) (i : Nat) : Nat :=
  if s.dups.contains i then g.decl.absent else (mapFind s.values i).getD g.decl.absent

/-- A stream entry's element 0 to 15, or ACCEPT as element 16 (R234). -/
def StreamEntry.elem (e : StreamEntry) (i : Nat) : Int :=
  if i = 16 then ((e.verdict.toNat % 2 : Nat) : Int) else e.summary.getD i 0

/-- Values of one element that enter a window at reference tick `u` over ages `lo` to `hi` (R234). -/
def Engine.windowValues (e : Engine) (r : RingElem) (u lo hi : Nat) : List Int :=
  if r.stream then
    match mapFind e.streams r.ring with
    | none => []
    | some g => g.entries.filterMap (fun x =>
        if x.1 + hi < u ∨ u < x.1 + lo then none
        else match g.entry? x.1 with
          | some y => if y.present then some (y.elem r.elem) else none
          | none => none)
  else
    match mapFind e.groups r.ring with
    | none => []
    | some g => match g.decl.newest u with
      | none => []
      | some p0 => g.slabs.filterMap (fun x =>
          if x.1 + hi < p0 ∨ p0 < x.1 + lo then none
          else match g.slab? x.1 with
            | some y => if g.raw y r.elem = g.decl.absent then none else some (g.decl.value (g.raw y r.elem))
            | none => none)

/-- One ring value at an age of reference tick `u`; an invalid or ABSENT entry is 0 (R236). -/
def Engine.ringValue (e : Engine) (r : RingElem) (u age : Nat) : Int :=
  if r.stream then
    if u < age then 0
    else match (mapFind e.streams r.ring).bind (fun g => g.entry? (u - age)) with
      | some y => y.elem r.elem
      | none => 0
  else match mapFind e.groups r.ring with
    | none => 0
    | some g => match g.decl.newest u with
      | none => 0
      | some p0 =>
        if p0 < age then 0
        else match g.slab? (p0 - age) with
          | some y => if g.raw y r.elem = g.decl.absent then 0 else g.decl.value (g.raw y r.elem)
          | none => 0

/-! Recurrences -/

/-- The map h → a × h / 2^15 + b (R238). -/
structure Affine where
  a : Int
  b : Int
deriving DecidableEq, Repr, Inhabited

/-- combine(): first, then second, with its saturation event (R238). -/
def Affine.combine (f s : Affine) : Affine × Nat :=
  let b := satE (roundHalfEven (s.a * f.b) 15 + s.b) 32
  (⟨roundHalfEven (s.a * f.a) 15, b.1⟩, b.2)

/-- apply() with its saturation event (R238). -/
def Affine.run (e : Affine) (h : Int) : Int × Nat := satE (roundHalfEven (e.a * h) 15 + e.b) 32

/-- One level of the prefix tree; each position carries its events so far (R238, R560). -/
def treeLevel (d : Nat) (es : List (Affine × Nat)) : List (Affine × Nat) :=
  (List.range es.length).map (fun j =>
    let here := es.getD j (⟨0, 0⟩, 0)
    if j < d then here
    else
      let c := (es.getD (j - d) (⟨0, 0⟩, 0)).1.combine here.1
      (c.1, here.2 + c.2))

/-- recur_block() over the inputs there are: state and events of each position (R238, R560). -/
def recurBlock (a : Nat) (bs : List Int) (carry : Int) : List (Int × Nat) :=
  let es := [1, 2, 4, 8, 16, 32].foldl (fun es d => treeLevel d es) (bs.map (fun b => ((⟨a, b⟩ : Affine), 0)))
  es.map (fun e =>
    let r := e.1.run carry
    (r.1, e.2 + r.2))

/-- A recurrence at its start horizon or start period `n` (R238): earlier positions of the block take the projection of zeros. -/
def Recur.fresh (n : Nat) (init : List Int) (outputs : Nat) : Recur :=
  { next := n, inputs := List.replicate (n % 64) (List.replicate outputs (0, false)), carry := init, values := [] }

/-- Advance a recurrence by the input vector of its next tick or period; answers its events (R238, R560). A state element carries a mark when
an event, or a marked input, stands at its position or before it in the block (R233, R560). -/
def Recur.step (r : Recur) (decay : List Nat) (b : List (Int × Bool)) : Recur × Nat :=
  let inputs := r.inputs ++ [b]
  let cols := decay.zipIdx.map (fun ai =>
    let mine := inputs.map (fun v => v.getD ai.2 (0, false))
    let block := recurBlock ai.1 (mine.map Prod.fst) (r.carry.getD ai.2 0)
    let last := (block.getLast?).getD (0, 0)
    ((last.1, mine.any Prod.snd || block.any (fun x => x.2 != 0)), last.2))
  let h := cols.map Prod.fst
  let full := r.next % 64 = 63
  ({ next := r.next + 1, inputs := if full then [] else inputs, carry := if full then h.map Prod.fst else r.carry
     values := mapSet r.values r.next h }, (cols.map Prod.snd).sum)

/-! Stages -/

/-- What a stage yields at a reference tick; results that saturation reaches carry their SAT marks (R233). -/
inductive StageVal where
  | win (sum mx mn cnt : Int)
  | vec (v : List (Int × Bool))
  | norm (group m : Nat) (o : Int) (sat : Bool)
  | bits (b : Nat) (sat : Bool)
  | nothing
deriving DecidableEq, Repr, Inhabited

/-- A program's evaluation so far at one reference tick: the values of its stages, the recurrences, the saturation events. -/
structure LoessRun where
  vals : List StageVal
  recur : Map Recur
  events : Nat
deriving DecidableEq, Repr, Inhabited

/-- A loess program as it serves one stream ring: the keys of its tick recurrences and of its channel recurrences, and whether the latter
advance with it. A settled program has one tick recurrence for each ring and one channel recurrence in all (R237; log entry 114). -/
structure LoessProg where
  stages : List Stage
  base : Nat
  shared : Nat
  self : Nat
  lead : Bool
deriving DecidableEq, Repr, Inhabited

/-- Key of a stage's recurrence. -/
def LoessProg.key (q : LoessProg) (group : Option Nat) (i : Nat) : Nat := if group.isSome then q.shared + i else q.base + i

/-- The context program of a stream ring. -/
def CtxProg.prog (c : CtxProg) : LoessProg := ⟨c.stages, c.ring * 65536, c.ring * 65536, c.ring, true⟩

/-- A settled program as it serves a stream ring. -/
def settledProg (stages : List Stage) (n ring : Nat) (lead : Bool) : LoessProg :=
  ⟨stages, 2 ^ 24 * (2 * n + 1) + ring * 65536, 2 ^ 24 * (2 * n + 2), ring, lead⟩

/-- The programs of a section whose recurrences an engine carries. -/
def LoessSection.progs (l : LoessSection) : List LoessProg :=
  l.ctx.map CtxProg.prog
    ++ l.settled.zipIdx.flatMap (fun x => l.streams.zipIdx.map (fun d => settledProg x.1 x.2 d.1.ring (d.2 == 0)))

/-- WINDOW results (R234): exact SUM, MAX, MIN, COUNT. -/
def windowVal (vs : List Int) : StageVal :=
  match vs with
  | [] => .win 0 0 0 0
  | v :: rest => .win (vs.foldl (· + ·) 0) (rest.foldl max v) (rest.foldl min v) vs.length

/-- One aggregate of a window result. -/
def StageVal.agg (v : StageVal) (a : Agg) : Int :=
  match v, a with
  | .win s _ _ _, .sum => s
  | .win _ m _ _, .max => m
  | .win _ _ m _, .min => m
  | .win _ _ _ c, .count => c
  | _, _ => 0

/-- One element of a vector result, with its mark. -/
def StageVal.elem (v : StageVal) (i : Nat) : Int × Bool :=
  match v with
  | .vec x => x.getD i (0, false)
  | _ => (0, false)

/-- The value of an earlier stage. -/
def LoessRun.val (r : LoessRun) (i : Nat) : StageVal := r.vals.getD i .nothing

/-- A NORM or VERDICT stage's input, with its mark. -/
def LoessRun.ref (r : LoessRun) (x : StageRef) : Int × Bool :=
  match x with
  | .window i a => ((r.val i).agg a, false)
  | .state i k => (r.val i).elem k
  | .project i k => (r.val i).elem k

/-- A source of ring data as the program of a ring names it. -/
def LoessProg.source (q : LoessProg) (r : RingElem) : RingElem := { r with ring := r.at_ q.self }

/-- A PROJECT stage's input with its mark and its saturation event (R236). -/
def Engine.stageIn (e : Engine) (q : LoessProg) (run : LoessRun) (u : Nat) (i : StageIn) : (Int × Bool) × Nat :=
  let scaled := fun (v : Int × Bool) (m sh : Nat) =>
    let y := scaleTo v.1 m sh 16
    ((y.1, v.2 || decide (y.2 ≠ 0)), y.2)
  match i with
  | .entry r age => ((e.ringValue (q.source r) u age, false), 0)
  | .window st a m sh => scaled ((run.val st).agg a, false) m sh
  | .state st k m sh => scaled ((run.val st).elem k) m sh
  | .project st k => ((run.val st).elem k, 0)

/-- project() with the saturation event of each output (R236). -/
def project (x : List Int) (w : List (List Int)) (sw : List (Nat × Nat)) (bits : Nat) : List (Int × Nat) :=
  w.zipIdx.map (fun wi =>
    let s := sw.getD wi.2 (0, 0)
    scaleTo (treeSumOf (List.zipWith (· * ·) x wi.1)) s.1 s.2 bits)

/-- norm(): mantissa, offset, and its saturation event (R239). -/
def normStage (level spread : Int) (lsh : Nat) (table : List Nat) : (Nat × Int) × Nat :=
  let o := satE (roundHalfEven level lsh) 16
  let v := (max spread 1).toNat
  let pos := Nat.log2 v
  let frac := (if 5 ≤ pos then v / 2 ^ (pos - 5) else v * 2 ^ (5 - pos)) % 32
  ((table.getD (pos * 32 + frac) 0, o.1), o.2)

/-- settle() (R240). -/
def settleBits (s t p : List Int) : Nat :=
  let accept := if s.getD 0 0 ≥ t.getD 0 0 then 1 else 0
  let cls := (List.range 7).foldl (fun v i => if s.getD (i + 1) 0 ≥ t.getD (i + 1) 0 then v + 2 ^ (i + 1) else v) 0
  let prio := ((List.range 7).filter (fun i => decide (s.getD 0 0 ≥ p.getD i 0))).length
  accept + cls + prio * 256

/-- The index a recurrence is read at: the tick itself, or the newest readable period of its group. -/
def Engine.recurIndex (e : Engine) (group : Option Nat) (u : Nat) : Option Nat :=
  match group with
  | none => some u
  | some g => (mapFind e.groups g).bind (fun c => c.decl.newest u)

/-- The index at which a recurrence starts that has its start horizon at `start`: that tick, or the first period at or after it. -/
def Engine.recurStart (e : Engine) (start : Nat) (group : Option Nat) : Nat :=
  match group with
  | none => start
  | some g => match mapFind e.groups g with
    | some c => (start + c.decl.slowTicks - 1) / max c.decl.slowTicks 1
    | none => 0

/-- A recurrence takes an input at tick `u`: every tick, or the tick at which a period's slab becomes readable (R200, R234, R238). -/
def Engine.recurDue (e : Engine) (start u : Nat) (group : Option Nat) : Bool :=
  match group with
  | none => decide (start ≤ u)
  | some g => match mapFind e.groups g with
    | some c => match c.decl.newest u with
      | some n => c.decl.readableAt n == u && decide (e.recurStart start group ≤ n)
      | none => false
    | none => false

/-- The stages of a program whose recurrences take an input at tick `u`. -/
def Engine.dueStages (e : Engine) (start u : Nat) (q : LoessProg) : List Nat :=
  q.stages.zipIdx.filterMap (fun si => match si.1 with
    | .recur _ _ _ group => if (group.isNone || q.lead) && e.recurDue start u group then some si.2 else none
    | _ => none)

/-- The stage that an input names. -/
def StageIn.stage? : StageIn → Option Nat
  | .entry _ _ => none
  | .window i _ _ _ | .state i _ _ _ | .project i _ => some i

/-- The stage that a value is read from. -/
def StageRef.stage : StageRef → Nat
  | .window i _ | .state i _ | .project i _ => i

/-- The stages that a stage reads; a recurrence takes its projection only where it advances. -/
def Stage.reads (st : Stage) (advances : Bool) : List Nat :=
  match st with
  | .project ins _ _ _ _ => ins.filterMap StageIn.stage?
  | .recur p _ _ _ => if advances then [p] else []
  | .norm l sp _ _ _ => [l.stage, sp.stage]
  | .verdict sc _ _ => sc.map StageRef.stage
  | _ => []

/-- The stages that some stages rest on, with themselves: the recurrences in `due` advance, the others are read. -/
def stagesFor (stages : List Stage) (due roots : List Nat) : List Nat :=
  stages.zipIdx.foldr (fun si need => if need.contains si.2 then si.1.reads (due.contains si.2) ++ need else need) roots

/-- The stages that yield a program's outputs (R231, R241). -/
def outputStages (stages : List Stage) : List Nat :=
  stages.zipIdx.filterMap (fun si => match si.1 with
    | .project _ _ _ _ (some _) | .norm _ _ _ _ _ | .verdict _ _ _ => some si.2
    | _ => none)

/-- The output width of a PROJECT stage. -/
def projectWidth (stages : List Stage) (i : Nat) : Nat :=
  match stages.getD i (.other 0) with
  | .project _ w _ _ _ => w.length
  | _ => 0

/-- Evaluate a RECUR stage at reference tick `u`: one that is due advances; else its stored state is read, the initial state before the first
index (R238, R560). -/
def Engine.evalRecur (e : Engine) (start : Nat) (q : LoessProg) (u : Nat) (due : Bool) (run : LoessRun) (i proj : Nat) (decay : List Nat)
    (init : List Int) (group : Option Nat) : LoessRun :=
  let key := q.key group i
  let r := (mapFind run.recur key).getD (Recur.fresh (e.recurStart start group) init (projectWidth q.stages proj))
  let st := if due then r.step decay (match run.val proj with | .vec v => v | _ => []) else (r, 0)
  let v := ((e.recurIndex group u).bind (fun n => mapFind st.1.values n)).getD (init.map (fun x => (x, false)))
  { vals := run.vals ++ [.vec v], recur := if due then mapSet run.recur key st.1 else run.recur, events := run.events + st.2 }

/-- Evaluate one stage at reference tick `u` (R232 to R240): only a stage in `need` is evaluated, and only the events of one in `fresh`
count. -/
def Engine.evalStage (e : Engine) (start : Nat) (q : LoessProg) (u : Nat) (due need fresh : List Nat) (run : LoessRun) (si : Stage × Nat) :
    LoessRun :=
  let push := fun (v : StageVal) (ev : Nat) =>
    { run with vals := run.vals ++ [v], events := run.events + (if fresh.contains si.2 then ev else 0) }
  if !need.contains si.2 then push .nothing 0
  else match si.1 with
  | .window r lo hi => push (windowVal (e.windowValues (q.source r) u lo hi)) 0
  | .project ins w sw bits _ =>
    let x := ins.map (e.stageIn q run u)
    let y := project (x.map (fun v => v.1.1)) w sw bits
    let marked := x.any (fun v => v.1.2)
    push (.vec (y.map (fun v => (v.1, marked || decide (v.2 ≠ 0))))) ((x.map Prod.snd).sum + (y.map Prod.snd).sum)
  | .recur p decay init group => e.evalRecur start q u (due.contains si.2) run si.2 p decay init group
  | .norm l sp lsh table g =>
    let n := normStage (run.ref l).1 (run.ref sp).1 lsh table
    push (.norm g n.1.1 n.1.2 ((run.ref l).2 || (run.ref sp).2 || decide (n.2 ≠ 0))) n.2
  | .verdict sc t p =>
    push (.bits (settleBits (sc.map (fun x => (run.ref x).1)) t p) (sc.any (fun x => (run.ref x).2))) 0
  | .other _ => push .nothing 0

/-- The recurrences of a program take their inputs of tick `u`; every event counts (R233, R238, R560). -/
def Engine.stepProg (e : Engine) (start u : Nat) (m : Map Recur × Nat) (q : LoessProg) : Map Recur × Nat :=
  let due := e.dueStages start u q
  if due.isEmpty then m
  else
    let need := stagesFor q.stages due due
    let run := q.stages.zipIdx.foldl (e.evalStage start q u due need need) ⟨[], m.1, 0⟩
    (run.recur, m.2 + run.events)

/-- The recurrences take the inputs of `n` ticks from tick `u` on. -/
def Engine.stepTicks (e : Engine) (ps : List LoessProg) (start : Nat) : Nat → Nat → Map Recur × Nat → Map Recur × Nat
  | 0, _, m => m
  | n + 1, u, m => e.stepTicks ps start n (u + 1) (ps.foldl (e.stepProg start u) m)

/-- A stage is a recurrence. -/
def Stage.isRecur : Stage → Bool
  | .recur _ _ _ _ => true
  | _ => false

/-- The recurrences of a section advance through tick `u`: one vector of inputs for each tick that they have not taken yet. The unit forms each
state once, however many packages and answers read it (R237, R238, R560). -/
def Engine.advance (e : Engine) (l : LoessSection) (r : Recurs) (u : Nat) : Recurs × Nat :=
  let ps := l.progs.filter (fun q => q.stages.any Stage.isRecur)
  if u < r.next then (r, 0)
  else if ps.isEmpty then ({ r with next := u + 1 }, 0)
  else
    let m := e.stepTicks ps r.start (u + 1 - r.next) r.next (r.map, 0)
    ({ r with next := u + 1, map := m.1 }, m.2)

/-- Evaluate a program's outputs at its reference tick, its recurrences read as they stand. Events count of the stages that no recurrence has
taken at that tick (R233, R242). -/
def Engine.evalProg (e : Engine) (r : Recurs) (q : LoessProg) (u : Nat) : LoessRun :=
  let due := e.dueStages r.start u q
  let need := stagesFor q.stages [] (outputStages q.stages)
  let taken := stagesFor q.stages due due
  q.stages.zipIdx.foldl (e.evalStage r.start q u [] need (need.filter (fun i => !taken.contains i))) ⟨[], r.map, 0⟩

/-- A saturation event contributed to a program's outputs: one of them carries a mark (R233). -/
def LoessRun.mark (run : LoessRun) (stages : List Stage) : Bool :=
  (outputStages stages).any (fun i => match run.val i with
    | .vec v => v.any Prod.snd
    | .norm _ _ _ sat | .bits _ sat => sat
    | _ => false)

/-- Place read-out bytes into the 64 context bytes (R241). -/
def placeBytes (bs : List Byte) (at_ : Nat) (v : List Int) : List Byte :=
  v.zipIdx.foldl (fun b x => b.set (at_ + x.2) (BitVec.ofInt 8 x.1)) bs

/-- Bytes 0 to 63 of a package: the outputs of the read-out stages (R241). -/
def contextBytes (stages : List Stage) (run : LoessRun) : List Byte :=
  stages.zipIdx.foldl (fun b si => match si.1 with
    | .project _ _ _ _ (some place) => (match run.val si.2 with
      | .vec v => placeBytes b place (v.map Prod.fst)
      | _ => b)
    | _ => b) (zeroBytes 64)

/-- Bytes 64 to 127 of a package: the entries the NORM stages produce, the seed table's entry for every other group (R241). -/
def tableBytes (run : LoessRun) (seed : List Byte) : List Byte :=
  run.vals.foldl (fun b v => match v with
    | .norm g m o _ => if g < 16 then b.take (4 * g) ++ leBytes 2 m ++ leBytes 2 (toBits 16 o) ++ b.drop (4 * g + 4) else b
    | _ => b) (slice seed 64 64)

/-- The bits that a settled program's VERDICT stage yields (R256). -/
def LoessRun.verdict (r : LoessRun) : Nat :=
  r.vals.foldl (fun b v => match v with | .bits x _ => x | _ => b) 0

/-- An int32 value that a lane writes or adds. -/
def LoessRun.laneValues (run : LoessRun) (vals : List StageRef) : List Word :=
  (List.range 16).map (fun i => match vals[i]? with
    | some x => BitVec.ofInt 32 (run.ref x).1
    | none => 0)

/-- The access of a lane, with the values that its work item has computed (R216, R220). -/
def LaneOp.access (op : LaneOp) (run : LoessRun) : SiltAccess :=
  match op with
  | .read => .read
  | .write vals => .write (run.laneValues vals)
  | .add mask vals => .add mask (run.laneValues vals)
  | .swap mask vals => .swap mask (run.laneValues vals)

/-! Engines -/

/-- The engine that serves a physical bed: its die's. -/
def engOf (b : Nat) : Fin 2 := if b < 2 then 0 else 1

/-- The die whose engine serves a layout bed of the phase in force: of a mirror pair the east one leads (R254, R120). -/
def State.engines (s : State) (lb : Nat) : List (Fin 2) := (s.bedsOf lb).map engOf

/-- The ring key of a layout bed and slot. -/
def ringKey (lb slot : Nat) : Nat := lb * 64 + slot

/-- The layout ring that a die's ring number (physical bed AND 1) × 64 + slot stands for (R193). -/
def State.layoutRing (s : State) (e : Fin 2) (n : Nat) : Option Nat :=
  (s.placed.zipIdx.find? (fun p =>
    let on := fun (b : Nat) => decide (engOf b = e ∧ b % 2 = n / 64)
    on p.1.1 || p.1.2.any on)).map (fun p => ringKey p.2 (n % 64))

/-- The ring number that a die gives a layout ring of its beds (R193): the inverse of `layoutRing`. -/
def State.ringNumber (s : State) (e : Fin 2) (key : Nat) : Nat :=
  let on := (s.bedsOf (key / 64)).find? (fun b => decide (engOf b = e))
  (on.getD 0) % 2 * 64 + key % 64

/-- How a record or a bulk object names a ring of a die: bit 15 marks a stream ring, then its number, or the group (Table 16.5; log entry
115). -/
def State.ringWord (s : State) (e : Fin 2) (stream : Bool) (key : Nat) : Nat := if stream then 2 ^ 15 + s.ringNumber e key else key

/-- The LOESS section in force on a die. -/
def State.loess? (s : State) (e : Nat) : Option LoessSection := s.phase?.map (fun p => p.loess e)

/-- Warming end horizon s + W of an engine. -/
def Engine.warmEnd (g : Engine) : Nat := (match g.start with | some h => h.toNat | none => 0) + g.warmW

/-- The start horizon and W that govern tick `t`: those before a change horizon for the ticks before it (R496). -/
def Engine.startFor (g : Engine) (t : U64) : Option U64 × Nat :=
  match g.prior with
  | some (h, s, w) => if t.toNat < h.toNat then (s, w) else (g.start, g.warmW)
  | none => (g.start, g.warmW)

/-- Tick `t` lies in the warming of an engine (R247, R248). -/
def Engine.warmAt (g : Engine) (t : U64) : Bool :=
  match g.startFor t with
  | (some h, w) => decide (h.toNat ≤ t.toNat ∧ t.toNat < h.toNat + w)
  | (none, _) => false

/-- An engine produces packages for tick `t`: it has started and its warming is over. -/
def Engine.activeAt (g : Engine) (t : U64) : Bool :=
  match g.startFor t with
  | (some h, w) => decide (h.toNat + w ≤ t.toNat)
  | (none, _) => false

/-- Between a reset and the restart horizon an engine produces no package (R250). -/
def Engine.resettingAt (g : Engine) (t : U64) : Bool :=
  match (g.startFor t).1 with
  | some h => decide (t.toNat < h.toNat)
  | none => true

/-- Set the state field of an engine; a degraded engine keeps its mark (Table 7.11). -/
def State.showEngine (s : State) (e : Nat) (v : Nat) : State :=
  if bitsOf (s.reg FLT_DEGRADED).toNat (6 + e) 1 = 1 then s.setFld (LSS_STAT_STATE.on (lssOff e)) 3
  else s.setFld (LSS_STAT_STATE.on (lssOff e)) v

/-- A bump of LSS_SAT_CNT by the events of an evaluation (R233). -/
def State.countSat (s : State) (e : Nat) (n : Nat) : State :=
  if n = 0 then s else (s.bumpBy (LSS_SAT_CNT + lssOff e) n).setFlag (LSS_STAT_SAT.on (lssOff e)) true

/-- The recurrences that work of tick `t` reads: those of the program before a change horizon for the ticks before it (R496, R501). -/
def Engine.recursAt (g : Engine) (t : U64) : Recurs :=
  match g.prior with
  | some (h, _, _) => if t.toNat < h.toNat then g.former else g.recur
  | none => g.recur

/-- Replace the recurrences that work of tick `t` reads. -/
def Engine.setRecurs (g : Engine) (t : U64) (r : Recurs) : Engine :=
  match g.prior with
  | some (h, _, _) => if t.toNat < h.toNat then { g with former := r } else { g with recur := r }
  | none => { g with recur := r }

/-- The recurrences of tick `t`'s program advance through tick `u`; their saturation events count (R233, R238, R560). -/
def State.advanceRecurs (s : State) (e : Fin 2) (l : LoessSection) (t : U64) (u : Nat) : State :=
  let g : Engine := s.eng[e]
  let r := g.advance l (g.recursAt t) u
  (s.setEng e (g.setRecurs t r.1)).countSat e r.2

/-- The last tick of which the stream rings hold every entry while tick `t`'s are being written: the entries of a tick span less than two
ticks (R59), and every frame up to it has had its entry written. -/
def State.entriesThrough (s : State) (t : Nat) : Nat :=
  s.fast.frames.foldl (fun m (f : Frame) => if f.ringDone then m else min m (f.hzn.toNat - 1)) (t - 2)

/-- Set the start horizon of every ring of an engine (R202). -/
def Engine.startAt (g : Engine) (h : U64) : Engine :=
  { g with
    start := some h
    prior := none
    streams := g.streams.map (fun r => (r.1, { r.2 with start := h }))
    groups := g.groups.map (fun r => (r.1, { r.2 with start := h }))
    recur := ⟨h.toNat, h.toNat, []⟩
    pkgs := []
    warming := false
    warmed := false }

/-- The restart horizon: the first horizon boundary at least 2,048 ticks from now (R247). -/
def State.restartHorizon (s : State) : U64 := BitVec.ofNat 64 ((s.count.toNat + 2048 + 1023) / 1024 * 1024)

/-- A start horizon is set. One that was announced before and not yet reached gives way, unless the other engine keeps it. -/
def State.addStart (s : State) (e : Fin 2) (h : U64) : State :=
  let other : Engine := s.eng[e + 1]
  let starts := match s.eng[e].start with
    | some old => if s.count.toNat < old.toNat ∧ other.start ≠ some old then s.fast.starts.filter (fun x => x != old) else s.fast.starts
    | none => s.fast.starts
  { s with fast := { s.fast with starts := if starts.contains h then starts else h :: starts } }

/-- EPOCH of a frame: start horizons since the cold Waking, the launch counted as 0, modulo 65,536 (Table 10.4). -/
def State.epochOf (s : State) (h : U64) : Nat :=
  ((s.fast.starts.filter (fun x => decide (x.toNat ≤ h.toNat))).length - 1) % 65536

/-- Announce the restart horizon of an engine that resumes: its rings start there, its history is gone (R202, R247, Table 6.8). -/
def State.announceRestart (s : State) (e : Fin 2) : State :=
  let h := s.restartHorizon
  let s := s.addStart e h
  let g : Engine := s.eng[e].startAt h
  let s := s.setEng e { g with running := true, warmW := (s.reg (LSS_WARM + lssOff e)).toNat }
  let s := s.showEngine e 4
  s.writeEventAt 0x0401 h 0 [e]

/-- Loose mode is in force for tick `t` (R261): a change begins with its boundary's tick. -/
def State.looseAt (s : State) (t : U64) : Bool :=
  match s.mod.modes.find? (fun m => decide (m.1.toNat ≤ t.toNat)) with
  | some m => m.2
  | none => match s.mod.modes.getLast? with
    | some m => !m.2
    | none => s.mod.loose

/-- The first tick whose ready time, A − 16 fc after it, has not passed `ps` after the present tick (R244). -/
def State.usableFrom (s : State) (p : Phase) (ps : Nat) : Nat :=
  let ready : Int := ((p.a : Int) - 16) * 800
  ((s.count.toNat : Int) - (ready - ps) / (max s.tickPs 1 : Nat)).toNat

/-- Queries in flight that count against the 1,024 (R254): those of the last SET_TICKS − 1 ticks before `t`. -/
def Engine.inflight (g : Engine) (t setTicks : Nat) : Nat :=
  (g.queries.filter (fun q => !q.shed && decide (t < q.hzn.toNat + setTicks ∧ q.hzn.toNat < t))).length

/-- The layout bed and slot of a frame as one number in an event: slot [5:0], layout bed [7:6] (Table 11.5). -/
def bedSlot (lb slot : Nat) : Nat := lb * 64 + slot

end Sys2Proof.Machine
end

