-- ==== Sys2Proof/Machine/ImageRead.lean ====
section
/-!
DEFINITION. Reading an ibpor image: header (Table 8.1), section table (Table 8.2), and the sections whose layout the spec gives
(PROGRAM, PHASE, VARIANT header, LEDGER, SEEDS, RESHARD, CASCADE). What the spec leaves to the tool chain in the other sections is
read by free decoders of Config (log entry 13).
-/
namespace Sys2Proof.Machine

/-- An entry of the section table (Table 8.2). -/
structure SecEntry where
  typ : Nat
  sversion : Nat
  phase : Nat
  bed : Nat
  variant : Nat
  off : Nat
  len : Nat
  digest : List Byte
deriving DecidableEq, Repr, Inhabited

/-- The header fields the loader reads (Table 8.1). -/
structure ImgHeader where
  magic : List Byte
  major : Nat
  minor : Nat
  headerLen : Nat
  imageLen : Nat
  tableOff : Nat
  count : Nat
  cascade : Bool
  sigOff : Nat
deriving DecidableEq, Repr, Inhabited

/-- Read the header (Table 8.1). -/
def readHeader (img : List Byte) : ImgHeader :=
  { magic := slice img 0 8, major := leAt img 8 2, minor := leAt img 10 2, headerLen := leAt img 12 4
    imageLen := leAt img 16 8, tableOff := leAt img 24 8, count := leAt img 32 4, cascade := leAt img 36 4 % 2 = 1
    sigOff := leAt img 48 8 }

/-- Read entry `i` of the section table (Table 8.2). -/
def readEntry (img : List Byte) (h : ImgHeader) (i : Nat) : SecEntry :=
  let b := slice img (h.tableOff + 96 * i) 96
  { typ := leAt b 0 2, sversion := leAt b 2 2, phase := leAt b 4 1, bed := leAt b 5 1, variant := leAt b 6 1
    off := leAt b 8 8, len := leAt b 16 8, digest := slice b 32 64 }

/-- The section table with the index of each entry; at most 4,096 entries are read. -/
def readTable (img : List Byte) (h : ImgHeader) : List (Nat × SecEntry) :=
  (List.range (min h.count 4096)).map (fun i => (i, readEntry img h i))

/-- The bytes of a section. -/
def secBytes (img : List Byte) (e : SecEntry) : List Byte := slice img e.off e.len

/-- The 1,280 bytes of the signature block (Table 8.4). -/
def sigBlock (img : List Byte) (h : ImgHeader) : List Byte := slice img h.sigOff 1280

/-- The first section of a type, phase, layout bed or die and variant that `ok` admits. -/
def findSec (t : List (Nat × SecEntry)) (typ phase : Nat) (ok : SecEntry → Bool) : Option (Nat × SecEntry) :=
  t.find? (fun e => e.2.typ == typ && e.2.phase == phase && ok e.2)

/-- Every section of a type and phase. -/
def secsOf (t : List (Nat × SecEntry)) (typ phase : Nat) : List (Nat × SecEntry) :=
  t.filter (fun e => e.2.typ == typ && e.2.phase == phase)

/-- A query kind (Table 8.5, lower part). -/
def readKind (b : List Byte) : QueryKind :=
  { mask := leAt b 0 2 % 2048, value := leAt b 2 2 % 2048, f := leAt b 4 2, dflt := leAt b 6 2 % 2048, cost := leAt b 8 4
    setWcet := leAt b 12 4, program := leAt b 16 1 }

/-- A PHASE section (Table 8.5). -/
def readPhase (b : List Byte) : Phase :=
  { id := leAt b 0 1, log2II := leAt b 1 1, layoutBeds := leAt b 2 1, mirrored := leAt b 3 1 = 1, warmPolicy := leAt b 4 1
    a := leAt b 6 2, earlyTol := leAt b 8 1, cap3 := leAt b 9 1 % 16, cap4 := leAt b 9 1 / 16, cap5 := leAt b 10 1
    bedmap := leAt b 11 1 % 16, q := leAt b 12 2, powerBase := leAt b 14 2, s := leAt b 16 4, d := leAt b 20 4
    w := leAt b 24 4, rate := leAt b 28 4, bucketMax := leAt b 32 4, looseBacklog := leAt b 36 4, histEast := leAt b 40 4
    histWest := leAt b 44 4, ctxWcet := leAt b 48 4
    kinds := (List.range (min (leAt b 5 1) 8)).map (fun i => readKind (slice b (64 + 32 * i) 32)) }

/-- A PHASE section within the ranges of Table 8.5 (code 0x0B). -/
def phaseInRange (b : List Byte) (e : SecEntry) : Bool :=
  let p := readPhase b
  decide (p.id ≤ 15) && p.id == e.phase && decide (p.log2II ≤ 6) && decide (1 ≤ p.layoutBeds ∧ p.layoutBeds ≤ 4)
    && decide (leAt b 3 1 ≤ 1) && (!p.mirrored || (decide (p.layoutBeds ≤ 2) && p.bedmap == 0)) && decide (p.warmPolicy ≤ 1)
    && decide (leAt b 5 1 ≤ 8) && decide (32 ≤ p.a) && decide (p.earlyTol ≤ 15) && decide (p.cap3 ≤ 8) && decide (p.cap4 ≤ 8)
    && decide (p.cap5 = 1 ∨ p.cap5 = 2) && decide (p.s = 0 ∨ (2500 ≤ p.s ∧ p.s ≤ 1250000))
    && decide (1 ≤ p.d ∧ p.d ≤ 1048575)

/-- PHASE_ID, LAYOUT_BED and U of a VARIANT header within Table 8.6 (code 0x0B). -/
def variantInRange (b : List Byte) (e : SecEntry) : Bool :=
  leAt b 0 1 == e.phase && leAt b 1 1 == e.bed && decide (62 ≤ leAt b 2 1 ∧ leAt b 2 1 ≤ 64)

/-- The grain records of some grains, one after another from an offset on: the 16,384-byte bank image, then the rest (R279). -/
def readGrains (b : List Byte) : List Nat → Nat → List (Nat × List Byte × GrainRecord)
  | [], _ => []
  | g :: rest, off =>
    let r := Config.grainRecord g (b.drop (off + 16384))
    (g, slice b off 16384, r) :: readGrains b rest (off + 16384 + r.size)

/-- The grains that a variant of U columns has records for, in order of row and then of logical column (R279). -/
def grainOrder (u : Nat) : List Nat := (List.range 32).flatMap (fun row => (List.range u).map (fun col => row * 64 + col))

/-- Put a schedule entry behind those that start no later. -/
def insertStep (x : Nat × BedStep) : List (Nat × BedStep) → List (Nat × BedStep)
  | [] => [x]
  | y :: rest => if x.1 < y.1 then x :: y :: rest else y :: insertStep x rest

/-- What a VARIANT section of U columns holds: the grain records at GRAIN_OFFSET, the tables at TABLES_OFFSET (R279, Table 8.6). A bed's
schedule runs in the order of its fc. -/
def readNetwork (b : List Byte) (u : Nat) : Network :=
  let gs := readGrains b (grainOrder u) (leAt b 8 8)
  let t := Config.bedTables (b.drop (leAt b 16 8))
  let steps := gs.flatMap (fun x => x.2.2.steps.map (fun s => (s.1, BedStep.grain { s.2 with grain := x.1 })))
    ++ (t.steering.take 32).map (fun s => (s.1, BedStep.steer s.2))
  { banks := gs.flatMap (fun x => (x.2.1.zipIdx.filter (fun y => y.1 != 0)).map (fun y => (x.1 * 16384 + y.2, y.1)))
    regions := gs.flatMap (fun x => x.2.2.regions.map (fun r => { r with grain := x.1 }))
    tables := gs.flatMap (fun x => x.2.2.tables.map (fun r => { r with grain := x.1 }))
    routes := gs.flatMap (fun x => x.2.2.routes.map (fun r => { r with grain := x.1 }))
    selects := gs.flatMap (fun x => x.2.2.selects.map (fun r => { r with grain := x.1 }))
    steps := (steps.foldl (fun l x => insertStep x l) []).map Prod.snd
    exit := t.exit
    spans := t.spans }

/-- A VARIANT section (Table 8.6). -/
def readVariant (b : List Byte) : Variant :=
  { phase := leAt b 0 1, layoutBed := leAt b 1 1, u := leAt b 2 1, bedLat := leAt b 4 2, powerFabric := leAt b 6 2
    net := readNetwork b (leAt b 2 1) }

/-- A segment of a LEDGER section (Table 8.7). -/
structure LedgerSeg where
  counts : List Nat
  firstTap : Nat
  tapCount : Nat
deriving DecidableEq, Repr, Inhabited

/-- A ledger tap (Table 8.7). -/
structure LedgerTap where
  row : Nat
  col : Nat
  port : Nat
  slot : Nat
  tap : Nat
deriving DecidableEq, Repr, Inhabited

/-- A LEDGER section (Table 8.7). -/
structure Ledger where
  assumed : List Nat
  segs : List LedgerSeg
  taps : List LedgerTap
deriving DecidableEq, Repr, Inhabited

/-- The 12 signature fields of three BED_TSIG words, BED_TSIG0 [31:24] first (Table 8.7). -/
def sigFields (ws : List Nat) : List Nat := ws.flatMap (fun w => [bitsOf w 24 8, bitsOf w 16 8, bitsOf w 8 8, bitsOf w 0 8])

/-- Read a LEDGER section (Table 8.7). -/
def readLedger (b : List Byte) : Ledger :=
  let ns := leAt b 12 4
  { assumed := sigFields [leAt b 0 4, leAt b 4 4, leAt b 8 4]
    segs := (List.range ns).map (fun i =>
      let q := slice b (64 + 32 * i) 32
      { counts := (List.range 12).map (fun k => leAt q (4 + k) 1), firstTap := leAt q 16 4, tapCount := leAt q 20 2 })
    taps := (List.range (leAt b 16 4)).map (fun i =>
      let q := slice b (64 + 32 * ns + 8 * i) 8
      { row := leAt q 0 1, col := leAt q 1 1, port := leAt q 2 1, slot := leAt q 3 1, tap := leAt q 4 1 }) }

/-- A SEEDS section: rounding, tally and marl key, 16 bytes each (Table 8.3). -/
def readKeys (b : List Byte) : Keys := { rounding := leAt b 0 16, tally := leAt b 16 16, marl := leAt b 32 16 }

/-- A RESHARD section: from, to, entries (Table 8.9). -/
def readReshard (b : List Byte) : Nat × Nat × List ReshardEntry :=
  (leAt b 0 1, leAt b 1 1, (List.range (min (leAt b 4 4) 256)).map (fun i =>
    let q := slice b (8 + 8 * i) 8
    { fromBed := leAt q 0 1, fromSlot := leAt q 1 1, toBed := leAt q 2 1, toSlot := leAt q 3 1, action := leAt q 4 1 }))

/-- A CASCADE section (Table 15.1). -/
def readCascade (b : List Byte) : Cascade :=
  { xdim := leAt b 0 1, ydim := leAt b 1 1, lead := leAt b 2 1, deputy := leAt b 3 1, rate := leAt b 4 1, cableMax := leAt b 5 1
    positions := (List.range 64).map (fun i => (leAt b (64 + 16 * i) 8, leAt b (64 + 16 * i + 8) 1))
    spans := (List.range (leAt b 6 2)).map (fun i =>
      let q := slice b (1088 + 16 * i) 16
      { kind := leAt q 0 1, src := leAt q 1 1, srcPart := leAt q 2 1, dest := leAt q 3 1, destPart := leAt q 4 1
        slotIdx := leAt q 5 1, altIdx := leAt q 6 1, budget := leAt q 8 2, altBudget := leAt q 10 2 }) }

/-- The SEEDS section of a phase for a cascade position: its own before the one for any position (R288). -/
def findSeeds (t : List (Nat × SecEntry)) (phase position : Nat) : Option (Nat × SecEntry) :=
  match findSec t 7 phase (fun e => e.variant == position) with
  | some e => some e
  | none => findSec t 7 phase (fun e => e.variant == 0xFF)

/-- One phase with its sections read. -/
def readPhaseProg (img : List Byte) (t : List (Nat × SecEntry)) (position n : Nat) : PhaseProg :=
  let bytes := fun (o : Option (Nat × SecEntry)) => match o with | some e => secBytes img e.2 | none => []
  { ph := readPhase (bytes (findSec t 2 n (fun _ => true)))
    entry := Config.entrySection (bytes (findSec t 5 n (fun _ => true)))
    decision := Config.decisionSection (bytes (findSec t 6 n (fun _ => true)))
    keys := readKeys (bytes (findSeeds t n position))
    ctx := Config.contextSection (bytes (findSec t 8 n (fun _ => true)))
    variants := (secsOf t 3 n).map (fun e => readVariant (secBytes img e.2))
    east := Config.loessSection (bytes (findSec t 9 n (fun e => e.bed == 0)))
    west := Config.loessSection (bytes (findSec t 9 n (fun e => e.bed == 1))) }

/-- The PROGRAM section's entry and bytes. -/
def programSec (img : List Byte) (t : List (Nat × SecEntry)) : Nat × List Byte :=
  match t.find? (fun e => e.2.typ == 1) with
  | some e => (e.1, secBytes img e.2)
  | none => (0xFFFF, [])

/-- The whole image, read for a cascade position. -/
def readProgram (img : List Byte) (position : Nat) : Program :=
  let h := readHeader img
  let t := readTable img h
  let b := (programSec img t).2
  { tickPs := leAt b 0 4, firstPhase := leAt b 5 1, modules := leAt b 6 1
    phases := (List.range (leAt b 4 1)).map (readPhaseProg img t position)
    cascade := (t.find? (fun e => e.2.typ == 0xB)).map (fun e => readCascade (secBytes img e.2))
    reshard := (t.filter (fun e => e.2.typ == 0xA)).map (fun e => readReshard (secBytes img e.2)) }

end Sys2Proof.Machine
end

