-- ==== Sys2Proof/Machine/RingOps.lean ====
section
/-!
DEFINITION. Shared operations of the cascade: positions and roles (R435), routes (R441, R451), latency bound (R444, Table 15.4), the
checks of refusal code 0x43; messages of the elastic class (R440).
-/
namespace Sys2Proof.Machine

/-- Steps of one dimension: `n` links through the positive or the negative port (R441). -/
def dimSteps (size src dest : Nat) : Nat × Bool :=
  let d := (dest + size - src % size) % size
  if d ≤ size / 2 then (d, true) else (size - d, false)

/-- The other way round a ring (R451). -/
def dimOther (size : Nat) (d : Nat × Bool) : Nat × Bool := if d.1 = 0 then d else (size - d.1, !d.2)

/-- The links of a walk of `n` steps in one dimension from (x, y): position left and port taken (R434). -/
def walkX (xdim : Nat) (plus : Bool) : Nat → Nat → Nat → List (Nat × Nat) × Nat
  | 0, x, _ => ([], x)
  | n + 1, x, y =>
    let here := (y * xdim + x, if plus then 0 else 1)
    let x' := if plus then (x + 1) % xdim else (x + xdim - 1) % xdim
    let r := walkX xdim plus n x' y
    (here :: r.1, r.2)

/-- The same in the Y dimension. -/
def walkY (xdim ydim : Nat) (plus : Bool) : Nat → Nat → Nat → List (Nat × Nat) × Nat
  | 0, _, y => ([], y)
  | n + 1, x, y =>
    let here := (y * xdim + x, if plus then 2 else 3)
    let y' := if plus then (y + 1) % ydim else (y + ydim - 1) % ydim
    let r := walkY xdim ydim plus n x y'
    (here :: r.1, r.2)

/-- The primary route, X before Y: the links crossed, each as position left and port (R441). -/
def routeOf (c : Cascade) (src dest : Nat) : List (Nat × Nat) :=
  let xd := max c.xdim 1
  let yd := max c.ydim 1
  let dx := dimSteps xd (src % xd) (dest % xd)
  let dy := dimSteps yd (src / xd) (dest / xd)
  let a := walkX xd dx.2 dx.1 (src % xd) (src / xd)
  let b := walkY xd yd dy.2 dy.1 a.2 (src / xd)
  a.1 ++ b.1

/-- The alternate route: the other direction of a ring, Y before X in a torus (R451). -/
def altRouteOf (c : Cascade) (src dest : Nat) : List (Nat × Nat) :=
  let xd := max c.xdim 1
  let yd := max c.ydim 1
  if yd = 1 then
    let dx := dimOther xd (dimSteps xd src dest)
    (walkX xd dx.2 dx.1 src 0).1
  else
    let dx := dimSteps xd (src % xd) (dest % xd)
    let dy := dimSteps yd (src / xd) (dest / xd)
    let b := walkY xd yd dy.2 dy.1 (src % xd) (src / xd)
    b.1 ++ (walkX xd dx.2 dx.1 (src % xd) b.2).1

/-- The bound of Table 15.4 for a route. A transit module forwards within one dimension; it is an anchor at x = 0 or y = 0 (R442). -/
def routeBound (c : Cascade) (links : List (Nat × Nat)) : Nat :=
  let xd := max c.xdim 1
  let d := links.length
  let ports := links.map Prod.snd
  let pairs := ports.zip (links.drop 1)
  let turns := (pairs.filter (fun p => decide (p.1 / 2 ≠ p.2.2 / 2))).length
  let anchors := (pairs.filter (fun p => decide (p.1 / 2 = p.2.2 / 2) &&
    (if p.1 < 2 then decide (p.2.1 % xd = 0) else decide (p.2.1 / xd = 0)))).length
  212 + d * c.cableMax + 30 * (d - 1) + 12 * turns + 81 * anchors

/-- The slots a span occupies: slot index and links. A merge part's alternate index carries the deputy's copy (R452). -/
def spanUse (c : Cascade) (sp : CascSpan) : List (Nat × List (Nat × Nat)) :=
  (sp.slotIdx, routeOf c sp.src sp.dest) ::
    (if sp.altIdx = 0xFF then []
     else if sp.kind = 0 then [(sp.altIdx, routeOf c sp.src c.deputy)]
     else [(sp.altIdx, altRouteOf c sp.src sp.dest)])

/-- Two spans share a slot index on one link in one direction (R438). -/
def spansClash (c : Cascade) (a b : CascSpan) : Bool :=
  (spanUse c a).any (fun u => (spanUse c b).any (fun v => u.1 == v.1 && u.2.any (fun l => v.2.contains l)))

/-- Some two spans of the list clash. -/
def anyClash (c : Cascade) : List CascSpan → Bool
  | [] => false
  | a :: rest => rest.any (spansClash c a) || anyClash c rest

/-- Role and position from the settings generation and the position table; none when the serial is absent (R435). -/
def State.cascadePlace (s : State) (c : Cascade) : Option (Nat × Nat) :=
  if s.setRole ≠ 0xFF ∧ s.setPosition ≠ 0xFF then some (s.setRole, s.setPosition)
  else
    match c.positions.findIdx? (fun p => p.1 == s.serial && p.1 != 0) with
    | none => none
    | some i =>
      some (if s.setRole = 0xFF then (c.positions.getD i (0, 0)).2 else s.setRole,
            if s.setPosition = 0xFF then i else s.setPosition)

/-- The cascade position a load uses for its SEEDS sections: 0 for a stand-alone module (R288). -/
def State.loadPosition (s : State) (casc : Option Cascade) : Nat :=
  match casc with
  | none => 0
  | some c => match s.cascadePlace c with
    | some p => p.2
    | none => 0

/-- The roles the section names agree with the role this module holds (R435). -/
def roleAgrees (c : Cascade) (role pos : Nat) : Bool :=
  (role == 1) == (pos == c.lead) && (role == 2) == (pos == c.deputy) && c.lead != c.deputy
    && (c.positions.getD c.lead (0, 0)).2 == 1 && (c.positions.getD c.deputy (0, 0)).2 == 2

/-- A CASCADE section is refused with code 0x43 (R435, R438, R443, R444). -/
def State.cascadeBad (s : State) (modules : Nat) (c : Cascade) : Bool :=
  let dims := if c.ydim = 1 then decide (2 ≤ c.xdim ∧ c.xdim ≤ 64) else decide (2 ≤ c.xdim ∧ c.xdim ≤ 8 ∧ 2 ≤ c.ydim ∧ c.ydim ≤ 8)
  let place := match s.cascadePlace c with
    | none => true
    | some p => !roleAgrees c p.1 p.2 || decide (c.xdim * c.ydim ≤ p.2)
  let cable := [0, 1, 2, 3].any (fun i => match s.ring.cables[i]! with | some d => decide (c.cableMax < d) | none => false)
  !dims || modules != c.xdim * c.ydim || place || s.ring.dupPos || cable || anyClash c c.spans
    || c.spans.any (fun sp => decide (20 ≤ sp.slotIdx) || decide (sp.budget < routeBound c (routeOf c sp.src sp.dest))
        || (sp.altIdx != 0xFF && decide (sp.budget < sp.altBudget)))

/-- This module's cascade position (Table 15.7). -/
def State.position (s : State) : Nat := s.fld RNG_ROLE_POSITION

/-- The cascade of the program in force. -/
def State.cascade? (s : State) : Option Cascade := s.program?.bind (fun p => p.cascade)

/-- The positions reachable through some port (R451). -/
def State.reachable (s : State) : List Nat :=
  (List.range 64).filter (fun q => q != s.position && s.ring.reach.toList.any (fun r => r.contains q))

/-- The reachable positions as bits of RNG_REACH. -/
def State.reachBits (s : State) : Nat := (s.reachable.map (fun q => 2 ^ q)).sum

/-! Messages -/

/-- Queue an elastic cell at a port under the port's next SEQ (R440). -/
def State.queueCell (s : State) (p : Fin 4) (typ dest src frag msgSeq : Nat) (data : List Byte) : State :=
  let port : RingPort := s.ring.ports[p]
  let cell : RingCell := { seq := port.nextSeq, ack := port.expected, dest := dest, src := src, typ := typ, frag := frag, msgSeq := msgSeq, data := data }
  s.setPort p { port with nextSeq := (port.nextSeq + 1) % 65536, unacked := port.unacked ++ [cell] }

/-- The port a message to a position leaves by: the first link of its route (R441). -/
def State.portTo (s : State) (dest : Nat) : Option (Fin 4) :=
  match s.cascade? with
  | none => none
  | some c => (routeOf c s.position dest).head?.map (fun l => Fin.ofNat 4 l.2)

/-- The cells of a message's bytes after its first (Table 15.3, FRAG and DATA): the last one is marked. -/
def restCells : Nat → List Byte → List (Nat × List Byte)
  | 0, _ => []
  | n + 1, data => if data.isEmpty then [] else (if data.length ≤ 316 then 2 else 0, data.take 316) :: restCells n (data.drop 316)

/-- The cells of a message: FRAG and up to 316 data bytes each, at least one cell (Table 15.3). -/
def messageCells (data : List Byte) : List (Nat × List Byte) :=
  (if data.length ≤ 316 then 3 else 1, data.take 316) :: restCells data.length (data.drop 316)

/-- Send a message to a position: its values and a record's bytes, under the next MSG_SEQ of the pair (R440; its layout is open, log entry 9). -/
def State.sendMessage (s : State) (typ dest : Nat) (vals : List Nat) (bytes : List Byte) : State :=
  match s.portTo dest with
  | none => s
  | some p =>
    let n := (mapFind s.ring.msgSeq dest).getD 0
    let s := { s with ring := { s.ring with msgSeq := mapSet s.ring.msgSeq dest (n + 1) } }
    (messageCells (Config.ringMessage typ vals bytes)).foldl (fun (s : State) c => s.queueCell p typ dest s.position c.1 n c.2) s

/-- Send a message to every other position of the cascade. -/
def State.sendAll (s : State) (typ : Nat) (vals : List Nat) : State :=
  match s.cascade? with
  | none => s
  | some c => (List.range (c.xdim * c.ydim)).foldl (fun s q => if q = s.position then s else s.sendMessage typ q vals []) s

/-- Send a hello through a port: the count and the reachability map (R443, R449, R451). It is a broadcast of this one link (DESIGN CHOICE, log
entry 121). -/
def State.sendHello (s : State) (p : Fin 4) : State :=
  let n := (mapFind s.ring.msgSeq 128).getD 0
  let s := { s with ring := { s.ring with msgSeq := mapSet s.ring.msgSeq 128 (n + 1) } }
  s.queueCell p 1 128 s.position 3 n ((Config.ringMessage 1 [s.count.toNat, s.reachBits] []).take 316)

/-- At a sync tick a module sends the lead a hello with its count (R449). -/
def State.syncHello (s : State) : State :=
  if s.flag RNG_CTL_CASC_EN && lowZero 16 s.count && s.fld RNG_ROLE_LEAD != s.position then
    s.sendMessage 1 (s.fld RNG_ROLE_LEAD) [s.count.toNat, s.reachBits] []
  else s

end Sys2Proof.Machine
end

