-- ==== Sys2Proof/Machine/Horizon.lean ====
section
/-!
DEFINITION. The horizon count (chapter 2): ticks and flywheel ticks (R40 to R46), horizon sync (R47 to R50), presets (R51), launch
(R55 to R57).
-/
namespace Sys2Proof.Machine

/-- HZN_CTL.SRC reads follow (R48). -/
def State.follows (s : State) : Bool := s.fld HZN_CTL_SRC == 1

/-- Within 1,000 ppm of the nominal period (R45, R46). -/
def near (ps p : Nat) : Bool := decide ((ps - p) * 1000 ≤ p ∧ (p - ps) * 1000 ≤ p)

/-- TICK_OK: ticks present and within limits (Table 2.9). -/
def State.showTickOk (s : State) : State := s.setFlag HZN_STAT_TICK_OK (!s.hz.loss && !s.flag HZN_STAT_TICK_UNSTABLE)

/-- A sync slip (R50): the count stands; SLIP, the count of slips, EVENT 0x0204; in Growing acceptance stops. The record names the count
of the tick at which the pulse was sampled (DEDUCED, log entry 105). -/
def State.syncSlip (s : State) : State :=
  let s := ((s.setFlag HZN_STAT_SLIP true).setFlag HZN_STAT_SYNC_LOCK false).bump HZN_SLIP_CNT
  (s.writeEvent 0x0204 [s.count.toNat]).driveHold

/-- HZN_SYNC_OUT is high for the tick period that a sync tick of the own count begins (R47); in Fallow it is clamped low (Table 19.4). -/
def State.driveSync (s : State) : State :=
  { s with hz := { s.hz with syncOut := s.flag HZN_CTL_SYNC_OUT_EN && lowZero 16 s.count && s.mod.st != .fallow } }

/-- A pulse is sampled in follow mode at the tick that makes the present count (R48 to R51). -/
def State.syncPulse (s : State) : State :=
  if s.hz.armed then { s with hz := { s.hz with due := true } }
  else if lowZero 16 (s.count - BitVec.ofNat 64 (s.fld HZN_CTL_SYNC_ADJ)) then
    let s := s.setFlag HZN_STAT_SYNC_LOCK true
    if s.hz.returning then { s with hz := { s.hz with syncSince := true } } else s
  else s.syncSlip

/-- Horizon sync at the tick that makes the present count (R47 to R51, R449). A sync tick with no pulse is named by the count of the tick at
which its pulse would have been sampled (DEDUCED, log entry 105). -/
def State.syncAt (s : State) (pulse : Bool) : State :=
  let s := if s.ring.syncOutDue && lowZero 16 s.count then
      ({ s with ring := { s.ring with syncOutDue := false } } : State).setFlag HZN_CTL_SYNC_OUT_EN true
    else s
  let s := s.driveSync.syncHello
  if s.follows then
    let marked := s.count - BitVec.ofNat 64 (s.fld HZN_CTL_SYNC_ADJ)
    if pulse then s.syncPulse
    else if lowZero 16 marked then (s.setFlag HZN_STAT_SYNC_LOCK false).writeEvent 0x0203 [s.count.toNat]
    else s
  else if s.hz.armed && lowZero 16 s.count then { s with hz := { s.hz with due := true } }
  else s

/-- The idle timer at a tick (R32): it is held at zero, it restarts in a tick with a frame or an access, it counts the others. While
TICK_OK is clear it counts microseconds instead. -/
def State.idleTick (s : State) : State :=
  let st := s.mod.st
  let busy := s.mod.busyTick
  let s := { s with mod := { s.mod with busyTick := false } }
  if (st == .unplanted || st == .sown || st == .growing) && s.mod.entry.isNone && !s.idleHeld then
    if busy then { s with mod := { s.mod with idle := 0, idleNs := 0 } }
    else if s.flag HZN_STAT_TICK_OK then { s with mod := { s.mod with idle := s.idleNext, idleNs := 0 } }
    else s
  else { s with mod := { s.mod with idle := 0, idleNs := 0 } }

/-- FALLOW_NOW acts as an expiry at the next tick, unless a hold condition of R32 applies (R507). -/
def State.fallowAtTick (s : State) : State :=
  if s.mod.fallowNow then
    { s with mod := { s.mod with fallowNow := false, expiryWaits := s.mod.expiryWaits || !s.idleHeld } }
  else s

/-- Every entry position of a tick with late packages has passed: its EVENT record is written (R244, R245). -/
def State.flushPast (s : State) (e : Fin 2) : State :=
  match (s.eng[e] : Engine).lateTick, s.phase? with
  | some (t, _), some p => if t.toNat + 3 ≤ s.usableFrom p.ph 0 then s.flushLate e else s
  | _, _ => s

/-- The count has reached a new value: a seal falls due where its low 26 bits are zero (R332); at a horizon boundary the hold after a
wake ends (R33, R510), a checkpoint horizon in Fallow is noted (R512) and LOOSE stops marking records (R263); bridge lanes move to their spares (R352); the late packages of
a tick that has entered are recorded (R245). -/
def State.countReached (s : State) : State :=
  let s := if lowZero 26 s.count then { s with aug := s.aug.sealFalls 2 } else s
  let s := { s with mod := { s.mod with
      fallowCkpt :=
        if s.mod.st = ModState.fallow ∧ s.mod.left = ModState.growing ∧ lowZero 24 s.count ∧ s.mod.fallowCkpt.isNone then some s.count else s.mod.fallowCkpt
      wakeHold := s.mod.wakeHold && !(s.atBoundary && decide (s.mod.st ≠ ModState.fallow))
      looseTail := s.mod.looseTail.filter (fun e => decide (s.count.toNat < e.toNat)) } }
  let due := s.flt.bridgeDue.filter (fun (m : Word × Nat × U64) => decide (m.2.2.toNat ≤ s.count.toNat))
  let s := due.foldl (fun s (m : Word × Nat × U64) => s.unitMoved m.1 m.2.1 m.2.2) { s with flt := { s.flt with
    bridgeDue := s.flt.bridgeDue.filter (fun (m : Word × Nat × U64) => decide (s.count.toNat < m.2.2.toNat)) } }
  ((s.flushPast 0).flushPast 1).driveHold.checkTail

/-- The count moves on by one (R40). -/
def State.countOn (s : State) : State := { s with hz := { s.hz with count := s.hz.count + 1 } }

/-- PRESET_APPLY (R51): the count takes the preset, in follow mode plus SYNC_ADJ, and HZN_SYNC_OUT follows the new count; PRESET_DONE, SLIP,
SYNC_LOCK, EVENT 0x0205; a pending launch that is now too close is refused. -/
def State.applyPreset (s : State) : State :=
  let p := s.reg64 HZN_PRESET_LO
  let c := if s.follows then p + BitVec.ofNat 64 (s.fld HZN_CTL_SYNC_ADJ) else p
  let s := ({ s with hz := { s.hz with count := c, armed := false, due := false } } : State).driveSync
  let s := (s.setFlag HZN_STAT_PRESET_DONE true).setFlag HZN_STAT_SLIP false
  let s := if s.follows then s.setFlag HZN_STAT_SYNC_LOCK true else s
  let s := s.countReached.writeEvent 0x0205 [c.toNat]
  if s.flag HZN_STAT_LAUNCH_PEND && decide (s.hz.launchAt.toNat < c.toNat + 2048) then s.refuseLaunch 1 else s

/-- A preset whose tick has come is applied at that tick, so before anything of the next one (R51). -/
def State.settlePreset (s : State) : State := if s.hz.due then s.applyPreset else s

/-- What a tick or a flywheel tick that counts does. -/
def State.advance (s : State) (pulse : Bool) : State :=
  let s := s.settlePreset.countOn.countReached
  ((s.syncAt pulse).idleTick).fallowAtTick

/-- A returned tick is the same tick as the last flywheel tick: less than half of HZN_TICK_PERIOD after it (R45). -/
def State.sameTick (s : State) (ps : Nat) : Bool :=
  s.hz.loss && decide (s.hz.flyTicks ≠ 0) && decide (((ps : Int) - s.hz.flyTicks * s.tickPs) * 2 < s.tickPs)

/-- The longest list of tick intervals kept: more ticks than pass before any frame's arrival limit (A below 65,536 fc, 64 positions of 64
fc, ticks of 2,500 ps and more). -/
def spansKept : Nat := 23000

/-- The instants of the last ticks, as intervals: a tick `ps` after the last real one stands after the flywheel ticks between them; one
taken as the same tick as a flywheel tick moves that one (R42, R45, R61). -/
def State.noteTick (s : State) (ps : Nat) (same : Bool) : State :=
  let off := ps - s.hz.flyTicks * s.tickPs
  { s with hz := { s.hz with
      spans := match same, s.hz.spans with
        | true, d :: rest => (d + ps - s.hz.flyTicks * s.tickPs) :: rest
        | _, ds => (off :: ds).take spansKept } }

/-- TICK: a rising edge of the divided tick clock, `ps` after the one before it (R40, R42, R45). The run of good ticks starts at 0 on the
first returned tick, whose own interval is the loss (DEDUCED, log entry 47). A tick that is the same as a flywheel tick still samples the
sync input. -/
def State.tickEdge (s : State) (ps : Nat) (pulse : Bool) : State :=
  let same := s.sameTick ps
  let ret := s.hz.loss
  let run := if ret then 0 else if near ps s.tickPs then min 1024 (s.hz.goodRun + 1) else 0
  let s := s.noteTick ps same
  let s := { s with hz := { s.hz with
      loss := false, flyTicks := 0, goodRun := run, returning := if ret then s.hz.lossHold else s.hz.returning
      steady := !ret && (s.hz.steady || decide (run = 1024))
      syncSince := if ret then false else s.hz.syncSince } }
  let s := (s.setFlag HZN_STAT_FLYWHEEL false).showTickOk
  if !same then s.advance pulse else if pulse && s.follows then s.syncPulse else s

/-- The count runs: the main rails are up. -/
def State.counts (s : State) : Bool := s.mod.st.powered

def execTick (ps : Nat) (sync : Bool) (s : State) : Out := .next (if s.counts then s.tickEdge ps sync else s)

/-- The module is in Growing, or in Fallow from Growing. -/
def State.growingOrLeft (s : State) : Bool := s.mod.st == .growing || (s.mod.st == .fallow && s.mod.left == .growing)

/-- TICK_LOSS (R42 to R44): flywheel ticks follow; in Growing acceptance stops from the first of them. -/
def State.loseTicks (s : State) : State :=
  let p := s.tickPs
  let s := { s with hz := { s.hz with
      loss := true, flyTicks := 0, goodRun := 0, steady := false, returning := false, lossHold := s.hz.lossHold || (s.growingOrLeft && p != 0) } }
  let s := s.showTickOk
  if p = 0 then s
  else ((s.setFlag HZN_STAT_FLYWHEEL true).writeEventAt 0x0201 (s.count + 1) 0 [(s.count + 1).toNat]).driveHold

def execTickLoss (s : State) : Out := .next (if s.counts && !s.hz.loss then s.loseTicks else s)

/-- FLYWHEEL_TICK (R42): it increments the count as a tick does. -/
def State.flyTick (s : State) : State :=
  ({ s with hz := { s.hz with flyTicks := s.hz.flyTicks + 1, spans := (s.tickPs :: s.hz.spans).take spansKept } } : State).advance false

def execFlywheelTick (s : State) : Out := .next (if s.counts && s.hz.loss && s.tickPs != 0 then s.flyTick else s)

/-- TICK_PERIOD_MEASURED (R46): outside 1,000 ppm sets TICK_UNSTABLE with EVENT 0x0202, within clears it. -/
def State.periodMeasured (s : State) (ps : Nat) : State :=
  if near ps s.tickPs then (s.setFlag HZN_STAT_TICK_UNSTABLE false).showTickOk
  else ((s.setFlag HZN_STAT_TICK_UNSTABLE true).showTickOk).writeEvent 0x0202 [s.count.toNat]

def execTickPeriodMeasured (ps : Nat) (s : State) : Out :=
  .next (if s.counts && s.tickPs != 0 then s.periodMeasured ps else s)

/-- The conditions of R45 hold at this horizon boundary. -/
def State.mayResume (s : State) : Bool :=
  s.hz.lossHold && !s.hz.loss && s.hz.returning && s.hz.steady && (!s.follows || s.hz.syncSince) && s.atBoundary

/-- ACCEPTANCE_RESUME (R45). -/
def State.resumeAcceptance (s : State) : State :=
  ({ s with hz := { s.hz with lossHold := false, returning := false, syncSince := false } } : State).driveHold

def execAcceptanceResume (s : State) : Out := .next (if s.mayResume then s.resumeAcceptance else s)

/-- A write of 1 to PRESET_ARM (R51): ignored in Growing and when the low 16 bits of the preset are not zero. -/
def State.armPreset (s : State) : State :=
  if s.mod.st != .growing && lowZero 16 (s.reg64 HZN_PRESET_LO) then { s with hz := { s.hz with armed := true } } else s

def execPresetArm (path : Path) (s : State) : Out := .next (s.via path HZN_CTL (fun s => s.armPreset))

def execPresetApply (s : State) : Out := .next (if s.hz.due && s.mod.st != .growing then s.applyPreset else s)

/-- Refusal code of a launch commit, 0 when it is accepted (R55, Table 2.10). A commit that fails both tests takes 0x1, the first of the
table (DESIGN CHOICE, log entry 106). -/
def State.commitCode (s : State) (h : U64) : Nat :=
  if h.toNat < s.count.toNat + 2048 then 1 else if !lowZero 10 h then 2 else 0

/-- Commit a launch horizon (R55). -/
def State.commitLaunch (s : State) (h : U64) : State :=
  let code := s.commitCode h
  if code = 0 then (({ s with hz := { s.hz with launchAt := h } } : State).setFlag HZN_STAT_LAUNCH_PEND true).idleZero
  else s.refuseLaunch code

/-- The cascade role: 0 stand-alone, 1 lead, 2 deputy, 3 member (Table 15.7). -/
def State.role (s : State) : Nat := s.fld RNG_ROLE_ROLE

/-- The first condition of R56 that fails, as its code in Table 2.10; 0 when the module launches. -/
def State.launchCode (s : State) : Nat :=
  if s.mod.st != .sown then 3
  else if s.flag HZN_STAT_FLYWHEEL then 4
  else if s.flag HZN_STAT_SLIP || (s.follows && !s.flag HZN_STAT_SYNC_LOCK) || s.ring.countBad then 5
  else if s.flag HZN_STAT_TICK_UNSTABLE then 6
  else 0

/-- Freeze the rates of the ring lanes at launch (R403). -/
def State.freezeRing (s : State) : State :=
  { s with lanes := Vector.ofFn (fun (i : Fin 80) =>
      let ln : Lane := s.lanes[i]
      if 56 ≤ i.val ∧ i.val < 72 ∧ ln.frozen.isNone ∧ s.fld (LNK_STAT_STATE.on (lnkOff i.val)) = 5 then
        { ln with frozen := some (s.fld (LNK_STAT_RATE.on (lnkOff i.val))) }
      else ln) }

/-- Start an engine at the launch horizon: its rings start there (R202, R247). -/
def State.launchEngine (s : State) (e : Fin 2) (h : U64) : State :=
  let s := s.addStart e h
  let g : Engine := s.eng[e].startAt h
  s.setEng e { g with running := true, silt := [], siltCleared := false, warmW := (s.reg (LSS_WARM + lssOff e)).toNat, queries := [], lateTick := none }

/-- A placed bed runs in Growing (Table 3.15). -/
def State.runBeds (s : State) : State :=
  [0, 1, 2, 3].foldl (fun s b =>
    let o : Fin 4 := Fin.ofNat 4 b
    if s.isPlaced b && s.bedState b == 2 then s.setBedState o 3 else s) s

/-- The module launches at horizon `h` (R56, R57). A preset that is still armed is ignored in Growing, so its arm ends (R51). -/
def State.launchNow (s : State) (h : U64) : State :=
  let s := (s.setFlag HZN_STAT_LAUNCH_PEND false).setReg64 HZN_LAUNCH_LO h
  let s := (s.launchEngine 0 h).launchEngine 1 h
  let s := { s with
    hz := { s.hz with lossHold := false, returning := false, steady := false, syncSince := false, armed := false, due := false }
    mod := { s.mod with idle := 0, idleNs := 0, expiryWaits := false, fallowNow := false, wakeHold := false }
    fast := { s.fast with accept := [] }
    ring := { s.ring with launchOpen := false } }
  let s := s.writeEventAt 0x0102 h 0 []
  (s.freezeRing.enterState .growing 0 0 0).runBeds

/-- LAUNCH: the count has reached the pending launch horizon (R56). While the auger unit is stopped the refusal waits for it (R31). -/
def State.launchDue (s : State) : State :=
  let code := s.launchCode
  if code = 0 then s.launchNow s.hz.launchAt else s.refuseLaunch code

def execLaunch (s : State) : Out :=
  .next (
    let s := s.settlePreset
    if s.flag HZN_STAT_LAUNCH_PEND && s.count == s.hz.launchAt && s.aug.running then s.launchDue else s)

end Sys2Proof.Machine
end

