-- ==== Sys2Proof/Machine/LaneOps.lean ====
section
/-!
DEFINITION. Shared operations of the serial lanes (chapter 13): bring-up of a lane (R399 to R403), block lock (R398), the end of an
eye scan (R407), stream item headers (R413 to R415), ring ports whose lanes are Up (R436).
-/
namespace Sys2Proof.Machine

/-- STATE of a lane (Table 13.4): 0 disabled, 1 Detect, 2 Train, 3 Step, 4 Verify, 5 Up, 6 self-test, 7 Failed. -/
def State.laneState (s : State) (l : Nat) : Nat := s.fld (LNK_STAT_STATE.on (lnkOff l))

/-- Set STATE of a lane. -/
def State.setLaneState (s : State) (l v : Nat) : State := s.setFld (LNK_STAT_STATE.on (lnkOff l)) v

/-- RATE of a lane. -/
def State.laneRate (s : State) (l : Nat) : Nat := s.fld (LNK_STAT_RATE.on (lnkOff l))

/-- Set RATE of a lane. -/
def State.setLaneRate (s : State) (l v : Nat) : State := s.setFld (LNK_STAT_RATE.on (lnkOff l)) v

/-- The lane holds block lock (R398). -/
def State.laneLock (s : State) (l : Nat) : Bool := s.flag (LNK_STAT_LOCK.on (lnkOff l))

/-- The rate a lane offers or uses: its frozen rate (R403), else LNK_CTL.MAX_RATE. -/
def State.laneOffer (s : State) (l : Fin 80) : Nat :=
  match s.lanes[l].frozen with
  | some r => r
  | none => s.fld (LNK_CTL_MAX_RATE.on (lnkOff l))

/-- A stream lane that a lasting fault has retired (R421). -/
def State.laneRetired (s : State) (l : Nat) : Bool :=
  decide (l < 48) && s.flag ⟨if l < 32 then STM_LANE_RET_LO else STM_LANE_RET_HI, l % 32, 1⟩

/-- The bit of a stream lane in STM_VERBAD (R412). -/
def verBadField (l : Nat) : Field := ⟨if l < 32 then STM_VERBAD_LO else STM_VERBAD_HI, l % 32, 1⟩

/-- Unit word of a lane (Table 11.12), for the links that have one. -/
def laneUnit (l : Nat) : Option Word :=
  if l < 48 then some (streamLaneUnit l)
  else if l < 56 then some (decLaneUnit (l - 48))
  else if l < 72 then some (ringLaneUnit ((l - 56) / 4) ((l - 56) % 4))
  else none

/-- UP of a ring port follows its four lanes (R436); the link itself goes down by R451. -/
def State.portLanesUp (s : State) (p : Nat) : Bool :=
  (List.range 4).all (fun i => s.laneState (56 + 4 * p + i) == 5)

/-- The field of RNG_PORT_STAT of a port. -/
def portField (f : Field) (p : Nat) : Field := f.on (4 * p)

/-- A ring port whose four lanes are Up: RATE_BAD, VER_BAD and PEER, and the link is up when neither holds (R436,
R451); it holds the idle timer at zero (R32), and hellos begin (R443). -/
def State.portUp (s : State) (p : Fin 4) : State :=
  let rateBad := match s.program?.bind (fun q => q.cascade) with
    | some c => (List.range 4).any (fun i => s.laneRate (56 + 4 * p.val + i) != c.rate)
    | none => false
  let ids := (List.range 4).filterMap (fun i => (s.lanes[56 + 4 * p.val + i]!).peer.map (fun t => t.peerId))
  let verBad := ids.any (fun w => bitsOf w.toNat 24 8 != 1)
  let s := (s.setFlag (portField RNG_PORT_STAT0_RATE_BAD p) rateBad).setFlag (portField RNG_PORT_STAT0_VER_BAD p) verBad
  let s := s.setFld (portField RNG_PORT_STAT0_PEER p) (((ids.head?).getD 0).toNat % 64)
  if rateBad || verBad then s
  else
    let port : RingPort := s.ring.ports[p]
    let s := ((s.setPort p { port with down := false }).idleZero).sendHello p
    let s := (s.setFlag (portField RNG_PORT_STAT0_UP p) true).setFlag (portField RNG_PORT_STAT0_DOWN p) false
    if s.flag RNG_CTL_CASC_EN then { s with ring := { s.ring with rerouteDue := true } } else s

/-- A message header of the host link (Table 16.2). -/
def msgHeader (op tag len : Nat) (arg : U64) : List Byte :=
  [BitVec.ofNat 8 op, 0] ++ leBytes 2 tag ++ leBytes 4 len ++ leBytes 8 arg.toNat

/-- A LINK message: the mask, the first SEQ under it, LAST_TAG (Table 16.3). -/
def linkMessage (mask : Byte) (seq lastTag : Nat) : List Byte :=
  msgHeader 0xE0 0 2 (BitVec.ofNat 64 (mask.toNat + 256 * seq)) ++ leBytes 2 lastTag

/-- The active lane set of a link that is up becomes `mask`: LANESET, HST_LANES, a LINK message that names the next SEQ (R471). -/
def State.setHostSet (s : State) (mask : Byte) : State :=
  if s.hst.up ∧ s.hst.mask ≠ mask then
    let s := { s with hst := { s.hst with
      mask := mask, control := s.hst.control ++ [linkMessage mask s.hst.txSeq s.hst.lastTag] } }
    (s.setFlag HST_STAT_LANESET true).setFld HST_LANES_MASK mask.toNat
  else s

/-- A host lane that is Up with an accepted version offer (R456, R457). -/
def State.hostLaneReady (s : State) (i : Nat) : Bool :=
  s.laneState (72 + i) == 5 &&
    (match (s.lanes.toList.getD (72 + i) Lane.off).peer with | some t => bitsOf t.peerId.toNat 24 8 == 1 | none => false)

/-- The lanes that may be in the active lane set, as a mask (R457). -/
def State.hostReady (s : State) : Byte := BitVec.ofNat 8 (((List.range 8).map (fun i => if s.hostLaneReady i then 2 ^ i else 0)).sum)

/-- A lane leaves Up or its bring-up: its scan ends, its open item ends, a ring port's frames stop, a host lane leaves the active lane set
(Table 13.6, R415, R457). -/
def State.laneLeaves (s : State) (l : Fin 80) : State :=
  let s := s.abortEye l
  let s := if l.val < 48 then s.dropItem l else s
  let s := if 72 ≤ l.val then s.setHostSet (s.hst.mask &&& ~~~(BitVec.ofNat 8 (2 ^ (l.val - 72)))) else s
  if 56 ≤ l.val ∧ l.val < 72 then s.setFlag (portField RNG_PORT_STAT0_UP ((l.val - 56) / 4)) false else s

/-- With AUTO clear PEAK is in force at every rate; with AUTO set, the code in force stays until a Step adapts it (R405, log entry 69). -/
def State.fixedPeak (s : State) (l : Nat) : State :=
  if laneLink l = 1 || s.flag (LNK_EQ_AUTO.on (lnkOff l)) then s
  else s.setFld (LNK_EQ_PEAK_USED.on (lnkOff l)) (s.fld (LNK_EQ_PEAK.on (lnkOff l)))

/-- The peaking code at the start of a rate: PEAK with AUTO clear, else what the adaptation finds, which is open (R405). -/
def State.adaptPeak (s : State) (l : Nat) : State :=
  if s.flag (LNK_EQ_AUTO.on (lnkOff l)) then
    let d := s.drawNat
    d.2.setFld (LNK_EQ_PEAK_USED.on (lnkOff l)) (d.1 % 16)
  else s.fixedPeak l

/-- Start the bring-up of a lane: Detect at 2.5 Gb/s; a decision lane, which only sends, starts in Step (R399, R401). -/
def State.startLane (s : State) (l : Fin 80) : State :=
  let s := s.laneLeaves l
  let ln : Lane := s.lanes[l]
  let s := if ln.brought then s.bump (LNK_RETRAIN_CNT + lnkOff l) else s
  let s := s.setLane l { ln with
    rx := ⟨false, 0⟩, heads := [], goodRun := 0, invSeen := 0, peer := none, verifyBad := false, attempts := 0
    target := s.laneOffer l, tested := none, blocksToPeak := 0, reasm := ⟨[], 0, true⟩, brought := true }
  let s := ((s.setLaneRate l 0).setFld (LNK_STAT_PEER_MAX.on (lnkOff l)) 0).setFlag (LNK_STAT_INVERTED.on (lnkOff l)) false
  let s := s.setFlag (LNK_STAT_LOCK.on (lnkOff l)) false
  (s.fixedPeak l).setLaneState l (if laneLink l = 1 then 3 else 1)

/-- Take a lane down: disabled, or powered down (R409). -/
def State.stopLane (s : State) (l : Fin 80) : State :=
  let s := s.laneLeaves l
  let ln : Lane := s.lanes[l]
  let s := s.setLane l { ln with heads := [], goodRun := 0, invSeen := 0, peer := none, verifyBad := false, attempts := 0, tested := none }
  (s.setFlag (LNK_STAT_LOCK.on (lnkOff l)) false).setLaneState l 0

/-- Every enabled lane that no fault has retired starts its bring-up (R379 step 5, R510). -/
def State.startLanes (s : State) : State :=
  (List.finRange 80).foldl (fun s (l : Fin 80) =>
    if s.flag (LNK_CTL_ENABLE.on (lnkOff l)) && !s.laneRetired l then s.startLane l else s) s

/-- Every enabled decision lane is Up (R379 step 5). -/
def State.decisionLanesUp (s : State) : Bool :=
  (List.range 8).all (fun i => !s.flag (LNK_CTL_ENABLE.on (lnkOff (48 + i))) || s.laneState (48 + i) == 5)

/-- Step 5 of the cold Waking ends once every enabled decision lane is Up (Table 12.6). -/
def State.checkStep5 (s : State) : State :=
  if s.mod.st == .waking && !s.mod.warm && s.mod.fwOk && s.decisionLanesUp then s.setFld CFG_BOOT_STAT_STEP 5 else s

/-- A self-test disconnects the receiver: no traffic until it ends (R408). -/
def State.startPrbs (s : State) (l : Fin 80) : State :=
  let st := s.laneState l
  if st = 6 then s
  else
    let s := s.laneLeaves l
    let ln : Lane := s.lanes[l]
    (s.setLane l { ln with tested := some st, heads := [], goodRun := 0 }).setLaneState l 6

/-- An error of a lane's class: its targeted self-test takes a stream or ring lane out of traffic; a decision lane goes on carrying its
verdicts (R349, R408, R429). -/
def State.detectLane (s : State) (l : Fin 80) (cls : Nat) (h : U64) : State :=
  match laneUnit l with
  | some u =>
    let s := s.detect u cls h 0
    if laneLink l != 1 && s.flt.tests.any (fun t => t.unit == u) then s.startPrbs l else s
  | none => s

/-- A lane that cannot come up at its frozen rate is a lane fault of class 0x0E or 0x0F (R403). -/
def State.laneFault (s : State) (l : Fin 80) : State :=
  s.detectLane l (if laneLink l = 1 then 0x0E else 0x0F) s.count

/-- The lowest rate of the host lanes that are ready, for each that is faster: MAX_RATE is written and the lane retrains (R457). -/
def State.levelHost (s : State) : State :=
  let ready := (List.finRange 8).filter (fun i => s.hostLaneReady i.val)
  let low := (ready.map (fun i => s.laneRate (72 + i.val))).foldl min 15
  ready.foldl (fun s (i : Fin 8) =>
    let l : Fin 80 := Fin.ofNat 80 (72 + i.val)
    if low < s.laneRate l then (s.setFld (LNK_CTL_MAX_RATE.on (lnkOff l)) low).startLane l else s) s

/-- A host lane comes Up: the rates are levelled, and a link that is up takes the lanes that are ready (R457, R471). -/
def State.hostLaneUp (s : State) : State :=
  let s := s.levelHost
  let s := s.setHostSet s.hostReady
  if s.hst.up then
    match (List.range 8).find? (fun i => s.hostLaneReady i) with
    | some i => s.setFld HST_LANES_RATE (s.laneRate (72 + i))
    | none => s
  else s

/-- A lane goes Up (Table 13.4). -/
def State.laneUp (s : State) (l : Fin 80) : State :=
  let s := s.setLaneState l 5
  if laneLink l = 1 then s.checkStep5
  else if laneLink l = 2 then
    let p : Fin 4 := Fin.ofNat 4 ((l.val - 56) / 4)
    if s.portLanesUp p then s.portUp p else s
  else if laneLink l = 3 then s.hostLaneUp
  else s

/-- A step or a verification of a lane failed (R399): STEP_FAIL, up to three attempts at a rate, then the last verified rate; a
failure at 2.5 Gb/s ends in Failed; a lane held to a frozen rate is a fault (R403). `stepping` says a step failed. -/
def State.laneAttemptFails (s : State) (l : Fin 80) (stepping : Bool) : State :=
  let ln : Lane := s.lanes[l]
  let s := s.setFlag (LNK_STAT_STEP_FAIL.on (lnkOff l)) true
  if ln.attempts < 2 then
    (s.setLane l { ln with attempts := ln.attempts + 1, verifyBad := false }).setLaneState l (if stepping then 3 else 4)
  else
    let back := if stepping then s.laneRate l else s.laneRate l - 1
    if ln.frozen.isSome then (s.setLaneState l 7).laneFault l
    else if !stepping && s.laneRate l = 0 then s.setLaneState l 7
    else ((s.setLane l { ln with attempts := 0, verifyBad := false, target := back }).setLaneRate l back).setLaneState l 4

/-- A verification passed: the next step, or Up at the target rate (R399). -/
def State.laneVerified (s : State) (l : Fin 80) : State :=
  let ln : Lane := s.lanes[l]
  let s := s.setLane l { ln with attempts := 0, verifyBad := false }
  if s.laneRate l < ln.target then s.setLaneState l 3 else s.laneUp l

/-- Bytes of a stream block's items from position `i` on: what the header counters of the lane see (R414, R415). Fuel is the number
of bytes left plus one. -/
def takeItems : Nat → List Byte → Reasm → Nat × Reasm
  | 0, _, r => (0, r)
  | n + 1, bs, r =>
    match bs with
    | [] => (0, r)
    | b :: rest =>
      if r.seek then (0, r)
      else if 0 < r.rest then takeItems n (bs.drop r.rest) { r with rest := r.rest - min r.rest bs.length }
      else if r.bytes.isEmpty && b == 0 then (0, { r with seek := true })
      else
        let hd := r.bytes ++ [b]
        if hd.length < 8 then takeItems n rest { r with bytes := hd }
        else
          let typ := (hd.getD 7 0).toNat
          let t := takeItems n rest { r with bytes := [], rest := (typ % 64 + 1) * 8 }
          ((if 128 ≤ typ then 1 else 0) + t.1, t.2)

/-- A good CSL data block on a stream lane: items of a reserved class are counted (R414, R415). -/
def State.streamBlock (s : State) (l : Fin 80) (first : Nat) (bytes : List Byte) : State :=
  let ln : Lane := s.lanes[l]
  let r := ln.reasm
  let t := if r.seek then
      if first = 0xFF then (0, r) else takeItems 123 (bytes.drop first) { r with seek := false }
    else takeItems 123 bytes r
  (s.setLane l { ln with reasm := t.2 }).bumpBy STM_RSVD_CNT t.1

/-- The CSL version offer of a stream lane's sender (R412). -/
def State.cslOffer (s : State) (l : Nat) (id : Word) : State :=
  if bitsOf id.toNat 24 8 = 1 then s.setFlag (verBadField l) false
  else (s.setFlag (verBadField l) true).setFlag STM_STAT_VER_BAD true

/-- A valid training block on a lane (R399 to R401, R412). -/
def State.trainingBlock (s : State) (l : Fin 80) (t : Training) : State :=
  let s := (s.setReg (LNK_PEER + lnkOff l) t.peerId).setFld (LNK_STAT_PEER_MAX.on (lnkOff l)) t.maxRate
  let ln : Lane := s.lanes[l]
  let s := s.setLane l { ln with peer := some t }
  if t.lverMajor ≠ 1 then (s.laneLeaves l).setLaneState l 7
  else if l.val < 48 then
    let s := s.cslOffer l t.peerId
    if (s.laneState l = 1 ∨ s.laneState l = 2) ∧ t.tstate = 2 then
      if s.fld (LNK_CTL_MAX_RATE.on (lnkOff l)) < t.nextRate then s.setFlag (LNK_STAT_STEP_FAIL.on (lnkOff l)) true
      else
        let ln : Lane := s.lanes[l]
        (s.setLane l { ln with target := t.nextRate, verifyBad := false }).setLaneState l (if t.nextRate = 0 then 4 else 3)
    else s
  else if 72 ≤ l.val ∧ bitsOf t.peerId.toNat 24 8 ≠ 1 then s.setFlag HST_STAT_VER_BAD true
  else s

/-- A failed block on a lane: a verification fails, or starts its count again after an erase block; a stream lane drops its open
item (R399, R415, Table 13.6). -/
def State.failedBlock (s : State) (l : Fin 80) (erase : Bool) : State :=
  let ln : Lane := s.lanes[l]
  let s := if s.laneState l = 4 ∧ !erase then s.setLane l { ln with verifyBad := true } else s
  if l.val < 48 then s.dropItem l else s

end Sys2Proof.Machine
end

