-- ==== Sys2Proof/Machine/Ring.lean ====
section
/-!
DEFINITION. The ring commands (chapter 15): ring frames (R438, R439), elastic cells (R440), hellos and cable delay (R443, R449),
the cascade's launch (R450), lost links and lost modules (R451 to R453). COMBINING_SLOT stands with the frames.
-/
namespace Sys2Proof.Machine

/-- The position that holds the lead role is this module or reachable. -/
def State.canReach (s : State) (q : Nat) : Bool := q == s.position || s.reachable.contains q

/-- The mirroring neighbour: the first reachable module in +X direction along the row (R453). -/
def State.neighbour (s : State) : Option Nat :=
  let xd := max (s.fld RNG_ROLE_XDIM) 1
  let p := s.position
  ((List.range (xd - 1)).map (fun i => p / xd * xd + (p % xd + i + 1) % xd)).find? (fun q => s.reachable.contains q)

/-- The whole unacknowledged tail is mirrored (R337, R453). -/
def State.mirrorTail (s : State) : State :=
  { s with aug := { s.aug with mirrorOut := s.aug.tailFrom s.aug.ack } }

/-- Show RNG_MIRROR_TGT; a new neighbour gets the whole unacknowledged tail (R453). -/
def State.showNeighbour (s : State) : State :=
  let was := if s.flag RNG_MIRROR_TGT_VALID then some (s.fld RNG_MIRROR_TGT_POSITION) else none
  match s.neighbour with
  | some q =>
    let s := (s.setFld RNG_MIRROR_TGT_POSITION q).setFlag RNG_MIRROR_TGT_VALID true
    if was ≠ some q ∧ s.mirrored then s.mirrorTail else s
  | none => s.setReg RNG_MIRROR_TGT 0

/-- A hello leaves every port that is up (R435, log entry 121). -/
def State.helloPorts (s : State) : State :=
  (List.finRange 4).foldl (fun (s : State) (p : Fin 4) =>
    if !(s.ring.ports[p] : RingPort).down && s.flag (portField RNG_PORT_STAT0_UP p) then s.sendHello p else s) s

/-- NO_LEAD, and the loss of the lead, which cancels a launch that still waits for its answers (R450, R452, Table 15.5). -/
def State.showLead (s : State) : State :=
  let deputy := match s.cascade? with | some c => c.deputy | none => s.position
  let lead := s.canReach (s.fld RNG_ROLE_LEAD)
  let s := s.setFlag RNG_STAT_NO_LEAD (!lead && !s.canReach deputy)
  let s : State := { s with ring := { s.ring with leadLost := !lead } }
  if !lead && s.flag HZN_STAT_LAUNCH_PEND && decide (s.count.toNat + 1024 < s.hz.launchAt.toNat) then
    (s.setFlag HZN_STAT_LAUNCH_PEND false).setReg RNG_LAUNCH 3
  else s

/-- Show RNG_REACH, RNG_MIRROR_TGT and, in a cascade, what becomes of the lead; hellos carry a changed map (R451 to R453). -/
def State.showReach (s : State) : State :=
  let bits := BitVec.ofNat 64 s.reachBits
  let changed := s.reg64 RNG_REACH_LO != bits
  let s := (s.setReg64 RNG_REACH_LO bits).showNeighbour
  let s := if changed then s.helloPorts else s
  if s.flag RNG_CTL_CASC_EN then s.showLead else s

/-- A part slot (Table 15.2), if it holds a part. -/
def readPart (b : List Byte) : Option Part :=
  if leAt b 9 1 = 0x5A then
    some { hzn := BitVec.ofNat 64 (leAt b 0 8), src := leAt b 8 1 % 64, part := leAt b 10 1, flags := leAt b 11 1 % 64
           bits := leAt b 12 2 % 2048, causes := leAt b 14 2, summary := (slice b 16 16).map (fun x => signedOf 8 x.toNat) }
  else none

/-- A part in slot `i` that this module is the destination of: by its span, or by the deputy's copy of a merge part (R438, R452). -/
def State.partMine (s : State) (i : Nat) (p : Part) : Bool :=
  match s.cascade? with
  | none => false
  | some c => c.spans.zipIdx.any (fun si =>
      let sp := si.1
      let me := s.position
      sp.src == p.src && sp.srcPart == p.part &&
        ((sp.dest == me && (if s.ring.onAlt.contains si.2 then sp.altIdx == i else sp.slotIdx == i))
          || (sp.kind == 0 && c.deputy == me && sp.altIdx == i)))

/-- The ports and slot indices by which parts of a source leave this module: on a span's route in force, and on the way of a merge part's
copy to the deputy (R438, R441, R451, R452). -/
def State.partExits (s : State) (c : Cascade) (src part : Nat) : List (Fin 4 × Nat) :=
  c.spans.zipIdx.flatMap (fun si =>
    let sp := si.1
    if sp.src = src ∧ sp.srcPart = part then
      let main := if s.ring.onAlt.contains si.2 then (sp.altIdx, altRouteOf c sp.src sp.dest) else (sp.slotIdx, routeOf c sp.src sp.dest)
      let copy := if sp.kind = 0 ∧ sp.altIdx ≠ 0xFF then [(sp.altIdx, routeOf c sp.src c.deputy)] else []
      (main :: copy).filterMap (fun r => (r.2.find? (fun l => l.1 == s.position)).map (fun l => (Fin.ofNat 4 l.2, r.1)))
    else [])

/-- A part waits for its reserved slot at a port (R444). -/
def State.queuePart (s : State) (p : Fin 4) (i : Nat) (bytes : List Byte) : State :=
  let port : RingPort := s.ring.ports[p]
  s.setPort p { port with slots := port.slots ++ [(i, bytes)] }

/-- A received part that goes on to another module is forwarded unchanged in its slot (R442). -/
def State.forwardPart (s : State) (bytes : List Byte) (i : Nat) : State :=
  match s.cascade?, readPart bytes with
  | some c, some p =>
    if p.src = s.position then s
    else ((s.partExits c p.src p.part).filter (fun x => x.2 == i)).foldl (fun s x => s.queuePart x.1 i bytes) s
  | _, _ => s

/-- RING_FRAME_RECEIVED: up to 15 symbol errors are corrected and counted; an uncorrectable codeword is an error of class 0x0F and its
parts are not valid (R439). -/
def State.ringFrame (s : State) (port : Fin 4) (errors : Nat) (slots : List (List Byte)) : State :=
  let s := ((slots.take 20).zipIdx).foldl (fun s x => s.forwardPart (padTo 32 x.1) x.2) s
  if 15 < errors then
    let s := (s.setFlag RNG_STAT_FEC_UNCORR true).bump RNG_FEC_UNCORR_CNT
    s.detectLane (Fin.ofNat 80 (56 + 4 * port.val)) 0x0F s.count
  else
    let s := s.bumpBy RNG_FEC_CORR_CNT errors
    let got := (slots.take 20).zipIdx.filterMap (fun bi => (readPart bi.1).bind (fun p => if s.partMine bi.2 p then some p else none))
    let live := s.ring.parts.filter (fun p => decide (s.count.toNat < p.hzn.toNat + 8192))
    { s with ring := { s.ring with parts := live ++ got } }

/-- The port carries traffic: its link is up. -/
def State.portLive (s : State) (p : Fin 4) : Bool := s.mod.st.powered && s.mod.st != .fallow && !s.ring.ports[p].down

/-- What waits for the mirroring neighbour becomes messages to it (R336, R338). -/
def State.gatherMirror (s : State) : State :=
  if s.flag AUG_CTL_MIRROR_EN && s.flag RNG_MIRROR_TGT_VALID then
    let q := s.fld RNG_MIRROR_TGT_POSITION
    s.aug.mirrorOut.foldl (fun (s : State) m => match m with
      | .record seq bytes => s.sendMessage 4 q [s.serial, seq.toNat] bytes
      | .ack next => s.sendMessage 4 q [s.serial, next.toNat] []) { s with aug := { s.aug with mirrorOut := [] } }
  else s

def execRingFrameReceived (port : Fin 4) (errors : Nat) (slots : List (List Byte)) (s : State) : Out :=
  .next (if s.portLive port then s.ringFrame port errors slots else s)

/-- Distance from `a` up to `b` modulo 65,536. -/
def seqAhead (a b : Nat) : Nat := (b + 65536 - a % 65536) % 65536

/-- Free the cells that an ACK covers (R440). -/
def RingPort.acked (p : RingPort) (ack : Nat) : RingPort :=
  let left := seqAhead ack p.nextSeq
  if left ≤ p.unacked.length then
    { p with unacked := p.unacked.drop (p.unacked.length - left), sent := p.sent - (p.unacked.length - left) }
  else p

/-- A record mirror message: the record goes into the mirror region, and the sender hears of it (R336); or the host's acknowledgement frees the
mirror copies (R338). -/
def State.mirrorTaken (s : State) (src : Nat) (data : List Byte) : State :=
  match Config.mirrorMessage data with
  | .inr (serial, next) =>
    { s with aug := { s.aug with
        mirror := s.aug.mirror.filter (fun (m : MirrorRec) => !(m.serial.toNat == serial && decide (m.seq.toNat < next))) } }
  | .inl r =>
    let n := r.bytes.length
    let s := { s with aug := { s.aug with
        mirrorAt := (s.aug.mirrorAt + n) % regionBytes
        jobs := s.aug.jobs ++ blockJobs 0 5 (rowsFilled buffersBase regionBytes s.aug.mirrorAt n) s.tim.c
        mirror := s.aug.mirror.filter (fun (m : MirrorRec) => !(m.serial == r.serial && m.seq == r.seq)) ++ [r] } }
    s.sendMessage 5 src [r.serial.toNat, r.seq.toNat] []

/-- Deliver the data of an elastic cell to this module: messages in MSG_SEQ order, duplicates discarded (R440); of a pair the numbers delivered
only rise, so a message that a later one has overtaken is discarded too (log entry 121). The types other than the record mirror act through
rows of their own. -/
def State.ringDeliver (s : State) (b : List Byte) : State :=
  let src := leAt b 5 1 % 64
  let typ := leAt b 6 1
  let first := leAt b 7 1 % 2 = 1
  let last := leAt b 7 1 / 2 % 2 = 1
  let msg := leAt b 10 4
  if decide (msg ≤ (mapFind s.ring.delivered src).getD 0) && (mapFind s.ring.delivered src).isSome then s
  else
    let key := src * 16 + typ % 16
    let data := (if first then [] else (mapFind s.ring.building key).getD []) ++ slice b 16 (min (leAt b 8 2) 316)
    if last then
      let s := { s with ring := { s.ring with
          delivered := mapSet s.ring.delivered src msg, building := mapErase s.ring.building key } }
      if typ = 4 then s.mirrorTaken src data else s
    else { s with ring := { s.ring with building := mapSet s.ring.building key data } }

/-- ELASTIC_CELL_RECEIVED (R440, Table 15.3): a good cell's ACK frees cells; a cell whose SEQ is the next expected is accepted, and is
delivered here or sent on toward its destination. -/
def State.elasticCell (s : State) (port : Fin 4) (cell : List Byte) : State :=
  let b := padTo 336 cell
  if leAt b 332 4 = crc32 (slice b 0 332) then
    let p := (s.ring.ports[port]).acked (leAt b 2 2)
    let s := s.setPort port p
    if leAt b 6 1 = 0 ∨ leAt b 0 2 ≠ p.expected then s
    else
      let s := s.setPort port { p with expected := (p.expected + 1) % 65536 }
      let dest := leAt b 4 1
      if 128 ≤ dest ∨ dest % 64 = s.position then s.ringDeliver b
      else match s.portTo (dest % 64) with
        | some q => s.queueCell q (leAt b 6 1) dest (leAt b 5 1 % 64) (leAt b 7 1) (leAt b 10 4) (slice b 16 (min (leAt b 8 2) 316))
        | none => s
  else s

def execElasticCellReceived (port : Fin 4) (cell : List Byte) (s : State) : Out :=
  .next (if s.portLive port then s.elasticCell port cell else s)

/-- ELASTIC_RETRANSMIT: go-back-N from the first unacknowledged cell (R440). -/
def State.elasticRetry (s : State) (port : Fin 4) : State :=
  let p : RingPort := s.ring.ports[port]
  if p.unacked.isEmpty then s else (s.setPort port { p with sent := 0 }).bump RNG_RETRY_CNT

def execElasticRetransmit (port : Fin 4) (s : State) : Out :=
  .next (if s.portLive port then s.elasticRetry port else s)

/-- A link goes down (R451): nothing is reachable through it, and a route that meets it changes at the next horizon boundary. -/
def State.linkDown (s : State) (port : Fin 4) : State :=
  let p : RingPort := s.ring.ports[port]
  let s := s.setPort port { p with down := true, slots := [] }
  let s := (s.setFlag (portField RNG_PORT_STAT0_DOWN port) true).setFlag (portField RNG_PORT_STAT0_UP port) false
  let s := { s with ring := { s.ring with
      reach := s.ring.reach.set port [], rerouteDue := s.ring.rerouteDue || s.flag RNG_CTL_CASC_EN } }
  s.showReach

def execRingLinkDown (port : Fin 4) (s : State) : Out := .next (if s.portLive port then s.linkDown port else s)

/-- The opposite port: the one a link that leaves by port `p` arrives at (R434). -/
def portAcross (p : Nat) : Nat := if p % 2 = 0 then p + 1 else p - 1

/-- The position a link leads to. -/
def linkEnd (c : Cascade) (l : Nat × Nat) : Nat :=
  let xd := max c.xdim 1
  let yd := max c.ydim 1
  let x := l.1 % xd
  let y := l.1 / xd
  match l.2 with
  | 0 => y * xd + (x + 1) % xd
  | 1 => y * xd + (x + xd - 1) % xd
  | 2 => (y + 1) % yd * xd + x
  | _ => (y + yd - 1) % yd * xd + x

/-- A route meets a link that is down as far as this module sees: one of its own links, or a module it cannot reach. -/
def State.routeBad (s : State) (c : Cascade) (links : List (Nat × Nat)) : Bool :=
  links.any (fun l =>
    (l.1 == s.position && (s.ring.ports[l.2]!).down) || (linkEnd c l == s.position && (s.ring.ports[portAcross l.2]!).down)
      || !s.canReach l.1 || !s.canReach (linkEnd c l))

/-- REROUTE at a horizon boundary: routes that meet a down link take their alternate, the others their primary (R451). -/
def State.rerouteNow (s : State) : State :=
  match s.cascade? with
  | none => { s with ring := { s.ring with rerouteDue := false } }
  | some c =>
    let alt := c.spans.zipIdx.filterMap (fun si =>
      if si.1.altIdx ≠ 0xFF ∧ s.routeBad c (routeOf c si.1.src si.1.dest) then some si.2 else none)
    let changed := (c.spans.zipIdx.filter (fun si => alt.contains si.2 != s.ring.onAlt.contains si.2)).length
    let s := { s with ring := { s.ring with onAlt := alt, rerouteDue := false } }
    let s := s.bumpBy RNG_REROUTE_CNT changed
    if changed = 0 then s else s.setFlag RNG_STAT_REROUTE true

def execReroute (s : State) : Out := .next (if s.ring.rerouteDue && s.atBoundary then s.rerouteNow else s)

/-- A change of this module's role: RNG_ROLE, TAKEOVER, its horizon, EVENT 0x0101 with the role (R452, Table 15.5). -/
def State.changeRole (s : State) (role lead : Nat) : State :=
  let s := (s.setFld RNG_ROLE_ROLE role).setFld RNG_ROLE_LEAD lead
  let s := (s.setFlag RNG_STAT_TAKEOVER true).setReg64 RNG_TAKEOVER_LO s.count
  s.writeEvent 0x0101 [s.mod.st.code, s.mod.st.code, 0, 0, role]

/-- LEAD_TAKEOVER: the deputy takes the lead role at the horizon boundary after the lead is lost (R452). -/
def State.takeLead (s : State) : State :=
  let s := s.changeRole 1 s.position
  let s := { s with ring := { s.ring with leadLost := false, syncOutDue := true } }
  s.sendAll 9 [1, s.position]

def execLeadTakeover (s : State) : Out :=
  .next (if s.ring.leadLost && s.role == 2 && s.atBoundary then s.takeLead else s)

/-- The measured one-way delay of a port's cable (R443): above CABLE_MAX it is refused, and in Growing the port goes down. -/
def State.cableMeasured (s : State) (port : Fin 4) (cable : Nat) : State :=
  let bad := match s.cascade? with | some c => decide (c.cableMax < cable) | none => false
  let s := s.setReg (RNG_CABLE0 + 4 * port) (BitVec.ofNat 32 (min cable 255))
  let s := { s with ring := { s.ring with cables := s.ring.cables.set port (some cable) } }
  let s := s.setFlag (portField RNG_PORT_STAT0_CABLE_BAD port) bad
  if bad && s.mod.st == .growing then s.linkDown port else s

/-- The count of a hello against this module's at the last sync tick (R449): a difference from the lead's is a slip. -/
def State.helloCount (s : State) (src : Nat) (count : U64) : State :=
  let own := s.count.toNat / 65536 * 65536
  if s.flag RNG_CTL_CASC_EN then
    if s.role = 1 then (if count.toNat = own then s else s.setFlag RNG_STAT_COUNT_BAD true)
    else if src = s.fld RNG_ROLE_LEAD then
      if count.toNat = own then { s with ring := { s.ring with countBad := false } }
      else (({ s with ring := { s.ring with countBad := true } } : State).setFlag RNG_STAT_COUNT_BAD true).syncSlip
    else s
  else s

/-- RING_HELLO: cable delay, reachability, the sync count (R443, R449, R451); a module that claims this position (R435). -/
def State.hello (s : State) (port : Fin 4) (src : Nat) (count : U64) (reach : List Nat) (cable : Nat) : State :=
  let s := s.cableMeasured port cable
  let s := { s with ring := { s.ring with
      reach := s.ring.reach.set port ((src :: reach).filter (fun q => q != s.position))
      dupPos := s.ring.dupPos || (s.flag RNG_CTL_CASC_EN && src == s.position) } }
  s.showReach.helloCount src count

def execRingHello (port : Fin 4) (src : Fin 64) (count : U64) (reach : List (Fin 64)) (cable : Nat) (s : State) : Out :=
  .next (if s.portLive port then s.hello port src count (reach.map Fin.val) cable else s)

/-- A write of HZN_LAUNCH_HI (R55, R450): at a module that is not the lead of its cascade it is ignored; the lead refuses less than
4,096 ticks ahead and waits for its members' answers. -/
def State.launchWrite (s : State) (v : Word) : State :=
  if s.flag RNG_CTL_CASC_EN && s.role != 1 then s.setFlag RNG_STAT_LOCAL_LAUNCH true
  else
    let s := s.setReg HZN_LAUNCH_HI v
    let h := s.reg64 HZN_LAUNCH_LO
    if s.flag RNG_CTL_CASC_EN then
      if s.commitCode h ≠ 0 then (s.commitLaunch h).setReg RNG_LAUNCH 1
      else if decide (h.toNat < s.count.toNat + 4096) then (s.setFlag HZN_STAT_LAUNCH_PEND false).setReg RNG_LAUNCH 1
      else
        let s := (s.commitLaunch h).setReg RNG_LAUNCH 0
        ({ s with ring := { s.ring with confirmed := [], launchOpen := true } } : State).sendAll 7 [0, h.toNat]
    else s.commitLaunch h

def execLaunchCommit (path : Path) (value : Word) (s : State) : Out :=
  .next (s.via path HZN_LAUNCH_HI (fun s => s.launchWrite value))

/-- LAUNCH_MESSAGE (R450): a member commits the lead's horizon and answers, or cancels it; the lead notes an answer. -/
def State.launchMessage (s : State) (src : Nat) (h : U64) (msg : LaunchMsg) : State :=
  let fromLead := s.role != 1 && src == s.fld RNG_ROLE_LEAD
  match msg with
  | .commit =>
    if fromLead then
      let s := s.commitLaunch h
      s.sendMessage 7 src [2, h.toNat, (s.flag HZN_STAT_LAUNCH_PEND && s.hz.launchAt == h).toNat] []
    else s
  | .cancel => if fromLead then s.setFlag HZN_STAT_LAUNCH_PEND false else s
  | .answer ok =>
    if s.role == 1 && ok && s.ring.launchOpen && h == s.hz.launchAt && !s.ring.confirmed.contains src then
      { s with ring := { s.ring with confirmed := s.ring.confirmed ++ [src] } }
    else s

def execLaunchMessage (src : Fin 64) (hzn : U64) (msg : LaunchMsg) (s : State) : Out :=
  .next (if s.flag RNG_CTL_CASC_EN && s.mod.st.serving then s.launchMessage src hzn msg else s)

/-- LAUNCH_CONFIRM_DEADLINE (R450): a position without an accepted answer cancels the launch on every module. -/
def State.confirmDeadline (s : State) : State :=
  let n := match s.cascade? with | some c => c.xdim * c.ydim | none => 1
  let s := { s with ring := { s.ring with launchOpen := false } }
  match (List.range n).find? (fun q => q != s.position && !s.ring.confirmed.contains q) with
  | none => s
  | some q =>
    let s := (s.setFlag HZN_STAT_LAUNCH_PEND false).setReg RNG_LAUNCH (BitVec.ofNat 32 (q * 256 + 2))
    s.sendAll 7 [1, s.hz.launchAt.toNat]

def execLaunchConfirmDeadline (s : State) : Out :=
  .next (if s.role == 1 && s.ring.launchOpen && s.flag HZN_STAT_LAUNCH_PEND
      && decide (s.hz.launchAt.toNat ≤ s.count.toNat + 1024) then s.confirmDeadline else s)

/-- ROLE_CHANGE_MESSAGE (R452, Table 15.5): the new lead is noted; of two that claim the role the lower position keeps it. -/
def State.roleMessage (s : State) (src : Nat) : State :=
  if s.role = 1 then (if src < s.position then s.changeRole 3 src else s)
  else ({ s with ring := { s.ring with leadLost := false } } : State).setFld RNG_ROLE_LEAD src

def execRoleChangeMessage (src : Fin 64) (s : State) : Out :=
  .next (if s.flag RNG_CTL_CASC_EN && s.mod.st.powered then s.roleMessage src else s)

end Sys2Proof.Machine
end

