-- ==== Sys2Proof/Machine/Auger.lean ====
section
/-!
DEFINITION. The record commands (chapter 10): record entries (R24, R320 to R326), the record hold (R341), seals (R332, R334),
acknowledgements (R338, R467), mirroring (R336, R337) and forwarding (R340).
-/
namespace Sys2Proof.Machine

/-- FLAGS of a frame's record (Table 10.3). -/
def Frame.flags (f : Frame) : BitVec 16 :=
  BitVec.ofNat 16 (f.warm.toNat + f.clamp.toNat * 2 + f.sat.toNat * 4 + f.loose.toNat * 8 + f.mirror.toNat * 16 + f.dflt.toNat * 32)

/-- A cause list in 4-bit fields, ascending from bits [3:0] (R321). -/
def causeWord : List Nat → Nat
  | [] => 0
  | c :: rest => c + 16 * causeWord rest

/-- CAUSES of a RUN record (Table 10.5). -/
def Frame.runCauses (f : Frame) : BitVec 16 :=
  BitVec.ofNat 16 (((causeList f.qCauses).map (fun c => 2 ^ c)).sum + ((causeList f.sCauses).map (fun c => 2 ^ (c + 8))).sum)

/-- The input CRC of a frame (R299, R446). -/
def Frame.inputCrc (f : Frame) : U64 := BitVec.ofNat 64 (crc64 f.payload)

/-- The frame is accepted by its verdict (R322) or chosen by the tally sampler (R24): it takes a FRAME record. -/
def Frame.needsRecord (f : Frame) : Bool :=
  f.tally || (if f.hasSettled then f.settled.getLsbD 0 else f.quick.getLsbD 0)

/-- The FRAME record of a frame (Table 10.4). -/
def Frame.record (f : Frame) : Record :=
  { flags := f.flags
    lane := BitVec.ofNat 8 (f.slot % 8)
    body := .frame {
      hzn := f.hzn
      slot := BitVec.ofNat 8 (bedSlot f.layoutBed f.slot)
      phase := BitVec.ofNat 8 (f.phase % 16)
      quick := f.quick
      settled := if f.hasSettled then f.settled else 0
      epoch := BitVec.ofNat 16 f.epoch
      qCauses := BitVec.ofNat 32 (causeWord (causeList f.qCauses))
      sCauses := BitVec.ofNat 32 (causeWord (causeList f.sCauses))
      inputCrc := f.inputCrc
      imageIndex := BitVec.ofNat 16 f.imageIndex
      length := BitVec.ofNat 16 f.length
      lag := BitVec.ofNat 32 (f.lag % 2 ^ 20)
      summary := f.summary.map (BitVec.ofInt 8)
      context := f.package.take 64 } }

/-- Write the normalisation pair of a frame where one is due (R298). -/
def State.normPair (s : State) (f : Frame) : State :=
  let key := bedSlot f.layoutBed f.slot
  let table := slice f.package 64 64
  let entry := leBytes 8 (f.hzn.toNat / 2 ^ 24) ++ table
  if f.fromLoess ∧ mapFind s.aug.normLog key ≠ some entry then
    let s := s.writePair 0x040A f.hzn (f.slot % 8) key table
    { s with aug := { s.aug with normLog := mapSet s.aug.normLog key entry } }
  else s

/-- The open run of a slot takes one more frame, or a new one begins (R325). -/
def State.intoRun (s : State) (f : Frame) : State :=
  let key := bedSlot f.layoutBed f.slot
  let fresh : OpenRun := { flags := f.flags, start := f.hzn, count := 0, qAccepts := 0, phase := BitVec.ofNat 8 (f.phase % 16)
                           causes := f.runCauses, crcs := [] }
  let joins := match mapFind s.aug.runs key with
    | some r => decide (r.flags = f.flags ∧ r.causes = f.runCauses ∧ r.phase = fresh.phase ∧ f.hzn.toNat = r.start.toNat + r.count)
    | none => false
  let s := if joins then s else s.closeRun key
  let r : OpenRun := (mapFind s.aug.runs key).getD fresh
  let r := { r with count := r.count + 1, qAccepts := r.qAccepts + (f.quick.getLsbD 0).toNat, crcs := r.crcs ++ [f.inputCrc] }
  let s := { s with aug := { s.aug with runs := mapSet s.aug.runs key r } }
  if r.count = 65535 then s.closeRun key else s

/-- Runs of which a tick before `h` has passed with no accepted frame in their slot close, in ascending layout bed and slot: the tick after
their last frame lies before `h` and has no frame that still waits for its entry (R325; DEDUCED, log entry 123). -/
def State.closeStale (s : State) (h : Nat) : State :=
  let stale := fun (x : Nat × OpenRun) =>
    let t := x.2.start.toNat + x.2.count
    decide (t < h) && !s.fast.frames.any (fun (f : Frame) => bedSlot f.layoutBed f.slot == x.1 && f.hzn.toNat == t && !f.recorded)
  ((s.aug.runs.filter stale).map Prod.fst).foldl State.closeRun s

/-- RECORD_ENTRY: a FRAME record, after the run it closes and its normalisation pair, or one more frame of a run (R24, R298, R325). A record
made in loose mode, or in the ticks after it that R263 names, carries LOOSE. -/
def State.writeEntry (s : State) (f : Frame) : State :=
  let s := s.closeDueSeal.closeStale f.hzn.toNat
  let f := { f with loose := f.loose || s.looseNow }
  let s := if f.needsRecord then
      let s := (s.closeRun (bedSlot f.layoutBed f.slot)).normPair f
      s.numberRec f.record
    else s.intoRun f
  let s := s.updFrame f.layoutBed f.slot f.hzn (fun x => { x with recorded := true })
  (s.purge).checkTail

/-- The entry of a frame may be written: its verdicts exist, and it has not been written (R24). -/
def Frame.entryReady (f : Frame) : Bool := f.exited && f.settledDone && !f.recorded

def execRecordEntry (bed : Fin 4) (slot : Fin 64) (hzn : U64) (s : State) : Out :=
  .next (match s.frame? bed slot hzn with
    | some f => if f.entryReady && s.canNumber then s.writeEntry f else s
    | none => s)

/-- RECORD_HOLD_RELEASE: at a horizon boundary with at most 256 MiB of the tail in use acceptance resumes; EVENT 0x0801 names the ticks
held (R341). -/
def State.releaseHold (s : State) (first : U64) : State :=
  let s := { s with aug := { s.aug with hold := none } }
  let s := (s.setFlag AUG_STAT_HOLD false).bump AUG_HOLD_CNT
  (s.writeEventAt 0x0801 first 0 [first.toNat, s.count.toNat - 1]).driveHold

def execRecordHoldRelease (s : State) : Out :=
  .next (match s.aug.hold with
    | some first => if s.atBoundary && decide (s.aug.used ≤ 256 * 2 ^ 20) then s.releaseHold first else s
    | none => s)

/-- SEAL_CLOSE: the seal that is due closes (R332). -/
def execSealClose (s : State) : Out := .next s.closeDueSeal

/-- A write of 1 to SEAL_NOW (R332). -/
def State.sealRequest (s : State) : State := { s with aug := s.aug.sealFalls 3 }

def execSealNow (path : Path) (s : State) : Out := .next (s.via path AUG_CTL (fun s => s.sealRequest))

/-- Put the signature into the first unsigned seal of the tail (R334). -/
def signFirst : List TailRec → List TailRec
  | [] => []
  | t :: rest =>
    match t.record.body with
    | .close b =>
      if b.signature.isNone then
        let text := (recBytes t.record).take 512
        { t with record := { t.record with body := .close { b with signature := some ((List.range 512).map (Config.attSign text)) } } } :: rest
      else t :: signFirst rest
    | _ => t :: signFirst rest

/-- The signed seals that the mirroring neighbour holds without their signature (R336). -/
def Aug.newlySigned (a : Aug) (was : List TailRec) : List MirrorOut :=
  (a.tail.filter (fun t => !t.unsigned && was.any (fun w => w.seq == t.seq && w.unsigned))).map (fun t => .record t.seq (recBytes t.record))

/-- SEAL_SIGNED: the signature is written, and a mirrored seal is sent again with it (DEDUCED, log entry 122); a failed known-answer check is an error of class 0x11, and the seal stays unsigned (R334,
Table 11.1). With the RSA engine degraded no seal is signed (R354). -/
def State.sealSigned (s : State) (good : Bool) : State :=
  if good then
    let was := s.aug.tail
    let s := { s with aug := { s.aug with tail := signFirst s.aug.tail } }
    let s := if s.mirrored then { s with aug := { s.aug with mirrorOut := s.aug.mirrorOut ++ s.aug.newlySigned was } } else s
    let s := { s with aug := s.aug.release }
    s.setFlag AUG_STAT_SIGN_BUSY (s.aug.tail.any TailRec.unsigned)
  else s.detect rsaUnit 0x11 s.count 0

def execSealSigned (good : Bool) (s : State) : Out :=
  .next (if s.aug.running && !s.aug.rsaFailed && s.aug.tail.any TailRec.unsigned then s.sealSigned good else s)

/-- MIRROR_ACK: the neighbour has stored the record; its number is assigned. After a timeout the neighbour's answer brings mirroring
back, the whole unacknowledged tail is mirrored, and the acknowledgement itself is discarded (R336, R337, Table 10.9). -/
def State.mirrorAcked (s : State) (seq : U64) : State :=
  if s.aug.unmirrored then
    let s := { s with aug := { s.aug with unmirrored := false } }
    ((s.setFlag AUG_STAT_UNMIRRORED false).mirrorTail).writeEvent 0x0804 [0]
  else if s.aug.assigned.toNat ≤ seq.toNat ∧ seq.toNat < s.aug.nextSeq.toNat then
    { s with aug := { s.aug with assigned := seq + 1 } }
  else s

def execMirrorAck (seq : U64) (s : State) : Out :=
  .next (if s.aug.running && s.flag AUG_CTL_MIRROR_EN && s.flag RNG_MIRROR_TGT_VALID then s.mirrorAcked seq else s)

/-- MIRROR_TIMEOUT: numbers are assigned at their tail write; UNMIRRORED, EVENT 0x0804 (R337). -/
def State.mirrorExpired (s : State) : State :=
  let s := { s with aug := { s.aug with unmirrored := true, assigned := s.aug.nextSeq } }
  (s.setFlag AUG_STAT_UNMIRRORED true).writeEvent 0x0804 [1]

def execMirrorTimeout (s : State) : Out :=
  .next (if s.aug.running && s.mirrored && decide (s.aug.assigned.toNat < s.aug.nextSeq.toNat) then s.mirrorExpired else s)

/-- The records forwarded after the last SEAL of a lost module that the mirror holds (R340). -/
def afterSeal (rs : List MirrorRec) : List MirrorRec := rs.foldl (fun acc r => if r.isSeal then [] else acc ++ [r]) []

/-- ORPHAN_TAIL_FORWARD: the lost module's records go to the host in sequence order, and the orphan tail close pair follows (R340). -/
def State.forwardOrphan (s : State) (serial : U64) (rs : List MirrorRec) : State :=
  let value := sha512 ((afterSeal rs).flatMap (fun r => leBytes 8 r.seq.toNat ++ r.bytes))
  let s := { s with hst := { s.hst with forward := s.hst.forward ++ rs.map (fun (r : MirrorRec) => (serial, r.seq)) } }
  let s := (s.bumpBy AUG_ORPHAN_CNT rs.length).setFlag AUG_STAT_ORPHAN true
  s.writePair 0x0803 s.count 0 serial.toNat value

/-- Insert a mirrored record in sequence order. -/
def mirrorInsert (r : MirrorRec) : List MirrorRec → List MirrorRec
  | [] => [r]
  | q :: rest => if r.seq.toNat < q.seq.toNat then r :: q :: rest else q :: mirrorInsert r rest

def execOrphanTailForward (serial : U64) (s : State) : Out :=
  let rs := (s.aug.mirror.filter (fun r => r.serial == serial)).foldl (fun acc r => mirrorInsert r acc) []
  let sent := s.hst.forward.any (fun f => f.1 == serial)
  .next (if s.aug.running && !rs.isEmpty && !sent then s.forwardOrphan serial rs else s)

/-- REC_ACK: the own serial's acknowledgement moves on and frees the tail; an unassigned number is ignored with ACK_BAD; a forwarded
serial's frees the mirror (R338, R342, R467). -/
def State.recordsTaken (s : State) (next serial : U64) : State :=
  if serial.toNat = s.serial ∨ serial = 0 then
    if next.toNat ≤ s.aug.ack.toNat then s
    else if s.aug.assigned.toNat < next.toNat then s.setFlag AUG_STAT_ACK_BAD true
    else
      let s := { s with aug := ({ s.aug with ack := next } : Aug).release }
      if s.mirrored then { s with aug := { s.aug with mirrorOut := s.aug.mirrorOut ++ [.ack next] } } else s
  else
    { s with
      aug := { s.aug with mirror := s.aug.mirror.filter (fun (r : MirrorRec) => !(r.serial == serial && decide (r.seq.toNat < next.toNat))) }
      hst := { s.hst with forward := s.hst.forward.filter (fun (f : U64 × U64) => !(f.1 == serial && decide (f.2.toNat < next.toNat))) } }

end Sys2Proof.Machine
end

