-- ==== Sys2Proof/Machine/Fabric.lean ====
section
/-!
DEFINITION. The fabric of a bed (chapters 3 to 5): port words and their checks, the paths of words through route tables, the operations of
grains, steering units, and the words that the exit unit and the span ports take from one frame.
-/
namespace Sys2Proof.Machine

/-! Port words -/

/-- Even parity bit over the low `w` bits of a number. -/
def parityBit (n w : Nat) : Nat := ((List.range w).map (fun i => n / 2 ^ i % 2)).sum % 2

/-- CHECK: bit i is the even parity over data quarter i, [15:0] for bit 0 up to [63:48] for bit 3 (Table 3.5). -/
def checkBits (data : Nat) : Nat := ((List.range 4).map (fun i => parityBit (data / 2 ^ (16 * i)) 16 * 2 ^ i)).sum

/-- The port word of a tag: CHECK [23:20], SBPAR [19], rsvd [18:17] sent zero, TAG [16:1], VALID [0] (Table 3.5). -/
def PortWord.form (valid : Bool) (tag data : Nat) : PortWord :=
  let low := valid.toNat + tag % 2 ^ 16 * 2
  ⟨BitVec.ofNat 64 data, BitVec.ofNat 24 (low + parityBit low 19 * 2 ^ 19 + checkBits data * 2 ^ 20)⟩

/-- A null word (R93). -/
def PortWord.null : PortWord := .form false 0 0

/-- VALID of a port word. -/
def PortWord.valid (w : PortWord) : Bool := w.side.getLsbD 0

/-- TAG of a port word. -/
def PortWord.tag (w : PortWord) : Nat := bitsOf w.side.toNat 1 16

/-- CHECK and SBPAR of a received word hold (R90); the reserved bits stand under SBPAR and are otherwise ignored. -/
def PortWord.intact (w : PortWord) : Bool :=
  bitsOf w.side.toNat 20 4 == checkBits w.data.toNat && bitsOf w.side.toNat 19 1 == parityBit w.side.toNat 19

/-- The 8 bytes of a port word, as int8 elements; a null word gives zeros (R93). -/
def PortWord.elems (w : PortWord) : List Int :=
  (List.range 8).map (fun i => if w.valid then signedOf 8 (bitsOf w.data.toNat (8 * i) 8) else 0)

/-- The 16 graded codes of a port word, element 2k in the low half of byte k (R139). -/
def PortWord.codes (w : PortWord) : List Nat := (List.range 16).map (fun i => bitsOf w.data.toNat (4 * i) 4)

/-- Data bits of int8 elements, element 0 in byte 0. -/
def packElems (v : List Int) : Nat := leNat (v.map (BitVec.ofInt 8))

/-- Graded codes packed two per byte; an odd length leaves the last high half zero (R139). -/
def packCodes : List Nat → List Int
  | [] => []
  | [c] => [(c : Int)]
  | c :: d :: rest => signedOf 8 (c + 16 * d) :: packCodes rest

/-- Elements cut into words of 8. -/
def cutWords : Nat → List Int → List (List Int)
  | 0, _ => []
  | n + 1, v => if v.isEmpty then [] else v.take 8 :: cutWords n (v.drop 8)

/-! Paths of words -/

/-- Where a word on a port comes from: nowhere, a grain's compute output at an fc, the west edge of a row at an fc. -/
inductive Origin where
  | null
  | compute (grain fc : Nat)
  | west (row fc : Nat)
deriving DecidableEq, Repr, Inhabited

/-- The word that the sender on a side of a grain held at an fc; `held` answers for an output port of another grain. Sides are numbered as
SOURCE: 2 north, 3 east, 4 south, 5 west; `u` is the number of logical columns. The north edge of row 0 and the south edge of row 31 send
null words (R93), and so does the east edge. -/
def sideOrigin (u : Nat) (held : Nat → Nat → Nat → Origin) (g side fc : Nat) : Origin :=
  match side with
  | 2 => if g < 64 then .null else held (g - 64) 2 fc
  | 3 => if g % 64 + 1 < u then held (g + 1) 3 fc else .null
  | 4 => if g < 31 * 64 then held (g + 64) 0 fc else .null
  | 5 => if g % 64 = 0 then .west (g / 64) fc else held (g - 1) 1 fc
  | _ => .null

/-- The word in the output register of a port (0 N, 1 E, 2 S, 3 W) at an fc: the route of its slot names null, the compute output, or a side
at a tap, whose sender held the word `tap` fc before (R91, R92). The fuel bounds the grains on the way. -/
def Network.held (n : Network) (ii u : Nat) : Nat → Nat → Nat → Nat → Origin
  | 0, _, _, _ => .null
  | k + 1, g, port, fc =>
    match n.routes.find? (fun r => r.grain == g && r.port == port && r.slot == fc % max ii 1) with
    | none => .null
    | some r =>
      if r.source = 1 then .compute g fc
      else if 1 ≤ r.tap ∧ r.tap ≤ 32 ∧ r.tap ≤ fc then sideOrigin u (n.held ii u k) g r.source (fc - r.tap)
      else .null

/-- The word in a grain's receive register of a side at an fc: what the sender held one fc before (R82). -/
def Network.received (n : Network) (ii u g side fc : Nat) : Origin :=
  if fc = 0 then .null else sideOrigin u (n.held ii u fc) g side (fc - 1)

/-- The word on the east port of a row's last column at an fc (R103, R105). -/
def Network.eastPort (n : Network) (ii u row fc : Nat) : Origin := n.held ii u (fc + 1) (row * 64 + (u - 1)) 1 fc

/-- The sides whose words the compute input select takes in the slot of an fc (R92). -/
def Network.select (n : Network) (ii g fc : Nat) : List Nat :=
  ((n.selects.find? (fun x => x.grain == g && x.slot == fc % max ii 1)).map Select.ports).getD []

/-! One frame in a bed -/

/-- Where a word of the frame was put, other than by a route. -/
inductive Place where
  /-- a grain's compute output -/
  | output (grain : Nat)
  /-- the west edge of a row, by an edge return (R105) -/
  | west (row : Nat)
  /-- the exit unit, by the steering unit of a row -/
  | exit (row : Nat)
  /-- a span port -/
  | span (port : Nat)
deriving DecidableEq, Repr, Inhabited

/-- A fault that the frame meets in the fabric (R90, R95, R108). -/
inductive FabricFault where
  | parity (grain : Nat)
  | occupancy (grain : Nat)
  | exitParity
  | exitOccupancy
  | steering (row : Nat)
deriving DecidableEq, Repr, Inhabited

/-- What a bed computes a frame with. -/
structure NetEnv where
  net : Network
  bank : Map Byte
  /-- the weight latches of the MAC arrays, which serve at II = 1 (R87) -/
  latches : Map Byte
  ii : Nat
  /-- logical columns served -/
  cols : Nat
  keys : Keys
  layoutBed : Nat
  slot : Nat
  hzn : Nat
  /-- what the entry unit drives onto the west ports, and the bytes in the order of the entry map (R100) -/
  map : List EntryByte
  entry : List Byte
  /-- a span word that comes in through a port at an fc: the word, or the part's compiled default (R122, R123) -/
  span : Nat → Nat → Option PortWord
  /-- grains whose received words have a bit turned over (class 0x03) -/
  upset : List Nat
  /-- rows whose steering unit fails on this frame (R108) -/
  unsteered : List Nat

/-- A frame's passage so far: words put down, link words, staging bytes, stochastic consumers and saturation events by grain, faults. -/
structure NetRun where
  words : List ((Place × Nat) × PortWord)
  links : List ((Nat × Nat) × List (BitVec 64))
  staged : Map Byte
  consumers : Map Nat
  events : Map Nat
  faults : List FabricFault
deriving DecidableEq, Repr, Inhabited

/-- The frame's tag (R53). -/
def NetEnv.tag (e : NetEnv) : Nat := e.hzn % 1024 * 64 + e.slot

/-- The word put down at a place and fc. -/
def NetRun.word? (r : NetRun) (p : Place) (fc : Nat) : Option PortWord :=
  (r.words.find? (fun x => x.1 == (p, fc))).map Prod.snd

/-- The word that the entry unit drives onto a row in a slot; a slot without bytes is null (R100). -/
def NetEnv.entryWord (e : NetEnv) (row fc : Nat) : PortWord :=
  let here := (e.map.zip e.entry).filter (fun x => x.1.row == row && x.1.slot == fc)
  if here.isEmpty then .null
  else .form true e.tag (leNat ((List.range 8).map (fun i => ((here.find? (fun x => x.1.lane == i)).map Prod.snd).getD 0)))

/-- The word on the west port of column 0 of a row: a span word of rows 24 to 31 (R122), an edge return (R105), or the entry unit's. -/
def NetEnv.westWord (e : NetEnv) (r : NetRun) (row fc : Nat) : PortWord :=
  match (if 24 ≤ row then e.span (row - 24) fc else none) with
  | some w => w
  | none => (r.word? (.west row) fc).getD (e.entryWord row fc)

/-- The word of an origin. -/
def NetEnv.wordOf (e : NetEnv) (r : NetRun) (o : Origin) : PortWord :=
  match o with
  | .null => .null
  | .compute g fc => (r.word? (.output g) fc).getD .null
  | .west row fc => e.westWord r row fc

/-- The word in a grain's receive register, with the upset that a class 0x03 error stands for. -/
def NetEnv.receive (e : NetEnv) (r : NetRun) (g side fc : Nat) : PortWord :=
  let w := e.wordOf r (e.net.received e.ii e.cols g side fc)
  if e.upset.contains g then { w with data := w.data ^^^ 1 } else w

/-- `n` bytes of a grain's bank as an unsigned little-endian number. -/
def NetEnv.bankNat (e : NetEnv) (g off n : Nat) : Nat := leNat (bytesAt zeroByte e.bank (g * 16384 + off) n)

/-- A grading table of a grain's table slots (R135, R138). -/
def NetEnv.levels (e : NetEnv) (g : Nat) (slot : Fin 8) : List Int :=
  match (e.net.tables.find? (fun t => t.grain == g)).bind (fun t => t.grading[slot.val]?) with
  | some off => (bytesAt zeroByte e.bank (g * 16384 + off) 16).map (fun b => signedOf 8 b.toNat)
  | none => []

/-- The activation tables of a grain, in slot order (R177). -/
def NetEnv.acts (e : NetEnv) (g : Nat) : List ActTable :=
  ((e.net.tables.find? (fun t => t.grain == g)).map GrainTables.act).getD [] |>.map (fun off =>
    (List.range 64).map (fun i => actSegment (e.bankNat g (off + 4 * i) 4)))

/-- The weight in one of a grain's 128 × II weight slots: int8, or a graded code decoded by the row's table (R98, R138, R139). At II = 1 the
latches give it (R87). -/
def NetEnv.weight (e : NetEnv) (g : Nat) (graded : Option (Fin 8)) (i : Nat) : Int :=
  let at_ := fun (k : Nat) => (mapGet zeroByte (if e.ii = 1 then e.latches else e.bank) (g * 16384 + e.net.weightBase g + k)).toNat
  if 128 * e.ii ≤ i then 0
  else match graded with
    | none => signedOf 8 (at_ i)
    | some t => gradeDecode (e.levels g t) (at_ (i / 2) / 16 ^ (i % 2) % 16)

/-- The elements of a take (R93, R137 to R140). -/
def NetEnv.take (e : NetEnv) (r : NetRun) (g : Nat) (t : Take) : List Int :=
  match t.src with
  | .ports fc =>
    let ws := (e.net.select e.ii g fc).map (fun side => e.receive r g side fc)
    match t.graded with
    | none => ws.flatMap PortWord.elems
    | some k => ws.flatMap (fun w => w.codes.map (fun c => if w.valid then gradeDecode (e.levels g k) c else 0))
  | .staged off len =>
    let bs := (bytesAt zeroByte r.staged (g * 16384 + off) len).map BitVec.toNat
    match t.graded with
    | none => bs.map (signedOf 8)
    | some k => bs.flatMap (fun b => [gradeDecode (e.levels g k) (b % 16), gradeDecode (e.levels g k) (b / 16)])

/-- The elements of several takes, in their order. -/
def NetEnv.takes (e : NetEnv) (r : NetRun) (g : Nat) (ts : List Take) : List Int := ts.flatMap (e.take r g)

/-- The faults that a grain finds on the words of a take: parity (R90), a VALID value that its schedule does not expect (R95). -/
def NetEnv.takeFaults (e : NetEnv) (r : NetRun) (g : Nat) (t : Take) : List FabricFault :=
  match t.src with
  | .staged _ _ => []
  | .ports fc => (e.net.select e.ii g fc).flatMap (fun side =>
      let w := e.receive r g side fc
      if !w.intact then [.parity g] else if t.valid == some (!w.valid) then [.occupancy g] else [])

/-- A draw of stochastic consumer `c` of a grain (R184 to R186). -/
def NetEnv.draw (e : NetEnv) (g c : Nat) : Nat := drawU e.keys.rounding e.hzn e.slot (e.layoutBed * 2048 + g) c

/-! Operations of a grain -/

/-- A mask of 16 bits as its two bytes. -/
def maskElems (m : Nat) : List Int := [signedOf 8 (m % 256), signedOf 8 (m / 256 % 256)]

/-- A list in sort output form: the values, then their 4-bit indices packed two per byte (Table 5.4). -/
def sortForm (l : List (Int × Nat)) : List Int := l.map Prod.fst ++ packCodes (l.map Prod.snd)

/-- The list that a sort output of `n` entries holds. -/
def readSorted (n : Nat) (v : List Int) : List (Int × Nat) :=
  List.zip (v.take n) ((v.drop n).flatMap (fun b => let k := (BitVec.ofInt 8 b).toNat; [k % 16, k / 16]))

/-- The takes of an operation. -/
def GrainOp.takes (o : GrainOp) : List Take :=
  match o with
  | .mac _ _ steps => steps.flatMap (fun s => match s with
      | .vec inp _ => inp
      | .close _ => []
      | .residual _ inp _ _ => [inp])
  | .marl inp _ => inp
  | .threshold inp _ => inp
  | .window inp _ _ => inp
  | .localMax inp _ => inp
  | .sort inp => inp
  | .merge x y _ => x ++ y
  | .move inp => inp

/-- One step of a MAC path on all rows of a grain (R165). -/
def NetEnv.macStep (e : NetEnv) (r : NetRun) (g : Nat) (rows : List MacRow) (lanes : List MacLane) (st : MacStep) : List MacLane :=
  match st with
  | .vec inp word =>
    let a := (e.takes r g inp).take 16
    (rows.zip lanes).zipIdx.map (fun x =>
      x.1.2.vec (rowDesc x.1.1.desc).zpW a ((List.range 16).map (fun c => e.weight g x.1.1.graded (128 * word + 16 * x.2 + c))))
  | .close scales => lanes.zipIdx.map (fun x => x.1.close (scaleOf (e.bankNat g (scales.getD x.2 0) 4)))
  | .residual row inp elem scaleAt => lanes.zipIdx.map (fun x =>
      if x.2 = row then x.1.residual ((e.take r g inp).getD elem 0) inp.zp.toInt (scaleOf (e.bankNat g scaleAt 4)) else x.1)

/-- The rows of a grain before its first step: row offset words in the chain's first grain, link words in the others (R171). -/
def NetEnv.macStart (e : NetEnv) (r : NetRun) (g : Nat) (rows : List MacRow) (west : Option Nat) : List MacLane :=
  match west with
  | none => rows.map (fun x => ⟨0, signedOf 40 (e.bankNat g x.offsetAt 8 % 2 ^ 40), 0⟩)
  | some fc =>
    let ws := if g % 64 = 0 ∨ fc = 0 then [] else ((r.links.find? (fun x => x.1 == (g - 1, fc - 1))).map Prod.snd).getD []
    (List.range rows.length).map (fun k => MacLane.ofWord (ws.getD k 0))

/-- The rows of a grain after its last step. -/
def NetEnv.macLanes (e : NetEnv) (r : NetRun) (g : Nat) (rows : List MacRow) (west : Option Nat) (steps : List MacStep) : List MacLane :=
  steps.foldl (e.macStep r g rows) (e.macStart r g rows west)

/-- The rows that round stochastically, as consumer numbers from `c` on, in schedule order (R186). -/
def rowConsumers : List MacRow → Nat → List Nat
  | [], _ => []
  | x :: rest, c => c :: rowConsumers rest (if (rowDesc x.desc).sr then c + 1 else c)

/-- Stochastic consumers among the narrowings of an operation. -/
def GrainOp.narrowDraws (o : GrainOp) (out : GrainOut) : Nat :=
  match o, out with
  | .mac _ _ _, .link _ => 0
  | .mac rows _ _, _ => (rows.filter (fun x => (rowDesc x.desc).sr)).length
  | _, _ => 0

/-- The outputs of an operation before the encoder, with its saturation events (R150, R165, R174, R180). `c` is the number of the grain's
next stochastic consumer. -/
def NetEnv.compute (e : NetEnv) (r : NetRun) (g : Nat) (o : GrainOp) (out : GrainOut) (c : Nat) : List Int × Nat :=
  let v := e.takes r g
  match o with
  | .mac rows west steps =>
    let lanes := e.macLanes r g rows west steps
    let ev := (lanes.map MacLane.events).sum
    match out with
    | .link _ => ([], ev)
    | _ =>
      let ys := ((rows.zip lanes).zip (rowConsumers rows c)).map (fun x =>
        narrow x.1.2.acc (rowDesc x.1.1.desc) (e.acts g) (e.draw g x.2))
      (ys.map Prod.fst, ev + (ys.map Prod.snd).sum)
  | .marl inp desc => marl (v inp) (marlDesc desc) e.keys.marl
  | .threshold inp t => (maskElems (thresholdMask (v inp) t.toInt), 0)
  | .window inp w wsh => windowSums (v inp) w wsh
  | .localMax inp fcs =>
    let side := fun (k : Nat) => fcs.flatMap (fun fc =>
      let w := e.receive r g k fc
      if w.valid then w.elems else List.replicate 8 (-128))
    (maskElems (localMaxMask (v inp) (side 2) (side 5) (side 4) (side 3)), 0)
  | .sort inp => (sortForm (sort16 (v inp)), 0)
  | .merge x y k => (sortForm (mergeTopK k (readSorted 16 (v x)) (readSorted 16 (v y))), 0)
  | .move inp => (v inp, 0)

/-- The grading encoder, stage P12: packed codes, saturation events, consumers taken (R139, R141 to R143, R186). -/
def NetEnv.encode (e : NetEnv) (g : Nat) (how : Option (Fin 8 × Bool)) (c : Nat) (v : List Int) : List Int × Nat × Nat :=
  match how with
  | none => (v, 0, 0)
  | some (slot, stochastic) =>
    let lv := e.levels g slot
    let out := v.zipIdx.map (fun x => if stochastic then gradeEncodeStochastic x.1 lv (e.draw g (c + x.2)) else gradeEncodeNearest x.1 lv)
    (packCodes (out.map Prod.fst), (out.map Prod.snd).sum, if stochastic then v.length else 0)

/-- One entry of a grain's schedule (R165, R173, R186, R188). -/
def NetEnv.grainStep (e : NetEnv) (r : NetRun) (x : GrainStep) : NetRun :=
  let g := x.grain
  let c := mapGet 0 r.consumers g
  let y := e.compute r g x.op x.out c
  let c := c + x.op.narrowDraws x.out
  let z := e.encode g x.encode c y.1
  let r := { r with
    consumers := mapSet r.consumers g (c + z.2.2)
    events := mapSet r.events g (mapGet 0 r.events g + y.2 + z.2.1)
    faults := r.faults ++ x.op.takes.flatMap (e.takeFaults r g) }
  match x.out with
  | .port fc => { r with words := r.words ++ (cutWords z.1.length z.1).zipIdx.map (fun w =>
      ((.output g, fc + w.2), .form true e.tag (packElems w.1))) }
  | .stage off => { r with staged := putBytes zeroByte r.staged (g * 16384 + off) (z.1.map (BitVec.ofInt 8)) }
  | .link fc => match x.op with
    | .mac rows west steps => { r with links := r.links ++ [((g, fc), (e.macLanes r g rows west steps).map MacLane.word)] }
    | _ => r

/-! Steering -/

/-- The words that a steering unit holds of a channel at the nominal slot plus K: those that arrive from the nominal slot on (R107). -/
def NetEnv.channel (e : NetEnv) (r : NetRun) (row nominal skew : Nat) : List PortWord :=
  ((List.range (skew + 1)).map (fun k => e.wordOf r (e.net.eastPort e.ii e.cols row (nominal + k)))).filter PortWord.valid

/-- A steering unit on the frame: every destination gets a word in its compiled slot, K + 2 fc after the nominal slot, a null word where the
token does not select it; an edge return takes 4 fc more. Token and data not both held with equal tags: a steering fault, and null words to
every destination (R105 to R108). -/
def NetEnv.steerStep (e : NetEnv) (r : NetRun) (u : Steering) : NetRun :=
  let data := e.channel r u.row u.nominal u.skew
  let token := e.channel r u.token u.nominal u.skew
  let met := !e.unsteered.contains u.row && data.length == u.words && token.length == 1
    && (data ++ token).all (fun w => w.tag == e.tag && w.intact)
  let mask := (token.headD .null).data.toNat
  let sent := (u.dests.toList.zipIdx).flatMap (fun d =>
    (List.range u.words).flatMap (fun j =>
      let w := if met && mask.testBit d.2 then data.getD j .null else .form false e.tag 0
      let fc := u.nominal + u.skew + 2 + j
      match d.1 with
      | .exit => [((Place.exit u.row, fc), w)]
      | .edge row => [((.west row, fc + 4), w)]
      | .span port => [((.span port.val, fc), w)]
      | .discard => []))
  { r with words := r.words ++ sent, faults := if met then r.faults else r.faults ++ [.steering u.row] }

/-- One entry of a bed's schedule. -/
def NetEnv.step (e : NetEnv) (r : NetRun) (x : BedStep) : NetRun :=
  match x with
  | .grain g => e.grainStep r g
  | .steer u => e.steerStep r u

/-- A frame passes the bed's schedule. -/
def NetEnv.run (e : NetEnv) : NetRun := e.net.steps.foldl e.step ⟨[], [], [], [], [], []⟩

/-! Exit -/

/-- The word that the exit unit takes from a row at an fc (R103, R105). -/
def NetEnv.exitWord (e : NetEnv) (r : NetRun) (row fc : Nat) : PortWord :=
  (r.word? (.exit row) fc).getD (e.wordOf r (e.net.eastPort e.ii e.cols row fc))

/-- Verdict bits [10:0], from the port word of the verdict row (R103); a null word counts as zero. -/
def NetEnv.bits (e : NetEnv) (r : NetRun) : Nat :=
  let w := e.exitWord r e.net.exit.row e.net.exit.fc
  if w.valid then bitsOf w.data.toNat 0 11 else 0

/-- Summary elements 0 to 15, from at most two rows (R103). -/
def NetEnv.summary (e : NetEnv) (r : NetRun) : List Int :=
  let v := ((e.net.exit.summary.take 2).flatMap (fun x => x.fcs.flatMap (fun fc => (e.exitWord r x.row fc).elems))).take 16
  v ++ List.replicate (16 - v.length) 0

/-- The word that leaves a span port at an fc (R105, R122). -/
def NetEnv.spanWord (e : NetEnv) (r : NetRun) (port fc : Nat) : PortWord :=
  (r.word? (.span port) fc).getD (e.wordOf r (e.net.eastPort e.ii e.cols (24 + port) fc))

/-- Every fault that the frame meets in the bed: those of its grains and steering units, and of the verdict word in the exit unit. -/
def NetEnv.faults (e : NetEnv) (r : NetRun) : List FabricFault :=
  let w := e.exitWord r e.net.exit.row e.net.exit.fc
  (r.faults ++ (if !w.intact then [FabricFault.exitParity] else if e.net.exit.valid == some (!w.valid) then [.exitOccupancy] else [])).eraseDups

end Sys2Proof.Machine
end

