-- ==== Sys2Proof/Machine/Loader.lean ====
section
/-!
DEFINITION. The loader (chapter 8): the checks of Table 8.11 in ascending code order with their SECTION (R273, R561), placement (R281),
the ledger (R284), what an accepted load writes (R292), refusal (R272).
-/
namespace Sys2Proof.Machine

/-- No section table entry is concerned (R561). -/
def noSec : Nat := 0xFFFF

/-- One failing check: nothing when the condition is false. -/
def failIf (bad : Bool) (sec : Nat) : List Nat := if bad then [sec] else []

/-- Two ranges [a, a+n) and [b, b+m) overlap. -/
def overlaps (a n b m : Nat) : Bool := decide (a < b + m ∧ b < a + n)

/-- The timing signature of a physical bed (Table 3.11). -/
def State.tsig (s : State) : List Nat := sigFields [if s.isS2 then 0x05020302 else 0x06030302, 0x0A020414, 0x020C0406]

/-- Whole fabric clocks of a time in ps, rounded up; one fc is 800 ps (Table 0.2). -/
def fcCeil (ps : Nat) : Nat := (ps + 799) / 800

/-- A row of a bed's placement: layout bed, physical bed, variant. -/
structure Placed where
  layoutBed : Nat
  phys : Nat
  variant : Variant
deriving DecidableEq, Repr, Inhabited

/-- What the loader reads once: the image, its header and table, its program, its source. -/
structure Load where
  img : List Byte
  hdr : ImgHeader
  table : List (Nat × SecEntry)
  prog : Program
deriving DecidableEq, Repr, Inhabited

/-- Read an image for this module's cascade position. -/
def State.readLoad (s : State) (img : List Byte) : Load :=
  let hdr := readHeader img
  let table := readTable img hdr
  let casc := (table.find? (fun e => e.2.typ == 0xB)).map (fun e => readCascade (secBytes img e.2))
  { img := img, hdr := hdr, table := table, prog := readProgram img (s.loadPosition casc) }

/-- Index of the entry of a type and phase, 0xFFFF when missing. -/
def Load.idx (l : Load) (typ phase : Nat) : Nat :=
  match findSec l.table typ phase (fun _ => true) with | some e => e.1 | none => noSec

/-- Index of the LOESS entry of a phase and die. -/
def Load.loessIdx (l : Load) (phase die : Nat) : Nat :=
  match findSec l.table 9 phase (fun e => e.bed == die) with | some e => e.1 | none => noSec

/-- Indices of the VARIANT entries of a phase, in the order of PhaseProg.variants. -/
def Load.variantIdx (l : Load) (phase : Nat) : List Nat := (secsOf l.table 3 phase).map Prod.fst

/-- The image digest of R277. -/
def Load.digest (l : Load) : List Byte := sha512 (l.img.take l.hdr.sigOff)

/-- Code 0x04: header, table or section outside the file, overlap, misalignment, length (R274, R276). A header or table that fails concerns no
entry, and its entries are not looked at (R561; log entry 116). -/
def Load.outside (l : Load) : List Nat :=
  let h := l.hdr
  let tEnd := h.tableOff + 96 * h.count
  let head := h.headerLen != 256 || decide (h.imageLen > 512 * 2 ^ 20) || decide (l.img.length < h.imageLen)
    || h.sigOff + 1280 != h.imageLen || h.count == 0 || decide (4096 < h.count) || decide (h.tableOff < 256)
    || decide (h.sigOff < tEnd)
  if head then [noSec]
  else l.table.flatMap (fun e =>
      failIf (e.2.off % 256 != 0 || decide (e.2.off < tEnd) || decide (h.sigOff < e.2.off + e.2.len)
        || l.table.any (fun f => decide (f.1 < e.1) && overlaps f.2.off f.2.len e.2.off e.2.len)) e.1)

/-- The table entry has an earlier twin among those that `same` relates to it. -/
def Load.twin (l : Load) (e : Nat × SecEntry) (same : SecEntry → Bool) : Bool :=
  l.table.any (fun f => decide (f.1 < e.1) && same f.2)

/-- Code 0x09: a required section missing, or a single section duplicated (Table 8.3). -/
def Load.missing (l : Load) : List Nat :=
  let phases := l.prog.phases.length
  let has := fun (typ p : Nat) (ok : SecEntry → Bool) => (findSec l.table typ p ok).isSome
  let lacks := (List.range phases).any (fun p =>
    [2, 5, 6, 7, 8].any (fun typ => !has typ p (fun _ => true)) || !has 9 p (fun e => e.bed == 0) || !has 9 p (fun e => e.bed == 1)
      || (List.range (match findSec l.table 2 p (fun _ => true) with
            | some e => (readPhase (secBytes l.img e.2)).layoutBeds | none => 0)).any (fun b => !has 3 p (fun e => e.bed == b))
      || (secsOf l.table 3 p).any (fun v => !has 4 p (fun e => e.bed == v.2.bed && e.variant == v.2.variant)))
  let dup := l.table.flatMap (fun e =>
    let f := e.2
    let again :=
      if f.typ = 1 ∨ f.typ = 0xB then l.twin e (fun g => g.typ == f.typ)
      else if f.typ = 2 ∨ f.typ = 5 ∨ f.typ = 6 ∨ f.typ = 8 then l.twin e (fun g => g.typ == f.typ && g.phase == f.phase)
      else if f.typ = 9 then l.twin e (fun g => g.typ == 9 && g.phase == f.phase && g.bed == f.bed)
      else if f.typ = 4 then l.twin e (fun g => g.typ == 4 && g.phase == f.phase && g.bed == f.bed && g.variant == f.variant)
      else if f.typ = 0xA then
        let a := readReshard (secBytes l.img f)
        l.twin e (fun g => g.typ == 0xA && (readReshard (secBytes l.img g)).1 == a.1 && (readReshard (secBytes l.img g)).2.1 == a.2.1)
      else false
    failIf again e.1)
  failIf (lacks || !(l.table.any (fun e => e.2.typ == 1))) noSec ++ dup

/-- Code 0x0B: a field outside its range (Tables 8.3, 8.5, 8.6). -/
def Load.ranges (l : Load) : List Nat :=
  let p := programSec l.img l.table
  let t := leAt p.2 0 4
  failIf (decide (t < 2500 ∨ 409600000 < t) || decide (leAt p.2 4 1 < 1 ∨ 16 < leAt p.2 4 1)
      || decide (leAt p.2 4 1 ≤ leAt p.2 5 1) || decide (leAt p.2 6 1 < 1 ∨ 64 < leAt p.2 6 1)) p.1 ++
    l.table.flatMap (fun e =>
      if e.2.typ = 2 then failIf (!phaseInRange (secBytes l.img e.2) e.2) e.1
      else if e.2.typ = 3 then failIf (!variantInRange (secBytes l.img e.2) e.2) e.1
      else [])

/-- Checks 0x01 to 0x0C, in code order. -/
def State.fileChecks (s : State) (l : Load) : List (Nat × List Nat) :=
  let blk := sigBlock l.img l.hdr
  [ (0x01, failIf (l.hdr.magic != asciiBytes "IBPORIMG" || blk.take 8 != asciiBytes "IBPORSIG") noSec),
    (0x02, failIf (l.hdr.major != 1) noSec),
    (0x03, failIf (decide (s.fld TOP_VERSION_IMG_MINOR < l.hdr.minor)) noSec),
    (0x04, l.outside),
    (0x05, l.table.flatMap (fun e => failIf (sha512 (secBytes l.img e.2) != e.2.digest) e.1)),
    (0x06, failIf (l.digest != slice blk 528 64) noSec),
    (0x07, failIf (!blockVerifies blk l.digest) noSec),
    (0x08, failIf ((s.keySlot (blockKeyHash blk)).isNone) noSec),
    (0x09, l.missing),
    (0x0A, l.table.flatMap (fun e =>
      failIf (decide (0x000C ≤ e.2.typ ∧ e.2.typ ≤ 0x7FFF) || e.2.sversion != 1) e.1)),
    (0x0B, l.ranges),
    (0x0C, failIf (decide (65534 < s.prog.nextIndex)) noSec) ]

/-! Placement and ledger -/

/-- The variant of a phase for a layout bed and a number of usable columns. -/
def pickVariant (p : PhaseProg) (lb usable : Nat) : Option Variant :=
  p.variants.find? (fun v => v.layoutBed == lb && v.u == usable)

/-- A bed is a candidate for placement (R281): at a sowing idle, loaded or degraded and able; at a rotation idle. -/
def State.candidate (s : State) (rotation : Bool) (b : Nat) : Bool :=
  let st := s.bedState b
  s.bedPresent b && (if rotation then st == 1 else (st == 1 || st == 2 || st == 4) && !s.bedUnable b)

/-- Beds that may take a layout bed, in the order R281 tries them: single beds of its die, or mirror pairs. -/
def bedChoices (p : Phase) (lb : Nat) : List (List Nat) :=
  if p.mirrored then [[0, 2], [1, 3]] else if p.die lb = 0 then [[0], [1]] else [[2], [3]]

/-- Place one layout bed beside those already placed; the answer says whether some bed was free when no variant fitted (R281). -/
def State.placeOne (s : State) (rotation : Bool) (p : PhaseProg) (lb : Nat) (used : List Nat) : Option (List Placed) × Bool :=
  let free := (bedChoices p.ph lb).filter (fun c => c.all (fun b => s.candidate rotation b && !used.contains b))
  let fit := fun (c : List Nat) => c.filterMap (fun b => (pickVariant p lb s.beds[b]!.usable).map (fun v => (⟨lb, b, v⟩ : Placed)))
  (((free.map (fun c => (c, fit c))).find? (fun cf => cf.1.length == cf.2.length)).map Prod.snd, !free.isEmpty)

/-- The outcome of placing a list of layout beds: the placement, a bed with no fitting variant (0x10), no bed at all (0x11). -/
structure Placing where
  placed : List Placed
  noVariant : Bool
  noBed : Bool
deriving DecidableEq, Repr, Inhabited

/-- Place layout beds in ascending order (R281). -/
def State.placeAll (s : State) (rotation : Bool) (p : PhaseProg) (lbs : List Nat) : Placing :=
  lbs.foldl (fun acc lb =>
    let r := s.placeOne rotation p lb (acc.placed.map Placed.phys)
    match r.1 with
    | some ps => { acc with placed := acc.placed ++ ps }
    | none => if r.2 then { acc with noVariant := true } else { acc with noBed := true }) ⟨[], false, false⟩

/-- The LEDGER entry of a placed variant. -/
def Load.ledger (l : Load) (phase : Nat) (pl : Placed) : Option (Nat × Ledger) :=
  (findSec l.table 4 phase (fun e => e.bed == pl.layoutBed && e.variant == pl.variant.u)).map
    (fun e => (e.1, readLedger (secBytes l.img e.2)))

/-- The delta of a segment (R284). -/
def segDelta (assumed actual : List Nat) (g : LedgerSeg) : Int :=
  ((List.range 12).map (fun u => (g.counts.getD u 0 : Int) * ((assumed.getD u 0 : Int) - (actual.getD u 0 : Int)))).sum

/-- One tap of ledger_adjust(): the remaining delta and the tap's new value (R284). -/
def tapStep (delta : Int) (tap : Nat) : Int × Nat :=
  if delta > 0 then
    let step := min delta.toNat (32 - tap)
    (delta - step, tap + step)
  else if delta < 0 then
    let step := min (-delta).toNat (tap - 1)
    (delta + step, tap - step)
  else (delta, tap)

/-- ledger_adjust() of one segment: adjusted taps and the delta left (R284). -/
def adjustSeg (assumed actual : List Nat) (taps : List LedgerTap) (g : LedgerSeg) : List LedgerTap × Int :=
  ((taps.drop g.firstTap).take g.tapCount).foldl (fun acc t =>
    let r := tapStep acc.2 t.tap
    (acc.1 ++ [{ t with tap := r.2 }], r.1)) ([], segDelta assumed actual g)

/-- A tap lies outside Table 8.7, names no ledger route entry, or lies in two segments (code 0x14). -/
def ledgerTapBad (pl : Placed) (ii : Nat) (lg : Ledger) : Bool :=
  let segs := fun (i : Nat) => (lg.segs.filter (fun g => decide (g.firstTap ≤ i ∧ i < g.firstTap + g.tapCount))).length
  lg.taps.zipIdx.any (fun ti =>
    let t := ti.1
    decide (32 ≤ t.row) || decide (pl.variant.u ≤ t.col) || decide (4 ≤ t.port) || decide (ii ≤ t.slot) || t.tap == 0 || decide (32 < t.tap)
      || !pl.variant.net.routes.any (fun r => r.grain == t.row * 64 + t.col && r.port == t.port && r.slot == t.slot && r.ledger)
      || decide (1 < segs ti.2)
      || lg.taps.zipIdx.any (fun u => decide (u.2 < ti.2) && u.1.row == t.row && u.1.col == t.col && u.1.port == t.port && u.1.slot == t.slot))

/-- Routes of a placed variant with the adjusted taps of its ledger written (R284, Table 3.18). -/
def ledgerRoutes (actual : List Nat) (v : Variant) (lg : Ledger) : List Route :=
  let taps := lg.segs.flatMap (fun g => (adjustSeg lg.assumed actual lg.taps g).1)
  v.net.routes.map (fun r =>
    match taps.find? (fun t => t.row * 64 + t.col == r.grain && t.port == r.port && t.slot == r.slot) with
    | some t => { r with tap := t.tap }
    | none => r)

/-! Output pads and decision entries -/

/-- Rate of a decision lane as a load uses it: the frozen rate, else LNK_STAT.RATE (R403). -/
def State.decRate (s : State) (lane : Nat) : Nat :=
  match (s.lanes[48 + lane]!).frozen with
  | some r => r
  | none => s.fld (LNK_STAT_RATE.on (lnkOff (48 + lane)))

/-- Output pad of a layout bed on a decision lane, as an integer of fc (R67, R68). The verdict register of a mirrored pair is the
comparator's, on the east die (R118). -/
def State.outPad (s : State) (p : Phase) (pl : Placed) (lane : Nat) : Int :=
  let die := if p.mirrored then 0 else bedDie pl.phys
  let bridge := if lane / 4 = die then 0 else 12
  (p.q : Int) - pl.variant.bedLat - 8 - bridge - framingFc (s.decRate lane)

/-- Line times after the tick, in hundredths of a ps, of the verdicts that one tick's frames send on a lane (R426). -/
def lineTimes (p : PhaseProg) (lane : Nat) : List Nat :=
  p.decision.map.flatMap (fun m =>
    if m.lanes.contains lane ∧ (m.kind = 0 ∨ p.ph.s ≠ 0) then
      (List.range (p.order m.bed).length).map (fun i => (p.ph.a + i * p.ph.ii + (if m.kind = 0 then p.ph.q else p.ph.s)) * 80000)
    else [])

/-- Fewest entry starts that any phase of the block grid puts into a time span: 27 entries of 32 UI after 8 UI of each block of
1,032 line bits (R427, Table 14.3). -/
def minStarts (ui span : Nat) : Nat :=
  let block := 1032 * ui
  let rest := span % block
  let gap := (1032 - 27 * 32 + 32) * ui
  27 * (span / block) + (if rest < gap then 0 else min 27 ((rest - gap) / (32 * ui) + 1))

/-- The placement delay of R427 stays within its bound on a lane: in every span of `n` ticks there are entry starts enough for its
verdicts. Spans of up to 64 ticks are looked at (log entry 15). -/
def lanePlaces (tickPs ui : Nat) (times : List Nat) : Bool :=
  let tick := tickPs * 100
  let phases := times.map (fun t => t % tick)
  let events := (List.range 64).flatMap (fun k => phases.map (fun t => t + k * tick))
  phases.all (fun m => events.all (fun n =>
    decide (n < m) || decide ((events.filter (fun e => decide (m ≤ e ∧ e ≤ n))).length ≤ minStarts ui (n - m + 1032 * ui))))

/-- Code 0x15 for a placed phase: a pad of any bed and lane of the decision map outside 0 to 1,023, or a placement delay past its bound
(R68, R427). -/
def State.padBad (s : State) (tickPs : Nat) (p : PhaseProg) (placed : List Placed) : Bool :=
  p.decision.map.any (fun m =>
    placed.any (fun pl => pl.layoutBed == m.bed &&
      m.lanes.any (fun lane => decide (s.outPad p.ph pl lane < 0) || decide (1023 < s.outPad p.ph pl lane))))
  || (List.range 8).any (fun lane => !lanePlaces tickPs (uiHundredthPs (s.decRate lane)) (lineTimes p lane))

/-! Content checks of a phase -/

/-- A signed byte of a network's bank image. -/
def netByte (n : Network) (a : Nat) : Int := signedOf 8 (mapGet zeroByte n.banks a).toNat

/-- The grading table of a grain at a bank offset is strictly increasing (R136). -/
def tableRises (n : Network) (g off : Nat) : Bool :=
  (List.range 15).all (fun i => decide (netByte n (g * 16384 + off + i) < netByte n (g * 16384 + off + i + 1)))

/-- The entries of a network's schedules that belong to grains. -/
def Network.grainSteps (n : Network) : List GrainStep :=
  n.steps.filterMap (fun x => match x with | .grain g => some g | .steer _ => none)

/-- The steering units of a network. -/
def Network.steerings (n : Network) : List Steering :=
  n.steps.filterMap (fun x => match x with | .steer u => some u | .grain _ => none)

/-- Elements of a take. -/
def Network.takeLen (n : Network) (ii g : Nat) (t : Take) : Nat :=
  match t.src with
  | .ports fc => (n.select ii g fc).length * (if t.graded.isSome then 16 else 8)
  | .staged _ len => if t.graded.isSome then 2 * len else len

/-- Bytes that a schedule entry puts out. -/
def Network.outLen (n : Network) (ii : Nat) (x : GrainStep) : Nat :=
  let k := match x.op with
    | .mac rows _ _ => rows.length
    | .marl _ desc => 2 ^ (marlDesc desc).log2n
    | .threshold _ _ => 2
    | .window _ _ _ => 16
    | .localMax _ _ => 2
    | .sort _ => 24
    | .merge _ _ k => k + (k + 1) / 2
    | .move inp => (inp.map (n.takeLen ii x.grain)).sum
  if x.encode.isSome then (k + 1) / 2 else k

/-- The schedule entries that make the word of an origin; an edge return leads to the words of its steering unit. The fuel bounds the
returns. -/
def Network.makers (n : Network) (ii u : Nat) : Nat → Origin → List GrainStep
  | 0, _ => []
  | k + 1, o =>
    match o with
    | .null => []
    | .compute g fc => n.grainSteps.filter (fun x => x.grain == g && (match x.out with
        | .port f => decide (f ≤ fc ∧ 8 * (fc - f) < n.outLen ii x)
        | _ => false))
    | .west row fc => n.steerings.flatMap (fun y =>
        if y.dests.contains (.edge row) ∧ y.nominal + y.skew + 6 ≤ fc ∧ fc < y.nominal + y.skew + 6 + y.words then
          (List.range (y.skew + 1)).flatMap (fun j => n.makers ii u k (n.eastPort ii u y.row (y.nominal + j)))
        else [])

/-- The schedule entries whose outputs a take of a grain reads. -/
def Network.sources (n : Network) (ii u g : Nat) (t : Take) : List GrainStep :=
  match t.src with
  | .ports fc => (n.select ii g fc).flatMap (fun side => n.makers ii u (n.steps.length + 1) (n.received ii u g side fc))
  | .staged off len => n.grainSteps.filter (fun x => x.grain == g && (match x.out with
      | .stage f => decide (f < off + len ∧ off < f + n.outLen ii x)
      | _ => false))

/-- A schedule entry is a marl operation. -/
def GrainStep.isMarl (x : GrainStep) : Bool := match x.op with | .marl _ _ => true | _ => false

/-- A schedule entry gives its output tensor a zero point: the one it declares, or a row's ZP_OUT (R133, R174). -/
def GrainStep.hasZp (x : GrainStep) : Bool :=
  x.zp != 0 || (match x.op with
    | .mac rows _ _ => rows.any (fun r => (rowDesc r.desc).zpOut != 0)
    | _ => false)

/-- A tensor that some take of `consumer` or some entry of `maker` concerns has a zero point: the take declares one, or an entry that makes
the tensor has one. -/
def Network.zpOn (n : Network) (ii u : Nat) (hasZp : GrainStep → Bool) (consumer : GrainStep → Take → Bool) (maker : GrainStep → Bool) : Bool :=
  n.grainSteps.any (fun x => maker x && x.zp != 0 || x.op.takes.any (fun t =>
    let from_ := n.sources ii u x.grain t
    (consumer x t && (t.zp != 0 || from_.any hasZp)) || (t.zp != 0 && from_.any maker)))

/-- A row descriptor is malformed where it stands (R173). -/
def rowBad (tables : Nat) (x : GrainStep) (r : MacRow) : Bool :=
  let d := rowDesc r.desc
  decide (39 < d.ns ∨ 24 < d.ash) || (d.act && decide (tables ≤ d.atab)) || (d.zpW != 0 && r.graded.isSome)
    || (d.zpOut != 0 && x.encode.isSome)

/-- Codes 0x1A and 0x20 to 0x24 of one network, at an II and a number of usable columns (R86, R136, R137, R145, R146, R173). -/
def netFails (n : Network) (ii u code : Nat) : Bool :=
  match code with
  | 0x1A => n.regions.any (fun r => r.off % 256 != 0 ||
      decide (16384 < ((n.regions.filter (fun q => q.grain == r.grain)).map Region.size).sum))
  | 0x20 => n.tables.any (fun t => t.grading.any (fun off => !tableRises n t.grain off))
  | 0x21 => n.zpOn ii u (fun x => x.zp != 0) (fun _ t => t.graded.isSome) (fun x => x.encode.isSome)
  | 0x22 => n.grainSteps.any (fun x => match x.op with
      | .marl _ w => decide ((marlDesc w).log2n < 1 ∨ 8 < (marlDesc w).log2n ∨ (marlDesc w).log2n < (marlDesc w).shift)
      | _ => false)
  | 0x23 => n.zpOn ii u GrainStep.hasZp (fun x _ => x.isMarl) GrainStep.isMarl
  | 0x24 => n.grainSteps.any (fun x => match x.op with
      | .mac rows _ _ => rows.any (rowBad (((n.tables.find? (fun t => t.grain == x.grain)).map (fun t => t.act.length)).getD 0) x)
      | _ => false)
  | _ => false

/-- A normalisation group is invalid (R158). -/
def groupBad (g : NormGroup) : Bool :=
  g.scaleMin == 0 || decide (g.scaleMax < g.scaleMin) || decide (g.offsetMax.toInt < g.offsetMin.toInt) || (!g.enable && decide (2 ≤ g.format.toNat))

/-- A normalisation table entry of a 128-byte package: mantissa and offset of group `g` (R159, R241). -/
def tableEntry (pkg : List Byte) (g : Nat) : Nat × Int := (leAt pkg (64 + 4 * g) 2, signedOf 16 (leAt pkg (66 + 4 * g) 2))

/-- A seed or default package has an entry outside its group's bounds (R160). -/
def packageBad (gs : Vector NormGroup 16) (pkg : List Byte) : Bool :=
  gs.toList.zipIdx.any (fun gi =>
    let e := tableEntry pkg gi.2
    decide (e.1 < gi.1.scaleMin.toNat ∨ gi.1.scaleMax.toNat < e.1) || decide (e.2 < gi.1.offsetMin.toInt ∨ gi.1.offsetMax.toInt < e.2))

/-- Frames the alignment stage of a die can hold: per slot its early ticks and the ticks up to its deadline (R63; log entry 16). -/
def alignOccupancy (p : PhaseProg) (tickPs die : Nat) : Nat :=
  ((List.range p.ph.layoutBeds).map (fun lb =>
    if p.ph.mirrored ∨ p.ph.die lb = die then
      ((List.range (p.order lb).length).map (fun i =>
        p.ph.earlyTol + ((p.ph.a + i * p.ph.ii) * 800 + tickPs - 1) / max tickPs 1)).sum
    else 0)).sum

/-- A layout bed has its rings on a die (R20, R194). -/
def Phase.onDie (p : Phase) (lb die : Nat) : Bool := p.mirrored || p.die lb == die

/-- Every stream ring source of a program's stages. -/
def stageRings (st : Stage) : List RingElem :=
  match st with
  | .window r _ _ => [r]
  | .project ins _ _ _ _ => ins.filterMap (fun i => match i with | .entry r _ => some r | _ => none)
  | _ => []

/-- A stage is a VERDICT stage. -/
def isVerdict (st : Stage) : Bool := match st with | .verdict _ _ _ => true | _ => false

/-- A stage of a kind outside Table 7.2. -/
def stageBad (st : Stage) : Bool := match st with | .other _ => true | _ => false

/-- A channel group parameter lies outside Table 6.3. -/
def groupParamBad (g : GroupDecl) : Bool :=
  decide (g.channels < 1 ∨ 1048576 < g.channels) || !([1, 2, 4].contains g.width) || decide (g.depth < 1 ∨ 4194304 < g.depth)
    || decide (g.slowTicks < 1 ∨ 2 ^ 32 ≤ g.slowTicks) || decide (2 ^ 24 ≤ g.slowDeadline)
    || decide (g.slowSettle < 1 ∨ 2 ^ 24 ≤ g.slowSettle)

/-- Bytes of a slab (R199). -/
def slabBytes (g : GroupDecl) : Nat := (64 + g.channels * g.width + 511) / 512 * 512

/-- Allocation units of a stream ring (R203). -/
def streamUnits (d : StreamDecl) : Nat := (32 * (d.depth + if d.spill then 512 else 0) + 65535) / 65536

/-- Allocation units of a channel group (R203). -/
def groupUnits (g : GroupDecl) : Nat := (slabBytes g * (g.depth + if g.spill then 2 else 0) + 65535) / 65536

/-- History units of a die's section (R203, R235). -/
def LoessSection.units (l : LoessSection) : Nat :=
  (l.streams.map streamUnits).sum + (l.groups.map groupUnits).sum + l.strataUnits

/-- Every program of a die's section: context programs, then settled programs. -/
def LoessSection.programs (l : LoessSection) : List (List Stage) := l.ctx.map CtxProg.stages ++ l.settled

/-- RECUR carries that a checkpoint holds: a settled program has one tick recurrence for each stream ring (R237, Table 7.7). -/
def LoessSection.carryCount (l : LoessSection) : Nat :=
  let of := fun (rings : Nat) (stages : List Stage) => (stages.map (fun x => match x with
    | .recur _ d _ none => d.length * rings
    | .recur _ d _ (some _) => d.length
    | _ => 0)).sum
  ((l.ctx.map CtxProg.stages).map (of 1)).sum + (l.settled.map (of l.streams.length)).sum

/-- The stream rings that a context window reads (Table 7.7, section 4). -/
def LoessSection.windowRings (l : LoessSection) : List Nat :=
  (l.streams.map StreamDecl.ring).filter (fun ring => l.ctx.any (fun c => c.stages.any (fun st => match st with
    | .window e _ _ => e.stream && e.at_ c.ring == ring
    | _ => false)))

/-- Largest checkpoint of a die's engine in bytes (R265, Tables 7.6 and 7.7). -/
def checkpointMax (p : Phase) (l : LoessSection) : Nat :=
  64 + 5 * 16 + 4 * l.carryCount + 4 + 16 * 1024 + p.d * 128 * l.streams.length + 4096 * 32 * l.windowRings.length
    + 8 * (l.streams.length + l.groups.length) + 8

/-- Code 0x30 for the LOESS section of a die: the reasons that its row lists, and a section too damaged to be read (R193, R195, R197, R231,
R249). -/
def loessMalformed (p : PhaseProg) (die : Nat) : Bool :=
  let l := p.loess die
  let inOrder := fun (ring : Nat) => (p.slot? (ring / 64) (ring % 64)).isSome
  l.malformed || l.programs.any (fun st => st.any stageBad)
    || (List.range p.ph.layoutBeds).any (fun lb => p.ph.onDie lb die &&
        (p.order lb).any (fun sl => !l.ctx.any (fun c => c.ring == lb * 64 + sl.slot)))
    || l.settled.any (fun st => !(match st.getLast? with | some x => isVerdict x | none => false) || (st.filter isVerdict).length != 1)
    || l.ctx.any (fun c => c.stages.any isVerdict)
    || l.streams.any (fun d => !inOrder d.ring || decide (d.depth < 256 ∨ 4194304 < d.depth) || d.depth % 256 != 0)
    || l.groups.any groupParamBad
    || (p.ph.mirrored && p.east.warmVerdict != p.west.warmVerdict)

/-- Code 0x33 for the LOESS section of a die: deadline work reads a ring on the other die (R20). -/
def loessOtherDie (p : PhaseProg) (die : Nat) : Bool :=
  let l := p.loess die
  l.readsOther || l.streams.any (fun d => !p.ph.onDie (d.ring / 64) die) || l.ctx.any (fun c => !p.ph.onDie (c.ring / 64) die)
    || l.programs.any (fun st => st.any (fun x => (stageRings x).any (fun r => r.stream && !r.own && !p.ph.onDie (r.ring / 64) die)))

/-- Ticks that A + S reaches, rounded up (R253). -/
def settleReach (p : Phase) (tickPs : Nat) : Nat := ((p.a + p.s) * 800 + tickPs - 1) / max tickPs 1

/-- Code 0x3A for the LOESS section of a die: a ring too shallow for a settled window that reads it, a stream ring or a channel ring; a window
over the slot's own ring may read any (R253). -/
def ringShallow (p : PhaseProg) (tickPs die : Nat) : Bool :=
  let l := p.loess die
  let shallow := fun (k : QueryKind) (hi depth : Nat) => decide ((depth : Int) < (hi : Int) - k.f + settleReach p.ph tickPs + 512)
  p.ph.s != 0 && p.ph.kinds.any (fun k => (l.settled.getD k.program []).any (fun st => match st with
    | .window r _ hi =>
      if r.stream then l.streams.any (fun d => (r.own || d.ring == r.ring) && shallow k hi d.depth)
      else l.groups.any (fun g => g.group == r.ring && shallow k hi g.depth)
    | _ => false))

/-- History units of a die in the incoming phase of a change: a ring that carries keeps the units that it has (R287). `held` gives them for a
ring of the outgoing phase. -/
def carriedUnits (held : Nat → Option Nat) (entries : List ReshardEntry) (l : LoessSection) : Nat :=
  let from_ := fun (ring : Nat) =>
    ((entries.find? (fun e => e.action == 0 && e.toBed * 64 + e.toSlot == ring)).map (fun e => e.fromBed * 64 + e.fromSlot)).bind held
  (l.streams.map (fun d => (from_ d.ring).getD (streamUnits d))).sum + (l.groups.map groupUnits).sum + l.strataUnits

/-- The incoming phase's rings do not fit its history units beside the rings that carry (R287). -/
def carryFails (held : Nat → Nat → Option Nat) (entries : List ReshardEntry) (p : PhaseProg) : Bool :=
  decide (p.ph.histEast < carriedUnits (held 0) entries p.east) || decide (p.ph.histWest < carriedUnits (held 1) entries p.west)

/-- The units of a stream ring as a phase declares it on a die. -/
def PhaseProg.unitsOf (p : PhaseProg) (die ring : Nat) : Option Nat := ((p.loess die).streams.find? (fun d => d.ring == ring)).map streamUnits

/-- Largest BED_LAT among a phase's variants. -/
def PhaseProg.bedLat (p : PhaseProg) : Nat := (p.variants.map Variant.bedLat).foldl max 0

/-- Largest number of entry positions in any bed (R246). -/
def PhaseProg.positions (p : PhaseProg) : Nat := (p.entry.orders.map List.length).foldl max 0

/-- Code 0x38: CTX_WCET fails the lag bound (R246). -/
def ctxWcetBad (p : PhaseProg) (tickPs : Nat) : Bool :=
  decide ((p.ph.d * tickPs : Nat) - ((p.bedLat + (p.positions - 1) * p.ph.ii + 26) * 800 : Nat) < ((p.ph.ctxWcet * 1000 : Nat) : Int))

/-- Code 0x3B: SET_WCET plus F above the loess work budget S − Q − 26 fc (R258, Table 2.3). -/
def setWcetBad (p : PhaseProg) (tickPs : Nat) : Bool :=
  p.ph.s != 0 && p.ph.kinds.any (fun k =>
    decide (((p.ph.s : Int) - p.ph.q - 26) * 800 < ((k.setWcet * 1000 + k.f * tickPs : Nat) : Int)))

/-- The content checks of one phase for one code, with the section of R561 (R271). -/
def Load.phaseCheck (l : Load) (tickPs : Nat) (code : Nat) (p : PhaseProg) : List Nat :=
  let id := p.ph.id
  let sec := l.idx 2 id
  let vs := p.variants.zip (l.variantIdx id)
  let dies := fun (f : Nat → Bool) => failIf (f 0) (l.loessIdx id 0) ++ failIf (f 1) (l.loessIdx id 1)
  let slots := p.entry.orders.flatMap (fun o => o)
  match code with
  | 0x16 => vs.zipIdx.flatMap (fun vi =>
      failIf (decide (4096 < vi.1.1.bedLat) || decide (1024 * p.ph.ii < vi.1.1.bedLat)
        || (vs.take vi.2).any (fun w => w.1.layoutBed == vi.1.1.layoutBed && w.1.bedLat != vi.1.1.bedLat)) vi.1.2)
  | 0x17 => failIf (p.variants.any (fun v => decide (1024 * tickPs ≤ v.bedLat * 800))) sec
  | 0x18 => failIf (p.entry.orders.any (fun o => decide (tickPs / 800 < o.length * p.ph.ii))) sec
  | 0x19 => failIf (slots.any (fun q => decide (256 * p.ph.ii < q.map.length) || decide (576 < q.map.length))) (l.idx 5 id)
  | 0x1B => failIf (decide (8192 < alignOccupancy p tickPs 0) || decide (8192 < alignOccupancy p tickPs 1)) sec
  | 0x25 => failIf (p.entry.groups.any groupBad) (l.idx 5 id)
  | 0x26 => failIf (p.ctx.any (fun c => packageBad p.entry.groups c.seed || packageBad p.entry.groups c.dflt)) (l.idx 8 id)
  | 0x27 => failIf (slots.any (fun q => decide (3 ≤ q.absentPolicy) || decide (3 ≤ q.corruptPolicy))) (l.idx 5 id)
  | 0x30 => dies (loessMalformed p)
  | 0x31 => dies (fun d => (p.loess d).programs.any (fun st => st.any (fun x => match x with
      | .recur _ dec _ _ => dec.any (fun a => decide (32768 < a))
      | _ => false)))
  | 0x32 => failIf (decide (p.ph.histEast < p.east.units) || decide (p.ph.histWest < p.west.units)
      || decide (360448 < p.ph.histEast) || decide (360448 < p.ph.histWest)
      || l.prog.reshard.any (fun r => r.2.1 == id && (match l.prog.phase? r.1 with
          | some a => carryFails a.unitsOf r.2.2 p
          | none => false))) sec
  | 0x33 => dies (loessOtherDie p)
  | 0x34 => dies (fun d => (p.loess d).groups.any (fun g => decide (g.slowTicks * tickPs < 100000000)))
  | 0x35 => dies (fun d => (p.loess d).writesMover)
  | 0x36 => dies (fun d => (p.loess d).readsCold)
  | 0x37 => dies (fun d => (p.loess d).ctx.any (fun c => c.stages.any (fun st => match st with
      | .window r _ hi => r.stream && decide (4095 < hi)
      | _ => false)))
  | 0x38 => failIf (ctxWcetBad p tickPs) sec
  | 0x39 => failIf (decide (p.ph.w < p.ph.d)) sec
  | 0x3A => dies (ringShallow p tickPs)
  | 0x3B => failIf (setWcetBad p tickPs) sec
  | 0x3C => dies (fun d => decide (2 ^ 27 < checkpointMax p.ph (p.loess d)))
  | _ => vs.flatMap (fun v => failIf (netFails v.1.net p.ph.ii v.1.u code) v.2)

/-- A reshard entry carries across dies or between unequal depths, from phase `a` to phase `b` (R287). -/
def reshardBad (a b : PhaseProg) (e : ReshardEntry) : Bool :=
  e.action == 0 && (a.ph.die e.fromBed != b.ph.die e.toBed ||
    ((a.loess (a.ph.die e.fromBed)).streams.find? (fun d => d.ring == e.fromBed * 64 + e.fromSlot)).map StreamDecl.depth !=
    ((b.loess (b.ph.die e.toBed)).streams.find? (fun d => d.ring == e.toBed * 64 + e.toSlot)).map StreamDecl.depth)

/-- Declared power of a placement, 0.1 W (R290). -/
def declaredPower (p : PhaseProg) (placed : List Placed) : Nat := p.ph.powerBase + (placed.map (fun pl => pl.variant.powerFabric)).sum

/-- Placement-bound checks of a phase placed as given: codes 0x10 to 0x15 (R271). -/
def State.placeChecks (s : State) (l : Load) (p : PhaseProg) (pl : Placing) : List (Nat × List Nat) :=
  let sec := l.idx 2 p.ph.id
  let led := fun (bad : Placed → Ledger → Bool) => pl.placed.flatMap (fun x => match l.ledger p.ph.id x with
    | some lg => failIf (bad x lg.2) lg.1
    | none => [])
  let left := fun (lg : Ledger) (ok : Int → Bool) => lg.segs.any (fun g => ok (adjustSeg lg.assumed s.tsig lg.taps g).2)
  [ (0x10, failIf pl.noVariant sec), (0x11, failIf pl.noBed sec),
    (0x12, led (fun _ lg => left lg (fun d => decide (d < 0)))),
    (0x13, led (fun _ lg => left lg (fun d => decide (0 < d)))),
    (0x14, led (fun x lg => ledgerTapBad x p.ph.ii lg)),
    (0x15, failIf (s.padBad l.prog.tickPs p pl.placed) sec) ]

/-- The codes of the content checks that concern one phase each, ascending. -/
def phaseCodes : List Nat :=
  [0x16, 0x17, 0x18, 0x19, 0x1A, 0x1B, 0x20, 0x21, 0x22, 0x23, 0x24, 0x25, 0x26, 0x27, 0x30, 0x31, 0x32, 0x33, 0x34, 0x35, 0x36,
   0x37, 0x38, 0x39, 0x3A, 0x3B, 0x3C]

/-- Content checks 0x16 to 0x3D over every phase (R271). -/
def Load.contentChecks (l : Load) : List (Nat × List Nat) :=
  phaseCodes.map (fun c => (c, l.prog.phases.flatMap (l.phaseCheck l.prog.tickPs c))) ++
    [(0x3D, (l.table.filter (fun e => e.2.typ == 0xA)).flatMap (fun e =>
      let r := readReshard (secBytes l.img e.2)
      failIf (match l.prog.phase? r.1, l.prog.phase? r.2.1 with
        | some a, some b => r.2.2.any (reshardBad a b)
        | _, _ => false) e.1))]

/-- The alignment deadline of a slot in a phase, fc after its tick (R58, R60). -/
def PhaseProg.deadline? (p : PhaseProg) (place : Nat) : Option Nat :=
  ((p.order (place / 64)).findIdx? (fun q => q.slot == place % 64)).map (fun i => p.ph.a + i * p.ph.ii)

/-- The send time of a slot's part in a phase: its verdict time (R444, R445). -/
def PhaseProg.sendTime? (p : PhaseProg) (place : Nat) : Option Nat :=
  (p.deadline? place).map (fun d => d + ((p.variants.filter (fun v => v.layoutBed == place / 64)).map Variant.bedLat).foldl max 0)

/-- A deepening part's combining slot, the alignment deadline of its destination slot (R447), is not at least BUDGET after its source's send
time (R444). Which phase runs at the source this module does not see: the deadline must do for one of the image's (DEDUCED, log entry 125). -/
def Program.deepensLate (p : Program) (sp : CascSpan) : Bool :=
  let sends := p.phases.filterMap (fun q => q.sendTime? sp.srcPart)
  sp.kind == 1 && !sends.isEmpty && p.phases.any (fun q => match q.deadline? sp.destPart with
    | some d => sends.all (fun t => decide (d < t + sp.budget))
    | none => false)

/-- Checks 0x42 and 0x43 (R288, R435, R444). -/
def State.cascadeChecks (s : State) (l : Load) : List (Nat × List Nat) :=
  let pos := s.loadPosition l.prog.cascade
  let casc := match l.prog.cascade with
    | some c => failIf (s.cascadeBad l.prog.modules c || c.spans.any l.prog.deepensLate) ((l.table.find? (fun e => e.2.typ == 0xB)).map Prod.fst |>.getD noSec)
    | none => failIf (l.prog.modules != 1 || l.hdr.cascade) (programSec l.img l.table).1
  [ (0x42, l.prog.phases.flatMap (fun p => failIf ((findSeeds l.table p.ph.id pos).isNone) (l.idx 2 p.ph.id))), (0x43, casc) ]

/-- The first check that fails, with the lowest section it fails on (R273, R561). -/
def firstRefusal (cs : List (Nat × List Nat)) : Option (Nat × Nat) :=
  (cs.find? (fun c => !c.2.isEmpty)).map (fun c => (c.1, c.2.foldl min noSec))

/-- Placement of the first phase at a sowing. -/
def State.sowPlacing (s : State) (l : Load) : Placing :=
  match l.prog.phase? l.prog.firstPhase with
  | some p => s.placeAll false p (List.range p.ph.layoutBeds)
  | none => ⟨[], false, false⟩

/-- The loader checks at a sowing (R271, R273): the refusal, if any. -/
def State.loaderChecks (s : State) (l : Load) : Option (Nat × Nat) :=
  let pl := s.sowPlacing l
  let placeCs := match l.prog.phase? l.prog.firstPhase with
    | some p => s.placeChecks l p pl
    | none => []
  let power := match l.prog.phase? l.prog.firstPhase with
    | some p => failIf (decide ((s.reg PWR_BUDGET).toNat % 65536 < declaredPower p pl.placed)) noSec
    | none => []
  let powerSec := power.map (fun _ => l.idx 2 l.prog.firstPhase)
  match firstRefusal (s.fileChecks l) with
  | some r => some r
  | none => firstRefusal (placeCs ++ l.contentChecks ++ [(0x40, powerSec)] ++ s.cascadeChecks l)

/-- Show a load's result in CFG_LOAD_STAT (Table 12.11): source 0 flash, 1 DRAM copy, 2 live sow, 3 rotation. -/
def State.showLoad (s : State) (source code sec : Nat) : State :=
  s.setReg CFG_LOAD_STAT (BitVec.ofNat 32 (sec % 65536 * 65536 + source * 4096 + code))

/-- A refusal: CFG_LOAD_STAT and EVENT 0x0302 (R272). -/
def State.refuseLoad (s : State) (source code sec : Nat) : State :=
  (s.showLoad source code sec).writeEvent 0x0302 [code, sec]

/-! What an accepted load writes -/

/-- Registers of a phase that do not belong to one bed (Table 8.10). -/
def State.writePhaseRegs (s : State) (tickPs : Nat) (p : PhaseProg) : State :=
  let s := s.setReg HZN_TICK_PERIOD (BitVec.ofNat 32 tickPs)
  let s := (s.setFld HZN_ALIGN_OFFSET p.ph.a).setFld HZN_ALIGN_EARLY_TOL p.ph.earlyTol
  let s := (s.setReg HZN_QLAT (BitVec.ofNat 32 p.ph.q)).setReg HZN_SLAT (BitVec.ofNat 32 p.ph.s)
  [0, 1].foldl (fun s e =>
    let o := lssOff e
    let s := (s.setReg (LSS_LAG + o) (BitVec.ofNat 32 p.ph.d)).setReg (LSS_WARM + o) (BitVec.ofNat 32 p.ph.w)
    let s := (s.setFld (LSS_DRAM_CAPS_CAP2.on o) 2).setFld (LSS_DRAM_CAPS_CAP3.on o) p.ph.cap3
    let s := (s.setFld (LSS_DRAM_CAPS_CAP4.on o) p.ph.cap4).setFld (LSS_DRAM_CAPS_CAP5.on o) p.ph.cap5
    (s.setReg (LSS_MEM_ALLOC + o) (BitVec.ofNat 32 (p.loess e).units)).setFlag (LSS_MEM_STAT_ALLOC_OK.on o) true) s

/-- Registers of one placed bed (Table 8.10). -/
def State.writeBedRegs (s : State) (p : Phase) (pl : Placed) : State :=
  let o := bedOff pl.phys
  let s := (s.setReg (BED_LAT + o) (BitVec.ofNat 32 pl.variant.bedLat)).setReg (BED_II + o) (BitVec.ofNat 32 p.log2II)
  if p.mirrored then
    ((s.setFlag (BED_MIRROR_MIRRORED.on o) true).setFlag (BED_MIRROR_SINGLE.on o) false).setFld (BED_MIRROR_PARTNER.on o)
      ((pl.phys + 2) % 4)
  else s.setReg (BED_MIRROR + o) 0

/-- Bank bytes of a variant of a phase and layout bed as the image copy holds them, with every committed correction (R112, R114, R115). -/
def Network.loaded (n : Network) (cs : List Correction) (phase lb : Nat) : Map Byte :=
  cs.foldl (fun m (c : Correction) => if c.layoutBed = lb ∧ c.phase = phase then
    putBytes zeroByte m (c.grain * 16384 + n.weightBase c.grain + c.word * 256) c.bytes else m) n.banks

/-- Load a variant into a physical bed: banks, weight latches, adjusted routes, committed corrections (R34, R87, R112, R284). -/
def State.loadBed (s : State) (l : Load) (p : PhaseProg) (pl : Placed) : State :=
  let b : Fin 4 := Fin.ofNat 4 pl.phys
  let lg := match l.ledger p.ph.id pl with | some x => x.2 | none => ⟨[], [], []⟩
  let banks := pl.variant.net.loaded s.prog.corrections p.ph.id pl.layoutBed
  let bed : Bed := s.beds[b]
  let s := s.setBed b { bed with
    variant := some pl.variant, layoutBed := pl.layoutBed, banks := banks, latches := banks, fresh := [], dirty := [], routes := ledgerRoutes s.tsig pl.variant lg
    degraded := false, leaving := false, target := none, targetBanks := [] }
  let s := if s.flt.exitFailed[b].1 || s.flt.exitFailed[b].2 then s else (s.setFlag (degradedBed b) false).showDegraded
  s.setBedState b (if s.flt.exitFailed[b].1 || s.flt.exitFailed[b].2 then 4 else 2)

/-- Empty a bed that carries no layout bed any more. -/
def State.clearBed (s : State) (b : Fin 4) : State :=
  let bed : Bed := s.beds[b]
  if s.bedPresent b ∧ bed.variant.isSome then
    let s := s.setBed b { bed with variant := none, routes := [], degraded := false, leaving := false }
    let o := bedOff b
    let s := ((s.setReg (BED_LAT + o) 0).setReg (BED_II + o) 0).setReg (BED_MIRROR + o) 0
    let s := if s.flt.exitFailed[b].1 || s.flt.exitFailed[b].2 then s else (s.setFlag (degradedBed b) false).showDegraded
    s.setBedState b 1
  else s

/-- The placement as layout bed order with mirror partners (R281). -/
def placeList (n : Nat) (placed : List Placed) : List (Nat × Option Nat) :=
  (List.range n).filterMap (fun lb => match placed.filter (fun x => x.layoutBed == lb) with
    | a :: c :: _ => some (a.phys, some c.phys)
    | [a] => some (a.phys, none)
    | [] => none)

/-- Rings of a die as a sowing declares them; their start horizon is set at launch (R202). -/
def freshEngine (e : Engine) (l : LoessSection) : Engine :=
  { e with
    streams := l.streams.foldl (fun m d => mapSet m d.ring { decl := d, start := 0, entries := [], givenUp := [], newest := 0 }) []
    groups := l.groups.foldl (fun m g => mapSet m g.group
      { decl := g, start := 0, slabs := [], openBufs := [], lost := [], givenUp := [], newest := 0 }) []
    pkgs := [], recur := ⟨0, 0, []⟩, former := ⟨0, 0, []⟩, queries := [], start := none, filled := [], scanFailed := [] }

/-- Place the first phase of a program on the beds and write its registers (R281, R292). -/
def State.placeProgram (s : State) (l : Load) (p : PhaseProg) (placed : List Placed) : State :=
  let s := [0, 1, 2, 3].foldl (fun s b => if placed.any (fun x => x.phys == b) then s else s.clearBed (Fin.ofNat 4 b)) s
  let s := placed.foldl (fun s pl => (s.loadBed l p pl).writeBedRegs p.ph pl) s
  let s := { s with prog := { s.prog with phase := p.ph.id, place := placeList p.ph.layoutBeds placed } }
  let s := { s with eng := (s.eng.set 0 (freshEngine s.eng[0] p.east)).set 1 (freshEngine s.eng[1] p.west) }
  s.writePhaseRegs l.prog.tickPs p

/-- A timing domain is no longer tracked: no Sync holds its lock (R482, R485). -/
def State.untrack (s : State) (d : Fin 2) : State :=
  ({ s with tim := { s.tim with lockRun := s.tim.lockRun.set d 0 } } : State).setFlag (TIM_D_STAT_LOCKED.on (timOff d)) false

/-- Roles and dimensions of a cascade program in RNG_ROLE and RNG_CTL (R435, R442, Table 15.7); above 8 modules only the selected timing domain
is tracked (R485). -/
def State.showRole (s : State) (prog : Program) : State :=
  let s := if 8 < prog.modules then s.untrack (s.selected + 1) else s
  match prog.cascade with
  | none => (s.setFlag RNG_CTL_CASC_EN false).setReg RNG_ROLE 0
  | some c =>
    match s.cascadePlace c with
    | none => s
    | some place =>
      let pos := place.2
      let s := (s.setFlag RNG_CTL_CASC_EN true).setFld RNG_ROLE_ROLE place.1
      let s := ((s.setFld RNG_ROLE_POSITION pos).setFld RNG_ROLE_LEAD c.lead).setFld RNG_ROLE_XDIM c.xdim
      let s := (s.setFld RNG_ROLE_YDIM c.ydim).setFlag RNG_ROLE_ANCHOR_X (pos % max c.xdim 1 == 0)
      s.setFlag RNG_ROLE_ANCHOR_Y (decide (1 < c.ydim) && pos / max c.xdim 1 == 0)

/-- Freeze the rates of the decision lanes at sowing (R403). -/
def State.freezeDecision (s : State) : State :=
  { s with lanes := Vector.ofFn (fun (i : Fin 80) =>
      let ln : Lane := s.lanes[i]
      if 48 ≤ i.val ∧ i.val < 56 ∧ ln.frozen.isNone then { ln with frozen := some (s.fld (LNK_STAT_RATE.on (lnkOff i.val))) } else ln) }

/-- A tick loss that stood while HZN_TICK_PERIOD read 0 continues under R42 once a sowing has written it (R43). -/
def State.periodWritten (s : State) (old : Nat) : State :=
  if old = 0 ∧ s.hz.loss then (s.setFlag HZN_STAT_FLYWHEEL true).writeEventAt 0x0201 (s.count + 1) 0 [(s.count + 1).toNat] else s

/-- Accept a load at a sowing: place the first phase, write Table 8.10, give the image its index, EVENT 0x0301 (R289, R292). -/
def State.acceptLoad (s : State) (l : Load) (source : Nat) : State :=
  match l.prog.phase? l.prog.firstPhase with
  | none => s
  | some p =>
    let old := (s.reg HZN_TICK_PERIOD).toNat
    let idx := s.prog.nextIndex
    let digest := l.digest
    let slot := (s.keySlot (blockKeyHash (sigBlock l.img l.hdr))).getD 0
    let copy : ImageCopy := { bytes := l.img, digest := digest, keySlot := slot, index := idx, program := l.prog }
    let pl := s.sowPlacing l
    let s := { s with
      prog := { s.prog with image := some copy, nextIndex := idx + 1, corrections := [] }
      mod := { s.mod with copyDigest := digest } }
    let s := ((s.placeProgram l p pl.placed).showRole l.prog).freezeDecision
    let s := (s.periodWritten old).showLoad source 0 noSec
    s.writePair 0x0301 s.count 0 idx digest

/-- Run the loader on an image at a sowing; true when accepted (R272, R273). -/
def State.runLoader (s : State) (img : List Byte) (source : Nat) : Bool × State :=
  let l := s.readLoad img
  match s.loaderChecks l with
  | some r => (false, s.refuseLoad source r.1 r.2)
  | none => (true, s.acceptLoad l source)

end Sys2Proof.Machine
end

