-- ==== Sys2Proof/Machine/DramOps.lean ====
section
/-!
DEFINITION. Shared operations of the loess memories (chapter 6): transactions that wait for a channel (R206, R210), the blocks that loess work
reads, entries and slabs written to their rings (R195, R196, R200), space rewritten under a spill unit (R226).
-/
namespace Sys2Proof.Machine

/-! Transactions -/

/-- A transaction takes its place among those that wait: by the time it began to wait, after those of the same time (R210). -/
def DramTx.enter (x : DramTx) : List DramTx → List DramTx
  | [] => [x]
  | y :: rest => if x.ns.toNat < y.ns.toNat then x :: y :: rest else y :: x.enter rest

/-- A transaction of a class begins to wait on the channel of an 8 KiB block of die-local address (R192, R206). -/
def State.queueTx (s : State) (e : Fin 2) (cls block : Nat) (item : TxItem) : State :=
  let eng : Engine := s.eng[e]
  let c : Fin 8 := Fin.ofNat 8 block
  let ch : DramChan := eng.chans[c]
  s.setEng e { eng with chans := eng.chans.set c { ch with waiting := ch.waiting ++ [blockTx cls block s.tim.c item] } }

/-- One transaction of a class for each of some blocks. -/
def State.queueBlocks (s : State) (e : Fin 2) (cls : Nat) (blocks : List Nat) (item : TxItem) : State :=
  blocks.foldl (fun s b => s.queueTx e cls b item) s

/-- The transactions that the module's other units have asked a channel for take their places in it (R210, Table 6.4). -/
def State.gatherJobs (s : State) (e : Fin 2) (c : Fin 8) : State :=
  let mine := fun (j : DramJob) => j.die == e.val && j.chan == c.val
  let rest := fun (l : List DramJob) => l.filter (fun j => !mine j)
  let jobs := (s.aug.jobs ++ s.flt.jobs ++ s.lck.jobs ++ s.svc.jobs).filter mine
  let eng : Engine := s.eng[e]
  let ch : DramChan := eng.chans[c]
  let s := { s with
    aug := { s.aug with jobs := rest s.aug.jobs }
    flt := { s.flt with jobs := rest s.flt.jobs }
    lck := { s.lck with jobs := rest s.lck.jobs }
    svc := { s.svc with jobs := rest s.svc.jobs } }
  s.setEng e { eng with chans := eng.chans.set c { ch with waiting := jobs.foldl (fun w j => j.tx.enter w) ch.waiting } }

/-! Blocks of the history region -/

/-- Entries that a stream ring has room for (R203). -/
def StreamRing.span (r : StreamRing) : Nat := r.decl.depth + r.extra

/-- The block that holds the 256-entry unit of tick `t` in a stream ring (R192, R203). -/
def StreamRing.block (r : StreamRing) (t : Nat) : Nat := r.decl.base * 8 + t / 256 % (r.span / 256)

/-- The blocks of the units that ticks `lo` to `hi` reach into. -/
def StreamRing.blocksFor (r : StreamRing) (lo hi : Nat) : List Nat :=
  (List.range (hi / 256 + 1 - lo / 256)).map (fun i => r.block (256 * (lo / 256 + i)))

/-- Slabs that a group has room for (R203). -/
def GroupDecl.span (g : GroupDecl) : Nat := g.depth + (if g.spill then 2 else 0)

/-- The blocks that hold the slab of a period (R192, R203). -/
def GroupDecl.blocks (g : GroupDecl) (p : Nat) : List Nat := blocksOf (g.base * 65536 + p % g.span * slabBytes g) (slabBytes g)

/-- The ticks of a stream ring whose entries a block holds: those of the last unit written there (R195). -/
def StreamRing.heldBy (r : StreamRing) (block : Nat) : List (Nat × Nat) :=
  let n := r.span / 256
  let k := block - r.decl.base * 8
  let full := (r.newest + 1) / 256
  if block < r.decl.base * 8 ∨ n ≤ k then []
  else if k < full then
    let u := k + (full - 1 - k) / n * n
    [(256 * u, 256 * u + 255)]
  else []

/-- Numbers in ascending order as ranges. -/
def rangesOf : List Nat → List (Nat × Nat)
  | [] => []
  | p :: rest => match rangesOf rest with
    | (a, b) :: more => if a = p + 1 then (p, b) :: more else (p, p) :: (a, b) :: more
    | [] => [(p, p)]

/-- The periods of a group with bytes of their slab in a block, as ranges (R199, R203). -/
def ChanGroup.heldBy (g : ChanGroup) (block : Nat) : List (Nat × Nat) :=
  rangesOf ((g.slabs.map Prod.fst).filter (fun p => (g.decl.blocks p).contains block))

/-! The reads of loess work -/

/-- Ages that a stage reads of a ring (R234, R236). -/
def Stage.reach (q : LoessProg) (st : Stage) : List (RingElem × Nat × Nat) :=
  match st with
  | .window r lo hi => [(q.source r, lo, hi)]
  | .project ins _ _ _ _ => ins.filterMap (fun i => match i with
    | .entry r age => some (q.source r, age, age)
    | _ => none)
  | _ => []

/-- The blocks that a program reads of its rings for reference tick `u`: of a stream ring, the ticks `from_` to `upto` that have left the ring
head by then (R195, R234); of a group, the slabs of those ages. `only` names the one stream ring that counts, or none for all. -/
def Engine.scanBlocks (g : Engine) (q : LoessProg) (u from_ upto : Nat) (only : Option Nat) : List Nat :=
  (q.stages.flatMap (fun st => st.reach q)).flatMap (fun x =>
    if x.1.stream then
      if (only.getD x.1.ring) ≠ x.1.ring then [] else
      match mapFind g.streams x.1.ring with
      | none => []
      | some r =>
        let lo := max (u - x.2.2) from_
        let hi := min (u - max x.2.1 512) upto
        if u < 512 ∨ hi < lo then [] else r.blocksFor lo hi
    else if only.isSome then []
    else match mapFind g.groups x.1.ring with
      | none => []
      | some c => match c.decl.newest u with
        | none => []
        | some p => (List.range (x.2.2 + 1 - x.2.1)).flatMap (fun i => if p < x.2.1 + i then [] else c.decl.blocks (p - x.2.1 - i)))

/-- The settled program of a query, as it serves the query's ring. -/
def PhaseProg.queryProg (p : PhaseProg) (e : Fin 2) (q : Query) : Option (QueryKind × LoessProg) :=
  (p.ph.kinds[q.kind]?).map (fun k => (k, settledProg ((p.loess e).settled.getD k.program []) k.program (ringKey q.bed q.slot) false))

/-- The class-4 reads of an admitted query: the blocks that stand in DRAM when it is admitted (R210; log entry 18). -/
def State.scanQuery (s : State) (e : Fin 2) (p : PhaseProg) (q : Query) : State :=
  match p.queryProg e q with
  | none => s
  | some (k, prog) =>
    s.queueBlocks e 4 ((s.eng[e] : Engine).scanBlocks prog (q.hzn.toNat + k.f) 0 q.hzn.toNat none) (.query q.hzn.toNat q.bed q.slot)

/-- A half of a ring head reaches DRAM: the queries in flight whose windows take it in read it there (R195, R252). -/
def State.scanUnit (s : State) (e : Fin 2) (ring first : Nat) : State :=
  (s.eng[e] : Engine).queries.foldl (fun s (q : Query) =>
    if q.shed || q.discarded || q.answer.isSome then s
    else match (s.phaseAt q.hzn.toNat).bind (fun p => p.queryProg e q) with
      | none => s
      | some (k, prog) =>
        let from_ := max first (q.hzn.toNat + 1)
        s.queueBlocks e 4 ((s.eng[e] : Engine).scanBlocks prog (q.hzn.toNat + k.f) from_ (first + 255) (some ring))
          (.query q.hzn.toNat q.bed q.slot)) s

/-- The class-3 reads as index `t` of a ring, its newest tick or period, is written: for every context program, the oldest unit that each of
its windows reads, and of a group the newest slab too (R210, R243; log entry 18). -/
def State.scanContext (s : State) (e : Fin 2) (l : LoessSection) (stream : Bool) (ring t : Nat) : State :=
  l.ctx.foldl (fun s c =>
    let reach := (c.stages.flatMap (fun st => st.reach c.prog)).filter (fun x => x.1.stream == stream && x.1.ring == ring && decide (x.2.2 ≤ t))
    let g : Engine := s.eng[e]
    let blocks := reach.flatMap (fun x =>
      if stream then
        if x.2.2 < 512 then [] else ((mapFind g.streams ring).map (fun r => [r.block (t - x.2.2)])).getD []
      else ((mapFind g.groups ring).map (fun r =>
        r.decl.blocks (t - x.2.1) ++ (if x.2.1 = x.2.2 then [] else r.decl.blocks (t - x.2.2)))).getD [])
    s.queueBlocks e 3 blocks.eraseDups (.scan c.ring)) s

/-! Spill units -/

/-- Spilling is on for an engine (R226). -/
def State.spillOn (s : State) (e : Fin 2) : Bool := s.flag ⟨LSS_MEM_CTL + lssOff e, 0, 1⟩

/-- The blocks of a spill unit. -/
def Engine.unitBlocks (g : Engine) (stream : Bool) (ring first : Nat) : List Nat :=
  if stream then ((mapFind g.streams ring).map (fun r => [r.block first])).getD []
  else ((mapFind g.groups ring).map (fun r => r.decl.blocks first)).getD []

/-- A transaction reads a spill unit's block for the mover. -/
def DramTx.spills (t : DramTx) (blocks : List Nat) : Bool := t.cls == 5 && t.item == .none && t.block.any (fun b => blocks.contains b)

/-- A spill unit whose space is rewritten: one that the mover has not read is dropped, counted and recorded (R226). `n` is its ticks or
periods. -/
def State.rewriteUnit (s : State) (e : Fin 2) (stream : Bool) (ring first n : Nat) : State :=
  let eng : Engine := s.eng[e]
  let here := fun (u : SpillUnit) => u.stream == stream && u.ring == ring && u.first == first
  let blocks := eng.unitBlocks stream ring first
  let unread := eng.chans.toList.any (fun (c : DramChan) => c.waiting.any (fun t => t.spills blocks))
  let drop := eng.spills.any (fun u => here u && (!u.sent || unread))
  let word := s.ringWord e stream ring
  let s := s.setEng e { eng with
    spills := eng.spills.filter (fun u => !here u)
    chans := eng.chans.map (fun (c : DramChan) => { c with waiting := c.waiting.filter (fun t => !t.spills blocks) }) }
  if drop then
    let s := { s with hst := { s.hst with bulk := s.hst.bulk.filter (fun (b : Bulk) =>
      !(b.op == 0xD1 && b.source == e.val && b.index == word && b.arg.toNat == first && b.sent == 0)) } }
    let s := (s.bump (LSS_SPILL_DROP_CNT + lssOff e)).setFlag (LSS_MEM_STAT_SPILL_DROP.on (lssOff e)) true
    s.writeEvent 0x0408 [e, word, first, first + n - 1]
  else s

/-- A spill unit has aged past its ring's depth: it waits to be sent (R226). -/
def State.spillWaits (s : State) (e : Fin 2) (stream : Bool) (ring first : Nat) : State :=
  let eng : Engine := s.eng[e]
  s.setEng e { eng with spills := eng.spills ++ [{ stream := stream, ring := ring, first := first, sent := false }] }

/-! Write-in -/

/-- Write a frame's entry into its stream ring head: the space of the oldest entry is reused; a filled half of the head waits for its class-2
transaction, and work that reads the ring from DRAM for its own (R195, R196, R203, R210, R226). -/
def State.putStreamEntry (s : State) (e : Fin 2) (r : StreamRing) (ring t : Nat) (x : StreamEntry) : State :=
  let eng : Engine := s.eng[e]
  let entries := (mapSet r.entries t x).filter (fun y => decide (t < y.1 + r.span))
  let s := s.setEng e { eng with streams := mapSet eng.streams ring { r with entries := entries, newest := max r.newest t } }
  let s := if t % 256 = 255 then
      let s := s.queueTx e 2 (r.block t) .store
      let s := s.scanUnit e ring (t - 255)
      match s.phaseAt t with
      | some p => s.scanContext e (p.loess e) true ring t
      | none => s
    else s
  if r.decl.spill && s.spillOn e then
    let s := if r.span ≤ t ∧ (t - r.span) % 256 = 0 then s.rewriteUnit e true ring (t - r.span) 256 else s
    if r.decl.depth + 256 ≤ t + 1 ∧ (t + 1 - r.decl.depth) % 256 = 0 ∧ r.start.toNat + r.decl.depth ≤ t then
      s.spillWaits e true ring (t + 1 - r.decl.depth - 256)
    else s
  else s

/-- Write a stream ring entry of tick `t`; the recurrences then take in the ticks of which every entry stands (R194 to R196, R238). -/
def State.writeStreamEntry (s : State) (e : Fin 2) (ring t : Nat) (x : StreamEntry) : State :=
  match mapFind (s.eng[e] : Engine).streams ring with
  | none => s
  | some r =>
    let s := s.putStreamEntry e r ring t x
    match s.phaseAt t with
    | some p => s.advanceRecurs e (p.loess e) (BitVec.ofNat 64 t) (s.entriesThrough t)
    | none => s

/-- Write a closed slab to its ring in class 2 (R199, R200, R203, R226). -/
def State.writeSlab (s : State) (e : Fin 2) (group p : Nat) (b : Slab) : State :=
  let eng : Engine := s.eng[e]
  match mapFind eng.groups group with
  | none => s
  | some g =>
    let span := g.decl.span
    let slabs := (mapSet g.slabs p b).filter (fun y => decide (p < y.1 + span))
    let g := { g with slabs := slabs, openBufs := mapErase g.openBufs p, newest := max g.newest p }
    let s := s.setEng e { eng with groups := mapSet eng.groups group g }
    let s := s.queueBlocks e 2 (g.decl.blocks p) .store
    let s := match s.phase? with
      | some q => s.scanContext e (q.loess e) false group p
      | none => s
    if g.decl.spill && s.spillOn e then
      let s := if span ≤ p then s.rewriteUnit e false group (p - span) 1 else s
      if g.decl.depth ≤ p ∧ g.start.toNat ≤ (p - g.decl.depth) * g.decl.slowTicks then s.spillWaits e false group (p - g.decl.depth) else s
    else s

end Sys2Proof.Machine
end

