-- ==== Sys2Proof/Machine/LckOps.lean ====
section
/-!
DEFINITION. Result blocks and digests of lock-step comparison (R307, R308).
-/
namespace Sys2Proof.Machine

/-- The 64-byte result block of a frame (Table 9.6). -/
def Frame.resultBlock (f : Frame) : List Byte :=
  let entry := ((f.copies.head?).map BedCopy.entry).getD []
  let causes := (causeList (f.qCauses ++ f.sCauses)).map (fun c => 2 ^ c)
  leBytes 8 f.hzn.toNat ++ leBytes 1 (bedSlot f.layoutBed f.slot) ++ leBytes 1 f.phase ++ leBytes 2 f.quick.toNat
    ++ leBytes 2 (if f.hasSettled then f.settled.toNat else 0) ++ leBytes 2 f.flags.toNat
    ++ (List.range 16).map (fun i => BitVec.ofInt 8 (f.summary.getD i 0))
    ++ leBytes 8 (crc64 entry) ++ leBytes 8 (crc64 f.package) ++ leBytes 2 causes.sum ++ zeroBytes 14

/-- The state of lock-step comparison (Table 9.10): 0 off, 1 armed, 2 comparing, 3 frozen and locating, 4 frozen and located, 5 refused. -/
def State.lckState (s : State) : Nat := s.fld RNG_LCK_STAT_STATE

/-- The first horizon that is compared: the start horizon, or the window after a rearm (R310, R313). -/
def State.lckFrom (s : State) : U64 := s.lck.rearmAt.getD (s.reg64 RNG_LCK_START_LO)

/-- `n` bytes of digests of a layout bed at a tick go to the mover scratch of each die that computes it; a row goes to DRAM in class 5 once it is
full (R302, R309; places consecutive, log entry 112). -/
def State.storeDigests (s : State) (h bed n : Nat) : State :=
  let dies := ((List.finRange 2).filter (fun d => ((s.progAt h).beds bed).any (fun b => engOf b.val == d)))
  dies.foldl (fun (s : State) (d : Fin 2) =>
    let at_ : Nat := s.lck.storeAt[d]
    { s with lck := { s.lck with
        storeAt := s.lck.storeAt.set d ((at_ + n) % storeBytes)
        jobs := s.lck.jobs ++ blockJobs d 5 (rowsFilled storeBase storeBytes at_ n) s.tim.c } }) s

/-- Form a frame's result digest while the modules compare; the last 65,536 ticks are kept (R307, R309). -/
def State.formResult (s : State) (f : Frame) : State :=
  if s.lckState = 2 ∧ s.lckFrom.toNat ≤ f.hzn.toNat then
    let r : ResultDigest := { hzn := f.hzn, bed := f.layoutBed, slot := f.slot, digest := BitVec.ofNat 64 (crc64 f.resultBlock) }
    let live := s.lck.results.filter (fun (x : ResultDigest) => decide (s.count.toNat < x.hzn.toNat + 65536))
    ({ s with lck := { s.lck with results := live ++ [r] } }).storeDigests f.hzn.toNat f.layoutBed 8
  else s

/-- The result digests of a tick and layout bed, in entry order. -/
def State.tickResults (s : State) (h bed : Nat) : List ResultDigest :=
  let mine := s.lck.results.filter (fun (x : ResultDigest) => x.hzn.toNat == h && x.bed == bed)
  match s.phaseAt h with
  | none => mine
  | some p => (p.order bed).filterMap (fun q => mine.find? (fun (x : ResultDigest) => x.slot == q.slot))

/-- The tick digest of a layout bed (R308). -/
def State.tickDigest (s : State) (h bed : Nat) : U64 :=
  BitVec.ofNat 64 (crc64 ((s.tickResults h bed).flatMap (fun x => leBytes 8 x.digest.toNat)))

/-- The layout beds of the phase of a tick. -/
def State.layoutBeds (s : State) (h : Nat) : List Nat :=
  match s.phaseAt h with
  | some p => List.range p.entry.orders.length
  | none => []

/-- The ticks and layout beds of the window that starts at `w`, by ascending layout bed and then ascending tick; where the phase changes inside
it, a tick has the layout beds of its own phase (R308, Table 9.8; DEDUCED, log entry 124). -/
def State.windowTicks (s : State) (w : Nat) : List (Nat × Nat) :=
  (List.range 4).flatMap (fun b => ((List.range 64).map (fun i => (w + i, b))).filter (fun x => (s.layoutBeds x.1).contains b))

/-- The tick digests of a window as bytes, in the order of the window digest. -/
def State.windowBytes (s : State) (w : Nat) : List Byte :=
  (s.windowTicks w).flatMap (fun x => leBytes 8 (s.tickDigest x.1 x.2).toNat)

/-- The window digest of the 64 ticks from `w` on (R308). -/
def State.windowDigest (s : State) (w : Nat) : U64 := BitVec.ofNat 64 (crc64 (s.windowBytes w))

end Sys2Proof.Machine
end

