-- ==== Sys2Proof/Machine/Stream.lean ====
section
/-!
DEFINITION. Stream input (chapter 14): frame and summary items (R416, R417, R420, R422, R424), binding tables (R418), quarantine (R419).
-/
namespace Sys2Proof.Machine

/-- An empty binding table entry (Table 14.8). -/
def emptyBinding (_ : Nat) : Binding := ⟨0, 0⟩

/-- FRAMES of an entry. -/
def Binding.frames (b : Binding) : Bool := b.target.getLsbD 15

/-- SUMMARIES of an entry. -/
def Binding.summaries (b : Binding) : Bool := b.target.getLsbD 14

/-- Layout bed × 64 + slot of an entry's target (Table 14.8). -/
def Binding.place (b : Binding) : Nat := b.target.toNat % 256

/-- An entry with FRAMES and SUMMARIES both 0 is empty. -/
def Binding.used (b : Binding) : Bool := b.frames || b.summaries

/-- The value congruent to `stamp` modulo 2^24 that is nearest to `now`, a tie going to the lower value (R416). -/
def extendStamp (now stamp : Nat) : Nat :=
  let m := 2 ^ 24
  let base := now / m * m + stamp % m
  let low := if base ≤ now then base else base - m
  let high := low + m
  if now < m ∧ now < base then base
  else if now - low ≤ high - now then low else high

/-- The slot stands in an entry order of the phase of tick `t` (R417). -/
def State.inOrder (s : State) (t place : Nat) : Bool :=
  match s.phaseAt t with
  | some p => (p.slot? (place / 64) (place % 64)).isSome
  | none => false

/-- Index of the first entry that some earlier or later entry conflicts with. -/
def firstPair (m : Map Binding) (ok : Binding → Bool) (same : Binding → Binding → Bool) : Option Nat :=
  (m.find? (fun e => ok e.2 && m.any (fun f => f.1 != e.1 && ok f.2 && same e.2 f.2))).map Prod.fst

/-- Checks 0x4 to 0x7 of a binding table in code order: code and first conflicting entry; code 0 when it passes (R418). -/
def State.bindCheck (s : State) (m : Map Binding) : Nat × Nat :=
  match firstPair m Binding.used (fun a b => a.sender == b.sender) with
  | some i => (4, i)
  | none => match firstPair m Binding.frames (fun a b => a.place == b.place) with
    | some i => (5, i)
    | none => match m.find? (fun e => e.2.frames && s.phase?.isSome && !s.inOrder s.count.toNat e.2.place) with
      | some e => (6, e.1)
      | none => match m.find? (fun e => e.2.used && e.2.sender.toNat % 256 == 0) with
        | some e => (7, e.1)
        | none => (0, 0)

/-- The table that governed tick `t` among those superseded: the oldest whose end lies after it. -/
def formerAt (t : Nat) : List (U64 × Map Binding) → Option (Map Binding)
  | [] => none
  | (e, m) :: rest =>
    match formerAt t rest with
    | some x => some x
    | none => if t < e.toNat then some m else none

/-- The active table in force at tick `t` (R417, R418): a table armed for a horizon at or before it counts already, if it will pass. -/
def State.tableAt (s : State) (t : Nat) : Map Binding :=
  let armed := match s.stm.armed with
    | some h => decide (h.toNat ≤ t) && (s.bindCheck s.stm.pending).1 == 0
    | none => false
  if armed then s.stm.pending else (formerAt t s.stm.former).getD s.stm.active

/-- Address of a per-slot counter: it belongs to a layout bed and slot (R432). -/
def slotCounter (a place : Nat) : Nat := a + 0x1000000 * (place + 1)

/-- Quarantine an item (R419): `first` is the horizon that its class gives a new entry. -/
def State.quarantine (s : State) (sender : Word) (lane : Nat) (summary : Bool) (first : U64) : State :=
  let s := s.setFlag STM_STAT_QUAR true
  match s.stm.quar.find? (fun e => e.2.sender == sender) with
  | some (i, q) =>
    let q := { q with lane := lane, frameSeen := q.frameSeen || !summary, sumSeen := q.sumSeen || summary, items := min (q.items + 1) 0xFFFF }
    { s with stm := { s.stm with quar := mapSet s.stm.quar i q } }
  | none =>
    match (List.range 256).find? (fun i => (mapFind s.stm.quar i).isNone) with
    | some i =>
      let q : Quar := { sender := sender, lane := lane, frameSeen := !summary, sumSeen := summary, first := first, items := 1 }
      { s with stm := { s.stm with quar := mapSet s.stm.quar i q } }
    | none => (s.setFlag STM_STAT_QUAR_OVF true).bump STM_QUAR_OVF_CNT

/-- Items of a stream lane are delivered: the firmware runs, the lane is on, its version offer stands and no self-test has disconnected
it (R408, R412, R421). -/
def State.streamOn (s : State) (lane : Nat) : Bool :=
  (s.mod.st.serving || (s.mod.st == .waking && !s.mod.warm && s.mod.fwOk)) && !s.mod.bootRom &&
    s.flag (LNK_CTL_ENABLE.on (lnkOff lane)) && !s.laneRetired lane && !s.flag (verBadField lane) && s.laneState lane != 6

/-- The place of a bound sender at a tick: a FRAMES entry whose slot stands in an entry order (R417). -/
def State.boundPlace (s : State) (sender : Word) (t : Nat) : Option Nat :=
  ((s.tableAt t).find? (fun e => e.2.frames && e.2.sender == sender && sender.toNat % 256 != 0 && s.inOrder t e.2.place)).map
    (fun e => e.2.place)

/-- Position of a slot in its bed's entry order (R58). -/
def PhaseProg.pos? (p : PhaseProg) (bed slot : Nat) : Option Nat := (p.order bed).findIdx? (fun q => q.slot == slot)

/-- The latest instant, in ps after the stamped tick, at which the last bit may come: the arrival limit (R58, R60, R61). -/
def arrivalLimit (p : Phase) (pos : Nat) : Int := ((p.a : Int) + pos * p.ii - 25) * 800

/-- A frame held on time for its slot and tick (R64). -/
def State.holdArrival (s : State) (place h : Nat) (payload : List Byte) (corrupt bridge : Bool) : State :=
  let same := fun (a : Arrived) => a.layoutBed == place / 64 && a.slot == place % 64 && a.hzn.toNat == h
  match s.fast.arrived.find? same with
  | some _ =>
    { s with fast := { s.fast with arrived := s.fast.arrived.map (fun a =>
        if same a then { a with count := a.count + 1, bridge := a.bridge || bridge } else a) } }
  | none =>
    let a : Arrived := { layoutBed := place / 64, slot := place % 64, hzn := BitVec.ofNat 64 h, count := 1, corrupt := corrupt
                         bridge := bridge, payload := payload, missing := false, causes := [] }
    { s with fast := { s.fast with arrived := s.fast.arrived ++ [a] } }

/-- Unit word of a bridge lane: direction bit 7 is the die the transfer leaves (Table 11.12); which lane failed the command does not
say: lane 0. -/
def bridgeUnit (fromDie : Nat) : Word := BitVec.ofNat 32 (0x90000000 + fromDie * 2 ^ 27 + fromDie * 128)

/-- ps from the tick `h` to the present one, by the ticks as they came; ticks that are not kept, or not come yet, are a nominal period apart
(R39, R61). -/
def State.sinceTick (s : State) (h : Nat) : Int :=
  let n : Int := (s.count.toNat : Int) - h
  let got := s.hz.spans.take n.toNat
  (got.sum : Nat) + (n - got.length) * s.tickPs

/-- Judge a bound frame item in Growing: early, late, corrupt or on time (R422, R61 to R64). -/
def State.judgeFrame (s : State) (p : PhaseProg) (place h ps : Nat) (payload : List Byte) (broken bridge : Bool) : State :=
  let tol := s.fld HZN_ALIGN_EARLY_TOL
  let now := s.count.toNat
  let pos := (p.pos? (place / 64) (place % 64)).getD 0
  let elapsed : Int := s.sinceTick h + ps
  if now + tol < h then (s.bump (slotCounter STM_SLOT_EARLY_CNT place)).bump HZN_EARLY_CNT
  else if arrivalLimit p.ph pos < elapsed then (s.bump (slotCounter STM_SLOT_LATE_CNT place)).bump HZN_LATE_CNT
  else
    let len := match p.slot? (place / 64) (place % 64) with | some q => q.length | none => 0
    s.holdArrival place h payload (broken || payload.length != len) bridge

/-- The die on which a slot's frames of a tick are held: that of the first bed of its layout bed. -/
def State.homeDie (s : State) (h place : Nat) : Nat := match (s.progAt h).beds (place / 64) with | b :: _ => bedDie b | [] => 0

/-- The die that a stream lane ends on (Table 1.1): east lanes 0 to 23, west lanes 24 to 47. -/
def laneDie (lane : Nat) : Nat := if lane < 24 then 0 else 1

/-- FRAME_ITEM (R416, R417, R419, R420, R422). -/
def State.frameItem (s : State) (lane : Nat) (sender : Word) (stamp : Nat) (payload : List Byte) (broken bridge : Bool) (ps : Nat) : State :=
  let h := extendStamp s.count.toNat stamp
  match s.boundPlace sender h with
  | none => s.quarantine sender lane false (BitVec.ofNat 64 h)
  | some place =>
    if s.mod.st == .growing then
      match s.phaseAt h with
      | some p =>
        let cross := bridge && s.homeDie h place != laneDie lane
        let s := if cross then s.detect (bridgeUnit (laneDie lane)) 8 (BitVec.ofNat 64 h) (frameTag (BitVec.ofNat 64 h) (place % 64)) else s
        s.judgeFrame p place h ps payload broken cross
      | none => s
    else s.bump (slotCounter STM_SLOT_REFUSED_CNT place)

def execFrameItem (lane : Fin 48) (sender : Word) (stamp : BitVec 24) (payload : List Byte) (broken : Bool) (bridge : Bool) (ps : Nat)
    (s : State) : Out :=
  .next (if s.streamOn lane then s.frameItem lane sender stamp.toNat payload broken bridge ps else s)

/-! Slow summaries -/

/-- The die, group and index of a channel (R197). -/
def State.channel? (s : State) (c : Nat) : Option (Fin 2 × Nat × Nat) :=
  let at_ := fun (e : Fin 2) => (s.loess? e).bind (fun l =>
    (l.chans.find? (fun r => decide (r.first ≤ c ∧ c < r.first + r.count))).map (fun r => (e, r.group, r.index + (c - r.first))))
  match at_ 0 with
  | some x => some x
  | none => at_ 1

/-- A late summary meets an earlier one of its channel and period: that one is discarded and the entry takes ABSENT, in the slab buffer or in a
slab that no loess work reads yet, whose block is then written again (R200, Table 6.9; the slab already written: DESIGN CHOICE, log
entry 119). -/
def State.lateSecond (s : State) (e : Fin 2) (group period i : Nat) (g : ChanGroup) : State :=
  let eng : Engine := s.eng[e]
  let drop := fun (b : Slab) => { b with values := mapErase b.values i, dups := b.dups ++ [i], count := b.count - 1 }
  let has := fun (m : Map Slab) => (mapFind m period).filter (fun b => (mapFind b.values i).isSome)
  match has g.openBufs, has g.slabs with
  | some b, _ =>
    (s.setEng e { eng with groups := mapSet eng.groups group { g with openBufs := mapSet g.openBufs period (drop b) } }).bump STM_SUM_DUP_CNT
  | none, some b =>
    if g.decl.readableAt period ≤ s.count.toNat then s
    else
      let s := s.setEng e { eng with groups := mapSet eng.groups group { g with slabs := mapSet g.slabs period (drop b) } }
      (s.queueBlocks e 2 (g.decl.blocks period) .store).bump STM_SUM_DUP_CNT
  | none, none => s

/-- One entry into a slab buffer: late, a duplicate, or stored (R200, R424). -/
def State.summaryEntry (s : State) (e : Fin 2) (group period i v ps : Nat) : State :=
  let eng : Engine := s.eng[e]
  match mapFind eng.groups group with
  | none => s
  | some g =>
    let limit := (period + 1) * g.decl.slowTicks + g.decl.slowDeadline
    let late := decide (limit < s.count.toNat) || (decide (limit = s.count.toNat) && ps != 0) || (mapFind g.slabs period).isSome
    if late then (s.bump STM_SUM_LATE_CNT).lateSecond e group period i g
    else
      let b : Slab := (mapFind g.openBufs period).getD ⟨[], [], 0⟩
      let put := fun (b : Slab) => s.setEng e { eng with groups := mapSet eng.groups group { g with openBufs := mapSet g.openBufs period b } }
      if b.dups.contains i then s.bump STM_SUM_DUP_CNT
      else if (mapFind b.values i).isSome then
        (put { b with values := mapErase b.values i, dups := b.dups ++ [i] }).bumpBy STM_SUM_DUP_CNT 2
      else put { b with values := mapSet b.values i v }

/-- SUMMARY_ITEM (R416, R417, R419, R424). -/
def State.summaryItem (s : State) (lane : Nat) (sender : Word) (stamp : Nat) (body : List Byte) (broken : Bool) (ps : Nat) : State :=
  let first := leAt body 0 4 % 2 ^ 20
  let count := leAt body 4 2
  let width := leAt body 6 1
  let now := s.count.toNat
  let chan := s.channel? first
  let group := chan.bind (fun c => mapFind s.eng[c.1].groups c.2.1)
  let period := match group with | some g => extendStamp (now / max g.decl.slowTicks 1) stamp | none => 0
  let tick := match group with | some g => (period + 1) * g.decl.slowTicks | none => now
  let bound := (s.tableAt tick).any (fun e => e.2.summaries && e.2.sender == sender && sender.toNat % 256 != 0)
  if !bound then s.quarantine sender lane true s.count
  else
    let all := (List.range count).map (fun i => s.channel? (first + i))
    let bad := broken || count == 0 || decide (body.length < 8 + count * width) || all.any Option.isNone
      || (match chan, group with
          | some c, some g => all.any (fun x => match x with | some y => y.1 != c.1 || y.2.1 != c.2.1 | none => true) || width != g.decl.width
          | _, _ => true)
    if bad then s.bump STM_SUM_BAD_CNT
    else match chan with
      | none => s
      | some c =>
        if s.eng[c.1].running then
          all.zipIdx.foldl (fun s xi => match xi.1 with
            | some y => s.summaryEntry c.1 c.2.1 period y.2.2 (leAt body (8 + xi.2 * width) width) ps
            | none => s) s
        else s

def execSummaryItem (lane : Fin 48) (sender : Word) (stamp : BitVec 24) (body : List Byte) (broken : Bool) (ps : Nat) (s : State) : Out :=
  .next (if s.streamOn lane then s.summaryItem lane sender stamp.toNat body broken ps else s)

/-! Binding commands -/

/-- STM_BIND_STAT: code and first conflicting entry (Table 14.9). -/
def State.bindStat (s : State) (code conflict : Nat) : State := s.setReg STM_BIND_STAT (BitVec.ofNat 32 (conflict * 65536 + code))

/-- The table entry that STM_BIND_IDX names. -/
def State.bindIdx (s : State) : Nat := (s.reg STM_BIND_IDX).toNat % 4096

/-- Show a table entry in the staging registers. -/
def State.stageEntry (s : State) (b : Binding) : State := (s.setReg STM_BIND_SENDER b.sender).setReg STM_BIND_TARGET b.target

/-- Command 0x1: copy the active table to the pending one (R418). -/
def State.bindCopy (s : State) : State := { s with stm := { s.stm with pending := s.stm.active } }

def execBindCopyActive (path : Path) (s : State) : Out := .next (s.via path STM_BIND_CMD (fun s => s.bindCopy))

/-- Command 0x2: write the staged sender and target into the pending entry (R418). -/
def State.bindWrite (s : State) : State :=
  let b : Binding := ⟨s.reg STM_BIND_SENDER, s.reg STM_BIND_TARGET &&& 0xC0FF⟩
  { s with stm := { s.stm with pending := mapPut emptyBinding s.stm.pending s.bindIdx b } }

def execBindWriteEntry (path : Path) (s : State) : Out := .next (s.via path STM_BIND_CMD (fun s => s.bindWrite))

def execBindReadPending (path : Path) (s : State) : Out :=
  .next (s.via path STM_BIND_CMD (fun s => s.stageEntry (mapGet emptyBinding s.stm.pending s.bindIdx)))

def execBindReadActive (path : Path) (s : State) : Out :=
  .next (s.via path STM_BIND_CMD (fun s => s.stageEntry (mapGet emptyBinding s.stm.active s.bindIdx)))

/-- Command 0x5: outside Growing the pending table is checked and applied at once; it governs every item judged from now on (R418). -/
def State.bindApply (s : State) : State :=
  if s.mod.st == .growing then s.bindStat 9 0
  else
    let c := s.bindCheck s.stm.pending
    if c.1 = 0 then
      let s := { s with stm := { s.stm with active := s.stm.pending, former := [] } }
      (s.setFlag STM_STAT_BIND_DONE true).bindStat 2 0
    else s.bindStat c.1 c.2

def execBindApply (path : Path) (s : State) : Out := .next (s.via path STM_BIND_CMD (fun s => s.bindApply))

/-- Command 0x6: cancel an armed commit (R418). -/
def State.bindCancel (s : State) : State :=
  if s.stm.armed.isSome then ({ s with stm := { s.stm with armed := none } } : State).bindStat 8 0 else s

def execBindCancel (path : Path) (s : State) : Out := .next (s.via path STM_BIND_CMD (fun s => s.bindCancel))

/-- A write of STM_BIND_COMMIT_HI: check 0x3 refuses it, else the commit is armed (R418). -/
def State.bindArm (s : State) (v : Word) : State :=
  let s := s.setReg STM_BIND_COMMIT_HI v
  let h := s.reg64 STM_BIND_COMMIT_LO
  if !lowZero 10 h || decide (h.toNat < s.count.toNat + 1024) then s.bindStat 3 0
  else ({ s with stm := { s.stm with armed := some h } } : State).bindStat 1 0

def execBindCommitArm (path : Path) (value : Word) (s : State) : Out :=
  .next (s.via path STM_BIND_COMMIT_HI (fun s => s.bindArm value))

/-- BIND_COMMIT_HORIZON: the pending table as it stands is checked against the phase in force; it becomes active, or the commit is
refused (R418). -/
def State.bindCommit (s : State) (h : U64) : State :=
  let c := s.bindCheck s.stm.pending
  let s := { s with stm := { s.stm with armed := none } }
  if c.1 = 0 then
    let s := { s with stm := { s.stm with former := (h, s.stm.active) :: s.stm.former.take 7, active := s.stm.pending } }
    (s.setFlag STM_STAT_BIND_DONE true).bindStat 2 0
  else s.bindStat c.1 c.2

/-- A rotation whose change horizon has come re-shards before the binding checks (R431, R505). -/
def State.reshardFirst (s : State) (h : U64) : Bool :=
  s.mod.st == .growing && s.svc.rot.any (fun r => r.armed.any (fun x => decide (x.toNat ≤ h.toNat)))

def execBindCommitHorizon (s : State) : Out :=
  .next (match s.stm.armed with
    | some h => if h.toNat ≤ s.count.toNat && !s.reshardFirst h then s.bindCommit h else s
    | none => s)

def execQuarClearEntry (path : Path) (s : State) : Out :=
  .next (s.via path STM_QUAR_CMD (fun s =>
    { s with stm := { s.stm with quar := mapErase s.stm.quar ((s.reg STM_QUAR_IDX).toNat % 256) } }))

def execQuarClearAll (path : Path) (s : State) : Out :=
  .next (s.via path STM_QUAR_CMD (fun s => { s with stm := { s.stm with quar := [] } }))

end Sys2Proof.Machine
end

