-- ==== Sys2Proof/Machine/FastOps.lean ====
section
/-!
DEFINITION. Shared operations of the fast tier: the evaluation of a bed's network on the entry bytes of a frame (chapters 3 to 5), the
context a frame takes (R244 to R250), missing parts (R348), mirror captures (R356), admission of settled queries (R251 to R255).
-/
namespace Sys2Proof.Machine

/-! Networks -/

/-- The bank bytes that frames of tick `h` read: a correction acts from its commit horizon on (R114). -/
def Bed.bankAt (b : Bed) (h : Nat) : Map Byte :=
  ((b.before.reverse.find? (fun x => decide (h < x.1.toNat))).map Prod.snd).getD b.banks

/-- The grain that GRN_SEL selects, as physical bed and row × 64 + logical column; a grain of a physical column that serves no logical
one stands at 2,048 + row × 66 + column; none where the selection names an absent grain (R128). -/
def State.selGrain (s : State) : Option (Nat × Nat) :=
  let b := s.fld GRN_SEL_BED % 4
  let bed : Bed := s.beds[b]!
  let c := s.fld GRN_SEL_COLUMN
  let row := s.fld GRN_SEL_ROW
  if !s.bedPresent b then none
  else if s.flag GRN_SEL_PHYS then
    match bed.logicalOf c with
    | some l => some (b, row * 64 + l)
    | none => if c < 66 then some (b, 2048 + row * 66 + c) else none
  else if c < bed.usable then some (b, row * 64 + c)
  else none

/-- Key of a span word: part, die of its sender, slot and tick (R122, R123). -/
def spanKey (part die slot h : Nat) : Nat := part * 2 ^ 84 + die * 2 ^ 80 + slot * 2 ^ 64 + h

/-- A span output of a network that leads to layout bed `lb`, by port and the fc in which the word enters column 0 there: 2 fc on the same
die, 12 across dies (R122). The two frames of a tag stand `pos` entry positions apart, the sender's first. -/
def SpanOut.enters (x : SpanOut) (lb : Nat) (cross : Bool) (ii : Nat) (pos : Int) (port fc : Nat) : Bool :=
  x.target == lb && x.port.val == port && decide ((x.fc : Int) + (if cross then 12 else 2) + pos * ii = fc)

/-- A copy of a frame is intact so far: nothing touched it, its bed can produce verdicts, and no bridge error met the west copy of a pair on
its way to the comparator (R118, R119, R346). -/
def State.copyCause (s : State) (f : Frame) (c : BedCopy) : Option Nat :=
  let b : Fin 4 := Fin.ofNat 4 c.bed
  if !c.intact then some c.cause
  else if s.beds[b].degraded || s.bedUnable b then some 3
  else s.touchCause b f.hzn

/-- One span of a phase that comes into a bed: sender's layout bed, its span output, and whether it crosses the bridge (R122). -/
structure SpanIn where
  from_ : Nat
  out : SpanOut
  cross : Bool
deriving DecidableEq, Repr, Inhabited

/-- The bed that sends span words to bed `b` for a layout bed: the one that carries the layout bed there, on the same die in a mirrored
phase, whose pairs are joined bed by bed (R122). -/
def spanSender (p : PhaseProg) (beds : List (Fin 4)) (b : Fin 4) : Option (Fin 4) :=
  beds.find? (fun x => !p.ph.mirrored || bedDie x.val == bedDie b.val)

/-- The spans that come into bed `b`, which carries layout bed `lb`, for frames of a tick's program (R122). -/
def State.spansInto (s : State) (pg : PastProg) (p : PhaseProg) (lb : Nat) (b : Fin 4) : List SpanIn :=
  (List.range p.ph.layoutBeds).flatMap (fun n =>
    if n = lb then [] else
    match spanSender p (pg.beds n) b with
    | none => []
    | some x => match (s.beds[x] : Bed).variant with
      | none => []
      | some v => (v.net.spans.filter (fun y => y.target == lb)).map (fun y => ⟨n, y, bedDie x.val != bedDie b.val⟩))

/-- Compiled default of a part as a port word (R123, R348). -/
def PhaseProg.partWord (p : PhaseProg) (part tag : Nat) : PortWord :=
  .form true tag (packElems ((((p.decision.parts.find? (fun x => x.part == part)).map PartDefault.values).getD []).take 8))

/-- What a bed computes a copy of a frame with, given the span words that came in intact (R122, R123). -/
def State.envOf (s : State) (p : PhaseProg) (f : Frame) (c : BedCopy) (v : Variant) (spans : List (SpanIn × Option PortWord)) : NetEnv :=
  let bed : Bed := s.beds[c.bed % 4]!
  let tag := frameTag f.hzn f.slot
  let pos := fun (lb : Nat) => ((p.pos? lb f.slot).getD 0 : Nat)
  let unit := fun (cls : Nat) (u : Word) => c.errs.any (fun x => x.cls == cls && x.unit == u)
  { net := v.net, bank := bed.bankAt f.hzn.toNat, latches := bed.latches, ii := p.ph.ii, cols := v.u, keys := p.keys
    layoutBed := f.layoutBed, slot := f.slot, hzn := f.hzn.toNat
    map := ((p.slot? f.layoutBed f.slot).map SlotProg.map).getD [], entry := c.entry
    span := fun port fc =>
      (spans.find? (fun x => x.1.out.enters f.layoutBed x.1.cross p.ph.ii ((pos x.1.from_ : Int) - pos f.layoutBed) port fc)).map
        (fun x => x.2.getD (p.partWord x.1.out.part tag))
    upset := (List.range 2048).filter (fun g => unit 3 (grainUnit c.bed (g / 64) (bed.physOf (g % 64))))
    unsteered := (List.range 32).filter (fun r => unit 5 (bedUnit c.bed r 5)) }

/-- What a copy of a frame came to: its passage, what it was computed with, and the parts that were missing. -/
structure CopyRun where
  bits : Nat
  summary : List Int
  /-- saturation events of the bed, and those of the grain that GRN_SEL selects (R189) -/
  events : Nat
  sel : Nat
  /-- words that leave span ports, by part -/
  sent : List (Nat × PortWord)
  missing : List Nat
  faults : List UnitError
deriving DecidableEq, Repr, Inhabited

/-- A fault met in the fabric, as the unit reports it; the exit unit's stands under its first copy (Table 11.12). -/
def FabricFault.report (bed : Bed) (b tag : Nat) (x : FabricFault) : UnitError :=
  match x with
  | .parity g => ⟨grainUnit b (g / 64) (bed.physOf (g % 64)), 3, [tag]⟩
  | .occupancy g => ⟨grainUnit b (g / 64) (bed.physOf (g % 64)), 4, [tag]⟩
  | .exitParity => ⟨bedUnit b 0 1, 3, [tag]⟩
  | .exitOccupancy => ⟨bedUnit b 0 1, 4, [tag]⟩
  | .steering row => ⟨bedUnit b row 5, 5, [tag]⟩

/-- Evaluate one copy of a frame. A span word comes from the frame of the same tag in the bed that sends it, as far as the fuel goes, else
from the words that have crossed; a word is intact when nothing touched its sender's frame and no bridge error met it (R122, R123). -/
def State.evalCopy (s : State) : Nat → PhaseProg → Frame → BedCopy → CopyRun
  | 0, _, _, _ => default
  | n + 1, p, f, c =>
    let bed : Bed := s.beds[c.bed % 4]!
    match bed.variant with
    | none => { (default : CopyRun) with summary := List.replicate 16 0 }
    | some v =>
      let word := fun (x : SpanIn) =>
        if x.cross ∧ c.errs.any (fun y => y.cls == 8) then none
        else
          let here := s.fast.frames.find? (fun (g : Frame) => g.hzn == f.hzn && g.slot == f.slot && g.layoutBed == x.from_ && !g.exited)
          let sender := fun (d : BedCopy) => !p.ph.mirrored || bedDie d.bed == bedDie c.bed
          match here with
          | some g => (g.copies.find? sender).bind (fun d =>
              if (s.copyCause g d).isNone then mapFind (s.evalCopy n p g d).sent x.out.part else none)
          | none => mapFind s.fast.spans (spanKey x.out.part (if p.ph.mirrored then bedDie c.bed else 0) f.slot f.hzn.toNat)
      let spans := (s.spansInto (s.progAt f.hzn.toNat) p f.layoutBed (Fin.ofNat 4 c.bed)).map (fun x => (x, word x))
      let env := s.envOf p f c v spans
      let run := env.run
      { bits := env.bits run, summary := env.summary run
        events := (run.events.map Prod.snd).sum
        sel := match s.selGrain with
          | some (b, g) => if b = c.bed then mapGet 0 run.events g else 0
          | none => 0
        sent := v.net.spans.map (fun x => (x.part, env.spanWord run x.port.val x.fc))
        missing := (spans.filter (fun x => x.2.isNone)).map (fun x => x.1.out.part)
        faults := (env.faults run).map (fun x => x.report bed c.bed env.tag) }

/-! Context -/

/-- What the entry unit finds in the context buffer for a frame (R244, R262). -/
structure CtxPick where
  bytes : List Byte
  histTick : U64
  sat : Bool
  loose : Bool
deriving DecidableEq, Repr, Inhabited

/-- The package an engine offers for a ring and tick, with the lag D of firm mode: the cause it fails with, or the package (R242, R245, R214,
R262). -/
def Engine.offer (g : Engine) (looseMode : Bool) (d ring : Nat) (h : U64) : Nat ⊕ CtxPick :=
  let pick := fun (k : Package) => (⟨k.bytes, k.histTick, k.sat, k.loose⟩ : CtxPick)
  if looseMode then
    let fit := g.pkgs.filter (fun (k : Package) => k.ring == ring && k.cause == 0 && decide (k.histTick.toNat < h.toNat ∧ k.usable ≤ h.toNat))
    match fit.foldl (fun (m : Option Package) k => match m with
        | some j => if j.histTick.toNat < k.histTick.toNat then some k else some j
        | none => some k) none with
    | some k => .inr (pick k)
    | none => .inl 5
  else
    match g.pkgs.find? (fun (k : Package) => k.ring == ring && k.hzn == h && decide (k.usable ≤ h.toNat ∧ k.histTick.toNat + d = h.toNat)) with
    | some k => if k.cause = 0 then .inr (pick k) else .inl k.cause
    | none => .inl 5

/-- A package of this engine is late for tick `h` (R245). -/
def State.lateAt (s : State) (e : Fin 2) (h : U64) : State :=
  let g : Engine := s.eng[e]
  let s := match g.lateTick with
    | some (t, _) => if t = h then s else s.flushLate e
    | none => s
  let g : Engine := s.eng[e]
  let n := match g.lateTick with | some (_, n) => n | none => 0
  let s := s.setEng e { g with lateTick := some (h, n + 1) }
  (s.bump (LSS_CTX_LATE_CNT + lssOff e)).setFlag (LSS_STAT_CTX_LATE.on (lssOff e)) true

/-- The engines that serve a frame's beds: one, or both of a mirror pair. -/
def enginesOf (beds : List (Fin 4)) : List (Fin 2) := (beds.map (fun b => engOf b.val)).eraseDups

/-! Combining -/

/-- Parts are missing in a combination: counted; EVENT 0x0560 once a tick at most (R348, Table 11.2). -/
def State.partsMissing (s : State) (lb slot : Nat) (h : U64) (part n : Nat) : State :=
  let s := s.bump FLT_PARTIAL_CNT
  if s.fast.partialAt = some h then s
  else
    let s := { s with fast := { s.fast with partialAt := some h } }
    s.writeEventAt 0x0560 h (slot % 8) [bedSlot lb slot, part, n]

/-- A verdict with CAUSE 3, 4 or 6 counts (R347). -/
def State.countSub (s : State) (causes : List Nat) : State :=
  if [3, 4, 6].contains (firstCause causes) then s.bump FLT_SUB_CNT else s

/-- Causes as a bit set, bit k for cause k (Table 9.6). -/
def causeBits (cs : List Nat) : Nat := ((causeList cs).map (fun c => 2 ^ c)).sum

/-- The causes of a bit set. -/
def bitCauses (n : Nat) : List Nat := [1, 2, 3, 4, 5, 6, 7].filter (fun c => n / 2 ^ c % 2 == 1)

/-- A part as the 32 bytes of its slot (Table 15.2). -/
def Part.bytes (p : Part) : List Byte :=
  leBytes 8 p.hzn.toNat ++ leBytes 1 p.src ++ leBytes 1 0x5A ++ leBytes 1 p.part ++ leBytes 1 p.flags ++ leBytes 2 p.bits
    ++ leBytes 2 p.causes ++ (List.range 16).map (fun i => BitVec.ofInt 8 (p.summary.getD i 0))

/-- merge_parts(): bits, causes, flags, summary, and the saturation events of its additions (R132, R445). -/
def mergeParts (ps : List Part) : Nat × Nat × Nat × List Int × Nat :=
  let bits := ps.foldl (fun b (p : Part) =>
    let low := Nat.lor (b % 256) (p.bits % 256)
    low + max (b / 256 % 8) (p.bits / 256 % 8) * 256) 0
  let causes := ps.foldl (fun c (p : Part) => Nat.lor c p.causes) 0
  let flags := ps.foldl (fun c (p : Part) => Nat.lor c p.flags) 0
  let sums := (List.range 16).map (fun e => treeSumSat 8 ps.length (ps.map (fun (p : Part) => p.summary.getD e 0)))
  (bits, causes, flags, sums.map Prod.fst, (sums.map Prod.snd).sum)

/-- A part of this module is formed: it goes to its destinations' slots, or into this module's own queue where it is one (R444, R445,
R452). -/
def State.formPart (s : State) (p : Part) : State :=
  match s.cascade? with
  | none => s
  | some c =>
    let mine := c.spans.filter (fun (sp : CascSpan) => sp.src == p.src && sp.srcPart == p.part)
    let here := mine.any (fun (sp : CascSpan) => sp.dest == s.position || (sp.kind == 0 && c.deputy == s.position))
    let s := { s with ring := { s.ring with parts := if here then s.ring.parts ++ [p] else s.ring.parts } }
    (s.partExits c p.src p.part).foldl (fun s x => s.queuePart x.1 x.2 p.bytes) s

/-! Divergence captures -/

/-- A capture's 2,048 bytes; bank digests that are not filled in are zero (Table 11.5). -/
def Capture.bytes (c : Capture) : List Byte :=
  leBytes 8 c.hzn.toNat ++ [c.slot, c.phase] ++ leBytes 2 c.eastBits.toNat ++ leBytes 2 c.westBits.toNat ++ leBytes 2 c.kind
    ++ padTo 16 c.eastSummary ++ padTo 16 c.westSummary ++ zeroBytes 16 ++ padTo 576 c.eastEntry ++ padTo 576 c.westEntry
    ++ padTo 128 c.package ++ padTo 64 (c.eastBanks.getD []) ++ padTo 64 (c.westBanks.getD []) ++ zeroBytes 576

/-- Write EVENT 0x0581 with the digest of a capture; it concerns the frame's tick and stream slot (R317, R327, R355, R356). -/
def State.captureEvent (s : State) (index : Nat) (c : Capture) : State :=
  s.writePair 0x0581 c.hzn (c.slot.toNat % 8) index (sha512 c.bytes)

/-- A capture goes to its place in the east die's mover scratch in class 5 (R302, R356). -/
def State.storeCapture (s : State) (index : Nat) (c : Capture) : State :=
  { s with flt := { s.flt with
      captures := mapSet s.flt.captures index c
      jobs := s.flt.jobs ++ blockJobs 0 5 (blocksOf (captureBase + index * 2048) 2048) s.tim.c } }

/-- The next capture place whose entry the host has read, from `i` on in the ring (R356). -/
def freeCapture (m : Map Capture) : Nat → Nat → Nat
  | 0, i => i
  | n + 1, i => if (mapFind m i).isNone then i else freeCapture m n ((i + 1) % 4096)

/-- A disagreement between intact copies of a pair: counted, captured, EVENT 0x0580; the test of both copies starts unless it runs. A
quick disagreement's capture waits for the bank digests of the whole-bed test; one that is skipped carries index 0xFFFF (R355, R356,
Table 11.7). -/
def State.disagreement (s : State) (pair : Nat) (c : Capture) : State :=
  let s := s.bump FLT_DISAGREE_CNT
  let slot := c.slot.toNat
  let s := s.writeEventAt 0x0580 c.hzn (slot % 8) [slot, c.kind]
  let skip := decide (4096 ≤ s.flt.captures.length)
  let index := if skip then 0xFFFF else freeCapture s.flt.captures 4096 s.flt.capNext
  let running := s.flt.pairTests.any (fun (t : PairTest) => t.pair == pair && t.kind == c.kind)
  let waits := c.kind == 0 && !skip
  let tests := if running then
      s.flt.pairTests.map (fun (t : PairTest) => if t.pair = pair ∧ t.kind = c.kind then
        { t with indices := if waits then t.indices ++ [index] else t.indices, further := t.further + 1 } else t)
    else s.flt.pairTests ++ [(⟨pair, c.kind, if waits then [index] else [], 0, c.hzn, c.slot⟩ : PairTest)]
  let s := if skip then s else s.storeCapture index c
  let s := { s with flt := { s.flt with
      capNext := if skip then s.flt.capNext else (index + 1) % 4096
      pairTests := tests } }
  let s := if waits then s else s.captureEvent index c
  let s := s.detect (bedUnit pair 0 3) 7 c.hzn (frameTag c.hzn (slot % 64))
  s.showTesting

/-! Admission -/

/-- SET_TICKS of a phase (R254). -/
def setTicks (p : Phase) (tickPs : Nat) : Nat := (p.s * 800 + tickPs - 1) / max tickPs 1

/-- A frame is computed on a die. -/
def Frame.onDie (f : Frame) (e : Fin 2) : Bool := f.copies.any (fun (c : BedCopy) => engOf c.bed == e)

/-- Slots of a layout bed that take a frame of tick `h`: bound, or fed by the cascade, and in its entry order. -/
def State.boundAt (s : State) (place h : Nat) : Bool :=
  (s.tableAt h).any (fun e => e.2.frames && e.2.place == place && e.2.sender.toNat % 256 != 0)

/-- The slot takes deepening parts at this module (R447). -/
def State.deepSlot (s : State) (place : Nat) : Bool :=
  match s.cascade? with
  | some c => c.spans.any (fun (sp : CascSpan) => sp.kind == 1 && sp.dest == s.position && sp.destPart == place)
  | none => false

/-- The slots of a layout bed that a frame of tick `h` enters for. -/
def State.expected (s : State) (p : PhaseProg) (lb h : Nat) : List Nat :=
  ((p.order lb).map SlotProg.slot).filter (fun n => s.boundAt (ringKey lb n) h || s.deepSlot (ringKey lb n))

/-- Every frame that a layout bed takes for tick `h` has left its bed. -/
def State.bedTickDone (s : State) (p : PhaseProg) (lb : Nat) (h : U64) : Bool :=
  (s.expected p lb h.toNat).all (fun n => match s.frame? lb n h with
    | some f => f.exited
    | none => false)

/-- Every frame of tick `h` that an engine admits for has left its bed. -/
def State.tickDone (s : State) (p : PhaseProg) (e : Fin 2) (h : U64) : Bool :=
  (List.range p.entry.orders.length).all (fun lb =>
    !((s.progAt h.toNat).beds lb).any (fun b => engOf b.val == e) || s.bedTickDone p lb h)

/-- Admit or shed one query (R254, R255, R262). -/
def State.admitOne (s : State) (e : Fin 2) (p : PhaseProg) (f : Frame) : State :=
  match f.kind with
  | none => s
  | some k =>
    let g : Engine := s.eng[e]
    if g.queries.any (fun (q : Query) => q.hzn == f.hzn && q.bed == f.layoutBed && q.slot == f.slot) then s else
    let cost := ((p.ph.kinds[k]?).map QueryKind.cost).getD 0
    let bucket := (s.reg (LSS_BUCKET + lssOff e)).toNat
    let now := f.hzn.toNat
    let room := decide ((g.queries.filter (fun (q : Query) => !q.shed && decide (now < q.hzn.toNat + setTicks p.ph s.tickPs))).length < 1024)
    let r : Bool × State :=
      if s.looseAt f.hzn then (room && decide (s.drawNat.1 < p.ph.looseBacklog), s.drawNat.2)
      else (room && decide (cost ≤ bucket), s)
    let s := r.2
    let q : Query := { hzn := f.hzn, bed := f.layoutBed, slot := f.slot, kind := k, admitNs := s.tim.c, answer := none
                       shed := !r.1, discarded := false, failed := false }
    let s := s.setEng e { g with queries := g.queries ++ [q] }
    if r.1 then
      let s := if s.looseAt f.hzn then s else s.setReg (LSS_BUCKET + lssOff e) (BitVec.ofNat 32 (bucket - cost))
      let n := (g.queries.filter (fun (q : Query) => !q.shed && decide (now < q.hzn.toNat + setTicks p.ph s.tickPs))).length + 1
      let s := (s.bump (LSS_ADMIT_CNT + lssOff e)).raiseFld ⟨LSS_INFLIGHT_MAX + lssOff e, 0, 11⟩ n
      (s.scanQuery e p q).updFrame f.layoutBed f.slot f.hzn (fun x => { x with admitted := true })
    else (s.bump (LSS_SHED_CNT + lssOff e)).setFlag (LSS_STAT_SHED.on (lssOff e)) true

/-- Insert a frame in ascending layout bed, then ascending entry position (R254). -/
def placeFrame (p : PhaseProg) (f : Frame) : List Frame → List Frame
  | [] => [f]
  | g :: rest =>
    let key := fun (x : Frame) => x.layoutBed * 128 + (p.pos? x.layoutBed x.slot).getD 127
    if key f < key g then f :: g :: rest else g :: placeFrame p f rest

/-- The bucket of an engine refilled up to tick `t` (R254). -/
def State.bucketTo (s : State) (e : Fin 2) (p : Phase) (t : Nat) : Nat :=
  let g : Engine := s.eng[e]
  min ((s.reg (LSS_BUCKET + lssOff e)).toNat + p.rate * (t - g.bucketAt.toNat)) p.bucketMax

/-- The last tick whose frames have all left an engine's beds and been served, or opened no query: the bucket has been refilled for the ticks up
to it (R254). The frames of a tick are through the longest bed pipeline after the last entry position. -/
def State.servedTo (s : State) (e : Fin 2) (p : PhaseProg) : Nat :=
  let fc := p.ph.a + (p.positions - 1) * p.ph.ii + p.bedLat
  let past := s.count.toNat - (fc * 800 + s.tickPs - 1) / max s.tickPs 1
  let waits := s.fast.frames.filter (fun (f : Frame) =>
    f.onDie e && (!f.exited || (f.kind.isSome && decide ((s.eng[e] : Engine).bucketAt.toNat < f.hzn.toNat))))
  waits.foldl (fun m (f : Frame) => min m (f.hzn.toNat - 1)) past

/-- The admission bucket as it reads: refilled for every tick that is over (R254, R269). -/
def State.bucketNow (s : State) (e : Fin 2) : Nat :=
  match s.phase? with
  | some p =>
    let g : Engine := s.eng[e]
    if g.running && g.warmed then s.bucketTo e p.ph (s.servedTo e p) else (s.reg (LSS_BUCKET + lssOff e)).toNat
  | none => (s.reg (LSS_BUCKET + lssOff e)).toNat

/-- A checkpoint that is assembling takes the bucket and the queries in flight as they stand after the last tick before it, when the
engine serves the first tick from it on (R264, Table 7.7). -/
def State.takeBucket (s : State) (e : Fin 2) (p : Phase) (t : Nat) : State :=
  let g : Engine := s.eng[e]
  match g.assembling with
  | none => s
  | some a =>
    let c := a.hzn.toNat
    if a.taken.isSome ∨ t < c then s
    else
      let live := g.queries.filter (fun (q : Query) => !q.shed && decide (q.hzn.toNat < c ∧ c ≤ q.hzn.toNat + setTicks p s.tickPs))
      s.setEng e { g with assembling := some { a with taken := some (s.bucketTo e p (c - 1), live) } }

/-- admit_tick() for one tick of an engine: the bucket is refilled for every tick since the last one served (R254). -/
def State.admitTick (s : State) (e : Fin 2) (h : U64) : State :=
  match s.phaseAt h.toNat with
  | none => s
  | some p =>
    let s := s.takeBucket e p.ph h.toNat
    let g : Engine := s.eng[e]
    let a := LSS_BUCKET + lssOff e
    let s := s.setReg a (BitVec.ofNat 32 (s.bucketTo e p.ph h.toNat))
    let s := s.setEng e { g with bucketAt := h }
    let fs := (s.fast.frames.filter (fun (f : Frame) => f.hzn == h && f.kind.isSome && f.onDie e)).foldl (fun acc f => placeFrame p f acc) []
    fs.foldl (fun s f => s.admitOne e p f) s

/-- The ticks up to `h` whose opened queries an engine has not served yet, in order. -/
def State.unserved (s : State) (e : Fin 2) (h : U64) : List Nat :=
  let g : Engine := s.eng[e]
  let ts := ((s.fast.frames.filter (fun (f : Frame) => f.kind.isSome && f.onDie e && decide (g.bucketAt.toNat < f.hzn.toNat ∧ f.hzn.toNat ≤ h.toNat))).map
    (fun (f : Frame) => f.hzn.toNat))
  (ts.foldl (fun m t => mapSet m t ()) ([] : Map Unit)).map Prod.fst

/-- Serve every tick up to `h`, in horizon order (R254). -/
def State.admitUpTo (s : State) (e : Fin 2) (h : U64) : State :=
  (s.unserved e h).foldl (fun s t => s.admitTick e (BitVec.ofNat 64 t)) s

/-- Every frame of tick `h` has left: the engine serves the tick; from the end of warming the bucket runs (R249, R254). -/
def State.serveTick (s : State) (e : Fin 2) (h : U64) : State :=
  let s := s.admitUpTo e h
  let g : Engine := s.eng[e]
  if g.running && g.activeAt h && decide (g.bucketAt.toNat < h.toNat) then s.admitTick e h else s

end Sys2Proof.Machine
end

