-- ==== Sys2Proof/Machine/Fast.lean ====
section
/-!
DEFINITION. The fast tier's commands: FRAME_ENTRY (R100 to R102), BED_EXIT (R103, R118 to R120, R251), VERDICT_OUTPUT (R426, R427),
STREAM_RING_ENTRY_WRITE (R194 to R196), COMBINING_SLOT (R444 to R447).
-/
namespace Sys2Proof.Machine

/-! Errors that units report for a frame -/

/-- A unit word's type fits an error class (Tables 11.1, 11.12); class 0 stands for a corrected error of a grain bank (R89). -/
def unitFits (cls : Nat) (u : Word) : Bool :=
  let t := unitType u
  match cls with
  | 0 | 1 | 2 | 3 => t == 1
  | 4 | 5 => t == 1 || t == 2
  | 6 => t == 2
  | 8 => t == 9
  | 9 => t == 3
  | 0xA => t == 4
  | 0xB | 0xC => t == 5
  | 0xD => t == 6
  | 0xE => t == 7
  | 0xF => t == 8
  | 0x10 => t == 0xA
  | _ => false

/-- A corrected error of a grain bank changes no bit: it is counted where GRN_SEL selects the grain (R89). -/
def State.bankCorrected (s : State) (u : Word) : State :=
  let b := unitBed u
  let bed : Bed := s.beds[b % 4]!
  let s := s.setFlag (BED_STAT_ECC_CORR.on (bedOff b)) true
  let g := (bed.logicalOf (bitsOf u.toNat 0 7)).map (fun c => (b, bitsOf u.toNat 16 5 * 64 + c))
  if g.isSome && s.selGrain == g then s.bump GRN_ECC_CNT else s

/-- An occupancy fault touches every frame whose tag the unit holds (R95): `held` names the tags. -/
def State.touchHeld (s : State) (x : UnitError) : State :=
  { s with fast := { s.fast with frames := s.fast.frames.map (fun (f : Frame) =>
      if !f.exited && x.held.contains (frameTag f.hzn f.slot) then
        { f with copies := f.copies.map (fun (c : BedCopy) => if c.bed = unitBed x.unit then c.touch (classCause x.cls) else c) }
      else f) } }

/-- One unit reports an error while it handles a frame (R344 to R346): it touches the frame's copy in the unit's bed; an occupancy fault
touches the other frames whose tags the unit holds (R95). A bridge error concerns the words of the frame that cross (R118, R123). -/
def State.frameError (s : State) (lb slot : Nat) (h : U64) (x : UnitError) : State :=
  if !unitFits x.cls x.unit then s
  else if x.cls = 0 then s.bankCorrected x.unit
  else
    let s := s.detect x.unit x.cls h (frameTag h slot)
    let mine := fun (c : BedCopy) => x.cls == 8 || c.bed == unitBed x.unit
    let s := s.updFrame lb slot h (fun f => { f with copies := f.copies.map (fun (c : BedCopy) =>
      if mine c then { c with errs := c.errs ++ [x] } else c) })
    let s := if x.cls = 4 then s.touchHeld x else s
    if 1 ≤ x.cls ∧ x.cls ≤ 6 then
      s.updFrame lb slot h (fun f => { f with copies := f.copies.map (fun (c : BedCopy) =>
        if c.bed = unitBed x.unit then c.touch (classCause x.cls) else c) })
    else s

/-! Entry -/

/-- How a slot enters the bed: payload, own data, policy (none for own data), entry cause. -/
structure EntryPlan where
  payload : List Byte
  own : Bool
  policy : Option Nat
  causes : List Nat
deriving DecidableEq, Repr, Inhabited

/-- The payload and cause a slot enters with, counted (R64 to R66, R344, R422, R447). -/
def State.entryPlan (s : State) (q : SlotProg) (place : Nat) (a : Option Arrived) : EntryPlan × State :=
  let replaced := fun (pol cause : Nat) =>
    let zeros := zeroBytes q.length
    let data := if pol = 2 then (mapFind s.fast.last place).getD zeros else zeros
    (⟨data, false, some pol, [cause]⟩ : EntryPlan)
  let absent := fun (cause : Nat) =>
    (replaced q.absentPolicy cause, (s.bump HZN_ABSENT_CNT).bump (slotCounter STM_SLOT_ABSENT_CNT place))
  match a with
  | none => absent 1
  | some a =>
    if a.missing then absent 4
    else if 2 ≤ a.count then
      (replaced q.corruptPolicy 2, (s.bumpBy (slotCounter STM_SLOT_DUP_CNT place) a.count).bump (slotCounter STM_SLOT_CORRUPT_CNT place))
    else if a.corrupt || a.bridge then
      (replaced q.corruptPolicy (if a.bridge then 3 else 2), s.bump (slotCounter STM_SLOT_CORRUPT_CNT place))
    else
      (⟨a.payload, true, none, a.causes⟩,
        { s with fast := { s.fast with last := mapSet s.fast.last place a.payload } }.bump (slotCounter STM_SLOT_OK_CNT place))

/-- The context a frame takes. -/
structure Context where
  bytes : List Byte
  warm : Bool
  dflt : Bool
  fromLoess : Bool
  sat : Bool
  loose : Bool
  lag : Nat
  causes : List Nat
deriving DecidableEq, Repr, Inhabited

/-- The context of a frame: the seed package while an engine of its beds is warming; the package of its tick; else the default package,
with the cause of each engine that offers none (R117, R244 to R250, R262). Where the CONTEXT section holds no package of the slot, its bytes
are zeros (DESIGN CHOICE, log entry 111). -/
def State.contextFor (s : State) (p : PhaseProg) (lb slot : Nat) (h : U64) (beds : List (Fin 4)) : Context × State :=
  let es := enginesOf beds
  let image := p.ctx.find? (fun c => c.bed == lb && c.slot == slot)
  if es.any (fun e => (s.eng[e] : Engine).warmAt h) then
    (⟨padTo 128 ((image.map SlotContext.seed).getD []), true, false, false, false, false, 0, []⟩, s)
  else
    let offers : List (Fin 2 × (Nat ⊕ CtxPick)) := es.map (fun e => (e, (s.eng[e] : Engine).offer (s.looseAt h) p.ph.d (ringKey lb slot) h))
    let bad := offers.filterMap (fun x => match x.2 with | .inl c => some (x.1, c) | .inr _ => none)
    let s := bad.foldl (fun s (x : Fin 2 × Nat) => if x.2 = 5 then s.lateAt x.1 h else s) s
    match bad, offers with
    | [], (_, .inr k) :: _ =>
      let lag := h.toNat - k.histTick.toNat
      let s := es.foldl (fun s (e : Fin 2) => s.setFld ⟨LSS_LAG_USED + lssOff e, 0, 20⟩ lag) s
      (⟨padTo 128 k.bytes, false, false, true, k.sat, k.loose, lag, []⟩, s)
    | _, _ => (⟨padTo 128 ((image.map SlotContext.dflt).getD []), false, true, false, false, false, 0, bad.map Prod.snd⟩, s)

/-- The bytes the entry unit drives into the bed, whether a clamp applied, and its saturation events (R100, R157, R161 to R163). -/
def entryBytes (p : PhaseProg) (q : SlotProg) (payload pkg : List Byte) : List Byte × Bool × Nat :=
  let one := fun (m : EntryByte) => match m.src with
    | .ctx i => (slice pkg i 1, false, 0)
    | .elem off g =>
      let grp : NormGroup := p.entry.groups[g]
      let t := tableEntry pkg g.val
      let r := normalise (leAt payload off (if 2 ≤ grp.format.toNat then 2 else 1)) grp t.1 t.2
      ([BitVec.ofInt 8 r.1], r.2.1, r.2.2)
  let out := q.map.map one
  (out.flatMap (fun x => x.1), out.any (fun x => x.2.1), (out.map (fun x => x.2.2)).sum)

/-- A bed meets saturation events (R189). -/
def State.bedSat (s : State) (b : Fin 4) (n : Nat) : State :=
  if n = 0 then s else (s.bumpBy (BED_SAT_CNT + bedOff b) n).setFlag (BED_STAT_SAT.on (bedOff b)) true

/-- A frame enters the bed: its staging regions hold what frames leave there (R81, Table 3.4). -/
def Bed.used (b : Bed) : Bed :=
  { b with
    dirty := ((b.variant.map (fun v => v.net.regions.filter (fun r => r.kind == .staging))).getD [])
    fresh := b.fresh.filter (fun x => !((b.variant.map (fun v => v.net.isStaging (x.1 / 16384) (x.1 % 16384))).getD false)) }

/-- FRAME_ENTRY (R100, R102, R187). -/
def State.enterFrame (s : State) (pg : PastProg) (p : PhaseProg) (q : SlotProg) (lb slot : Nat) (h : U64) (errs : List UnitError) : State :=
  let place := ringKey lb slot
  let beds := pg.beds lb
  let mine := fun (a : Arrived) => a.layoutBed == lb && a.slot == slot && a.hzn == h
  let plan := s.entryPlan q place (s.fast.arrived.find? mine)
  let s := plan.2
  let ctx := s.contextFor p lb slot h beds
  let s := ctx.2
  let ent := entryBytes p q plan.1.payload ctx.1.bytes
  let f : Frame := {
    hzn := h, layoutBed := lb, slot := slot, phase := p.ph.id, imageIndex := ((pg.image.map ImageCopy.index).getD 0xFFFF)
    payload := plan.1.payload, length := plan.1.payload.length, ownData := plan.1.own
    tally := tallyOf p.keys.tally h.toNat slot lb q.tallyP
    substitute := plan.1.policy == some 0
    causes := causeList (plan.1.causes ++ ctx.1.causes)
    warm := ctx.1.warm, dflt := ctx.1.dflt, clamp := ent.2.1, sat := ctx.1.sat, loose := s.looseNow || ctx.1.loose, mirror := false
    package := ctx.1.bytes, fromLoess := ctx.1.fromLoess, lag := ctx.1.lag, epoch := s.epochOf h
    copies := beds.map (fun b => (⟨b.val, 0, [], true, 0, ent.2.2, ent.1, []⟩ : BedCopy))
    exited := false, quick := 0, summary := [], qCauses := [], kind := none, admitted := false
    settledReady := none, sCauses := [], settledDone := p.ph.s == 0, settled := 0
    quickSent := false, settledSent := p.ph.s == 0, ringDone := false, merged := false, hasSettled := p.ph.s != 0, recorded := false }
  let s := { s with
    fast := { s.fast with frames := s.fast.frames ++ [f], arrived := s.fast.arrived.filter (fun a => !mine a) }
    mod := { s.mod with busyTick := true } }
  let s := beds.foldl (fun s (b : Fin 4) =>
    ((s.setBed b (s.beds[b] : Bed).used).bump64 (BED_FRAMES_LO + bedOff b) 1).bedSat b ent.2.2) s
  let s := if ent.2.1 then (enginesOf beds).foldl (fun s (e : Fin 2) => s.bump (LSS_CLAMP_CNT + lssOff e)) s else s
  errs.foldl (fun s x => s.frameError lb slot h x) s

/-- A bed and its die can take a frame: HOLD_N of the die does not stand for it (R430). -/
def State.diesAble (s : State) (beds : List (Fin 4)) : Bool := !beds.isEmpty && beds.any (fun b => !s.dieUnable (bedDie b))

def execFrameEntry (bed : Fin 4) (slot : Fin 64) (hzn : U64) (errs : List UnitError) (s : State) : Out :=
  .next (
    let pg := s.progAt hzn.toNat
    match pg.phase? with
    | none => s
    | some p =>
      match p.slot? bed slot with
      | none => s
      | some q =>
        let place := ringKey bed slot
        let open_ := s.mod.st == .growing && s.tickOpen hzn && decide (hzn.toNat ≤ s.count.toNat) && s.diesAble (pg.beds bed)
        if open_ && (s.boundAt place hzn.toNat || s.deepSlot place) && (s.frame? bed slot hzn).isNone then
          s.enterFrame pg p q bed slot hzn errs
        else s)

/-! Exit -/

/-- What leaves a bed or a pair's comparator for a frame. -/
structure Released where
  bits : Nat
  summary : List Int
  causes : List Nat
  sub : Bool
  mirror : Bool
  /-- saturation events of the copy released -/
  events : Nat
  /-- the bed whose copy the comparator released while the other was not intact -/
  solo : Option Nat
  differ : Bool
deriving DecidableEq, Repr, Inhabited

/-- Default summary of a phase (R120). -/
def PhaseProg.dfltSummary (p : PhaseProg) : List Int :=
  let v := p.decision.summary.take 16
  v ++ List.replicate (16 - v.length) 0

/-- The exit unit or the comparator decides (R103, R119, Table 3.10): each copy with the cause that touched it. With no copy released, the
saturation events of both stand for the frame (R190). -/
def decide3 (p : PhaseProg) (f : Frame) (cs : List (BedCopy × Option Nat)) (missing : Bool) : Released :=
  let subst := fun (cause : Nat) => p.decision.subst.getD cause 0 % 2048
  let causes := if missing then causeList (4 :: f.causes) else f.causes
  let entry := firstCause (f.causes.filter (fun c => c != 5))
  let common := fun (c : BedCopy) (mirror : Bool) (solo : Option Nat) =>
    (⟨if f.substitute then subst entry else c.bits, c.summary, causes, f.substitute, mirror, c.events, solo, false⟩ : Released)
  match cs with
  | [(c, none)] => common c false none
  | [(c, some k)] => ⟨subst k, c.summary, causeList (k :: causes), true, false, c.events, none, false⟩
  | [(c, none), (d, none)] =>
    if c.bits = d.bits ∧ c.summary = d.summary then common c false none
    else ⟨p.decision.disagree % 2048, p.dfltSummary, causeList (6 :: causes), true, false, c.events + d.events, none, true⟩
  | [(c, none), (_, some _)] => common c true (some c.bed)
  | [(_, some _), (d, none)] => common d true (some d.bed)
  | _ => ⟨subst 3, p.dfltSummary, causeList (3 :: causes), true, false, (cs.map (fun x => x.1.events)).sum, none, false⟩

/-- The kind of query that verdict bits open (R251). -/
def PhaseProg.kindOf (p : PhaseProg) (bits : Nat) : Option Nat :=
  (p.ph.kinds.take 8).findIdx? (fun k => Nat.land (bits % 2048) k.mask == k.value)

/-- The settled side of a frame that leaves its bed (R249, R251, R257). -/
def State.openSettled (s : State) (p : PhaseProg) (f : Frame) : State :=
  let bits := f.quick.toNat % 2048
  let sub := f.quick.getLsbD 12
  let set := fun (v : Verdict) (cs : List Nat) => s.updFrame f.layoutBed f.slot f.hzn (fun x => { x with settledReady := some v, sCauses := cs })
  if !f.hasSettled then s
  else if f.warm then
    let die := ((f.copies.head?).map (fun (c : BedCopy) => bedDie c.bed)).getD 0
    if p.ph.warmPolicy = 0 then set (verdictWord ((p.loess die).warmVerdict % 2048) f.qCauses false f.tally) f.qCauses
    else set (verdictWord bits f.qCauses sub f.tally) f.qCauses
  else match p.kindOf bits with
    | none => set f.quick f.qCauses
    | some k =>
      let s := s.updFrame f.layoutBed f.slot f.hzn (fun x => { x with kind := some k })
      (enginesOf (f.copies.map (fun (c : BedCopy) => Fin.ofNat 4 c.bed))).foldl (fun s (e : Fin 2) =>
        let g : Engine := s.eng[e]
        if g.resettingAt f.hzn then
          let q : Query := { hzn := f.hzn, bed := f.layoutBed, slot := f.slot, kind := k, admitNs := s.tim.c, answer := none
                             shed := true, discarded := true, failed := false }
          s.setEng e { g with queries := g.queries ++ [q] }
        else s) s

/-- The capture of a quick disagreement (Table 11.5). -/
def quickCapture (f : Frame) (east west : BedCopy) : Capture :=
  { hzn := f.hzn, slot := BitVec.ofNat 8 (bedSlot f.layoutBed f.slot), phase := BitVec.ofNat 8 (f.phase % 16)
    eastBits := BitVec.ofNat 16 east.bits, westBits := BitVec.ofNat 16 west.bits, kind := 0
    eastSummary := east.summary.map (BitVec.ofInt 8), westSummary := west.summary.map (BitVec.ofInt 8)
    eastEntry := east.entry, westEntry := west.entry, package := f.package, eastBanks := none, westBanks := none }

/-- The copies of a frame, evaluated: the run, the copy, the cause that touched it. -/
def State.copyRuns (s : State) (p : PhaseProg) (f : Frame) : List (CopyRun × BedCopy × Option Nat) :=
  f.copies.map (fun (c : BedCopy) =>
    let run := s.evalCopy 9 p f c
    (run, { c with bits := run.bits, summary := run.summary, events := c.events + run.events }, s.copyCause f c))

/-- The faults that the frame meets in the fabric beside those that its units have reported (R90, R95, R108). -/
def State.fabricErrors (s : State) (p : PhaseProg) (f : Frame) : List UnitError :=
  f.copies.flatMap (fun (c : BedCopy) =>
    (s.evalCopy 9 p f c).faults.filter (fun x => !c.errs.any (fun y => y.cls == x.cls && y.unit == x.unit)))

/-- A bridge error met the west copy of a pair on its way to the comparator: no span word of it crosses (R118, R119, R123). -/
def State.bridgeTouch (s : State) (p : PhaseProg) (f : Frame) : State :=
  let crossing := fun (c : BedCopy) =>
    (s.spansInto (s.progAt f.hzn.toNat) p f.layoutBed (Fin.ofNat 4 c.bed)).any (fun x => x.cross)
  s.updFrame f.layoutBed f.slot f.hzn (fun g => { g with copies := g.copies.map (fun (c : BedCopy) =>
    if p.ph.mirrored && bedDie c.bed == 1 && c.errs.any (fun x => x.cls == 8) && !crossing c then c.touch 3 else c) })

/-- The span words a frame sends cross to their beds (R122): of each copy that nothing touched, under its die in a mirrored phase; words of
ticks long past are dropped. -/
def State.sendSpans (s : State) (p : PhaseProg) (f : Frame) (runs : List (CopyRun × BedCopy × Option Nat)) : State :=
  let live := s.fast.spans.filter (fun x => decide (f.hzn.toNat < x.1 % 2 ^ 64 + 131072))
  { s with fast := { s.fast with
      spans := runs.foldl (fun m (x : CopyRun × BedCopy × Option Nat) =>
        if x.2.2.isSome then m
        else x.1.sent.foldl (fun m w =>
          mapSet m (spanKey w.1 (if p.ph.mirrored then bedDie x.2.1.bed else 0) f.slot f.hzn.toNat) w.2) m) live } }

/-- Parts that the exit unit forms for the cascade: the frame's own, and its bed's merge part at the last position's verdict time (R444,
R445). -/
def State.exitParts (s : State) (p : PhaseProg) (f : Frame) : State :=
  let part := fun (g : Frame) (n : Nat) =>
    (⟨g.hzn, s.position, n, g.flags.toNat % 64, g.quick.toNat % 2048, causeBits g.qCauses, g.summary⟩ : Part)
  let s := s.formPart (part f (bedSlot f.layoutBed f.slot))
  if s.bedTickDone p f.layoutBed f.hzn then
    let fs := (s.expected p f.layoutBed f.hzn.toNat).filterMap (fun n => s.frame? f.layoutBed n f.hzn)
    let m := mergeParts (fs.map (fun g => part g 0))
    let s := (f.copies.take 1).foldl (fun s (c : BedCopy) => s.bedSat (Fin.ofNat 4 c.bed) m.2.2.2.2) s
    s.formPart ⟨f.hzn, s.position, bedSlot f.layoutBed 0x3F, m.2.2.1, m.1, m.2.1, m.2.2.2.1⟩
  else s

/-- The errors of a frame that leaves, taken in: those reported, then those that its passage meets (R90, R95, R108, R344). -/
def State.exitErrors (s : State) (p : PhaseProg) (f : Frame) (errs : List UnitError) : State :=
  let s := errs.foldl (fun s x => s.frameError f.layoutBed f.slot f.hzn x) s
  let g := (s.frame? f.layoutBed f.slot f.hzn).getD f
  let s := (s.fabricErrors p g).foldl (fun s x => s.frameError f.layoutBed f.slot f.hzn x) s
  s.bridgeTouch p g

/-- BED_EXIT: the verdict register of the bed, or of its pair's comparator, is written (R103, R104, R118 to R120, R189, R562). A default
context of a pair counts as a substitution of both copies (R117, R562). -/
def State.exitBed (s : State) (p : PhaseProg) (f : Frame) (errs : List UnitError) : State :=
  let s := s.exitErrors p f errs
  let f := (s.frame? f.layoutBed f.slot f.hzn).getD f
  let runs := s.copyRuns p f
  let missing := (runs.flatMap (fun x => x.1.missing)).eraseDups
  let s := if missing.isEmpty then s else s.partsMissing f.layoutBed f.slot f.hzn (missing.headD 0) missing.length
  let r := decide3 p f (runs.map (fun x => x.2)) (!missing.isEmpty)
  let sub := r.sub || decide (runs.length = 2) && f.dflt
  let s := runs.foldl (fun s (x : CopyRun × BedCopy × Option Nat) =>
    let b : Fin 4 := Fin.ofNat 4 x.2.1.bed
    let s := (s.bedSat b x.1.events).bumpBy GRN_SAT_CNT x.1.sel
    if sub then s.bump (BED_SUB_CNT + bedOff b) else s) s
  let s := match r.solo with
    | some b => (s.setFlag (BED_STAT_SOLO.on (bedOff b)) true).bump (BED_SOLO_CNT + bedOff b)
    | none => s
  let s := s.countSub r.causes
  let s := s.updFrame f.layoutBed f.slot f.hzn (fun x => { x with
    exited := true, quick := verdictWord r.bits r.causes r.sub x.tally, qCauses := causeList r.causes, summary := r.summary
    mirror := r.mirror, sat := x.sat || decide (r.events ≠ 0), copies := runs.map (fun y => y.2.1) })
  let s := s.sendSpans p f runs
  let s := match r.differ, runs with
    | true, [c, d] => s.disagreement (f.copies.headD default).bed (quickCapture f c.2.1 d.2.1)
    | _, _ => s
  match s.frame? f.layoutBed f.slot f.hzn with
  | none => s
  | some g =>
    let s := if g.hasSettled then s else s.formResult g
    let s := (s.openSettled p g).exitParts p g
    let s := [(0 : Fin 2), 1].foldl (fun s (e : Fin 2) => if s.tickDone p e f.hzn then s.serveTick e f.hzn else s) s
    s.checkTail

def execBedExit (bed : Fin 4) (slot : Fin 64) (hzn : U64) (errs : List UnitError) (s : State) : Out :=
  .next (match s.frame? bed slot hzn, s.phaseAt hzn.toNat with
    | some f, some p => if f.exited then s else s.exitBed p f errs
    | _, _ => s)

/-! Verdict output -/

/-- The logical lanes that the decision map names for a verdict (R426). -/
def PhaseProg.lanesFor (p : PhaseProg) (lb : Nat) (settled : Bool) : List Nat :=
  (p.decision.map.filter (fun m => m.bed == lb && m.kind == settled.toNat)).flatMap DecLine.lanes

/-- One verdict leaves before another on a lane: the earlier line time, with equal line times the lower layout bed, and a quick verdict
before a settled one (R72). -/
def DecEntry.before (x y : DecEntry) : Bool :=
  decide (x.place < y.place) || x.place == y.place && (decide (x.bed < y.bed) || x.bed == y.bed && decide (x.kind < y.kind))

/-- A verdict takes its place in the order of its lane (R72). -/
def DecEntry.enter (x : DecEntry) : List DecEntry → List DecEntry
  | [] => [x]
  | y :: rest => if x.before y then x :: y :: rest else y :: x.enter rest

/-- VERDICT_OUTPUT: the verdict reaches the framers of its logical lanes at its line time, which `ui` gives for each lane of the decision
map in UI after the first line bit of that lane's next block; it waits there in the order of line times (R72), and the placement follows when the block is formed (R426,
R427). -/
def State.outputVerdict (s : State) (p : PhaseProg) (f : Frame) (settled : Bool) (ui : List Nat) : State :=
  let v := if settled then f.settled else f.quick
  let x := fun (i : Nat) => ({ tick7 := f.hzn.toNat % 128, kind := settled.toNat, bed := f.layoutBed, slot := f.slot, verdict := v
                               place := (ui.getD i 0 : Nat) } : DecEntry)
  let queue := ((p.lanesFor f.layoutBed settled).zipIdx).foldl (fun (q : Vector (List DecEntry) 8) l =>
    if h : l.1 < 8 then q.set l.1 ((x l.2).enter q[l.1]) else q) s.dec.queue
  let s := { s with dec := { s.dec with queue := queue } }
  let s := s.bump64 (if settled then DEC_SETTLED_LO else DEC_QUICK_LO) 1
  let s := s.updFrame f.layoutBed f.slot f.hzn (fun y => if settled then { y with settledSent := true } else { y with quickSent := true })
  s.purge

def execVerdictOutput (bed : Fin 4) (slot : Fin 64) (hzn : U64) (settled : Bool) (ui : List Nat) (s : State) : Out :=
  .next (match s.frame? bed slot hzn, s.phaseAt hzn.toNat with
    | some f, some p =>
      let due := if settled then f.settledDone && f.hasSettled && !f.settledSent else f.exited && !f.quickSent
      if due then s.outputVerdict p f settled ui else s
    | _, _ => s)

/-! Stream rings -/

/-- STREAM_RING_ENTRY_WRITE: the entry of a frame, or of an unbound position (R194, R196, Table 6.2), goes into the ring of the engine of its
bed's die; the comparator of a mirrored program sends to both engines, in single-bed operation too (R120, R121). -/
def State.ringEntry (s : State) (pg : PastProg) (lb slot : Nat) (h : U64) (x : StreamEntry) : State :=
  let es := if (pg.phase?.map (fun p => p.ph.mirrored)).getD false then [0, 1] else enginesOf (pg.beds lb)
  es.foldl (fun s (e : Fin 2) =>
    let g : Engine := s.eng[e]
    let started := match g.start with | some t => decide (t.toNat ≤ h.toNat) | none => false
    if g.running && started then s.writeStreamEntry e (ringKey lb slot) h.toNat x else s) s

def execStreamRingEntryWrite (bed : Fin 4) (slot : Fin 64) (hzn : U64) (s : State) : Out :=
  .next (
    let pg := s.progAt hzn.toNat
    match s.frame? bed slot hzn with
    | some f =>
      if f.exited && !f.ringDone then
        let s := s.ringEntry pg bed slot hzn ⟨f.summary, f.quick, firstCause f.qCauses, true⟩
        (s.updFrame bed slot hzn (fun y => { y with ringDone := true })).purge
      else s
    | none =>
      let inOrder := match pg.phase? with | some p => (p.slot? bed slot).isSome | none => false
      let empty := inOrder && !s.boundAt (ringKey bed slot) hzn.toNat && !s.deepSlot (ringKey bed slot)
      if s.mod.st == .growing && empty && s.tickOpen hzn && decide (hzn.toNat ≤ s.count.toNat) then
        s.ringEntry pg bed slot hzn ⟨List.replicate 16 0, 0, 0, false⟩
      else s)

/-! Cascade -/

/-- Insert a span in ascending source position, then source layout bed (R445). -/
def placeSpan (sp : CascSpan) : List CascSpan → List CascSpan
  | [] => [sp]
  | x :: rest => if sp.src * 256 + sp.srcPart < x.src * 256 + x.srcPart then sp :: x :: rest else x :: placeSpan sp rest

/-- The part of a span for a tick, if it is valid: it is in the queue with its source, part and full horizon count (R348, R444). -/
def State.partFor (s : State) (sp : CascSpan) (h : U64) : Option Part :=
  s.ring.parts.find? (fun (x : Part) => x.src == sp.src && x.part == sp.srcPart && x.hzn == h)

/-- A deepening part enters its slot as that slot's frame, or the slot enters under its absent policy with cause 4 (R447). -/
def State.deepen (s : State) (sp : CascSpan) (lb slot : Nat) (h : U64) : State :=
  match s.partFor sp h with
  | some x =>
    let a : Arrived := { layoutBed := lb, slot := slot, hzn := h, count := 1, corrupt := false, bridge := false
                         payload := (List.range 16).map (fun i => BitVec.ofInt 8 (x.summary.getD i 0)), missing := false, causes := bitCauses x.causes }
    { s with
      fast := { s.fast with arrived := s.fast.arrived ++ [a] }
      ring := { s.ring with parts := s.ring.parts.filter (fun y => y != x) } }
  | none =>
    let a : Arrived := { layoutBed := lb, slot := slot, hzn := h, count := 0, corrupt := false, bridge := false
                         payload := [], missing := true, causes := [] }
    ({ s with fast := { s.fast with arrived := s.fast.arrived ++ [a] } }).partsMissing lb slot h sp.srcPart 1

/-- The merge group of a lead slot (R445, R446, R348). Saturation events of its additions count in the bed that carries the slot's layout bed
(R188, R189; log entry 110). -/
def State.mergeGroup (s : State) (p : PhaseProg) (spans : List CascSpan) (lb slot : Nat) (h : U64) : State :=
  let got := (spans.foldl (fun acc sp => placeSpan sp acc) []).map (fun sp =>
    match s.partFor sp h with
    | some x => (x, false)
    | none =>
      let d := p.decision.parts.find? (fun x => x.part == sp.src * 256 + sp.srcPart)
      ((⟨h, sp.src, sp.srcPart, 0, ((d.map PartDefault.bits).getD 0) % 2048, 2 ^ 4, (d.map PartDefault.values).getD []⟩ : Part), true))
  let lost := (got.filter Prod.snd).length
  let m := mergeParts (got.map Prod.fst)
  let s := (((s.progAt h.toNat).beds lb).take 1).foldl (fun s (b : Fin 4) => s.bedSat b m.2.2.2.2) s
  let causes := bitCauses m.2.1
  let payload := got.flatMap (fun x => x.1.bytes)
  let s := if lost = 0 then s
    else s.partsMissing lb slot h ((((got.find? Prod.snd).map (fun x => x.1.part)).getD 0)) lost
  let s := s.countSub causes
  let bit := fun (i : Nat) => m.2.2.1 / 2 ^ i % 2 == 1
  let f : Frame := {
    hzn := h, layoutBed := lb, slot := slot, phase := p.ph.id, imageIndex := ((s.prog.image.map ImageCopy.index).getD 0xFFFF)
    payload := payload, length := payload.length, ownData := true, tally := false, substitute := false, causes := causes
    warm := bit 0, clamp := bit 1, sat := bit 2 || decide (m.2.2.2.2 ≠ 0), loose := bit 3, mirror := bit 4, dflt := bit 5
    package := zeroBytes 128, fromLoess := false, lag := 0, epoch := s.epochOf h, copies := []
    exited := true, quick := verdictWord m.1 causes false false, summary := m.2.2.2.1, qCauses := causes
    kind := none, admitted := false, settledReady := none, sCauses := [], settledDone := true, settled := 0
    quickSent := false, settledSent := true, ringDone := true, merged := true, hasSettled := false, recorded := false }
  let s := { s with
    fast := { s.fast with frames := s.fast.frames ++ [f] }
    ring := { s.ring with parts := s.ring.parts.filter (fun x => !(x.hzn == h && spans.any (fun sp => sp.src == x.src && sp.srcPart == x.part))) } }
  s.checkTail

def execCombiningSlot (bed : Fin 4) (slot : Fin 64) (hzn : U64) (s : State) : Out :=
  .next (match s.cascade?, s.phaseAt hzn.toNat with
    | some c, some p =>
      let place := ringKey bed slot
      let me := s.position
      let into := c.spans.filter (fun (sp : CascSpan) => sp.destPart == place)
      let open_ := s.mod.st == .growing && s.tickOpen hzn && decide (hzn.toNat ≤ s.count.toNat) && (s.frame? bed slot hzn).isNone
      let held := s.fast.arrived.any (fun a => a.layoutBed == bed.val && a.slot == slot.val && a.hzn == hzn)
      match into.find? (fun (sp : CascSpan) => sp.kind == 1 && sp.dest == me) with
      | some sp => if open_ && !held && (p.slot? bed slot).isSome then s.deepen sp bed slot hzn else s
      | none =>
        let merge := into.filter (fun (sp : CascSpan) => sp.kind == 0)
        if open_ && s.role == 1 && !merge.isEmpty && (p.slot? bed slot).isNone then s.mergeGroup p merge bed slot hzn else s
    | _, _ => s)

end Sys2Proof.Machine
end

