-- ==== Sys2Proof/Machine/Silt.lean ====
section
/-!
DEFINITION. Silt banks (R215 to R224): words and their check bits, the accesses of port 0 with its atomics, blocks and their marks, live
column repair, and the collisions of the two ports.
-/
namespace Sys2Proof.Machine

/-- Key of a silt word's first byte. -/
def siltKey (bank word : Nat) : Nat := bank * 524288 + word * 64

/-- The check bits of a 64-byte word, 8 for each 64 bits (R215). -/
def siltCheck (w : List Byte) : List Byte := (List.range 8).map (fun i => Config.secded (slice w (8 * i) 8))

/-- The bit of a word in one of a bank's 576 columns: data bits, then check bits (R215). -/
def siltColumn (w : List Byte) (column : Nat) : Bool :=
  ((if column < 512 then w else siltCheck w).getD (column % 512 / 8) 0).getLsbD (column % 8)

/-- A word as it stands. A byte that the engine has left there since it started work is open (log entry 2). -/
def State.siltWord (s : State) (e : Fin 2) (bank word : Nat) : List Byte × State :=
  let g : Engine := s.eng[e]
  let d := s.drawBytes 64
  let known := fun (i : Nat) => match mapFind g.silt (siltKey bank word + i) with
    | some v => some v
    | none => if g.siltCleared then some 0 else none
  ((List.range 64).map (fun i => (known i).getD (d.1.getD i 0)), d.2)

/-- Store a word. Under a live column repair its bit goes to the failed column and to the spare (R224, Table 6.9). -/
def Engine.putSilt (g : Engine) (bank word : Nat) (w : List Byte) : Engine :=
  { g with
    silt := (List.range 64).foldl (fun m i => mapSet m (siltKey bank word + i) (w.getD i 0)) g.silt
    repairs := g.repairs.map (fun (r : SiltRepair) =>
      if r.bank = bank ∧ !r.broken then { r with bits := mapSet r.bits word (siltColumn w r.column) } else r) }

/-- The sixteen int32 elements of a word (R220). -/
def siltElems (w : List Byte) : List Int := (List.range 16).map (fun i => signedOf 32 (leAt w (4 * i) 4))

/-- The word that sixteen elements form. -/
def siltBytes (xs : List Int) : List Byte := (List.range 16).flatMap (fun i => leBytes 4 (toBits 32 (xs.getD i 0)))

/-- An access on the elements of a word: the word that it leaves, and its saturating elements (R220). -/
def siltApply (old : List Int) : SiltAccess → List Int × Nat
  | .read => (old, 0)
  | .write d => (d.map BitVec.toInt, 0)
  | .swap m d => ((List.range 16).map (fun i => if m.getLsbD i then (d.getD i 0).toInt else old.getD i 0), 0)
  | .add m d =>
    let out := (List.range 16).map (fun i => if m.getLsbD i then satE (old.getD i 0 + (d.getD i 0).toInt) 32 else (old.getD i 0, 0))
    (out.map Prod.fst, (out.map Prod.snd).sum)

/-- An access of port 0: it returns the word as it was before, and what follows sees the word that it leaves (R220, R222). Saturating elements
are counted in LSS_SILT_ATOM_SAT_CNT. -/
def State.siltAccess (s : State) (e : Fin 2) (bank word : Nat) (a : SiltAccess) : List Byte × Nat × State :=
  let old := s.siltWord e bank word
  let new := siltApply (siltElems old.1) a
  let s := match a with
    | .read => old.2
    | _ => old.2.setEng e ((old.2.eng[e] : Engine).putSilt bank word (siltBytes new.1))
  (old.1, new.2, if new.2 = 0 then s else s.bumpBy (LSS_SILT_ATOM_SAT_CNT + lssOff e) new.2)

/-! Blocks (R217) -/

/-- The mover refills a block whose release mark stands: its bytes are the mover's, and its completion mark stands (R217). -/
def Engine.fillBlock (g : Engine) (r : SiltRegion) (i : Nat) : Engine :=
  if g.filled.contains i then g
  else { g with
    silt := g.silt.filter (fun x => decide (x.1 < siltKey r.bank r.first ∨ siltKey r.bank (r.first + r.words) ≤ x.1))
    siltCleared := false
    filled := g.filled ++ [i] }

/-- The first mover-owned block of a silt map with its release mark takes what a scan has read (R217). -/
def Engine.fillNext (g : Engine) (l : LoessSection) : Engine :=
  match l.siltMap.zipIdx.find? (fun r => r.1.mover && !g.filled.contains r.2) with
  | some r => g.fillBlock r.1 r.2
  | none => g

/-- The mover-owned blocks that a work item's accesses reach. -/
def LoessSection.blocksRead (l : LoessSection) (cycles : List (List LaneAccess)) : List (SiltRegion × Nat) :=
  l.siltMap.zipIdx.filter (fun r => r.1.mover && cycles.any (fun c => c.any (fun a => r.1.holds a.bank a.word)))

/-! Ports -/

/-- The outcome of Table 6.6 is BUSY for port 1: the two ports meet in one word, and not both read it (R219). -/
def siltBusy (port0 : SiltAccess) (write : Bool) : Bool := port0 != .read || write

/-- Port 1 completes an access in a mover slot: a read reaches the mover, a write is stored (R218, R219). -/
def State.port1 (s : State) (e : Fin 2) (bank word : Nat) (write : Option (List Word)) : State :=
  match write with
  | some d => s.setEng e ((s.eng[e] : Engine).putSilt bank word (siltBytes (d.map BitVec.toInt)))
  | none =>
    let w := s.siltWord e bank word
    w.2.setEng e { (w.2.eng[e] : Engine) with moverWord := w.1 }

end Sys2Proof.Machine
end

