-- ==== Sys2Proof/Machine/Loess.lean ====
section
/-!
DEFINITION. The loess tier's commands: work items (R214, R217, R220 to R223, R259, R260), settled answers and releases (R256, R257, R70,
R120), slabs (R200, R266), context packages (R241 to R245), warming (R247 to R250), engine resets, checkpoints (R264, R265), spills (R226),
DRAM and silt (R207 to R224), firm and loose mode (R261, R263).
-/
namespace Sys2Proof.Machine

/-! Work items -/

/-- Unit and class of a block sequence mismatch, detected for a frame (R260). -/
def State.sequenceError (s : State) (u : Word) (h : U64) (slot : Nat) : State :=
  if unitFits 0xC u then s.detect u 0xC h (frameTag h slot) else s

/-- Replace the query of a frame in an engine. -/
def Engine.setQuery (g : Engine) (h : U64) (lb slot : Nat) (f : Query → Query) : Engine :=
  { g with queries := g.queries.map (fun (q : Query) => if q.hzn = h ∧ q.bed = lb ∧ q.slot = slot then f q else q) }

/-- The query of a frame in an engine. -/
def Engine.query? (g : Engine) (lb slot : Nat) (h : U64) : Option Query :=
  g.queries.find? (fun (q : Query) => q.bed == lb && q.slot == slot && q.hzn == h)

/-- The blocks of 64 entries that a stage is issued in (R259). -/
def Stage.blocks (st : Stage) : Nat :=
  match st with
  | .window _ lo hi => (hi - lo + 64) / 64
  | .project ins _ _ _ _ => (ins.length + 63) / 64
  | _ => 1

/-- The sequence number of a block: from 0, one more for each, modulo 65,536 (R259). -/
def blockSeq (n : Nat) : Nat := n % 65536

/-- A unit that consumes block `block` of a stage sees a mismatch where the two streams have slipped against each other: the numbers of the
blocks that it meets differ (R259). -/
def slips (stages : List Stage) (stage block data scale : Nat) : Bool :=
  decide (block < (stages.getD stage (.other 0)).blocks) && blockSeq (block + data) != blockSeq (block + scale)

/-- What befalls a work item of a frame's slot and tick: the cause that its product takes, if any: 3 for a read that failed, 5 for a
mismatch (R214, R223, R260). Corrected silt errors are counted. -/
def State.takeWork (s : State) (e : Fin 2) (stages : List Stage) (h : U64) (slot : Nat) (work : Work) : Option Nat × State :=
  match work with
  | .good => (none, s)
  | .corrected n =>
    (none, if n = 0 then s else (s.bumpBy (LSS_SILT_ECC_CNT + lssOff e) n).setFlag (LSS_MEM_STAT_SILT_CORR.on (lssOff e)) true)
  | .readFailed => (some 3, s)
  | .siltFailed u => (some 3, if unitFits 0xA u then s.detect u 0xA h (frameTag h slot) else s)
  | .slip u i block data scale => if slips stages i block data scale then (some 5, s.sequenceError u h slot) else (none, s)

/-- Insert a lane's access in ascending lane index. -/
def LaneAccess.enter (x : LaneAccess) : List LaneAccess → List LaneAccess
  | [] => [x]
  | y :: rest => if x.lane < y.lane then x :: y :: rest else y :: x.enter rest

/-- The silt accesses of a work item, cycle by cycle, those of one cycle in ascending lane index; answers its saturating elements (R220 to
R222). -/
def State.runLanes (s : State) (e : Fin 2) (run : LoessRun) (cycles : List (List LaneAccess)) : Nat × State :=
  cycles.foldl (fun acc c =>
    (c.foldl (fun m a => a.enter m) []).foldl (fun acc (a : LaneAccess) =>
      let r := acc.2.siltAccess e a.bank a.word (a.op.access run)
      (acc.1 + r.2.1, r.2.2)) acc) (0, s)

/-- A work item at the silt banks: the mover has filled each block of its own that the item reads; the engine releases them after (R217). -/
def State.runSilt (s : State) (e : Fin 2) (l : LoessSection) (run : LoessRun) (cycles : List (List LaneAccess)) : Nat × State :=
  let blocks := l.blocksRead cycles
  let s := s.setEng e (blocks.foldl (fun (g : Engine) b => g.fillBlock b.1 b.2) s.eng[e])
  let r := s.runLanes e run cycles
  let g : Engine := r.2.eng[e]
  (r.1, r.2.setEng e { g with filled := g.filled.filter (fun i => !blocks.any (fun b => b.2 == i)) })

/-! Answers and releases -/

/-- Largest BED_LAT of a layout bed's variants; they are all equal (R282). -/
def PhaseProg.latOf (p : PhaseProg) (lb : Nat) : Nat := (p.variants.filter (fun v => v.layoutBed == lb)).foldl (fun m v => max m v.bedLat) 0

/-- The last instant, in ps after a frame's tick, at which its settled answer is in time: the release time A + position × II + S − (Q − BED_LAT),
less the release margin of 16 fc (R70, Table 2.3). -/
def PhaseProg.answerLimit (p : PhaseProg) (lb slot : Nat) : Int :=
  ((p.ph.a : Int) + (p.pos? lb slot).getD 0 * p.ph.ii + p.ph.s - ((p.ph.q : Int) - p.latOf lb) - 16) * 800

/-- The evaluation of an admitted query: the kind's program with reference tick t + F, its recurrences advanced to it, its silt accesses made
(R220, R252, R256). -/
def State.evalQuery (s : State) (e : Fin 2) (p : PhaseProg) (k : QueryKind) (q : Query) : LoessRun × Bool × State :=
  let l := p.loess e
  let stages := l.settled.getD k.program []
  let u := q.hzn.toNat + k.f
  let s := s.advanceRecurs e l q.hzn u
  let g : Engine := s.eng[e]
  let run := g.evalProg (g.recursAt q.hzn) (settledProg stages k.program (ringKey q.bed q.slot) false) u
  let r := s.runSilt e l run (l.settledSilt.getD k.program [])
  (run, run.mark stages || decide (r.1 ≠ 0), r.2.countSat e run.events)

/-- A query of an engine is put as the function makes it. -/
def State.putQuery (s : State) (e : Fin 2) (q : Query) (f : Query → Query) : State :=
  s.setEng e ((s.eng[e] : Engine).setQuery q.hzn q.bed q.slot f)

/-- SETTLED_ANSWER: a failed read substitutes the answer with cause 3; a block sequence mismatch leaves the default, and so does an answer
inside the release margin (R214, R256, R257, R260). `ps` is its instant after the present tick. -/
def State.answerQuery (s : State) (e : Fin 2) (p : PhaseProg) (k : QueryKind) (q : Query) (ps : Nat) (work : Work) : State :=
  let s := s.raiseFld ⟨LSS_SET_TIME_MAX + lssOff e, 0, 16⟩ ((s.tim.c - q.admitNs).toNat / 64)
  let stages := (p.loess e).settled.getD k.program []
  let late := decide (p.answerLimit q.bed q.slot < s.sinceTick q.hzn.toNat + ps)
  let w := s.takeWork e stages q.hzn q.slot work
  let s := w.2
  match (if q.failed then some 3 else w.1) with
  | some 3 => s.putQuery e q (fun x => if late then { x with discarded := true } else { x with answer := some (0, false, [3]) })
  | some _ => s.putQuery e q (fun x => { x with discarded := true })
  | none =>
    let r := s.evalQuery e p k q
    r.2.2.putQuery e q (fun x => if late then { x with discarded := true } else { x with answer := some (r.1.verdict, r.2.1, []) })

def execSettledAnswer (engine : Fin 2) (bed : Fin 4) (slot : Fin 64) (hzn : U64) (answer : Answer) (s : State) : Out :=
  .next (
    let s := if (s.eng[engine] : Engine).running then s.admitUpTo engine hzn else s
    let g : Engine := s.eng[engine]
    match g.query? bed slot hzn, s.phaseAt hzn.toNat with
    | some q, some p =>
      match p.ph.kinds[q.kind]? with
      | some k =>
        if g.running && !q.shed && !q.discarded && q.answer.isNone && decide (hzn.toNat + k.f ≤ s.count.toNat) then
          s.answerQuery engine p k q answer.ps answer.work
        else s
      | none => s
    | _, _ => s)

/-- What one engine has for a settled verdict at its release: bits, SUB, causes, SAT; `late` when no answer is in time (R255 to R257). -/
structure Settled where
  bits : Nat
  sub : Bool
  causes : List Nat
  sat : Bool
  late : Bool
  intact : Bool
deriving DecidableEq, Repr, Inhabited

/-- The causes of a frame that apply to its settled verdict too (R256). -/
def Frame.carried (f : Frame) : List Nat := f.qCauses.filter (fun c => [1, 2, 3, 4, 6].contains c)

/-- What an engine has for a frame at its release (R255 to R257, R214). -/
def Engine.settledFor (g : Engine) (p : PhaseProg) (f : Frame) (k : QueryKind) : Settled :=
  let base := f.carried
  let late : Settled := ⟨k.dflt % 2048, true, causeList (5 :: base), false, true, false⟩
  match g.query? f.layoutBed f.slot f.hzn with
  | none => late
  | some q =>
    if q.discarded then late
    else if q.shed then ⟨k.dflt % 2048, true, causeList (7 :: base), false, false, true⟩
    else match q.answer with
      | none => late
      | some (bits, mark, cs) =>
        if cs.contains 3 then ⟨p.decision.subst.getD 3 0 % 2048, true, causeList (3 :: base), mark, false, false⟩
        else ⟨bits % 2048, false, causeList base, mark, false, true⟩

/-- A settled verdict leaves the release queue (R70, R76, R120). -/
def State.settle (s : State) (f : Frame) (v : Verdict) (causes : List Nat) (sat mirror : Bool) : State :=
  let s := s.countSub causes
  let s := s.updFrame f.layoutBed f.slot f.hzn (fun x => { x with
    settledDone := true, settled := v, sCauses := causeList causes, sat := x.sat || sat, mirror := x.mirror || mirror })
  match s.frame? f.layoutBed f.slot f.hzn with
  | some g => (s.formResult g).checkTail
  | none => s

/-- A late settled answer: counted, and an EVENT record names the frame's tick and slot (R257). -/
def State.settledLate (s : State) (f : Frame) (es : List (Fin 2)) : State :=
  let s := es.foldl (fun s (e : Fin 2) =>
    (s.bump (LSS_SET_LATE_CNT + lssOff e)).setFlag (LSS_STAT_SET_LATE.on (lssOff e)) true) s
  if es.isEmpty then s else s.writeEventAt 0x0404 f.hzn (f.slot % 8) [bedSlot f.layoutBed f.slot]

/-- The entry bytes of a copy as the bed's entry unit still holds them: of its last 1,024 tags (R356). What a capture holds of an older tag is
stated nowhere and is free (log entry 126). -/
def State.keptEntry (s : State) (f : Frame) (c : BedCopy) : List Byte :=
  let later := s.fast.frames.filter (fun (x : Frame) => decide (f.hzn.toNat < x.hzn.toNat) && x.copies.any (fun (y : BedCopy) => y.bed == c.bed))
  if later.length < 1024 then c.entry else (List.range 576).map (Config.lostEntry c.bed f.hzn.toNat f.slot)

/-- The capture of a settled disagreement: no whole-bed test fills its bank digests (Table 11.5). -/
def State.settledCapture (s : State) (f : Frame) (x y : Settled) : Capture :=
  let c := f.copies.headD default
  let d := f.copies.getLastD default
  { hzn := f.hzn, slot := BitVec.ofNat 8 (bedSlot f.layoutBed f.slot), phase := BitVec.ofNat 8 (f.phase % 16)
    eastBits := BitVec.ofNat 16 x.bits, westBits := BitVec.ofNat 16 y.bits, kind := 1
    eastSummary := c.summary.map (BitVec.ofInt 8), westSummary := d.summary.map (BitVec.ofInt 8)
    eastEntry := s.keptEntry f c, westEntry := s.keptEntry f d, package := f.package, eastBanks := none, westBanks := none }

/-- Forget the queries of frames that are released and out of flight (R254). -/
def State.dropQueries (s : State) (e : Fin 2) (p : Phase) : State :=
  let g : Engine := s.eng[e]
  s.setEng e { g with queries := g.queries.filter (fun (q : Query) =>
    decide (s.count.toNat < q.hzn.toNat + setTicks p s.tickPs + 1)
      || (match s.frame? q.bed q.slot q.hzn with | some f => !f.settledDone | none => false)) }

/-- SETTLED_RELEASE of a frame that opened a query: its answer, or a default; of a mirrored program the two answers are compared as the
quick ones are (R70, R120, R256, R257). -/
def State.releaseQuery (s : State) (p : PhaseProg) (f : Frame) (k : QueryKind) : State :=
  let es := enginesOf (f.copies.map (fun (c : BedCopy) => Fin.ofNat 4 c.bed))
  let s := es.foldl (fun s (e : Fin 2) => s.admitUpTo e f.hzn) s
  let xs := es.map (fun e => (e, (s.eng[e] : Engine).settledFor p f k))
  let s := s.settledLate f ((xs.filter (fun x => x.2.late)).map Prod.fst)
  let word := fun (x : Settled) => verdictWord x.bits x.causes x.sub f.tally
  let solo := fun (s : State) (x : Settled) (c : BedCopy) =>
    let b := bedOff c.bed
    ((s.setFlag (BED_STAT_SOLO.on b) true).bump (BED_SOLO_CNT + b)).settle f (word x) x.causes x.sat true
  let s := match xs with
    | [(_, x)] => s.settle f (word x) x.causes x.sat false
    | [(_, x), (_, y)] =>
      if x = y then s.settle f (word x) x.causes x.sat false
      else if x.intact && !y.intact then solo s x (f.copies.headD default)
      else if y.intact && !x.intact then solo s y (f.copies.getLastD default)
      else if !x.intact then
        let cs := causeList (3 :: f.carried)
        s.settle f (verdictWord (p.decision.subst.getD 3 0 % 2048) cs true f.tally) cs false false
      else if x.bits = y.bits ∧ x.sub = y.sub then s.settle f (word x) x.causes x.sat false
      else
        let cs := causeList (6 :: f.carried)
        let s := s.settle f (verdictWord (p.decision.disagree % 2048) cs true f.tally) cs false false
        s.disagreement (f.copies.headD default).bed (s.settledCapture f x y)
    | _ => s
  es.foldl (fun s (e : Fin 2) => s.dropQueries e p.ph) s

def execSettledRelease (bed : Fin 4) (slot : Fin 64) (hzn : U64) (s : State) : Out :=
  .next (match s.frame? bed slot hzn, s.phaseAt hzn.toNat with
    | some f, some p =>
      if f.hasSettled && f.exited && !f.settledDone then
        match f.settledReady with
        | some v => s.settle f v f.sCauses false false
        | none => match (f.kind).bind (fun k => p.ph.kinds[k]?) with
          | some k => s.releaseQuery p f k
          | none => s
      else s
    | _, _ => s)

/-! Slabs -/

/-- The bytes of a slab of a period (R199): header, entries, zeros to a multiple of 512. -/
def ChanGroup.slabImage (g : ChanGroup) (b : Slab) (p : Nat) : List Byte :=
  padTo (slabBytes g.decl) (leBytes 8 p ++ leBytes 4 b.count ++ zeroBytes 52
    ++ (List.range g.decl.channels).flatMap (fun i => leBytes g.decl.width (g.raw b i)))

/-- The bytes of a group's slab of a period as a read returns them: of an invalid one, the fill value (R201, R214). -/
def ChanGroup.unitImage (g : ChanGroup) (p : Nat) : List Byte := g.slabImage ((g.slab? p).getD ⟨[], [], 0⟩) p

/-- Queue a bulk object for the host (R469). -/
def State.queueBulk (s : State) (op : Nat) (arg : U64) (source index : Nat) (data : List Byte) : State :=
  let b : Bulk := { op := op, arg := arg, source := source, index := index, data := data, sent := 0 }
  { s with hst := { s.hst with bulk := s.hst.bulk ++ [b] } }

/-- A slab goes to the slow mirror, read in class 5; the one before it that has not been sent is a mirror gap (R210, R266, R470). -/
def State.mirrorSlab (s : State) (e : Fin 2) (group p : Nat) (bytes : List Byte) : State :=
  let eng : Engine := s.eng[e]
  let s := match mapFind eng.slabWaits group with
    | some old =>
      let s := { s with hst := { s.hst with bulk := s.hst.bulk.filter (fun (b : Bulk) =>
          !(b.op == 0xD2 && b.source == e.val && b.index == group && b.arg.toNat == old)) } }
      let s := (s.bump (LSS_MIRROR_GAP_CNT + lssOff e)).setFlag (LSS_STAT_MIRROR_GAP.on (lssOff e)) true
      s.writeEvent 0x0407 [e, group, old]
    | none => s
  let eng : Engine := s.eng[e]
  let s := s.setEng e { eng with slabWaits := mapSet eng.slabWaits group p }
  let s := s.queueBlocks e 5 (eng.unitBlocks false group p) .none
  s.queueBulk 0xD2 (BitVec.ofNat 64 p) e group bytes

/-- SLAB_CLOSE (R199, R200, R228, R266). -/
def State.closeSlab (s : State) (e : Fin 2) (g : ChanGroup) (group p : Nat) : State :=
  if g.lost.contains p then
    let eng : Engine := s.eng[e]
    s.setEng e { eng with groups := mapSet eng.groups group { g with lost := g.lost.filter (· != p), openBufs := mapErase g.openBufs p } }
  else
    let b : Slab := (mapFind g.openBufs p).getD ⟨[], [], 0⟩
    let b := { b with count := b.values.length }
    let s := s.bumpBy STM_SUM_OK_CNT b.count
    let s := s.writeSlab e group p b
    let eng : Engine := s.eng[e]
    if eng.slowMirror then s.mirrorSlab e group p (g.slabImage b p) else s

def execSlabClose (engine : Fin 2) (group : Fin 256) (period : U64) (s : State) : Out :=
  let eng : Engine := s.eng[engine]
  .next (match mapFind eng.groups group with
    | none => s
    | some g =>
      let p := period.toNat
      let due := decide ((p + 1) * g.decl.slowTicks + g.decl.slowDeadline ≤ s.count.toNat)
      if eng.running && due && (mapFind g.slabs p).isNone then s.closeSlab engine g group p else s)

/-! Context packages -/

/-- The seed package of a ring. -/
def PhaseProg.seedOf (p : PhaseProg) (ring : Nat) : List Byte :=
  padTo 128 (((p.ctx.find? (fun c => ringKey c.bed c.slot == ring)).map SlotContext.seed).getD [])

/-- The default package of a ring. -/
def PhaseProg.dfltOf (p : PhaseProg) (ring : Nat) : List Byte :=
  padTo 128 (((p.ctx.find? (fun c => ringKey c.bed c.slot == ring)).map SlotContext.dflt).getD [])

/-- A package enters the context buffer: of each slot it holds those of the 16 ticks ahead of their ready time (R230, R246) and of the two
ticks whose frames enter. One of a tick in warming is discarded (R248). -/
def Engine.putPackage (g : Engine) (k : Package) : Engine :=
  if g.warmAt k.hzn then g
  else { g with pkgs := g.pkgs.filter (fun (x : Package) => x.ring != k.ring || decide (k.hzn.toNat < x.hzn.toNat + 18)) ++ [k] }

/-- A checkpoint that is assembling takes a package of the ticks from its horizon on; the ring is complete once its last one exists (R264,
Table 7.7). -/
def Engine.intoCheckpoint (g : Engine) (d : Nat) (k : Package) : Engine :=
  match g.assembling with
  | none => g
  | some a =>
    let c := a.hzn.toNat
    let mine := decide (c ≤ k.hzn.toNat ∧ k.hzn.toNat < c + d) && !g.warmAt k.hzn
    { g with assembling := some { a with
        pkgs := if mine then a.pkgs ++ [k] else a.pkgs
        ready := if c + d ≤ k.hzn.toNat + 1 ∧ !a.ready.contains k.ring then a.ready ++ [k.ring] else a.ready } }

/-- The evaluation of a context program of a tick's package over history up to its history tick (R241, R242). In loose mode a package of
history that another package of the slot has read counts no event again (R233, R262). -/
def State.evalPackage (s : State) (e : Fin 2) (p : PhaseProg) (c : CtxProg) (h hist : U64) : List Byte × Bool × State :=
  let l := p.loess e
  let s := s.advanceRecurs e l h hist.toNat
  let g : Engine := s.eng[e]
  let run := g.evalProg (g.recursAt h) c.prog hist.toNat
  let again := g.pkgs.any (fun (k : Package) => k.ring == c.ring && k.histTick == hist)
  let r := s.runSilt e l run c.silt
  (contextBytes c.stages run ++ tableBytes run (p.seedOf c.ring), run.mark c.stages || decide (r.1 ≠ 0),
    r.2.countSat e (if again then 0 else run.events))

/-- The bytes of a package, whether they saturate: the slot's default, or what its program gives. -/
def State.packageBytes (s : State) (e : Fin 2) (p : PhaseProg) (c : CtxProg) (h hist : U64) (dflt : Bool) : List Byte × Bool × State :=
  if dflt then (p.dfltOf c.ring, false, s) else s.evalPackage e p c h hist

/-- CONTEXT_PACKAGE_WRITE: the slot's context program has run (R241, R242, R262); a failed read or a mismatch leaves a package that stands for
the default (R214, R223, R260). -/
def State.writePackage (s : State) (e : Fin 2) (p : PhaseProg) (c : CtxProg) (h hist : U64) (ps ns : Nat) (work : Work) : State :=
  let s := s.raiseFld ⟨LSS_CTX_TIME_MAX + lssOff e, 0, 16⟩ ns
  let w := s.takeWork e c.stages h (c.ring % 64) work
  let failed := (s.eng[e] : Engine).scanFailed.contains c.ring
  let cause := if failed then some 3 else w.1
  let r := w.2.packageBytes e p c h hist cause.isSome
  let s := r.2.2
  let k : Package := { ring := c.ring, hzn := h, histTick := hist, bytes := r.1, sat := r.2.1, loose := s.looseAt h
                       usable := s.usableFrom p.ph ps, cause := cause.getD 0 }
  let g : Engine := s.eng[e]
  s.setEng e (({ g with scanFailed := g.scanFailed.filter (· != c.ring) }.putPackage k).intoCheckpoint p.ph.d k)

def execContextPackageWrite (engine : Fin 2) (ring : Fin 128) (hzn : U64) (hist : U64) (ps : Nat) (ns : Nat) (work : Work) (s : State) : Out :=
  let eng : Engine := s.eng[engine]
  .next (match s.layoutRing engine ring, s.phaseAt hzn.toNat with
    | some key, some p =>
      let started := !eng.resettingAt hzn
      let inOrder := (p.slot? (key / 64) (key % 64)).isSome
      let firm := s.looseAt hzn || (hist.toNat + p.ph.d == hzn.toNat && !eng.pkgs.any (fun (k : Package) => k.ring == key && k.hzn == hzn))
      let known := decide (hist.toNat ≤ s.count.toNat ∧ hzn.toNat < s.usableFrom p.ph ps + 16)
      if eng.running && started && inOrder && firm && known then
        s.writePackage engine p (((p.loess engine).ctx.find? (fun c => c.ring == key)).getD ⟨key, [], []⟩) hzn hist ps ns work
      else s
    | _, _ => s)

/-! Warming and resets -/

def execWarmingStart (engine : Fin 2) (s : State) : Out :=
  let g : Engine := s.eng[engine]
  .next (if g.running && !g.warming && !g.warmed && g.start.any (fun h => decide (h.toNat ≤ s.count.toNat)) then
      (s.setEng engine { g with warming := true, silt := [], siltCleared := false }).showEngine engine 1
    else s)

/-- WARMING_END at tick s + W (R250, R254). -/
def State.endWarming (s : State) (e : Fin 2) : State :=
  let g : Engine := s.eng[e]
  let h := BitVec.ofNat 64 g.warmEnd
  let max := match s.phase? with | some p => p.ph.bucketMax | none => 0
  let s := s.setEng e { g with warming := false, warmed := true, bucketAt := h - 1 }
  let s := s.setReg (LSS_BUCKET + lssOff e) (BitVec.ofNat 32 max)
  let s := (s.setFlag (LSS_STAT_WARM_DONE.on (lssOff e)) true).setReg64 (LSS_WARM_END_LO + lssOff e) h
  (s.showEngine e 2).writeEventAt 0x0402 h 0 [e]

def execWarmingEnd (engine : Fin 2) (s : State) : Out :=
  let g : Engine := s.eng[engine]
  .next (if g.running && g.warming && decide (g.warmEnd ≤ s.count.toNat) then s.endWarming engine else s)

/-- A write of 1 to ENGINE_RESET: a checkpoint that assembles is abandoned, answers are discarded, the banks and the open slab buffers
cleared, a restart horizon announced (R225, R228, R247, R250, R257, Table 7.8). Outside Growing only the banks are cleared. -/
def State.resetEngine (s : State) (e : Fin 2) : State :=
  if (s.eng[e] : Engine).running then
    let s := s.admitUpTo e s.count
    let s := match (s.eng[e] : Engine).assembling with
      | some a =>
        let s := (s.setEng e { s.eng[e] with assembling := none }).setFld (LSS_CKPT_STAT_STATE.on (lssOff e)) 0
        s.writeEvent 0x040B [e, a.hzn.toNat]
      | none => s
    let s := s.flushLate e
    let g : Engine := s.eng[e]
    let s := s.setEng e { g with
      silt := [], siltCleared := true, filled := [], scanFailed := []
      queries := g.queries.map (fun (q : Query) => if q.shed then q else { q with discarded := true, answer := none })
      groups := g.groups.map (fun x => (x.1, { x.2 with lost := x.2.lost ++ x.2.openBufs.map Prod.fst, openBufs := [] })) }
    s.announceRestart e
  else
    let g : Engine := s.eng[e]
    s.setEng e { g with silt := [], siltCleared := true }

def execEngineReset (path : Path) (engine : Fin 2) (s : State) : Out :=
  .next (s.via path (LSS_CTL + lssOff engine) (fun s => s.resetEngine engine))

/-! Checkpoints -/

/-- STAGED follows the staging region (Table 7.10). -/
def State.showStaged (s : State) (e : Fin 2) : State :=
  s.setFld (LSS_CKPT_STAT_STAGED.on (lssOff e)) (min (s.eng[e] : Engine).staged.length 15)

/-- A checkpoint that falls due starts to assemble, or is skipped with staging full; a change of SLOW_MIRROR takes effect (R264 to
R266). -/
def State.startCheckpoint (s : State) (e : Fin 2) : State :=
  let c := s.count
  let g : Engine := s.eng[e]
  let mirror := s.flag (LSS_CTL_SLOW_MIRROR.on (lssOff e))
  let loose := g.looseSinceCkpt || s.mod.loose
  let s := s.setEng e { g with slowMirror := mirror, looseSinceCkpt := s.mod.loose }
  let g : Engine := s.eng[e]
  if 4 ≤ g.staged.length then
    (s.setFld (LSS_CKPT_STAT_STATE.on (lssOff e)) 4).writeEventAt 0x0406 c 0 [e, c.toNat]
  else
    let a : Assembling := { hzn := c, loose := loose, warming := g.warmAt c, taken := none, pkgs := [], ready := [] }
    (s.setEng e { g with assembling := some a }).setFld (LSS_CKPT_STAT_STATE.on (lssOff e)) 1

def execCheckpointHorizon (engine : Fin 2) (s : State) : Out :=
  let g : Engine := s.eng[engine]
  let begun := g.start.any (fun h => decide (h.toNat ≤ s.count.toNat))
  .next (if g.running && begun && lowZero 24 s.count && g.assembling.isNone && s.reg64 (LSS_CKPT_LO + lssOff engine) != s.count then
      s.startCheckpoint engine else s)

/-- A stream ring entry's 32 bytes (Table 6.2). -/
def StreamEntry.bytes (x : StreamEntry) (t : Nat) : List Byte :=
  (List.range 16).map (fun i => BitVec.ofInt 8 (x.summary.getD i 0)) ++ leBytes 2 x.verdict.toNat
    ++ leBytes 1 (x.cause * 16 + x.present.toNat) ++ zeroBytes 5 ++ leBytes 8 t

/-- The 256 entries of a stream ring from tick `first` on (R226, Table 16.5). -/
def StreamRing.unitImage (r : StreamRing) (first : Nat) : List Byte :=
  (List.range 256).flatMap (fun i => ((r.entry? (first + i)).getD ⟨[], 0, 0, false⟩).bytes (first + i))

/-- A section of a checkpoint: header and content (Table 7.7). -/
def ckptSection (typ count : Nat) (content : List Byte) : List Byte :=
  leBytes 2 typ ++ zeroBytes 2 ++ leBytes 8 content.length ++ leBytes 4 count ++ content

/-- The carry of a recurrence into the block that is open after all history of ticks below `c`: the state at the end of the block before it, or
the initial state (R238, Table 7.7). -/
def Engine.carryAt (g : Engine) (r : Recurs) (q : LoessProg) (c i : Nat) (decay : List Nat) (init : List Int) (group : Option Nat) : List Int :=
  let n := match group with
    | none => c
    | some _ => match g.recurIndex group (c - 1) with
      | some p => p + 1
      | none => 0
  let last := n / 64 * 64
  let v := if last = 0 then none else (mapFind r.map (q.key group i)).bind (fun x => mapFind x.values (last - 1))
  (List.range decay.length).map (fun k => match v with
    | some x => (x.getD k (0, false)).1
    | none => init.getD k 0)

/-- The RECUR carries of an engine after all history of ticks below `c`, in image stage order: of a settled stage, one for each stream ring
(Table 7.7, section 1; log entry 114). -/
def Engine.carriesAt (g : Engine) (l : LoessSection) (rings : List Nat) (c : Nat) : List Int :=
  let r := g.recursAt (BitVec.ofNat 64 c)
  let of := fun (stages : List Stage) (progs : List LoessProg) => stages.zipIdx.flatMap (fun si => match si.1 with
    | .recur _ d init group =>
      (progs.filter (fun q => group.isNone || q.lead)).flatMap (fun q => g.carryAt r q c si.2 d init group)
    | _ => [])
  l.ctx.flatMap (fun x => of x.stages [x.prog])
    ++ l.settled.zipIdx.flatMap (fun x => of x.1 (rings.zipIdx.map (fun d => settledProg x.1 x.2 d.1 (d.2 == 0))))

/-- Insert a ring in ascending ring number. -/
def placeRing (number : Nat → Nat) (x : Nat) : List Nat → List Nat
  | [] => [x]
  | y :: rest => if number x < number y then x :: y :: rest else y :: placeRing number x rest

/-- The 128 bytes of a tick's package in a checkpoint: the package as it was written, else the one that the entry unit takes in its place: the
seed package in warming, else the default (R245, R248, Table 7.7). -/
def Engine.packageOf (g : Engine) (p : PhaseProg) (pkgs : List Package) (ring t : Nat) : List Byte :=
  match (pkgs.filter (fun k => k.ring == ring && k.hzn.toNat == t)).getLast? with
  | some k => padTo 128 k.bytes
  | none => if g.warmAt (BitVec.ofNat 64 t) then p.seedOf ring else p.dfltOf ring

/-- The bytes of a checkpoint, or of a lock-step snapshot with sections 1, 2 and 5 only (Tables 7.6 and 7.7, R312). -/
def State.checkpointBytes (s : State) (e : Fin 2) (p : PhaseProg) (c : Nat) (loose warming snapshot : Bool) (bucket : Nat)
    (qs : List Query) (pkgs : List Package) : List Byte :=
  let g : Engine := s.eng[e]
  let l := p.loess e
  let sorted := fun (rs : List Nat) => rs.foldl (fun m r => placeRing (s.ringNumber e) r m) []
  let rings := sorted (l.streams.map StreamDecl.ring)
  let carries := g.carriesAt l rings c
  let s1 := ckptSection 1 carries.length (carries.flatMap (fun v => leBytes 4 (toBits 32 v)))
  let s2 := ckptSection 2 qs.length (leBytes 4 bucket ++ qs.flatMap (fun q =>
    leBytes 8 q.hzn.toNat ++ leBytes 1 q.bed ++ leBytes 1 q.slot ++ leBytes 1 q.kind ++ zeroBytes 5))
  let s3 := ckptSection 3 (p.ph.d * rings.length) ((List.range p.ph.d).flatMap (fun i =>
    rings.flatMap (fun r => g.packageOf p pkgs r (c + i))))
  let read := sorted l.windowRings
  let s4 := ckptSection 4 (read.length * 4096) (read.flatMap (fun r => (List.range 4096).flatMap (fun i =>
    let t := c - 1 - i
    (((mapFind g.streams r).bind (fun x => x.entry? t)).getD ⟨[], 0, 0, false⟩).bytes t)))
  let starts := rings.filterMap (fun r => (mapFind g.streams r).map StreamRing.start) ++ g.groups.map (fun x => x.2.start)
  let s5 := ckptSection 5 starts.length (starts.flatMap (fun x => leBytes 8 x.toNat) ++ leBytes 8 g.warmEnd)
  let body := if snapshot then s1 ++ s2 ++ s5 else s1 ++ s2 ++ s3 ++ s4 ++ s5
  leBytes 2 1 ++ leBytes 1 e ++ leBytes 1 (loose.toNat + 2 * warming.toNat) ++ leBytes 4 (if snapshot then 3 else 5) ++ leBytes 8 c
    ++ leBytes 8 (64 + body.length) ++ leBytes 4 ((s.prog.image.map ImageCopy.index).getD 0xFFFF) ++ zeroBytes 36 ++ body

/-- The blocks of the staging region that an object takes: the region holds four of 128 MiB (R265, Table 6.1). -/
def stagingBlocks (place n : Nat) : List Nat := blocksOf (stagingBase + place % 4 * 2 ^ 27) n

/-- Queue a staged object for export, read in class 5 (R210, R264, R469). -/
def State.exportStaged (s : State) (e : Fin 2) (x : Staged) : State :=
  let place := ((s.eng[e] : Engine).staged.findIdx? (fun y => y == x)).getD 0
  (s.queueBlocks e 5 (stagingBlocks place x.bytes.length) .none).queueBulk 0xD0 x.hzn e x.snapshot.toNat x.bytes

/-- Stage a checkpoint or snapshot, written in class 5; it is exported with CKPT_EXPORT = 1 (R210, R264, R312). -/
def State.stage (s : State) (e : Fin 2) (x : Staged) : State :=
  let s := s.queueBlocks e 5 (stagingBlocks (s.eng[e] : Engine).staged.length x.bytes.length) .store
  let g : Engine := s.eng[e]
  let s := (s.setEng e { g with staged := g.staged ++ [x] }).showStaged e
  if s.flag (LSS_CTL_CKPT_EXPORT.on (lssOff e)) then s.exportStaged e x else s

/-- The image copy as it stands in DRAM: the sown image with the committed corrections (R115, R191; log entry 19). -/
def State.copyBytes (s : State) : List Byte :=
  let bytes := (s.prog.image.map ImageCopy.bytes).getD []
  if s.prog.corrections.isEmpty then bytes
  else Config.correctedImage bytes (s.prog.corrections.map (fun (c : Correction) => (c.phase, c.layoutBed, c.grain, c.word, c.bytes)))

/-- Write the image copy digest pair of a lock-step snapshot; the image copy holds the committed corrections (R312, R115). -/
def State.snapshotImage (s : State) (h : U64) : State :=
  s.writePair 0x0603 h 0 h.toNat (sha512 s.copyBytes)

/-- The east engine's checkpoint is a lock-step snapshot that has been asked for (R312). -/
def State.serveSnapshot (s : State) (h : U64) : State :=
  let s := { s with lck := { s.lck with ckptServes := false } }
  ((s.snapshotImage h).setFlag RNG_LCK_STAT_SNAP_DONE true).setReg64 RNG_LCK_SNAP_LO h

/-- CHECKPOINT_COMPLETE (R264, R265). -/
def State.completeCheckpoint (s : State) (e : Fin 2) (p : PhaseProg) (a : Assembling) : State :=
  let s := s.takeBucket e p.ph (a.hzn.toNat)
  let g : Engine := s.eng[e]
  let t := (g.assembling.bind Assembling.taken).getD (0, [])
  let s := s.advanceRecurs e (p.loess e) a.hzn (a.hzn.toNat - 1)
  let bytes := s.checkpointBytes e p a.hzn.toNat a.loose a.warming false t.1 t.2 a.pkgs
  let x : Staged := { hzn := a.hzn, snapshot := false, digest := sha512 bytes, bytes := bytes }
  let s := s.setEng e { (s.eng[e] : Engine) with assembling := none }
  let s := (s.setFld (LSS_CKPT_STAT_STATE.on (lssOff e)) 2).setReg64 (LSS_CKPT_LO + lssOff e) a.hzn
  let s := (s.stage e x).writePair 0x0405 a.hzn 0 e x.digest
  if s.lck.ckptServes ∧ e = 0 then s.serveSnapshot a.hzn else s

def execCheckpointComplete (engine : Fin 2) (s : State) : Out :=
  let g : Engine := s.eng[engine]
  .next (match g.assembling, s.phase? with
    | some a, some p =>
      if g.running && (p.loess engine).streams.all (fun d => a.ready.contains d.ring) then s.completeCheckpoint engine p a else s
    | _, _ => s)

/-! Spills, DRAM, silt -/

/-- The bytes of a spill unit as a read returns them (R201, R214, R226). -/
def Engine.unitBytes (g : Engine) (stream : Bool) (ring first : Nat) : List Byte :=
  if stream then ((mapFind g.streams ring).map (fun r => r.unitImage first)).getD []
  else ((mapFind g.groups ring).map (fun r => r.unitImage first)).getD []

/-- SPILL_UNIT: the oldest unit of a spillable ring goes to the host, read in class 5, before its space is rewritten, or is dropped (R226). -/
def State.spill (s : State) (e : Fin 2) (stream : Bool) (ring : Nat) (first : U64) (sent : Bool) : State :=
  let eng : Engine := s.eng[e]
  if sent then
    let bytes := eng.unitBytes stream ring first.toNat
    let s := s.setEng e { eng with spills := eng.spills.map (fun (u : SpillUnit) =>
      if u.stream = stream ∧ u.ring = ring ∧ u.first = first.toNat then { u with sent := true } else u) }
    let s := (s.queueBlocks e 5 (eng.unitBlocks stream ring first.toNat) .none).bump64 (LSS_SPILL_LO + lssOff e) bytes.length
    s.queueBulk 0xD1 first e (s.ringWord e stream ring) bytes
  else s.rewriteUnit e stream ring first.toNat (if stream then 256 else 1)

def execSpillUnit (engine : Fin 2) (stream : Bool) (ring : Fin 256) (first : U64) (sent : Bool) (s : State) : Out :=
  let eng : Engine := s.eng[engine]
  .next (match (if stream then s.layoutRing engine ring else some ring.val) with
    | none => s
    | some key =>
      if eng.running && eng.spills.any (fun (u : SpillUnit) => u.stream == stream && u.ring == key && u.first == first.toNat && !u.sent) then
        s.spill engine stream key first sent
      else s)

/-- The DRAM controllers serve: the stacks are initialised and not in self-refresh (R209). -/
def State.dramServes (s : State) : Bool := s.mod.dramDone && s.mod.st.powered && s.mod.st != .fallow && s.mod.st != .waking

/-- DRAM_REFRESH: the bank is held for 120 ns, after a transaction in progress on it (R207, R210, Table 6.5). -/
def State.refreshBank (s : State) (e : Fin 2) (c : Fin 8) (bank : Nat) : State :=
  let eng : Engine := s.eng[e]
  let ch : DramChan := eng.chans[c]
  let busy := ch.started.foldl (fun m (x : DramStart) => if x.bank = bank then max m (x.ns.toNat + 45) else m) s.tim.c.toNat
  let wait := busy - s.tim.c.toNat
  let live := ch.refresh.filter (fun (x : Nat × U64) => decide (s.tim.c.toNat < x.2.toNat) && x.1 != bank)
  let s := s.setEng e { eng with chans := eng.chans.set c { ch with refresh := live ++ [(bank, BitVec.ofNat 64 (busy + 120))] } }
  s.raiseFld ⟨LSS_BLOCK_MAX + lssOff e + 0x1000000 * 2, 0, 16⟩ wait

def execDramRefresh (engine : Fin 2) (chan : Fin 8) (bank : Fin 64) (s : State) : Out :=
  .next (if s.dramServes then s.refreshBank engine chan bank else s)

/-- The ceiling of a class; class 6 has none (R211), but starts one transaction per channel in 1,000 ns while the module throttles (R522). -/
def State.ceiling (s : State) (e : Fin 2) (cls : Nat) : Option Nat :=
  match cls with
  | 2 => some (s.fld (LSS_DRAM_CAPS_CAP2.on (lssOff e)))
  | 3 => some (s.fld (LSS_DRAM_CAPS_CAP3.on (lssOff e)))
  | 4 => some (s.fld (LSS_DRAM_CAPS_CAP4.on (lssOff e)))
  | 5 => some (s.fld (LSS_DRAM_CAPS_CAP5.on (lssOff e)))
  | 6 => if s.flag PWR_STAT_THROTTLE then some 1 else none
  | _ => none

/-- The transaction that a channel starts at a boundary: the oldest of the highest class that has one waiting and is within its ceiling
over the last 1,000 ns; a bank that a refresh holds makes it wait (R210, R211, Table 6.9). -/
def State.pickTx (s : State) (e : Fin 2) (ch : DramChan) : Option DramTx :=
  let now := s.tim.c.toNat
  let recent := fun (k : Nat) => (ch.started.filter (fun (x : DramStart) => x.cls == k && decide (now < x.ns.toNat + 1000))).length
  [2, 3, 4, 5, 6].findSome? (fun k =>
    match ch.waiting.find? (fun (t : DramTx) => t.cls == k) with
    | none => none
    | some t =>
      let room := match s.ceiling e k with | some c => decide (recent k < c) | none => true
      let held := ch.refresh.any (fun (x : Nat × U64) => x.1 == t.bank && decide (now < x.2.toNat))
      if room && !held then some t else none)

/-- Entries of one range are given up: they read as the ring's fill value; a spill unit among them that has not gone out is sent with it; EVENT
0x0409 (R214, Table 6.9). -/
def State.giveUp (s : State) (e : Fin 2) (stream : Bool) (ring : Nat) (range : Nat × Nat) : State :=
  let eng : Engine := s.eng[e]
  let s := if stream then
      match mapFind eng.streams ring with
      | some r => s.setEng e { eng with streams := mapSet eng.streams ring { r with givenUp := r.givenUp ++ [range] } }
      | none => s
    else
      match mapFind eng.groups ring with
      | some r => s.setEng e { eng with groups := mapSet eng.groups ring { r with givenUp := r.givenUp ++ [range] } }
      | none => s
  let word := s.ringWord e stream ring
  let s := { s with hst := { s.hst with bulk := s.hst.bulk.map (fun (b : Bulk) =>
    if b.op = 0xD1 ∧ b.source = e.val ∧ b.index = word ∧ b.sent = 0 ∧ range.1 ≤ b.arg.toNat ∧ b.arg.toNat ≤ range.2 then
      { b with data := (s.eng[e] : Engine).unitBytes stream ring b.arg.toNat }
    else b) } }
  s.writeEvent 0x0409 [e, word, range.1, range.2]

/-- Every entry that a block's row held is given up, ring by ring (R214; log entry 115). -/
def State.giveUpBlock (s : State) (e : Fin 2) (block : Nat) : State :=
  let eng : Engine := s.eng[e]
  let streams := eng.streams.flatMap (fun x => (x.2.heldBy block).map (fun r => (true, x.1, r)))
  let groups := eng.groups.flatMap (fun x => (x.2.heldBy block).map (fun r => (false, x.1, r)))
  (streams ++ groups).foldl (fun s x => s.giveUp e x.1 x.2.1 x.2.2) s

/-- The work item that issued a read which failed: its product takes cause 3 (R214). -/
def Engine.failItem (g : Engine) (item : TxItem) : Engine :=
  match item with
  | .query h bed slot => { g with queries := g.queries.map (fun (q : Query) =>
      if q.hzn.toNat = h ∧ q.bed = bed ∧ q.slot = slot then { q with failed := true } else q) }
  | .scan ring => { g with scanFailed := g.scanFailed.filter (· != ring) ++ [ring] }
  | _ => g

/-- A read ends with its outcome: corrected errors are counted; an uncorrectable one is a DRAM row fault, unless the row has been given up
already (R208, R214). A store meets no error, and the errors of a row under test are its test's. -/
def State.txOutcome (s : State) (e : Fin 2) (c : Nat) (t : DramTx) (outcome : DramOutcome) : State :=
  match t.block, outcome with
  | none, _ | some _, .good => s
  | some _, .corrected =>
    if t.item = .store then s else (s.bump (LSS_DRAM_ECC_CNT + lssOff e)).setFlag (LSS_MEM_STAT_DRAM_CORR.on (lssOff e)) true
  | some block, .uncorrectable =>
    let key := c * 2 ^ 20 + t.bank * 2 ^ 13 + t.row
    if t.item = .store ∨ (s.eng[e] : Engine).rowsTested.contains key then s
    else
      let s := s.detect (dramUnit e c t.bank t.row) 9 s.count 0
      let eng : Engine := s.eng[e]
      (s.setEng e ({ eng with rowsTested := eng.rowsTested ++ [key] }.failItem t.item)).giveUpBlock e block

/-- A scan has brought data: the mover fills the next block of its own that has been released (R217). -/
def State.fillScan (s : State) (e : Fin 2) (t : DramTx) : State :=
  match t.item, s.loess? e with
  | .query _ _ _, some l | .scan _, some l => s.setEng e ((s.eng[e] : Engine).fillNext l)
  | _, _ => s

/-- DRAM_TRANSACTION_BOUNDARY (R206, R210 to R212). -/
def State.startTx (s : State) (e : Fin 2) (c : Fin 8) (outcome : DramOutcome) : State :=
  let s := s.gatherJobs e c
  let eng : Engine := s.eng[e]
  let ch : DramChan := eng.chans[c]
  match s.pickTx e ch with
  | none => s
  | some t =>
    let now := s.tim.c
    let oldest := ch.started.foldl (fun m (x : DramStart) => if x.cls = t.cls then max m x.ns.toNat else m) t.ns.toNat
    let live := ch.started.filter (fun (x : DramStart) => decide (now.toNat < x.ns.toNat + 1000))
    let s := s.setEng e { eng with chans := eng.chans.set c { ch with waiting := ch.waiting.erase t, started := live ++ [⟨t.cls, t.bank, now⟩] } }
    let s := s.raiseFld ⟨LSS_BLOCK_MAX + lssOff e + 0x1000000 * (t.cls + 1), 0, 16⟩ (now.toNat - oldest)
    (s.txOutcome e c t outcome).fillScan e t

def execDramTransactionBoundary (engine : Fin 2) (chan : Fin 8) (outcome : DramOutcome) (s : State) : Out :=
  .next (if s.dramServes then s.startTx engine chan outcome else s)

/-- Port 0 and port 1 meet in one word: port 0's access completes; port 1's meets BUSY unless both read, is counted, and completes in the bank's
next mover slot (R219, Table 6.6). A window write in Growing is ignored and meets nothing (Table 6.9). -/
def State.moverRetry (s : State) (e : Fin 2) (bank word : Nat) (port0 : SiltAccess) (write : Option (List Word)) : State :=
  let s := (s.siltAccess e bank word port0).2.2
  if write.isSome && s.mod.st == .growing then s
  else
    let s := if siltBusy port0 write.isSome then s.bump (LSS_SILT_BUSY_CNT + lssOff e) else s
    s.port1 e bank word write

def execSiltMoverRetry (engine : Fin 2) (busy : BusyAccess) (s : State) : Out :=
  .next (if (s.eng[engine] : Engine).running then s.moverRetry engine busy.bank busy.word busy.port0 busy.write else s)

/-- SILT_COLUMN_REPAIR_DONE: the spare replaces the column for reads; an abandoned repair has degraded the bank already (R224, R228). -/
def State.columnRepaired (s : State) (e : Fin 2) (r : SiltRepair) : State :=
  let eng : Engine := s.eng[e]
  let s := s.setEng e { eng with repairs := eng.repairs.filter (fun (x : SiltRepair) => x.bank != r.bank) }
  if r.broken then s
  else (s.setFlag (LSS_MEM_STAT_COL_SPARED.on (lssOff e)) true).unitMoved (siltUnit e r.bank r.column) r.spare s.count

def execSiltColumnRepairDone (engine : Fin 2) (bank : Fin 256) (s : State) : Out :=
  let eng : Engine := s.eng[engine]
  .next (match eng.repairs.find? (fun (r : SiltRepair) => r.bank == bank.val) with
    | some r => s.columnRepaired engine r
    | none => s)

/-! Firm and loose mode -/

/-- A FIRM_LOCK order executes (R373). -/
def State.locking (s : State) : Bool := match s.sec.cmd with | some (.burn 5 _ _) => true | _ => false

/-- A write of TOP_CTL.LOOSE (R261, R371, R373): a 1 is ignored once FIRM_LOCK is set, and while an order burns it. -/
def State.requestLoose (s : State) (v : Bool) : State := if v && (s.firmLock || s.locking) then s else s.setFlag TOP_CTL_LOOSE v

def execLooseWrite (path : Path) (value : Bool) (s : State) : Out := .next (s.via path TOP_CTL (fun s => s.requestLoose value))

/-- MODE_CHANGE at a horizon boundary: EVENT 0x0305; after a return to firm mode records carry LOOSE until the second checkpoint horizon;
loose mode ends a lock-step comparison with code 0x4 (R261 to R263, Table 9.8). -/
def State.changeMode (s : State) (v : Bool) : State :=
  let second := (s.count.toNat / 2 ^ 24 + 2) * 2 ^ 24
  let s := { s with
    mod := { s.mod with loose := v, modes := ((s.count, v) :: s.mod.modes).take 8, looseTail := if v then none else some (BitVec.ofNat 64 second) }
    eng := s.eng.map (fun (g : Engine) => { g with looseSinceCkpt := g.looseSinceCkpt || v }) }
  let s := (s.setFlag LSS_STAT_LOOSE v).setFlag (LSS_STAT_LOOSE.on (lssOff 1)) v
  let s := if v ∧ s.lckState = 2 then (s.setFld RNG_LCK_STAT_STATE 5).setFld RNG_LCK_STAT_REF_CODE 4 else s
  s.writeEvent 0x0305 [v.toNat]

def execModeChange (s : State) : Out :=
  let v := s.flag TOP_CTL_LOOSE
  .next (if s.atBoundary && v != s.mod.loose && (s.mod.st.serving) then s.changeMode v else s)

end Sys2Proof.Machine
end

