-- ==== Sys2Proof/Machine/LockStep.lean ====
section
/-!
DEFINITION. The lock-step commands (chapter 9, R307 to R314): arming, windows and their comparison, freezing, locating, the snapshot,
rearming.
-/
namespace Sys2Proof.Machine

/-- Set STATE of lock-step comparison (Table 9.10). -/
def State.setLckState (s : State) (v : Nat) : State := s.setFld RNG_LCK_STAT_STATE v

/-- The partner's cascade position. -/
def State.lckPartner (s : State) : Nat := s.fld RNG_LCK_CTL_PARTNER

/-- Arming is refused with a code of Table 9.7. -/
def State.lckRefuse (s : State) (code : Nat) : State := (s.setLckState 5).setFld RNG_LCK_STAT_REF_CODE code

/-- The start horizon is a boundary at least 2,048 ticks after its commit (R310). -/
def State.lckStartGood (s : State) : Bool :=
  let h := s.reg64 RNG_LCK_START_LO
  s.lck.startSet && lowZero 10 h && decide (s.lck.commitAt.toNat + 2048 ≤ h.toNat)

/-- A write of EN (R310): 1 arms comparison from the start horizon, refused with 0x5 where that horizon cannot come any more; 0 stops
it. -/
def State.lckEnable (s : State) (v : Bool) : State :=
  let was := s.flag RNG_LCK_CTL_EN
  let s := s.setFlag RNG_LCK_CTL_EN v
  if v && !was then
    let s := ({ s with lck := { Lck.off with commitAt := s.lck.commitAt, startSet := s.lck.startSet } }).setFld RNG_LCK_STAT_REF_CODE 0
    if !s.lck.startSet || decide ((s.reg64 RNG_LCK_START_LO).toNat ≤ s.count.toNat) then s.lckRefuse 5 else s.setLckState 1
  else if !v && was then
    ({ s with lck := { Lck.off with commitAt := s.lck.commitAt, startSet := s.lck.startSet } }).setLckState 0
  else s

def execLckEn (path : Path) (value : Bool) (s : State) : Out :=
  .next (s.via path RNG_LCK_CTL (fun s => s.lckEnable value))

/-- A write of RNG_LCK_START_HI commits the start horizon (R310). -/
def State.lckCommit (s : State) (v : Word) : State :=
  let s := s.setReg RNG_LCK_START_HI v
  { s with lck := { s.lck with commitAt := s.count, startSet := true } }

def execLckStartCommit (path : Path) (value : Word) (s : State) : Out :=
  .next (s.via path RNG_LCK_START_HI (fun s => s.lckCommit value))

/-- SHA-512 of the keys of every phase: rounding, tally and marl key, each as 16 little-endian bytes (R310). -/
def Program.keyDigest (p : Program) : List Byte :=
  sha512 (p.phases.flatMap (fun q => leBytes 16 q.keys.rounding ++ leBytes 16 q.keys.tally ++ leBytes 16 q.keys.marl))

/-- The refusal of a start, 0 when comparison begins (R310, R313, Table 9.7). Without an exchange only this module's side is known. -/
def State.lckStartCode (s : State) (p : LckPeer) : Nat :=
  let met := p.reachable && p.armed
  let digest := ((s.prog.image.map ImageCopy.digest).getD [])
  let keys := ((s.program?.map Program.keyDigest).getD [])
  if met && p.imageDigest != digest then 1
  else if met && p.keyDigest != keys then 2
  else if met && (p.launch != s.hz.launchAt || p.d != s.reg LSS_LAG || p.w != s.reg LSS_WARM) then 3
  else if s.mod.loose || (met && !p.firm) then 4
  else if s.lck.rearmAt.isNone && !s.lckStartGood then 5
  else if !met then 6
  else if s.mod.st != .growing || !p.growing then 7
  else 0

/-- What the module tells its partner at the start beside the image digest and the key digest: launch horizon, D, W, Growing, firm mode (R310). -/
def State.lckOffer (s : State) : List Nat :=
  [0, s.hz.launchAt.toNat, (s.reg LSS_LAG).toNat, (s.reg LSS_WARM).toNat, (s.mod.st == .growing).toNat, (!s.mod.loose).toNat]

/-- LCK_START: at the start horizon the partners exchange their digests and begin to compare, or arming is refused (R310). -/
def State.lckBegin (s : State) (p : LckPeer) : State :=
  let code := s.lckStartCode p
  let s := s.sendMessage 8 s.lckPartner s.lckOffer ((((s.prog.image.map ImageCopy.digest).getD [])) ++ ((s.program?.map Program.keyDigest).getD []))
  if code = 0 then
    let s := { s with lck := { s.lck with
      results := [], windows := [], partner := [], frozenWindow := none, gapWindows := [], next := s.lckFrom } }
    s.setLckState 2
  else s.lckRefuse code

def execLckStart (partner : LckPeer) (s : State) : Out :=
  .next (if s.flag RNG_LCK_CTL_EN && s.lckState == 1 && decide (s.lckFrom.toNat ≤ s.count.toNat) && s.mod.st.serving then s.lckBegin partner
    else s)

/-- The module freezes: the digest store is overwritten no more, a snapshot falls due at the next horizon boundary (R311, R312). -/
def State.lckFreezeAt (s : State) (w : Option U64) : State :=
  let s := { s with lck := { s.lck with frozenWindow := w, snapDue := some (nextBoundary s.count) } }
  s.setLckState 3

/-- A divergence in window `w`: DIVERGED, a freeze message, the freeze; while locating, an earlier window takes its place (R311,
Table 9.8). -/
def State.diverge (s : State) (w : U64) : State :=
  if s.lckState = 2 then
    ((s.setFlag RNG_LCK_STAT_DIVERGED true).sendMessage 8 s.lckPartner [2] []).lckFreezeAt (some w)
  else
    match s.lck.frozenWindow with
    | some x => if w.toNat < x.toNat then { s with lck := { s.lck with frozenWindow := some w } } else s
    | none => { s with lck := { s.lck with frozenWindow := some w } }

/-- Compare a window's digest with the partner's (R311). -/
def State.compareWindow (s : State) (w a b : U64) : State :=
  let s := s.bump64 RNG_LCK_WIN_LO 1
  if a = b then s else s.diverge w

/-- A window is a capture gap (R309). -/
def State.captureGap (s : State) (w : U64) : State :=
  let s := (s.bump RNG_LCK_GAP_CNT).setFlag RNG_LCK_STAT_GAP true
  { s with lck := { s.lck with gapWindows := s.lck.gapWindows ++ [w] } }

/-- Every result block of the window that starts at `w` has been formed: its ticks have passed and no frame of them is left (R308). -/
def State.windowFormed (s : State) (w : Nat) : Bool :=
  decide (w + 64 ≤ s.count.toNat) &&
    !s.fast.frames.any (fun (f : Frame) => decide (w ≤ f.hzn.toNat ∧ f.hzn.toNat < w + 64) && (!f.exited || (f.hasSettled && !f.settledDone))) &&
    !s.fast.arrived.any (fun (a : Arrived) => decide (w ≤ a.hzn.toNat ∧ a.hzn.toNat < w + 64))

/-- LCK_WINDOW_CLOSE: the window digest is formed and sent with its horizon, the tick digests are stored, and the digest is compared where the partner's has come; digests that could not be written
in time make a capture gap (R308, R309, R311). -/
def State.closeWindow (s : State) (w : U64) (late : Bool) : State :=
  let d := s.windowDigest w.toNat
  let s := { s with lck := { s.lck with next := w + 64 } }
  let s := (s.windowTicks w.toNat).foldl (fun s x => s.storeDigests x.1 x.2 8) s
  let s := if late then s.captureGap w else s
  let s := s.sendMessage 8 s.lckPartner [1, w.toNat, d.toNat] []
  match s.lck.partner.find? (fun x => x.1 == w) with
  | some x =>
    let s := { s with lck := { s.lck with partner := s.lck.partner.filter (fun y => y.1 != w) } }
    s.compareWindow w d x.2
  | none => { s with lck := { s.lck with windows := s.lck.windows ++ [⟨w, d, s.count⟩] } }

def execLckWindowClose (start : U64) (late : Bool) (s : State) : Out :=
  .next (if s.lckState == 2 && start == s.lck.next && s.windowFormed start.toNat then s.closeWindow start late else s)

/-- LCK_PARTNER_DIGEST: the partner's digest of a window that has closed here is compared, of one that has not it is kept (R311). -/
def State.partnerDigest (s : State) (w d : U64) : State :=
  match s.lck.windows.find? (fun x => x.start == w) with
  | some x =>
    let s := { s with lck := { s.lck with windows := s.lck.windows.filter (fun y => y.start != w) } }
    s.compareWindow w x.digest d
  | none =>
    if s.lckState = 2 ∧ s.lck.next.toNat ≤ w.toNat then
      { s with lck := { s.lck with partner := s.lck.partner.filter (fun y => y.1 != w) ++ [(w, d)] } }
    else s

def execLckPartnerDigest (start : U64) (digest : U64) (s : State) : Out :=
  .next (if s.lckState == 2 || s.lckState == 3 then s.partnerDigest start digest else s)

/-- LCK_FREEZE_MESSAGE: the module freezes on receipt; the exchange that follows names the window (R311). -/
def execLckFreezeMessage (s : State) : Out := .next (if s.lckState == 2 then s.lckFreezeAt none else s)

/-- A write of 1 to FREEZE freezes as for a mismatch (Table 9.10). -/
def State.lckFreezeWrite (s : State) : State :=
  if s.lckState = 2 then ((s.setFlag RNG_LCK_STAT_DIVERGED true).sendMessage 8 s.lckPartner [2] []).lckFreezeAt none else s

def execLckFreeze (path : Path) (s : State) : Out := .next (s.via path RNG_LCK_CTL (fun s => s.lckFreezeWrite))

/-- The first tick and layout bed of a window whose tick digests differ from the partner's (R311). -/
def State.firstTick (s : State) (w : Nat) (ticks : List PeerTick) : Option (Nat × Nat) :=
  ((List.range 64).flatMap (fun i => (s.layoutBeds (w + i)).map (fun b => (w + i, b)))).find? (fun x =>
    ticks.any (fun (t : PeerTick) => t.hzn.toNat == x.1 && t.bed == x.2 && t.digest != s.tickDigest x.1 x.2))

/-- The first slot, in entry order, whose result digest differs from the partner's (R311). -/
def firstSlot (mine : List ResultDigest) (theirs : List U64) : Option Nat :=
  (mine.zipIdx.find? (fun x => theirs[x.2]? != some x.1.digest)).map (fun x => x.1.slot)

/-- Show where a divergence stands: DIV, DIV_LOC, STATE located, EVENT 0x0601, which goes to the slot's lane where it names one (R311, R317). -/
def State.located (s : State) (w h : U64) (bed : Nat) (slot : Option Nat) : State :=
  let s := (s.setReg64 RNG_LCK_DIV_LO h).setFlag RNG_LCK_DIV_LOC_SLOT_VALID slot.isSome
  let s := (s.setFld RNG_LCK_DIV_LOC_BED bed).setFld RNG_LCK_DIV_LOC_SLOT (slot.getD 0)
  (s.setLckState 4).writeEventAt 0x0601 h (slot.getD 0 % 8) [w.toNat, bedSlot bed (slot.getD 0)]

/-- LCK_LOCATE_DONE (R309, R311): the module has sent its side of the exchange, the tick digests of the window and the result digests of the tick
and layout bed that differ; in a capture gap only the window is known. -/
def State.locate (s : State) (ticks : List PeerTick) (results : List U64) : State :=
  let w : Nat := match s.lck.frozenWindow with
    | some x => x.toNat
    | none => ((ticks.head?).map (fun (t : PeerTick) => t.hzn.toNat / 64 * 64)).getD (s.count.toNat / 64 * 64)
  let first := BitVec.ofNat 64 w
  let s := s.sendMessage 8 s.lckPartner [3, w] (s.windowBytes w)
  if s.lck.gapWindows.contains first then s.located first first 0 none
  else match s.firstTick w ticks with
    | some (t, b) =>
      let mine := (s.tickResults t b).flatMap (fun x => leBytes 8 x.digest.toNat)
      (s.sendMessage 8 s.lckPartner [4, t, b] mine).located first (BitVec.ofNat 64 t) b (firstSlot (s.tickResults t b) results)
    | none => s.located first first 0 none

def execLckLocateDone (ticks : List PeerTick) (results : List U64) (s : State) : Out :=
  .next (if s.lckState == 3 then s.locate ticks results else s)

/-- LCK_SNAPSHOT at boundary `h` (R312, R328): the east engine's staging takes sections 1, 2 and 5; at a checkpoint horizon the scheduled
checkpoint serves; with staging full it is skipped (Table 9.8). -/
def State.lckSnap (s : State) (p : PhaseProg) (h : U64) : State :=
  let s := { s with lck := { s.lck with snapDue := none } }
  let g : Engine := s.eng[(0 : Fin 2)]
  if g.assembling.any (fun a => a.hzn == h) then { s with lck := { s.lck with ckptServes := true } }
  else if 4 ≤ g.staged.length + g.assembling.toList.length then s.setFlag RNG_LCK_STAT_SNAP_SKIP true
  else
    let qs := g.queries.filter (fun (q : Query) => !q.shed && decide (q.hzn.toNat < h.toNat ∧ h.toNat ≤ q.hzn.toNat + setTicks p.ph s.tickPs))
    let s := s.advanceRecurs 0 p.east h (h.toNat - 1)
    let bytes := s.checkpointBytes 0 p h.toNat s.mod.loose (g.warmAt h) true (s.bucketTo 0 p.ph (h.toNat - 1)) qs []
    let x : Staged := { hzn := h, snapshot := true, digest := sha512 bytes, bytes := bytes }
    let s := (s.stage 0 x).setReg64 RNG_LCK_SNAP_LO h
    ((s.writePair 0x0602 h 0 h.toNat x.digest).snapshotImage h).setFlag RNG_LCK_STAT_SNAP_DONE true

def execLckSnapshot (s : State) : Out :=
  .next (match s.lck.snapDue, s.phase? with
    | some h, some p => if h.toNat ≤ s.count.toNat && (s.lckState == 3 || s.lckState == 4) then s.lckSnap p h else s
    | _, _ => s)

/-- A write of 1 to REARM releases a freeze: comparison restarts at the next window at least 2,048 ticks on, with the checks of R310
(R313). -/
def State.lckRearms (s : State) : State :=
  if s.lckState = 3 ∨ s.lckState = 4 then
    let h := BitVec.ofNat 64 ((s.count.toNat + 2048 + 63) / 64 * 64)
    ({ s with lck := { Lck.off with commitAt := s.lck.commitAt, startSet := s.lck.startSet, rearmAt := some h } }).setLckState 1
  else s

def execLckRearm (path : Path) (s : State) : Out := .next (s.via path RNG_LCK_CTL (fun s => s.lckRearms))

/-- LCK_CAPTURE_GAP: a partner digest that has not come 65,536 ticks after the window closed makes it a capture gap, once; one that comes later
is still compared (R309). -/
def execLckCaptureGap (start : U64) (s : State) : Out :=
  .next (if s.lckState == 2 && !s.lck.gapWindows.contains start
      && s.lck.windows.any (fun x => x.start == start && decide (x.closedAt.toNat + 65536 ≤ s.count.toNat)) then s.captureGap start
    else s)

end Sys2Proof.Machine
end

