-- ==== Sys2Proof/Machine/PowerOps.lean ====
section
/-!
DEFINITION. Shared operations of the supplies and of start-up: loss of the main rails (R30, R374, R513, R559), the start of a cold Waking
(R35, R379), a warm reset (R34, R339, R359, R539), the states a Waking ends in (R380).
-/
namespace Sys2Proof.Machine

/-! Registers that keep their values -/

/-- The bits of the bedrock PWR registers, which only loss of VSTBY clears (R527). -/
def bedrockRegs : List (Nat × Word) := [(PWR_STAT, 0xEF1), (PWR_BROWNOUT_CNT, 0xFFFFFFFF)]

/-- The register bits that a warm Waking keeps (R539): bedrock PWR bits, retired stream lanes (R421), CFG_BOOT_STAT, the domain rates
(R477), DEBUG_USED (R371), a pending launch (Table 1.7), and what shows a condition that goes on. -/
def warmRegs : List (Nat × Word) :=
  bedrockRegs ++
  [(STM_LANE_RET_LO, 0xFFFFFFFF), (STM_LANE_RET_HI, 0xFFFFFFFF), (STM_STAT, 0x10), (CFG_BOOT_STAT, 0xFFFFFFFF),
   (TIM_D_RATE, 0xFFFFFFFF), (TIM_D_RATE + timOff 1, 0xFFFFFFFF), (SEC_STAT, 0x8), (HZN_STAT, 0x8),
   (CLK_STAT, 0x3), (CFG_FW_VER, 0xFFFF), (THM_STAT, 0x305), (LSS_MEM_STAT, 0x8100), (LSS_MEM_STAT + lssOff 1, 0x8100)]

/-- The register store with only the given bits kept; every other one returns to its Reset value (R539). -/
def keepRegs (regs : Map Word) (kept : List (Nat × Word)) : Map Word :=
  kept.foldl (fun m a =>
    mapPut regReset m a.1 ((mapGet regReset regs a.1 &&& a.2) ||| (regReset a.1 &&& ~~~a.2))) []

/-! Sensors -/

/-- The level of THM_WARN in 1/16 °C; values outside 60 to 100 act as the nearer limit (R524, Table 19.9). -/
def State.warnLevel (s : State) : Int := (min 100 (max 60 (s.fld THM_WARN_LEVEL)) : Nat) * 16

/-- WARN follows the junction sensors (Table 19.10). -/
def State.showWarn (s : State) : State :=
  s.setFlag THM_STAT_WARN ((List.range 16).any (fun i => decide (s.warnLevel ≤ s.pwr.temps.toList.getD i 0)))

/-- Every sensor reads below THM_WARN (R517, R525). -/
def State.allCool (s : State) : Bool := s.pwr.temps.toList.all (fun t => decide (t < s.warnLevel))

/-! Loss of power -/

/-- Hardpan offset of a burn target's bytes: a generation, or a key-hash slot with its CRC (Table 12.1). -/
def burnPlaces (target index : Nat) : List (Nat × Nat) :=
  if target = 1 then [(0x0500 + 0x80 * index, 128)]
  else if target = 2 then [(0x0700 + 0x40 * index, 64), (0x0800 + 4 * index, 4)]
  else []

/-- The fuses of a revoke or lock target (R366). -/
def burnFuse (target index : Nat) : Option (Fin 10) :=
  if target = 3 then some (Fin.ofNat 10 (index % 4))
  else if target = 4 then some (Fin.ofNat 10 (4 + index % 4))
  else if target = 5 then some 8
  else if target = 6 then some 9
  else none

/-- A burn ends before its read-back: which of its bits are programmed is open; a generation or slot is bad (R374). -/
def State.burnBroken (s : State) (target index : Nat) (payload : List Byte) : State :=
  match burnFuse target index with
  | some f =>
    let d := s.drawNat
    let n : Nat := s.sec.fuses[f]
    { d.2 with sec := { d.2.sec with fuses := d.2.sec.fuses.set f (n + d.1 % (4 - n)) } }
  | none =>
    let src := fun (o n : Nat) => if o = 0x0800 + 4 * index then leBytes 4 (crc32 (payload.take 64)) else slice payload 0 n
    let s := (burnPlaces target index).foldl (fun s p =>
      let d := s.drawBytes p.2
      let old := bytesAt zeroByte s.sec.hardpan p.1 p.2
      let new := (List.zipWith (fun (a b : Byte) => a &&& b) (src p.1 p.2) d.1)
      { d.2 with sec := { d.2.sec with
        hardpan := putBytes zeroByte d.2.sec.hardpan p.1 (List.zipWith (fun (a b : Byte) => a ||| b) old new) } }) s
    { s with sec := { s.sec with bad := s.sec.bad.set (Fin.ofNat 8 ((if target = 2 then 4 else 0) + index % 4)).val true (by omega) } }

/-- Power loss meets a burn that runs (R374). -/
def State.cutBurn (s : State) : State :=
  match s.sec.cmd with
  | some (.burn t i p) => s.burnBroken t i p
  | _ => s

/-- The module loses its main rails and is Off: what is not in bedrock, in the hardpan or in flash is lost (R30, R511, R527, R559). -/
def State.dropPower (s : State) : State :=
  let s := s.cutBurn
  let r := State.reset
  { r with
    pending := s.pending
    regs := keepRegs s.regs bedrockRegs
    mod := { r.mod with vstby := s.mod.vstby, mainEn := s.mod.mainEn, thmTrip := s.mod.thmTrip }
    flt := { r.flt with hist := s.flt.hist }
    tim := { r.tim with c := s.tim.c, off := s.tim.off }
    pwr := { r.pwr with temps := s.pwr.temps }
    sec := { r.sec with hardpan := s.sec.hardpan, fuses := s.sec.fuses, bad := s.sec.bad }
    flash := s.flash
    free := s.free }

/-! Start-up -/

/-- A bed at the end of start-up step 1: the repair data's columns are failed and their spares assigned (R111, R225). -/
def State.freshBed (s : State) (b : Fin 4) : State :=
  let rep := s.factoryColumns b
  let s := s.setBed b { Bed.off with failed := rep.map Prod.snd, spares := rep }
  if s.bedPresent b then s else s.setBedState b 0

/-- A Waking that fails before the image is read ends in Halted: CFG_BOOT_STAT.CODE, halt cause 0 (R380). -/
def State.haltWaking (s : State) (code : Nat) : State :=
  let s := s.setFld CFG_BOOT_STAT_CODE code
  let s := { s with mod := { s.mod with haltCause := 0, bootRom := true } }
  (s.setFlag HST_STAT_BOOTROM true).enterState .halted 0 code 5

/-- Raise CFG_BOOT_STAT.STEP. -/
def State.bootStep (s : State) (n : Nat) : State := s.setFld CFG_BOOT_STAT_STEP (max n (s.fld CFG_BOOT_STAT_STEP))

/-- A cold Waking starts: step 1 senses the hardpan, selects the generation and starts the auger unit (R35, R331, R365 to R369, R379,
R477, R539). -/
def State.coldStart (s : State) : State :=
  let s := s.dropPower
  let s := { s with
    mod := { s.mod with st := .waking, warm := false, rails := true, vstby := true, mainEn := true }
    flt := { s.flt with hist := [] }
    tim := State.reset.tim
    sec := { s.sec with shadow := putBytes zeroByte (s.sec.hardpan.filter (fun x => decide (x.1 < 0x2800))) 0x0820 s.lockBytes } }
  let g := s.pickGen
  let s := { s with sec := { s.sec with gen := g } }
  let s := (s.setFld CFG_BOOT_STAT_GEN (g.getD 0)).setFlag CFG_BOOT_STAT_DEFAULTS g.isNone
  let s := (s.setReg PWR_BUDGET (BitVec.ofNat 32 (min 7000 s.budgetCap))).bootStep 1
  let s := ((s.setFlag CLK_STAT_REF_OK true).setFlag CLK_STAT_PLLS_LOCKED true).showWarn
  let s := { s with mod := { s.mod with thmTrip := s.mod.thmTrip && !s.allCool } }
  let s := (((s.freshBed 0).freshBed 1).freshBed 2).freshBed 3
  let s := { s with aug := Aug.cold }
  let s := s.chainStart.driveHold
  if s.factoryGood then s else s.haltWaking 1

/-! Warm reset -/

/-- The frames whose record entries are lost at a warm reset: those not yet written, and those of open runs (R339). -/
def State.lostEntries (s : State) : List Nat :=
  (s.fast.frames.filter (fun (f : Frame) => !f.recorded)).map (fun f => f.hzn.toNat)
    ++ s.aug.runs.flatMap (fun r => (List.range r.2.count).map (fun i => r.2.start.toNat + i))

/-- Name the lost entries: EVENT 0x0802, AUG_GAP_CNT, GAP (R339). -/
def State.recordGap (s : State) (lost : List Nat) : State :=
  match lost with
  | [] => s
  | h :: rest =>
    let lo := rest.foldl min h
    let hi := rest.foldl max h
    let s := (s.bumpBy AUG_GAP_CNT lost.length).setFlag AUG_STAT_GAP true
    s.writeEvent 0x0802 [lo, hi]

/-- A loess engine at a warm reset: it stops, its silt banks are cleared, its queries and its staging are gone (R34, R202, R225). -/
def Engine.warmReset (g : Engine) : Engine :=
  { Engine.off with
    streams := g.streams, groups := g.groups, siltCleared := true, siltUsed := g.siltUsed, repairs := g.repairs
    siltDegraded := g.siltDegraded, rowsSpared := g.rowsSpared, rowsTested := g.rowsTested }

/-- A lane at a warm reset: down until the firmware has restarted; frozen rates end with Sown and Growing (R403). -/
def Lane.warmReset (ln : Lane) : Lane := { Lane.off with tx := ln.tx, line := ln.line }

/-- The registers at a warm reset (R539, Table 18.3). -/
def State.warmRegs (s : State) : State :=
  let code := if s.svc.ucArmed.isSome then 8 else 0
  let rot := if s.svc.rot.isSome then 9 else 0
  let s := { s with regs := keepRegs s.regs Machine.warmRegs, latches := [] }
  let s := (s.setFld TOP_UC_STAT_CODE code).setFld TOP_ROT_STAT_CODE rot
  let s := (s.setReg PWR_BUDGET (BitVec.ofNat 32 (min 7000 s.budgetCap))).setFlag CFG_BOOT_STAT_WARM true
  let s := s.setFlag AUG_STAT_SIGN_BUSY (s.aug.tail.any TailRec.unsigned)
  let s := if s.bedPresent 3 then s else s.setBedState 3 0
  (s.setFld CFG_BOOT_STAT_CODE 0).setFld CFG_BOOT_STAT_STEP 0

/-- A bed at a warm reset: it holds its columns, its banks and the variant it had, which the Waking loads again or replaces (R34, R112,
Table 6.8). -/
def Bed.warmReset (b : Bed) : Bed :=
  { Bed.off with
    failed := b.failed
    banks := b.banks
    dirty := b.dirty
    spares := b.spares
    spareLoad := b.spareLoad
    variant := b.variant
    layoutBed := b.layoutBed }

/-- Enter Waking (warm): the state change record first, the record gap, then every unit restarts (R34, R339, R355, R474, R499, R539). With
no verified image copy the Waking is cold at once (R380). -/
def State.beginWarm (s : State) : State :=
  if s.mod.copyDigest.isEmpty then s.coldStart
  else
    let lost := s.mod.lost ++ s.lostEntries
    let s := { s with aug := { s.aug with runs := [], running := true } }
    let s := ((s.clearEntry).enterState .waking 0 0 0).recordGap lost
    let held := s.hst.held
    let s := s.warmRegs
    let s := { s with
      mod := { s.mod with
        warm := true, dramDone := true, dirRead := true, fwOk := false, bootRom := false, draining := false, loose := false
        looseTail := none, modes := [], wakeHold := false, fallowCkpt := none, rstWaits := false, resetWaits := false, tripGated := false
        mgtHeld := none, lost := [], idle := 0, idleNs := 0, busyTick := false }
      hz := { s.hz with lossHold := false, returning := false, steady := false, syncSince := false, armed := false, due := false }
      prog := { s.prog with sow := none, past := [], corrArmed := Vector.replicate 4 none }
      beds := s.beds.map Bed.warmReset
      grn := none
      fast := { Fast.empty with starts := s.fast.starts }
      eng := s.eng.map Engine.warmReset
      aug := { s.aug with hold := none, unmirrored := false, numberingFailed := false, rsaFailed := false, jobs := [], mirrorOut := [] }
      flt := { s.flt with
        tests := s.flt.tests.map (fun (t : UnitTest) => { t with waits := true })
        touching := s.flt.touching.filter (fun (t : Touching) => s.flt.tests.any (fun (x : UnitTest) => x.unit == t.unit))
        divCount := Vector.replicate 2 0, divStart := Vector.replicate 2 none, seen := []
        alarmRelease := Vector.replicate 2 none
        bridgeDue := [], exitFailed := Vector.replicate 4 (false, false), jobs := [] }
      stm := { s.stm with armed := none }
      dec := { s.dec with queue := Vector.replicate 8 [], moveDue := [], failedLanes := [] }
      lanes := s.lanes.map Lane.warmReset
      ring := Ring.off
      lck := Lck.off
      hst := { Hst.off with recNext := s.aug.ack, forward := s.hst.forward, held := held }
      tim := { s.tim with lockRun := Vector.replicate 2 0, pend := none, switchTo := none, afterSwitch := none, firstStep := false
                          syncDelay := Vector.replicate 2 0, ppsSeen := false }
      pwr := { s.pwr with calmMs := 0, throttleMs := 0, alarmed := false }
      sec := { s.sec with cmd := none }
      svc := { Svc.idle with readBack := s.svc.readBack } }
    s.showTesting.driveHold.startLanes.refusePassed

/-- A burn order executes (R386). -/
def State.burning (s : State) : Bool := match s.sec.cmd with | some (.burn _ _ _) => true | _ => false

/-- A warm reset of the module performed by the module: at once where no frame is in flight, in Growing and Halted once the frames have
drained (R359, Table 20.8). -/
def State.requestReset (s : State) : State :=
  match s.mod.entry with
  | some e => { s with mod := { s.mod with entry := some { e with reset := true } } }
  | none =>
    match s.mod.st with
    | .unplanted | .sown => if s.burning then { s with mod := { s.mod with resetWaits := true } } else s.cancelRotation.beginWarm
    | .growing => (({ s with mod := { s.mod with draining := true } } : State).cancelRotation).driveHold
    | .halted => { s with mod := { s.mod with resetWaits := true } }
    | _ => s

/-- RST_WARM_N returns high: the Waking (warm) begins (R555). -/
def State.pinReleased (s : State) : State :=
  if s.mod.rstHeld then
    ({ s with mod := { s.mod with st := s.mod.left, warm := false, rstHeld := false } } : State).beginWarm
  else s

/-- The reset contact takes effect: no frame is accepted and no verdict leaves any more; the Waking waits while the line is low (R555). -/
def State.pinReset (s : State) : State :=
  let lost := s.lostEntries
  let s := { s with
    mod := { s.mod with st := .waking, warm := true, rstHeld := true, left := s.mod.st, lost := lost, rstWaits := false, draining := false
                        entry := none }
    fast := { s.fast with frames := [], arrived := [] }
    dec := { s.dec with queue := Vector.replicate 8 [] }
    eng := s.eng.map (fun (e : Engine) => { e with running := false, queries := [] })
    aug := { s.aug with runs := [], running := false } }
  let s := s.driveHold
  if s.mod.rstLow then s else s.pinReleased

/-- A drained reset starts its Waking: no verdict and no record entry of an accepted frame is due (R21, R359). -/
def State.drained (s : State) : Bool := !s.verdictsDue && !s.entriesDue && !s.burning

/-! The end of a Waking -/

/-- The state that a Waking with running firmware ends in (R30, R380): Sown with a program, else Unplanted. -/
def State.endWaking (s : State) (new : ModState) (code : Nat) : State :=
  let s := s.setFld CFG_BOOT_STAT_CODE code
  let s := { s with mod := { s.mod with idle := 0, idleNs := 0 } }
  s.enterState new 0 0 0

end Sys2Proof.Machine
end

