-- ==== Sys2Proof/Machine/HostOps.lean ====
section
/-!
DEFINITION. Requests of the host link beside register access: responses (R463), flash (R464), sowing (R465, R498), captures and cold
history (R470), which requests a Waking holds (R294, R386).
-/
namespace Sys2Proof.Machine

/-- Send a RESPONSE (R463, Tables 16.2 and 16.4): HST_REQ_CNT, HST_REQ_ERR_CNT, LAST_TAG. -/
def State.respond (s : State) (tag status code : Nat) (payload : List Byte) : State :=
  let s := s.bump HST_REQ_CNT
  let s := if status = 0 then s else s.bump HST_REQ_ERR_CNT
  { s with hst := { s.hst with
      responses := s.hst.responses ++ [(⟨tag, status, code, payload⟩ : Response)], lastTag := tag } }

/-- The lowest status that applies, 0 when none does (R463). -/
def lowestStatus (cs : List (Nat × Bool)) : Nat := ((cs.find? (fun c => c.2)).map Prod.fst).getD 0

/-- The REC channel starts again at the first unacknowledged record of each stream (R468). -/
def State.restartRecords (s : State) : State :=
  { s with hst := { s.hst with recNext := s.aug.ack, forwardSent := [], sending := mapErase s.hst.sending 4 } }

/-- The link goes down: cells, credits, partial messages and responses are discarded, SEQ starts at 0 again (R472, Table 16.7). Objects of
the BULK channel are sent again from their start (R469). -/
def State.hostLinkLost (s : State) : State :=
  let h := s.hst
  let s := { s with hst := { Hst.off with
    requests := h.requests, bulk := h.bulk.map (fun (b : Bulk) => { b with sent := 0 }), forward := h.forward, lastTag := h.lastTag
    held := h.held } }
  let s := (s.setFlag HST_STAT_LINK_UP false).setFlag HST_STAT_LINK_DOWN true
  ((s.setFld HST_LANES_MASK 0).setFld HST_LANES_RATE 0).bump HST_LINKDOWN_CNT |>.restartRecords

/-- A live sow or a flash operation is served in this state: not by the boot ROM, but for flash (R380, R464). -/
def State.hostSows (s : State) : Bool := (s.mod.st == .unplanted || s.mod.st == .sown) && !s.mod.bootRom

/-- Host access to a die's DRAM: transactions of class 6 for the blocks that `n` bytes reach into (R210, Table 6.4). -/
def State.hostDram (s : State) (die addr n : Nat) : State :=
  { s with svc := { s.svc with jobs := s.svc.jobs ++ blockJobs die 6 (blocksOf addr n) s.tim.c } }

/-- Where a sow's buffer stands on the east die: checkpoint staging, or the start of mover scratch for a staged image (R465, R498). -/
def sowBase (staged : Bool) : Nat := if staged then scratchBase else stagingBase

/-- SOW_BEGIN (R465, R498, R294, Table 16.4). -/
def State.sowOpens (s : State) (r : HostReq) : State :=
  let len := r.arg.toNat % 2 ^ 32
  let staged := r.arg.getLsbD 32
  let st := lowestStatus
    [(1, decide ((if staged then 256 * 2 ^ 20 else 512 * 2 ^ 20) < len)),
     (3, if staged then !(s.mod.st.serving && s.mod.st != .halted) else !s.hostSows),
     (4, !staged && !s.hostSowEn),
     (7, s.prog.sow.isSome),
     (8, !r.payload.isEmpty)]
  if st ≠ 0 then s.respond r.tag st 0 []
  else
    let s := { s with prog := { s.prog with
      sow := some ⟨staged, len, []⟩, staged := if staged then none else s.prog.staged } }
    let s := if staged then s else s.setFlag HZN_STAT_LAUNCH_PEND false
    ((s.hostDram 0 (sowBase staged) len).setFlag HST_STAT_SOW_OPEN true).respond r.tag 0 0 []

/-- SOW_DATA (R465): at any offset, in any order; beyond the image length it returns 0x08. -/
def State.sowTakes (s : State) (r : HostReq) : State :=
  let off := r.arg.toNat % 2 ^ 32
  match s.prog.sow with
  | none => s.respond r.tag 3 0 []
  | some w =>
    let st := lowestStatus
      [(3, if w.staged then !(s.mod.st.serving && s.mod.st != .halted) else !s.hostSows),
       (8, decide (w.length < off + r.payload.length))]
    if st ≠ 0 then s.respond r.tag st 0 []
    else ({ s with prog := { s.prog with
        sow := some { w with bytes := putBytes zeroByte w.bytes off r.payload } } }).hostDram 0 (sowBase w.staged + off) r.payload.length
      |>.respond r.tag 0 0 []

/-- The bytes of a sow buffer: what SOW_DATA has written over zeros (R465). -/
def Sow.image (w : Sow) : List Byte := bytesAt zeroByte w.bytes 0 w.length

/-- A live sow ends: the loader runs; on acceptance the module is Sown (R30, R272, R465). -/
def State.liveSow (s : State) (tag : Nat) (w : Sow) : State :=
  let r := s.runLoader w.image 2
  let code := if r.1 then 0 else r.2.fld CFG_LOAD_STAT_CODE
  let s := if r.1 ∧ r.2.mod.st = .unplanted then r.2.enterState .sown 0 0 0 else r.2
  s.respond tag 0 code []

/-- SOW_END (R465, R498). -/
def State.sowCloses (s : State) (r : HostReq) : State :=
  match s.prog.sow with
  | none => s.respond r.tag 3 0 []
  | some w =>
    let st := lowestStatus
      [(3, if w.staged then !(s.mod.st.serving && s.mod.st != .halted) else !s.hostSows), (8, !r.payload.isEmpty)]
    if st ≠ 0 then s.respond r.tag st 0 []
    else
      let s := ({ s with prog := { s.prog with sow := none } } : State).setFlag HST_STAT_SOW_OPEN false
      if w.staged then
        let img := w.image
        let digest := sha512 (img.take (readHeader img).sigOff)
        ({ s with prog := { s.prog with staged := some (img, digest) } }).respond r.tag 0 0 []
      else s.liveSow r.tag w

/-! Flash -/

/-- Bytes of a flash device. -/
def FlashDev.size (d : FlashDev) : Nat := 2 ^ d.density

/-- The device a flash request names (R464, Table 16.3). -/
def State.flashDev (s : State) (n : Nat) : FlashDev := s.flash.dev.toList.getD n ⟨false, 0, 0, false, false, []⟩

/-- Replace the contents of a flash device. -/
def State.setFlash (s : State) (n : Nat) (bytes : Map Byte) : State :=
  let k : Fin 2 := Fin.ofNat 2 n
  let d : FlashDev := s.flash.dev[k]
  { s with flash := { s.flash with dev := s.flash.dev.set k { d with bytes := bytes } } }

/-- The status of a flash operation over `len` bytes from `off` on (Table 16.4). -/
def State.flashStatus (s : State) (dev off len : Nat) (write range badLen : Bool) : Nat :=
  let d := s.flashDev dev
  lowestStatus
    [(1, range || decide (1 < dev)),
     (3, !s.mod.st.serving),
     (4, write && !s.flashWriteEn),
     (5, !d.present || decide (d.size < off + len)),
     (7, write && s.prog.sow.isSome),
     (8, badLen)]

/-- FLASH_ERASE (R464): the sectors read 0xFF; after a failure what they read is open. -/
def State.flashErases (s : State) (r : HostReq) : State :=
  let off := r.arg.toNat % 2 ^ 32
  let dev := bitsOf r.arg.toNat 32 8
  let len := 4096 * bitsOf r.arg.toNat 40 24
  let st := s.flashStatus dev off len true (off % 4096 != 0) (!r.payload.isEmpty)
  if st ≠ 0 then s.respond r.tag st 0 []
  else if r.good then
    (s.setFlash dev ((s.flashDev dev).bytes.filter (fun x => !decide (off ≤ x.1 ∧ x.1 < off + len)))).respond r.tag 0 0 []
  else
    let d := s.drawBytes len
    (d.2.setFlash dev (putBytes erasedByte (s.flashDev dev).bytes off d.1)).respond r.tag 6 0 []

/-- FLASH_PROGRAM (R464): a programmed bit of flash reads 0 until its sector is erased; the page is read back. -/
def State.flashPrograms (s : State) (r : HostReq) : State :=
  let off := r.arg.toNat % 2 ^ 32
  let dev := bitsOf r.arg.toNat 32 8
  let len := r.payload.length
  let st := s.flashStatus dev off len true false (decide (len < 1 ∨ 256 < off % 256 + len))
  let old := bytesAt erasedByte (s.flashDev dev).bytes off len
  if st ≠ 0 then s.respond r.tag st 0 []
  else if r.good then
    let new := List.zipWith (fun (a b : Byte) => a &&& b) old r.payload
    (s.setFlash dev (putBytes erasedByte (s.flashDev dev).bytes off new)).respond r.tag (if new = r.payload then 0 else 6) 0 []
  else
    let d := s.drawBytes len
    (d.2.setFlash dev (putBytes erasedByte (s.flashDev dev).bytes off (List.zipWith (fun (a b : Byte) => a &&& b) old d.1))).respond r.tag 6 0 []

/-- FLASH_READ (R464). -/
def State.flashReads (s : State) (r : HostReq) : State :=
  let off := r.arg.toNat % 2 ^ 32
  let dev := bitsOf r.arg.toNat 32 8
  let len := bitsOf r.arg.toNat 40 13
  let st := s.flashStatus dev off len false (decide (len < 1 ∨ 4096 < len)) (!r.payload.isEmpty)
  if st ≠ 0 then s.respond r.tag st 0 [] else s.respond r.tag 0 0 (bytesAt erasedByte (s.flashDev dev).bytes off len)

/-! Captures and cold history -/

/-- CAPTURE_READ (R470, R356): the capture, whose place is free from then on. -/
def State.captureTaken (s : State) (r : HostReq) : State :=
  let i := r.arg.toNat % 4096
  let c := mapFind s.flt.captures i
  let st := lowestStatus [(1, c.isNone), (3, s.mod.bootRom || !s.mod.st.serving), (8, !r.payload.isEmpty)]
  match c with
  | some x =>
    if st ≠ 0 then s.respond r.tag st 0 []
    else ({ s with flt := { s.flt with captures := mapErase s.flt.captures i } }).hostDram 0 (captureBase + i * 2048) 2048
      |>.respond r.tag 0 0 x.bytes
  | none => s.respond r.tag st 0 []

/-- COLD_WRITE (R470): data into the read-back buffer of 512 MiB (Table 6.1). -/
def State.coldTaken (s : State) (r : HostReq) : State :=
  let off := r.arg.toNat % 2 ^ 29
  let st := lowestStatus
    [(3, s.mod.bootRom || !s.mod.st.serving), (8, decide (2 ^ 29 < off + r.payload.length))]
  if st ≠ 0 then s.respond r.tag st 0 []
  else ({ s with svc := { s.svc with readBack := putBytes zeroByte s.svc.readBack off r.payload } }).hostDram 1 (buffersBase + off) r.payload.length
    |>.respond r.tag 0 0 []

/-! Requests held during a Waking -/

/-- A request that a Waking holds: a sow, a flash write (R294, R386). -/
def HostReq.heldInWaking (r : HostReq) : Bool := r.op == 0x20 || r.op == 0x10 || r.op == 0x11

/-- Execute a request that is not a register access. -/
def State.runPlain (s : State) (r : HostReq) : State :=
  match r.op with
  | 0x10 => s.flashErases r
  | 0x11 => s.flashPrograms r
  | 0x12 => s.flashReads r
  | 0x20 => s.sowOpens r
  | 0x21 => s.sowTakes r
  | 0x22 => s.sowCloses r
  | 0x40 => s.captureTaken r
  | 0x41 => s.coldTaken r
  | _ => s.respond r.tag 1 0 []

end Sys2Proof.Machine
end

