-- ==== Sys2Proof/Machine/Startup.lean ====
section
/-!
DEFINITION. The start-up commands (chapters 12, 19, 21): the main rails (R554, R555, R559), the steps of a cold Waking (R379, R380), the
reset contact (R555), the drained warm reset (R359), brown-outs (R513).
-/
namespace Sys2Proof.Machine

/-! Rails -/

/-- MAIN_RAILS_VALID: the sensors read as given; the cold Waking starts, unless a critical shutdown holds the rails until every sensor
is below THM_WARN (R517, R554). -/
def State.railsUp (s : State) (temps : Vector Int 18) : State :=
  let s := { s with pwr := { s.pwr with temps := temps } }
  if s.mod.criticalOff && !s.allCool then s
  else
    let src := if s.mod.wakeOff then 1 else 3
    s.coldStart.setFld PWR_STAT_WAKE_SRC src

def execMainRailsValid (temps : Vector Int 18) (s : State) : Out :=
  .next (if s.mod.st == .off then s.railsUp temps else s)

def execMainRailsLost (s : State) : Out := .next (if s.mod.st.powered then s.dropPower else s)

/-- BROWN_OUT: in low-power mode the module is Off with BROWNOUT; outside it this is a loss of main rails (R513). -/
def State.brownOut (s : State) : State :=
  if s.mod.st = .fallow then (s.dropPower.setFlag PWR_STAT_BROWNOUT true).bump PWR_BROWNOUT_CNT else s.dropPower

def execBrownOut (s : State) : Out := .next (if s.mod.st.powered then s.brownOut else s)

/-- PWR_MAIN_EN_LOW (R555, R559). -/
def State.mainEnLow (s : State) : State :=
  let s := if s.mod.st.powered then s.dropPower else s
  { s with mod := { s.mod with mainEn := false } }

def execPwrMainEnLow (s : State) : Out := .next s.mainEnLow

/-- VSTBY_LOST: Off, and bedrock is lost with it (R559, R527, R351, R477). -/
def State.standbyLost (s : State) : State :=
  let s := s.dropPower
  { s with
    regs := []
    mod := { s.mod with vstby := false, thmTrip := false }
    flt := { s.flt with hist := [] }
    tim := State.reset.tim }

def execVstbyLost (s : State) : Out := .next s.standbyLost

/-! Steps of a cold Waking -/

/-- The Waking in progress is a cold one. -/
def State.coldWaking (s : State) : Bool := s.mod.st == .waking && !s.mod.warm

/-- DRAM_INIT_DONE: step 2 ends (R209, R225, R379). -/
def State.dramReady (s : State) : State :=
  let s := { s with
    mod := { s.mod with dramDone := true }
    eng := s.eng.map (fun (e : Engine) => { e with silt := [], siltCleared := true }) }
  let s := (s.setFlag LSS_MEM_STAT_INIT_DONE true).setFlag (LSS_MEM_STAT_INIT_DONE.on (lssOff 1)) true
  if s.mod.st = .waking then s.bootStep 2 else s

/-- The 64 bytes of the flash directory (Table 12.5). -/
def State.directory (s : State) : List Byte := bytesAt erasedByte (s.flashDev 0).bytes 0 64

/-- The fastest read mode of a device that its tables list and FLASH_LIMIT permits, and its clock in MHz (R376, R368). -/
def flashMode (d : FlashDev) (limit : Nat) : Nat × Nat :=
  if d.octal ∧ (limit = 0 ∨ limit = 3) then (3, 200)
  else if d.quad ∧ limit ≠ 1 then (2, 133)
  else (1, 50)

/-- Show a flash device in CFG_FLASH0 or CFG_FLASH1 (Table 12.11). -/
def State.showFlash (s : State) (n : Nat) : State :=
  let d := s.flashDev n
  let m := flashMode d s.flashLimit
  s.setReg (CFG_FLASH0 + 4 * n)
    (if d.present then BitVec.ofNat 32 (d.density * 2 ^ 24 + d.sfdpMinor * 2 ^ 16 + m.1 * 2 ^ 8 + m.2) else 0)

/-- The directory passes the check of boot code 0x03 (Table 12.7). -/
def directoryGood (d : List Byte) : Bool :=
  d.take 8 == asciiBytes "CHT7FDIR" && leAt d 8 2 == 1 && leAt d 60 4 == crc32 (d.take 60) && decide (leAt d 16 4 ≤ 8 * 2 ^ 20)

/-- FLASH_DIRECTORY_READ: step 3 ends (R376, R379, R380). -/
def State.directoryRead (s : State) : State :=
  let s := ((s.showFlash 0).showFlash 1).bootStep 3
  if !(s.flashDev 0).present then s.haltWaking 2
  else if !directoryGood s.directory then s.haltWaking 3
  else { s with mod := { s.mod with dirRead := true } }

def execFlashDirectoryRead (s : State) : Out :=
  .next (if s.coldWaking && !s.mod.dirRead then s.directoryRead else s)

/-- The firmware bytes that the directory names: header, body, signature block (R377). -/
def State.firmware (s : State) : List Byte :=
  bytesAt erasedByte (s.flashDev 0).bytes (leAt s.directory 12 4) (leAt s.directory 16 4)

/-- The boot code of a firmware, 0 when it passes (Table 12.7, in the order of the codes). -/
def State.firmwareCode (s : State) (fw : List Byte) : Nat :=
  let n := fw.length - 1536
  let body := slice fw 256 n
  let blk := slice fw (256 + n) 1280
  let digest := sha512 (fw.take (256 + n))
  if fw.length < 1536 ∨ fw.take 8 ≠ asciiBytes "CHT7FWIM" ∨ leAt fw 12 4 ≠ n then 4
  else if sha512 body ≠ slice fw 16 64 ∨ digest ≠ slice blk 528 64 then 5
  else if blk.take 8 ≠ asciiBytes "XGFWSIGN" ∨ !blockVerifies blk digest then 6
  else if !s.xogrimKey (blockKeyHash blk) then 7
  else if leAt fw 8 2 < s.fwMin then 8
  else 0

/-- FIRMWARE_LOAD_COMPLETE: step 4 ends; the firmware starts and lane bring-up with it (R379, R380, R382). -/
def State.firmwareLoaded (s : State) : State :=
  let fw := s.firmware
  let code := s.firmwareCode fw
  let s := s.bootStep 4
  if code ≠ 0 then s.haltWaking code
  else
    let s := { s with mod := { s.mod with fwOk := true, fwDigest := sha512 (fw.take (fw.length - 1280)) } }
    (s.setFld CFG_FW_VER_RUNNING (leAt fw 8 2)).startLanes.checkStep5

def execFirmwareLoadComplete (s : State) : Out :=
  .next (if s.coldWaking && s.mod.dirRead && !s.mod.fwOk then s.firmwareLoaded else s)

/-- The image that the directory names (R375), none when its length is 0 or its device is absent. -/
def State.flashImage (s : State) : Option (List Byte) :=
  let d := s.flashDev (leAt s.directory 10 1)
  let len := leAt s.directory 28 8
  if len = 0 ∨ !d.present then none else some (bytesAt erasedByte d.bytes (leAt s.directory 20 8) len)

/-- Step 6 and step 7 on the image of flash: Sown, or the boot code that leaves the module Unplanted (R379, R380). -/
def State.loadFlash (s : State) : Bool × Nat × State :=
  match s.flashImage with
  | none => (false, 0x10, s)
  | some img =>
    let r := s.runLoader img 0
    (r.1, if r.1 then 0 else 0x11, r.2)

/-- IMAGE_LOAD_COMPLETE (R30, R379). -/
def State.imageLoaded (s : State) : State :=
  let r := (s.bootStep 6).loadFlash
  if r.1 then (r.2.2.bootStep 7).endWaking .sown 0 else r.2.2.endWaking .unplanted r.2.1

/-- Step 6 may start: steps 2, 4 and 5 have ended (Table 12.6). -/
def State.imageMayLoad (s : State) : Bool := s.coldWaking && s.mod.fwOk && s.mod.dramDone && s.decisionLanesUp

/-- A write of 1 to FLASH_RESTART: in Unplanted, with no sow open, the directory and the image are read again and the loader runs
(R378, R386). -/
def State.restartFlash (s : State) : State :=
  if s.mod.st = .unplanted ∧ s.prog.sow.isNone then
    if directoryGood s.directory ∧ (s.flashDev 0).present then
      let r := s.loadFlash
      if r.1 then ((r.2.2.setFld CFG_BOOT_STAT_CODE 0).bootStep 7).enterState .sown 0 0 0 else r.2.2.setFld CFG_BOOT_STAT_CODE r.2.1
    else s.setFld CFG_BOOT_STAT_CODE (if (s.flashDev 0).present then 3 else 2)
  else s

def execFlashRestart (path : Path) (s : State) : Out := .next (s.via path CFG_CTL (fun s => s.restartFlash))

/-! Warm reset -/

/-- RST_WARM_N_ASSERT: ignored in Off and in Waking; in Fallow a wake event and the reset follows; during a burn it waits; during entry to
Fallow it takes effect at the next abort point (R555, R559, R508). -/
def State.resetLow (s : State) : State :=
  let s := { s with mod := { s.mod with rstLow := true } }
  match s.mod.st with
  | .off | .waking => s
  | .fallow => { s with mod := { s.mod with
      rstWaits := true, wakeSrc := some (s.mod.wakeSrc.getD (.resetPin, s.tim.c)) } }
  | _ =>
    match s.mod.entry with
    | some e => { s with mod := { s.mod with rstWaits := true, entry := some { e with reset := true } } }
    | none => if s.burning then { s with mod := { s.mod with rstWaits := true } } else s.pinReset

def execRstWarmNAssert (s : State) : Out := .next s.resetLow

/-- RST_WARM_N_RELEASE (R555). -/
def State.resetHigh (s : State) : State := ({ s with mod := { s.mod with rstLow := false } } : State).pinReleased

def execRstWarmNRelease (s : State) : Out := .next s.resetHigh

/-- A write of 1 to WARM_RESET: ignored in Waking; a second one during a drain is the same reset (R359, R544). -/
def execTopWarmReset (path : Path) (s : State) : Out := .next (s.via path TOP_CTL (fun s => s.requestReset))

/-- DRAIN_COMPLETE (R359, R386). -/
def State.drainEnds (s : State) : State := s.closeRuns.beginWarm

def execDrainComplete (s : State) : Out :=
  .next (if (s.mod.draining || s.mod.resetWaits) && s.mod.st.serving && s.drained then s.drainEnds else s)

/-- The variant that a placed bed takes the place of: that of the same bed, else of the copy that stood at its place in the pair. -/
def oldVariant (old : Vector Bed 4) (placed : List Placed) (pl : Placed) : Option Variant :=
  let of := fun (b : Bed) => (b.variant).filter (fun v => v.layoutBed == pl.layoutBed)
  match of old[pl.phys % 4]! with
  | some v => some v
  | none => (old.toList.filterMap of)[((placed.filter (fun x => x.layoutBed == pl.layoutBed)).findIdx (fun x => x == pl))]?

/-- The new U of each placed bed where it is not the old one: EVENT 0x0307 (R294). -/
def State.recordVariants (old : Vector Bed 4) (placed : List Placed) (s : State) : State :=
  placed.foldl (fun s pl =>
    match oldVariant old placed pl with
    | some v => if v.u = pl.variant.u then s else s.writeEvent 0x0307 [pl.layoutBed, pl.phys, v.u, pl.variant.u]
    | none => s) s

/-- A spare column that was loading is loaded with its bed: the unit has moved (R112, R352). -/
def State.settleSpares (s : State) (b : Fin 4) : State :=
  let bed : Bed := s.beds[b]
  let s := s.setBed b { bed with spares := bed.spares ++ bed.spareLoad.map (fun l => (l.spare, l.failed)), spareLoad := [] }
  bed.spareLoad.foldl (fun s l => s.unitMoved l.unit (l.spare - 32) s.count) s

/-- Leave no program in force (R382). -/
def State.noProgram (s : State) : State :=
  { s with
    prog := { s.prog with image := none, phase := 0, place := [], corrections := [] }
    beds := s.beds.map (fun (b : Bed) => { b with variant := none })
    mod := { s.mod with copyDigest := [] } }

/-- The warm Waking ends: the beds are loaded from the image copy after the key and the placement have been checked again; restart horizons
are announced; abandoned tests run again (R34, R247, R271, R289, R294, R362, R382). -/
def State.warmEnds (s : State) : State :=
  match s.prog.image with
  | none => s.coldStart
  | some img =>
    let s := { s with mod := { s.mod with fwOk := true } }
    let s := { s with flt := { s.flt with tests := s.flt.tests.map (fun (t : UnitTest) => { t with waits := false }) } }
    let s := (((s.settleSpares 0).settleSpares 1).settleSpares 2).settleSpares 3
    let s := s.showTesting
    let l := s.readLoad img.bytes
    let key := s.keySlot (blockKeyHash (sigBlock l.img l.hdr))
    match l.prog.phase? l.prog.firstPhase with
    | none => s.noProgram.endWaking .unplanted 0x11
    | some p =>
      let pl := s.sowPlacing l
      match firstRefusal ((0x08, failIf key.isNone noSec) :: s.placeChecks l p pl) with
      | some r => (s.refuseLoad 1 r.1 r.2).noProgram.endWaking .unplanted 0x11
      | none =>
        let old := s.beds
        let s := ((s.placeProgram l p pl.placed).showRole l.prog).freezeDecision
        let s := ((s.periodWritten 0).showLoad 1 0 noSec).recordVariants old pl.placed
        let s := (s.announceRestart 0).announceRestart 1
        s.endWaking .sown 0

/-- WARM_WAKING_COMPLETE: a digest that does not match turns the Waking cold; while the copy of R498 runs the staged copy matches (R34,
R498). -/
def State.warmWakes (s : State) (fwBad imgBad : Bool) : State :=
  if fwBad || (imgBad && !s.prog.copying) then s.coldStart else s.warmEnds

/-- A warm Waking may end: the reset contact is high; with good digests every enabled decision lane is Up again (R403). -/
def State.warmMayEnd (s : State) (fwBad imgBad : Bool) : Bool :=
  s.mod.st == .waking && s.mod.warm && !s.mod.rstHeld && (fwBad || imgBad || s.decisionLanesUp)

end Sys2Proof.Machine
end

