-- ==== Sys2Proof/Machine/Power.lean ====
section
/-!
DEFINITION. The power, clock and thermal commands (chapter 19): thermal limits (R524, R525), the power budget (R522, R523), clocks (R521),
the idle timer and entry to Fallow (R32, R507 to R511), wake events (R514 to R517).
-/
namespace Sys2Proof.Machine

/-! Thermal limits -/

/-- A sensor reads a temperature in 1/16 °C; WARN follows (R524). -/
def State.sense (s : State) (sensor : Fin 18) (temp : Int) : State :=
  ({ s with pwr := { s.pwr with temps := s.pwr.temps.set sensor temp } } : State).showWarn

/-- The trip level of a sensor, 1/16 °C: 105 °C for a junction, 95 °C for a stack (Table 19.7). -/
def tripLevel (sensor : Fin 18) : Int := if sensor.val < 16 then 105 * 16 else 95 * 16

/-- The die of a sensor (R524). -/
def sensorDie (sensor : Fin 18) : Nat := if sensor.val < 16 then sensor.val / 8 else sensor.val - 16

/-- THERMAL_TRIP: in Unplanted, Sown and Fallow the rails go at once; else error class 0x13 and Halted (Table 1.6); THM_TRIP_N is asserted
(R524 to R526). A module that a trip has halted already stays so (log entry 34). -/
def State.trips (s : State) (sensor : Fin 18) : State :=
  let s := { s with mod := { s.mod with thmTrip := true } }
  if (s.mod.st = .unplanted ∨ s.mod.st = .sown ∨ s.mod.st = .fallow) ∧ s.mod.entry.isNone then s.dropPower
  else if s.flag THM_STAT_TRIPPED && s.mod.st == .halted then s
  else
    let s := (s.setFlag THM_STAT_TRIPPED true).setFld THM_STAT_TRIP_SRC (if sensor.val < 16 then 1 else 2)
    s.detect (thermalUnit (sensorDie sensor)) 0x13 s.count 0

def execThermalTrip (sensor : Fin 18) (temp : Int) (s : State) : Out :=
  .next (if s.mod.st.powered then
      let s := s.sense sensor temp
      if tripLevel sensor ≤ temp then s.trips sensor else s
    else s)

/-- TRIP_GATING: once the verdicts due after a trip are out, the beds and the loess engines are gated (R525). -/
def execTripGating (s : State) : Out :=
  .next (if s.flag THM_STAT_TRIPPED && s.mod.st == .halted && !s.verdictsDue then
      { s with
        mod := { s.mod with tripGated := true }
        eng := s.eng.map (fun (e : Engine) => { e with running := false }) }
    else s)

/-- CRITICAL_SHUTDOWN: the rails are removed and THERMAL_OFF is set (R524, R526). -/
def State.criticalOff (s : State) : State :=
  let s := s.dropPower.setFlag PWR_STAT_THERMAL_OFF true
  { s with mod := { s.mod with criticalOff := true } }

def execCriticalShutdown (sensor : Fin 18) (temp : Int) (s : State) : Out :=
  .next (if s.mod.st.powered then
      let s := s.sense sensor temp
      if sensor.val < 16 ∧ 115 * 16 ≤ temp then s.criticalOff else s
    else s)

/-- THERMAL_WARNING: WARN_SEEN and THM_WARN_CNT; nothing else (R524). -/
def execThermalWarning (sensor : Fin 18) (temp : Int) (s : State) : Out :=
  .next (if s.mod.st.powered then
      let s := s.sense sensor temp
      if sensor.val < 16 ∧ s.warnLevel ≤ temp then (s.setFlag THM_STAT_WARN_SEEN true).bump THM_WARN_CNT else s
    else s)

/-- DRAM_STACK_HOT: at 85 °C and above the refresh interval is halved and HOT is set (R207). -/
def State.stackHot (s : State) (die : Fin 2) (temp : Int) : State :=
  let s := s.sense (Fin.ofNat 18 (16 + die.val)) temp
  let hot := decide (85 * 16 ≤ temp)
  ({ s with pwr := { s.pwr with hotRefresh := s.pwr.hotRefresh.set die hot } } : State).setFlag (LSS_MEM_STAT_HOT.on (lssOff die)) hot

def execDramStackHot (die : Fin 2) (temp : Int) (s : State) : Out :=
  .next (if s.mod.st.powered then s.stackHot die temp else s)

/-! Power budget -/

/-- PWR_BUDGET in 0.1 W. -/
def State.budget (s : State) : Nat := (s.reg PWR_BUDGET).toNat % 65536

/-- POWER_MEASUREMENT: above the budget the module throttles; 10 ms at or below 95% of it end the throttling (R522). -/
def State.measured (s : State) (meas vin iin vstby : Nat) : State :=
  let s := ((s.setReg PWR_MEAS (BitVec.ofNat 32 meas)).setReg PWR_VIN (BitVec.ofNat 32 vin)).setReg PWR_IIN (BitVec.ofNat 32 iin)
  let s := (s.setReg PWR_VSTBY (BitVec.ofNat 32 vstby)).raiseFld ⟨PWR_PEAK, 0, 16⟩ meas
  let above := decide (s.budget < meas)
  let s := s.setFlag PWR_STAT_OVER above
  let was := s.flag PWR_STAT_THROTTLE
  if above then
    ({ s with pwr := { s.pwr with calmMs := 0, throttleMs := if was then s.pwr.throttleMs + 1 else 0, alarmed := was && s.pwr.alarmed } } : State).setFlag
      PWR_STAT_THROTTLE true
  else if was then
    let calm := if meas * 100 ≤ s.budget * 95 then s.pwr.calmMs + 1 else 0
    let s := { s with pwr := { s.pwr with calmMs := calm, throttleMs := s.pwr.throttleMs + 1 } }
    s.setFlag PWR_STAT_THROTTLE (decide (calm < 10))
  else s

def execPowerMeasurement (meas : BitVec 16) (vin : BitVec 16) (iin : BitVec 16) (vstby : BitVec 16) (s : State) : Out :=
  .next (if s.mod.st.powered then s.measured meas.toNat vin.toNat iin.toNat vstby.toNat else s)

/-- POWER_ALARM: 100 ms of throttling and still over budget (R523). -/
def execPowerAlarm (s : State) : Out :=
  .next (if s.flag PWR_STAT_THROTTLE && s.flag PWR_STAT_OVER && decide (100 ≤ s.pwr.throttleMs) && !s.pwr.alarmed then
      (({ s with pwr := { s.pwr with alarmed := true } } : State).setFlag PWR_STAT_ALARM true).bump PWR_OVER_CNT
    else s)

/-! Clocks -/

/-- The domain's clock comes from a PLL (Table 19.5). -/
def fromPll (d : Nat) : Bool :=
  d == 1 || decide (3 ≤ d ∧ d ≤ 24) || decide (37 ≤ d ∧ d ≤ 44) || d == 47 || d == 48 || d == 53 || d == 54 || d == 59

/-- PLL_UNLOCK: CLK_STAT and CLK_UNLOCK_CNT; domain 0 names the reference oscillator (R521, Table 19.10). -/
def State.unlocked (s : State) (d : Nat) : State :=
  if d = 0 then (s.setFlag CLK_STAT_REF_LOSS true).setFlag CLK_STAT_REF_OK false
  else if fromPll d then ((s.setFlag CLK_STAT_UNLOCK true).setFlag CLK_STAT_PLLS_LOCKED false).bump CLK_UNLOCK_CNT
  else s

def execPllUnlock (domain : Fin 60) (s : State) : Out := .next (if s.mod.st.powered then s.unlocked domain else s)

/-! Entry to Fallow -/

/-- The states that enter Fallow (Table 1.6). -/
def State.mayFallow (s : State) : Bool :=
  (s.mod.st == .unplanted || s.mod.st == .sown || s.mod.st == .growing) && s.mod.entry.isNone && !s.mod.draining

/-- The idle timer has expired: by counting, or by FALLOW_NOW (R32, R507). -/
def State.idleExpired (s : State) : Bool :=
  s.mod.expiryWaits || (s.reg PWR_IDLE_TICKS != 0 && decide ((s.reg PWR_IDLE_TICKS).toNat ≤ s.mod.idle) && !s.mod.busyTick)

/-- IDLE_TIMER_EXPIRY: entry starts, or the expiry waits until nothing of R507 is open. Step 1 asserts HOLD_N (R507, R508). -/
def State.expire (s : State) : State :=
  if s.fallowBlocked then { s with mod := { s.mod with expiryWaits := true } }
  else ({ s with mod := { s.mod with entry := some ⟨false, none, false⟩, expiryWaits := false, fallowNow := false } } : State).driveHold

def execIdleTimerExpiry (s : State) : Out :=
  .next (if s.mayFallow && !s.idleHeld && s.idleExpired then s.expire else s)

/-- A write of 1 to FALLOW_NOW (R507). -/
def State.fallowWrite (s : State) : State :=
  if s.mayFallow && !s.idleHeld then { s with mod := { s.mod with fallowNow := true } } else s

def execFallowNow (path : Path) (s : State) : Out := .next (s.via path PWR_CTL (fun s => s.fallowWrite))

/-- Lanes that entry step 5 powers down: stream, ring and host lanes (Table 19.1). -/
def powerLane (l : Nat) : Bool := decide (l < 48 ∨ 56 ≤ l)

/-- Step 5: stream, ring and host lanes go down; with the host lanes the link does (Table 19.1, R409). -/
def State.lanesDown (s : State) : State :=
  let s := if s.hst.up then s.hostLinkLost else s
  (List.finRange 80).foldl (fun s (l : Fin 80) => if powerLane l then s.stopLane l else s) s

/-- The lanes of step 5 come up again (R399, R401). -/
def State.lanesAgain (s : State) : State :=
  (List.finRange 80).foldl (fun s (l : Fin 80) =>
    if powerLane l && s.flag (LNK_CTL_ENABLE.on (lnkOff l)) && !s.laneRetired l then s.startLane l else s) s

/-- What an abandoned entry meets once its steps are undone: a halt cause, then a warm reset (R508). -/
def State.afterEntry (s : State) (e : FallowEntry) : State :=
  let s := match e.halt with
    | some c => s.haltNow c
    | none => s
  if e.reset then (if s.mod.rstWaits then s.pinReset else s.requestReset) else s

/-- FALLOW_ABORT: abort point `k` abandons the entry (R508, R510). -/
def State.abandon (s : State) (e : FallowEntry) (k : Nat) : State :=
  let old := s.mod.st
  let s := if 5 ≤ k then s.lanesDown else s
  let s := if k = 6 then ((s.writeStateChange old .fallow 0 0).closeSeal 4).writeStateChange .fallow old 0 0 else s
  let s := if 5 ≤ k then s.lanesAgain else s
  let s := (s.bump PWR_ABORT_CNT).setFld PWR_STAT_LAST_ABORT k
  let s := { s with mod := { s.mod with entry := none, idle := 0, idleNs := 0, wakeHold := true } }
  (s.driveHold).afterEntry e

def execFallowAbort (point : Fin 6) (s : State) : Out :=
  .next (match s.mod.entry with
    | some e => if e.wake || e.halt.isSome || e.reset then s.abandon e (point.val + 1) else s
    | none => s)

/-- FALLOW_ENTRY_COMPLETE: A6 is passed with nothing pending (R508, R509, R511). -/
def State.fallowEntered (s : State) : State :=
  let old := s.mod.st
  let s := s.lanesDown
  let s := { s with mod := { s.mod with entry := none, left := old, idle := 0, idleNs := 0, wakeSrc := none, fallowCkpt := none } }
  let s := s.enterState .fallow 0 0 4
  let s := if s.aug.rsaFailed then s else { s with aug := { s.aug with tail := signFirst s.aug.tail } }
  let s := s.setFlag AUG_STAT_SIGN_BUSY (s.aug.tail.any TailRec.unsigned)
  let s := { s with
    hz := { s.hz with syncOut := false }
    aug := { s.aug with running := false }
    eng := s.eng.map (fun (e : Engine) => { e with running := false }) }
  s.bump PWR_FALLOW_CNT

def execFallowEntryComplete (s : State) : Out :=
  .next (match s.mod.entry with
    | some e => if e.wake || e.halt.isSome || e.reset then s else s.fallowEntered
    | none => s)

/-! Wake events -/

/-- MGT_ADDRESS_MATCH: in Fallow the transfer is held until the restore completes; in Off the address is not acknowledged (R514, R515,
R517). -/
def execMgtAddressMatch (bytes : List Byte) (reads : Nat) (s : State) : Out :=
  .next (match s.mod.st with
    | .fallow =>
      let s := s.wakes .management
      if s.mod.mgtHeld.isNone then { s with mod := { s.mod with mgtHeld := some ⟨bytes, reads⟩ } } else s
    | .off => if s.mod.vstby then { s with mod := { s.mod with wakeOff := true } } else s
    | _ => s.wakeEntry)

/-- HOST_WAKE: activity on a host lane is a wake event while WAKE_HOST_EN is 1 (R473, R474, R514). -/
def execHostWake (_lane : Fin 8) (s : State) : Out :=
  .next (if s.flag PWR_CTL_WAKE_HOST_EN then
      if s.mod.st = .fallow then s.hostWakes
      else if s.mod.entry.isSome then (s.bump HST_WAKE_CNT).wakeEntry
      else s
    else s)

end Sys2Proof.Machine
end

