-- ==== Sys2Proof/Machine/Trust.lean ====
section
/-!
DEFINITION. Trust (chapter 12): burn orders (R372 to R374), attestation (R385), private JTAG (R371).
-/
namespace Sys2Proof.Machine

/-- Bytes of the order buffer (R388). -/
def State.orderBytes (s : State) (off n : Nat) : List Byte := bytesAt zeroByte s.sec.order off n

/-- A generation of which something has been burned (Table 12.4, code 0x07). -/
def State.genProgrammed (s : State) (g : Fin 4) : Bool := !allZero (s.genBytes g) || s.sec.bad[g.val]!

/-- A key-hash slot is valid. -/
def State.slotValid (s : State) (k : Fin 4) : Bool := s.slotStatus k == 1

/-- The target of an order is already programmed, or its revoke or lock bit is set (Table 12.4, code 0x06). -/
def State.targetSet (s : State) (target : Nat) (i : Fin 4) : Bool :=
  match target with
  | 1 => s.genStatus i != 0
  | 2 => s.slotStatus i != 0
  | 3 => s.genRevoked i
  | 4 => s.slotRevoked i
  | 5 => s.firmLock
  | _ => s.debugLock

/-- The checks of Table 12.4 on the order in the buffer, in code order; 0 when it passes (R372, R373). -/
def State.orderCode (s : State) : Nat :=
  let target := leNat (s.orderBytes 12 1)
  let index := leNat (s.orderBytes 13 1)
  let i : Fin 4 := Fin.ofNat 4 index
  let blk := s.orderBytes 256 1280
  let digest := sha512 (s.orderBytes 0 256)
  let unsigned := allZero blk
  if s.orderBytes 0 8 ≠ asciiBytes "XGBURNOR" ∨ leNat (s.orderBytes 8 4) ≠ 1536 ∨ target < 1 ∨ 6 < target ∨ 3 < index
      ∨ (5 ≤ target ∧ index ≠ 0) then 1
  else if leNat (s.orderBytes 16 8) ≠ s.serial then 2
  else if !unsigned && (digest != slice blk 528 64 || !blockVerifies blk digest) then 3
  else if !unsigned && (s.keySlot (blockKeyHash blk)).isNone then 4
  else if unsigned && (target != 2 || !(List.finRange 4).all (fun k => s.slotStatus k == 0)) then 5
  else if s.targetSet target i then 6
  else if target = 1 ∧ (List.finRange 4).any (fun g => decide (index < g.val) && s.genProgrammed g) then 7
  else if target = 4 ∧ s.slotValid i ∧ !(List.finRange 4).any (fun k => k != i && s.slotValid k) then 8
  else if target = 5 ∧ s.flag TOP_CTL_LOOSE then 9
  else 0

/-- A command of the security engine ends: RESULT, DONE, BUSY (Table 12.13). -/
def State.secEnds (s : State) (result : Nat) : State :=
  let s := { s with sec := { s.sec with cmd := none } }
  ((s.setFld SEC_STAT_RESULT result).setFlag SEC_STAT_DONE true).setFlag SEC_STAT_BUSY false

/-- A command of the security engine starts. -/
def State.secStarts (s : State) (c : SecCmd) : State :=
  ({ s with sec := { s.sec with cmd := some c } } : State).setFlag SEC_STAT_BUSY true

/-- A write of 0x2 to SEC_CMD (R373): ignored while a command runs, and in a state in which orders do not execute. -/
def State.orderRuns (s : State) : State :=
  if s.sec.cmd.isSome || !s.mod.st.serving then s
  else
    let code := s.orderCode
    if code = 0 then s.secStarts (.burn (leNat (s.orderBytes 12 1)) (leNat (s.orderBytes 13 1)) (s.orderBytes 128 128))
    else s.secEnds code

def execBurnOrder (path : Path) (s : State) : Out := .next (s.via path SEC_CMD (fun s => s.orderRuns))

/-- The bytes that a burn programs at a place: the module computes the CRC of a slot (R373). -/
def burnBytes (index off n : Nat) (payload : List Byte) : List Byte :=
  if off = 0x0800 + 4 * index then leBytes 4 (crc32 (payload.take 64)) else slice payload 0 n

/-- A burn whose read-back is good: the bits of the target are programmed, a fuse bit in all three fuses (R365, R366, R373). -/
def State.burned (s : State) (target index : Nat) (payload : List Byte) : State :=
  match burnFuse target index with
  | some f => { s with sec := { s.sec with fuses := s.sec.fuses.set f 3 } }
  | none =>
    (burnPlaces target index).foldl (fun s p =>
      let old := bytesAt zeroByte s.sec.hardpan p.1 p.2
      let new := List.zipWith (fun (a b : Byte) => a ||| b) old (burnBytes index p.1 p.2 payload)
      { s with sec := { s.sec with hardpan := putBytes zeroByte s.sec.hardpan p.1 new } }) s

/-- BURN_COMPLETE (R373, R374, R386): the read-back is good, or the target is left bad with RESULT 0x0A; DEBUG_LOCK ends a private JTAG
session; a reset from the contact that waited takes effect. -/
def State.burnEnds (s : State) (target index : Nat) (payload : List Byte) (good : Bool) : State :=
  let s := if good then (s.burned target index payload).secEnds 0 else (s.burnBroken target index payload).secEnds 0x0A
  let s := if s.debugLock then { s with sec := { s.sec with jtag := false } } else s
  let s := if s.firmLock then s.setFlag TOP_CTL_LOOSE false else s
  if s.mod.rstWaits then s.pinReset else s

def execBurnComplete (good : Bool) (s : State) : Out :=
  .next (match s.sec.cmd with
    | some (.burn t i p) => s.burnEnds t i p good
    | _ => s)

/-! Attestation -/

/-- The 64 bytes of SEC_NONCE0 to SEC_NONCE15 (Table 12.12). -/
def State.nonce (s : State) : List Byte := (List.range 16).flatMap (fun n => leBytes 4 (s.reg (SEC_NONCE0 + 4 * n)).toNat)

/-- A write of 0x1 to SEC_CMD takes the nonce (R385): ignored while a command runs. -/
def State.attests (s : State) : State :=
  if s.sec.cmd.isSome || !s.mod.st.serving then s else s.secStarts (.attest s.nonce)

def execAttest (path : Path) (s : State) : Out := .next (s.via path SEC_CMD (fun s => s.attests))

/-- Bytes 0 to 511 of the statement (Table 12.8). -/
def State.statement (s : State) (nonce : List Byte) : List Byte :=
  let t := ptpFields s.recordNs
  let flags := s.firmLock.toNat + 2 * s.debugLock.toNat + 4 * s.sec.debugUsed.toNat + 8 * s.mod.loose.toNat
  let image := s.prog.image
  asciiBytes "XGATTEST" ++ leBytes 8 s.serial ++ nonce ++ padTo 64 s.mod.fwDigest
    ++ (match image with | some i => padTo 64 i.digest | none => zeroBytes 64)
    ++ leBytes 2 (match image with | some i => i.index | none => 0xFFFF)
    ++ leBytes 1 s.mod.st.code ++ leBytes 1 flags ++ leBytes 1 (s.sec.gen.getD 0xFF) ++ leBytes 1 s.slotStat
    ++ leBytes 2 (s.fld CFG_FW_VER_RUNNING) ++ leBytes 8 s.count.toNat ++ leBytes 8 s.aug.nextSeq.toNat
    ++ leBytes 8 t.1 ++ leBytes 4 t.2 ++ zeroBytes 4 ++ sha512 s.settings
    ++ sha512 ((List.finRange 4).flatMap s.slotBytes) ++ s.keyId ++ zeroBytes 128

/-- ATTEST_COMPLETE (R385): the statement and its signature stand in the statement buffer; SEC_ATT_CNT counts it. -/
def State.attestEnds (s : State) (nonce : List Byte) : State :=
  let text := s.statement nonce
  let sig := (List.range 512).map (Config.attSign text)
  let s := { s with sec := { s.sec with stmt := putBytes zeroByte [] 0 (text ++ sig) } }
  (s.bump SEC_ATT_CNT).secEnds 0

/-- Seals that wait for the RSA engine go first; an engine that has failed signs nothing; statements wait while the module throttles (R354,
R385, R522). -/
def State.rsaFree (s : State) : Bool := !s.aug.rsaFailed && !s.flag PWR_STAT_THROTTLE && !s.aug.tail.any TailRec.unsigned

def execAttestComplete (s : State) : Out :=
  .next (match s.sec.cmd with
    | some (.attest n) => if s.rsaFree then s.attestEnds n else s
    | _ => s)

/-- PRIVATE_JTAG works in any powered state while DEBUG_LOCK is clear (R371). -/
def execPrivateJtag (s : State) : Out := .next (if s.mod.st.powered && !s.debugLock then s.usePrivate else s)

end Sys2Proof.Machine
end

