-- ==== Sys2Proof/Machine/NetTime.lean ====
section
/-!
DEFINITION. Network time (chapter 17): IEEE 1588 messages (R480 to R482), rate changes and steps (R479), switches and jumps (R485 to R488,
R490), the 1 PPS input (R489).
-/
namespace Sys2Proof.Machine

/-- The program's cascade module count is at most 8, or the module is Unplanted: parallel mode (R485). -/
def State.parallel (s : State) : Bool :=
  s.mod.st == .unplanted || (match s.program? with | some p => decide (p.modules ≤ 8) | none => true)

/-- A domain is tracked: both in parallel mode, else the selected one (R485). -/
def State.tracked (s : State) (d : Fin 2) : Bool := s.parallel || s.selected == d

/-- A domain is locked (R482). -/
def State.domainLocked (s : State) (d : Fin 2) : Bool := s.flag (TIM_D_STAT_LOCKED.on (timOff d))

/-- TIM_STAT.LOCKED is that of the selected domain (Table 17.6). -/
def State.showTimLock (s : State) : State := s.setFlag TIM_STAT_LOCKED (s.domainLocked s.selected)

/-- The firmware runs the ordinary clocks and the 1 PPS input. -/
def State.timServed (s : State) : Bool :=
  (s.mod.st.serving || s.mod.st == .waking && s.mod.fwOk) && !s.mod.bootRom && !s.mod.rstHeld

/-- The servo of a domain works: its port is enabled, it is tracked and not in holdover, MANUAL is 0 (R482, R485). -/
def State.servoOn (s : State) (d : Fin 2) : Bool :=
  s.timServed && s.flag (TIM_D_CTL_EN.on (timOff d)) && s.tracked d && !s.flag TIM_CTL_MANUAL
    && !s.flag (TIM_D_STAT_HOLDOVER.on (timOff d))

/-! Rates and steps -/

/-- Change r_d at the present counter value: O_d is compensated, so the domain's time goes on without a jump (R479). -/
def State.setRate (s : State) (d : Fin 2) (r : Word) : State :=
  let old := s.rate d
  let new := signedOf 32 r.toNat
  let c : Int := s.tim.c.toNat
  let o : BitVec 96 := s.tim.off[d] + BitVec.ofInt 96 (c * old / 64) - BitVec.ofInt 96 (c * new / 64)
  ({ s with tim := { s.tim with off := s.tim.off.set d o } } : State).setReg (TIM_D_RATE + timOff d) r

/-- Apply a step of `ns` to a domain's offset: TIM_STEP_CNT (R479, R487). -/
def State.applyStep (s : State) (x : Step) : State :=
  let o : BitVec 96 := s.tim.off[x.domain] + BitVec.ofInt 96 (x.ns * 2 ^ 32)
  ({ s with tim := { s.tim with off := s.tim.off.set x.domain o } } : State).bump TIM_STEP_CNT

/-- A step whose magnitude exceeds TIM_JUMP_LIMIT (R487). -/
def State.isJump (s : State) (ns : Int) : Bool := decide ((s.reg TIM_JUMP_LIMIT).toNat < ns.natAbs)

/-- A jump is applied: EVENT 0x0705 (Table 17.1). -/
def State.jumpApplied (s : State) (x : Step) : State :=
  (s.applyStep x).writeEvent 0x0705 [x.domain, toBits 64 x.ns]

/-- A jump is refused and waits, in place of one that waits already (R487, R488). -/
def State.jumpRefused (s : State) (x : Step) : State :=
  let s := { s with tim := { s.tim with pend := some x } }
  let s := ((s.setFlag TIM_STAT_JUMP_REF true).setFlag TIM_STAT_JUMP_PEND true).bump TIM_JUMP_REF_CNT
  s.writeEvent 0x0704 [x.domain, toBits 64 x.ns]

/-- The pending step is gone. -/
def State.clearPend (s : State) : State :=
  ({ s with tim := { s.tim with pend := none } } : State).setFlag TIM_STAT_JUMP_PEND false

/-- A step is requested for a domain: applied, or handled as a jump (R487, Table 17.1, R490). -/
def State.step1588 (s : State) (x : Step) : State :=
  if s.tim.firstStep && !s.parallel && s.selected == x.domain then
    ({ s with tim := { s.tim with firstStep := false } } : State).applyStep x
  else if !s.isJump x.ns then s.applyStep x
  else if s.parallel then
    if s.selected ≠ x.domain then s.jumpApplied x
    else if s.flag TIM_CTL_AUTO_SWITCH && s.domainLocked (x.domain + 1) then
      { s with tim := { s.tim with switchTo := some (x.domain + 1), afterSwitch := some x } }
    else s.jumpRefused x
  else s.jumpRefused x

/-- A step that the host requests with MANUAL 1: while a refused step waits it is applied and the one that waits is discarded (R488,
R490). -/
def State.hostStep (s : State) (x : Step) : State :=
  match s.tim.pend with
  | some _ => if s.isJump x.ns then s.clearPend.jumpApplied x else s.clearPend.applyStep x
  | none => s.step1588 x

/-- The domain runs free while a refused step of it waits (R488). -/
def State.freeRuns (s : State) (d : Fin 2) : Bool := s.tim.pend.any (fun p => p.domain == d)

def execRateChange (domain : Fin 2) (rate : Word) (s : State) : Out :=
  .next (if s.servoOn domain && !s.freeRuns domain then s.setRate domain rate else s)

def execTimeStep (domain : Fin 2) (ns : Int) (s : State) : Out := .next (if s.servoOn domain then s.step1588 ⟨domain, ns⟩ else s)

/-- JUMP_ACCEPT applies the pending step once; with none pending it is ignored (R488, R490). -/
def State.acceptJump (s : State) : State :=
  match s.tim.pend with
  | some x => s.clearPend.jumpApplied x
  | none => s

def execJumpAccept (path : Path) (s : State) : Out := .next (s.via path TIM_CTL (fun s => s.acceptJump))

/-! Switches -/

/-- A write of TIM_CTL.SEL (R485, R486, R490): a switch is requested in parallel mode; outside Growing single mode moves its tracking at
once; in Growing it ignores the write. -/
def State.requestSwitch (s : State) (d : Fin 2) : State :=
  if s.parallel then
    let s := s.setFld TIM_CTL_SEL d
    { s with tim := { s.tim with switchTo := if s.selected = d then none else some d
                                 afterSwitch := if s.selected = d then none else s.tim.afterSwitch } }
  else if s.mod.st = .growing then s
  else
    let s := s.setFld TIM_CTL_SEL d
    if s.selected = d then s
    else ((({ s with tim := { s.tim with firstStep := true } } : State).setFlag TIM_STAT_SELECTED (d == 1)).untrack (d + 1)).showTimLock

def execSwitchRequest (path : Path) (sel : Fin 2) (s : State) : Out := .next (s.via path TIM_CTL (fun s => s.requestSwitch sel))

/-- The full times of a domain as they stand: seconds and nanoseconds. -/
def State.fullTime (s : State) (d : Fin 2) : List Nat :=
  let t := ptpFields (wholeNs (s.domainTime d))
  [t.1, t.2]

/-- A switch may take effect: its domain is locked, and its time stands at a whole second (R486). The nanosecond of C that a whole second
falls into reads 0 or, when the domain runs fast, 1. -/
def State.switchDue (s : State) (d : Fin 2) : Bool :=
  s.domainLocked d && decide ((wholeNs (s.domainTime d)).toNat % 1000000000 ≤ 1)

/-- The switch takes effect (R486): records use the new domain; EVENT 0x0703; then a step that waited for it applies to the old one
(R487). -/
def State.switchNow (s : State) (d : Fin 2) : State :=
  let old := s.selected
  let after := s.tim.afterSwitch
  let s := { s with tim := { s.tim with switchTo := none, afterSwitch := none } }
  let s := ((s.setFlag TIM_STAT_SELECTED (d == 1)).setFlag TIM_STAT_SWITCHED true).bump TIM_SWITCH_CNT
  let s := s.showTimLock.writeEvent 0x0703 ([old.val, d.val] ++ s.fullTime old ++ s.fullTime d)
  match after with
  | some x => s.jumpApplied x
  | none => s

def execDomainSwitch (s : State) : Out :=
  .next (match s.tim.switchTo with
    | some d => if s.timServed && s.switchDue d then s.switchNow d else s
    | none => s)

/-! Messages -/

/-- A port stamp of the present instant in whole ns of the domain: R481 states it to within 0.8 ns, so what it adds is open. -/
def State.stamp (s : State) (d : Fin 2) : Int × State :=
  let e := s.drawNat
  (((wholeNs (s.domainTime d)).toNat : Int) + ((e.1 % 3 : Nat) : Int) - 1, e.2)

/-- delayAsymmetry in whole ns. -/
def State.asym (s : State) (d : Fin 2) : Int := signedOf 32 (s.reg (TIM_D_ASYM + timOff d)).toNat / 65536

/-- An int32 register value, saturating (Table 17.5). -/
def satInt32 (v : Int) : Word := BitVec.ofInt 32 (max (-2147483648) (min 2147483647 v))

/-- The mean path delay in force, ns. -/
def State.meanPath (s : State) (d : Fin 2) : Int := (s.reg (TIM_D_MPD + timOff d)).toNat

/-- A Sync moves the lock of its domain: locked after 16 in a row within 100 ns, EVENT 0x0701; it ends holdover (R482). -/
def State.lockStep1588 (s : State) (d : Fin 2) (offset : Int) : State :=
  let was := s.domainLocked d
  let n := if offset.natAbs ≤ 100 then min 16 (s.tim.lockRun[d] + 1) else 0
  let s := { s with tim := { s.tim with lockRun := s.tim.lockRun.set d n } }
  let s := (s.setFlag (TIM_D_STAT_HOLDOVER.on (timOff d)) false).setFlag (TIM_D_STAT_LOCKED.on (timOff d)) (n == 16)
  let s := s.showTimLock
  if n = 16 ∧ !was then s.writeEvent 0x0701 [d, (s.reg64 (TIM_D_MASTER_LO + timOff d)).toNat] else s

/-- A Sync, stamped at its arrival: the offset from the master (R480 to R482). -/
def State.syncTaken (s : State) (d : Fin 2) (t1 corr : Int) : State :=
  let t2 := s.stamp d
  let s := t2.2
  let delay := t2.1 - t1 - corr - s.asym d
  let offset := delay - s.meanPath d
  let s := { s with tim := { s.tim with syncDelay := s.tim.syncDelay.set d delay } }
  let s := s.setReg (TIM_D_OFM + timOff d) (satInt32 offset)
  s.lockStep1588 d offset

/-- A Delay_Resp: the mean path delay of the default profile; how its half nanosecond rounds is open (R480). -/
def State.delayTaken (s : State) (d : Fin 2) (t3 t4 corr : Int) : State :=
  let b := s.drawNat
  let sum : Int := b.2.tim.syncDelay[d] + (t4 - t3 - corr) + s.asym d
  b.2.setReg (TIM_D_MPD + timOff d) (BitVec.ofInt 32 ((sum + (b.1 % 2 : Nat)) / 2))

/-- An Announce of the best master: a changed identity sets MASTER_CHG and writes EVENT 0x0707 (Table 17.2). -/
def State.announced (s : State) (d : Fin 2) (master : U64) : State :=
  let a := TIM_D_MASTER_LO + timOff d
  let old := s.reg64 a
  let s := s.setReg64 a master
  if old = master ∨ old = 0 then s
  else (s.setFlag (TIM_D_STAT_MASTER_CHG.on (timOff d)) true).writeEvent 0x0707 [d, old.toNat, master.toNat]

/-- The message is an event message (IEEE 1588): it counts in TIM_D_RX_CNT. -/
def ptpEvent (m : PtpMsg) : Bool :=
  match m with
  | .sync _ _ => true
  | .pdelayResp _ => true
  | .other e => e
  | .announce _ => false
  | .delayResp _ _ _ => false

/-- PTP_MESSAGE on an enabled port (R480, R482, R485). -/
def State.ptpTaken (s : State) (d : Fin 2) (m : PtpMsg) : State :=
  let s := s.setFlag (TIM_D_STAT_LINK.on (timOff d)) true
  let s := if ptpEvent m then s.bump (TIM_D_RX_CNT + timOff d) else s
  let p2p := s.flag (TIM_D_CTL_P2P.on (timOff d))
  if s.tracked d then
    match m with
    | .announce master => s.announced d master
    | .sync t1 corr => s.syncTaken d t1 corr
    | .delayResp t3 t4 corr => if p2p then s else s.delayTaken d t3 t4 corr
    | .pdelayResp mean => if p2p then s.setReg (TIM_D_MPD + timOff d) (BitVec.ofInt 32 mean) else s
    | .other _ => s
  else s

def execPtpMessage (domain : Fin 2) (msg : PtpMsg) (s : State) : Out :=
  .next (if s.timServed && s.flag (TIM_D_CTL_EN.on (timOff domain)) then s.ptpTaken domain msg else s)

/-- HOLDOVER_ENTRY (R482): rate and offset stay; with AUTO_SWITCH the selected domain gives way to a locked one (R486). -/
def State.holdover (s : State) (d : Fin 2) : State :=
  let s := { s with tim := { s.tim with lockRun := s.tim.lockRun.set d 0 } }
  let s := (s.setFlag (TIM_D_STAT_HOLDOVER.on (timOff d)) true).setFlag (TIM_D_STAT_LOCKED.on (timOff d)) false
  let s := s.showTimLock.writeEvent 0x0702 [d]
  if s.parallel && s.selected == d && s.flag TIM_CTL_AUTO_SWITCH && s.domainLocked (d + 1) then
    { s with tim := { s.tim with switchTo := some (d + 1) } }
  else s

def execHoldoverEntry (domain : Fin 2) (s : State) : Out :=
  .next (if s.timServed && s.tracked domain && s.flag (TIM_D_CTL_EN.on (timOff domain))
      && !s.flag (TIM_D_STAT_HOLDOVER.on (timOff domain)) then s.holdover domain else s)

/-! The 1 PPS input -/

/-- Deviation of a time from the nearest whole second, ns. -/
def secondOff (ns : U64) : Int :=
  let r := ns.toNat % 1000000000
  if r ≤ 500000000 then r else (r : Int) - 1000000000

/-- PPS_EDGE: stamped, and checked while the selected domain is locked (R489). -/
def State.ppsTaken (s : State) : State :=
  let ns := s.recordNs
  let s := { s with tim := { s.tim with ppsSeen := true } }
  let s := s.setReg64 TIM_PPS_LO ns
  let dev := secondOff ns
  if s.domainLocked s.selected && decide ((s.reg TIM_PPS_TOL).toNat % 65536 < dev.natAbs) then
    (s.setFlag TIM_STAT_PPS_BAD true).writeEvent 0x0706 [toBits 32 dev]
  else s

def execPpsEdge (s : State) : Out := .next (if s.timServed && s.flag TIM_CTL_PPS_EN then s.ppsTaken else s)

/-- PPS_MISSING: no edge within 1.5 s of the last (R489). -/
def State.ppsLate (s : State) : State :=
  (({ s with tim := { s.tim with ppsSeen := false } } : State).setFlag TIM_STAT_PPS_MISS true).bump TIM_PPS_MISS_CNT

def execPpsMissing (s : State) : Out :=
  .next (if s.timServed && s.flag TIM_CTL_PPS_EN && s.tim.ppsSeen then s.ppsLate else s)

end Sys2Proof.Machine
end

