-- ==== Sys2Proof/Machine/Lanes.lean ====
section
/-!
DEFINITION. The lane commands (chapter 13) but TX_BLOCK: received blocks, bring-up, self-test, eye scan, equaliser, and the switch of a
decision lane to its spare (R429).
-/
namespace Sys2Proof.Machine

/-- Count a received header for block lock (R398): the lane after it, and whether lock is gained or lost. -/
def Lane.countHead (ln : Lane) (lock good : Bool) : Lane × Bool :=
  let heads := (good :: ln.heads).take 64
  let run := if good then ln.goodRun + 1 else 0
  let wrong := (heads.filter (fun g => !g)).length
  if lock then
    if 16 ≤ wrong then ({ ln with heads := [], goodRun := 0 }, false) else ({ ln with heads := heads, goodRun := run }, true)
  else if 64 ≤ run then ({ ln with heads := heads, goodRun := run }, true)
  else ({ ln with heads := heads, goodRun := run }, false)

/-- Block lock is lost: LOCK_LOSS and its count; on a stream lane that is Up it is an error of class 0x0D (R398, Table 11.1). -/
def State.lockLost (s : State) (l : Fin 80) : State :=
  let up := s.laneState l = 5
  let s := s.abortEye l
  let s := if l.val < 48 then s.dropItem l else s
  let s := (s.setFlag (LNK_STAT_LOCK.on (lnkOff l)) false).setFlag (LNK_STAT_LOCK_LOSS.on (lnkOff l)) true
  let s := s.bump (LNK_LOCK_LOSS_CNT + lnkOff l)
  if l.val < 48 ∧ up then s.detectLane l 0x0D s.count else s

/-- Block lock is gained: a lane in Detect goes on to Train; a stream lane stays listening (R399, R401). -/
def State.lockGained (s : State) (l : Fin 80) : State :=
  let s := s.setFlag (LNK_STAT_LOCK.on (lnkOff l)) true
  if s.laneState l = 1 then s.setLaneState l 2 else s

/-- Header and code errors, and erase blocks, of a block received in lock (R396, R397). -/
def State.countBlockErrors (s : State) (l : Fin 80) (b : RxBlock) : State :=
  let o := lnkOff l
  let s := if b.codeError then (s.setFlag (LNK_STAT_CODE_ERR.on o) true).bump (LNK_CODE_ERR_CNT + o) else s
  let s := if b.headerBad then (s.setFlag (LNK_STAT_HDR_ERR.on o) true).bump (LNK_HDR_ERR_CNT + o) else s
  if b.kind = 3 ∧ !b.headerBad then (s.setFlag (LNK_STAT_ERASE.on o) true).bump (LNK_ERASE_CNT + o) else s

/-- What a delivered block does on its lane (R397, R400, R413). -/
def State.deliverBlock (s : State) (l : Fin 80) (b : RxBlock) : State :=
  let s := (s.bump64 (LNK_BLOCKS_LO + lnkOff l) 1).countBlockErrors l b
  if b.failed then s.failedBlock l (b.kind = 3 && !b.headerBad)
  else if b.kind = 2 then
    match parseTraining b.body with
    | some t => s.trainingBlock l t
    | none => s.failedBlock l false
  else if b.kind = 0 ∧ l.val < 48 then
    if s.laneState l ≠ 5 ∨ s.flag (verBadField l) then s
    else match parseCsl b.body with
      | some (first, bytes) => s.streamBlock l first bytes
      | none => s.failedBlock l false
  else s

/-- One block of line bits at a running receiver: inversion in Detect, block lock, delivery, the equaliser's block count
(R397, R398, R402, R406). -/
def State.receiveLine (s : State) (l : Fin 80) (line : BitVec 1032) : State :=
  let o := lnkOff l
  let b := receiveBlock s.lanes[l].rx (s.flag (LNK_STAT_INVERTED.on o)) line
  let inv := s.laneState l = 1 ∧ b.header.toNat % 4 = 2
  let seen := if inv then s.lanes[l].invSeen + 1 else 0
  let h := ({ s.lanes[l] with rx := b.run, invSeen := seen }).countHead (s.laneLock l) (!b.headerBad)
  let ln := { h.1 with blocksToPeak := if s.laneState l = 5 then h.1.blocksToPeak + 1 else h.1.blocksToPeak }
  let was := s.laneLock l
  let s := s.setLane l ln
  let s := if seen = 64 ∧ !was then
      (s.setLane l { ln with heads := [], goodRun := 0, invSeen := 0, rx := ⟨!ln.rx.last, ln.rx.run⟩ }).setFlag (LNK_STAT_INVERTED.on o) true
    else s
  if was then (if h.2 then s.deliverBlock l b else s.lockLost l)
  else if h.2 then s.lockGained l
  else s

/-- A receiver takes blocks: the lane is no decision lane, it is on, and no self-test has disconnected it (R389, R408). -/
def State.receives (s : State) (l : Fin 80) : Bool :=
  let st := s.laneState l
  laneLink l != 1 && s.mod.st.powered && s.mod.st != .fallow && decide (1 ≤ st ∧ st ≤ 5)

def execLaneBlockReceived (lane : Fin 80) (line : BitVec 1032) (s : State) : Out :=
  .next (if s.receives lane then s.receiveLine lane line else s)

/-- TRAIN_COMPLETE (R399, R403): both sides are ready; the agreed rate is the lower of the two offered; verification starts at
2.5 Gb/s. -/
def State.trainDone (s : State) (l : Fin 80) : State :=
  let ln : Lane := s.lanes[l]
  match ln.peer with
  | some t =>
    if s.laneState l = 2 ∧ 48 ≤ l.val then
      let agreed := min (s.laneOffer l) t.maxRate
      if ln.frozen.any (fun r => decide (agreed < r)) then (s.setLaneState l 7).laneFault l
      else (s.setLane l { ln with target := agreed, attempts := 0, verifyBad := false }).setLaneState l 4
    else s
  | none => s

def execTrainComplete (lane : Fin 80) (s : State) : Out := .next (s.trainDone lane)

/-- TRAIN_TIMEOUT: a lane 10 ms in Train returns to Detect (Table 13.4). -/
def State.trainExpired (s : State) (l : Fin 80) : State :=
  if s.laneState l = 2 ∧ 48 ≤ l.val then
    let ln : Lane := s.lanes[l]
    let s := s.setLane l { ln with heads := [], goodRun := 0, peer := none }
    (s.setFlag (LNK_STAT_LOCK.on (lnkOff l)) false).setLaneState l 1
  else s

def execTrainTimeout (lane : Fin 80) (s : State) : Out := .next (s.trainExpired lane)

/-- RATE_STEP_DONE (R399, R401, R405): the lane stands at the next rate above the present one, a simplex lane at the rate it goes to,
and verifies there; or the step failed. -/
def State.rateStepped (s : State) (l : Fin 80) (locked : Bool) : State :=
  if s.laneState l ≠ 3 then s
  else
    let ln : Lane := s.lanes[l]
    if laneLink l = 1 then
      ((s.setLaneRate l (s.laneOffer l)).setLane l { ln with verifyBad := false }).setLaneState l 4
    else if l.val < 48 then
      if locked then
        let s := (s.setLaneRate l ln.target).setFlag (LNK_STAT_LOCK.on (lnkOff l)) true
        ((s.setLane l { ln with verifyBad := false, heads := [], goodRun := 0 }).adaptPeak l).setLaneState l 4
      else ((s.setFlag (LNK_STAT_STEP_FAIL.on (lnkOff l)) true).setFlag (LNK_STAT_LOCK.on (lnkOff l)) false).setLaneState l 1
    else if locked then
      let s := (s.setLaneRate l (s.laneRate l + 1)).setFlag (LNK_STAT_LOCK.on (lnkOff l)) true
      ((s.setLane l { ln with verifyBad := false, heads := [], goodRun := 0 }).adaptPeak l).setLaneState l 4
    else s.laneAttemptFails l true

def execRateStepDone (lane : Fin 80) (locked : Bool) (s : State) : Out := .next (s.rateStepped lane locked)

/-- VERIFY_COMPLETE (R399, R401, R403): the count is reached, or a block failed during it. -/
def State.verifyDone (s : State) (l : Fin 80) : State :=
  if s.laneState l ≠ 4 then s
  else
    let ln : Lane := s.lanes[l]
    if laneLink l = 1 then s.laneUp l
    else if l.val < 48 then
      if ln.verifyBad then
        let s := (s.setFlag (LNK_STAT_STEP_FAIL.on (lnkOff l)) true).setFlag (LNK_STAT_LOCK.on (lnkOff l)) false
        ((s.setLane l { ln with heads := [], goodRun := 0, verifyBad := false, peer := none }).setLaneRate l 0).setLaneState l 1
      else s.laneUp l
    else if ln.verifyBad then s.laneAttemptFails l false
    else s.laneVerified l

def execVerifyComplete (lane : Fin 80) (s : State) : Out := .next (s.verifyDone lane)

/-- LANE_LOCK_LOSS_TIMEOUT: an Up lane 5 ms without lock restarts its bring-up; a stream lane returns to 2.5 Gb/s (R399, R401). -/
def State.lockTimeout (s : State) (l : Fin 80) : State :=
  if laneLink l != 1 && s.laneState l == 5 && !s.laneLock l then s.startLane l else s

def execLaneLockLossTimeout (lane : Fin 80) (s : State) : Out := .next (s.lockTimeout lane)

/-- A write of 1 to RETRAIN restarts the lane's bring-up; a retired or disabled lane stays down (R399, R403, R421). -/
def State.retrain (s : State) (l : Fin 80) : State :=
  if s.mod.st.powered && s.mod.st != .fallow && s.flag (LNK_CTL_ENABLE.on (lnkOff l)) && !s.laneRetired l then s.startLane l else s

def execLnkRetrain (path : Path) (lane : Fin 80) (s : State) : Out :=
  .next (s.via path (LNK_CTL + lnkOff lane) (fun s => s.retrain lane))

/-- The end of a lane's self-test: PRBS_DONE, PRBS_FAIL on an error, the count; the lane returns to the state it had and searches lock
again (R408). -/
def State.endPrbs (s : State) (l : Fin 80) (errors : Nat) : State :=
  let ln : Lane := s.lanes[l]
  match ln.tested with
  | none => s
  | some st =>
    let o := lnkOff l
    let s := s.setFlag (LNK_STAT_PRBS_DONE.on o) true
    let s := if errors = 0 then s else (s.setFlag (LNK_STAT_PRBS_FAIL.on o) true).bumpBy (LNK_PRBS_ERR_CNT + o) errors
    let s := (s.setLane l { ln with tested := none }).setFlag (LNK_STAT_LOCK.on o) false
    let s := s.setLaneState l st
    let p : Fin 4 := Fin.ofNat 4 ((l.val - 56) / 4)
    if 56 ≤ l.val ∧ l.val < 72 ∧ st = 5 then (if s.portLanesUp p then s.portUp p else s)
    else if 72 ≤ l.val ∧ st = 5 then s.hostLaneUp
    else s

/-- A write of 1 to PRBS_TEST starts the lane's self-test outside Growing (R408, Table 13.9). -/
def State.prbsOrder (s : State) (l : Fin 80) : State :=
  if s.mod.st.powered && s.mod.st != .fallow && s.mod.st != .growing && s.laneState l != 0 then s.startPrbs l else s

def execPrbsTest (path : Path) (lane : Fin 80) (s : State) : Out :=
  .next (s.via path (LNK_CTL + lnkOff lane) (fun s => s.prbsOrder lane))

def execPrbsTestDone (lane : Fin 80) (errors : Nat) (s : State) : Out := .next (s.endPrbs lane errors)

/-- A write of LNK_EYE_CTL: HOFF, VOFF and DWELL are stored; START begins a point on a lane that is Up and has a receiver, while no
other scan runs (R407, Table 13.6). -/
def State.eyeWrite (s : State) (v : Word) : State :=
  let s := s.setReg LNK_EYE_CTL (v &&& 0x01F0FF7F)
  let n := (s.reg LNK_EYE_SEL).toNat % 128
  if h : n < 80 then
    let l : Fin 80 := ⟨n, h⟩
    if bitsOf v.toNat 31 1 = 1 ∧ s.laneState l = 5 ∧ laneLink l ≠ 1 ∧ s.flag LNK_EYE_STAT_BUSY = false then
      (s.setLane l { s.lanes[l] with eyeOn := true }).setFlag LNK_EYE_STAT_BUSY true
    else s
  else s

def execEyePointStart (path : Path) (value : Word) (s : State) : Out :=
  .next (s.via path LNK_EYE_CTL (fun s => s.eyeWrite value))

/-- Bits a point compares: 2^DWELL, lower values act as 16 (Table 13.10). -/
def State.eyeDwell (s : State) : Nat := 2 ^ (max 16 (s.fld LNK_EYE_CTL_DWELL))

/-- EYE_POINT_DONE: errors and bits are shown, ABORTED when the point ended early (R407). -/
def State.eyeEnds (s : State) (errors : Word) (bits : U64) : State :=
  if s.flag LNK_EYE_STAT_BUSY then
    let s := { s with lanes := s.lanes.map (fun (ln : Lane) => { ln with eyeOn := false }) }
    let s := (s.setReg LNK_EYE_ERR errors).setReg64 LNK_EYE_BITS_LO bits
    let s := (s.setFlag LNK_EYE_STAT_BUSY false).setFlag LNK_EYE_STAT_DONE true
    if bits.toNat < s.eyeDwell then s.setFlag LNK_EYE_STAT_ABORTED true else s
  else s

def execEyePointDone (errors : Word) (bits : U64) (s : State) : Out := .next (s.eyeEnds errors bits)

/-- PEAK_STEP: the peaking code in force of an Up lane moves one step toward PEAK after 1,024 blocks (R406). -/
def State.peakMoves (s : State) (l : Fin 80) : State :=
  let o := lnkOff l
  let used := s.fld (LNK_EQ_PEAK_USED.on o)
  let peak := s.fld (LNK_EQ_PEAK.on o)
  let ln : Lane := s.lanes[l]
  if s.laneState l = 5 ∧ s.flag (LNK_EQ_AUTO.on o) = false ∧ used ≠ peak ∧ 1024 ≤ ln.blocksToPeak then
    (s.setLane l { ln with blocksToPeak := 0 }).setFld (LNK_EQ_PEAK_USED.on o) (if used < peak then used + 1 else used - 1)
  else s

def execPeakStep (lane : Fin 80) (s : State) : Out := .next (s.peakMoves lane)

/-- One failed decision lane moves to its spare: DEC_LANE_MAP, SPARED, EVENT 0x0572 (R429, R352). -/
def State.moveDecLane (s : State) (m : Nat × Nat) : State :=
  let map := (s.reg DEC_LANE_MAP).toNat
  let s := (List.range 8).foldl (fun s l =>
    if bitsOf map (4 * l) 4 = m.1 then s.setFld ⟨DEC_LANE_MAP, 4 * l, 4⟩ m.2 else s) s
  (s.setFlag DEC_STAT_SPARED true).unitMoved (decLaneUnit m.1) m.2 s.count

/-- DEC_SPARE_SWITCH: at a horizon boundary the failed lanes move to their spares (R429). -/
def State.spareLanes (s : State) : State :=
  if s.atBoundary then
    let due := s.dec.moveDue
    due.foldl State.moveDecLane { s with dec := { s.dec with moveDue := [] } }
  else s

def execDecSpareSwitch (s : State) : Out := .next s.spareLanes

end Sys2Proof.Machine
end

