-- ==== Sys2Proof/Machine/Faults.lean ====
section
/-!
DEFINITION. The fault commands (chapter 11) beside detection: the end of a self-test (R351, R355 to R357), loading and switching a spare
column (R112), the firmware watchdog (R354).
-/
namespace Sys2Proof.Machine

/-- A lane's targeted test ends on the lane too (R408). -/
def State.endLaneTest (s : State) (u : Word) (pass : Bool) : State :=
  let end_ := fun (l : Nat) => if s.laneState l = 6 then s.endPrbs (Fin.ofNat 80 l) (if pass then 0 else 1) else s
  match unitType u with
  | 6 => end_ (bitsOf u.toNat 0 6)
  | 7 => end_ (48 + bitsOf u.toNat 0 3)
  | 8 => end_ (56 + bitsOf u.toNat 0 4)
  | _ => s

/-- A DRAM row is no longer under test: its entries are rewritten with their rings' fill values in class 5, into the row or the spare that takes
its place (R210, R214). -/
def State.endRowTest (s : State) (u : Word) : State :=
  if unitType u = 3 then
    let e : Fin 2 := Fin.ofNat 2 (unitDie u)
    let eng : Engine := s.eng[e]
    let chan := bitsOf u.toNat 23 3
    let bank := bitsOf u.toNat 17 6
    let row := bitsOf u.toNat 0 13
    let s := s.setEng e { eng with rowsTested := eng.rowsTested.filter (· != chan * 2 ^ 20 + bank * 2 ^ 13 + row) }
    { s with flt := { s.flt with jobs := s.flt.jobs ++ rowJobs e chan bank row 5 1 s.tim.c } }
  else s

/-- The grains that a failing test found stand for a steering unit, whose spare is their column (Table 11.1, class 0x05). -/
def State.retireTested (s : State) (t : UnitTest) (reason : Nat) (failing : List Word) : State :=
  let grains := failing.filter (fun u => unitType u == 1)
  if t.cls = 5 ∧ !grains.isEmpty then
    let s := ((s.bump FLT_LASTING_CNT).setFlag FLT_STAT_LASTING true).showStatus t.unit 2 0
    let s := s.writeEvent 0x0571 [t.unit.toNat, reason]
    (grains.foldl (fun s u => s.retireColumn (Fin.ofNat 4 (unitBed u)) (bitsOf u.toNat 0 7) u) s).endTouch t.unit
  else (s.retire t.unit reason)

/-- A targeted self-test ends: lasting on a failure or a repeat, else transient (R351, R362). The tests of the grains that feed a steering
unit end with its own; one of them that met a detection meanwhile is a repeat (R108). -/
def State.testEnds (s : State) (t : UnitTest) (pass : Bool) (failing : List Word) : State :=
  let again := s.flt.tests.filter (fun (x : UnitTest) => x.part == some t.unit && x.repeated && !failing.contains x.unit)
  let s := { s with flt := { s.flt with tests := s.flt.tests.filter (fun (x : UnitTest) => x.unit != t.unit && x.part != some t.unit) } }
  let s := ((s.showTesting).endLaneTest t.unit pass).endRowTest t.unit
  let s := if !pass then s.retireTested t 1 failing
    else if t.repeated then s.retireTested t 2 failing
    else s.transient t.unit t.hzn
  again.foldl (fun s x => s.retire x.unit 2) s

/-- The pair is in single-bed operation: some layout bed runs on one bed of it (R121). -/
def State.pairSingle (s : State) (pair : Nat) : Bool :=
  (match s.phase? with | some p => p.ph.mirrored | none => false) && s.placed.any (fun p => p.1 % 2 == pair && p.2.isNone)

/-- Field of FLT_DIV_CNT of a pair (Table 11.8). -/
def divField (pair : Nat) : Field := ⟨FLT_DIV_CNT, 8 * pair, 8⟩

/-- An unexplained divergence of a pair (R355, R357). -/
def State.unexplained (s : State) (pair : Fin 2) : State :=
  let s := s.bump FLT_UNEXPL_CNT
  let win := (s.reg FLT_DIV_WINDOW).toNat * 1024
  let same : Bool := match s.flt.divStart[pair] with
    | some h => decide (s.count.toNat < h.toNat + win)
    | none => false
  let n : Nat := bif same then s.flt.divCount[pair] + 1 else 1
  let starts : Vector (Option U64) 2 := bif same then s.flt.divStart else s.flt.divStart.set pair (some s.count)
  let s := { s with flt := { s.flt with divCount := s.flt.divCount.set pair n, divStart := starts } }
  let s := (s.setFld (divField pair) (min n 255)).writeEvent 0x0582 [n]
  let due : Option U64 := s.flt.alarmRelease[pair]
  if decide ((s.reg FLT_DIV_LIMIT).toNat % 256 < n) && !s.pairSingle pair && due.isNone then
    let h := nextBoundary s.count
    let keep := pair.val + 2 * s.fld FLT_CTL_DIV_KEEP
    let s := { s with flt := { s.flt with alarmRelease := s.flt.alarmRelease.set pair (some h) } }
    (s.setFlag FLT_STAT_ALARM true).writeEvent 0x0583 [pair, keep, h.toNat]
  else s

/-- SHA-512 over a bed's banks in grain order (Table 11.5). -/
def Bed.bankDigest (b : Bed) : List Byte :=
  sha512 ((List.range (32 * 64)).flatMap (fun g => bytesAt zeroByte b.banks (g * 16384) 16384))

/-- The bank digests of a capture are filled in, and its EVENT record is written (R355, R356). -/
def State.fillCapture (s : State) (pair : Fin 2) (i : Nat) : State :=
  match mapFind s.flt.captures i with
  | none => s
  | some c =>
    let east : Bed := s.beds[pair.val]!
    let west : Bed := s.beds[pair.val + 2]!
    let c : Capture := { c with eastBanks := some east.bankDigest, westBanks := some west.bankDigest }
    (s.storeCapture i c).captureEvent i c

/-- The test of both copies of a pair ends: failing units are lasting and the divergence is explained, else it is unexplained, and so is
each further one that was met while the test ran (R355, R362). -/
def State.pairTestEnds (s : State) (t : PairTest) (pass : Bool) (failing : List Word) : State :=
  let pair : Fin 2 := Fin.ofNat 2 t.pair
  let s := { s with flt := { s.flt with pairTests := s.flt.pairTests.erase t } }
  let s := t.indices.foldl (fun s i => s.fillCapture pair i) s.showTesting
  if pass then (List.range (1 + t.further)).foldl (fun s _ => s.unexplained pair) s
  else failing.foldl (fun s u => s.retire u 1) s

/-- A full bed self-test ends: STATE returns, and each failing unit is lasting (R127). -/
def State.bedTestEnds (s : State) (b : Fin 4) (failing : List Word) : State :=
  let bed : Bed := s.beds[b]
  let back := match bed.selfTest with | some 1 => 1 | _ => if bed.variant.isSome then s.bedHome b else 1
  let s := (s.setBed b { bed with selfTest := none }).setBedState b back
  failing.foldl (fun s u => s.retire u 1) s

/-- SELF_TEST_COMPLETE: the test of the unit ends; a pair's test ends under the unit word of its comparator, a full bed self-test under
a bed unit word of its bed. -/
def State.selfTestEnds (s : State) (u : Word) (pass : Bool) (failing : List Word) : State :=
  match s.flt.tests.find? (fun (t : UnitTest) => t.unit == u && !t.waits && t.part.isNone) with
  | some t => s.testEnds t pass failing
  | none =>
    match s.flt.pairTests.find? (fun (t : PairTest) => bedUnit t.pair 0 3 == u) with
    | some t => s.pairTestEnds t pass failing
    | none =>
      let b : Fin 4 := Fin.ofNat 4 (unitBed u)
      if unitType u = 2 ∧ (s.beds[b] : Bed).selfTest.isSome then s.bedTestEnds b (if pass then [] else failing) else s

def execSelfTestComplete (unit : Word) (pass : Bool) (failing : List Word) (s : State) : Out :=
  .next (if s.mod.st.serving then s.selfTestEnds unit pass failing else s)

/-- The first spare load of a list that still loads gets the boundary of its switch. -/
def loadEnds (h : U64) : List SpareLoad → List SpareLoad
  | [] => []
  | l :: rest => if l.loaded.isNone then { l with loaded := some h } :: rest else l :: loadEnds h rest

/-- SPARE_COLUMN_LOADED: the switch waits for the next horizon boundary (R112). -/
def State.spareLoaded (s : State) (b : Fin 4) : State :=
  let bed : Bed := s.beds[b]
  s.setBed b { bed with spareLoad := loadEnds (nextBoundary s.count) bed.spareLoad }

def execSpareColumnLoaded (bed : Fin 4) (s : State) : Out := .next (if s.mod.st.serving then s.spareLoaded bed else s)

/-- The bytes of logical column `c` replaced by those of another bank image. -/
def reloadColumn (m image : Map Byte) (c : Nat) : Map Byte :=
  let inCol := fun (x : Nat × Byte) => decide (x.1 < 2048 * 16384) && x.1 / 16384 % 64 == c
  (image.filter inCol).foldl (fun m x => mapSet m x.1 x.2) (m.filter (fun x => !inCol x))

/-- One spare column takes the place of its column at boundary `h`: it was loaded from the image copy with every committed correction; EVENT
0x0572; frames of earlier ticks finish on the old column (R109, R112, R346, R352). -/
def State.switchSpare (s : State) (b : Fin 4) (l : SpareLoad) (h : U64) : State :=
  let bed : Bed := s.beds[b]
  let old := l.failed :: (bed.spares.filter (fun p => p.2 == l.failed)).map Prod.fst
  let col := if l.failed < 32 then l.failed else l.failed - 2
  let bed := match bed.variant with
    | none => bed
    | some v =>
      let image := v.net.loaded s.prog.corrections v.phase bed.layoutBed
      { bed with
        banks := reloadColumn bed.banks image col, latches := reloadColumn bed.latches image col
        before := (h, bed.banks) :: bed.before.take 3
        fresh := bed.fresh.filter (fun x => x.1 / 16384 % 64 != col), dirty := bed.dirty.filter (fun r => r.grain % 64 != col) }
  let s := s.setBed b { bed with
    spares := bed.spares.filter (fun p => p.2 != l.failed) ++ [(l.spare, l.failed)]
    spareLoad := bed.spareLoad.erase l }
  let units := (s.flt.touching.filter (fun (t : Touching) =>
    unitType t.unit == 1 && unitBed t.unit == b.val && old.contains (bitsOf t.unit.toNat 0 7))).map Touching.unit
  let s := units.foldl (fun s u => s.stopTouch u h) s
  let s := s.setFlag (BED_STAT_SPARE_USED.on (bedOff b)) true
  (s.writeEvent 0x0572 [l.unit.toNat, l.spare - 32, h.toNat]).showStatus l.unit 2 1

/-- SPARE_COLUMN_SWITCH: every loaded spare of the bed whose boundary has come switches (R112). -/
def State.switchSpares (s : State) (b : Fin 4) : State :=
  let bed : Bed := s.beds[b]
  bed.spareLoad.foldl (fun s l => match l.loaded with
    | some h => if h.toNat ≤ s.count.toNat then s.switchSpare b l h else s
    | none => s) s

def execSpareColumnSwitch (bed : Fin 4) (s : State) : Out := .next (if s.mod.st.serving then s.switchSpares bed else s)

/-- FIRMWARE_WATCHDOG_EXPIRY: an error of class 0x12, which halts the module (R354, Table 11.1). -/
def execFirmwareWatchdogExpiry (s : State) : Out :=
  .next (if s.mod.fwOk && (s.mod.st.serving || s.mod.st == .waking) then s.detect firmwareUnit 0x12 s.count 0 else s)

end Sys2Proof.Machine
end

