-- ==== Sys2Proof/Machine/BedCtl.lean ====
section
/-!
DEFINITION. The bed and grain commands (chapter 3): full bed self-test (R127), single-bed operation and pairing again (R121, R500), weight
correction (R114, R115), GRN commands and windows (R128).
-/
namespace Sys2Proof.Machine

/-- A write of 1 to SELFTEST: ignored unless STATE is idle, loaded or degraded (Table 3.14). -/
def State.startBedTest (s : State) (b : Fin 4) : State :=
  let st := s.bedState b
  if s.bedPresent b && (st == 1 || st == 2 || st == 4) then
    (s.setBed b { s.beds[b] with selfTest := some st }).setBedState b 5
  else s

def execBedSelftest (path : Path) (bed : Fin 4) (s : State) : Out :=
  .next (s.via path (BED_CTL + bedOff bed) (fun s => s.startBedTest bed))

/-! Mirror pairs -/

/-- The partner of a bed (R116). -/
def partnerOf (b : Fin 4) : Fin 4 := b + 2

/-- The layout bed that a bed's pair carries, with the bed that serves it alone if the pair is single (R121). -/
def State.pairPlace (s : State) (b : Fin 4) : Option (Nat × Option (Fin 4)) :=
  match s.phase? with
  | none => none
  | some p =>
    if p.ph.mirrored then
      (s.placed.zipIdx.find? (fun x => x.1.1 % 2 == b.val % 2)).map (fun x =>
        (x.2, match x.1.2 with | some _ => none | none => some (Fin.ofNat 4 x.1.1)))
    else none

/-- The rows of the east die that a VARIANT section stands in, in an image whose first byte is at `base`. -/
def Load.variantRows (l : Load) (base phase lb u : Nat) : List Nat :=
  match findSec l.table 3 phase (fun e => e.bed == lb && e.variant == u) with
  | some e => blocksOf (base + e.2.off) e.2.len
  | none => []

/-- Load a variant of an image whose first byte is at `base`, with its committed corrections, into a bed as a rotation target: its section is
read in class 6 (R210, R494, R500); none fits the bed's columns: nothing. -/
def State.loadTarget (s : State) (l : Load) (base : Nat) (p : PhaseProg) (lb : Nat) (b : Fin 4) (corrections : List Correction) : State :=
  let bed : Bed := s.beds[b]
  match pickVariant p lb bed.usable with
  | none => s
  | some v =>
    let s := { s with svc := { s.svc with jobs := s.svc.jobs ++ blockJobs 0 6 (l.variantRows base p.ph.id lb v.u) s.tim.c } }
    (s.setBed b { bed with target := some v, targetBed := lb, targetBanks := v.net.loaded corrections p.ph.id lb }).setBedState b 6

/-- A loaded target takes its variant: from the change on frames enter it (R496, R500). `l` is the image it was loaded from. -/
def State.enterTarget (s : State) (l : Load) (p : PhaseProg) (b : Fin 4) : State :=
  let bed : Bed := s.beds[b]
  match bed.target with
  | none => s
  | some v =>
    let pl : Placed := ⟨bed.targetBed, b, v⟩
    let lg := match l.ledger p.ph.id pl with | some x => x.2 | none => ⟨[], [], []⟩
    let s := s.setBed b { bed with
      variant := some v, layoutBed := bed.targetBed, banks := bed.targetBanks, latches := bed.targetBanks, fresh := [], dirty := [], routes := ledgerRoutes s.tsig v lg
      target := none, targetBanks := [], rejoinAt := none, degraded := false, leaving := false, before := [] }
    (s.writeBedRegs p.ph pl).setBedState b (s.bedHome b)

/-- A write to MIRROR_RELEASE (R121, R500, Table 18.4): 1 on a bed of a pair orders its release at the next boundary; 0 loads the running
variant into an idle partner. Ignored on a rotation target, and for 0 while the partner is not idle. -/
def State.releaseWrite (s : State) (b : Fin 4) (v : Bool) : State :=
  let bed : Bed := s.beds[b]
  let other : Bed := s.beds[partnerOf b]
  let stored := s.setFlag (BED_CTL_MIRROR_RELEASE.on (bedOff b)) v
  if s.bedState b = 6 then s
  else match s.pairPlace b with
    | none => stored
    | some (_, none) =>
      if v then
        if other.releaseDue.isSome || bed.releaseDue.isSome then stored
        else stored.setBed b { bed with releaseDue := some (nextBoundary s.count) }
      else s
    | some (lb, some serving) =>
      if v then stored
      else
        let out := partnerOf serving
        if s.bedState out = 1 ∧ !(s.beds[out] : Bed).leaving then
          match s.phase?, s.prog.image with
          | some p, some img => stored.loadTarget (s.readLoad img.bytes) copyBase p lb out s.prog.corrections
          | _, _ => stored
        else s

def execMirrorRelease (path : Path) (bed : Fin 4) (value : Bool) (s : State) : Out :=
  .next (s.via path (BED_CTL + bedOff bed) (fun s => if s.bedPresent bed then s.releaseWrite bed value else s))

/-- SINGLE of both beds of a pair. -/
def State.showSingle (s : State) (b : Fin 4) (v : Bool) : State :=
  (s.setFlag (BED_MIRROR_SINGLE.on (bedOff b)) v).setFlag (BED_MIRROR_SINGLE.on (bedOff (partnerOf b))) v

/-- Bit of FLT_DEGRADED.PAIR_SINGLE (Table 11.11). -/
def pairSingleField (pair : Nat) : Field := ⟨FLT_DEGRADED, 4 + pair, 1⟩

/-- Bed `b` of a pair leaves it at boundary `h`; its partner goes on alone (R121, R500). -/
def State.releaseBed (s : State) (b : Fin 4) (h : U64) : State :=
  match s.pairPlace b with
  | some (lb, none) =>
    let bed : Bed := s.beds[b]
    let prog := s.prog.keepPast h
    let s := { s with prog := { prog with place := prog.place.set lb ((partnerOf b).val, none) } }
    let s := (s.setBed b { bed with releaseDue := none, leaving := true }).showSingle b true
    s.driveHold
  | _ => s.setBed b { s.beds[b] with releaseDue := none }

/-- A bed rejoins its pair at boundary `h` (R500). -/
def State.rejoinBed (s : State) (b : Fin 4) (h : U64) : State :=
  match s.pairPlace b, s.phase?, s.prog.image with
  | some (lb, some _), some p, some img =>
    let s := s.enterTarget (s.readLoad img.bytes) p b
    let prog := s.prog.keepPast h
    let east := b.val % 2
    let s := { s with prog := { prog with place := prog.place.set lb (east, some (east + 2)) } }
    let s := s.showSingle b false
    ((s.setFlag (pairSingleField east) false).showDegraded).driveHold
  | _, _, _ => s.dropTarget b

/-- The release that the divergence alarm of a pair has ordered (R357): the copy that DIV_KEEP names continues. -/
def State.alarmReleases (s : State) (pair : Fin 2) : State :=
  let due : Option U64 := s.flt.alarmRelease[pair]
  match due with
  | none => s
  | some h =>
    if h.toNat ≤ s.count.toNat then
      let s := { s with flt := { s.flt with alarmRelease := s.flt.alarmRelease.set pair none } }
      let out : Fin 4 := Fin.ofNat 4 (pair.val + (if s.flag FLT_CTL_DIV_KEEP then 0 else 2))
      let open_ := match s.pairPlace out with | some (_, none) => true | _ => false
      let s := s.setBed (partnerOf out) { s.beds[partnerOf out] with releaseDue := none }
      let s := s.releaseBed out h
      if open_ then (s.setFlag (pairSingleField pair) true).showDegraded else s
    else s

/-- MIRROR_RELEASE_BOUNDARY: releases and rejoinings whose boundary has come take effect (R121, R357, R500). -/
def State.mirrorBoundary (s : State) : State :=
  let s := (s.alarmReleases 0).alarmReleases 1
  [(0 : Fin 4), 1, 2, 3].foldl (fun s b =>
    let bed : Bed := s.beds[b]
    match bed.releaseDue, bed.rejoinAt with
    | some h, _ => if h.toNat ≤ s.count.toNat then s.releaseBed b h else s
    | none, some h => if h.toNat ≤ s.count.toNat then s.rejoinBed b h else s
    | none, none => s) s

def execMirrorReleaseBoundary (s : State) : Out := .next (if s.mod.st.serving then s.mirrorBoundary else s)

/-- MIRROR_REJOIN_LOADED: the partner of a single pair holds the running variant; it rejoins at the next boundary (R500). -/
def State.rejoinLoaded (s : State) (pair : Fin 2) : State :=
  match s.pairPlace (Fin.ofNat 4 pair.val) with
  | some (_, some serving) =>
    let out := partnerOf serving
    let bed : Bed := s.beds[out]
    if s.bedState out ≠ 6 ∨ bed.target.isNone ∨ bed.rejoinAt.isSome then s
    else if bed.target.any (fun v => v.u == bed.usable) then s.setBed out { bed with rejoinAt := some (nextBoundary s.count) }
    else s.dropTarget out
  | _ => s

def execMirrorRejoinLoaded (pair : Fin 2) (s : State) : Out := .next (if s.mod.st.serving then s.rejoinLoaded pair else s)

/-! Weight correction -/

/-- The refusal of a correction commit, 1 when it is armed (R115, Table 3.9). -/
def State.corrCode (s : State) (b : Fin 4) (h : U64) : Nat :=
  let bed : Bed := s.beds[b]
  let words := fun (g : Nat) => match bed.variant with | some v => v.net.weightWords g | none => 0
  if (s.reg (BED_II + bedOff b)).toNat % 8 = 0 then 3
  else if bed.corrWord.any (fun x => decide (words x.1 ≤ x.2)) then 4
  else if !lowZero 10 h || decide (h.toNat < s.count.toNat + 1024) then 5
  else 1

/-- A write of BED_CORR_HI arms a commit or refuses it (R114, R115). -/
def State.corrArm (s : State) (b : Fin 4) (v : Word) : State :=
  let o := bedOff b
  let s := s.setReg (BED_CORR_HI + o) v
  let h := s.reg64 (BED_CORR_LO + o)
  let code := s.corrCode b h
  let s := s.setFld (BED_CORR_STAT_CODE.on o) code
  if code = 1 then { s with prog := { s.prog with corrArmed := s.prog.corrArmed.set b (some h) } } else s

def execCorrArm (path : Path) (bed : Fin 4) (value : Word) (s : State) : Out :=
  .next (s.via path (BED_CORR_HI + bedOff bed) (fun s => if s.bedPresent bed then s.corrArm bed value else s))

/-- Cancel an armed correction: code 0x6 (R115, R126). -/
def State.corrDrop (s : State) (b : Fin 4) : State :=
  if s.prog.corrArmed[b].isSome then
    ({ s with prog := { s.prog with corrArmed := s.prog.corrArmed.set b none } }).setFld (BED_CORR_STAT_CODE.on (bedOff b)) 6
  else s

def execCorrCancel (path : Path) (bed : Fin 4) (s : State) : Out :=
  .next (s.via path (BED_CTL + bedOff bed) (fun s => s.corrDrop bed))

/-- One filled correction register of a bed, written into its word of the grain's weight region: EVENT 0x0304; the DRAM image copy takes it too (R114, R115). -/
def State.corrWrite (s : State) (b : Fin 4) (g w : Nat) : State :=
  let bed : Bed := s.beds[b]
  let bytes := bytesAt zeroByte bed.corrBytes (g * 256) 256
  let base := match bed.variant with | some v => v.net.weightBase g | none => 0
  let s := s.setBed b { bed with banks := putBytes zeroByte bed.banks (g * 16384 + base + w * 256) bytes }
  let c : Correction := { phase := s.prog.phase, layoutBed := bed.layoutBed, grain := g, word := w, bytes := bytes }
  let s := if g < 2048 then { s with prog := { s.prog with
      corrections := s.prog.corrections.filter (fun (x : Correction) => !(x.phase == c.phase && x.layoutBed == c.layoutBed && x.grain == g && x.word == w)) ++ [c] } }
    else s
  s.writeEvent 0x0304 [b, g, w]

/-- CORR_COMMIT at the commit horizon `h`: frames of earlier ticks read the old words (R114). -/
def State.corrCommit (s : State) (b : Fin 4) (h : U64) : State :=
  let bed : Bed := s.beds[b]
  let filled := bed.corrWord
  let s := { s with prog := { s.prog with corrArmed := s.prog.corrArmed.set b none } }
  let s := s.setBed b { bed with before := (h, bed.banks) :: bed.before.take 3 }
  let s := filled.foldl (fun s x => s.corrWrite b x.1 x.2) s
  let s := s.setBed b { s.beds[b] with corrWord := [], corrBytes := [] }
  (s.setFlag (BED_STAT_CORR_DONE.on (bedOff b)) true).setFld (BED_CORR_STAT_CODE.on (bedOff b)) 2

/-- A rotation armed for boundary `h` takes the program of bed `b` away or brings one into it (R126, R496). -/
def State.rotates (s : State) (b : Fin 4) (h : U64) : Bool :=
  match s.svc.rot with
  | none => false
  | some r =>
    let image := if r.image.isSome then r.image else s.prog.image
    let n := ((image.bind (fun i => i.program.phase? r.phase)).map (fun q => q.ph.layoutBeds)).getD 0
    let lb := (s.beds[b] : Bed).layoutBed
    r.armed == some h && (r.moves.any (fun m => m.1 == lb || m.2.1 == b.val || m.2.2 == some b.val) || decide (n ≤ lb))

/-- CORR_COMMIT: at the commit horizon; a rotation of the bed at the same boundary cancels it with code 0x6 (Table 3.12). -/
def execCorrCommit (bed : Fin 4) (s : State) : Out :=
  let due : Option U64 := s.prog.corrArmed[bed]
  .next (match due with
    | some h => if h.toNat ≤ s.count.toNat && s.mod.st.serving then
        (if s.rotates bed h then s.corrDrop bed else s.corrCommit bed h)
      else s
    | none => s)

/-! GRN commands and windows -/

/-- A GRN command starts on the selected grain, unless one runs or the selection names an absent grain (R128); a bed without an empty entry
position runs no MAC scan (R350). -/
def State.grnStart (s : State) (cmd : Nat) : State :=
  match s.grn, s.selGrain with
  | none, some (b, g) =>
    if cmd = 2 ∧ s.bedFull b then s else
    let s := { s with grn := some ⟨cmd, b, g⟩ }
    let s := s.setFlag GRN_STAT_BUSY true
    if cmd = 1 then s else s.setFld GRN_STAT_TEST 3
  | _, _ => s

def execGrnSnapshotStatus (path : Path) (s : State) : Out := .next (s.via path GRN_CMD (fun s => s.grnStart 1))

def execGrnMacScan (path : Path) (s : State) : Out := .next (s.via path GRN_CMD (fun s => s.grnStart 2))

def execGrnBankMarch (path : Path) (s : State) : Out := .next (s.via path GRN_CMD (fun s => s.grnStart 3))

/-- GRN_TEST_DONE: the command ends, and TEST reports a test's outcome (Table 3.18). -/
def State.grnEnds (s : State) (pass : Bool) : State :=
  match s.grn with
  | none => s
  | some r =>
    let s := ({ s with grn := none } : State).setFlag GRN_STAT_BUSY false
    if r.cmd = 1 then s else s.setFld GRN_STAT_TEST (if pass then 1 else 2)

def execGrnTestDone (pass : Bool) (s : State) : Out := .next (s.grnEnds pass)

/-- A window write is ignored: WREJ, and TOP_ACC_STAT with REASON 2 (Tables 3.18 and 20.9). -/
def State.grnIgnored (s : State) (p : Path) (a : Nat) : State := (s.setFlag GRN_STAT_WREJ true).refuseAccess p a 2

/-- A 32-bit write to the bank window takes effect while the bed is idle or loaded, else it is ignored with WREJ (R128). -/
def State.bankWrite (s : State) (p : Path) (a : Nat) (v : Word) : State :=
  match s.selGrain with
  | none => s.grnIgnored p a
  | some (b, g) =>
    let st := s.bedState b
    if st = 1 ∨ st = 2 then
      let k : Fin 4 := Fin.ofNat 4 b
      let bed : Bed := s.beds[k]
      let at_ := g * 16384 + (a - 0x100000)
      s.setBed k { bed with
        banks := putBytes zeroByte bed.banks at_ (leBytes 4 v.toNat)
        fresh := (List.range 4).foldl (fun m i => mapSet m (at_ + i) ((leBytes 4 v.toNat).getD i 0)) bed.fresh }
    else s.grnIgnored p a

/-- A 32-bit write to the correction register window fills the register; its target word is what GRN_CORR_ADDR holds at the last such write
(R114; DESIGN CHOICE, log entry 108: the spec does not say when the index is taken). -/
def State.corrFill (s : State) (p : Path) (a : Nat) (v : Word) : State :=
  match s.selGrain with
  | none => s.grnIgnored p a
  | some (b, g) =>
    let k : Fin 4 := Fin.ofNat 4 b
    let bed : Bed := s.beds[k]
    s.setBed k { bed with
      corrBytes := putBytes zeroByte bed.corrBytes (g * 256 + (a - 0x104000)) (leBytes 4 v.toNat)
      corrWord := mapSet bed.corrWord g ((s.reg GRN_CORR_ADDR).toNat % 64) }

/-- A write in the windows of the GRN block (R128, Table 20.2). -/
def State.grnWindow (s : State) (p : Path) (a : Nat) (v : Word) : State :=
  if a % 4 ≠ 0 then s.refuseAccess p a 3
  else if 0x100000 ≤ a ∧ a < 0x104000 then s.bankWrite p a v
  else if 0x104000 ≤ a ∧ a < 0x104100 then s.corrFill p a v
  else s

def execGrnWindowWrite (path : Path) (addr : Word) (value : Word) (s : State) : Out :=
  .next (s.via path addr.toNat (fun s => s.grnWindow path addr.toNat value))

end Sys2Proof.Machine
end

