-- ==== Sys2Proof/Machine/Service.lean ====
section
/-!
DEFINITION. Live service (chapter 18): bed rotation (R492 to R501), phase changes and re-sharding (R286, R287), link microcode (R502,
R503).
-/
namespace Sys2Proof.Machine

/-! Loading a rotation -/

/-- The VARIANT section of a phase, layout bed and U. PHASE_ID, which names the phase the section stands in, is left out of the comparison
of contents. -/
def Load.variantBytes (l : Load) (phase lb u : Nat) : Option (List Byte) :=
  (findSec l.table 3 phase (fun e => e.bed == lb && e.variant == u)).map (fun e => (secBytes l.img e.2).drop 1)

/-- The LOESS section of a phase and die. -/
def Load.loessBytes (l : Load) (phase die : Nat) : Option (List Byte) :=
  (findSec l.table 9 phase (fun e => e.bed == die)).map (fun e => secBytes l.img e.2)

/-- A rotation from phase `p` of one image to phase `q` of the same or another. -/
structure RotFrom where
  cur : Load
  p : PhaseProg
  new : Load
  q : PhaseProg
deriving DecidableEq, Repr

/-- U of the variant that a bed runs. -/
def State.runningU (s : State) (b : Nat) : Nat := match s.beds[b]!.variant with | some v => v.u | none => s.beds[b]!.usable

/-- The content of a layout bed's VARIANT section for the U of a bed is the same before and after. -/
def State.sameVariant (s : State) (r : RotFrom) (lb b : Nat) : Bool :=
  let u := s.runningU b
  let old := r.cur.variantBytes r.p.ph.id lb u
  old.isSome && old == r.new.variantBytes r.q.ph.id lb u

/-- A layout bed of the incoming phase moves (R493); it moves too where it has no bed yet, or its bed is not one that BEDMAP and the
pairing of the incoming phase allow. -/
def State.moves (s : State) (r : RotFrom) (lb : Nat) : Bool :=
  match s.prog.place[lb]? with
  | none => true
  | some (b, c) =>
    bitsOf (s.fld TOP_ROT_CTL_MOVE) lb 1 == 1 || r.p.ph.mirrored != r.q.ph.mirrored
      || (!r.q.ph.mirrored && r.q.ph.die lb != bedDie b)
      || (b :: c.toList).any (fun x => !s.sameVariant r lb x)

/-- The moving layout beds of the incoming phase, ascending. -/
def State.movingBeds (s : State) (r : RotFrom) : List Nat := (List.range r.q.ph.layoutBeds).filter (s.moves r)

/-- The layout beds that stay, as the incoming phase places them on the beds they have. -/
def State.staying (s : State) (r : RotFrom) : List Placed :=
  ((List.range r.q.ph.layoutBeds).filter (fun lb => !s.moves r lb)).flatMap (fun lb =>
    (s.bedsOf lb).filterMap (fun b => (pickVariant r.q lb (s.runningU b)).map (fun v => (⟨lb, b, v⟩ : Placed))))

/-- The placement that runs. -/
def State.runningPlaced (s : State) : List Placed :=
  (List.range s.prog.place.length).flatMap (fun lb => (s.bedsOf lb).filterMap (fun b => (s.beds[b]!.variant).map (fun v => (⟨lb, b, v⟩ : Placed))))

/-- The RESHARD entries of a phase change; a move within one phase of one image is no phase change and leaves every ring in place
(R287). -/
def RotFrom.reshard (r : RotFrom) : Option (List ReshardEntry) :=
  (r.new.prog.reshard.find? (fun x => x.1 == r.p.ph.id && x.2.1 == r.q.ph.id)).map (fun x => x.2.2)

/-- The checks of the file at a rotation: all of them on a staged image; its signature and its key on the image in force (R271, R381). -/
def State.rotFile (s : State) (r : RotFrom) (staged : Bool) : List (Nat × List Nat) :=
  (s.fileChecks r.new).filter (fun c => staged || c.1 == 0x07 || c.1 == 0x08)

/-- The content checks at a rotation: all of them on a staged image, and in either case the rings that carry from the running phase, at the
units and depths that they have (R271, R287). -/
def State.rotContent (s : State) (r : RotFrom) (staged : Bool) : List (Nat × List Nat) :=
  let entries := (r.reshard).getD []
  let held := fun (die ring : Nat) => (mapFind s.eng[die % 2]!.streams ring).map (fun x => streamUnits x.decl)
  let carry := failIf (carryFails held entries r.q) (r.new.idx 2 r.q.ph.id)
  let unequal := (r.new.table.filter (fun e => e.2.typ == 0xA)).flatMap (fun e =>
    let x := readReshard (secBytes r.new.img e.2)
    failIf (x.1 == r.p.ph.id && x.2.1 == r.q.ph.id && x.2.2.any (reshardBad r.p r.q)) e.1)
  if staged then r.new.contentChecks.map (fun c => if c.1 = 0x32 then (c.1, c.2 ++ carry) else if c.1 = 0x3D then (c.1, c.2 ++ unequal) else c)
  else [(0x32, carry), (0x3D, unequal)]

/-- The loader's checks at a rotation, in code order: those of the file, placement of the moving beds, pads of the whole incoming placement,
contents, power of the running placement with every incoming variant (R271, R290, R493). -/
def State.rotChecks (s : State) (r : RotFrom) (staged : Bool) : Option (Nat × Nat) :=
  let pl := s.placeAll true r.q (s.movingBeds r)
  let sec := r.new.idx 2 r.q.ph.id
  let place := (s.placeChecks r.new r.q pl).take 5
    ++ [(0x15, failIf (s.padBad r.new.prog.tickPs r.q (s.staying r ++ pl.placed)) sec)]
  let power := declaredPower r.p s.runningPlaced + (pl.placed.map (fun x => x.variant.powerFabric)).sum
  let casc := if staged then s.cascadeChecks r.new else []
  match firstRefusal (s.rotFile r staged) with
  | some x => some x
  | none => firstRefusal (place ++ s.rotContent r staged ++ [(0x41, failIf (decide ((s.reg PWR_BUDGET).toNat % 65536 < power)) sec)] ++ casc)

/-- A refused rotation: CODE 0x5, CFG_LOAD_STAT with SOURCE 3, EVENT 0x0302; the running program goes on (R272, R290, Table 18.1). -/
def State.refuseRot (s : State) (code sec : Nat) : State := (s.refuseLoad 3 code sec).setFld TOP_ROT_STAT_CODE 5

/-- Layout beds paired with their target beds. -/
def moveList (placed : List Placed) (lbs : List Nat) : List (Nat × Nat × Option Nat) :=
  lbs.filterMap (fun lb => match placed.filter (fun x => x.layoutBed == lb) with
    | a :: c :: _ => some (lb, a.phys, some c.phys)
    | [a] => some (lb, a.phys, none)
    | [] => none)

/-- A mask of physical beds. -/
def bedMask (bs : List Nat) : Nat := (bs.eraseDups.map (fun b => 2 ^ b)).sum

/-- The beds that leave at H: those of the moving layout beds, and of layout beds that the incoming phase no longer has. -/
def State.leavers (s : State) (moving : List Nat) (n : Nat) : List Nat :=
  (List.range s.prog.place.length).flatMap (fun lb => if moving.contains lb ∨ n ≤ lb then s.bedsOf lb else [])

/-- The committed corrections that an incoming variant is loaded with: those of its own phase in the image copy, and those of the running
variant where it is the same (R115, R494); none from the image before a staged one (R498). -/
def State.incoming (s : State) (r : RotFrom) (lb : Nat) (staged : Bool) : List Correction :=
  if staged then []
  else
    let same := (s.bedsOf lb).any (fun b => s.sameVariant r lb b)
    s.prog.corrections.filterMap (fun (c : Correction) =>
      if c.layoutBed = lb ∧ (c.phase = r.q.ph.id ∨ (same ∧ c.phase = r.p.ph.id)) then some { c with phase := r.q.ph.id } else none)

/-- The accepted rotation opens: its targets load (R494); a staged image takes its index now (R289, R498). -/
def State.openRot (s : State) (r : RotFrom) (staged : Bool) : State :=
  let pl := s.placeAll true r.q (s.movingBeds r)
  let moving := s.movingBeds r
  let image : Option ImageCopy :=
    if staged then some { bytes := r.new.img, digest := r.new.digest, keySlot := (s.keySlot (blockKeyHash (sigBlock r.new.img r.new.hdr))).getD 0
                          index := s.prog.nextIndex, program := r.new.prog }
    else none
  let left := s.leavers moving r.q.ph.layoutBeds
  let idx := s.prog.nextIndex
  let s := pl.placed.foldl (fun s x => s.loadTarget r.new (if staged then scratchBase else copyBase) r.q x.layoutBed (Fin.ofNat 4 x.phys) (s.incoming r x.layoutBed staged)) s
  let rot : Rotation :=
    { phase := r.q.ph.id, staged := staged, moves := moveList pl.placed moving, image := image, loaded := false, armed := none }
  let s := { s with svc := { s.svc with rot := some rot } }
  let s := (s.setFld TOP_ROT_STAT_TARGETS (bedMask (pl.placed.map Placed.phys))).setFld TOP_ROT_STAT_LEAVING (bedMask left)
  let s := (s.setFlag TOP_ROT_STAT_DEFERRED false).setFld TOP_ROT_STAT_CODE 1
  let s := s.showLoad 3 0 noSec
  if staged then ({ s with prog := { s.prog with nextIndex := idx + 1 } } : State).writePair 0x0301 s.count 0 idx r.new.digest else s

/-- A write of 0x1 to TOP_ROT_CTL.CMD (R492, R493, Table 18.1). -/
def State.loadRot (s : State) : State :=
  if s.mod.st ≠ .growing ∨ s.svc.rot.isSome then s.setFld TOP_ROT_STAT_CODE 8
  else
    let staged := s.flag TOP_ROT_CTL_SOURCE
    match s.prog.image, s.phase?, s.prog.staged with
    | some img, some p, st =>
      let bytes : Option (List Byte) := if staged then st.map Prod.fst else some img.bytes
      match bytes with
      | none => s.setFld TOP_ROT_STAT_CODE 0xA
      | some bs =>
        let cur := s.readLoad img.bytes
        let new := if staged then s.readLoad bs else cur
        let ph := s.fld TOP_ROT_CTL_PHASE
        match new.prog.phase? ph with
        | none =>
          match (if staged then firstRefusal (s.fileChecks new) else none) with
          | some x => s.refuseRot x.1 x.2
          | none => s.refuseRot 0x09 noSec
        | some q =>
          let r : RotFrom := ⟨cur, p, new, q⟩
          match s.rotChecks r staged with
          | some x => s.refuseRot x.1 x.2
          | none => s.openRot r staged
    | _, _, _ => s.setFld TOP_ROT_STAT_CODE 8

def execRotLoad (path : Path) (s : State) : Out := .next (s.via path TOP_ROT_CTL (fun s => s.loadRot))

/-- The phases and images of the open rotation. -/
def State.rotFrom (s : State) (rot : Rotation) : Option RotFrom :=
  match s.prog.image, s.phase? with
  | some img, some p =>
    let cur := s.readLoad img.bytes
    let new := match rot.image with | some i => s.readLoad i.bytes | none => cur
    (new.prog.phase? rot.phase).map (fun q => ⟨cur, p, new, q⟩)
  | _, _ => none

/-- A target bed that has lost columns while it loaded takes the variant for those left (R294). -/
def State.placeAgain (s : State) (r : RotFrom) (staged : Bool) (lb : Nat) (b : Fin 4) : State :=
  let bed : Bed := s.beds[b]
  if bed.target.any (fun v => v.u == bed.usable) then s else s.loadTarget r.new (if staged then scratchBase else copyBase) r.q lb b (s.incoming r lb staged)

/-- ROT_LOAD_COMPLETE: the loading of a bed that has lost a grain ends with the variant for its columns, or in a refusal (R294); CODE 0x2; TOP_ROT_QNEW and TOP_ROT_SNEW show the incoming Q and S (R494). -/
def State.rotLoaded (s : State) : State :=
  match s.svc.rot with
  | none => s
  | some rot =>
    if rot.loaded then s
    else match s.rotFrom rot with
      | none => s
      | some r =>
        let beds := rot.moves.flatMap (fun m => (m.2.1 :: m.2.2.toList).map (fun b => (m.1, b)))
        if beds.any (fun x => (pickVariant r.q x.1 s.beds[x.2 % 4]!.usable).isNone) then s.cancelRotation.refuseRot 0x10 (r.new.idx 2 r.q.ph.id)
        else
        let s := beds.foldl (fun s x => s.placeAgain r rot.staged x.1 (Fin.ofNat 4 x.2)) s
        let s := { s with svc := { s.svc with rot := some { rot with loaded := true } } }
        let s := (s.setReg TOP_ROT_QNEW (BitVec.ofNat 32 r.q.ph.q)).setReg TOP_ROT_SNEW (BitVec.ofNat 32 r.q.ph.s)
        s.setFld TOP_ROT_STAT_CODE 2

def execRotLoadComplete (s : State) : Out := .next (if s.mod.st.serving then s.rotLoaded else s)

/-! Arming -/

/-- The LOESS sections of the two phases differ in content on some die (R286). -/
def RotFrom.loessDiffers (r : RotFrom) (die : Nat) : Bool := r.cur.loessBytes r.p.ph.id die != r.new.loessBytes r.q.ph.id die

/-- The first checkpoint horizon at or after `h` (R264). -/
def nextCheckpoint (h : U64) : U64 := BitVec.ofNat 64 ((h.toNat + 2 ^ 24 - 1) / 2 ^ 24 * 2 ^ 24)

/-- The refusal of an arming, 3 when it is armed (Table 18.1, R497). -/
def State.armCode (s : State) (r : RotFrom) (h : U64) : Nat :=
  if !lowZero 10 h || decide (h.toNat < s.count.toNat + 1024) then 6
  else if decide (r.q.ph.a + r.q.ph.q < r.p.ph.a + r.p.ph.q) || decide (r.q.ph.a + r.q.ph.s < r.p.ph.a + r.p.ph.s) then 7
  else 3

/-- A write of TOP_ROT_HZN_HI (R495): it arms a loaded rotation, at the next checkpoint horizon where the loess sections differ. -/
def State.armRot (s : State) (v : Word) : State :=
  let s := s.setReg TOP_ROT_HZN_HI v
  let h := s.reg64 TOP_ROT_HZN_LO
  match s.svc.rot with
  | none => s
  | some rot =>
    if !rot.loaded || rot.armed.isSome then s
    else match s.rotFrom rot with
      | none => s
      | some r =>
        let code := s.armCode r h
        let s := s.setFld TOP_ROT_STAT_CODE code
        if code ≠ 3 then s
        else
          let at_ := if (r.loessDiffers 0 || r.loessDiffers 1) && !lowZero 24 h then nextCheckpoint h else h
          let s := { s with svc := { s.svc with rot := some { rot with armed := some at_ } } }
          if at_ = h then s
          else ((s.setFlag TOP_ROT_STAT_DEFERRED true).setReg64 TOP_ROT_HZN_LO at_).writeEvent 0x0306 [h.toNat, at_.toNat]

def execRotArm (path : Path) (value : Word) (s : State) : Out := .next (s.via path TOP_ROT_HZN_HI (fun s => s.armRot value))

def execRotCancel (path : Path) (s : State) : Out := .next (s.via path TOP_ROT_CTL (fun s => s.cancelRotation))

/-! The change horizon -/

/-- The change is a change of phase or of image. -/
def RotFrom.changes (r : RotFrom) : Bool := r.p.ph.id != r.q.ph.id || r.cur.img != r.new.img

/-- Where a slot of the outgoing phase goes: its new place, or none where it is dropped; a slot that no entry names stays (R287). -/
def RotFrom.moved (r : RotFrom) (place : Nat) : Option Nat :=
  if r.changes then
    match (r.reshard.getD []).find? (fun e => e.fromBed * 64 + e.fromSlot == place) with
    | some e => if 2 ≤ e.action then none else some (e.toBed * 64 + e.toSlot)
    | none => some place
  else some place

/-- The ring that carries into a ring of the incoming phase (R287). -/
def RotFrom.carriedFrom (r : RotFrom) (ring : Nat) : Option Nat :=
  if r.changes then
    ((r.reshard.getD []).find? (fun e => e.action == 0 && e.toBed * 64 + e.toSlot == ring)).map (fun e => e.fromBed * 64 + e.fromSlot)
  else some ring

/-- The rings of a die at H: carried, with the allocation units that they have, or restarted with H as their start horizon (R202, R287; log
entry 117). -/
def RotFrom.rings (r : RotFrom) (g : Engine) (die : Nat) (h : U64) : Map StreamRing :=
  (r.q.loess die).streams.foldl (fun m d =>
    let fresh : StreamRing := { decl := d, start := h, entries := [], givenUp := [], newest := 0 }
    let ring := match (r.carriedFrom d.ring).bind (mapFind g.streams) with
      | some old => { old with decl := { old.decl with ring := d.ring } }
      | none => fresh
    mapSet m d.ring ring) []

/-- The channel groups of a die at H: those of identical declaration carried, all others restarted (R287). -/
def RotFrom.chanGroups (r : RotFrom) (g : Engine) (die : Nat) (h : U64) : Map ChanGroup :=
  (r.q.loess die).groups.foldl (fun m d =>
    let fresh : ChanGroup := { decl := d, start := h, slabs := [], openBufs := [], lost := [], givenUp := [], newest := 0 }
    let grp := match mapFind g.groups d.group with
      | some old => if old.decl = d then old else fresh
      | none => fresh
    mapSet m d.group grp) []

/-- A die's engine at H: rings and groups of the incoming phase; where its loess section changes, warming starts at H as at a start
horizon, with the new W (R286, R501). -/
def State.changeEngine (s : State) (r : RotFrom) (e : Fin 2) (h : U64) : State :=
  let g : Engine := s.eng[e]
  let g := { g with streams := r.rings g e h, groups := r.chanGroups g e h }
  if r.loessDiffers e then
    let s := s.addStart e h
    let g := { g with
      prior := some (h, g.start, g.warmW), start := some h, warmW := r.q.ph.w, warming := false, warmed := false
      recur := ⟨h.toNat, h.toNat, []⟩, former := g.recur, filled := [], pkgs := g.pkgs.filter (fun (k : Package) => decide (k.hzn.toNat < h.toNat)) }
    s.setEng e g
  else s.setEng e g

/-- Bindings follow their slots; a sender whose slot is dropped becomes unbound (R287). -/
def RotFrom.bindings (r : RotFrom) (m : Map Binding) : Map Binding :=
  m.filterMap (fun e =>
    if e.2.frames then
      match r.moved e.2.place with
      | some place => some (e.1, { e.2 with target := (e.2.target &&& 0xFFFFFF00) ||| BitVec.ofNat 32 (place % 256) })
      | none => if e.2.summaries then some (e.1, { e.2 with target := e.2.target &&& 0xFFFF4000 }) else none
    else some e)

/-- Frames of tick H and later that already wait follow their sender's slot (R287, R496). -/
def RotFrom.arrivals (r : RotFrom) (h : U64) (as_ : List Arrived) : List Arrived :=
  as_.filterMap (fun a =>
    if a.hzn.toNat < h.toNat then some a
    else (r.moved (a.layoutBed * 64 + a.slot)).map (fun place => { a with layoutBed := place / 64, slot := place % 64 }))

/-- The payloads that the absent and corrupt policies repeat follow their slots too. -/
def RotFrom.lastPayloads (r : RotFrom) (m : Map (List Byte)) : Map (List Byte) :=
  m.foldl (fun acc x => match r.moved x.1 with
    | some place => mapSet acc place x.2
    | none => acc) []

/-- The corrections that stand in the image copy for the incoming phase (R115, R498). -/
def State.keptCorrections (s : State) (r : RotFrom) (staged : Bool) : List Correction :=
  if staged then []
  else s.prog.corrections.filter (fun (c : Correction) => c.phase != r.q.ph.id) ++
    (List.range r.q.ph.layoutBeds).flatMap (fun lb => s.incoming r lb false)

/-- The placement after H: moved layout beds on their targets, the others where they were. -/
def State.newPlace (s : State) (r : RotFrom) (rot : Rotation) : List (Nat × Option Nat) :=
  (List.range r.q.ph.layoutBeds).filterMap (fun lb =>
    match rot.moves.find? (fun m => m.1 == lb) with
    | some m => some m.2
    | none => s.prog.place[lb]?)

/-- ROT_CHANGE_HORIZON at H (R496): open runs close, armed corrections of moving beds are cancelled, rings are re-sharded, frames enter the
target beds under the new phase, the registers of Table 8.10 are written. -/
def State.changePhase (s : State) (rot : Rotation) (r : RotFrom) (h : U64) : State :=
  let left := s.leavers (rot.moves.map (fun m => m.1)) r.q.ph.layoutBeds
  let targets := rot.moves.flatMap (fun m => m.2.1 :: m.2.2.toList)
  let staying := s.staying r
  let corr := s.keptCorrections r rot.staged
  let place := s.newPlace r rot
  let s := ((s.flushLate 0).flushLate 1).closeRuns
  let s := left.foldl (fun s b => s.corrDrop (Fin.ofNat 4 b)) s
  let prog := s.prog.keepPast h
  let former := (h, s.stm.active) :: s.stm.former.take 7
  let s := { s with
    prog := { prog with phase := r.q.ph.id, place := place, corrections := corr }
    stm := if r.changes then { s.stm with former := former, active := r.bindings s.stm.active } else s.stm
    fast := if r.changes then { s.fast with arrived := r.arrivals h s.fast.arrived, last := r.lastPayloads s.fast.last } else s.fast }
  let s := match rot.image with
    | some img => { s with
        prog := { s.prog with image := some img, staged := none, copying := true, oldDigest := s.mod.copyDigest }
        mod := { s.mod with copyDigest := img.digest }
        svc := { s.svc with jobs := s.svc.jobs ++ blockJobs 0 5 (blocksOf copyBase img.bytes.length) s.tim.c } }
    | none => s
  let s := (s.changeEngine r 0 h).changeEngine r 1 h
  let s := left.foldl (fun s b => s.setBed (Fin.ofNat 4 b) { s.beds[Fin.ofNat 4 b] with leaving := true }) s
  let s := targets.foldl (fun s b => s.enterTarget r.new r.q (Fin.ofNat 4 b)) s
  let s := staying.foldl (fun s pl => s.writeBedRegs r.q.ph pl) s
  let s := s.writePhaseRegs r.new.prog.tickPs r.q
  let s := if rot.staged then s.showRole r.new.prog else s
  let s := { s with svc := { s.svc with rot := none } }
  let s := (s.setFld TOP_ROT_STAT_TARGETS 0).setFld TOP_ROT_STAT_CODE 4
  (s.writeEventAt 0x0303 h 0 ([r.p.ph.id, r.q.ph.id] ++ targets)).driveHold

def execRotChangeHorizon (s : State) : Out :=
  .next (match s.svc.rot with
    | some rot => match rot.armed, s.rotFrom rot with
      | some h, some r => if s.mod.st = .growing ∧ s.count = h ∧ s.atBoundary then s.changePhase rot r h else s
      | _, _ => s
    | none => s)

/-- A frame of the bed has not reached its verdict register, or waits to enter it. -/
def State.bedBusy (s : State) (b : Fin 4) : Bool :=
  s.fast.frames.any (fun (f : Frame) => !f.exited && f.copies.any (fun (c : BedCopy) => c.bed == b.val))
    || s.fast.arrived.any (fun (a : Arrived) => ((s.progAt a.hzn.toNat).beds a.layoutBed).contains b)

/-- OLD_BED_IDLE: the last frame's verdict register time has passed; the bed is idle (R496, R500). -/
def State.oldIdle (s : State) (b : Fin 4) : State :=
  let bed : Bed := s.beds[b]
  if bed.leaving && !s.bedBusy b then (s.clearBed b).setFlag ⟨TOP_ROT_STAT, 20 + b.val, 1⟩ false else s

def execOldBedIdle (bed : Fin 4) (s : State) : Out := .next (if s.mod.st.serving then s.oldIdle bed else s)

/-- STAGED_IMAGE_COPY_DONE: the image copy region holds the image in force; its digest is the one that bedrock keeps (R498). -/
def State.stagedCopied (s : State) : State := { s with prog := { s.prog with copying := false, oldDigest := [] } }

def execStagedImageCopyDone (s : State) : Out :=
  .next (if s.prog.copying && s.mod.st.serving then s.stagedCopied else s)

/-! Link microcode -/

/-- LINK of a port (R502, Table 13.5); none beyond port 18. -/
def ucLink (port : Nat) : Option Nat :=
  if port < 12 then some 0 else if port < 14 then some 1 else if port < 18 then some 2 else if port = 18 then some 3 else none

/-- The port that TOP_UC_CTL.PORT names. -/
def State.ucPort (s : State) : Nat := s.fld TOP_UC_CTL_PORT

/-- Bytes of the microcode buffer (R502). -/
def State.ucBytes (s : State) (off n : Nat) : List Byte := bytesAt zeroByte s.svc.ucBuf off n

/-- Verification of the package in the buffer for a port, in code order (Table 18.3); 1 when it loads. -/
def State.ucCode (s : State) (port : Nat) : Nat :=
  let head := s.ucBytes 0 64
  let n := leAt head 12 4
  if head.take 8 ≠ asciiBytes "CHT7UCOD" ∨ 128 * 1024 < 64 + n + 1280 then 4
  else
    let blk := s.ucBytes (64 + n) 1280
    let digest := sha512 (s.ucBytes 0 (64 + n))
    if blk.take 8 ≠ asciiBytes "XGFWSIGN" ∨ digest ≠ slice blk 528 64 ∨ !blockVerifies blk digest ∨ !s.xogrimKey (blockKeyHash blk) then 5
    else
      let running := (s.svc.uc.toList.getD port ⟨0, none⟩).running
      if ucLink port ≠ some (leAt head 10 1) ∨ leAt head 8 2 / 256 ≠ running / 256 then 6
      else if s.svc.ucArmed.any (fun a => a.1 == port) then 7
      else 1

/-- Replace the banks of a port. -/
def State.setUcPort (s : State) (port : Nat) (u : UcPort) : State :=
  { s with svc := { s.svc with uc := Vector.ofFn (fun (i : Fin 19) => if i.val = port then u else s.svc.uc[i]) } }

/-- CMD 0x1: verify the package and load it into the standby bank (R502). -/
def State.ucVerifies (s : State) : State :=
  let port := s.ucPort
  let code := s.ucCode port
  let s := s.setFld TOP_UC_STAT_CODE code
  if code = 1 then
    s.setUcPort port { (s.svc.uc.toList.getD port ⟨0, none⟩) with standby := some (leAt (s.ucBytes 0 64) 8 2) }
  else s

def execUcVerify (path : Path) (s : State) : Out := .next (s.via path TOP_UC_CTL (fun s => s.ucVerifies))

/-- The first horizon boundary at least 1,024 ticks from count `c` (R503). -/
def boundaryAfter (c : U64) : U64 := BitVec.ofNat 64 ((c.toNat + 1024 + 1023) / 1024 * 1024)

/-- CMD 0x2: arm the swap of the port's standby bank (R502, R503). -/
def State.ucArms (s : State) : State :=
  let port := s.ucPort
  if s.svc.ucArmed.isSome then s.setFld TOP_UC_STAT_CODE 7
  else if ((s.svc.uc.toList.getD port ⟨0, none⟩).standby).isSome then
    ({ s with svc := { s.svc with ucArmed := some (port, boundaryAfter s.count) } } : State).setFld TOP_UC_STAT_CODE 2
  else s

def execUcArm (path : Path) (s : State) : Out := .next (s.via path TOP_UC_CTL (fun s => s.ucArms))

/-- CMD 0x3: cancel the armed swap (Table 18.3). -/
def State.ucCancels (s : State) : State :=
  if s.svc.ucArmed.isSome then ({ s with svc := { s.svc with ucArmed := none } } : State).setFld TOP_UC_STAT_CODE 8 else s

def execUcCancel (path : Path) (s : State) : Out := .next (s.via path TOP_UC_CTL (fun s => s.ucCancels))

/-- UC_SWAP: the banks of the port trade places (R503). -/
def State.ucSwaps (s : State) (port : Nat) : State :=
  let u := s.svc.uc.toList.getD port ⟨0, none⟩
  match u.standby with
  | none => s
  | some v =>
    let s := s.setUcPort port ⟨v, some u.running⟩
    ({ s with svc := { s.svc with ucArmed := none } } : State).setFld TOP_UC_STAT_CODE 3

def execUcSwap (s : State) : Out :=
  .next (match s.svc.ucArmed with
    | some (port, h) => if s.mod.st.serving ∧ h.toNat ≤ s.count.toNat then s.ucSwaps port else s
    | none => s)

end Sys2Proof.Machine
end

