-- ==== Sys2Proof/Machine/View.lean ====
section
/-!
DEFINITION. What a read of a register returns (Table 0.4): the value held, or the live value of what it shows; the latches of the values
wider than 32 bits (R535); the windows (Table 20.2).
-/
namespace Sys2Proof.Machine

/-! Live values -/

/-- TOP_ID (Table 20.6). -/
def State.topId (s : State) : Nat := 0xC7070001 + (if s.isB then 0xB000 else 0xA000) + (if s.isS2 then 0x200 else 0x100)

/-- TOP_STAT (Table 20.8). -/
def State.topStat (s : State) : Nat :=
  s.mod.draining.toNat * 4096 + s.firmLock.toNat * 2048 + s.mod.loose.toNat * 1024 + (s.dec.lines[0] || s.dec.lines[1]).toNat * 512
    + (s.flag FLT_STAT_DEGRADED).toNat * 256 + s.mod.st.code

/-- The slots of a physical bed's layout bed that the active table binds (Table 3.13). -/
def State.boundSlots (s : State) (b : Fin 4) : Nat :=
  if s.isPlaced b then
    ((List.range 64).map (fun i => if s.stm.active.any (fun x => x.2.frames && x.2.place == ringKey (s.beds[b] : Bed).layoutBed i) then 2 ^ i else 0)).sum
  else 0

/-- BED_CAP (Table 3.16). -/
def Bed.capWord (b : Bed) : Nat := b.usable * 65536 + b.sparesLeft * 256 + 0x11

/-- GRN_ROUTE of the selected grain, slot and port: SOURCE, tap minus one, LEDGER (Table 3.18). -/
def State.grnRoute (s : State) : Nat :=
  let i := (s.reg GRN_ROUTE_IDX).toNat
  match s.selGrain with
  | none => 0
  | some (b, g) =>
    match (s.beds[b]! : Bed).routes.find? (fun r => r.grain == g && r.slot == i % 64 && r.port == i / 64 % 4) with
    | some r => r.source * 8192 + (r.tap - 1) % 32 * 256 + r.ledger.toNat
    | none => 0

/-- What LSS_RING_SEL selects: depth, valid entries, first unit, units, start horizon (Table 6.10). -/
structure RingView where
  depth : Nat
  valid : Nat
  base : Nat
  units : Nat
  start : Nat
deriving DecidableEq, Repr

/-- The ring that LSS_RING_SEL of an engine selects; one that is not allocated reads zero (Table 6.11). -/
def State.ringView (s : State) (e : Fin 2) : RingView :=
  let g : Engine := s.eng[e]
  let n := s.fld (LSS_RING_SEL_NUMBER.on (lssOff e))
  if s.flag (LSS_RING_SEL_STREAM.on (lssOff e)) then
    match (if n < 128 then s.layoutRing e n else none).bind (mapFind g.streams) with
    | some r => ⟨r.decl.depth, min r.decl.depth (r.entries.filter (fun x => (r.entry? x.1).isSome)).length, r.decl.base, streamUnits r.decl, r.start.toNat⟩
    | none => ⟨0, 0, 0, 0, 0⟩
  else
    match mapFind g.groups n with
    | some r => ⟨r.decl.depth, min r.decl.depth (r.slabs.filter (fun x => (r.slab? x.1).isSome)).length, r.decl.base, groupUnits r.decl, r.start.toNat⟩
    | none => ⟨0, 0, 0, 0, 0⟩

/-- The quarantine entry at STM_QUAR_IDX (R419). -/
def State.quarAt (s : State) : Option Quar := mapFind s.stm.quar ((s.reg STM_QUAR_IDX).toNat % 256)

/-- STM_QUAR_INFO (Table 14.6). -/
def Quar.info (q : Quar) : Nat := min q.items 0xFFFF * 65536 + q.sumSeen.toNat * 512 + q.frameSeen.toNat * 256 + q.lane

/-- The sender that the active table binds to the selected slot, 0 when none (Table 14.6). -/
def State.slotSender (s : State) : Nat :=
  let k := (s.reg STM_SLOT_SEL).toNat % 256
  match s.stm.active.find? (fun x => x.2.frames && x.2.place == k) with
  | some x => x.2.sender.toNat
  | none => 0

/-- FLT_DIV_CNT: unexplained divergences of the current window of each pair (R357, Table 11.8). -/
def State.divCnt (s : State) : Nat :=
  let win := (s.reg FLT_DIV_WINDOW).toNat * 1024
  let one := fun (p : Fin 2) =>
    match (s.flt.divStart[p] : Option U64) with
    | some h => if h.toNat + win ≤ s.count.toNat then 0 else min 255 (s.flt.divCount[p] : Nat)
    | none => 0
  one 1 * 256 + one 0

/-- State of the selected clock domain while the module answers (Table 19.5, R525): an absent bed's domain is off, beds and loess engines
are gated after a trip. -/
def State.domainState (s : State) : Nat :=
  let n := (s.reg CLK_SEL).toNat % 64
  if n = 6 ∧ !s.bedPresent 3 then 0 else if 3 ≤ n ∧ n ≤ 8 ∧ s.mod.tripGated then 2 else 1

/-- The hottest of some sensors, 1/16 °C. -/
def hottest (ts : List Int) : Int := ts.foldl max (ts.headD 0)

/-- A 4 KiB count, rounded up (Table 10.10). -/
def tailUnits (n : Nat) : Nat := (n + 4095) / 4096

/-- First unacknowledged SEQ of the host link (Table 16.8). -/
def Hst.firstUnacked (h : Hst) : Nat := (h.unacked.head?.map HostCell.seq).getD h.txSeq

/-- The low or high half of a 64-bit value. -/
def half (hi : Bool) (v : Nat) : Word := BitVec.ofNat 32 (if hi then v / 2 ^ 32 else v)

/-- A live value that the read of a register returns instead of what is stored: TOP, HZN, BED and GRN. `a` is the address of instance
0, `b` the bed. -/
def State.liveLow (s : State) (b : Fin 4) (a : Nat) : Option Word :=
  let w := fun (n : Nat) => some (BitVec.ofNat 32 n)
  let bed : Bed := s.beds[b]
  let uc := s.fld TOP_UC_CTL_PORT
  if a = TOP_ID then w s.topId
  else if a = TOP_CAP then w (if s.isB then 0x00403037 else 0x0040303F)
  else if a = TOP_CTL then w (if s.firmLock then 0 else (s.flag TOP_CTL_LOOSE).toNat)
  else if a = TOP_STAT then w s.topStat
  else if a = TOP_UC_VER then
    match s.svc.uc.toList[uc]? with
    | some p => w (p.standby.getD 0 * 65536 + p.running)
    | none => w 0
  else if a = HZN_COUNT_LO then some (half false s.count.toNat)
  else if a = HZN_COUNT_HI then some (half true s.count.toNat)
  else if a = BED_CAP then w bed.capWord
  else if a = BED_COLMAP then w bed.colmap
  else if a = BED_TSIG0 then w (if s.isS2 then 0x05020302 else 0x06030302)
  else if a = BED_SLOTS_LO then some (half false (s.boundSlots b))
  else if a = BED_SLOTS_HI then some (half true (s.boundSlots b))
  else if a = GRN_STAT then some ((s.reg GRN_STAT) ||| (if s.selGrain.isNone then 2 else 0))
  else if a = GRN_ROUTE then w s.grnRoute
  else none

/-- Settled queries of an engine in flight now (R254, LSS_INFLIGHT). -/
def State.inflightNow (s : State) (e : Fin 2) : Nat :=
  match s.phase? with | some p => (s.eng[e] : Engine).inflight (s.count.toNat + 1) (setTicks p.ph s.tickPs) | none => 0

/-- Live values of the loess, auger, fault, start-up and trust registers; `e` is the engine. -/
def State.liveMid (s : State) (e : Fin 2) (a : Nat) : Option Word :=
  let w := fun (n : Nat) => some (BitVec.ofNat 32 n)
  if a = LSS_LAG_USED then some (s.reg ((if s.mod.loose then LSS_LAG_USED else LSS_LAG) + lssOff e))
  else if a = LSS_INFLIGHT then w (s.inflightNow e)
  else if a = LSS_INFLIGHT_MAX then w (max (s.reg (LSS_INFLIGHT_MAX + lssOff e)).toNat (s.inflightNow e))
  else if a = LSS_BUCKET then w (s.bucketNow e)
  else if a = LSS_SILT_SPARE then w (s.siltSparesLeft e ((s.reg (LSS_SILT_SEL + lssOff e)).toNat % 256))
  else if a = LSS_RING_DEPTH then w (s.ringView e).depth
  else if a = LSS_RING_VALID then w (s.ringView e).valid
  else if a = LSS_RING_BASE then w (s.ringView e).base
  else if a = LSS_RING_UNITS then w (s.ringView e).units
  else if a = LSS_RING_START_LO then some (half false (s.ringView e).start)
  else if a = LSS_RING_START_HI then some (half true (s.ringView e).start)
  else if a = AUG_SEQ_LO then some (half false s.aug.nextSeq.toNat)
  else if a = AUG_SEQ_HI then some (half true s.aug.nextSeq.toNat)
  else if a = AUG_ACK_LO then some (half false s.aug.ack.toNat)
  else if a = AUG_ACK_HI then some (half true s.aug.ack.toNat)
  else if a = AUG_MIRR_LO then some (half false s.aug.assigned.toNat)
  else if a = AUG_MIRR_HI then some (half true s.aug.assigned.toNat)
  else if a = AUG_SEAL_LO then some (half false s.aug.sealNo.toNat)
  else if a = AUG_SEAL_HI then some (half true s.aug.sealNo.toNat)
  else if a = AUG_TAIL_USED then w (tailUnits s.aug.used)
  else if a = AUG_TAIL_RSV then w (tailUnits s.tailReserve)
  else if a = FLT_DIV_CNT then w s.divCnt
  else if a = CFG_GEN_STAT then w s.genStat
  else if a = CFG_FW_VER then w (s.fwMin * 65536 + (s.reg CFG_FW_VER).toNat % 65536)
  else if a = CFG_SERIAL_LO then some (half false s.serial)
  else if a = CFG_SERIAL_HI then some (half true s.serial)
  else if a = SEC_LOCK then w (s.debugLock.toNat * 2 + s.firmLock.toNat)
  else if a = SEC_SLOTS then some ((s.reg SEC_SLOTS &&& 0x300) ||| BitVec.ofNat 32 s.slotStat)
  else if a = SEC_KEYID_LO then w (beNat (slice s.keyId 0 4))
  else if a = SEC_KEYID_HI then w (beNat (slice s.keyId 4 4))
  else none

/-- Live values of the link, host, time and power registers; `l` is the lane, `d` the time domain. -/
def State.liveHigh (s : State) (l : Nat) (d : Fin 2) (a : Nat) : Option Word :=
  let w := fun (n : Nat) => some (BitVec.ofNat 32 n)
  let h := s.hst
  let t := s.recordNs
  let o : BitVec 96 := s.tim.off[d]
  if a = LNK_ID then w (laneLink l * 256 + laneNumber l)
  else if a = STM_QUAR_SENDER then w ((s.quarAt.map (fun q => q.sender.toNat)).getD 0)
  else if a = STM_QUAR_INFO then w ((s.quarAt.map Quar.info).getD 0)
  else if a = STM_QUAR_FIRST_LO then some (half false ((s.quarAt.map (fun q => q.first.toNat)).getD 0))
  else if a = STM_QUAR_FIRST_HI then some (half true ((s.quarAt.map (fun q => q.first.toNat)).getD 0))
  else if a = STM_QUAR_USED then w s.stm.quar.length
  else if a = STM_SLOT_SENDER then w s.slotSender
  else if a = DEC_HOLD_CAUSE then w s.holdCause
  else if a = HST_TX_SEQ then w (h.firstUnacked * 65536 + h.txSeq)
  else if a = HST_RX_SEQ then w h.rxSeq
  else if a = HST_CREDIT0 then w (h.credRec % 65536 * 65536 + h.credRsp % 65536)
  else if a = HST_CREDIT1 then w (h.credReq % 65536 * 65536 + h.credBulk % 65536)
  else if a = HST_LAST_TAG then w h.lastTag
  else if a = TIM_CNT_LO then some (half false s.tim.c.toNat)
  else if a = TIM_CNT_HI then some (half true s.tim.c.toNat)
  else if a = TIM_NOW_LO then some (half false t.toNat)
  else if a = TIM_NOW_HI then some (half true t.toNat)
  else if a = TIM_NOW_FRAC then some ((s.domainTime s.selected).truncate 32)
  else if a = TIM_STAT then some ((s.reg TIM_STAT &&& ~~~4) ||| (if s.parallel then 4 else 0))
  else if a = TIM_D_OFF0 then some (o.truncate 32)
  else if a = TIM_D_OFF1 then some ((o >>> 32).truncate 32)
  else if a = TIM_D_OFF2 then some ((o >>> 64).truncate 32)
  else if a = PWR_IDLE_COUNT then w (if s.idleHeld then 0 else s.mod.idle)
  else if a = CLK_STAT then some (putBits (s.reg CLK_STAT) 24 4 s.domainState)
  else if a = THM_TEMP then w (toBits 16 (s.pwr.temps.toList.getD ((s.reg THM_SEL).toNat % 32) 0))
  else if a = THM_MAX then
    w (toBits 16 (hottest (s.pwr.temps.toList.drop 16)) * 65536 + toBits 16 (hottest (s.pwr.temps.toList.take 16)))
  else none

/-! The value of a read -/

/-- Engine, lane and time domain of a register address (Table 20.1). -/
def engineOf (a : Nat) : Fin 2 := Fin.ofNat 2 (a / 0x8000 % 2)
def laneOf (a : Nat) : Nat := a % 0x10000 / 0x100
def domainOf (a : Nat) : Fin 2 := if 0xE0200 ≤ a ∧ a < 0xE0300 then 1 else 0

/-- Where the value of a register is kept: LSS_BLOCK_MAX of the class that LSS_BLOCK_SEL selects, the slot counters of the slot that
STM_SLOT_SEL selects (Tables 6.10 and 14.6). -/
def State.place (s : State) (a : Nat) : Nat :=
  let c := regCanon a
  if c = LSS_BLOCK_MAX then a + 0x1000000 * ((s.reg (LSS_BLOCK_SEL + lssOff (engineOf a))).toNat % 8 + 1)
  else if STM_SLOT_OK_CNT ≤ c ∧ c ≤ STM_SLOT_DUP_CNT then slotCounter c ((s.reg STM_SLOT_SEL).toNat % 256)
  else a

/-- The value that a register shows now (Table 0.4): WO fields read zero, for they are never stored. -/
def State.shown (s : State) (a : Nat) : Word :=
  match rowOf a with
  | none => 0
  | some _ =>
    let c := regCanon a
    match ((s.liveLow (bedOf a) c).or (s.liveMid (engineOf a) c)).or (s.liveHigh (laneOf a) (domainOf a) c) with
    | some v => v
    | none => s.reg (s.place a)

/-! Latches -/

/-- The leading registers, at instance 0: a read latches the register that follows (R11, R535). -/
def leaders : List Nat :=
  [HZN_COUNT_LO, BED_SLOTS_LO, BED_FRAMES_LO, LSS_SPILL_LO, LSS_RING_START_LO, LSS_WARM_END_LO, LSS_CKPT_LO, LSS_MIRROR_LO, RNG_LCK_DIV_LO,
   RNG_LCK_SNAP_LO, RNG_LCK_WIN_LO, AUG_SEQ_LO, AUG_ACK_LO, AUG_MIRR_LO, AUG_SEAL_LO, FLT_HZN_LO, CFG_SERIAL_LO, SEC_KEYID_LO] ++
  [LNK_BLOCKS_LO, LNK_EYE_BITS_LO, STM_QUAR_FIRST_LO, STM_VERBAD_LO, STM_LANE_RET_LO, DEC_QUICK_LO, DEC_SETTLED_LO, RNG_REACH_LO,
   RNG_TAKEOVER_LO, HST_BULK_LO, TIM_CNT_LO, TIM_PPS_LO, TIM_D_MASTER_LO]

/-- The registers that a read of `a` latches. -/
def followers (a : Nat) : List Nat :=
  let c := regCanon a
  if c = TIM_NOW_LO ∨ c = TIM_D_OFF0 then [a + 4, a + 8] else if leaders.contains c then [a + 4] else []

/-- Key of a path's latch of a register. -/
def latchKey (p : Path) (a : Nat) : Nat := pathCode p * 0x1000000 + a

/-- Load a path's latches with the other registers of the group of `a` (R535). -/
def State.latch (s : State) (p : Path) (a : Nat) : State :=
  { s with latches := (followers a).foldl (fun m f => mapSet m (latchKey p f) (s.shown f)) s.latches }

/-- Clear what a read clears (Table 0.4 RC). The most queries in flight since a read are at least those in flight at it (Table 7.9). -/
def State.readClears (s : State) (a : Nat) : State :=
  if regCanon a = LSS_INFLIGHT_MAX then s.setReg a (BitVec.ofNat 32 (s.inflightNow (engineOf a))) else
  match rowOf a with
  | some r => if r.rc = 0 then s else s.setReg (s.place a) (s.reg (s.place a) &&& ~~~r.rc)
  | none => s

/-- Read a register on a path (R534, R535). The measured clock of a domain is open (Table 19.9, CLK_FREQ). -/
def State.readReg (s : State) (p : Path) (a : Nat) : Word × State :=
  match mapFind s.latches (latchKey p a) with
  | some v => (v, s)
  | none =>
    if a = CLK_FREQ then
      let d := s.drawNat
      (BitVec.ofNat 32 (d.1 % 2 ^ 24), d.2)
    else (s.shown a, (s.latch p a).readClears a)

/-! Windows -/

/-- Read a 32-bit word of bytes. -/
def wordAt (m : Map Byte) (a : Nat) : Word := BitVec.ofNat 32 (leNat (bytesAt zeroByte m a 4))

/-- A word of which every byte that `known` lacks is free. -/
def State.readOpen (s : State) (known : Nat → Option Byte) (a : Nat) : Word × State :=
  let d := s.drawBytes 4
  let bs := (List.range 4).map (fun i => (known (a + i)).getD (d.1.getD i 0))
  (BitVec.ofNat 32 (leNat bs), d.2)

/-- A region holds a bank byte, keyed as the banks. -/
def Region.holds (r : Region) (k : Nat) : Bool :=
  r.grain == k / 16384 && decide (r.off ≤ k % 16384 ∧ k % 16384 < r.off + r.size)

/-- A byte of a grain bank, where the model knows it (R81, R86, R128): what was loaded, corrected or written through the window; what frames
have left in a staging region is open. -/
def Bed.bankByte (b : Bed) (k : Nat) : Option Byte :=
  match mapFind b.fresh k with
  | some v => some v
  | none => if b.dirty.any (fun r => r.holds k) then none else some (mapGet zeroByte b.banks k)

/-- A read in the windows of the GRN block (R128). An absent grain reads zero. -/
def State.readGrain (s : State) (a : Nat) : Word × State :=
  match s.selGrain with
  | none => (0, s)
  | some (b, g) =>
    let bed : Bed := s.beds[b]!
    if a < 0x104000 then s.readOpen bed.bankByte (g * 16384 + (a - 0x100000)) else (wordAt bed.corrBytes (g * 256 + (a - 0x104000)), s)

/-- A read in an engine's silt window (R229, Table 20.2): what the window has written, the zeros of a cleared bank; what the engine has left
there is open. -/
def State.readSilt (s : State) (e : Fin 2) (off : Nat) : Word × State :=
  let g : Engine := s.eng[e]
  let k := (s.reg (LSS_SILT_SEL + lssOff e)).toNat % 256 * 524288 + off
  s.readOpen (fun i => match mapFind g.silt i with | some v => some v | none => if g.siltCleared then some 0 else none) k

/-- A read in the window of the record tail (Table 20.2): the firmware reads the region on the west die in class 6 (R343). Where a record
stands in it is open, so what the window shows is. -/
def State.readTail (s : State) (off : Nat) : Word × State :=
  let at' := copyBase + (s.reg AUG_WIN_BASE).toNat * 65536 + off
  let s := { s with svc := { s.svc with jobs := s.svc.jobs ++ blockJobs 1 6 (blocksOf at' 4) s.tim.c } }
  s.readOpen (fun _ => none) at'

/-- Read a window address (R529, Table 20.2). -/
def State.readWindow (s : State) (a : Nat) : Word × State :=
  if 0x100000 ≤ a ∧ a < 0x104100 then s.readGrain a
  else if 0x200000 ≤ a ∧ a < 0x300000 then s.readSilt (if a < 0x280000 then 0 else 1) (a % 0x80000)
  else if 0x300000 ≤ a ∧ a < 0x310000 then s.readTail (a - 0x300000)
  else if 0x310000 ≤ a ∧ a < 0x312800 then (wordAt s.sec.shadow (a - 0x310000), s)
  else if 0x314000 ≤ a ∧ a < 0x314600 then (wordAt s.sec.order (a - 0x314000), s)
  else if 0x314800 ≤ a ∧ a < 0x314C00 then (wordAt s.sec.stmt (a - 0x314800), s)
  else if 0x320000 ≤ a ∧ a < 0x340000 then (wordAt s.svc.ucBuf (a - 0x320000), s)
  else (0, s)

/-- A read that is not refused. -/
def State.readAt (s : State) (p : Path) (a : Nat) : Word × State :=
  if s.absentBlock a then (0, s) else if a < 0x100000 then s.readReg p a else s.readWindow a

/-- Why an access is refused, 0 when it completes: REASON of Table 20.9 (R531, R540). -/
def State.refusal (s : State) (a : Nat) : Nat :=
  if a % 4 ≠ 0 ∨ 0xFFFFFF < a then 3 else if !s.absentBlock a && !s.blockAnswers a then 1 else 0

/-- Any access of a path: JTAG access is use of a private instruction (R371); the idle timer and an entry to Fallow see it (R32, R508). -/
def State.arrives (s : State) (p : Path) : State := (s.pathUsed p).accessSeen

/-- A path receives the word of a read. -/
def State.answer (s : State) (p : Path) (v : Word) : State := { s with answers := s.answers.set (pathIx p) v }

/-- A silt window. -/
def siltWindow (a : Nat) : Bool := decide (0x200000 ≤ a ∧ a < 0x300000)

/-- An access of the management port or of JTAG waits: it reaches a silt bank whose clear has not completed, or the path has one that waits
(R225, R228; Table 20.2; of a write DEDUCED, log entry 120). -/
def State.siltHolds (s : State) (p : Path) (a : Nat) : Bool :=
  p != .host && !s.mod.dramDone && ((siltWindow a && s.refusal a == 0) || s.svc.siltWaits.any (fun w => w.1 == p))

/-- An access waits until the silt banks are cleared. -/
def State.waitForSilt (s : State) (p : Path) (a : Nat) (v : Option Word) : State :=
  { s with svc := { s.svc with siltWaits := s.svc.siltWaits ++ [(p, a, v)] } }

/-- A read access as it is performed: the REASON of its refusal or 0, the word, and the state after it. A refused read returns zero (R531,
R540). -/
def State.readNow (s : State) (p : Path) (a : Nat) : Nat × Word × State :=
  let r := s.refusal a
  let x := if r = 0 then s.readAt p a else (0, s.refuseAccess p a r)
  (r, x.1, x.2.answer p x.1)

/-- A read access: performed, or held (R228). -/
def State.readAccess (s : State) (p : Path) (a : Nat) : Nat × Word × State :=
  let s := s.arrives p
  if s.siltHolds p a then (0, 0, s.waitForSilt p a none) else s.readNow p a

end Sys2Proof.Machine
end

