-- ==== Sys2Proof/Machine/RegWrite.lean ====
section
/-!
DEFINITION. What a write of a register does (R533, R536 to R538): its fields under their access codes (Table 0.4), then the actions of its WO
fields and of the writable pairs (Table 20.3); writes to the windows (Table 20.2).
-/
namespace Sys2Proof.Machine

/-- Store the bits `mask` of a write and leave the others. -/
def State.storeBits (s : State) (a : Nat) (mask v : Word) : State := s.setReg a ((s.reg a &&& ~~~mask) ||| (v &&& mask))

/-- Store a write's fields: a 1 clears a W1C bit, RW bits take the value, every other bit is left (Table 0.4, R537). -/
def State.storeFields (s : State) (a : Nat) (r : RegRow) (v : Word) : State :=
  (s.setReg a (s.reg a &&& ~~~(v &&& r.w1c))).storeBits a r.rw v

/-- Run an action when a bit of a write is 1. -/
def State.onBit (s : State) (v : Word) (i : Nat) (f : State → State) : State := if v.getLsbD i then f s else s

/-! Registers with rules of their own -/

/-- TOP_CTL (Table 20.8). -/
def State.writeTopCtl (s : State) (v : Word) : State := (s.requestLoose (v.getLsbD 0)).onBit v 8 (fun s => s.requestReset)

/-- TOP_ROT_CTL: PHASE, MOVE and SOURCE are stored, then CMD acts (Table 18.5). -/
def State.writeRotCtl (s : State) (v : Word) : State :=
  let s := s.storeBits TOP_ROT_CTL 0x000F0F40 v
  match v.toNat % 16 with
  | 1 => s.loadRot
  | 2 => s.cancelRotation
  | _ => s

/-- TOP_UC_CTL: PORT is stored, then CMD acts (Table 18.5). -/
def State.writeUcCtl (s : State) (v : Word) : State :=
  let s := s.storeBits TOP_UC_CTL 0x1F00 v
  match v.toNat % 16 with
  | 1 => s.ucVerifies
  | 2 => s.ucArms
  | 3 => s.ucCancels
  | _ => s

/-- HZN_CTL: SRC, SYNC_ADJ and TICK_DIV are ignored in Growing, and so are the codes 0b10 and 0b11 of SRC (Tables 2.8 and 2.6). -/
def State.writeHznCtl (s : State) (v : Word) : State :=
  let s := s.storeBits HZN_CTL 0x10 v
  let s := if s.mod.st = .growing then s
    else
      let s := s.storeBits HZN_CTL 0x0FFFF000 v
      if v.toNat % 4 < 2 then s.storeBits HZN_CTL 0x3 v else s
  s.onBit v 8 (fun s => s.armPreset)

/-- HZN_STAT: SLIP is not cleared in Growing (R50), and a write of 1 clears it elsewhere, as its W1C access says (Table 2.9; DEDUCED, log
entry 105); clearing LREF clears its code. -/
def State.writeHznStat (s : State) (v : Word) : State :=
  let m : Word := if s.mod.st = .growing then 0x600 else 0x700
  let s := s.setReg HZN_STAT (s.reg HZN_STAT &&& ~~~(v &&& m))
  s.onBit v 10 (fun s => s.setFld HZN_STAT_LREF_CODE 0)

/-- BED_CTL (Table 3.14). -/
def State.writeBedCtl (s : State) (b : Fin 4) (v : Word) : State :=
  ((s.releaseWrite b (v.getLsbD 2)).onBit v 1 (fun s => s.corrDrop b)).onBit v 0 (fun s => s.startBedTest b)

/-- GRN_CMD: 0x1 to 0x3 start a command (Table 3.17). -/
def State.writeGrnCmd (s : State) (v : Word) : State :=
  let c := v.toNat % 16
  if 1 ≤ c ∧ c ≤ 3 then s.grnStart c else s

/-- Staged checkpoints that wait go to the host once CKPT_EXPORT is set (R264, R469). -/
def State.exportWaiting (s : State) (e : Fin 2) : State :=
  (s.eng[e] : Engine).staged.foldl (fun s (x : Staged) =>
    if s.hst.bulk.any (fun (b : Bulk) => b.op == 0xD0 && b.source == e.val && b.arg == x.hzn && b.index == x.snapshot.toNat) then s
    else s.exportStaged e x) s

/-- LSS_CTL (Table 7.10). -/
def State.writeLssCtl (s : State) (e : Fin 2) (v : Word) : State :=
  let a := LSS_CTL + lssOff e
  let was := s.flag (LSS_CTL_CKPT_EXPORT.on (lssOff e))
  let s := s.storeBits a 0x6 v
  let s := if v.getLsbD 1 && !was then s.exportWaiting e else s
  s.onBit v 3 (fun s => s.resetEngine e)

/-- RNG_LCK_CTL: PARTNER is ignored while EN is 1 (Table 9.10). -/
def State.writeLckCtl (s : State) (v : Word) : State :=
  let s := if s.flag RNG_LCK_CTL_EN then s else s.storeBits RNG_LCK_CTL 0x3F00 v
  ((s.lckEnable (v.getLsbD 0)).onBit v 16 (fun s => s.lckRearms)).onBit v 17 (fun s => s.lckFreezeWrite)

/-- ENABLE of a lane: 0 takes it down, ignored for decision and ring lanes in Growing; 1 starts a lane that is disabled or Failed
(Tables 13.4, 13.6 and 13.9). -/
def State.writeEnable (s : State) (l : Fin 80) (v : Bool) : State :=
  let f := LNK_CTL_ENABLE.on (lnkOff l)
  if v then
    let s := s.setFlag f true
    if s.laneState l = 0 ∨ s.laneState l = 7 then s.retrain l else s
  else if s.mod.st = .growing ∧ (laneLink l = 1 ∨ laneLink l = 2) then s
  else
    let was := s.flag f
    let s := s.setFlag f false
    if was then s.stopLane l else s

/-- LNK_CTL of a lane (Table 13.9): MAX_RATE codes 5 to 15 leave the field (R538); TX_IDLE is ignored on a decision lane in Growing. -/
def State.writeLnkCtl (s : State) (l : Fin 80) (v : Word) : State :=
  let a := LNK_CTL + lnkOff l
  let s := if v.toNat / 256 % 16 ≤ 4 then s.storeBits a 0xF00 v else s
  let s := if s.mod.st = .growing ∧ laneLink l = 1 then s else s.storeBits a 0x4 v
  let s := s.writeEnable l (v.getLsbD 0)
  (s.onBit v 4 (fun s => s.retrain l)).onBit v 5 (fun s => s.prbsOrder l)

/-- STM_BIND_CMD (Table 14.6). -/
def State.writeBindCmd (s : State) (v : Word) : State :=
  match v.toNat % 16 with
  | 1 => s.bindCopy
  | 2 => s.bindWrite
  | 3 => s.stageEntry (mapGet emptyBinding s.stm.pending s.bindIdx)
  | 4 => s.stageEntry (mapGet emptyBinding s.stm.active s.bindIdx)
  | 5 => s.bindApply
  | 6 => s.bindCancel
  | _ => s

/-- STM_QUAR_CMD (Table 14.6). -/
def State.writeQuarCmd (s : State) (v : Word) : State :=
  let s := s.onBit v 1 (fun s => { s with stm := { s.stm with quar := [] } })
  s.onBit v 0 (fun s => { s with stm := { s.stm with quar := mapErase s.stm.quar ((s.reg STM_QUAR_IDX).toNat % 256) } })

/-- The host link is taken down; it forms again when its lanes have an active set (R472). -/
def State.dropLink (s : State) : State := if s.hst.up then s.hostLinkLost else s

/-- HST_CTL: LINK_EN is not cleared over the host link; LINK_RESET takes the link down (Table 16.9). -/
def State.writeHstCtl (s : State) (p : Path) (v : Word) : State :=
  let s := s.storeBits HST_CTL 0xF0 v
  let s := if v.getLsbD 0 then s.setFlag HST_CTL_LINK_EN true
    else if p = .host then s
    else (s.setFlag HST_CTL_LINK_EN false).dropLink
  s.onBit v 1 (fun s => s.dropLink)

/-- TIM_CTL (Table 17.6). -/
def State.writeTimCtl (s : State) (v : Word) : State :=
  let s := s.storeBits TIM_CTL 0x1A v
  let s := if v.getLsbD 3 then s else { s with tim := { s.tim with ppsSeen := false } }
  (s.requestSwitch (if v.getLsbD 0 then 1 else 0)).onBit v 2 (fun s => s.acceptJump)

/-- TIM_D_STEP_HI: with MANUAL 1 the pair is stored and the step requested (Table 17.5). -/
def State.writeTimStep (s : State) (d : Fin 2) (v : Word) : State :=
  if s.flag TIM_CTL_MANUAL then
    let s := s.setReg (TIM_D_STEP_HI + timOff d) v
    s.hostStep ⟨d, signedOf 64 (s.reg64 (TIM_D_STEP_LO + timOff d)).toNat⟩
  else s

/-- PWR_CTL (Table 19.10). -/
def State.writePwrCtl (s : State) (v : Word) : State := (s.storeBits PWR_CTL 0x4 v).onBit v 1 (fun s => s.fallowWrite)

/-- SEC_CMD (Table 12.12). -/
def State.writeSecCmd (s : State) (v : Word) : State :=
  match v.toNat % 16 with
  | 1 => s.attests
  | 2 => s.orderRuns
  | _ => s

/-- THM_WARN: the level is stored as written, and WARN follows the level that it acts as (Table 19.9). -/
def State.writeThmWarn (s : State) (v : Word) : State := (s.storeBits THM_WARN 0xFF v).showWarn

/-- Registers of the blocks below 0x9 that a write does more to than store its fields; none: it only stores them. -/
def State.writeLow (s : State) (a : Nat) (v : Word) : Option State :=
  let c := regCanon a
  let b := bedOf a
  let e := engineOf a
  if c = TOP_CTL then some (s.writeTopCtl v)
  else if c = TOP_ROT_CTL then some (s.writeRotCtl v)
  else if c = TOP_ROT_HZN_HI then some (s.armRot v)
  else if c = TOP_UC_CTL then some (s.writeUcCtl v)
  else if c = HZN_CTL then some (s.writeHznCtl v)
  else if c = HZN_STAT then some (s.writeHznStat v)
  else if c = HZN_LAUNCH_HI then some (s.launchWrite v)
  else if c = BED_CTL then some (s.writeBedCtl b v)
  else if c = BED_CORR_HI then some (s.corrArm b v)
  else if c = GRN_CMD then some (s.writeGrnCmd v)
  else if c = LSS_CTL then some (s.writeLssCtl e v)
  else if c = LSS_BLOCK_SEL then
    some (s.setReg a (if 1 ≤ v.toNat % 8 ∧ v.toNat % 8 ≤ 6 then BitVec.ofNat 32 (v.toNat % 8) else 1))
  else if c = AUG_CTL then some ((s.storeBits AUG_CTL 0x1 v).onBit v 1 (fun s => s.sealRequest))
  else if c = CFG_CTL then some (s.onBit v 0 (fun s => s.restartFlash))
  else if c = SEC_CMD then some (s.writeSecCmd v)
  else none

/-- Registers of the blocks from 0x9 on that a write does more to than store its fields; none: it only stores them. -/
def State.writeHigh (s : State) (p : Path) (a : Nat) (v : Word) : Option State :=
  let c := regCanon a
  let d := domainOf a
  let l : Fin 80 := Fin.ofNat 80 (laneOf a)
  if c = LNK_CTL then some (s.writeLnkCtl l v)
  else if c = LNK_EYE_SEL then some (if v.toNat % 128 < 80 then s.storeBits a 0x7F v else s)
  else if c = LNK_EYE_CTL then some (s.eyeWrite v)
  else if c = STM_BIND_CMD then some (s.writeBindCmd v)
  else if c = STM_BIND_COMMIT_HI then some (s.bindArm v)
  else if c = STM_QUAR_CMD then some (s.writeQuarCmd v)
  else if c = DEC_CTL then some (if s.mod.st = .growing then s else s.storeBits a 0xFF v)
  else if c = RNG_LCK_CTL then some (s.writeLckCtl v)
  else if c = RNG_LCK_START_HI then some (s.lckCommit v)
  else if c = HST_CTL then some (s.writeHstCtl p v)
  else if c = TIM_CTL then some (s.writeTimCtl v)
  else if c = TIM_D_RATE then some (if s.flag TIM_CTL_MANUAL then s.setRate d v else s)
  else if c = TIM_D_STEP_HI then some (s.writeTimStep d v)
  else if c = PWR_CTL then some (s.writePwrCtl v)
  else if c = PWR_BUDGET then some (s.setReg a (BitVec.ofNat 32 (min (v.toNat % 65536) s.budgetCap)))
  else if c = CLK_SEL then some (s.setReg a (if v.toNat % 64 ≤ 59 then BitVec.ofNat 32 (v.toNat % 64) else 0))
  else if c = THM_WARN then some (s.writeThmWarn v)
  else if c = THM_SEL then some (if v.toNat % 32 ≤ 17 then s.storeBits a 0x1F v else s)
  else none

/-- Write a register (R533); a rsvd register ignores the write (R537). -/
def State.writeReg (s : State) (p : Path) (a : Nat) (v : Word) : State :=
  match rowOf a with
  | none => s
  | some r => ((s.writeLow a v).or (s.writeHigh p a v)).getD (s.storeFields a r v)

/-! Windows -/

/-- Put a word into a buffer of bytes. -/
def putWord (m : Map Byte) (a : Nat) (v : Word) : Map Byte := putBytes zeroByte m a (leBytes 4 v.toNat)

/-- A silt window write: ignored in Growing (R228, Table 20.2). -/
def State.writeSilt (s : State) (p : Path) (a : Nat) (v : Word) : State :=
  if s.mod.st = .growing then s.refuseAccess p a 2
  else
    let e : Fin 2 := if a < 0x280000 then 0 else 1
    let g : Engine := s.eng[e]
    let k := (s.reg (LSS_SILT_SEL + lssOff e)).toNat % 256 * 524288 + a % 0x80000
    s.setEng e { g with silt := (List.range 4).foldl (fun m i => mapSet m (k + i) ((leBytes 4 v.toNat).getD i 0)) g.silt }

/-- Write a window address (R529, Table 20.2): a write to a read-only window is ignored, and every ignored one sets REASON 2 (Table 20.9). -/
def State.writeWindow (s : State) (p : Path) (a : Nat) (v : Word) : State :=
  if 0x100000 ≤ a ∧ a < 0x104100 then s.grnWindow p a v
  else if 0x200000 ≤ a ∧ a < 0x300000 then s.writeSilt p a v
  else if 0x314000 ≤ a ∧ a < 0x314600 then { s with sec := { s.sec with order := putWord s.sec.order (a - 0x314000) v } }
  else if 0x320000 ≤ a ∧ a < 0x340000 then { s with svc := { s.svc with ucBuf := putWord s.svc.ucBuf (a - 0x320000) v } }
  else if (0x300000 ≤ a ∧ a < 0x313000) ∨ (0x314800 ≤ a ∧ a < 0x314C00) then s.refuseAccess p a 2
  else s

/-- A write that is not refused. -/
def State.writeAt (s : State) (p : Path) (a : Nat) (v : Word) : State :=
  if s.absentBlock a then s else if a < 0x100000 then s.writeReg p a v else s.writeWindow p a v

/-- A write access as it is performed: the REASON of its refusal or 0, and the state after it. -/
def State.writeNow (s : State) (p : Path) (a : Nat) (v : Word) : Nat × State :=
  let r := s.refusal a
  if r = 0 then (0, s.writeAt p a v) else (r, s.refuseAccess p a r)

/-- A write access: performed, or held (R225). -/
def State.writeAccess (s : State) (p : Path) (a : Nat) (v : Word) : Nat × State :=
  let s := s.arrives p
  if s.siltHolds p a then (0, s.waitForSilt p a (some v)) else s.writeNow p a v

/-- The silt banks have been cleared: the accesses that waited are performed in their order (R228). -/
def State.siltAnswers (s : State) : State :=
  let ws := s.svc.siltWaits
  ws.foldl (fun (s : State) w => match w.2.2 with
    | none => (s.readNow w.1 w.2.1).2.2
    | some v => (s.writeNow w.1 w.2.1 v).2) { s with svc := { s.svc with siltWaits := [] } }

end Sys2Proof.Machine
end

