-- ==== Sys2Proof/Machine/Access.lean ====
section
/-!
DEFINITION. Register access commands (chapter 20): reads that clear or latch (R534, R535), plain writes (R533), management port
transactions (R532), the reset of the host link (R472).
-/
namespace Sys2Proof.Machine

/-- A read of one register by a path. -/
def State.pathReads (s : State) (p : Path) (a : Nat) : State := if s.pathWorks p then (s.readAccess p a).2.2 else s

/-- A write of one register by a path. -/
def State.pathWrites (s : State) (p : Path) (a : Nat) (v : Word) : State := if s.pathWorks p then (s.writeAccess p a v).2 else s

/-- READ_CLEAR: a read returns the value and clears what is RC, for every path (R534). -/
def execReadClear (path : Path) (addr : Word) (s : State) : Out := .next (s.pathReads path addr.toNat)

/-- LEADING_REGISTER_READ: the path's latch takes the other registers of the group (R535). -/
def execLeadingRegisterRead (path : Path) (addr : Word) (s : State) : Out := .next (s.pathReads path addr.toNat)

/-- REGISTER_WRITE (R533). -/
def execRegisterWrite (path : Path) (addr : Word) (value : Word) (s : State) : Out := .next (s.pathWrites path addr.toNat value)

/-- LINK_RESET: a write of 1 to HST_CTL.LINK_RESET takes the link down (R472, Table 16.9). -/
def execLinkReset (path : Path) (s : State) : Out := .next (s.via path HST_CTL (fun s => s.dropLink))

/-! Management port -/

/-- Addresses of `n` words from `a` on: the address advances by 4 after each word (R532). -/
def wordAddrs (a n : Nat) : List Nat := (List.range n).map (fun i => (a + 4 * i) % 2 ^ 32)

/-- Record a partial management word at an address (R532). -/
def State.partialWord (s : State) (a : Nat) : State := if s.pathWorks .mgt then s.refuseAccess .mgt a 4 else s

/-- The data bytes of a write: whole words are written in order, a partial one is discarded (R532). -/
def State.mgtWrites (s : State) (a : Nat) (data : List Byte) : State :=
  let n := data.length / 4
  let s := ((wordAddrs a n).zipIdx).foldl (fun s w => s.pathWrites .mgt w.1 (BitVec.ofNat 32 (leAt data (4 * w.2) 4))) s
  if data.length % 4 = 0 then s else s.partialWord ((a + 4 * n) % 2 ^ 32)

/-- A read of a number of bytes: a word is accessed when its first byte is sent (R532). -/
def State.mgtReads (s : State) (a n : Nat) : State :=
  let s := (wordAddrs a ((n + 3) / 4)).foldl (fun s w => s.pathReads .mgt w) s
  if n % 4 = 0 then s else s.partialWord ((a + n - n % 4) % 2 ^ 32)

/-- A management transaction: what follows the target address with the write bit, then the number of bytes read (R532). The access itself is
seen even where no word is addressed (R32, R514). -/
def State.mgtRuns (s : State) (bytes : List Byte) (reads : Nat) : State :=
  let s := s.accessSeen
  if bytes.length < 4 then (if bytes.isEmpty then s else s.partialWord (leNat bytes))
  else
    let a := leNat (bytes.take 4)
    let data := bytes.drop 4
    (s.mgtWrites a data).mgtReads ((a + 4 * (data.length / 4)) % 2 ^ 32) reads

/-- MGT_TRANSACTION (R532). -/
def execMgtTransaction (bytes : List Byte) (reads : Nat) (s : State) : Out :=
  .next (if s.pathWorks .mgt then s.mgtRuns bytes reads else s)

end Sys2Proof.Machine
end

