-- ==== Sys2Proof/Machine/Host.lean ====
section
/-!
DEFINITION. The host link commands (chapter 16): requests and their order (R463, R563, R467), cells (R459, R460, R462), link control
(R471), link-up and link loss (R457, R472), retransmission (R459, R468).
-/
namespace Sys2Proof.Machine

/-! Register requests -/

/-- STATUS of a refused word (R563, Table 16.4). -/
def refusedStatus (reason : Nat) : Nat := if reason = 3 then 2 else 3

/-- Read `n` words from `a` on up to the first refused one: the STATUS, the bytes read, the state (R563). -/
def State.readWords : Nat → Nat → List Byte → State → Nat × List Byte × State
  | 0, _, acc, s => (0, acc, s)
  | n + 1, a, acc, s =>
    let x := s.readAccess .host a
    if x.1 = 0 then State.readWords n (a + 4) (acc ++ leBytes 4 x.2.1.toNat) x.2.2 else (refusedStatus x.1, acc, x.2.2)

/-- Write words from `a` on up to the first refused one: the STATUS and the state (R563). After a Waking has started nothing more is
performed. -/
def State.writeWords : Nat → Nat → List Byte → State → Nat × State
  | 0, _, _, s => (0, s)
  | n + 1, a, bs, s =>
    if s.hostServed then
      let x := s.writeAccess .host a (BitVec.ofNat 32 (leAt bs 0 4))
      if x.1 = 0 then State.writeWords n (a + 4) (bs.drop 4) x.2 else (refusedStatus x.1, x.2)
    else (0, s)

/-- A request whose LENGTH is not as its OP requires performs nothing: its status is that of a refused first word, or 8, whichever is
lower (R463, Table 16.4). -/
def State.badLength (s : State) (r : HostReq) (a : Nat) : State :=
  let x := s.refusal a
  if x = 0 then s.respond r.tag 8 0 [] else (s.refuseAccess .host a x).respond r.tag (refusedStatus x) 0 []

/-- REG_READ (R563, Table 16.3). -/
def State.regReads (s : State) (r : HostReq) : State :=
  let a := r.arg.toNat % 2 ^ 32
  let n := bitsOf r.arg.toNat 32 8
  if n < 1 ∨ 64 < n then s.respond r.tag 1 0 []
  else if r.payload.isEmpty then
    let x := s.readWords n a []
    x.2.2.respond r.tag x.1 0 x.2.1
  else s.badLength r a

/-- A request has been executed and no response is sent for it (R472, R463). -/
def State.executed (s : State) (tag : Nat) : State :=
  let s := s.bump HST_REQ_CNT
  { s with hst := { s.hst with lastTag := tag } }

/-- REG_WRITE (R563, Table 16.3). Where a word takes the link down or starts a Waking the response is lost (Table 16.7). -/
def State.regWrites (s : State) (r : HostReq) : State :=
  let a := r.arg.toNat % 2 ^ 32
  let n := r.payload.length
  if n < 4 ∨ 256 < n ∨ n % 4 ≠ 0 then s.badLength r a
  else
    let x := s.writeWords (n / 4) a r.payload
    if (s.hst.up && !x.2.hst.up) || !x.2.hostServed then x.2.executed r.tag else x.2.respond r.tag x.1 0 []

/-- REC_ACK: no response (R463, R467). A payload that is not 8 bytes acknowledges nothing. -/
def State.recAcks (s : State) (r : HostReq) : State :=
  (if r.payload.length = 8 then s.recordsTaken r.arg (BitVec.ofNat 64 (leNat r.payload)) else s).executed r.tag

/-- Execute a request (Table 16.3). -/
def State.serveReq (s : State) (r : HostReq) : State :=
  match r.op with
  | 0x01 => s.regReads r
  | 0x02 => s.regWrites r
  | 0x30 => s.recAcks r
  | _ => s.runPlain r

/-- A register request reaches a silt window whose banks are not cleared yet (R225, R228). -/
def State.siltReq (s : State) (r : HostReq) : Bool :=
  let a := r.arg.toNat % 2 ^ 32
  let n := if r.op = 1 then bitsOf r.arg.toNat 32 8 else r.payload.length / 4
  !s.mod.dramDone && (r.op == 1 || r.op == 2) && (List.range (min n 64)).any (fun i => siltWindow (a + 4 * i) && s.refusal (a + 4 * i) == 0)

/-- Start a request: during a Waking it is held, or waits behind a held one (R294, R386, R463); so does one that reaches a silt bank before its
clear completes (R228). -/
def State.startReq (s : State) (r : HostReq) : State :=
  let waits := !s.hst.held.isEmpty && (s.mod.st == .waking || !s.mod.dramDone)
  if waits || (s.mod.st == .waking && r.heldInWaking) || s.siltReq r then { s with hst := { s.hst with held := s.hst.held ++ [r] } }
  else s.serveReq r

/-- The request may start: it needs no response, or there is an RSP credit that no response waits for (R463). -/
def State.mayStart (s : State) (r : HostReq) : Bool := r.op == 0x30 || decide (s.hst.responses.length < s.hst.credRsp)

/-- Start the waiting requests in order while they may start; fuel is their number (R463, Table 16.7). -/
def State.pump : Nat → State → State
  | 0, s => s
  | n + 1, s =>
    match s.hst.requests with
    | [] => s
    | r :: rest =>
      if s.hostServed && s.mayStart r then State.pump n (({ s with hst := { s.hst with requests := rest } } : State).startReq r) else s

/-- Let the requests that wait start. -/
def State.pumpAll (s : State) : State := State.pump s.hst.requests.length s

/-- The requests that a Waking or Fallow has held are executed in the order of their arrival, then those that wait behind them (R294, R386,
R463). -/
def State.serveHeld (s : State) : State :=
  let rs := s.hst.held
  (rs.foldl (fun (s : State) r => s.startReq r) { s with hst := { s.hst with held := [] } }).pumpAll

/-- The requests that wait are executed with no response sent (R472, Table 16.7). -/
def State.flushReqs (s : State) : State :=
  let rs := s.hst.requests
  let s := { s with hst := { s.hst with requests := [] } }
  let s := rs.foldl (fun s r => if s.hostServed then s.startReq r else s) s
  { s with hst := { s.hst with responses := [] } }

/-- A request comes as a command: it starts now, or waits behind those that wait; the idle timer restarts (R32, R463). In a warm Waking it
waits until the link is up. In Fallow it is activity on the host lanes, a wake event, and it is handled once the module is
awake and the link has formed (Table 1.7, R26, R514). -/
def State.request (s : State) (r : HostReq) : State :=
  if s.hostServed then
    let s := s.idleRestart
    if s.hst.requests.isEmpty then s.startReq r
    else ({ s with hst := { s.hst with requests := s.hst.requests ++ [r] } } : State).pumpAll
  else if s.hostLinkRuns then { s with hst := { s.hst with requests := s.hst.requests ++ [r] } }
  else if s.mod.st = .fallow ∧ s.flag PWR_CTL_WAKE_HOST_EN then
    let s := s.hostWakes
    { s with hst := { s.hst with held := s.hst.held ++ [r] } }
  else s

/-- Execute one of the table's requests. -/
def State.requestOf (s : State) (tag op : Nat) (arg : U64) (payload : List Byte) (good : Bool) : State :=
  s.request { tag := tag, op := op, arg := arg, payload := payload, good := good }

def execSowBegin (tag : BitVec 16) (arg : U64) (s : State) : Out := .next (s.requestOf tag.toNat 0x20 arg [] true)

def execSowData (tag : BitVec 16) (arg : U64) (payload : List Byte) (s : State) : Out :=
  .next (s.requestOf tag.toNat 0x21 arg payload true)

def execSowEnd (tag : BitVec 16) (s : State) : Out := .next (s.requestOf tag.toNat 0x22 0 [] true)

def execRegRead (tag : BitVec 16) (arg : U64) (s : State) : Out := .next (s.requestOf tag.toNat 0x01 arg [] true)

def execRegWrite (tag : BitVec 16) (arg : U64) (payload : List Byte) (s : State) : Out :=
  .next (s.requestOf tag.toNat 0x02 arg payload true)

def execFlashErase (tag : BitVec 16) (arg : U64) (good : Bool) (s : State) : Out :=
  .next (s.requestOf tag.toNat 0x10 arg [] good)

def execFlashProgram (tag : BitVec 16) (arg : U64) (payload : List Byte) (good : Bool) (s : State) : Out :=
  .next (s.requestOf tag.toNat 0x11 arg payload good)

def execFlashRead (tag : BitVec 16) (arg : U64) (s : State) : Out := .next (s.requestOf tag.toNat 0x12 arg [] true)

def execRecAck (tag : BitVec 16) (next : U64) (serial : U64) (s : State) : Out :=
  .next (s.requestOf tag.toNat 0x30 next (leBytes 8 serial.toNat) true)

def execCaptureRead (tag : BitVec 16) (arg : U64) (s : State) : Out := .next (s.requestOf tag.toNat 0x40 arg [] true)

def execColdWrite (tag : BitVec 16) (arg : U64) (payload : List Byte) (s : State) : Out :=
  .next (s.requestOf tag.toNat 0x41 arg payload true)

/-! Link control -/

/-- A change of the active lane set that the adapter has named takes effect once its SEQ is the next one expected (R471). -/
def State.hostSetDue (s : State) : State :=
  match s.hst.maskAt with
  | some (m, q) =>
    if (s.hst.rxSeq + 65536 - q % 65536) % 65536 < 32768 then
      ({ s with hst := { s.hst with maskAt := none } } : State).setHostSet (m &&& s.hostReady)
    else s
  | none => s

/-- A LINK message from the adapter (R471). -/
def State.linkTold (s : State) (mask : Byte) (seq : Nat) : State :=
  ({ s with hst := { s.hst with maskAt := some (mask, seq) } } : State).hostSetDue

def execLinkMessage (mask : Byte) (seq : BitVec 16) (s : State) : Out :=
  .next (if s.hst.up then s.linkTold mask seq.toNat else s)

/-- The link comes up: both sides exchange their LINK message, which is SEQ 0; no channel holds a credit; the REC channel starts at the
first unacknowledged record; what the wake from Fallow has held is handled (R26, R457, R460, R468, R472). -/
def State.linkForms (s : State) : State :=
  let s := if s.hostServed then s.flushReqs else s
  let mask := s.hostReady
  let rate := ((List.range 8).find? (fun i => s.hostLaneReady i)).map (fun i => s.laneRate (72 + i))
  let cell : HostCell := { seq := 0, kind := 1, first := true, last := true, data := linkMessage mask 0 s.hst.lastTag, object := 0, done := false }
  let s := { s with hst := { Hst.off with
    up := true, txSeq := 1, rxSeq := 1, unacked := [cell], mask := mask, bulk := s.hst.bulk, forward := s.hst.forward
    lastTag := s.hst.lastTag, held := s.hst.held, requests := s.hst.requests } }
  let s := ((((s.setFlag HST_STAT_LINK_UP true).setFld HST_LANES_MASK mask.toNat).setFld HST_LANES_RATE (rate.getD 0))).restartRecords
  if s.mod.st.serving then s.serveHeld else s.pumpAll

/-- The link may form: enabled, running (Table 1.5), with lanes of one rate ready (R457, Table 16.9). -/
def State.linkMayForm (s : State) : Bool :=
  let ready := (List.range 8).filter (fun i => s.hostLaneReady i)
  s.flag HST_CTL_LINK_EN && s.hostLinkRuns && !s.hst.up && !ready.isEmpty
    && ready.all (fun i => s.laneRate (72 + i) == s.laneRate (72 + ready.headD 0))

def execHostLinkUp (s : State) : Out := .next (if s.linkMayForm then s.linkForms else s)

/-- HOST_LINK_DOWN: a request whose last cell has been accepted is executed, and its response is lost (R472, Table 16.7). -/
def execHostLinkDown (s : State) : Out := .next (if s.hst.up then s.flushReqs.dropLink else s)

/-! Received cells -/

/-- A BULK object has been delivered: a checkpoint or snapshot frees its staging space, a slab counts as mirrored (R266, R470). -/
def State.bulkDelivered (s : State) : State :=
  match s.hst.bulk with
  | [] => s
  | b :: rest =>
    let s := { s with hst := { s.hst with bulk := rest } }
    let e : Fin 2 := Fin.ofNat 2 b.source
    let g : Engine := s.eng[e]
    if b.op = 0xD0 then
      let s := s.setEng e { g with staged := g.staged.filter (fun (x : Staged) => !(x.hzn == b.arg && x.snapshot.toNat == b.index)) }
      (s.showStaged e).setFld (LSS_CKPT_STAT_STATE.on (lssOff e)) 3
    else if b.op = 0xD2 then s.bump64 (LSS_MIRROR_LO + lssOff e) 1
    else s

/-- The adapter has received a cell. -/
def State.cellTaken (s : State) (c : HostCell) : State :=
  if c.kind = 5 then
    let s := s.bump64 HST_BULK_LO c.object
    if c.done then s.bulkDelivered else s
  else s

/-- ACK: every cell before it has been received; a value beyond what is unacknowledged says nothing (R459). -/
def State.takeAck (s : State) (ack : Nat) : State :=
  let n := (ack + 65536 - s.hst.firstUnacked % 65536) % 65536
  if n ≤ s.hst.unacked.length then
    (s.hst.unacked.take n).foldl State.cellTaken { s with hst := { s.hst with unacked := s.hst.unacked.drop n } }
  else s

/-- CREDIT for a channel that the module sends on (R460); a count stops at 65,535. -/
def State.takeCredit (s : State) (ch n : Nat) : State :=
  let add := fun (c : Nat) => min (c + n) 65535
  let h := s.hst
  if ch = 3 then { s with hst := { h with credRsp := add h.credRsp } }
  else if ch = 4 then { s with hst := { h with credRec := add h.credRec } }
  else if ch = 5 then { s with hst := { h with credBulk := add h.credBulk } }
  else s

/-- A complete message of the adapter: header and LENGTH payload bytes; one that ends short is discarded (R462). -/
def State.hostMessage (s : State) (kind : Nat) (m : List Byte) : State :=
  let len := leAt m 4 4
  let op := leAt m 0 1
  let arg : U64 := BitVec.ofNat 64 (leAt m 8 8)
  if m.length < 16 ∨ m.length < 16 + len ∨ 65536 < len then s
  else if kind = 1 then (if op = 0xE0 then s.linkTold (BitVec.ofNat 8 arg.toNat) (bitsOf arg.toNat 8 16) else s)
  else if kind = 2 then
    let d := s.drawNat
    let r : HostReq := { tag := leAt m 2 2, op := op, arg := arg, payload := slice m 16 len, good := d.1 % 2 = 1 }
    let s := d.2.idleRestart
    { s with hst := { s.hst with requests := s.hst.requests ++ [r] } }
  else s

/-- The data of an accepted cell joins the message of its channel: FIRST starts one, LAST ends it (R462). -/
def State.cellData (s : State) (kind : Nat) (first last : Bool) (data : List Byte) : State :=
  let held := mapFind s.hst.msgs kind
  match (if first then some [] else held) with
  | none => s
  | some m =>
    let m := m ++ data
    if last then ({ s with hst := { s.hst with msgs := mapErase s.hst.msgs kind } } : State).hostMessage kind m
    else { s with hst := { s.hst with msgs := mapSet s.hst.msgs kind m } }

/-- A cell that passes its check: its ACK and credits apply; of KIND 1 to 5 it is accepted in order or discarded (R459, Table 16.1). -/
def State.goodCell (s : State) (c : List Byte) : State :=
  let kind := leAt c 4 1
  let flags := leAt c 5 1
  let numbered := decide (1 ≤ kind ∧ kind ≤ 5)
  if numbered ∧ leAt c 0 2 ≠ s.hst.rxSeq then s.bump HST_SEQ_DISCARD_CNT
  else
    let s := if numbered then { s with hst := { s.hst with
        rxSeq := (s.hst.rxSeq + 1) % 65536, credReq := if kind = 2 then s.hst.credReq - 1 else s.hst.credReq } } else s
    let s := (s.takeAck (leAt c 2 2)).takeCredit (flags / 16) (leAt c 6 2)
    let s := if numbered then s.cellData kind (flags % 2 == 1) (flags / 2 % 2 == 1) (slice c 10 (min (leAt c 8 1) 112)) else s
    s.hostSetDue.pumpAll

/-- HOST_CELL_RECEIVED (R458, R459): a cell arrives on a lane of the link. -/
def State.cellReceived (s : State) (c : List Byte) : State :=
  if leAt c 123 4 = crc32 (slice c 0 123) then s.goodCell c else s.bump HST_CRC_ERR_CNT

def execHostCellReceived (lane : Fin 8) (cell : List Byte) (s : State) : Out :=
  .next (if s.hst.up && s.hostLinkRuns && s.hostLaneReady lane && cell.length == 127 then s.cellReceived cell else s)

/-! Retransmission -/

/-- The credits that cells of a channel have spent. -/
def spent (kind : Nat) (cs : List HostCell) : Nat := (cs.filter (fun (c : HostCell) => c.kind == kind)).length

/-- HOST_RETRANSMIT: the unacknowledged cells are sent again from the first unacknowledged SEQ; their credits return; the REC channel is
formed afresh (R459, R460, R468). -/
def State.retransmits (s : State) : State :=
  let h := s.hst
  let s := { s with hst := { h with
    txSeq := h.firstUnacked, resend := h.unacked.filter (fun (c : HostCell) => c.kind != 4) ++ h.resend, unacked := []
    credRsp := h.credRsp + spent 3 h.unacked, credRec := h.credRec + spent 4 h.unacked, credBulk := h.credBulk + spent 5 h.unacked } }
  ((s.bump HST_RETRY_CNT).setFlag HST_STAT_RETRY true).restartRecords

def execHostRetransmit (s : State) : Out := .next (if s.hst.up && !s.hst.unacked.isEmpty then s.retransmits else s)

end Sys2Proof.Machine
end

