-- ==== Sys2Proof/Machine/Wake.lean ====
section
/-!
DEFINITION. The commands that end a Waking or its memory clear (R30, R34, R209, R379) and the restore from Fallow (R33, R512, R515, R516).
-/
namespace Sys2Proof.Machine

/-- DRAM_INIT_DONE: step 2 ends, and the accesses that waited for the silt banks are performed (R209, R228, R379). -/
def execDramInitDone (s : State) : Out :=
  .next (if (s.coldWaking || s.mod.st == .halted) && !s.mod.dramDone then s.dramReady.siltAnswers.serveHeld else s)

/-- IMAGE_LOAD_COMPLETE: step 6 ends once steps 2, 4 and 5 have (R30, R379). -/
def execImageLoadComplete (s : State) : Out :=
  .next (if s.imageMayLoad then s.imageLoaded.serveHeld else s)

/-- WARM_WAKING_COMPLETE: Sown or Unplanted, or a cold Waking on a digest that does not match (R34). -/
def execWarmWakingComplete (fwBad : Bool) (imgBad : Bool) (s : State) : Out :=
  .next (if s.warmMayEnd fwBad imgBad then
      let s := s.warmWakes fwBad imgBad
      if s.mod.st = .waking then s else s.serveHeld
    else s)

/-- Show the source of a wake from Fallow; a wake by the reset contact has no code (Table 19.10, Table 16.9). -/
def State.showWake (s : State) (src : WakeSrc) : State :=
  let s := s.setFlag PWR_STAT_WOKE true
  match src with
  | .management => s.setFld PWR_STAT_WAKE_SRC 1
  | .hostLink => (s.setFld PWR_STAT_WAKE_SRC 2).setFlag HST_STAT_WAKE true
  | .resetPin => s

/-- The management transfer that the wake has held completes (R515). -/
def State.finishTransfer (s : State) : State :=
  match s.mod.mgtHeld with
  | some t => ({ s with mod := { s.mod with mgtHeld := none } } : State).mgtRuns t.bytes t.reads
  | none => s

/-- RESTORE_COMPLETE: the state that was left, with its record; acceptance waits for a horizon boundary; the engines resume without warming;
ring, host and stream lanes come up; a checkpoint horizon that passed is named; a reset that waited follows (R33, R512, R516, R559). -/
def State.restores (s : State) (src : WakeSrc) : State :=
  let skipped := s.mod.fallowCkpt
  let waits := s.mod.rstWaits
  let s := { s with
    mod := { s.mod with wakeSrc := none, wakeHold := s.mod.left == ModState.growing, fallowCkpt := none, idle := 0, idleNs := 0 }
    aug := { s.aug with running := true }
    eng := s.eng.map (fun (e : Engine) => { e with running := e.start.isSome }) }
  let s := s.enterState s.mod.left 0 0 0
  let s := match skipped with
    | some c => s.writeEventAt 0x0406 c 0 [0, c.toNat]
    | none => s
  let s := ((s.refusePassed.showWake src).lanesAgain).finishTransfer
  if waits then s.pinReset else s

def execRestoreComplete (s : State) : Out :=
  .next (match s.mod.wakeSrc with
    | some w => if s.mod.st = .fallow then s.restores w.1 else s
    | none => s)

end Sys2Proof.Machine
end

