-- ==== Sys2Proof/Machine/Transmit.lean ====
section
/-!
DEFINITION. TX_BLOCK: the block that a transmitter forms (R395, R396): training blocks (R399 to R401), decision blocks (R425 to R427), ring
frames (R437, R438, R440), host cells (R458 to R461, R466 to R469), the idle pattern (R409).
-/
namespace Sys2Proof.Machine

/-! The block on the line -/

/-- Line bits as a word, the first bit in bit 0. -/
def lineWord (bs : List Bool) : BitVec 1032 := BitVec.ofNat 1032 (bs.foldr (fun b n => b.toNat + 2 * n) 0)

/-- Send a block on a lane: its line bits leave, the run carries on, it is counted; an erase block in place of one that does not fit is
counted too (R394 to R396). -/
def State.sendLine (s : State) (l : Fin 80) (b : SentBlock) : State :=
  let ln : Lane := s.lanes[l]
  let o := lnkOff l
  let s := (s.setLane l { ln with tx := b.run, line := lineWord b.line }).bump64 (LNK_BLOCKS_LO + o) 1
  if b.erased then (s.setFlag (LNK_STAT_NOFIT.on o) true).bump (LNK_NOFIT_CNT + o) else s

/-- The block of a body on a lane, as its run stands (R395). -/
def State.blockOf (s : State) (l : Fin 80) (kind : Nat) (body : List Byte) : SentBlock := sendBlock (s.lanes[l] : Lane).tx kind body

/-- Send a data block (KIND 0). -/
def State.sendData (s : State) (l : Fin 80) (body : List Byte) : State := s.sendLine l (s.blockOf l 0 body)

/-- Send an idle block: the idle pattern, or a block that carries nothing (R396, R409). -/
def State.sendIdle (s : State) (l : Fin 80) : State := s.sendLine l (sendPlain (s.lanes[l] : Lane).tx 1)

/-! Training -/

/-- The PEER_ID that this module sends on a lane (R425, R436, R456). -/
def State.ownPeerId (s : State) (l : Nat) : Word :=
  BitVec.ofNat 32 (2 ^ 24 + (if laneLink l = 2 then s.position else s.serial % 65536))

/-- Send a training block (R399 to R401, Table 13.5): offer in Detect and until the peer is heard, then ready; step in Step. What TSTATE says
during verification, and NEXT_RATE outside Step, the spec does not state: free. -/
def State.sendTraining (s : State) (l : Fin 80) : State :=
  let st := s.laneState l
  let d := s.drawNat
  let e := d.2.drawNat
  let s := e.2
  let ln : Lane := s.lanes[l]
  let offer := s.laneOffer l
  let tstate := if st = 1 then 0 else if st = 2 then ln.peer.isSome.toNat else if st = 3 then 2 else d.1 % 4
  let next := if st = 3 then (if laneLink l = 1 then offer else s.laneRate l + 1) else e.1 % 5
  s.sendLine l (s.blockOf l 2 (trainingBody tstate (min offer 4) next (laneLink l) (laneNumber l) (s.ownPeerId l)))

/-! Decision lanes -/

/-- The first entry whose nominal start, 8 + 32k UI, is at or after a line time (R427). -/
def firstEntry (place : Int) : Nat := if place ≤ 8 then 0 else (place - 8 + 31).toNat / 32

/-- Place verdicts in their order into free entries from `k` on: those placed, and those left for the next block (R427). -/
def placeEntries (k : Nat) : List DecEntry → List (Nat × DecEntry) × List DecEntry
  | [] => ([], [])
  | x :: rest =>
    let at_ := max k (firstEntry x.place)
    if at_ < 27 then
      let r := placeEntries (at_ + 1) rest
      ((at_, x) :: r.1, r.2)
    else ([], x :: rest)

/-- A verdict entry's word (Table 14.4). -/
def DecEntry.word (x : DecEntry) : Nat :=
  x.tick7 * 2 ^ 25 + x.kind * 2 ^ 24 + x.bed * 2 ^ 22 + x.slot * 2 ^ 16 + x.verdict.toNat

/-- The logical lane whose verdicts a decision lane carries, by DEC_LANE_MAP (R429). -/
def State.logicalLane (s : State) (n : Nat) : Option (Fin 8) :=
  (List.finRange 8).find? (fun i => bitsOf (s.reg DEC_LANE_MAP).toNat (4 * i.val) 4 == n)

/-- A decision block body (Table 14.3). A lane that carries no logical lane names its own number. -/
def State.decBody (s : State) (n : Nat) (logical : Option (Fin 8)) (placed : List (Nat × DecEntry)) : List Byte :=
  let entry := fun (k : Nat) => ((placed.find? (fun x => x.1 == k)).map (fun x => x.2.word)).getD 0
  let valid := (placed.map (fun x => 2 ^ x.1)).sum
  let hold := if n < 4 then s.dec.lines[0] else s.dec.lines[1]
  let dlane := (logical.map Fin.val).getD n + hold.toNat * 8 + s.mod.loose.toNat * 16
  let b := (List.range 27).flatMap (fun k => leBytes 4 (entry k)) ++ leBytes 4 valid ++ leBytes 3 s.count.toNat ++ leBytes 1 dlane ++ zeroBytes 7
  b ++ leBytes 4 (crc32 b)

/-- The decision lanes carry verdicts: in Growing, and after a halt until the verdicts that were due are out (R37, R425, R525). -/
def State.decActive (s : State) : Bool :=
  s.mod.st == .growing
    || (s.mod.st == .halted && (s.fast.frames.any (fun f => !(f.quickSent && f.settledSent)) || s.dec.queue.toList.any (fun q => !q.isEmpty)))

/-- The content bits of a block as sent: those of the first seed that fits (R395). -/
def sentContent (r : RunState) (kind : Nat) (body : List Byte) : List Bool :=
  (([0, 1, 2, 3].find? (fun seed => (lineImage r (blockContent kind seed body)).isSome)).map (fun seed => blockContent kind seed body)).getD []

/-- The longest placement delay of the verdicts in a block, UI: from line time to first bit on the line, stuff bits included (R427). -/
def placeDelay (r : RunState) (body : List Byte) (placed : List (Nat × DecEntry)) : Nat :=
  let content := sentContent r 0 body
  placed.foldl (fun m x =>
    let first := 8 + 32 * x.1 + (stuff r (content.take (8 + 32 * x.1))).2.1
    max m ((first : Int) - x.2.place).toNat) 0

/-- A decision lane's block: the verdicts of its logical lane take their entries; they are lost with a block that carries none (R425 to
R427). `carries` says that the lane is Up and sends data blocks. -/
def State.decBlock (s : State) (l : Fin 80) (carries : Bool) : State :=
  let n := l.val - 48
  let logical := s.logicalLane n
  let q : List DecEntry := match logical with | some i => s.dec.queue[i] | none => []
  let r := placeEntries 0 q
  let left := r.2.map (fun (x : DecEntry) => { x with place := x.place - 1032 })
  let s := match logical with
    | some i => { s with dec := { s.dec with queue := s.dec.queue.set i left } }
    | none => s
  if carries then
    let body := s.decBody n logical r.1
    let b := s.blockOf l 0 body
    let s := if b.erased then s else s.raiseFld ⟨DEC_PLACE_MAX, 0, 16⟩ (placeDelay (s.lanes[l] : Lane).tx body r.1)
    s.sendLine l b
  else s.sendIdle l

/-! Ring frames -/

/-- The message bytes of a ring frame's codeword: header, then 20 reserved slots (R438). -/
def RingPort.message (p : RingPort) : List Byte :=
  leBytes 2 p.frameNo ++ (List.range 20).flatMap (fun i =>
    match p.slots.find? (fun x => x.1 == i) with
    | some x => padTo 32 x.2
    | none => zeroBytes 32)

/-- The parts that stay behind: each slot index has sent its first (R444). -/
def dropFirst : List Nat → List (Nat × List Byte) → List (Nat × List Byte)
  | _, [] => []
  | seen, x :: rest => if x.1 < 20 && !seen.contains x.1 then dropFirst (x.1 :: seen) rest else x :: dropFirst seen rest

/-- An elastic cell's bytes (Table 15.3). -/
def elasticBytes (seq ack dest src typ frag msgSeq : Nat) (data : List Byte) : List Byte :=
  let b := leBytes 2 seq ++ leBytes 2 ack ++ leBytes 1 dest ++ leBytes 1 src ++ leBytes 1 typ ++ leBytes 1 frag ++ leBytes 2 data.length
    ++ leBytes 4 msgSeq ++ zeroBytes 2 ++ padTo 316 data
  b ++ leBytes 4 (crc32 b)

/-- The next elastic cell of a port: the first unacknowledged cell not sent yet, at most 1,024 of them, else an idle cell (R440). -/
def RingPort.elastic (p : RingPort) (own : Nat) : List Byte :=
  match (if p.sent < 1024 then p.unacked[p.sent]? else none) with
  | some c => elasticBytes c.seq p.expected c.dest c.src c.typ c.frag c.msgSeq c.data
  | none => elasticBytes p.nextSeq p.expected 0 own 0 0 0 []

/-- A port starts its next frame (R437, R438, R440). -/
def RingPort.nextFrame (p : RingPort) (own : Nat) : RingPort :=
  { p with
    frame := (List.range 680).map (Config.ringCodeword p.message) ++ p.elastic own
    frameNo := (p.frameNo + 1) % 4096
    slots := dropFirst [] p.slots
    sent := if p.sent < 1024 ∧ p.sent < p.unacked.length then p.sent + 1 else p.sent
    second := false }

/-- A ring lane's block: lane 0 starts a frame in its first block time, and what waits for the mirroring neighbour queues for it; each lane sends its 127 bytes of it, lanes 0 to 3 in the first
block time and again in the second (R437). -/
def State.ringBlock (s : State) (l : Fin 80) : State :=
  let pi : Fin 4 := Fin.ofNat 4 ((l.val - 56) / 4)
  let i := (l.val - 56) % 4
  let s := if i = 0 then s.gatherMirror else s
  let p : RingPort := s.ring.ports[pi]
  let p := if i = 0 ∧ (p.frame.isEmpty ∨ !p.second) then p.nextFrame s.position else p
  let body := slice p.frame (127 * (i + 4 * p.second.toNat)) 127
  let p := if i = 3 then { p with second := !p.second } else p
  (s.setPort pi p).sendData l body

/-! Host cells -/

/-- The next cell of a message (R458, R462): up to 112 bytes, and what is left. -/
def HostTx.cut (t : HostTx) : List Byte × Option HostTx :=
  let rest := t.rest.drop 112
  (t.rest.take 112, if rest.isEmpty then none else some { rest := rest, first := false })

/-- A record is ready for the REC channel: assigned, and signed if it is a SEAL (R334, R466). -/
def State.recReady (s : State) (n : U64) : Option TailRec :=
  if n.toNat < s.aug.assigned.toNat then (s.aug.tail.find? (fun (t : TailRec) => t.seq == n)).filter (fun t => !t.unsigned) else none

/-- The next message of the REC channel: this module's next record, else the next forwarded one (R466, R467). -/
def State.nextRecord (s : State) : Option (List Byte × State) :=
  match s.recReady s.hst.recNext with
  | some t =>
    let b := recBytes t.record
    some (msgHeader 0xC0 0 b.length t.seq ++ b, { s with hst := { s.hst with recNext := t.seq + 1 } })
  | none =>
    match s.hst.forward.find? (fun f => !s.hst.forwardSent.contains f) with
    | none => none
    | some f =>
      let b := ((s.aug.mirror.find? (fun (r : MirrorRec) => r.serial == f.1 && r.seq == f.2)).map MirrorRec.bytes).getD []
      some (msgHeader 0xC1 0 (8 + b.length) f.2 ++ leBytes 8 f.1.toNat ++ b,
        { s with hst := { s.hst with forwardSent := s.hst.forwardSent ++ [f] } })

/-- A bulk message: header, prefix, and up to 65,520 bytes of the object from where it stands (R469, Tables 16.2 and 16.5). -/
def Bulk.message (b : Bulk) : List Byte × Bulk :=
  let part := (b.data.drop b.sent).take 65520
  let pre := leBytes 1 b.source ++ leBytes 1 0 ++ leBytes 2 b.index ++ leBytes 4 b.sent ++ leBytes 4 b.data.length ++ zeroBytes 4
  (msgHeader b.op 0 (16 + part.length) b.arg ++ pre ++ part, { b with sent := b.sent + part.length })

/-- Put the first object with bytes left into a message. -/
def takeBulk : List Bulk → Option (List Byte × Bulk × List Bulk)
  | [] => none
  | b :: rest =>
    if b.sent < b.data.length then
      let m := b.message
      some (m.1, m.2, m.2 :: rest)
    else (takeBulk rest).map (fun r => (r.1, r.2.1, b :: r.2.2))

/-- The next message of the BULK channel; a slab whose sending begins waits no more (R469, R470). -/
def State.nextBulk (s : State) : Option (List Byte × State) :=
  (takeBulk s.hst.bulk).map (fun r =>
    let b : Bulk := r.2.1
    let s : State := { s with hst := { s.hst with bulk := r.2.2 } }
    let e : Fin 2 := Fin.ofNat 2 b.source
    let g : Engine := s.eng[e]
    (r.1, if b.op == 0xD2 && mapFind g.slabWaits b.index == some b.arg.toNat then
        s.setEng e { g with slabWaits := mapErase g.slabWaits b.index } else s))

/-- The next response as a message (Table 16.2). -/
def State.nextResponse (s : State) : Option (List Byte × State) :=
  match s.hst.responses with
  | [] => none
  | r :: rest =>
    some (msgHeader 0x81 r.tag r.payload.length (BitVec.ofNat 64 (r.status + 256 * r.code)) ++ r.payload,
      { s with hst := { s.hst with responses := rest } })

/-- The message that a channel sends or would start. -/
def State.channelTx (s : State) (kind : Nat) : Option (HostTx × State) :=
  match mapFind s.hst.sending kind with
  | some t => some (t, s)
  | none =>
    let m := if kind = 3 then s.nextResponse else if kind = 4 then s.nextRecord else if kind = 5 then s.nextBulk else none
    m.map (fun x => (({ rest := x.1, first := true } : HostTx), x.2))

/-- Credits held for a channel. -/
def Hst.credit (h : Hst) (kind : Nat) : Nat := if kind = 3 then h.credRsp else if kind = 4 then h.credRec else h.credBulk

/-- Spend a credit of a channel. -/
def Hst.spend (h : Hst) (kind : Nat) : Hst :=
  if kind = 3 then { h with credRsp := h.credRsp - 1 }
  else if kind = 4 then { h with credRec := h.credRec - 1 }
  else if kind = 5 then { h with credBulk := h.credBulk - 1 }
  else h

/-- A bulk object is complete with the last cell of this message. -/
def State.bulkEnds (s : State) : Bool :=
  match s.hst.bulk.reverse.find? (fun (b : Bulk) => decide (0 < b.sent)) with
  | some b => decide (b.data.length ≤ b.sent)
  | none => false

/-- Take the next cell of a credited channel, if it has one and holds a credit (R460). -/
def State.channelCell (s : State) (kind : Nat) : Option (HostCell × State) :=
  if s.hst.credit kind = 0 then none
  else (s.channelTx kind).map (fun x =>
    let s := x.2
    let c := x.1.cut
    let cell : HostCell := {
      seq := s.hst.txSeq, kind := kind, first := x.1.first, last := c.2.isNone, data := c.1
      object := if kind = 5 then (if x.1.first then c.1.length - 32 else c.1.length) else 0
      done := decide (kind = 5) && c.2.isNone && s.bulkEnds }
    let sending := match c.2 with | some t => mapSet s.hst.sending kind t | none => mapErase s.hst.sending kind
    (cell, { s with hst := { s.hst.spend kind with sending := sending } }))

/-- The next link control cell (R471). -/
def State.controlCell (s : State) : Option (HostCell × State) :=
  match s.hst.control with
  | [] => none
  | m :: rest =>
    let cell : HostCell := { seq := s.hst.txSeq, kind := 1, first := true, last := true, data := m, object := 0, done := false }
    some (cell, { s with hst := { s.hst with control := rest } })

/-- The next cell that is sent again after a retransmission, with its credit (R459, R460). -/
def State.resentCell (s : State) : Option (HostCell × State) :=
  match s.hst.resend with
  | [] => none
  | c :: rest =>
    if 3 ≤ c.kind ∧ s.hst.credit c.kind = 0 then none
    else some ({ c with seq := s.hst.txSeq }, { s with hst := { s.hst.spend c.kind with resend := rest } })

/-- BULK is due its share: the last 2^BULK_SHARE − 1 cells were of other channels; values above 8 act as 8 (R461, Table 16.9). -/
def State.bulkDue (s : State) : Bool := decide (2 ^ (min (s.fld HST_CTL_BULK_SHARE) 8) ≤ s.hst.cellsSinceBulk + 1)

/-- The next numbered cell: cells sent again first, then link control, RSP, REC, BULK, with BULK's share; at most 4,096 cells are
unacknowledged (R459, R461). -/
def State.nextCell (s : State) : Option (HostCell × State) :=
  if 4096 ≤ s.hst.unacked.length then none
  else if !s.hst.resend.isEmpty then s.resentCell
  else
    let normal := (((s.controlCell).or (s.channelCell 3)).or (s.channelCell 4)).or (s.channelCell 5)
    if s.bulkDue then (s.channelCell 5).or normal else normal

/-- A cell's bytes (Table 16.1). What fills the data past LEN is open, and SEQ of an idle cell. -/
def cellBytes (seq ack kind flags credit : Nat) (data fill : List Byte) : List Byte :=
  let b := leBytes 2 seq ++ leBytes 2 ack ++ leBytes 1 kind ++ leBytes 1 flags ++ leBytes 2 credit ++ leBytes 1 data.length ++ zeroBytes 1
    ++ (data ++ fill.drop data.length) ++ zeroBytes 1
  b ++ leBytes 4 (crc32 b)

/-- Send a cell on a host lane: it is numbered and kept until it is acknowledged; how many REQ credits it grants is open (R458 to R460). -/
def State.hostCell (s : State) (l : Fin 80) : State :=
  let x := s.nextCell
  let s := match x with | some y => y.2 | none => s
  let d := s.drawNat
  let f := d.2.drawBytes 112
  let s := f.2
  let grant := d.1 % (65536 - min s.hst.credReq 65535)
  let s := { s with hst := { s.hst with credReq := s.hst.credReq + grant } }
  let ch := if grant = 0 then 0 else 2
  match x with
  | some (c, _) =>
    let flags := c.first.toNat + 2 * c.last.toNat + 16 * ch
    let s := { s with hst := { s.hst with
      txSeq := (s.hst.txSeq + 1) % 65536, unacked := s.hst.unacked ++ [c]
      cellsSinceBulk := if c.kind = 5 then 0 else s.hst.cellsSinceBulk + 1 } }
    s.sendData l (cellBytes c.seq s.hst.rxSeq c.kind flags grant c.data f.1)
  | none =>
    let e := s.drawNat
    let s := { e.2 with hst := { e.2.hst with cellsSinceBulk := e.2.hst.cellsSinceBulk + 1 } }
    s.sendData l (cellBytes e.1 s.hst.rxSeq 0 (16 * ch) grant [] f.1)

/-- The host lane is in the active lane set of a link that is up (R457). -/
def State.inHostSet (s : State) (l : Nat) : Bool := s.hst.up && s.hst.mask.getLsbD (l - 72)

/-! TX_BLOCK -/

/-- The block of a lane that is Up (R409, R425, R437, R458). -/
def State.trafficBlock (s : State) (l : Fin 80) : State :=
  match laneLink l with
  | 1 => s.decBlock l s.decActive
  | 2 => if s.portLive (Fin.ofNat 4 ((l.val - 56) / 4)) && s.flag (portField RNG_PORT_STAT0_UP ((l.val - 56) / 4)) then s.ringBlock l else s.sendIdle l
  | _ => if s.inHostSet l then s.hostCell l else s.sendIdle l

/-- The transmitter sends the idle pattern whatever its state: TX_IDLE, not on a decision lane in Growing (Table 13.9). -/
def State.txIdle (s : State) (l : Fin 80) : Bool :=
  s.flag (LNK_CTL_TX_IDLE.on (lnkOff l)) && !(laneLink l == 1 && s.mod.st == .growing)

/-- The next block of a transmitter. A disabled lane sends nothing; in Fallow only the decision lanes send, the idle pattern (R409). -/
def State.txBlock (s : State) (l : Fin 80) : State :=
  let st := s.laneState l
  let link := laneLink l
  if link = 0 ∨ !s.mod.st.powered ∨ st = 0 then s
  else if s.mod.st = .fallow then (if link = 1 then s.sendIdle l else s)
  else if s.txIdle l then (if link = 1 then s.decBlock l false else s.sendIdle l)
  else if st = 5 then s.trafficBlock l
  else if 1 ≤ st ∧ st ≤ 4 then s.sendTraining l
  else s.sendIdle l

/-- TX_BLOCK (R395). -/
def execTxBlock (lane : Fin 80) (s : State) : Out := .next (s.txBlock lane)

end Sys2Proof.Machine
end

