-- ==== Sys2Proof/Machine/Dispatch.lean ====
section
/-!
DEFINITION. The dispatch of commands: one arm per constructor of Instr, each one direct call of its meaning.
-/
namespace Sys2Proof.Machine

def exec (i : Instr) (s : State) : Host.Outcome State Fault Refusal :=
  match i with
  | .mainRailsValid temps => Sys2Proof.Machine.execMainRailsValid temps s
  | .dramInitDone => Sys2Proof.Machine.execDramInitDone s
  | .firmwareLoadComplete => Sys2Proof.Machine.execFirmwareLoadComplete s
  | .imageLoadComplete => Sys2Proof.Machine.execImageLoadComplete s
  | .mainRailsLost => Sys2Proof.Machine.execMainRailsLost s
  | .brownOut => Sys2Proof.Machine.execBrownOut s
  | .pwrMainEnLow => Sys2Proof.Machine.execPwrMainEnLow s
  | .rstWarmNAssert => Sys2Proof.Machine.execRstWarmNAssert s
  | .rstWarmNRelease => Sys2Proof.Machine.execRstWarmNRelease s
  | .vstbyLost => Sys2Proof.Machine.execVstbyLost s
  | .topWarmReset path => Sys2Proof.Machine.execTopWarmReset path s
  | .drainComplete => Sys2Proof.Machine.execDrainComplete s
  | .warmWakingComplete fwBad imgBad => Sys2Proof.Machine.execWarmWakingComplete fwBad imgBad s
  | .firmwareWatchdogExpiry => Sys2Proof.Machine.execFirmwareWatchdogExpiry s
  | .thermalTrip sensor temp => Sys2Proof.Machine.execThermalTrip sensor temp s
  | .tripGating => Sys2Proof.Machine.execTripGating s
  | .criticalShutdown sensor temp => Sys2Proof.Machine.execCriticalShutdown sensor temp s
  | .thermalWarning sensor temp => Sys2Proof.Machine.execThermalWarning sensor temp s
  | .dramStackHot die temp => Sys2Proof.Machine.execDramStackHot die temp s
  | .powerMeasurement meas vin iin vstby => Sys2Proof.Machine.execPowerMeasurement meas vin iin vstby s
  | .powerAlarm => Sys2Proof.Machine.execPowerAlarm s
  | .pllUnlock domain => Sys2Proof.Machine.execPllUnlock domain s
  | .idleTimerExpiry => Sys2Proof.Machine.execIdleTimerExpiry s
  | .fallowNow path => Sys2Proof.Machine.execFallowNow path s
  | .fallowAbort point => Sys2Proof.Machine.execFallowAbort point s
  | .fallowEntryComplete => Sys2Proof.Machine.execFallowEntryComplete s
  | .mgtAddressMatch bytes reads => Sys2Proof.Machine.execMgtAddressMatch bytes reads s
  | .hostWake lane => Sys2Proof.Machine.execHostWake lane s
  | .restoreComplete => Sys2Proof.Machine.execRestoreComplete s
  | .tick ps sync => Sys2Proof.Machine.execTick ps sync s
  | .tickLoss => Sys2Proof.Machine.execTickLoss s
  | .flywheelTick => Sys2Proof.Machine.execFlywheelTick s
  | .tickPeriodMeasured ps => Sys2Proof.Machine.execTickPeriodMeasured ps s
  | .acceptanceResume => Sys2Proof.Machine.execAcceptanceResume s
  | .presetArm path => Sys2Proof.Machine.execPresetArm path s
  | .presetApply => Sys2Proof.Machine.execPresetApply s
  | .launchCommit path value => Sys2Proof.Machine.execLaunchCommit path value s
  | .launch => Sys2Proof.Machine.execLaunch s
  | .laneBlockReceived lane line => Sys2Proof.Machine.execLaneBlockReceived lane line s
  | .frameItem lane sender stamp payload broken bridge ps => Sys2Proof.Machine.execFrameItem lane sender stamp payload broken bridge ps s
  | .summaryItem lane sender stamp body broken ps => Sys2Proof.Machine.execSummaryItem lane sender stamp body broken ps s
  | .frameEntry bed slot hzn errs => Sys2Proof.Machine.execFrameEntry bed slot hzn errs s
  | .bedExit bed slot hzn errs => Sys2Proof.Machine.execBedExit bed slot hzn errs s
  | .verdictOutput bed slot hzn settled ui => Sys2Proof.Machine.execVerdictOutput bed slot hzn settled ui s
  | .streamRingEntryWrite bed slot hzn => Sys2Proof.Machine.execStreamRingEntryWrite bed slot hzn s
  | .settledAnswer engine bed slot hzn answer => Sys2Proof.Machine.execSettledAnswer engine bed slot hzn answer s
  | .settledRelease bed slot hzn => Sys2Proof.Machine.execSettledRelease bed slot hzn s
  | .slabClose engine group period => Sys2Proof.Machine.execSlabClose engine group period s
  | .contextPackageWrite engine ring hzn hist ps ns work => Sys2Proof.Machine.execContextPackageWrite engine ring hzn hist ps ns work s
  | .warmingStart engine => Sys2Proof.Machine.execWarmingStart engine s
  | .warmingEnd engine => Sys2Proof.Machine.execWarmingEnd engine s
  | .engineReset path engine => Sys2Proof.Machine.execEngineReset path engine s
  | .checkpointHorizon engine => Sys2Proof.Machine.execCheckpointHorizon engine s
  | .checkpointComplete engine => Sys2Proof.Machine.execCheckpointComplete engine s
  | .spillUnit engine stream ring first sent => Sys2Proof.Machine.execSpillUnit engine stream ring first sent s
  | .dramRefresh engine chan bank => Sys2Proof.Machine.execDramRefresh engine chan bank s
  | .dramTransactionBoundary engine chan outcome => Sys2Proof.Machine.execDramTransactionBoundary engine chan outcome s
  | .siltMoverRetry engine busy => Sys2Proof.Machine.execSiltMoverRetry engine busy s
  | .siltColumnRepairDone engine bank => Sys2Proof.Machine.execSiltColumnRepairDone engine bank s
  | .looseWrite path value => Sys2Proof.Machine.execLooseWrite path value s
  | .modeChange => Sys2Proof.Machine.execModeChange s
  | .recordEntry bed slot hzn => Sys2Proof.Machine.execRecordEntry bed slot hzn s
  | .recordHoldRelease => Sys2Proof.Machine.execRecordHoldRelease s
  | .sealClose => Sys2Proof.Machine.execSealClose s
  | .sealNow path => Sys2Proof.Machine.execSealNow path s
  | .sealSigned good => Sys2Proof.Machine.execSealSigned good s
  | .mirrorAck seq => Sys2Proof.Machine.execMirrorAck seq s
  | .mirrorTimeout => Sys2Proof.Machine.execMirrorTimeout s
  | .orphanTailForward serial => Sys2Proof.Machine.execOrphanTailForward serial s
  | .selfTestComplete unit pass failing => Sys2Proof.Machine.execSelfTestComplete unit pass failing s
  | .spareColumnLoaded bed => Sys2Proof.Machine.execSpareColumnLoaded bed s
  | .spareColumnSwitch bed => Sys2Proof.Machine.execSpareColumnSwitch bed s
  | .ringFrameReceived port errors slots => Sys2Proof.Machine.execRingFrameReceived port errors slots s
  | .elasticCellReceived port cell => Sys2Proof.Machine.execElasticCellReceived port cell s
  | .elasticRetransmit port => Sys2Proof.Machine.execElasticRetransmit port s
  | .combiningSlot bed slot hzn => Sys2Proof.Machine.execCombiningSlot bed slot hzn s
  | .ringLinkDown port => Sys2Proof.Machine.execRingLinkDown port s
  | .reroute => Sys2Proof.Machine.execReroute s
  | .leadTakeover => Sys2Proof.Machine.execLeadTakeover s
  | .ringHello port src count reach cable => Sys2Proof.Machine.execRingHello port src count reach cable s
  | .launchMessage src hzn msg => Sys2Proof.Machine.execLaunchMessage src hzn msg s
  | .launchConfirmDeadline => Sys2Proof.Machine.execLaunchConfirmDeadline s
  | .roleChangeMessage src => Sys2Proof.Machine.execRoleChangeMessage src s
  | .lckEn path value => Sys2Proof.Machine.execLckEn path value s
  | .lckStartCommit path value => Sys2Proof.Machine.execLckStartCommit path value s
  | .lckStart partner => Sys2Proof.Machine.execLckStart partner s
  | .lckWindowClose start late => Sys2Proof.Machine.execLckWindowClose start late s
  | .lckPartnerDigest start digest => Sys2Proof.Machine.execLckPartnerDigest start digest s
  | .lckFreezeMessage => Sys2Proof.Machine.execLckFreezeMessage s
  | .lckLocateDone ticks results => Sys2Proof.Machine.execLckLocateDone ticks results s
  | .lckSnapshot => Sys2Proof.Machine.execLckSnapshot s
  | .lckFreeze path => Sys2Proof.Machine.execLckFreeze path s
  | .lckRearm path => Sys2Proof.Machine.execLckRearm path s
  | .lckCaptureGap start => Sys2Proof.Machine.execLckCaptureGap start s
  | .bedSelftest path bed => Sys2Proof.Machine.execBedSelftest path bed s
  | .mirrorRelease path bed value => Sys2Proof.Machine.execMirrorRelease path bed value s
  | .mirrorReleaseBoundary => Sys2Proof.Machine.execMirrorReleaseBoundary s
  | .mirrorRejoinLoaded pair => Sys2Proof.Machine.execMirrorRejoinLoaded pair s
  | .corrArm path bed value => Sys2Proof.Machine.execCorrArm path bed value s
  | .corrCommit bed => Sys2Proof.Machine.execCorrCommit bed s
  | .corrCancel path bed => Sys2Proof.Machine.execCorrCancel path bed s
  | .grnSnapshotStatus path => Sys2Proof.Machine.execGrnSnapshotStatus path s
  | .grnMacScan path => Sys2Proof.Machine.execGrnMacScan path s
  | .grnBankMarch path => Sys2Proof.Machine.execGrnBankMarch path s
  | .grnTestDone pass => Sys2Proof.Machine.execGrnTestDone pass s
  | .grnWindowWrite path addr value => Sys2Proof.Machine.execGrnWindowWrite path addr value s
  | .sowBegin tag arg => Sys2Proof.Machine.execSowBegin tag arg s
  | .sowData tag arg payload => Sys2Proof.Machine.execSowData tag arg payload s
  | .sowEnd tag => Sys2Proof.Machine.execSowEnd tag s
  | .regRead tag arg => Sys2Proof.Machine.execRegRead tag arg s
  | .regWrite tag arg payload => Sys2Proof.Machine.execRegWrite tag arg payload s
  | .flashErase tag arg good => Sys2Proof.Machine.execFlashErase tag arg good s
  | .flashProgram tag arg payload good => Sys2Proof.Machine.execFlashProgram tag arg payload good s
  | .flashRead tag arg => Sys2Proof.Machine.execFlashRead tag arg s
  | .recAck tag next serial => Sys2Proof.Machine.execRecAck tag next serial s
  | .captureRead tag arg => Sys2Proof.Machine.execCaptureRead tag arg s
  | .coldWrite tag arg payload => Sys2Proof.Machine.execColdWrite tag arg payload s
  | .linkMessage mask seq => Sys2Proof.Machine.execLinkMessage mask seq s
  | .hostCellReceived lane cell => Sys2Proof.Machine.execHostCellReceived lane cell s
  | .hostRetransmit => Sys2Proof.Machine.execHostRetransmit s
  | .hostLinkUp => Sys2Proof.Machine.execHostLinkUp s
  | .hostLinkDown => Sys2Proof.Machine.execHostLinkDown s
  | .linkReset path => Sys2Proof.Machine.execLinkReset path s
  | .flashRestart path => Sys2Proof.Machine.execFlashRestart path s
  | .rotLoad path => Sys2Proof.Machine.execRotLoad path s
  | .rotLoadComplete => Sys2Proof.Machine.execRotLoadComplete s
  | .rotArm path value => Sys2Proof.Machine.execRotArm path value s
  | .rotCancel path => Sys2Proof.Machine.execRotCancel path s
  | .rotChangeHorizon => Sys2Proof.Machine.execRotChangeHorizon s
  | .oldBedIdle bed => Sys2Proof.Machine.execOldBedIdle bed s
  | .stagedImageCopyDone => Sys2Proof.Machine.execStagedImageCopyDone s
  | .ucVerify path => Sys2Proof.Machine.execUcVerify path s
  | .ucArm path => Sys2Proof.Machine.execUcArm path s
  | .ucCancel path => Sys2Proof.Machine.execUcCancel path s
  | .ucSwap => Sys2Proof.Machine.execUcSwap s
  | .bindCopyActive path => Sys2Proof.Machine.execBindCopyActive path s
  | .bindWriteEntry path => Sys2Proof.Machine.execBindWriteEntry path s
  | .bindReadPending path => Sys2Proof.Machine.execBindReadPending path s
  | .bindReadActive path => Sys2Proof.Machine.execBindReadActive path s
  | .bindApply path => Sys2Proof.Machine.execBindApply path s
  | .bindCancel path => Sys2Proof.Machine.execBindCancel path s
  | .bindCommitArm path value => Sys2Proof.Machine.execBindCommitArm path value s
  | .bindCommitHorizon => Sys2Proof.Machine.execBindCommitHorizon s
  | .quarClearEntry path => Sys2Proof.Machine.execQuarClearEntry path s
  | .quarClearAll path => Sys2Proof.Machine.execQuarClearAll path s
  | .txBlock lane => Sys2Proof.Machine.execTxBlock lane s
  | .trainComplete lane => Sys2Proof.Machine.execTrainComplete lane s
  | .trainTimeout lane => Sys2Proof.Machine.execTrainTimeout lane s
  | .rateStepDone lane locked => Sys2Proof.Machine.execRateStepDone lane locked s
  | .verifyComplete lane => Sys2Proof.Machine.execVerifyComplete lane s
  | .laneLockLossTimeout lane => Sys2Proof.Machine.execLaneLockLossTimeout lane s
  | .lnkRetrain path lane => Sys2Proof.Machine.execLnkRetrain path lane s
  | .prbsTest path lane => Sys2Proof.Machine.execPrbsTest path lane s
  | .prbsTestDone lane errors => Sys2Proof.Machine.execPrbsTestDone lane errors s
  | .eyePointStart path value => Sys2Proof.Machine.execEyePointStart path value s
  | .eyePointDone errors bits => Sys2Proof.Machine.execEyePointDone errors bits s
  | .peakStep lane => Sys2Proof.Machine.execPeakStep lane s
  | .decSpareSwitch => Sys2Proof.Machine.execDecSpareSwitch s
  | .ptpMessage domain msg => Sys2Proof.Machine.execPtpMessage domain msg s
  | .holdoverEntry domain => Sys2Proof.Machine.execHoldoverEntry domain s
  | .rateChange domain rate => Sys2Proof.Machine.execRateChange domain rate s
  | .timeStep domain ns => Sys2Proof.Machine.execTimeStep domain ns s
  | .jumpAccept path => Sys2Proof.Machine.execJumpAccept path s
  | .switchRequest path sel => Sys2Proof.Machine.execSwitchRequest path sel s
  | .domainSwitch => Sys2Proof.Machine.execDomainSwitch s
  | .ppsEdge => Sys2Proof.Machine.execPpsEdge s
  | .ppsMissing => Sys2Proof.Machine.execPpsMissing s
  | .burnOrder path => Sys2Proof.Machine.execBurnOrder path s
  | .burnComplete good => Sys2Proof.Machine.execBurnComplete good s
  | .attest path => Sys2Proof.Machine.execAttest path s
  | .attestComplete => Sys2Proof.Machine.execAttestComplete s
  | .privateJtag => Sys2Proof.Machine.execPrivateJtag s
  | .mgtTransaction bytes reads => Sys2Proof.Machine.execMgtTransaction bytes reads s
  | .readClear path addr => Sys2Proof.Machine.execReadClear path addr s
  | .leadingRegisterRead path addr => Sys2Proof.Machine.execLeadingRegisterRead path addr s
  | .registerWrite path addr value => Sys2Proof.Machine.execRegisterWrite path addr value s
  | .flashDirectoryRead => Sys2Proof.Machine.execFlashDirectoryRead s

end Sys2Proof.Machine
end

