-- ==== Sys2Proof/Machine/Idle.lean ====
section
/-!
DEFINITION. What time does with no command waiting: one nanosecond of the reference oscillator passes (log entry 21).
-/
namespace Sys2Proof.Machine

/-- The idle timer takes microseconds in place of ticks: TICK_OK is clear, in a state in which it runs (R32). -/
def State.idleByTime (s : State) : Bool :=
  (s.mod.st == .unplanted || s.mod.st == .sown || s.mod.st == .growing) && s.mod.entry.isNone && !s.flag HZN_STAT_TICK_OK

/-- One nanosecond of the idle timer's microsecond: it is held at zero, and a microsecond counts as a tick does (R32). -/
def State.idleNano (s : State) : State :=
  if s.idleHeld then s.idleZero
  else if s.mod.idleNs = 999 then
    { s with mod := { s.mod with
        idleNs := 0, idle := if s.mod.st = .growing ∧ s.mod.busyTick then 0 else s.idleNext, busyTick := false } }
  else { s with mod := { s.mod with idleNs := s.mod.idleNs + 1 } }

/-- The time counter C takes one nanosecond while the oscillator runs (R477). -/
def State.timeOn (s : State) : State := { s with tim := { s.tim with c := s.tim.c + 1 } }

/-- One nanosecond passes. -/
def State.idleStep (s : State) : State :=
  if s.mod.st.powered && s.flag CLK_STAT_REF_OK then
    let s := s.timeOn
    if s.idleByTime then s.idleNano else s
  else s

end Sys2Proof.Machine
end

