-- ==== Sys2Proof/Safety.lean ====
section
/-!
DEFINITION. The terms the statements use: the canonical form of every store of the module, the fuses, and what one step leaves in force.
-/
namespace Sys2Proof.Machine

/-- The bytes of a flash device keep their canonical form. -/
abbrev FlashDev.wf (d : FlashDev) : Prop := mapCanon erasedByte d.bytes

/-- Every store of the module that reads or windows address is in canonical form: registers, flash devices, hardpan and its shadow, the
order and statement buffers, the microcode buffer, the read-back buffer. -/
abbrev Memory.wf (s : State) : Prop :=
  mapCanon regReset s.regs ∧ (∀ k : Fin 2, (s.flash.dev[k] : FlashDev).wf) ∧ mapCanon zeroByte s.sec.hardpan
    ∧ mapCanon zeroByte s.sec.shadow ∧ mapCanon zeroByte s.sec.order ∧ mapCanon zeroByte s.sec.stmt
    ∧ mapCanon zeroByte s.svc.ucBuf ∧ mapCanon zeroByte s.svc.readBack

/-- Each revoke and lock bit is held in three fuses (R366). -/
abbrev State.fusesOk (s : State) : Prop := ∀ i : Fin 10, (s.sec.fuses[i] : Nat) ≤ 3

/-- The invariant of the module: its stores are canonical and its fuse counts are counts of three fuses. -/
abbrev State.Inv (s : State) : Prop := Memory.wf s ∧ s.fusesOk

/-- A byte of the hardpan. -/
def State.hardpanByte (s : State) (a : Nat) : Byte := mapGet zeroByte s.sec.hardpan a

/-- Every programmed bit of the hardpan, every programmed fuse and every bad mark of `s` stands in `t`: the hardpan is programmed once
(R365, R366, R374). -/
abbrev State.burnsKept (s t : State) : Prop :=
  (∀ a, s.hardpanByte a &&& t.hardpanByte a = s.hardpanByte a) ∧ (∀ i : Fin 10, (s.sec.fuses[i] : Nat) ≤ (t.sec.fuses[i] : Nat))
    ∧ (∀ i : Fin 8, (s.sec.bad[i] : Bool) = true → (t.sec.bad[i] : Bool) = true)

/-- The code and the arguments of the newest record of the tail, if it is an EVENT record. -/
def State.lastEvent (s : State) : Option (Nat × List Nat) :=
  match s.aug.tail.getLast? with
  | some ⟨_, ⟨_, _, .event b⟩⟩ => some (b.code.toNat, b.args)
  | _ => none

/-- Among the records that the tail of `t` holds beyond those of `s` stands an EVENT record of this code with these arguments. -/
def State.notes (s t : State) (code : Nat) (args : List Nat) : Prop :=
  ∃ (r : TailRec) (b : EventBody), r ∈ t.aug.tail.drop s.aug.tail.length ∧ r.record.body = .event b ∧ b.code.toNat = code ∧ b.args = args

/-- A write of path `p` to address `a` reaches its register: the path works, the block is there and answers (R531, R540, R544). -/
abbrev State.opens (s : State) (p : Path) (a : Nat) : Prop := s.pathWorks p = true ∧ s.absentBlock a = false ∧ s.blockAnswers a = true

/-- What an access that is seen leaves of itself: the use of private JTAG, the idle timer, a wake during entry to Fallow (R32, R371, R508). -/
def State.seen (s : State) (p : Path) : State := (s.pathUsed p).accessSeen

/-! What a command leaves alone -/

/-- The areas of the state: one name for each field of `State`. -/
inductive Area where
  | pending | regs | latches | answers | mod | hz | prog | beds | grn | fast | eng | aug | flt | stm | dec | lanes | ring | lck | hst | tim | pwr
  | sec | flash | svc | free
deriving DecidableEq, Repr

/-- An area reads the same in two states. -/
abbrev Area.same : Area → State → State → Prop
  | .pending, r, s => s.pending = r.pending
  | .regs, r, s => s.regs = r.regs
  | .latches, r, s => s.latches = r.latches
  | .answers, r, s => s.answers = r.answers
  | .mod, r, s => s.mod = r.mod
  | .hz, r, s => s.hz = r.hz
  | .prog, r, s => s.prog = r.prog
  | .beds, r, s => s.beds = r.beds
  | .grn, r, s => s.grn = r.grn
  | .fast, r, s => s.fast = r.fast
  | .eng, r, s => s.eng = r.eng
  | .aug, r, s => s.aug = r.aug
  | .flt, r, s => s.flt = r.flt
  | .stm, r, s => s.stm = r.stm
  | .dec, r, s => s.dec = r.dec
  | .lanes, r, s => s.lanes = r.lanes
  | .ring, r, s => s.ring = r.ring
  | .lck, r, s => s.lck = r.lck
  | .hst, r, s => s.hst = r.hst
  | .tim, r, s => s.tim = r.tim
  | .pwr, r, s => s.pwr = r.pwr
  | .sec, r, s => s.sec = r.sec
  | .flash, r, s => s.flash = r.flash
  | .svc, r, s => s.svc = r.svc
  | .free, r, s => s.free = r.free

/-- `t` differs from `s` in the listed areas only. -/
def Only (areas : List Area) (s t : State) : Prop := ∀ p, p ∉ areas → p.same s t

/-- `t` differs from `s` in the listed areas only, and among the registers in those at the listed addresses only. -/
def Framed (areas : List Area) (regs : List Nat) (s t : State) : Prop := Only areas s t ∧ ∀ a, a ∉ regs → t.reg a = s.reg a

/-- A counter that has counted one more: it stands still at 0xFFFF_FFFF. -/
def bumped (w : Word) : Word := if w = 0xFFFFFFFF then w else w + 1

/-- A response of the host link waits in `t` behind those of `s`, with the counts of requests and of errors and LAST_TAG (R463). -/
abbrev State.responds (s t : State) (tag status code : Nat) (payload : List Byte) : Prop :=
  t.hst.responses = s.hst.responses ++ [⟨tag, status, code, payload⟩] ∧ t.hst.lastTag = tag ∧ t.reg HST_REQ_CNT = bumped (s.reg HST_REQ_CNT)
    ∧ t.reg HST_REQ_ERR_CNT = (if status = 0 then s.reg HST_REQ_ERR_CNT else bumped (s.reg HST_REQ_ERR_CNT))

/-- The registers that a record and the HOLD_N lines change: a seal that closes before the record, DEC_STAT and its count. -/
def noteRegs : List Nat := [AUG_RATE, AUG_STAT, DEC_HOLD_CNT, DEC_STAT]

/-- The module has lost its main rails: Off, nothing in flight, nothing sown, no lane and no link up; what the standby supply, the hardpan
and the flash keep stands, among it the fault history, the time counter and the bedrock bits of PWR_STAT (R30, R511, R527). -/
abbrev State.powerLost (s t : State) : Prop :=
  t.mod.st = .off ∧ t.mod.rails = false ∧ t.fast = Fast.empty ∧ t.prog = Prog.none ∧ t.aug.running = false ∧ t.aug.tail = [] ∧
    t.hst = Hst.off ∧ t.lanes = Vector.replicate 80 Lane.off ∧ t.flash = s.flash ∧ t.flt.hist = s.flt.hist ∧ t.tim.c = s.tim.c ∧
    t.tim.off = s.tim.off ∧ (∀ a, a ≠ PWR_STAT → a ≠ PWR_BROWNOUT_CNT → t.reg a = regReset a) ∧
    t.reg PWR_BROWNOUT_CNT = s.reg PWR_BROWNOUT_CNT ∧ t.fld PWR_STAT_WAKE_SRC = s.fld PWR_STAT_WAKE_SRC

/-- What a stream ring write of engine `e` leaves in `t`: if the engine runs and has started by tick `h` and keeps the ring, the ring holds the
entry at that tick (R194, R196). -/
abbrev State.ringTakes (s t : State) (e : Fin 2) (ring : Nat) (h : U64) (x : StreamEntry) : Prop :=
  ∀ (c : U64) (r : StreamRing), (s.eng[e] : Engine).running = true → (s.eng[e] : Engine).start = some c → c.toNat ≤ h.toNat →
    mapFind (s.eng[e] : Engine).streams ring = some r → 0 < r.decl.depth →
    (mapFind (t.eng[e] : Engine).streams ring).bind (fun r => mapFind r.entries h.toNat) = some x

/-- What the loading of a rotation to the phase that TOP_ROT_CTL names leaves in `t`: refused, with CFG_LOAD_STAT under SOURCE 3, or open and
loading (R272, R492 to R494). -/
abbrev State.rotLoads (s t : State) (ph : PhaseProg) (cur new : Load) (staged : Bool) : Prop :=
  match new.prog.phase? (s.fld TOP_ROT_CTL_PHASE) with
  | none => t.fld TOP_ROT_STAT_CODE = 5 ∧ t.svc = s.svc
  | some q =>
    match s.rotChecks ⟨cur, ph, new, q⟩ staged with
    | some x => t.fld TOP_ROT_STAT_CODE = 5 ∧ t.svc = s.svc ∧
        t.reg CFG_LOAD_STAT = BitVec.ofNat 32 (x.2 % 65536 * 65536 + 3 * 4096 + x.1) ∧ (s.canNumber = true → t.lastEvent = some (0x0302, [x.1, x.2]))
    | none => t.fld TOP_ROT_STAT_CODE = 1 ∧
        ∃ r, t.svc.rot = some r ∧ r.phase = q.ph.id ∧ r.staged = staged ∧ r.loaded = false ∧ r.armed = none

/-- The horizon count: a preset whose tick has come is in it (R40, R51). -/
abbrev State.countNow (s : State) : U64 :=
  if s.hz.due then s.reg64 HZN_PRESET_LO + (if s.follows then BitVec.ofNat 64 (s.fld HZN_CTL_SYNC_ADJ) else 0) else s.count

/-- The frame as a record made now marks it: LOOSE of its own, or of the record (R263). -/
def State.marked (s : State) (f : Frame) : Frame := { f with loose := f.loose || s.looseNow }

/-- No open run has ended at a tick before `h` (R325). -/
abbrev State.runsLast (s : State) (h : U64) : Prop := ∀ x, x ∈ s.aug.runs → h.toNat ≤ x.2.start.toNat + x.2.count

/-- The unit that an error of a loess work item names (R223, R260). -/
def workUnit : Work → Option Word
  | .siltFailed u => some u
  | .slip u _ _ _ _ => some u
  | _ => none

/-- The cause that a loess work item of these stages leaves: 3 for a read that failed, 5 for a block whose numbers differ (R214, R223, R259,
R260). -/
def workCause (stages : List Stage) : Work → Option Nat
  | .readFailed => some 3
  | .siltFailed _ => some 3
  | .slip _ i block data scale => if slips stages i block data scale then some 5 else none
  | _ => none

/-- No unit that a work item's error names has been at fault before, so that the error begins a test or is transient (R345, R350). -/
abbrev State.firstError (s : State) (w : Work) : Prop := ∀ u, workUnit w = some u → s.flt.hist.any (fun e => e.unit == u) = false

/-! The areas of each command -/

/-- Every area but the queue. -/
def everyArea : List Area := [.regs, .latches, .answers, .mod, .hz, .prog, .beds, .grn, .fast, .eng, .aug, .flt, .stm, .dec, .lanes, .ring, .lck, .hst, .tim, .pwr, .sec, .flash, .svc, .free]

/-- Every area but the queue and the flash devices. -/
def allButFlash : List Area := [.regs, .latches, .answers, .mod, .hz, .prog, .beds, .grn, .fast, .eng, .aug, .flt, .stm, .dec, .lanes, .ring, .lck, .hst, .tim, .pwr, .sec, .svc, .free]

/-- The areas of the state that a command may change. -/
def commandAreas : Instr → List Area
  | .pllUnlock _ => [.regs]
  | .mgtAddressMatch _ _ => [.mod]
  | .spareColumnLoaded _ => [.beds]
  | .stagedImageCopyDone => [.prog]
  | .tripGating => [.mod, .eng]
  | .thermalWarning _ _ | .dramStackHot _ _ | .powerMeasurement _ _ _ _ | .powerAlarm => [.regs, .pwr]
  | .hostWake _ => [.regs, .mod]
  | .tickPeriodMeasured _ | .sealClose | .mirrorAck _ | .mirrorTimeout => [.regs, .aug]
  | .warmingStart _ | .dramRefresh _ _ _ => [.regs, .eng]
  | .elasticCellReceived _ _ => [.aug, .ring]
  | .elasticRetransmit _ | .reroute | .launchConfirmDeadline => [.regs, .ring]
  | .lckFreezeMessage | .lckCaptureGap _ => [.regs, .lck]
  | .mirrorRejoinLoaded _ | .oldBedIdle _ => [.regs, .beds]
  | .grnTestDone _ => [.regs, .grn]
  | .linkMessage _ _ | .hostRetransmit => [.regs, .hst]
  | .ucSwap => [.regs, .svc]
  | .bindCommitHorizon => [.regs, .stm]
  | .trainTimeout _ | .eyePointDone _ _ | .peakStep _ => [.regs, .lanes]
  | .rateChange _ _ | .ppsMissing => [.regs, .tim]
  | .attestComplete => [.regs, .sec]
  | .summaryItem _ _ _ _ _ _ => [.regs, .eng, .stm]
  | .verdictOutput _ _ _ _ _ => [.regs, .fast, .dec]
  | .warmingEnd _ | .checkpointHorizon _ => [.regs, .eng, .aug]
  | .siltMoverRetry _ _ => [.regs, .eng, .free]
  | .orphanTailForward _ => [.regs, .aug, .hst]
  | .ringLinkDown _ | .leadTakeover | .roleChangeMessage _ | .lckLocateDone _ _ => [.regs, .aug, .ring]
  | .lckStart _ | .lckWindowClose _ _ | .lckPartnerDigest _ _ => [.regs, .ring, .lck]
  | .holdoverEntry _ | .timeStep _ _ | .domainSwitch | .ppsEdge => [.regs, .aug, .tim]
  | .privateJtag => [.regs, .aug, .sec]
  | .idleTimerExpiry => [.regs, .mod, .fast, .dec]
  | .fallowNow _ | .looseWrite _ _ | .sealNow _ | .bindReadPending _ | .bindReadActive _ | .burnOrder _ | .attest _ =>
    [.regs, .mod, .aug, .sec]
  | .acceptanceResume => [.regs, .hz, .fast, .dec]
  | .slabClose _ _ _ | .spillUnit _ _ _ _ _ => [.regs, .eng, .aug, .hst]
  | .modeChange => [.regs, .mod, .eng, .aug]
  | .recordEntry _ _ _ | .recordHoldRelease => [.regs, .fast, .aug, .dec]
  | .spareColumnSwitch _ => [.regs, .beds, .aug, .flt]
  | .corrCommit _ => [.regs, .prog, .beds, .aug]
  | .rotLoadComplete => [.regs, .beds, .aug, .svc]
  | .laneLockLossTimeout _ => [.regs, .lanes, .hst, .free]
  | .ptpMessage _ _ => [.regs, .aug, .tim, .free]
  | .tickLoss => [.regs, .hz, .fast, .aug, .dec]
  | .presetArm _ => [.regs, .mod, .hz, .aug, .sec]
  | .streamRingEntryWrite _ _ _ => [.regs, .fast, .eng, .aug, .hst]
  | .checkpointComplete _ | .lckSnapshot => [.regs, .eng, .aug, .lck, .hst]
  | .siltColumnRepairDone _ _ => [.regs, .fast, .eng, .aug, .flt]
  | .combiningSlot _ _ _ | .ringHello _ _ _ _ _ => [.regs, .fast, .aug, .dec, .ring]
  | .launchMessage _ _ _ => [.regs, .mod, .hz, .aug, .ring]
  | .lckEn _ _ | .lckStartCommit _ _ | .lckRearm _ => [.regs, .mod, .aug, .lck, .sec]
  | .bedSelftest _ _ | .grnWindowWrite _ _ _ => [.regs, .mod, .beds, .aug, .sec]
  | .corrArm _ _ _ | .corrCancel _ _ => [.regs, .mod, .prog, .aug, .sec]
  | .grnSnapshotStatus _ | .grnMacScan _ | .grnBankMarch _ => [.regs, .mod, .grn, .aug, .sec]
  | .linkReset _ => [.regs, .mod, .aug, .hst, .sec]
  | .rotArm _ _ | .ucVerify _ | .ucArm _ | .ucCancel _ => [.regs, .mod, .aug, .sec, .svc]
  | .bindCopyActive _ | .bindWriteEntry _ | .bindApply _ | .bindCancel _ | .bindCommitArm _ _ | .quarClearEntry _
  | .quarClearAll _ => [.regs, .mod, .aug, .stm, .sec]
  | .eyePointStart _ _ => [.regs, .mod, .aug, .lanes, .sec]
  | .decSpareSwitch => [.regs, .fast, .aug, .flt, .dec]
  | .jumpAccept _ | .switchRequest _ _ => [.regs, .mod, .aug, .tim, .sec]
  | .launchCommit _ _ => [.regs, .mod, .hz, .aug, .ring, .sec]
  | .lckFreeze _ => [.regs, .mod, .aug, .ring, .lck, .sec]
  | .mirrorRelease _ _ _ | .rotCancel _ => [.regs, .mod, .beds, .aug, .sec, .svc]
  | .mirrorReleaseBoundary => [.regs, .prog, .beds, .fast, .flt, .dec]
  | .prbsTestDone _ _ => [.regs, .mod, .lanes, .ring, .hst, .free]
  | .flashDirectoryRead => [.regs, .mod, .fast, .eng, .aug, .dec]
  | .engineReset _ _ => [.regs, .mod, .fast, .eng, .aug, .sec, .free]
  | .rotLoad _ => [.regs, .mod, .prog, .beds, .aug, .sec, .svc]
  | .lnkRetrain _ _ | .prbsTest _ _ => [.regs, .mod, .aug, .lanes, .hst, .sec, .free]
  | .presetApply => [.regs, .mod, .hz, .fast, .eng, .aug, .flt, .dec]
  | .txBlock _ => [.regs, .eng, .aug, .dec, .lanes, .ring, .hst, .free]
  | .readClear _ _ | .leadingRegisterRead _ _ => [.regs, .latches, .answers, .mod, .aug, .sec, .svc, .free]
  | .firmwareLoadComplete => [.regs, .mod, .fast, .eng, .aug, .dec, .lanes, .hst, .free]
  | .tick _ _ | .flywheelTick => [.regs, .mod, .hz, .fast, .eng, .aug, .flt, .dec, .ring]
  | .fallowEntryComplete => [.regs, .mod, .hz, .fast, .eng, .aug, .dec, .lanes, .hst, .free]
  | .launch => [.regs, .mod, .hz, .fast, .eng, .aug, .flt, .dec, .lanes, .ring]
  | .firmwareWatchdogExpiry | .frameEntry _ _ _ _ | .settledAnswer _ _ _ _ _ | .contextPackageWrite _ _ _ _ _ _ _
  | .sealSigned _ => [.regs, .mod, .beds, .fast, .eng, .aug, .flt, .dec, .lanes, .svc, .free]
  | .flashRestart _ => [.regs, .mod, .prog, .beds, .fast, .eng, .aug, .dec, .lanes, .tim, .sec]
  | .rotChangeHorizon => [.regs, .mod, .prog, .beds, .fast, .eng, .aug, .stm, .dec, .tim, .svc]
  | .laneBlockReceived _ _ | .trainComplete _ | .rateStepDone _ _ =>
    [.regs, .mod, .beds, .fast, .eng, .aug, .flt, .dec, .lanes, .hst, .svc, .free]
  | .frameItem _ _ _ _ _ _ _ => [.regs, .mod, .beds, .fast, .eng, .aug, .flt, .stm, .dec, .lanes, .svc, .free]
  | .settledRelease _ _ _ => [.regs, .mod, .beds, .fast, .eng, .aug, .flt, .dec, .lanes, .lck, .svc, .free]
  | .bedExit _ _ _ _ => [.regs, .mod, .beds, .fast, .eng, .aug, .flt, .dec, .lanes, .ring, .lck, .svc, .free]
  | .dramTransactionBoundary _ _ _ => [.regs, .mod, .beds, .fast, .eng, .aug, .flt, .dec, .lanes, .lck, .hst, .svc, .free]
  | .selfTestComplete _ _ _ | .ringFrameReceived _ _ _ | .verifyComplete _ =>
    [.regs, .mod, .beds, .fast, .eng, .aug, .flt, .dec, .lanes, .ring, .hst, .svc, .free]
  | .mainRailsValid _ | .mainRailsLost | .brownOut | .pwrMainEnLow | .rstWarmNAssert | .rstWarmNRelease | .vstbyLost
  | .topWarmReset _ | .drainComplete | .thermalTrip _ _ | .criticalShutdown _ _ | .fallowAbort _ | .restoreComplete
  | .burnComplete _ | .mgtTransaction _ _ | .registerWrite _ _ _ => allButFlash
  | .dramInitDone | .imageLoadComplete | .warmWakingComplete _ _ | .sowBegin _ _ | .sowData _ _ _ | .sowEnd _ | .regRead _ _
  | .regWrite _ _ _ | .flashErase _ _ _ | .flashProgram _ _ _ _ | .flashRead _ _ | .recAck _ _ _ | .captureRead _ _
  | .coldWrite _ _ _ | .hostCellReceived _ _ | .hostLinkUp | .hostLinkDown => everyArea

end Sys2Proof.Machine
end

