-- ==== Sys2Proof/Certificates/Slice0/Obligations.lean ====
section
/-!
DEFINITION. The statements about the module.
-/
open Sys2Proof Sys2Proof.Machine


/-! The queue and the step -/

/-- A step takes the command at the front of the queue and runs it with the queue's rest. -/
def Obligations.StepRunsTheFrontCommand : Prop :=
  ∀ (c : Instr) (rest : List Instr) (s : State), s.pending = c :: rest → step s = exec c { s with pending := rest }

/-- On an empty queue a step lets one nanosecond pass while the module is powered and its oscillator runs: the time counter C takes it; the
idle timer's microsecond and nothing else may change beside it (log entry 21, the model's choice). -/
def Obligations.IdleStepPassesOneNanosecond : Prop :=
  ∀ s : State, s.pending = [] → ∃ t, step s = .next t ∧ Only [.tim, .mod] s t ∧
    t.tim.c = (if s.mod.st ≠ .off ∧ s.flag CLK_STAT_REF_OK = true then s.tim.c + 1 else s.tim.c) ∧
    t.mod.st = s.mod.st ∧ (s.flag HZN_STAT_TICK_OK = true → t.mod = s.mod)

/-- Every command answers a next state, in every state, and leaves the queue of the commands that wait as it is: nothing stops the module. -/
def Obligations.EveryCommandAnswersAndLeavesTheQueue : Prop :=
  (∀ (c : Instr) (s : State), ∃ t, exec c s = .next t) ∧
  (∀ (c : Instr) (s t : State), exec c s = .next t → t.pending = s.pending)

/-- Every command changes only the areas of the state that `commandAreas` names for it. -/
def Obligations.CommandsKeepTheOtherAreas : Prop :=
  ∀ (c : Instr) (s t : State), exec c s = .next t → Only (commandAreas c) s t

/-! Invariants -/

/-- Reset meets the invariant. -/
def Obligations.ResetMeetsTheInvariant : Prop := State.reset.Inv

/-- Every step keeps every store in its canonical form and every fuse count a count of three fuses. -/
def Obligations.EveryStepKeepsTheInvariant : Prop :=
  ∀ s t : State, s.Inv → step s = .next t → t.Inv

/-- No step clears a programmed bit of the hardpan, a programmed fuse or the mark of a bad target (R365, R366, R374). -/
def Obligations.EveryStepKeepsWhatIsBurned : Prop :=
  ∀ s t : State, s.fusesOk → step s = .next t → s.burnsKept t

/-! Supplies and start-up -/

/-- The state after reset: Off with both HOLD_N lines asserted, every register at its Reset value, the horizon count at zero, nothing
waiting, nothing recorded, nothing sown (R28, R40, R539; that the model starts in Off is log entry 3). -/
def Obligations.ResetIsOffWithResetValues : Prop :=
  State.reset.mod.st = .off ∧ State.reset.pending = [] ∧ State.reset.count = 0 ∧ State.reset.holdLine 0 = true ∧ State.reset.holdLine 1 = true ∧
    State.reset.dec.lines = Vector.replicate 2 true ∧ (∀ a, State.reset.reg a = regReset a) ∧ State.reset.prog = Prog.none ∧
    State.reset.fast = Fast.empty ∧ State.reset.aug.tail = [] ∧ State.reset.hst = Hst.off ∧
    regReset FLT_WINDOW = 0x01000000 ∧ regReset FLT_DIV_LIMIT = 2 ∧ regReset PWR_IDLE_TICKS = 0 ∧ regReset THM_WARN = 0x5F ∧
    regReset DEC_STAT = 0x300

/-- MAIN_RAILS_VALID in Off starts a cold Waking, unless a critical shutdown still keeps the rails down: the count, the time counter and
every unit start anew, PWR_STAT names the source, a hardpan that fails its check halts the Waking with boot code 1 (R35, R40, R517, R554). -/
def Obligations.MainRailsStartAColdWaking : Prop :=
  ∀ (temps : Vector Int 18) (s : State), s.mod.st = .off →
    (s.mod.criticalOff = false ∨ ({ s with pwr := { s.pwr with temps := temps } } : State).allCool = true) →
    ∃ t, exec (.mainRailsValid temps) s = .next t ∧
      t.mod.st = (if t.factoryGood then .waking else .halted) ∧ (t.factoryGood = false → t.fld CFG_BOOT_STAT_CODE = 1 ∧ t.mod.bootRom = true) ∧
      t.mod.warm = false ∧ t.mod.rails = true ∧ t.count = 0 ∧ t.tim.c = 0 ∧ t.fast.frames = [] ∧ t.prog = Prog.none ∧
      t.fld PWR_STAT_WAKE_SRC = (if s.mod.wakeOff then 1 else 3) ∧ t.pwr.temps = temps ∧ t.flash = s.flash

/-- Loss of the main rails, in every powered state: PWR_MAIN_EN low, a brown-out and a critical junction temperature remove them too, the last two
with their mark in PWR_STAT, and loss of VSTBY clears bedrock as well (R30, R513, R524, R555, R559). The model's readings in it: log entry 39. -/
def Obligations.LosingTheRailsGoesOff : Prop :=
  (∀ s : State, s.mod.st ≠ .off → ∃ t, exec .mainRailsLost s = .next t ∧ s.powerLost t) ∧
  (∀ s : State, s.mod.st ≠ .off → ∃ t, exec .pwrMainEnLow s = .next t ∧ s.powerLost t ∧ t.mod.mainEn = false) ∧
  (∀ s : State, s.mod.st ≠ .off → s.mod.st ≠ .fallow → ∃ t, exec .brownOut s = .next t ∧ s.powerLost t) ∧
  (∀ s : State, s.mod.st = .fallow → ∃ t, exec .brownOut s = .next t ∧ t.mod.st = .off ∧ t.flag PWR_STAT_BROWNOUT = true ∧
    t.reg PWR_BROWNOUT_CNT = bumped (s.reg PWR_BROWNOUT_CNT) ∧ t.flash = s.flash) ∧
  (∀ (k : Fin 18) (temp : Int) (s : State), s.mod.st ≠ .off → k.val < 16 → 115 * 16 ≤ temp →
    ∃ t, exec (.criticalShutdown k temp) s = .next t ∧ t.mod.st = .off ∧ t.mod.criticalOff = true ∧ t.flag PWR_STAT_THERMAL_OFF = true ∧
      t.flash = s.flash) ∧
  (∀ s : State, ∃ t, exec .vstbyLost s = .next t ∧ t.mod.st = .off ∧ t.mod.vstby = false ∧ (∀ a, t.reg a = regReset a) ∧ t.flt.hist = [] ∧
    t.tim = State.reset.tim ∧ t.flash = s.flash)

/-- The steps of a cold Waking: the DRAM has been cleared, the flash directory has been read, the firmware has been read and checked. Each sets
CFG_BOOT_STAT; a bad directory or firmware halts the Waking with its boot code (R209, R376, R379, R380). The model's readings in it: log entries
8 and 41. -/
def Obligations.ColdWakingSteps : Prop :=
  (∀ s : State, s.coldWaking = true → s.mod.dramDone = false →
    exec .dramInitDone s = .next s.dramReady.siltAnswers.serveHeld ∧ s.dramReady.mod = { s.mod with dramDone := true } ∧
      s.dramReady.flag LSS_MEM_STAT_INIT_DONE = true ∧ s.dramReady.flag (LSS_MEM_STAT_INIT_DONE.on (lssOff 1)) = true ∧
      s.dramReady.fld CFG_BOOT_STAT_STEP = max 2 (s.fld CFG_BOOT_STAT_STEP) ∧
      (∀ e : Fin 2, (s.dramReady.eng[e] : Engine) = { s.eng[e] with silt := [], siltCleared := true }) ∧
      Framed [.regs, .mod, .eng] [LSS_MEM_STAT, LSS_MEM_STAT + lssOff 1, CFG_BOOT_STAT] s s.dramReady ∧
      (s.svc.siltWaits = [] → s.hst.held = [] → s.hst.requests = [] → s.dramReady.siltAnswers.serveHeld = s.dramReady)) ∧
  (∀ s : State, s.coldWaking = true → s.mod.dirRead = false → ∃ t, exec .flashDirectoryRead s = .next t ∧
    (if (s.flashDev 0).present = false then t.mod.st = .halted ∧ t.fld CFG_BOOT_STAT_CODE = 2 ∧ t.mod.bootRom = true
     else if directoryGood s.directory = false then t.mod.st = .halted ∧ t.fld CFG_BOOT_STAT_CODE = 3 ∧ t.mod.bootRom = true
     else t.mod = { s.mod with dirRead := true } ∧ t.fld CFG_BOOT_STAT_STEP = max 3 (s.fld CFG_BOOT_STAT_STEP) ∧
       Framed [.regs, .mod] [CFG_FLASH0, CFG_FLASH0 + 4, CFG_BOOT_STAT] s t)) ∧
  (∀ s : State, s.coldWaking = true → s.mod.dirRead = true → s.mod.fwOk = false → ∃ t, exec .firmwareLoadComplete s = .next t ∧
    (if s.firmwareCode s.firmware = 0 then
       t.mod.fwOk = true ∧ t.mod.st = .waking ∧ t.mod.fwDigest = sha512 (s.firmware.take (s.firmware.length - 1280)) ∧
         Only [.regs, .mod, .lanes, .hst, .free] s t
     else t.mod.st = .halted ∧ t.mod.fwOk = false ∧ t.mod.bootRom = true ∧ t.fld CFG_BOOT_STAT_CODE = s.firmwareCode s.firmware))

/-- The image of flash has been streamed in: the module is Sown when the loader takes it, else Unplanted with boot code 0x10 where flash holds no
image and 0x11 where the loader refuses it; requests that waited for the Waking follow (R30, R379, R380). The model's readings in it: log entries
13, 29 and 45. -/
def Obligations.ImageLoadEndsTheWaking : Prop :=
  ∀ s : State, s.imageMayLoad = true →
    exec .imageLoadComplete s = .next s.imageLoaded.serveHeld ∧
    (s.imageLoaded.mod.st = if (s.bootStep 6).loadFlash.1 then .sown else .unplanted) ∧
    (s.imageLoaded.fld CFG_BOOT_STAT_CODE = if (s.bootStep 6).loadFlash.1 then 0 else if s.flashImage = none then 0x10 else 0x11) ∧
    (s.flashImage = none → (s.bootStep 6).loadFlash.1 = false)

/-- A warm reset: the contact takes the verdicts of the frames in flight with it and holds the module; its release, a request of software and the end
of a drain start the warm Waking, in which the horizon count goes on; it ends in Sown or Unplanted, or turns cold on a digest that does not match
(R34, R40, R359, R555). The model's readings in it: log entries 25 to 30. -/
def Obligations.WarmResetAndWaking : Prop :=
  (∀ s : State, s.mod.st = .sown ∨ s.mod.st = .unplanted ∨ s.mod.st = .growing ∨ s.mod.st = .halted → s.mod.entry = none → s.burning = false →
    ∃ t, exec .rstWarmNAssert s = .next t ∧ t.mod.st = .waking ∧ t.mod.warm = true ∧ t.mod.rstHeld = true ∧ t.mod.rstLow = true ∧
      t.fast.frames = [] ∧ t.fast.arrived = [] ∧ t.dec.queue = Vector.replicate 8 [] ∧ t.mod.lost = s.lostEntries ∧
      t.aug.tail = s.aug.tail ∧ t.count = s.count) ∧
  (∀ s : State, s.mod.st = .off ∨ s.mod.st = .waking → exec .rstWarmNAssert s = .next { s with mod := { s.mod with rstLow := true } }) ∧
  (∀ s : State, s.mod.rstHeld = false → exec .rstWarmNRelease s = .next { s with mod := { s.mod with rstLow := false } }) ∧
  (∀ s : State, s.mod.rstHeld = true → s.mod.copyDigest ≠ [] →
    ∃ t, exec .rstWarmNRelease s = .next t ∧ t.mod.st = .waking ∧ t.mod.warm = true ∧ t.mod.rstHeld = false ∧ t.count = s.count ∧
      t.flash = s.flash) ∧
  (∀ (p : Path) (s : State), s.opens p TOP_CTL → s.mod.entry = none → s.mod.st = .sown ∨ s.mod.st = .unplanted → s.burning = false →
    s.mod.copyDigest ≠ [] → ∃ t, exec (.topWarmReset p) s = .next t ∧ t.mod.st = .waking ∧ t.mod.warm = true ∧ t.count = s.count) ∧
  (∀ (p : Path) (s : State), s.opens p TOP_CTL → s.mod.entry = none → s.mod.st = .growing →
    ∃ t, exec (.topWarmReset p) s = .next t ∧ t.mod.st = .growing ∧ t.mod.draining = true ∧ t.dec.lines = Vector.replicate 2 true) ∧
  (∀ (p : Path) (s : State), s.opens p TOP_CTL → s.mod.entry = none → s.mod.st = .halted →
    ∃ t, exec (.topWarmReset p) s = .next t ∧ t.mod.st = .halted ∧ t.mod.resetWaits = true) ∧
  (∀ s : State, (s.mod.draining = true ∨ s.mod.resetWaits = true) → s.mod.st.serving = true → s.drained = true → s.mod.copyDigest ≠ [] →
    ∃ t, exec .drainComplete s = .next t ∧ t.mod.st = .waking ∧ t.mod.warm = true ∧ t.mod.draining = false ∧ t.count = s.count) ∧
  (∀ (fwBad imgBad : Bool) (s : State), s.warmMayEnd fwBad imgBad = true → fwBad = true ∨ imgBad = true ∧ s.prog.copying = false →
    exec (.warmWakingComplete fwBad imgBad) s = .next s.coldStart ∧ s.coldStart.mod.warm = false ∧ s.coldStart.count = 0 ∧
      s.coldStart.mod.st = (if s.coldStart.factoryGood then .waking else .halted)) ∧
  (∀ s : State, s.warmMayEnd false false = true → s.prog.image ≠ none →
    (s.warmEnds.mod.st = .sown ∨ s.warmEnds.mod.st = .unplanted) ∧ exec (.warmWakingComplete false false) s = .next s.warmEnds.serveHeld)

/-! Temperatures, power, clocks -/

/-- Every sensor command stores the temperature and shows WARN; a junction at THM_WARN counts a warning, a stack at 85 °C halves its refresh
interval (R207, R524). The model's readings in it: log entry 35. The power meter, the alarm and the clock monitors: PWR_STAT, the throttling
in force and its counters follow R522 and R523, CLK_STAT and its counter follow R521. -/
def Obligations.SensorsAndMonitorsReport : Prop :=
  (∀ (k : Fin 18) (temp : Int) (s : State), s.mod.st ≠ .off → temp < tripLevel k →
    ∃ t, exec (.thermalTrip k temp) s = .next t ∧ t.pwr = { s.pwr with temps := s.pwr.temps.set k temp } ∧
      Framed [.regs, .pwr] [THM_STAT] s t) ∧
  (∀ (k : Fin 18) (temp : Int) (s : State), s.mod.st ≠ .off → k.val < 16 → s.warnLevel ≤ temp →
    ∃ t, exec (.thermalWarning k temp) s = .next t ∧ t.pwr = { s.pwr with temps := s.pwr.temps.set k temp } ∧ t.flag THM_STAT_WARN = true ∧
      t.flag THM_STAT_WARN_SEEN = true ∧ t.reg THM_WARN_CNT = bumped (s.reg THM_WARN_CNT) ∧ Framed [.regs, .pwr] [THM_STAT, THM_WARN_CNT] s t) ∧
  (∀ (d : Fin 2) (temp : Int) (s : State), s.mod.st ≠ .off →
    ∃ t, exec (.dramStackHot d temp) s = .next t ∧ t.pwr.temps.toList = s.pwr.temps.toList.set (16 + d.val) temp ∧
      (t.pwr.hotRefresh[d] : Bool) = decide (85 * 16 ≤ temp) ∧ t.flag (LSS_MEM_STAT_HOT.on (lssOff d)) = decide (85 * 16 ≤ temp) ∧
      Framed [.regs, .pwr] [THM_STAT, LSS_MEM_STAT + lssOff d] s t) ∧
  (∀ (m v i b : BitVec 16) (s : State), s.mod.st ≠ .off →
    ∃ t, exec (.powerMeasurement m v i b) s = .next t ∧ t.reg PWR_MEAS = m.setWidth 32 ∧ t.reg PWR_VIN = v.setWidth 32 ∧
      t.reg PWR_IIN = i.setWidth 32 ∧ t.reg PWR_VSTBY = b.setWidth 32 ∧ t.flag PWR_STAT_OVER = decide (s.budget < m.toNat) ∧
      t.flag PWR_STAT_THROTTLE =
        (decide (s.budget < m.toNat) || s.flag PWR_STAT_THROTTLE && !(decide (m.toNat * 100 ≤ s.budget * 95) && decide (9 ≤ s.pwr.calmMs))) ∧
      Framed [.regs, .pwr] [PWR_MEAS, PWR_VIN, PWR_IIN, PWR_VSTBY, PWR_PEAK, PWR_STAT] s t) ∧
  (∀ s : State, s.flag PWR_STAT_THROTTLE = true → s.flag PWR_STAT_OVER = true → 100 ≤ s.pwr.throttleMs → s.pwr.alarmed = false →
    ∃ t, exec .powerAlarm s = .next t ∧ t.flag PWR_STAT_ALARM = true ∧ t.pwr = { s.pwr with alarmed := true } ∧
      t.reg PWR_OVER_CNT = bumped (s.reg PWR_OVER_CNT) ∧ Framed [.regs, .pwr] [PWR_STAT, PWR_OVER_CNT] s t) ∧
  (∀ s : State, s.mod.st ≠ .off →
    ∃ t, exec (.pllUnlock 0) s = .next t ∧ t.flag CLK_STAT_REF_LOSS = true ∧ t.flag CLK_STAT_REF_OK = false ∧ Framed [.regs] [CLK_STAT] s t) ∧
  (∀ (d : Fin 60) (s : State), s.mod.st ≠ .off → fromPll d.val = true →
    ∃ t, exec (.pllUnlock d) s = .next t ∧ t.flag CLK_STAT_UNLOCK = true ∧ t.flag CLK_STAT_PLLS_LOCKED = false ∧
      t.reg CLK_UNLOCK_CNT = bumped (s.reg CLK_UNLOCK_CNT) ∧ Framed [.regs] [CLK_STAT, CLK_UNLOCK_CNT] s t)

/-- A thermal trip asserts THM_TRIP_N: in Growing the module halts with cause 4 and names the source, in Unplanted, Sown and Fallow the rails go at
once; once the verdicts due are out the beds and engines are gated (R524, R525). The model's readings in it: log entry 34. -/
def Obligations.ThermalTripStopsTheModule : Prop :=
  (∀ (k : Fin 18) (temp : Int) (s : State), s.mod.st = .growing → s.mod.entry = none → tripLevel k ≤ temp → s.flag THM_STAT_TRIPPED = false →
    ∃ t, exec (.thermalTrip k temp) s = .next t ∧ t.mod.st = .halted ∧ t.mod.haltCause = 4 ∧ t.mod.thmTrip = true ∧
      t.flag THM_STAT_TRIPPED = true ∧ t.fld THM_STAT_TRIP_SRC = (if k.val < 16 then 1 else 2) ∧ t.dec.lines = Vector.replicate 2 true) ∧
  (∀ (k : Fin 18) (temp : Int) (s : State), s.mod.st = .sown ∨ s.mod.st = .unplanted ∨ s.mod.st = .fallow → s.mod.entry = none →
    tripLevel k ≤ temp → ∃ t, exec (.thermalTrip k temp) s = .next t ∧ t.mod.st = .off ∧ t.mod.thmTrip = true ∧ t.flash = s.flash) ∧
  (∀ s : State, s.flag THM_STAT_TRIPPED = true → s.mod.st = .halted → s.verdictsDue = false →
    ∃ t, exec .tripGating s = .next t ∧ t.mod = { s.mod with tripGated := true } ∧
      (∀ e : Fin 2, (t.eng[e] : Engine) = { s.eng[e] with running := false }) ∧ Framed [.mod, .eng] [] s t)

/-- The firmware watchdog halts the module with halt cause 3 and both HOLD_N lines asserted; verdicts that are due take the substitute with cause 3
(R36, R37, R354). The model's readings in it: log entry 48. -/
def Obligations.WatchdogHaltsTheModule : Prop :=
  ∀ s : State, s.mod.fwOk = true → s.mod.st = .growing ∨ s.mod.st = .sown ∨ s.mod.st = .unplanted → s.mod.entry = none →
    ∃ t, exec .firmwareWatchdogExpiry s = .next t ∧ t.mod.st = .halted ∧ t.mod.haltCause = 3 ∧ t.dec.lines = Vector.replicate 2 true ∧
      t.fast.frames = s.fast.frames.map (fun f => f.halted (s.substBits 3)) ∧ t.reg FLT_UNIT = firmwareUnit ∧
      (∀ e : Fin 2, (t.eng[e] : Engine).running = false ∧ (t.eng[e] : Engine).queries = [])

/-! Fallow -/

/-- Entry to Fallow: the timer's expiry starts it where nothing of R507 is open and waits where something is, FALLOW_NOW asks for it, completion
leaves the module Fallow with both tiers stopped (R32, R507, R508, R509). The model's readings in it: log entries 37 and 48. An abandoned
entry: the module stays in its state, PWR_STAT names the abort point, HOLD_N waits for a boundary; a halt cause or a reset that came
meanwhile follows (R508, R510). The model's readings in it: log entry 31. -/
def Obligations.FallowIsEnteredOrAbandoned : Prop :=
  (∀ s : State, s.mayFallow = true → s.idleHeld = false → s.idleExpired = true → s.fallowBlocked = false →
    ∃ t, exec .idleTimerExpiry s = .next t ∧ t.mod = { s.mod with entry := some ⟨false, none, false⟩, expiryWaits := false, fallowNow := false } ∧
      t.dec.lines = Vector.replicate 2 true ∧ Framed [.regs, .mod, .fast, .dec] [DEC_HOLD_CNT, DEC_STAT] s t) ∧
  (∀ s : State, s.mayFallow = true → s.idleHeld = false → s.idleExpired = true → s.fallowBlocked = true →
    exec .idleTimerExpiry s = .next { s with mod := { s.mod with expiryWaits := true } }) ∧
  (∀ (p : Path) (s : State), s.opens p PWR_CTL → s.mayFallow = true → s.idleHeld = false →
    ∃ t, exec (.fallowNow p) s = .next t ∧ t.mod = { (s.seen p).mod with fallowNow := true } ∧ Framed [.mod] [] (s.seen p) t) ∧
  (∀ s : State, s.mod.entry = some ⟨false, none, false⟩ →
    ∃ t, exec .fallowEntryComplete s = .next t ∧ t.mod.st = .fallow ∧ t.mod.left = s.mod.st ∧ t.mod.entry = none ∧ t.aug.running = false ∧
      (∀ e : Fin 2, (t.eng[e] : Engine).running = false) ∧ t.hz = { s.hz with syncOut := false } ∧ t.tim = s.tim ∧
      t.reg PWR_FALLOW_CNT = bumped (s.reg PWR_FALLOW_CNT)) ∧
  (∀ (k : Fin 6) (s : State), k.val < 4 → s.mod.entry = some ⟨true, none, false⟩ →
    ∃ t, exec (.fallowAbort k) s = .next t ∧ t.mod = { s.mod with entry := none, idle := 0, idleNs := 0, wakeHold := true } ∧
      t.fld PWR_STAT_LAST_ABORT = k.val + 1 ∧ t.reg PWR_ABORT_CNT = bumped (s.reg PWR_ABORT_CNT) ∧
      Framed [.regs, .mod, .fast, .dec] [PWR_STAT, PWR_ABORT_CNT, DEC_HOLD_CNT, DEC_STAT] s t) ∧
  (∀ (k : Fin 6) (c : Nat) (s : State), k.val < 4 → s.mod.entry = some ⟨false, some c, false⟩ → s.mod.st = .growing →
    ∃ t, exec (.fallowAbort k) s = .next t ∧ t.mod.st = .halted ∧ t.mod.haltCause = c)

/-- Wake events: in Fallow the first one starts the restore and a management transfer is held; in Off a management address waits for the rails;
during entry the event abandons it (R473, R508, R514, R515, R517). The model's readings in it: log entries 32 and 33. The restore returns
the module to the state it left; after Growing it accepts again at a horizon boundary only, and PWR_STAT names the source of the wake (R33,
R512, R516). -/
def Obligations.FallowIsLeft : Prop :=
  (∀ (bs : List Byte) (n : Nat) (s : State), s.mod.st = .fallow → s.mod.wakeSrc = none → s.mod.mgtHeld = none →
    exec (.mgtAddressMatch bs n) s =
      .next { s with mod := { s.mod with wakeSrc := some (.management, s.tim.c), mgtHeld := some ⟨bs, n⟩ } }) ∧
  (∀ (bs : List Byte) (n : Nat) (s : State), s.mod.st = .off → s.mod.vstby = true →
    exec (.mgtAddressMatch bs n) s = .next { s with mod := { s.mod with wakeOff := true } }) ∧
  (∀ (bs : List Byte) (n : Nat) (e : FallowEntry) (s : State), s.mod.st = .growing → s.mod.entry = some e →
    exec (.mgtAddressMatch bs n) s = .next { s with mod := { s.mod with entry := some { e with wake := true } } }) ∧
  (∀ (l : Fin 8) (s : State), s.flag PWR_CTL_WAKE_HOST_EN = true → s.mod.st = .fallow → s.mod.wakeSrc = none →
    ∃ t, exec (.hostWake l) s = .next t ∧ t.mod = { s.mod with wakeSrc := some (.hostLink, s.tim.c) } ∧
      t.reg HST_WAKE_CNT = bumped (s.reg HST_WAKE_CNT) ∧ Framed [.regs, .mod] [HST_WAKE_CNT] s t) ∧
  (∀ (l : Fin 8) (s : State), s.flag PWR_CTL_WAKE_HOST_EN = false → exec (.hostWake l) s = .next s) ∧
  (∀ (src : WakeSrc) (c : U64) (s : State), s.mod.st = .fallow → s.mod.wakeSrc = some (src, c) → s.mod.rstWaits = false → s.mod.mgtHeld = none →
    ∃ t, exec .restoreComplete s = .next t ∧ t.mod.st = s.mod.left ∧ t.mod.wakeSrc = none ∧
      t.mod.wakeHold = (s.mod.left == .growing) ∧ t.count = s.count ∧ t.aug.running = true ∧
      (∀ e : Fin 2, (t.eng[e] : Engine).running = (s.eng[e] : Engine).start.isSome) ∧ t.flag PWR_STAT_WOKE = true ∧
      (src = .management → t.fld PWR_STAT_WAKE_SRC = 1) ∧ (src = .hostLink → t.fld PWR_STAT_WAKE_SRC = 2) ∧ t.flash = s.flash)

/-! The horizon count -/

/-- The count starts at zero at a cold Waking and moves by one at every tick and every flywheel tick of a powered module, wrapping at 2^64, and
at a tick that returns within half a period of the last flywheel tick not at all; a command that does not name the count among its areas
leaves it (R40, R41, R42, R45). Presets: armed outside Growing with low bits zero and otherwise ignored, loaded when their pulse or sync
tick has come, in follow mode plus SYNC_ADJ, with record 0x0205 (R51). -/
def Obligations.TicksAndPresetsMoveTheCount : Prop :=
  (∀ (ps : Nat) (sync : Bool) (s : State), s.mod.st ≠ .off → s.sameTick ps = false →
    ∃ t, exec (.tick ps sync) s = .next t ∧ t.count = s.countNow + 1 ∧ t.hz.loss = false ∧ t.flag HZN_STAT_FLYWHEEL = false ∧ t.mod.st = s.mod.st) ∧
  (∀ (ps : Nat) (sync : Bool) (s : State), s.mod.st ≠ .off → s.sameTick ps = true →
    ∃ t, exec (.tick ps sync) s = .next t ∧ t.count = s.count ∧ t.hz.loss = false) ∧
  (∀ s : State, s.mod.st ≠ .off → s.hz.loss = true → s.tickPs ≠ 0 →
    ∃ t, exec .flywheelTick s = .next t ∧ t.count = s.countNow + 1 ∧ t.hz.loss = true ∧ t.hz.flyTicks = s.hz.flyTicks + 1) ∧
  (∀ (temps : Vector Int 18) (s : State), s.mod.st = .off →
    (s.mod.criticalOff = false ∨ ({ s with pwr := { s.pwr with temps := temps } } : State).allCool = true) →
    ∃ t, exec (.mainRailsValid temps) s = .next t ∧ t.count = 0) ∧
  (∀ (ps : Nat) (sync : Bool) (s : State), s.mod.st = .off → exec (.tick ps sync) s = .next s) ∧
  (∀ (c : Instr) (s t : State), exec c s = .next t → .hz ∉ commandAreas c → t.count = s.count) ∧
  (∀ (p : Path) (s : State), s.opens p HZN_CTL → s.mod.st ≠ .growing → lowZero 16 (s.reg64 HZN_PRESET_LO) = true →
    ∃ t, exec (.presetArm p) s = .next t ∧ t.hz = { s.hz with armed := true } ∧ Framed [.hz] [] (s.seen p) t) ∧
  (∀ (p : Path) (s : State), s.opens p HZN_CTL → s.mod.st = .growing ∨ lowZero 16 (s.reg64 HZN_PRESET_LO) = false →
    exec (.presetArm p) s = .next (s.seen p)) ∧
  (∀ s : State, s.hz.due = true → s.mod.st ≠ .growing →
    ∃ t, exec .presetApply s = .next t ∧
      t.count = s.reg64 HZN_PRESET_LO + (if s.follows then BitVec.ofNat 64 (s.fld HZN_CTL_SYNC_ADJ) else 0) ∧ t.hz.armed = false ∧
      t.hz.due = false ∧ t.flag HZN_STAT_PRESET_DONE = true ∧ t.flag HZN_STAT_SLIP = false ∧
      (s.canNumber = true → s.flag HZN_STAT_LAUNCH_PEND = false → t.lastEvent = some (0x0205, [t.count.toNat])))

/-- Tick loss, its end and the measured period: TICK_OK, FLYWHEEL and TICK_UNSTABLE, the records 0x0201 and 0x0202, the hold of acceptance and its
release at a boundary (R42 to R46). The model's readings in it: log entry 47. -/
def Obligations.TickLossHoldsAcceptance : Prop :=
  (∀ s : State, s.mod.st = .growing → s.hz.loss = false → s.tickPs ≠ 0 →
    ∃ t, exec .tickLoss s = .next t ∧ t.hz.loss = true ∧ t.hz.lossHold = true ∧ t.flag HZN_STAT_TICK_OK = false ∧
      t.flag HZN_STAT_FLYWHEEL = true ∧ t.dec.lines = Vector.replicate 2 true ∧
      (s.canNumber = true → t.lastEvent = some (0x0201, [(s.count + 1).toNat])) ∧
      Framed [.regs, .hz, .fast, .aug, .dec] (HZN_STAT :: noteRegs) s t) ∧
  (∀ s : State, s.mod.st ≠ .off → s.hz.loss = false → s.tickPs = 0 →
    ∃ t, exec .tickLoss s = .next t ∧ t.hz.loss = true ∧ t.hz.lossHold = s.hz.lossHold ∧ t.flag HZN_STAT_TICK_OK = false ∧
      t.aug = s.aug ∧ Framed [.regs, .hz] [HZN_STAT] s t) ∧
  (∀ s : State, s.mayResume = true →
    ∃ t, exec .acceptanceResume s = .next t ∧ t.hz = { s.hz with lossHold := false, returning := false, syncSince := false } ∧
      t.dec.lines = #v[t.holdLine 0, t.holdLine 1] ∧ Framed [.regs, .hz, .fast, .dec] [DEC_HOLD_CNT, DEC_STAT] s t) ∧
  (∀ (ps : Nat) (s : State), s.mod.st ≠ .off → s.tickPs ≠ 0 → near ps s.tickPs = true →
    ∃ t, exec (.tickPeriodMeasured ps) s = .next t ∧ t.flag HZN_STAT_TICK_UNSTABLE = false ∧ t.flag HZN_STAT_TICK_OK = !s.hz.loss ∧
      Framed [.regs] [HZN_STAT] s t) ∧
  (∀ (ps : Nat) (s : State), s.mod.st ≠ .off → s.tickPs ≠ 0 → near ps s.tickPs = false →
    ∃ t, exec (.tickPeriodMeasured ps) s = .next t ∧ t.flag HZN_STAT_TICK_UNSTABLE = true ∧ t.flag HZN_STAT_TICK_OK = false ∧
      (s.canNumber = true → t.lastEvent = some (0x0202, [s.count.toNat])) ∧ Framed [.regs, .aug] [HZN_STAT, AUG_RATE, AUG_STAT] s t)

/-- LAUNCH: at the pending horizon the module is Growing where every condition of R56 holds, with its rings started there; otherwise the
launch is refused with its code and record 0x0103 (R55, R56, R57, R202). -/
def Obligations.LaunchEntersGrowing : Prop :=
  (∀ s : State, s.flag HZN_STAT_LAUNCH_PEND = true → s.aug.running = true → s.hz.due = false → s.count = s.hz.launchAt → s.launchCode = 0 →
    ∃ t, exec .launch s = .next t ∧ t.mod.st = .growing ∧ t.flag HZN_STAT_LAUNCH_PEND = false ∧ t.reg64 HZN_LAUNCH_LO = s.count ∧
      (∀ e : Fin 2, (t.eng[e] : Engine).running = true ∧ (t.eng[e] : Engine).start = some s.count ∧ (t.eng[e] : Engine).queries = []) ∧
      t.count = s.count ∧ t.mod.idle = 0) ∧
  (∀ s : State, s.flag HZN_STAT_LAUNCH_PEND = true → s.aug.running = true → s.hz.due = false → s.count = s.hz.launchAt → s.launchCode ≠ 0 →
    ∃ t, exec .launch s = .next t ∧ t.mod = s.mod ∧ t.flag HZN_STAT_LAUNCH_PEND = false ∧ t.flag HZN_STAT_LREF = true ∧
      t.fld HZN_STAT_LREF_CODE = s.launchCode ∧ (s.canNumber = true → t.lastEvent = some (0x0103, [s.launchCode])) ∧
      Framed [.regs, .aug] [HZN_STAT, AUG_RATE, AUG_STAT] s t)

/-! Serial lanes -/

/-- Bring-up after training: a duplex lane whose peer is ready verifies toward the lower of the two offers, ten milliseconds without that return
it to Detect, a step that locks stands at the next rate, a stream lane's failed step returns to Detect with STEP_FAIL (R399, R401, R403).
The model's readings in it: log entries 67 and 68. Verification: a decision lane goes Up, a stream lane goes Up or falls back to Detect at
2.5 Gb/s with STEP_FAIL, a duplex lane below its target rate goes on to the next step (R399, R401). -/
def Obligations.LanesTrainStepAndVerify : Prop :=
  (∀ (l : Fin 80) (tr : Training) (s : State), 48 ≤ l.val → s.laneState l = 2 → (s.lanes[l] : Lane).peer = some tr →
    (s.lanes[l] : Lane).frozen = none →
    ∃ t, exec (.trainComplete l) s = .next t ∧ t.laneState l = 4 ∧
      (t.lanes[l] : Lane) = { s.lanes[l] with target := min (s.fld (LNK_CTL_MAX_RATE.on (lnkOff l))) tr.maxRate, attempts := 0, verifyBad := false } ∧
      (∀ k : Fin 80, k ≠ l → (t.lanes[k] : Lane) = s.lanes[k]) ∧ Framed [.regs, .lanes] [LNK_STAT + lnkOff l] s t) ∧
  (∀ (l : Fin 80) (s : State), 48 ≤ l.val → s.laneState l = 2 →
    ∃ t, exec (.trainTimeout l) s = .next t ∧ t.laneState l = 1 ∧ t.laneLock l = false ∧ (t.lanes[l] : Lane).peer = none ∧
      (∀ k : Fin 80, k ≠ l → (t.lanes[k] : Lane) = s.lanes[k]) ∧ Framed [.regs, .lanes] [LNK_STAT + lnkOff l] s t) ∧
  (∀ (l : Fin 80) (s : State), 56 ≤ l.val → s.laneState l = 3 → s.laneRate l < 4 →
    ∃ t, exec (.rateStepDone l true) s = .next t ∧ t.laneState l = 4 ∧ t.laneRate l = s.laneRate l + 1 ∧ t.laneLock l = true) ∧
  (∀ (l : Fin 80) (locked : Bool) (s : State), laneLink l = 1 → s.laneState l = 3 →
    ∃ t, exec (.rateStepDone l locked) s = .next t ∧ t.laneState l = 4 ∧ t.laneRate l = s.laneOffer l % 16) ∧
  (∀ (l : Fin 80) (s : State), l.val < 48 → s.laneState l = 3 →
    ∃ t, exec (.rateStepDone l false) s = .next t ∧ t.laneState l = 1 ∧ t.laneLock l = false ∧
      t.flag (LNK_STAT_STEP_FAIL.on (lnkOff l)) = true ∧ Framed [.regs] [LNK_STAT + lnkOff l] s t) ∧
  (∀ (l : Fin 80) (s : State), laneLink l = 1 → s.laneState l = 4 →
    ∃ t, exec (.verifyComplete l) s = .next t ∧ t.laneState l = 5 ∧ Framed [.regs] [LNK_STAT + lnkOff l, CFG_BOOT_STAT] s t) ∧
  (∀ (l : Fin 80) (s : State), l.val < 48 → s.laneState l = 4 → (s.lanes[l] : Lane).verifyBad = false →
    ∃ t, exec (.verifyComplete l) s = .next t ∧ t.laneState l = 5 ∧ Framed [.regs] [LNK_STAT + lnkOff l] s t) ∧
  (∀ (l : Fin 80) (s : State), l.val < 48 → s.laneState l = 4 → (s.lanes[l] : Lane).verifyBad = true →
    ∃ t, exec (.verifyComplete l) s = .next t ∧ t.laneState l = 1 ∧ t.laneRate l = 0 ∧ t.laneLock l = false ∧
      t.flag (LNK_STAT_STEP_FAIL.on (lnkOff l)) = true ∧ Framed [.regs, .lanes] [LNK_STAT + lnkOff l] s t) ∧
  (∀ (l : Fin 80) (s : State), 56 ≤ l.val → s.laneState l = 4 → (s.lanes[l] : Lane).verifyBad = false →
    s.laneRate l < (s.lanes[l] : Lane).target →
    ∃ t, exec (.verifyComplete l) s = .next t ∧ t.laneState l = 3 ∧ Framed [.regs, .lanes] [LNK_STAT + lnkOff l] s t)

/-- Lock lost for 5 ms and RETRAIN start the bring-up again at 2.5 Gb/s: Detect, or Step on a decision lane, which only sends; a lane brought up
before counts it (R399, R401). The lane tests: PRBS31 outside Growing takes a lane out of traffic and gives it back with its verdict, an eye
point runs on the selected lane that is Up and reports, the peaking code moves one step toward PEAK (R406, R407, R408). The model's readings
in it: log entry 69. -/
def Obligations.LanesStartAgainAndAreTested : Prop :=
  (∀ (l : Fin 80) (s : State), laneLink l ≠ 1 → s.laneState l = 5 → s.laneLock l = false → (s.lanes[l] : Lane).brought = true →
    ∃ t, exec (.laneLockLossTimeout l) s = .next t ∧ t.laneState l = 1 ∧ t.laneRate l = 0 ∧ t.laneLock l = false ∧
      t.reg (LNK_RETRAIN_CNT + lnkOff l) = bumped (s.reg (LNK_RETRAIN_CNT + lnkOff l)) ∧ (t.lanes[l] : Lane).peer = none) ∧
  (∀ (l : Fin 80) (s : State), laneLink l = 1 ∨ s.laneState l ≠ 5 ∨ s.laneLock l = true → exec (.laneLockLossTimeout l) s = .next s) ∧
  (∀ (p : Path) (l : Fin 80) (s : State), s.opens p (LNK_CTL + lnkOff l) → s.flag (LNK_CTL_ENABLE.on (lnkOff l)) = true →
    s.laneRetired l = false →
    ∃ t, exec (.lnkRetrain p l) s = .next t ∧ t.laneState l = (if laneLink l = 1 then 3 else 1) ∧ t.laneRate l = 0 ∧ t.laneLock l = false) ∧
  (∀ (p : Path) (l : Fin 80) (s : State), s.opens p (LNK_CTL + lnkOff l) → s.mod.st ≠ .growing → s.laneState l ≠ 0 → s.laneState l ≠ 6 →
    ∃ t, exec (.prbsTest p l) s = .next t ∧ t.laneState l = 6 ∧ (t.lanes[l] : Lane).tested = some (s.laneState l)) ∧
  (∀ (p : Path) (l : Fin 80) (s : State), s.opens p (LNK_CTL + lnkOff l) → s.mod.st = .growing → exec (.prbsTest p l) s = .next (s.seen p)) ∧
  (∀ (l : Fin 80) (n st : Nat) (s : State), (s.lanes[l] : Lane).tested = some st → l.val < 72 ∨ st ≠ 5 → st < 16 →
    ∃ t, exec (.prbsTestDone l n) s = .next t ∧ t.laneState l = st ∧ (t.lanes[l] : Lane).tested = none ∧ t.laneLock l = false ∧
      t.flag (LNK_STAT_PRBS_DONE.on (lnkOff l)) = true ∧ (n ≠ 0 → t.flag (LNK_STAT_PRBS_FAIL.on (lnkOff l)) = true) ∧
      (n = 0 → t.flag (LNK_STAT_PRBS_FAIL.on (lnkOff l)) = s.flag (LNK_STAT_PRBS_FAIL.on (lnkOff l)))) ∧
  (∀ (p : Path) (v : Word) (l : Fin 80) (s : State), s.opens p LNK_EYE_CTL → (s.reg LNK_EYE_SEL).toNat % 128 = l.val → v.getLsbD 31 = true →
    s.laneState l = 5 → laneLink l ≠ 1 → s.flag LNK_EYE_STAT_BUSY = false →
    ∃ t, exec (.eyePointStart p v) s = .next t ∧ t.flag LNK_EYE_STAT_BUSY = true ∧ (t.lanes[l] : Lane).eyeOn = true ∧
      t.reg LNK_EYE_CTL = v &&& 0x01F0FF7F ∧ Framed [.regs, .lanes] [LNK_EYE_CTL, LNK_EYE_STAT] (s.seen p) t) ∧
  (∀ (errors : Word) (bits : U64) (s : State), s.flag LNK_EYE_STAT_BUSY = true →
    ∃ t, exec (.eyePointDone errors bits) s = .next t ∧ t.flag LNK_EYE_STAT_BUSY = false ∧ t.flag LNK_EYE_STAT_DONE = true ∧
      t.reg LNK_EYE_ERR = errors ∧ t.reg64 LNK_EYE_BITS_LO = bits ∧ (∀ l : Fin 80, (t.lanes[l] : Lane).eyeOn = false) ∧
      (bits.toNat < s.eyeDwell → t.flag LNK_EYE_STAT_ABORTED = true) ∧
      Framed [.regs, .lanes] [LNK_EYE_ERR, LNK_EYE_BITS_LO, LNK_EYE_BITS_LO + 4, LNK_EYE_STAT] s t) ∧
  (∀ (l : Fin 80) (s : State), s.laneState l = 5 → s.flag (LNK_EQ_AUTO.on (lnkOff l)) = false → 1024 ≤ (s.lanes[l] : Lane).blocksToPeak →
    s.fld (LNK_EQ_PEAK_USED.on (lnkOff l)) ≠ s.fld (LNK_EQ_PEAK.on (lnkOff l)) →
    ∃ t, exec (.peakStep l) s = .next t ∧ (t.lanes[l] : Lane).blocksToPeak = 0 ∧
      t.fld (LNK_EQ_PEAK_USED.on (lnkOff l)) =
        (if s.fld (LNK_EQ_PEAK_USED.on (lnkOff l)) < s.fld (LNK_EQ_PEAK.on (lnkOff l)) then s.fld (LNK_EQ_PEAK_USED.on (lnkOff l)) + 1
         else s.fld (LNK_EQ_PEAK_USED.on (lnkOff l)) - 1) ∧
      Framed [.regs, .lanes] [LNK_EQ + lnkOff l] s t)

/-- A receiver: outside block lock the 64th good header in a row gains it, in lock the 16th wrong header of 64 loses it with its mark and count, a
good data block of a ring or host lane in lock is counted and changes nothing else; a receiver without lock delivers nothing (R397, R398). The
model's readings in it: log entry 68. -/
def Obligations.BlocksAreReceived : Prop :=
  (∀ (l : Fin 80) (line : BitVec 1032) (s : State), s.receives l = true → s.laneLock l = false → (s.lanes[l] : Lane).goodRun = 63 →
    (receiveBlock (s.lanes[l] : Lane).rx (s.flag (LNK_STAT_INVERTED.on (lnkOff l))) line).headerBad = false →
    ∃ t, exec (.laneBlockReceived l line) s = .next t ∧ t.laneLock l = true ∧ t.laneState l = (if s.laneState l = 1 then 2 else s.laneState l) ∧
      Framed [.regs, .lanes] [LNK_STAT + lnkOff l] s t) ∧
  (∀ (l : Fin 80) (line : BitVec 1032) (s : State), s.receives l = true → 48 ≤ l.val → s.laneLock l = true → (s.lanes[l] : Lane).eyeOn = false →
    (receiveBlock (s.lanes[l] : Lane).rx (s.flag (LNK_STAT_INVERTED.on (lnkOff l))) line).headerBad = true →
    15 ≤ (((s.lanes[l] : Lane).heads.take 63).filter (fun g => !g)).length →
    ∃ t, exec (.laneBlockReceived l line) s = .next t ∧ t.laneLock l = false ∧ t.flag (LNK_STAT_LOCK_LOSS.on (lnkOff l)) = true ∧
      t.reg (LNK_LOCK_LOSS_CNT + lnkOff l) = bumped (s.reg (LNK_LOCK_LOSS_CNT + lnkOff l)) ∧
      Framed [.regs, .lanes] [LNK_STAT + lnkOff l, LNK_LOCK_LOSS_CNT + lnkOff l] s t) ∧
  (∀ (l : Fin 80) (line : BitVec 1032) (s : State), s.receives l = true → 48 ≤ l.val → s.laneLock l = true →
    (receiveBlock (s.lanes[l] : Lane).rx (s.flag (LNK_STAT_INVERTED.on (lnkOff l))) line).failed = false →
    (receiveBlock (s.lanes[l] : Lane).rx (s.flag (LNK_STAT_INVERTED.on (lnkOff l))) line).kind = 0 →
    (((s.lanes[l] : Lane).heads.take 63).filter (fun g => !g)).length < 16 →
    ∃ t, exec (.laneBlockReceived l line) s = .next t ∧ t.reg64 (LNK_BLOCKS_LO + lnkOff l) = s.reg64 (LNK_BLOCKS_LO + lnkOff l) + 1 ∧
      Framed [.regs, .lanes] [LNK_BLOCKS_LO + lnkOff l, LNK_BLOCKS_HI + lnkOff l] s t) ∧
  (∀ (l : Fin 80) (line : BitVec 1032) (s : State), s.receives l = true → s.laneLock l = false →
    ∃ t, exec (.laneBlockReceived l line) s = .next t ∧ (∀ k : Fin 80, k ≠ l → (t.lanes[k] : Lane) = s.lanes[k]) ∧
      ((receiveBlock (s.lanes[l] : Lane).rx (s.flag (LNK_STAT_INVERTED.on (lnkOff l))) line).headerBad = true → t.laneLock l = false) ∧
      Framed [.regs, .lanes] [LNK_STAT + lnkOff l] s t) ∧
  (∀ (l : Fin 80) (line : BitVec 1032) (s : State), s.receives l = false → exec (.laneBlockReceived l line) s = .next s)

/-- A transmitter that is on sends a block at each TX_BLOCK and counts it: a lane in Step its training block, a lane in self-test or Failed the idle
block (R395, R399, R409). The model's readings in it: log entries 24 and 70. -/
def Obligations.BlocksAreSent : Prop :=
  (∀ (l : Fin 80) (s : State), laneLink l ≠ 0 → s.mod.st ≠ .off → s.mod.st ≠ .fallow → s.laneState l ≠ 0 →
    ∃ t, exec (.txBlock l) s = .next t ∧ t.reg64 (LNK_BLOCKS_LO + lnkOff l) = s.reg64 (LNK_BLOCKS_LO + lnkOff l) + 1 ∧
      (∀ k : Fin 80, k ≠ l → (t.lanes[k] : Lane) = s.lanes[k])) ∧
  (∀ (l : Fin 80) (s : State), laneLink l ≠ 0 → s.mod.st ≠ .off → s.mod.st ≠ .fallow → s.laneState l = 3 → s.txIdle l = false →
    ∃ t, exec (.txBlock l) s = .next t ∧ (t.lanes[l] : Lane).line = lineWord (s.blockOf l 2
      (trainingBody 2 (min (s.laneOffer l) 4) (if laneLink l = 1 then s.laneOffer l else s.laneRate l + 1) (laneLink l) (laneNumber l)
        (s.ownPeerId l))).line) ∧
  (∀ (l : Fin 80) (s : State), laneLink l ≠ 0 → s.mod.st ≠ .off → s.mod.st ≠ .fallow → 6 ≤ s.laneState l → s.txIdle l = false →
    ∃ t, exec (.txBlock l) s = .next t ∧ (t.lanes[l] : Lane) =
      { s.lanes[l] with tx := (sendPlain (s.lanes[l] : Lane).tx 1).run, line := lineWord (sendPlain (s.lanes[l] : Lane).tx 1).line }) ∧
  (∀ (l : Fin 80) (s : State), laneLink l = 0 ∨ s.mod.st = .off ∨ s.laneState l = 0 → exec (.txBlock l) s = .next s)

/-- A failed decision lane moves to its spare at a horizon boundary: the map names the spare wherever it named the lane, SPARED is set and record
0x0572 names the move; at any other count nothing happens (R352, R429). The model's readings in it: log entry 48. -/
def Obligations.DecisionLanesMoveToTheirSpare : Prop :=
  (∀ (a b : Nat) (s : State), b < 8 → s.atBoundary = true → s.dec.moveDue = [(a, b)] →
    ∃ t, exec .decSpareSwitch s = .next t ∧ t.dec = { s.dec with moveDue := [] } ∧ t.flag DEC_STAT_SPARED = true ∧
      (∀ i : Fin 8, bitsOf (t.reg DEC_LANE_MAP).toNat (4 * i.val) 4 =
        if bitsOf (s.reg DEC_LANE_MAP).toNat (4 * i.val) 4 = a then b else bitsOf (s.reg DEC_LANE_MAP).toNat (4 * i.val) 4) ∧
      (s.canNumber = true → t.lastEvent = some (0x0572, [(decLaneUnit a).toNat, b, s.count.toNat]))) ∧
  (∀ s : State, s.atBoundary = false → exec .decSpareSwitch s = .next s)

/-! Stream input -/

/-- A frame item of an unbound sender is quarantined in every state, at a free entry, at the sender's own entry if it is listed, or in the overflow
count if the table is full; outside Growing a bound one is counted in its slot's STM_SLOT_REFUSED_CNT and not accepted (R29, R419, R420). -/
def Obligations.UnboundAndRefusedFramesAreCounted : Prop :=
  (∀ (l : Fin 48) (w : Word) (st : BitVec 24) (pl : List Byte) (bad br : Bool) (ps i : Nat) (s : State), s.streamOn l = true →
    s.boundPlace w (extendStamp s.count.toNat st.toNat) = none → s.stm.quar.find? (fun e => e.2.sender == w) = none →
    i < 256 → mapFind s.stm.quar i = none →
    ∃ t, exec (.frameItem l w st pl bad br ps) s = .next t ∧ t.flag STM_STAT_QUAR = true ∧ (∃ j, j < 256 ∧ mapFind s.stm.quar j = none ∧
      t.stm = { s.stm with quar := mapSet s.stm.quar j ⟨w, l, true, false, BitVec.ofNat 64 (extendStamp s.count.toNat st.toNat), 1⟩ }) ∧
      Framed [.regs, .stm] [STM_STAT] s t) ∧
  (∀ (l : Fin 48) (w : Word) (st : BitVec 24) (pl : List Byte) (bad br : Bool) (ps i : Nat) (q : Quar) (s : State), s.streamOn l = true →
    s.boundPlace w (extendStamp s.count.toNat st.toNat) = none → s.stm.quar.find? (fun e => e.2.sender == w) = some (i, q) →
    ∃ t, exec (.frameItem l w st pl bad br ps) s = .next t ∧ t.flag STM_STAT_QUAR = true ∧
      t.stm = { s.stm with quar := mapSet s.stm.quar i { q with lane := l, frameSeen := true, items := min (q.items + 1) 0xFFFF } } ∧
      Framed [.regs, .stm] [STM_STAT] s t) ∧
  (∀ (l : Fin 48) (w : Word) (st : BitVec 24) (pl : List Byte) (bad br : Bool) (ps : Nat) (s : State), s.streamOn l = true →
    s.boundPlace w (extendStamp s.count.toNat st.toNat) = none → s.stm.quar.find? (fun e => e.2.sender == w) = none →
    (∀ i, i < 256 → (mapFind s.stm.quar i).isSome = true) →
    ∃ t, exec (.frameItem l w st pl bad br ps) s = .next t ∧ t.flag STM_STAT_QUAR = true ∧ t.flag STM_STAT_QUAR_OVF = true ∧
      t.reg STM_QUAR_OVF_CNT = bumped (s.reg STM_QUAR_OVF_CNT) ∧ Framed [.regs] [STM_STAT, STM_QUAR_OVF_CNT] s t) ∧
  (∀ (l : Fin 48) (w : Word) (st : BitVec 24) (pl : List Byte) (bad br : Bool) (ps place : Nat) (s : State), s.streamOn l = true →
    s.boundPlace w (extendStamp s.count.toNat st.toNat) = some place → s.mod.st ≠ .growing →
    ∃ t, exec (.frameItem l w st pl bad br ps) s = .next t ∧
      t.reg (slotCounter STM_SLOT_REFUSED_CNT place) = bumped (s.reg (slotCounter STM_SLOT_REFUSED_CNT place)) ∧
      Framed [.regs] [slotCounter STM_SLOT_REFUSED_CNT place] s t)

/-- A bound frame item in Growing is judged early, late or on time by its stamp, the tick and the arrival limit of its slot, the last one held for
its deadline; one that a bridge crossing damaged is judged after the bridge's detection of class 8 (R60 to R64, R422; the model's readings: log
entries 73, 81 and 88). -/
def Obligations.FrameItemsAreJudged : Prop :=
  (∀ (l : Fin 48) (w : Word) (st : BitVec 24) (pl : List Byte) (bad br : Bool) (ps place h : Nat) (p : PhaseProg) (s : State),
    s.streamOn l = true → h = extendStamp s.count.toNat st.toNat → s.boundPlace w h = some place → s.mod.st = .growing →
    s.phaseAt h = some p → (br = false ∨ s.homeDie h place = laneDie l) →
    ∃ t, exec (.frameItem l w st pl bad br ps) s = .next t ∧
      (if s.count.toNat + s.fld HZN_ALIGN_EARLY_TOL < h then
         t.reg (slotCounter STM_SLOT_EARLY_CNT place) = bumped (s.reg (slotCounter STM_SLOT_EARLY_CNT place)) ∧
           t.reg HZN_EARLY_CNT = bumped (s.reg HZN_EARLY_CNT) ∧ Framed [.regs] [slotCounter STM_SLOT_EARLY_CNT place, HZN_EARLY_CNT] s t
       else if arrivalLimit p.ph ((p.pos? (place / 64) (place % 64)).getD 0) < s.sinceTick h + ps then
         t.reg (slotCounter STM_SLOT_LATE_CNT place) = bumped (s.reg (slotCounter STM_SLOT_LATE_CNT place)) ∧
           t.reg HZN_LATE_CNT = bumped (s.reg HZN_LATE_CNT) ∧ Framed [.regs] [slotCounter STM_SLOT_LATE_CNT place, HZN_LATE_CNT] s t
       else Framed [.fast] [] s t ∧
         (s.fast.arrived.find? (fun a => a.layoutBed == place / 64 && a.slot == place % 64 && a.hzn.toNat == h) = none →
           t.fast.arrived.map Arrived.payload = s.fast.arrived.map Arrived.payload ++ [pl]))) ∧
  (∀ (l : Fin 48) (w : Word) (st : BitVec 24) (pl : List Byte) (bad : Bool) (ps place h : Nat) (p : PhaseProg) (s : State),
    s.streamOn l = true → h = extendStamp s.count.toNat st.toNat → s.boundPlace w h = some place → s.mod.st = .growing →
    s.phaseAt h = some p → s.homeDie h place ≠ laneDie l →
    exec (.frameItem l w st pl bad true ps) s =
      .next ((s.detect (bridgeUnit (laneDie l)) 8 (BitVec.ofNat 64 h) (frameTag (BitVec.ofNat 64 h) (place % 64))).judgeFrame
        p place h ps pl bad true))

/-- Slow summary items: an unbound sender's is quarantined, a bound one's that is broken is counted bad, and the entry of a good one stands in the
open slab buffer of its group and period (R419, R424). The model's readings in it: log entries 73 and 76. -/
def Obligations.SummaryItemsFillSlabs : Prop :=
  (∀ (l : Fin 48) (w : Word) (st : BitVec 24) (body : List Byte) (bad : Bool) (ps i : Nat) (s : State), s.streamOn l = true →
    (∀ tick, (s.tableAt tick).any (fun e => e.2.summaries && e.2.sender == w && w.toNat % 256 != 0) = false) →
    s.stm.quar.find? (fun e => e.2.sender == w) = none → i < 256 → mapFind s.stm.quar i = none →
    ∃ t, exec (.summaryItem l w st body bad ps) s = .next t ∧ t.flag STM_STAT_QUAR = true ∧ (∃ j, j < 256 ∧ mapFind s.stm.quar j = none ∧
      t.stm = { s.stm with quar := mapSet s.stm.quar j ⟨w, l, false, true, s.count, 1⟩ }) ∧ Framed [.regs, .stm] [STM_STAT] s t) ∧
  (∀ (l : Fin 48) (w : Word) (st : BitVec 24) (body : List Byte) (ps : Nat) (s : State), s.streamOn l = true →
    (∀ tick, (s.tableAt tick).any (fun e => e.2.summaries && e.2.sender == w && w.toNat % 256 != 0) = true) →
    ∃ t, exec (.summaryItem l w st body true ps) s = .next t ∧ t.reg STM_SUM_BAD_CNT = bumped (s.reg STM_SUM_BAD_CNT) ∧
      Framed [.regs] [STM_SUM_BAD_CNT] s t) ∧
  (∀ (l : Fin 48) (w : Word) (st : BitVec 24) (body : List Byte) (ps grp i period : Nat) (e : Fin 2) (g : ChanGroup) (s : State),
    s.streamOn l = true → leAt body 4 2 = 1 → leAt body 6 1 = g.decl.width → 8 + g.decl.width ≤ body.length →
    s.channel? (leAt body 0 4 % 2 ^ 20) = some (e, grp, i) → mapFind (s.eng[e] : Engine).groups grp = some g →
    period = extendStamp (s.count.toNat / max g.decl.slowTicks 1) st.toNat →
    (s.tableAt ((period + 1) * g.decl.slowTicks)).any (fun e => e.2.summaries && e.2.sender == w && w.toNat % 256 != 0) = true →
    (s.eng[e] : Engine).running = true → s.count.toNat < (period + 1) * g.decl.slowTicks + g.decl.slowDeadline →
    mapFind g.slabs period = none → mapFind g.openBufs period = none →
    exec (.summaryItem l w st body false ps) s = .next (s.setEng e { s.eng[e] with groups := mapSet (s.eng[e] : Engine).groups grp ({ g with
      openBufs := mapSet g.openBufs period ⟨mapSet [] i (leAt body 8 g.decl.width), [], 0⟩ }) }))

/-- The binding commands on the pending table and the staging registers (R418). Applying, arming, cancelling and committing a binding table: at
once outside Growing, otherwise at a horizon boundary at least 1,024 ticks ahead; a table that fails a check changes nothing but the status;
and the quarantine is cleared by entry or whole (R418, R419). The model's readings in it: log entry 75. -/
def Obligations.BindingTablesAreStagedAndTakeEffect : Prop :=
  (∀ (p : Path) (s : State), s.opens p STM_BIND_CMD →
    ∃ t, exec (.bindCopyActive p) s = .next t ∧ t.stm = { s.stm with pending := s.stm.active } ∧ Framed [.stm] [] (s.seen p) t) ∧
  (∀ (p : Path) (s : State), s.opens p STM_BIND_CMD →
    ∃ t, exec (.bindWriteEntry p) s = .next t ∧
      mapGet emptyBinding t.stm.pending s.bindIdx = ⟨s.reg STM_BIND_SENDER, s.reg STM_BIND_TARGET &&& 0xC0FF⟩ ∧
      (∀ i, i ≠ s.bindIdx → mapGet emptyBinding t.stm.pending i = mapGet emptyBinding s.stm.pending i) ∧
      t.stm.active = s.stm.active ∧ Framed [.stm] [] (s.seen p) t) ∧
  (∀ (p : Path) (s : State), s.opens p STM_BIND_CMD →
    ∃ t, exec (.bindReadPending p) s = .next t ∧ t.reg STM_BIND_SENDER = (mapGet emptyBinding s.stm.pending s.bindIdx).sender ∧
      t.reg STM_BIND_TARGET = (mapGet emptyBinding s.stm.pending s.bindIdx).target ∧
      Framed [.regs] [STM_BIND_SENDER, STM_BIND_TARGET] (s.seen p) t) ∧
  (∀ (p : Path) (s : State), s.opens p STM_BIND_CMD →
    ∃ t, exec (.bindReadActive p) s = .next t ∧ t.reg STM_BIND_SENDER = (mapGet emptyBinding s.stm.active s.bindIdx).sender ∧
      t.reg STM_BIND_TARGET = (mapGet emptyBinding s.stm.active s.bindIdx).target ∧
      Framed [.regs] [STM_BIND_SENDER, STM_BIND_TARGET] (s.seen p) t) ∧
  (∀ (p : Path) (s : State), s.opens p STM_BIND_CMD → s.mod.st = .growing →
    ∃ t, exec (.bindApply p) s = .next t ∧ t.reg STM_BIND_STAT = 9 ∧ Framed [.regs] [STM_BIND_STAT] (s.seen p) t) ∧
  (∀ (p : Path) (s : State), s.opens p STM_BIND_CMD → s.mod.st ≠ .growing →
    ∃ t, exec (.bindApply p) s = .next t ∧
      (if (s.bindCheck s.stm.pending).1 = 0 then
         t.stm.active = s.stm.pending ∧ t.flag STM_STAT_BIND_DONE = true ∧ t.reg STM_BIND_STAT = 2
       else t.stm = s.stm ∧
         t.reg STM_BIND_STAT = BitVec.ofNat 32 ((s.bindCheck s.stm.pending).2 * 65536 + (s.bindCheck s.stm.pending).1)) ∧
      Framed [.regs, .stm] [STM_STAT, STM_BIND_STAT] (s.seen p) t) ∧
  (∀ (p : Path) (v : Word) (h : U64) (s : State), s.opens p STM_BIND_COMMIT_HI → h = BitVec.ofNat 64 (v.toNat * 2 ^ 32 + (s.reg STM_BIND_COMMIT_LO).toNat) →
    ∃ t, exec (.bindCommitArm p v) s = .next t ∧ t.reg STM_BIND_COMMIT_HI = v ∧
      (if lowZero 10 h = true ∧ s.count.toNat + 1024 ≤ h.toNat then
         t.stm = { s.stm with armed := some h } ∧ t.reg STM_BIND_STAT = 1
       else t.stm = s.stm ∧ t.reg STM_BIND_STAT = 3) ∧ Framed [.regs, .stm] [STM_BIND_COMMIT_HI, STM_BIND_STAT] (s.seen p) t) ∧
  (∀ (p : Path) (h : U64) (s : State), s.opens p STM_BIND_CMD → s.stm.armed = some h →
    ∃ t, exec (.bindCancel p) s = .next t ∧ t.stm = { s.stm with armed := none } ∧ t.reg STM_BIND_STAT = 8 ∧
      Framed [.regs, .stm] [STM_BIND_STAT] (s.seen p) t) ∧
  (∀ (h : U64) (s : State), s.stm.armed = some h → h.toNat ≤ s.count.toNat → s.reshardFirst h = false →
    ∃ t, exec .bindCommitHorizon s = .next t ∧ t.stm.armed = none ∧
      (if (s.bindCheck s.stm.pending).1 = 0 then
         t.stm.active = s.stm.pending ∧ t.flag STM_STAT_BIND_DONE = true ∧ t.reg STM_BIND_STAT = 2
       else t.stm.active = s.stm.active ∧
         t.reg STM_BIND_STAT = BitVec.ofNat 32 ((s.bindCheck s.stm.pending).2 * 65536 + (s.bindCheck s.stm.pending).1)) ∧
      Framed [.regs, .stm] [STM_STAT, STM_BIND_STAT] s t) ∧
  (∀ (p : Path) (s : State), s.opens p STM_QUAR_CMD →
    ∃ t, exec (.quarClearEntry p) s = .next t ∧
      t.stm = { s.stm with quar := mapErase s.stm.quar ((s.reg STM_QUAR_IDX).toNat % 256) } ∧ Framed [.stm] [] (s.seen p) t) ∧
  (∀ (p : Path) (s : State), s.opens p STM_QUAR_CMD →
    ∃ t, exec (.quarClearAll p) s = .next t ∧ t.stm = { s.stm with quar := [] } ∧ Framed [.stm] [] (s.seen p) t)

/-! The fast tier -/

/-- FRAME_ENTRY: at its deadline a bound slot's frame enters the beds of its layout bed, with its tag, its tally decision and either the item that
arrived on time, counted, or the absent policy's data with cause 1, counted (R64 to R66, R100 to R102, R422). The model's readings in it: log
entries 77 and 79. -/
def Obligations.FramesEnterTheirBed : Prop :=
  (∀ (bed : Fin 4) (slot : Fin 64) (hzn : U64) (p : PhaseProg) (q : SlotProg) (s : State), s.mod.st = .growing →
    (s.progAt hzn.toNat).phase? = some p → p.slot? bed slot = some q → s.tickOpen hzn = true → hzn.toNat ≤ s.count.toNat →
    s.diesAble ((s.progAt hzn.toNat).beds bed) = true → s.boundAt (ringKey bed slot) hzn.toNat = true → s.frame? bed slot hzn = none →
    ∃ t f, exec (.frameEntry bed slot hzn []) s = .next t ∧ t.fast.frames = s.fast.frames ++ [f] ∧ f.hzn = hzn ∧ f.layoutBed = bed.val ∧
      f.slot = slot.val ∧ f.phase = p.ph.id ∧ f.exited = false ∧ f.tally = tallyOf p.keys.tally hzn.toNat slot bed q.tallyP ∧
      f.copies.map BedCopy.bed = ((s.progAt hzn.toNat).beds bed).map Fin.val ∧
      (match s.fast.arrived.find? (fun a => a.layoutBed == bed.val && a.slot == slot.val && a.hzn == hzn) with
        | none => 1 ∈ f.causes ∧ f.ownData = false ∧ t.reg HZN_ABSENT_CNT = bumped (s.reg HZN_ABSENT_CNT) ∧
            t.reg (slotCounter STM_SLOT_ABSENT_CNT (ringKey bed slot)) = bumped (s.reg (slotCounter STM_SLOT_ABSENT_CNT (ringKey bed slot)))
        | some a => a.missing = false → a.count < 2 → a.corrupt = false → a.bridge = false → f.payload = a.payload ∧ f.ownData = true ∧
            t.reg (slotCounter STM_SLOT_OK_CNT (ringKey bed slot)) = bumped (s.reg (slotCounter STM_SLOT_OK_CNT (ringKey bed slot))))) ∧
  (∀ (bed : Fin 4) (slot : Fin 64) (hzn : U64) (errs : List UnitError) (s : State), s.mod.st ≠ .growing →
    exec (.frameEntry bed slot hzn errs) s = .next s)

/-- BED_EXIT: the bed verdict register holds what the exit unit or the pair's comparator decides from the copies that were evaluated, once the
errors reported and met on the way are taken in: bits, causes, SUB, tally, summary, and the part default with cause 4 where a span's word is
missing (R103, R118 to R120, R123). The model's readings in it: log entries 78 and 79. -/
def Obligations.BedsGiveTheirVerdict : Prop :=
  (∀ (bed : Fin 4) (slot : Fin 64) (hzn : U64) (errs : List UnitError) (f g : Frame) (p : PhaseProg) (u : State)
    (r : Released) (s : State),
    s.frame? bed slot hzn = some f → s.phaseAt hzn.toNat = some p → f.exited = false →
    u = s.exitErrors p f errs → u.frame? bed slot hzn = some g →
    r = decide3 p g ((u.copyRuns p g).map Prod.snd) (!((u.copyRuns p g).flatMap (fun x => x.1.missing)).isEmpty) →
    ∃ t x, exec (.bedExit bed slot hzn errs) s = .next t ∧ t.frame? bed slot hzn = some x ∧ x.exited = true ∧
      x.quick = verdictWord r.bits r.causes r.sub g.tally ∧ x.qCauses = causeList r.causes ∧ x.summary = r.summary ∧ x.mirror = r.mirror ∧
      x.payload = g.payload ∧ x.quickSent = g.quickSent) ∧
  (∀ (bed : Fin 4) (slot : Fin 64) (hzn : U64) (errs : List UnitError) (s : State), s.frame? bed slot hzn = none →
    exec (.bedExit bed slot hzn errs) s = .next s)

/-- VERDICT_OUTPUT: a verdict that is due joins the queue of every logical lane that the decision map names for it, in the order of line times
(R72), and is counted (R426, R427). The model's readings in it: log entry 71. -/
def Obligations.VerdictsReachTheirLanes : Prop :=
  (∀ (bed : Fin 4) (slot : Fin 64) (hzn : U64) (settled : Bool) (ui : List Nat) (f : Frame) (p : PhaseProg) (s : State),
    s.frame? bed slot hzn = some f → s.phaseAt hzn.toNat = some p →
    (if settled then f.settledDone && f.hasSettled && !f.settledSent else f.exited && !f.quickSent) = true →
    ∃ t, exec (.verdictOutput bed slot hzn settled ui) s = .next t ∧
      (∀ k : Fin 8, (t.dec.queue[k] : List DecEntry) = ((p.lanesFor bed settled).zipIdx.filter (fun l => l.1 == k.val)).foldl (fun q l =>
          (⟨hzn.toNat % 128, settled.toNat, bed, slot, if settled then f.settled else f.quick, (ui.getD l.2 0 : Nat)⟩ : DecEntry).enter q)
        s.dec.queue[k]) ∧
      t.reg64 (if settled then DEC_SETTLED_LO else DEC_QUICK_LO) = s.reg64 (if settled then DEC_SETTLED_LO else DEC_QUICK_LO) + 1 ∧
      (∀ g, t.frame? bed slot hzn = some g → (if settled then g.settledSent else g.quickSent) = true) ∧
      Framed [.regs, .fast, .dec] (if settled then [DEC_SETTLED_LO, DEC_SETTLED_LO + 4] else [DEC_QUICK_LO, DEC_QUICK_LO + 4]) s t) ∧
  (∀ (bed : Fin 4) (slot : Fin 64) (hzn : U64) (settled : Bool) (ui : List Nat) (s : State), s.frame? bed slot hzn = none →
    exec (.verdictOutput bed slot hzn settled ui) s = .next s)

/-- STREAM_RING_ENTRY_WRITE: the stream ring of every engine that serves the beds and has started holds the frame's summary, verdict and
first cause at the frame's tick, and at a tick for which an unbound position takes no frame an entry that is not present (R194 to R196). -/
def Obligations.StreamRingsTakeTheirEntries : Prop :=
  (∀ (bed : Fin 4) (slot : Fin 64) (hzn : U64) (f : Frame) (s : State), s.frame? bed slot hzn = some f → f.exited = true → f.ringDone = false →
    ∃ t, exec (.streamRingEntryWrite bed slot hzn) s = .next t ∧ (∀ g, t.frame? bed slot hzn = some g → g.ringDone = true) ∧
      ∀ e : Fin 2, e ∈ enginesOf ((s.progAt hzn.toNat).beds bed) →
        s.ringTakes t e (ringKey bed slot) hzn ⟨f.summary, f.quick, firstCause f.qCauses, true⟩) ∧
  (∀ (bed : Fin 4) (slot : Fin 64) (hzn : U64) (p : PhaseProg) (s : State), s.frame? bed slot hzn = none → s.mod.st = .growing →
    (s.progAt hzn.toNat).phase? = some p → (p.slot? bed slot).isSome = true → s.boundAt (ringKey bed slot) hzn.toNat = false →
    s.deepSlot (ringKey bed slot) = false → s.tickOpen hzn = true → hzn.toNat ≤ s.count.toNat →
    ∃ t, exec (.streamRingEntryWrite bed slot hzn) s = .next t ∧ t.fast = s.fast ∧
      ∀ e : Fin 2, e ∈ enginesOf ((s.progAt hzn.toNat).beds bed) →
        s.ringTakes t e (ringKey bed slot) hzn ⟨List.replicate 16 0, 0, 0, false⟩)

/-- RECORD_ENTRY: a frame that is accepted or chosen by the tally takes a FRAME record at the end of the tail, numbered and chained; every other
frame opens a run of its slot or joins the run it continues (R24, R318, R325, R330). The model's readings in it: log entries 10 and 76. -/
def Obligations.FramesAreRecorded : Prop :=
  (∀ (bed : Fin 4) (slot : Fin 64) (hzn : U64) (f : Frame) (s : State), s.frame? bed slot hzn = some f → f.entryReady = true →
    s.canNumber = true → f.needsRecord = true →
    ∃ t, exec (.recordEntry bed slot hzn) s = .next t ∧ s.aug.tail <+: t.aug.tail ∧ (t.aug.tail.getLast?).map TailRec.record = some (s.marked f).record ∧
      (s.aug.sealDue = 0 → mapFind s.aug.runs (bedSlot bed slot) = none → s.runsLast hzn → f.fromLoess = false →
        t.aug.tail = s.aug.tail ++ [⟨s.aug.nextSeq, (s.marked f).record⟩] ∧ t.aug.nextSeq = s.aug.nextSeq + 1 ∧
        (t.aug.heads[(Fin.ofNat 8 slot.val : Fin 8)] : List Byte) =
          chainHead s.aug.heads[(Fin.ofNat 8 slot.val : Fin 8)] s.aug.nextSeq (recBytes (s.marked f).record))) ∧
  (∀ (bed : Fin 4) (slot : Fin 64) (hzn : U64) (f : Frame) (s : State), s.frame? bed slot hzn = some f → f.entryReady = true →
    s.canNumber = true → f.needsRecord = false → s.aug.sealDue = 0 → mapFind s.aug.runs (bedSlot bed slot) = none →
    ∃ t, exec (.recordEntry bed slot hzn) s = .next t ∧ (s.runsLast hzn → t.aug.tail = s.aug.tail) ∧ mapFind t.aug.runs (bedSlot bed slot) =
      some ⟨(s.marked f).flags, hzn, 1, (f.quick.getLsbD 0).toNat, BitVec.ofNat 8 (f.phase % 16), f.runCauses, [f.inputCrc]⟩) ∧
  (∀ (bed : Fin 4) (slot : Fin 64) (hzn : U64) (f : Frame) (r : OpenRun) (s : State), s.frame? bed slot hzn = some f → f.entryReady = true →
    s.canNumber = true → f.needsRecord = false → s.aug.sealDue = 0 → mapFind s.aug.runs (bedSlot bed slot) = some r → r.flags = (s.marked f).flags →
    r.causes = f.runCauses → r.phase = BitVec.ofNat 8 (f.phase % 16) → hzn.toNat = r.start.toNat + r.count → r.count < 65534 →
    ∃ t, exec (.recordEntry bed slot hzn) s = .next t ∧ (s.runsLast hzn → t.aug.tail = s.aug.tail) ∧ mapFind t.aug.runs (bedSlot bed slot) =
      some { r with count := r.count + 1, qAccepts := r.qAccepts + (f.quick.getLsbD 0).toNat, crcs := r.crcs ++ [f.inputCrc] }) ∧
  (∀ (bed : Fin 4) (slot : Fin 64) (hzn : U64) (s : State), s.frame? bed slot hzn = none → exec (.recordEntry bed slot hzn) s = .next s)

/-! The loess tier -/

/-- SETTLED_ANSWER: with no tick left to admit, a query in flight whose program may run takes the bits its kind's program yields at t + F; a
failed read leaves the substitute's cause 3, a block sequence mismatch or the release margin no answer (R214, R252, R256, R257, R260). SETTLED_RELEASE: the settled
verdict of a frame is the one that was ready at its bed's exit, or what the engine of its bed has for its query: the answer, the kind's
default with cause 7 where it was shed and with cause 5 where no answer is in time (R70, R255 to R257). The model's readings in it: log
entries 82 and 83. -/
def Obligations.SettledVerdictsAreReleased : Prop :=
  (∀ (e : Fin 2) (bed : Fin 4) (slot : Fin 64) (hzn : U64) (ps : Nat) (w : Work) (q : Query) (p : PhaseProg) (k : QueryKind) (s : State),
    (s.eng[e] : Engine).running = true → s.unserved e hzn = [] → (s.eng[e] : Engine).query? bed slot hzn = some q →
    s.phaseAt hzn.toNat = some p → p.ph.kinds[q.kind]? = some k → q.shed = false → q.discarded = false → q.answer = none →
    hzn.toNat + k.f ≤ s.count.toNat → s.firstError w →
    ∃ t r, exec (.settledAnswer e bed slot hzn ⟨ps, w⟩) s = .next t ∧ (t.eng[e] : Engine).query? bed slot hzn = some r ∧
      (match (if q.failed then some 3 else workCause ((p.loess e).settled.getD k.program []) w) with
        | some 3 => r = if p.answerLimit bed slot < s.sinceTick hzn.toNat + ps then { q with discarded := true }
            else { q with answer := some (0, false, [3]) }
        | some _ => r = { q with discarded := true }
        | none => ∃ u, Only [.regs] s u ∧ r = if p.answerLimit bed slot < s.sinceTick hzn.toNat + ps then { q with discarded := true }
            else { q with answer := some ((u.evalQuery e p k q).1.verdict, (u.evalQuery e p k q).2.1, []) })) ∧
  (∀ (e : Fin 2) (bed : Fin 4) (slot : Fin 64) (hzn : U64) (ps : Nat) (w : Work) (s : State), (s.eng[e] : Engine).running = false →
    exec (.settledAnswer e bed slot hzn ⟨ps, w⟩) s = .next s) ∧
  (∀ (bed : Fin 4) (slot : Fin 64) (hzn : U64) (f : Frame) (p : PhaseProg) (v : Verdict) (s : State), s.frame? bed slot hzn = some f →
    s.phaseAt hzn.toNat = some p → f.hasSettled = true → f.exited = true → f.settledDone = false → f.settledReady = some v →
    ∃ t g, exec (.settledRelease bed slot hzn) s = .next t ∧ t.frame? bed slot hzn = some g ∧
      g = { f with settledDone := true, settled := v, sCauses := causeList f.sCauses }) ∧
  (∀ (bed : Fin 4) (slot : Fin 64) (hzn : U64) (f : Frame) (p : PhaseProg) (k : QueryKind) (c : BedCopy) (x : Settled) (s : State),
    s.frame? bed slot hzn = some f → s.phaseAt hzn.toNat = some p → f.hasSettled = true → f.exited = true → f.settledDone = false →
    f.settledReady = none → f.kind.bind (fun n => p.ph.kinds[n]?) = some k → f.copies = [c] → s.unserved (engOf (c.bed % 4)) hzn = [] →
    x = (s.eng[engOf (c.bed % 4)] : Engine).settledFor p f k →
    ∃ t g, exec (.settledRelease bed slot hzn) s = .next t ∧ t.frame? bed slot hzn = some g ∧ g.settledDone = true ∧
      g.settled = verdictWord x.bits x.causes x.sub f.tally ∧ g.sCauses = causeList x.causes ∧ g.quick = f.quick ∧
      (x.late = true → s.canNumber = true → t.lastEvent = some (0x0404, [bedSlot bed slot]))) ∧
  (∀ (bed : Fin 4) (slot : Fin 64) (hzn : U64) (s : State), s.frame? bed slot hzn = none → exec (.settledRelease bed slot hzn) s = .next s)

/-- SLAB_CLOSE and CONTEXT_PACKAGE_WRITE: a slab that is due stands in its ring with the summaries that came, counted; a package of a tick after
warming stands in the context buffer with the bytes its program yields, or for the default with cause 3 or 5 (R199, R200, R241, R248). The
model's readings in it: log entries 76 and 82. -/
def Obligations.SlabsAndPackagesAreWritten : Prop :=
  (∀ (e : Fin 2) (grp : Fin 256) (period : U64) (g : ChanGroup) (b : Slab) (s : State), (s.eng[e] : Engine).running = true →
    mapFind (s.eng[e] : Engine).groups grp = some g → (period.toNat + 1) * g.decl.slowTicks + g.decl.slowDeadline ≤ s.count.toNat →
    mapFind g.slabs period.toNat = none → period.toNat ∉ g.lost → 0 < g.decl.depth → b = (mapFind g.openBufs period.toNat).getD ⟨[], [], 0⟩ →
    ∃ t, exec (.slabClose e grp period) s = .next t ∧
      (mapFind (t.eng[e] : Engine).groups grp).bind (fun g => mapFind g.slabs period.toNat) = some { b with count := b.values.length } ∧
      (mapFind (t.eng[e] : Engine).groups grp).bind (fun g => mapFind g.openBufs period.toNat) = none ∧
      t.reg STM_SUM_OK_CNT = BitVec.ofNat 32 (min ((s.reg STM_SUM_OK_CNT).toNat + b.values.length) 0xFFFFFFFF)) ∧
  (∀ (e : Fin 2) (ring : Fin 128) (hzn hist : U64) (ps ns key : Nat) (w : Work) (p : PhaseProg) (c : CtxProg) (s : State),
    (s.eng[e] : Engine).running = true → s.layoutRing e ring = some key → s.phaseAt hzn.toNat = some p →
    (s.eng[e] : Engine).resettingAt hzn = false → (p.slot? (key / 64) (key % 64)).isSome = true → hist.toNat ≤ s.count.toNat →
    hzn.toNat < s.usableFrom p.ph ps + 16 →
    s.looseAt hzn = true ∨ hist.toNat + p.ph.d = hzn.toNat ∧
      (s.eng[e] : Engine).pkgs.any (fun k => k.ring == key && k.hzn == hzn) = false →
    c = ((p.loess e).ctx.find? (fun c => c.ring == key)).getD ⟨key, [], []⟩ → s.firstError w →
    ∃ t, exec (.contextPackageWrite e ring hzn hist ps ns w) s = .next t ∧
      (if (s.eng[e] : Engine).warmAt hzn then (t.eng[e] : Engine).pkgs = s.eng[e].pkgs
       else ∃ k, (t.eng[e] : Engine).pkgs.getLast? = some k ∧ k.ring = key ∧ k.hzn = hzn ∧ k.histTick = hist ∧ k.loose = s.looseAt hzn ∧
        k.usable = s.usableFrom p.ph ps ∧
        (match (if (s.eng[e] : Engine).scanFailed.contains key then some 3 else workCause c.stages w) with
          | some x => k.cause = x ∧ k.bytes = p.dfltOf key ∧ k.sat = false
          | none => k.cause = 0 ∧ ∃ u, Only [.regs] s u ∧ k.bytes = (u.evalPackage e p c hzn hist).1 ∧ k.sat = (u.evalPackage e p c hzn hist).2.1)))

/-- Warming and resets: warming starts at the start horizon with the banks cleared, ends at s + W with WARM_DONE, WARM_END, the full bucket and
record 0x0402; a reset discards the answers in flight, clears the banks and announces the restart horizon with record 0x0401 (R225, R247 to R250,
R254, R257). The model's readings in it: log entries 84 and 87. -/
def Obligations.EnginesWarmAndReset : Prop :=
  (∀ (e : Fin 2) (c : U64) (s : State), (s.eng[e] : Engine).running = true → (s.eng[e] : Engine).warming = false → (s.eng[e] : Engine).warmed = false →
    (s.eng[e] : Engine).start = some c → c.toNat ≤ s.count.toNat →
    ∃ t, exec (.warmingStart e) s = .next t ∧ (t.eng[e] : Engine) = { s.eng[e] with warming := true, silt := [], siltCleared := false } ∧
      t.fld (LSS_STAT_STATE.on (lssOff e)) = (if s.flag (degradedEngine e) then 3 else 1) ∧ Framed [.regs, .eng] [LSS_STAT + lssOff e] s t) ∧
  (∀ (e : Fin 2) (p : PhaseProg) (s : State), (s.eng[e] : Engine).running = true → (s.eng[e] : Engine).warming = true →
    (s.eng[e] : Engine).warmEnd ≤ s.count.toNat → s.phase? = some p →
    ∃ t, exec (.warmingEnd e) s = .next t ∧ (t.eng[e] : Engine).warming = false ∧ (t.eng[e] : Engine).warmed = true ∧
      t.reg (LSS_BUCKET + lssOff e) = BitVec.ofNat 32 p.ph.bucketMax ∧ t.flag (LSS_STAT_WARM_DONE.on (lssOff e)) = true ∧
      t.reg64 (LSS_WARM_END_LO + lssOff e) = BitVec.ofNat 64 (s.eng[e] : Engine).warmEnd ∧
      (s.canNumber = true → t.lastEvent = some (0x0402, [e.val])) ∧
      Framed [.regs, .eng, .aug] [LSS_BUCKET + lssOff e, LSS_STAT + lssOff e, LSS_WARM_END_LO + lssOff e, LSS_WARM_END_LO + lssOff e + 4,
        AUG_RATE, AUG_STAT] s t) ∧
  (∀ (p : Path) (e : Fin 2) (s : State), s.opens p (LSS_CTL + lssOff e) → (s.eng[e] : Engine).running = true →
    ∃ t, exec (.engineReset p e) s = .next t ∧ (t.eng[e] : Engine).start = some s.restartHorizon ∧ (t.eng[e] : Engine).running = true ∧
      (t.eng[e] : Engine).silt = [] ∧ (t.eng[e] : Engine).pkgs = [] ∧ (t.eng[e] : Engine).assembling = none ∧
      (∀ q, q ∈ (t.eng[e] : Engine).queries → q.shed = true ∨ q.discarded = true ∧ q.answer = none) ∧
      t.fld (LSS_STAT_STATE.on (lssOff e)) = (if s.flag (degradedEngine e) then 3 else 4) ∧
      (s.canNumber = true → t.lastEvent = some (0x0401, [e.val]))) ∧
  (∀ (p : Path) (e : Fin 2) (s : State), s.opens p (LSS_CTL + lssOff e) → (s.eng[e] : Engine).running = false →
    exec (.engineReset p e) s = .next ((s.seen p).setEng e { s.eng[e] with silt := [], siltCleared := true }))

/-- Checkpoints: at a horizon whose low 24 bits are zero one starts to assemble, or with staging full is skipped with record 0x0406; a complete one
is staged with its digest (R264, R265). The model's readings in it: log entry 86. -/
def Obligations.CheckpointsAreStaged : Prop :=
  (∀ (e : Fin 2) (c : U64) (s : State), (s.eng[e] : Engine).running = true → (s.eng[e] : Engine).start = some c → c.toNat ≤ s.count.toNat →
    lowZero 24 s.count = true → (s.eng[e] : Engine).assembling = none → s.reg64 (LSS_CKPT_LO + lssOff e) ≠ s.count →
    ∃ t, exec (.checkpointHorizon e) s = .next t ∧
      (if (s.eng[e] : Engine).staged.length < 4 then
         (t.eng[e] : Engine).assembling.map Assembling.hzn = some s.count ∧ t.fld (LSS_CKPT_STAT_STATE.on (lssOff e)) = 1 ∧
           Framed [.regs, .eng] [LSS_CKPT_STAT + lssOff e] s t
       else (t.eng[e] : Engine).assembling = none ∧ t.fld (LSS_CKPT_STAT_STATE.on (lssOff e)) = 4 ∧
         (s.canNumber = true → t.lastEvent = some (0x0406, [e.val, s.count.toNat])))) ∧
  (∀ (e : Fin 2) (a : Assembling) (p : PhaseProg) (s : State), (s.eng[e] : Engine).running = true → (s.eng[e] : Engine).assembling = some a →
    s.phase? = some p → (p.loess e).streams.all (fun d => a.ready.contains d.ring) = true →
    ∃ t x, exec (.checkpointComplete e) s = .next t ∧ (t.eng[e] : Engine).assembling = none ∧
      (t.eng[e] : Engine).staged = s.eng[e].staged ++ [x] ∧ x.hzn = a.hzn ∧ x.snapshot = false ∧ x.digest = sha512 x.bytes ∧
      t.reg64 (LSS_CKPT_LO + lssOff e) = a.hzn ∧ t.fld (LSS_CKPT_STAT_STATE.on (lssOff e)) = 2 ∧
      (s.canNumber = true → s.lck.ckptServes = false → t.lastEvent = some (0x0405, [e.val])))

/-- Spilled units go to the host or are dropped with record 0x0408; refreshes hold their bank for 120 ns; a channel starts the transaction that its
classes and ceilings pick; the mover's BUSY is counted; a repaired silt column is served by its spare with record 0x0572 (R207, R210, R219, R224,
R226). The model's readings in it: log entries 18 and 86. -/
def Obligations.MemoriesMoveTheirData : Prop :=
  (∀ (e : Fin 2) (stream : Bool) (ring : Fin 256) (first : U64) (sent : Bool) (key : Nat) (s : State), (s.eng[e] : Engine).running = true →
    (if stream then s.layoutRing e ring else some ring.val) = some key →
    (s.eng[e] : Engine).spills.any (fun u => u.stream == stream && u.ring == key && u.first == first.toNat && !u.sent) = true →
    ∃ t, exec (.spillUnit e stream ring first sent) s = .next t ∧
      (if sent then
         t.hst.bulk.length = s.hst.bulk.length + 1 ∧ (t.hst.bulk.getLast?).map (fun b => (b.op, b.arg, b.source, b.index, b.sent)) =
           some (0xD1, first, e.val, s.ringWord e stream key, 0) ∧
           (∀ u, u ∈ (t.eng[e] : Engine).spills → u.stream = stream → u.ring = key → u.first = first.toNat → u.sent = true)
       else
         t.reg (LSS_SPILL_DROP_CNT + lssOff e) = bumped (s.reg (LSS_SPILL_DROP_CNT + lssOff e)) ∧
           t.hst = { s.hst with bulk := s.hst.bulk.filter (fun b => !(b.op == 0xD1 && b.source == e.val && b.index == s.ringWord e stream key &&
             b.arg.toNat == first.toNat && b.sent == 0)) } ∧
           t.flag (LSS_MEM_STAT_SPILL_DROP.on (lssOff e)) = true ∧
           (t.eng[e] : Engine).spills = s.eng[e].spills.filter (fun u => !(u.stream == stream && u.ring == key && u.first == first.toNat)) ∧
           (s.canNumber = true →
             t.lastEvent = some (0x0408, [e.val, s.ringWord e stream key, first.toNat, first.toNat + (if stream then 256 else 1) - 1])))) ∧
  (∀ (e : Fin 2) (c : Fin 8) (bank : Fin 64) (s : State), s.dramServes = true →
    (s.eng[e].chans[c] : DramChan).started.any (fun x => x.bank == bank.val) = false →
    ∃ t, exec (.dramRefresh e c bank) s = .next t ∧ (bank.val, s.tim.c + 120) ∈ (t.eng[e].chans[c] : DramChan).refresh ∧
      (t.eng[e].chans[c] : DramChan).waiting = s.eng[e].chans[c].waiting ∧
      Framed [.regs, .eng] [LSS_BLOCK_MAX + lssOff e + 0x2000000] s t) ∧
  (∀ (e : Fin 2) (c : Fin 8) (x : DramTx) (ch : DramChan) (s : State), s.dramServes = true → ch = (s.gatherJobs e c).eng[e].chans[c] →
    s.pickTx e ch = some x →
    ∃ t, exec (.dramTransactionBoundary e c .good) s = .next t ∧ (t.eng[e].chans[c] : DramChan).waiting = ch.waiting.erase x ∧
      (t.eng[e].chans[c] : DramChan).started.getLast? = some ⟨x.cls, x.bank, s.tim.c⟩ ∧ (t.eng[e].chans[c] : DramChan).refresh = ch.refresh) ∧
  (∀ (e : Fin 2) (c : Fin 8) (o : DramOutcome) (s : State), s.dramServes = true → s.pickTx e (s.gatherJobs e c).eng[e].chans[c] = none →
    exec (.dramTransactionBoundary e c o) s = .next (s.gatherJobs e c)) ∧
  (∀ (e : Fin 2) (bank : Fin 256) (word : Fin 8192) (a : SiltAccess) (old : List Byte) (s : State), (s.eng[e] : Engine).running = true →
    old = (s.siltWord e bank word).1 →
    ∃ t, exec (.siltMoverRetry e ⟨bank, word, a, none⟩) s = .next t ∧
      (a = .read → (t.eng[e] : Engine).moverWord = old ∧ t.reg (LSS_SILT_BUSY_CNT + lssOff e) = s.reg (LSS_SILT_BUSY_CNT + lssOff e)) ∧
      (a ≠ .read → t.reg (LSS_SILT_BUSY_CNT + lssOff e) = bumped (s.reg (LSS_SILT_BUSY_CNT + lssOff e)) ∧
        (t.eng[e] : Engine).moverWord = siltBytes (siltApply (siltElems old) a).1 ∧
        (t.siltWord e bank word).1 = siltBytes (siltApply (siltElems old) a).1 ∧
        (t.reg (LSS_SILT_ATOM_SAT_CNT + lssOff e)).toNat =
          min ((s.reg (LSS_SILT_ATOM_SAT_CNT + lssOff e)).toNat + (siltApply (siltElems old) a).2) 0xFFFFFFFF) ∧
      (∀ i, i < siltKey bank word ∨ siltKey bank word + 64 ≤ i → mapFind (t.eng[e] : Engine).silt i = mapFind s.eng[e].silt i) ∧
      Framed [.regs, .eng, .free] [LSS_SILT_BUSY_CNT + lssOff e, LSS_SILT_ATOM_SAT_CNT + lssOff e] s t) ∧
  (∀ (e : Fin 2) (bank : Fin 256) (word : Fin 8192) (a : SiltAccess) (d : List Word) (s : State), (s.eng[e] : Engine).running = true →
    s.mod.st ≠ .growing →
    ∃ t, exec (.siltMoverRetry e ⟨bank, word, a, some d⟩) s = .next t ∧
      t.reg (LSS_SILT_BUSY_CNT + lssOff e) = bumped (s.reg (LSS_SILT_BUSY_CNT + lssOff e)) ∧
      (t.siltWord e bank word).1 = siltBytes (d.map BitVec.toInt) ∧
      (∀ i, i < siltKey bank word ∨ siltKey bank word + 64 ≤ i → mapFind (t.eng[e] : Engine).silt i = mapFind s.eng[e].silt i)) ∧
  (∀ (e : Fin 2) (bank : Fin 256) (r : SiltRepair) (s : State), (s.eng[e] : Engine).repairs.find? (fun r => r.bank == bank.val) = some r →
    r.broken = false →
    ∃ t, exec (.siltColumnRepairDone e bank) s = .next t ∧ t.flag (LSS_MEM_STAT_COL_SPARED.on (lssOff e)) = true ∧
      (∀ x, x ∈ (t.eng[e] : Engine).repairs → x.bank ≠ bank.val) ∧
      (s.canNumber = true → t.lastEvent = some (0x0572, [(siltUnit e bank r.column).toNat,
        r.spare, s.count.toNat])))

/-! Modes and records -/

/-- Loose mode is requested by TOP_CTL.LOOSE, which FIRM_LOCK keeps clear, and takes effect at a horizon boundary with record 0x0305; a record
hold ends at a boundary with 256 MiB of the tail or less in use, with record 0x0801 (R261, R263, R341, R371). -/
def Obligations.ModeAndHoldChangeAtABoundary : Prop :=
  (∀ (p : Path) (v : Bool) (s : State), s.opens p TOP_CTL →
    ∃ t, exec (.looseWrite p v) s = .next t ∧
      (if v && (s.firmLock || s.locking) then t = s.seen p else t.flag TOP_CTL_LOOSE = v ∧ Framed [.regs] [TOP_CTL] (s.seen p) t)) ∧
  (∀ (v : Bool) (s : State), s.atBoundary = true → s.mod.st.serving = true → s.flag TOP_CTL_LOOSE = v → s.mod.loose = !v →
    ∃ t, exec .modeChange s = .next t ∧ t.mod.loose = v ∧ t.flag LSS_STAT_LOOSE = v ∧ t.flag (LSS_STAT_LOOSE.on (lssOff 1)) = v ∧
      t.mod.looseTail = (if v then none else some (BitVec.ofNat 64 ((s.count.toNat / 2 ^ 24 + 2) * 2 ^ 24))) ∧
      (if v = true ∧ s.lckState = 2 then t.lckState = 5 ∧ t.fld RNG_LCK_STAT_REF_CODE = 4 else t.reg RNG_LCK_STAT = s.reg RNG_LCK_STAT) ∧
      (s.canNumber = true → t.lastEvent = some (0x0305, [v.toNat]))) ∧
  (∀ s : State, s.atBoundary = false → exec .modeChange s = .next s ∧ exec .recordHoldRelease s = .next s) ∧
  (∀ (first : U64) (s : State), s.aug.hold = some first → s.atBoundary = true → s.aug.used ≤ 256 * 2 ^ 20 →
    ∃ t, exec .recordHoldRelease s = .next t ∧ t.aug.hold = none ∧ t.flag AUG_STAT_HOLD = false ∧
      t.reg AUG_HOLD_CNT = bumped (s.reg AUG_HOLD_CNT) ∧ t.dec.lines = #v[t.holdLine 0, t.holdLine 1] ∧
      (s.canNumber = true → t.lastEvent = some (0x0801, [first.toNat, s.count.toNat - 1])) ∧
      Framed [.regs, .fast, .aug, .dec] (AUG_HOLD_CNT :: noteRegs) s t)

/-- Seals: SEAL_NOW asks for one, the one that is due follows the open runs' records with the next seal number and its reason, restarts the lane
counts and waits for its signature, and the signature goes into the oldest seal without one (R325, R332, R334). The model's readings in it:
log entries 7, 10 and 48. Mirroring: the neighbour's acknowledgement assigns a proposed number, ten milliseconds without it assign numbers
at the tail write with UNMIRRORED and record 0x0804, its answer brings mirroring back; a lost neighbour's records go to the host with record
0x0803 (R336, R337, R340). The model's readings in it: log entry 91. -/
def Obligations.RecordsAreSealedAndMirrored : Prop :=
  (∀ (p : Path) (s : State), s.opens p AUG_CTL →
    ∃ t, exec (.sealNow p) s = .next t ∧
      t.aug = { (s.seen p).aug with sealDue := if (s.seen p).aug.sealDue = 0 then 3 else (s.seen p).aug.sealDue } ∧ Framed [.aug] [] (s.seen p) t) ∧
  (∀ (r : Nat) (s : State), s.aug.sealDue = r → r ≠ 0 → s.canNumber = true → s.aug.nextSeq ≠ s.aug.firstSeq →
    s.closeRuns.aug.nextSeq ≠ s.aug.firstSeq →
    ∃ t, exec .sealClose s = .next t ∧ t.aug.tail = s.closeRuns.aug.tail ++ [⟨s.closeRuns.aug.nextSeq, s.closeRuns.sealRecord r⟩] ∧
      t.aug.sealDue = 0 ∧ t.aug.sealNo = s.aug.sealNo + 1 ∧ t.aug.nextSeq = s.closeRuns.aug.nextSeq + 1 ∧ t.aug.firstSeq = t.aug.nextSeq ∧
      t.aug.counts = Vector.replicate 8 0 ∧ t.flag AUG_STAT_SIGN_BUSY = true ∧ (3 ≤ r → t.flag AUG_STAT_SEAL_FORCED = true) ∧
      Framed [.regs, .aug] [AUG_RATE, AUG_STAT] s t) ∧
  (∀ s : State, s.aug.sealDue = 0 → exec .sealClose s = .next s) ∧
  (∀ s : State, s.aug.running = true → s.aug.rsaFailed = false → s.aug.tail.any TailRec.unsigned = true →
    ∃ t, exec (.sealSigned true) s = .next t ∧ t.aug = ({ s.aug with
        tail := signFirst s.aug.tail,
        mirrorOut := s.aug.mirrorOut ++ (if s.mirrored then ({ s.aug with tail := signFirst s.aug.tail } : Aug).newlySigned s.aug.tail else []) } : Aug).release ∧
      t.flag AUG_STAT_SIGN_BUSY = t.aug.tail.any TailRec.unsigned ∧ Framed [.regs, .aug] [AUG_STAT] s t) ∧
  (∀ s : State, s.aug.running = true → s.aug.rsaFailed = false → s.aug.tail.any TailRec.unsigned = true →
    ∃ t, exec (.sealSigned false) s = .next t ∧ t.flag FLT_STAT_FAULT = true ∧ t.reg FLT_UNIT = rsaUnit ∧ t.reg64 FLT_HZN_LO = s.count) ∧
  (∀ (seq : U64) (s : State), s.aug.running = true → s.flag AUG_CTL_MIRROR_EN = true → s.flag RNG_MIRROR_TGT_VALID = true →
    s.aug.unmirrored = false → exec (.mirrorAck seq) s = .next (if s.aug.assigned.toNat ≤ seq.toNat ∧ seq.toNat < s.aug.nextSeq.toNat then
      { s with aug := { s.aug with assigned := seq + 1 } } else s)) ∧
  (∀ (seq : U64) (s : State), s.aug.running = true → s.flag AUG_CTL_MIRROR_EN = true → s.flag RNG_MIRROR_TGT_VALID = true →
    s.aug.unmirrored = true → ∃ t, exec (.mirrorAck seq) s = .next t ∧ t.aug.unmirrored = false ∧ t.flag AUG_STAT_UNMIRRORED = false ∧
      (s.canNumber = true → t.lastEvent = some (0x0804, [0])) ∧ Framed [.regs, .ring, .aug, .free] [AUG_RATE, AUG_STAT] s t) ∧
  (∀ s : State, s.aug.running = true → s.mirrored = true → s.aug.assigned.toNat < s.aug.nextSeq.toNat →
    ∃ t, exec .mirrorTimeout s = .next t ∧ t.aug.unmirrored = true ∧ t.aug.assigned = t.aug.nextSeq ∧ t.flag AUG_STAT_UNMIRRORED = true ∧
      (s.canNumber = true → t.lastEvent = some (0x0804, [1])) ∧ Framed [.regs, .aug] [AUG_RATE, AUG_STAT] s t) ∧
  (∀ (serial : U64) (rs : List MirrorRec) (s : State), s.aug.running = true →
    rs = (s.aug.mirror.filter (fun r => r.serial == serial)).foldl (fun acc r => mirrorInsert r acc) [] → rs ≠ [] →
    s.hst.forward.any (fun f => f.1 == serial) = false →
    ∃ t, exec (.orphanTailForward serial) s = .next t ∧ t.hst = { s.hst with forward := s.hst.forward ++ rs.map (fun r => (serial, r.seq)) } ∧
      t.flag AUG_STAT_ORPHAN = true ∧ (s.canNumber = true → t.lastEvent = some (0x0803, [serial.toNat])) ∧
      Framed [.regs, .hst, .aug] [AUG_ORPHAN_CNT, AUG_RATE, AUG_STAT] s t)

/-! Faults, beds and grains -/

/-- Self-tests: a detection whose test passes once is transient, with history and record 0x0570; one whose test fails or that came again is lasting,
with record 0x0571; a pair's test that passes leaves an unexplained divergence with record 0x0582; a full bed self-test runs from idle, loaded or
degraded and gives the bed's state back (R127, R346, R351, R355, R357). The model's readings in it: log entry 89. -/
def Obligations.SelfTestsClassifyDetections : Prop :=
  (∀ (u : Word) (failing : List Word) (x : UnitTest) (s : State), s.mod.st.serving = true →
    s.flt.tests.find? (fun t => t.unit == u && !t.waits) = some x → x.repeated = false →
    ∃ t, exec (.selfTestComplete u true failing) s = .next t ∧ t.flt.tests = s.flt.tests.filter (fun t => t.unit != u) ∧
      t.flt.hist.getLast? = some ⟨u, x.hzn⟩ ∧ t.reg FLT_TRANSIENT_CNT = bumped (s.reg FLT_TRANSIENT_CNT) ∧ t.flag FLT_STAT_TRANSIENT = true ∧
      (∀ y, y ∈ t.flt.touching → y.unit = u → y.stop.isSome = true) ∧
      (s.canNumber = true → t.lastEvent = some (0x0570, [u.toNat, x.hzn.toNat]))) ∧
  (∀ (u : Word) (pass : Bool) (failing : List Word) (x : UnitTest) (s : State), s.mod.st.serving = true →
    s.flt.tests.find? (fun t => t.unit == u && !t.waits) = some x → pass = false ∨ x.repeated = true →
    ∃ t, exec (.selfTestComplete u pass failing) s = .next t ∧ t.reg FLT_LASTING_CNT = bumped (s.reg FLT_LASTING_CNT) ∧
      t.flag FLT_STAT_LASTING = true ∧ (s.canNumber = true → s.notes t 0x0571 [u.toNat, if pass then 2 else 1])) ∧
  (∀ (u : Word) (failing : List Word) (x : PairTest) (s : State), s.mod.st.serving = true →
    s.flt.tests.find? (fun t => t.unit == u && !t.waits) = none → s.flt.pairTests.find? (fun t => bedUnit t.pair 0 3 == u) = some x →
    x.further = 0 →
    ∃ t n, exec (.selfTestComplete u true failing) s = .next t ∧ t.flt.pairTests = s.flt.pairTests.erase x ∧
      t.reg FLT_UNEXPL_CNT = bumped (s.reg FLT_UNEXPL_CNT) ∧ (t.flt.divCount[(Fin.ofNat 2 x.pair : Fin 2)] : Nat) = n ∧ 0 < n ∧
      t.fld (divField (x.pair % 2)) = min n 255 ∧ (s.canNumber = true → s.notes t 0x0582 [n])) ∧
  (∀ (p : Path) (b : Fin 4) (s : State), s.opens p (BED_CTL + bedOff b) →
    ∃ t, exec (.bedSelftest p b) s = .next t ∧
      (if s.bedPresent b = true ∧ (s.bedState b = 1 ∨ s.bedState b = 2 ∨ s.bedState b = 4) then
         t.bedState b = 5 ∧ (t.beds[b] : Bed) = { s.beds[b] with selfTest := some (s.bedState b) } ∧
           (∀ k : Fin 4, k ≠ b → (t.beds[k] : Bed) = s.beds[k]) ∧ Framed [.regs, .beds] [BED_STAT + bedOff b] (s.seen p) t
       else t = s.seen p)) ∧
  (∀ (b : Fin 4) (u : Word) (failing : List Word) (n : Nat) (s : State), s.mod.st.serving = true →
    s.flt.tests.find? (fun t => t.unit == u && !t.waits) = none → s.flt.pairTests.find? (fun t => bedUnit t.pair 0 3 == u) = none →
    unitType u = 2 → unitBed u = b.val → (s.beds[b] : Bed).selfTest = some n →
    ∃ t, exec (.selfTestComplete u true failing) s = .next t ∧ (t.beds[b] : Bed).selfTest = none ∧
      t.bedState b = (if n = 1 ∨ s.beds[b].variant = none then 1 else s.bedHome b) ∧ Framed [.regs, .beds] [BED_STAT + bedOff b] s t)

/-- Spare columns and mirror pairs: what has loaded, and what a pair is ordered to do, waits for the next horizon boundary and takes effect there; a
moved column leaves SPARE_USED and record 0x0572, a released bed leaves its partner alone with SINGLE (R112, R121, R352, R500). The model's
readings in it: log entry 90. -/
def Obligations.SparesAndPairsSwitchAtABoundary : Prop :=
  (∀ (b : Fin 4) (l : SpareLoad) (s : State), s.mod.st.serving = true → (s.beds[b] : Bed).spareLoad = [l] → l.loaded = none →
    exec (.spareColumnLoaded b) s = .next (s.setBed b { s.beds[b] with spareLoad := [{ l with loaded := some (nextBoundary s.count) }] })) ∧
  (∀ (b : Fin 4) (l : SpareLoad) (h : U64) (s : State), s.mod.st.serving = true → (s.beds[b] : Bed).spareLoad = [l] → l.loaded = some h →
    ∃ t, exec (.spareColumnSwitch b) s = .next t ∧
      (if h.toNat ≤ s.count.toNat then
         (t.beds[b] : Bed).spareLoad = [] ∧ (t.beds[b] : Bed).spares.getLast? = some (l.spare, l.failed) ∧
           t.flag (BED_STAT_SPARE_USED.on (bedOff b)) = true ∧
           (s.canNumber = true → t.lastEvent = some (0x0572, [l.unit.toNat, l.spare - 32, h.toNat]))
       else t = s)) ∧
  (∀ (p : Path) (b : Fin 4) (v : Bool) (lb : Nat) (s : State), s.opens p (BED_CTL + bedOff b) → s.bedPresent b = true → s.bedState b ≠ 6 →
    s.pairPlace b = some (lb, none) → (s.beds[partnerOf b] : Bed).releaseDue = none → (s.beds[b] : Bed).releaseDue = none →
    ∃ t, exec (.mirrorRelease p b v) s = .next t ∧ t.flag (BED_CTL_MIRROR_RELEASE.on (bedOff b)) = v ∧
      (t.beds[b] : Bed).releaseDue = (if v then some (nextBoundary s.count) else none) ∧
      Framed [.regs, .beds] [BED_CTL + bedOff b] (s.seen p) t) ∧
  (∀ (b : Fin 4) (lb : Nat) (h : U64) (s : State), s.mod.st.serving = true → s.flt.alarmRelease = Vector.replicate 2 none →
    (∀ k : Fin 4, k ≠ b → (s.beds[k] : Bed).releaseDue = none ∧ (s.beds[k] : Bed).rejoinAt = none) → (s.beds[b] : Bed).releaseDue = some h →
    h.toNat ≤ s.count.toNat → s.pairPlace b = some (lb, none) →
    ∃ t, exec .mirrorReleaseBoundary s = .next t ∧ t.prog.place = s.prog.place.set lb ((partnerOf b).val, none) ∧
      (t.beds[b] : Bed).leaving = true ∧ (t.beds[b] : Bed).releaseDue = none ∧ t.flag (BED_MIRROR_SINGLE.on (bedOff b)) = true ∧
      t.flag (BED_MIRROR_SINGLE.on (bedOff (partnerOf b))) = true) ∧
  (∀ (pair : Fin 2) (lb : Nat) (a : Fin 4) (s : State), s.mod.st.serving = true → s.pairPlace (Fin.ofNat 4 pair.val) = some (lb, some a) →
    s.bedState (partnerOf a) = 6 → (s.beds[partnerOf a] : Bed).target.isSome = true → (s.beds[partnerOf a] : Bed).rejoinAt = none →
    exec (.mirrorRejoinLoaded pair) s =
      .next (s.setBed (partnerOf a) { s.beds[partnerOf a] with rejoinAt := some (nextBoundary s.count) }))

/-- Weight corrections and the GRN block: a commit is armed or refused with its code, at its horizon every filled correction register is written into
its bank while frames of earlier ticks read the old words; a GRN command runs on the selected grain and reports; the bank window writes an idle
or loaded bed and is refused with WREJ otherwise (R114, R115, R128). The model's readings in it: log entries 46, 90 and 94. -/
def Obligations.CorrectionsAndGrainCommands : Prop :=
  (∀ (p : Path) (b : Fin 4) (v : Word) (h : U64) (code : Nat) (s : State), s.opens p (BED_CORR_HI + bedOff b) → s.bedPresent b = true →
    h = BitVec.ofNat 64 (v.toNat * 2 ^ 32 + (s.reg (BED_CORR_LO + bedOff b)).toNat) →
    code = (if (s.reg (BED_II + bedOff b)).toNat % 8 = 0 then 3
      else if s.beds[b].corrWord.any (fun x => decide ((match s.beds[b].variant with | some v => v.net.weightWords x.1 | none => 0) ≤ x.2)) then 4
      else if lowZero 10 h = false ∨ h.toNat < s.count.toNat + 1024 then 5 else 1) →
    ∃ t, exec (.corrArm p b v) s = .next t ∧ t.reg (BED_CORR_HI + bedOff b) = v ∧ t.fld (BED_CORR_STAT_CODE.on (bedOff b)) = code ∧
      t.prog.corrArmed = (if code = 1 then s.prog.corrArmed.set b (some h) else s.prog.corrArmed) ∧
      Framed [.regs, .prog] [BED_CORR_HI + bedOff b, BED_CORR_STAT + bedOff b] (s.seen p) t) ∧
  (∀ (b : Fin 4) (h : U64) (s : State), s.mod.st.serving = true → s.prog.corrArmed[b] = some h → h.toNat ≤ s.count.toNat →
    s.rotates b h = false →
    ∃ t, exec (.corrCommit b) s = .next t ∧ t.prog.corrArmed[b] = none ∧ (t.beds[b] : Bed).corrWord = [] ∧ (t.beds[b] : Bed).corrBytes = [] ∧
      (t.beds[b] : Bed).banks = s.beds[b].corrWord.foldl (fun m x => putBytes zeroByte m
        (x.1 * 16384 + (match s.beds[b].variant with | some v => v.net.weightBase x.1 | none => 0) + x.2 * 256)
        (bytesAt zeroByte s.beds[b].corrBytes (x.1 * 256) 256)) s.beds[b].banks ∧
      (t.beds[b] : Bed).before.head? = some (h, s.beds[b].banks) ∧ t.flag (BED_STAT_CORR_DONE.on (bedOff b)) = true ∧
      t.fld (BED_CORR_STAT_CODE.on (bedOff b)) = 2 ∧
      (∀ x, s.canNumber = true → s.beds[b].corrWord.getLast? = some x → t.lastEvent = some (0x0304, [b.val, x.1, x.2]))) ∧
  (∀ (b : Fin 4) (h : U64) (s : State), s.mod.st.serving = true → s.prog.corrArmed[b] = some h → h.toNat ≤ s.count.toNat →
    s.rotates b h = true →
    ∃ t, exec (.corrCommit b) s = .next t ∧ t.prog.corrArmed[b] = none ∧ t.fld (BED_CORR_STAT_CODE.on (bedOff b)) = 6 ∧
      (t.beds[b] : Bed).banks = s.beds[b].banks) ∧
  (∀ (p : Path) (b : Fin 4) (s : State), s.opens p (BED_CTL + bedOff b) →
    ∃ t, exec (.corrCancel p b) s = .next t ∧
      (if s.prog.corrArmed[b].isSome then
         t.prog.corrArmed = s.prog.corrArmed.set b none ∧ t.fld (BED_CORR_STAT_CODE.on (bedOff b)) = 6 ∧
           Framed [.regs, .prog] [BED_CORR_STAT + bedOff b] (s.seen p) t
       else t = s.seen p)) ∧
  (∀ (p : Path) (b g : Nat) (s : State), s.opens p GRN_CMD → s.grn = none → s.selGrain = some (b, g) →
    (∃ t, exec (.grnSnapshotStatus p) s = .next t ∧ t.grn = some ⟨1, b, g⟩ ∧ t.flag GRN_STAT_BUSY = true ∧
      Framed [.regs, .grn] [GRN_STAT] (s.seen p) t) ∧
    (s.bedFull b = false → ∃ t, exec (.grnMacScan p) s = .next t ∧ t.grn = some ⟨2, b, g⟩ ∧ t.flag GRN_STAT_BUSY = true ∧
      t.fld GRN_STAT_TEST = 3 ∧ Framed [.regs, .grn] [GRN_STAT] (s.seen p) t) ∧
    (s.bedFull b = true → exec (.grnMacScan p) s = .next (s.seen p)) ∧
    (∃ t, exec (.grnBankMarch p) s = .next t ∧ t.grn = some ⟨3, b, g⟩ ∧ t.flag GRN_STAT_BUSY = true ∧ t.fld GRN_STAT_TEST = 3 ∧
      Framed [.regs, .grn] [GRN_STAT] (s.seen p) t)) ∧
  (∀ (pass : Bool) (r : GrnRun) (s : State), s.grn = some r →
    ∃ t, exec (.grnTestDone pass) s = .next t ∧ t.grn = none ∧ t.flag GRN_STAT_BUSY = false ∧
      t.fld GRN_STAT_TEST = (if r.cmd = 1 then s.fld GRN_STAT_TEST else if pass then 1 else 2) ∧ Framed [.regs, .grn] [GRN_STAT] s t) ∧
  (∀ (p : Path) (addr v : Word) (off b g : Nat) (s : State), s.opens p addr.toNat → addr.toNat = 0x100000 + off → off < 0x4000 → off % 4 = 0 →
    s.selGrain = some (b, g) →
    ∃ t, exec (.grnWindowWrite p addr v) s = .next t ∧
      (if s.bedState b = 1 ∨ s.bedState b = 2 then
         bytesAt zeroByte (t.beds[(Fin.ofNat 4 b : Fin 4)] : Bed).banks (g * 16384 + off) 4 = leBytes 4 v.toNat ∧ Framed [.beds] [] (s.seen p) t
       else t.flag GRN_STAT_WREJ = true ∧ t.fld TOP_ACC_STAT_REASON = 2 ∧ t.reg TOP_ACC_ADDR = addr ∧
         Framed [.regs] [GRN_STAT, TOP_ACC_STAT, TOP_ACC_ADDR] (s.seen p) t)) ∧
  (∀ (p : Path) (addr v : Word) (off b g : Nat) (s : State), s.opens p addr.toNat → addr.toNat = 0x104000 + off → off < 0x100 → off % 4 = 0 →
    s.selGrain = some (b, g) →
    ∃ t, exec (.grnWindowWrite p addr v) s = .next t ∧
      bytesAt zeroByte (t.beds[(Fin.ofNat 4 b : Fin 4)] : Bed).corrBytes (g * 256 + off) 4 = leBytes 4 v.toNat ∧
      mapFind (t.beds[(Fin.ofNat 4 b : Fin 4)] : Bed).corrWord g = some ((s.reg GRN_CORR_ADDR).toNat % 64) ∧ Framed [.beds] [] (s.seen p) t)

/-! Ring, cascade and lock-step -/

/-- Ring frames and cells: up to 15 symbol errors are corrected and counted and every part for this module is kept, more make the codeword
uncorrectable; a combining slot merges the parts of its spans or takes a deepening part as its slot's data; a good cell whose SEQ is the next
expected is accepted, one that fails its check changes nothing, a retry sends again from the first cell without an ACK (R438 to R440, R444 to
R447). The model's readings in it: log entries 20, 66 and 80. -/
def Obligations.RingFramesAndCells : Prop :=
  (∀ (port : Fin 4) (n : Nat) (slots : List (List Byte)) (s : State), s.portLive port = true →
    ∃ t, exec (.ringFrameReceived port n slots) s = .next t ∧
      (if 15 < n then
         t.flag RNG_STAT_FEC_UNCORR = true ∧ t.reg RNG_FEC_UNCORR_CNT = bumped (s.reg RNG_FEC_UNCORR_CNT) ∧ t.ring.parts = s.ring.parts
       else t.reg RNG_FEC_CORR_CNT = BitVec.ofNat 32 (min ((s.reg RNG_FEC_CORR_CNT).toNat + n) 0xFFFFFFFF) ∧
         (∀ i b x, (slots.take 20)[i]? = some b → readPart b = some x → s.partMine i x = true → x ∈ t.ring.parts) ∧
         Framed [.regs, .ring] [RNG_FEC_CORR_CNT] s t)) ∧
  (∀ (bed : Fin 4) (slot : Fin 64) (hzn : U64) (c : Cascade) (p : PhaseProg) (sp : CascSpan) (s : State), s.cascade? = some c →
    s.phaseAt hzn.toNat = some p → s.mod.st = .growing → s.tickOpen hzn = true → hzn.toNat ≤ s.count.toNat → s.frame? bed slot hzn = none →
    s.fast.arrived.any (fun a => a.layoutBed == bed.val && a.slot == slot.val && a.hzn == hzn) = false → (p.slot? bed slot).isSome = true →
    (c.spans.filter (fun sp => sp.destPart == ringKey bed slot)).find? (fun sp => sp.kind == 1 && sp.dest == s.position) = some sp →
    ∃ t a, exec (.combiningSlot bed slot hzn) s = .next t ∧ t.fast.arrived = s.fast.arrived ++ [a] ∧ a.layoutBed = bed.val ∧ a.slot = slot.val ∧
      a.hzn = hzn ∧ a.missing = (s.partFor sp hzn).isNone ∧
      (match s.partFor sp hzn with
        | some x => a.payload = (List.range 16).map (fun i => BitVec.ofInt 8 (x.summary.getD i 0)) ∧ Framed [.fast, .ring] [] s t
        | none => t.reg FLT_PARTIAL_CNT = bumped (s.reg FLT_PARTIAL_CNT))) ∧
  (∀ (bed : Fin 4) (slot : Fin 64) (hzn : U64) (c : Cascade) (p : PhaseProg) (into : List CascSpan) (ps : List Part) (s : State),
    s.cascade? = some c → s.phaseAt hzn.toNat = some p → s.mod.st = .growing → s.tickOpen hzn = true → hzn.toNat ≤ s.count.toNat →
    s.frame? bed slot hzn = none → s.role = 1 → p.slot? bed slot = none →
    into = c.spans.filter (fun sp => sp.destPart == ringKey bed slot) → into.find? (fun sp => sp.kind == 1 && sp.dest == s.position) = none →
    into.filter (fun sp => sp.kind == 0) ≠ [] →
    ((into.filter (fun sp => sp.kind == 0)).foldl (fun acc sp => placeSpan sp acc) []).map (fun sp => s.partFor sp hzn) = ps.map some →
    ∃ t f, exec (.combiningSlot bed slot hzn) s = .next t ∧ t.fast.frames = s.fast.frames ++ [f] ∧ f.hzn = hzn ∧ f.layoutBed = bed.val ∧
      f.slot = slot.val ∧ f.merged = true ∧ f.exited = true ∧ f.payload = ps.flatMap Part.bytes ∧ f.summary = (mergeParts ps).2.2.2.1 ∧
      f.quick = verdictWord (mergeParts ps).1 (bitCauses (mergeParts ps).2.1) false false) ∧
  (∀ (port : Fin 4) (cell : List Byte) (s : State), s.portLive port = true →
    ∃ t, exec (.elasticCellReceived port cell) s = .next t ∧
      (if leAt (padTo 336 cell) 332 4 = crc32 (slice (padTo 336 cell) 0 332) then
         (t.ring.ports[port] : RingPort).expected =
           (if leAt (padTo 336 cell) 6 1 ≠ 0 ∧ leAt (padTo 336 cell) 0 2 = (s.ring.ports[port] : RingPort).expected
            then ((s.ring.ports[port] : RingPort).expected + 1) % 65536 else (s.ring.ports[port] : RingPort).expected)
       else t = s)) ∧
  (∀ (port : Fin 4) (s : State), s.portLive port = true → (s.ring.ports[port] : RingPort).unacked ≠ [] →
    ∃ t, exec (.elasticRetransmit port) s = .next t ∧ (t.ring.ports[port] : RingPort) = { s.ring.ports[port] with sent := 0 } ∧
      t.reg RNG_RETRY_CNT = bumped (s.reg RNG_RETRY_CNT) ∧ Framed [.regs, .ring] [RNG_RETRY_CNT] s t) ∧
  (∀ (port : Fin 4) (n : Nat) (slots : List (List Byte)) (cell : List Byte) (s : State), s.portLive port = false →
    exec (.ringFrameReceived port n slots) s = .next s ∧ exec (.elasticCellReceived port cell) s = .next s ∧
      exec (.elasticRetransmit port) s = .next s)

/-- Links and roles: a link that goes down leaves nothing reachable through it; at the next boundary the routes that meet a down link stand on their
alternate; a hello leaves its cable delay and the positions behind the port; the deputy takes a lost lead's role at a boundary, and a role
message names the lead, of two that claim the role the lower position (R443, R451, R452). The model's readings in it: log entries 72 and 91. -/
def Obligations.LinksAndRolesOfTheCascade : Prop :=
  (∀ (port : Fin 4) (s : State), s.portLive port = true →
    ∃ t, exec (.ringLinkDown port) s = .next t ∧ (t.ring.ports[port] : RingPort) = { s.ring.ports[port] with down := true, slots := [] } ∧
      (t.ring.reach[port] : List Nat) = [] ∧ t.flag (portField RNG_PORT_STAT0_DOWN port) = true ∧
      t.flag (portField RNG_PORT_STAT0_UP port) = false ∧ t.ring.rerouteDue = (s.ring.rerouteDue || s.flag RNG_CTL_CASC_EN)) ∧
  (∀ (c : Cascade) (s : State), s.ring.rerouteDue = true → s.atBoundary = true → s.cascade? = some c →
    ∃ t, exec .reroute s = .next t ∧ t.ring.rerouteDue = false ∧
      (∀ i sp, c.spans[i]? = some sp → (i ∈ t.ring.onAlt ↔ sp.altIdx ≠ 0xFF ∧ s.routeBad c (routeOf c sp.src sp.dest) = true)) ∧
      Framed [.regs, .ring] [RNG_REROUTE_CNT, RNG_STAT] s t) ∧
  (∀ (port : Fin 4) (src : Fin 64) (count : U64) (reach : List (Fin 64)) (cable : Nat) (s : State), s.portLive port = true →
    ∃ t, exec (.ringHello port src count reach cable) s = .next t ∧ t.ring.cables[port] = some cable ∧
      (t.ring.reach[port] : List Nat) = (src.val :: reach.map Fin.val).filter (fun q => q != s.position) ∧
      t.reg (RNG_CABLE0 + 4 * port) = BitVec.ofNat 32 (min cable 255)) ∧
  (∀ s : State, s.ring.leadLost = true → s.role = 2 → s.atBoundary = true →
    ∃ t, exec .leadTakeover s = .next t ∧ t.role = 1 ∧ t.fld RNG_ROLE_LEAD = s.position ∧ t.flag RNG_STAT_TAKEOVER = true ∧
      t.reg64 RNG_TAKEOVER_LO = s.count ∧ t.ring.leadLost = false ∧ t.ring.syncOutDue = true ∧
      (s.canNumber = true → t.lastEvent = some (0x0101, [s.mod.st.code, s.mod.st.code, 0, 0, 1]))) ∧
  (∀ s : State, s.ring.leadLost = false ∨ s.role ≠ 2 ∨ s.atBoundary = false → exec .leadTakeover s = .next s) ∧
  (∀ (src : Fin 64) (s : State), s.flag RNG_CTL_CASC_EN = true → s.mod.st ≠ .off →
    ∃ t, exec (.roleChangeMessage src) s = .next t ∧
      (if s.role = 1 then
         if src.val < s.position then t.role = 3 ∧ t.fld RNG_ROLE_LEAD = src.val ∧ t.flag RNG_STAT_TAKEOVER = true else t = s
       else t.fld RNG_ROLE_LEAD = src.val ∧ t.ring.leadLost = false ∧ Framed [.regs, .ring] [RNG_ROLE] s t))

/-- Launch commits: stand-alone a horizon that is a boundary at least 2,048 ticks ahead becomes the pending launch and any other is refused with
its code and record 0x0103, which cancels one that was pending (R55); the lead of a cascade takes one from 4,096 ticks ahead on, sends it to
every other position and waits for their answers, and reports code 1 in RNG_LAUNCH where it refuses; a module of a cascade that is not its
lead ignores the write; a member commits the lead's horizon and answers whether it did, and drops it when the lead cancels; the lead notes the
answers, and at the deadline cancels on every module where one is missing and names the first (of R450). In a cascade a horizon that fails both
tests is refused with the code of log entry 106, the model's choice. -/
def Obligations.LaunchesAreCommitted : Prop :=
  (∀ (p : Path) (v : Word) (h : U64) (s : State), s.opens p HZN_LAUNCH_HI → s.flag RNG_CTL_CASC_EN = false →
    h = BitVec.ofNat 64 (v.toNat * 2 ^ 32 + (s.reg HZN_LAUNCH_LO).toNat) → s.count.toNat + 2048 ≤ h.toNat → lowZero 10 h = true →
    ∃ t, exec (.launchCommit p v) s = .next t ∧ t.reg HZN_LAUNCH_HI = v ∧ t.flag HZN_STAT_LAUNCH_PEND = true ∧
      t.hz = { s.hz with launchAt := h } ∧ Framed [.regs, .mod, .hz] [HZN_LAUNCH_HI, HZN_STAT] (s.seen p) t) ∧
  (∀ (p : Path) (v : Word) (h : U64) (s : State), s.opens p HZN_LAUNCH_HI → s.flag RNG_CTL_CASC_EN = false →
    h = BitVec.ofNat 64 (v.toNat * 2 ^ 32 + (s.reg HZN_LAUNCH_LO).toNat) → h.toNat < s.count.toNat + 2048 ∨ lowZero 10 h = false →
    ∃ t, exec (.launchCommit p v) s = .next t ∧ t.reg HZN_LAUNCH_HI = v ∧ t.flag HZN_STAT_LAUNCH_PEND = false ∧
      t.flag HZN_STAT_LREF = true ∧ (t.fld HZN_STAT_LREF_CODE = 1 ∨ t.fld HZN_STAT_LREF_CODE = 2) ∧
      (lowZero 10 h = true → t.fld HZN_STAT_LREF_CODE = 1) ∧ (s.count.toNat + 2048 ≤ h.toNat → t.fld HZN_STAT_LREF_CODE = 2) ∧
      (s.canNumber = true → t.lastEvent = some (0x0103, [t.fld HZN_STAT_LREF_CODE])) ∧
      Framed [.regs, .aug] [HZN_LAUNCH_HI, HZN_STAT, AUG_RATE, AUG_STAT] (s.seen p) t) ∧
  (∀ (p : Path) (v : Word) (h : U64) (s : State), s.opens p HZN_LAUNCH_HI → s.flag RNG_CTL_CASC_EN = true → s.role = 1 →
    h = BitVec.ofNat 64 (v.toNat * 2 ^ 32 + (s.reg HZN_LAUNCH_LO).toNat) → s.count.toNat + 4096 ≤ h.toNat → lowZero 10 h = true →
    ∃ t, exec (.launchCommit p v) s = .next t ∧ ∃ u : State, t = u.sendAll 7 [0, h.toNat] ∧ u.reg HZN_LAUNCH_HI = v ∧
      u.flag HZN_STAT_LAUNCH_PEND = true ∧ u.hz = { s.hz with launchAt := h } ∧ u.reg RNG_LAUNCH = 0 ∧
      u.ring = { s.ring with confirmed := [], launchOpen := true } ∧
      Framed [.regs, .mod, .hz, .ring] [HZN_LAUNCH_HI, HZN_STAT, RNG_LAUNCH] (s.seen p) u) ∧
  (∀ (p : Path) (v : Word) (h : U64) (s : State), s.opens p HZN_LAUNCH_HI → s.flag RNG_CTL_CASC_EN = true → s.role = 1 →
    h = BitVec.ofNat 64 (v.toNat * 2 ^ 32 + (s.reg HZN_LAUNCH_LO).toNat) → h.toNat < s.count.toNat + 4096 ∨ lowZero 10 h = false →
    ∃ t, exec (.launchCommit p v) s = .next t ∧ t.reg HZN_LAUNCH_HI = v ∧ t.flag HZN_STAT_LAUNCH_PEND = false ∧ t.reg RNG_LAUNCH = 1 ∧
      (s.commitCode h ≠ 0 → t.flag HZN_STAT_LREF = true ∧ t.fld HZN_STAT_LREF_CODE = s.commitCode h ∧
        (s.canNumber = true → t.lastEvent = some (0x0103, [s.commitCode h]))) ∧
      Framed [.regs, .aug] [HZN_LAUNCH_HI, HZN_STAT, RNG_LAUNCH, AUG_RATE, AUG_STAT] (s.seen p) t) ∧
  (∀ (p : Path) (v : Word) (s : State), s.opens p HZN_LAUNCH_HI → s.flag RNG_CTL_CASC_EN = true → s.role ≠ 1 →
    ∃ t, exec (.launchCommit p v) s = .next t ∧ t.flag RNG_STAT_LOCAL_LAUNCH = true ∧ Framed [.regs] [RNG_STAT] (s.seen p) t) ∧
  (∀ (src : Fin 64) (h : U64) (s : State), s.flag RNG_CTL_CASC_EN = true → s.mod.st.serving = true → s.role ≠ 1 →
    src.val = s.fld RNG_ROLE_LEAD → s.commitCode h = 0 →
    ∃ t, exec (.launchMessage src h .commit) s = .next t ∧ ∃ u : State, t = u.sendMessage 7 src [2, h.toNat, 1] [] ∧
      u.flag HZN_STAT_LAUNCH_PEND = true ∧ u.hz = { s.hz with launchAt := h } ∧ Framed [.regs, .mod, .hz] [HZN_STAT] s u) ∧
  (∀ (src : Fin 64) (h : U64) (s : State), s.flag RNG_CTL_CASC_EN = true → s.mod.st.serving = true → s.role ≠ 1 →
    src.val = s.fld RNG_ROLE_LEAD → s.commitCode h ≠ 0 →
    ∃ t, exec (.launchMessage src h .commit) s = .next t ∧ ∃ u : State, t = u.sendMessage 7 src [2, h.toNat, 0] [] ∧
      u.flag HZN_STAT_LAUNCH_PEND = false ∧ u.flag HZN_STAT_LREF = true ∧ u.fld HZN_STAT_LREF_CODE = s.commitCode h ∧
      (s.canNumber = true → u.lastEvent = some (0x0103, [s.commitCode h])) ∧ Framed [.regs, .aug] [HZN_STAT, AUG_RATE, AUG_STAT] s u) ∧
  (∀ (src : Fin 64) (h : U64) (s : State), s.flag RNG_CTL_CASC_EN = true → s.mod.st.serving = true → s.role ≠ 1 →
    src.val = s.fld RNG_ROLE_LEAD →
    ∃ t, exec (.launchMessage src h .cancel) s = .next t ∧ t.flag HZN_STAT_LAUNCH_PEND = false ∧ Framed [.regs] [HZN_STAT] s t) ∧
  (∀ (src : Fin 64) (s : State), s.flag RNG_CTL_CASC_EN = true → s.mod.st.serving = true → s.role = 1 → s.ring.launchOpen = true →
    src.val ∉ s.ring.confirmed →
    exec (.launchMessage src s.hz.launchAt (.answer true)) s =
      .next { s with ring := { s.ring with confirmed := s.ring.confirmed ++ [src.val] } }) ∧
  (∀ (src : Fin 64) (h : U64) (s : State), exec (.launchMessage src h (.answer false)) s = .next s) ∧
  (∀ (c : Cascade) (s : State), s.role = 1 → s.ring.launchOpen = true → s.flag HZN_STAT_LAUNCH_PEND = true →
    s.hz.launchAt.toNat ≤ s.count.toNat + 1024 → s.cascade? = some c →
    (∀ q, q < c.xdim * c.ydim → q = s.position ∨ q ∈ s.ring.confirmed) →
    exec .launchConfirmDeadline s = .next { s with ring := { s.ring with launchOpen := false } }) ∧
  (∀ (c : Cascade) (q : Nat) (s : State), s.role = 1 → s.ring.launchOpen = true → s.flag HZN_STAT_LAUNCH_PEND = true →
    s.hz.launchAt.toNat ≤ s.count.toNat + 1024 → s.cascade? = some c → q < c.xdim * c.ydim → q ≠ s.position → q ∉ s.ring.confirmed →
    (∀ r, r < q → r = s.position ∨ r ∈ s.ring.confirmed) →
    ∃ t, exec .launchConfirmDeadline s = .next t ∧ ∃ u : State, t = u.sendAll 7 [1, s.hz.launchAt.toNat] ∧ u.ring = { s.ring with launchOpen := false } ∧
      u.flag HZN_STAT_LAUNCH_PEND = false ∧ u.reg RNG_LAUNCH = BitVec.ofNat 32 (q * 256 + 2) ∧ Framed [.regs, .ring] [HZN_STAT, RNG_LAUNCH] s u)

/-- Lock-step arming: EN arms for a start horizon still to come and is refused with code 5 otherwise, the start begins the comparison or is refused
with its code, a freeze by register or by message falls due a snapshot at the next boundary, REARM starts again 2,048 ticks on (R310 to R313).
The model's readings in it: log entry 92. -/
def Obligations.LockStepArmsAndFreezes : Prop :=
  (∀ (p : Path) (s : State), s.opens p RNG_LCK_CTL → s.flag RNG_LCK_CTL_EN = false →
    ∃ t, exec (.lckEn p true) s = .next t ∧ t.flag RNG_LCK_CTL_EN = true ∧
      t.lck = { Lck.off with commitAt := s.lck.commitAt, startSet := s.lck.startSet } ∧
      (if s.lck.startSet = true ∧ s.count.toNat < (s.reg64 RNG_LCK_START_LO).toNat then t.lckState = 1 ∧ t.fld RNG_LCK_STAT_REF_CODE = 0
       else t.lckState = 5 ∧ t.fld RNG_LCK_STAT_REF_CODE = 5) ∧ Framed [.regs, .lck] [RNG_LCK_CTL, RNG_LCK_STAT] (s.seen p) t) ∧
  (∀ (p : Path) (s : State), s.opens p RNG_LCK_CTL → s.flag RNG_LCK_CTL_EN = true →
    ∃ t, exec (.lckEn p false) s = .next t ∧ t.flag RNG_LCK_CTL_EN = false ∧ t.lckState = 0 ∧
      Framed [.regs, .lck] [RNG_LCK_CTL, RNG_LCK_STAT] (s.seen p) t) ∧
  (∀ (p : Path) (v : Word) (s : State), s.opens p RNG_LCK_START_HI →
    ∃ t, exec (.lckStartCommit p v) s = .next t ∧ t.reg RNG_LCK_START_HI = v ∧ t.lck = { s.lck with commitAt := s.count, startSet := true } ∧
      Framed [.regs, .lck] [RNG_LCK_START_HI] (s.seen p) t) ∧
  (∀ (x : LckPeer) (s : State), s.flag RNG_LCK_CTL_EN = true → s.lckState = 1 → s.lckFrom.toNat ≤ s.count.toNat → s.mod.st.serving = true →
    ∃ t, exec (.lckStart x) s = .next t ∧
      (if s.lckStartCode x = 0 then t.lckState = 2 ∧ t.lck.next = s.lckFrom ∧ t.lck.results = [] ∧ t.lck.windows = []
       else t.lckState = 5 ∧ t.fld RNG_LCK_STAT_REF_CODE = s.lckStartCode x ∧ t.lck = s.lck)) ∧
  (∀ s : State, s.lckState = 2 →
    ∃ t, exec .lckFreezeMessage s = .next t ∧ t.lckState = 3 ∧
      t.lck = { s.lck with frozenWindow := none, snapDue := some (nextBoundary s.count) } ∧ Framed [.regs, .lck] [RNG_LCK_STAT] s t) ∧
  (∀ (p : Path) (s : State), s.opens p RNG_LCK_CTL → s.lckState = 2 →
    ∃ t, exec (.lckFreeze p) s = .next t ∧ t.lckState = 3 ∧ t.flag RNG_LCK_STAT_DIVERGED = true ∧
      t.lck = { s.lck with frozenWindow := none, snapDue := some (nextBoundary s.count) }) ∧
  (∀ (p : Path) (s : State), s.opens p RNG_LCK_CTL → s.lckState = 3 ∨ s.lckState = 4 →
    ∃ t, exec (.lckRearm p) s = .next t ∧ t.lckState = 1 ∧
      t.lck.rearmAt = some (BitVec.ofNat 64 ((s.count.toNat + 2048 + 63) / 64 * 64)) ∧ Framed [.regs, .lck] [RNG_LCK_STAT] (s.seen p) t) ∧
  (∀ (p : Path) (s : State), s.opens p RNG_LCK_CTL → s.lckState = 0 →
    exec (.lckFreeze p) s = .next (s.seen p) ∧ exec (.lckRearm p) s = .next (s.seen p))

/-- Lock-step comparison: a window that has closed here waits for the partner's digest or meets it; digests that agree count, digests that differ
freeze the module with DIVERGED at that window; a located divergence is shown with record 0x0601; the snapshot is staged with its digest; a
digest that does not come is a capture gap (R308, R309, R311, R312). The model's readings in it: log entry 92. -/
def Obligations.LockStepCompares : Prop :=
  (∀ (w : U64) (late : Bool) (s : State), s.lckState = 2 → s.lck.next = w → s.windowFormed w.toNat = true →
    ∃ t, exec (.lckWindowClose w late) s = .next t ∧ t.lck.next = w + 64 ∧
      (late = true → t.flag RNG_LCK_STAT_GAP = true ∧ t.reg RNG_LCK_GAP_CNT = bumped (s.reg RNG_LCK_GAP_CNT)) ∧
      (match s.lck.partner.find? (fun x => x.1 == w) with
        | none => t.lckState = 2 ∧ t.lck.windows = s.lck.windows ++ [⟨w, s.windowDigest w.toNat, s.count⟩]
        | some x => t.reg64 RNG_LCK_WIN_LO = s.reg64 RNG_LCK_WIN_LO + 1 ∧
            (if s.windowDigest w.toNat = x.2 then t.lckState = 2 else t.lckState = 3 ∧ t.flag RNG_LCK_STAT_DIVERGED = true ∧
              t.lck.frozenWindow = some w ∧ t.lck.snapDue = some (nextBoundary s.count)))) ∧
  (∀ (w d : U64) (s : State), s.lckState = 2 →
    ∃ t, exec (.lckPartnerDigest w d) s = .next t ∧
      (match s.lck.windows.find? (fun x => x.start == w) with
        | none => t.lckState = 2 ∧ (s.lck.next.toNat ≤ w.toNat → (w, d) ∈ t.lck.partner)
        | some x => t.reg64 RNG_LCK_WIN_LO = s.reg64 RNG_LCK_WIN_LO + 1 ∧ (∀ y, y ∈ t.lck.windows → y.start ≠ w) ∧
            (if x.digest = d then t.lckState = 2 else t.lckState = 3 ∧ t.flag RNG_LCK_STAT_DIVERGED = true ∧ t.lck.frozenWindow = some w))) ∧
  (∀ (ticks : List PeerTick) (results : List U64) (w : U64) (s : State), s.lckState = 3 → s.lck.frozenWindow = some w →
    ∃ t, exec (.lckLocateDone ticks results) s = .next t ∧ t.lckState = 4 ∧
      (if w ∈ s.lck.gapWindows then t.reg64 RNG_LCK_DIV_LO = w ∧ t.flag RNG_LCK_DIV_LOC_SLOT_VALID = false
       else match s.firstTick w.toNat ticks with
         | none => t.reg64 RNG_LCK_DIV_LO = w ∧ t.flag RNG_LCK_DIV_LOC_SLOT_VALID = false
         | some (h, b) => t.reg64 RNG_LCK_DIV_LO = BitVec.ofNat 64 h ∧
             t.flag RNG_LCK_DIV_LOC_SLOT_VALID = (firstSlot (s.tickResults h b) results).isSome ∧
             (s.canNumber = true → t.lastEvent = some (0x0601, [w.toNat, bedSlot b ((firstSlot (s.tickResults h b) results).getD 0)])))) ∧
  (∀ (h : U64) (p : PhaseProg) (s : State), s.lck.snapDue = some h → s.phase? = some p → h.toNat ≤ s.count.toNat →
    s.lckState = 3 ∨ s.lckState = 4 →
    ∃ t, exec .lckSnapshot s = .next t ∧ t.lck.snapDue = none ∧
      (if (s.eng[(0 : Fin 2)] : Engine).assembling.any (fun a => a.hzn == h) = true then t.lck.ckptServes = true ∧ t.eng = s.eng
       else if 4 ≤ (s.eng[(0 : Fin 2)] : Engine).staged.length + (s.eng[(0 : Fin 2)] : Engine).assembling.toList.length then
         t.flag RNG_LCK_STAT_SNAP_SKIP = true ∧ t.eng = s.eng
       else t.flag RNG_LCK_STAT_SNAP_DONE = true ∧ t.reg64 RNG_LCK_SNAP_LO = h ∧ ∃ x : Staged, x.hzn = h ∧ x.snapshot = true ∧
         x.digest = sha512 x.bytes ∧ (t.eng[(0 : Fin 2)] : Engine).staged = s.eng[(0 : Fin 2)].staged ++ [x])) ∧
  (∀ (w : U64) (s : State), s.lckState = 2 → s.lck.gapWindows.contains w = false →
    s.lck.windows.any (fun x => x.start == w && decide (x.closedAt.toNat + 65536 ≤ s.count.toNat)) = true →
    ∃ t, exec (.lckCaptureGap w) s = .next t ∧ t.lck = { s.lck with gapWindows := s.lck.gapWindows ++ [w] } ∧
      t.flag RNG_LCK_STAT_GAP = true ∧ t.reg RNG_LCK_GAP_CNT = bumped (s.reg RNG_LCK_GAP_CNT) ∧
      Framed [.regs, .lck] [RNG_LCK_GAP_CNT, RNG_LCK_STAT] s t)

/-! Host link -/

/-- Register requests, record acknowledgements, captures and cold history: with no request waiting a request is executed at once; its response names
the tag, the status and the data; an acknowledgement has none, and moves the acknowledged number up to an assigned one (R338, R463, R467, R470,
R563). The model's readings in it: log entries 62 and 63. -/
def Obligations.RequestsAreAnswered : Prop :=
  (∀ (tag : BitVec 16) (arg : U64) (s : State), s.mod.st.serving = true → s.mod.dramDone = true → s.hst.requests = [] →
    ∃ t, exec (.regRead tag arg) s = .next t ∧
      (if 1 ≤ bitsOf arg.toNat 32 8 ∧ bitsOf arg.toNat 32 8 ≤ 64 then
         ∃ x, x = State.readWords (bitsOf arg.toNat 32 8) (arg.toNat % 2 ^ 32) [] s.idleRestart ∧
           t.hst.responses = x.2.2.hst.responses ++ [⟨tag.toNat, x.1, 0, x.2.1⟩] ∧
           Framed [.regs, .hst] [HST_REQ_CNT, HST_REQ_ERR_CNT] x.2.2 t
       else s.responds t tag.toNat 1 0 [])) ∧
  (∀ (tag : BitVec 16) (arg : U64) (bs : List Byte) (x : Nat × State) (s : State), s.mod.st.serving = true → s.mod.dramDone = true → s.hst.requests = [] →
    4 ≤ bs.length → bs.length ≤ 256 → bs.length % 4 = 0 → x = State.writeWords (bs.length / 4) (arg.toNat % 2 ^ 32) bs s.idleRestart →
    ∃ t, exec (.regWrite tag arg bs) s = .next t ∧ t.hst.lastTag = tag.toNat ∧
      t.hst.responses = x.2.hst.responses ++ (if (s.hst.up && !x.2.hst.up) || !x.2.hostServed then []
        else [⟨tag.toNat, x.1, 0, []⟩]) ∧ Framed [.regs, .hst] [HST_REQ_CNT, HST_REQ_ERR_CNT] x.2 t) ∧
  (∀ (tag : BitVec 16) (next serial : U64) (s : State), s.mod.st.serving = true → s.mod.dramDone = true → s.hst.requests = [] → serial.toNat = s.serial ∨ serial = 0 →
    s.mirrored = false →
    ∃ t, exec (.recAck tag next serial) s = .next t ∧ t.hst.responses = s.hst.responses ∧ t.hst.lastTag = tag.toNat ∧
      (if next.toNat ≤ s.aug.ack.toNat then t.aug = s.aug
       else if s.aug.assigned.toNat < next.toNat then t.aug = s.aug ∧ t.flag AUG_STAT_ACK_BAD = true
       else t.aug = ({ s.aug with ack := next } : Aug).release) ∧ Framed [.regs, .mod, .hst, .aug] [HST_REQ_CNT, AUG_STAT] s t) ∧
  (∀ (tag : BitVec 16) (arg : U64) (x : Capture) (s : State), s.mod.st.serving = true → s.mod.dramDone = true → s.hst.requests = [] → s.mod.bootRom = false →
    mapFind s.flt.captures (arg.toNat % 4096) = some x →
    ∃ t, exec (.captureRead tag arg) s = .next t ∧ s.responds t tag.toNat 0 0 x.bytes ∧ mapFind t.flt.captures (arg.toNat % 4096) = none) ∧
  (∀ (tag : BitVec 16) (arg : U64) (bs : List Byte) (s : State), s.mod.st.serving = true → s.mod.dramDone = true → s.hst.requests = [] → s.mod.bootRom = false →
    arg.toNat % 2 ^ 29 + bs.length ≤ 2 ^ 29 →
    ∃ t, exec (.coldWrite tag arg bs) s = .next t ∧ s.responds t tag.toNat 0 0 [] ∧
      bytesAt zeroByte t.svc.readBack (arg.toNat % 2 ^ 29) bs.length = bs)

/-- Sowing and flash: SOW_BEGIN opens a zeroed buffer, SOW_DATA puts image bytes at their offset, SOW_END leaves a staged image, or runs the loader,
answers with its code and is Sown on acceptance; an erase leaves the sectors erased, a program clears bits of one page and reads it back, a read
returns bytes, and what they do not name stands; FLASH_RESTART in Unplanted loads the image of flash (R272, R378, R386, R464, R465, R498). The
model's readings in it: log entries 40, 42 and 43. -/
def Obligations.SowingAndFlashRequests : Prop :=
  (∀ (tag : BitVec 16) (arg : U64) (s : State), s.mod.st.serving = true → s.hst.requests = [] → s.hst.held = [] → s.prog.sow = none →
    arg.getLsbD 32 = false → arg.toNat % 2 ^ 32 ≤ 512 * 2 ^ 20 → s.hostSows = true → s.hostSowEn = true →
    ∃ t, exec (.sowBegin tag arg) s = .next t ∧ s.responds t tag.toNat 0 0 [] ∧ t.prog = { s.prog with sow := some ⟨false, arg.toNat % 2 ^ 32, []⟩ } ∧
      t.flag HST_STAT_SOW_OPEN = true ∧ t.flag HZN_STAT_LAUNCH_PEND = false ∧
      Framed [.regs, .mod, .prog, .hst, .svc] [HST_STAT, HZN_STAT, HST_REQ_CNT] s t) ∧
  (∀ (tag : BitVec 16) (arg : U64) (s : State), s.mod.st.serving = true → s.hst.requests = [] → s.hst.held = [] → s.prog.sow = none →
    arg.getLsbD 32 = true → arg.toNat % 2 ^ 32 ≤ 256 * 2 ^ 20 → s.mod.st ≠ .halted →
    ∃ t, exec (.sowBegin tag arg) s = .next t ∧ s.responds t tag.toNat 0 0 [] ∧
      t.prog = { s.prog with sow := some ⟨true, arg.toNat % 2 ^ 32, []⟩, staged := none } ∧ t.flag HST_STAT_SOW_OPEN = true ∧
      Framed [.regs, .mod, .prog, .hst, .svc] [HST_STAT, HST_REQ_CNT] s t) ∧
  (∀ (tag : BitVec 16) (arg : U64) (bs : List Byte) (w : Sow) (s : State), s.mod.st.serving = true → s.hst.requests = [] → s.hst.held = [] →
    s.prog.sow = some w → (if w.staged then s.mod.st ≠ .halted else s.hostSows = true) → arg.toNat % 2 ^ 32 + bs.length ≤ w.length →
    ∃ t, exec (.sowData tag arg bs) s = .next t ∧ s.responds t tag.toNat 0 0 [] ∧ ∃ v, t.prog = { s.prog with sow := some v } ∧ v.length = w.length ∧
      v.staged = w.staged ∧ bytesAt zeroByte v.bytes (arg.toNat % 2 ^ 32) bs.length = bs ∧
      (∀ a, a < arg.toNat % 2 ^ 32 ∨ arg.toNat % 2 ^ 32 + bs.length ≤ a → mapGet zeroByte v.bytes a = mapGet zeroByte w.bytes a) ∧
      Framed [.regs, .mod, .prog, .hst, .svc] [HST_REQ_CNT] s t) ∧
  (∀ (tag : BitVec 16) (w : Sow) (s : State), s.mod.st.serving = true → s.hst.requests = [] → s.hst.held = [] → s.prog.sow = some w →
    w.staged = true → s.mod.st ≠ .halted →
    ∃ t, exec (.sowEnd tag) s = .next t ∧ s.responds t tag.toNat 0 0 [] ∧
      t.prog = { s.prog with sow := none, staged := some (w.image, sha512 (w.image.take (readHeader w.image).sigOff)) } ∧
      t.flag HST_STAT_SOW_OPEN = false ∧ Framed [.regs, .mod, .prog, .hst] [HST_STAT, HST_REQ_CNT] s t) ∧
  (∀ (tag : BitVec 16) (w : Sow) (u : State) (s : State), s.mod.st.serving = true → s.hst.requests = [] → s.hst.held = [] →
    s.prog.sow = some w → w.staged = false → s.hostSows = true →
    u = ({ s.idleRestart with prog := { s.prog with sow := none } } : State).setFlag HST_STAT_SOW_OPEN false →
    ∃ t, exec (.sowEnd tag) s = .next t ∧ t.hst.responses = s.hst.responses ++ [⟨tag.toNat, 0, t.fld CFG_LOAD_STAT_CODE, []⟩] ∧ t.prog.sow = none ∧
      (match u.loaderChecks (u.readLoad w.image) with
       | none => ∀ q, (u.readLoad w.image).prog.phase? (u.readLoad w.image).prog.firstPhase = some q →
           t.mod.st = .sown ∧ (∃ c, t.prog.image = some c ∧ c.bytes = w.image ∧ c.program = (u.readLoad w.image).prog) ∧ t.prog.phase = q.ph.id ∧
             t.prog.place = placeList q.ph.layoutBeds (u.sowPlacing (u.readLoad w.image)).placed ∧
             t.reg CFG_LOAD_STAT = BitVec.ofNat 32 (0xFFFF * 65536 + 2 * 4096)
       | some r => t.reg CFG_LOAD_STAT = BitVec.ofNat 32 (r.2 % 65536 * 65536 + 2 * 4096 + r.1) ∧ t.mod.st = s.mod.st ∧
           t.prog = { s.prog with sow := none } ∧ (s.canNumber = true → t.lastEvent = some (0x0302, [r.1, r.2])))) ∧
  (∀ (tag : BitVec 16) (arg : U64) (bs : List Byte) (s : State), s.mod.st.serving = true → s.hst.requests = [] → s.hst.held = [] → s.prog.sow = none →
    (∃ t, exec (.sowData tag arg bs) s = .next t ∧ s.responds t tag.toNat 3 0 [] ∧ t.prog = s.prog) ∧
    (∃ t, exec (.sowEnd tag) s = .next t ∧ s.responds t tag.toNat 3 0 [] ∧ t.prog = s.prog)) ∧
  (∀ (tag : BitVec 16) (arg : U64) (k : Fin 2) (off n : Nat) (s : State), s.mod.st.serving = true → s.hst.requests = [] → s.hst.held = [] →
    off = arg.toNat % 2 ^ 32 → bitsOf arg.toNat 32 8 = k.val → n = 4096 * bitsOf arg.toNat 40 24 → off % 4096 = 0 → s.flashWriteEn = true →
    (s.flash.dev[k] : FlashDev).present = true → off + n ≤ (s.flash.dev[k] : FlashDev).size → s.prog.sow = none →
    ∃ t, exec (.flashErase tag arg true) s = .next t ∧ s.responds t tag.toNat 0 0 [] ∧
      (∀ j : Fin 2, j ≠ k → (t.flash.dev[j] : FlashDev) = s.flash.dev[j]) ∧
      (∀ a, off ≤ a → a < off + n → mapGet erasedByte (t.flash.dev[k] : FlashDev).bytes a = 0xFF) ∧
      (∀ a, a < off ∨ off + n ≤ a → mapGet erasedByte (t.flash.dev[k] : FlashDev).bytes a = mapGet erasedByte (s.flash.dev[k] : FlashDev).bytes a) ∧
      Framed [.regs, .mod, .hst, .flash] [HST_REQ_CNT] s t) ∧
  (∀ (tag : BitVec 16) (arg : U64) (k : Fin 2) (off n : Nat) (s : State), s.mod.st.serving = true → s.hst.requests = [] → s.hst.held = [] →
    off = arg.toNat % 2 ^ 32 → bitsOf arg.toNat 32 8 = k.val → n = 4096 * bitsOf arg.toNat 40 24 → off % 4096 = 0 → s.flashWriteEn = true →
    (s.flash.dev[k] : FlashDev).present = true → off + n ≤ (s.flash.dev[k] : FlashDev).size → s.prog.sow = none →
    ∃ t, exec (.flashErase tag arg false) s = .next t ∧ s.responds t tag.toNat 6 0 [] ∧
      (∀ j : Fin 2, j ≠ k → (t.flash.dev[j] : FlashDev) = s.flash.dev[j]) ∧
      (∀ a, a < off ∨ off + n ≤ a → mapGet erasedByte (t.flash.dev[k] : FlashDev).bytes a = mapGet erasedByte (s.flash.dev[k] : FlashDev).bytes a)) ∧
  (∀ (tag : BitVec 16) (arg : U64) (bs new : List Byte) (k : Fin 2) (off : Nat) (s : State), s.mod.st.serving = true → s.hst.requests = [] →
    s.hst.held = [] → off = arg.toNat % 2 ^ 32 → bitsOf arg.toNat 32 8 = k.val → s.flashWriteEn = true → (s.flash.dev[k] : FlashDev).present = true →
    off + bs.length ≤ (s.flash.dev[k] : FlashDev).size → s.prog.sow = none → 1 ≤ bs.length → off % 256 + bs.length ≤ 256 →
    new = List.zipWith (fun (a b : Byte) => a &&& b) (bytesAt erasedByte (s.flash.dev[k] : FlashDev).bytes off bs.length) bs →
    ∃ t, exec (.flashProgram tag arg bs true) s = .next t ∧ s.responds t tag.toNat (if new = bs then 0 else 6) 0 [] ∧
      (∀ j : Fin 2, j ≠ k → (t.flash.dev[j] : FlashDev) = s.flash.dev[j]) ∧
      bytesAt erasedByte (t.flash.dev[k] : FlashDev).bytes off bs.length = new ∧
      (∀ a, a < off ∨ off + bs.length ≤ a →
        mapGet erasedByte (t.flash.dev[k] : FlashDev).bytes a = mapGet erasedByte (s.flash.dev[k] : FlashDev).bytes a) ∧
      Framed [.regs, .mod, .hst, .flash] [HST_REQ_CNT, HST_REQ_ERR_CNT] s t) ∧
  (∀ (tag : BitVec 16) (arg : U64) (bs : List Byte) (k : Fin 2) (off : Nat) (s : State), s.mod.st.serving = true → s.hst.requests = [] →
    s.hst.held = [] → off = arg.toNat % 2 ^ 32 → bitsOf arg.toNat 32 8 = k.val → s.flashWriteEn = true → (s.flash.dev[k] : FlashDev).present = true →
    off + bs.length ≤ (s.flash.dev[k] : FlashDev).size → s.prog.sow = none → 1 ≤ bs.length → off % 256 + bs.length ≤ 256 →
    ∃ t, exec (.flashProgram tag arg bs false) s = .next t ∧ s.responds t tag.toNat 6 0 [] ∧
      (∀ j : Fin 2, j ≠ k → (t.flash.dev[j] : FlashDev) = s.flash.dev[j]) ∧
      (∀ a, mapGet erasedByte (t.flash.dev[k] : FlashDev).bytes a &&& mapGet erasedByte (s.flash.dev[k] : FlashDev).bytes a =
        mapGet erasedByte (t.flash.dev[k] : FlashDev).bytes a) ∧
      (∀ a, a < off ∨ off + bs.length ≤ a →
        mapGet erasedByte (t.flash.dev[k] : FlashDev).bytes a = mapGet erasedByte (s.flash.dev[k] : FlashDev).bytes a)) ∧
  (∀ (tag : BitVec 16) (arg : U64) (k : Fin 2) (off n : Nat) (s : State), s.mod.st.serving = true → s.hst.requests = [] → s.hst.held = [] →
    off = arg.toNat % 2 ^ 32 → bitsOf arg.toNat 32 8 = k.val → n = bitsOf arg.toNat 40 13 → (s.flash.dev[k] : FlashDev).present = true →
    off + n ≤ (s.flash.dev[k] : FlashDev).size → 1 ≤ n → n ≤ 4096 →
    ∃ t, exec (.flashRead tag arg) s = .next t ∧ s.responds t tag.toNat 0 0 (bytesAt erasedByte (s.flash.dev[k] : FlashDev).bytes off n) ∧
      Framed [.regs, .mod, .hst] [HST_REQ_CNT] s t) ∧
  (∀ (p : Path) (s : State), s.opens p CFG_CTL → s.mod.st = .unplanted → s.prog.sow = none → directoryGood (s.seen p).directory = true →
    (s.flashDev 0).present = true →
    ∃ t, exec (.flashRestart p) s = .next t ∧ t.flash = s.flash ∧
      (if (s.seen p).loadFlash.1 = true then t.mod.st = .sown ∧ t.fld CFG_BOOT_STAT_CODE = 0 ∧ t.prog = (s.seen p).loadFlash.2.2.prog
       else t.mod.st = .unplanted ∧ t.prog = s.prog ∧ t.fld CFG_BOOT_STAT_CODE = (if (s.seen p).flashImage = none then 0x10 else 0x11))) ∧
  (∀ (p : Path) (s : State), s.opens p CFG_CTL → s.mod.st = .unplanted → s.prog.sow = none →
    directoryGood (s.seen p).directory = false ∨ (s.flashDev 0).present = false →
    ∃ t, exec (.flashRestart p) s = .next t ∧ t.fld CFG_BOOT_STAT_CODE = (if (s.flashDev 0).present then 3 else 2) ∧
      Framed [.regs] [CFG_BOOT_STAT] (s.seen p) t) ∧
  (∀ (p : Path) (s : State), s.opens p CFG_CTL → s.mod.st ≠ .unplanted ∨ s.prog.sow.isSome = true → exec (.flashRestart p) s = .next (s.seen p))

/-- The link itself: it comes up with SEQ 1 next, no credit and the records from the first one not acknowledged, goes down with everything in flight
discarded, takes numbered cells in order and discards the others, sends again what is not acknowledged, and changes its lane set at the SEQ the
adapter names (R457 to R460, R468, R471, R472). The model's readings in it: log entries 64 and 65. -/
def Obligations.TheHostLinkKeepsItsOrder : Prop :=
  (∀ s : State, s.linkMayForm = true → s.hst.requests = [] → s.hst.held = [] →
    ∃ t, exec .hostLinkUp s = .next t ∧ t.hst.up = true ∧ t.hst.txSeq = 1 ∧ t.hst.rxSeq = 1 ∧ t.hst.credRsp = 0 ∧ t.hst.credRec = 0 ∧
      t.hst.credBulk = 0 ∧ t.hst.mask = s.hostReady ∧ t.hst.recNext = s.aug.ack ∧ t.flag HST_STAT_LINK_UP = true ∧
      Framed [.regs, .hst] [HST_STAT, HST_LANES] s t) ∧
  (∀ s : State, s.hst.up = true → s.hst.requests = [] →
    ∃ t, exec .hostLinkDown s = .next t ∧ t.hst.up = false ∧ t.hst.unacked = [] ∧ t.hst.responses = [] ∧ t.hst.msgs = [] ∧
      t.hst.recNext = s.aug.ack ∧ t.hst.bulk = s.hst.bulk.map (fun b => { b with sent := 0 }) ∧ t.flag HST_STAT_LINK_UP = false ∧
      t.flag HST_STAT_LINK_DOWN = true ∧ t.reg HST_LINKDOWN_CNT = bumped (s.reg HST_LINKDOWN_CNT) ∧
      Framed [.regs, .hst] [HST_STAT, HST_LANES, HST_LINKDOWN_CNT] s t) ∧
  (∀ (p : Path) (s : State), s.opens p HST_CTL →
    ∃ t, exec (.linkReset p) s = .next t ∧ t.hst.up = false ∧ t.hst.requests = s.hst.requests ∧
      (s.hst.up = true → t.flag HST_STAT_LINK_DOWN = true ∧ t.reg HST_LINKDOWN_CNT = bumped (s.reg HST_LINKDOWN_CNT)) ∧
      Framed [.regs, .hst] [HST_STAT, HST_LANES, HST_LINKDOWN_CNT] (s.seen p) t) ∧
  (∀ (l : Fin 8) (c : List Byte) (s : State), s.hst.up = true → s.hostServed = true → s.hostLaneReady l = true → c.length = 127 →
    s.hst.requests = [] → leAt c 4 1 ≠ 2 →
    ∃ t, exec (.hostCellReceived l c) s = .next t ∧
      (if leAt c 123 4 = crc32 (slice c 0 123) then
         if 1 ≤ leAt c 4 1 ∧ leAt c 4 1 ≤ 5 then
           if leAt c 0 2 = s.hst.rxSeq then t.hst.rxSeq = (s.hst.rxSeq + 1) % 65536
           else t.reg HST_SEQ_DISCARD_CNT = bumped (s.reg HST_SEQ_DISCARD_CNT) ∧ Framed [.regs] [HST_SEQ_DISCARD_CNT] s t
         else t.hst.rxSeq = s.hst.rxSeq
       else t.reg HST_CRC_ERR_CNT = bumped (s.reg HST_CRC_ERR_CNT) ∧ Framed [.regs] [HST_CRC_ERR_CNT] s t)) ∧
  (∀ s : State, s.hst.up = true → s.hst.unacked ≠ [] →
    ∃ t, exec .hostRetransmit s = .next t ∧ t.hst.unacked = [] ∧ t.hst.txSeq = s.hst.firstUnacked ∧
      t.hst.resend = s.hst.unacked.filter (fun c => c.kind != 4) ++ s.hst.resend ∧ t.hst.recNext = s.aug.ack ∧
      t.flag HST_STAT_RETRY = true ∧ t.reg HST_RETRY_CNT = bumped (s.reg HST_RETRY_CNT) ∧ Framed [.regs, .hst] [HST_STAT, HST_RETRY_CNT] s t) ∧
  (∀ (m : Byte) (seq : BitVec 16) (s : State), s.hst.up = true →
    ∃ t, exec (.linkMessage m seq) s = .next t ∧
      (if (s.hst.rxSeq + 65536 - seq.toNat) % 65536 < 32768 then t.hst.mask = (m &&& s.hostReady) ∧ t.hst.maskAt = none
       else t.hst = { s.hst with maskAt := some (m, seq.toNat) }) ∧ Framed [.regs, .hst] [HST_STAT, HST_LANES] s t)

/-! Live service -/

/-- A rotation is loaded, confirmed, armed and cancelled by its registers: what TOP_ROT_STAT then shows, which checks refuse it, at which tick
it is armed, what a deferral records (R492 to R495, R499). The model's readings in it: log entry 95. At the change horizon the incoming
phase, its placement and its image come into force and CODE reads 0x4; an old bed is idle once its last frame has gone; the image copy of a
staged image then is complete (R287, R496, R498, R500). The model's readings in it: log entries 93 and 94. -/
def Obligations.RotationsLoadArmAndTakeEffect : Prop :=
  (∀ (p : Path) (img : ImageCopy) (ph : PhaseProg) (s : State), s.opens p TOP_ROT_CTL → s.prog.image = some img → s.phase? = some ph →
    ∃ t, exec (.rotLoad p) s = .next t ∧
      (if s.mod.st ≠ .growing ∨ s.svc.rot.isSome = true then
         t.fld TOP_ROT_STAT_CODE = 8 ∧ Framed [.regs] [TOP_ROT_STAT] (s.seen p) t
       else if s.flag TOP_ROT_CTL_SOURCE = false then
         (s.seen p).rotLoads t ph ((s.seen p).readLoad img.bytes) ((s.seen p).readLoad img.bytes) false
       else match s.prog.staged with
         | none => t.fld TOP_ROT_STAT_CODE = 0xA ∧ Framed [.regs] [TOP_ROT_STAT] (s.seen p) t
         | some st => (s.seen p).rotLoads t ph ((s.seen p).readLoad img.bytes) ((s.seen p).readLoad st.1) true)) ∧
  (∀ (rot : Rotation) (s : State), s.mod.st.serving = true → s.svc.rot = some rot → rot.loaded = false →
    ∃ t, exec .rotLoadComplete s = .next t ∧
      (match s.rotFrom rot with
       | none => t = s
       | some r => t.svc.rot = some { rot with loaded := true } ∧ t.reg TOP_ROT_QNEW = BitVec.ofNat 32 r.q.ph.q ∧
           t.reg TOP_ROT_SNEW = BitVec.ofNat 32 r.q.ph.s ∧ t.fld TOP_ROT_STAT_CODE = 2 ∧
           Framed [.regs, .svc] [TOP_ROT_QNEW, TOP_ROT_SNEW, TOP_ROT_STAT] s t)) ∧
  (∀ (p : Path) (v : Word) (rot : Rotation) (h : U64) (s : State), s.opens p TOP_ROT_HZN_HI → s.svc.rot = some rot → rot.loaded = true →
    rot.armed = none → h = BitVec.ofNat 64 (v.toNat * 2 ^ 32 + (s.reg TOP_ROT_HZN_LO).toNat) →
    ∃ t, exec (.rotArm p v) s = .next t ∧
      (match (s.seen p).rotFrom rot with
       | none => t.svc = s.svc ∧ t.reg TOP_ROT_HZN_HI = v
       | some r =>
         t.fld TOP_ROT_STAT_CODE = (if lowZero 10 h = false ∨ h.toNat < s.count.toNat + 1024 then 6
           else if r.q.ph.a + r.q.ph.q < r.p.ph.a + r.p.ph.q ∨ r.q.ph.a + r.q.ph.s < r.p.ph.a + r.p.ph.s then 7 else 3) ∧
         (t.fld TOP_ROT_STAT_CODE ≠ 3 → t.svc = s.svc) ∧
         (t.fld TOP_ROT_STAT_CODE = 3 →
           if (r.loessDiffers 0 || r.loessDiffers 1) = true ∧ lowZero 24 h = false then
             t.svc.rot = some { rot with armed := some (nextCheckpoint h) } ∧ t.flag TOP_ROT_STAT_DEFERRED = true ∧
               t.reg64 TOP_ROT_HZN_LO = nextCheckpoint h ∧
               (s.canNumber = true → t.lastEvent = some (0x0306, [h.toNat, (nextCheckpoint h).toNat]))
           else t.svc.rot = some { rot with armed := some h } ∧ t.reg64 TOP_ROT_HZN_LO = h))) ∧
  (∀ (p : Path) (s : State), s.opens p TOP_ROT_CTL →
    ∃ t, exec (.rotCancel p) s = .next t ∧
      (if s.svc.rot.isSome then
         t.svc.rot = none ∧ t.fld TOP_ROT_STAT_CODE = 9 ∧ t.fld TOP_ROT_STAT_TARGETS = 0 ∧ t.fld TOP_ROT_STAT_LEAVING = 0 ∧
           t.flag TOP_ROT_STAT_DEFERRED = false ∧ Only [.regs, .beds, .svc] (s.seen p) t
       else t = s.seen p)) ∧
  (∀ (rot : Rotation) (h : U64) (s : State), s.mod.st = .growing → s.svc.rot = some rot → rot.armed = some h → h.toNat ≤ s.count.toNat →
    ∃ t, exec .rotChangeHorizon s = .next t ∧
      (match s.rotFrom rot with
       | none => t = s
       | some r => t.prog.phase = r.q.ph.id ∧ t.prog.place = s.newPlace r rot ∧ t.svc.rot = none ∧ t.fld TOP_ROT_STAT_CODE = 4 ∧
           t.fld TOP_ROT_STAT_TARGETS = 0 ∧ t.mod.st = .growing ∧
           (∀ img, rot.image = some img → t.prog.image = some img ∧ t.prog.staged = none ∧ t.prog.copying = true) ∧
           (rot.image = none → t.prog.image = s.prog.image))) ∧
  (∀ (rot : Rotation) (h : U64) (s : State), s.svc.rot = some rot → rot.armed = some h → s.count.toNat < h.toNat →
    exec .rotChangeHorizon s = .next s) ∧
  (∀ (b : Fin 4) (s : State), s.mod.st.serving = true →
    ∃ t, exec (.oldBedIdle b) s = .next t ∧
      (if (s.beds[b] : Bed).leaving = true ∧ s.bedBusy b = false then
         t.flag ⟨TOP_ROT_STAT, 20 + b.val, 1⟩ = false ∧
           (s.bedPresent b = true → (s.beds[b] : Bed).variant.isSome = true → t.bedState b = 1 ∧ (t.beds[b] : Bed).variant = none) ∧
           (∀ k : Fin 4, k ≠ b → (t.beds[k] : Bed) = s.beds[k]) ∧ Only [.regs, .beds] s t
       else t = s)) ∧
  (∀ s : State, s.mod.st.serving = true → s.prog.copying = true →
    exec .stagedImageCopyDone s = .next { s with prog := { s.prog with copying := false, oldDigest := [] } })

/-- Link microcode: a package is verified into the standby bank of its port or refused with its code, one swap at a time is armed for the first
horizon boundary at least 1,024 ticks away, and the swap trades the banks of that port alone (R502, R503). The model's readings in it: log
entries 46 and 96. -/
def Obligations.MicrocodeIsVerifiedAndSwapped : Prop :=
  (∀ (p : Path) (n : Nat) (s : State), s.opens p TOP_UC_CTL → n = s.fld TOP_UC_CTL_PORT →
    ∃ t, exec (.ucVerify p) s = .next t ∧ t.fld TOP_UC_STAT_CODE = s.ucCode n ∧
      (s.ucBytes 0 8 ≠ asciiBytes "CHT7UCOD" → t.fld TOP_UC_STAT_CODE = 4) ∧
      (t.fld TOP_UC_STAT_CODE ≠ 1 → t.svc = s.svc) ∧
      (t.fld TOP_UC_STAT_CODE = 1 → s.svc.ucArmed.any (fun a => a.1 == n) = false ∧ ∀ k : Fin 19,
        t.svc.uc[k] = if k.val = n then { s.svc.uc[k] with standby := some (leAt (s.ucBytes 0 64) 8 2) } else s.svc.uc[k]) ∧
      Framed [.regs, .svc] [TOP_UC_STAT] (s.seen p) t) ∧
  (∀ (p : Path) (k : Fin 19) (s : State), s.opens p TOP_UC_CTL → s.fld TOP_UC_CTL_PORT = k.val →
    ∃ t, exec (.ucArm p) s = .next t ∧
      (if s.svc.ucArmed.isSome then t.fld TOP_UC_STAT_CODE = 7 ∧ Framed [.regs] [TOP_UC_STAT] (s.seen p) t
       else if (s.svc.uc[k] : UcPort).standby.isSome then
         t.fld TOP_UC_STAT_CODE = 2 ∧
           t.svc = { s.svc with ucArmed := some (k.val, BitVec.ofNat 64 ((s.count.toNat + 2047) / 1024 * 1024)) } ∧
           Framed [.regs, .svc] [TOP_UC_STAT] (s.seen p) t
       else t = s.seen p)) ∧
  (∀ (p : Path) (s : State), s.opens p TOP_UC_CTL →
    ∃ t, exec (.ucCancel p) s = .next t ∧
      (if s.svc.ucArmed.isSome then
         t.fld TOP_UC_STAT_CODE = 8 ∧ t.svc = { s.svc with ucArmed := none } ∧ Framed [.regs, .svc] [TOP_UC_STAT] (s.seen p) t
       else t = s.seen p)) ∧
  (∀ (k : Fin 19) (h : U64) (v : Nat) (s : State), s.mod.st.serving = true → s.svc.ucArmed = some (k.val, h) → h.toNat ≤ s.count.toNat →
    (s.svc.uc[k] : UcPort).standby = some v →
    ∃ t, exec .ucSwap s = .next t ∧ (t.svc.uc[k] : UcPort) = ⟨v, some (s.svc.uc[k] : UcPort).running⟩ ∧
      (∀ j : Fin 19, j ≠ k → (t.svc.uc[j] : UcPort) = s.svc.uc[j]) ∧ t.svc.ucArmed = none ∧ t.fld TOP_UC_STAT_CODE = 3 ∧
      Framed [.regs, .svc] [TOP_UC_STAT] s t)

/-! Network time -/

/-- The servo and the host steer a domain: a change of rate leaves its time as it is, a step within the limit moves its offset, a larger one is
a jump that is applied, refused until JUMP_ACCEPT, or gives way to the other domain (R478, R479, R487, R488, Table 17.1). The model's
readings in it: log entry 98. A write of SEL asks for a switch in parallel mode and moves a single domain outside Growing; the switch takes
effect at a whole second with record 0x0703; the 1 PPS input is stamped, checked against the whole second and missed (R485, R486, R489,
R490). The model's readings in it: log entry 98. -/
def Obligations.StepsAndSwitchesOfTheDomains : Prop :=
  (∀ (d : Fin 2) (r : Word) (s : State), s.servoOn d = true → s.freeRuns d = false →
    ∃ t, exec (.rateChange d r) s = .next t ∧ t.reg (TIM_D_RATE + timOff d) = r ∧ t.domainTime d = s.domainTime d ∧
      t.domainTime (d + 1) = s.domainTime (d + 1) ∧ Framed [.regs, .tim] [TIM_D_RATE + timOff d] s t) ∧
  (∀ (d : Fin 2) (ns : Int) (s : State), s.servoOn d = true →
    ∃ t, exec (.timeStep d ns) s = .next t ∧
      (if (s.tim.firstStep = true ∧ s.parallel = false ∧ s.selected = d) ∨ ns.natAbs ≤ (s.reg TIM_JUMP_LIMIT).toNat then
         t.domainTime d = s.domainTime d + BitVec.ofInt 96 (ns * 2 ^ 32) ∧ t.domainTime (d + 1) = s.domainTime (d + 1) ∧
           t.reg TIM_STEP_CNT = bumped (s.reg TIM_STEP_CNT) ∧ Framed [.regs, .tim] [TIM_STEP_CNT] s t
       else if s.parallel = true ∧ s.selected ≠ d then
         t.domainTime d = s.domainTime d + BitVec.ofInt 96 (ns * 2 ^ 32) ∧ t.reg TIM_STEP_CNT = bumped (s.reg TIM_STEP_CNT) ∧
           (s.canNumber = true → t.lastEvent = some (0x0705, [d.val, toBits 64 ns]))
       else if s.parallel = true ∧ s.flag TIM_CTL_AUTO_SWITCH = true ∧ s.domainLocked (d + 1) = true then
         t.tim = { s.tim with switchTo := some (d + 1), afterSwitch := some ⟨d, ns⟩ } ∧ Framed [.tim] [] s t
       else
         t.tim = { s.tim with pend := some ⟨d, ns⟩ } ∧ t.flag TIM_STAT_JUMP_REF = true ∧ t.flag TIM_STAT_JUMP_PEND = true ∧
           t.reg TIM_JUMP_REF_CNT = bumped (s.reg TIM_JUMP_REF_CNT) ∧
           (s.canNumber = true → t.lastEvent = some (0x0704, [d.val, toBits 64 ns])) ∧
           Framed [.regs, .tim, .aug] [TIM_STAT, TIM_JUMP_REF_CNT, AUG_RATE, AUG_STAT] s t)) ∧
  (∀ (p : Path) (s : State), s.opens p TIM_CTL →
    ∃ t, exec (.jumpAccept p) s = .next t ∧
      (match s.tim.pend with
       | none => t = s.seen p
       | some x => t.tim.pend = none ∧ t.flag TIM_STAT_JUMP_PEND = false ∧
           t.tim.off = s.tim.off.set x.domain ((s.tim.off[x.domain] : BitVec 96) + BitVec.ofInt 96 (x.ns * 2 ^ 32)) ∧
           t.reg TIM_STEP_CNT = bumped (s.reg TIM_STEP_CNT) ∧
           (s.canNumber = true → t.lastEvent = some (0x0705, [x.domain.val, toBits 64 x.ns])))) ∧
  (∀ (p : Path) (d : Fin 2) (s : State), s.opens p TIM_CTL →
    ∃ t, exec (.switchRequest p d) s = .next t ∧
      (if s.parallel = true then
         t.fld TIM_CTL_SEL = d.val ∧ t.tim.switchTo = (if s.selected = d then none else some d) ∧ t.selected = s.selected ∧
           Framed [.regs, .tim] [TIM_CTL] (s.seen p) t
       else if s.mod.st = .growing then t = s.seen p
       else t.fld TIM_CTL_SEL = d.val ∧ t.selected = d ∧ Framed [.regs, .tim] [TIM_CTL, TIM_STAT, TIM_D_STAT + timOff (d + 1 : Fin 2)] (s.seen p) t)) ∧
  (∀ (d : Fin 2) (s : State), s.timServed = true → s.tim.switchTo = some d → s.domainLocked d = true →
    (wholeNs (s.domainTime d)).toNat % 1000000000 ≤ 1 →
    ∃ t, exec .domainSwitch s = .next t ∧ t.selected = d ∧ t.tim.switchTo = none ∧ t.tim.afterSwitch = none ∧
      t.flag TIM_STAT_SWITCHED = true ∧ t.flag TIM_STAT_LOCKED = true ∧ t.reg TIM_SWITCH_CNT = bumped (s.reg TIM_SWITCH_CNT) ∧
      (s.canNumber = true → s.notes t 0x0703 ([s.selected.val, d.val] ++ s.fullTime s.selected ++ s.fullTime d)) ∧
      (match s.tim.afterSwitch with
       | none => t.tim.off = s.tim.off
       | some x => t.tim.off = s.tim.off.set x.domain ((s.tim.off[x.domain] : BitVec 96) + BitVec.ofInt 96 (x.ns * 2 ^ 32)))) ∧
  (∀ s : State, s.timServed = true → s.flag TIM_CTL_PPS_EN = true →
    ∃ t, exec .ppsEdge s = .next t ∧ t.reg64 TIM_PPS_LO = s.recordNs ∧ t.tim = { s.tim with ppsSeen := true } ∧
      (if s.domainLocked s.selected = true ∧ (s.reg TIM_PPS_TOL).toNat % 65536 < (secondOff s.recordNs).natAbs then
         t.flag TIM_STAT_PPS_BAD = true ∧ (s.canNumber = true → t.lastEvent = some (0x0706, [toBits 32 (secondOff s.recordNs)])) ∧
           Framed [.regs, .tim, .aug] [TIM_PPS_LO, TIM_PPS_HI, TIM_STAT, AUG_RATE, AUG_STAT] s t
       else Framed [.regs, .tim] [TIM_PPS_LO, TIM_PPS_HI] s t)) ∧
  (∀ s : State, s.timServed = true → s.flag TIM_CTL_PPS_EN = true → s.tim.ppsSeen = true →
    ∃ t, exec .ppsMissing s = .next t ∧ t.tim = { s.tim with ppsSeen := false } ∧ t.flag TIM_STAT_PPS_MISS = true ∧
      t.reg TIM_PPS_MISS_CNT = bumped (s.reg TIM_PPS_MISS_CNT) ∧ Framed [.regs, .tim] [TIM_STAT, TIM_PPS_MISS_CNT] s t)

/-- A clock listens to its master: every message shows the link, an Announce the master, a Sync the offset (within the 1 ns that a stamp may be off),
a Delay_Resp and a Pdelay_Resp the mean path delay; holdover keeps rate and offset (R480 to R482, R486). The model's readings in it: log entries
97 and 98. -/
def Obligations.ClocksFollowTheirMasters : Prop :=
  (∀ (d : Fin 2) (m : PtpMsg) (s : State), s.timServed = true → s.flag (TIM_D_CTL_EN.on (timOff d)) = true →
    ∃ t, exec (.ptpMessage d m) s = .next t ∧ t.flag (TIM_D_STAT_LINK.on (timOff d)) = true ∧
      t.reg (TIM_D_RX_CNT + timOff d) = (if ptpEvent m then bumped (s.reg (TIM_D_RX_CNT + timOff d)) else s.reg (TIM_D_RX_CNT + timOff d)) ∧
      t.tim.off = s.tim.off ∧ (s.tracked d = false → Framed [.regs] [TIM_D_STAT + timOff d, TIM_D_RX_CNT + timOff d] s t)) ∧
  (∀ (d : Fin 2) (master old : U64) (s : State), s.timServed = true → s.flag (TIM_D_CTL_EN.on (timOff d)) = true → s.tracked d = true →
    old = s.reg64 (TIM_D_MASTER_LO + timOff d) →
    ∃ t, exec (.ptpMessage d (.announce master)) s = .next t ∧ t.reg64 (TIM_D_MASTER_LO + timOff d) = master ∧
      (old ≠ master → old ≠ 0 → t.flag (TIM_D_STAT_MASTER_CHG.on (timOff d)) = true ∧
        (s.canNumber = true → t.lastEvent = some (0x0707, [d.val, old.toNat, master.toNat])))) ∧
  (∀ (d : Fin 2) (t1 corr : Int) (s : State), s.timServed = true → s.flag (TIM_D_CTL_EN.on (timOff d)) = true → s.tracked d = true →
    ∃ t, exec (.ptpMessage d (.sync t1 corr)) s = .next t ∧ t.flag (TIM_D_STAT_HOLDOVER.on (timOff d)) = false ∧
      ∃ delay : Int, (delay - ((wholeNs (s.domainTime d)).toNat - t1 - corr - s.asym d)).natAbs ≤ 1 ∧
        t.reg (TIM_D_OFM + timOff d) = satInt32 (delay - s.meanPath d) ∧ (t.tim.syncDelay[d] : Int) = delay ∧
        t.domainLocked d = decide ((delay - s.meanPath d).natAbs ≤ 100 ∧ 15 ≤ (s.tim.lockRun[d] : Nat))) ∧
  (∀ (d : Fin 2) (t3 t4 corr : Int) (s : State), s.timServed = true → s.flag (TIM_D_CTL_EN.on (timOff d)) = true → s.tracked d = true →
    s.flag (TIM_D_CTL_P2P.on (timOff d)) = false →
    ∃ t, exec (.ptpMessage d (.delayResp t3 t4 corr)) s = .next t ∧ ∃ half : Int, 0 ≤ half ∧ half ≤ 1 ∧
      t.reg (TIM_D_MPD + timOff d) = BitVec.ofInt 32 (((s.tim.syncDelay[d] : Int) + (t4 - t3 - corr) + s.asym d + half) / 2)) ∧
  (∀ (d : Fin 2) (mean : Int) (s : State), s.timServed = true → s.flag (TIM_D_CTL_EN.on (timOff d)) = true → s.tracked d = true →
    s.flag (TIM_D_CTL_P2P.on (timOff d)) = true →
    ∃ t, exec (.ptpMessage d (.pdelayResp mean)) s = .next t ∧ t.reg (TIM_D_MPD + timOff d) = BitVec.ofInt 32 mean) ∧
  (∀ (d : Fin 2) (s : State), s.timServed = true → s.tracked d = true → s.flag (TIM_D_CTL_EN.on (timOff d)) = true →
    s.flag (TIM_D_STAT_HOLDOVER.on (timOff d)) = false →
    ∃ t, exec (.holdoverEntry d) s = .next t ∧ t.flag (TIM_D_STAT_HOLDOVER.on (timOff d)) = true ∧ t.domainLocked d = false ∧
      t.tim.off = s.tim.off ∧ t.rate d = s.rate d ∧ (s.canNumber = true → t.lastEvent = some (0x0702, [d.val])) ∧
      t.tim.switchTo = (if s.parallel = true ∧ s.selected = d ∧ s.flag TIM_CTL_AUTO_SWITCH = true ∧ s.domainLocked (d + 1) = true
        then some (d + 1) else s.tim.switchTo) ∧
      Framed [.regs, .aug, .tim] [TIM_D_STAT + timOff d, TIM_STAT, AUG_RATE, AUG_STAT] s t)

/-! Trust -/

/-- Burn orders pass the checks or end with their code, a burn programs its target and clears nothing, an attestation puts the signed statement over
the nonce into its buffer, and private JTAG is noted at its first use (R365, R366, R371 to R374, R385). The model's readings in it: log entries
61, 99 and 100. -/
def Obligations.OrdersBurnAndStatementsAreSigned : Prop :=
  (∀ (p : Path) (s : State), s.opens p SEC_CMD → s.mod.st.serving = true → s.sec.cmd = none →
    ∃ t, exec (.burnOrder p) s = .next t ∧
      (if s.orderCode = 0 then t.flag SEC_STAT_BUSY = true ∧
         t.sec.cmd = some (.burn (leNat (s.orderBytes 12 1)) (leNat (s.orderBytes 13 1)) (s.orderBytes 128 128))
       else t.sec.cmd = none ∧ t.fld SEC_STAT_RESULT = s.orderCode ∧ t.flag SEC_STAT_DONE = true) ∧
      Framed [.regs, .sec] [SEC_STAT] (s.seen p) t) ∧
  (∀ (target index : Nat) (payload : List Byte) (s : State), s.sec.cmd = some (.burn target index payload) → index ≤ 3 → payload.length = 128 →
    ∃ t, exec (.burnComplete true) s = .next t ∧ t.sec.cmd = none ∧
      (∀ f, burnFuse target index = some f → t.sec.fuses = s.sec.fuses.set f 3) ∧
      (∀ x, burnFuse target index = none → x ∈ burnPlaces target index →
        t.hardpanBytes x.1 x.2 = List.zipWith (fun (a b : Byte) => a ||| b) (s.hardpanBytes x.1 x.2) (burnBytes index x.1 x.2 payload)) ∧
      (s.mod.rstWaits = false → t.fld SEC_STAT_RESULT = 0 ∧ t.flag SEC_STAT_DONE = true ∧ t.flag SEC_STAT_BUSY = false ∧
        t.mod.st = s.mod.st)) ∧
  (∀ (target index : Nat) (payload : List Byte) (s : State), s.sec.cmd = some (.burn target index payload) → s.fusesOk →
    ∃ t, exec (.burnComplete false) s = .next t ∧ t.sec.cmd = none ∧ s.burnsKept t ∧
      (s.mod.rstWaits = false → t.fld SEC_STAT_RESULT = 0x0A ∧ t.flag SEC_STAT_DONE = true ∧ t.flag SEC_STAT_BUSY = false)) ∧
  (∀ (p : Path) (s : State), s.opens p SEC_CMD →
    ∃ t, exec (.attest p) s = .next t ∧
      (if s.sec.cmd = none ∧ s.mod.st.serving = true then
         t.sec.cmd = some (.attest s.nonce) ∧ t.flag SEC_STAT_BUSY = true ∧ Framed [.regs, .sec] [SEC_STAT] (s.seen p) t
       else t = s.seen p)) ∧
  (∀ (nonce text : List Byte) (s : State), s.sec.cmd = some (.attest nonce) → s.rsaFree = true → text = s.statement nonce →
    ∃ t, exec .attestComplete s = .next t ∧
      t.sec = { s.sec with cmd := none, stmt := putBytes zeroByte [] 0 (text ++ (List.range 512).map (Config.attSign text)) } ∧
      t.reg SEC_ATT_CNT = bumped (s.reg SEC_ATT_CNT) ∧ t.fld SEC_STAT_RESULT = 0 ∧ t.flag SEC_STAT_DONE = true ∧
      t.flag SEC_STAT_BUSY = false ∧ Framed [.regs, .sec] [SEC_STAT, SEC_ATT_CNT] s t) ∧
  (∀ s : State, s.mod.st ≠ .off → s.debugLock = false →
    ∃ t, exec .privateJtag s = .next t ∧ t.sec = { s.sec with jtag := true, debugUsed := true } ∧
      (if s.sec.debugUsed then Framed [.sec] [] s t
       else t.flag SEC_STAT_DEBUG_USED = true ∧ (s.canNumber = true → t.lastEvent = some (0x0104, [])) ∧
         Framed [.regs, .sec, .aug] [SEC_STAT, AUG_RATE, AUG_STAT] s t)) ∧
  (∀ s : State, s.mod.st ≠ .off → s.debugLock = true → exec .privateJtag s = .next s)

/-! Register access -/

/-- Reads: a word that is held is returned, what a read clears is cleared, a leading register loads the path's latch with its group, and a held
latch is what its path reads; an access that is not aligned, or whose block does not answer, is refused with its reason and reads zero
(R526, R531, R534, R535, R540). The model's readings in it: log entries 53 and 54. Writes: a register whose write only stores takes its RW
bits, drops the W1C bits written 1 and keeps the rest, and nothing else changes; PWR_BUDGET is held to the cap; a refused write leaves only
its reason; a path that does not work changes nothing (R26, R371, R526, R531, R533, R537, R540). The model's readings in it: log entries 36,
53 and 55. -/
def Obligations.RegistersAreReadAndWritten : Prop :=
  (∀ (p : Path) (addr : Word) (row : RegRow) (u s : State), s.opens p addr.toNat → addr.toNat % 4 = 0 → addr.toNat < 0x100000 →
    s.absentBlock addr.toNat = false → rowOf addr.toNat = some row → addr.toNat ≠ CLK_FREQ → u = s.seen p →
    ∃ t, exec (.readClear p addr) s = .next t ∧ exec (.leadingRegisterRead p addr) s = .next t ∧
      (match mapFind u.latches (latchKey p addr.toNat) with
       | some v => t.answers = u.answers.set (pathIx p) v ∧ Framed [.answers] [] u t
       | none => t.answers = u.answers.set (pathIx p) (u.shown addr.toNat) ∧
           t.reg (u.place addr.toNat) = (u.reg (u.place addr.toNat) &&& ~~~row.rc) ∧
           (∀ f, f ∈ followers addr.toNat → mapFind t.latches (latchKey p f) = some (u.shown f)) ∧
           Framed [.answers, .latches, .regs] [u.place addr.toNat] u t)) ∧
  (∀ (p : Path) (addr : Word) (s : State), s.pathWorks p = true → addr.toNat % 4 ≠ 0 →
    ∃ t, exec (.readClear p addr) s = .next t ∧ exec (.leadingRegisterRead p addr) s = .next t ∧ t.flag TOP_ACC_STAT_ERR = true ∧
      t.fld TOP_ACC_STAT_PATH = pathCode p ∧ t.fld TOP_ACC_STAT_REASON = 3 ∧ t.reg TOP_ACC_ADDR = addr ∧
      t.answers = s.answers.set (pathIx p) 0 ∧ Framed [.answers, .regs] [TOP_ACC_STAT, TOP_ACC_ADDR] (s.seen p) t) ∧
  (∀ (p : Path) (addr : Word) (s : State), s.pathWorks p = true → addr.toNat % 4 = 0 → addr.toNat < 0x1000000 →
    s.absentBlock addr.toNat = false → s.blockAnswers addr.toNat = false →
    ∃ t, exec (.readClear p addr) s = .next t ∧ t.flag TOP_ACC_STAT_ERR = true ∧ t.fld TOP_ACC_STAT_PATH = pathCode p ∧
      t.fld TOP_ACC_STAT_REASON = 1 ∧ t.reg TOP_ACC_ADDR = addr ∧ t.answers = s.answers.set (pathIx p) 0) ∧
  (∀ (p : Path) (addr v : Word) (row : RegRow) (u s : State), s.opens p addr.toNat → addr.toNat % 4 = 0 → addr.toNat < 0x100000 →
    s.absentBlock addr.toNat = false → rowOf addr.toNat = some row → u = s.seen p → u.writeLow addr.toNat v = none →
    u.writeHigh p addr.toNat v = none →
    ∃ t, exec (.registerWrite p addr v) s = .next t ∧
      t.reg addr.toNat = ((u.reg addr.toNat &&& ~~~(v &&& row.w1c) &&& ~~~row.rw) ||| (v &&& row.rw)) ∧ Framed [.regs] [addr.toNat] u t) ∧
  (∀ (p : Path) (addr v : Word) (s : State), s.opens p addr.toNat → addr.toNat = PWR_BUDGET →
    ∃ t, exec (.registerWrite p addr v) s = .next t ∧ t.reg PWR_BUDGET = BitVec.ofNat 32 (min (v.toNat % 65536) s.budgetCap) ∧
      Framed [.regs] [PWR_BUDGET] (s.seen p) t) ∧
  (∀ (p : Path) (addr v : Word) (s : State), s.pathWorks p = true → addr.toNat % 4 ≠ 0 →
    ∃ t, exec (.registerWrite p addr v) s = .next t ∧ t.flag TOP_ACC_STAT_ERR = true ∧ t.fld TOP_ACC_STAT_PATH = pathCode p ∧
      t.fld TOP_ACC_STAT_REASON = 3 ∧ t.reg TOP_ACC_ADDR = addr ∧ Framed [.regs] [TOP_ACC_STAT, TOP_ACC_ADDR] (s.seen p) t) ∧
  (∀ (p : Path) (addr v : Word) (s : State), s.pathWorks p = false →
    exec (.registerWrite p addr v) s = .next s ∧ exec (.readClear p addr) s = .next s ∧ exec (.leadingRegisterRead p addr) s = .next s)

/-- A management transaction writes its whole words in order at addresses that advance by 4, or reads its words likewise, each as the register
access of that address, a word cut off being read at its first byte and not written before its fourth; a cut word reports REASON 4 at its address,
and a transaction that ends inside the address performs nothing and reports REASON 4 with the address bytes received (R532). -/
def Obligations.ManagementTransactionsAccessTheirWords : Prop :=
  (∀ (head data : List Byte) (n k : Nat) (s : State), s.pathWorks .mgt = true → head.length = 4 → k < 4 → data.length = 4 * n + k →
    ∃ t w, exec (.mgtTransaction (head ++ data) 0) s = .next t ∧
      w = (List.range n).foldl (fun s j => s.pathWrites .mgt ((leNat head + 4 * j) % 2 ^ 32) (BitVec.ofNat 32 (leAt data (4 * j) 4)))
        s.accessSeen ∧
      (if k ≠ 0 ∧ w.pathWorks .mgt = true then t.flag TOP_ACC_STAT_ERR = true ∧ t.fld TOP_ACC_STAT_PATH = 1 ∧ t.fld TOP_ACC_STAT_REASON = 4 ∧
         t.reg TOP_ACC_ADDR = BitVec.ofNat 32 ((leNat head + 4 * n) % 2 ^ 32) ∧ Framed [.regs] [TOP_ACC_STAT, TOP_ACC_ADDR] w t
       else t = w)) ∧
  (∀ (head : List Byte) (m k : Nat) (s : State), s.pathWorks .mgt = true → head.length = 4 → k < 4 →
    ∃ t w, exec (.mgtTransaction head (4 * m + k)) s = .next t ∧
      w = (List.range (if k = 0 then m else m + 1)).foldl (fun s j => s.pathReads .mgt ((leNat head + 4 * j) % 2 ^ 32)) s.accessSeen ∧
      (if k ≠ 0 ∧ w.pathWorks .mgt = true then t.flag TOP_ACC_STAT_ERR = true ∧ t.fld TOP_ACC_STAT_PATH = 1 ∧ t.fld TOP_ACC_STAT_REASON = 4 ∧
         t.reg TOP_ACC_ADDR = BitVec.ofNat 32 ((leNat head + 4 * m) % 2 ^ 32) ∧ Framed [.regs] [TOP_ACC_STAT, TOP_ACC_ADDR] w t
       else t = w)) ∧
  (∀ (bs : List Byte) (n : Nat) (s : State), s.pathWorks .mgt = true → 0 < bs.length → bs.length < 4 →
    ∃ t, exec (.mgtTransaction bs n) s = .next t ∧ t.flag TOP_ACC_STAT_ERR = true ∧ t.fld TOP_ACC_STAT_PATH = 1 ∧
      t.fld TOP_ACC_STAT_REASON = 4 ∧ t.reg TOP_ACC_ADDR = BitVec.ofNat 32 (leNat bs) ∧
      Framed [.regs] [TOP_ACC_STAT, TOP_ACC_ADDR] s.accessSeen t) ∧
  (∀ (bs : List Byte) (n : Nat) (s : State), s.pathWorks .mgt = false → exec (.mgtTransaction bs n) s = .next s)
end

