-- ==== Sys2Proof/Laws/Store.lean ====
section
/-!
SUPPORT. The sparse stores: what a read gives after a write, and that every store operation keeps the canonical form.
-/
namespace Sys2Proof.Machine

/-! What is listed -/

theorem mapFind_none_of_lt {α : Type} {m : Map α} {k : Nat} (h : ∀ e ∈ m, k < e.1) : mapFind m k = none := by
  induction m with
  | nil => rfl
  | cons e m ih =>
    obtain ⟨j, v⟩ := e
    have hj : k < j := h (j, v) (by simp)
    simp only [mapFind]
    rw [if_neg (by omega)]
    exact ih (fun e he => h e (by simp [he]))

theorem mapFind_filter {α : Type} (m : Map α) (p : Nat × α → Bool) (k : Nat)
    (hp : ∀ v, p (k, v) = true) : mapFind (m.filter p) k = mapFind m k := by
  induction m with
  | nil => rfl
  | cons e m ih =>
    obtain ⟨j, v⟩ := e
    by_cases hj : j = k
    · subst hj; simp [hp, mapFind]
    · by_cases h : p (j, v) = true <;> simp [h, mapFind, hj, ih]

@[simp] theorem mapFind_mapErase_self {α : Type} (m : Map α) (k : Nat) : mapFind (mapErase m k) k = none := by
  induction m with
  | nil => rfl
  | cons e m ih =>
    obtain ⟨j, v⟩ := e
    by_cases hj : j = k
    · subst hj; simpa [mapErase, List.filter_cons] using ih
    · have h : (j != k) = true := by simpa using hj
      simp only [mapErase, List.filter_cons, h, if_true, mapFind]
      rw [if_neg hj]
      exact ih

theorem mapFind_mapErase_ne {α : Type} (m : Map α) {k j : Nat} (h : j ≠ k) : mapFind (mapErase m k) j = mapFind m j :=
  mapFind_filter m _ j (fun _ => by simpa using h)

theorem mapFind_mapInsert_self {α : Type} (m : Map α) (k : Nat) (v : α) (h : mapFind m k = none) :
    mapFind (mapInsert m k v) k = some v := by
  induction m with
  | nil => simp [mapInsert, mapFind]
  | cons e m ih =>
    obtain ⟨j, w⟩ := e
    simp only [mapFind] at h
    split at h
    · simp at h
    · rename_i hj
      simp only [mapInsert]
      split
      · simp [mapFind]
      · simp [mapFind, hj, ih h]

theorem mapFind_mapInsert_ne {α : Type} (m : Map α) {k j : Nat} (v : α) (h : j ≠ k) :
    mapFind (mapInsert m k v) j = mapFind m j := by
  induction m with
  | nil => simp [mapInsert, mapFind, Ne.symm h]
  | cons e m ih =>
    obtain ⟨i, w⟩ := e
    simp only [mapInsert]
    split
    · simp [mapFind, Ne.symm h]
    · simp [mapFind, ih]

@[simp] theorem mapFind_mapSet_self {α : Type} (m : Map α) (k : Nat) (v : α) : mapFind (mapSet m k v) k = some v :=
  mapFind_mapInsert_self _ _ _ (mapFind_mapErase_self m k)

theorem mapFind_mapSet_ne {α : Type} (m : Map α) {k j : Nat} (v : α) (h : j ≠ k) : mapFind (mapSet m k v) j = mapFind m j := by
  rw [mapSet, mapFind_mapInsert_ne _ v h, mapFind_mapErase_ne m h]

/-- A read after a write to the same key gives the value written. -/
@[simp] theorem mapGet_mapPut_self {α : Type} [DecidableEq α] (d : Nat → α) (m : Map α) (k : Nat) (v : α) :
    mapGet d (mapPut d m k v) k = v := by
  unfold mapPut
  split
  · rename_i h; simp [mapGet, h]
  · simp [mapGet]

/-- A write leaves every other key alone. -/
theorem mapGet_mapPut_ne {α : Type} [DecidableEq α] (d : Nat → α) (m : Map α) {k j : Nat} (v : α) (h : j ≠ k) :
    mapGet d (mapPut d m k v) j = mapGet d m j := by
  unfold mapPut
  split
  · simp [mapGet, mapFind_mapErase_ne m h]
  · simp [mapGet, mapFind_mapSet_ne m v h]

/-! Canonical form -/

theorem mapSorted_filter {α : Type} {m : Map α} (p : Nat × α → Bool) (h : mapSorted m) : mapSorted (m.filter p) :=
  h.sublist ((List.filter_sublist (p := p)).map Prod.fst)

theorem mapCanon_nil {α : Type} [DecidableEq α] (d : Nat → α) : mapCanon d ([] : Map α) := ⟨List.Pairwise.nil, by simp⟩

theorem mapCanon_filter {α : Type} [DecidableEq α] {d : Nat → α} {m : Map α} (p : Nat × α → Bool) (h : mapCanon d m) :
    mapCanon d (m.filter p) :=
  ⟨mapSorted_filter p h.1, fun e he => h.2 e (List.mem_of_mem_filter he)⟩

theorem mapCanon_mapErase {α : Type} [DecidableEq α] {d : Nat → α} {m : Map α} (k : Nat) (h : mapCanon d m) :
    mapCanon d (mapErase m k) := mapCanon_filter _ h

theorem mem_mapInsert {α : Type} {m : Map α} {k : Nat} {v : α} {e : Nat × α} (h : e ∈ mapInsert m k v) : e = (k, v) ∨ e ∈ m := by
  induction m with
  | nil => simpa [mapInsert] using h
  | cons x m ih =>
    obtain ⟨j, w⟩ := x
    simp only [mapInsert] at h
    split at h
    · simpa using h
    · rcases List.mem_cons.mp h with h | h
      · exact .inr (by simp [h])
      · rcases ih h with h | h
        · exact .inl h
        · exact .inr (by simp [h])

theorem mapSorted_mapInsert {α : Type} {m : Map α} (k : Nat) (v : α) (h : mapSorted m) (hk : ∀ e ∈ m, e.1 ≠ k) :
    mapSorted (mapInsert m k v) := by
  induction m with
  | nil => simp [mapInsert, mapSorted]
  | cons x m ih =>
    obtain ⟨j, w⟩ := x
    have hs : (∀ a ∈ m.map Prod.fst, j < a) ∧ (m.map Prod.fst).Pairwise (· < ·) := by simpa [mapSorted] using h
    have hj : j ≠ k := hk (j, w) (by simp)
    simp only [mapInsert]
    split
    · rename_i hlt
      show List.Pairwise (· < ·) (k :: j :: m.map Prod.fst)
      refine List.pairwise_cons.mpr ⟨?_, List.pairwise_cons.mpr hs⟩
      intro a ha
      rcases List.mem_cons.mp ha with ha | ha
      · omega
      · have := hs.1 a ha; omega
    · rename_i hge
      show List.Pairwise (· < ·) (j :: (mapInsert m k v).map Prod.fst)
      refine List.pairwise_cons.mpr ⟨?_, ih hs.2 (fun e he => hk e (by simp [he]))⟩
      intro a ha
      obtain ⟨e, he, rfl⟩ := List.mem_map.mp ha
      rcases mem_mapInsert he with he | he
      · subst he; show j < k; omega
      · exact hs.1 _ (List.mem_map_of_mem he)

theorem mapCanon_mapPut {α : Type} [DecidableEq α] {d : Nat → α} {m : Map α} (k : Nat) (v : α) (h : mapCanon d m) :
    mapCanon d (mapPut d m k v) := by
  unfold mapPut
  split
  · exact mapCanon_mapErase k h
  · rename_i hv
    have he := mapCanon_mapErase k h
    refine ⟨mapSorted_mapInsert k v he.1 ?_, ?_⟩
    · intro e hm
      have := List.of_mem_filter (p := fun e : Nat × α => e.1 != k) hm
      simpa using this
    · intro e hm
      rcases mem_mapInsert hm with hm | hm
      · subst hm; exact hv
      · exact he.2 e hm

theorem mapCanon_putBytes {d : Nat → Byte} {m : Map Byte} (a : Nat) (bs : List Byte) (h : mapCanon d m) :
    mapCanon d (putBytes d m a bs) := by
  induction bs generalizing m a with
  | nil => exact h
  | cons b bs ih => exact ih (a + 1) (mapCanon_mapPut a b h)

/-- Writing bytes leaves the bytes outside the written range alone. -/
theorem mapGet_putBytes_out {d : Nat → Byte} (m : Map Byte) (a : Nat) (bs : List Byte) {j : Nat}
    (h : j < a ∨ a + bs.length ≤ j) : mapGet d (putBytes d m a bs) j = mapGet d m j := by
  induction bs generalizing m a with
  | nil => rfl
  | cons b bs ih =>
    simp only [List.length_cons] at h
    rw [putBytes, ih (mapPut d m a b) (a + 1) (by omega), mapGet_mapPut_ne d m b (by omega)]

/-- A byte read back after bytes have been written. -/
theorem mapGet_putBytes_in {d : Nat → Byte} (m : Map Byte) (a : Nat) (bs : List Byte) {i : Nat} (h : i < bs.length) :
    mapGet d (putBytes d m a bs) (a + i) = bs[i] := by
  induction bs generalizing m a i with
  | nil => simp at h
  | cons b bs ih =>
    rw [putBytes]
    cases i with
    | zero => rw [mapGet_putBytes_out _ _ _ (by omega)]; simp
    | succ i =>
      have := ih (mapPut d m a b) (a + 1) (i := i) (by simpa using h)
      rw [show a + (i + 1) = a + 1 + i by omega, this]; rfl

end Sys2Proof.Machine
end

