-- ==== Sys2Proof/Laws/Keeps.lean ====
section
/-!
SUPPORT. What every operation of the module keeps: the queue, the canonical form of the stores, what has been burned into the hardpan; the
counter of free values only grows. One lemma per operation says so; this file holds the relation and its plain cases.
-/
namespace Sys2Proof.Machine

/-- What an operation on the security unit keeps. -/
structure SecKeeps (a b : Sec) : Prop where
  hardpan : ∀ k, mapGet zeroByte a.hardpan k &&& mapGet zeroByte b.hardpan k = mapGet zeroByte a.hardpan k
  fuses : (∀ i : Fin 10, (a.fuses[i] : Nat) ≤ 3) → ∀ i : Fin 10, (a.fuses[i] : Nat) ≤ b.fuses[i] ∧ (b.fuses[i] : Nat) ≤ 3
  bad : ∀ i : Fin 8, (a.bad[i] : Bool) = true → (b.bad[i] : Bool) = true
  hardpanCanon : mapCanon zeroByte a.hardpan → mapCanon zeroByte b.hardpan
  shadowCanon : mapCanon zeroByte a.hardpan → mapCanon zeroByte a.shadow → mapCanon zeroByte b.shadow
  orderCanon : mapCanon zeroByte a.order → mapCanon zeroByte b.order
  stmtCanon : mapCanon zeroByte a.stmt → mapCanon zeroByte b.stmt

theorem SecKeeps.refl (a : Sec) : SecKeeps a a :=
  ⟨fun _ => by simp, fun h i => ⟨le_rfl, h i⟩, fun _ h => h, id, fun _ => id, id, id⟩

theorem SecKeeps.trans {a b c : Sec} (h : SecKeeps a b) (k : SecKeeps b c) : SecKeeps a c where
  hardpan n := by
    have h1 := h.hardpan n
    have k1 := k.hardpan n
    rw [← h1, BitVec.and_assoc, k1]
  fuses hf i := ⟨(h.fuses hf i).1.trans (k.fuses (fun j => (h.fuses hf j).2) i).1, (k.fuses (fun j => (h.fuses hf j).2) i).2⟩
  bad i hb := k.bad i (h.bad i hb)
  hardpanCanon hc := k.hardpanCanon (h.hardpanCanon hc)
  shadowCanon hh hs := k.shadowCanon (h.hardpanCanon hh) (h.shadowCanon hh hs)
  orderCanon hc := k.orderCanon (h.orderCanon hc)
  stmtCanon hc := k.stmtCanon (h.stmtCanon hc)

/-- An operation that changes neither hardpan, fuses, marks nor buffers. -/
theorem SecKeeps.of {a b : Sec} (h1 : b.hardpan = a.hardpan) (h2 : b.fuses = a.fuses) (h3 : b.bad = a.bad) (h4 : b.shadow = a.shadow)
    (h5 : b.order = a.order) (h6 : b.stmt = a.stmt) : SecKeeps a b := by
  refine ⟨?_, ?_, ?_, ?_, ?_, ?_, ?_⟩ <;> simp only [h1, h2, h3, h4, h5, h6]
  · simp
  · exact fun h i => ⟨le_rfl, h i⟩
  · exact fun _ h => h
  · exact id
  · exact fun _ => id
  · exact id
  · exact id

/-- What an operation on the flash devices keeps. -/
def FlashKeeps (a b : Flash) : Prop := (∀ k : Fin 2, (a.dev[k] : FlashDev).wf) → ∀ k : Fin 2, (b.dev[k] : FlashDev).wf

/-- What an operation on the service buffers keeps. -/
structure SvcKeeps (a b : Svc) : Prop where
  uc : mapCanon zeroByte a.ucBuf → mapCanon zeroByte b.ucBuf
  back : mapCanon zeroByte a.readBack → mapCanon zeroByte b.readBack

theorem SvcKeeps.refl (a : Svc) : SvcKeeps a a := ⟨id, id⟩

/-- Every area of `a` is in `b`. -/
abbrev within (a b : List Area) : Prop := a.all (b.contains ·) = true

theorem within.mem {a b : List Area} (h : within a b) {p : Area} (hp : a.contains p = true) : p ∈ b := by
  have := List.all_eq_true.mp h p (List.contains_iff_mem.mp hp)
  exact List.contains_iff_mem.mp this

theorem within.sub {a b c : List Area} (h : within b c) (k : within a b) : within a c :=
  List.all_eq_true.mpr fun p hp => List.contains_iff_mem.mpr (h.mem (List.all_eq_true.mp k p hp))

/-- What an operation that touches only the areas `T` keeps. -/
structure Keeps (T : List Area) (r s : State) : Prop where
  pending : s.pending = r.pending
  free : r.free ≤ s.free
  regs : mapCanon regReset r.regs → mapCanon regReset s.regs
  sec : SecKeeps r.sec s.sec
  flash : FlashKeeps r.flash s.flash
  svc : SvcKeeps r.svc s.svc
  only : Only T r s

theorem Area.same_refl (p : Area) (s : State) : p.same s s := by cases p <;> rfl

theorem Area.same_trans {p : Area} {a b c : State} (h : p.same a b) (k : p.same b c) : p.same a c := by
  cases p <;> exact Eq.trans k h

theorem Keeps.refl (T : List Area) (s : State) : Keeps T s s :=
  ⟨rfl, le_rfl, id, SecKeeps.refl _, id, SvcKeeps.refl _, fun p _ => p.same_refl s⟩

theorem Keeps.trans {T : List Area} {a b c : State} (h : Keeps T a b) (k : Keeps T b c) : Keeps T a c :=
  ⟨k.pending.trans h.pending, h.free.trans k.free, fun x => k.regs (h.regs x), h.sec.trans k.sec, fun x => k.flash (h.flash x),
    ⟨fun x => k.svc.uc (h.svc.uc x), fun x => k.svc.back (h.svc.back x)⟩, fun p hp => Area.same_trans (h.only p hp) (k.only p hp)⟩

/-- A record update of the areas `T` that touches no store of the relation but the security unit and the service buffers. -/
theorem Keeps.upd {T : List Area} {r s : State} (h : Keeps T r s)
    {latches answers mod hz prog beds grn fast eng aug flt stm dec lanes ring lck hst tim pwr}
    {sec : Sec} {svc : Svc} {free : Nat} (hsec : SecKeeps s.sec sec) (hsvc : SvcKeeps s.svc svc) (hfree : s.free ≤ free)
    (ho : ∀ p : Area, p ∈ T ∨ p.same s ⟨s.pending, s.regs, latches, answers, mod, hz, prog, beds, grn, fast, eng, aug, flt, stm, dec, lanes,
      ring, lck, hst, tim, pwr, sec, s.flash, svc, free⟩) :
    Keeps T r ⟨s.pending, s.regs, latches, answers, mod, hz, prog, beds, grn, fast, eng, aug, flt, stm, dec, lanes, ring, lck, hst, tim, pwr,
      sec, s.flash, svc, free⟩ :=
  h.trans ⟨rfl, hfree, id, hsec, id, hsvc, fun p hp => (ho p).resolve_left hp⟩

/-- A record update of the areas `T` that touches neither a store of the relation nor the counter of free values. -/
theorem Keeps.fields {T : List Area} {r s : State} (h : Keeps T r s)
    {latches answers mod hz prog beds grn fast eng aug flt stm dec lanes ring lck hst tim pwr}
    (ho : ∀ p : Area, p ∈ T ∨ p.same s ⟨s.pending, s.regs, latches, answers, mod, hz, prog, beds, grn, fast, eng, aug, flt, stm, dec, lanes,
      ring, lck, hst, tim, pwr, s.sec, s.flash, s.svc, s.free⟩) :
    Keeps T r ⟨s.pending, s.regs, latches, answers, mod, hz, prog, beds, grn, fast, eng, aug, flt, stm, dec, lanes, ring, lck, hst, tim, pwr,
      s.sec, s.flash, s.svc, s.free⟩ :=
  h.upd (SecKeeps.refl _) (SvcKeeps.refl _) le_rfl ho

theorem Keeps.foldl {α : Type} {T : List Area} {r s : State} {f : State → α → State} (l : List α) (h : Keeps T r s)
    (hf : ∀ t x, Keeps T r t → Keeps T r (f t x)) : Keeps T r (l.foldl f s) := by
  induction l generalizing s with
  | nil => exact h
  | cons a l ih => exact ih (hf s a h)

theorem Keeps.setReg {T : List Area} {r s : State} (h : Keeps T r s) (w : within [.regs] T) (a : Nat) (v : Word) :
    Keeps T r (s.setReg a v) :=
  h.trans ⟨rfl, le_rfl, fun x => mapCanon_mapPut a v x, SecKeeps.refl _, id, SvcKeeps.refl _, fun p hp => by
    cases p <;> first | rfl | exact absurd (w.mem rfl) hp⟩

theorem Keeps.drawNat {T : List Area} {r s : State} (h : Keeps T r s) (w : within [.free] T) : Keeps T r s.drawNat.2 :=
  h.upd (SecKeeps.refl _) (SvcKeeps.refl _) (Nat.le_succ _) fun p => by cases p <;> first | exact .inr rfl | exact .inl (w.mem rfl)

theorem Keeps.drawBytes {T : List Area} {r s : State} (h : Keeps T r s) (w : within [.free] T) (n : Nat) : Keeps T r (s.drawBytes n).2 :=
  h.upd (SecKeeps.refl _) (SvcKeeps.refl _) (Nat.le_add_right _ _) fun p => by
    cases p <;> first | exact .inr rfl | exact .inl (w.mem rfl)

/-- A record update of the register store. -/
theorem Keeps.updRegs {T : List Area} {r s : State} (h : Keeps T r s) {regs : Map Word}
    {latches answers mod hz prog beds grn fast eng aug flt stm dec lanes ring lck hst tim pwr}
    (hregs : mapCanon regReset s.regs → mapCanon regReset regs)
    (ho : ∀ p : Area, p ∈ T ∨ p.same s ⟨s.pending, regs, latches, answers, mod, hz, prog, beds, grn, fast, eng, aug, flt, stm, dec, lanes,
      ring, lck, hst, tim, pwr, s.sec, s.flash, s.svc, s.free⟩) :
    Keeps T r ⟨s.pending, regs, latches, answers, mod, hz, prog, beds, grn, fast, eng, aug, flt, stm, dec, lanes, ring, lck, hst, tim, pwr,
      s.sec, s.flash, s.svc, s.free⟩ :=
  h.trans ⟨rfl, le_rfl, hregs, SecKeeps.refl _, id, SvcKeeps.refl _, fun p hp => (ho p).resolve_left hp⟩

/-- An operation on the security unit. -/
theorem Keeps.secTo {T : List Area} {r s : State} (h : Keeps T r s) (w : within [.sec] T) (x : Sec) (hx : SecKeeps s.sec x) :
    Keeps T r { s with sec := x } :=
  h.upd hx (SvcKeeps.refl _) le_rfl fun p => by cases p <;> first | exact .inr rfl | exact .inl (w.mem rfl)

/-- An operation on the service buffers. -/
theorem Keeps.svcTo {T : List Area} {r s : State} (h : Keeps T r s) (w : within [.svc] T) (x : Svc) (hx : SvcKeeps s.svc x) :
    Keeps T r { s with svc := x } :=
  h.upd (SecKeeps.refl _) hx le_rfl fun p => by cases p <;> first | exact .inr rfl | exact .inl (w.mem rfl)

/-- Bytes ORed into a store keep every bit that was set. -/
theorem mapGet_putBytes_or {d : Nat → Byte} (m : Map Byte) (a : Nat) (n : Nat) (bs : List Byte) (k : Nat) :
    mapGet d m k &&& mapGet d (putBytes d m a (List.zipWith (fun (x y : Byte) => x ||| y) (bytesAt d m a n) bs)) k = mapGet d m k := by
  by_cases hk : k < a ∨ a + (List.zipWith (fun (x y : Byte) => x ||| y) (bytesAt d m a n) bs).length ≤ k
  · rw [mapGet_putBytes_out _ _ _ hk, BitVec.and_self]
  · obtain ⟨i, rfl⟩ : ∃ i, k = a + i := ⟨k - a, by omega⟩
    have hi : i < (List.zipWith (fun (x y : Byte) => x ||| y) (bytesAt d m a n) bs).length := by omega
    rw [mapGet_putBytes_in _ _ _ hi]
    simp only [bytesAt, List.getElem_zipWith, List.getElem_map, List.getElem_range]
    ext j hj
    simp
    tauto

/-- Programming bytes into the hardpan. -/
theorem Keeps.hardpanOr {T : List Area} {r s : State} (h : Keeps T r s) (w : within [.sec] T) (a n : Nat) (bs : List Byte) :
    Keeps T r { s with sec := { s.sec with
      hardpan := putBytes zeroByte s.sec.hardpan a (List.zipWith (fun (x y : Byte) => x ||| y) (bytesAt zeroByte s.sec.hardpan a n) bs) } } :=
  h.secTo w _ ⟨fun _ => mapGet_putBytes_or _ _ _ _ _, fun hf i => ⟨le_rfl, hf i⟩, fun _ hb => hb, fun hc => mapCanon_putBytes _ _ hc,
    fun _ hs => hs, id, id⟩

/-- Programming a fuse. -/
theorem Keeps.fuseTo {T : List Area} {r s : State} (h : Keeps T r s) (w : within [.sec] T) (f : Fin 10) (n : Nat)
    (hn : (s.sec.fuses[f] : Nat) ≤ 3 → (s.sec.fuses[f] : Nat) ≤ n ∧ n ≤ 3) :
    Keeps T r { s with sec := { s.sec with fuses := s.sec.fuses.set f n } } := by
  refine h.secTo w _ ⟨fun _ => BitVec.and_self, fun hf i => ?_, fun _ hb => hb, id, fun _ => id, id, id⟩
  by_cases hi : f = i
  · subst hi
    simpa using hn (hf f)
  · have : f.val ≠ i.val := fun hv => hi (Fin.ext hv)
    simpa [Vector.getElem_set, this] using hf i

/-- Marking a slot or generation bad. -/
theorem Keeps.badTo {T : List Area} {r s : State} (h : Keeps T r s) (w : within [.sec] T) (f : Fin 8) :
    Keeps T r { s with sec := { s.sec with bad := s.sec.bad.set f true } } := by
  refine h.secTo w _ ⟨fun _ => BitVec.and_self, fun hf i => ⟨le_rfl, hf i⟩, fun i hb => ?_, id, fun _ => id, id, id⟩
  by_cases hi : f = i
  · subst hi; simp
  · have : f.val ≠ i.val := fun hv => hi (Fin.ext hv)
    simpa [Vector.getElem_set, this] using hb

/-- What an operation that may not apply keeps. -/
def KeepsO (T : List Area) (r : State) (o : Option State) : Prop := ∀ t, o = some t → Keeps T r t

theorem KeepsO.no {T : List Area} {r : State} : KeepsO T r none := fun _ e => (Option.some_ne_none _ e.symm).elim

theorem KeepsO.yes {T : List Area} {r s : State} (h : Keeps T r s) : KeepsO T r (some s) := fun _ e => Option.some.inj e ▸ h

theorem KeepsO.or {T : List Area} {r : State} {a b : Option State} (ha : KeepsO T r a) (hb : KeepsO T r b) : KeepsO T r (a.or b) := by
  cases a with
  | none => simpa using hb
  | some x => simpa using ha

theorem KeepsO.ite {T : List Area} {r : State} {c : Prop} [Decidable c] {a b : Option State} (ha : KeepsO T r a) (hb : KeepsO T r b) :
    KeepsO T r (if c then a else b) := by
  split <;> assumption

theorem KeepsO.getD {T : List Area} {r s : State} {a : Option State} (ha : KeepsO T r a) (hs : Keeps T r s) : Keeps T r (a.getD s) := by
  cases a with
  | none => exact hs
  | some x => exact ha x rfl

/-- What an operation that may give a result keeps. -/
def KeepsP {α : Type} (T : List Area) (r : State) (o : Option (α × State)) : Prop := ∀ x, o = some x → Keeps T r x.2

theorem KeepsP.no {α : Type} {T : List Area} {r : State} : KeepsP (α := α) T r none := fun _ e => (Option.some_ne_none _ e.symm).elim

theorem KeepsP.yes {α : Type} {T : List Area} {r : State} {x : α × State} (h : Keeps T r x.2) : KeepsP T r (some x) := fun _ e => Option.some.inj e ▸ h

theorem KeepsP.or {α : Type} {T : List Area} {r : State} {a b : Option (α × State)} (ha : KeepsP T r a) (hb : KeepsP T r b) : KeepsP T r (a.or b) := by
  cases a with
  | none => simpa using hb
  | some x => simpa using ha

theorem KeepsP.map {α β : Type} {T : List Area} {r : State} {a : Option (α × State)} {f : α × State → β × State} (ha : KeepsP T r a)
    (hf : ∀ x, Keeps T r x.2 → Keeps T r (f x).2) : KeepsP T r (a.map f) := by
  cases a with
  | none => exact KeepsP.no
  | some x => exact KeepsP.yes (hf x (ha x rfl))

end Sys2Proof.Machine
end

