-- ==== Sys2Proof/Laws/KeepsOps.lean ====
section
/-!
SUPPORT. Each operation of Machine/Ops.lean keeps what Laws/Keeps.lean names.
-/
set_option linter.unusedVariables false
set_option linter.unreachableTactic false
set_option linter.unusedTactic false
namespace Sys2Proof.Machine

theorem Keeps.bumpBy {T : List Area} {r s : State} (h : Keeps T r s) (w : within [.regs] T) (x1 : ℕ) (x2 : ℕ) : Keeps T r (State.bumpBy
    s x1 x2) := by
  unfold State.bumpBy
  repeat' (first | with_reducible assumption | with_reducible apply Keeps.setReg (w := w.sub (by decide)))

theorem Keeps.setFld {T : List Area} {r s : State} (h : Keeps T r s) (w : within [.regs] T) (x1 : Field) (x2 : ℕ) : Keeps T r
    (State.setFld s x1 x2) := by
  unfold State.setFld
  repeat' (first | with_reducible assumption | with_reducible apply Keeps.setReg (w := w.sub (by decide)))

theorem Keeps.setFlag {T : List Area} {r s : State} (h : Keeps T r s) (w : within [.regs] T) (x1 : Field) (x2 : Bool) : Keeps T r
    (State.setFlag s x1 x2) := by
  unfold State.setFlag
  repeat' (first | with_reducible assumption | with_reducible apply Keeps.setFld (w := w.sub (by decide)))

theorem Keeps.bump {T : List Area} {r s : State} (h : Keeps T r s) (w : within [.regs] T) (x1 : ℕ) : Keeps T r (State.bump s x1) := by
  unfold State.bump
  repeat' (first | with_reducible assumption | with_reducible apply Keeps.bumpBy (w := w.sub (by decide)))

theorem Keeps.setReg64 {T : List Area} {r s : State} (h : Keeps T r s) (w : within [.regs] T) (x1 : ℕ) (x2 : U64) : Keeps T r
    (State.setReg64 s x1 x2) := by
  unfold State.setReg64
  repeat' (first | with_reducible assumption | with_reducible apply Keeps.setReg (w := w.sub (by decide)))

theorem Keeps.raiseFld {T : List Area} {r s : State} (h : Keeps T r s) (w : within [.regs] T) (x1 : Field) (x2 : ℕ) : Keeps T r
    (State.raiseFld s x1 x2) := by
  unfold State.raiseFld
  repeat' (first | with_reducible assumption | with_reducible apply Keeps.setFld (w := w.sub (by decide)))

theorem Keeps.bump64 {T : List Area} {r s : State} (h : Keeps T r s) (w : within [.regs] T) (x1 : ℕ) (x2 : ℕ) : Keeps T r (State.bump64
    s x1 x2) := by
  unfold State.bump64
  repeat' (first | with_reducible assumption | with_reducible apply Keeps.setReg64 (w := w.sub (by decide)))

end Sys2Proof.Machine
end

