-- ==== Sys2Proof/Laws/KeepsAugerOps.lean ====
section
/-!
SUPPORT. Each operation of Machine/AugerOps.lean keeps what Laws/Keeps.lean names.
-/
set_option linter.unusedVariables false
set_option linter.unreachableTactic false
set_option linter.unusedTactic false
namespace Sys2Proof.Machine

theorem Keeps.numberRec {T : List Area} {r s : State} (h : Keeps T r s) (w : within [.aug] T) (x1 : Record) : Keeps T r (State.numberRec
    s x1) := by
  unfold State.numberRec
  repeat' (first
    | with_reducible assumption
    | fail_if_no_progress (with_reducible refine Keeps.fields ?_ (by intro p; cases p <;> first | exact .inl (w.mem (by decide)) | exact .inr rfl))
    | lift_lets -underBinder
    | (intro x; first | (refine (have hx : Keeps T r x := ?_; ?_); subst x; swap; clear_value x; swap) | subst x | skip) | split)

theorem Keeps.closeRun {T : List Area} {r s : State} (h : Keeps T r s) (w : within [.aug] T) (x1 : ℕ) : Keeps T r (State.closeRun s x1)
    := by
  unfold State.closeRun
  repeat' (first
    | with_reducible assumption | with_reducible apply Keeps.numberRec (w := w.sub (by decide))
    | fail_if_no_progress (with_reducible refine Keeps.fields ?_ (by intro p; cases p <;> first | exact .inl (w.mem (by decide)) | exact .inr rfl))
    | split)

theorem Keeps.closeRuns {T : List Area} {r s : State} (h : Keeps T r s) (w : within [.aug] T) : Keeps T r (State.closeRuns s) := by
  unfold State.closeRuns
  repeat' (first
    | with_reducible assumption | with_reducible apply Keeps.closeRun (w := w.sub (by decide))
    | with_reducible refine Keeps.foldl _ ?_ (fun _ _ _ => ?_))

theorem Keeps.closeSeal {T : List Area} {r s : State} (h : Keeps T r s) (w : within [.regs, .aug] T) (x1 : ℕ) : Keeps T r
    (State.closeSeal s x1) := by
  unfold State.closeSeal
  repeat' (first
    | with_reducible assumption | with_reducible apply Keeps.closeRuns (w := w.sub (by decide))
    | with_reducible apply Keeps.setFld (w := w.sub (by decide)) | with_reducible apply Keeps.setReg (w := w.sub (by decide))
    | with_reducible apply Keeps.setFlag (w := w.sub (by decide))
    | fail_if_no_progress (with_reducible refine Keeps.fields ?_ (by intro p; cases p <;> first | exact .inl (w.mem (by decide)) | exact .inr rfl))
    | lift_lets -underBinder
    | (intro x; first | (refine (have hx : Keeps T r x := ?_; ?_); subst x; swap; clear_value x; swap) | subst x | skip) | split)

theorem Keeps.closeDueSeal {T : List Area} {r s : State} (h : Keeps T r s) (w : within [.regs, .aug] T) : Keeps T r (State.closeDueSeal
    s) := by
  unfold State.closeDueSeal
  repeat' (first | with_reducible assumption | with_reducible apply Keeps.closeSeal (w := w.sub (by decide)) | split)

theorem Keeps.numberEvent {T : List Area} {r s : State} (h : Keeps T r s) (w : within [.aug] T) (x1 : ℕ) (x2 : U64) (x3 : ℕ) (x4 : ℕ)
    (x5 : List ℕ) (x6 : List Byte) : Keeps T r (State.numberEvent s x1 x2 x3 x4 x5 x6) := by
  unfold State.numberEvent
  repeat' (first
    | with_reducible assumption | with_reducible apply Keeps.numberRec (w := w.sub (by decide))
    | fail_if_no_progress (with_reducible refine Keeps.fields ?_ (by intro p; cases p <;> first | exact .inl (w.mem (by decide)) | exact .inr rfl))
    | lift_lets -underBinder
    | (intro x; first | (refine (have hx : Keeps T r x := ?_; ?_); subst x; swap; clear_value x; swap) | subst x | skip) | split)

theorem Keeps.timeMark {T : List Area} {r s : State} (h : Keeps T r s) (w : within [.aug] T) : Keeps T r (State.timeMark s) := by
  unfold State.timeMark
  repeat' (first
    | with_reducible assumption | with_reducible apply Keeps.numberEvent (w := w.sub (by decide)) | lift_lets -underBinder
    | (intro x; first | (refine (have hx : Keeps T r x := ?_; ?_); subst x; swap; clear_value x; swap) | subst x | skip) | split)

theorem Keeps.writeEventAt {T : List Area} {r s : State} (h : Keeps T r s) (w : within [.regs, .aug] T) (x1 : ℕ) (x2 : U64) (x3 : ℕ) (x4
    : List ℕ) : Keeps T r (State.writeEventAt s x1 x2 x3 x4) := by
  unfold State.writeEventAt
  repeat' (first
    | with_reducible assumption | with_reducible apply Keeps.closeDueSeal (w := w.sub (by decide))
    | with_reducible apply Keeps.timeMark (w := w.sub (by decide)) | with_reducible apply Keeps.numberEvent (w := w.sub (by decide)))

theorem Keeps.writeEvent {T : List Area} {r s : State} (h : Keeps T r s) (w : within [.regs, .aug] T) (x1 : ℕ) (x2 : List ℕ) : Keeps T r
    (State.writeEvent s x1 x2) := by
  unfold State.writeEvent
  repeat' (first | with_reducible assumption | with_reducible apply Keeps.writeEventAt (w := w.sub (by decide)))

theorem Keeps.writeStateChange {T : List Area} {r s : State} (h : Keeps T r s) (w : within [.regs, .aug] T) (x1 : ModState) (x2 :
    ModState) (x3 : ℕ) (x4 : ℕ) : Keeps T r (State.writeStateChange s x1 x2 x3 x4) := by
  unfold State.writeStateChange
  repeat' (first | with_reducible assumption | with_reducible apply Keeps.writeEvent (w := w.sub (by decide)))

theorem Keeps.chainStart {T : List Area} {r s : State} (h : Keeps T r s) (w : within [.aug] T) : Keeps T r (State.chainStart s) := by
  unfold State.chainStart
  repeat' (first
    | with_reducible assumption | with_reducible apply Keeps.numberEvent (w := w.sub (by decide))
    | with_reducible refine Keeps.foldl _ ?_ (fun _ _ _ => ?_))

theorem Keeps.writePair {T : List Area} {r s : State} (h : Keeps T r s) (w : within [.regs, .aug] T) (x1 : ℕ) (x2 : U64) (x3 : ℕ) (x4 :
    ℕ) (x5 : List Byte) : Keeps T r (State.writePair s x1 x2 x3 x4 x5) := by
  unfold State.writePair
  repeat' (first
    | with_reducible assumption | with_reducible apply Keeps.closeDueSeal (w := w.sub (by decide))
    | with_reducible apply Keeps.timeMark (w := w.sub (by decide)) | with_reducible apply Keeps.numberEvent (w := w.sub (by decide)))

end Sys2Proof.Machine
end

