-- ==== Sys2Proof/Laws/KeepsControl.lean ====
section
/-!
SUPPORT. Each operation of Machine/Control.lean keeps what Laws/Keeps.lean names.
-/
set_option linter.unusedVariables false
set_option linter.unreachableTactic false
set_option linter.unusedTactic false
namespace Sys2Proof.Machine

theorem Keeps.setEng {T : List Area} {r s : State} (h : Keeps T r s) (w : within [.eng] T) (x1 : Fin 2) (x2 : Engine) : Keeps T r
    (State.setEng s x1 x2) := by
  unfold State.setEng
  repeat' (first
    | with_reducible assumption
    | fail_if_no_progress (with_reducible refine Keeps.fields ?_ (by intro p; cases p <;> first | exact .inl (w.mem (by decide)) | exact .inr rfl)))

theorem Keeps.wakeEntry {T : List Area} {r s : State} (h : Keeps T r s) (w : within [.mod] T) : Keeps T r (State.wakeEntry s) := by
  unfold State.wakeEntry
  repeat' (first
    | with_reducible assumption
    | fail_if_no_progress (with_reducible refine Keeps.fields ?_ (by intro p; cases p <;> first | exact .inl (w.mem (by decide)) | exact .inr rfl))
    | split)

theorem Keeps.refuseLaunch {T : List Area} {r s : State} (h : Keeps T r s) (w : within [.regs, .aug] T) (x1 : ℕ) : Keeps T r
    (State.refuseLaunch s x1) := by
  unfold State.refuseLaunch
  repeat' (first
    | with_reducible assumption | with_reducible apply Keeps.setFlag (w := w.sub (by decide))
    | with_reducible apply Keeps.setFld (w := w.sub (by decide)) | with_reducible apply Keeps.writeEvent (w := w.sub (by decide)))

theorem Keeps.flushLate {T : List Area} {r s : State} (h : Keeps T r s) (w : within [.regs, .eng, .aug] T) (x1 : Fin 2) : Keeps T r
    (State.flushLate s x1) := by
  unfold State.flushLate
  repeat' (first
    | with_reducible assumption | with_reducible apply Keeps.writeEventAt (w := w.sub (by decide))
    | fail_if_no_progress (with_reducible refine Keeps.fields ?_ (by intro p; cases p <;> first | exact .inl (w.mem (by decide)) | exact .inr rfl))
    | lift_lets -underBinder
    | (intro x; first | (refine (have hx : Keeps T r x := ?_; ?_); subst x; swap; clear_value x; swap) | subst x | skip) | split)

theorem Keeps.leaveGrowing {T : List Area} {r s : State} (h : Keeps T r s) (w : within [.regs, .eng, .aug] T) : Keeps T r
    (State.leaveGrowing s) := by
  unfold State.leaveGrowing
  repeat' (first
    | with_reducible assumption | with_reducible apply Keeps.closeRuns (w := w.sub (by decide))
    | with_reducible apply Keeps.flushLate (w := w.sub (by decide)) | split)

theorem Keeps.driveHold {T : List Area} {r s : State} (h : Keeps T r s) (w : within [.regs, .fast, .dec] T) : Keeps T r (State.driveHold
    s) := by
  unfold State.driveHold
  repeat' (first
    | with_reducible assumption | with_reducible apply Keeps.bump (w := w.sub (by decide))
    | with_reducible apply Keeps.setFlag (w := w.sub (by decide))
    | fail_if_no_progress (with_reducible refine Keeps.fields ?_ (by intro p; cases p <;> first | exact .inl (w.mem (by decide)) | exact .inr rfl))
    | lift_lets -underBinder | split)

theorem Keeps.enterState {T : List Area} {r s : State} (h : Keeps T r s) (w : within [.regs, .mod, .fast, .eng, .aug, .dec] T) (x1 :
    ModState) (x2 : ℕ) (x3 : ℕ) (x4 : ℕ) : Keeps T r (State.enterState s x1 x2 x3 x4) := by
  unfold State.enterState
  repeat' (first
    | with_reducible assumption | with_reducible apply Keeps.leaveGrowing (w := w.sub (by decide))
    | with_reducible apply Keeps.writeStateChange (w := w.sub (by decide)) | with_reducible apply Keeps.closeSeal (w := w.sub (by decide))
    | with_reducible apply Keeps.driveHold (w := w.sub (by decide))
    | fail_if_no_progress (with_reducible refine Keeps.fields ?_ (by intro p; cases p <;> first | exact .inl (w.mem (by decide)) | exact .inr rfl))
    | lift_lets -underBinder
    | (intro x; first | (refine (have hx : Keeps T r x := ?_; ?_); subst x; swap; clear_value x; swap) | subst x | skip) | split)

theorem Keeps.haltNow {T : List Area} {r s : State} (h : Keeps T r s) (w : within [.regs, .mod, .fast, .eng, .aug, .dec] T) (x1 : ℕ) :
    Keeps T r (State.haltNow s x1) := by
  unfold State.haltNow
  repeat' (first
    | with_reducible assumption | with_reducible apply Keeps.bumpBy (w := w.sub (by decide))
    | with_reducible apply Keeps.refuseLaunch (w := w.sub (by decide)) | with_reducible apply Keeps.enterState (w := w.sub (by decide))
    | fail_if_no_progress (with_reducible refine Keeps.fields ?_ (by intro p; cases p <;> first | exact .inl (w.mem (by decide)) | exact .inr rfl))
    | lift_lets -underBinder
    | (intro x; first | (refine (have hx : Keeps T r x := ?_; ?_); subst x; swap; clear_value x; swap) | subst x | skip) | split)

theorem Keeps.halt {T : List Area} {r s : State} (h : Keeps T r s) (w : within [.regs, .mod, .fast, .eng, .aug, .dec] T) (x1 : ℕ) :
    Keeps T r (State.halt s x1) := by
  unfold State.halt
  repeat' (first
    | with_reducible assumption | with_reducible apply Keeps.haltNow (w := w.sub (by decide))
    | fail_if_no_progress (with_reducible refine Keeps.fields ?_ (by intro p; cases p <;> first | exact .inl (w.mem (by decide)) | exact .inr rfl))
    | split)

theorem Keeps.setBed {T : List Area} {r s : State} (h : Keeps T r s) (w : within [.beds] T) (x1 : Fin 4) (x2 : Bed) : Keeps T r
    (State.setBed s x1 x2) := by
  unfold State.setBed
  repeat' (first
    | with_reducible assumption
    | fail_if_no_progress (with_reducible refine Keeps.fields ?_ (by intro p; cases p <;> first | exact .inl (w.mem (by decide)) | exact .inr rfl)))

theorem Keeps.setBedState {T : List Area} {r s : State} (h : Keeps T r s) (w : within [.regs] T) (x1 : ℕ) (x2 : ℕ) : Keeps T r
    (State.setBedState s x1 x2) := by
  unfold State.setBedState
  repeat' (first | with_reducible assumption | with_reducible apply Keeps.setFld (w := w.sub (by decide)))

theorem Keeps.setLane {T : List Area} {r s : State} (h : Keeps T r s) (w : within [.lanes] T) (x1 : Fin 80) (x2 : Lane) : Keeps T r
    (State.setLane s x1 x2) := by
  unfold State.setLane
  repeat' (first
    | with_reducible assumption
    | fail_if_no_progress (with_reducible refine Keeps.fields ?_ (by intro p; cases p <;> first | exact .inl (w.mem (by decide)) | exact .inr rfl)))

theorem Keeps.dropTarget {T : List Area} {r s : State} (h : Keeps T r s) (w : within [.regs, .beds] T) (x1 : Fin 4) : Keeps T r
    (State.dropTarget s x1) := by
  unfold State.dropTarget
  repeat' (first
    | with_reducible assumption | with_reducible apply Keeps.setBed (w := w.sub (by decide))
    | with_reducible apply Keeps.setBedState (w := w.sub (by decide)) | lift_lets -underBinder
    | (intro x; first | (refine (have hx : Keeps T r x := ?_; ?_); subst x; swap; clear_value x; swap) | subst x | skip) | split)

theorem Keeps.cancelRotation {T : List Area} {r s : State} (h : Keeps T r s) (w : within [.regs, .beds, .svc] T) : Keeps T r
    (State.cancelRotation s) := by
  unfold State.cancelRotation
  repeat' (first
    | with_reducible assumption | with_reducible apply Keeps.dropTarget (w := w.sub (by decide))
    | with_reducible apply Keeps.setFld (w := w.sub (by decide)) | with_reducible apply Keeps.setFlag (w := w.sub (by decide))
    | with_reducible refine Keeps.foldl _ ?_ (fun _ _ _ => ?_)
    | fail_if_no_progress (with_reducible refine Keeps.upd ?_ (by first | exact SecKeeps.refl _ | exact SecKeeps.of rfl rfl rfl rfl rfl rfl) (by first | exact SvcKeeps.refl _ | exact ⟨id, id⟩ | exact SvcKeeps.idle _ | exact ⟨fun _ => mapCanon_nil _, id⟩) le_rfl (by intro p; cases p <;> first | exact .inl (w.mem (by decide)) | exact .inr rfl))
    | split)

theorem Keeps.idleRestart {T : List Area} {r s : State} (h : Keeps T r s) (w : within [.mod] T) : Keeps T r (State.idleRestart s) := by
  unfold State.idleRestart
  repeat' (first
    | with_reducible assumption
    | fail_if_no_progress (with_reducible refine Keeps.fields ?_ (by intro p; cases p <;> first | exact .inl (w.mem (by decide)) | exact .inr rfl))
    | lift_lets -underBinder
    | (intro x; first | (refine (have hx : Keeps T r x := ?_; ?_); subst x; swap; clear_value x; swap) | subst x | skip) | split)

theorem Keeps.clearEntry {T : List Area} {r s : State} (h : Keeps T r s) (w : within [.mod] T) : Keeps T r (State.clearEntry s) := by
  unfold State.clearEntry
  repeat' (first
    | with_reducible assumption
    | fail_if_no_progress (with_reducible refine Keeps.fields ?_ (by intro p; cases p <;> first | exact .inl (w.mem (by decide)) | exact .inr rfl)))

theorem Keeps.refusePassed {T : List Area} {r s : State} (h : Keeps T r s) (w : within [.regs, .aug] T) : Keeps T r (State.refusePassed
    s) := by
  unfold State.refusePassed
  repeat' (first | with_reducible assumption | with_reducible apply Keeps.refuseLaunch (w := w.sub (by decide)) | split)

theorem Keeps.idleZero {T : List Area} {r s : State} (h : Keeps T r s) (w : within [.mod] T) : Keeps T r (State.idleZero s) := by
  unfold State.idleZero
  repeat' (first
    | with_reducible assumption
    | fail_if_no_progress (with_reducible refine Keeps.fields ?_ (by intro p; cases p <;> first | exact .inl (w.mem (by decide)) | exact .inr rfl)))

theorem Keeps.setPort {T : List Area} {r s : State} (h : Keeps T r s) (w : within [.ring] T) (x1 : Fin 4) (x2 : RingPort) : Keeps T r
    (State.setPort s x1 x2) := by
  unfold State.setPort
  repeat' (first
    | with_reducible assumption
    | fail_if_no_progress (with_reducible refine Keeps.fields ?_ (by intro p; cases p <;> first | exact .inl (w.mem (by decide)) | exact .inr rfl)))

theorem Keeps.updFrame {T : List Area} {r s : State} (h : Keeps T r s) (w : within [.fast] T) (x1 : ℕ) (x2 : ℕ) (x3 : U64) (x4 : Frame →
    Frame) : Keeps T r (State.updFrame s x1 x2 x3 x4) := by
  unfold State.updFrame
  repeat' (first
    | with_reducible assumption
    | fail_if_no_progress (with_reducible refine Keeps.fields ?_ (by intro p; cases p <;> first | exact .inl (w.mem (by decide)) | exact .inr rfl)))

theorem Keeps.checkTail {T : List Area} {r s : State} (h : Keeps T r s) (w : within [.regs, .fast, .aug, .dec] T) : Keeps T r
    (State.checkTail s) := by
  unfold State.checkTail
  repeat' (first
    | with_reducible assumption | with_reducible apply Keeps.driveHold (w := w.sub (by decide))
    | with_reducible apply Keeps.setFlag (w := w.sub (by decide))
    | fail_if_no_progress (with_reducible refine Keeps.fields ?_ (by intro p; cases p <;> first | exact .inl (w.mem (by decide)) | exact .inr rfl))
    | lift_lets -underBinder
    | (intro x; first | (refine (have hx : Keeps T r x := ?_; ?_); subst x; swap; clear_value x; swap) | subst x | skip) | split)

theorem Keeps.wakes {T : List Area} {r s : State} (h : Keeps T r s) (w : within [.mod] T) (x1 : WakeSrc) : Keeps T r (State.wakes s x1)
    := by
  unfold State.wakes
  repeat' (first
    | with_reducible assumption
    | fail_if_no_progress (with_reducible refine Keeps.fields ?_ (by intro p; cases p <;> first | exact .inl (w.mem (by decide)) | exact .inr rfl)))

theorem Keeps.hostWakes {T : List Area} {r s : State} (h : Keeps T r s) (w : within [.regs, .mod] T) : Keeps T r (State.hostWakes s) := by
  unfold State.hostWakes
  repeat' (first
    | with_reducible assumption | with_reducible apply Keeps.bump (w := w.sub (by decide))
    | with_reducible apply Keeps.wakes (w := w.sub (by decide)) | lift_lets -underBinder | split)

theorem Keeps.purge {T : List Area} {r s : State} (h : Keeps T r s) (w : within [.fast] T) : Keeps T r (State.purge s) := by
  unfold State.purge
  repeat' (first
    | with_reducible assumption
    | fail_if_no_progress (with_reducible refine Keeps.fields ?_ (by intro p; cases p <;> first | exact .inl (w.mem (by decide)) | exact .inr rfl)))

end Sys2Proof.Machine
end

