-- ==== Sys2Proof/Laws/KeepsAccessOps.lean ====
section
/-!
SUPPORT. Each operation of Machine/AccessOps.lean keeps what Laws/Keeps.lean names.
-/
set_option linter.unusedVariables false
set_option linter.unreachableTactic false
set_option linter.unusedTactic false
namespace Sys2Proof.Machine

theorem Keeps.accessSeen {T : List Area} {r s : State} (h : Keeps T r s) (w : within [.mod] T) : Keeps T r (State.accessSeen s) := by
  unfold State.accessSeen
  repeat' (first
    | with_reducible assumption | with_reducible apply Keeps.wakeEntry (w := w.sub (by decide))
    | with_reducible apply Keeps.idleRestart (w := w.sub (by decide)))

theorem Keeps.usePrivate {T : List Area} {r s : State} (h : Keeps T r s) (w : within [.regs, .aug, .sec] T) : Keeps T r
    (State.usePrivate s) := by
  unfold State.usePrivate
  repeat' (first
    | with_reducible assumption | with_reducible apply Keeps.writeEvent (w := w.sub (by decide))
    | with_reducible apply Keeps.setFlag (w := w.sub (by decide))
    | fail_if_no_progress (with_reducible refine Keeps.upd ?_ (by first | exact SecKeeps.refl _ | exact SecKeeps.of rfl rfl rfl rfl rfl rfl) (by first | exact SvcKeeps.refl _ | exact ⟨id, id⟩ | exact SvcKeeps.idle _ | exact ⟨fun _ => mapCanon_nil _, id⟩) le_rfl (by intro p; cases p <;> first | exact .inl (w.mem (by decide)) | exact .inr rfl))
    | lift_lets -underBinder
    | (intro x; first | (refine (have hx : Keeps T r x := ?_; ?_); subst x; swap; clear_value x; swap) | subst x | skip) | split)

theorem Keeps.pathUsed {T : List Area} {r s : State} (h : Keeps T r s) (w : within [.regs, .aug, .sec] T) (x1 : Path) : Keeps T r
    (State.pathUsed s x1) := by
  unfold State.pathUsed
  repeat' (first | with_reducible assumption | with_reducible apply Keeps.usePrivate (w := w.sub (by decide)) | split)

theorem Keeps.refuseAccess {T : List Area} {r s : State} (h : Keeps T r s) (w : within [.regs] T) (x1 : Path) (x2 : ℕ) (x3 : ℕ) : Keeps
    T r (State.refuseAccess s x1 x2 x3) := by
  unfold State.refuseAccess
  repeat' (first
    | with_reducible assumption | with_reducible apply Keeps.setFld (w := w.sub (by decide))
    | with_reducible apply Keeps.setFlag (w := w.sub (by decide)) | with_reducible apply Keeps.setReg (w := w.sub (by decide)))

theorem Keeps.via {T : List Area} {r s : State} (h : Keeps T r s) (w : within [.regs, .mod, .aug, .sec] T) (p : Path) (a : Nat) {f :
    State → State} (hf : ∀ t, Keeps T r t → Keeps T r (f t)) :
    Keeps T r (s.via p a f) := by
  unfold State.via
  lift_lets
  intro t
  have ht : Keeps T r t := Keeps.accessSeen (Keeps.pathUsed h (w.sub rfl) p) (w.sub rfl)
  clear_value t
  split
  · split
    · exact ht
    · split
      · exact hf t ht
      · exact Keeps.refuseAccess ht (w.sub rfl) p a 1
  · exact h

end Sys2Proof.Machine
end

