-- ==== Sys2Proof/Laws/KeepsFaultOps.lean ====
section
/-!
SUPPORT. Each operation of Machine/FaultOps.lean keeps what Laws/Keeps.lean names.
-/
set_option linter.unusedVariables false
set_option linter.unreachableTactic false
set_option linter.unusedTactic false
namespace Sys2Proof.Machine

theorem Keeps.classSide {T : List Area} {r s : State} (h : Keeps T r s) (w : within [.regs] T) (x1 : Word) (x2 : ℕ) : Keeps T r
    (State.classSide s x1 x2) := by
  unfold State.classSide
  repeat' (first
    | with_reducible assumption | with_reducible apply Keeps.bump (w := w.sub (by decide))
    | with_reducible apply Keeps.setFlag (w := w.sub (by decide)) | lift_lets -underBinder
    | (intro x; first | (refine (have hx : Keeps T r x := ?_; ?_); subst x; swap; clear_value x; swap) | subst x | skip) | split)

theorem Keeps.detectEvent {T : List Area} {r s : State} (h : Keeps T r s) (w : within [.regs, .aug, .flt] T) (x1 : Word) (x2 : ℕ) (x3 :
    U64) (x4 : ℕ) : Keeps T r (State.detectEvent s x1 x2 x3 x4) := by
  unfold State.detectEvent
  repeat' (first
    | with_reducible assumption | with_reducible apply Keeps.writeEventAt (w := w.sub (by decide))
    | fail_if_no_progress (with_reducible refine Keeps.fields ?_ (by intro p; cases p <;> first | exact .inl (w.mem (by decide)) | exact .inr rfl))
    | lift_lets -underBinder
    | (intro x; first | (refine (have hx : Keeps T r x := ?_; ?_); subst x; swap; clear_value x; swap) | subst x | skip) | split)

theorem Keeps.showStatus {T : List Area} {r s : State} (h : Keeps T r s) (w : within [.regs] T) (x1 : Word) (x2 : ℕ) (x3 : ℕ) : Keeps T
    r (State.showStatus s x1 x2 x3) := by
  unfold State.showStatus
  repeat' (first
    | with_reducible assumption | with_reducible apply Keeps.setFld (w := w.sub (by decide)) | lift_lets -underBinder
    | (intro x; first | (refine (have hx : Keeps T r x := ?_; ?_); subst x; swap; clear_value x; swap) | subst x | skip) | split)

theorem Keeps.endTouch {T : List Area} {r s : State} (h : Keeps T r s) (w : within [.fast, .flt] T) (x1 : Word) : Keeps T r
    (State.endTouch s x1) := by
  unfold State.endTouch
  repeat' (first
    | with_reducible assumption
    | fail_if_no_progress (with_reducible refine Keeps.fields ?_ (by intro p; cases p <;> first | exact .inl (w.mem (by decide)) | exact .inr rfl))
    | split)

theorem Keeps.showDegraded {T : List Area} {r s : State} (h : Keeps T r s) (w : within [.regs] T) : Keeps T r (State.showDegraded s) := by
  unfold State.showDegraded
  repeat' (first | with_reducible assumption | with_reducible apply Keeps.setFlag (w := w.sub (by decide)))

theorem Keeps.markDegraded {T : List Area} {r s : State} (h : Keeps T r s) (w : within [.regs, .fast, .aug, .flt] T) (x1 : Word) : Keeps
    T r (State.markDegraded s x1) := by
  unfold State.markDegraded
  repeat' (first
    | with_reducible assumption | with_reducible apply Keeps.writeEvent (w := w.sub (by decide))
    | with_reducible apply Keeps.showDegraded (w := w.sub (by decide)) | with_reducible apply Keeps.endTouch (w := w.sub (by decide))
    | with_reducible apply Keeps.showStatus (w := w.sub (by decide)))

theorem Keeps.degradeBed {T : List Area} {r s : State} (h : Keeps T r s) (w : within [.regs, .beds, .fast, .aug, .flt] T) (x1 : Fin 4)
    (x2 : Word) (x3 : Bool) : Keeps T r (State.degradeBed s x1 x2 x3) := by
  unfold State.degradeBed
  repeat' (first
    | with_reducible assumption | with_reducible apply Keeps.setBed (w := w.sub (by decide))
    | with_reducible apply Keeps.setFlag (w := w.sub (by decide)) | with_reducible apply Keeps.setBedState (w := w.sub (by decide))
    | with_reducible apply Keeps.markDegraded (w := w.sub (by decide)) | lift_lets -underBinder
    | (intro x; first | (refine (have hx : Keeps T r x := ?_; ?_); subst x; swap; clear_value x; swap) | subst x | skip) | split)

theorem Keeps.retireColumn {T : List Area} {r s : State} (h : Keeps T r s) (w : within [.regs, .beds, .fast, .aug, .flt] T) (x1 : Fin 4)
    (x2 : ℕ) (x3 : Word) : Keeps T r (State.retireColumn s x1 x2 x3) := by
  unfold State.retireColumn
  repeat' (first
    | with_reducible assumption | with_reducible apply Keeps.endTouch (w := w.sub (by decide))
    | with_reducible apply Keeps.showStatus (w := w.sub (by decide)) | with_reducible apply Keeps.setBed (w := w.sub (by decide))
    | with_reducible apply Keeps.degradeBed (w := w.sub (by decide)) | lift_lets -underBinder
    | (intro x; first | (refine (have hx : Keeps T r x := ?_; ?_); subst x; swap; clear_value x; swap) | subst x | skip) | split)

theorem Keeps.retireExit {T : List Area} {r s : State} (h : Keeps T r s) (w : within [.regs, .mod, .beds, .fast, .eng, .aug, .flt, .dec]
    T) (x1 : Fin 4) (x2 : Bool) (x3 : Word) : Keeps T r (State.retireExit s x1 x2 x3) := by
  unfold State.retireExit
  repeat' (first
    | with_reducible assumption | with_reducible apply Keeps.driveHold (w := w.sub (by decide))
    | with_reducible apply Keeps.degradeBed (w := w.sub (by decide)) | with_reducible apply Keeps.halt (w := w.sub (by decide))
    | with_reducible apply Keeps.setFld (w := w.sub (by decide))
    | fail_if_no_progress (with_reducible refine Keeps.fields ?_ (by intro p; cases p <;> first | exact .inl (w.mem (by decide)) | exact .inr rfl))
    | lift_lets -underBinder
    | (intro x; first | (refine (have hx : Keeps T r x := ?_; ?_); subst x; swap; clear_value x; swap) | subst x | skip) | split)

theorem Keeps.unitMoved {T : List Area} {r s : State} (h : Keeps T r s) (w : within [.regs, .fast, .aug, .flt] T) (x1 : Word) (x2 : ℕ)
    (x3 : U64) : Keeps T r (State.unitMoved s x1 x2 x3) := by
  unfold State.unitMoved
  repeat' (first
    | with_reducible assumption | with_reducible apply Keeps.writeEvent (w := w.sub (by decide))
    | with_reducible apply Keeps.endTouch (w := w.sub (by decide)) | with_reducible apply Keeps.showStatus (w := w.sub (by decide)))

theorem Keeps.degradeEngine {T : List Area} {r s : State} (h : Keeps T r s) (w : within [.regs, .fast, .aug, .flt] T) (x1 : ℕ) (x2 :
    Word) : Keeps T r (State.degradeEngine s x1 x2) := by
  unfold State.degradeEngine
  repeat' (first
    | with_reducible assumption | with_reducible apply Keeps.setFlag (w := w.sub (by decide))
    | with_reducible apply Keeps.setFld (w := w.sub (by decide)) | with_reducible apply Keeps.markDegraded (w := w.sub (by decide)))

theorem Keeps.degradeBank {T : List Area} {r s : State} (h : Keeps T r s) (w : within [.regs, .fast, .eng, .aug, .flt] T) (x1 : Fin 2)
    (x2 : ℕ) (x3 : Word) : Keeps T r (State.degradeBank s x1 x2 x3) := by
  unfold State.degradeBank
  repeat' (first
    | with_reducible assumption | with_reducible apply Keeps.degradeEngine (w := w.sub (by decide))
    | with_reducible apply Keeps.setEng (w := w.sub (by decide)))

theorem Keeps.retireSilt {T : List Area} {r s : State} (h : Keeps T r s) (w : within [.regs, .fast, .eng, .aug, .flt] T) (x1 : Fin 2)
    (x2 : ℕ) (x3 : ℕ) (x4 : Word) : Keeps T r (State.retireSilt s x1 x2 x3 x4) := by
  unfold State.retireSilt
  repeat' (first
    | with_reducible assumption | with_reducible apply Keeps.degradeBank (w := w.sub (by decide))
    | with_reducible apply Keeps.setEng (w := w.sub (by decide)) | lift_lets -underBinder
    | (intro x; first | (refine (have hx : Keeps T r x := ?_; ?_); subst x; swap; clear_value x; swap) | subst x | skip) | split)

theorem Keeps.dropItem {T : List Area} {r s : State} (h : Keeps T r s) (w : within [.regs, .lanes] T) (x1 : Fin 80) : Keeps T r
    (State.dropItem s x1) := by
  unfold State.dropItem
  repeat' (first
    | with_reducible assumption | with_reducible apply Keeps.setLane (w := w.sub (by decide))
    | with_reducible apply Keeps.bump (w := w.sub (by decide)) | lift_lets -underBinder
    | (intro x; first | (refine (have hx : Keeps T r x := ?_; ?_); subst x; swap; clear_value x; swap) | subst x | skip) | split)

theorem Keeps.abortEye {T : List Area} {r s : State} (h : Keeps T r s) (w : within [.regs, .lanes, .free] T) (x1 : Fin 80) : Keeps T r
    (State.abortEye s x1) := by
  unfold State.abortEye
  repeat' (first
    | with_reducible assumption | with_reducible apply Keeps.drawNat (w := w.sub (by decide))
    | with_reducible apply Keeps.setLane (w := w.sub (by decide)) | with_reducible apply Keeps.setReg64 (w := w.sub (by decide))
    | with_reducible apply Keeps.setReg (w := w.sub (by decide)) | with_reducible apply Keeps.setFlag (w := w.sub (by decide))
    | lift_lets -underBinder
    | (intro x; first | (refine (have hx : Keeps T r x := ?_; ?_); subst x; swap; clear_value x; swap) | subst x | skip) | split)

theorem Keeps.retireStreamLane {T : List Area} {r s : State} (h : Keeps T r s) (w : within [.regs, .fast, .aug, .flt, .lanes, .free] T)
    (x1 : Fin 80) (x2 : Word) : Keeps T r (State.retireStreamLane s x1 x2) := by
  unfold State.retireStreamLane
  repeat' (first
    | with_reducible assumption | with_reducible apply Keeps.setFlag (w := w.sub (by decide))
    | with_reducible apply Keeps.dropItem (w := w.sub (by decide)) | with_reducible apply Keeps.abortEye (w := w.sub (by decide))
    | with_reducible apply Keeps.setFld (w := w.sub (by decide)) | with_reducible apply Keeps.unitMoved (w := w.sub (by decide)))

theorem Keeps.retireDecLane {T : List Area} {r s : State} (h : Keeps T r s) (w : within [.regs, .fast, .aug, .flt, .dec] T) (x1 : ℕ) (x2
    : Word) : Keeps T r (State.retireDecLane s x1 x2) := by
  unfold State.retireDecLane
  repeat' (first
    | with_reducible assumption | with_reducible apply Keeps.markDegraded (w := w.sub (by decide))
    | with_reducible apply Keeps.setFlag (w := w.sub (by decide))
    | fail_if_no_progress (with_reducible refine Keeps.fields ?_ (by intro p; cases p <;> first | exact .inl (w.mem (by decide)) | exact .inr rfl))
    | lift_lets -underBinder
    | (intro x; first | (refine (have hx : Keeps T r x := ?_; ?_); subst x; swap; clear_value x; swap) | subst x | skip) | split)

theorem Keeps.retireBridge {T : List Area} {r s : State} (h : Keeps T r s) (w : within [.regs, .fast, .aug, .flt] T) (x1 : Fin 2) (x2 :
    Word) : Keeps T r (State.retireBridge s x1 x2) := by
  unfold State.retireBridge
  repeat' (first
    | with_reducible assumption | with_reducible apply Keeps.markDegraded (w := w.sub (by decide))
    | with_reducible apply Keeps.setFlag (w := w.sub (by decide))
    | fail_if_no_progress (with_reducible refine Keeps.fields ?_ (by intro p; cases p <;> first | exact .inl (w.mem (by decide)) | exact .inr rfl))
    | lift_lets -underBinder
    | (intro x; first | (refine (have hx : Keeps T r x := ?_; ?_); subst x; swap; clear_value x; swap) | subst x | skip) | split)

theorem Keeps.retireUnit {T : List Area} {r s : State} (h : Keeps T r s) (w : within [.regs, .mod, .beds, .fast, .eng, .aug, .flt, .dec,
    .lanes, .free] T) (x1 : Word) : Keeps T r (State.retireUnit s x1) := by
  unfold State.retireUnit
  repeat' (first
    | with_reducible assumption | with_reducible apply Keeps.retireColumn (w := w.sub (by decide))
    | with_reducible apply Keeps.retireExit (w := w.sub (by decide)) | with_reducible apply Keeps.degradeBed (w := w.sub (by decide))
    | with_reducible apply Keeps.setEng (w := w.sub (by decide)) | with_reducible apply Keeps.unitMoved (w := w.sub (by decide))
    | with_reducible apply Keeps.setFlag (w := w.sub (by decide)) | with_reducible apply Keeps.retireSilt (w := w.sub (by decide))
    | with_reducible apply Keeps.degradeEngine (w := w.sub (by decide))
    | with_reducible apply Keeps.retireStreamLane (w := w.sub (by decide))
    | with_reducible apply Keeps.retireDecLane (w := w.sub (by decide)) | with_reducible apply Keeps.markDegraded (w := w.sub (by decide))
    | with_reducible apply Keeps.retireBridge (w := w.sub (by decide))
    | fail_if_no_progress (with_reducible refine Keeps.fields ?_ (by intro p; cases p <;> first | exact .inl (w.mem (by decide)) | exact .inr rfl))
    | lift_lets -underBinder
    | (intro x; first | (refine (have hx : Keeps T r x := ?_; ?_); subst x; swap; clear_value x; swap) | subst x | skip) | split)

theorem Keeps.dropFaultyTarget {T : List Area} {r s : State} (h : Keeps T r s) (w : within [.regs, .beds, .svc] T) (x1 : Word) : Keeps T
    r (State.dropFaultyTarget s x1) := by
  unfold State.dropFaultyTarget
  repeat' (first
    | with_reducible assumption | with_reducible apply Keeps.cancelRotation (w := w.sub (by decide))
    | with_reducible apply Keeps.dropTarget (w := w.sub (by decide)) | lift_lets -underBinder
    | (intro x; first | (refine (have hx : Keeps T r x := ?_; ?_); subst x; swap; clear_value x; swap) | subst x | skip) | split)

theorem Keeps.retire {T : List Area} {r s : State} (h : Keeps T r s) (w : within [.regs, .mod, .beds, .fast, .eng, .aug, .flt, .dec,
    .lanes, .svc, .free] T) (x1 : Word) (x2 : ℕ) : Keeps T r (State.retire s x1 x2) := by
  unfold State.retire
  repeat' (first
    | with_reducible assumption | with_reducible apply Keeps.setFlag (w := w.sub (by decide))
    | with_reducible apply Keeps.bump (w := w.sub (by decide)) | with_reducible apply Keeps.showStatus (w := w.sub (by decide))
    | with_reducible apply Keeps.writeEvent (w := w.sub (by decide)) | with_reducible apply Keeps.retireUnit (w := w.sub (by decide))
    | with_reducible apply Keeps.dropFaultyTarget (w := w.sub (by decide)))

theorem Keeps.transient {T : List Area} {r s : State} (h : Keeps T r s) (w : within [.regs, .fast, .aug, .flt] T) (x1 : Word) (x2 : U64)
    : Keeps T r (State.transient s x1 x2) := by
  unfold State.transient
  repeat' (first
    | with_reducible assumption | with_reducible apply Keeps.showStatus (w := w.sub (by decide))
    | with_reducible apply Keeps.setFlag (w := w.sub (by decide)) | with_reducible apply Keeps.bump (w := w.sub (by decide))
    | with_reducible apply Keeps.endTouch (w := w.sub (by decide)) | with_reducible apply Keeps.writeEvent (w := w.sub (by decide))
    | fail_if_no_progress (with_reducible refine Keeps.fields ?_ (by intro p; cases p <;> first | exact .inl (w.mem (by decide)) | exact .inr rfl)))

theorem Keeps.showTesting {T : List Area} {r s : State} (h : Keeps T r s) (w : within [.regs] T) : Keeps T r (State.showTesting s) := by
  unfold State.showTesting
  repeat' (first | with_reducible assumption | with_reducible apply Keeps.setFlag (w := w.sub (by decide)))

theorem Keeps.classify {T : List Area} {r s : State} (h : Keeps T r s) (w : within [.regs, .mod, .beds, .fast, .eng, .aug, .flt, .dec,
    .lanes, .svc, .free] T) (x1 : Word) (x2 : ℕ) (x3 : U64) : Keeps T r (State.classify s x1 x2 x3) := by
  unfold State.classify
  repeat' (first
    | with_reducible assumption | with_reducible apply Keeps.retire (w := w.sub (by decide))
    | with_reducible apply Keeps.transient (w := w.sub (by decide)) | with_reducible apply Keeps.showTesting (w := w.sub (by decide))
    | fail_if_no_progress (with_reducible refine Keeps.fields ?_ (by intro p; cases p <;> first | exact .inl (w.mem (by decide)) | exact .inr rfl))
    | lift_lets -underBinder
    | (intro x; first | (refine (have hx : Keeps T r x := ?_; ?_); subst x; swap; clear_value x; swap) | subst x | skip) | split)

theorem Keeps.testFeeders {T : List Area} {r s : State} (h : Keeps T r s) (w : within [.flt] T) (x1 : Word) (x2 : U64) : Keeps T r
    (State.testFeeders s x1 x2) := by
  unfold State.testFeeders
  repeat' (first
    | with_reducible assumption
    | fail_if_no_progress (with_reducible refine Keeps.fields ?_ (by intro p; cases p <;> first | exact .inl (w.mem (by decide)) | exact .inr rfl))
    | lift_lets -underBinder
    | (intro x; first | (refine (have hx : Keeps T r x := ?_; ?_); subst x; swap; clear_value x; swap) | subst x | skip) | split)

theorem Keeps.detectAs {T : List Area} {r s : State} (h : Keeps T r s) (w : within [.regs, .mod, .beds, .fast, .eng, .aug, .flt, .dec,
    .lanes, .svc, .free] T) (x1 : Word) (x2 : ℕ) (x3 : ℕ) (x4 : U64) (x5 : ℕ) : Keeps T r (State.detectAs s x1 x2 x3 x4 x5) := by
  unfold State.detectAs
  repeat' (first
    | with_reducible assumption | with_reducible apply Keeps.wakeEntry (w := w.sub (by decide))
    | with_reducible apply Keeps.setReg (w := w.sub (by decide)) | with_reducible apply Keeps.setReg64 (w := w.sub (by decide))
    | with_reducible apply Keeps.classSide (w := w.sub (by decide)) | with_reducible apply Keeps.setFlag (w := w.sub (by decide))
    | with_reducible apply Keeps.detectEvent (w := w.sub (by decide)) | with_reducible apply Keeps.halt (w := w.sub (by decide))
    | with_reducible apply Keeps.setFld (w := w.sub (by decide)) | with_reducible apply Keeps.classify (w := w.sub (by decide))
    | with_reducible apply Keeps.testFeeders (w := w.sub (by decide))
    | fail_if_no_progress (with_reducible refine Keeps.fields ?_ (by intro p; cases p <;> first | exact .inl (w.mem (by decide)) | exact .inr rfl))
    | lift_lets -underBinder
    | (intro x; first | (refine (have hx : Keeps T r x := ?_; ?_); subst x; swap; clear_value x; swap) | subst x | skip) | split)

theorem Keeps.detect {T : List Area} {r s : State} (h : Keeps T r s) (w : within [.regs, .mod, .beds, .fast, .eng, .aug, .flt, .dec,
    .lanes, .svc, .free] T) (x1 : Word) (x2 : ℕ) (x3 : U64) (x4 : ℕ) : Keeps T r (State.detect s x1 x2 x3 x4) := by
  unfold State.detect
  repeat' (first | with_reducible assumption | with_reducible apply Keeps.detectAs (w := w.sub (by decide)))

theorem Keeps.stopTouch {T : List Area} {r s : State} (h : Keeps T r s) (w : within [.flt] T) (x1 : Word) (x2 : U64) : Keeps T r
    (State.stopTouch s x1 x2) := by
  unfold State.stopTouch
  repeat' (first
    | with_reducible assumption
    | fail_if_no_progress (with_reducible refine Keeps.fields ?_ (by intro p; cases p <;> first | exact .inl (w.mem (by decide)) | exact .inr rfl)))

end Sys2Proof.Machine
end

