-- ==== Sys2Proof/Laws/KeepsLoessOps.lean ====
section
/-!
SUPPORT. Each operation of Machine/LoessOps.lean keeps what Laws/Keeps.lean names.
-/
set_option linter.unusedVariables false
set_option linter.unreachableTactic false
set_option linter.unusedTactic false
namespace Sys2Proof.Machine

theorem Keeps.countSat {T : List Area} {r s : State} (h : Keeps T r s) (w : within [.regs] T) (x1 : ℕ) (x2 : ℕ) : Keeps T r
    (State.countSat s x1 x2) := by
  unfold State.countSat
  repeat' (first
    | with_reducible assumption | with_reducible apply Keeps.setFlag (w := w.sub (by decide))
    | with_reducible apply Keeps.bumpBy (w := w.sub (by decide)) | split)

theorem Keeps.advanceRecurs {T : List Area} {r s : State} (h : Keeps T r s) (w : within [.regs, .eng] T) (x1 : Fin 2) (x2 :
    LoessSection) (x3 : U64) (x4 : ℕ) : Keeps T r (State.advanceRecurs s x1 x2 x3 x4) := by
  unfold State.advanceRecurs
  repeat' (first
    | with_reducible assumption | with_reducible apply Keeps.countSat (w := w.sub (by decide))
    | with_reducible apply Keeps.setEng (w := w.sub (by decide)))

theorem Keeps.addStart {T : List Area} {r s : State} (h : Keeps T r s) (w : within [.fast] T) (x1 : Fin 2) (x2 : U64) : Keeps T r
    (State.addStart s x1 x2) := by
  unfold State.addStart
  repeat' (first
    | with_reducible assumption
    | fail_if_no_progress (with_reducible refine Keeps.fields ?_ (by intro p; cases p <;> first | exact .inl (w.mem (by decide)) | exact .inr rfl)))

theorem Keeps.showEngine {T : List Area} {r s : State} (h : Keeps T r s) (w : within [.regs] T) (x1 : ℕ) (x2 : ℕ) : Keeps T r
    (State.showEngine s x1 x2) := by
  unfold State.showEngine
  repeat' (first | with_reducible assumption | with_reducible apply Keeps.setFld (w := w.sub (by decide)) | split)

theorem Keeps.announceRestart {T : List Area} {r s : State} (h : Keeps T r s) (w : within [.regs, .fast, .eng, .aug] T) (x1 : Fin 2) :
    Keeps T r (State.announceRestart s x1) := by
  unfold State.announceRestart
  repeat' (first
    | with_reducible assumption | with_reducible apply Keeps.addStart (w := w.sub (by decide))
    | with_reducible apply Keeps.setEng (w := w.sub (by decide)) | with_reducible apply Keeps.showEngine (w := w.sub (by decide))
    | with_reducible apply Keeps.writeEventAt (w := w.sub (by decide)))

end Sys2Proof.Machine
end

