-- ==== Sys2Proof/Laws/KeepsRingOps.lean ====
section
/-!
SUPPORT. Each operation of Machine/RingOps.lean keeps what Laws/Keeps.lean names.
-/
set_option linter.unusedVariables false
set_option linter.unreachableTactic false
set_option linter.unusedTactic false
namespace Sys2Proof.Machine

theorem Keeps.queueCell {T : List Area} {r s : State} (h : Keeps T r s) (w : within [.ring] T) (x1 : Fin 4) (x2 : ℕ) (x3 : ℕ) (x4 : ℕ)
    (x5 : ℕ) (x6 : ℕ) (x7 : List Byte) : Keeps T r (State.queueCell s x1 x2 x3 x4 x5 x6 x7) := by
  unfold State.queueCell
  repeat' (first | with_reducible assumption | with_reducible apply Keeps.setPort (w := w.sub (by decide)))

theorem Keeps.sendMessage {T : List Area} {r s : State} (h : Keeps T r s) (w : within [.ring] T) (x1 : ℕ) (x2 : ℕ) (x3 : List ℕ) (x4 :
    List Byte) : Keeps T r (State.sendMessage s x1 x2 x3 x4) := by
  unfold State.sendMessage
  repeat' (first
    | with_reducible assumption | with_reducible apply Keeps.queueCell (w := w.sub (by decide))
    | with_reducible refine Keeps.foldl _ ?_ (fun _ _ _ => ?_)
    | fail_if_no_progress (with_reducible refine Keeps.fields ?_ (by intro p; cases p <;> first | exact .inl (w.mem (by decide)) | exact .inr rfl))
    | split)

theorem Keeps.sendAll {T : List Area} {r s : State} (h : Keeps T r s) (w : within [.ring] T) (x1 : ℕ) (x2 : List ℕ) : Keeps T r
    (State.sendAll s x1 x2) := by
  unfold State.sendAll
  repeat' (first
    | with_reducible assumption | with_reducible apply Keeps.sendMessage (w := w.sub (by decide))
    | with_reducible refine Keeps.foldl _ ?_ (fun _ _ _ => ?_) | lift_lets -underBinder | split)

theorem Keeps.sendHello {T : List Area} {r s : State} (h : Keeps T r s) (w : within [.ring] T) (x1 : Fin 4) : Keeps T r (State.sendHello
    s x1) := by
  unfold State.sendHello
  repeat' (first
    | with_reducible assumption | with_reducible apply Keeps.queueCell (w := w.sub (by decide))
    | fail_if_no_progress (with_reducible refine Keeps.fields ?_ (by intro p; cases p <;> first | exact .inl (w.mem (by decide)) | exact .inr rfl)))

theorem Keeps.syncHello {T : List Area} {r s : State} (h : Keeps T r s) (w : within [.ring] T) : Keeps T r (State.syncHello s) := by
  unfold State.syncHello
  repeat' (first | with_reducible assumption | with_reducible apply Keeps.sendMessage (w := w.sub (by decide)) | split)

end Sys2Proof.Machine
end

