-- ==== Sys2Proof/Laws/KeepsHorizon.lean ====
section
/-!
SUPPORT. Each operation of Machine/Horizon.lean keeps what Laws/Keeps.lean names.
-/
set_option linter.unusedVariables false
set_option linter.unreachableTactic false
set_option linter.unusedTactic false
namespace Sys2Proof.Machine

theorem Keeps.armPreset {T : List Area} {r s : State} (h : Keeps T r s) (w : within [.hz] T) : Keeps T r (State.armPreset s) := by
  unfold State.armPreset
  repeat' (first
    | with_reducible assumption
    | fail_if_no_progress (with_reducible refine Keeps.fields ?_ (by intro p; cases p <;> first | exact .inl (w.mem (by decide)) | exact .inr rfl))
    | lift_lets -underBinder
    | (intro x; first | (refine (have hx : Keeps T r x := ?_; ?_); subst x; swap; clear_value x; swap) | subst x | skip) | split)

theorem Keeps.commitLaunch {T : List Area} {r s : State} (h : Keeps T r s) (w : within [.regs, .mod, .hz, .aug] T) (x1 : U64) : Keeps T
    r (State.commitLaunch s x1) := by
  unfold State.commitLaunch
  repeat' (first
    | with_reducible assumption | with_reducible apply Keeps.idleZero (w := w.sub (by decide))
    | with_reducible apply Keeps.setFlag (w := w.sub (by decide)) | with_reducible apply Keeps.refuseLaunch (w := w.sub (by decide))
    | fail_if_no_progress (with_reducible refine Keeps.fields ?_ (by intro p; cases p <;> first | exact .inl (w.mem (by decide)) | exact .inr rfl))
    | lift_lets -underBinder
    | (intro x; first | (refine (have hx : Keeps T r x := ?_; ?_); subst x; swap; clear_value x; swap) | subst x | skip) | split)

theorem Keeps.syncSlip {T : List Area} {r s : State} (h : Keeps T r s) (w : within [.regs, .fast, .aug, .dec] T) : Keeps T r
    (State.syncSlip s) := by
  unfold State.syncSlip
  repeat' (first
    | with_reducible assumption | with_reducible apply Keeps.bump (w := w.sub (by decide))
    | with_reducible apply Keeps.setFlag (w := w.sub (by decide)) | with_reducible apply Keeps.driveHold (w := w.sub (by decide))
    | with_reducible apply Keeps.writeEvent (w := w.sub (by decide)))

theorem Keeps.flushPast {T : List Area} {r s : State} (h : Keeps T r s) (w : within [.regs, .eng, .aug] T) (x1 : Fin 2) : Keeps T r
    (State.flushPast s x1) := by
  unfold State.flushPast
  repeat' (first | with_reducible assumption | with_reducible apply Keeps.flushLate (w := w.sub (by decide)) | split)

theorem Keeps.resumeAcceptance {T : List Area} {r s : State} (h : Keeps T r s) (w : within [.regs, .hz, .fast, .dec] T) : Keeps T r
    (State.resumeAcceptance s) := by
  unfold State.resumeAcceptance
  repeat' (first
    | with_reducible assumption | with_reducible apply Keeps.driveHold (w := w.sub (by decide))
    | fail_if_no_progress (with_reducible refine Keeps.fields ?_ (by intro p; cases p <;> first | exact .inl (w.mem (by decide)) | exact .inr rfl)))

theorem Keeps.execAcceptanceResume {T : List Area} {r s t : State} (h : Keeps T r s) (w : within [.regs, .hz, .fast, .dec] T)  (e :
    (execAcceptanceResume s) = .next t) : Keeps T r t := by
  have e' := Host.Outcome.next.inj e
  subst e'
  repeat' (first | with_reducible assumption | with_reducible apply Keeps.resumeAcceptance (w := w.sub (by decide)) | split)

theorem Keeps.countReached {T : List Area} {r s : State} (h : Keeps T r s) (w : within [.regs, .mod, .fast, .eng, .aug, .flt, .dec] T) :
    Keeps T r (State.countReached s) := by
  unfold State.countReached
  repeat' (first
    | with_reducible assumption | with_reducible apply Keeps.unitMoved (w := w.sub (by decide))
    | with_reducible apply Keeps.checkTail (w := w.sub (by decide)) | with_reducible apply Keeps.driveHold (w := w.sub (by decide))
    | with_reducible apply Keeps.flushPast (w := w.sub (by decide)) | with_reducible refine Keeps.foldl _ ?_ (fun _ _ _ => ?_)
    | fail_if_no_progress (with_reducible refine Keeps.fields ?_ (by intro p; cases p <;> first | exact .inl (w.mem (by decide)) | exact .inr rfl))
    | lift_lets -underBinder | split)

theorem Keeps.countOn {T : List Area} {r s : State} (h : Keeps T r s) (w : within [.hz] T) : Keeps T r (State.countOn s) := by
  unfold State.countOn
  repeat' (first
    | with_reducible assumption
    | fail_if_no_progress (with_reducible refine Keeps.fields ?_ (by intro p; cases p <;> first | exact .inl (w.mem (by decide)) | exact .inr rfl)))

theorem Keeps.driveSync {T : List Area} {r s : State} (h : Keeps T r s) (w : within [.hz] T) : Keeps T r (State.driveSync s) := by
  unfold State.driveSync
  repeat' (first
    | with_reducible assumption
    | fail_if_no_progress (with_reducible refine Keeps.fields ?_ (by intro p; cases p <;> first | exact .inl (w.mem (by decide)) | exact .inr rfl)))

theorem Keeps.applyPreset {T : List Area} {r s : State} (h : Keeps T r s) (w : within [.regs, .mod, .hz, .fast, .eng, .aug, .flt, .dec]
    T) : Keeps T r (State.applyPreset s) := by
  unfold State.applyPreset
  repeat' (first
    | with_reducible assumption | with_reducible apply Keeps.driveSync (w := w.sub (by decide))
    | with_reducible apply Keeps.setFlag (w := w.sub (by decide)) | with_reducible apply Keeps.writeEvent (w := w.sub (by decide))
    | with_reducible apply Keeps.countReached (w := w.sub (by decide)) | with_reducible apply Keeps.refuseLaunch (w := w.sub (by decide))
    | fail_if_no_progress (with_reducible refine Keeps.fields ?_ (by intro p; cases p <;> first | exact .inl (w.mem (by decide)) | exact .inr rfl))
    | lift_lets -underBinder
    | (intro x; first | (refine (have hx : Keeps T r x := ?_; ?_); subst x; swap; clear_value x; swap) | subst x | skip) | split)

theorem Keeps.settlePreset {T : List Area} {r s : State} (h : Keeps T r s) (w : within [.regs, .mod, .hz, .fast, .eng, .aug, .flt, .dec]
    T) : Keeps T r (State.settlePreset s) := by
  unfold State.settlePreset
  repeat' (first | with_reducible assumption | with_reducible apply Keeps.applyPreset (w := w.sub (by decide)) | split)

theorem Keeps.fallowAtTick {T : List Area} {r s : State} (h : Keeps T r s) (w : within [.mod] T) : Keeps T r (State.fallowAtTick s) := by
  unfold State.fallowAtTick
  repeat' (first
    | with_reducible assumption
    | fail_if_no_progress (with_reducible refine Keeps.fields ?_ (by intro p; cases p <;> first | exact .inl (w.mem (by decide)) | exact .inr rfl))
    | lift_lets -underBinder
    | (intro x; first | (refine (have hx : Keeps T r x := ?_; ?_); subst x; swap; clear_value x; swap) | subst x | skip) | split)

theorem Keeps.idleTick {T : List Area} {r s : State} (h : Keeps T r s) (w : within [.mod] T) : Keeps T r (State.idleTick s) := by
  unfold State.idleTick
  repeat' (first
    | with_reducible assumption
    | fail_if_no_progress (with_reducible refine Keeps.fields ?_ (by intro p; cases p <;> first | exact .inl (w.mem (by decide)) | exact .inr rfl))
    | lift_lets -underBinder
    | (intro x; first | (refine (have hx : Keeps T r x := ?_; ?_); subst x; swap; clear_value x; swap) | subst x | skip) | split)

theorem Keeps.syncPulse {T : List Area} {r s : State} (h : Keeps T r s) (w : within [.regs, .hz, .fast, .aug, .dec] T) : Keeps T r
    (State.syncPulse s) := by
  unfold State.syncPulse
  repeat' (first
    | with_reducible assumption | with_reducible apply Keeps.setFlag (w := w.sub (by decide))
    | with_reducible apply Keeps.syncSlip (w := w.sub (by decide))
    | fail_if_no_progress (with_reducible refine Keeps.fields ?_ (by intro p; cases p <;> first | exact .inl (w.mem (by decide)) | exact .inr rfl))
    | lift_lets -underBinder
    | (intro x; first | (refine (have hx : Keeps T r x := ?_; ?_); subst x; swap; clear_value x; swap) | subst x | skip) | split)

theorem Keeps.syncAt {T : List Area} {r s : State} (h : Keeps T r s) (w : within [.regs, .hz, .fast, .aug, .dec, .ring] T) (x1 : Bool) :
    Keeps T r (State.syncAt s x1) := by
  unfold State.syncAt
  repeat' (first
    | with_reducible assumption | with_reducible apply Keeps.setFlag (w := w.sub (by decide))
    | with_reducible apply Keeps.syncHello (w := w.sub (by decide)) | with_reducible apply Keeps.driveSync (w := w.sub (by decide))
    | with_reducible apply Keeps.syncPulse (w := w.sub (by decide)) | with_reducible apply Keeps.writeEvent (w := w.sub (by decide))
    | fail_if_no_progress (with_reducible refine Keeps.fields ?_ (by intro p; cases p <;> first | exact .inl (w.mem (by decide)) | exact .inr rfl))
    | lift_lets -underBinder
    | (intro x; first | (refine (have hx : Keeps T r x := ?_; ?_); subst x; swap; clear_value x; swap) | subst x | skip) | split)

theorem Keeps.advance {T : List Area} {r s : State} (h : Keeps T r s) (w : within [.regs, .mod, .hz, .fast, .eng, .aug, .flt, .dec,
    .ring] T) (x1 : Bool) : Keeps T r (State.advance s x1) := by
  unfold State.advance
  repeat' (first
    | with_reducible assumption | with_reducible apply Keeps.countReached (w := w.sub (by decide))
    | with_reducible apply Keeps.countOn (w := w.sub (by decide)) | with_reducible apply Keeps.settlePreset (w := w.sub (by decide))
    | with_reducible apply Keeps.fallowAtTick (w := w.sub (by decide)) | with_reducible apply Keeps.idleTick (w := w.sub (by decide))
    | with_reducible apply Keeps.syncAt (w := w.sub (by decide)))

theorem Keeps.flyTick {T : List Area} {r s : State} (h : Keeps T r s) (w : within [.regs, .mod, .hz, .fast, .eng, .aug, .flt, .dec,
    .ring] T) : Keeps T r (State.flyTick s) := by
  unfold State.flyTick
  repeat' (first
    | with_reducible assumption | with_reducible apply Keeps.advance (w := w.sub (by decide))
    | fail_if_no_progress (with_reducible refine Keeps.fields ?_ (by intro p; cases p <;> first | exact .inl (w.mem (by decide)) | exact .inr rfl)))

theorem Keeps.execFlywheelTick {T : List Area} {r s t : State} (h : Keeps T r s) (w : within [.regs, .mod, .hz, .fast, .eng, .aug, .flt,
    .dec, .ring] T)  (e : (execFlywheelTick s) = .next t) : Keeps T r t := by
  have e' := Host.Outcome.next.inj e
  subst e'
  repeat' (first | with_reducible assumption | with_reducible apply Keeps.flyTick (w := w.sub (by decide)) | split)

theorem Keeps.noteTick {T : List Area} {r s : State} (h : Keeps T r s) (w : within [.hz] T) (x1 : ℕ) (x2 : Bool) : Keeps T r
    (State.noteTick s x1 x2) := by
  unfold State.noteTick
  repeat' (first
    | with_reducible assumption
    | fail_if_no_progress (with_reducible refine Keeps.fields ?_ (by intro p; cases p <;> first | exact .inl (w.mem (by decide)) | exact .inr rfl)))

theorem Keeps.execPresetApply {T : List Area} {r s t : State} (h : Keeps T r s) (w : within [.regs, .mod, .hz, .fast, .eng, .aug, .flt,
    .dec] T)  (e : (execPresetApply s) = .next t) : Keeps T r t := by
  have e' := Host.Outcome.next.inj e
  subst e'
  repeat' (first | with_reducible assumption | with_reducible apply Keeps.applyPreset (w := w.sub (by decide)) | split)

theorem Keeps.showTickOk {T : List Area} {r s : State} (h : Keeps T r s) (w : within [.regs] T) : Keeps T r (State.showTickOk s) := by
  unfold State.showTickOk
  repeat' (first | with_reducible assumption | with_reducible apply Keeps.setFlag (w := w.sub (by decide)))

theorem Keeps.loseTicks {T : List Area} {r s : State} (h : Keeps T r s) (w : within [.regs, .hz, .fast, .aug, .dec] T) : Keeps T r
    (State.loseTicks s) := by
  unfold State.loseTicks
  repeat' (first
    | with_reducible assumption | with_reducible apply Keeps.showTickOk (w := w.sub (by decide))
    | with_reducible apply Keeps.driveHold (w := w.sub (by decide)) | with_reducible apply Keeps.writeEventAt (w := w.sub (by decide))
    | with_reducible apply Keeps.setFlag (w := w.sub (by decide))
    | fail_if_no_progress (with_reducible refine Keeps.fields ?_ (by intro p; cases p <;> first | exact .inl (w.mem (by decide)) | exact .inr rfl))
    | lift_lets -underBinder
    | (intro x; first | (refine (have hx : Keeps T r x := ?_; ?_); subst x; swap; clear_value x; swap) | subst x | skip) | split)

theorem Keeps.execTickLoss {T : List Area} {r s t : State} (h : Keeps T r s) (w : within [.regs, .hz, .fast, .aug, .dec] T)  (e :
    (execTickLoss s) = .next t) : Keeps T r t := by
  have e' := Host.Outcome.next.inj e
  subst e'
  repeat' (first | with_reducible assumption | with_reducible apply Keeps.loseTicks (w := w.sub (by decide)) | split)

theorem Keeps.periodMeasured {T : List Area} {r s : State} (h : Keeps T r s) (w : within [.regs, .aug] T) (x1 : ℕ) : Keeps T r
    (State.periodMeasured s x1) := by
  unfold State.periodMeasured
  repeat' (first
    | with_reducible assumption | with_reducible apply Keeps.showTickOk (w := w.sub (by decide))
    | with_reducible apply Keeps.setFlag (w := w.sub (by decide)) | with_reducible apply Keeps.writeEvent (w := w.sub (by decide)) | split)

theorem Keeps.launchEngine {T : List Area} {r s : State} (h : Keeps T r s) (w : within [.fast, .eng] T) (x1 : Fin 2) (x2 : U64) : Keeps
    T r (State.launchEngine s x1 x2) := by
  unfold State.launchEngine
  repeat' (first
    | with_reducible assumption | with_reducible apply Keeps.addStart (w := w.sub (by decide))
    | with_reducible apply Keeps.setEng (w := w.sub (by decide)))

theorem Keeps.runBeds {T : List Area} {r s : State} (h : Keeps T r s) (w : within [.regs] T) : Keeps T r (State.runBeds s) := by
  unfold State.runBeds
  repeat' (first
    | with_reducible assumption | with_reducible apply Keeps.setBedState (w := w.sub (by decide))
    | with_reducible refine Keeps.foldl _ ?_ (fun _ _ _ => ?_) | lift_lets -underBinder
    | (intro x; first | (refine (have hx : Keeps T r x := ?_; ?_); subst x; swap; clear_value x; swap) | subst x | skip) | split)

theorem Keeps.freezeRing {T : List Area} {r s : State} (h : Keeps T r s) (w : within [.lanes] T) : Keeps T r (State.freezeRing s) := by
  unfold State.freezeRing
  repeat' (first
    | with_reducible assumption
    | fail_if_no_progress (with_reducible refine Keeps.fields ?_ (by intro p; cases p <;> first | exact .inl (w.mem (by decide)) | exact .inr rfl)))

theorem Keeps.launchNow {T : List Area} {r s : State} (h : Keeps T r s) (w : within [.regs, .mod, .hz, .fast, .eng, .aug, .dec, .lanes,
    .ring] T) (x1 : U64) : Keeps T r (State.launchNow s x1) := by
  unfold State.launchNow
  repeat' (first
    | with_reducible assumption | with_reducible apply Keeps.setReg64 (w := w.sub (by decide))
    | with_reducible apply Keeps.setFlag (w := w.sub (by decide)) | with_reducible apply Keeps.launchEngine (w := w.sub (by decide))
    | with_reducible apply Keeps.writeEventAt (w := w.sub (by decide)) | with_reducible apply Keeps.runBeds (w := w.sub (by decide))
    | with_reducible apply Keeps.enterState (w := w.sub (by decide)) | with_reducible apply Keeps.freezeRing (w := w.sub (by decide))
    | fail_if_no_progress (with_reducible refine Keeps.fields ?_ (by intro p; cases p <;> first | exact .inl (w.mem (by decide)) | exact .inr rfl)))

theorem Keeps.launchDue {T : List Area} {r s : State} (h : Keeps T r s) (w : within [.regs, .mod, .hz, .fast, .eng, .aug, .dec, .lanes,
    .ring] T) : Keeps T r (State.launchDue s) := by
  unfold State.launchDue
  repeat' (first
    | with_reducible assumption | with_reducible apply Keeps.launchNow (w := w.sub (by decide))
    | with_reducible apply Keeps.refuseLaunch (w := w.sub (by decide)) | lift_lets -underBinder
    | (intro x; first | (refine (have hx : Keeps T r x := ?_; ?_); subst x; swap; clear_value x; swap) | subst x | skip) | split)

theorem Keeps.execPresetArm {T : List Area} {r s t : State} (h : Keeps T r s) (w : within [.regs, .mod, .hz, .aug, .sec] T) (x0 : Path)
    (e : (execPresetArm x0 s) = .next t) : Keeps T r t := by
  have e' := Host.Outcome.next.inj e
  subst e'
  repeat' (first
    | with_reducible assumption | with_reducible refine Keeps.via ?_ (w.sub (by decide)) _ _ (fun _ _ => ?_)
    | with_reducible apply Keeps.armPreset (w := w.sub (by decide)))

theorem Keeps.execTickPeriodMeasured {T : List Area} {r s t : State} (h : Keeps T r s) (w : within [.regs, .aug] T) (x0 : ℕ) (e :
    (execTickPeriodMeasured x0 s) = .next t) : Keeps T r t := by
  have e' := Host.Outcome.next.inj e
  subst e'
  repeat' (first | with_reducible assumption | with_reducible apply Keeps.periodMeasured (w := w.sub (by decide)) | split)

theorem Keeps.tickEdge {T : List Area} {r s : State} (h : Keeps T r s) (w : within [.regs, .mod, .hz, .fast, .eng, .aug, .flt, .dec,
    .ring] T) (x1 : ℕ) (x2 : Bool) : Keeps T r (State.tickEdge s x1 x2) := by
  unfold State.tickEdge
  repeat' (first
    | with_reducible assumption | with_reducible apply Keeps.noteTick (w := w.sub (by decide))
    | with_reducible apply Keeps.showTickOk (w := w.sub (by decide)) | with_reducible apply Keeps.setFlag (w := w.sub (by decide))
    | with_reducible apply Keeps.advance (w := w.sub (by decide)) | with_reducible apply Keeps.syncPulse (w := w.sub (by decide))
    | fail_if_no_progress (with_reducible refine Keeps.fields ?_ (by intro p; cases p <;> first | exact .inl (w.mem (by decide)) | exact .inr rfl))
    | lift_lets -underBinder
    | (intro x; first | (refine (have hx : Keeps T r x := ?_; ?_); subst x; swap; clear_value x; swap) | subst x | skip) | split)

theorem Keeps.execTick {T : List Area} {r s t : State} (h : Keeps T r s) (w : within [.regs, .mod, .hz, .fast, .eng, .aug, .flt, .dec,
    .ring] T) (x0 : ℕ) (x1 : Bool) (e : (execTick x0 x1 s) = .next t) : Keeps T r t := by
  have e' := Host.Outcome.next.inj e
  subst e'
  repeat' (first | with_reducible assumption | with_reducible apply Keeps.tickEdge (w := w.sub (by decide)) | split)

theorem Keeps.execLaunch {T : List Area} {r s t : State} (h : Keeps T r s) (w : within [.regs, .mod, .hz, .fast, .eng, .aug, .flt, .dec,
    .lanes, .ring] T)  (e : (execLaunch s) = .next t) : Keeps T r t := by
  have e' := Host.Outcome.next.inj e
  subst e'
  repeat' (first
    | with_reducible assumption | with_reducible apply Keeps.settlePreset (w := w.sub (by decide))
    | with_reducible apply Keeps.launchDue (w := w.sub (by decide)) | lift_lets -underBinder
    | (intro x; first | (refine (have hx : Keeps T r x := ?_; ?_); subst x; swap; clear_value x; swap) | subst x | skip) | split)

end Sys2Proof.Machine
end

