-- ==== Sys2Proof/Laws/KeepsLaneOps.lean ====
section
/-!
SUPPORT. Each operation of Machine/LaneOps.lean keeps what Laws/Keeps.lean names.
-/
set_option linter.unusedVariables false
set_option linter.unreachableTactic false
set_option linter.unusedTactic false
namespace Sys2Proof.Machine

theorem Keeps.setHostSet {T : List Area} {r s : State} (h : Keeps T r s) (w : within [.regs, .hst] T) (x1 : Byte) : Keeps T r
    (State.setHostSet s x1) := by
  unfold State.setHostSet
  repeat' (first
    | with_reducible assumption | with_reducible apply Keeps.setFld (w := w.sub (by decide))
    | with_reducible apply Keeps.setFlag (w := w.sub (by decide))
    | fail_if_no_progress (with_reducible refine Keeps.fields ?_ (by intro p; cases p <;> first | exact .inl (w.mem (by decide)) | exact .inr rfl))
    | lift_lets -underBinder
    | (intro x; first | (refine (have hx : Keeps T r x := ?_; ?_); subst x; swap; clear_value x; swap) | subst x | skip) | split)

theorem Keeps.laneLeaves {T : List Area} {r s : State} (h : Keeps T r s) (w : within [.regs, .lanes, .hst, .free] T) (x1 : Fin 80) :
    Keeps T r (State.laneLeaves s x1) := by
  unfold State.laneLeaves
  repeat' (first
    | with_reducible assumption | with_reducible apply Keeps.abortEye (w := w.sub (by decide))
    | with_reducible apply Keeps.dropItem (w := w.sub (by decide)) | with_reducible apply Keeps.setHostSet (w := w.sub (by decide))
    | with_reducible apply Keeps.setFlag (w := w.sub (by decide)) | lift_lets -underBinder
    | (intro x; first | (refine (have hx : Keeps T r x := ?_; ?_); subst x; swap; clear_value x; swap) | subst x | skip) | split)

theorem Keeps.setLaneRate {T : List Area} {r s : State} (h : Keeps T r s) (w : within [.regs] T) (x1 : ℕ) (x2 : ℕ) : Keeps T r
    (State.setLaneRate s x1 x2) := by
  unfold State.setLaneRate
  repeat' (first | with_reducible assumption | with_reducible apply Keeps.setFld (w := w.sub (by decide)))

theorem Keeps.setLaneState {T : List Area} {r s : State} (h : Keeps T r s) (w : within [.regs] T) (x1 : ℕ) (x2 : ℕ) : Keeps T r
    (State.setLaneState s x1 x2) := by
  unfold State.setLaneState
  repeat' (first | with_reducible assumption | with_reducible apply Keeps.setFld (w := w.sub (by decide)))

theorem Keeps.fixedPeak {T : List Area} {r s : State} (h : Keeps T r s) (w : within [.regs] T) (x1 : ℕ) : Keeps T r (State.fixedPeak s
    x1) := by
  unfold State.fixedPeak
  repeat' (first | with_reducible assumption | with_reducible apply Keeps.setFld (w := w.sub (by decide)) | split)

theorem Keeps.startLane {T : List Area} {r s : State} (h : Keeps T r s) (w : within [.regs, .lanes, .hst, .free] T) (x1 : Fin 80) :
    Keeps T r (State.startLane s x1) := by
  unfold State.startLane
  repeat' (first
    | with_reducible assumption | with_reducible apply Keeps.laneLeaves (w := w.sub (by decide))
    | with_reducible apply Keeps.bump (w := w.sub (by decide)) | with_reducible apply Keeps.setLane (w := w.sub (by decide))
    | with_reducible apply Keeps.setFlag (w := w.sub (by decide)) | with_reducible apply Keeps.setFld (w := w.sub (by decide))
    | with_reducible apply Keeps.setLaneRate (w := w.sub (by decide)) | with_reducible apply Keeps.setLaneState (w := w.sub (by decide))
    | with_reducible apply Keeps.fixedPeak (w := w.sub (by decide)) | lift_lets -underBinder | split)

theorem Keeps.startLanes {T : List Area} {r s : State} (h : Keeps T r s) (w : within [.regs, .lanes, .hst, .free] T) : Keeps T r
    (State.startLanes s) := by
  unfold State.startLanes
  repeat' (first
    | with_reducible assumption | with_reducible apply Keeps.startLane (w := w.sub (by decide))
    | with_reducible refine Keeps.foldl _ ?_ (fun _ _ _ => ?_) | lift_lets -underBinder | split)

theorem Keeps.stopLane {T : List Area} {r s : State} (h : Keeps T r s) (w : within [.regs, .lanes, .hst, .free] T) (x1 : Fin 80) : Keeps
    T r (State.stopLane s x1) := by
  unfold State.stopLane
  repeat' (first
    | with_reducible assumption | with_reducible apply Keeps.laneLeaves (w := w.sub (by decide))
    | with_reducible apply Keeps.setLane (w := w.sub (by decide)) | with_reducible apply Keeps.setLaneState (w := w.sub (by decide))
    | with_reducible apply Keeps.setFlag (w := w.sub (by decide)))

theorem Keeps.startPrbs {T : List Area} {r s : State} (h : Keeps T r s) (w : within [.regs, .lanes, .hst, .free] T) (x1 : Fin 80) :
    Keeps T r (State.startPrbs s x1) := by
  unfold State.startPrbs
  repeat' (first
    | with_reducible assumption | with_reducible apply Keeps.laneLeaves (w := w.sub (by decide))
    | with_reducible apply Keeps.setLaneState (w := w.sub (by decide)) | with_reducible apply Keeps.setLane (w := w.sub (by decide))
    | lift_lets -underBinder
    | (intro x; first | (refine (have hx : Keeps T r x := ?_; ?_); subst x; swap; clear_value x; swap) | subst x | skip) | split)

theorem Keeps.portUp {T : List Area} {r s : State} (h : Keeps T r s) (w : within [.regs, .mod, .ring] T) (x1 : Fin 4) : Keeps T r
    (State.portUp s x1) := by
  unfold State.portUp
  repeat' (first
    | with_reducible assumption | with_reducible apply Keeps.setFlag (w := w.sub (by decide))
    | with_reducible apply Keeps.setFld (w := w.sub (by decide)) | with_reducible apply Keeps.sendHello (w := w.sub (by decide))
    | with_reducible apply Keeps.idleZero (w := w.sub (by decide)) | with_reducible apply Keeps.setPort (w := w.sub (by decide))
    | fail_if_no_progress (with_reducible refine Keeps.fields ?_ (by intro p; cases p <;> first | exact .inl (w.mem (by decide)) | exact .inr rfl))
    | lift_lets -underBinder
    | (intro x; first | (refine (have hx : Keeps T r x := ?_; ?_); subst x; swap; clear_value x; swap) | subst x | skip) | split)

theorem Keeps.levelHost {T : List Area} {r s : State} (h : Keeps T r s) (w : within [.regs, .lanes, .hst, .free] T) : Keeps T r
    (State.levelHost s) := by
  unfold State.levelHost
  repeat' (first
    | with_reducible assumption | with_reducible apply Keeps.startLane (w := w.sub (by decide))
    | with_reducible apply Keeps.setFld (w := w.sub (by decide)) | with_reducible refine Keeps.foldl _ ?_ (fun _ _ _ => ?_)
    | lift_lets -underBinder
    | (intro x; first | (refine (have hx : Keeps T r x := ?_; ?_); subst x; swap; clear_value x; swap) | subst x | skip) | split)

theorem Keeps.hostLaneUp {T : List Area} {r s : State} (h : Keeps T r s) (w : within [.regs, .lanes, .hst, .free] T) : Keeps T r
    (State.hostLaneUp s) := by
  unfold State.hostLaneUp
  repeat' (first
    | with_reducible assumption | with_reducible apply Keeps.levelHost (w := w.sub (by decide))
    | with_reducible apply Keeps.setHostSet (w := w.sub (by decide)) | with_reducible apply Keeps.setFld (w := w.sub (by decide))
    | lift_lets -underBinder
    | (intro x; first | (refine (have hx : Keeps T r x := ?_; ?_); subst x; swap; clear_value x; swap) | subst x | skip) | split)

theorem Keeps.failedBlock {T : List Area} {r s : State} (h : Keeps T r s) (w : within [.regs, .lanes] T) (x1 : Fin 80) (x2 : Bool) :
    Keeps T r (State.failedBlock s x1 x2) := by
  unfold State.failedBlock
  repeat' (first
    | with_reducible assumption | with_reducible apply Keeps.setLane (w := w.sub (by decide))
    | with_reducible apply Keeps.dropItem (w := w.sub (by decide)) | lift_lets -underBinder
    | (intro x; first | (refine (have hx : Keeps T r x := ?_; ?_); subst x; swap; clear_value x; swap) | subst x | skip) | split)

theorem Keeps.detectLane {T : List Area} {r s : State} (h : Keeps T r s) (w : within [.regs, .mod, .beds, .fast, .eng, .aug, .flt, .dec,
    .lanes, .hst, .svc, .free] T) (x1 : Fin 80) (x2 : ℕ) (x3 : U64) : Keeps T r (State.detectLane s x1 x2 x3) := by
  unfold State.detectLane
  repeat' (first
    | with_reducible assumption | with_reducible apply Keeps.detect (w := w.sub (by decide))
    | with_reducible apply Keeps.startPrbs (w := w.sub (by decide)) | lift_lets -underBinder
    | (intro x; first | (refine (have hx : Keeps T r x := ?_; ?_); subst x; swap; clear_value x; swap) | subst x | skip) | split)

theorem Keeps.laneFault {T : List Area} {r s : State} (h : Keeps T r s) (w : within [.regs, .mod, .beds, .fast, .eng, .aug, .flt, .dec,
    .lanes, .hst, .svc, .free] T) (x1 : Fin 80) : Keeps T r (State.laneFault s x1) := by
  unfold State.laneFault
  repeat' (first | with_reducible assumption | with_reducible apply Keeps.detectLane (w := w.sub (by decide)))

theorem Keeps.adaptPeak {T : List Area} {r s : State} (h : Keeps T r s) (w : within [.regs, .free] T) (x1 : ℕ) : Keeps T r
    (State.adaptPeak s x1) := by
  unfold State.adaptPeak
  repeat' (first
    | with_reducible assumption | with_reducible apply Keeps.drawNat (w := w.sub (by decide))
    | with_reducible apply Keeps.setFld (w := w.sub (by decide)) | with_reducible apply Keeps.fixedPeak (w := w.sub (by decide))
    | lift_lets -underBinder
    | (intro x; first | (refine (have hx : Keeps T r x := ?_; ?_); subst x; swap; clear_value x; swap) | subst x | skip) | split)

theorem Keeps.laneAttemptFails {T : List Area} {r s : State} (h : Keeps T r s) (w : within [.regs, .mod, .beds, .fast, .eng, .aug, .flt,
    .dec, .lanes, .hst, .svc, .free] T) (x1 : Fin 80) (x2 : Bool) : Keeps T r (State.laneAttemptFails s x1 x2) := by
  unfold State.laneAttemptFails
  repeat' (first
    | with_reducible assumption | with_reducible apply Keeps.setFlag (w := w.sub (by decide))
    | with_reducible apply Keeps.setLaneState (w := w.sub (by decide)) | with_reducible apply Keeps.setLane (w := w.sub (by decide))
    | with_reducible apply Keeps.laneFault (w := w.sub (by decide)) | with_reducible apply Keeps.setLaneRate (w := w.sub (by decide))
    | lift_lets -underBinder
    | (intro x; first | (refine (have hx : Keeps T r x := ?_; ?_); subst x; swap; clear_value x; swap) | subst x | skip) | split)

theorem Keeps.checkStep5 {T : List Area} {r s : State} (h : Keeps T r s) (w : within [.regs] T) : Keeps T r (State.checkStep5 s) := by
  unfold State.checkStep5
  repeat' (first | with_reducible assumption | with_reducible apply Keeps.setFld (w := w.sub (by decide)) | split)

theorem Keeps.laneUp {T : List Area} {r s : State} (h : Keeps T r s) (w : within [.regs, .mod, .lanes, .ring, .hst, .free] T) (x1 : Fin
    80) : Keeps T r (State.laneUp s x1) := by
  unfold State.laneUp
  repeat' (first
    | with_reducible assumption | with_reducible apply Keeps.setLaneState (w := w.sub (by decide))
    | with_reducible apply Keeps.checkStep5 (w := w.sub (by decide)) | with_reducible apply Keeps.portUp (w := w.sub (by decide))
    | with_reducible apply Keeps.hostLaneUp (w := w.sub (by decide)) | lift_lets -underBinder
    | (intro x; first | (refine (have hx : Keeps T r x := ?_; ?_); subst x; swap; clear_value x; swap) | subst x | skip) | split)

theorem Keeps.laneVerified {T : List Area} {r s : State} (h : Keeps T r s) (w : within [.regs, .mod, .lanes, .ring, .hst, .free] T) (x1
    : Fin 80) : Keeps T r (State.laneVerified s x1) := by
  unfold State.laneVerified
  repeat' (first
    | with_reducible assumption | with_reducible apply Keeps.setLane (w := w.sub (by decide))
    | with_reducible apply Keeps.setLaneState (w := w.sub (by decide)) | with_reducible apply Keeps.laneUp (w := w.sub (by decide))
    | lift_lets -underBinder
    | (intro x; first | (refine (have hx : Keeps T r x := ?_; ?_); subst x; swap; clear_value x; swap) | subst x | skip) | split)

theorem Keeps.cslOffer {T : List Area} {r s : State} (h : Keeps T r s) (w : within [.regs] T) (x1 : ℕ) (x2 : Word) : Keeps T r
    (State.cslOffer s x1 x2) := by
  unfold State.cslOffer
  repeat' (first | with_reducible assumption | with_reducible apply Keeps.setFlag (w := w.sub (by decide)) | split)

theorem Keeps.trainingBlock {T : List Area} {r s : State} (h : Keeps T r s) (w : within [.regs, .lanes, .hst, .free] T) (x1 : Fin 80)
    (x2 : Training) : Keeps T r (State.trainingBlock s x1 x2) := by
  unfold State.trainingBlock
  repeat' (first
    | with_reducible assumption | with_reducible apply Keeps.setFld (w := w.sub (by decide))
    | with_reducible apply Keeps.setReg (w := w.sub (by decide)) | with_reducible apply Keeps.setLane (w := w.sub (by decide))
    | with_reducible apply Keeps.setLaneState (w := w.sub (by decide)) | with_reducible apply Keeps.laneLeaves (w := w.sub (by decide))
    | with_reducible apply Keeps.cslOffer (w := w.sub (by decide)) | with_reducible apply Keeps.setFlag (w := w.sub (by decide))
    | lift_lets -underBinder
    | (intro x; first | (refine (have hx : Keeps T r x := ?_; ?_); subst x; swap; clear_value x; swap) | subst x | skip) | split)

theorem Keeps.streamBlock {T : List Area} {r s : State} (h : Keeps T r s) (w : within [.regs, .lanes] T) (x1 : Fin 80) (x2 : ℕ) (x3 :
    List Byte) : Keeps T r (State.streamBlock s x1 x2 x3) := by
  unfold State.streamBlock
  repeat' (first
    | with_reducible assumption | with_reducible apply Keeps.bumpBy (w := w.sub (by decide))
    | with_reducible apply Keeps.setLane (w := w.sub (by decide)))

end Sys2Proof.Machine
end

