-- ==== Sys2Proof/Laws/KeepsRing.lean ====
section
/-!
SUPPORT. Each operation of Machine/Ring.lean keeps what Laws/Keeps.lean names.
-/
set_option linter.unusedVariables false
set_option linter.unreachableTactic false
set_option linter.unusedTactic false
namespace Sys2Proof.Machine

theorem Keeps.queuePart {T : List Area} {r s : State} (h : Keeps T r s) (w : within [.ring] T) (x1 : Fin 4) (x2 : ℕ) (x3 : List Byte) :
    Keeps T r (State.queuePart s x1 x2 x3) := by
  unfold State.queuePart
  repeat' (first | with_reducible assumption | with_reducible apply Keeps.setPort (w := w.sub (by decide)))

theorem Keeps.mirrorTaken {T : List Area} {r s : State} (h : Keeps T r s) (w : within [.aug, .ring] T) (x1 : ℕ) (x2 : List Byte) : Keeps
    T r (State.mirrorTaken s x1 x2) := by
  unfold State.mirrorTaken
  repeat' (first
    | with_reducible assumption | with_reducible apply Keeps.sendMessage (w := w.sub (by decide))
    | fail_if_no_progress (with_reducible refine Keeps.fields ?_ (by intro p; cases p <;> first | exact .inl (w.mem (by decide)) | exact .inr rfl))
    | split)

theorem Keeps.ringDeliver {T : List Area} {r s : State} (h : Keeps T r s) (w : within [.aug, .ring] T) (x1 : List Byte) : Keeps T r
    (State.ringDeliver s x1) := by
  unfold State.ringDeliver
  repeat' (first
    | with_reducible assumption | with_reducible apply Keeps.mirrorTaken (w := w.sub (by decide))
    | fail_if_no_progress (with_reducible refine Keeps.fields ?_ (by intro p; cases p <;> first | exact .inl (w.mem (by decide)) | exact .inr rfl))
    | lift_lets -underBinder
    | (intro x; first | (refine (have hx : Keeps T r x := ?_; ?_); subst x; swap; clear_value x; swap) | subst x | skip) | split)

theorem Keeps.mirrorTail {T : List Area} {r s : State} (h : Keeps T r s) (w : within [.aug] T) : Keeps T r (State.mirrorTail s) := by
  unfold State.mirrorTail
  repeat' (first
    | with_reducible assumption
    | fail_if_no_progress (with_reducible refine Keeps.fields ?_ (by intro p; cases p <;> first | exact .inl (w.mem (by decide)) | exact .inr rfl)))

theorem Keeps.showNeighbour {T : List Area} {r s : State} (h : Keeps T r s) (w : within [.regs, .aug] T) : Keeps T r
    (State.showNeighbour s) := by
  unfold State.showNeighbour
  repeat' (first
    | with_reducible assumption | with_reducible apply Keeps.setFlag (w := w.sub (by decide))
    | with_reducible apply Keeps.setFld (w := w.sub (by decide)) | with_reducible apply Keeps.mirrorTail (w := w.sub (by decide))
    | with_reducible apply Keeps.setReg (w := w.sub (by decide)) | lift_lets -underBinder
    | (intro x; first | (refine (have hx : Keeps T r x := ?_; ?_); subst x; swap; clear_value x; swap) | subst x | skip) | split)

theorem Keeps.helloPorts {T : List Area} {r s : State} (h : Keeps T r s) (w : within [.ring] T) : Keeps T r (State.helloPorts s) := by
  unfold State.helloPorts
  repeat' (first
    | with_reducible assumption | with_reducible apply Keeps.sendHello (w := w.sub (by decide))
    | with_reducible refine Keeps.foldl _ ?_ (fun _ _ _ => ?_) | lift_lets -underBinder | split)

theorem Keeps.showLead {T : List Area} {r s : State} (h : Keeps T r s) (w : within [.regs, .ring] T) : Keeps T r (State.showLead s) := by
  unfold State.showLead
  repeat' (first
    | with_reducible assumption | with_reducible apply Keeps.setFlag (w := w.sub (by decide))
    | with_reducible apply Keeps.setReg (w := w.sub (by decide))
    | fail_if_no_progress (with_reducible refine Keeps.fields ?_ (by intro p; cases p <;> first | exact .inl (w.mem (by decide)) | exact .inr rfl))
    | lift_lets -underBinder
    | (intro x; first | (refine (have hx : Keeps T r x := ?_; ?_); subst x; swap; clear_value x; swap) | subst x | skip) | split)

theorem Keeps.showReach {T : List Area} {r s : State} (h : Keeps T r s) (w : within [.regs, .aug, .ring] T) : Keeps T r (State.showReach
    s) := by
  unfold State.showReach
  repeat' (first
    | with_reducible assumption | with_reducible apply Keeps.showNeighbour (w := w.sub (by decide))
    | with_reducible apply Keeps.setReg64 (w := w.sub (by decide)) | with_reducible apply Keeps.helloPorts (w := w.sub (by decide))
    | with_reducible apply Keeps.showLead (w := w.sub (by decide)) | lift_lets -underBinder
    | (intro x; first | (refine (have hx : Keeps T r x := ?_; ?_); subst x; swap; clear_value x; swap) | subst x | skip) | split)

theorem Keeps.changeRole {T : List Area} {r s : State} (h : Keeps T r s) (w : within [.regs, .aug] T) (x1 : ℕ) (x2 : ℕ) : Keeps T r
    (State.changeRole s x1 x2) := by
  unfold State.changeRole
  repeat' (first
    | with_reducible assumption | with_reducible apply Keeps.setFld (w := w.sub (by decide))
    | with_reducible apply Keeps.setReg64 (w := w.sub (by decide)) | with_reducible apply Keeps.setFlag (w := w.sub (by decide))
    | with_reducible apply Keeps.writeEvent (w := w.sub (by decide)))

theorem Keeps.launchSent {T : List Area} {r s : State} (h : Keeps T r s) (w : within [.ring] T) (ring : Ring) (l : List Nat) :
    Keeps T r (({ s with ring := ring } : State).sendAll 7 l) :=
  Keeps.sendAll (h.fields fun p => by cases p <;> first | exact .inl (w.mem rfl) | exact .inr rfl) (w.sub rfl) _ _

theorem Keeps.launchWrite {T : List Area} {r s : State} (h : Keeps T r s) (w : within [.regs, .mod, .hz, .aug, .ring] T) (v : Word) :
    Keeps T r (State.launchWrite s v) := by
  unfold State.launchWrite
  split
  · exact Keeps.setFlag h (w.sub rfl) _ _
  · lift_lets -underBinder
    intro x y
    have k : Keeps T r x := Keeps.setReg h (w.sub rfl) _ _
    clear_value x
    split
    · split
      · exact Keeps.setReg (Keeps.commitLaunch k (w.sub rfl) _) (w.sub rfl) _ _
      · split
        · exact Keeps.setReg (Keeps.setFlag k (w.sub rfl) _ _) (w.sub rfl) _ _
        · exact Keeps.launchSent (Keeps.setReg (Keeps.commitLaunch k (w.sub rfl) _) (w.sub rfl) _ _) (w.sub rfl) _ _
    · exact Keeps.commitLaunch k (w.sub rfl) _

theorem Keeps.execLaunchCommit {T : List Area} {r s t : State} (h : Keeps T r s) (w : within [.regs, .mod, .hz, .aug, .ring, .sec] T)
    (x0 : Path) (x1 : Word) (e : (execLaunchCommit x0 x1 s) = .next t) : Keeps T r t := by
  have e' := Host.Outcome.next.inj e
  subst e'
  repeat' (first
    | with_reducible assumption | with_reducible refine Keeps.via ?_ (w.sub (by decide)) _ _ (fun _ _ => ?_)
    | with_reducible apply Keeps.launchWrite (w := w.sub (by decide)))

theorem Keeps.helloCount {T : List Area} {r s : State} (h : Keeps T r s) (w : within [.regs, .fast, .aug, .dec, .ring] T) (x1 : ℕ) (x2 :
    U64) : Keeps T r (State.helloCount s x1 x2) := by
  unfold State.helloCount
  repeat' (first
    | with_reducible assumption | with_reducible apply Keeps.setFlag (w := w.sub (by decide))
    | with_reducible apply Keeps.syncSlip (w := w.sub (by decide))
    | fail_if_no_progress (with_reducible refine Keeps.fields ?_ (by intro p; cases p <;> first | exact .inl (w.mem (by decide)) | exact .inr rfl))
    | lift_lets -underBinder
    | (intro x; first | (refine (have hx : Keeps T r x := ?_; ?_); subst x; swap; clear_value x; swap) | subst x | skip) | split)

theorem Keeps.confirmDeadline {T : List Area} {r s : State} (h : Keeps T r s) (w : within [.regs, .ring] T) : Keeps T r
    (State.confirmDeadline s) := by
  unfold State.confirmDeadline
  repeat' (first
    | with_reducible assumption | with_reducible apply Keeps.setReg (w := w.sub (by decide))
    | with_reducible apply Keeps.setFlag (w := w.sub (by decide)) | with_reducible apply Keeps.sendAll (w := w.sub (by decide))
    | fail_if_no_progress (with_reducible refine Keeps.fields ?_ (by intro p; cases p <;> first | exact .inl (w.mem (by decide)) | exact .inr rfl))
    | lift_lets -underBinder
    | (intro x; first | (refine (have hx : Keeps T r x := ?_; ?_); subst x; swap; clear_value x; swap) | subst x | skip) | split)

theorem Keeps.execLaunchConfirmDeadline {T : List Area} {r s t : State} (h : Keeps T r s) (w : within [.regs, .ring] T)  (e :
    (execLaunchConfirmDeadline s) = .next t) : Keeps T r t := by
  have e' := Host.Outcome.next.inj e
  subst e'
  repeat' (first | with_reducible assumption | with_reducible apply Keeps.confirmDeadline (w := w.sub (by decide)) | split)

theorem Keeps.rerouteNow {T : List Area} {r s : State} (h : Keeps T r s) (w : within [.regs, .ring] T) : Keeps T r (State.rerouteNow s)
    := by
  unfold State.rerouteNow
  repeat' (first
    | with_reducible assumption | with_reducible apply Keeps.bumpBy (w := w.sub (by decide))
    | with_reducible apply Keeps.setFlag (w := w.sub (by decide))
    | fail_if_no_progress (with_reducible refine Keeps.fields ?_ (by intro p; cases p <;> first | exact .inl (w.mem (by decide)) | exact .inr rfl))
    | lift_lets -underBinder
    | (intro x; first | (refine (have hx : Keeps T r x := ?_; ?_); subst x; swap; clear_value x; swap) | subst x | skip) | split)

theorem Keeps.elasticRetry {T : List Area} {r s : State} (h : Keeps T r s) (w : within [.regs, .ring] T) (x1 : Fin 4) : Keeps T r
    (State.elasticRetry s x1) := by
  unfold State.elasticRetry
  repeat' (first
    | with_reducible assumption | with_reducible apply Keeps.bump (w := w.sub (by decide))
    | with_reducible apply Keeps.setPort (w := w.sub (by decide)) | lift_lets -underBinder
    | (intro x; first | (refine (have hx : Keeps T r x := ?_; ?_); subst x; swap; clear_value x; swap) | subst x | skip) | split)

theorem Keeps.roleMessage {T : List Area} {r s : State} (h : Keeps T r s) (w : within [.regs, .aug, .ring] T) (x1 : ℕ) : Keeps T r
    (State.roleMessage s x1) := by
  unfold State.roleMessage
  repeat' (first
    | with_reducible assumption | with_reducible apply Keeps.changeRole (w := w.sub (by decide))
    | with_reducible apply Keeps.setFld (w := w.sub (by decide))
    | fail_if_no_progress (with_reducible refine Keeps.fields ?_ (by intro p; cases p <;> first | exact .inl (w.mem (by decide)) | exact .inr rfl))
    | lift_lets -underBinder
    | (intro x; first | (refine (have hx : Keeps T r x := ?_; ?_); subst x; swap; clear_value x; swap) | subst x | skip) | split)

theorem Keeps.elasticCell {T : List Area} {r s : State} (h : Keeps T r s) (w : within [.aug, .ring] T) (x1 : Fin 4) (x2 : List Byte) :
    Keeps T r (State.elasticCell s x1 x2) := by
  unfold State.elasticCell
  repeat' (first
    | with_reducible assumption | with_reducible apply Keeps.setPort (w := w.sub (by decide))
    | with_reducible apply Keeps.ringDeliver (w := w.sub (by decide)) | with_reducible apply Keeps.queueCell (w := w.sub (by decide))
    | lift_lets -underBinder
    | (intro x; first | (refine (have hx : Keeps T r x := ?_; ?_); subst x; swap; clear_value x; swap) | subst x | skip) | split)

theorem Keeps.launchMessage {T : List Area} {r s : State} (h : Keeps T r s) (w : within [.regs, .mod, .hz, .aug, .ring] T) (x1 : ℕ) (x2
    : U64) (x3 : LaunchMsg) : Keeps T r (State.launchMessage s x1 x2 x3) := by
  unfold State.launchMessage
  repeat' (first
    | with_reducible assumption | with_reducible apply Keeps.commitLaunch (w := w.sub (by decide))
    | with_reducible apply Keeps.sendMessage (w := w.sub (by decide)) | with_reducible apply Keeps.setFlag (w := w.sub (by decide))
    | fail_if_no_progress (with_reducible refine Keeps.fields ?_ (by intro p; cases p <;> first | exact .inl (w.mem (by decide)) | exact .inr rfl))
    | lift_lets -underBinder
    | (intro x; first | (refine (have hx : Keeps T r x := ?_; ?_); subst x; swap; clear_value x; swap) | subst x | skip) | split)

theorem Keeps.execLaunchMessage {T : List Area} {r s t : State} (h : Keeps T r s) (w : within [.regs, .mod, .hz, .aug, .ring] T) (x0 :
    Fin 64) (x1 : U64) (x2 : LaunchMsg) (e : (execLaunchMessage x0 x1 x2 s) = .next t) : Keeps T r t := by
  have e' := Host.Outcome.next.inj e
  subst e'
  repeat' (first | with_reducible assumption | with_reducible apply Keeps.launchMessage (w := w.sub (by decide)) | split)

theorem Keeps.forwardPart {T : List Area} {r s : State} (h : Keeps T r s) (w : within [.ring] T) (x1 : List Byte) (x2 : ℕ) : Keeps T r
    (State.forwardPart s x1 x2) := by
  unfold State.forwardPart
  repeat' (first
    | with_reducible assumption | with_reducible apply Keeps.queuePart (w := w.sub (by decide))
    | with_reducible refine Keeps.foldl _ ?_ (fun _ _ _ => ?_) | split)

theorem Keeps.ringFrame {T : List Area} {r s : State} (h : Keeps T r s) (w : within [.regs, .mod, .beds, .fast, .eng, .aug, .flt, .dec,
    .lanes, .ring, .hst, .svc, .free] T) (x1 : Fin 4) (x2 : ℕ) (x3 : List (List Byte)) : Keeps T r (State.ringFrame s x1 x2 x3) := by
  unfold State.ringFrame
  repeat' (first
    | with_reducible assumption | with_reducible apply Keeps.forwardPart (w := w.sub (by decide))
    | with_reducible apply Keeps.bump (w := w.sub (by decide)) | with_reducible apply Keeps.setFlag (w := w.sub (by decide))
    | with_reducible apply Keeps.detectLane (w := w.sub (by decide)) | with_reducible apply Keeps.bumpBy (w := w.sub (by decide))
    | with_reducible refine Keeps.foldl _ ?_ (fun _ _ _ => ?_)
    | fail_if_no_progress (with_reducible refine Keeps.fields ?_ (by intro p; cases p <;> first | exact .inl (w.mem (by decide)) | exact .inr rfl))
    | lift_lets -underBinder
    | (intro x; first | (refine (have hx : Keeps T r x := ?_; ?_); subst x; swap; clear_value x; swap) | subst x | skip) | split)

theorem Keeps.gatherMirror {T : List Area} {r s : State} (h : Keeps T r s) (w : within [.aug, .ring] T) : Keeps T r (State.gatherMirror
    s) := by
  unfold State.gatherMirror
  repeat' (first
    | with_reducible assumption | with_reducible apply Keeps.sendMessage (w := w.sub (by decide))
    | with_reducible refine Keeps.foldl _ ?_ (fun _ _ _ => ?_)
    | fail_if_no_progress (with_reducible refine Keeps.fields ?_ (by intro p; cases p <;> first | exact .inl (w.mem (by decide)) | exact .inr rfl))
    | lift_lets -underBinder
    | (intro x; first | (refine (have hx : Keeps T r x := ?_; ?_); subst x; swap; clear_value x; swap) | subst x | skip) | split)

theorem Keeps.execElasticCellReceived {T : List Area} {r s t : State} (h : Keeps T r s) (w : within [.aug, .ring] T) (x0 : Fin 4) (x1 :
    List Byte) (e : (execElasticCellReceived x0 x1 s) = .next t) : Keeps T r t := by
  have e' := Host.Outcome.next.inj e
  subst e'
  repeat' (first | with_reducible assumption | with_reducible apply Keeps.elasticCell (w := w.sub (by decide)) | split)

theorem Keeps.takeLead {T : List Area} {r s : State} (h : Keeps T r s) (w : within [.regs, .aug, .ring] T) : Keeps T r (State.takeLead
    s) := by
  unfold State.takeLead
  repeat' (first
    | with_reducible assumption | with_reducible apply Keeps.changeRole (w := w.sub (by decide))
    | with_reducible apply Keeps.sendAll (w := w.sub (by decide))
    | fail_if_no_progress (with_reducible refine Keeps.fields ?_ (by intro p; cases p <;> first | exact .inl (w.mem (by decide)) | exact .inr rfl)))

theorem Keeps.execLeadTakeover {T : List Area} {r s t : State} (h : Keeps T r s) (w : within [.regs, .aug, .ring] T)  (e :
    (execLeadTakeover s) = .next t) : Keeps T r t := by
  have e' := Host.Outcome.next.inj e
  subst e'
  repeat' (first | with_reducible assumption | with_reducible apply Keeps.takeLead (w := w.sub (by decide)) | split)

theorem Keeps.linkDown {T : List Area} {r s : State} (h : Keeps T r s) (w : within [.regs, .aug, .ring] T) (x1 : Fin 4) : Keeps T r
    (State.linkDown s x1) := by
  unfold State.linkDown
  repeat' (first
    | with_reducible assumption | with_reducible apply Keeps.setPort (w := w.sub (by decide))
    | with_reducible apply Keeps.setFlag (w := w.sub (by decide)) | with_reducible apply Keeps.showReach (w := w.sub (by decide))
    | fail_if_no_progress (with_reducible refine Keeps.fields ?_ (by intro p; cases p <;> first | exact .inl (w.mem (by decide)) | exact .inr rfl)))

theorem Keeps.cableMeasured {T : List Area} {r s : State} (h : Keeps T r s) (w : within [.regs, .aug, .ring] T) (x1 : Fin 4) (x2 : ℕ) :
    Keeps T r (State.cableMeasured s x1 x2) := by
  unfold State.cableMeasured
  repeat' (first
    | with_reducible assumption | with_reducible apply Keeps.setReg (w := w.sub (by decide))
    | with_reducible apply Keeps.setFlag (w := w.sub (by decide)) | with_reducible apply Keeps.linkDown (w := w.sub (by decide))
    | fail_if_no_progress (with_reducible refine Keeps.fields ?_ (by intro p; cases p <;> first | exact .inl (w.mem (by decide)) | exact .inr rfl))
    | lift_lets -underBinder
    | (intro x; first | (refine (have hx : Keeps T r x := ?_; ?_); subst x; swap; clear_value x; swap) | subst x | skip) | split)

theorem Keeps.hello {T : List Area} {r s : State} (h : Keeps T r s) (w : within [.regs, .fast, .aug, .dec, .ring] T) (x1 : Fin 4) (x2 :
    ℕ) (x3 : U64) (x4 : List ℕ) (x5 : ℕ) : Keeps T r (State.hello s x1 x2 x3 x4 x5) := by
  unfold State.hello
  repeat' (first
    | with_reducible assumption | with_reducible apply Keeps.cableMeasured (w := w.sub (by decide))
    | with_reducible apply Keeps.helloCount (w := w.sub (by decide)) | with_reducible apply Keeps.showReach (w := w.sub (by decide))
    | fail_if_no_progress (with_reducible refine Keeps.fields ?_ (by intro p; cases p <;> first | exact .inl (w.mem (by decide)) | exact .inr rfl)))

theorem Keeps.execRoleChangeMessage {T : List Area} {r s t : State} (h : Keeps T r s) (w : within [.regs, .aug, .ring] T) (x0 : Fin 64)
    (e : (execRoleChangeMessage x0 s) = .next t) : Keeps T r t := by
  have e' := Host.Outcome.next.inj e
  subst e'
  repeat' (first | with_reducible assumption | with_reducible apply Keeps.roleMessage (w := w.sub (by decide)) | split)

theorem Keeps.execRingLinkDown {T : List Area} {r s t : State} (h : Keeps T r s) (w : within [.regs, .aug, .ring] T) (x0 : Fin 4) (e :
    (execRingLinkDown x0 s) = .next t) : Keeps T r t := by
  have e' := Host.Outcome.next.inj e
  subst e'
  repeat' (first | with_reducible assumption | with_reducible apply Keeps.linkDown (w := w.sub (by decide)) | split)

theorem Keeps.execRingHello {T : List Area} {r s t : State} (h : Keeps T r s) (w : within [.regs, .fast, .aug, .dec, .ring] T) (x0 : Fin
    4) (x1 : Fin 64) (x2 : U64) (x3 : List (Fin 64)) (x4 : ℕ) (e : (execRingHello x0 x1 x2 x3 x4 s) = .next t) : Keeps T r t := by
  have e' := Host.Outcome.next.inj e
  subst e'
  repeat' (first | with_reducible assumption | with_reducible apply Keeps.hello (w := w.sub (by decide)) | split)

theorem Keeps.execRingFrameReceived {T : List Area} {r s t : State} (h : Keeps T r s) (w : within [.regs, .mod, .beds, .fast, .eng,
    .aug, .flt, .dec, .lanes, .ring, .hst, .svc, .free] T) (x0 : Fin 4) (x1 : ℕ) (x2 : List (List Byte)) (e : (execRingFrameReceived x0
    x1 x2 s) = .next t) : Keeps T r t := by
  have e' := Host.Outcome.next.inj e
  subst e'
  repeat' (first | with_reducible assumption | with_reducible apply Keeps.ringFrame (w := w.sub (by decide)) | split)

theorem Keeps.execElasticRetransmit {T : List Area} {r s t : State} (h : Keeps T r s) (w : within [.regs, .ring] T) (x0 : Fin 4) (e :
    (execElasticRetransmit x0 s) = .next t) : Keeps T r t := by
  have e' := Host.Outcome.next.inj e
  subst e'
  repeat' (first | with_reducible assumption | with_reducible apply Keeps.elasticRetry (w := w.sub (by decide)) | split)

theorem Keeps.execReroute {T : List Area} {r s t : State} (h : Keeps T r s) (w : within [.regs, .ring] T)  (e : (execReroute s) = .next
    t) : Keeps T r t := by
  have e' := Host.Outcome.next.inj e
  subst e'
  repeat' (first | with_reducible assumption | with_reducible apply Keeps.rerouteNow (w := w.sub (by decide)) | split)

end Sys2Proof.Machine
end

