-- ==== Sys2Proof/Laws/KeepsAuger.lean ====
section
/-!
SUPPORT. Each operation of Machine/Auger.lean keeps what Laws/Keeps.lean names.
-/
set_option linter.unusedVariables false
set_option linter.unreachableTactic false
set_option linter.unusedTactic false
namespace Sys2Proof.Machine

theorem Keeps.sealRequest {T : List Area} {r s : State} (h : Keeps T r s) (w : within [.aug] T) : Keeps T r (State.sealRequest s) := by
  unfold State.sealRequest
  repeat' (first
    | with_reducible assumption
    | fail_if_no_progress (with_reducible refine Keeps.fields ?_ (by intro p; cases p <;> first | exact .inl (w.mem (by decide)) | exact .inr rfl)))

theorem Keeps.recordsTaken {T : List Area} {r s : State} (h : Keeps T r s) (w : within [.regs, .aug, .hst] T) (x1 : U64) (x2 : U64) :
    Keeps T r (State.recordsTaken s x1 x2) := by
  unfold State.recordsTaken
  repeat' (first
    | with_reducible assumption | with_reducible apply Keeps.setFlag (w := w.sub (by decide))
    | fail_if_no_progress (with_reducible refine Keeps.fields ?_ (by intro p; cases p <;> first | exact .inl (w.mem (by decide)) | exact .inr rfl))
    | lift_lets -underBinder
    | (intro x; first | (refine (have hx : Keeps T r x := ?_; ?_); subst x; swap; clear_value x; swap) | subst x | skip) | split)

theorem Keeps.sealSigned {T : List Area} {r s : State} (h : Keeps T r s) (w : within [.regs, .mod, .beds, .fast, .eng, .aug, .flt, .dec,
    .lanes, .svc, .free] T) (x1 : Bool) : Keeps T r (State.sealSigned s x1) := by
  unfold State.sealSigned
  repeat' (first
    | with_reducible assumption | with_reducible apply Keeps.setFlag (w := w.sub (by decide))
    | with_reducible apply Keeps.detect (w := w.sub (by decide))
    | fail_if_no_progress (with_reducible refine Keeps.fields ?_ (by intro p; cases p <;> first | exact .inl (w.mem (by decide)) | exact .inr rfl))
    | lift_lets -underBinder
    | (intro x; first | (refine (have hx : Keeps T r x := ?_; ?_); subst x; swap; clear_value x; swap) | subst x | skip) | split)

theorem Keeps.execSealSigned {T : List Area} {r s t : State} (h : Keeps T r s) (w : within [.regs, .mod, .beds, .fast, .eng, .aug, .flt,
    .dec, .lanes, .svc, .free] T) (x0 : Bool) (e : (execSealSigned x0 s) = .next t) : Keeps T r t := by
  have e' := Host.Outcome.next.inj e
  subst e'
  repeat' (first | with_reducible assumption | with_reducible apply Keeps.sealSigned (w := w.sub (by decide)) | split)

theorem Keeps.releaseHold {T : List Area} {r s : State} (h : Keeps T r s) (w : within [.regs, .fast, .aug, .dec] T) (x1 : U64) : Keeps T
    r (State.releaseHold s x1) := by
  unfold State.releaseHold
  repeat' (first
    | with_reducible assumption | with_reducible apply Keeps.bump (w := w.sub (by decide))
    | with_reducible apply Keeps.setFlag (w := w.sub (by decide)) | with_reducible apply Keeps.driveHold (w := w.sub (by decide))
    | with_reducible apply Keeps.writeEventAt (w := w.sub (by decide))
    | fail_if_no_progress (with_reducible refine Keeps.fields ?_ (by intro p; cases p <;> first | exact .inl (w.mem (by decide)) | exact .inr rfl)))

theorem Keeps.execRecordHoldRelease {T : List Area} {r s t : State} (h : Keeps T r s) (w : within [.regs, .fast, .aug, .dec] T)  (e :
    (execRecordHoldRelease s) = .next t) : Keeps T r t := by
  have e' := Host.Outcome.next.inj e
  subst e'
  repeat' (first | with_reducible assumption | with_reducible apply Keeps.releaseHold (w := w.sub (by decide)) | split)

theorem Keeps.closeStale {T : List Area} {r s : State} (h : Keeps T r s) (w : within [.aug] T) (x1 : ℕ) : Keeps T r (State.closeStale s
    x1) := by
  unfold State.closeStale
  repeat' (first
    | with_reducible assumption | with_reducible apply Keeps.closeRun (w := w.sub (by decide))
    | with_reducible refine Keeps.foldl _ ?_ (fun _ _ _ => ?_))

theorem Keeps.forwardOrphan {T : List Area} {r s : State} (h : Keeps T r s) (w : within [.regs, .aug, .hst] T) (x1 : U64) (x2 : List
    MirrorRec) : Keeps T r (State.forwardOrphan s x1 x2) := by
  unfold State.forwardOrphan
  repeat' (first
    | with_reducible assumption | with_reducible apply Keeps.setFlag (w := w.sub (by decide))
    | with_reducible apply Keeps.bumpBy (w := w.sub (by decide)) | with_reducible apply Keeps.writePair (w := w.sub (by decide))
    | fail_if_no_progress (with_reducible refine Keeps.fields ?_ (by intro p; cases p <;> first | exact .inl (w.mem (by decide)) | exact .inr rfl)))

theorem Keeps.execSealNow {T : List Area} {r s t : State} (h : Keeps T r s) (w : within [.regs, .mod, .aug, .sec] T) (x0 : Path) (e :
    (execSealNow x0 s) = .next t) : Keeps T r t := by
  have e' := Host.Outcome.next.inj e
  subst e'
  repeat' (first
    | with_reducible assumption | with_reducible refine Keeps.via ?_ (w.sub (by decide)) _ _ (fun _ _ => ?_)
    | with_reducible apply Keeps.sealRequest (w := w.sub (by decide)))

theorem Keeps.normPair {T : List Area} {r s : State} (h : Keeps T r s) (w : within [.regs, .aug] T) (x1 : Frame) : Keeps T r
    (State.normPair s x1) := by
  unfold State.normPair
  repeat' (first
    | with_reducible assumption | with_reducible apply Keeps.writePair (w := w.sub (by decide))
    | fail_if_no_progress (with_reducible refine Keeps.fields ?_ (by intro p; cases p <;> first | exact .inl (w.mem (by decide)) | exact .inr rfl))
    | lift_lets -underBinder
    | (intro x; first | (refine (have hx : Keeps T r x := ?_; ?_); subst x; swap; clear_value x; swap) | subst x | skip) | split)

theorem Keeps.execOrphanTailForward {T : List Area} {r s t : State} (h : Keeps T r s) (w : within [.regs, .aug, .hst] T) (x0 : U64) (e :
    (execOrphanTailForward x0 s) = .next t) : Keeps T r t := by
  have e' := Host.Outcome.next.inj e
  subst e'
  repeat' (first | with_reducible assumption | with_reducible apply Keeps.forwardOrphan (w := w.sub (by decide)) | split)

theorem Keeps.intoRun {T : List Area} {r s : State} (h : Keeps T r s) (w : within [.aug] T) (x1 : Frame) : Keeps T r (State.intoRun s
    x1) := by
  unfold State.intoRun
  repeat' (first
    | with_reducible assumption | with_reducible apply Keeps.closeRun (w := w.sub (by decide))
    | fail_if_no_progress (with_reducible refine Keeps.fields ?_ (by intro p; cases p <;> first | exact .inl (w.mem (by decide)) | exact .inr rfl))
    | lift_lets -underBinder
    | (intro x; first | (refine (have hx : Keeps T r x := ?_; ?_); subst x; swap; clear_value x; swap) | subst x | skip) | split)

theorem Keeps.writeEntry {T : List Area} {r s : State} (h : Keeps T r s) (w : within [.regs, .fast, .aug, .dec] T) (x1 : Frame) : Keeps
    T r (State.writeEntry s x1) := by
  unfold State.writeEntry
  repeat' (first
    | with_reducible assumption | with_reducible apply Keeps.closeStale (w := w.sub (by decide))
    | with_reducible apply Keeps.closeDueSeal (w := w.sub (by decide)) | with_reducible apply Keeps.normPair (w := w.sub (by decide))
    | with_reducible apply Keeps.closeRun (w := w.sub (by decide)) | with_reducible apply Keeps.numberRec (w := w.sub (by decide))
    | with_reducible apply Keeps.intoRun (w := w.sub (by decide)) | with_reducible apply Keeps.updFrame (w := w.sub (by decide))
    | with_reducible apply Keeps.checkTail (w := w.sub (by decide)) | with_reducible apply Keeps.purge (w := w.sub (by decide))
    | lift_lets -underBinder
    | (intro x; first | (refine (have hx : Keeps T r x := ?_; ?_); subst x; swap; clear_value x; swap) | subst x | skip) | split)

theorem Keeps.mirrorExpired {T : List Area} {r s : State} (h : Keeps T r s) (w : within [.regs, .aug] T) : Keeps T r
    (State.mirrorExpired s) := by
  unfold State.mirrorExpired
  repeat' (first
    | with_reducible assumption | with_reducible apply Keeps.writeEvent (w := w.sub (by decide))
    | with_reducible apply Keeps.setFlag (w := w.sub (by decide))
    | fail_if_no_progress (with_reducible refine Keeps.fields ?_ (by intro p; cases p <;> first | exact .inl (w.mem (by decide)) | exact .inr rfl)))

theorem Keeps.execMirrorTimeout {T : List Area} {r s t : State} (h : Keeps T r s) (w : within [.regs, .aug] T)  (e : (execMirrorTimeout
    s) = .next t) : Keeps T r t := by
  have e' := Host.Outcome.next.inj e
  subst e'
  repeat' (first | with_reducible assumption | with_reducible apply Keeps.mirrorExpired (w := w.sub (by decide)) | split)

theorem Keeps.execRecordEntry {T : List Area} {r s t : State} (h : Keeps T r s) (w : within [.regs, .fast, .aug, .dec] T) (x0 : Fin 4)
    (x1 : Fin 64) (x2 : U64) (e : (execRecordEntry x0 x1 x2 s) = .next t) : Keeps T r t := by
  have e' := Host.Outcome.next.inj e
  subst e'
  repeat' (first | with_reducible assumption | with_reducible apply Keeps.writeEntry (w := w.sub (by decide)) | split)

theorem Keeps.execSealClose {T : List Area} {r s t : State} (h : Keeps T r s) (w : within [.regs, .aug] T)  (e : (execSealClose s) =
    .next t) : Keeps T r t := by
  have e' := Host.Outcome.next.inj e
  subst e'
  repeat' (first | with_reducible assumption | with_reducible apply Keeps.closeDueSeal (w := w.sub (by decide)))

theorem Keeps.mirrorAcked {T : List Area} {r s : State} (h : Keeps T r s) (w : within [.regs, .aug] T) (x1 : U64) : Keeps T r
    (State.mirrorAcked s x1) := by
  unfold State.mirrorAcked
  repeat' (first
    | with_reducible assumption | with_reducible apply Keeps.writeEvent (w := w.sub (by decide))
    | with_reducible apply Keeps.mirrorTail (w := w.sub (by decide)) | with_reducible apply Keeps.setFlag (w := w.sub (by decide))
    | fail_if_no_progress (with_reducible refine Keeps.fields ?_ (by intro p; cases p <;> first | exact .inl (w.mem (by decide)) | exact .inr rfl))
    | lift_lets -underBinder
    | (intro x; first | (refine (have hx : Keeps T r x := ?_; ?_); subst x; swap; clear_value x; swap) | subst x | skip) | split)

theorem Keeps.execMirrorAck {T : List Area} {r s t : State} (h : Keeps T r s) (w : within [.regs, .aug] T) (x0 : U64) (e :
    (execMirrorAck x0 s) = .next t) : Keeps T r t := by
  have e' := Host.Outcome.next.inj e
  subst e'
  repeat' (first | with_reducible assumption | with_reducible apply Keeps.mirrorAcked (w := w.sub (by decide)) | split)

end Sys2Proof.Machine
end

