-- ==== Sys2Proof/Laws/KeepsLoader.lean ====
section
/-!
SUPPORT. Each operation of Machine/Loader.lean keeps what Laws/Keeps.lean names.
-/
set_option linter.unusedVariables false
set_option linter.unreachableTactic false
set_option linter.unusedTactic false
namespace Sys2Proof.Machine

theorem Keeps.untrack {T : List Area} {r s : State} (h : Keeps T r s) (w : within [.regs, .tim] T) (x1 : Fin 2) : Keeps T r
    (State.untrack s x1) := by
  unfold State.untrack
  repeat' (first
    | with_reducible assumption | with_reducible apply Keeps.setFlag (w := w.sub (by decide))
    | fail_if_no_progress (with_reducible refine Keeps.fields ?_ (by intro p; cases p <;> first | exact .inl (w.mem (by decide)) | exact .inr rfl)))

theorem Keeps.showLoad {T : List Area} {r s : State} (h : Keeps T r s) (w : within [.regs] T) (x1 : ℕ) (x2 : ℕ) (x3 : ℕ) : Keeps T r
    (State.showLoad s x1 x2 x3) := by
  unfold State.showLoad
  repeat' (first | with_reducible assumption | with_reducible apply Keeps.setReg (w := w.sub (by decide)))

theorem Keeps.refuseLoad {T : List Area} {r s : State} (h : Keeps T r s) (w : within [.regs, .aug] T) (x1 : ℕ) (x2 : ℕ) (x3 : ℕ) : Keeps
    T r (State.refuseLoad s x1 x2 x3) := by
  unfold State.refuseLoad
  repeat' (first
    | with_reducible assumption | with_reducible apply Keeps.writeEvent (w := w.sub (by decide))
    | with_reducible apply Keeps.showLoad (w := w.sub (by decide)))

theorem Keeps.freezeDecision {T : List Area} {r s : State} (h : Keeps T r s) (w : within [.lanes] T) : Keeps T r (State.freezeDecision
    s) := by
  unfold State.freezeDecision
  repeat' (first
    | with_reducible assumption
    | fail_if_no_progress (with_reducible refine Keeps.fields ?_ (by intro p; cases p <;> first | exact .inl (w.mem (by decide)) | exact .inr rfl)))

theorem Keeps.showRole {T : List Area} {r s : State} (h : Keeps T r s) (w : within [.regs, .tim] T) (x1 : Program) : Keeps T r
    (State.showRole s x1) := by
  unfold State.showRole
  repeat' (first
    | with_reducible assumption | with_reducible apply Keeps.untrack (w := w.sub (by decide))
    | with_reducible apply Keeps.setReg (w := w.sub (by decide)) | with_reducible apply Keeps.setFlag (w := w.sub (by decide))
    | with_reducible apply Keeps.setFld (w := w.sub (by decide)) | lift_lets -underBinder
    | (intro x; first | (refine (have hx : Keeps T r x := ?_; ?_); subst x; swap; clear_value x; swap) | subst x | skip) | split)

theorem Keeps.clearBed {T : List Area} {r s : State} (h : Keeps T r s) (w : within [.regs, .beds] T) (x1 : Fin 4) : Keeps T r
    (State.clearBed s x1) := by
  unfold State.clearBed
  repeat' (first
    | with_reducible assumption | with_reducible apply Keeps.setBed (w := w.sub (by decide))
    | with_reducible apply Keeps.setReg (w := w.sub (by decide)) | with_reducible apply Keeps.showDegraded (w := w.sub (by decide))
    | with_reducible apply Keeps.setFlag (w := w.sub (by decide)) | with_reducible apply Keeps.setBedState (w := w.sub (by decide))
    | lift_lets -underBinder
    | (intro x; first | (refine (have hx : Keeps T r x := ?_; ?_); subst x; swap; clear_value x; swap) | subst x | skip) | split)

theorem Keeps.writeBedRegs {T : List Area} {r s : State} (h : Keeps T r s) (w : within [.regs] T) (x1 : Phase) (x2 : Placed) : Keeps T r
    (State.writeBedRegs s x1 x2) := by
  unfold State.writeBedRegs
  repeat' (first
    | with_reducible assumption | with_reducible apply Keeps.setReg (w := w.sub (by decide))
    | with_reducible apply Keeps.setFld (w := w.sub (by decide)) | with_reducible apply Keeps.setFlag (w := w.sub (by decide))
    | lift_lets -underBinder
    | (intro x; first | (refine (have hx : Keeps T r x := ?_; ?_); subst x; swap; clear_value x; swap) | subst x | skip) | split)

theorem Keeps.loadBed {T : List Area} {r s : State} (h : Keeps T r s) (w : within [.regs, .beds] T) (x1 : Load) (x2 : PhaseProg) (x3 :
    Placed) : Keeps T r (State.loadBed s x1 x2 x3) := by
  unfold State.loadBed
  repeat' (first
    | with_reducible assumption | with_reducible apply Keeps.setBed (w := w.sub (by decide))
    | with_reducible apply Keeps.showDegraded (w := w.sub (by decide)) | with_reducible apply Keeps.setFlag (w := w.sub (by decide))
    | with_reducible apply Keeps.setBedState (w := w.sub (by decide)) | lift_lets -underBinder | split)

theorem Keeps.writePhaseRegs {T : List Area} {r s : State} (h : Keeps T r s) (w : within [.regs] T) (x1 : ℕ) (x2 : PhaseProg) : Keeps T
    r (State.writePhaseRegs s x1 x2) := by
  unfold State.writePhaseRegs
  repeat' (first
    | with_reducible assumption | with_reducible apply Keeps.setReg (w := w.sub (by decide))
    | with_reducible apply Keeps.setFld (w := w.sub (by decide)) | with_reducible apply Keeps.setFlag (w := w.sub (by decide))
    | with_reducible refine Keeps.foldl _ ?_ (fun _ _ _ => ?_))

theorem Keeps.placeProgram {T : List Area} {r s : State} (h : Keeps T r s) (w : within [.regs, .prog, .beds, .eng] T) (x1 : Load) (x2 :
    PhaseProg) (x3 : List Placed) : Keeps T r (State.placeProgram s x1 x2 x3) := by
  unfold State.placeProgram
  repeat' (first
    | with_reducible assumption | with_reducible apply Keeps.clearBed (w := w.sub (by decide))
    | with_reducible apply Keeps.writeBedRegs (w := w.sub (by decide)) | with_reducible apply Keeps.loadBed (w := w.sub (by decide))
    | with_reducible apply Keeps.writePhaseRegs (w := w.sub (by decide)) | with_reducible refine Keeps.foldl _ ?_ (fun _ _ _ => ?_)
    | fail_if_no_progress (with_reducible refine Keeps.fields ?_ (by intro p; cases p <;> first | exact .inl (w.mem (by decide)) | exact .inr rfl))
    | lift_lets -underBinder | split)

theorem Keeps.periodWritten {T : List Area} {r s : State} (h : Keeps T r s) (w : within [.regs, .aug] T) (x1 : ℕ) : Keeps T r
    (State.periodWritten s x1) := by
  unfold State.periodWritten
  repeat' (first
    | with_reducible assumption | with_reducible apply Keeps.writeEventAt (w := w.sub (by decide))
    | with_reducible apply Keeps.setFlag (w := w.sub (by decide)) | split)

theorem Keeps.acceptLoad {T : List Area} {r s : State} (h : Keeps T r s) (w : within [.regs, .mod, .prog, .beds, .eng, .aug, .lanes,
    .tim] T) (x1 : Load) (x2 : ℕ) : Keeps T r (State.acceptLoad s x1 x2) := by
  unfold State.acceptLoad
  repeat' (first
    | with_reducible assumption | with_reducible apply Keeps.freezeDecision (w := w.sub (by decide))
    | with_reducible apply Keeps.showRole (w := w.sub (by decide)) | with_reducible apply Keeps.placeProgram (w := w.sub (by decide))
    | with_reducible apply Keeps.showLoad (w := w.sub (by decide)) | with_reducible apply Keeps.periodWritten (w := w.sub (by decide))
    | with_reducible apply Keeps.writePair (w := w.sub (by decide))
    | fail_if_no_progress (with_reducible refine Keeps.fields ?_ (by intro p; cases p <;> first | exact .inl (w.mem (by decide)) | exact .inr rfl))
    | split)

theorem Keeps.runLoader {T : List Area} {r s : State} (h : Keeps T r s) (w : within [.regs, .mod, .prog, .beds, .eng, .aug, .lanes,
    .tim] T) (x1 : List Byte) (x2 : ℕ) : Keeps T r (State.runLoader s x1 x2).2 := by
  unfold State.runLoader
  repeat' (first
    | with_reducible assumption | with_reducible apply Keeps.refuseLoad (w := w.sub (by decide))
    | with_reducible apply Keeps.acceptLoad (w := w.sub (by decide)) | lift_lets -underBinder
    | (intro x; first | (refine (have hx : Keeps T r x := ?_; ?_); subst x; swap; clear_value x; swap) | subst x | skip) | split)

end Sys2Proof.Machine
end

