-- ==== Sys2Proof/Laws/KeepsDramOps.lean ====
section
/-!
SUPPORT. Each operation of Machine/DramOps.lean keeps what Laws/Keeps.lean names.
-/
set_option linter.unusedVariables false
set_option linter.unreachableTactic false
set_option linter.unusedTactic false
namespace Sys2Proof.Machine

theorem Keeps.queueTx {T : List Area} {r s : State} (h : Keeps T r s) (w : within [.eng] T) (x1 : Fin 2) (x2 : ℕ) (x3 : ℕ) (x4 : TxItem)
    : Keeps T r (State.queueTx s x1 x2 x3 x4) := by
  unfold State.queueTx
  repeat' (first | with_reducible assumption | with_reducible apply Keeps.setEng (w := w.sub (by decide)))

theorem Keeps.queueBlocks {T : List Area} {r s : State} (h : Keeps T r s) (w : within [.eng] T) (x1 : Fin 2) (x2 : ℕ) (x3 : List ℕ) (x4
    : TxItem) : Keeps T r (State.queueBlocks s x1 x2 x3 x4) := by
  unfold State.queueBlocks
  repeat' (first
    | with_reducible assumption | with_reducible apply Keeps.queueTx (w := w.sub (by decide))
    | with_reducible refine Keeps.foldl _ ?_ (fun _ _ _ => ?_))

theorem Keeps.scanQuery {T : List Area} {r s : State} (h : Keeps T r s) (w : within [.eng] T) (x1 : Fin 2) (x2 : PhaseProg) (x3 : Query)
    : Keeps T r (State.scanQuery s x1 x2 x3) := by
  unfold State.scanQuery
  repeat' (first | with_reducible assumption | with_reducible apply Keeps.queueBlocks (w := w.sub (by decide)) | split)

theorem Keeps.rewriteUnit {T : List Area} {r s : State} (h : Keeps T r s) (w : within [.regs, .eng, .aug, .hst] T) (x1 : Fin 2) (x2 :
    Bool) (x3 : ℕ) (x4 : ℕ) (x5 : ℕ) : Keeps T r (State.rewriteUnit s x1 x2 x3 x4 x5) := by
  unfold State.rewriteUnit
  repeat' (first
    | with_reducible assumption | with_reducible apply Keeps.setEng (w := w.sub (by decide))
    | with_reducible apply Keeps.setFlag (w := w.sub (by decide)) | with_reducible apply Keeps.bump (w := w.sub (by decide))
    | with_reducible apply Keeps.writeEvent (w := w.sub (by decide))
    | fail_if_no_progress (with_reducible refine Keeps.fields ?_ (by intro p; cases p <;> first | exact .inl (w.mem (by decide)) | exact .inr rfl))
    | lift_lets -underBinder
    | (intro x; first | (refine (have hx : Keeps T r x := ?_; ?_); subst x; swap; clear_value x; swap) | subst x | skip) | split)

theorem Keeps.scanUnit {T : List Area} {r s : State} (h : Keeps T r s) (w : within [.eng] T) (x1 : Fin 2) (x2 : ℕ) (x3 : ℕ) : Keeps T r
    (State.scanUnit s x1 x2 x3) := by
  unfold State.scanUnit
  repeat' (first
    | with_reducible assumption | with_reducible apply Keeps.queueBlocks (w := w.sub (by decide))
    | with_reducible refine Keeps.foldl _ ?_ (fun _ _ _ => ?_) | lift_lets -underBinder | split)

theorem Keeps.scanContext {T : List Area} {r s : State} (h : Keeps T r s) (w : within [.eng] T) (x1 : Fin 2) (x2 : LoessSection) (x3 :
    Bool) (x4 : ℕ) (x5 : ℕ) : Keeps T r (State.scanContext s x1 x2 x3 x4 x5) := by
  unfold State.scanContext
  repeat' (first
    | with_reducible assumption | with_reducible apply Keeps.queueBlocks (w := w.sub (by decide))
    | with_reducible refine Keeps.foldl _ ?_ (fun _ _ _ => ?_))

theorem Keeps.spillWaits {T : List Area} {r s : State} (h : Keeps T r s) (w : within [.eng] T) (x1 : Fin 2) (x2 : Bool) (x3 : ℕ) (x4 :
    ℕ) : Keeps T r (State.spillWaits s x1 x2 x3 x4) := by
  unfold State.spillWaits
  repeat' (first | with_reducible assumption | with_reducible apply Keeps.setEng (w := w.sub (by decide)))

theorem Keeps.putStreamEntry {T : List Area} {r s : State} (h : Keeps T r s) (w : within [.regs, .eng, .aug, .hst] T) (x1 : Fin 2) (x2 :
    StreamRing) (x3 : ℕ) (x4 : ℕ) (x5 : StreamEntry) : Keeps T r (State.putStreamEntry s x1 x2 x3 x4 x5) := by
  unfold State.putStreamEntry
  repeat' (first
    | with_reducible assumption | with_reducible apply Keeps.setEng (w := w.sub (by decide))
    | with_reducible apply Keeps.queueTx (w := w.sub (by decide)) | with_reducible apply Keeps.scanUnit (w := w.sub (by decide))
    | with_reducible apply Keeps.scanContext (w := w.sub (by decide)) | with_reducible apply Keeps.rewriteUnit (w := w.sub (by decide))
    | with_reducible apply Keeps.spillWaits (w := w.sub (by decide)) | lift_lets -underBinder
    | (intro x; first | (refine (have hx : Keeps T r x := ?_; ?_); subst x; swap; clear_value x; swap) | subst x | skip) | split)

theorem Keeps.writeStreamEntry {T : List Area} {r s : State} (h : Keeps T r s) (w : within [.regs, .eng, .aug, .hst] T) (x1 : Fin 2) (x2
    : ℕ) (x3 : ℕ) (x4 : StreamEntry) : Keeps T r (State.writeStreamEntry s x1 x2 x3 x4) := by
  unfold State.writeStreamEntry
  repeat' (first
    | with_reducible assumption | with_reducible apply Keeps.putStreamEntry (w := w.sub (by decide))
    | with_reducible apply Keeps.advanceRecurs (w := w.sub (by decide)) | lift_lets -underBinder
    | (intro x; first | (refine (have hx : Keeps T r x := ?_; ?_); subst x; swap; clear_value x; swap) | subst x | skip) | split)

theorem Keeps.writeSlab {T : List Area} {r s : State} (h : Keeps T r s) (w : within [.regs, .eng, .aug, .hst] T) (x1 : Fin 2) (x2 : ℕ)
    (x3 : ℕ) (x4 : Slab) : Keeps T r (State.writeSlab s x1 x2 x3 x4) := by
  unfold State.writeSlab
  repeat' (first
    | with_reducible assumption | with_reducible apply Keeps.setEng (w := w.sub (by decide))
    | with_reducible apply Keeps.queueBlocks (w := w.sub (by decide)) | with_reducible apply Keeps.scanContext (w := w.sub (by decide))
    | with_reducible apply Keeps.rewriteUnit (w := w.sub (by decide)) | with_reducible apply Keeps.spillWaits (w := w.sub (by decide))
    | lift_lets -underBinder
    | (intro x; first | (refine (have hx : Keeps T r x := ?_; ?_); subst x; swap; clear_value x; swap) | subst x | skip) | split)

theorem Keeps.gatherJobs {T : List Area} {r s : State} (h : Keeps T r s) (w : within [.eng, .aug, .flt, .lck, .svc] T) (x1 : Fin 2) (x2
    : Fin 8) : Keeps T r (State.gatherJobs s x1 x2) := by
  unfold State.gatherJobs
  repeat' (first
    | with_reducible assumption | with_reducible apply Keeps.setEng (w := w.sub (by decide))
    | fail_if_no_progress (with_reducible refine Keeps.upd ?_ (by first | exact SecKeeps.refl _ | exact SecKeeps.of rfl rfl rfl rfl rfl rfl) (by first | exact SvcKeeps.refl _ | exact ⟨id, id⟩ | exact SvcKeeps.idle _ | exact ⟨fun _ => mapCanon_nil _, id⟩) le_rfl (by intro p; cases p <;> first | exact .inl (w.mem (by decide)) | exact .inr rfl)))

end Sys2Proof.Machine
end

