-- ==== Sys2Proof/Laws/KeepsLckOps.lean ====
section
/-!
SUPPORT. Each operation of Machine/LckOps.lean keeps what Laws/Keeps.lean names.
-/
set_option linter.unusedVariables false
set_option linter.unreachableTactic false
set_option linter.unusedTactic false
namespace Sys2Proof.Machine

theorem Keeps.storeDigests {T : List Area} {r s : State} (h : Keeps T r s) (w : within [.lck] T) (x1 : ℕ) (x2 : ℕ) (x3 : ℕ) : Keeps T r
    (State.storeDigests s x1 x2 x3) := by
  unfold State.storeDigests
  repeat' (first
    | with_reducible assumption | with_reducible refine Keeps.foldl _ ?_ (fun _ _ _ => ?_)
    | fail_if_no_progress (with_reducible refine Keeps.fields ?_ (by intro p; cases p <;> first | exact .inl (w.mem (by decide)) | exact .inr rfl)))

theorem Keeps.formResult {T : List Area} {r s : State} (h : Keeps T r s) (w : within [.lck] T) (x1 : Frame) : Keeps T r
    (State.formResult s x1) := by
  unfold State.formResult
  repeat' (first
    | with_reducible assumption | with_reducible apply Keeps.storeDigests (w := w.sub (by decide))
    | fail_if_no_progress (with_reducible refine Keeps.fields ?_ (by intro p; cases p <;> first | exact .inl (w.mem (by decide)) | exact .inr rfl))
    | lift_lets -underBinder
    | (intro x; first | (refine (have hx : Keeps T r x := ?_; ?_); subst x; swap; clear_value x; swap) | subst x | skip) | split)

end Sys2Proof.Machine
end

