-- ==== Sys2Proof/Laws/KeepsStream.lean ====
section
/-!
SUPPORT. Each operation of Machine/Stream.lean keeps what Laws/Keeps.lean names.
-/
set_option linter.unusedVariables false
set_option linter.unreachableTactic false
set_option linter.unusedTactic false
namespace Sys2Proof.Machine

theorem Keeps.bindWrite {T : List Area} {r s : State} (h : Keeps T r s) (w : within [.stm] T) : Keeps T r (State.bindWrite s) := by
  unfold State.bindWrite
  repeat' (first
    | with_reducible assumption
    | fail_if_no_progress (with_reducible refine Keeps.fields ?_ (by intro p; cases p <;> first | exact .inl (w.mem (by decide)) | exact .inr rfl)))

theorem Keeps.execBindWriteEntry {T : List Area} {r s t : State} (h : Keeps T r s) (w : within [.regs, .mod, .aug, .stm, .sec] T) (x0 :
    Path) (e : (execBindWriteEntry x0 s) = .next t) : Keeps T r t := by
  have e' := Host.Outcome.next.inj e
  subst e'
  repeat' (first
    | with_reducible assumption | with_reducible refine Keeps.via ?_ (w.sub (by decide)) _ _ (fun _ _ => ?_)
    | with_reducible apply Keeps.bindWrite (w := w.sub (by decide)))

theorem Keeps.bindCopy {T : List Area} {r s : State} (h : Keeps T r s) (w : within [.stm] T) : Keeps T r (State.bindCopy s) := by
  unfold State.bindCopy
  repeat' (first
    | with_reducible assumption
    | fail_if_no_progress (with_reducible refine Keeps.fields ?_ (by intro p; cases p <;> first | exact .inl (w.mem (by decide)) | exact .inr rfl)))

theorem Keeps.stageEntry {T : List Area} {r s : State} (h : Keeps T r s) (w : within [.regs] T) (x1 : Binding) : Keeps T r
    (State.stageEntry s x1) := by
  unfold State.stageEntry
  repeat' (first | with_reducible assumption | with_reducible apply Keeps.setReg (w := w.sub (by decide)))

theorem Keeps.bindStat {T : List Area} {r s : State} (h : Keeps T r s) (w : within [.regs] T) (x1 : ℕ) (x2 : ℕ) : Keeps T r
    (State.bindStat s x1 x2) := by
  unfold State.bindStat
  repeat' (first | with_reducible assumption | with_reducible apply Keeps.setReg (w := w.sub (by decide)))

theorem Keeps.bindApply {T : List Area} {r s : State} (h : Keeps T r s) (w : within [.regs, .stm] T) : Keeps T r (State.bindApply s) := by
  unfold State.bindApply
  repeat' (first
    | with_reducible assumption | with_reducible apply Keeps.bindStat (w := w.sub (by decide))
    | with_reducible apply Keeps.setFlag (w := w.sub (by decide))
    | fail_if_no_progress (with_reducible refine Keeps.fields ?_ (by intro p; cases p <;> first | exact .inl (w.mem (by decide)) | exact .inr rfl))
    | lift_lets -underBinder
    | (intro x; first | (refine (have hx : Keeps T r x := ?_; ?_); subst x; swap; clear_value x; swap) | subst x | skip) | split)

theorem Keeps.bindCancel {T : List Area} {r s : State} (h : Keeps T r s) (w : within [.regs, .stm] T) : Keeps T r (State.bindCancel s)
    := by
  unfold State.bindCancel
  repeat' (first
    | with_reducible assumption | with_reducible apply Keeps.bindStat (w := w.sub (by decide))
    | fail_if_no_progress (with_reducible refine Keeps.fields ?_ (by intro p; cases p <;> first | exact .inl (w.mem (by decide)) | exact .inr rfl))
    | lift_lets -underBinder
    | (intro x; first | (refine (have hx : Keeps T r x := ?_; ?_); subst x; swap; clear_value x; swap) | subst x | skip) | split)

theorem Keeps.bindArm {T : List Area} {r s : State} (h : Keeps T r s) (w : within [.regs, .stm] T) (x1 : Word) : Keeps T r
    (State.bindArm s x1) := by
  unfold State.bindArm
  repeat' (first
    | with_reducible assumption | with_reducible apply Keeps.setReg (w := w.sub (by decide))
    | with_reducible apply Keeps.bindStat (w := w.sub (by decide))
    | fail_if_no_progress (with_reducible refine Keeps.fields ?_ (by intro p; cases p <;> first | exact .inl (w.mem (by decide)) | exact .inr rfl))
    | lift_lets -underBinder
    | (intro x; first | (refine (have hx : Keeps T r x := ?_; ?_); subst x; swap; clear_value x; swap) | subst x | skip) | split)

theorem Keeps.execBindApply {T : List Area} {r s t : State} (h : Keeps T r s) (w : within [.regs, .mod, .aug, .stm, .sec] T) (x0 : Path)
    (e : (execBindApply x0 s) = .next t) : Keeps T r t := by
  have e' := Host.Outcome.next.inj e
  subst e'
  repeat' (first
    | with_reducible assumption | with_reducible refine Keeps.via ?_ (w.sub (by decide)) _ _ (fun _ _ => ?_)
    | with_reducible apply Keeps.bindApply (w := w.sub (by decide)))

theorem Keeps.execBindCancel {T : List Area} {r s t : State} (h : Keeps T r s) (w : within [.regs, .mod, .aug, .stm, .sec] T) (x0 :
    Path) (e : (execBindCancel x0 s) = .next t) : Keeps T r t := by
  have e' := Host.Outcome.next.inj e
  subst e'
  repeat' (first
    | with_reducible assumption | with_reducible refine Keeps.via ?_ (w.sub (by decide)) _ _ (fun _ _ => ?_)
    | with_reducible apply Keeps.bindCancel (w := w.sub (by decide)))

theorem Keeps.execBindCommitArm {T : List Area} {r s t : State} (h : Keeps T r s) (w : within [.regs, .mod, .aug, .stm, .sec] T) (x0 :
    Path) (x1 : Word) (e : (execBindCommitArm x0 x1 s) = .next t) : Keeps T r t := by
  have e' := Host.Outcome.next.inj e
  subst e'
  repeat' (first
    | with_reducible assumption | with_reducible refine Keeps.via ?_ (w.sub (by decide)) _ _ (fun _ _ => ?_)
    | with_reducible apply Keeps.bindArm (w := w.sub (by decide)))

theorem Keeps.lateSecond {T : List Area} {r s : State} (h : Keeps T r s) (w : within [.regs, .eng] T) (x1 : Fin 2) (x2 : ℕ) (x3 : ℕ) (x4
    : ℕ) (x5 : ChanGroup) : Keeps T r (State.lateSecond s x1 x2 x3 x4 x5) := by
  unfold State.lateSecond
  repeat' (first
    | with_reducible assumption | with_reducible apply Keeps.bump (w := w.sub (by decide))
    | with_reducible apply Keeps.setEng (w := w.sub (by decide)) | with_reducible apply Keeps.queueBlocks (w := w.sub (by decide))
    | lift_lets -underBinder
    | (intro x; first | (refine (have hx : Keeps T r x := ?_; ?_); subst x; swap; clear_value x; swap) | subst x | skip) | split)

theorem Keeps.holdArrival {T : List Area} {r s : State} (h : Keeps T r s) (w : within [.fast] T) (x1 : ℕ) (x2 : ℕ) (x3 : List Byte) (x4
    : Bool) (x5 : Bool) : Keeps T r (State.holdArrival s x1 x2 x3 x4 x5) := by
  unfold State.holdArrival
  repeat' (first
    | with_reducible assumption
    | fail_if_no_progress (with_reducible refine Keeps.fields ?_ (by intro p; cases p <;> first | exact .inl (w.mem (by decide)) | exact .inr rfl))
    | lift_lets -underBinder
    | (intro x; first | (refine (have hx : Keeps T r x := ?_; ?_); subst x; swap; clear_value x; swap) | subst x | skip) | split)

theorem Keeps.quarantine {T : List Area} {r s : State} (h : Keeps T r s) (w : within [.regs, .stm] T) (x1 : Word) (x2 : ℕ) (x3 : Bool)
    (x4 : U64) : Keeps T r (State.quarantine s x1 x2 x3 x4) := by
  unfold State.quarantine
  repeat' (first
    | with_reducible assumption | with_reducible apply Keeps.setFlag (w := w.sub (by decide))
    | with_reducible apply Keeps.bump (w := w.sub (by decide))
    | fail_if_no_progress (with_reducible refine Keeps.fields ?_ (by intro p; cases p <;> first | exact .inl (w.mem (by decide)) | exact .inr rfl))
    | lift_lets -underBinder
    | (intro x; first | (refine (have hx : Keeps T r x := ?_; ?_); subst x; swap; clear_value x; swap) | subst x | skip) | split)

theorem Keeps.summaryEntry {T : List Area} {r s : State} (h : Keeps T r s) (w : within [.regs, .eng] T) (x1 : Fin 2) (x2 : ℕ) (x3 : ℕ)
    (x4 : ℕ) (x5 : ℕ) (x6 : ℕ) : Keeps T r (State.summaryEntry s x1 x2 x3 x4 x5 x6) := by
  unfold State.summaryEntry
  repeat' (first
    | with_reducible assumption | with_reducible apply Keeps.lateSecond (w := w.sub (by decide))
    | with_reducible apply Keeps.bump (w := w.sub (by decide)) | with_reducible apply Keeps.setEng (w := w.sub (by decide))
    | with_reducible apply Keeps.bumpBy (w := w.sub (by decide)) | lift_lets -underBinder
    | (intro x; first | (refine (have hx : Keeps T r x := ?_; ?_); subst x; swap; clear_value x; swap) | subst x | skip) | split)

theorem Keeps.summaryItem {T : List Area} {r s : State} (h : Keeps T r s) (w : within [.regs, .eng, .stm] T) (x1 : ℕ) (x2 : Word) (x3 :
    ℕ) (x4 : List Byte) (x5 : Bool) (x6 : ℕ) : Keeps T r (State.summaryItem s x1 x2 x3 x4 x5 x6) := by
  unfold State.summaryItem
  repeat' (first
    | with_reducible assumption | with_reducible apply Keeps.quarantine (w := w.sub (by decide))
    | with_reducible apply Keeps.bump (w := w.sub (by decide)) | with_reducible apply Keeps.summaryEntry (w := w.sub (by decide))
    | with_reducible refine Keeps.foldl _ ?_ (fun _ _ _ => ?_) | lift_lets -underBinder
    | (intro x; first | (refine (have hx : Keeps T r x := ?_; ?_); subst x; swap; clear_value x; swap) | subst x | skip) | split)

theorem Keeps.execSummaryItem {T : List Area} {r s t : State} (h : Keeps T r s) (w : within [.regs, .eng, .stm] T) (x0 : Fin 48) (x1 :
    Word) (x2 : BitVec 24) (x3 : List Byte) (x4 : Bool) (x5 : ℕ) (e : (execSummaryItem x0 x1 x2 x3 x4 x5 s) = .next t) : Keeps T r t :=
    by
  have e' := Host.Outcome.next.inj e
  subst e'
  repeat' (first | with_reducible assumption | with_reducible apply Keeps.summaryItem (w := w.sub (by decide)) | split)

theorem Keeps.bindCommit {T : List Area} {r s : State} (h : Keeps T r s) (w : within [.regs, .stm] T) (x1 : U64) : Keeps T r
    (State.bindCommit s x1) := by
  unfold State.bindCommit
  repeat' (first
    | with_reducible assumption | with_reducible apply Keeps.bindStat (w := w.sub (by decide))
    | with_reducible apply Keeps.setFlag (w := w.sub (by decide))
    | fail_if_no_progress (with_reducible refine Keeps.fields ?_ (by intro p; cases p <;> first | exact .inl (w.mem (by decide)) | exact .inr rfl))
    | lift_lets -underBinder
    | (intro x; first | (refine (have hx : Keeps T r x := ?_; ?_); subst x; swap; clear_value x; swap) | subst x | skip) | split)

theorem Keeps.execBindReadPending {T : List Area} {r s t : State} (h : Keeps T r s) (w : within [.regs, .mod, .aug, .sec] T) (x0 : Path)
    (e : (execBindReadPending x0 s) = .next t) : Keeps T r t := by
  have e' := Host.Outcome.next.inj e
  subst e'
  repeat' (first
    | with_reducible assumption | with_reducible refine Keeps.via ?_ (w.sub (by decide)) _ _ (fun _ _ => ?_)
    | with_reducible apply Keeps.stageEntry (w := w.sub (by decide)))

theorem Keeps.execQuarClearAll {T : List Area} {r s t : State} (h : Keeps T r s) (w : within [.regs, .mod, .aug, .stm, .sec] T) (x0 :
    Path) (e : (execQuarClearAll x0 s) = .next t) : Keeps T r t := by
  have e' := Host.Outcome.next.inj e
  subst e'
  repeat' (first
    | with_reducible assumption | with_reducible refine Keeps.via ?_ (w.sub (by decide)) _ _ (fun _ _ => ?_)
    | fail_if_no_progress (with_reducible refine Keeps.fields ?_ (by intro p; cases p <;> first | exact .inl (w.mem (by decide)) | exact .inr rfl)))

theorem Keeps.execBindCommitHorizon {T : List Area} {r s t : State} (h : Keeps T r s) (w : within [.regs, .stm] T)  (e :
    (execBindCommitHorizon s) = .next t) : Keeps T r t := by
  have e' := Host.Outcome.next.inj e
  subst e'
  repeat' (first | with_reducible assumption | with_reducible apply Keeps.bindCommit (w := w.sub (by decide)) | split)

theorem Keeps.judgeFrame {T : List Area} {r s : State} (h : Keeps T r s) (w : within [.regs, .fast] T) (x1 : PhaseProg) (x2 : ℕ) (x3 :
    ℕ) (x4 : ℕ) (x5 : List Byte) (x6 : Bool) (x7 : Bool) : Keeps T r (State.judgeFrame s x1 x2 x3 x4 x5 x6 x7) := by
  unfold State.judgeFrame
  repeat' (first
    | with_reducible assumption | with_reducible apply Keeps.bump (w := w.sub (by decide))
    | with_reducible apply Keeps.holdArrival (w := w.sub (by decide)) | lift_lets -underBinder
    | (intro x; first | (refine (have hx : Keeps T r x := ?_; ?_); subst x; swap; clear_value x; swap) | subst x | skip) | split)

theorem Keeps.frameItem {T : List Area} {r s : State} (h : Keeps T r s) (w : within [.regs, .mod, .beds, .fast, .eng, .aug, .flt, .stm,
    .dec, .lanes, .svc, .free] T) (x1 : ℕ) (x2 : Word) (x3 : ℕ) (x4 : List Byte) (x5 : Bool) (x6 : Bool) (x7 : ℕ) : Keeps T r
    (State.frameItem s x1 x2 x3 x4 x5 x6 x7) := by
  unfold State.frameItem
  repeat' (first
    | with_reducible assumption | with_reducible apply Keeps.quarantine (w := w.sub (by decide))
    | with_reducible apply Keeps.detect (w := w.sub (by decide)) | with_reducible apply Keeps.judgeFrame (w := w.sub (by decide))
    | with_reducible apply Keeps.bump (w := w.sub (by decide)) | lift_lets -underBinder
    | (intro x; first | (refine (have hx : Keeps T r x := ?_; ?_); subst x; swap; clear_value x; swap) | subst x | skip) | split)

theorem Keeps.execFrameItem {T : List Area} {r s t : State} (h : Keeps T r s) (w : within [.regs, .mod, .beds, .fast, .eng, .aug, .flt,
    .stm, .dec, .lanes, .svc, .free] T) (x0 : Fin 48) (x1 : Word) (x2 : BitVec 24) (x3 : List Byte) (x4 : Bool) (x5 : Bool) (x6 : ℕ) (e
    : (execFrameItem x0 x1 x2 x3 x4 x5 x6 s) = .next t) : Keeps T r t := by
  have e' := Host.Outcome.next.inj e
  subst e'
  repeat' (first | with_reducible assumption | with_reducible apply Keeps.frameItem (w := w.sub (by decide)) | split)

theorem Keeps.execBindCopyActive {T : List Area} {r s t : State} (h : Keeps T r s) (w : within [.regs, .mod, .aug, .stm, .sec] T) (x0 :
    Path) (e : (execBindCopyActive x0 s) = .next t) : Keeps T r t := by
  have e' := Host.Outcome.next.inj e
  subst e'
  repeat' (first
    | with_reducible assumption | with_reducible refine Keeps.via ?_ (w.sub (by decide)) _ _ (fun _ _ => ?_)
    | with_reducible apply Keeps.bindCopy (w := w.sub (by decide)))

theorem Keeps.execBindReadActive {T : List Area} {r s t : State} (h : Keeps T r s) (w : within [.regs, .mod, .aug, .sec] T) (x0 : Path)
    (e : (execBindReadActive x0 s) = .next t) : Keeps T r t := by
  have e' := Host.Outcome.next.inj e
  subst e'
  repeat' (first
    | with_reducible assumption | with_reducible refine Keeps.via ?_ (w.sub (by decide)) _ _ (fun _ _ => ?_)
    | with_reducible apply Keeps.stageEntry (w := w.sub (by decide)))

theorem Keeps.execQuarClearEntry {T : List Area} {r s t : State} (h : Keeps T r s) (w : within [.regs, .mod, .aug, .stm, .sec] T) (x0 :
    Path) (e : (execQuarClearEntry x0 s) = .next t) : Keeps T r t := by
  have e' := Host.Outcome.next.inj e
  subst e'
  repeat' (first
    | with_reducible assumption | with_reducible refine Keeps.via ?_ (w.sub (by decide)) _ _ (fun _ _ => ?_)
    | fail_if_no_progress (with_reducible refine Keeps.fields ?_ (by intro p; cases p <;> first | exact .inl (w.mem (by decide)) | exact .inr rfl)))

end Sys2Proof.Machine
end

