-- ==== Sys2Proof/Laws/KeepsFastOps.lean ====
section
/-!
SUPPORT. Each operation of Machine/FastOps.lean keeps what Laws/Keeps.lean names.
-/
set_option linter.unusedVariables false
set_option linter.unreachableTactic false
set_option linter.unusedTactic false
namespace Sys2Proof.Machine

theorem Keeps.takeBucket {T : List Area} {r s : State} (h : Keeps T r s) (w : within [.eng] T) (x1 : Fin 2) (x2 : Phase) (x3 : ℕ) :
    Keeps T r (State.takeBucket s x1 x2 x3) := by
  unfold State.takeBucket
  repeat' (first
    | with_reducible assumption | with_reducible apply Keeps.setEng (w := w.sub (by decide)) | lift_lets -underBinder
    | (intro x; first | (refine (have hx : Keeps T r x := ?_; ?_); subst x; swap; clear_value x; swap) | subst x | skip) | split)

theorem Keeps.admitOne {T : List Area} {r s : State} (h : Keeps T r s) (w : within [.regs, .fast, .eng, .free] T) (x1 : Fin 2) (x2 :
    PhaseProg) (x3 : Frame) : Keeps T r (State.admitOne s x1 x2 x3) := by
  unfold State.admitOne
  repeat' (first
    | with_reducible assumption | with_reducible apply Keeps.drawNat (w := w.sub (by decide))
    | with_reducible apply Keeps.setEng (w := w.sub (by decide)) | with_reducible apply Keeps.setReg (w := w.sub (by decide))
    | with_reducible apply Keeps.raiseFld (w := w.sub (by decide)) | with_reducible apply Keeps.bump (w := w.sub (by decide))
    | with_reducible apply Keeps.updFrame (w := w.sub (by decide)) | with_reducible apply Keeps.scanQuery (w := w.sub (by decide))
    | with_reducible apply Keeps.setFlag (w := w.sub (by decide)) | lift_lets -underBinder
    | (intro x; first | (refine (have hx : Keeps T r x := ?_; ?_); subst x; swap; clear_value x; swap) | subst x | skip) | split)

theorem Keeps.admitTick {T : List Area} {r s : State} (h : Keeps T r s) (w : within [.regs, .fast, .eng, .free] T) (x1 : Fin 2) (x2 :
    U64) : Keeps T r (State.admitTick s x1 x2) := by
  unfold State.admitTick
  repeat' (first
    | with_reducible assumption | with_reducible apply Keeps.takeBucket (w := w.sub (by decide))
    | with_reducible apply Keeps.setReg (w := w.sub (by decide)) | with_reducible apply Keeps.setEng (w := w.sub (by decide))
    | with_reducible apply Keeps.admitOne (w := w.sub (by decide)) | with_reducible refine Keeps.foldl _ ?_ (fun _ _ _ => ?_) | split)

theorem Keeps.admitUpTo {T : List Area} {r s : State} (h : Keeps T r s) (w : within [.regs, .fast, .eng, .free] T) (x1 : Fin 2) (x2 :
    U64) : Keeps T r (State.admitUpTo s x1 x2) := by
  unfold State.admitUpTo
  repeat' (first
    | with_reducible assumption | with_reducible apply Keeps.admitTick (w := w.sub (by decide))
    | with_reducible refine Keeps.foldl _ ?_ (fun _ _ _ => ?_))

theorem Keeps.partsMissing {T : List Area} {r s : State} (h : Keeps T r s) (w : within [.regs, .fast, .aug] T) (x1 : ℕ) (x2 : ℕ) (x3 :
    U64) (x4 : ℕ) (x5 : ℕ) : Keeps T r (State.partsMissing s x1 x2 x3 x4 x5) := by
  unfold State.partsMissing
  repeat' (first
    | with_reducible assumption | with_reducible apply Keeps.bump (w := w.sub (by decide))
    | with_reducible apply Keeps.writeEventAt (w := w.sub (by decide))
    | fail_if_no_progress (with_reducible refine Keeps.fields ?_ (by intro p; cases p <;> first | exact .inl (w.mem (by decide)) | exact .inr rfl))
    | lift_lets -underBinder
    | (intro x; first | (refine (have hx : Keeps T r x := ?_; ?_); subst x; swap; clear_value x; swap) | subst x | skip) | split)

theorem Keeps.countSub {T : List Area} {r s : State} (h : Keeps T r s) (w : within [.regs] T) (x1 : List ℕ) : Keeps T r (State.countSub
    s x1) := by
  unfold State.countSub
  repeat' (first | with_reducible assumption | with_reducible apply Keeps.bump (w := w.sub (by decide)) | split)

theorem Keeps.formPart {T : List Area} {r s : State} (h : Keeps T r s) (w : within [.ring] T) (x1 : Part) : Keeps T r (State.formPart s
    x1) := by
  unfold State.formPart
  repeat' (first
    | with_reducible assumption | with_reducible apply Keeps.queuePart (w := w.sub (by decide))
    | with_reducible refine Keeps.foldl _ ?_ (fun _ _ _ => ?_)
    | fail_if_no_progress (with_reducible refine Keeps.fields ?_ (by intro p; cases p <;> first | exact .inl (w.mem (by decide)) | exact .inr rfl))
    | split)

theorem Keeps.storeCapture {T : List Area} {r s : State} (h : Keeps T r s) (w : within [.flt] T) (x1 : ℕ) (x2 : Capture) : Keeps T r
    (State.storeCapture s x1 x2) := by
  unfold State.storeCapture
  repeat' (first
    | with_reducible assumption
    | fail_if_no_progress (with_reducible refine Keeps.fields ?_ (by intro p; cases p <;> first | exact .inl (w.mem (by decide)) | exact .inr rfl)))

theorem Keeps.captureEvent {T : List Area} {r s : State} (h : Keeps T r s) (w : within [.regs, .aug] T) (x1 : ℕ) (x2 : Capture) : Keeps
    T r (State.captureEvent s x1 x2) := by
  unfold State.captureEvent
  repeat' (first | with_reducible assumption | with_reducible apply Keeps.writePair (w := w.sub (by decide)))

theorem Keeps.disagreement {T : List Area} {r s : State} (h : Keeps T r s) (w : within [.regs, .mod, .beds, .fast, .eng, .aug, .flt,
    .dec, .lanes, .svc, .free] T) (x1 : ℕ) (x2 : Capture) : Keeps T r (State.disagreement s x1 x2) := by
  unfold State.disagreement
  repeat' (first
    | with_reducible assumption | with_reducible apply Keeps.bump (w := w.sub (by decide))
    | with_reducible apply Keeps.writeEventAt (w := w.sub (by decide)) | with_reducible apply Keeps.storeCapture (w := w.sub (by decide))
    | with_reducible apply Keeps.captureEvent (w := w.sub (by decide)) | with_reducible apply Keeps.detect (w := w.sub (by decide))
    | with_reducible apply Keeps.showTesting (w := w.sub (by decide))
    | fail_if_no_progress (with_reducible refine Keeps.fields ?_ (by intro p; cases p <;> first | exact .inl (w.mem (by decide)) | exact .inr rfl))
    | lift_lets -underBinder
    | (intro x; first | (refine (have hx : Keeps T r x := ?_; ?_); subst x; swap; clear_value x; swap) | subst x | skip) | split)

theorem Keeps.lateAt {T : List Area} {r s : State} (h : Keeps T r s) (w : within [.regs, .eng, .aug] T) (x1 : Fin 2) (x2 : U64) : Keeps
    T r (State.lateAt s x1 x2) := by
  unfold State.lateAt
  repeat' (first
    | with_reducible assumption | with_reducible apply Keeps.flushLate (w := w.sub (by decide))
    | with_reducible apply Keeps.setEng (w := w.sub (by decide)) | with_reducible apply Keeps.setFlag (w := w.sub (by decide))
    | with_reducible apply Keeps.bump (w := w.sub (by decide)) | lift_lets -underBinder | split)

theorem Keeps.serveTick {T : List Area} {r s : State} (h : Keeps T r s) (w : within [.regs, .fast, .eng, .free] T) (x1 : Fin 2) (x2 :
    U64) : Keeps T r (State.serveTick s x1 x2) := by
  unfold State.serveTick
  repeat' (first
    | with_reducible assumption | with_reducible apply Keeps.admitUpTo (w := w.sub (by decide))
    | with_reducible apply Keeps.admitTick (w := w.sub (by decide)) | lift_lets -underBinder
    | (intro x; first | (refine (have hx : Keeps T r x := ?_; ?_); subst x; swap; clear_value x; swap) | subst x | skip) | split)

end Sys2Proof.Machine
end

