-- ==== Sys2Proof/Laws/KeepsFast.lean ====
section
/-!
SUPPORT. Each operation of Machine/Fast.lean keeps what Laws/Keeps.lean names.
-/
set_option linter.unusedVariables false
set_option linter.unreachableTactic false
set_option linter.unusedTactic false
namespace Sys2Proof.Machine

theorem Keeps.bedSat {T : List Area} {r s : State} (h : Keeps T r s) (w : within [.regs] T) (x1 : Fin 4) (x2 : ℕ) : Keeps T r
    (State.bedSat s x1 x2) := by
  unfold State.bedSat
  repeat' (first
    | with_reducible assumption | with_reducible apply Keeps.setFlag (w := w.sub (by decide))
    | with_reducible apply Keeps.bumpBy (w := w.sub (by decide)) | split)

theorem Keeps.mergeGroup {T : List Area} {r s : State} (h : Keeps T r s) (w : within [.regs, .fast, .aug, .dec, .ring] T) (x1 :
    PhaseProg) (x2 : List CascSpan) (x3 : ℕ) (x4 : ℕ) (x5 : U64) : Keeps T r (State.mergeGroup s x1 x2 x3 x4 x5) := by
  unfold State.mergeGroup
  repeat' (first
    | with_reducible assumption | with_reducible apply Keeps.bedSat (w := w.sub (by decide))
    | with_reducible apply Keeps.partsMissing (w := w.sub (by decide)) | with_reducible apply Keeps.countSub (w := w.sub (by decide))
    | with_reducible apply Keeps.checkTail (w := w.sub (by decide)) | with_reducible refine Keeps.foldl _ ?_ (fun _ _ _ => ?_)
    | fail_if_no_progress (with_reducible refine Keeps.fields ?_ (by intro p; cases p <;> first | exact .inl (w.mem (by decide)) | exact .inr rfl))
    | lift_lets -underBinder | split)

theorem Keeps.exitParts {T : List Area} {r s : State} (h : Keeps T r s) (w : within [.regs, .ring] T) (x1 : PhaseProg) (x2 : Frame) :
    Keeps T r (State.exitParts s x1 x2) := by
  unfold State.exitParts
  repeat' (first
    | with_reducible assumption | with_reducible apply Keeps.formPart (w := w.sub (by decide))
    | with_reducible apply Keeps.bedSat (w := w.sub (by decide)) | with_reducible refine Keeps.foldl _ ?_ (fun _ _ _ => ?_)
    | lift_lets -underBinder
    | (intro x; first | (refine (have hx : Keeps T r x := ?_; ?_); subst x; swap; clear_value x; swap) | subst x | skip) | split)

theorem Keeps.entryPlan {T : List Area} {r s : State} (h : Keeps T r s) (w : within [.regs, .fast] T) (x1 : SlotProg) (x2 : ℕ) (x3 :
    Option Arrived) : Keeps T r (State.entryPlan s x1 x2 x3).2 := by
  unfold State.entryPlan
  repeat' (first
    | with_reducible assumption | with_reducible apply Keeps.bump (w := w.sub (by decide))
    | with_reducible apply Keeps.bumpBy (w := w.sub (by decide))
    | fail_if_no_progress (with_reducible refine Keeps.fields ?_ (by intro p; cases p <;> first | exact .inl (w.mem (by decide)) | exact .inr rfl))
    | lift_lets -underBinder
    | (intro x; first | (refine (have hx : Keeps T r x := ?_; ?_); subst x; swap; clear_value x; swap) | subst x | skip) | split)

theorem Keeps.contextFor {T : List Area} {r s : State} (h : Keeps T r s) (w : within [.regs, .eng, .aug] T) (x1 : PhaseProg) (x2 : ℕ)
    (x3 : ℕ) (x4 : U64) (x5 : List (Fin 4)) : Keeps T r (State.contextFor s x1 x2 x3 x4 x5).2 := by
  unfold State.contextFor
  repeat' (first
    | with_reducible assumption | with_reducible apply Keeps.lateAt (w := w.sub (by decide))
    | with_reducible apply Keeps.setFld (w := w.sub (by decide)) | with_reducible refine Keeps.foldl _ ?_ (fun _ _ _ => ?_)
    | lift_lets -underBinder
    | (intro x; first | (refine (have hx : Keeps T r x := ?_; ?_); subst x; swap; clear_value x; swap) | subst x | skip) | split)

theorem Keeps.bankCorrected {T : List Area} {r s : State} (h : Keeps T r s) (w : within [.regs] T) (x1 : Word) : Keeps T r
    (State.bankCorrected s x1) := by
  unfold State.bankCorrected
  repeat' (first
    | with_reducible assumption | with_reducible apply Keeps.setFlag (w := w.sub (by decide))
    | with_reducible apply Keeps.bump (w := w.sub (by decide)) | lift_lets -underBinder
    | (intro x; first | (refine (have hx : Keeps T r x := ?_; ?_); subst x; swap; clear_value x; swap) | subst x | skip) | split)

theorem Keeps.touchHeld {T : List Area} {r s : State} (h : Keeps T r s) (w : within [.fast] T) (x1 : UnitError) : Keeps T r
    (State.touchHeld s x1) := by
  unfold State.touchHeld
  repeat' (first
    | with_reducible assumption
    | fail_if_no_progress (with_reducible refine Keeps.fields ?_ (by intro p; cases p <;> first | exact .inl (w.mem (by decide)) | exact .inr rfl)))

theorem Keeps.frameError {T : List Area} {r s : State} (h : Keeps T r s) (w : within [.regs, .mod, .beds, .fast, .eng, .aug, .flt, .dec,
    .lanes, .svc, .free] T) (x1 : ℕ) (x2 : ℕ) (x3 : U64) (x4 : UnitError) : Keeps T r (State.frameError s x1 x2 x3 x4) := by
  unfold State.frameError
  repeat' (first
    | with_reducible assumption | with_reducible apply Keeps.bankCorrected (w := w.sub (by decide))
    | with_reducible apply Keeps.detect (w := w.sub (by decide)) | with_reducible apply Keeps.updFrame (w := w.sub (by decide))
    | with_reducible apply Keeps.touchHeld (w := w.sub (by decide)) | lift_lets -underBinder
    | (intro x; first | (refine (have hx : Keeps T r x := ?_; ?_); subst x; swap; clear_value x; swap) | subst x | skip) | split)

theorem Keeps.enterFrame {T : List Area} {r s : State} (h : Keeps T r s) (w : within [.regs, .mod, .beds, .fast, .eng, .aug, .flt, .dec,
    .lanes, .svc, .free] T) (x1 : PastProg) (x2 : PhaseProg) (x3 : SlotProg) (x4 : ℕ) (x5 : ℕ) (x6 : U64) (x7 : List UnitError) : Keeps
    T r (State.enterFrame s x1 x2 x3 x4 x5 x6 x7) := by
  unfold State.enterFrame
  repeat' (first
    | with_reducible assumption | with_reducible apply Keeps.entryPlan (w := w.sub (by decide))
    | with_reducible apply Keeps.contextFor (w := w.sub (by decide)) | with_reducible apply Keeps.bedSat (w := w.sub (by decide))
    | with_reducible apply Keeps.bump64 (w := w.sub (by decide)) | with_reducible apply Keeps.setBed (w := w.sub (by decide))
    | with_reducible apply Keeps.bump (w := w.sub (by decide)) | with_reducible apply Keeps.frameError (w := w.sub (by decide))
    | with_reducible refine Keeps.foldl _ ?_ (fun _ _ _ => ?_)
    | fail_if_no_progress (with_reducible refine Keeps.fields ?_ (by intro p; cases p <;> first | exact .inl (w.mem (by decide)) | exact .inr rfl))
    | lift_lets -underBinder
    | (intro x; first | (refine (have hx : Keeps T r x := ?_; ?_); subst x; swap; clear_value x; swap) | subst x | skip) | split)

theorem Keeps.execFrameEntry {T : List Area} {r s t : State} (h : Keeps T r s) (w : within [.regs, .mod, .beds, .fast, .eng, .aug, .flt,
    .dec, .lanes, .svc, .free] T) (x0 : Fin 4) (x1 : Fin 64) (x2 : U64) (x3 : List UnitError) (e : (execFrameEntry x0 x1 x2 x3 s) =
    .next t) : Keeps T r t := by
  have e' := Host.Outcome.next.inj e
  subst e'
  repeat' (first
    | with_reducible assumption | with_reducible apply Keeps.enterFrame (w := w.sub (by decide)) | lift_lets -underBinder
    | (intro x; first | (refine (have hx : Keeps T r x := ?_; ?_); subst x; swap; clear_value x; swap) | subst x | skip) | split)

theorem Keeps.ringEntry {T : List Area} {r s : State} (h : Keeps T r s) (w : within [.regs, .eng, .aug, .hst] T) (x1 : PastProg) (x2 :
    ℕ) (x3 : ℕ) (x4 : U64) (x5 : StreamEntry) : Keeps T r (State.ringEntry s x1 x2 x3 x4 x5) := by
  unfold State.ringEntry
  repeat' (first
    | with_reducible assumption | with_reducible apply Keeps.writeStreamEntry (w := w.sub (by decide))
    | with_reducible refine Keeps.foldl _ ?_ (fun _ _ _ => ?_) | lift_lets -underBinder
    | (intro x; first | (refine (have hx : Keeps T r x := ?_; ?_); subst x; swap; clear_value x; swap) | subst x | skip) | split)

theorem Keeps.execStreamRingEntryWrite {T : List Area} {r s t : State} (h : Keeps T r s) (w : within [.regs, .fast, .eng, .aug, .hst] T)
    (x0 : Fin 4) (x1 : Fin 64) (x2 : U64) (e : (execStreamRingEntryWrite x0 x1 x2 s) = .next t) : Keeps T r t := by
  have e' := Host.Outcome.next.inj e
  subst e'
  repeat' (first
    | with_reducible assumption | with_reducible apply Keeps.ringEntry (w := w.sub (by decide))
    | with_reducible apply Keeps.purge (w := w.sub (by decide)) | with_reducible apply Keeps.updFrame (w := w.sub (by decide))
    | lift_lets -underBinder
    | (intro x; first | (refine (have hx : Keeps T r x := ?_; ?_); subst x; swap; clear_value x; swap) | subst x | skip) | split)

theorem Keeps.bridgeTouch {T : List Area} {r s : State} (h : Keeps T r s) (w : within [.fast] T) (x1 : PhaseProg) (x2 : Frame) : Keeps T
    r (State.bridgeTouch s x1 x2) := by
  unfold State.bridgeTouch
  repeat' (first | with_reducible assumption | with_reducible apply Keeps.updFrame (w := w.sub (by decide)))

theorem Keeps.exitErrors {T : List Area} {r s : State} (h : Keeps T r s) (w : within [.regs, .mod, .beds, .fast, .eng, .aug, .flt, .dec,
    .lanes, .svc, .free] T) (x1 : PhaseProg) (x2 : Frame) (x3 : List UnitError) : Keeps T r (State.exitErrors s x1 x2 x3) := by
  unfold State.exitErrors
  repeat' (first
    | with_reducible assumption | with_reducible apply Keeps.frameError (w := w.sub (by decide))
    | with_reducible apply Keeps.bridgeTouch (w := w.sub (by decide)) | with_reducible refine Keeps.foldl _ ?_ (fun _ _ _ => ?_))

theorem Keeps.deepen {T : List Area} {r s : State} (h : Keeps T r s) (w : within [.regs, .fast, .aug, .ring] T) (x1 : CascSpan) (x2 : ℕ)
    (x3 : ℕ) (x4 : U64) : Keeps T r (State.deepen s x1 x2 x3 x4) := by
  unfold State.deepen
  repeat' (first
    | with_reducible assumption | with_reducible apply Keeps.partsMissing (w := w.sub (by decide))
    | fail_if_no_progress (with_reducible refine Keeps.fields ?_ (by intro p; cases p <;> first | exact .inl (w.mem (by decide)) | exact .inr rfl))
    | split)

theorem Keeps.execCombiningSlot {T : List Area} {r s t : State} (h : Keeps T r s) (w : within [.regs, .fast, .aug, .dec, .ring] T) (x0 :
    Fin 4) (x1 : Fin 64) (x2 : U64) (e : (execCombiningSlot x0 x1 x2 s) = .next t) : Keeps T r t := by
  have e' := Host.Outcome.next.inj e
  subst e'
  repeat' (first
    | with_reducible assumption | with_reducible apply Keeps.deepen (w := w.sub (by decide))
    | with_reducible apply Keeps.mergeGroup (w := w.sub (by decide)) | lift_lets -underBinder
    | (intro x; first | (refine (have hx : Keeps T r x := ?_; ?_); subst x; swap; clear_value x; swap) | subst x | skip) | split)

theorem Keeps.outputVerdict {T : List Area} {r s : State} (h : Keeps T r s) (w : within [.regs, .fast, .dec] T) (x1 : PhaseProg) (x2 :
    Frame) (x3 : Bool) (x4 : List ℕ) : Keeps T r (State.outputVerdict s x1 x2 x3 x4) := by
  unfold State.outputVerdict
  repeat' (first
    | with_reducible assumption | with_reducible apply Keeps.bump64 (w := w.sub (by decide))
    | with_reducible apply Keeps.updFrame (w := w.sub (by decide)) | with_reducible apply Keeps.purge (w := w.sub (by decide))
    | fail_if_no_progress (with_reducible refine Keeps.fields ?_ (by intro p; cases p <;> first | exact .inl (w.mem (by decide)) | exact .inr rfl)))

theorem Keeps.execVerdictOutput {T : List Area} {r s t : State} (h : Keeps T r s) (w : within [.regs, .fast, .dec] T) (x0 : Fin 4) (x1 :
    Fin 64) (x2 : U64) (x3 : Bool) (x4 : List ℕ) (e : (execVerdictOutput x0 x1 x2 x3 x4 s) = .next t) : Keeps T r t := by
  have e' := Host.Outcome.next.inj e
  subst e'
  repeat' (first
    | with_reducible assumption | with_reducible apply Keeps.outputVerdict (w := w.sub (by decide)) | lift_lets -underBinder
    | (intro x; first | (refine (have hx : Keeps T r x := ?_; ?_); subst x; swap; clear_value x; swap) | subst x | skip) | split)

theorem Keeps.sendSpans {T : List Area} {r s : State} (h : Keeps T r s) (w : within [.fast] T) (x1 : PhaseProg) (x2 : Frame) (x3 : List
    (CopyRun × BedCopy × Option ℕ)) : Keeps T r (State.sendSpans s x1 x2 x3) := by
  unfold State.sendSpans
  repeat' (first
    | with_reducible assumption
    | fail_if_no_progress (with_reducible refine Keeps.fields ?_ (by intro p; cases p <;> first | exact .inl (w.mem (by decide)) | exact .inr rfl)))

theorem Keeps.openSettled {T : List Area} {r s : State} (h : Keeps T r s) (w : within [.fast, .eng] T) (x1 : PhaseProg) (x2 : Frame) :
    Keeps T r (State.openSettled s x1 x2) := by
  unfold State.openSettled
  repeat' (first
    | with_reducible assumption | with_reducible apply Keeps.updFrame (w := w.sub (by decide))
    | with_reducible apply Keeps.setEng (w := w.sub (by decide)) | with_reducible refine Keeps.foldl _ ?_ (fun _ _ _ => ?_)
    | lift_lets -underBinder
    | (intro x; first | (refine (have hx : Keeps T r x := ?_; ?_); subst x; swap; clear_value x; swap) | subst x | skip) | split)

theorem Keeps.exitBed {T : List Area} {r s : State} (h : Keeps T r s) (w : within [.regs, .mod, .beds, .fast, .eng, .aug, .flt, .dec,
    .lanes, .ring, .lck, .svc, .free] T) (x1 : PhaseProg) (x2 : Frame) (x3 : List UnitError) : Keeps T r (State.exitBed s x1 x2 x3) :=
    by
  unfold State.exitBed
  repeat' (first
    | with_reducible assumption | with_reducible apply Keeps.exitErrors (w := w.sub (by decide))
    | with_reducible apply Keeps.partsMissing (w := w.sub (by decide)) | with_reducible apply Keeps.bumpBy (w := w.sub (by decide))
    | with_reducible apply Keeps.bedSat (w := w.sub (by decide)) | with_reducible apply Keeps.bump (w := w.sub (by decide))
    | with_reducible apply Keeps.setFlag (w := w.sub (by decide)) | with_reducible apply Keeps.countSub (w := w.sub (by decide))
    | with_reducible apply Keeps.updFrame (w := w.sub (by decide)) | with_reducible apply Keeps.sendSpans (w := w.sub (by decide))
    | with_reducible apply Keeps.disagreement (w := w.sub (by decide)) | with_reducible apply Keeps.formResult (w := w.sub (by decide))
    | with_reducible apply Keeps.exitParts (w := w.sub (by decide)) | with_reducible apply Keeps.openSettled (w := w.sub (by decide))
    | with_reducible apply Keeps.serveTick (w := w.sub (by decide)) | with_reducible apply Keeps.checkTail (w := w.sub (by decide))
    | with_reducible refine Keeps.foldl _ ?_ (fun _ _ _ => ?_) | lift_lets -underBinder
    | (intro x; first | (refine (have hx : Keeps T r x := ?_; ?_); subst x; swap; clear_value x; swap) | subst x | skip) | split)

theorem Keeps.execBedExit {T : List Area} {r s t : State} (h : Keeps T r s) (w : within [.regs, .mod, .beds, .fast, .eng, .aug, .flt,
    .dec, .lanes, .ring, .lck, .svc, .free] T) (x0 : Fin 4) (x1 : Fin 64) (x2 : U64) (x3 : List UnitError) (e : (execBedExit x0 x1 x2 x3
    s) = .next t) : Keeps T r t := by
  have e' := Host.Outcome.next.inj e
  subst e'
  repeat' (first | with_reducible assumption | with_reducible apply Keeps.exitBed (w := w.sub (by decide)) | split)

end Sys2Proof.Machine
end

