-- ==== Sys2Proof/Laws/KeepsSilt.lean ====
section
/-!
SUPPORT. Each operation of Machine/Silt.lean keeps what Laws/Keeps.lean names.
-/
set_option linter.unusedVariables false
set_option linter.unreachableTactic false
set_option linter.unusedTactic false
namespace Sys2Proof.Machine

theorem Keeps.siltWord {T : List Area} {r s : State} (h : Keeps T r s) (w : within [.free] T) (x1 : Fin 2) (x2 : ℕ) (x3 : ℕ) : Keeps T r
    (State.siltWord s x1 x2 x3).2 := by
  unfold State.siltWord
  repeat' (first | with_reducible assumption | with_reducible apply Keeps.drawBytes (w := w.sub (by decide)))

theorem Keeps.siltAccess {T : List Area} {r s : State} (h : Keeps T r s) (w : within [.regs, .eng, .free] T) (x1 : Fin 2) (x2 : ℕ) (x3 :
    ℕ) (x4 : SiltAccess) : Keeps T r (State.siltAccess s x1 x2 x3 x4).2.2 := by
  unfold State.siltAccess
  repeat' (first
    | with_reducible assumption | with_reducible apply Keeps.siltWord (w := w.sub (by decide))
    | with_reducible apply Keeps.setEng (w := w.sub (by decide)) | with_reducible apply Keeps.bumpBy (w := w.sub (by decide))
    | lift_lets -underBinder
    | (intro x; first | (refine (have hx : Keeps T r x := ?_; ?_); subst x; swap; clear_value x; swap) | subst x | skip) | split)

theorem Keeps.port1 {T : List Area} {r s : State} (h : Keeps T r s) (w : within [.eng, .free] T) (x1 : Fin 2) (x2 : ℕ) (x3 : ℕ) (x4 :
    Option (List Word)) : Keeps T r (State.port1 s x1 x2 x3 x4) := by
  unfold State.port1
  repeat' (first
    | with_reducible assumption | with_reducible apply Keeps.setEng (w := w.sub (by decide))
    | with_reducible apply Keeps.siltWord (w := w.sub (by decide)) | split)

end Sys2Proof.Machine
end

