-- ==== Sys2Proof/Laws/KeepsLoess.lean ====
section
/-!
SUPPORT. Each operation of Machine/Loess.lean keeps what Laws/Keeps.lean names.
-/
set_option linter.unusedVariables false
set_option linter.unreachableTactic false
set_option linter.unusedTactic false
namespace Sys2Proof.Machine

theorem Keeps.foldlPair {α : Type} {T : List Area} {r : State} {f : Nat × State → α → Nat × State} (l : List α) {a : Nat × State}
    (h : Keeps T r a.2) (hf : ∀ b x, Keeps T r b.2 → Keeps T r (f b x).2) : Keeps T r (l.foldl f a).2 := by
  induction l generalizing a with
  | nil => exact h
  | cons x l ih => exact ih (hf a x h)

theorem Keeps.runLanes {T : List Area} {r s : State} (h : Keeps T r s) (w : within [.regs, .eng, .free] T) (x1 : Fin 2) (x2 : LoessRun)
    (x3 : List (List LaneAccess)) : Keeps T r (State.runLanes s x1 x2 x3).2 :=
  Keeps.foldlPair _ h fun _ _ h => Keeps.foldlPair _ h fun _ _ h => Keeps.siltAccess h (w.sub rfl) _ _ _ _

theorem Keeps.runSilt {T : List Area} {r s : State} (h : Keeps T r s) (w : within [.regs, .eng, .free] T) (x1 : Fin 2) (x2 :
    LoessSection) (x3 : LoessRun) (x4 : List (List LaneAccess)) : Keeps T r (State.runSilt s x1 x2 x3 x4).2 := by
  unfold State.runSilt
  repeat' (first
    | with_reducible assumption | with_reducible apply Keeps.setEng (w := w.sub (by decide))
    | with_reducible apply Keeps.runLanes (w := w.sub (by decide)))

theorem Keeps.evalQuery {T : List Area} {r s : State} (h : Keeps T r s) (w : within [.regs, .eng, .free] T) (x1 : Fin 2) (x2 :
    PhaseProg) (x3 : QueryKind) (x4 : Query) : Keeps T r (State.evalQuery s x1 x2 x3 x4).2.2 := by
  unfold State.evalQuery
  repeat' (first
    | with_reducible assumption | with_reducible apply Keeps.advanceRecurs (w := w.sub (by decide))
    | with_reducible apply Keeps.runSilt (w := w.sub (by decide)) | with_reducible apply Keeps.countSat (w := w.sub (by decide)))

theorem Keeps.requestLoose {T : List Area} {r s : State} (h : Keeps T r s) (w : within [.regs] T) (x1 : Bool) : Keeps T r
    (State.requestLoose s x1) := by
  unfold State.requestLoose
  repeat' (first | with_reducible assumption | with_reducible apply Keeps.setFlag (w := w.sub (by decide)) | split)

theorem Keeps.queueBulk {T : List Area} {r s : State} (h : Keeps T r s) (w : within [.hst] T) (x1 : ℕ) (x2 : U64) (x3 : ℕ) (x4 : ℕ) (x5
    : List Byte) : Keeps T r (State.queueBulk s x1 x2 x3 x4 x5) := by
  unfold State.queueBulk
  repeat' (first
    | with_reducible assumption
    | fail_if_no_progress (with_reducible refine Keeps.fields ?_ (by intro p; cases p <;> first | exact .inl (w.mem (by decide)) | exact .inr rfl)))

theorem Keeps.exportStaged {T : List Area} {r s : State} (h : Keeps T r s) (w : within [.eng, .hst] T) (x1 : Fin 2) (x2 : Staged) :
    Keeps T r (State.exportStaged s x1 x2) := by
  unfold State.exportStaged
  repeat' (first
    | with_reducible assumption | with_reducible apply Keeps.queueBulk (w := w.sub (by decide))
    | with_reducible apply Keeps.queueBlocks (w := w.sub (by decide)))

theorem Keeps.resetEngine {T : List Area} {r s : State} (h : Keeps T r s) (w : within [.regs, .fast, .eng, .aug, .free] T) (x1 : Fin 2)
    : Keeps T r (State.resetEngine s x1) := by
  unfold State.resetEngine
  repeat' (first
    | with_reducible assumption | with_reducible apply Keeps.admitUpTo (w := w.sub (by decide))
    | with_reducible apply Keeps.setFld (w := w.sub (by decide)) | with_reducible apply Keeps.setEng (w := w.sub (by decide))
    | with_reducible apply Keeps.writeEvent (w := w.sub (by decide)) | with_reducible apply Keeps.flushLate (w := w.sub (by decide))
    | with_reducible apply Keeps.announceRestart (w := w.sub (by decide)) | lift_lets -underBinder
    | (intro x; first | (refine (have hx : Keeps T r x := ?_; ?_); subst x; swap; clear_value x; swap) | subst x | skip) | split)

theorem Keeps.execWarmingStart {T : List Area} {r s t : State} (h : Keeps T r s) (w : within [.regs, .eng] T) (x0 : Fin 2) (e :
    (execWarmingStart x0 s) = .next t) : Keeps T r t := by
  have e' := Host.Outcome.next.inj e
  subst e'
  repeat' (first
    | with_reducible assumption | with_reducible apply Keeps.showEngine (w := w.sub (by decide))
    | with_reducible apply Keeps.setEng (w := w.sub (by decide)) | split)

theorem Keeps.showStaged {T : List Area} {r s : State} (h : Keeps T r s) (w : within [.regs] T) (x1 : Fin 2) : Keeps T r
    (State.showStaged s x1) := by
  unfold State.showStaged
  repeat' (first | with_reducible assumption | with_reducible apply Keeps.setFld (w := w.sub (by decide)))

theorem Keeps.spill {T : List Area} {r s : State} (h : Keeps T r s) (w : within [.regs, .eng, .aug, .hst] T) (x1 : Fin 2) (x2 : Bool)
    (x3 : ℕ) (x4 : U64) (x5 : Bool) : Keeps T r (State.spill s x1 x2 x3 x4 x5) := by
  unfold State.spill
  repeat' (first
    | with_reducible assumption | with_reducible apply Keeps.setEng (w := w.sub (by decide))
    | with_reducible apply Keeps.bump64 (w := w.sub (by decide)) | with_reducible apply Keeps.queueBlocks (w := w.sub (by decide))
    | with_reducible apply Keeps.queueBulk (w := w.sub (by decide)) | with_reducible apply Keeps.rewriteUnit (w := w.sub (by decide))
    | lift_lets -underBinder
    | (intro x; first | (refine (have hx : Keeps T r x := ?_; ?_); subst x; swap; clear_value x; swap) | subst x | skip) | split)

theorem Keeps.execSpillUnit {T : List Area} {r s t : State} (h : Keeps T r s) (w : within [.regs, .eng, .aug, .hst] T) (x0 : Fin 2) (x1
    : Bool) (x2 : Fin 256) (x3 : U64) (x4 : Bool) (e : (execSpillUnit x0 x1 x2 x3 x4 s) = .next t) : Keeps T r t := by
  have e' := Host.Outcome.next.inj e
  subst e'
  repeat' (first | with_reducible assumption | with_reducible apply Keeps.spill (w := w.sub (by decide)) | split)

theorem Keeps.endWarming {T : List Area} {r s : State} (h : Keeps T r s) (w : within [.regs, .eng, .aug] T) (x1 : Fin 2) : Keeps T r
    (State.endWarming s x1) := by
  unfold State.endWarming
  repeat' (first
    | with_reducible assumption | with_reducible apply Keeps.setEng (w := w.sub (by decide))
    | with_reducible apply Keeps.setReg (w := w.sub (by decide)) | with_reducible apply Keeps.setReg64 (w := w.sub (by decide))
    | with_reducible apply Keeps.setFlag (w := w.sub (by decide)) | with_reducible apply Keeps.writeEventAt (w := w.sub (by decide))
    | with_reducible apply Keeps.showEngine (w := w.sub (by decide)))

theorem Keeps.settledLate {T : List Area} {r s : State} (h : Keeps T r s) (w : within [.regs, .aug] T) (x1 : Frame) (x2 : List (Fin 2))
    : Keeps T r (State.settledLate s x1 x2) := by
  unfold State.settledLate
  repeat' (first
    | with_reducible assumption | with_reducible apply Keeps.setFlag (w := w.sub (by decide))
    | with_reducible apply Keeps.bump (w := w.sub (by decide)) | with_reducible apply Keeps.writeEventAt (w := w.sub (by decide))
    | with_reducible refine Keeps.foldl _ ?_ (fun _ _ _ => ?_) | lift_lets -underBinder
    | (intro x; first | (refine (have hx : Keeps T r x := ?_; ?_); subst x; swap; clear_value x; swap) | subst x | skip) | split)

theorem Keeps.settle {T : List Area} {r s : State} (h : Keeps T r s) (w : within [.regs, .fast, .aug, .dec, .lck] T) (x1 : Frame) (x2 :
    Verdict) (x3 : List ℕ) (x4 : Bool) (x5 : Bool) : Keeps T r (State.settle s x1 x2 x3 x4 x5) := by
  unfold State.settle
  repeat' (first
    | with_reducible assumption | with_reducible apply Keeps.countSub (w := w.sub (by decide))
    | with_reducible apply Keeps.updFrame (w := w.sub (by decide)) | with_reducible apply Keeps.checkTail (w := w.sub (by decide))
    | with_reducible apply Keeps.formResult (w := w.sub (by decide)) | lift_lets -underBinder
    | (intro x; first | (refine (have hx : Keeps T r x := ?_; ?_); subst x; swap; clear_value x; swap) | subst x | skip) | split)

theorem Keeps.dropQueries {T : List Area} {r s : State} (h : Keeps T r s) (w : within [.eng] T) (x1 : Fin 2) (x2 : Phase) : Keeps T r
    (State.dropQueries s x1 x2) := by
  unfold State.dropQueries
  repeat' (first | with_reducible assumption | with_reducible apply Keeps.setEng (w := w.sub (by decide)))

theorem Keeps.releaseQuery {T : List Area} {r s : State} (h : Keeps T r s) (w : within [.regs, .mod, .beds, .fast, .eng, .aug, .flt,
    .dec, .lanes, .lck, .svc, .free] T) (x1 : PhaseProg) (x2 : Frame) (x3 : QueryKind) : Keeps T r (State.releaseQuery s x1 x2 x3) := by
  unfold State.releaseQuery
  repeat' (first
    | with_reducible assumption | with_reducible apply Keeps.admitUpTo (w := w.sub (by decide))
    | with_reducible apply Keeps.settledLate (w := w.sub (by decide)) | with_reducible apply Keeps.settle (w := w.sub (by decide))
    | with_reducible apply Keeps.bump (w := w.sub (by decide)) | with_reducible apply Keeps.setFlag (w := w.sub (by decide))
    | with_reducible apply Keeps.disagreement (w := w.sub (by decide)) | with_reducible apply Keeps.dropQueries (w := w.sub (by decide))
    | with_reducible refine Keeps.foldl _ ?_ (fun _ _ _ => ?_) | lift_lets -underBinder
    | (intro x; first | (refine (have hx : Keeps T r x := ?_; ?_); subst x; swap; clear_value x; swap) | subst x | skip) | split)

theorem Keeps.mirrorSlab {T : List Area} {r s : State} (h : Keeps T r s) (w : within [.regs, .eng, .aug, .hst] T) (x1 : Fin 2) (x2 : ℕ)
    (x3 : ℕ) (x4 : List Byte) : Keeps T r (State.mirrorSlab s x1 x2 x3 x4) := by
  unfold State.mirrorSlab
  repeat' (first
    | with_reducible assumption | with_reducible apply Keeps.setFlag (w := w.sub (by decide))
    | with_reducible apply Keeps.bump (w := w.sub (by decide)) | with_reducible apply Keeps.writeEvent (w := w.sub (by decide))
    | with_reducible apply Keeps.setEng (w := w.sub (by decide)) | with_reducible apply Keeps.queueBlocks (w := w.sub (by decide))
    | with_reducible apply Keeps.queueBulk (w := w.sub (by decide))
    | fail_if_no_progress (with_reducible refine Keeps.fields ?_ (by intro p; cases p <;> first | exact .inl (w.mem (by decide)) | exact .inr rfl))
    | lift_lets -underBinder | split)

theorem Keeps.closeSlab {T : List Area} {r s : State} (h : Keeps T r s) (w : within [.regs, .eng, .aug, .hst] T) (x1 : Fin 2) (x2 :
    ChanGroup) (x3 : ℕ) (x4 : ℕ) : Keeps T r (State.closeSlab s x1 x2 x3 x4) := by
  unfold State.closeSlab
  repeat' (first
    | with_reducible assumption | with_reducible apply Keeps.setEng (w := w.sub (by decide))
    | with_reducible apply Keeps.bumpBy (w := w.sub (by decide)) | with_reducible apply Keeps.writeSlab (w := w.sub (by decide))
    | with_reducible apply Keeps.mirrorSlab (w := w.sub (by decide)) | lift_lets -underBinder
    | (intro x; first | (refine (have hx : Keeps T r x := ?_; ?_); subst x; swap; clear_value x; swap) | subst x | skip) | split)

theorem Keeps.execSlabClose {T : List Area} {r s t : State} (h : Keeps T r s) (w : within [.regs, .eng, .aug, .hst] T) (x0 : Fin 2) (x1
    : Fin 256) (x2 : U64) (e : (execSlabClose x0 x1 x2 s) = .next t) : Keeps T r t := by
  have e' := Host.Outcome.next.inj e
  subst e'
  repeat' (first
    | with_reducible assumption | with_reducible apply Keeps.closeSlab (w := w.sub (by decide)) | lift_lets -underBinder
    | (intro x; first | (refine (have hx : Keeps T r x := ?_; ?_); subst x; swap; clear_value x; swap) | subst x | skip) | split)

theorem Keeps.startCheckpoint {T : List Area} {r s : State} (h : Keeps T r s) (w : within [.regs, .eng, .aug] T) (x1 : Fin 2) : Keeps T
    r (State.startCheckpoint s x1) := by
  unfold State.startCheckpoint
  repeat' (first
    | with_reducible assumption | with_reducible apply Keeps.setEng (w := w.sub (by decide))
    | with_reducible apply Keeps.writeEventAt (w := w.sub (by decide)) | with_reducible apply Keeps.setFld (w := w.sub (by decide))
    | lift_lets -underBinder
    | (intro x; first | (refine (have hx : Keeps T r x := ?_; ?_); subst x; swap; clear_value x; swap) | subst x | skip) | split)

theorem Keeps.execCheckpointHorizon {T : List Area} {r s t : State} (h : Keeps T r s) (w : within [.regs, .eng, .aug] T) (x0 : Fin 2) (e
    : (execCheckpointHorizon x0 s) = .next t) : Keeps T r t := by
  have e' := Host.Outcome.next.inj e
  subst e'
  repeat' (first | with_reducible assumption | with_reducible apply Keeps.startCheckpoint (w := w.sub (by decide)) | split)

theorem Keeps.refreshBank {T : List Area} {r s : State} (h : Keeps T r s) (w : within [.regs, .eng] T) (x1 : Fin 2) (x2 : Fin 8) (x3 :
    ℕ) : Keeps T r (State.refreshBank s x1 x2 x3) := by
  unfold State.refreshBank
  repeat' (first
    | with_reducible assumption | with_reducible apply Keeps.setEng (w := w.sub (by decide))
    | with_reducible apply Keeps.raiseFld (w := w.sub (by decide)))

theorem Keeps.execDramRefresh {T : List Area} {r s t : State} (h : Keeps T r s) (w : within [.regs, .eng] T) (x0 : Fin 2) (x1 : Fin 8)
    (x2 : Fin 64) (e : (execDramRefresh x0 x1 x2 s) = .next t) : Keeps T r t := by
  have e' := Host.Outcome.next.inj e
  subst e'
  repeat' (first | with_reducible assumption | with_reducible apply Keeps.refreshBank (w := w.sub (by decide)) | split)

theorem Keeps.stage {T : List Area} {r s : State} (h : Keeps T r s) (w : within [.regs, .eng, .hst] T) (x1 : Fin 2) (x2 : Staged) :
    Keeps T r (State.stage s x1 x2) := by
  unfold State.stage
  repeat' (first
    | with_reducible assumption | with_reducible apply Keeps.queueBlocks (w := w.sub (by decide))
    | with_reducible apply Keeps.showStaged (w := w.sub (by decide)) | with_reducible apply Keeps.setEng (w := w.sub (by decide))
    | with_reducible apply Keeps.exportStaged (w := w.sub (by decide)) | lift_lets -underBinder
    | (intro x; first | (refine (have hx : Keeps T r x := ?_; ?_); subst x; swap; clear_value x; swap) | subst x | skip) | split)

theorem Keeps.snapshotImage {T : List Area} {r s : State} (h : Keeps T r s) (w : within [.regs, .aug] T) (x1 : U64) : Keeps T r
    (State.snapshotImage s x1) := by
  unfold State.snapshotImage
  repeat' (first | with_reducible assumption | with_reducible apply Keeps.writePair (w := w.sub (by decide)))

theorem Keeps.serveSnapshot {T : List Area} {r s : State} (h : Keeps T r s) (w : within [.regs, .aug, .lck] T) (x1 : U64) : Keeps T r
    (State.serveSnapshot s x1) := by
  unfold State.serveSnapshot
  repeat' (first
    | with_reducible assumption | with_reducible apply Keeps.setReg64 (w := w.sub (by decide))
    | with_reducible apply Keeps.setFlag (w := w.sub (by decide)) | with_reducible apply Keeps.snapshotImage (w := w.sub (by decide))
    | fail_if_no_progress (with_reducible refine Keeps.fields ?_ (by intro p; cases p <;> first | exact .inl (w.mem (by decide)) | exact .inr rfl)))

theorem Keeps.execWarmingEnd {T : List Area} {r s t : State} (h : Keeps T r s) (w : within [.regs, .eng, .aug] T) (x0 : Fin 2) (e :
    (execWarmingEnd x0 s) = .next t) : Keeps T r t := by
  have e' := Host.Outcome.next.inj e
  subst e'
  repeat' (first | with_reducible assumption | with_reducible apply Keeps.endWarming (w := w.sub (by decide)) | split)

theorem Keeps.completeCheckpoint {T : List Area} {r s : State} (h : Keeps T r s) (w : within [.regs, .eng, .aug, .lck, .hst] T) (x1 :
    Fin 2) (x2 : PhaseProg) (x3 : Assembling) : Keeps T r (State.completeCheckpoint s x1 x2 x3) := by
  unfold State.completeCheckpoint
  repeat' (first
    | with_reducible assumption | with_reducible apply Keeps.takeBucket (w := w.sub (by decide))
    | with_reducible apply Keeps.advanceRecurs (w := w.sub (by decide)) | with_reducible apply Keeps.setEng (w := w.sub (by decide))
    | with_reducible apply Keeps.setReg64 (w := w.sub (by decide)) | with_reducible apply Keeps.setFld (w := w.sub (by decide))
    | with_reducible apply Keeps.writePair (w := w.sub (by decide)) | with_reducible apply Keeps.stage (w := w.sub (by decide))
    | with_reducible apply Keeps.serveSnapshot (w := w.sub (by decide)) | lift_lets -underBinder
    | (intro x; first | (refine (have hx : Keeps T r x := ?_; ?_); subst x; swap; clear_value x; swap) | subst x | skip) | split)

theorem Keeps.execCheckpointComplete {T : List Area} {r s t : State} (h : Keeps T r s) (w : within [.regs, .eng, .aug, .lck, .hst] T)
    (x0 : Fin 2) (e : (execCheckpointComplete x0 s) = .next t) : Keeps T r t := by
  have e' := Host.Outcome.next.inj e
  subst e'
  repeat' (first | with_reducible assumption | with_reducible apply Keeps.completeCheckpoint (w := w.sub (by decide)) | split)

theorem Keeps.evalPackage {T : List Area} {r s : State} (h : Keeps T r s) (w : within [.regs, .eng, .free] T) (x1 : Fin 2) (x2 :
    PhaseProg) (x3 : CtxProg) (x4 : U64) (x5 : U64) : Keeps T r (State.evalPackage s x1 x2 x3 x4 x5).2.2 := by
  unfold State.evalPackage
  repeat' (first
    | with_reducible assumption | with_reducible apply Keeps.advanceRecurs (w := w.sub (by decide))
    | with_reducible apply Keeps.runSilt (w := w.sub (by decide)) | with_reducible apply Keeps.countSat (w := w.sub (by decide)))

theorem Keeps.changeMode {T : List Area} {r s : State} (h : Keeps T r s) (w : within [.regs, .mod, .eng, .aug] T) (x1 : Bool) : Keeps T
    r (State.changeMode s x1) := by
  unfold State.changeMode
  repeat' (first
    | with_reducible assumption | with_reducible apply Keeps.setFlag (w := w.sub (by decide))
    | with_reducible apply Keeps.setFld (w := w.sub (by decide)) | with_reducible apply Keeps.writeEvent (w := w.sub (by decide))
    | fail_if_no_progress (with_reducible refine Keeps.fields ?_ (by intro p; cases p <;> first | exact .inl (w.mem (by decide)) | exact .inr rfl))
    | lift_lets -underBinder
    | (intro x; first | (refine (have hx : Keeps T r x := ?_; ?_); subst x; swap; clear_value x; swap) | subst x | skip) | split)

theorem Keeps.execModeChange {T : List Area} {r s t : State} (h : Keeps T r s) (w : within [.regs, .mod, .eng, .aug] T)  (e :
    (execModeChange s) = .next t) : Keeps T r t := by
  have e' := Host.Outcome.next.inj e
  subst e'
  repeat' (first | with_reducible assumption | with_reducible apply Keeps.changeMode (w := w.sub (by decide)) | split)

theorem Keeps.sequenceError {T : List Area} {r s : State} (h : Keeps T r s) (w : within [.regs, .mod, .beds, .fast, .eng, .aug, .flt,
    .dec, .lanes, .svc, .free] T) (x1 : Word) (x2 : U64) (x3 : ℕ) : Keeps T r (State.sequenceError s x1 x2 x3) := by
  unfold State.sequenceError
  repeat' (first | with_reducible assumption | with_reducible apply Keeps.detect (w := w.sub (by decide)) | split)

theorem Keeps.takeWork {T : List Area} {r s : State} (h : Keeps T r s) (w : within [.regs, .mod, .beds, .fast, .eng, .aug, .flt, .dec,
    .lanes, .svc, .free] T) (x1 : Fin 2) (x2 : List Stage) (x3 : U64) (x4 : ℕ) (x5 : Work) : Keeps T r (State.takeWork s x1 x2 x3 x4
    x5).2 := by
  unfold State.takeWork
  repeat' (first
    | with_reducible assumption | with_reducible apply Keeps.setFlag (w := w.sub (by decide))
    | with_reducible apply Keeps.bumpBy (w := w.sub (by decide)) | with_reducible apply Keeps.detect (w := w.sub (by decide))
    | with_reducible apply Keeps.sequenceError (w := w.sub (by decide)) | split)

theorem Keeps.packageBytes {T : List Area} {r s : State} (h : Keeps T r s) (w : within [.regs, .eng, .free] T) (x1 : Fin 2) (x2 :
    PhaseProg) (x3 : CtxProg) (x4 : U64) (x5 : U64) (x6 : Bool) : Keeps T r (State.packageBytes s x1 x2 x3 x4 x5 x6).2.2 := by
  unfold State.packageBytes
  repeat' (first | with_reducible assumption | with_reducible apply Keeps.evalPackage (w := w.sub (by decide)) | split)

theorem Keeps.writePackage {T : List Area} {r s : State} (h : Keeps T r s) (w : within [.regs, .mod, .beds, .fast, .eng, .aug, .flt,
    .dec, .lanes, .svc, .free] T) (x1 : Fin 2) (x2 : PhaseProg) (x3 : CtxProg) (x4 : U64) (x5 : U64) (x6 : ℕ) (x7 : ℕ) (x8 : Work) :
    Keeps T r (State.writePackage s x1 x2 x3 x4 x5 x6 x7 x8) := by
  unfold State.writePackage
  repeat' (first
    | with_reducible assumption | with_reducible apply Keeps.raiseFld (w := w.sub (by decide))
    | with_reducible apply Keeps.takeWork (w := w.sub (by decide)) | with_reducible apply Keeps.packageBytes (w := w.sub (by decide))
    | with_reducible apply Keeps.setEng (w := w.sub (by decide)))

theorem Keeps.execContextPackageWrite {T : List Area} {r s t : State} (h : Keeps T r s) (w : within [.regs, .mod, .beds, .fast, .eng,
    .aug, .flt, .dec, .lanes, .svc, .free] T) (x0 : Fin 2) (x1 : Fin 128) (x2 : U64) (x3 : U64) (x4 : ℕ) (x5 : ℕ) (x6 : Work) (e :
    (execContextPackageWrite x0 x1 x2 x3 x4 x5 x6 s) = .next t) : Keeps T r t := by
  have e' := Host.Outcome.next.inj e
  subst e'
  repeat' (first
    | with_reducible assumption | with_reducible apply Keeps.writePackage (w := w.sub (by decide)) | lift_lets -underBinder
    | (intro x; first | (refine (have hx : Keeps T r x := ?_; ?_); subst x; swap; clear_value x; swap) | subst x | skip) | split)

theorem Keeps.putQuery {T : List Area} {r s : State} (h : Keeps T r s) (w : within [.eng] T) (x1 : Fin 2) (x2 : Query) (x3 : Query →
    Query) : Keeps T r (State.putQuery s x1 x2 x3) := by
  unfold State.putQuery
  repeat' (first | with_reducible assumption | with_reducible apply Keeps.setEng (w := w.sub (by decide)))

theorem Keeps.giveUp {T : List Area} {r s : State} (h : Keeps T r s) (w : within [.regs, .eng, .aug, .hst] T) (x1 : Fin 2) (x2 : Bool)
    (x3 : ℕ) (x4 : ℕ × ℕ) : Keeps T r (State.giveUp s x1 x2 x3 x4) := by
  unfold State.giveUp
  repeat' (first
    | with_reducible assumption | with_reducible apply Keeps.setEng (w := w.sub (by decide))
    | with_reducible apply Keeps.writeEvent (w := w.sub (by decide))
    | fail_if_no_progress (with_reducible refine Keeps.fields ?_ (by intro p; cases p <;> first | exact .inl (w.mem (by decide)) | exact .inr rfl))
    | lift_lets -underBinder | split)

theorem Keeps.giveUpBlock {T : List Area} {r s : State} (h : Keeps T r s) (w : within [.regs, .eng, .aug, .hst] T) (x1 : Fin 2) (x2 : ℕ)
    : Keeps T r (State.giveUpBlock s x1 x2) := by
  unfold State.giveUpBlock
  repeat' (first
    | with_reducible assumption | with_reducible apply Keeps.giveUp (w := w.sub (by decide))
    | with_reducible refine Keeps.foldl _ ?_ (fun _ _ _ => ?_))

theorem Keeps.txOutcome {T : List Area} {r s : State} (h : Keeps T r s) (w : within [.regs, .mod, .beds, .fast, .eng, .aug, .flt, .dec,
    .lanes, .hst, .svc, .free] T) (x1 : Fin 2) (x2 : ℕ) (x3 : DramTx) (x4 : DramOutcome) : Keeps T r (State.txOutcome s x1 x2 x3 x4) :=
    by
  unfold State.txOutcome
  repeat' (first
    | with_reducible assumption | with_reducible apply Keeps.setFlag (w := w.sub (by decide))
    | with_reducible apply Keeps.bump (w := w.sub (by decide)) | with_reducible apply Keeps.detect (w := w.sub (by decide))
    | with_reducible apply Keeps.giveUpBlock (w := w.sub (by decide)) | with_reducible apply Keeps.setEng (w := w.sub (by decide))
    | lift_lets -underBinder
    | (intro x; first | (refine (have hx : Keeps T r x := ?_; ?_); subst x; swap; clear_value x; swap) | subst x | skip) | split)

theorem Keeps.execEngineReset {T : List Area} {r s t : State} (h : Keeps T r s) (w : within [.regs, .mod, .fast, .eng, .aug, .sec,
    .free] T) (x0 : Path) (x1 : Fin 2) (e : (execEngineReset x0 x1 s) = .next t) : Keeps T r t := by
  have e' := Host.Outcome.next.inj e
  subst e'
  repeat' (first
    | with_reducible assumption | with_reducible refine Keeps.via ?_ (w.sub (by decide)) _ _ (fun _ _ => ?_)
    | with_reducible apply Keeps.resetEngine (w := w.sub (by decide)))

theorem Keeps.fillScan {T : List Area} {r s : State} (h : Keeps T r s) (w : within [.eng] T) (x1 : Fin 2) (x2 : DramTx) : Keeps T r
    (State.fillScan s x1 x2) := by
  unfold State.fillScan
  repeat' (first | with_reducible assumption | with_reducible apply Keeps.setEng (w := w.sub (by decide)) | split)

theorem Keeps.startTx {T : List Area} {r s : State} (h : Keeps T r s) (w : within [.regs, .mod, .beds, .fast, .eng, .aug, .flt, .dec,
    .lanes, .lck, .hst, .svc, .free] T) (x1 : Fin 2) (x2 : Fin 8) (x3 : DramOutcome) : Keeps T r (State.startTx s x1 x2 x3) := by
  unfold State.startTx
  repeat' (first
    | with_reducible assumption | with_reducible apply Keeps.gatherJobs (w := w.sub (by decide))
    | with_reducible apply Keeps.setEng (w := w.sub (by decide)) | with_reducible apply Keeps.raiseFld (w := w.sub (by decide))
    | with_reducible apply Keeps.fillScan (w := w.sub (by decide)) | with_reducible apply Keeps.txOutcome (w := w.sub (by decide))
    | lift_lets -underBinder
    | (intro x; first | (refine (have hx : Keeps T r x := ?_; ?_); subst x; swap; clear_value x; swap) | subst x | skip) | split)

theorem Keeps.answerQuery {T : List Area} {r s : State} (h : Keeps T r s) (w : within [.regs, .mod, .beds, .fast, .eng, .aug, .flt,
    .dec, .lanes, .svc, .free] T) (x1 : Fin 2) (x2 : PhaseProg) (x3 : QueryKind) (x4 : Query) (x5 : ℕ) (x6 : Work) : Keeps T r
    (State.answerQuery s x1 x2 x3 x4 x5 x6) := by
  unfold State.answerQuery
  repeat' (first
    | with_reducible assumption | with_reducible apply Keeps.raiseFld (w := w.sub (by decide))
    | with_reducible apply Keeps.takeWork (w := w.sub (by decide)) | with_reducible apply Keeps.putQuery (w := w.sub (by decide))
    | with_reducible apply Keeps.evalQuery (w := w.sub (by decide)) | lift_lets -underBinder
    | (intro x; first | (refine (have hx : Keeps T r x := ?_; ?_); subst x; swap; clear_value x; swap) | subst x | skip) | split)

theorem Keeps.execSettledAnswer {T : List Area} {r s t : State} (h : Keeps T r s) (w : within [.regs, .mod, .beds, .fast, .eng, .aug,
    .flt, .dec, .lanes, .svc, .free] T) (x0 : Fin 2) (x1 : Fin 4) (x2 : Fin 64) (x3 : U64) (x4 : Answer) (e : (execSettledAnswer
    x0 x1 x2 x3 x4 s) = .next t) : Keeps T r t := by
  have e' := Host.Outcome.next.inj e
  subst e'
  repeat' (first
    | with_reducible assumption | with_reducible apply Keeps.admitUpTo (w := w.sub (by decide))
    | with_reducible apply Keeps.answerQuery (w := w.sub (by decide)) | lift_lets -underBinder
    | (intro x; first | (refine (have hx : Keeps T r x := ?_; ?_); subst x; swap; clear_value x; swap) | subst x | skip) | split)

theorem Keeps.execSettledRelease {T : List Area} {r s t : State} (h : Keeps T r s) (w : within [.regs, .mod, .beds, .fast, .eng, .aug,
    .flt, .dec, .lanes, .lck, .svc, .free] T) (x0 : Fin 4) (x1 : Fin 64) (x2 : U64) (e : (execSettledRelease x0 x1 x2 s) = .next t) :
    Keeps T r t := by
  have e' := Host.Outcome.next.inj e
  subst e'
  repeat' (first
    | with_reducible assumption | with_reducible apply Keeps.settle (w := w.sub (by decide))
    | with_reducible apply Keeps.releaseQuery (w := w.sub (by decide)) | split)

theorem Keeps.execDramTransactionBoundary {T : List Area} {r s t : State} (h : Keeps T r s) (w : within [.regs, .mod, .beds, .fast,
    .eng, .aug, .flt, .dec, .lanes, .lck, .hst, .svc, .free] T) (x0 : Fin 2) (x1 : Fin 8) (x2 : DramOutcome) (e :
    (execDramTransactionBoundary x0 x1 x2 s) = .next t) : Keeps T r t := by
  have e' := Host.Outcome.next.inj e
  subst e'
  repeat' (first | with_reducible assumption | with_reducible apply Keeps.startTx (w := w.sub (by decide)) | split)

theorem Keeps.moverRetry {T : List Area} {r s : State} (h : Keeps T r s) (w : within [.regs, .eng, .free] T) (x1 : Fin 2) (x2 : ℕ) (x3 :
    ℕ) (x4 : SiltAccess) (x5 : Option (List Word)) : Keeps T r (State.moverRetry s x1 x2 x3 x4 x5) := by
  unfold State.moverRetry
  repeat' (first
    | with_reducible assumption | with_reducible apply Keeps.siltAccess (w := w.sub (by decide))
    | with_reducible apply Keeps.bump (w := w.sub (by decide)) | with_reducible apply Keeps.port1 (w := w.sub (by decide))
    | lift_lets -underBinder
    | (intro x; first | (refine (have hx : Keeps T r x := ?_; ?_); subst x; swap; clear_value x; swap) | subst x | skip) | split)

theorem Keeps.execSiltMoverRetry {T : List Area} {r s t : State} (h : Keeps T r s) (w : within [.regs, .eng, .free] T) (x0 : Fin 2) (x1
    : BusyAccess) (e : (execSiltMoverRetry x0 x1 s) = .next t) : Keeps
    T r t := by
  have e' := Host.Outcome.next.inj e
  subst e'
  repeat' (first | with_reducible assumption | with_reducible apply Keeps.moverRetry (w := w.sub (by decide)) | split)

theorem Keeps.columnRepaired {T : List Area} {r s : State} (h : Keeps T r s) (w : within [.regs, .fast, .eng, .aug, .flt] T) (x1 : Fin
    2) (x2 : SiltRepair) : Keeps T r (State.columnRepaired s x1 x2) := by
  unfold State.columnRepaired
  repeat' (first
    | with_reducible assumption | with_reducible apply Keeps.setEng (w := w.sub (by decide))
    | with_reducible apply Keeps.unitMoved (w := w.sub (by decide)) | with_reducible apply Keeps.setFlag (w := w.sub (by decide))
    | lift_lets -underBinder
    | (intro x; first | (refine (have hx : Keeps T r x := ?_; ?_); subst x; swap; clear_value x; swap) | subst x | skip) | split)

theorem Keeps.execSiltColumnRepairDone {T : List Area} {r s t : State} (h : Keeps T r s) (w : within [.regs, .fast, .eng, .aug, .flt] T)
    (x0 : Fin 2) (x1 : Fin 256) (e : (execSiltColumnRepairDone x0 x1 s) = .next t) : Keeps T r t := by
  have e' := Host.Outcome.next.inj e
  subst e'
  repeat' (first | with_reducible assumption | with_reducible apply Keeps.columnRepaired (w := w.sub (by decide)) | split)

theorem Keeps.execLooseWrite {T : List Area} {r s t : State} (h : Keeps T r s) (w : within [.regs, .mod, .aug, .sec] T) (x0 : Path) (x1
    : Bool) (e : (execLooseWrite x0 x1 s) = .next t) : Keeps T r t := by
  have e' := Host.Outcome.next.inj e
  subst e'
  repeat' (first
    | with_reducible assumption | with_reducible refine Keeps.via ?_ (w.sub (by decide)) _ _ (fun _ _ => ?_)
    | with_reducible apply Keeps.requestLoose (w := w.sub (by decide)))

end Sys2Proof.Machine
end

