-- ==== Sys2Proof/Laws/KeepsLockStep.lean ====
section
/-!
SUPPORT. Each operation of Machine/LockStep.lean keeps what Laws/Keeps.lean names.
-/
set_option linter.unusedVariables false
set_option linter.unreachableTactic false
set_option linter.unusedTactic false
namespace Sys2Proof.Machine

theorem Keeps.setLckState {T : List Area} {r s : State} (h : Keeps T r s) (w : within [.regs] T) (x1 : ℕ) : Keeps T r (State.setLckState
    s x1) := by
  unfold State.setLckState
  repeat' (first | with_reducible assumption | with_reducible apply Keeps.setFld (w := w.sub (by decide)))

theorem Keeps.lckRefuse {T : List Area} {r s : State} (h : Keeps T r s) (w : within [.regs] T) (x1 : ℕ) : Keeps T r (State.lckRefuse s
    x1) := by
  unfold State.lckRefuse
  repeat' (first
    | with_reducible assumption | with_reducible apply Keeps.setFld (w := w.sub (by decide))
    | with_reducible apply Keeps.setLckState (w := w.sub (by decide)))

theorem Keeps.lckEnable {T : List Area} {r s : State} (h : Keeps T r s)
    (w : within [.regs, .lck] T) (x1 : Bool) : Keeps T r (State.lckEnable s x1) := by
  have k : ∀ l : Lck, Keeps T r { s.setFlag RNG_LCK_CTL_EN x1 with lck := l } := fun _ =>
    Keeps.upd (Keeps.setFlag h (w.sub rfl) _ _) (SecKeeps.refl _) (SvcKeeps.refl _) le_rfl (fun p => by cases p <;> first | exact .inl (w.mem rfl) | exact .inr rfl)
  unfold State.lckEnable
  dsimp only
  split
  · split
    · exact Keeps.lckRefuse (Keeps.setFld (k _) (w.sub rfl) _ _) (w.sub rfl) _
    · exact Keeps.setLckState (Keeps.setFld (k _) (w.sub rfl) _ _) (w.sub rfl) _
  · split
    · exact Keeps.setLckState (k _) (w.sub rfl) _
    · exact Keeps.setFlag h (w.sub rfl) _ _

theorem Keeps.lckRearms {T : List Area} {r s : State} (h : Keeps T r s) (w : within [.regs, .lck] T) : Keeps T r (State.lckRearms s) := by
  unfold State.lckRearms
  repeat' (first
    | with_reducible assumption | with_reducible apply Keeps.setLckState (w := w.sub (by decide))
    | fail_if_no_progress (with_reducible refine Keeps.fields ?_ (by intro p; cases p <;> first | exact .inl (w.mem (by decide)) | exact .inr rfl))
    | lift_lets -underBinder
    | (intro x; first | (refine (have hx : Keeps T r x := ?_; ?_); subst x; swap; clear_value x; swap) | subst x | skip) | split)

theorem Keeps.lckFreezeAt {T : List Area} {r s : State} (h : Keeps T r s) (w : within [.regs, .lck] T) (x1 : Option U64) : Keeps T r
    (State.lckFreezeAt s x1) := by
  unfold State.lckFreezeAt
  repeat' (first
    | with_reducible assumption | with_reducible apply Keeps.setLckState (w := w.sub (by decide))
    | fail_if_no_progress (with_reducible refine Keeps.fields ?_ (by intro p; cases p <;> first | exact .inl (w.mem (by decide)) | exact .inr rfl)))

theorem Keeps.lckFreezeWrite {T : List Area} {r s : State} (h : Keeps T r s) (w : within [.regs, .ring, .lck] T) : Keeps T r
    (State.lckFreezeWrite s) := by
  unfold State.lckFreezeWrite
  repeat' (first
    | with_reducible assumption | with_reducible apply Keeps.lckFreezeAt (w := w.sub (by decide))
    | with_reducible apply Keeps.sendMessage (w := w.sub (by decide)) | with_reducible apply Keeps.setFlag (w := w.sub (by decide))
    | split)

theorem Keeps.lckCommit {T : List Area} {r s : State} (h : Keeps T r s) (w : within [.regs, .lck] T) (x1 : Word) : Keeps T r
    (State.lckCommit s x1) := by
  unfold State.lckCommit
  repeat' (first
    | with_reducible assumption | with_reducible apply Keeps.setReg (w := w.sub (by decide))
    | fail_if_no_progress (with_reducible refine Keeps.fields ?_ (by intro p; cases p <;> first | exact .inl (w.mem (by decide)) | exact .inr rfl)))

theorem Keeps.execLckStartCommit {T : List Area} {r s t : State} (h : Keeps T r s) (w : within [.regs, .mod, .aug, .lck, .sec] T) (x0 :
    Path) (x1 : Word) (e : (execLckStartCommit x0 x1 s) = .next t) : Keeps T r t := by
  have e' := Host.Outcome.next.inj e
  subst e'
  repeat' (first
    | with_reducible assumption | with_reducible refine Keeps.via ?_ (w.sub (by decide)) _ _ (fun _ _ => ?_)
    | with_reducible apply Keeps.lckCommit (w := w.sub (by decide)))

theorem Keeps.captureGap {T : List Area} {r s : State} (h : Keeps T r s) (w : within [.regs, .lck] T) (x1 : U64) : Keeps T r
    (State.captureGap s x1) := by
  unfold State.captureGap
  repeat' (first
    | with_reducible assumption | with_reducible apply Keeps.setFlag (w := w.sub (by decide))
    | with_reducible apply Keeps.bump (w := w.sub (by decide))
    | fail_if_no_progress (with_reducible refine Keeps.fields ?_ (by intro p; cases p <;> first | exact .inl (w.mem (by decide)) | exact .inr rfl)))

theorem Keeps.execLckCaptureGap {T : List Area} {r s t : State} (h : Keeps T r s) (w : within [.regs, .lck] T) (x0 : U64) (e :
    (execLckCaptureGap x0 s) = .next t) : Keeps T r t := by
  have e' := Host.Outcome.next.inj e
  subst e'
  repeat' (first | with_reducible assumption | with_reducible apply Keeps.captureGap (w := w.sub (by decide)) | split)

theorem Keeps.located {T : List Area} {r s : State} (h : Keeps T r s) (w : within [.regs, .aug] T) (x1 : U64) (x2 : U64) (x3 : ℕ) (x4 :
    Option ℕ) : Keeps T r (State.located s x1 x2 x3 x4) := by
  unfold State.located
  repeat' (first
    | with_reducible assumption | with_reducible apply Keeps.setFlag (w := w.sub (by decide))
    | with_reducible apply Keeps.setReg64 (w := w.sub (by decide)) | with_reducible apply Keeps.setFld (w := w.sub (by decide))
    | with_reducible apply Keeps.writeEventAt (w := w.sub (by decide)) | with_reducible apply Keeps.setLckState (w := w.sub (by decide)))

theorem Keeps.locate {T : List Area} {r s : State} (h : Keeps T r s) (w : within [.regs, .aug, .ring] T) (x1 : List PeerTick) (x2 : List
    U64) : Keeps T r (State.locate s x1 x2) := by
  unfold State.locate
  repeat' (first
    | with_reducible assumption | with_reducible apply Keeps.sendMessage (w := w.sub (by decide))
    | with_reducible apply Keeps.located (w := w.sub (by decide)) | lift_lets -underBinder
    | (intro x; first | (refine (have hx : Keeps T r x := ?_; ?_); subst x; swap; clear_value x; swap) | subst x | skip) | split)

theorem Keeps.execLckLocateDone {T : List Area} {r s t : State} (h : Keeps T r s) (w : within [.regs, .aug, .ring] T) (x0 : List
    PeerTick) (x1 : List U64) (e : (execLckLocateDone x0 x1 s) = .next t) : Keeps T r t := by
  have e' := Host.Outcome.next.inj e
  subst e'
  repeat' (first | with_reducible assumption | with_reducible apply Keeps.locate (w := w.sub (by decide)) | split)

theorem Keeps.lckSnap {T : List Area} {r s : State} (h : Keeps T r s) (w : within [.regs, .eng, .aug, .lck, .hst] T) (x1 : PhaseProg)
    (x2 : U64) : Keeps T r (State.lckSnap s x1 x2) := by
  unfold State.lckSnap
  repeat' (first
    | with_reducible assumption | with_reducible apply Keeps.setFlag (w := w.sub (by decide))
    | with_reducible apply Keeps.advanceRecurs (w := w.sub (by decide)) | with_reducible apply Keeps.setReg64 (w := w.sub (by decide))
    | with_reducible apply Keeps.stage (w := w.sub (by decide)) | with_reducible apply Keeps.snapshotImage (w := w.sub (by decide))
    | with_reducible apply Keeps.writePair (w := w.sub (by decide))
    | fail_if_no_progress (with_reducible refine Keeps.fields ?_ (by intro p; cases p <;> first | exact .inl (w.mem (by decide)) | exact .inr rfl))
    | lift_lets -underBinder
    | (intro x; first | (refine (have hx : Keeps T r x := ?_; ?_); subst x; swap; clear_value x; swap) | subst x | skip) | split)

theorem Keeps.execLckSnapshot {T : List Area} {r s t : State} (h : Keeps T r s) (w : within [.regs, .eng, .aug, .lck, .hst] T)  (e :
    (execLckSnapshot s) = .next t) : Keeps T r t := by
  have e' := Host.Outcome.next.inj e
  subst e'
  repeat' (first | with_reducible assumption | with_reducible apply Keeps.lckSnap (w := w.sub (by decide)) | split)

theorem Keeps.diverge {T : List Area} {r s : State} (h : Keeps T r s) (w : within [.regs, .ring, .lck] T) (x1 : U64) : Keeps T r
    (State.diverge s x1) := by
  unfold State.diverge
  repeat' (first
    | with_reducible assumption | with_reducible apply Keeps.lckFreezeAt (w := w.sub (by decide))
    | with_reducible apply Keeps.sendMessage (w := w.sub (by decide)) | with_reducible apply Keeps.setFlag (w := w.sub (by decide))
    | fail_if_no_progress (with_reducible refine Keeps.fields ?_ (by intro p; cases p <;> first | exact .inl (w.mem (by decide)) | exact .inr rfl))
    | lift_lets -underBinder
    | (intro x; first | (refine (have hx : Keeps T r x := ?_; ?_); subst x; swap; clear_value x; swap) | subst x | skip) | split)

theorem Keeps.compareWindow {T : List Area} {r s : State} (h : Keeps T r s) (w : within [.regs, .ring, .lck] T) (x1 : U64) (x2 : U64)
    (x3 : U64) : Keeps T r (State.compareWindow s x1 x2 x3) := by
  unfold State.compareWindow
  repeat' (first
    | with_reducible assumption | with_reducible apply Keeps.bump64 (w := w.sub (by decide))
    | with_reducible apply Keeps.diverge (w := w.sub (by decide)) | lift_lets -underBinder
    | (intro x; first | (refine (have hx : Keeps T r x := ?_; ?_); subst x; swap; clear_value x; swap) | subst x | skip) | split)

theorem Keeps.partnerDigest {T : List Area} {r s : State} (h : Keeps T r s) (w : within [.regs, .ring, .lck] T) (x1 : U64) (x2 : U64) :
    Keeps T r (State.partnerDigest s x1 x2) := by
  unfold State.partnerDigest
  repeat' (first
    | with_reducible assumption | with_reducible apply Keeps.compareWindow (w := w.sub (by decide))
    | fail_if_no_progress (with_reducible refine Keeps.fields ?_ (by intro p; cases p <;> first | exact .inl (w.mem (by decide)) | exact .inr rfl))
    | lift_lets -underBinder
    | (intro x; first | (refine (have hx : Keeps T r x := ?_; ?_); subst x; swap; clear_value x; swap) | subst x | skip) | split)

theorem Keeps.execLckPartnerDigest {T : List Area} {r s t : State} (h : Keeps T r s) (w : within [.regs, .ring, .lck] T) (x0 : U64) (x1
    : U64) (e : (execLckPartnerDigest x0 x1 s) = .next t) : Keeps T r t := by
  have e' := Host.Outcome.next.inj e
  subst e'
  repeat' (first | with_reducible assumption | with_reducible apply Keeps.partnerDigest (w := w.sub (by decide)) | split)

theorem Keeps.execLckFreeze {T : List Area} {r s t : State} (h : Keeps T r s) (w : within [.regs, .mod, .aug, .ring, .lck, .sec] T) (x0
    : Path) (e : (execLckFreeze x0 s) = .next t) : Keeps T r t := by
  have e' := Host.Outcome.next.inj e
  subst e'
  repeat' (first
    | with_reducible assumption | with_reducible refine Keeps.via ?_ (w.sub (by decide)) _ _ (fun _ _ => ?_)
    | with_reducible apply Keeps.lckFreezeWrite (w := w.sub (by decide)))

theorem Keeps.execLckFreezeMessage {T : List Area} {r s t : State} (h : Keeps T r s) (w : within [.regs, .lck] T)  (e :
    (execLckFreezeMessage s) = .next t) : Keeps T r t := by
  have e' := Host.Outcome.next.inj e
  subst e'
  repeat' (first | with_reducible assumption | with_reducible apply Keeps.lckFreezeAt (w := w.sub (by decide)) | split)

theorem Keeps.closeWindow {T : List Area} {r s : State} (h : Keeps T r s) (w : within [.regs, .ring, .lck] T) (x1 : U64) (x2 : Bool) :
    Keeps T r (State.closeWindow s x1 x2) := by
  unfold State.closeWindow
  repeat' (first
    | with_reducible assumption | with_reducible apply Keeps.storeDigests (w := w.sub (by decide))
    | with_reducible apply Keeps.captureGap (w := w.sub (by decide)) | with_reducible apply Keeps.sendMessage (w := w.sub (by decide))
    | with_reducible apply Keeps.compareWindow (w := w.sub (by decide)) | with_reducible refine Keeps.foldl _ ?_ (fun _ _ _ => ?_)
    | fail_if_no_progress (with_reducible refine Keeps.fields ?_ (by intro p; cases p <;> first | exact .inl (w.mem (by decide)) | exact .inr rfl))
    | lift_lets -underBinder
    | (intro x; first | (refine (have hx : Keeps T r x := ?_; ?_); subst x; swap; clear_value x; swap) | subst x | skip) | split)

theorem Keeps.execLckWindowClose {T : List Area} {r s t : State} (h : Keeps T r s) (w : within [.regs, .ring, .lck] T) (x0 : U64) (x1 :
    Bool) (e : (execLckWindowClose x0 x1 s) = .next t) : Keeps T r t := by
  have e' := Host.Outcome.next.inj e
  subst e'
  repeat' (first | with_reducible assumption | with_reducible apply Keeps.closeWindow (w := w.sub (by decide)) | split)

theorem Keeps.execLckRearm {T : List Area} {r s t : State} (h : Keeps T r s) (w : within [.regs, .mod, .aug, .lck, .sec] T) (x0 : Path)
    (e : (execLckRearm x0 s) = .next t) : Keeps T r t := by
  have e' := Host.Outcome.next.inj e
  subst e'
  repeat' (first
    | with_reducible assumption | with_reducible refine Keeps.via ?_ (w.sub (by decide)) _ _ (fun _ _ => ?_)
    | with_reducible apply Keeps.lckRearms (w := w.sub (by decide)))

theorem Keeps.execLckEn {T : List Area} {r s t : State} (h : Keeps T r s) (w : within [.regs, .mod, .aug, .lck, .sec] T) (x0 : Path) (x1
    : Bool) (e : (execLckEn x0 x1 s) = .next t) : Keeps T r t := by
  have e' := Host.Outcome.next.inj e
  subst e'
  repeat' (first
    | with_reducible assumption | with_reducible refine Keeps.via ?_ (w.sub (by decide)) _ _ (fun _ _ => ?_)
    | with_reducible apply Keeps.lckEnable (w := w.sub (by decide)))

theorem Keeps.lckBegin {T : List Area} {r s : State} (h : Keeps T r s) (w : within [.regs, .ring, .lck] T) (x1 : LckPeer) : Keeps T r
    (State.lckBegin s x1) := by
  unfold State.lckBegin
  repeat' (first
    | with_reducible assumption | with_reducible apply Keeps.sendMessage (w := w.sub (by decide))
    | with_reducible apply Keeps.setLckState (w := w.sub (by decide)) | with_reducible apply Keeps.lckRefuse (w := w.sub (by decide))
    | fail_if_no_progress (with_reducible refine Keeps.fields ?_ (by intro p; cases p <;> first | exact .inl (w.mem (by decide)) | exact .inr rfl))
    | lift_lets -underBinder
    | (intro x; first | (refine (have hx : Keeps T r x := ?_; ?_); subst x; swap; clear_value x; swap) | subst x | skip) | split)

theorem Keeps.execLckStart {T : List Area} {r s t : State} (h : Keeps T r s) (w : within [.regs, .ring, .lck] T) (x0 : LckPeer) (e :
    (execLckStart x0 s) = .next t) : Keeps T r t := by
  have e' := Host.Outcome.next.inj e
  subst e'
  repeat' (first | with_reducible assumption | with_reducible apply Keeps.lckBegin (w := w.sub (by decide)) | split)

end Sys2Proof.Machine
end

