-- ==== Sys2Proof/Laws/KeepsPowerOps.lean ====
section
/-!
SUPPORT. Each operation of Machine/PowerOps.lean keeps what Laws/Keeps.lean names.
-/
set_option linter.unusedVariables false
set_option linter.unreachableTactic false
set_option linter.unusedTactic false
namespace Sys2Proof.Machine

theorem mapCanon_keepRegs (m : Map Word) (k : List (Nat × Word)) : mapCanon regReset (keepRegs m k) := by
  unfold keepRegs
  generalize hz : ([] : Map Word) = z
  have hc : mapCanon regReset z := hz ▸ mapCanon_nil _
  clear hz
  induction k generalizing z with
  | nil => exact hc
  | cons a k ih => exact ih _ (mapCanon_mapPut _ _ hc)

theorem SvcKeeps.idle (a : Svc) : SvcKeeps a Svc.idle := ⟨fun _ => mapCanon_nil _, fun _ => mapCanon_nil _⟩

theorem Keeps.burnBroken {T : List Area} {r s : State} (h : Keeps T r s)
    (w : within [.sec, .free] T) (t i : Nat) (p : List Byte) : Keeps T r (State.burnBroken s t i p) := by
  unfold State.burnBroken
  split
  · rename_i f hf
    exact (Keeps.drawNat h (w.sub rfl)).fuseTo (w.sub rfl) f _ (fun hn => by have : (s.sec.fuses[f] : Nat) ≤ 3 := hn; show (s.sec.fuses[f] : Nat) ≤ _ ∧ _ ≤ 3; have := Nat.mod_lt s.drawNat.1 (show 0 < 4 - s.sec.fuses[f] by omega); omega)
  · exact Keeps.badTo (Keeps.foldl _ h fun t x ht => (Keeps.drawBytes ht (w.sub rfl) x.2).hardpanOr (w.sub rfl) x.1 x.2 _) (w.sub rfl) _

theorem Keeps.cutBurn {T : List Area} {r s : State} (h : Keeps T r s) (w : within [.sec, .free] T) : Keeps T r (State.cutBurn s) := by
  unfold State.cutBurn
  split
  · exact Keeps.burnBroken h (w.sub rfl) _ _ _
  · exact h

theorem Keeps.dropPower {T : List Area} {r s : State} (h : Keeps T r s)
    (w : within [.regs, .latches, .answers, .mod, .hz, .prog, .beds, .grn, .fast, .eng, .aug, .flt, .stm, .dec, .lanes, .ring, .lck,
      .hst, .tim, .pwr, .sec, .svc, .free] T) : Keeps T r (State.dropPower s) := by
  have k := Keeps.cutBurn h (w.sub rfl)
  unfold State.dropPower
  refine Keeps.trans k ⟨rfl, le_rfl, fun _ => mapCanon_keepRegs _ _, ⟨fun _ => BitVec.and_self, fun hf i => ⟨le_rfl, hf i⟩, fun _ hb => hb, id,
    fun _ _ => mapCanon_nil _, fun _ => mapCanon_nil _, fun _ => mapCanon_nil _⟩, id, ⟨fun _ => mapCanon_nil _, fun _ => mapCanon_nil _⟩,
    fun p hp => by cases p <;> first | exact absurd (w.mem rfl) hp | rfl⟩

theorem SecKeeps.sense (a : Sec) (p : Nat × Byte → Bool) (n : Nat) (bs : List Byte) :
    SecKeeps a { a with shadow := putBytes zeroByte (a.hardpan.filter p) n bs } :=
  ⟨fun _ => BitVec.and_self, fun hf i => ⟨le_rfl, hf i⟩, fun _ hb => hb, id,
    fun hc _ => mapCanon_putBytes _ _ (mapCanon_filter _ hc), id, id⟩

theorem Keeps.showWarn {T : List Area} {r s : State} (h : Keeps T r s) (w : within [.regs] T) : Keeps T r (State.showWarn s) := by
  unfold State.showWarn
  repeat' (first | with_reducible assumption | with_reducible apply Keeps.setFlag (w := w.sub (by decide)))

theorem Keeps.bootStep {T : List Area} {r s : State} (h : Keeps T r s) (w : within [.regs] T) (x1 : ℕ) : Keeps T r (State.bootStep s x1)
    := by
  unfold State.bootStep
  repeat' (first | with_reducible assumption | with_reducible apply Keeps.setFld (w := w.sub (by decide)))

theorem Keeps.freshBed {T : List Area} {r s : State} (h : Keeps T r s) (w : within [.regs, .beds] T) (x1 : Fin 4) : Keeps T r
    (State.freshBed s x1) := by
  unfold State.freshBed
  repeat' (first
    | with_reducible assumption | with_reducible apply Keeps.setBed (w := w.sub (by decide))
    | with_reducible apply Keeps.setBedState (w := w.sub (by decide)) | lift_lets -underBinder
    | (intro x; first | (refine (have hx : Keeps T r x := ?_; ?_); subst x; swap; clear_value x; swap) | subst x | skip) | split)

theorem Keeps.haltWaking {T : List Area} {r s : State} (h : Keeps T r s) (w : within [.regs, .mod, .fast, .eng, .aug, .dec] T) (x1 : ℕ)
    : Keeps T r (State.haltWaking s x1) := by
  unfold State.haltWaking
  repeat' (first
    | with_reducible assumption | with_reducible apply Keeps.setFld (w := w.sub (by decide))
    | with_reducible apply Keeps.enterState (w := w.sub (by decide)) | with_reducible apply Keeps.setFlag (w := w.sub (by decide))
    | fail_if_no_progress (with_reducible refine Keeps.fields ?_ (by intro p; cases p <;> first | exact .inl (w.mem (by decide)) | exact .inr rfl)))

theorem Keeps.coldStart {T : List Area} {r s : State} (h : Keeps T r s) (w : within [.regs, .latches, .answers, .mod, .hz, .prog, .beds,
    .grn, .fast, .eng, .aug, .flt, .stm, .dec, .lanes, .ring, .lck, .hst, .tim, .pwr, .sec, .svc, .free] T) : Keeps T r (State.coldStart
    s) := by
  unfold State.coldStart
  repeat' (first
    | with_reducible assumption | with_reducible apply Keeps.dropPower (w := w.sub (by decide))
    | with_reducible apply Keeps.setFlag (w := w.sub (by decide)) | with_reducible apply Keeps.setFld (w := w.sub (by decide))
    | with_reducible apply Keeps.bootStep (w := w.sub (by decide)) | with_reducible apply Keeps.setReg (w := w.sub (by decide))
    | with_reducible apply Keeps.showWarn (w := w.sub (by decide)) | with_reducible apply Keeps.freshBed (w := w.sub (by decide))
    | with_reducible apply Keeps.driveHold (w := w.sub (by decide)) | with_reducible apply Keeps.chainStart (w := w.sub (by decide))
    | with_reducible apply Keeps.haltWaking (w := w.sub (by decide))
    | with_reducible refine Keeps.upd ?_ (by exact SecKeeps.sense _ _ _ _) (by exact SvcKeeps.refl _) (by exact le_rfl) (by intro p; cases p <;> first | exact .inl (w.mem (by decide)) | exact .inr rfl)
    | fail_if_no_progress (with_reducible refine Keeps.fields ?_ (by intro p; cases p <;> first | exact .inl (w.mem (by decide)) | exact .inr rfl))
    | fail_if_no_progress (with_reducible refine Keeps.upd ?_ (by first | exact SecKeeps.refl _ | exact SecKeeps.of rfl rfl rfl rfl rfl rfl) (by first | exact SvcKeeps.refl _ | exact ⟨id, id⟩ | exact SvcKeeps.idle _ | exact ⟨fun _ => mapCanon_nil _, id⟩) le_rfl (by intro p; cases p <;> first | exact .inl (w.mem (by decide)) | exact .inr rfl))
    | lift_lets -underBinder
    | (intro x; first | (refine (have hx : Keeps T r x := ?_; ?_); subst x; swap; clear_value x; swap) | subst x | skip) | split)

theorem Keeps.recordGap {T : List Area} {r s : State} (h : Keeps T r s) (w : within [.regs, .aug] T) (x1 : List ℕ) : Keeps T r
    (State.recordGap s x1) := by
  unfold State.recordGap
  repeat' (first
    | with_reducible assumption | with_reducible apply Keeps.setFlag (w := w.sub (by decide))
    | with_reducible apply Keeps.bumpBy (w := w.sub (by decide)) | with_reducible apply Keeps.writeEvent (w := w.sub (by decide)) | split)

theorem Keeps.warmRegs {T : List Area} {r s : State} (h : Keeps T r s) (w : within [.regs, .latches] T) : Keeps T r (State.warmRegs s)
    := by
  unfold State.warmRegs
  repeat' (first
    | with_reducible assumption | with_reducible apply Keeps.setFld (w := w.sub (by decide))
    | with_reducible apply Keeps.setFlag (w := w.sub (by decide)) | with_reducible apply Keeps.setReg (w := w.sub (by decide))
    | with_reducible apply Keeps.setBedState (w := w.sub (by decide))
    | with_reducible refine Keeps.updRegs ?_ (fun _ => mapCanon_keepRegs _ _) (by intro p; cases p <;> first | exact .inl (w.mem (by decide)) | exact .inr rfl)
    | lift_lets -underBinder | split)

theorem Keeps.beginWarm {T : List Area} {r s : State} (h : Keeps T r s) (w : within [.regs, .latches, .answers, .mod, .hz, .prog, .beds,
    .grn, .fast, .eng, .aug, .flt, .stm, .dec, .lanes, .ring, .lck, .hst, .tim, .pwr, .sec, .svc, .free] T) : Keeps T r (State.beginWarm
    s) := by
  unfold State.beginWarm
  repeat' (first
    | with_reducible assumption | with_reducible apply Keeps.coldStart (w := w.sub (by decide))
    | with_reducible apply Keeps.recordGap (w := w.sub (by decide)) | with_reducible apply Keeps.enterState (w := w.sub (by decide))
    | with_reducible apply Keeps.clearEntry (w := w.sub (by decide)) | with_reducible apply Keeps.warmRegs (w := w.sub (by decide))
    | with_reducible apply Keeps.refusePassed (w := w.sub (by decide)) | with_reducible apply Keeps.startLanes (w := w.sub (by decide))
    | with_reducible apply Keeps.driveHold (w := w.sub (by decide)) | with_reducible apply Keeps.showTesting (w := w.sub (by decide))
    | fail_if_no_progress (with_reducible refine Keeps.fields ?_ (by intro p; cases p <;> first | exact .inl (w.mem (by decide)) | exact .inr rfl))
    | fail_if_no_progress (with_reducible refine Keeps.upd ?_ (by first | exact SecKeeps.refl _ | exact SecKeeps.of rfl rfl rfl rfl rfl rfl) (by first | exact SvcKeeps.refl _ | exact ⟨id, id⟩ | exact SvcKeeps.idle _ | exact ⟨fun _ => mapCanon_nil _, id⟩) le_rfl (by intro p; cases p <;> first | exact .inl (w.mem (by decide)) | exact .inr rfl))
    | lift_lets -underBinder
    | (intro x; first | (refine (have hx : Keeps T r x := ?_; ?_); subst x; swap; clear_value x; swap) | subst x | skip) | split)

theorem Keeps.requestReset {T : List Area} {r s : State} (h : Keeps T r s) (w : within [.regs, .latches, .answers, .mod, .hz, .prog,
    .beds, .grn, .fast, .eng, .aug, .flt, .stm, .dec, .lanes, .ring, .lck, .hst, .tim, .pwr, .sec, .svc, .free] T) : Keeps T r
    (State.requestReset s) := by
  unfold State.requestReset
  repeat' (first
    | with_reducible assumption | with_reducible apply Keeps.beginWarm (w := w.sub (by decide))
    | with_reducible apply Keeps.cancelRotation (w := w.sub (by decide)) | with_reducible apply Keeps.driveHold (w := w.sub (by decide))
    | fail_if_no_progress (with_reducible refine Keeps.fields ?_ (by intro p; cases p <;> first | exact .inl (w.mem (by decide)) | exact .inr rfl))
    | lift_lets -underBinder
    | (intro x; first | (refine (have hx : Keeps T r x := ?_; ?_); subst x; swap; clear_value x; swap) | subst x | skip) | split)

theorem Keeps.pinReleased {T : List Area} {r s : State} (h : Keeps T r s) (w : within [.regs, .latches, .answers, .mod, .hz, .prog,
    .beds, .grn, .fast, .eng, .aug, .flt, .stm, .dec, .lanes, .ring, .lck, .hst, .tim, .pwr, .sec, .svc, .free] T) : Keeps T r
    (State.pinReleased s) := by
  unfold State.pinReleased
  repeat' (first
    | with_reducible assumption | with_reducible apply Keeps.beginWarm (w := w.sub (by decide))
    | fail_if_no_progress (with_reducible refine Keeps.fields ?_ (by intro p; cases p <;> first | exact .inl (w.mem (by decide)) | exact .inr rfl))
    | lift_lets -underBinder
    | (intro x; first | (refine (have hx : Keeps T r x := ?_; ?_); subst x; swap; clear_value x; swap) | subst x | skip) | split)

theorem Keeps.pinReset {T : List Area} {r s : State} (h : Keeps T r s) (w : within [.regs, .latches, .answers, .mod, .hz, .prog, .beds,
    .grn, .fast, .eng, .aug, .flt, .stm, .dec, .lanes, .ring, .lck, .hst, .tim, .pwr, .sec, .svc, .free] T) : Keeps T r (State.pinReset
    s) := by
  unfold State.pinReset
  repeat' (first
    | with_reducible assumption | with_reducible apply Keeps.driveHold (w := w.sub (by decide))
    | with_reducible apply Keeps.pinReleased (w := w.sub (by decide))
    | fail_if_no_progress (with_reducible refine Keeps.fields ?_ (by intro p; cases p <;> first | exact .inl (w.mem (by decide)) | exact .inr rfl))
    | lift_lets -underBinder
    | (intro x; first | (refine (have hx : Keeps T r x := ?_; ?_); subst x; swap; clear_value x; swap) | subst x | skip) | split)

theorem Keeps.endWaking {T : List Area} {r s : State} (h : Keeps T r s) (w : within [.regs, .mod, .fast, .eng, .aug, .dec] T) (x1 :
    ModState) (x2 : ℕ) : Keeps T r (State.endWaking s x1 x2) := by
  unfold State.endWaking
  repeat' (first
    | with_reducible assumption | with_reducible apply Keeps.setFld (w := w.sub (by decide))
    | with_reducible apply Keeps.enterState (w := w.sub (by decide))
    | fail_if_no_progress (with_reducible refine Keeps.fields ?_ (by intro p; cases p <;> first | exact .inl (w.mem (by decide)) | exact .inr rfl)))

end Sys2Proof.Machine
end

