-- ==== Sys2Proof/Laws/KeepsHostOps.lean ====
section
/-!
SUPPORT. Each operation of Machine/HostOps.lean keeps what Laws/Keeps.lean names.
-/
set_option linter.unusedVariables false
set_option linter.unreachableTactic false
set_option linter.unusedTactic false
namespace Sys2Proof.Machine

theorem Keeps.setFlash {T : List Area} {r s : State} (h : Keeps T r s) (w : within [.flash] T) (n : Nat) (m : Map Byte)
    (hm : (∀ k : Fin 2, (s.flash.dev[k] : FlashDev).wf) → mapCanon erasedByte m) : Keeps T r (State.setFlash s n m) := by
  refine h.trans ⟨rfl, le_rfl, id, SecKeeps.refl _, fun hf k => ?_, SvcKeeps.refl _, fun p hp => by cases p <;> first | exact absurd (w.mem rfl) hp | rfl⟩
  simp only [State.setFlash, Fin.getElem_fin, Vector.getElem_set]
  split
  · exact hm hf
  · exact hf k

theorem flashDev_wf {s : State} (hf : ∀ k : Fin 2, (s.flash.dev[k] : FlashDev).wf) (n : Nat) : (s.flashDev n).wf := by
  unfold State.flashDev
  rcases Nat.lt_or_ge n 2 with hn | hn
  · simpa [List.getD_eq_getElem?_getD, hn] using hf ⟨n, hn⟩
  · rw [List.getD_eq_default _ _ (by simpa using hn)]
    exact mapCanon_nil _

theorem Keeps.restartRecords {T : List Area} {r s : State} (h : Keeps T r s) (w : within [.hst] T) : Keeps T r (State.restartRecords s)
    := by
  unfold State.restartRecords
  repeat' (first
    | with_reducible assumption
    | fail_if_no_progress (with_reducible refine Keeps.fields ?_ (by intro p; cases p <;> first | exact .inl (w.mem (by decide)) | exact .inr rfl)))

theorem Keeps.hostLinkLost {T : List Area} {r s : State} (h : Keeps T r s) (w : within [.regs, .hst] T) : Keeps T r (State.hostLinkLost
    s) := by
  unfold State.hostLinkLost
  repeat' (first
    | with_reducible assumption | with_reducible apply Keeps.setFlag (w := w.sub (by decide))
    | with_reducible apply Keeps.restartRecords (w := w.sub (by decide)) | with_reducible apply Keeps.bump (w := w.sub (by decide))
    | with_reducible apply Keeps.setFld (w := w.sub (by decide))
    | fail_if_no_progress (with_reducible refine Keeps.fields ?_ (by intro p; cases p <;> first | exact .inl (w.mem (by decide)) | exact .inr rfl)))

theorem Keeps.respond {T : List Area} {r s : State} (h : Keeps T r s) (w : within [.regs, .hst] T) (x1 : ℕ) (x2 : ℕ) (x3 : ℕ) (x4 : List
    Byte) : Keeps T r (State.respond s x1 x2 x3 x4) := by
  unfold State.respond
  repeat' (first
    | with_reducible assumption | with_reducible apply Keeps.bump (w := w.sub (by decide))
    | fail_if_no_progress (with_reducible refine Keeps.fields ?_ (by intro p; cases p <;> first | exact .inl (w.mem (by decide)) | exact .inr rfl))
    | lift_lets -underBinder | split)

theorem Keeps.flashErases {T : List Area} {r s : State} (h : Keeps T r s) (w : within [.regs, .hst, .flash, .free] T) (q : HostReq) :
    Keeps T r (State.flashErases s q) := by
  unfold State.flashErases
  dsimp only
  split
  · exact Keeps.respond h (w.sub rfl) _ _ _ _
  · split
    · exact Keeps.respond (Keeps.setFlash h (w.sub rfl) _ _ fun hf => mapCanon_filter _ (flashDev_wf hf _)) (w.sub rfl) _ _ _ _
    · exact Keeps.respond (Keeps.setFlash (Keeps.drawBytes h (w.sub rfl) _) (w.sub rfl) _ _ fun hf => mapCanon_putBytes _ _ (flashDev_wf (s := s) hf _)) (w.sub rfl) _ _ _ _

theorem Keeps.flashPrograms {T : List Area} {r s : State} (h : Keeps T r s) (w : within [.regs, .hst, .flash, .free] T) (q : HostReq) :
    Keeps T r (State.flashPrograms s q) := by
  unfold State.flashPrograms
  dsimp only
  split
  · exact Keeps.respond h (w.sub rfl) _ _ _ _
  · split
    · exact Keeps.respond (Keeps.setFlash h (w.sub rfl) _ _ fun hf => mapCanon_putBytes _ _ (flashDev_wf hf _)) (w.sub rfl) _ _ _ _
    · exact Keeps.respond (Keeps.setFlash (Keeps.drawBytes h (w.sub rfl) _) (w.sub rfl) _ _ fun hf => mapCanon_putBytes _ _ (flashDev_wf (s := s) hf _)) (w.sub rfl) _ _ _ _

theorem Keeps.flashReads {T : List Area} {r s : State} (h : Keeps T r s) (w : within [.regs, .hst] T) (x1 : HostReq) : Keeps T r
    (State.flashReads s x1) := by
  unfold State.flashReads
  repeat' (first
    | with_reducible assumption | with_reducible apply Keeps.respond (w := w.sub (by decide)) | lift_lets -underBinder
    | (intro x; first | (refine (have hx : Keeps T r x := ?_; ?_); subst x; swap; clear_value x; swap) | subst x | skip) | split)

theorem Keeps.hostDram {T : List Area} {r s : State} (h : Keeps T r s) (w : within [.svc] T) (x1 : ℕ) (x2 : ℕ) (x3 : ℕ) : Keeps T r
    (State.hostDram s x1 x2 x3) := by
  unfold State.hostDram
  repeat' (first
    | with_reducible assumption
    | fail_if_no_progress (with_reducible refine Keeps.upd ?_ (by first | exact SecKeeps.refl _ | exact SecKeeps.of rfl rfl rfl rfl rfl rfl) (by first | exact SvcKeeps.refl _ | exact ⟨id, id⟩ | exact SvcKeeps.idle _ | exact ⟨fun _ => mapCanon_nil _, id⟩) le_rfl (by intro p; cases p <;> first | exact .inl (w.mem (by decide)) | exact .inr rfl)))

theorem Keeps.coldTaken {T : List Area} {r s : State} (h : Keeps T r s) (w : within [.regs, .hst, .svc] T) (q : HostReq) : Keeps T r
    (State.coldTaken s q) := by
  unfold State.coldTaken
  dsimp only
  split
  · exact Keeps.respond h (w.sub rfl) _ _ _ _
  · exact Keeps.respond (Keeps.hostDram (h.svcTo (w.sub rfl)
      { s.svc with readBack := putBytes zeroByte s.svc.readBack (q.arg.toNat % 2 ^ 29) q.payload }
      ⟨id, fun hc => mapCanon_putBytes _ _ hc⟩) (w.sub rfl) _ _ _) (w.sub rfl) _ _ _ _

theorem Keeps.sowOpens {T : List Area} {r s : State} (h : Keeps T r s) (w : within [.regs, .prog, .hst, .svc] T) (x1 : HostReq) : Keeps
    T r (State.sowOpens s x1) := by
  unfold State.sowOpens
  repeat' (first
    | with_reducible assumption | with_reducible apply Keeps.respond (w := w.sub (by decide))
    | with_reducible apply Keeps.setFlag (w := w.sub (by decide)) | with_reducible apply Keeps.hostDram (w := w.sub (by decide))
    | fail_if_no_progress (with_reducible refine Keeps.fields ?_ (by intro p; cases p <;> first | exact .inl (w.mem (by decide)) | exact .inr rfl))
    | lift_lets -underBinder
    | (intro x; first | (refine (have hx : Keeps T r x := ?_; ?_); subst x; swap; clear_value x; swap) | subst x | skip) | split)

theorem Keeps.sowTakes {T : List Area} {r s : State} (h : Keeps T r s) (w : within [.regs, .prog, .hst, .svc] T) (x1 : HostReq) : Keeps
    T r (State.sowTakes s x1) := by
  unfold State.sowTakes
  repeat' (first
    | with_reducible assumption | with_reducible apply Keeps.respond (w := w.sub (by decide))
    | with_reducible apply Keeps.hostDram (w := w.sub (by decide))
    | fail_if_no_progress (with_reducible refine Keeps.fields ?_ (by intro p; cases p <;> first | exact .inl (w.mem (by decide)) | exact .inr rfl))
    | lift_lets -underBinder
    | (intro x; first | (refine (have hx : Keeps T r x := ?_; ?_); subst x; swap; clear_value x; swap) | subst x | skip) | split)

theorem Keeps.liveSow {T : List Area} {r s : State} (h : Keeps T r s) (w : within [.regs, .mod, .prog, .beds, .fast, .eng, .aug, .dec,
    .lanes, .hst, .tim] T) (x1 : ℕ) (x2 : Sow) : Keeps T r (State.liveSow s x1 x2) := by
  unfold State.liveSow
  repeat' (first
    | with_reducible assumption | with_reducible apply Keeps.runLoader (w := w.sub (by decide))
    | with_reducible apply Keeps.enterState (w := w.sub (by decide)) | with_reducible apply Keeps.respond (w := w.sub (by decide))
    | lift_lets -underBinder | split)

theorem Keeps.sowCloses {T : List Area} {r s : State} (h : Keeps T r s) (w : within [.regs, .mod, .prog, .beds, .fast, .eng, .aug, .dec,
    .lanes, .hst, .tim] T) (x1 : HostReq) : Keeps T r (State.sowCloses s x1) := by
  unfold State.sowCloses
  repeat' (first
    | with_reducible assumption | with_reducible apply Keeps.respond (w := w.sub (by decide))
    | with_reducible apply Keeps.setFlag (w := w.sub (by decide)) | with_reducible apply Keeps.liveSow (w := w.sub (by decide))
    | fail_if_no_progress (with_reducible refine Keeps.fields ?_ (by intro p; cases p <;> first | exact .inl (w.mem (by decide)) | exact .inr rfl))
    | lift_lets -underBinder
    | (intro x; first | (refine (have hx : Keeps T r x := ?_; ?_); subst x; swap; clear_value x; swap) | subst x | skip) | split)

theorem Keeps.captureTaken {T : List Area} {r s : State} (h : Keeps T r s) (w : within [.regs, .flt, .hst, .svc] T) (x1 : HostReq) :
    Keeps T r (State.captureTaken s x1) := by
  unfold State.captureTaken
  repeat' (first
    | with_reducible assumption | with_reducible apply Keeps.respond (w := w.sub (by decide))
    | with_reducible apply Keeps.hostDram (w := w.sub (by decide))
    | fail_if_no_progress (with_reducible refine Keeps.fields ?_ (by intro p; cases p <;> first | exact .inl (w.mem (by decide)) | exact .inr rfl))
    | lift_lets -underBinder
    | (intro x; first | (refine (have hx : Keeps T r x := ?_; ?_); subst x; swap; clear_value x; swap) | subst x | skip) | split)

theorem Keeps.runPlain {T : List Area} {r s : State} (h : Keeps T r s) (w : within [.regs, .mod, .prog, .beds, .fast, .eng, .aug, .flt,
    .dec, .lanes, .hst, .tim, .flash, .svc, .free] T) (x1 : HostReq) : Keeps T r (State.runPlain s x1) := by
  unfold State.runPlain
  repeat' (first
    | with_reducible assumption | with_reducible apply Keeps.flashErases (w := w.sub (by decide))
    | with_reducible apply Keeps.flashPrograms (w := w.sub (by decide)) | with_reducible apply Keeps.flashReads (w := w.sub (by decide))
    | with_reducible apply Keeps.sowOpens (w := w.sub (by decide)) | with_reducible apply Keeps.sowTakes (w := w.sub (by decide))
    | with_reducible apply Keeps.sowCloses (w := w.sub (by decide)) | with_reducible apply Keeps.captureTaken (w := w.sub (by decide))
    | with_reducible apply Keeps.coldTaken (w := w.sub (by decide)) | with_reducible apply Keeps.respond (w := w.sub (by decide)) | split)

end Sys2Proof.Machine
end

