-- ==== Sys2Proof/Laws/KeepsStartup.lean ====
section
/-!
SUPPORT. Each operation of Machine/Startup.lean keeps what Laws/Keeps.lean names.
-/
set_option linter.unusedVariables false
set_option linter.unreachableTactic false
set_option linter.unusedTactic false
namespace Sys2Proof.Machine

theorem Keeps.standbyLost {T : List Area} {r s : State} (h : Keeps T r s)
    (w : within [.regs, .latches, .answers, .mod, .hz, .prog, .beds, .grn, .fast, .eng, .aug, .flt, .stm, .dec, .lanes, .ring, .lck,
      .hst, .tim, .pwr, .sec, .svc, .free] T) : Keeps T r (State.standbyLost s) :=
  (Keeps.dropPower h (w.sub rfl)).trans ⟨rfl, le_rfl, fun _ => mapCanon_nil _, SecKeeps.refl _, id, SvcKeeps.refl _,
    fun p hp => by cases p <;> first | exact absurd (w.mem rfl) hp | rfl⟩

theorem Keeps.loadFlash {T : List Area} {r s : State} (h : Keeps T r s) (w : within [.regs, .mod, .prog, .beds, .eng, .aug, .lanes,
    .tim] T) : Keeps T r (State.loadFlash s).2.2 := by
  unfold State.loadFlash
  repeat' (first | with_reducible assumption | with_reducible apply Keeps.runLoader (w := w.sub (by decide)) | split)

theorem Keeps.restartFlash {T : List Area} {r s : State} (h : Keeps T r s) (w : within [.regs, .mod, .prog, .beds, .fast, .eng, .aug,
    .dec, .lanes, .tim] T) : Keeps T r (State.restartFlash s) := by
  unfold State.restartFlash
  repeat' (first
    | with_reducible assumption | with_reducible apply Keeps.loadFlash (w := w.sub (by decide))
    | with_reducible apply Keeps.enterState (w := w.sub (by decide)) | with_reducible apply Keeps.bootStep (w := w.sub (by decide))
    | with_reducible apply Keeps.setFld (w := w.sub (by decide)) | lift_lets -underBinder
    | (intro x; first | (refine (have hx : Keeps T r x := ?_; ?_); subst x; swap; clear_value x; swap) | subst x | skip) | split)

theorem Keeps.execMainRailsLost {T : List Area} {r s t : State} (h : Keeps T r s) (w : within [.regs, .latches, .answers, .mod, .hz,
    .prog, .beds, .grn, .fast, .eng, .aug, .flt, .stm, .dec, .lanes, .ring, .lck, .hst, .tim, .pwr, .sec, .svc, .free] T)  (e :
    (execMainRailsLost s) = .next t) : Keeps T r t := by
  have e' := Host.Outcome.next.inj e
  subst e'
  repeat' (first | with_reducible assumption | with_reducible apply Keeps.dropPower (w := w.sub (by decide)) | split)

theorem Keeps.railsUp {T : List Area} {r s : State} (h : Keeps T r s) (w : within [.regs, .latches, .answers, .mod, .hz, .prog, .beds,
    .grn, .fast, .eng, .aug, .flt, .stm, .dec, .lanes, .ring, .lck, .hst, .tim, .pwr, .sec, .svc, .free] T) (x1 : Vector ℤ 18) : Keeps T
    r (State.railsUp s x1) := by
  unfold State.railsUp
  repeat' (first
    | with_reducible assumption | with_reducible apply Keeps.setFld (w := w.sub (by decide))
    | with_reducible apply Keeps.coldStart (w := w.sub (by decide))
    | fail_if_no_progress (with_reducible refine Keeps.fields ?_ (by intro p; cases p <;> first | exact .inl (w.mem (by decide)) | exact .inr rfl))
    | lift_lets -underBinder
    | (intro x; first | (refine (have hx : Keeps T r x := ?_; ?_); subst x; swap; clear_value x; swap) | subst x | skip) | split)

theorem Keeps.execMainRailsValid {T : List Area} {r s t : State} (h : Keeps T r s) (w : within [.regs, .latches, .answers, .mod, .hz,
    .prog, .beds, .grn, .fast, .eng, .aug, .flt, .stm, .dec, .lanes, .ring, .lck, .hst, .tim, .pwr, .sec, .svc, .free] T) (x0 : Vector ℤ
    18) (e : (execMainRailsValid x0 s) = .next t) : Keeps T r t := by
  have e' := Host.Outcome.next.inj e
  subst e'
  repeat' (first | with_reducible assumption | with_reducible apply Keeps.railsUp (w := w.sub (by decide)) | split)

theorem Keeps.noProgram {T : List Area} {r s : State} (h : Keeps T r s) (w : within [.mod, .prog, .beds] T) : Keeps T r (State.noProgram
    s) := by
  unfold State.noProgram
  repeat' (first
    | with_reducible assumption
    | fail_if_no_progress (with_reducible refine Keeps.fields ?_ (by intro p; cases p <;> first | exact .inl (w.mem (by decide)) | exact .inr rfl)))

theorem Keeps.imageLoaded {T : List Area} {r s : State} (h : Keeps T r s) (w : within [.regs, .mod, .prog, .beds, .fast, .eng, .aug,
    .dec, .lanes, .tim] T) : Keeps T r (State.imageLoaded s) := by
  unfold State.imageLoaded
  repeat' (first
    | with_reducible assumption | with_reducible apply Keeps.loadFlash (w := w.sub (by decide))
    | with_reducible apply Keeps.bootStep (w := w.sub (by decide)) | with_reducible apply Keeps.endWaking (w := w.sub (by decide))
    | lift_lets -underBinder
    | (intro x; first | (refine (have hx : Keeps T r x := ?_; ?_); subst x; swap; clear_value x; swap) | subst x | skip) | split)

theorem Keeps.settleSpares {T : List Area} {r s : State} (h : Keeps T r s) (w : within [.regs, .beds, .fast, .aug, .flt] T) (x1 : Fin 4)
    : Keeps T r (State.settleSpares s x1) := by
  unfold State.settleSpares
  repeat' (first
    | with_reducible assumption | with_reducible apply Keeps.setBed (w := w.sub (by decide))
    | with_reducible apply Keeps.unitMoved (w := w.sub (by decide)) | with_reducible refine Keeps.foldl _ ?_ (fun _ _ _ => ?_))

theorem Keeps.recordVariants {T : List Area} {r s : State} (h : Keeps T r s) (w : within [.regs, .aug] T) (x0 : Vector Bed 4) (x1 : List
    Placed) : Keeps T r (State.recordVariants x0 x1 s) := by
  unfold State.recordVariants
  repeat' (first
    | with_reducible assumption | with_reducible apply Keeps.writeEvent (w := w.sub (by decide))
    | with_reducible refine Keeps.foldl _ ?_ (fun _ _ _ => ?_) | lift_lets -underBinder | split)

theorem Keeps.warmEnds {T : List Area} {r s : State} (h : Keeps T r s) (w : within [.regs, .latches, .answers, .mod, .hz, .prog, .beds,
    .grn, .fast, .eng, .aug, .flt, .stm, .dec, .lanes, .ring, .lck, .hst, .tim, .pwr, .sec, .svc, .free] T) : Keeps T r (State.warmEnds
    s) := by
  unfold State.warmEnds
  repeat' (first
    | with_reducible assumption | with_reducible apply Keeps.coldStart (w := w.sub (by decide))
    | with_reducible apply Keeps.settleSpares (w := w.sub (by decide)) | with_reducible apply Keeps.showTesting (w := w.sub (by decide))
    | with_reducible apply Keeps.endWaking (w := w.sub (by decide)) | with_reducible apply Keeps.noProgram (w := w.sub (by decide))
    | with_reducible apply Keeps.refuseLoad (w := w.sub (by decide)) | with_reducible apply Keeps.freezeDecision (w := w.sub (by decide))
    | with_reducible apply Keeps.showRole (w := w.sub (by decide)) | with_reducible apply Keeps.placeProgram (w := w.sub (by decide))
    | with_reducible apply Keeps.recordVariants (w := w.sub (by decide)) | with_reducible apply Keeps.showLoad (w := w.sub (by decide))
    | with_reducible apply Keeps.periodWritten (w := w.sub (by decide))
    | with_reducible apply Keeps.announceRestart (w := w.sub (by decide))
    | fail_if_no_progress (with_reducible refine Keeps.fields ?_ (by intro p; cases p <;> first | exact .inl (w.mem (by decide)) | exact .inr rfl))
    | lift_lets -underBinder
    | (intro x; first | (refine (have hx : Keeps T r x := ?_; ?_); subst x; swap; clear_value x; swap) | subst x | skip) | split)

theorem Keeps.warmWakes {T : List Area} {r s : State} (h : Keeps T r s) (w : within [.regs, .latches, .answers, .mod, .hz, .prog, .beds,
    .grn, .fast, .eng, .aug, .flt, .stm, .dec, .lanes, .ring, .lck, .hst, .tim, .pwr, .sec, .svc, .free] T) (x1 : Bool) (x2 : Bool) :
    Keeps T r (State.warmWakes s x1 x2) := by
  unfold State.warmWakes
  repeat' (first
    | with_reducible assumption | with_reducible apply Keeps.coldStart (w := w.sub (by decide))
    | with_reducible apply Keeps.warmEnds (w := w.sub (by decide)) | split)

theorem Keeps.execTopWarmReset {T : List Area} {r s t : State} (h : Keeps T r s) (w : within [.regs, .latches, .answers, .mod, .hz,
    .prog, .beds, .grn, .fast, .eng, .aug, .flt, .stm, .dec, .lanes, .ring, .lck, .hst, .tim, .pwr, .sec, .svc, .free] T) (x0 : Path) (e
    : (execTopWarmReset x0 s) = .next t) : Keeps T r t := by
  have e' := Host.Outcome.next.inj e
  subst e'
  repeat' (first
    | with_reducible assumption | with_reducible refine Keeps.via ?_ (w.sub (by decide)) _ _ (fun _ _ => ?_)
    | with_reducible apply Keeps.requestReset (w := w.sub (by decide)))

theorem Keeps.dramReady {T : List Area} {r s : State} (h : Keeps T r s) (w : within [.regs, .mod, .eng] T) : Keeps T r (State.dramReady
    s) := by
  unfold State.dramReady
  repeat' (first
    | with_reducible assumption | with_reducible apply Keeps.setFlag (w := w.sub (by decide))
    | with_reducible apply Keeps.bootStep (w := w.sub (by decide))
    | fail_if_no_progress (with_reducible refine Keeps.fields ?_ (by intro p; cases p <;> first | exact .inl (w.mem (by decide)) | exact .inr rfl))
    | lift_lets -underBinder
    | (intro x; first | (refine (have hx : Keeps T r x := ?_; ?_); subst x; swap; clear_value x; swap) | subst x | skip) | split)

theorem Keeps.showFlash {T : List Area} {r s : State} (h : Keeps T r s) (w : within [.regs] T) (x1 : ℕ) : Keeps T r (State.showFlash s
    x1) := by
  unfold State.showFlash
  repeat' (first | with_reducible assumption | with_reducible apply Keeps.setReg (w := w.sub (by decide)))

theorem Keeps.directoryRead {T : List Area} {r s : State} (h : Keeps T r s) (w : within [.regs, .mod, .fast, .eng, .aug, .dec] T) :
    Keeps T r (State.directoryRead s) := by
  unfold State.directoryRead
  repeat' (first
    | with_reducible assumption | with_reducible apply Keeps.bootStep (w := w.sub (by decide))
    | with_reducible apply Keeps.showFlash (w := w.sub (by decide)) | with_reducible apply Keeps.haltWaking (w := w.sub (by decide))
    | fail_if_no_progress (with_reducible refine Keeps.fields ?_ (by intro p; cases p <;> first | exact .inl (w.mem (by decide)) | exact .inr rfl))
    | lift_lets -underBinder
    | (intro x; first | (refine (have hx : Keeps T r x := ?_; ?_); subst x; swap; clear_value x; swap) | subst x | skip) | split)

theorem Keeps.execFlashDirectoryRead {T : List Area} {r s t : State} (h : Keeps T r s) (w : within [.regs, .mod, .fast, .eng, .aug,
    .dec] T)  (e : (execFlashDirectoryRead s) = .next t) : Keeps T r t := by
  have e' := Host.Outcome.next.inj e
  subst e'
  repeat' (first | with_reducible assumption | with_reducible apply Keeps.directoryRead (w := w.sub (by decide)) | split)

theorem Keeps.brownOut {T : List Area} {r s : State} (h : Keeps T r s) (w : within [.regs, .latches, .answers, .mod, .hz, .prog, .beds,
    .grn, .fast, .eng, .aug, .flt, .stm, .dec, .lanes, .ring, .lck, .hst, .tim, .pwr, .sec, .svc, .free] T) : Keeps T r (State.brownOut
    s) := by
  unfold State.brownOut
  repeat' (first
    | with_reducible assumption | with_reducible apply Keeps.bump (w := w.sub (by decide))
    | with_reducible apply Keeps.setFlag (w := w.sub (by decide)) | with_reducible apply Keeps.dropPower (w := w.sub (by decide)) | split)

theorem Keeps.execBrownOut {T : List Area} {r s t : State} (h : Keeps T r s) (w : within [.regs, .latches, .answers, .mod, .hz, .prog,
    .beds, .grn, .fast, .eng, .aug, .flt, .stm, .dec, .lanes, .ring, .lck, .hst, .tim, .pwr, .sec, .svc, .free] T)  (e : (execBrownOut
    s) = .next t) : Keeps T r t := by
  have e' := Host.Outcome.next.inj e
  subst e'
  repeat' (first | with_reducible assumption | with_reducible apply Keeps.brownOut (w := w.sub (by decide)) | split)

theorem Keeps.mainEnLow {T : List Area} {r s : State} (h : Keeps T r s) (w : within [.regs, .latches, .answers, .mod, .hz, .prog, .beds,
    .grn, .fast, .eng, .aug, .flt, .stm, .dec, .lanes, .ring, .lck, .hst, .tim, .pwr, .sec, .svc, .free] T) : Keeps T r (State.mainEnLow
    s) := by
  unfold State.mainEnLow
  repeat' (first
    | with_reducible assumption | with_reducible apply Keeps.dropPower (w := w.sub (by decide))
    | fail_if_no_progress (with_reducible refine Keeps.fields ?_ (by intro p; cases p <;> first | exact .inl (w.mem (by decide)) | exact .inr rfl))
    | lift_lets -underBinder | split)

theorem Keeps.resetLow {T : List Area} {r s : State} (h : Keeps T r s) (w : within [.regs, .latches, .answers, .mod, .hz, .prog, .beds,
    .grn, .fast, .eng, .aug, .flt, .stm, .dec, .lanes, .ring, .lck, .hst, .tim, .pwr, .sec, .svc, .free] T) : Keeps T r (State.resetLow
    s) := by
  unfold State.resetLow
  repeat' (first
    | with_reducible assumption | with_reducible apply Keeps.pinReset (w := w.sub (by decide))
    | fail_if_no_progress (with_reducible refine Keeps.fields ?_ (by intro p; cases p <;> first | exact .inl (w.mem (by decide)) | exact .inr rfl))
    | lift_lets -underBinder
    | (intro x; first | (refine (have hx : Keeps T r x := ?_; ?_); subst x; swap; clear_value x; swap) | subst x | skip) | split)

theorem Keeps.execPwrMainEnLow {T : List Area} {r s t : State} (h : Keeps T r s) (w : within [.regs, .latches, .answers, .mod, .hz,
    .prog, .beds, .grn, .fast, .eng, .aug, .flt, .stm, .dec, .lanes, .ring, .lck, .hst, .tim, .pwr, .sec, .svc, .free] T)  (e :
    (execPwrMainEnLow s) = .next t) : Keeps T r t := by
  have e' := Host.Outcome.next.inj e
  subst e'
  repeat' (first | with_reducible assumption | with_reducible apply Keeps.mainEnLow (w := w.sub (by decide)))

theorem Keeps.resetHigh {T : List Area} {r s : State} (h : Keeps T r s) (w : within [.regs, .latches, .answers, .mod, .hz, .prog, .beds,
    .grn, .fast, .eng, .aug, .flt, .stm, .dec, .lanes, .ring, .lck, .hst, .tim, .pwr, .sec, .svc, .free] T) : Keeps T r (State.resetHigh
    s) := by
  unfold State.resetHigh
  repeat' (first
    | with_reducible assumption | with_reducible apply Keeps.pinReleased (w := w.sub (by decide))
    | fail_if_no_progress (with_reducible refine Keeps.fields ?_ (by intro p; cases p <;> first | exact .inl (w.mem (by decide)) | exact .inr rfl)))

theorem Keeps.execVstbyLost {T : List Area} {r s t : State} (h : Keeps T r s) (w : within [.regs, .latches, .answers, .mod, .hz, .prog,
    .beds, .grn, .fast, .eng, .aug, .flt, .stm, .dec, .lanes, .ring, .lck, .hst, .tim, .pwr, .sec, .svc, .free] T)  (e : (execVstbyLost
    s) = .next t) : Keeps T r t := by
  have e' := Host.Outcome.next.inj e
  subst e'
  repeat' (first | with_reducible assumption | with_reducible apply Keeps.standbyLost (w := w.sub (by decide)))

theorem Keeps.firmwareLoaded {T : List Area} {r s : State} (h : Keeps T r s) (w : within [.regs, .mod, .fast, .eng, .aug, .dec, .lanes,
    .hst, .free] T) : Keeps T r (State.firmwareLoaded s) := by
  unfold State.firmwareLoaded
  repeat' (first
    | with_reducible assumption | with_reducible apply Keeps.bootStep (w := w.sub (by decide))
    | with_reducible apply Keeps.haltWaking (w := w.sub (by decide)) | with_reducible apply Keeps.checkStep5 (w := w.sub (by decide))
    | with_reducible apply Keeps.startLanes (w := w.sub (by decide)) | with_reducible apply Keeps.setFld (w := w.sub (by decide))
    | fail_if_no_progress (with_reducible refine Keeps.fields ?_ (by intro p; cases p <;> first | exact .inl (w.mem (by decide)) | exact .inr rfl))
    | lift_lets -underBinder
    | (intro x; first | (refine (have hx : Keeps T r x := ?_; ?_); subst x; swap; clear_value x; swap) | subst x | skip) | split)

theorem Keeps.execFirmwareLoadComplete {T : List Area} {r s t : State} (h : Keeps T r s) (w : within [.regs, .mod, .fast, .eng, .aug,
    .dec, .lanes, .hst, .free] T)  (e : (execFirmwareLoadComplete s) = .next t) : Keeps T r t := by
  have e' := Host.Outcome.next.inj e
  subst e'
  repeat' (first | with_reducible assumption | with_reducible apply Keeps.firmwareLoaded (w := w.sub (by decide)) | split)

theorem Keeps.execRstWarmNAssert {T : List Area} {r s t : State} (h : Keeps T r s) (w : within [.regs, .latches, .answers, .mod, .hz,
    .prog, .beds, .grn, .fast, .eng, .aug, .flt, .stm, .dec, .lanes, .ring, .lck, .hst, .tim, .pwr, .sec, .svc, .free] T)  (e :
    (execRstWarmNAssert s) = .next t) : Keeps T r t := by
  have e' := Host.Outcome.next.inj e
  subst e'
  repeat' (first | with_reducible assumption | with_reducible apply Keeps.resetLow (w := w.sub (by decide)))

theorem Keeps.execRstWarmNRelease {T : List Area} {r s t : State} (h : Keeps T r s) (w : within [.regs, .latches, .answers, .mod, .hz,
    .prog, .beds, .grn, .fast, .eng, .aug, .flt, .stm, .dec, .lanes, .ring, .lck, .hst, .tim, .pwr, .sec, .svc, .free] T)  (e :
    (execRstWarmNRelease s) = .next t) : Keeps T r t := by
  have e' := Host.Outcome.next.inj e
  subst e'
  repeat' (first | with_reducible assumption | with_reducible apply Keeps.resetHigh (w := w.sub (by decide)))

theorem Keeps.drainEnds {T : List Area} {r s : State} (h : Keeps T r s) (w : within [.regs, .latches, .answers, .mod, .hz, .prog, .beds,
    .grn, .fast, .eng, .aug, .flt, .stm, .dec, .lanes, .ring, .lck, .hst, .tim, .pwr, .sec, .svc, .free] T) : Keeps T r (State.drainEnds
    s) := by
  unfold State.drainEnds
  repeat' (first
    | with_reducible assumption | with_reducible apply Keeps.beginWarm (w := w.sub (by decide))
    | with_reducible apply Keeps.closeRuns (w := w.sub (by decide)))

theorem Keeps.execDrainComplete {T : List Area} {r s t : State} (h : Keeps T r s) (w : within [.regs, .latches, .answers, .mod, .hz,
    .prog, .beds, .grn, .fast, .eng, .aug, .flt, .stm, .dec, .lanes, .ring, .lck, .hst, .tim, .pwr, .sec, .svc, .free] T)  (e :
    (execDrainComplete s) = .next t) : Keeps T r t := by
  have e' := Host.Outcome.next.inj e
  subst e'
  repeat' (first | with_reducible assumption | with_reducible apply Keeps.drainEnds (w := w.sub (by decide)) | split)

theorem Keeps.execFlashRestart {T : List Area} {r s t : State} (h : Keeps T r s) (w : within [.regs, .mod, .prog, .beds, .fast, .eng,
    .aug, .dec, .lanes, .tim, .sec] T) (x0 : Path) (e : (execFlashRestart x0 s) = .next t) : Keeps T r t := by
  have e' := Host.Outcome.next.inj e
  subst e'
  repeat' (first
    | with_reducible assumption | with_reducible refine Keeps.via ?_ (w.sub (by decide)) _ _ (fun _ _ => ?_)
    | with_reducible apply Keeps.restartFlash (w := w.sub (by decide)))

end Sys2Proof.Machine
end

