-- ==== Sys2Proof/Laws/KeepsPower.lean ====
section
/-!
SUPPORT. Each operation of Machine/Power.lean keeps what Laws/Keeps.lean names.
-/
set_option linter.unusedVariables false
set_option linter.unreachableTactic false
set_option linter.unusedTactic false
namespace Sys2Proof.Machine

theorem Keeps.sense {T : List Area} {r s : State} (h : Keeps T r s) (w : within [.regs, .pwr] T) (x1 : Fin 18) (x2 : ℤ) : Keeps T r
    (State.sense s x1 x2) := by
  unfold State.sense
  repeat' (first
    | with_reducible assumption | with_reducible apply Keeps.showWarn (w := w.sub (by decide))
    | fail_if_no_progress (with_reducible refine Keeps.fields ?_ (by intro p; cases p <;> first | exact .inl (w.mem (by decide)) | exact .inr rfl)))

theorem Keeps.trips {T : List Area} {r s : State} (h : Keeps T r s) (w : within [.regs, .latches, .answers, .mod, .hz, .prog, .beds,
    .grn, .fast, .eng, .aug, .flt, .stm, .dec, .lanes, .ring, .lck, .hst, .tim, .pwr, .sec, .svc, .free] T) (x1 : Fin 18) : Keeps T r
    (State.trips s x1) := by
  unfold State.trips
  repeat' (first
    | with_reducible assumption | with_reducible apply Keeps.dropPower (w := w.sub (by decide))
    | with_reducible apply Keeps.setFld (w := w.sub (by decide)) | with_reducible apply Keeps.setFlag (w := w.sub (by decide))
    | with_reducible apply Keeps.detect (w := w.sub (by decide))
    | fail_if_no_progress (with_reducible refine Keeps.fields ?_ (by intro p; cases p <;> first | exact .inl (w.mem (by decide)) | exact .inr rfl))
    | lift_lets -underBinder
    | (intro x; first | (refine (have hx : Keeps T r x := ?_; ?_); subst x; swap; clear_value x; swap) | subst x | skip) | split)

theorem Keeps.execThermalTrip {T : List Area} {r s t : State} (h : Keeps T r s) (w : within [.regs, .latches, .answers, .mod, .hz,
    .prog, .beds, .grn, .fast, .eng, .aug, .flt, .stm, .dec, .lanes, .ring, .lck, .hst, .tim, .pwr, .sec, .svc, .free] T) (x0 : Fin 18)
    (x1 : ℤ) (e : (execThermalTrip x0 x1 s) = .next t) : Keeps T r t := by
  have e' := Host.Outcome.next.inj e
  subst e'
  repeat' (first
    | with_reducible assumption | with_reducible apply Keeps.sense (w := w.sub (by decide))
    | with_reducible apply Keeps.trips (w := w.sub (by decide)) | lift_lets -underBinder
    | (intro x; first | (refine (have hx : Keeps T r x := ?_; ?_); subst x; swap; clear_value x; swap) | subst x | skip) | split)

theorem Keeps.fallowWrite {T : List Area} {r s : State} (h : Keeps T r s) (w : within [.mod] T) : Keeps T r (State.fallowWrite s) := by
  unfold State.fallowWrite
  repeat' (first
    | with_reducible assumption
    | fail_if_no_progress (with_reducible refine Keeps.fields ?_ (by intro p; cases p <;> first | exact .inl (w.mem (by decide)) | exact .inr rfl))
    | lift_lets -underBinder
    | (intro x; first | (refine (have hx : Keeps T r x := ?_; ?_); subst x; swap; clear_value x; swap) | subst x | skip) | split)

theorem Keeps.lanesDown {T : List Area} {r s : State} (h : Keeps T r s) (w : within [.regs, .lanes, .hst, .free] T) : Keeps T r
    (State.lanesDown s) := by
  unfold State.lanesDown
  repeat' (first
    | with_reducible assumption | with_reducible apply Keeps.hostLinkLost (w := w.sub (by decide))
    | with_reducible apply Keeps.stopLane (w := w.sub (by decide)) | with_reducible refine Keeps.foldl _ ?_ (fun _ _ _ => ?_)
    | lift_lets -underBinder | split)

theorem Keeps.lanesAgain {T : List Area} {r s : State} (h : Keeps T r s) (w : within [.regs, .lanes, .hst, .free] T) : Keeps T r
    (State.lanesAgain s) := by
  unfold State.lanesAgain
  repeat' (first
    | with_reducible assumption | with_reducible apply Keeps.startLane (w := w.sub (by decide))
    | with_reducible refine Keeps.foldl _ ?_ (fun _ _ _ => ?_) | lift_lets -underBinder | split)

theorem Keeps.afterEntry {T : List Area} {r s : State} (h : Keeps T r s) (w : within [.regs, .latches, .answers, .mod, .hz, .prog,
    .beds, .grn, .fast, .eng, .aug, .flt, .stm, .dec, .lanes, .ring, .lck, .hst, .tim, .pwr, .sec, .svc, .free] T) (x1 : FallowEntry) :
    Keeps T r (State.afterEntry s x1) := by
  unfold State.afterEntry
  repeat' (first
    | with_reducible assumption | with_reducible apply Keeps.haltNow (w := w.sub (by decide))
    | with_reducible apply Keeps.pinReset (w := w.sub (by decide)) | with_reducible apply Keeps.requestReset (w := w.sub (by decide))
    | lift_lets -underBinder
    | (intro x; first | (refine (have hx : Keeps T r x := ?_; ?_); subst x; swap; clear_value x; swap) | subst x | skip) | split)

theorem Keeps.abandon {T : List Area} {r s : State} (h : Keeps T r s) (w : within [.regs, .latches, .answers, .mod, .hz, .prog, .beds,
    .grn, .fast, .eng, .aug, .flt, .stm, .dec, .lanes, .ring, .lck, .hst, .tim, .pwr, .sec, .svc, .free] T) (x1 : FallowEntry) (x2 : ℕ)
    : Keeps T r (State.abandon s x1 x2) := by
  unfold State.abandon
  repeat' (first
    | with_reducible assumption | with_reducible apply Keeps.lanesDown (w := w.sub (by decide))
    | with_reducible apply Keeps.writeStateChange (w := w.sub (by decide)) | with_reducible apply Keeps.closeSeal (w := w.sub (by decide))
    | with_reducible apply Keeps.lanesAgain (w := w.sub (by decide)) | with_reducible apply Keeps.setFld (w := w.sub (by decide))
    | with_reducible apply Keeps.bump (w := w.sub (by decide)) | with_reducible apply Keeps.afterEntry (w := w.sub (by decide))
    | with_reducible apply Keeps.driveHold (w := w.sub (by decide))
    | fail_if_no_progress (with_reducible refine Keeps.fields ?_ (by intro p; cases p <;> first | exact .inl (w.mem (by decide)) | exact .inr rfl))
    | lift_lets -underBinder | split)

theorem Keeps.execFallowAbort {T : List Area} {r s t : State} (h : Keeps T r s) (w : within [.regs, .latches, .answers, .mod, .hz,
    .prog, .beds, .grn, .fast, .eng, .aug, .flt, .stm, .dec, .lanes, .ring, .lck, .hst, .tim, .pwr, .sec, .svc, .free] T) (x0 : Fin 6)
    (e : (execFallowAbort x0 s) = .next t) : Keeps T r t := by
  have e' := Host.Outcome.next.inj e
  subst e'
  repeat' (first | with_reducible assumption | with_reducible apply Keeps.abandon (w := w.sub (by decide)) | split)

theorem Keeps.criticalOff {T : List Area} {r s : State} (h : Keeps T r s) (w : within [.regs, .latches, .answers, .mod, .hz, .prog,
    .beds, .grn, .fast, .eng, .aug, .flt, .stm, .dec, .lanes, .ring, .lck, .hst, .tim, .pwr, .sec, .svc, .free] T) : Keeps T r
    (State.criticalOff s) := by
  unfold State.criticalOff
  repeat' (first
    | with_reducible assumption | with_reducible apply Keeps.setFlag (w := w.sub (by decide))
    | with_reducible apply Keeps.dropPower (w := w.sub (by decide))
    | fail_if_no_progress (with_reducible refine Keeps.fields ?_ (by intro p; cases p <;> first | exact .inl (w.mem (by decide)) | exact .inr rfl)))

theorem Keeps.fallowEntered {T : List Area} {r s : State} (h : Keeps T r s) (w : within [.regs, .mod, .hz, .fast, .eng, .aug, .dec,
    .lanes, .hst, .free] T) : Keeps T r (State.fallowEntered s) := by
  unfold State.fallowEntered
  repeat' (first
    | with_reducible assumption | with_reducible apply Keeps.lanesDown (w := w.sub (by decide))
    | with_reducible apply Keeps.enterState (w := w.sub (by decide)) | with_reducible apply Keeps.setFlag (w := w.sub (by decide))
    | with_reducible apply Keeps.bump (w := w.sub (by decide))
    | fail_if_no_progress (with_reducible refine Keeps.fields ?_ (by intro p; cases p <;> first | exact .inl (w.mem (by decide)) | exact .inr rfl))
    | lift_lets -underBinder
    | (intro x; first | (refine (have hx : Keeps T r x := ?_; ?_); subst x; swap; clear_value x; swap) | subst x | skip) | split)

theorem Keeps.execHostWake {T : List Area} {r s t : State} (h : Keeps T r s) (w : within [.regs, .mod] T) (x0 : Fin 8) (e :
    (execHostWake x0 s) = .next t) : Keeps T r t := by
  have e' := Host.Outcome.next.inj e
  subst e'
  repeat' (first
    | with_reducible assumption | with_reducible apply Keeps.hostWakes (w := w.sub (by decide))
    | with_reducible apply Keeps.wakeEntry (w := w.sub (by decide)) | with_reducible apply Keeps.bump (w := w.sub (by decide)) | split)

theorem Keeps.execTripGating {T : List Area} {r s t : State} (h : Keeps T r s) (w : within [.mod, .eng] T)  (e : (execTripGating s) =
    .next t) : Keeps T r t := by
  have e' := Host.Outcome.next.inj e
  subst e'
  repeat' (first
    | with_reducible assumption
    | fail_if_no_progress (with_reducible refine Keeps.fields ?_ (by intro p; cases p <;> first | exact .inl (w.mem (by decide)) | exact .inr rfl))
    | lift_lets -underBinder
    | (intro x; first | (refine (have hx : Keeps T r x := ?_; ?_); subst x; swap; clear_value x; swap) | subst x | skip) | split)

theorem Keeps.unlocked {T : List Area} {r s : State} (h : Keeps T r s) (w : within [.regs] T) (x1 : ℕ) : Keeps T r (State.unlocked s x1)
    := by
  unfold State.unlocked
  repeat' (first
    | with_reducible assumption | with_reducible apply Keeps.setFlag (w := w.sub (by decide))
    | with_reducible apply Keeps.bump (w := w.sub (by decide)) | split)

theorem Keeps.measured {T : List Area} {r s : State} (h : Keeps T r s) (w : within [.regs, .pwr] T) (x1 : ℕ) (x2 : ℕ) (x3 : ℕ) (x4 : ℕ)
    : Keeps T r (State.measured s x1 x2 x3 x4) := by
  unfold State.measured
  repeat' (first
    | with_reducible assumption | with_reducible apply Keeps.setReg (w := w.sub (by decide))
    | with_reducible apply Keeps.raiseFld (w := w.sub (by decide)) | with_reducible apply Keeps.setFlag (w := w.sub (by decide))
    | fail_if_no_progress (with_reducible refine Keeps.fields ?_ (by intro p; cases p <;> first | exact .inl (w.mem (by decide)) | exact .inr rfl))
    | lift_lets -underBinder
    | (intro x; first | (refine (have hx : Keeps T r x := ?_; ?_); subst x; swap; clear_value x; swap) | subst x | skip) | split)

theorem Keeps.execFallowNow {T : List Area} {r s t : State} (h : Keeps T r s) (w : within [.regs, .mod, .aug, .sec] T) (x0 : Path) (e :
    (execFallowNow x0 s) = .next t) : Keeps T r t := by
  have e' := Host.Outcome.next.inj e
  subst e'
  repeat' (first
    | with_reducible assumption | with_reducible refine Keeps.via ?_ (w.sub (by decide)) _ _ (fun _ _ => ?_)
    | with_reducible apply Keeps.fallowWrite (w := w.sub (by decide)))

theorem Keeps.execThermalWarning {T : List Area} {r s t : State} (h : Keeps T r s) (w : within [.regs, .pwr] T) (x0 : Fin 18) (x1 : ℤ)
    (e : (execThermalWarning x0 x1 s) = .next t) : Keeps T r t := by
  have e' := Host.Outcome.next.inj e
  subst e'
  repeat' (first
    | with_reducible assumption | with_reducible apply Keeps.sense (w := w.sub (by decide))
    | with_reducible apply Keeps.bump (w := w.sub (by decide)) | with_reducible apply Keeps.setFlag (w := w.sub (by decide))
    | lift_lets -underBinder
    | (intro x; first | (refine (have hx : Keeps T r x := ?_; ?_); subst x; swap; clear_value x; swap) | subst x | skip) | split)

theorem Keeps.execPllUnlock {T : List Area} {r s t : State} (h : Keeps T r s) (w : within [.regs] T) (x0 : Fin 60) (e : (execPllUnlock
    x0 s) = .next t) : Keeps T r t := by
  have e' := Host.Outcome.next.inj e
  subst e'
  repeat' (first | with_reducible assumption | with_reducible apply Keeps.unlocked (w := w.sub (by decide)) | split)

theorem Keeps.execCriticalShutdown {T : List Area} {r s t : State} (h : Keeps T r s) (w : within [.regs, .latches, .answers, .mod, .hz,
    .prog, .beds, .grn, .fast, .eng, .aug, .flt, .stm, .dec, .lanes, .ring, .lck, .hst, .tim, .pwr, .sec, .svc, .free] T) (x0 : Fin 18)
    (x1 : ℤ) (e : (execCriticalShutdown x0 x1 s) = .next t) : Keeps T r t := by
  have e' := Host.Outcome.next.inj e
  subst e'
  repeat' (first
    | with_reducible assumption | with_reducible apply Keeps.sense (w := w.sub (by decide))
    | with_reducible apply Keeps.criticalOff (w := w.sub (by decide)) | lift_lets -underBinder
    | (intro x; first | (refine (have hx : Keeps T r x := ?_; ?_); subst x; swap; clear_value x; swap) | subst x | skip) | split)

theorem Keeps.stackHot {T : List Area} {r s : State} (h : Keeps T r s) (w : within [.regs, .pwr] T) (x1 : Fin 2) (x2 : ℤ) : Keeps T r
    (State.stackHot s x1 x2) := by
  unfold State.stackHot
  repeat' (first
    | with_reducible assumption | with_reducible apply Keeps.sense (w := w.sub (by decide))
    | with_reducible apply Keeps.setFlag (w := w.sub (by decide))
    | fail_if_no_progress (with_reducible refine Keeps.fields ?_ (by intro p; cases p <;> first | exact .inl (w.mem (by decide)) | exact .inr rfl)))

theorem Keeps.execDramStackHot {T : List Area} {r s t : State} (h : Keeps T r s) (w : within [.regs, .pwr] T) (x0 : Fin 2) (x1 : ℤ) (e :
    (execDramStackHot x0 x1 s) = .next t) : Keeps T r t := by
  have e' := Host.Outcome.next.inj e
  subst e'
  repeat' (first | with_reducible assumption | with_reducible apply Keeps.stackHot (w := w.sub (by decide)) | split)

theorem Keeps.execPowerMeasurement {T : List Area} {r s t : State} (h : Keeps T r s) (w : within [.regs, .pwr] T) (x0 : BitVec 16) (x1 :
    BitVec 16) (x2 : BitVec 16) (x3 : BitVec 16) (e : (execPowerMeasurement x0 x1 x2 x3 s) = .next t) : Keeps T r t := by
  have e' := Host.Outcome.next.inj e
  subst e'
  repeat' (first | with_reducible assumption | with_reducible apply Keeps.measured (w := w.sub (by decide)) | split)

theorem Keeps.execPowerAlarm {T : List Area} {r s t : State} (h : Keeps T r s) (w : within [.regs, .pwr] T)  (e : (execPowerAlarm s) =
    .next t) : Keeps T r t := by
  have e' := Host.Outcome.next.inj e
  subst e'
  repeat' (first
    | with_reducible assumption | with_reducible apply Keeps.bump (w := w.sub (by decide))
    | with_reducible apply Keeps.setFlag (w := w.sub (by decide))
    | fail_if_no_progress (with_reducible refine Keeps.fields ?_ (by intro p; cases p <;> first | exact .inl (w.mem (by decide)) | exact .inr rfl))
    | lift_lets -underBinder
    | (intro x; first | (refine (have hx : Keeps T r x := ?_; ?_); subst x; swap; clear_value x; swap) | subst x | skip) | split)

theorem Keeps.expire {T : List Area} {r s : State} (h : Keeps T r s) (w : within [.regs, .mod, .fast, .dec] T) : Keeps T r (State.expire
    s) := by
  unfold State.expire
  repeat' (first
    | with_reducible assumption | with_reducible apply Keeps.driveHold (w := w.sub (by decide))
    | fail_if_no_progress (with_reducible refine Keeps.fields ?_ (by intro p; cases p <;> first | exact .inl (w.mem (by decide)) | exact .inr rfl))
    | lift_lets -underBinder
    | (intro x; first | (refine (have hx : Keeps T r x := ?_; ?_); subst x; swap; clear_value x; swap) | subst x | skip) | split)

theorem Keeps.execIdleTimerExpiry {T : List Area} {r s t : State} (h : Keeps T r s) (w : within [.regs, .mod, .fast, .dec] T)  (e :
    (execIdleTimerExpiry s) = .next t) : Keeps T r t := by
  have e' := Host.Outcome.next.inj e
  subst e'
  repeat' (first | with_reducible assumption | with_reducible apply Keeps.expire (w := w.sub (by decide)) | split)

theorem Keeps.execFallowEntryComplete {T : List Area} {r s t : State} (h : Keeps T r s) (w : within [.regs, .mod, .hz, .fast, .eng,
    .aug, .dec, .lanes, .hst, .free] T)  (e : (execFallowEntryComplete s) = .next t) : Keeps T r t := by
  have e' := Host.Outcome.next.inj e
  subst e'
  repeat' (first | with_reducible assumption | with_reducible apply Keeps.fallowEntered (w := w.sub (by decide)) | split)

theorem Keeps.execMgtAddressMatch {T : List Area} {r s t : State} (h : Keeps T r s) (w : within [.mod] T) (x0 : List Byte) (x1 : ℕ) (e :
    (execMgtAddressMatch x0 x1 s) = .next t) : Keeps T r t := by
  have e' := Host.Outcome.next.inj e
  subst e'
  repeat' (first
    | with_reducible assumption | with_reducible apply Keeps.wakes (w := w.sub (by decide))
    | with_reducible apply Keeps.wakeEntry (w := w.sub (by decide))
    | fail_if_no_progress (with_reducible refine Keeps.fields ?_ (by intro p; cases p <;> first | exact .inl (w.mem (by decide)) | exact .inr rfl))
    | lift_lets -underBinder
    | (intro x; first | (refine (have hx : Keeps T r x := ?_; ?_); subst x; swap; clear_value x; swap) | subst x | skip) | split)

end Sys2Proof.Machine
end

