-- ==== Sys2Proof/Laws/KeepsTrust.lean ====
section
/-!
SUPPORT. Each operation of Machine/Trust.lean keeps what Laws/Keeps.lean names.
-/
set_option linter.unusedVariables false
set_option linter.unreachableTactic false
set_option linter.unusedTactic false
namespace Sys2Proof.Machine

theorem Keeps.burned {T : List Area} {r s : State} (h : Keeps T r s)
    (w : within [.sec] T) (t i : Nat) (p : List Byte) : Keeps T r (State.burned s t i p) := by
  unfold State.burned
  split
  · exact h.fuseTo (w.sub rfl) _ _ fun hn => ⟨hn, le_rfl⟩
  · exact Keeps.foldl _ h fun t x ht => ht.hardpanOr (w.sub rfl) x.1 x.2 _

theorem Keeps.secStarts {T : List Area} {r s : State} (h : Keeps T r s) (w : within [.regs, .sec] T) (x1 : SecCmd) : Keeps T r
    (State.secStarts s x1) := by
  unfold State.secStarts
  repeat' (first
    | with_reducible assumption | with_reducible apply Keeps.setFlag (w := w.sub (by decide))
    | fail_if_no_progress (with_reducible refine Keeps.upd ?_ (by first | exact SecKeeps.refl _ | exact SecKeeps.of rfl rfl rfl rfl rfl rfl) (by first | exact SvcKeeps.refl _ | exact ⟨id, id⟩ | exact SvcKeeps.idle _ | exact ⟨fun _ => mapCanon_nil _, id⟩) le_rfl (by intro p; cases p <;> first | exact .inl (w.mem (by decide)) | exact .inr rfl)))

theorem Keeps.attests {T : List Area} {r s : State} (h : Keeps T r s) (w : within [.regs, .sec] T) : Keeps T r (State.attests s) := by
  unfold State.attests
  repeat' (first | with_reducible assumption | with_reducible apply Keeps.secStarts (w := w.sub (by decide)) | split)

theorem Keeps.secEnds {T : List Area} {r s : State} (h : Keeps T r s) (w : within [.regs, .sec] T) (x1 : ℕ) : Keeps T r (State.secEnds s
    x1) := by
  unfold State.secEnds
  repeat' (first
    | with_reducible assumption | with_reducible apply Keeps.setFlag (w := w.sub (by decide))
    | with_reducible apply Keeps.setFld (w := w.sub (by decide))
    | fail_if_no_progress (with_reducible refine Keeps.upd ?_ (by first | exact SecKeeps.refl _ | exact SecKeeps.of rfl rfl rfl rfl rfl rfl) (by first | exact SvcKeeps.refl _ | exact ⟨id, id⟩ | exact SvcKeeps.idle _ | exact ⟨fun _ => mapCanon_nil _, id⟩) le_rfl (by intro p; cases p <;> first | exact .inl (w.mem (by decide)) | exact .inr rfl)))

theorem Keeps.orderRuns {T : List Area} {r s : State} (h : Keeps T r s) (w : within [.regs, .sec] T) : Keeps T r (State.orderRuns s) := by
  unfold State.orderRuns
  repeat' (first
    | with_reducible assumption | with_reducible apply Keeps.secStarts (w := w.sub (by decide))
    | with_reducible apply Keeps.secEnds (w := w.sub (by decide)) | lift_lets -underBinder
    | (intro x; first | (refine (have hx : Keeps T r x := ?_; ?_); subst x; swap; clear_value x; swap) | subst x | skip) | split)

theorem Keeps.execAttest {T : List Area} {r s t : State} (h : Keeps T r s) (w : within [.regs, .mod, .aug, .sec] T) (x0 : Path) (e :
    (execAttest x0 s) = .next t) : Keeps T r t := by
  have e' := Host.Outcome.next.inj e
  subst e'
  repeat' (first
    | with_reducible assumption | with_reducible refine Keeps.via ?_ (w.sub (by decide)) _ _ (fun _ _ => ?_)
    | with_reducible apply Keeps.attests (w := w.sub (by decide)))

theorem Keeps.attestEnds {T : List Area} {r s : State} (h : Keeps T r s) (w : within [.regs, .sec] T) (x1 : List Byte) : Keeps T r
    (State.attestEnds s x1) := by
  unfold State.attestEnds
  repeat' (first
    | with_reducible apply Keeps.secEnds (w := w.sub (by decide)) | with_reducible apply Keeps.bump (w := w.sub (by decide))
    | with_reducible exact Keeps.secTo (by assumption) (w.sub (by decide)) _ ⟨fun _ => BitVec.and_self, fun hf i => ⟨le_rfl, hf i⟩, fun _ hb => hb, id, fun _ => id, id, fun _ => mapCanon_putBytes _ _ (mapCanon_nil _)⟩)

theorem Keeps.execBurnOrder {T : List Area} {r s t : State} (h : Keeps T r s) (w : within [.regs, .mod, .aug, .sec] T) (x0 : Path) (e :
    (execBurnOrder x0 s) = .next t) : Keeps T r t := by
  have e' := Host.Outcome.next.inj e
  subst e'
  repeat' (first
    | with_reducible assumption | with_reducible refine Keeps.via ?_ (w.sub (by decide)) _ _ (fun _ _ => ?_)
    | with_reducible apply Keeps.orderRuns (w := w.sub (by decide)))

theorem Keeps.burnEnds {T : List Area} {r s : State} (h : Keeps T r s) (w : within [.regs, .latches, .answers, .mod, .hz, .prog, .beds,
    .grn, .fast, .eng, .aug, .flt, .stm, .dec, .lanes, .ring, .lck, .hst, .tim, .pwr, .sec, .svc, .free] T) (x1 : ℕ) (x2 : ℕ) (x3 : List
    Byte) (x4 : Bool) : Keeps T r (State.burnEnds s x1 x2 x3 x4) := by
  unfold State.burnEnds
  repeat' (first
    | with_reducible assumption | with_reducible apply Keeps.secEnds (w := w.sub (by decide))
    | with_reducible apply Keeps.burned (w := w.sub (by decide)) | with_reducible apply Keeps.burnBroken (w := w.sub (by decide))
    | with_reducible apply Keeps.setFlag (w := w.sub (by decide)) | with_reducible apply Keeps.pinReset (w := w.sub (by decide))
    | fail_if_no_progress (with_reducible refine Keeps.upd ?_ (by first | exact SecKeeps.refl _ | exact SecKeeps.of rfl rfl rfl rfl rfl rfl) (by first | exact SvcKeeps.refl _ | exact ⟨id, id⟩ | exact SvcKeeps.idle _ | exact ⟨fun _ => mapCanon_nil _, id⟩) le_rfl (by intro p; cases p <;> first | exact .inl (w.mem (by decide)) | exact .inr rfl))
    | lift_lets -underBinder
    | (intro x; first | (refine (have hx : Keeps T r x := ?_; ?_); subst x; swap; clear_value x; swap) | subst x | skip) | split)

theorem Keeps.execBurnComplete {T : List Area} {r s t : State} (h : Keeps T r s) (w : within [.regs, .latches, .answers, .mod, .hz,
    .prog, .beds, .grn, .fast, .eng, .aug, .flt, .stm, .dec, .lanes, .ring, .lck, .hst, .tim, .pwr, .sec, .svc, .free] T) (x0 : Bool) (e
    : (execBurnComplete x0 s) = .next t) : Keeps T r t := by
  have e' := Host.Outcome.next.inj e
  subst e'
  repeat' (first | with_reducible assumption | with_reducible apply Keeps.burnEnds (w := w.sub (by decide)) | split)

theorem Keeps.execPrivateJtag {T : List Area} {r s t : State} (h : Keeps T r s) (w : within [.regs, .aug, .sec] T)  (e :
    (execPrivateJtag s) = .next t) : Keeps T r t := by
  have e' := Host.Outcome.next.inj e
  subst e'
  repeat' (first | with_reducible assumption | with_reducible apply Keeps.usePrivate (w := w.sub (by decide)) | split)

theorem Keeps.execAttestComplete {T : List Area} {r s t : State} (h : Keeps T r s) (w : within [.regs, .sec] T)  (e :
    (execAttestComplete s) = .next t) : Keeps T r t := by
  have e' := Host.Outcome.next.inj e
  subst e'
  repeat' (first | with_reducible assumption | with_reducible apply Keeps.attestEnds (w := w.sub (by decide)) | split)

end Sys2Proof.Machine
end

