-- ==== Sys2Proof/Laws/KeepsNetTime.lean ====
section
/-!
SUPPORT. Each operation of Machine/NetTime.lean keeps what Laws/Keeps.lean names.
-/
set_option linter.unusedVariables false
set_option linter.unreachableTactic false
set_option linter.unusedTactic false
namespace Sys2Proof.Machine

theorem Keeps.showTimLock {T : List Area} {r s : State} (h : Keeps T r s) (w : within [.regs] T) : Keeps T r (State.showTimLock s) := by
  unfold State.showTimLock
  repeat' (first | with_reducible assumption | with_reducible apply Keeps.setFlag (w := w.sub (by decide)))

theorem Keeps.requestSwitch {T : List Area} {r s : State} (h : Keeps T r s) (w : within [.regs, .tim] T) (x1 : Fin 2) : Keeps T r
    (State.requestSwitch s x1) := by
  unfold State.requestSwitch
  repeat' (first
    | with_reducible assumption | with_reducible apply Keeps.setFld (w := w.sub (by decide))
    | with_reducible apply Keeps.showTimLock (w := w.sub (by decide)) | with_reducible apply Keeps.untrack (w := w.sub (by decide))
    | with_reducible apply Keeps.setFlag (w := w.sub (by decide))
    | fail_if_no_progress (with_reducible refine Keeps.fields ?_ (by intro p; cases p <;> first | exact .inl (w.mem (by decide)) | exact .inr rfl))
    | lift_lets -underBinder
    | (intro x; first | (refine (have hx : Keeps T r x := ?_; ?_); subst x; swap; clear_value x; swap) | subst x | skip) | split)

theorem Keeps.applyStep {T : List Area} {r s : State} (h : Keeps T r s) (w : within [.regs, .tim] T) (x1 : Step) : Keeps T r
    (State.applyStep s x1) := by
  unfold State.applyStep
  repeat' (first
    | with_reducible assumption | with_reducible apply Keeps.bump (w := w.sub (by decide))
    | fail_if_no_progress (with_reducible refine Keeps.fields ?_ (by intro p; cases p <;> first | exact .inl (w.mem (by decide)) | exact .inr rfl)))

theorem Keeps.jumpApplied {T : List Area} {r s : State} (h : Keeps T r s) (w : within [.regs, .aug, .tim] T) (x1 : Step) : Keeps T r
    (State.jumpApplied s x1) := by
  unfold State.jumpApplied
  repeat' (first
    | with_reducible assumption | with_reducible apply Keeps.writeEvent (w := w.sub (by decide))
    | with_reducible apply Keeps.applyStep (w := w.sub (by decide)))

theorem Keeps.clearPend {T : List Area} {r s : State} (h : Keeps T r s) (w : within [.regs, .tim] T) : Keeps T r (State.clearPend s) := by
  unfold State.clearPend
  repeat' (first
    | with_reducible assumption | with_reducible apply Keeps.setFlag (w := w.sub (by decide))
    | fail_if_no_progress (with_reducible refine Keeps.fields ?_ (by intro p; cases p <;> first | exact .inl (w.mem (by decide)) | exact .inr rfl)))

theorem Keeps.acceptJump {T : List Area} {r s : State} (h : Keeps T r s) (w : within [.regs, .aug, .tim] T) : Keeps T r
    (State.acceptJump s) := by
  unfold State.acceptJump
  repeat' (first
    | with_reducible assumption | with_reducible apply Keeps.jumpApplied (w := w.sub (by decide))
    | with_reducible apply Keeps.clearPend (w := w.sub (by decide)) | split)

theorem Keeps.setRate {T : List Area} {r s : State} (h : Keeps T r s) (w : within [.regs, .tim] T) (x1 : Fin 2) (x2 : Word) : Keeps T r
    (State.setRate s x1 x2) := by
  unfold State.setRate
  repeat' (first
    | with_reducible assumption | with_reducible apply Keeps.setReg (w := w.sub (by decide))
    | fail_if_no_progress (with_reducible refine Keeps.fields ?_ (by intro p; cases p <;> first | exact .inl (w.mem (by decide)) | exact .inr rfl)))

theorem Keeps.jumpRefused {T : List Area} {r s : State} (h : Keeps T r s) (w : within [.regs, .aug, .tim] T) (x1 : Step) : Keeps T r
    (State.jumpRefused s x1) := by
  unfold State.jumpRefused
  repeat' (first
    | with_reducible assumption | with_reducible apply Keeps.bump (w := w.sub (by decide))
    | with_reducible apply Keeps.setFlag (w := w.sub (by decide)) | with_reducible apply Keeps.writeEvent (w := w.sub (by decide))
    | fail_if_no_progress (with_reducible refine Keeps.fields ?_ (by intro p; cases p <;> first | exact .inl (w.mem (by decide)) | exact .inr rfl)))

theorem Keeps.step1588 {T : List Area} {r s : State} (h : Keeps T r s) (w : within [.regs, .aug, .tim] T) (x1 : Step) : Keeps T r
    (State.step1588 s x1) := by
  unfold State.step1588
  repeat' (first
    | with_reducible assumption | with_reducible apply Keeps.applyStep (w := w.sub (by decide))
    | with_reducible apply Keeps.jumpApplied (w := w.sub (by decide)) | with_reducible apply Keeps.jumpRefused (w := w.sub (by decide))
    | fail_if_no_progress (with_reducible refine Keeps.fields ?_ (by intro p; cases p <;> first | exact .inl (w.mem (by decide)) | exact .inr rfl))
    | lift_lets -underBinder
    | (intro x; first | (refine (have hx : Keeps T r x := ?_; ?_); subst x; swap; clear_value x; swap) | subst x | skip) | split)

theorem Keeps.hostStep {T : List Area} {r s : State} (h : Keeps T r s) (w : within [.regs, .aug, .tim] T) (x1 : Step) : Keeps T r
    (State.hostStep s x1) := by
  unfold State.hostStep
  repeat' (first
    | with_reducible assumption | with_reducible apply Keeps.jumpApplied (w := w.sub (by decide))
    | with_reducible apply Keeps.clearPend (w := w.sub (by decide)) | with_reducible apply Keeps.applyStep (w := w.sub (by decide))
    | with_reducible apply Keeps.step1588 (w := w.sub (by decide)) | split)

theorem Keeps.ppsTaken {T : List Area} {r s : State} (h : Keeps T r s) (w : within [.regs, .aug, .tim] T) : Keeps T r (State.ppsTaken s)
    := by
  unfold State.ppsTaken
  repeat' (first
    | with_reducible assumption | with_reducible apply Keeps.setReg64 (w := w.sub (by decide))
    | with_reducible apply Keeps.writeEvent (w := w.sub (by decide)) | with_reducible apply Keeps.setFlag (w := w.sub (by decide))
    | fail_if_no_progress (with_reducible refine Keeps.fields ?_ (by intro p; cases p <;> first | exact .inl (w.mem (by decide)) | exact .inr rfl))
    | lift_lets -underBinder
    | (intro x; first | (refine (have hx : Keeps T r x := ?_; ?_); subst x; swap; clear_value x; swap) | subst x | skip) | split)

theorem Keeps.execPpsEdge {T : List Area} {r s t : State} (h : Keeps T r s) (w : within [.regs, .aug, .tim] T)  (e : (execPpsEdge s) =
    .next t) : Keeps T r t := by
  have e' := Host.Outcome.next.inj e
  subst e'
  repeat' (first | with_reducible assumption | with_reducible apply Keeps.ppsTaken (w := w.sub (by decide)) | split)

theorem Keeps.ppsLate {T : List Area} {r s : State} (h : Keeps T r s) (w : within [.regs, .tim] T) : Keeps T r (State.ppsLate s) := by
  unfold State.ppsLate
  repeat' (first
    | with_reducible assumption | with_reducible apply Keeps.bump (w := w.sub (by decide))
    | with_reducible apply Keeps.setFlag (w := w.sub (by decide))
    | fail_if_no_progress (with_reducible refine Keeps.fields ?_ (by intro p; cases p <;> first | exact .inl (w.mem (by decide)) | exact .inr rfl)))

theorem Keeps.switchNow {T : List Area} {r s : State} (h : Keeps T r s) (w : within [.regs, .aug, .tim] T) (x1 : Fin 2) : Keeps T r
    (State.switchNow s x1) := by
  unfold State.switchNow
  repeat' (first
    | with_reducible assumption | with_reducible apply Keeps.bump (w := w.sub (by decide))
    | with_reducible apply Keeps.setFlag (w := w.sub (by decide)) | with_reducible apply Keeps.writeEvent (w := w.sub (by decide))
    | with_reducible apply Keeps.showTimLock (w := w.sub (by decide)) | with_reducible apply Keeps.jumpApplied (w := w.sub (by decide))
    | fail_if_no_progress (with_reducible refine Keeps.fields ?_ (by intro p; cases p <;> first | exact .inl (w.mem (by decide)) | exact .inr rfl))
    | lift_lets -underBinder
    | (intro x; first | (refine (have hx : Keeps T r x := ?_; ?_); subst x; swap; clear_value x; swap) | subst x | skip) | split)

theorem Keeps.holdover {T : List Area} {r s : State} (h : Keeps T r s) (w : within [.regs, .aug, .tim] T) (x1 : Fin 2) : Keeps T r
    (State.holdover s x1) := by
  unfold State.holdover
  repeat' (first
    | with_reducible assumption | with_reducible apply Keeps.setFlag (w := w.sub (by decide))
    | with_reducible apply Keeps.writeEvent (w := w.sub (by decide)) | with_reducible apply Keeps.showTimLock (w := w.sub (by decide))
    | fail_if_no_progress (with_reducible refine Keeps.fields ?_ (by intro p; cases p <;> first | exact .inl (w.mem (by decide)) | exact .inr rfl))
    | lift_lets -underBinder
    | (intro x; first | (refine (have hx : Keeps T r x := ?_; ?_); subst x; swap; clear_value x; swap) | subst x | skip) | split)

theorem Keeps.announced {T : List Area} {r s : State} (h : Keeps T r s) (w : within [.regs, .aug] T) (x1 : Fin 2) (x2 : U64) : Keeps T r
    (State.announced s x1 x2) := by
  unfold State.announced
  repeat' (first
    | with_reducible assumption | with_reducible apply Keeps.setReg64 (w := w.sub (by decide))
    | with_reducible apply Keeps.writeEvent (w := w.sub (by decide)) | with_reducible apply Keeps.setFlag (w := w.sub (by decide))
    | lift_lets -underBinder
    | (intro x; first | (refine (have hx : Keeps T r x := ?_; ?_); subst x; swap; clear_value x; swap) | subst x | skip) | split)

theorem Keeps.execHoldoverEntry {T : List Area} {r s t : State} (h : Keeps T r s) (w : within [.regs, .aug, .tim] T) (x0 : Fin 2) (e :
    (execHoldoverEntry x0 s) = .next t) : Keeps T r t := by
  have e' := Host.Outcome.next.inj e
  subst e'
  repeat' (first | with_reducible assumption | with_reducible apply Keeps.holdover (w := w.sub (by decide)) | split)

theorem Keeps.execTimeStep {T : List Area} {r s t : State} (h : Keeps T r s) (w : within [.regs, .aug, .tim] T) (x0 : Fin 2) (x1 : ℤ) (e
    : (execTimeStep x0 x1 s) = .next t) : Keeps T r t := by
  have e' := Host.Outcome.next.inj e
  subst e'
  repeat' (first | with_reducible assumption | with_reducible apply Keeps.step1588 (w := w.sub (by decide)) | split)

theorem Keeps.lockStep1588 {T : List Area} {r s : State} (h : Keeps T r s) (w : within [.regs, .aug, .tim] T) (x1 : Fin 2) (x2 : ℤ) :
    Keeps T r (State.lockStep1588 s x1 x2) := by
  unfold State.lockStep1588
  repeat' (first
    | with_reducible assumption | with_reducible apply Keeps.setFlag (w := w.sub (by decide))
    | with_reducible apply Keeps.showTimLock (w := w.sub (by decide)) | with_reducible apply Keeps.writeEvent (w := w.sub (by decide))
    | fail_if_no_progress (with_reducible refine Keeps.fields ?_ (by intro p; cases p <;> first | exact .inl (w.mem (by decide)) | exact .inr rfl))
    | lift_lets -underBinder
    | (intro x; first | (refine (have hx : Keeps T r x := ?_; ?_); subst x; swap; clear_value x; swap) | subst x | skip) | split)

theorem Keeps.stamp {T : List Area} {r s : State} (h : Keeps T r s) (w : within [.free] T) (x1 : Fin 2) : Keeps T r (State.stamp s x1).2
    := by
  unfold State.stamp
  repeat' (first | with_reducible assumption | with_reducible apply Keeps.drawNat (w := w.sub (by decide)))

theorem Keeps.syncTaken {T : List Area} {r s : State} (h : Keeps T r s) (w : within [.regs, .aug, .tim, .free] T) (x1 : Fin 2) (x2 : ℤ)
    (x3 : ℤ) : Keeps T r (State.syncTaken s x1 x2 x3) := by
  unfold State.syncTaken
  repeat' (first
    | with_reducible assumption | with_reducible apply Keeps.stamp (w := w.sub (by decide))
    | with_reducible apply Keeps.setReg (w := w.sub (by decide)) | with_reducible apply Keeps.lockStep1588 (w := w.sub (by decide))
    | fail_if_no_progress (with_reducible refine Keeps.fields ?_ (by intro p; cases p <;> first | exact .inl (w.mem (by decide)) | exact .inr rfl)))

theorem Keeps.execSwitchRequest {T : List Area} {r s t : State} (h : Keeps T r s) (w : within [.regs, .mod, .aug, .tim, .sec] T) (x0 :
    Path) (x1 : Fin 2) (e : (execSwitchRequest x0 x1 s) = .next t) : Keeps T r t := by
  have e' := Host.Outcome.next.inj e
  subst e'
  repeat' (first
    | with_reducible assumption | with_reducible refine Keeps.via ?_ (w.sub (by decide)) _ _ (fun _ _ => ?_)
    | with_reducible apply Keeps.requestSwitch (w := w.sub (by decide)))

theorem Keeps.delayTaken {T : List Area} {r s : State} (h : Keeps T r s) (w : within [.regs, .free] T) (x1 : Fin 2) (x2 : ℤ) (x3 : ℤ)
    (x4 : ℤ) : Keeps T r (State.delayTaken s x1 x2 x3 x4) := by
  unfold State.delayTaken
  repeat' (first
    | with_reducible assumption | with_reducible apply Keeps.drawNat (w := w.sub (by decide))
    | with_reducible apply Keeps.setReg (w := w.sub (by decide)))

theorem Keeps.execDomainSwitch {T : List Area} {r s t : State} (h : Keeps T r s) (w : within [.regs, .aug, .tim] T)  (e :
    (execDomainSwitch s) = .next t) : Keeps T r t := by
  have e' := Host.Outcome.next.inj e
  subst e'
  repeat' (first | with_reducible assumption | with_reducible apply Keeps.switchNow (w := w.sub (by decide)) | split)

theorem Keeps.execJumpAccept {T : List Area} {r s t : State} (h : Keeps T r s) (w : within [.regs, .mod, .aug, .tim, .sec] T) (x0 :
    Path) (e : (execJumpAccept x0 s) = .next t) : Keeps T r t := by
  have e' := Host.Outcome.next.inj e
  subst e'
  repeat' (first
    | with_reducible assumption | with_reducible refine Keeps.via ?_ (w.sub (by decide)) _ _ (fun _ _ => ?_)
    | with_reducible apply Keeps.acceptJump (w := w.sub (by decide)))

theorem Keeps.ptpTaken {T : List Area} {r s : State} (h : Keeps T r s) (w : within [.regs, .aug, .tim, .free] T) (x1 : Fin 2) (x2 :
    PtpMsg) : Keeps T r (State.ptpTaken s x1 x2) := by
  unfold State.ptpTaken
  repeat' (first
    | with_reducible assumption | with_reducible apply Keeps.setFlag (w := w.sub (by decide))
    | with_reducible apply Keeps.bump (w := w.sub (by decide)) | with_reducible apply Keeps.announced (w := w.sub (by decide))
    | with_reducible apply Keeps.syncTaken (w := w.sub (by decide)) | with_reducible apply Keeps.delayTaken (w := w.sub (by decide))
    | with_reducible apply Keeps.setReg (w := w.sub (by decide)) | lift_lets -underBinder
    | (intro x; first | (refine (have hx : Keeps T r x := ?_; ?_); subst x; swap; clear_value x; swap) | subst x | skip) | split)

theorem Keeps.execPtpMessage {T : List Area} {r s t : State} (h : Keeps T r s) (w : within [.regs, .aug, .tim, .free] T) (x0 : Fin 2)
    (x1 : PtpMsg) (e : (execPtpMessage x0 x1 s) = .next t) : Keeps T r t := by
  have e' := Host.Outcome.next.inj e
  subst e'
  repeat' (first | with_reducible assumption | with_reducible apply Keeps.ptpTaken (w := w.sub (by decide)) | split)

theorem Keeps.execRateChange {T : List Area} {r s t : State} (h : Keeps T r s) (w : within [.regs, .tim] T) (x0 : Fin 2) (x1 : Word) (e
    : (execRateChange x0 x1 s) = .next t) : Keeps T r t := by
  have e' := Host.Outcome.next.inj e
  subst e'
  repeat' (first | with_reducible assumption | with_reducible apply Keeps.setRate (w := w.sub (by decide)) | split)

theorem Keeps.execPpsMissing {T : List Area} {r s t : State} (h : Keeps T r s) (w : within [.regs, .tim] T)  (e : (execPpsMissing s) =
    .next t) : Keeps T r t := by
  have e' := Host.Outcome.next.inj e
  subst e'
  repeat' (first | with_reducible assumption | with_reducible apply Keeps.ppsLate (w := w.sub (by decide)) | split)

end Sys2Proof.Machine
end

