-- ==== Sys2Proof/Laws/KeepsLanes.lean ====
section
/-!
SUPPORT. Each operation of Machine/Lanes.lean keeps what Laws/Keeps.lean names.
-/
set_option linter.unusedVariables false
set_option linter.unreachableTactic false
set_option linter.unusedTactic false
namespace Sys2Proof.Machine

theorem Keeps.retrain {T : List Area} {r s : State} (h : Keeps T r s) (w : within [.regs, .lanes, .hst, .free] T) (x1 : Fin 80) : Keeps
    T r (State.retrain s x1) := by
  unfold State.retrain
  repeat' (first | with_reducible assumption | with_reducible apply Keeps.startLane (w := w.sub (by decide)) | split)

theorem Keeps.prbsOrder {T : List Area} {r s : State} (h : Keeps T r s) (w : within [.regs, .lanes, .hst, .free] T) (x1 : Fin 80) :
    Keeps T r (State.prbsOrder s x1) := by
  unfold State.prbsOrder
  repeat' (first | with_reducible assumption | with_reducible apply Keeps.startPrbs (w := w.sub (by decide)) | split)

theorem Keeps.eyeWrite {T : List Area} {r s : State} (h : Keeps T r s) (w : within [.regs, .lanes] T) (x1 : Word) : Keeps T r
    (State.eyeWrite s x1) := by
  unfold State.eyeWrite
  repeat' (first
    | with_reducible assumption | with_reducible apply Keeps.setReg (w := w.sub (by decide))
    | with_reducible apply Keeps.setFlag (w := w.sub (by decide)) | with_reducible apply Keeps.setLane (w := w.sub (by decide))
    | lift_lets -underBinder
    | (intro x; first | (refine (have hx : Keeps T r x := ?_; ?_); subst x; swap; clear_value x; swap) | subst x | skip) | split)

theorem Keeps.endPrbs {T : List Area} {r s : State} (h : Keeps T r s) (w : within [.regs, .mod, .lanes, .ring, .hst, .free] T) (x1 : Fin
    80) (x2 : ℕ) : Keeps T r (State.endPrbs s x1 x2) := by
  unfold State.endPrbs
  repeat' (first
    | with_reducible assumption | with_reducible apply Keeps.setFlag (w := w.sub (by decide))
    | with_reducible apply Keeps.bumpBy (w := w.sub (by decide)) | with_reducible apply Keeps.setLane (w := w.sub (by decide))
    | with_reducible apply Keeps.setLaneState (w := w.sub (by decide)) | with_reducible apply Keeps.portUp (w := w.sub (by decide))
    | with_reducible apply Keeps.hostLaneUp (w := w.sub (by decide)) | lift_lets -underBinder
    | (intro x; first | (refine (have hx : Keeps T r x := ?_; ?_); subst x; swap; clear_value x; swap) | subst x | skip) | split)

theorem Keeps.trainDone {T : List Area} {r s : State} (h : Keeps T r s) (w : within [.regs, .mod, .beds, .fast, .eng, .aug, .flt, .dec,
    .lanes, .hst, .svc, .free] T) (x1 : Fin 80) : Keeps T r (State.trainDone s x1) := by
  unfold State.trainDone
  repeat' (first
    | with_reducible assumption | with_reducible apply Keeps.laneFault (w := w.sub (by decide))
    | with_reducible apply Keeps.setLaneState (w := w.sub (by decide)) | with_reducible apply Keeps.setLane (w := w.sub (by decide))
    | lift_lets -underBinder
    | (intro x; first | (refine (have hx : Keeps T r x := ?_; ?_); subst x; swap; clear_value x; swap) | subst x | skip) | split)

theorem Keeps.execTrainComplete {T : List Area} {r s t : State} (h : Keeps T r s) (w : within [.regs, .mod, .beds, .fast, .eng, .aug,
    .flt, .dec, .lanes, .hst, .svc, .free] T) (x0 : Fin 80) (e : (execTrainComplete x0 s) = .next t) : Keeps T r t := by
  have e' := Host.Outcome.next.inj e
  subst e'
  repeat' (first | with_reducible assumption | with_reducible apply Keeps.trainDone (w := w.sub (by decide)))

theorem Keeps.moveDecLane {T : List Area} {r s : State} (h : Keeps T r s) (w : within [.regs, .fast, .aug, .flt] T) (x1 : ℕ × ℕ) : Keeps
    T r (State.moveDecLane s x1) := by
  unfold State.moveDecLane
  repeat' (first
    | with_reducible assumption | with_reducible apply Keeps.setFld (w := w.sub (by decide))
    | with_reducible apply Keeps.unitMoved (w := w.sub (by decide)) | with_reducible apply Keeps.setFlag (w := w.sub (by decide))
    | with_reducible refine Keeps.foldl _ ?_ (fun _ _ _ => ?_) | lift_lets -underBinder | split)

theorem Keeps.lockTimeout {T : List Area} {r s : State} (h : Keeps T r s) (w : within [.regs, .lanes, .hst, .free] T) (x1 : Fin 80) :
    Keeps T r (State.lockTimeout s x1) := by
  unfold State.lockTimeout
  repeat' (first | with_reducible assumption | with_reducible apply Keeps.startLane (w := w.sub (by decide)) | split)

theorem Keeps.execLaneLockLossTimeout {T : List Area} {r s t : State} (h : Keeps T r s) (w : within [.regs, .lanes, .hst, .free] T) (x0
    : Fin 80) (e : (execLaneLockLossTimeout x0 s) = .next t) : Keeps T r t := by
  have e' := Host.Outcome.next.inj e
  subst e'
  repeat' (first | with_reducible assumption | with_reducible apply Keeps.lockTimeout (w := w.sub (by decide)))

theorem Keeps.rateStepped {T : List Area} {r s : State} (h : Keeps T r s) (w : within [.regs, .mod, .beds, .fast, .eng, .aug, .flt,
    .dec, .lanes, .hst, .svc, .free] T) (x1 : Fin 80) (x2 : Bool) : Keeps T r (State.rateStepped s x1 x2) := by
  unfold State.rateStepped
  repeat' (first
    | with_reducible assumption | with_reducible apply Keeps.setLaneState (w := w.sub (by decide))
    | with_reducible apply Keeps.setLane (w := w.sub (by decide)) | with_reducible apply Keeps.setLaneRate (w := w.sub (by decide))
    | with_reducible apply Keeps.setFlag (w := w.sub (by decide)) | with_reducible apply Keeps.adaptPeak (w := w.sub (by decide))
    | with_reducible apply Keeps.laneAttemptFails (w := w.sub (by decide)) | lift_lets -underBinder
    | (intro x; first | (refine (have hx : Keeps T r x := ?_; ?_); subst x; swap; clear_value x; swap) | subst x | skip) | split)

theorem Keeps.verifyDone {T : List Area} {r s : State} (h : Keeps T r s) (w : within [.regs, .mod, .beds, .fast, .eng, .aug, .flt, .dec,
    .lanes, .ring, .hst, .svc, .free] T) (x1 : Fin 80) : Keeps T r (State.verifyDone s x1) := by
  unfold State.verifyDone
  repeat' (first
    | with_reducible assumption | with_reducible apply Keeps.laneUp (w := w.sub (by decide))
    | with_reducible apply Keeps.setFlag (w := w.sub (by decide)) | with_reducible apply Keeps.setLaneState (w := w.sub (by decide))
    | with_reducible apply Keeps.setLaneRate (w := w.sub (by decide)) | with_reducible apply Keeps.setLane (w := w.sub (by decide))
    | with_reducible apply Keeps.laneAttemptFails (w := w.sub (by decide))
    | with_reducible apply Keeps.laneVerified (w := w.sub (by decide)) | lift_lets -underBinder
    | (intro x; first | (refine (have hx : Keeps T r x := ?_; ?_); subst x; swap; clear_value x; swap) | subst x | skip) | split)

theorem Keeps.lockLost {T : List Area} {r s : State} (h : Keeps T r s) (w : within [.regs, .mod, .beds, .fast, .eng, .aug, .flt, .dec,
    .lanes, .hst, .svc, .free] T) (x1 : Fin 80) : Keeps T r (State.lockLost s x1) := by
  unfold State.lockLost
  repeat' (first
    | with_reducible assumption | with_reducible apply Keeps.abortEye (w := w.sub (by decide))
    | with_reducible apply Keeps.dropItem (w := w.sub (by decide)) | with_reducible apply Keeps.setFlag (w := w.sub (by decide))
    | with_reducible apply Keeps.bump (w := w.sub (by decide)) | with_reducible apply Keeps.detectLane (w := w.sub (by decide))
    | lift_lets -underBinder
    | (intro x; first | (refine (have hx : Keeps T r x := ?_; ?_); subst x; swap; clear_value x; swap) | subst x | skip) | split)

theorem Keeps.peakMoves {T : List Area} {r s : State} (h : Keeps T r s) (w : within [.regs, .lanes] T) (x1 : Fin 80) : Keeps T r
    (State.peakMoves s x1) := by
  unfold State.peakMoves
  repeat' (first
    | with_reducible assumption | with_reducible apply Keeps.setFld (w := w.sub (by decide))
    | with_reducible apply Keeps.setLane (w := w.sub (by decide)) | lift_lets -underBinder
    | (intro x; first | (refine (have hx : Keeps T r x := ?_; ?_); subst x; swap; clear_value x; swap) | subst x | skip) | split)

theorem Keeps.execPeakStep {T : List Area} {r s t : State} (h : Keeps T r s) (w : within [.regs, .lanes] T) (x0 : Fin 80) (e :
    (execPeakStep x0 s) = .next t) : Keeps T r t := by
  have e' := Host.Outcome.next.inj e
  subst e'
  repeat' (first | with_reducible assumption | with_reducible apply Keeps.peakMoves (w := w.sub (by decide)))

theorem Keeps.execLnkRetrain {T : List Area} {r s t : State} (h : Keeps T r s) (w : within [.regs, .mod, .aug, .lanes, .hst, .sec,
    .free] T) (x0 : Path) (x1 : Fin 80) (e : (execLnkRetrain x0 x1 s) = .next t) : Keeps T r t := by
  have e' := Host.Outcome.next.inj e
  subst e'
  repeat' (first
    | with_reducible assumption | with_reducible refine Keeps.via ?_ (w.sub (by decide)) _ _ (fun _ _ => ?_)
    | with_reducible apply Keeps.retrain (w := w.sub (by decide)))

theorem Keeps.countBlockErrors {T : List Area} {r s : State} (h : Keeps T r s) (w : within [.regs] T) (x1 : Fin 80) (x2 : RxBlock) :
    Keeps T r (State.countBlockErrors s x1 x2) := by
  unfold State.countBlockErrors
  repeat' (first
    | with_reducible assumption | with_reducible apply Keeps.bump (w := w.sub (by decide))
    | with_reducible apply Keeps.setFlag (w := w.sub (by decide)) | lift_lets -underBinder
    | (intro x; first | (refine (have hx : Keeps T r x := ?_; ?_); subst x; swap; clear_value x; swap) | subst x | skip) | split)

theorem Keeps.deliverBlock {T : List Area} {r s : State} (h : Keeps T r s) (w : within [.regs, .lanes, .hst, .free] T) (x1 : Fin 80) (x2
    : RxBlock) : Keeps T r (State.deliverBlock s x1 x2) := by
  unfold State.deliverBlock
  repeat' (first
    | with_reducible assumption | with_reducible apply Keeps.countBlockErrors (w := w.sub (by decide))
    | with_reducible apply Keeps.bump64 (w := w.sub (by decide)) | with_reducible apply Keeps.failedBlock (w := w.sub (by decide))
    | with_reducible apply Keeps.trainingBlock (w := w.sub (by decide)) | with_reducible apply Keeps.streamBlock (w := w.sub (by decide))
    | lift_lets -underBinder
    | (intro x; first | (refine (have hx : Keeps T r x := ?_; ?_); subst x; swap; clear_value x; swap) | subst x | skip) | split)

theorem Keeps.lockGained {T : List Area} {r s : State} (h : Keeps T r s) (w : within [.regs] T) (x1 : Fin 80) : Keeps T r
    (State.lockGained s x1) := by
  unfold State.lockGained
  repeat' (first
    | with_reducible assumption | with_reducible apply Keeps.setFlag (w := w.sub (by decide))
    | with_reducible apply Keeps.setLaneState (w := w.sub (by decide)) | lift_lets -underBinder
    | (intro x; first | (refine (have hx : Keeps T r x := ?_; ?_); subst x; swap; clear_value x; swap) | subst x | skip) | split)

theorem Keeps.receiveLine {T : List Area} {r s : State} (h : Keeps T r s) (w : within [.regs, .mod, .beds, .fast, .eng, .aug, .flt,
    .dec, .lanes, .hst, .svc, .free] T) (x1 : Fin 80) (x2 : BitVec 1032) : Keeps T r (State.receiveLine s x1 x2) := by
  unfold State.receiveLine
  repeat' (first
    | with_reducible assumption | with_reducible apply Keeps.setLane (w := w.sub (by decide))
    | with_reducible apply Keeps.setFlag (w := w.sub (by decide)) | with_reducible apply Keeps.deliverBlock (w := w.sub (by decide))
    | with_reducible apply Keeps.lockLost (w := w.sub (by decide)) | with_reducible apply Keeps.lockGained (w := w.sub (by decide))
    | lift_lets -underBinder
    | (intro x; first | (refine (have hx : Keeps T r x := ?_; ?_); subst x; swap; clear_value x; swap) | subst x | skip) | split)

theorem Keeps.spareLanes {T : List Area} {r s : State} (h : Keeps T r s) (w : within [.regs, .fast, .aug, .flt, .dec] T) : Keeps T r
    (State.spareLanes s) := by
  unfold State.spareLanes
  repeat' (first
    | with_reducible assumption | with_reducible apply Keeps.moveDecLane (w := w.sub (by decide))
    | with_reducible refine Keeps.foldl _ ?_ (fun _ _ _ => ?_)
    | fail_if_no_progress (with_reducible refine Keeps.fields ?_ (by intro p; cases p <;> first | exact .inl (w.mem (by decide)) | exact .inr rfl))
    | lift_lets -underBinder
    | (intro x; first | (refine (have hx : Keeps T r x := ?_; ?_); subst x; swap; clear_value x; swap) | subst x | skip) | split)

theorem Keeps.execDecSpareSwitch {T : List Area} {r s t : State} (h : Keeps T r s) (w : within [.regs, .fast, .aug, .flt, .dec] T)  (e :
    (execDecSpareSwitch s) = .next t) : Keeps T r t := by
  have e' := Host.Outcome.next.inj e
  subst e'
  repeat' (first | with_reducible assumption | with_reducible apply Keeps.spareLanes (w := w.sub (by decide)))

theorem Keeps.trainExpired {T : List Area} {r s : State} (h : Keeps T r s) (w : within [.regs, .lanes] T) (x1 : Fin 80) : Keeps T r
    (State.trainExpired s x1) := by
  unfold State.trainExpired
  repeat' (first
    | with_reducible assumption | with_reducible apply Keeps.setLane (w := w.sub (by decide))
    | with_reducible apply Keeps.setLaneState (w := w.sub (by decide)) | with_reducible apply Keeps.setFlag (w := w.sub (by decide))
    | lift_lets -underBinder
    | (intro x; first | (refine (have hx : Keeps T r x := ?_; ?_); subst x; swap; clear_value x; swap) | subst x | skip) | split)

theorem Keeps.execTrainTimeout {T : List Area} {r s t : State} (h : Keeps T r s) (w : within [.regs, .lanes] T) (x0 : Fin 80) (e :
    (execTrainTimeout x0 s) = .next t) : Keeps T r t := by
  have e' := Host.Outcome.next.inj e
  subst e'
  repeat' (first | with_reducible assumption | with_reducible apply Keeps.trainExpired (w := w.sub (by decide)))

theorem Keeps.eyeEnds {T : List Area} {r s : State} (h : Keeps T r s) (w : within [.regs, .lanes] T) (x1 : Word) (x2 : U64) : Keeps T r
    (State.eyeEnds s x1 x2) := by
  unfold State.eyeEnds
  repeat' (first
    | with_reducible assumption | with_reducible apply Keeps.setReg64 (w := w.sub (by decide))
    | with_reducible apply Keeps.setReg (w := w.sub (by decide)) | with_reducible apply Keeps.setFlag (w := w.sub (by decide))
    | fail_if_no_progress (with_reducible refine Keeps.fields ?_ (by intro p; cases p <;> first | exact .inl (w.mem (by decide)) | exact .inr rfl))
    | lift_lets -underBinder
    | (intro x; first | (refine (have hx : Keeps T r x := ?_; ?_); subst x; swap; clear_value x; swap) | subst x | skip) | split)

theorem Keeps.execEyePointDone {T : List Area} {r s t : State} (h : Keeps T r s) (w : within [.regs, .lanes] T) (x0 : Word) (x1 : U64)
    (e : (execEyePointDone x0 x1 s) = .next t) : Keeps T r t := by
  have e' := Host.Outcome.next.inj e
  subst e'
  repeat' (first | with_reducible assumption | with_reducible apply Keeps.eyeEnds (w := w.sub (by decide)))

theorem Keeps.execPrbsTestDone {T : List Area} {r s t : State} (h : Keeps T r s) (w : within [.regs, .mod, .lanes, .ring, .hst, .free]
    T) (x0 : Fin 80) (x1 : ℕ) (e : (execPrbsTestDone x0 x1 s) = .next t) : Keeps T r t := by
  have e' := Host.Outcome.next.inj e
  subst e'
  repeat' (first | with_reducible assumption | with_reducible apply Keeps.endPrbs (w := w.sub (by decide)))

theorem Keeps.execLaneBlockReceived {T : List Area} {r s t : State} (h : Keeps T r s) (w : within [.regs, .mod, .beds, .fast, .eng,
    .aug, .flt, .dec, .lanes, .hst, .svc, .free] T) (x0 : Fin 80) (x1 : BitVec 1032) (e : (execLaneBlockReceived x0 x1 s) = .next t) :
    Keeps T r t := by
  have e' := Host.Outcome.next.inj e
  subst e'
  repeat' (first | with_reducible assumption | with_reducible apply Keeps.receiveLine (w := w.sub (by decide)) | split)

theorem Keeps.execRateStepDone {T : List Area} {r s t : State} (h : Keeps T r s) (w : within [.regs, .mod, .beds, .fast, .eng, .aug,
    .flt, .dec, .lanes, .hst, .svc, .free] T) (x0 : Fin 80) (x1 : Bool) (e : (execRateStepDone x0 x1 s) = .next t) : Keeps T r t := by
  have e' := Host.Outcome.next.inj e
  subst e'
  repeat' (first | with_reducible assumption | with_reducible apply Keeps.rateStepped (w := w.sub (by decide)))

theorem Keeps.execVerifyComplete {T : List Area} {r s t : State} (h : Keeps T r s) (w : within [.regs, .mod, .beds, .fast, .eng, .aug,
    .flt, .dec, .lanes, .ring, .hst, .svc, .free] T) (x0 : Fin 80) (e : (execVerifyComplete x0 s) = .next t) : Keeps T r t := by
  have e' := Host.Outcome.next.inj e
  subst e'
  repeat' (first | with_reducible assumption | with_reducible apply Keeps.verifyDone (w := w.sub (by decide)))

theorem Keeps.execPrbsTest {T : List Area} {r s t : State} (h : Keeps T r s) (w : within [.regs, .mod, .aug, .lanes, .hst, .sec, .free]
    T) (x0 : Path) (x1 : Fin 80) (e : (execPrbsTest x0 x1 s) = .next t) : Keeps T r t := by
  have e' := Host.Outcome.next.inj e
  subst e'
  repeat' (first
    | with_reducible assumption | with_reducible refine Keeps.via ?_ (w.sub (by decide)) _ _ (fun _ _ => ?_)
    | with_reducible apply Keeps.prbsOrder (w := w.sub (by decide)))

theorem Keeps.execEyePointStart {T : List Area} {r s t : State} (h : Keeps T r s) (w : within [.regs, .mod, .aug, .lanes, .sec] T) (x0 :
    Path) (x1 : Word) (e : (execEyePointStart x0 x1 s) = .next t) : Keeps T r t := by
  have e' := Host.Outcome.next.inj e
  subst e'
  repeat' (first
    | with_reducible assumption | with_reducible refine Keeps.via ?_ (w.sub (by decide)) _ _ (fun _ _ => ?_)
    | with_reducible apply Keeps.eyeWrite (w := w.sub (by decide)))

end Sys2Proof.Machine
end

