-- ==== Sys2Proof/Laws/KeepsFaults.lean ====
section
/-!
SUPPORT. Each operation of Machine/Faults.lean keeps what Laws/Keeps.lean names.
-/
set_option linter.unusedVariables false
set_option linter.unreachableTactic false
set_option linter.unusedTactic false
namespace Sys2Proof.Machine

theorem Keeps.endLaneTest {T : List Area} {r s : State} (h : Keeps T r s) (w : within [.regs, .mod, .lanes, .ring, .hst, .free] T) (x1 :
    Word) (x2 : Bool) : Keeps T r (State.endLaneTest s x1 x2) := by
  unfold State.endLaneTest
  repeat' (first
    | with_reducible assumption | with_reducible apply Keeps.endPrbs (w := w.sub (by decide)) | lift_lets -underBinder
    | (intro x; first | (refine (have hx : Keeps T r x := ?_; ?_); subst x; swap; clear_value x; swap) | subst x | skip) | split
    | dsimp -zeta only)

theorem Keeps.spareLoaded {T : List Area} {r s : State} (h : Keeps T r s) (w : within [.beds] T) (x1 : Fin 4) : Keeps T r
    (State.spareLoaded s x1) := by
  unfold State.spareLoaded
  repeat' (first | with_reducible assumption | with_reducible apply Keeps.setBed (w := w.sub (by decide)))

theorem Keeps.switchSpare {T : List Area} {r s : State} (h : Keeps T r s) (w : within [.regs, .beds, .aug, .flt] T) (x1 : Fin 4) (x2 :
    SpareLoad) (x3 : U64) : Keeps T r (State.switchSpare s x1 x2 x3) := by
  unfold State.switchSpare
  repeat' (first
    | with_reducible assumption | with_reducible apply Keeps.setBed (w := w.sub (by decide))
    | with_reducible apply Keeps.stopTouch (w := w.sub (by decide)) | with_reducible apply Keeps.setFlag (w := w.sub (by decide))
    | with_reducible apply Keeps.showStatus (w := w.sub (by decide)) | with_reducible apply Keeps.writeEvent (w := w.sub (by decide))
    | with_reducible refine Keeps.foldl _ ?_ (fun _ _ _ => ?_))

theorem Keeps.switchSpares {T : List Area} {r s : State} (h : Keeps T r s) (w : within [.regs, .beds, .aug, .flt] T) (x1 : Fin 4) :
    Keeps T r (State.switchSpares s x1) := by
  unfold State.switchSpares
  repeat' (first
    | with_reducible assumption | with_reducible apply Keeps.switchSpare (w := w.sub (by decide))
    | with_reducible refine Keeps.foldl _ ?_ (fun _ _ _ => ?_) | lift_lets -underBinder | split)

theorem Keeps.execSpareColumnSwitch {T : List Area} {r s t : State} (h : Keeps T r s) (w : within [.regs, .beds, .aug, .flt] T) (x0 :
    Fin 4) (e : (execSpareColumnSwitch x0 s) = .next t) : Keeps T r t := by
  have e' := Host.Outcome.next.inj e
  subst e'
  repeat' (first | with_reducible assumption | with_reducible apply Keeps.switchSpares (w := w.sub (by decide)) | split)

theorem Keeps.endRowTest {T : List Area} {r s : State} (h : Keeps T r s) (w : within [.eng, .flt] T) (x1 : Word) : Keeps T r
    (State.endRowTest s x1) := by
  unfold State.endRowTest
  repeat' (first
    | with_reducible assumption | with_reducible apply Keeps.setEng (w := w.sub (by decide))
    | fail_if_no_progress (with_reducible refine Keeps.fields ?_ (by intro p; cases p <;> first | exact .inl (w.mem (by decide)) | exact .inr rfl))
    | lift_lets -underBinder
    | (intro x; first | (refine (have hx : Keeps T r x := ?_; ?_); subst x; swap; clear_value x; swap) | subst x | skip) | split)

theorem Keeps.retireTested {T : List Area} {r s : State} (h : Keeps T r s) (w : within [.regs, .mod, .beds, .fast, .eng, .aug, .flt,
    .dec, .lanes, .svc, .free] T) (x1 : UnitTest) (x2 : ℕ) (x3 : List Word) : Keeps T r (State.retireTested s x1 x2 x3) := by
  unfold State.retireTested
  repeat' (first
    | with_reducible assumption | with_reducible apply Keeps.showStatus (w := w.sub (by decide))
    | with_reducible apply Keeps.setFlag (w := w.sub (by decide)) | with_reducible apply Keeps.bump (w := w.sub (by decide))
    | with_reducible apply Keeps.writeEvent (w := w.sub (by decide)) | with_reducible apply Keeps.endTouch (w := w.sub (by decide))
    | with_reducible apply Keeps.retireColumn (w := w.sub (by decide)) | with_reducible apply Keeps.retire (w := w.sub (by decide))
    | with_reducible refine Keeps.foldl _ ?_ (fun _ _ _ => ?_) | lift_lets -underBinder
    | (intro x; first | (refine (have hx : Keeps T r x := ?_; ?_); subst x; swap; clear_value x; swap) | subst x | skip) | split)

theorem Keeps.testEnds {T : List Area} {r s : State} (h : Keeps T r s) (w : within [.regs, .mod, .beds, .fast, .eng, .aug, .flt, .dec,
    .lanes, .ring, .hst, .svc, .free] T) (x1 : UnitTest) (x2 : Bool) (x3 : List Word) : Keeps T r (State.testEnds s x1 x2 x3) := by
  unfold State.testEnds
  repeat' (first
    | with_reducible assumption | with_reducible apply Keeps.endRowTest (w := w.sub (by decide))
    | with_reducible apply Keeps.endLaneTest (w := w.sub (by decide)) | with_reducible apply Keeps.showTesting (w := w.sub (by decide))
    | with_reducible apply Keeps.retireTested (w := w.sub (by decide)) | with_reducible apply Keeps.transient (w := w.sub (by decide))
    | with_reducible apply Keeps.retire (w := w.sub (by decide)) | with_reducible refine Keeps.foldl _ ?_ (fun _ _ _ => ?_)
    | fail_if_no_progress (with_reducible refine Keeps.fields ?_ (by intro p; cases p <;> first | exact .inl (w.mem (by decide)) | exact .inr rfl))
    | lift_lets -underBinder
    | (intro x; first | (refine (have hx : Keeps T r x := ?_; ?_); subst x; swap; clear_value x; swap) | subst x | skip) | split)

theorem Keeps.fillCapture {T : List Area} {r s : State} (h : Keeps T r s) (w : within [.regs, .aug, .flt] T) (x1 : Fin 2) (x2 : ℕ) :
    Keeps T r (State.fillCapture s x1 x2) := by
  unfold State.fillCapture
  repeat' (first
    | with_reducible assumption | with_reducible apply Keeps.captureEvent (w := w.sub (by decide))
    | with_reducible apply Keeps.storeCapture (w := w.sub (by decide)) | split)

theorem Keeps.unexplained {T : List Area} {r s : State} (h : Keeps T r s) (w : within [.regs, .aug, .flt] T) (x1 : Fin 2) : Keeps T r
    (State.unexplained s x1) := by
  unfold State.unexplained
  repeat' (first
    | with_reducible assumption | with_reducible apply Keeps.bump (w := w.sub (by decide))
    | with_reducible apply Keeps.writeEvent (w := w.sub (by decide)) | with_reducible apply Keeps.setFld (w := w.sub (by decide))
    | with_reducible apply Keeps.setFlag (w := w.sub (by decide))
    | fail_if_no_progress (with_reducible refine Keeps.fields ?_ (by intro p; cases p <;> first | exact .inl (w.mem (by decide)) | exact .inr rfl))
    | lift_lets -underBinder
    | (intro x; first | (refine (have hx : Keeps T r x := ?_; ?_); subst x; swap; clear_value x; swap) | subst x | skip) | split)

theorem Keeps.pairTestEnds {T : List Area} {r s : State} (h : Keeps T r s) (w : within [.regs, .mod, .beds, .fast, .eng, .aug, .flt,
    .dec, .lanes, .svc, .free] T) (x1 : PairTest) (x2 : Bool) (x3 : List Word) : Keeps T r (State.pairTestEnds s x1 x2 x3) := by
  unfold State.pairTestEnds
  repeat' (first
    | with_reducible assumption | with_reducible apply Keeps.fillCapture (w := w.sub (by decide))
    | with_reducible apply Keeps.showTesting (w := w.sub (by decide)) | with_reducible apply Keeps.unexplained (w := w.sub (by decide))
    | with_reducible apply Keeps.retire (w := w.sub (by decide)) | with_reducible refine Keeps.foldl _ ?_ (fun _ _ _ => ?_)
    | fail_if_no_progress (with_reducible refine Keeps.fields ?_ (by intro p; cases p <;> first | exact .inl (w.mem (by decide)) | exact .inr rfl))
    | lift_lets -underBinder
    | (intro x; first | (refine (have hx : Keeps T r x := ?_; ?_); subst x; swap; clear_value x; swap) | subst x | skip) | split)

theorem Keeps.bedTestEnds {T : List Area} {r s : State} (h : Keeps T r s) (w : within [.regs, .mod, .beds, .fast, .eng, .aug, .flt,
    .dec, .lanes, .svc, .free] T) (x1 : Fin 4) (x2 : List Word) : Keeps T r (State.bedTestEnds s x1 x2) := by
  unfold State.bedTestEnds
  repeat' (first
    | with_reducible assumption | with_reducible apply Keeps.setBedState (w := w.sub (by decide))
    | with_reducible apply Keeps.setBed (w := w.sub (by decide)) | with_reducible apply Keeps.retire (w := w.sub (by decide))
    | with_reducible refine Keeps.foldl _ ?_ (fun _ _ _ => ?_))

theorem Keeps.selfTestEnds {T : List Area} {r s : State} (h : Keeps T r s) (w : within [.regs, .mod, .beds, .fast, .eng, .aug, .flt,
    .dec, .lanes, .ring, .hst, .svc, .free] T) (x1 : Word) (x2 : Bool) (x3 : List Word) : Keeps T r (State.selfTestEnds s x1 x2 x3) :=
    by
  unfold State.selfTestEnds
  repeat' (first
    | with_reducible assumption | with_reducible apply Keeps.testEnds (w := w.sub (by decide))
    | with_reducible apply Keeps.pairTestEnds (w := w.sub (by decide)) | with_reducible apply Keeps.bedTestEnds (w := w.sub (by decide))
    | lift_lets -underBinder
    | (intro x; first | (refine (have hx : Keeps T r x := ?_; ?_); subst x; swap; clear_value x; swap) | subst x | skip) | split)

theorem Keeps.execFirmwareWatchdogExpiry {T : List Area} {r s t : State} (h : Keeps T r s) (w : within [.regs, .mod, .beds, .fast, .eng,
    .aug, .flt, .dec, .lanes, .svc, .free] T)  (e : (execFirmwareWatchdogExpiry s) = .next t) : Keeps T r t := by
  have e' := Host.Outcome.next.inj e
  subst e'
  repeat' (first | with_reducible assumption | with_reducible apply Keeps.detect (w := w.sub (by decide)) | split)

theorem Keeps.execSelfTestComplete {T : List Area} {r s t : State} (h : Keeps T r s) (w : within [.regs, .mod, .beds, .fast, .eng, .aug,
    .flt, .dec, .lanes, .ring, .hst, .svc, .free] T) (x0 : Word) (x1 : Bool) (x2 : List Word) (e : (execSelfTestComplete x0 x1 x2 s) =
    .next t) : Keeps T r t := by
  have e' := Host.Outcome.next.inj e
  subst e'
  repeat' (first | with_reducible assumption | with_reducible apply Keeps.selfTestEnds (w := w.sub (by decide)) | split)

theorem Keeps.execSpareColumnLoaded {T : List Area} {r s t : State} (h : Keeps T r s) (w : within [.beds] T) (x0 : Fin 4) (e :
    (execSpareColumnLoaded x0 s) = .next t) : Keeps T r t := by
  have e' := Host.Outcome.next.inj e
  subst e'
  repeat' (first | with_reducible assumption | with_reducible apply Keeps.spareLoaded (w := w.sub (by decide)) | split)

end Sys2Proof.Machine
end

