-- ==== Sys2Proof/Laws/KeepsBedCtl.lean ====
section
/-!
SUPPORT. Each operation of Machine/BedCtl.lean keeps what Laws/Keeps.lean names.
-/
set_option linter.unusedVariables false
set_option linter.unreachableTactic false
set_option linter.unusedTactic false
namespace Sys2Proof.Machine

theorem Keeps.loadTarget {T : List Area} {r s : State} (h : Keeps T r s) (w : within [.regs, .beds, .svc] T) (x1 : Load) (x2 : ℕ) (x3 :
    PhaseProg) (x4 : ℕ) (x5 : Fin 4) (x6 : List Correction) : Keeps T r (State.loadTarget s x1 x2 x3 x4 x5 x6) := by
  unfold State.loadTarget
  repeat' (first
    | with_reducible assumption | with_reducible apply Keeps.setBedState (w := w.sub (by decide))
    | with_reducible apply Keeps.setBed (w := w.sub (by decide))
    | fail_if_no_progress (with_reducible refine Keeps.upd ?_ (by first | exact SecKeeps.refl _ | exact SecKeeps.of rfl rfl rfl rfl rfl rfl) (by first | exact SvcKeeps.refl _ | exact ⟨id, id⟩ | exact SvcKeeps.idle _ | exact ⟨fun _ => mapCanon_nil _, id⟩) le_rfl (by intro p; cases p <;> first | exact .inl (w.mem (by decide)) | exact .inr rfl))
    | lift_lets -underBinder
    | (intro x; first | (refine (have hx : Keeps T r x := ?_; ?_); subst x; swap; clear_value x; swap) | subst x | skip) | split)

theorem Keeps.releaseWrite {T : List Area} {r s : State} (h : Keeps T r s) (w : within [.regs, .beds, .svc] T) (x1 : Fin 4) (x2 : Bool)
    : Keeps T r (State.releaseWrite s x1 x2) := by
  unfold State.releaseWrite
  repeat' (first
    | with_reducible assumption | with_reducible apply Keeps.setFlag (w := w.sub (by decide))
    | with_reducible apply Keeps.setBed (w := w.sub (by decide)) | with_reducible apply Keeps.loadTarget (w := w.sub (by decide))
    | lift_lets -underBinder
    | (intro x; first | (refine (have hx : Keeps T r x := ?_; ?_); subst x; swap; clear_value x; swap) | subst x | skip) | split)

theorem Keeps.corrDrop {T : List Area} {r s : State} (h : Keeps T r s) (w : within [.regs, .prog] T) (x1 : Fin 4) : Keeps T r
    (State.corrDrop s x1) := by
  unfold State.corrDrop
  repeat' (first
    | with_reducible assumption | with_reducible apply Keeps.setFld (w := w.sub (by decide))
    | fail_if_no_progress (with_reducible refine Keeps.fields ?_ (by intro p; cases p <;> first | exact .inl (w.mem (by decide)) | exact .inr rfl))
    | lift_lets -underBinder
    | (intro x; first | (refine (have hx : Keeps T r x := ?_; ?_); subst x; swap; clear_value x; swap) | subst x | skip) | split)

theorem Keeps.startBedTest {T : List Area} {r s : State} (h : Keeps T r s) (w : within [.regs, .beds] T) (x1 : Fin 4) : Keeps T r
    (State.startBedTest s x1) := by
  unfold State.startBedTest
  repeat' (first
    | with_reducible assumption | with_reducible apply Keeps.setBedState (w := w.sub (by decide))
    | with_reducible apply Keeps.setBed (w := w.sub (by decide)) | lift_lets -underBinder
    | (intro x; first | (refine (have hx : Keeps T r x := ?_; ?_); subst x; swap; clear_value x; swap) | subst x | skip) | split)

theorem Keeps.corrArm {T : List Area} {r s : State} (h : Keeps T r s) (w : within [.regs, .prog] T) (x1 : Fin 4) (x2 : Word) : Keeps T r
    (State.corrArm s x1 x2) := by
  unfold State.corrArm
  repeat' (first
    | with_reducible assumption | with_reducible apply Keeps.setReg (w := w.sub (by decide))
    | with_reducible apply Keeps.setFld (w := w.sub (by decide))
    | fail_if_no_progress (with_reducible refine Keeps.fields ?_ (by intro p; cases p <;> first | exact .inl (w.mem (by decide)) | exact .inr rfl))
    | lift_lets -underBinder
    | (intro x; first | (refine (have hx : Keeps T r x := ?_; ?_); subst x; swap; clear_value x; swap) | subst x | skip) | split)

theorem Keeps.grnStart {T : List Area} {r s : State} (h : Keeps T r s) (w : within [.regs, .grn] T) (x1 : ℕ) : Keeps T r (State.grnStart
    s x1) := by
  unfold State.grnStart
  repeat' (first
    | with_reducible assumption | with_reducible apply Keeps.setFlag (w := w.sub (by decide))
    | with_reducible apply Keeps.setFld (w := w.sub (by decide))
    | fail_if_no_progress (with_reducible refine Keeps.fields ?_ (by intro p; cases p <;> first | exact .inl (w.mem (by decide)) | exact .inr rfl))
    | lift_lets -underBinder
    | (intro x; first | (refine (have hx : Keeps T r x := ?_; ?_); subst x; swap; clear_value x; swap) | subst x | skip) | split)

theorem Keeps.grnIgnored {T : List Area} {r s : State} (h : Keeps T r s) (w : within [.regs] T) (x1 : Path) (x2 : ℕ) : Keeps T r
    (State.grnIgnored s x1 x2) := by
  unfold State.grnIgnored
  repeat' (first
    | with_reducible assumption | with_reducible apply Keeps.refuseAccess (w := w.sub (by decide))
    | with_reducible apply Keeps.setFlag (w := w.sub (by decide)))

theorem Keeps.bankWrite {T : List Area} {r s : State} (h : Keeps T r s) (w : within [.regs, .beds] T) (x1 : Path) (x2 : ℕ) (x3 : Word) :
    Keeps T r (State.bankWrite s x1 x2 x3) := by
  unfold State.bankWrite
  repeat' (first
    | with_reducible assumption | with_reducible apply Keeps.grnIgnored (w := w.sub (by decide))
    | with_reducible apply Keeps.setBed (w := w.sub (by decide)) | lift_lets -underBinder
    | (intro x; first | (refine (have hx : Keeps T r x := ?_; ?_); subst x; swap; clear_value x; swap) | subst x | skip) | split)

theorem Keeps.corrFill {T : List Area} {r s : State} (h : Keeps T r s) (w : within [.regs, .beds] T) (x1 : Path) (x2 : ℕ) (x3 : Word) :
    Keeps T r (State.corrFill s x1 x2 x3) := by
  unfold State.corrFill
  repeat' (first
    | with_reducible assumption | with_reducible apply Keeps.grnIgnored (w := w.sub (by decide))
    | with_reducible apply Keeps.setBed (w := w.sub (by decide)) | split)

theorem Keeps.grnWindow {T : List Area} {r s : State} (h : Keeps T r s) (w : within [.regs, .beds] T) (x1 : Path) (x2 : ℕ) (x3 : Word) :
    Keeps T r (State.grnWindow s x1 x2 x3) := by
  unfold State.grnWindow
  repeat' (first
    | with_reducible assumption | with_reducible apply Keeps.refuseAccess (w := w.sub (by decide))
    | with_reducible apply Keeps.bankWrite (w := w.sub (by decide)) | with_reducible apply Keeps.corrFill (w := w.sub (by decide)) | split)

theorem Keeps.execBedSelftest {T : List Area} {r s t : State} (h : Keeps T r s) (w : within [.regs, .mod, .beds, .aug, .sec] T) (x0 :
    Path) (x1 : Fin 4) (e : (execBedSelftest x0 x1 s) = .next t) : Keeps T r t := by
  have e' := Host.Outcome.next.inj e
  subst e'
  repeat' (first
    | with_reducible assumption | with_reducible refine Keeps.via ?_ (w.sub (by decide)) _ _ (fun _ _ => ?_)
    | with_reducible apply Keeps.startBedTest (w := w.sub (by decide)))

theorem Keeps.showSingle {T : List Area} {r s : State} (h : Keeps T r s) (w : within [.regs] T) (x1 : Fin 4) (x2 : Bool) : Keeps T r
    (State.showSingle s x1 x2) := by
  unfold State.showSingle
  repeat' (first | with_reducible assumption | with_reducible apply Keeps.setFlag (w := w.sub (by decide)))

theorem Keeps.releaseBed {T : List Area} {r s : State} (h : Keeps T r s) (w : within [.regs, .prog, .beds, .fast, .dec] T) (x1 : Fin 4)
    (x2 : U64) : Keeps T r (State.releaseBed s x1 x2) := by
  unfold State.releaseBed
  repeat' (first
    | with_reducible assumption | with_reducible apply Keeps.showSingle (w := w.sub (by decide))
    | with_reducible apply Keeps.setBed (w := w.sub (by decide)) | with_reducible apply Keeps.driveHold (w := w.sub (by decide))
    | fail_if_no_progress (with_reducible refine Keeps.fields ?_ (by intro p; cases p <;> first | exact .inl (w.mem (by decide)) | exact .inr rfl))
    | split)

theorem Keeps.execCorrCancel {T : List Area} {r s t : State} (h : Keeps T r s) (w : within [.regs, .mod, .prog, .aug, .sec] T) (x0 :
    Path) (x1 : Fin 4) (e : (execCorrCancel x0 x1 s) = .next t) : Keeps T r t := by
  have e' := Host.Outcome.next.inj e
  subst e'
  repeat' (first
    | with_reducible assumption | with_reducible refine Keeps.via ?_ (w.sub (by decide)) _ _ (fun _ _ => ?_)
    | with_reducible apply Keeps.corrDrop (w := w.sub (by decide)))

theorem Keeps.execGrnBankMarch {T : List Area} {r s t : State} (h : Keeps T r s) (w : within [.regs, .mod, .grn, .aug, .sec] T) (x0 :
    Path) (e : (execGrnBankMarch x0 s) = .next t) : Keeps T r t := by
  have e' := Host.Outcome.next.inj e
  subst e'
  repeat' (first
    | with_reducible assumption | with_reducible refine Keeps.via ?_ (w.sub (by decide)) _ _ (fun _ _ => ?_)
    | with_reducible apply Keeps.grnStart (w := w.sub (by decide)))

theorem Keeps.execCorrArm {T : List Area} {r s t : State} (h : Keeps T r s) (w : within [.regs, .mod, .prog, .aug, .sec] T) (x0 : Path)
    (x1 : Fin 4) (x2 : Word) (e : (execCorrArm x0 x1 x2 s) = .next t) : Keeps T r t := by
  have e' := Host.Outcome.next.inj e
  subst e'
  repeat' (first
    | with_reducible assumption | with_reducible refine Keeps.via ?_ (w.sub (by decide)) _ _ (fun _ _ => ?_)
    | with_reducible apply Keeps.corrArm (w := w.sub (by decide)) | lift_lets -underBinder | split)

theorem Keeps.execMirrorRelease {T : List Area} {r s t : State} (h : Keeps T r s) (w : within [.regs, .mod, .beds, .aug, .sec, .svc] T)
    (x0 : Path) (x1 : Fin 4) (x2 : Bool) (e : (execMirrorRelease x0 x1 x2 s) = .next t) : Keeps T r t := by
  have e' := Host.Outcome.next.inj e
  subst e'
  repeat' (first
    | with_reducible assumption | with_reducible refine Keeps.via ?_ (w.sub (by decide)) _ _ (fun _ _ => ?_)
    | with_reducible apply Keeps.releaseWrite (w := w.sub (by decide)) | lift_lets -underBinder | split)

theorem Keeps.grnEnds {T : List Area} {r s : State} (h : Keeps T r s) (w : within [.regs, .grn] T) (x1 : Bool) : Keeps T r
    (State.grnEnds s x1) := by
  unfold State.grnEnds
  repeat' (first
    | with_reducible assumption | with_reducible apply Keeps.setFlag (w := w.sub (by decide))
    | with_reducible apply Keeps.setFld (w := w.sub (by decide))
    | fail_if_no_progress (with_reducible refine Keeps.fields ?_ (by intro p; cases p <;> first | exact .inl (w.mem (by decide)) | exact .inr rfl))
    | lift_lets -underBinder
    | (intro x; first | (refine (have hx : Keeps T r x := ?_; ?_); subst x; swap; clear_value x; swap) | subst x | skip) | split)

theorem Keeps.execGrnTestDone {T : List Area} {r s t : State} (h : Keeps T r s) (w : within [.regs, .grn] T) (x0 : Bool) (e :
    (execGrnTestDone x0 s) = .next t) : Keeps T r t := by
  have e' := Host.Outcome.next.inj e
  subst e'
  repeat' (first | with_reducible assumption | with_reducible apply Keeps.grnEnds (w := w.sub (by decide)))

theorem Keeps.enterTarget {T : List Area} {r s : State} (h : Keeps T r s) (w : within [.regs, .beds] T) (x1 : Load) (x2 : PhaseProg) (x3
    : Fin 4) : Keeps T r (State.enterTarget s x1 x2 x3) := by
  unfold State.enterTarget
  repeat' (first
    | with_reducible assumption | with_reducible apply Keeps.setBed (w := w.sub (by decide))
    | with_reducible apply Keeps.setBedState (w := w.sub (by decide)) | with_reducible apply Keeps.writeBedRegs (w := w.sub (by decide))
    | lift_lets -underBinder
    | (intro x; first | (refine (have hx : Keeps T r x := ?_; ?_); subst x; swap; clear_value x; swap) | subst x | skip) | split)

theorem Keeps.rejoinBed {T : List Area} {r s : State} (h : Keeps T r s) (w : within [.regs, .prog, .beds, .fast, .dec] T) (x1 : Fin 4)
    (x2 : U64) : Keeps T r (State.rejoinBed s x1 x2) := by
  unfold State.rejoinBed
  repeat' (first
    | with_reducible assumption | with_reducible apply Keeps.enterTarget (w := w.sub (by decide))
    | with_reducible apply Keeps.showSingle (w := w.sub (by decide)) | with_reducible apply Keeps.driveHold (w := w.sub (by decide))
    | with_reducible apply Keeps.showDegraded (w := w.sub (by decide)) | with_reducible apply Keeps.setFlag (w := w.sub (by decide))
    | with_reducible apply Keeps.dropTarget (w := w.sub (by decide))
    | fail_if_no_progress (with_reducible refine Keeps.fields ?_ (by intro p; cases p <;> first | exact .inl (w.mem (by decide)) | exact .inr rfl))
    | split)

theorem Keeps.corrWrite {T : List Area} {r s : State} (h : Keeps T r s) (w : within [.regs, .prog, .beds, .aug] T) (x1 : Fin 4) (x2 : ℕ)
    (x3 : ℕ) : Keeps T r (State.corrWrite s x1 x2 x3) := by
  unfold State.corrWrite
  repeat' (first
    | with_reducible assumption | with_reducible apply Keeps.setBed (w := w.sub (by decide))
    | with_reducible apply Keeps.writeEvent (w := w.sub (by decide))
    | fail_if_no_progress (with_reducible refine Keeps.fields ?_ (by intro p; cases p <;> first | exact .inl (w.mem (by decide)) | exact .inr rfl))
    | lift_lets -underBinder
    | (intro x; first | (refine (have hx : Keeps T r x := ?_; ?_); subst x; swap; clear_value x; swap) | subst x | skip) | split)

theorem Keeps.corrCommit {T : List Area} {r s : State} (h : Keeps T r s) (w : within [.regs, .prog, .beds, .aug] T) (x1 : Fin 4) (x2 :
    U64) : Keeps T r (State.corrCommit s x1 x2) := by
  unfold State.corrCommit
  repeat' (first
    | with_reducible assumption | with_reducible apply Keeps.setBed (w := w.sub (by decide))
    | with_reducible apply Keeps.corrWrite (w := w.sub (by decide)) | with_reducible apply Keeps.setFld (w := w.sub (by decide))
    | with_reducible apply Keeps.setFlag (w := w.sub (by decide)) | with_reducible refine Keeps.foldl _ ?_ (fun _ _ _ => ?_)
    | fail_if_no_progress (with_reducible refine Keeps.fields ?_ (by intro p; cases p <;> first | exact .inl (w.mem (by decide)) | exact .inr rfl)))

theorem Keeps.execGrnWindowWrite {T : List Area} {r s t : State} (h : Keeps T r s) (w : within [.regs, .mod, .beds, .aug, .sec] T) (x0 :
    Path) (x1 : Word) (x2 : Word) (e : (execGrnWindowWrite x0 x1 x2 s) = .next t) : Keeps T r t := by
  have e' := Host.Outcome.next.inj e
  subst e'
  repeat' (first
    | with_reducible assumption | with_reducible refine Keeps.via ?_ (w.sub (by decide)) _ _ (fun _ _ => ?_)
    | with_reducible apply Keeps.grnWindow (w := w.sub (by decide)))

theorem Keeps.rejoinLoaded {T : List Area} {r s : State} (h : Keeps T r s) (w : within [.regs, .beds] T) (x1 : Fin 2) : Keeps T r
    (State.rejoinLoaded s x1) := by
  unfold State.rejoinLoaded
  repeat' (first
    | with_reducible assumption | with_reducible apply Keeps.setBed (w := w.sub (by decide))
    | with_reducible apply Keeps.dropTarget (w := w.sub (by decide)) | lift_lets -underBinder
    | (intro x; first | (refine (have hx : Keeps T r x := ?_; ?_); subst x; swap; clear_value x; swap) | subst x | skip) | split)

theorem Keeps.execMirrorRejoinLoaded {T : List Area} {r s t : State} (h : Keeps T r s) (w : within [.regs, .beds] T) (x0 : Fin 2) (e :
    (execMirrorRejoinLoaded x0 s) = .next t) : Keeps T r t := by
  have e' := Host.Outcome.next.inj e
  subst e'
  repeat' (first | with_reducible assumption | with_reducible apply Keeps.rejoinLoaded (w := w.sub (by decide)) | split)

theorem Keeps.alarmReleases {T : List Area} {r s : State} (h : Keeps T r s) (w : within [.regs, .prog, .beds, .fast, .flt, .dec] T) (x1
    : Fin 2) : Keeps T r (State.alarmReleases s x1) := by
  unfold State.alarmReleases
  repeat' (first
    | with_reducible assumption | with_reducible apply Keeps.setBed (w := w.sub (by decide))
    | with_reducible apply Keeps.releaseBed (w := w.sub (by decide)) | with_reducible apply Keeps.showDegraded (w := w.sub (by decide))
    | with_reducible apply Keeps.setFlag (w := w.sub (by decide))
    | fail_if_no_progress (with_reducible refine Keeps.fields ?_ (by intro p; cases p <;> first | exact .inl (w.mem (by decide)) | exact .inr rfl))
    | lift_lets -underBinder
    | (intro x; first | (refine (have hx : Keeps T r x := ?_; ?_); subst x; swap; clear_value x; swap) | subst x | skip) | split)

theorem Keeps.execCorrCommit {T : List Area} {r s t : State} (h : Keeps T r s) (w : within [.regs, .prog, .beds, .aug] T) (x0 : Fin 4)
    (e : (execCorrCommit x0 s) = .next t) : Keeps T r t := by
  have e' := Host.Outcome.next.inj e
  subst e'
  repeat' (first
    | with_reducible assumption | with_reducible apply Keeps.corrDrop (w := w.sub (by decide))
    | with_reducible apply Keeps.corrCommit (w := w.sub (by decide)) | split)

theorem Keeps.mirrorBoundary {T : List Area} {r s : State} (h : Keeps T r s) (w : within [.regs, .prog, .beds, .fast, .flt, .dec] T) :
    Keeps T r (State.mirrorBoundary s) := by
  unfold State.mirrorBoundary
  repeat' (first
    | with_reducible assumption | with_reducible apply Keeps.alarmReleases (w := w.sub (by decide))
    | with_reducible apply Keeps.releaseBed (w := w.sub (by decide)) | with_reducible apply Keeps.rejoinBed (w := w.sub (by decide))
    | with_reducible refine Keeps.foldl _ ?_ (fun _ _ _ => ?_) | lift_lets -underBinder
    | (intro x; first | (refine (have hx : Keeps T r x := ?_; ?_); subst x; swap; clear_value x; swap) | subst x | skip) | split)

theorem Keeps.execMirrorReleaseBoundary {T : List Area} {r s t : State} (h : Keeps T r s) (w : within [.regs, .prog, .beds, .fast, .flt,
    .dec] T)  (e : (execMirrorReleaseBoundary s) = .next t) : Keeps T r t := by
  have e' := Host.Outcome.next.inj e
  subst e'
  repeat' (first | with_reducible assumption | with_reducible apply Keeps.mirrorBoundary (w := w.sub (by decide)) | split)

theorem Keeps.execGrnSnapshotStatus {T : List Area} {r s t : State} (h : Keeps T r s) (w : within [.regs, .mod, .grn, .aug, .sec] T) (x0
    : Path) (e : (execGrnSnapshotStatus x0 s) = .next t) : Keeps T r t := by
  have e' := Host.Outcome.next.inj e
  subst e'
  repeat' (first
    | with_reducible assumption | with_reducible refine Keeps.via ?_ (w.sub (by decide)) _ _ (fun _ _ => ?_)
    | with_reducible apply Keeps.grnStart (w := w.sub (by decide)))

theorem Keeps.execGrnMacScan {T : List Area} {r s t : State} (h : Keeps T r s) (w : within [.regs, .mod, .grn, .aug, .sec] T) (x0 :
    Path) (e : (execGrnMacScan x0 s) = .next t) : Keeps T r t := by
  have e' := Host.Outcome.next.inj e
  subst e'
  repeat' (first
    | with_reducible assumption | with_reducible refine Keeps.via ?_ (w.sub (by decide)) _ _ (fun _ _ => ?_)
    | with_reducible apply Keeps.grnStart (w := w.sub (by decide)))

end Sys2Proof.Machine
end

