-- ==== Sys2Proof/Laws/KeepsService.lean ====
section
/-!
SUPPORT. Each operation of Machine/Service.lean keeps what Laws/Keeps.lean names.
-/
set_option linter.unusedVariables false
set_option linter.unreachableTactic false
set_option linter.unusedTactic false
namespace Sys2Proof.Machine

theorem Keeps.refuseRot {T : List Area} {r s : State} (h : Keeps T r s) (w : within [.regs, .aug] T) (x1 : ℕ) (x2 : ℕ) : Keeps T r
    (State.refuseRot s x1 x2) := by
  unfold State.refuseRot
  repeat' (first
    | with_reducible assumption | with_reducible apply Keeps.setFld (w := w.sub (by decide))
    | with_reducible apply Keeps.refuseLoad (w := w.sub (by decide)))

theorem Keeps.openRot {T : List Area} {r s : State} (h : Keeps T r s) (w : within [.regs, .prog, .beds, .aug, .svc] T) (x1 : RotFrom)
    (x2 : Bool) : Keeps T r (State.openRot s x1 x2) := by
  unfold State.openRot
  repeat' (first
    | with_reducible assumption | with_reducible apply Keeps.loadTarget (w := w.sub (by decide))
    | with_reducible apply Keeps.setFld (w := w.sub (by decide)) | with_reducible apply Keeps.setFlag (w := w.sub (by decide))
    | with_reducible apply Keeps.showLoad (w := w.sub (by decide)) | with_reducible apply Keeps.writePair (w := w.sub (by decide))
    | with_reducible refine Keeps.foldl _ ?_ (fun _ _ _ => ?_)
    | fail_if_no_progress (with_reducible refine Keeps.fields ?_ (by intro p; cases p <;> first | exact .inl (w.mem (by decide)) | exact .inr rfl))
    | fail_if_no_progress (with_reducible refine Keeps.upd ?_ (by first | exact SecKeeps.refl _ | exact SecKeeps.of rfl rfl rfl rfl rfl rfl) (by first | exact SvcKeeps.refl _ | exact ⟨id, id⟩ | exact SvcKeeps.idle _ | exact ⟨fun _ => mapCanon_nil _, id⟩) le_rfl (by intro p; cases p <;> first | exact .inl (w.mem (by decide)) | exact .inr rfl))
    | lift_lets -underBinder
    | (intro x; first | (refine (have hx : Keeps T r x := ?_; ?_); subst x; swap; clear_value x; swap) | subst x | skip) | split)

theorem Keeps.loadRot {T : List Area} {r s : State} (h : Keeps T r s) (w : within [.regs, .prog, .beds, .aug, .svc] T) : Keeps T r
    (State.loadRot s) := by
  unfold State.loadRot
  repeat' (first
    | with_reducible assumption | with_reducible apply Keeps.setFld (w := w.sub (by decide))
    | with_reducible apply Keeps.refuseRot (w := w.sub (by decide)) | with_reducible apply Keeps.openRot (w := w.sub (by decide))
    | lift_lets -underBinder
    | (intro x; first | (refine (have hx : Keeps T r x := ?_; ?_); subst x; swap; clear_value x; swap) | subst x | skip) | split)

theorem Keeps.armRot {T : List Area} {r s : State} (h : Keeps T r s) (w : within [.regs, .aug, .svc] T) (x1 : Word) : Keeps T r
    (State.armRot s x1) := by
  unfold State.armRot
  repeat' (first
    | with_reducible assumption | with_reducible apply Keeps.setReg (w := w.sub (by decide))
    | with_reducible apply Keeps.setFld (w := w.sub (by decide)) | with_reducible apply Keeps.writeEvent (w := w.sub (by decide))
    | with_reducible apply Keeps.setReg64 (w := w.sub (by decide)) | with_reducible apply Keeps.setFlag (w := w.sub (by decide))
    | fail_if_no_progress (with_reducible refine Keeps.upd ?_ (by first | exact SecKeeps.refl _ | exact SecKeeps.of rfl rfl rfl rfl rfl rfl) (by first | exact SvcKeeps.refl _ | exact ⟨id, id⟩ | exact SvcKeeps.idle _ | exact ⟨fun _ => mapCanon_nil _, id⟩) le_rfl (by intro p; cases p <;> first | exact .inl (w.mem (by decide)) | exact .inr rfl))
    | lift_lets -underBinder
    | (intro x; first | (refine (have hx : Keeps T r x := ?_; ?_); subst x; swap; clear_value x; swap) | subst x | skip) | split)

theorem Keeps.setUcPort {T : List Area} {r s : State} (h : Keeps T r s) (w : within [.svc] T) (x1 : ℕ) (x2 : UcPort) : Keeps T r
    (State.setUcPort s x1 x2) := by
  unfold State.setUcPort
  repeat' (first
    | with_reducible assumption
    | fail_if_no_progress (with_reducible refine Keeps.upd ?_ (by first | exact SecKeeps.refl _ | exact SecKeeps.of rfl rfl rfl rfl rfl rfl) (by first | exact SvcKeeps.refl _ | exact ⟨id, id⟩ | exact SvcKeeps.idle _ | exact ⟨fun _ => mapCanon_nil _, id⟩) le_rfl (by intro p; cases p <;> first | exact .inl (w.mem (by decide)) | exact .inr rfl)))

theorem Keeps.ucVerifies {T : List Area} {r s : State} (h : Keeps T r s) (w : within [.regs, .svc] T) : Keeps T r (State.ucVerifies s)
    := by
  unfold State.ucVerifies
  repeat' (first
    | with_reducible assumption | with_reducible apply Keeps.setFld (w := w.sub (by decide))
    | with_reducible apply Keeps.setUcPort (w := w.sub (by decide)) | lift_lets -underBinder
    | (intro x; first | (refine (have hx : Keeps T r x := ?_; ?_); subst x; swap; clear_value x; swap) | subst x | skip) | split)

theorem Keeps.ucArms {T : List Area} {r s : State} (h : Keeps T r s) (w : within [.regs, .svc] T) : Keeps T r (State.ucArms s) := by
  unfold State.ucArms
  repeat' (first
    | with_reducible assumption | with_reducible apply Keeps.setFld (w := w.sub (by decide))
    | fail_if_no_progress (with_reducible refine Keeps.upd ?_ (by first | exact SecKeeps.refl _ | exact SecKeeps.of rfl rfl rfl rfl rfl rfl) (by first | exact SvcKeeps.refl _ | exact ⟨id, id⟩ | exact SvcKeeps.idle _ | exact ⟨fun _ => mapCanon_nil _, id⟩) le_rfl (by intro p; cases p <;> first | exact .inl (w.mem (by decide)) | exact .inr rfl))
    | lift_lets -underBinder
    | (intro x; first | (refine (have hx : Keeps T r x := ?_; ?_); subst x; swap; clear_value x; swap) | subst x | skip) | split)

theorem Keeps.ucCancels {T : List Area} {r s : State} (h : Keeps T r s) (w : within [.regs, .svc] T) : Keeps T r (State.ucCancels s) := by
  unfold State.ucCancels
  repeat' (first
    | with_reducible assumption | with_reducible apply Keeps.setFld (w := w.sub (by decide))
    | fail_if_no_progress (with_reducible refine Keeps.upd ?_ (by first | exact SecKeeps.refl _ | exact SecKeeps.of rfl rfl rfl rfl rfl rfl) (by first | exact SvcKeeps.refl _ | exact ⟨id, id⟩ | exact SvcKeeps.idle _ | exact ⟨fun _ => mapCanon_nil _, id⟩) le_rfl (by intro p; cases p <;> first | exact .inl (w.mem (by decide)) | exact .inr rfl))
    | lift_lets -underBinder
    | (intro x; first | (refine (have hx : Keeps T r x := ?_; ?_); subst x; swap; clear_value x; swap) | subst x | skip) | split)

theorem Keeps.execUcCancel {T : List Area} {r s t : State} (h : Keeps T r s) (w : within [.regs, .mod, .aug, .sec, .svc] T) (x0 : Path)
    (e : (execUcCancel x0 s) = .next t) : Keeps T r t := by
  have e' := Host.Outcome.next.inj e
  subst e'
  repeat' (first
    | with_reducible assumption | with_reducible refine Keeps.via ?_ (w.sub (by decide)) _ _ (fun _ _ => ?_)
    | with_reducible apply Keeps.ucCancels (w := w.sub (by decide)))

theorem Keeps.oldIdle {T : List Area} {r s : State} (h : Keeps T r s) (w : within [.regs, .beds] T) (x1 : Fin 4) : Keeps T r
    (State.oldIdle s x1) := by
  unfold State.oldIdle
  repeat' (first
    | with_reducible assumption | with_reducible apply Keeps.setFlag (w := w.sub (by decide))
    | with_reducible apply Keeps.clearBed (w := w.sub (by decide)) | lift_lets -underBinder
    | (intro x; first | (refine (have hx : Keeps T r x := ?_; ?_); subst x; swap; clear_value x; swap) | subst x | skip) | split)

theorem Keeps.execOldBedIdle {T : List Area} {r s t : State} (h : Keeps T r s) (w : within [.regs, .beds] T) (x0 : Fin 4) (e :
    (execOldBedIdle x0 s) = .next t) : Keeps T r t := by
  have e' := Host.Outcome.next.inj e
  subst e'
  repeat' (first | with_reducible assumption | with_reducible apply Keeps.oldIdle (w := w.sub (by decide)) | split)

theorem Keeps.execUcArm {T : List Area} {r s t : State} (h : Keeps T r s) (w : within [.regs, .mod, .aug, .sec, .svc] T) (x0 : Path) (e
    : (execUcArm x0 s) = .next t) : Keeps T r t := by
  have e' := Host.Outcome.next.inj e
  subst e'
  repeat' (first
    | with_reducible assumption | with_reducible refine Keeps.via ?_ (w.sub (by decide)) _ _ (fun _ _ => ?_)
    | with_reducible apply Keeps.ucArms (w := w.sub (by decide)))

theorem Keeps.placeAgain {T : List Area} {r s : State} (h : Keeps T r s) (w : within [.regs, .beds, .svc] T) (x1 : RotFrom) (x2 : Bool)
    (x3 : ℕ) (x4 : Fin 4) : Keeps T r (State.placeAgain s x1 x2 x3 x4) := by
  unfold State.placeAgain
  repeat' (first
    | with_reducible assumption | with_reducible apply Keeps.loadTarget (w := w.sub (by decide)) | lift_lets -underBinder
    | (intro x; first | (refine (have hx : Keeps T r x := ?_; ?_); subst x; swap; clear_value x; swap) | subst x | skip) | split)

theorem Keeps.rotLoaded {T : List Area} {r s : State} (h : Keeps T r s) (w : within [.regs, .beds, .aug, .svc] T) : Keeps T r
    (State.rotLoaded s) := by
  unfold State.rotLoaded
  repeat' (first
    | with_reducible assumption | with_reducible apply Keeps.refuseRot (w := w.sub (by decide))
    | with_reducible apply Keeps.cancelRotation (w := w.sub (by decide)) | with_reducible apply Keeps.placeAgain (w := w.sub (by decide))
    | with_reducible apply Keeps.setReg (w := w.sub (by decide)) | with_reducible apply Keeps.setFld (w := w.sub (by decide))
    | with_reducible refine Keeps.foldl _ ?_ (fun _ _ _ => ?_)
    | fail_if_no_progress (with_reducible refine Keeps.upd ?_ (by first | exact SecKeeps.refl _ | exact SecKeeps.of rfl rfl rfl rfl rfl rfl) (by first | exact SvcKeeps.refl _ | exact ⟨id, id⟩ | exact SvcKeeps.idle _ | exact ⟨fun _ => mapCanon_nil _, id⟩) le_rfl (by intro p; cases p <;> first | exact .inl (w.mem (by decide)) | exact .inr rfl))
    | lift_lets -underBinder
    | (intro x; first | (refine (have hx : Keeps T r x := ?_; ?_); subst x; swap; clear_value x; swap) | subst x | skip) | split)

theorem Keeps.execUcVerify {T : List Area} {r s t : State} (h : Keeps T r s) (w : within [.regs, .mod, .aug, .sec, .svc] T) (x0 : Path)
    (e : (execUcVerify x0 s) = .next t) : Keeps T r t := by
  have e' := Host.Outcome.next.inj e
  subst e'
  repeat' (first
    | with_reducible assumption | with_reducible refine Keeps.via ?_ (w.sub (by decide)) _ _ (fun _ _ => ?_)
    | with_reducible apply Keeps.ucVerifies (w := w.sub (by decide)))

theorem Keeps.changeEngine {T : List Area} {r s : State} (h : Keeps T r s) (w : within [.fast, .eng] T) (x1 : RotFrom) (x2 : Fin 2) (x3
    : U64) : Keeps T r (State.changeEngine s x1 x2 x3) := by
  unfold State.changeEngine
  repeat' (first
    | with_reducible assumption | with_reducible apply Keeps.addStart (w := w.sub (by decide))
    | with_reducible apply Keeps.setEng (w := w.sub (by decide)) | lift_lets -underBinder
    | (intro x; first | (refine (have hx : Keeps T r x := ?_; ?_); subst x; swap; clear_value x; swap) | subst x | skip) | split)

theorem Keeps.changePhase {T : List Area} {r s : State} (h : Keeps T r s) (w : within [.regs, .mod, .prog, .beds, .fast, .eng, .aug,
    .stm, .dec, .tim, .svc] T) (x1 : Rotation) (x2 : RotFrom) (x3 : U64) : Keeps T r (State.changePhase s x1 x2 x3) := by
  unfold State.changePhase
  repeat' (first
    | with_reducible assumption | with_reducible apply Keeps.closeRuns (w := w.sub (by decide))
    | with_reducible apply Keeps.flushLate (w := w.sub (by decide)) | with_reducible apply Keeps.corrDrop (w := w.sub (by decide))
    | with_reducible apply Keeps.changeEngine (w := w.sub (by decide)) | with_reducible apply Keeps.setBed (w := w.sub (by decide))
    | with_reducible apply Keeps.enterTarget (w := w.sub (by decide)) | with_reducible apply Keeps.writeBedRegs (w := w.sub (by decide))
    | with_reducible apply Keeps.writePhaseRegs (w := w.sub (by decide)) | with_reducible apply Keeps.showRole (w := w.sub (by decide))
    | with_reducible apply Keeps.setFld (w := w.sub (by decide)) | with_reducible apply Keeps.driveHold (w := w.sub (by decide))
    | with_reducible apply Keeps.writeEventAt (w := w.sub (by decide)) | with_reducible refine Keeps.foldl _ ?_ (fun _ _ _ => ?_)
    | fail_if_no_progress (with_reducible refine Keeps.fields ?_ (by intro p; cases p <;> first | exact .inl (w.mem (by decide)) | exact .inr rfl))
    | fail_if_no_progress (with_reducible refine Keeps.upd ?_ (by first | exact SecKeeps.refl _ | exact SecKeeps.of rfl rfl rfl rfl rfl rfl) (by first | exact SvcKeeps.refl _ | exact ⟨id, id⟩ | exact SvcKeeps.idle _ | exact ⟨fun _ => mapCanon_nil _, id⟩) le_rfl (by intro p; cases p <;> first | exact .inl (w.mem (by decide)) | exact .inr rfl))
    | lift_lets -underBinder | split)

theorem Keeps.execRotCancel {T : List Area} {r s t : State} (h : Keeps T r s) (w : within [.regs, .mod, .beds, .aug, .sec, .svc] T) (x0
    : Path) (e : (execRotCancel x0 s) = .next t) : Keeps T r t := by
  have e' := Host.Outcome.next.inj e
  subst e'
  repeat' (first
    | with_reducible assumption | with_reducible refine Keeps.via ?_ (w.sub (by decide)) _ _ (fun _ _ => ?_)
    | with_reducible apply Keeps.cancelRotation (w := w.sub (by decide)))

theorem Keeps.execRotLoad {T : List Area} {r s t : State} (h : Keeps T r s) (w : within [.regs, .mod, .prog, .beds, .aug, .sec, .svc] T)
    (x0 : Path) (e : (execRotLoad x0 s) = .next t) : Keeps T r t := by
  have e' := Host.Outcome.next.inj e
  subst e'
  repeat' (first
    | with_reducible assumption | with_reducible refine Keeps.via ?_ (w.sub (by decide)) _ _ (fun _ _ => ?_)
    | with_reducible apply Keeps.loadRot (w := w.sub (by decide)))

theorem Keeps.execRotLoadComplete {T : List Area} {r s t : State} (h : Keeps T r s) (w : within [.regs, .beds, .aug, .svc] T)  (e :
    (execRotLoadComplete s) = .next t) : Keeps T r t := by
  have e' := Host.Outcome.next.inj e
  subst e'
  repeat' (first | with_reducible assumption | with_reducible apply Keeps.rotLoaded (w := w.sub (by decide)) | split)

theorem Keeps.execRotArm {T : List Area} {r s t : State} (h : Keeps T r s) (w : within [.regs, .mod, .aug, .sec, .svc] T) (x0 : Path)
    (x1 : Word) (e : (execRotArm x0 x1 s) = .next t) : Keeps T r t := by
  have e' := Host.Outcome.next.inj e
  subst e'
  repeat' (first
    | with_reducible assumption | with_reducible refine Keeps.via ?_ (w.sub (by decide)) _ _ (fun _ _ => ?_)
    | with_reducible apply Keeps.armRot (w := w.sub (by decide)))

theorem Keeps.execRotChangeHorizon {T : List Area} {r s t : State} (h : Keeps T r s) (w : within [.regs, .mod, .prog, .beds, .fast,
    .eng, .aug, .stm, .dec, .tim, .svc] T)  (e : (execRotChangeHorizon s) = .next t) : Keeps T r t := by
  have e' := Host.Outcome.next.inj e
  subst e'
  repeat' (first | with_reducible assumption | with_reducible apply Keeps.changePhase (w := w.sub (by decide)) | split)

theorem Keeps.stagedCopied {T : List Area} {r s : State} (h : Keeps T r s) (w : within [.prog] T) : Keeps T r (State.stagedCopied s) := by
  unfold State.stagedCopied
  repeat' (first
    | with_reducible assumption
    | fail_if_no_progress (with_reducible refine Keeps.fields ?_ (by intro p; cases p <;> first | exact .inl (w.mem (by decide)) | exact .inr rfl)))

theorem Keeps.execStagedImageCopyDone {T : List Area} {r s t : State} (h : Keeps T r s) (w : within [.prog] T)  (e :
    (execStagedImageCopyDone s) = .next t) : Keeps T r t := by
  have e' := Host.Outcome.next.inj e
  subst e'
  repeat' (first | with_reducible assumption | with_reducible apply Keeps.stagedCopied (w := w.sub (by decide)) | split)

theorem Keeps.ucSwaps {T : List Area} {r s : State} (h : Keeps T r s) (w : within [.regs, .svc] T) (x1 : ℕ) : Keeps T r (State.ucSwaps s
    x1) := by
  unfold State.ucSwaps
  repeat' (first
    | with_reducible assumption | with_reducible apply Keeps.setUcPort (w := w.sub (by decide))
    | with_reducible apply Keeps.setFld (w := w.sub (by decide))
    | fail_if_no_progress (with_reducible refine Keeps.upd ?_ (by first | exact SecKeeps.refl _ | exact SecKeeps.of rfl rfl rfl rfl rfl rfl) (by first | exact SvcKeeps.refl _ | exact ⟨id, id⟩ | exact SvcKeeps.idle _ | exact ⟨fun _ => mapCanon_nil _, id⟩) le_rfl (by intro p; cases p <;> first | exact .inl (w.mem (by decide)) | exact .inr rfl))
    | lift_lets -underBinder
    | (intro x; first | (refine (have hx : Keeps T r x := ?_; ?_); subst x; swap; clear_value x; swap) | subst x | skip) | split)

theorem Keeps.execUcSwap {T : List Area} {r s t : State} (h : Keeps T r s) (w : within [.regs, .svc] T)  (e : (execUcSwap s) = .next t)
    : Keeps T r t := by
  have e' := Host.Outcome.next.inj e
  subst e'
  repeat' (first | with_reducible assumption | with_reducible apply Keeps.ucSwaps (w := w.sub (by decide)) | split)

end Sys2Proof.Machine
end

