-- ==== Sys2Proof/Laws/KeepsView.lean ====
section
/-!
SUPPORT. Each operation of Machine/View.lean keeps what Laws/Keeps.lean names.
-/
set_option linter.unusedVariables false
set_option linter.unreachableTactic false
set_option linter.unusedTactic false
namespace Sys2Proof.Machine

theorem Keeps.arrives {T : List Area} {r s : State} (h : Keeps T r s) (w : within [.regs, .mod, .aug, .sec] T) (x1 : Path) : Keeps T r
    (State.arrives s x1) := by
  unfold State.arrives
  repeat' (first
    | with_reducible assumption | with_reducible apply Keeps.accessSeen (w := w.sub (by decide))
    | with_reducible apply Keeps.pathUsed (w := w.sub (by decide)))

theorem Keeps.waitForSilt {T : List Area} {r s : State} (h : Keeps T r s) (w : within [.svc] T) (x1 : Path) (x2 : ℕ) (x3 : Option Word)
    : Keeps T r (State.waitForSilt s x1 x2 x3) := by
  unfold State.waitForSilt
  repeat' (first
    | with_reducible assumption
    | fail_if_no_progress (with_reducible refine Keeps.upd ?_ (by first | exact SecKeeps.refl _ | exact SecKeeps.of rfl rfl rfl rfl rfl rfl) (by first | exact SvcKeeps.refl _ | exact ⟨id, id⟩ | exact SvcKeeps.idle _ | exact ⟨fun _ => mapCanon_nil _, id⟩) le_rfl (by intro p; cases p <;> first | exact .inl (w.mem (by decide)) | exact .inr rfl)))

theorem Keeps.readClears {T : List Area} {r s : State} (h : Keeps T r s) (w : within [.regs] T) (x1 : ℕ) : Keeps T r (State.readClears s
    x1) := by
  unfold State.readClears
  repeat' (first | with_reducible assumption | with_reducible apply Keeps.setReg (w := w.sub (by decide)) | split)

theorem Keeps.latch {T : List Area} {r s : State} (h : Keeps T r s) (w : within [.latches] T) (x1 : Path) (x2 : ℕ) : Keeps T r
    (State.latch s x1 x2) := by
  unfold State.latch
  repeat' (first
    | with_reducible assumption
    | fail_if_no_progress (with_reducible refine Keeps.fields ?_ (by intro p; cases p <;> first | exact .inl (w.mem (by decide)) | exact .inr rfl)))

theorem Keeps.readReg {T : List Area} {r s : State} (h : Keeps T r s) (w : within [.regs, .latches, .free] T) (x1 : Path) (x2 : ℕ) :
    Keeps T r (State.readReg s x1 x2).2 := by
  unfold State.readReg
  repeat' (first
    | with_reducible assumption | with_reducible apply Keeps.drawNat (w := w.sub (by decide))
    | with_reducible apply Keeps.readClears (w := w.sub (by decide)) | with_reducible apply Keeps.latch (w := w.sub (by decide))
    | lift_lets -underBinder
    | (intro x; first | (refine (have hx : Keeps T r x := ?_; ?_); subst x; swap; clear_value x; swap) | subst x | skip) | split)

theorem Keeps.readOpen {T : List Area} {r s : State} (h : Keeps T r s) (w : within [.free] T) (x1 : ℕ → Option Byte) (x2 : ℕ) : Keeps T
    r (State.readOpen s x1 x2).2 := by
  unfold State.readOpen
  repeat' (first | with_reducible assumption | with_reducible apply Keeps.drawBytes (w := w.sub (by decide)))

theorem Keeps.readGrain {T : List Area} {r s : State} (h : Keeps T r s) (w : within [.free] T) (x1 : ℕ) : Keeps T r (State.readGrain s
    x1).2 := by
  unfold State.readGrain
  repeat' (first
    | with_reducible assumption | with_reducible apply Keeps.readOpen (w := w.sub (by decide)) | lift_lets -underBinder
    | (intro x; first | (refine (have hx : Keeps T r x := ?_; ?_); subst x; swap; clear_value x; swap) | subst x | skip) | split)

theorem Keeps.readSilt {T : List Area} {r s : State} (h : Keeps T r s) (w : within [.free] T) (x1 : Fin 2) (x2 : ℕ) : Keeps T r
    (State.readSilt s x1 x2).2 := by
  unfold State.readSilt
  repeat' (first | with_reducible assumption | with_reducible apply Keeps.readOpen (w := w.sub (by decide)))

theorem Keeps.readTail {T : List Area} {r s : State} (h : Keeps T r s) (w : within [.svc, .free] T) (x1 : ℕ) : Keeps T r (State.readTail
    s x1).2 := by
  unfold State.readTail
  repeat' (first
    | with_reducible assumption | with_reducible apply Keeps.readOpen (w := w.sub (by decide))
    | fail_if_no_progress (with_reducible refine Keeps.upd ?_ (by first | exact SecKeeps.refl _ | exact SecKeeps.of rfl rfl rfl rfl rfl rfl) (by first | exact SvcKeeps.refl _ | exact ⟨id, id⟩ | exact SvcKeeps.idle _ | exact ⟨fun _ => mapCanon_nil _, id⟩) le_rfl (by intro p; cases p <;> first | exact .inl (w.mem (by decide)) | exact .inr rfl)))

theorem Keeps.readWindow {T : List Area} {r s : State} (h : Keeps T r s) (w : within [.svc, .free] T) (x1 : ℕ) : Keeps T r
    (State.readWindow s x1).2 := by
  unfold State.readWindow
  repeat' (first
    | with_reducible assumption | with_reducible apply Keeps.readGrain (w := w.sub (by decide))
    | with_reducible apply Keeps.readSilt (w := w.sub (by decide)) | with_reducible apply Keeps.readTail (w := w.sub (by decide)) | split)

theorem Keeps.readAt {T : List Area} {r s : State} (h : Keeps T r s) (w : within [.regs, .latches, .svc, .free] T) (x1 : Path) (x2 : ℕ)
    : Keeps T r (State.readAt s x1 x2).2 := by
  unfold State.readAt
  repeat' (first
    | with_reducible assumption | with_reducible apply Keeps.readReg (w := w.sub (by decide))
    | with_reducible apply Keeps.readWindow (w := w.sub (by decide)) | split)

theorem Keeps.answer {T : List Area} {r s : State} (h : Keeps T r s) (w : within [.answers] T) (x1 : Path) (x2 : Word) : Keeps T r
    (State.answer s x1 x2) := by
  unfold State.answer
  repeat' (first
    | with_reducible assumption
    | fail_if_no_progress (with_reducible refine Keeps.fields ?_ (by intro p; cases p <;> first | exact .inl (w.mem (by decide)) | exact .inr rfl)))

theorem Keeps.readNow {T : List Area} {r s : State} (h : Keeps T r s) (w : within [.regs, .latches, .answers, .svc, .free] T) (x1 :
    Path) (x2 : ℕ) : Keeps T r (State.readNow s x1 x2).2.2 := by
  unfold State.readNow
  repeat' (first
    | with_reducible assumption | with_reducible apply Keeps.readAt (w := w.sub (by decide))
    | with_reducible apply Keeps.refuseAccess (w := w.sub (by decide)) | with_reducible apply Keeps.answer (w := w.sub (by decide))
    | lift_lets -underBinder | split)

theorem Keeps.readAccess {T : List Area} {r s : State} (h : Keeps T r s) (w : within [.regs, .latches, .answers, .mod, .aug, .sec, .svc,
    .free] T) (x1 : Path) (x2 : ℕ) : Keeps T r (State.readAccess s x1 x2).2.2 := by
  unfold State.readAccess
  repeat' (first
    | with_reducible assumption | with_reducible apply Keeps.arrives (w := w.sub (by decide))
    | with_reducible apply Keeps.waitForSilt (w := w.sub (by decide)) | with_reducible apply Keeps.readNow (w := w.sub (by decide))
    | lift_lets -underBinder
    | (intro x; first | (refine (have hx : Keeps T r x := ?_; ?_); subst x; swap; clear_value x; swap) | subst x | skip) | split)

end Sys2Proof.Machine
end

