-- ==== Sys2Proof/Laws/KeepsRegWrite.lean ====
section
/-!
SUPPORT. Each operation of Machine/RegWrite.lean keeps what Laws/Keeps.lean names.
-/
set_option linter.unusedVariables false
set_option linter.unreachableTactic false
set_option linter.unusedTactic false
namespace Sys2Proof.Machine

theorem Keeps.onBit {T : List Area} {r s : State} (h : Keeps T r s) (v : Word) (i : Nat) {f : State → State} (hf : ∀ t, Keeps T r t →
    Keeps T r (f t)) :
    Keeps T r (s.onBit v i f) := by
  unfold State.onBit
  split
  · exact hf s h
  · exact h

theorem mapCanon_putWord {m : Map Byte} (a : Nat) (v : Word) (h : mapCanon zeroByte m) : mapCanon zeroByte (putWord m a v) :=
  mapCanon_putBytes _ _ h

theorem Keeps.storeBits {T : List Area} {r s : State} (h : Keeps T r s) (w : within [.regs] T) (x1 : ℕ) (x2 : Word) (x3 : Word) : Keeps
    T r (State.storeBits s x1 x2 x3) := by
  unfold State.storeBits
  repeat' (first | with_reducible assumption | with_reducible apply Keeps.setReg (w := w.sub (by decide)))

theorem Keeps.writeTimCtl {T : List Area} {r s : State} (h : Keeps T r s) (w : within [.regs, .aug, .tim] T) (x1 : Word) : Keeps T r
    (State.writeTimCtl s x1) := by
  unfold State.writeTimCtl
  repeat' (first
    | with_reducible assumption | with_reducible refine Keeps.onBit ?_ _ _ (fun _ _ => ?_)
    | with_reducible apply Keeps.storeBits (w := w.sub (by decide)) | with_reducible apply Keeps.requestSwitch (w := w.sub (by decide))
    | with_reducible apply Keeps.acceptJump (w := w.sub (by decide))
    | fail_if_no_progress (with_reducible refine Keeps.fields ?_ (by intro p; cases p <;> first | exact .inl (w.mem (by decide)) | exact .inr rfl))
    | lift_lets -underBinder
    | (intro x; first | (refine (have hx : Keeps T r x := ?_; ?_); subst x; swap; clear_value x; swap) | subst x | skip) | split)

theorem Keeps.dropLink {T : List Area} {r s : State} (h : Keeps T r s) (w : within [.regs, .hst] T) : Keeps T r (State.dropLink s) := by
  unfold State.dropLink
  repeat' (first | with_reducible assumption | with_reducible apply Keeps.hostLinkLost (w := w.sub (by decide)) | split)

theorem Keeps.writeTopCtl {T : List Area} {r s : State} (h : Keeps T r s) (w : within [.regs, .latches, .answers, .mod, .hz, .prog,
    .beds, .grn, .fast, .eng, .aug, .flt, .stm, .dec, .lanes, .ring, .lck, .hst, .tim, .pwr, .sec, .svc, .free] T) (x1 : Word) : Keeps T
    r (State.writeTopCtl s x1) := by
  unfold State.writeTopCtl
  repeat' (first
    | with_reducible assumption | with_reducible refine Keeps.onBit ?_ _ _ (fun _ _ => ?_)
    | with_reducible apply Keeps.requestLoose (w := w.sub (by decide)) | with_reducible apply Keeps.requestReset (w := w.sub (by decide)))

theorem Keeps.writeRotCtl {T : List Area} {r s : State} (h : Keeps T r s) (w : within [.regs, .prog, .beds, .aug, .svc] T) (x1 : Word) :
    Keeps T r (State.writeRotCtl s x1) := by
  unfold State.writeRotCtl
  repeat' (first
    | with_reducible assumption | with_reducible apply Keeps.storeBits (w := w.sub (by decide))
    | with_reducible apply Keeps.loadRot (w := w.sub (by decide)) | with_reducible apply Keeps.cancelRotation (w := w.sub (by decide))
    | lift_lets -underBinder
    | (intro x; first | (refine (have hx : Keeps T r x := ?_; ?_); subst x; swap; clear_value x; swap) | subst x | skip) | split)

theorem Keeps.writeUcCtl {T : List Area} {r s : State} (h : Keeps T r s) (w : within [.regs, .svc] T) (x1 : Word) : Keeps T r
    (State.writeUcCtl s x1) := by
  unfold State.writeUcCtl
  repeat' (first
    | with_reducible assumption | with_reducible apply Keeps.storeBits (w := w.sub (by decide))
    | with_reducible apply Keeps.ucVerifies (w := w.sub (by decide)) | with_reducible apply Keeps.ucArms (w := w.sub (by decide))
    | with_reducible apply Keeps.ucCancels (w := w.sub (by decide)) | lift_lets -underBinder
    | (intro x; first | (refine (have hx : Keeps T r x := ?_; ?_); subst x; swap; clear_value x; swap) | subst x | skip) | split)

theorem Keeps.writeHznCtl {T : List Area} {r s : State} (h : Keeps T r s) (w : within [.regs, .hz] T) (x1 : Word) : Keeps T r
    (State.writeHznCtl s x1) := by
  unfold State.writeHznCtl
  repeat' (first
    | with_reducible assumption | with_reducible refine Keeps.onBit ?_ _ _ (fun _ _ => ?_)
    | with_reducible apply Keeps.storeBits (w := w.sub (by decide)) | with_reducible apply Keeps.armPreset (w := w.sub (by decide))
    | lift_lets -underBinder
    | (intro x; first | (refine (have hx : Keeps T r x := ?_; ?_); subst x; swap; clear_value x; swap) | subst x | skip) | split)

theorem Keeps.writeHznStat {T : List Area} {r s : State} (h : Keeps T r s) (w : within [.regs] T) (x1 : Word) : Keeps T r
    (State.writeHznStat s x1) := by
  unfold State.writeHznStat
  repeat' (first
    | with_reducible assumption | with_reducible refine Keeps.onBit ?_ _ _ (fun _ _ => ?_)
    | with_reducible apply Keeps.setReg (w := w.sub (by decide)) | with_reducible apply Keeps.setFld (w := w.sub (by decide)))

theorem Keeps.writeBedCtl {T : List Area} {r s : State} (h : Keeps T r s) (w : within [.regs, .prog, .beds, .svc] T) (x1 : Fin 4) (x2 :
    Word) : Keeps T r (State.writeBedCtl s x1 x2) := by
  unfold State.writeBedCtl
  repeat' (first
    | with_reducible assumption | with_reducible refine Keeps.onBit ?_ _ _ (fun _ _ => ?_)
    | with_reducible apply Keeps.releaseWrite (w := w.sub (by decide)) | with_reducible apply Keeps.corrDrop (w := w.sub (by decide))
    | with_reducible apply Keeps.startBedTest (w := w.sub (by decide)))

theorem Keeps.writeGrnCmd {T : List Area} {r s : State} (h : Keeps T r s) (w : within [.regs, .grn] T) (x1 : Word) : Keeps T r
    (State.writeGrnCmd s x1) := by
  unfold State.writeGrnCmd
  repeat' (first
    | with_reducible assumption | with_reducible apply Keeps.grnStart (w := w.sub (by decide)) | lift_lets -underBinder
    | (intro x; first | (refine (have hx : Keeps T r x := ?_; ?_); subst x; swap; clear_value x; swap) | subst x | skip) | split)

theorem Keeps.exportWaiting {T : List Area} {r s : State} (h : Keeps T r s) (w : within [.eng, .hst] T) (x1 : Fin 2) : Keeps T r
    (State.exportWaiting s x1) := by
  unfold State.exportWaiting
  repeat' (first
    | with_reducible assumption | with_reducible apply Keeps.exportStaged (w := w.sub (by decide))
    | with_reducible refine Keeps.foldl _ ?_ (fun _ _ _ => ?_) | lift_lets -underBinder | split)

theorem Keeps.writeLssCtl {T : List Area} {r s : State} (h : Keeps T r s) (w : within [.regs, .fast, .eng, .aug, .hst, .free] T) (x1 :
    Fin 2) (x2 : Word) : Keeps T r (State.writeLssCtl s x1 x2) := by
  unfold State.writeLssCtl
  repeat' (first
    | with_reducible assumption | with_reducible refine Keeps.onBit ?_ _ _ (fun _ _ => ?_)
    | with_reducible apply Keeps.storeBits (w := w.sub (by decide)) | with_reducible apply Keeps.exportWaiting (w := w.sub (by decide))
    | with_reducible apply Keeps.resetEngine (w := w.sub (by decide)) | lift_lets -underBinder | split)

theorem Keeps.writeSecCmd {T : List Area} {r s : State} (h : Keeps T r s) (w : within [.regs, .sec] T) (x1 : Word) : Keeps T r
    (State.writeSecCmd s x1) := by
  unfold State.writeSecCmd
  repeat' (first
    | with_reducible assumption | with_reducible apply Keeps.attests (w := w.sub (by decide))
    | with_reducible apply Keeps.orderRuns (w := w.sub (by decide)) | split)

theorem Keeps.writeLow {T : List Area} {r s : State} (h : Keeps T r s) (w : within [.regs, .latches, .answers, .mod, .hz, .prog, .beds,
    .grn, .fast, .eng, .aug, .flt, .stm, .dec, .lanes, .ring, .lck, .hst, .tim, .pwr, .sec, .svc, .free] T) (x1 : ℕ) (x2 : Word) :
    KeepsO T r (State.writeLow s x1 x2) := by
  unfold State.writeLow
  extract_lets
  repeat' (first | exact KeepsO.no | refine KeepsO.yes ?_ | with_reducible refine KeepsO.ite ?_ ?_)
  all_goals repeat' (first
    | with_reducible assumption | with_reducible refine Keeps.onBit ?_ _ _ (fun _ _ => ?_)
    | with_reducible apply Keeps.writeTopCtl (w := w.sub (by decide)) | with_reducible apply Keeps.writeRotCtl (w := w.sub (by decide))
    | with_reducible apply Keeps.armRot (w := w.sub (by decide)) | with_reducible apply Keeps.writeUcCtl (w := w.sub (by decide))
    | with_reducible apply Keeps.writeHznCtl (w := w.sub (by decide)) | with_reducible apply Keeps.writeHznStat (w := w.sub (by decide))
    | with_reducible apply Keeps.launchWrite (w := w.sub (by decide)) | with_reducible apply Keeps.writeBedCtl (w := w.sub (by decide))
    | with_reducible apply Keeps.corrArm (w := w.sub (by decide)) | with_reducible apply Keeps.writeGrnCmd (w := w.sub (by decide))
    | with_reducible apply Keeps.writeLssCtl (w := w.sub (by decide)) | with_reducible apply Keeps.setReg (w := w.sub (by decide))
    | with_reducible apply Keeps.storeBits (w := w.sub (by decide)) | with_reducible apply Keeps.sealRequest (w := w.sub (by decide))
    | with_reducible apply Keeps.restartFlash (w := w.sub (by decide)) | with_reducible apply Keeps.writeSecCmd (w := w.sub (by decide)))

theorem Keeps.writeEnable {T : List Area} {r s : State} (h : Keeps T r s) (w : within [.regs, .lanes, .hst, .free] T) (x1 : Fin 80) (x2
    : Bool) : Keeps T r (State.writeEnable s x1 x2) := by
  unfold State.writeEnable
  repeat' (first
    | with_reducible assumption | with_reducible apply Keeps.setFlag (w := w.sub (by decide))
    | with_reducible apply Keeps.retrain (w := w.sub (by decide)) | with_reducible apply Keeps.stopLane (w := w.sub (by decide))
    | lift_lets -underBinder
    | (intro x; first | (refine (have hx : Keeps T r x := ?_; ?_); subst x; swap; clear_value x; swap) | subst x | skip) | split)

theorem Keeps.writeLnkCtl {T : List Area} {r s : State} (h : Keeps T r s) (w : within [.regs, .lanes, .hst, .free] T) (x1 : Fin 80) (x2
    : Word) : Keeps T r (State.writeLnkCtl s x1 x2) := by
  unfold State.writeLnkCtl
  repeat' (first
    | with_reducible assumption | with_reducible refine Keeps.onBit ?_ _ _ (fun _ _ => ?_)
    | with_reducible apply Keeps.storeBits (w := w.sub (by decide)) | with_reducible apply Keeps.writeEnable (w := w.sub (by decide))
    | with_reducible apply Keeps.retrain (w := w.sub (by decide)) | with_reducible apply Keeps.prbsOrder (w := w.sub (by decide))
    | lift_lets -underBinder | split)

theorem Keeps.writeBindCmd {T : List Area} {r s : State} (h : Keeps T r s) (w : within [.regs, .stm] T) (x1 : Word) : Keeps T r
    (State.writeBindCmd s x1) := by
  unfold State.writeBindCmd
  repeat' (first
    | with_reducible assumption | with_reducible apply Keeps.bindCopy (w := w.sub (by decide))
    | with_reducible apply Keeps.bindWrite (w := w.sub (by decide)) | with_reducible apply Keeps.stageEntry (w := w.sub (by decide))
    | with_reducible apply Keeps.bindApply (w := w.sub (by decide)) | with_reducible apply Keeps.bindCancel (w := w.sub (by decide))
    | split)

theorem Keeps.writeQuarCmd {T : List Area} {r s : State} (h : Keeps T r s) (w : within [.stm] T) (x1 : Word) : Keeps T r
    (State.writeQuarCmd s x1) := by
  unfold State.writeQuarCmd
  repeat' (first
    | with_reducible assumption | with_reducible refine Keeps.onBit ?_ _ _ (fun _ _ => ?_)
    | fail_if_no_progress (with_reducible refine Keeps.fields ?_ (by intro p; cases p <;> first | exact .inl (w.mem (by decide)) | exact .inr rfl)))

theorem Keeps.writeLckCtl {T : List Area} {r s : State} (h : Keeps T r s) (w : within [.regs, .ring, .lck] T) (x1 : Word) : Keeps T r
    (State.writeLckCtl s x1) := by
  unfold State.writeLckCtl
  repeat' (first
    | with_reducible assumption | with_reducible refine Keeps.onBit ?_ _ _ (fun _ _ => ?_)
    | with_reducible apply Keeps.storeBits (w := w.sub (by decide)) | with_reducible apply Keeps.lckEnable (w := w.sub (by decide))
    | with_reducible apply Keeps.lckRearms (w := w.sub (by decide)) | with_reducible apply Keeps.lckFreezeWrite (w := w.sub (by decide))
    | lift_lets -underBinder | split)

theorem Keeps.writeHstCtl {T : List Area} {r s : State} (h : Keeps T r s) (w : within [.regs, .hst] T) (x1 : Path) (x2 : Word) : Keeps T
    r (State.writeHstCtl s x1 x2) := by
  unfold State.writeHstCtl
  repeat' (first
    | with_reducible assumption | with_reducible refine Keeps.onBit ?_ _ _ (fun _ _ => ?_)
    | with_reducible apply Keeps.storeBits (w := w.sub (by decide)) | with_reducible apply Keeps.setFlag (w := w.sub (by decide))
    | with_reducible apply Keeps.dropLink (w := w.sub (by decide)) | lift_lets -underBinder | split)

theorem Keeps.writeTimStep {T : List Area} {r s : State} (h : Keeps T r s) (w : within [.regs, .aug, .tim] T) (x1 : Fin 2) (x2 : Word) :
    Keeps T r (State.writeTimStep s x1 x2) := by
  unfold State.writeTimStep
  repeat' (first
    | with_reducible assumption | with_reducible apply Keeps.setReg (w := w.sub (by decide))
    | with_reducible apply Keeps.hostStep (w := w.sub (by decide)) | lift_lets -underBinder
    | (intro x; first | (refine (have hx : Keeps T r x := ?_; ?_); subst x; swap; clear_value x; swap) | subst x | skip) | split)

theorem Keeps.writePwrCtl {T : List Area} {r s : State} (h : Keeps T r s) (w : within [.regs, .mod] T) (x1 : Word) : Keeps T r
    (State.writePwrCtl s x1) := by
  unfold State.writePwrCtl
  repeat' (first
    | with_reducible assumption | with_reducible refine Keeps.onBit ?_ _ _ (fun _ _ => ?_)
    | with_reducible apply Keeps.storeBits (w := w.sub (by decide)) | with_reducible apply Keeps.fallowWrite (w := w.sub (by decide)))

theorem Keeps.writeThmWarn {T : List Area} {r s : State} (h : Keeps T r s) (w : within [.regs] T) (x1 : Word) : Keeps T r
    (State.writeThmWarn s x1) := by
  unfold State.writeThmWarn
  repeat' (first
    | with_reducible assumption | with_reducible apply Keeps.showWarn (w := w.sub (by decide))
    | with_reducible apply Keeps.storeBits (w := w.sub (by decide)))

theorem Keeps.writeHigh {T : List Area} {r s : State} (h : Keeps T r s) (w : within [.regs, .mod, .aug, .stm, .lanes, .ring, .lck, .hst,
    .tim, .free] T) (x1 : Path) (x2 : ℕ) (x3 : Word) : KeepsO T r (State.writeHigh s x1 x2 x3) := by
  unfold State.writeHigh
  extract_lets
  repeat' (first | exact KeepsO.no | refine KeepsO.yes ?_ | with_reducible refine KeepsO.ite ?_ ?_)
  all_goals repeat' (first
    | with_reducible assumption | with_reducible apply Keeps.writeLnkCtl (w := w.sub (by decide))
    | with_reducible apply Keeps.storeBits (w := w.sub (by decide)) | with_reducible apply Keeps.eyeWrite (w := w.sub (by decide))
    | with_reducible apply Keeps.writeBindCmd (w := w.sub (by decide)) | with_reducible apply Keeps.bindArm (w := w.sub (by decide))
    | with_reducible apply Keeps.writeQuarCmd (w := w.sub (by decide)) | with_reducible apply Keeps.writeLckCtl (w := w.sub (by decide))
    | with_reducible apply Keeps.lckCommit (w := w.sub (by decide)) | with_reducible apply Keeps.writeHstCtl (w := w.sub (by decide))
    | with_reducible apply Keeps.writeTimCtl (w := w.sub (by decide)) | with_reducible apply Keeps.setRate (w := w.sub (by decide))
    | with_reducible apply Keeps.writeTimStep (w := w.sub (by decide)) | with_reducible apply Keeps.writePwrCtl (w := w.sub (by decide))
    | with_reducible apply Keeps.setReg (w := w.sub (by decide)) | with_reducible apply Keeps.writeThmWarn (w := w.sub (by decide))
    | lift_lets -underBinder | split)

theorem Keeps.storeFields {T : List Area} {r s : State} (h : Keeps T r s) (w : within [.regs] T) (x1 : ℕ) (x2 : RegRow) (x3 : Word) :
    Keeps T r (State.storeFields s x1 x2 x3) := by
  unfold State.storeFields
  repeat' (first
    | with_reducible assumption | with_reducible apply Keeps.storeBits (w := w.sub (by decide))
    | with_reducible apply Keeps.setReg (w := w.sub (by decide)))

theorem Keeps.writeReg {T : List Area} {r s : State} (h : Keeps T r s) (w : within [.regs, .latches, .answers, .mod, .hz, .prog, .beds,
    .grn, .fast, .eng, .aug, .flt, .stm, .dec, .lanes, .ring, .lck, .hst, .tim, .pwr, .sec, .svc, .free] T) (p : Path) (a : Nat) (v :
    Word) : Keeps T r (State.writeReg s p a v) := by
  unfold State.writeReg
  split
  · exact h
  · exact KeepsO.getD (KeepsO.or (Keeps.writeLow h (w.sub rfl) _ _) (Keeps.writeHigh h (w.sub rfl) _ _ _)) (Keeps.storeFields h (w.sub rfl) _ _ _)

theorem Keeps.writeSilt {T : List Area} {r s : State} (h : Keeps T r s) (w : within [.regs, .eng] T) (x1 : Path) (x2 : ℕ) (x3 : Word) :
    Keeps T r (State.writeSilt s x1 x2 x3) := by
  unfold State.writeSilt
  repeat' (first
    | with_reducible assumption | with_reducible apply Keeps.refuseAccess (w := w.sub (by decide))
    | with_reducible apply Keeps.setEng (w := w.sub (by decide)) | lift_lets -underBinder
    | (intro x; first | (refine (have hx : Keeps T r x := ?_; ?_); subst x; swap; clear_value x; swap) | subst x | skip) | split)

theorem Keeps.writeWindow {T : List Area} {r s : State} (h : Keeps T r s) (w : within [.regs, .beds, .eng, .sec, .svc] T) (x1 : Path)
    (x2 : ℕ) (x3 : Word) : Keeps T r (State.writeWindow s x1 x2 x3) := by
  unfold State.writeWindow
  repeat' (first
    | with_reducible assumption | with_reducible apply Keeps.grnWindow (w := w.sub (by decide))
    | with_reducible apply Keeps.writeSilt (w := w.sub (by decide)) | with_reducible apply Keeps.refuseAccess (w := w.sub (by decide))
    | with_reducible exact Keeps.svcTo (by assumption) (w.sub (by decide)) _ ⟨fun hc => mapCanon_putWord _ _ hc, id⟩
    | with_reducible exact Keeps.secTo (by assumption) (w.sub (by decide)) _ ⟨fun _ => BitVec.and_self, fun hf i => ⟨le_rfl, hf i⟩, fun _ hb => hb, id, fun _ => id, fun hc => mapCanon_putWord _ _ hc, id⟩
    | lift_lets -underBinder
    | (intro x; first | (refine (have hx : Keeps T r x := ?_; ?_); subst x; swap; clear_value x; swap) | subst x | skip) | split)

theorem Keeps.writeAt {T : List Area} {r s : State} (h : Keeps T r s) (w : within [.regs, .latches, .answers, .mod, .hz, .prog, .beds,
    .grn, .fast, .eng, .aug, .flt, .stm, .dec, .lanes, .ring, .lck, .hst, .tim, .pwr, .sec, .svc, .free] T) (x1 : Path) (x2 : ℕ) (x3 :
    Word) : Keeps T r (State.writeAt s x1 x2 x3) := by
  unfold State.writeAt
  repeat' (first
    | with_reducible assumption | with_reducible apply Keeps.writeReg (w := w.sub (by decide))
    | with_reducible apply Keeps.writeWindow (w := w.sub (by decide)) | split)

theorem Keeps.writeNow {T : List Area} {r s : State} (h : Keeps T r s) (w : within [.regs, .latches, .answers, .mod, .hz, .prog, .beds,
    .grn, .fast, .eng, .aug, .flt, .stm, .dec, .lanes, .ring, .lck, .hst, .tim, .pwr, .sec, .svc, .free] T) (x1 : Path) (x2 : ℕ) (x3 :
    Word) : Keeps T r (State.writeNow s x1 x2 x3).2 := by
  unfold State.writeNow
  repeat' (first
    | with_reducible assumption | with_reducible apply Keeps.writeAt (w := w.sub (by decide))
    | with_reducible apply Keeps.refuseAccess (w := w.sub (by decide)) | lift_lets -underBinder
    | (intro x; first | (refine (have hx : Keeps T r x := ?_; ?_); subst x; swap; clear_value x; swap) | subst x | skip) | split)

theorem Keeps.writeAccess {T : List Area} {r s : State} (h : Keeps T r s) (w : within [.regs, .latches, .answers, .mod, .hz, .prog,
    .beds, .grn, .fast, .eng, .aug, .flt, .stm, .dec, .lanes, .ring, .lck, .hst, .tim, .pwr, .sec, .svc, .free] T) (x1 : Path) (x2 : ℕ)
    (x3 : Word) : Keeps T r (State.writeAccess s x1 x2 x3).2 := by
  unfold State.writeAccess
  repeat' (first
    | with_reducible assumption | with_reducible apply Keeps.arrives (w := w.sub (by decide))
    | with_reducible apply Keeps.waitForSilt (w := w.sub (by decide)) | with_reducible apply Keeps.writeNow (w := w.sub (by decide))
    | lift_lets -underBinder
    | (intro x; first | (refine (have hx : Keeps T r x := ?_; ?_); subst x; swap; clear_value x; swap) | subst x | skip) | split)

theorem Keeps.siltAnswers {T : List Area} {r s : State} (h : Keeps T r s) (w : within [.regs, .latches, .answers, .mod, .hz, .prog,
    .beds, .grn, .fast, .eng, .aug, .flt, .stm, .dec, .lanes, .ring, .lck, .hst, .tim, .pwr, .sec, .svc, .free] T) : Keeps T r
    (State.siltAnswers s) := by
  unfold State.siltAnswers
  repeat' (first
    | with_reducible assumption | with_reducible apply Keeps.readNow (w := w.sub (by decide))
    | with_reducible apply Keeps.writeNow (w := w.sub (by decide)) | with_reducible refine Keeps.foldl _ ?_ (fun _ _ _ => ?_)
    | fail_if_no_progress (with_reducible refine Keeps.upd ?_ (by first | exact SecKeeps.refl _ | exact SecKeeps.of rfl rfl rfl rfl rfl rfl) (by first | exact SvcKeeps.refl _ | exact ⟨id, id⟩ | exact SvcKeeps.idle _ | exact ⟨fun _ => mapCanon_nil _, id⟩) le_rfl (by intro p; cases p <;> first | exact .inl (w.mem (by decide)) | exact .inr rfl))
    | lift_lets -underBinder | split)

end Sys2Proof.Machine
end

