-- ==== Sys2Proof/Laws/KeepsAccess.lean ====
section
/-!
SUPPORT. Each operation of Machine/Access.lean keeps what Laws/Keeps.lean names.
-/
set_option linter.unusedVariables false
set_option linter.unreachableTactic false
set_option linter.unusedTactic false
namespace Sys2Proof.Machine

theorem Keeps.partialWord {T : List Area} {r s : State} (h : Keeps T r s) (w : within [.regs] T) (x1 : ℕ) : Keeps T r (State.partialWord
    s x1) := by
  unfold State.partialWord
  repeat' (first | with_reducible assumption | with_reducible apply Keeps.refuseAccess (w := w.sub (by decide)) | split)

theorem Keeps.pathReads {T : List Area} {r s : State} (h : Keeps T r s) (w : within [.regs, .latches, .answers, .mod, .aug, .sec, .svc,
    .free] T) (x1 : Path) (x2 : ℕ) : Keeps T r (State.pathReads s x1 x2) := by
  unfold State.pathReads
  repeat' (first | with_reducible assumption | with_reducible apply Keeps.readAccess (w := w.sub (by decide)) | split)

theorem Keeps.mgtReads {T : List Area} {r s : State} (h : Keeps T r s) (w : within [.regs, .latches, .answers, .mod, .aug, .sec, .svc,
    .free] T) (x1 : ℕ) (x2 : ℕ) : Keeps T r (State.mgtReads s x1 x2) := by
  unfold State.mgtReads
  repeat' (first
    | with_reducible assumption | with_reducible apply Keeps.pathReads (w := w.sub (by decide))
    | with_reducible apply Keeps.partialWord (w := w.sub (by decide)) | with_reducible refine Keeps.foldl _ ?_ (fun _ _ _ => ?_)
    | lift_lets -underBinder
    | (intro x; first | (refine (have hx : Keeps T r x := ?_; ?_); subst x; swap; clear_value x; swap) | subst x | skip) | split)

theorem Keeps.pathWrites {T : List Area} {r s : State} (h : Keeps T r s) (w : within [.regs, .latches, .answers, .mod, .hz, .prog,
    .beds, .grn, .fast, .eng, .aug, .flt, .stm, .dec, .lanes, .ring, .lck, .hst, .tim, .pwr, .sec, .svc, .free] T) (x1 : Path) (x2 : ℕ)
    (x3 : Word) : Keeps T r (State.pathWrites s x1 x2 x3) := by
  unfold State.pathWrites
  repeat' (first | with_reducible assumption | with_reducible apply Keeps.writeAccess (w := w.sub (by decide)) | split)

theorem Keeps.mgtWrites {T : List Area} {r s : State} (h : Keeps T r s) (w : within [.regs, .latches, .answers, .mod, .hz, .prog, .beds,
    .grn, .fast, .eng, .aug, .flt, .stm, .dec, .lanes, .ring, .lck, .hst, .tim, .pwr, .sec, .svc, .free] T) (x1 : ℕ) (x2 : List Byte) :
    Keeps T r (State.mgtWrites s x1 x2) := by
  unfold State.mgtWrites
  repeat' (first
    | with_reducible assumption | with_reducible apply Keeps.pathWrites (w := w.sub (by decide))
    | with_reducible apply Keeps.partialWord (w := w.sub (by decide)) | with_reducible refine Keeps.foldl _ ?_ (fun _ _ _ => ?_)
    | lift_lets -underBinder
    | (intro x; first | (refine (have hx : Keeps T r x := ?_; ?_); subst x; swap; clear_value x; swap) | subst x | skip) | split)

theorem Keeps.mgtRuns {T : List Area} {r s : State} (h : Keeps T r s) (w : within [.regs, .latches, .answers, .mod, .hz, .prog, .beds,
    .grn, .fast, .eng, .aug, .flt, .stm, .dec, .lanes, .ring, .lck, .hst, .tim, .pwr, .sec, .svc, .free] T) (x1 : List Byte) (x2 : ℕ) :
    Keeps T r (State.mgtRuns s x1 x2) := by
  unfold State.mgtRuns
  repeat' (first
    | with_reducible assumption | with_reducible apply Keeps.accessSeen (w := w.sub (by decide))
    | with_reducible apply Keeps.partialWord (w := w.sub (by decide)) | with_reducible apply Keeps.mgtReads (w := w.sub (by decide))
    | with_reducible apply Keeps.mgtWrites (w := w.sub (by decide)) | lift_lets -underBinder
    | (intro x; first | (refine (have hx : Keeps T r x := ?_; ?_); subst x; swap; clear_value x; swap) | subst x | skip) | split)

theorem Keeps.execLeadingRegisterRead {T : List Area} {r s t : State} (h : Keeps T r s) (w : within [.regs, .latches, .answers, .mod,
    .aug, .sec, .svc, .free] T) (x0 : Path) (x1 : Word) (e : (execLeadingRegisterRead x0 x1 s) = .next t) : Keeps T r t := by
  have e' := Host.Outcome.next.inj e
  subst e'
  repeat' (first | with_reducible assumption | with_reducible apply Keeps.pathReads (w := w.sub (by decide)))

theorem Keeps.execMgtTransaction {T : List Area} {r s t : State} (h : Keeps T r s) (w : within [.regs, .latches, .answers, .mod, .hz,
    .prog, .beds, .grn, .fast, .eng, .aug, .flt, .stm, .dec, .lanes, .ring, .lck, .hst, .tim, .pwr, .sec, .svc, .free] T) (x0 : List
    Byte) (x1 : ℕ) (e : (execMgtTransaction x0 x1 s) = .next t) : Keeps T r t := by
  have e' := Host.Outcome.next.inj e
  subst e'
  repeat' (first | with_reducible assumption | with_reducible apply Keeps.mgtRuns (w := w.sub (by decide)) | split)

theorem Keeps.execLinkReset {T : List Area} {r s t : State} (h : Keeps T r s) (w : within [.regs, .mod, .aug, .hst, .sec] T) (x0 : Path)
    (e : (execLinkReset x0 s) = .next t) : Keeps T r t := by
  have e' := Host.Outcome.next.inj e
  subst e'
  repeat' (first
    | with_reducible assumption | with_reducible refine Keeps.via ?_ (w.sub (by decide)) _ _ (fun _ _ => ?_)
    | with_reducible apply Keeps.dropLink (w := w.sub (by decide)))

theorem Keeps.execReadClear {T : List Area} {r s t : State} (h : Keeps T r s) (w : within [.regs, .latches, .answers, .mod, .aug, .sec,
    .svc, .free] T) (x0 : Path) (x1 : Word) (e : (execReadClear x0 x1 s) = .next t) : Keeps T r t := by
  have e' := Host.Outcome.next.inj e
  subst e'
  repeat' (first | with_reducible assumption | with_reducible apply Keeps.pathReads (w := w.sub (by decide)))

theorem Keeps.execRegisterWrite {T : List Area} {r s t : State} (h : Keeps T r s) (w : within [.regs, .latches, .answers, .mod, .hz,
    .prog, .beds, .grn, .fast, .eng, .aug, .flt, .stm, .dec, .lanes, .ring, .lck, .hst, .tim, .pwr, .sec, .svc, .free] T) (x0 : Path)
    (x1 : Word) (x2 : Word) (e : (execRegisterWrite x0 x1 x2 s) = .next t) : Keeps T r t := by
  have e' := Host.Outcome.next.inj e
  subst e'
  repeat' (first | with_reducible assumption | with_reducible apply Keeps.pathWrites (w := w.sub (by decide)))

end Sys2Proof.Machine
end

