-- ==== Sys2Proof/Laws/KeepsHost.lean ====
section
/-!
SUPPORT. Each operation of Machine/Host.lean keeps what Laws/Keeps.lean names.
-/
set_option linter.unusedVariables false
set_option linter.unreachableTactic false
set_option linter.unusedTactic false
namespace Sys2Proof.Machine

theorem Keeps.readWords {T : List Area} {r s : State} (h : Keeps T r s)
    (w : within [.regs, .latches, .answers, .mod, .aug, .sec, .svc, .free] T)
    (n a : Nat) (acc : List Byte) : Keeps T r (State.readWords n a acc s).2.2 := by
  induction n generalizing a acc s with
  | zero => exact h
  | succ n ih =>
    unfold State.readWords
    dsimp only
    split
    · exact ih (Keeps.readAccess h (w.sub rfl) _ _) _ _
    · exact Keeps.readAccess h (w.sub rfl) _ _

theorem Keeps.writeWords {T : List Area} {r s : State} (h : Keeps T r s)
    (w : within [.regs, .latches, .answers, .mod, .hz, .prog, .beds, .grn, .fast, .eng, .aug, .flt, .stm, .dec, .lanes, .ring, .lck,
      .hst, .tim, .pwr, .sec, .svc, .free] T) (n a : Nat) (bs : List Byte) : Keeps T r (State.writeWords n a bs s).2 := by
  induction n generalizing a bs s with
  | zero => exact h
  | succ n ih =>
    unfold State.writeWords
    dsimp only
    split
    · split
      · exact ih (Keeps.writeAccess h (w.sub rfl) _ _ _) _ _
      · exact Keeps.writeAccess h (w.sub rfl) _ _ _
    · exact h

theorem Keeps.badLength {T : List Area} {r s : State} (h : Keeps T r s) (w : within [.regs, .hst] T) (x1 : HostReq) (x2 : ℕ) : Keeps T r
    (State.badLength s x1 x2) := by
  unfold State.badLength
  repeat' (first
    | with_reducible assumption | with_reducible apply Keeps.respond (w := w.sub (by decide))
    | with_reducible apply Keeps.refuseAccess (w := w.sub (by decide)) | lift_lets -underBinder
    | (intro x; first | (refine (have hx : Keeps T r x := ?_; ?_); subst x; swap; clear_value x; swap) | subst x | skip) | split)

theorem Keeps.regReads {T : List Area} {r s : State} (h : Keeps T r s) (w : within [.regs, .latches, .answers, .mod, .aug, .hst, .sec,
    .svc, .free] T) (x1 : HostReq) : Keeps T r (State.regReads s x1) := by
  unfold State.regReads
  repeat' (first
    | with_reducible assumption | with_reducible apply Keeps.respond (w := w.sub (by decide))
    | with_reducible apply Keeps.readWords (w := w.sub (by decide)) | with_reducible apply Keeps.badLength (w := w.sub (by decide))
    | lift_lets -underBinder
    | (intro x; first | (refine (have hx : Keeps T r x := ?_; ?_); subst x; swap; clear_value x; swap) | subst x | skip) | split)

theorem Keeps.executed {T : List Area} {r s : State} (h : Keeps T r s) (w : within [.regs, .hst] T) (x1 : ℕ) : Keeps T r (State.executed
    s x1) := by
  unfold State.executed
  repeat' (first
    | with_reducible assumption | with_reducible apply Keeps.bump (w := w.sub (by decide))
    | fail_if_no_progress (with_reducible refine Keeps.fields ?_ (by intro p; cases p <;> first | exact .inl (w.mem (by decide)) | exact .inr rfl)))

theorem Keeps.regWrites {T : List Area} {r s : State} (h : Keeps T r s) (w : within [.regs, .latches, .answers, .mod, .hz, .prog, .beds,
    .grn, .fast, .eng, .aug, .flt, .stm, .dec, .lanes, .ring, .lck, .hst, .tim, .pwr, .sec, .svc, .free] T) (x1 : HostReq) : Keeps T r
    (State.regWrites s x1) := by
  unfold State.regWrites
  repeat' (first
    | with_reducible assumption | with_reducible apply Keeps.badLength (w := w.sub (by decide))
    | with_reducible apply Keeps.writeWords (w := w.sub (by decide)) | with_reducible apply Keeps.executed (w := w.sub (by decide))
    | with_reducible apply Keeps.respond (w := w.sub (by decide)) | lift_lets -underBinder
    | (intro x; first | (refine (have hx : Keeps T r x := ?_; ?_); subst x; swap; clear_value x; swap) | subst x | skip) | split)

theorem Keeps.recAcks {T : List Area} {r s : State} (h : Keeps T r s) (w : within [.regs, .aug, .hst] T) (x1 : HostReq) : Keeps T r
    (State.recAcks s x1) := by
  unfold State.recAcks
  repeat' (first
    | with_reducible assumption | with_reducible apply Keeps.executed (w := w.sub (by decide))
    | with_reducible apply Keeps.recordsTaken (w := w.sub (by decide)) | lift_lets -underBinder | split)

theorem Keeps.serveReq {T : List Area} {r s : State} (h : Keeps T r s) (w : within [.regs, .latches, .answers, .mod, .hz, .prog, .beds,
    .grn, .fast, .eng, .aug, .flt, .stm, .dec, .lanes, .ring, .lck, .hst, .tim, .pwr, .sec, .flash, .svc, .free] T) (x1 : HostReq) :
    Keeps T r (State.serveReq s x1) := by
  unfold State.serveReq
  repeat' (first
    | with_reducible assumption | with_reducible apply Keeps.regReads (w := w.sub (by decide))
    | with_reducible apply Keeps.regWrites (w := w.sub (by decide)) | with_reducible apply Keeps.recAcks (w := w.sub (by decide))
    | with_reducible apply Keeps.runPlain (w := w.sub (by decide)) | split)

theorem Keeps.startReq {T : List Area} {r s : State} (h : Keeps T r s) (w : within [.regs, .latches, .answers, .mod, .hz, .prog, .beds,
    .grn, .fast, .eng, .aug, .flt, .stm, .dec, .lanes, .ring, .lck, .hst, .tim, .pwr, .sec, .flash, .svc, .free] T) (x1 : HostReq) :
    Keeps T r (State.startReq s x1) := by
  unfold State.startReq
  repeat' (first
    | with_reducible assumption | with_reducible apply Keeps.serveReq (w := w.sub (by decide))
    | fail_if_no_progress (with_reducible refine Keeps.fields ?_ (by intro p; cases p <;> first | exact .inl (w.mem (by decide)) | exact .inr rfl))
    | lift_lets -underBinder
    | (intro x; first | (refine (have hx : Keeps T r x := ?_; ?_); subst x; swap; clear_value x; swap) | subst x | skip) | split)

theorem Keeps.pump {T : List Area} {r s : State} (h : Keeps T r s)
    (w : within [.regs, .latches, .answers, .mod, .hz, .prog, .beds, .grn, .fast, .eng, .aug, .flt, .stm, .dec, .lanes, .ring, .lck,
      .hst, .tim, .pwr, .sec, .flash, .svc, .free] T) (n : Nat) : Keeps T r (State.pump n s) := by
  induction n generalizing s with
  | zero => exact h
  | succ n ih =>
    unfold State.pump
    split
    · exact h
    · split
      · exact ih (Keeps.startReq (Keeps.upd h (SecKeeps.refl _) (SvcKeeps.refl _) le_rfl (fun p => by cases p <;> first | exact .inl (w.mem rfl) | exact .inr rfl)) (w.sub rfl) _)
      · exact h

theorem Keeps.flushReqs {T : List Area} {r s : State} (h : Keeps T r s) (w : within [.regs, .latches, .answers, .mod, .hz, .prog, .beds,
    .grn, .fast, .eng, .aug, .flt, .stm, .dec, .lanes, .ring, .lck, .hst, .tim, .pwr, .sec, .flash, .svc, .free] T) : Keeps T r
    (State.flushReqs s) := by
  unfold State.flushReqs
  repeat' (first
    | with_reducible assumption | with_reducible apply Keeps.startReq (w := w.sub (by decide))
    | with_reducible refine Keeps.foldl _ ?_ (fun _ _ _ => ?_)
    | fail_if_no_progress (with_reducible refine Keeps.fields ?_ (by intro p; cases p <;> first | exact .inl (w.mem (by decide)) | exact .inr rfl))
    | lift_lets -underBinder | split)

theorem Keeps.execHostLinkDown {T : List Area} {r s t : State} (h : Keeps T r s) (w : within [.regs, .latches, .answers, .mod, .hz,
    .prog, .beds, .grn, .fast, .eng, .aug, .flt, .stm, .dec, .lanes, .ring, .lck, .hst, .tim, .pwr, .sec, .flash, .svc, .free] T)  (e :
    (execHostLinkDown s) = .next t) : Keeps T r t := by
  have e' := Host.Outcome.next.inj e
  subst e'
  repeat' (first
    | with_reducible assumption | with_reducible apply Keeps.dropLink (w := w.sub (by decide))
    | with_reducible apply Keeps.flushReqs (w := w.sub (by decide)) | split)

theorem Keeps.pumpAll {T : List Area} {r s : State} (h : Keeps T r s) (w : within [.regs, .latches, .answers, .mod, .hz, .prog, .beds,
    .grn, .fast, .eng, .aug, .flt, .stm, .dec, .lanes, .ring, .lck, .hst, .tim, .pwr, .sec, .flash, .svc, .free] T) : Keeps T r
    (State.pumpAll s) := by
  unfold State.pumpAll
  repeat' (first | with_reducible assumption | with_reducible apply Keeps.pump (w := w.sub (by decide)))

theorem Keeps.request {T : List Area} {r s : State} (h : Keeps T r s) (w : within [.regs, .latches, .answers, .mod, .hz, .prog, .beds,
    .grn, .fast, .eng, .aug, .flt, .stm, .dec, .lanes, .ring, .lck, .hst, .tim, .pwr, .sec, .flash, .svc, .free] T) (x1 : HostReq) :
    Keeps T r (State.request s x1) := by
  unfold State.request
  repeat' (first
    | with_reducible assumption | with_reducible apply Keeps.idleRestart (w := w.sub (by decide))
    | with_reducible apply Keeps.startReq (w := w.sub (by decide)) | with_reducible apply Keeps.pumpAll (w := w.sub (by decide))
    | with_reducible apply Keeps.hostWakes (w := w.sub (by decide))
    | fail_if_no_progress (with_reducible refine Keeps.fields ?_ (by intro p; cases p <;> first | exact .inl (w.mem (by decide)) | exact .inr rfl))
    | lift_lets -underBinder
    | (intro x; first | (refine (have hx : Keeps T r x := ?_; ?_); subst x; swap; clear_value x; swap) | subst x | skip) | split)

theorem Keeps.requestOf {T : List Area} {r s : State} (h : Keeps T r s) (w : within [.regs, .latches, .answers, .mod, .hz, .prog, .beds,
    .grn, .fast, .eng, .aug, .flt, .stm, .dec, .lanes, .ring, .lck, .hst, .tim, .pwr, .sec, .flash, .svc, .free] T) (x1 : ℕ) (x2 : ℕ)
    (x3 : U64) (x4 : List Byte) (x5 : Bool) : Keeps T r (State.requestOf s x1 x2 x3 x4 x5) := by
  unfold State.requestOf
  repeat' (first | with_reducible assumption | with_reducible apply Keeps.request (w := w.sub (by decide)))

theorem Keeps.execSowEnd {T : List Area} {r s t : State} (h : Keeps T r s) (w : within [.regs, .latches, .answers, .mod, .hz, .prog,
    .beds, .grn, .fast, .eng, .aug, .flt, .stm, .dec, .lanes, .ring, .lck, .hst, .tim, .pwr, .sec, .flash, .svc, .free] T) (x0 : BitVec
    16) (e : (execSowEnd x0 s) = .next t) : Keeps T r t := by
  have e' := Host.Outcome.next.inj e
  subst e'
  repeat' (first | with_reducible assumption | with_reducible apply Keeps.requestOf (w := w.sub (by decide)))

theorem Keeps.hostSetDue {T : List Area} {r s : State} (h : Keeps T r s) (w : within [.regs, .hst] T) : Keeps T r (State.hostSetDue s)
    := by
  unfold State.hostSetDue
  repeat' (first
    | with_reducible assumption | with_reducible apply Keeps.setHostSet (w := w.sub (by decide))
    | fail_if_no_progress (with_reducible refine Keeps.fields ?_ (by intro p; cases p <;> first | exact .inl (w.mem (by decide)) | exact .inr rfl))
    | lift_lets -underBinder
    | (intro x; first | (refine (have hx : Keeps T r x := ?_; ?_); subst x; swap; clear_value x; swap) | subst x | skip) | split)

theorem Keeps.linkTold {T : List Area} {r s : State} (h : Keeps T r s) (w : within [.regs, .hst] T) (x1 : Byte) (x2 : ℕ) : Keeps T r
    (State.linkTold s x1 x2) := by
  unfold State.linkTold
  repeat' (first
    | with_reducible assumption | with_reducible apply Keeps.hostSetDue (w := w.sub (by decide))
    | fail_if_no_progress (with_reducible refine Keeps.fields ?_ (by intro p; cases p <;> first | exact .inl (w.mem (by decide)) | exact .inr rfl)))

theorem Keeps.hostMessage {T : List Area} {r s : State} (h : Keeps T r s) (w : within [.regs, .mod, .hst, .free] T) (x1 : ℕ) (x2 : List
    Byte) : Keeps T r (State.hostMessage s x1 x2) := by
  unfold State.hostMessage
  repeat' (first
    | with_reducible assumption | with_reducible apply Keeps.linkTold (w := w.sub (by decide))
    | with_reducible apply Keeps.drawNat (w := w.sub (by decide)) | with_reducible apply Keeps.idleRestart (w := w.sub (by decide))
    | fail_if_no_progress (with_reducible refine Keeps.fields ?_ (by intro p; cases p <;> first | exact .inl (w.mem (by decide)) | exact .inr rfl))
    | lift_lets -underBinder
    | (intro x; first | (refine (have hx : Keeps T r x := ?_; ?_); subst x; swap; clear_value x; swap) | subst x | skip) | split)

theorem Keeps.execRegRead {T : List Area} {r s t : State} (h : Keeps T r s) (w : within [.regs, .latches, .answers, .mod, .hz, .prog,
    .beds, .grn, .fast, .eng, .aug, .flt, .stm, .dec, .lanes, .ring, .lck, .hst, .tim, .pwr, .sec, .flash, .svc, .free] T) (x0 : BitVec
    16) (x1 : U64) (e : (execRegRead x0 x1 s) = .next t) : Keeps T r t := by
  have e' := Host.Outcome.next.inj e
  subst e'
  repeat' (first | with_reducible assumption | with_reducible apply Keeps.requestOf (w := w.sub (by decide)))

theorem Keeps.serveHeld {T : List Area} {r s : State} (h : Keeps T r s) (w : within [.regs, .latches, .answers, .mod, .hz, .prog, .beds,
    .grn, .fast, .eng, .aug, .flt, .stm, .dec, .lanes, .ring, .lck, .hst, .tim, .pwr, .sec, .flash, .svc, .free] T) : Keeps T r
    (State.serveHeld s) := by
  unfold State.serveHeld
  repeat' (first
    | with_reducible assumption | with_reducible apply Keeps.pumpAll (w := w.sub (by decide))
    | with_reducible apply Keeps.startReq (w := w.sub (by decide)) | with_reducible refine Keeps.foldl _ ?_ (fun _ _ _ => ?_)
    | fail_if_no_progress (with_reducible refine Keeps.fields ?_ (by intro p; cases p <;> first | exact .inl (w.mem (by decide)) | exact .inr rfl)))

theorem Keeps.linkForms {T : List Area} {r s : State} (h : Keeps T r s) (w : within [.regs, .latches, .answers, .mod, .hz, .prog, .beds,
    .grn, .fast, .eng, .aug, .flt, .stm, .dec, .lanes, .ring, .lck, .hst, .tim, .pwr, .sec, .flash, .svc, .free] T) : Keeps T r
    (State.linkForms s) := by
  unfold State.linkForms
  repeat' (first
    | with_reducible assumption | with_reducible apply Keeps.flushReqs (w := w.sub (by decide))
    | with_reducible apply Keeps.restartRecords (w := w.sub (by decide)) | with_reducible apply Keeps.setFld (w := w.sub (by decide))
    | with_reducible apply Keeps.setFlag (w := w.sub (by decide)) | with_reducible apply Keeps.serveHeld (w := w.sub (by decide))
    | with_reducible apply Keeps.pumpAll (w := w.sub (by decide))
    | fail_if_no_progress (with_reducible refine Keeps.fields ?_ (by intro p; cases p <;> first | exact .inl (w.mem (by decide)) | exact .inr rfl))
    | lift_lets -underBinder
    | (intro x; first | (refine (have hx : Keeps T r x := ?_; ?_); subst x; swap; clear_value x; swap) | subst x | skip) | split)

theorem Keeps.execHostLinkUp {T : List Area} {r s t : State} (h : Keeps T r s) (w : within [.regs, .latches, .answers, .mod, .hz, .prog,
    .beds, .grn, .fast, .eng, .aug, .flt, .stm, .dec, .lanes, .ring, .lck, .hst, .tim, .pwr, .sec, .flash, .svc, .free] T)  (e :
    (execHostLinkUp s) = .next t) : Keeps T r t := by
  have e' := Host.Outcome.next.inj e
  subst e'
  repeat' (first | with_reducible assumption | with_reducible apply Keeps.linkForms (w := w.sub (by decide)) | split)

theorem Keeps.takeCredit {T : List Area} {r s : State} (h : Keeps T r s) (w : within [.hst] T) (x1 : ℕ) (x2 : ℕ) : Keeps T r
    (State.takeCredit s x1 x2) := by
  unfold State.takeCredit
  repeat' (first
    | with_reducible assumption
    | fail_if_no_progress (with_reducible refine Keeps.fields ?_ (by intro p; cases p <;> first | exact .inl (w.mem (by decide)) | exact .inr rfl))
    | lift_lets -underBinder
    | (intro x; first | (refine (have hx : Keeps T r x := ?_; ?_); subst x; swap; clear_value x; swap) | subst x | skip) | split)

theorem Keeps.execCaptureRead {T : List Area} {r s t : State} (h : Keeps T r s) (w : within [.regs, .latches, .answers, .mod, .hz,
    .prog, .beds, .grn, .fast, .eng, .aug, .flt, .stm, .dec, .lanes, .ring, .lck, .hst, .tim, .pwr, .sec, .flash, .svc, .free] T) (x0 :
    BitVec 16) (x1 : U64) (e : (execCaptureRead x0 x1 s) = .next t) : Keeps T r t := by
  have e' := Host.Outcome.next.inj e
  subst e'
  repeat' (first | with_reducible assumption | with_reducible apply Keeps.requestOf (w := w.sub (by decide)))

theorem Keeps.execSowData {T : List Area} {r s t : State} (h : Keeps T r s) (w : within [.regs, .latches, .answers, .mod, .hz, .prog,
    .beds, .grn, .fast, .eng, .aug, .flt, .stm, .dec, .lanes, .ring, .lck, .hst, .tim, .pwr, .sec, .flash, .svc, .free] T) (x0 : BitVec
    16) (x1 : U64) (x2 : List Byte) (e : (execSowData x0 x1 x2 s) = .next t) : Keeps T r t := by
  have e' := Host.Outcome.next.inj e
  subst e'
  repeat' (first | with_reducible assumption | with_reducible apply Keeps.requestOf (w := w.sub (by decide)))

theorem Keeps.bulkDelivered {T : List Area} {r s : State} (h : Keeps T r s) (w : within [.regs, .eng, .hst] T) : Keeps T r
    (State.bulkDelivered s) := by
  unfold State.bulkDelivered
  repeat' (first
    | with_reducible assumption | with_reducible apply Keeps.setEng (w := w.sub (by decide))
    | with_reducible apply Keeps.setFld (w := w.sub (by decide)) | with_reducible apply Keeps.showStaged (w := w.sub (by decide))
    | with_reducible apply Keeps.bump64 (w := w.sub (by decide))
    | fail_if_no_progress (with_reducible refine Keeps.fields ?_ (by intro p; cases p <;> first | exact .inl (w.mem (by decide)) | exact .inr rfl))
    | lift_lets -underBinder
    | (intro x; first | (refine (have hx : Keeps T r x := ?_; ?_); subst x; swap; clear_value x; swap) | subst x | skip) | split)

theorem Keeps.cellTaken {T : List Area} {r s : State} (h : Keeps T r s) (w : within [.regs, .eng, .hst] T) (x1 : HostCell) : Keeps T r
    (State.cellTaken s x1) := by
  unfold State.cellTaken
  repeat' (first
    | with_reducible assumption | with_reducible apply Keeps.bump64 (w := w.sub (by decide))
    | with_reducible apply Keeps.bulkDelivered (w := w.sub (by decide)) | lift_lets -underBinder
    | (intro x; first | (refine (have hx : Keeps T r x := ?_; ?_); subst x; swap; clear_value x; swap) | subst x | skip) | split)

theorem Keeps.takeAck {T : List Area} {r s : State} (h : Keeps T r s) (w : within [.regs, .eng, .hst] T) (x1 : ℕ) : Keeps T r
    (State.takeAck s x1) := by
  unfold State.takeAck
  repeat' (first
    | with_reducible assumption | with_reducible apply Keeps.cellTaken (w := w.sub (by decide))
    | with_reducible refine Keeps.foldl _ ?_ (fun _ _ _ => ?_)
    | fail_if_no_progress (with_reducible refine Keeps.fields ?_ (by intro p; cases p <;> first | exact .inl (w.mem (by decide)) | exact .inr rfl))
    | lift_lets -underBinder
    | (intro x; first | (refine (have hx : Keeps T r x := ?_; ?_); subst x; swap; clear_value x; swap) | subst x | skip) | split)

theorem Keeps.cellData {T : List Area} {r s : State} (h : Keeps T r s) (w : within [.regs, .mod, .hst, .free] T) (x1 : ℕ) (x2 : Bool)
    (x3 : Bool) (x4 : List Byte) : Keeps T r (State.cellData s x1 x2 x3 x4) := by
  unfold State.cellData
  repeat' (first
    | with_reducible assumption | with_reducible apply Keeps.hostMessage (w := w.sub (by decide))
    | fail_if_no_progress (with_reducible refine Keeps.fields ?_ (by intro p; cases p <;> first | exact .inl (w.mem (by decide)) | exact .inr rfl))
    | lift_lets -underBinder
    | (intro x; first | (refine (have hx : Keeps T r x := ?_; ?_); subst x; swap; clear_value x; swap) | subst x | skip) | split)

theorem Keeps.goodCell {T : List Area} {r s : State} (h : Keeps T r s) (w : within [.regs, .latches, .answers, .mod, .hz, .prog, .beds,
    .grn, .fast, .eng, .aug, .flt, .stm, .dec, .lanes, .ring, .lck, .hst, .tim, .pwr, .sec, .flash, .svc, .free] T) (x1 : List Byte) :
    Keeps T r (State.goodCell s x1) := by
  unfold State.goodCell
  repeat' (first
    | with_reducible assumption | with_reducible apply Keeps.bump (w := w.sub (by decide))
    | with_reducible apply Keeps.takeCredit (w := w.sub (by decide)) | with_reducible apply Keeps.takeAck (w := w.sub (by decide))
    | with_reducible apply Keeps.cellData (w := w.sub (by decide)) | with_reducible apply Keeps.pumpAll (w := w.sub (by decide))
    | with_reducible apply Keeps.hostSetDue (w := w.sub (by decide))
    | fail_if_no_progress (with_reducible refine Keeps.fields ?_ (by intro p; cases p <;> first | exact .inl (w.mem (by decide)) | exact .inr rfl))
    | lift_lets -underBinder
    | (intro x; first | (refine (have hx : Keeps T r x := ?_; ?_); subst x; swap; clear_value x; swap) | subst x | skip) | split)

theorem Keeps.execFlashErase {T : List Area} {r s t : State} (h : Keeps T r s) (w : within [.regs, .latches, .answers, .mod, .hz, .prog,
    .beds, .grn, .fast, .eng, .aug, .flt, .stm, .dec, .lanes, .ring, .lck, .hst, .tim, .pwr, .sec, .flash, .svc, .free] T) (x0 : BitVec
    16) (x1 : U64) (x2 : Bool) (e : (execFlashErase x0 x1 x2 s) = .next t) : Keeps T r t := by
  have e' := Host.Outcome.next.inj e
  subst e'
  repeat' (first | with_reducible assumption | with_reducible apply Keeps.requestOf (w := w.sub (by decide)))

theorem Keeps.execFlashProgram {T : List Area} {r s t : State} (h : Keeps T r s) (w : within [.regs, .latches, .answers, .mod, .hz,
    .prog, .beds, .grn, .fast, .eng, .aug, .flt, .stm, .dec, .lanes, .ring, .lck, .hst, .tim, .pwr, .sec, .flash, .svc, .free] T) (x0 :
    BitVec 16) (x1 : U64) (x2 : List Byte) (x3 : Bool) (e : (execFlashProgram x0 x1 x2 x3 s) = .next t) : Keeps T r t := by
  have e' := Host.Outcome.next.inj e
  subst e'
  repeat' (first | with_reducible assumption | with_reducible apply Keeps.requestOf (w := w.sub (by decide)))

theorem Keeps.execLinkMessage {T : List Area} {r s t : State} (h : Keeps T r s) (w : within [.regs, .hst] T) (x0 : Byte) (x1 : BitVec
    16) (e : (execLinkMessage x0 x1 s) = .next t) : Keeps T r t := by
  have e' := Host.Outcome.next.inj e
  subst e'
  repeat' (first | with_reducible assumption | with_reducible apply Keeps.linkTold (w := w.sub (by decide)) | split)

theorem Keeps.execSowBegin {T : List Area} {r s t : State} (h : Keeps T r s) (w : within [.regs, .latches, .answers, .mod, .hz, .prog,
    .beds, .grn, .fast, .eng, .aug, .flt, .stm, .dec, .lanes, .ring, .lck, .hst, .tim, .pwr, .sec, .flash, .svc, .free] T) (x0 : BitVec
    16) (x1 : U64) (e : (execSowBegin x0 x1 s) = .next t) : Keeps T r t := by
  have e' := Host.Outcome.next.inj e
  subst e'
  repeat' (first | with_reducible assumption | with_reducible apply Keeps.requestOf (w := w.sub (by decide)))

theorem Keeps.execRegWrite {T : List Area} {r s t : State} (h : Keeps T r s) (w : within [.regs, .latches, .answers, .mod, .hz, .prog,
    .beds, .grn, .fast, .eng, .aug, .flt, .stm, .dec, .lanes, .ring, .lck, .hst, .tim, .pwr, .sec, .flash, .svc, .free] T) (x0 : BitVec
    16) (x1 : U64) (x2 : List Byte) (e : (execRegWrite x0 x1 x2 s) = .next t) : Keeps T r t := by
  have e' := Host.Outcome.next.inj e
  subst e'
  repeat' (first | with_reducible assumption | with_reducible apply Keeps.requestOf (w := w.sub (by decide)))

theorem Keeps.execFlashRead {T : List Area} {r s t : State} (h : Keeps T r s) (w : within [.regs, .latches, .answers, .mod, .hz, .prog,
    .beds, .grn, .fast, .eng, .aug, .flt, .stm, .dec, .lanes, .ring, .lck, .hst, .tim, .pwr, .sec, .flash, .svc, .free] T) (x0 : BitVec
    16) (x1 : U64) (e : (execFlashRead x0 x1 s) = .next t) : Keeps T r t := by
  have e' := Host.Outcome.next.inj e
  subst e'
  repeat' (first | with_reducible assumption | with_reducible apply Keeps.requestOf (w := w.sub (by decide)))

theorem Keeps.execRecAck {T : List Area} {r s t : State} (h : Keeps T r s) (w : within [.regs, .latches, .answers, .mod, .hz, .prog,
    .beds, .grn, .fast, .eng, .aug, .flt, .stm, .dec, .lanes, .ring, .lck, .hst, .tim, .pwr, .sec, .flash, .svc, .free] T) (x0 : BitVec
    16) (x1 : U64) (x2 : U64) (e : (execRecAck x0 x1 x2 s) = .next t) : Keeps T r t := by
  have e' := Host.Outcome.next.inj e
  subst e'
  repeat' (first | with_reducible assumption | with_reducible apply Keeps.requestOf (w := w.sub (by decide)))

theorem Keeps.execColdWrite {T : List Area} {r s t : State} (h : Keeps T r s) (w : within [.regs, .latches, .answers, .mod, .hz, .prog,
    .beds, .grn, .fast, .eng, .aug, .flt, .stm, .dec, .lanes, .ring, .lck, .hst, .tim, .pwr, .sec, .flash, .svc, .free] T) (x0 : BitVec
    16) (x1 : U64) (x2 : List Byte) (e : (execColdWrite x0 x1 x2 s) = .next t) : Keeps T r t := by
  have e' := Host.Outcome.next.inj e
  subst e'
  repeat' (first | with_reducible assumption | with_reducible apply Keeps.requestOf (w := w.sub (by decide)))

theorem Keeps.cellReceived {T : List Area} {r s : State} (h : Keeps T r s) (w : within [.regs, .latches, .answers, .mod, .hz, .prog,
    .beds, .grn, .fast, .eng, .aug, .flt, .stm, .dec, .lanes, .ring, .lck, .hst, .tim, .pwr, .sec, .flash, .svc, .free] T) (x1 : List
    Byte) : Keeps T r (State.cellReceived s x1) := by
  unfold State.cellReceived
  repeat' (first
    | with_reducible assumption | with_reducible apply Keeps.goodCell (w := w.sub (by decide))
    | with_reducible apply Keeps.bump (w := w.sub (by decide)) | split)

theorem Keeps.execHostCellReceived {T : List Area} {r s t : State} (h : Keeps T r s) (w : within [.regs, .latches, .answers, .mod, .hz,
    .prog, .beds, .grn, .fast, .eng, .aug, .flt, .stm, .dec, .lanes, .ring, .lck, .hst, .tim, .pwr, .sec, .flash, .svc, .free] T) (x0 :
    Fin 8) (x1 : List Byte) (e : (execHostCellReceived x0 x1 s) = .next t) : Keeps T r t := by
  have e' := Host.Outcome.next.inj e
  subst e'
  repeat' (first | with_reducible assumption | with_reducible apply Keeps.cellReceived (w := w.sub (by decide)) | split)

theorem Keeps.retransmits {T : List Area} {r s : State} (h : Keeps T r s) (w : within [.regs, .hst] T) : Keeps T r (State.retransmits s)
    := by
  unfold State.retransmits
  repeat' (first
    | with_reducible assumption | with_reducible apply Keeps.restartRecords (w := w.sub (by decide))
    | with_reducible apply Keeps.setFlag (w := w.sub (by decide)) | with_reducible apply Keeps.bump (w := w.sub (by decide))
    | fail_if_no_progress (with_reducible refine Keeps.fields ?_ (by intro p; cases p <;> first | exact .inl (w.mem (by decide)) | exact .inr rfl)))

theorem Keeps.execHostRetransmit {T : List Area} {r s t : State} (h : Keeps T r s) (w : within [.regs, .hst] T)  (e :
    (execHostRetransmit s) = .next t) : Keeps T r t := by
  have e' := Host.Outcome.next.inj e
  subst e'
  repeat' (first | with_reducible assumption | with_reducible apply Keeps.retransmits (w := w.sub (by decide)) | split)

end Sys2Proof.Machine
end

