-- ==== Sys2Proof/Laws/KeepsIdle.lean ====
section
/-!
SUPPORT. Each operation of Machine/Idle.lean keeps what Laws/Keeps.lean names.
-/
set_option linter.unusedVariables false
set_option linter.unreachableTactic false
set_option linter.unusedTactic false
namespace Sys2Proof.Machine

theorem Keeps.idleNano {T : List Area} {r s : State} (h : Keeps T r s) (w : within [.mod] T) : Keeps T r (State.idleNano s) := by
  unfold State.idleNano
  repeat' (first
    | with_reducible assumption | with_reducible apply Keeps.idleZero (w := w.sub (by decide))
    | fail_if_no_progress (with_reducible refine Keeps.fields ?_ (by intro p; cases p <;> first | exact .inl (w.mem (by decide)) | exact .inr rfl))
    | lift_lets -underBinder
    | (intro x; first | (refine (have hx : Keeps T r x := ?_; ?_); subst x; swap; clear_value x; swap) | subst x | skip) | split)

theorem Keeps.timeOn {T : List Area} {r s : State} (h : Keeps T r s) (w : within [.tim] T) : Keeps T r (State.timeOn s) := by
  unfold State.timeOn
  repeat' (first
    | with_reducible assumption
    | fail_if_no_progress (with_reducible refine Keeps.fields ?_ (by intro p; cases p <;> first | exact .inl (w.mem (by decide)) | exact .inr rfl)))

theorem Keeps.idleStep {T : List Area} {r s : State} (h : Keeps T r s) (w : within [.mod, .tim] T) : Keeps T r (State.idleStep s) := by
  unfold State.idleStep
  repeat' (first
    | with_reducible assumption | with_reducible apply Keeps.timeOn (w := w.sub (by decide))
    | with_reducible apply Keeps.idleNano (w := w.sub (by decide)) | lift_lets -underBinder
    | (intro x; first | (refine (have hx : Keeps T r x := ?_; ?_); subst x; swap; clear_value x; swap) | subst x | skip) | split)

end Sys2Proof.Machine
end

