-- ==== Sys2Proof/Laws/KeepsWake.lean ====
section
/-!
SUPPORT. Each operation of Machine/Wake.lean keeps what Laws/Keeps.lean names.
-/
set_option linter.unusedVariables false
set_option linter.unreachableTactic false
set_option linter.unusedTactic false
namespace Sys2Proof.Machine

theorem Keeps.finishTransfer {T : List Area} {r s : State} (h : Keeps T r s) (w : within [.regs, .latches, .answers, .mod, .hz, .prog,
    .beds, .grn, .fast, .eng, .aug, .flt, .stm, .dec, .lanes, .ring, .lck, .hst, .tim, .pwr, .sec, .svc, .free] T) : Keeps T r
    (State.finishTransfer s) := by
  unfold State.finishTransfer
  repeat' (first
    | with_reducible assumption | with_reducible apply Keeps.mgtRuns (w := w.sub (by decide))
    | fail_if_no_progress (with_reducible refine Keeps.fields ?_ (by intro p; cases p <;> first | exact .inl (w.mem (by decide)) | exact .inr rfl))
    | split)

theorem Keeps.execWarmWakingComplete {T : List Area} {r s t : State} (h : Keeps T r s) (w : within [.regs, .latches, .answers, .mod,
    .hz, .prog, .beds, .grn, .fast, .eng, .aug, .flt, .stm, .dec, .lanes, .ring, .lck, .hst, .tim, .pwr, .sec, .flash, .svc, .free] T)
    (x0 : Bool) (x1 : Bool) (e : (execWarmWakingComplete x0 x1 s) = .next t) : Keeps T r t := by
  have e' := Host.Outcome.next.inj e
  subst e'
  repeat' (first
    | with_reducible assumption | with_reducible apply Keeps.warmWakes (w := w.sub (by decide))
    | with_reducible apply Keeps.serveHeld (w := w.sub (by decide)) | lift_lets -underBinder
    | (intro x; first | (refine (have hx : Keeps T r x := ?_; ?_); subst x; swap; clear_value x; swap) | subst x | skip) | split)

theorem Keeps.showWake {T : List Area} {r s : State} (h : Keeps T r s) (w : within [.regs] T) (x1 : WakeSrc) : Keeps T r (State.showWake
    s x1) := by
  unfold State.showWake
  repeat' (first
    | with_reducible assumption | with_reducible apply Keeps.setFlag (w := w.sub (by decide))
    | with_reducible apply Keeps.setFld (w := w.sub (by decide)) | lift_lets -underBinder
    | (intro x; first | (refine (have hx : Keeps T r x := ?_; ?_); subst x; swap; clear_value x; swap) | subst x | skip) | split)

theorem Keeps.restores {T : List Area} {r s : State} (h : Keeps T r s) (w : within [.regs, .latches, .answers, .mod, .hz, .prog, .beds,
    .grn, .fast, .eng, .aug, .flt, .stm, .dec, .lanes, .ring, .lck, .hst, .tim, .pwr, .sec, .svc, .free] T) (x1 : WakeSrc) : Keeps T r
    (State.restores s x1) := by
  unfold State.restores
  repeat' (first
    | with_reducible assumption | with_reducible apply Keeps.enterState (w := w.sub (by decide))
    | with_reducible apply Keeps.writeEventAt (w := w.sub (by decide))
    | with_reducible apply Keeps.finishTransfer (w := w.sub (by decide)) | with_reducible apply Keeps.lanesAgain (w := w.sub (by decide))
    | with_reducible apply Keeps.showWake (w := w.sub (by decide)) | with_reducible apply Keeps.refusePassed (w := w.sub (by decide))
    | with_reducible apply Keeps.pinReset (w := w.sub (by decide))
    | fail_if_no_progress (with_reducible refine Keeps.fields ?_ (by intro p; cases p <;> first | exact .inl (w.mem (by decide)) | exact .inr rfl))
    | lift_lets -underBinder
    | (intro x; first | (refine (have hx : Keeps T r x := ?_; ?_); subst x; swap; clear_value x; swap) | subst x | skip) | split)

theorem Keeps.execRestoreComplete {T : List Area} {r s t : State} (h : Keeps T r s) (w : within [.regs, .latches, .answers, .mod, .hz,
    .prog, .beds, .grn, .fast, .eng, .aug, .flt, .stm, .dec, .lanes, .ring, .lck, .hst, .tim, .pwr, .sec, .svc, .free] T)  (e :
    (execRestoreComplete s) = .next t) : Keeps T r t := by
  have e' := Host.Outcome.next.inj e
  subst e'
  repeat' (first | with_reducible assumption | with_reducible apply Keeps.restores (w := w.sub (by decide)) | split)

theorem Keeps.execDramInitDone {T : List Area} {r s t : State} (h : Keeps T r s) (w : within [.regs, .latches, .answers, .mod, .hz,
    .prog, .beds, .grn, .fast, .eng, .aug, .flt, .stm, .dec, .lanes, .ring, .lck, .hst, .tim, .pwr, .sec, .flash, .svc, .free] T)  (e :
    (execDramInitDone s) = .next t) : Keeps T r t := by
  have e' := Host.Outcome.next.inj e
  subst e'
  repeat' (first
    | with_reducible assumption | with_reducible apply Keeps.serveHeld (w := w.sub (by decide))
    | with_reducible apply Keeps.siltAnswers (w := w.sub (by decide)) | with_reducible apply Keeps.dramReady (w := w.sub (by decide))
    | split)

theorem Keeps.execImageLoadComplete {T : List Area} {r s t : State} (h : Keeps T r s) (w : within [.regs, .latches, .answers, .mod, .hz,
    .prog, .beds, .grn, .fast, .eng, .aug, .flt, .stm, .dec, .lanes, .ring, .lck, .hst, .tim, .pwr, .sec, .flash, .svc, .free] T)  (e :
    (execImageLoadComplete s) = .next t) : Keeps T r t := by
  have e' := Host.Outcome.next.inj e
  subst e'
  repeat' (first
    | with_reducible assumption | with_reducible apply Keeps.serveHeld (w := w.sub (by decide))
    | with_reducible apply Keeps.imageLoaded (w := w.sub (by decide)) | split)

end Sys2Proof.Machine
end

