-- ==== Sys2Proof/Laws/KeepsTransmit.lean ====
section
/-!
SUPPORT. Each operation of Machine/Transmit.lean keeps what Laws/Keeps.lean names.
-/
set_option linter.unusedVariables false
set_option linter.unreachableTactic false
set_option linter.unusedTactic false
namespace Sys2Proof.Machine

theorem Keeps.sendLine {T : List Area} {r s : State} (h : Keeps T r s) (w : within [.regs, .lanes] T) (x1 : Fin 80) (x2 : SentBlock) :
    Keeps T r (State.sendLine s x1 x2) := by
  unfold State.sendLine
  repeat' (first
    | with_reducible assumption | with_reducible apply Keeps.bump64 (w := w.sub (by decide))
    | with_reducible apply Keeps.setLane (w := w.sub (by decide)) | with_reducible apply Keeps.bump (w := w.sub (by decide))
    | with_reducible apply Keeps.setFlag (w := w.sub (by decide)) | lift_lets -underBinder
    | (intro x; first | (refine (have hx : Keeps T r x := ?_; ?_); subst x; swap; clear_value x; swap) | subst x | skip) | split)

theorem Keeps.sendData {T : List Area} {r s : State} (h : Keeps T r s) (w : within [.regs, .lanes] T) (x1 : Fin 80) (x2 : List Byte) :
    Keeps T r (State.sendData s x1 x2) := by
  unfold State.sendData
  repeat' (first | with_reducible assumption | with_reducible apply Keeps.sendLine (w := w.sub (by decide)))

theorem Keeps.sendIdle {T : List Area} {r s : State} (h : Keeps T r s) (w : within [.regs, .lanes] T) (x1 : Fin 80) : Keeps T r
    (State.sendIdle s x1) := by
  unfold State.sendIdle
  repeat' (first | with_reducible assumption | with_reducible apply Keeps.sendLine (w := w.sub (by decide)))

theorem Keeps.resentCell {T : List Area} {r s : State} (h : Keeps T r s) (w : within [.hst] T) : KeepsP T r (State.resentCell s) := by
  unfold State.resentCell
  split
  · exact KeepsP.no
  · split
    · exact KeepsP.no
    · exact KeepsP.yes (Keeps.upd h (SecKeeps.refl _) (SvcKeeps.refl _) le_rfl (fun p => by cases p <;> first | exact .inl (w.mem rfl) | exact .inr rfl))

theorem Keeps.controlCell {T : List Area} {r s : State} (h : Keeps T r s) (w : within [.hst] T) : KeepsP T r (State.controlCell s) := by
  unfold State.controlCell
  split
  · exact KeepsP.no
  · exact KeepsP.yes (Keeps.upd h (SecKeeps.refl _) (SvcKeeps.refl _) le_rfl (fun p => by cases p <;> first | exact .inl (w.mem rfl) | exact .inr rfl))

theorem Keeps.nextResponse {T : List Area} {r s : State} (h : Keeps T r s) (w : within [.hst] T) : KeepsP T r (State.nextResponse s) := by
  unfold State.nextResponse
  split
  · exact KeepsP.no
  · exact KeepsP.yes (Keeps.upd h (SecKeeps.refl _) (SvcKeeps.refl _) le_rfl (fun p => by cases p <;> first | exact .inl (w.mem rfl) | exact .inr rfl))

theorem Keeps.nextRecord {T : List Area} {r s : State} (h : Keeps T r s) (w : within [.hst] T) : KeepsP T r (State.nextRecord s) := by
  unfold State.nextRecord
  split
  · exact KeepsP.yes (Keeps.upd h (SecKeeps.refl _) (SvcKeeps.refl _) le_rfl (fun p => by cases p <;> first | exact .inl (w.mem rfl) | exact .inr rfl))
  · split
    · exact KeepsP.no
    · exact KeepsP.yes (Keeps.upd h (SecKeeps.refl _) (SvcKeeps.refl _) le_rfl (fun p => by cases p <;> first | exact .inl (w.mem rfl) | exact .inr rfl))

theorem Keeps.nextBulk {T : List Area} {r s : State} (h : Keeps T r s) (w : within [.eng, .hst] T) : KeepsP T r (State.nextBulk s) := by
  intro x e
  unfold State.nextBulk at e
  obtain ⟨y, -, rfl⟩ := Option.map_eq_some_iff.mp e
  dsimp only
  split
  · exact Keeps.setEng (Keeps.upd h (SecKeeps.refl _) (SvcKeeps.refl _) le_rfl (fun p => by cases p <;> first | exact .inl (w.mem rfl) | exact .inr rfl)) (w.sub rfl) _ _
  · exact Keeps.upd h (SecKeeps.refl _) (SvcKeeps.refl _) le_rfl (fun p => by cases p <;> first | exact .inl (w.mem rfl) | exact .inr rfl)

theorem Keeps.channelTx {T : List Area} {r s : State} (h : Keeps T r s)
    (w : within [.eng, .hst] T) (k : Nat) : KeepsP T r (State.channelTx s k) := by
  unfold State.channelTx
  split
  · exact KeepsP.yes h
  · refine KeepsP.map ?_ (fun _ hx => hx)
    split
    · exact Keeps.nextResponse h (w.sub rfl)
    · split
      · exact Keeps.nextRecord h (w.sub rfl)
      · split
        · exact Keeps.nextBulk h (w.sub rfl)
        · exact KeepsP.no

theorem Keeps.channelCell {T : List Area} {r s : State} (h : Keeps T r s)
    (w : within [.eng, .hst] T) (k : Nat) : KeepsP T r (State.channelCell s k) := by
  unfold State.channelCell
  split
  · exact KeepsP.no
  · exact KeepsP.map (Keeps.channelTx h (w.sub rfl) k) (fun _ hx => Keeps.upd hx (SecKeeps.refl _) (SvcKeeps.refl _) le_rfl (fun p => by cases p <;> first | exact .inl (w.mem rfl) | exact .inr rfl))

theorem Keeps.nextCell {T : List Area} {r s : State} (h : Keeps T r s) (w : within [.eng, .hst] T) : KeepsP T r (State.nextCell s) := by
  have normal := KeepsP.or (KeepsP.or (KeepsP.or (Keeps.controlCell h (w.sub rfl)) (Keeps.channelCell h (w.sub rfl) 3)) (Keeps.channelCell h (w.sub rfl) 4)) (Keeps.channelCell h (w.sub rfl) 5)
  unfold State.nextCell
  split
  · exact KeepsP.no
  · split
    · exact Keeps.resentCell h (w.sub rfl)
    · dsimp only
      split
      · exact KeepsP.or (Keeps.channelCell h (w.sub rfl) 5) normal
      · exact normal

theorem Keeps.cellLeft {T : List Area} {r s : State} (h : Keeps T r s)
    (w : within [.eng, .hst] T) : Keeps T r (match State.nextCell s with | some y => y.2 | none => s) := by
  have k := Keeps.nextCell h (w.sub rfl)
  revert k
  cases State.nextCell s with
  | none => exact fun _ => h
  | some y => exact fun k => k y rfl

theorem Keeps.hostCell {T : List Area} {r s : State} (h : Keeps T r s)
    (w : within [.regs, .eng, .lanes, .hst, .free] T) (l : Fin 80) : Keeps T r (State.hostCell s l) := by
  unfold State.hostCell
  dsimp only
  split
  · exact Keeps.sendData (Keeps.upd (Keeps.drawBytes (Keeps.drawNat (Keeps.cellLeft h (w.sub rfl)) (w.sub rfl)) (w.sub rfl) 112) (SecKeeps.refl _) (SvcKeeps.refl _) le_rfl (fun p => by cases p <;> first | exact .inl (w.mem rfl) | exact .inr rfl)) (w.sub rfl) _ _
  · exact Keeps.sendData (Keeps.upd (Keeps.drawNat (Keeps.upd (Keeps.drawBytes (Keeps.drawNat (Keeps.cellLeft h (w.sub rfl)) (w.sub rfl)) (w.sub rfl) 112) (SecKeeps.refl _)
      (SvcKeeps.refl _) le_rfl (fun p => by cases p <;> first | exact .inl (w.mem rfl) | exact .inr rfl)) (w.sub rfl)) (SecKeeps.refl _) (SvcKeeps.refl _) le_rfl (fun p => by cases p <;> first | exact .inl (w.mem rfl) | exact .inr rfl)) (w.sub rfl) _ _

theorem Keeps.decBlock {T : List Area} {r s : State} (h : Keeps T r s) (w : within [.regs, .dec, .lanes] T) (x1 : Fin 80) (x2 : Bool) :
    Keeps T r (State.decBlock s x1 x2) := by
  unfold State.decBlock
  repeat' (first
    | with_reducible assumption | with_reducible apply Keeps.raiseFld (w := w.sub (by decide))
    | with_reducible apply Keeps.sendLine (w := w.sub (by decide)) | with_reducible apply Keeps.sendIdle (w := w.sub (by decide))
    | fail_if_no_progress (with_reducible refine Keeps.fields ?_ (by intro p; cases p <;> first | exact .inl (w.mem (by decide)) | exact .inr rfl))
    | lift_lets -underBinder
    | (intro x; first | (refine (have hx : Keeps T r x := ?_; ?_); subst x; swap; clear_value x; swap) | subst x | skip) | split)

theorem Keeps.sendTraining {T : List Area} {r s : State} (h : Keeps T r s) (w : within [.regs, .lanes, .free] T) (x1 : Fin 80) : Keeps T
    r (State.sendTraining s x1) := by
  unfold State.sendTraining
  repeat' (first
    | with_reducible assumption | with_reducible apply Keeps.drawNat (w := w.sub (by decide))
    | with_reducible apply Keeps.sendLine (w := w.sub (by decide)))

theorem Keeps.ringBlock {T : List Area} {r s : State} (h : Keeps T r s) (w : within [.regs, .aug, .lanes, .ring] T) (x1 : Fin 80) :
    Keeps T r (State.ringBlock s x1) := by
  unfold State.ringBlock
  repeat' (first
    | with_reducible assumption | with_reducible apply Keeps.gatherMirror (w := w.sub (by decide))
    | with_reducible apply Keeps.sendData (w := w.sub (by decide)) | with_reducible apply Keeps.setPort (w := w.sub (by decide))
    | lift_lets -underBinder | split)

theorem Keeps.trafficBlock {T : List Area} {r s : State} (h : Keeps T r s) (w : within [.regs, .eng, .aug, .dec, .lanes, .ring, .hst,
    .free] T) (x1 : Fin 80) : Keeps T r (State.trafficBlock s x1) := by
  unfold State.trafficBlock
  repeat' (first
    | with_reducible assumption | with_reducible apply Keeps.decBlock (w := w.sub (by decide))
    | with_reducible apply Keeps.ringBlock (w := w.sub (by decide)) | with_reducible apply Keeps.sendIdle (w := w.sub (by decide))
    | with_reducible apply Keeps.hostCell (w := w.sub (by decide)) | split)

theorem Keeps.txBlock {T : List Area} {r s : State} (h : Keeps T r s) (w : within [.regs, .eng, .aug, .dec, .lanes, .ring, .hst, .free]
    T) (x1 : Fin 80) : Keeps T r (State.txBlock s x1) := by
  unfold State.txBlock
  repeat' (first
    | with_reducible assumption | with_reducible apply Keeps.sendIdle (w := w.sub (by decide))
    | with_reducible apply Keeps.decBlock (w := w.sub (by decide)) | with_reducible apply Keeps.trafficBlock (w := w.sub (by decide))
    | with_reducible apply Keeps.sendTraining (w := w.sub (by decide)) | lift_lets -underBinder
    | (intro x; first | (refine (have hx : Keeps T r x := ?_; ?_); subst x; swap; clear_value x; swap) | subst x | skip) | split)

theorem Keeps.execTxBlock {T : List Area} {r s t : State} (h : Keeps T r s) (w : within [.regs, .eng, .aug, .dec, .lanes, .ring, .hst,
    .free] T) (x0 : Fin 80) (e : (execTxBlock x0 s) = .next t) : Keeps T r t := by
  have e' := Host.Outcome.next.inj e
  subst e'
  repeat' (first | with_reducible assumption | with_reducible apply Keeps.txBlock (w := w.sub (by decide)))

end Sys2Proof.Machine
end

