-- ==== Sys2Proof/Laws/PerInstr.lean ====
section
/-!
SUPPORT. The family `Areas`: no command lists the queue among the areas it may change; one lemma per command.
-/
namespace Sys2Proof.Laws.Areas

open Sys2Proof.Machine

/-- The queue of waiting commands is none of the areas the command may change. -/
def Statement (i : Instr) : Prop := Area.pending ∉ commandAreas i

theorem everyArea_pending : Area.pending ∉ everyArea := by decide

theorem allButFlash_pending : Area.pending ∉ allButFlash := by decide

theorem mainRailsValid : ∀ temps, Statement (.mainRailsValid temps) := fun _ => allButFlash_pending
theorem dramInitDone : Statement .dramInitDone := everyArea_pending
theorem firmwareLoadComplete : Statement .firmwareLoadComplete := (by decide : Area.pending ∉ [Area.regs, .mod, .fast, .eng, .aug, .dec, .lanes, .hst, .free])
theorem imageLoadComplete : Statement .imageLoadComplete := everyArea_pending
theorem mainRailsLost : Statement .mainRailsLost := allButFlash_pending
theorem brownOut : Statement .brownOut := allButFlash_pending
theorem pwrMainEnLow : Statement .pwrMainEnLow := allButFlash_pending
theorem rstWarmNAssert : Statement .rstWarmNAssert := allButFlash_pending
theorem rstWarmNRelease : Statement .rstWarmNRelease := allButFlash_pending
theorem vstbyLost : Statement .vstbyLost := allButFlash_pending
theorem topWarmReset : ∀ path, Statement (.topWarmReset path) := fun _ => allButFlash_pending
theorem drainComplete : Statement .drainComplete := allButFlash_pending
theorem warmWakingComplete : ∀ fwBad imgBad, Statement (.warmWakingComplete fwBad imgBad) := fun _ _ => everyArea_pending
theorem firmwareWatchdogExpiry : Statement .firmwareWatchdogExpiry := (by decide : Area.pending ∉ [Area.regs, .mod, .beds, .fast, .eng, .aug, .flt, .dec, .lanes, .svc, .free])
theorem thermalTrip : ∀ sensor temp, Statement (.thermalTrip sensor temp) := fun _ _ => allButFlash_pending
theorem tripGating : Statement .tripGating := (by decide : Area.pending ∉ [Area.mod, .eng])
theorem criticalShutdown : ∀ sensor temp, Statement (.criticalShutdown sensor temp) := fun _ _ => allButFlash_pending
theorem thermalWarning : ∀ sensor temp, Statement (.thermalWarning sensor temp) := fun _ _ => (by decide : Area.pending ∉ [Area.regs, .pwr])
theorem dramStackHot : ∀ die temp, Statement (.dramStackHot die temp) := fun _ _ => (by decide : Area.pending ∉ [Area.regs, .pwr])
theorem powerMeasurement : ∀ meas vin iin vstby, Statement (.powerMeasurement meas vin iin vstby) := fun _ _ _ _ => (by decide : Area.pending ∉ [Area.regs, .pwr])
theorem powerAlarm : Statement .powerAlarm := (by decide : Area.pending ∉ [Area.regs, .pwr])
theorem pllUnlock : ∀ domain, Statement (.pllUnlock domain) := fun _ => (by decide : Area.pending ∉ [Area.regs])
theorem idleTimerExpiry : Statement .idleTimerExpiry := (by decide : Area.pending ∉ [Area.regs, .mod, .fast, .dec])
theorem fallowNow : ∀ path, Statement (.fallowNow path) := fun _ => (by decide : Area.pending ∉ [Area.regs, .mod, .aug, .sec])
theorem fallowAbort : ∀ point, Statement (.fallowAbort point) := fun _ => allButFlash_pending
theorem fallowEntryComplete : Statement .fallowEntryComplete := (by decide : Area.pending ∉ [Area.regs, .mod, .hz, .fast, .eng, .aug, .dec, .lanes, .hst, .free])
theorem mgtAddressMatch : ∀ bytes reads, Statement (.mgtAddressMatch bytes reads) := fun _ _ => (by decide : Area.pending ∉ [Area.mod])
theorem hostWake : ∀ lane, Statement (.hostWake lane) := fun _ => (by decide : Area.pending ∉ [Area.regs, .mod])
theorem restoreComplete : Statement .restoreComplete := allButFlash_pending
theorem tick : ∀ ps sync, Statement (.tick ps sync) := fun _ _ => (by decide : Area.pending ∉ [Area.regs, .mod, .hz, .fast, .eng, .aug, .flt, .dec, .ring])
theorem tickLoss : Statement .tickLoss := (by decide : Area.pending ∉ [Area.regs, .hz, .fast, .aug, .dec])
theorem flywheelTick : Statement .flywheelTick := (by decide : Area.pending ∉ [Area.regs, .mod, .hz, .fast, .eng, .aug, .flt, .dec, .ring])
theorem tickPeriodMeasured : ∀ ps, Statement (.tickPeriodMeasured ps) := fun _ => (by decide : Area.pending ∉ [Area.regs, .aug])
theorem acceptanceResume : Statement .acceptanceResume := (by decide : Area.pending ∉ [Area.regs, .hz, .fast, .dec])
theorem presetArm : ∀ path, Statement (.presetArm path) := fun _ => (by decide : Area.pending ∉ [Area.regs, .mod, .hz, .aug, .sec])
theorem presetApply : Statement .presetApply := (by decide : Area.pending ∉ [Area.regs, .mod, .hz, .fast, .eng, .aug, .flt, .dec])
theorem launchCommit : ∀ path value, Statement (.launchCommit path value) := fun _ _ => (by decide : Area.pending ∉ [Area.regs, .mod, .hz, .aug, .ring, .sec])
theorem launch : Statement .launch := (by decide : Area.pending ∉ [Area.regs, .mod, .hz, .fast, .eng, .aug, .flt, .dec, .lanes, .ring])
theorem laneBlockReceived : ∀ lane line, Statement (.laneBlockReceived lane line) := fun _ _ => (by decide : Area.pending ∉ [Area.regs, .mod, .beds, .fast, .eng, .aug, .flt, .dec, .lanes, .hst, .svc, .free])
theorem frameItem : ∀ lane sender stamp payload broken bridge ps, Statement (.frameItem lane sender stamp payload broken bridge ps) := fun _ _ _ _ _ _ _ => (by decide : Area.pending ∉ [Area.regs, .mod, .beds, .fast, .eng, .aug, .flt, .stm, .dec, .lanes, .svc, .free])
theorem summaryItem : ∀ lane sender stamp body broken ps, Statement (.summaryItem lane sender stamp body broken ps) := fun _ _ _ _ _ _ => (by decide : Area.pending ∉ [Area.regs, .eng, .stm])
theorem frameEntry : ∀ bed slot hzn errs, Statement (.frameEntry bed slot hzn errs) := fun _ _ _ _ => (by decide : Area.pending ∉ [Area.regs, .mod, .beds, .fast, .eng, .aug, .flt, .dec, .lanes, .svc, .free])
theorem bedExit : ∀ bed slot hzn errs, Statement (.bedExit bed slot hzn errs) := fun _ _ _ _ => (by decide : Area.pending ∉ [Area.regs, .mod, .beds, .fast, .eng, .aug, .flt, .dec, .lanes, .ring, .lck, .svc, .free])
theorem verdictOutput : ∀ bed slot hzn settled ui, Statement (.verdictOutput bed slot hzn settled ui) := fun _ _ _ _ _ => (by decide : Area.pending ∉ [Area.regs, .fast, .dec])
theorem streamRingEntryWrite : ∀ bed slot hzn, Statement (.streamRingEntryWrite bed slot hzn) := fun _ _ _ => (by decide : Area.pending ∉ [Area.regs, .fast, .eng, .aug, .hst])
theorem settledAnswer : ∀ engine bed slot hzn answer, Statement (.settledAnswer engine bed slot hzn answer) := fun _ _ _ _ _ => (by decide : Area.pending ∉ [Area.regs, .mod, .beds, .fast, .eng, .aug, .flt, .dec, .lanes, .svc, .free])
theorem settledRelease : ∀ bed slot hzn, Statement (.settledRelease bed slot hzn) := fun _ _ _ => (by decide : Area.pending ∉ [Area.regs, .mod, .beds, .fast, .eng, .aug, .flt, .dec, .lanes, .lck, .svc, .free])
theorem slabClose : ∀ engine group period, Statement (.slabClose engine group period) := fun _ _ _ => (by decide : Area.pending ∉ [Area.regs, .eng, .aug, .hst])
theorem contextPackageWrite : ∀ engine ring hzn hist ps ns work, Statement (.contextPackageWrite engine ring hzn hist ps ns work) := fun _ _ _ _ _ _ _ => (by decide : Area.pending ∉ [Area.regs, .mod, .beds, .fast, .eng, .aug, .flt, .dec, .lanes, .svc, .free])
theorem warmingStart : ∀ engine, Statement (.warmingStart engine) := fun _ => (by decide : Area.pending ∉ [Area.regs, .eng])
theorem warmingEnd : ∀ engine, Statement (.warmingEnd engine) := fun _ => (by decide : Area.pending ∉ [Area.regs, .eng, .aug])
theorem engineReset : ∀ path engine, Statement (.engineReset path engine) := fun _ _ => (by decide : Area.pending ∉ [Area.regs, .mod, .fast, .eng, .aug, .sec, .free])
theorem checkpointHorizon : ∀ engine, Statement (.checkpointHorizon engine) := fun _ => (by decide : Area.pending ∉ [Area.regs, .eng, .aug])
theorem checkpointComplete : ∀ engine, Statement (.checkpointComplete engine) := fun _ => (by decide : Area.pending ∉ [Area.regs, .eng, .aug, .lck, .hst])
theorem spillUnit : ∀ engine stream ring first sent, Statement (.spillUnit engine stream ring first sent) := fun _ _ _ _ _ => (by decide : Area.pending ∉ [Area.regs, .eng, .aug, .hst])
theorem dramRefresh : ∀ engine chan bank, Statement (.dramRefresh engine chan bank) := fun _ _ _ => (by decide : Area.pending ∉ [Area.regs, .eng])
theorem dramTransactionBoundary : ∀ engine chan outcome, Statement (.dramTransactionBoundary engine chan outcome) := fun _ _ _ => (by decide : Area.pending ∉ [Area.regs, .mod, .beds, .fast, .eng, .aug, .flt, .dec, .lanes, .lck, .hst, .svc, .free])
theorem siltMoverRetry : ∀ engine busy, Statement (.siltMoverRetry engine busy) := fun _ _ => (by decide : Area.pending ∉ [Area.regs, .eng, .free])
theorem siltColumnRepairDone : ∀ engine bank, Statement (.siltColumnRepairDone engine bank) := fun _ _ => (by decide : Area.pending ∉ [Area.regs, .fast, .eng, .aug, .flt])
theorem looseWrite : ∀ path value, Statement (.looseWrite path value) := fun _ _ => (by decide : Area.pending ∉ [Area.regs, .mod, .aug, .sec])
theorem modeChange : Statement .modeChange := (by decide : Area.pending ∉ [Area.regs, .mod, .eng, .aug])
theorem recordEntry : ∀ bed slot hzn, Statement (.recordEntry bed slot hzn) := fun _ _ _ => (by decide : Area.pending ∉ [Area.regs, .fast, .aug, .dec])
theorem recordHoldRelease : Statement .recordHoldRelease := (by decide : Area.pending ∉ [Area.regs, .fast, .aug, .dec])
theorem sealClose : Statement .sealClose := (by decide : Area.pending ∉ [Area.regs, .aug])
theorem sealNow : ∀ path, Statement (.sealNow path) := fun _ => (by decide : Area.pending ∉ [Area.regs, .mod, .aug, .sec])
theorem sealSigned : ∀ good, Statement (.sealSigned good) := fun _ => (by decide : Area.pending ∉ [Area.regs, .mod, .beds, .fast, .eng, .aug, .flt, .dec, .lanes, .svc, .free])
theorem mirrorAck : ∀ seq, Statement (.mirrorAck seq) := fun _ => (by decide : Area.pending ∉ [Area.regs, .aug])
theorem mirrorTimeout : Statement .mirrorTimeout := (by decide : Area.pending ∉ [Area.regs, .aug])
theorem orphanTailForward : ∀ serial, Statement (.orphanTailForward serial) := fun _ => (by decide : Area.pending ∉ [Area.regs, .aug, .hst])
theorem selfTestComplete : ∀ unit pass failing, Statement (.selfTestComplete unit pass failing) := fun _ _ _ => (by decide : Area.pending ∉ [Area.regs, .mod, .beds, .fast, .eng, .aug, .flt, .dec, .lanes, .ring, .hst, .svc, .free])
theorem spareColumnLoaded : ∀ bed, Statement (.spareColumnLoaded bed) := fun _ => (by decide : Area.pending ∉ [Area.beds])
theorem spareColumnSwitch : ∀ bed, Statement (.spareColumnSwitch bed) := fun _ => (by decide : Area.pending ∉ [Area.regs, .beds, .aug, .flt])
theorem ringFrameReceived : ∀ port errors slots, Statement (.ringFrameReceived port errors slots) := fun _ _ _ => (by decide : Area.pending ∉ [Area.regs, .mod, .beds, .fast, .eng, .aug, .flt, .dec, .lanes, .ring, .hst, .svc, .free])
theorem elasticCellReceived : ∀ port cell, Statement (.elasticCellReceived port cell) := fun _ _ => (by decide : Area.pending ∉ [Area.aug, .ring])
theorem elasticRetransmit : ∀ port, Statement (.elasticRetransmit port) := fun _ => (by decide : Area.pending ∉ [Area.regs, .ring])
theorem combiningSlot : ∀ bed slot hzn, Statement (.combiningSlot bed slot hzn) := fun _ _ _ => (by decide : Area.pending ∉ [Area.regs, .fast, .aug, .dec, .ring])
theorem ringLinkDown : ∀ port, Statement (.ringLinkDown port) := fun _ => (by decide : Area.pending ∉ [Area.regs, .aug, .ring])
theorem reroute : Statement .reroute := (by decide : Area.pending ∉ [Area.regs, .ring])
theorem leadTakeover : Statement .leadTakeover := (by decide : Area.pending ∉ [Area.regs, .aug, .ring])
theorem ringHello : ∀ port src count reach cable, Statement (.ringHello port src count reach cable) := fun _ _ _ _ _ => (by decide : Area.pending ∉ [Area.regs, .fast, .aug, .dec, .ring])
theorem launchMessage : ∀ src hzn msg, Statement (.launchMessage src hzn msg) := fun _ _ _ => (by decide : Area.pending ∉ [Area.regs, .mod, .hz, .aug, .ring])
theorem launchConfirmDeadline : Statement .launchConfirmDeadline := (by decide : Area.pending ∉ [Area.regs, .ring])
theorem roleChangeMessage : ∀ src, Statement (.roleChangeMessage src) := fun _ => (by decide : Area.pending ∉ [Area.regs, .aug, .ring])
theorem lckEn : ∀ path value, Statement (.lckEn path value) := fun _ _ => (by decide : Area.pending ∉ [Area.regs, .mod, .aug, .lck, .sec])
theorem lckStartCommit : ∀ path value, Statement (.lckStartCommit path value) := fun _ _ => (by decide : Area.pending ∉ [Area.regs, .mod, .aug, .lck, .sec])
theorem lckStart : ∀ partner, Statement (.lckStart partner) := fun _ => (by decide : Area.pending ∉ [Area.regs, .ring, .lck])
theorem lckWindowClose : ∀ start late, Statement (.lckWindowClose start late) := fun _ _ => (by decide : Area.pending ∉ [Area.regs, .ring, .lck])
theorem lckPartnerDigest : ∀ start digest, Statement (.lckPartnerDigest start digest) := fun _ _ => (by decide : Area.pending ∉ [Area.regs, .ring, .lck])
theorem lckFreezeMessage : Statement .lckFreezeMessage := (by decide : Area.pending ∉ [Area.regs, .lck])
theorem lckLocateDone : ∀ ticks results, Statement (.lckLocateDone ticks results) := fun _ _ => (by decide : Area.pending ∉ [Area.regs, .aug, .ring])
theorem lckSnapshot : Statement .lckSnapshot := (by decide : Area.pending ∉ [Area.regs, .eng, .aug, .lck, .hst])
theorem lckFreeze : ∀ path, Statement (.lckFreeze path) := fun _ => (by decide : Area.pending ∉ [Area.regs, .mod, .aug, .ring, .lck, .sec])
theorem lckRearm : ∀ path, Statement (.lckRearm path) := fun _ => (by decide : Area.pending ∉ [Area.regs, .mod, .aug, .lck, .sec])
theorem lckCaptureGap : ∀ start, Statement (.lckCaptureGap start) := fun _ => (by decide : Area.pending ∉ [Area.regs, .lck])
theorem bedSelftest : ∀ path bed, Statement (.bedSelftest path bed) := fun _ _ => (by decide : Area.pending ∉ [Area.regs, .mod, .beds, .aug, .sec])
theorem mirrorRelease : ∀ path bed value, Statement (.mirrorRelease path bed value) := fun _ _ _ => (by decide : Area.pending ∉ [Area.regs, .mod, .beds, .aug, .sec, .svc])
theorem mirrorReleaseBoundary : Statement .mirrorReleaseBoundary := (by decide : Area.pending ∉ [Area.regs, .prog, .beds, .fast, .flt, .dec])
theorem mirrorRejoinLoaded : ∀ pair, Statement (.mirrorRejoinLoaded pair) := fun _ => (by decide : Area.pending ∉ [Area.regs, .beds])
theorem corrArm : ∀ path bed value, Statement (.corrArm path bed value) := fun _ _ _ => (by decide : Area.pending ∉ [Area.regs, .mod, .prog, .aug, .sec])
theorem corrCommit : ∀ bed, Statement (.corrCommit bed) := fun _ => (by decide : Area.pending ∉ [Area.regs, .prog, .beds, .aug])
theorem corrCancel : ∀ path bed, Statement (.corrCancel path bed) := fun _ _ => (by decide : Area.pending ∉ [Area.regs, .mod, .prog, .aug, .sec])
theorem grnSnapshotStatus : ∀ path, Statement (.grnSnapshotStatus path) := fun _ => (by decide : Area.pending ∉ [Area.regs, .mod, .grn, .aug, .sec])
theorem grnMacScan : ∀ path, Statement (.grnMacScan path) := fun _ => (by decide : Area.pending ∉ [Area.regs, .mod, .grn, .aug, .sec])
theorem grnBankMarch : ∀ path, Statement (.grnBankMarch path) := fun _ => (by decide : Area.pending ∉ [Area.regs, .mod, .grn, .aug, .sec])
theorem grnTestDone : ∀ pass, Statement (.grnTestDone pass) := fun _ => (by decide : Area.pending ∉ [Area.regs, .grn])
theorem grnWindowWrite : ∀ path addr value, Statement (.grnWindowWrite path addr value) := fun _ _ _ => (by decide : Area.pending ∉ [Area.regs, .mod, .beds, .aug, .sec])
theorem sowBegin : ∀ tag arg, Statement (.sowBegin tag arg) := fun _ _ => everyArea_pending
theorem sowData : ∀ tag arg payload, Statement (.sowData tag arg payload) := fun _ _ _ => everyArea_pending
theorem sowEnd : ∀ tag, Statement (.sowEnd tag) := fun _ => everyArea_pending
theorem regRead : ∀ tag arg, Statement (.regRead tag arg) := fun _ _ => everyArea_pending
theorem regWrite : ∀ tag arg payload, Statement (.regWrite tag arg payload) := fun _ _ _ => everyArea_pending
theorem flashErase : ∀ tag arg good, Statement (.flashErase tag arg good) := fun _ _ _ => everyArea_pending
theorem flashProgram : ∀ tag arg payload good, Statement (.flashProgram tag arg payload good) := fun _ _ _ _ => everyArea_pending
theorem flashRead : ∀ tag arg, Statement (.flashRead tag arg) := fun _ _ => everyArea_pending
theorem recAck : ∀ tag next serial, Statement (.recAck tag next serial) := fun _ _ _ => everyArea_pending
theorem captureRead : ∀ tag arg, Statement (.captureRead tag arg) := fun _ _ => everyArea_pending
theorem coldWrite : ∀ tag arg payload, Statement (.coldWrite tag arg payload) := fun _ _ _ => everyArea_pending
theorem linkMessage : ∀ mask seq, Statement (.linkMessage mask seq) := fun _ _ => (by decide : Area.pending ∉ [Area.regs, .hst])
theorem hostCellReceived : ∀ lane cell, Statement (.hostCellReceived lane cell) := fun _ _ => everyArea_pending
theorem hostRetransmit : Statement .hostRetransmit := (by decide : Area.pending ∉ [Area.regs, .hst])
theorem hostLinkUp : Statement .hostLinkUp := everyArea_pending
theorem hostLinkDown : Statement .hostLinkDown := everyArea_pending
theorem linkReset : ∀ path, Statement (.linkReset path) := fun _ => (by decide : Area.pending ∉ [Area.regs, .mod, .aug, .hst, .sec])
theorem flashRestart : ∀ path, Statement (.flashRestart path) := fun _ => (by decide : Area.pending ∉ [Area.regs, .mod, .prog, .beds, .fast, .eng, .aug, .dec, .lanes, .tim, .sec])
theorem rotLoad : ∀ path, Statement (.rotLoad path) := fun _ => (by decide : Area.pending ∉ [Area.regs, .mod, .prog, .beds, .aug, .sec, .svc])
theorem rotLoadComplete : Statement .rotLoadComplete := (by decide : Area.pending ∉ [Area.regs, .beds, .aug, .svc])
theorem rotArm : ∀ path value, Statement (.rotArm path value) := fun _ _ => (by decide : Area.pending ∉ [Area.regs, .mod, .aug, .sec, .svc])
theorem rotCancel : ∀ path, Statement (.rotCancel path) := fun _ => (by decide : Area.pending ∉ [Area.regs, .mod, .beds, .aug, .sec, .svc])
theorem rotChangeHorizon : Statement .rotChangeHorizon := (by decide : Area.pending ∉ [Area.regs, .mod, .prog, .beds, .fast, .eng, .aug, .stm, .dec, .tim, .svc])
theorem oldBedIdle : ∀ bed, Statement (.oldBedIdle bed) := fun _ => (by decide : Area.pending ∉ [Area.regs, .beds])
theorem stagedImageCopyDone : Statement .stagedImageCopyDone := (by decide : Area.pending ∉ [Area.prog])
theorem ucVerify : ∀ path, Statement (.ucVerify path) := fun _ => (by decide : Area.pending ∉ [Area.regs, .mod, .aug, .sec, .svc])
theorem ucArm : ∀ path, Statement (.ucArm path) := fun _ => (by decide : Area.pending ∉ [Area.regs, .mod, .aug, .sec, .svc])
theorem ucCancel : ∀ path, Statement (.ucCancel path) := fun _ => (by decide : Area.pending ∉ [Area.regs, .mod, .aug, .sec, .svc])
theorem ucSwap : Statement .ucSwap := (by decide : Area.pending ∉ [Area.regs, .svc])
theorem bindCopyActive : ∀ path, Statement (.bindCopyActive path) := fun _ => (by decide : Area.pending ∉ [Area.regs, .mod, .aug, .stm, .sec])
theorem bindWriteEntry : ∀ path, Statement (.bindWriteEntry path) := fun _ => (by decide : Area.pending ∉ [Area.regs, .mod, .aug, .stm, .sec])
theorem bindReadPending : ∀ path, Statement (.bindReadPending path) := fun _ => (by decide : Area.pending ∉ [Area.regs, .mod, .aug, .sec])
theorem bindReadActive : ∀ path, Statement (.bindReadActive path) := fun _ => (by decide : Area.pending ∉ [Area.regs, .mod, .aug, .sec])
theorem bindApply : ∀ path, Statement (.bindApply path) := fun _ => (by decide : Area.pending ∉ [Area.regs, .mod, .aug, .stm, .sec])
theorem bindCancel : ∀ path, Statement (.bindCancel path) := fun _ => (by decide : Area.pending ∉ [Area.regs, .mod, .aug, .stm, .sec])
theorem bindCommitArm : ∀ path value, Statement (.bindCommitArm path value) := fun _ _ => (by decide : Area.pending ∉ [Area.regs, .mod, .aug, .stm, .sec])
theorem bindCommitHorizon : Statement .bindCommitHorizon := (by decide : Area.pending ∉ [Area.regs, .stm])
theorem quarClearEntry : ∀ path, Statement (.quarClearEntry path) := fun _ => (by decide : Area.pending ∉ [Area.regs, .mod, .aug, .stm, .sec])
theorem quarClearAll : ∀ path, Statement (.quarClearAll path) := fun _ => (by decide : Area.pending ∉ [Area.regs, .mod, .aug, .stm, .sec])
theorem txBlock : ∀ lane, Statement (.txBlock lane) := fun _ => (by decide : Area.pending ∉ [Area.regs, .eng, .aug, .dec, .lanes, .ring, .hst, .free])
theorem trainComplete : ∀ lane, Statement (.trainComplete lane) := fun _ => (by decide : Area.pending ∉ [Area.regs, .mod, .beds, .fast, .eng, .aug, .flt, .dec, .lanes, .hst, .svc, .free])
theorem trainTimeout : ∀ lane, Statement (.trainTimeout lane) := fun _ => (by decide : Area.pending ∉ [Area.regs, .lanes])
theorem rateStepDone : ∀ lane locked, Statement (.rateStepDone lane locked) := fun _ _ => (by decide : Area.pending ∉ [Area.regs, .mod, .beds, .fast, .eng, .aug, .flt, .dec, .lanes, .hst, .svc, .free])
theorem verifyComplete : ∀ lane, Statement (.verifyComplete lane) := fun _ => (by decide : Area.pending ∉ [Area.regs, .mod, .beds, .fast, .eng, .aug, .flt, .dec, .lanes, .ring, .hst, .svc, .free])
theorem laneLockLossTimeout : ∀ lane, Statement (.laneLockLossTimeout lane) := fun _ => (by decide : Area.pending ∉ [Area.regs, .lanes, .hst, .free])
theorem lnkRetrain : ∀ path lane, Statement (.lnkRetrain path lane) := fun _ _ => (by decide : Area.pending ∉ [Area.regs, .mod, .aug, .lanes, .hst, .sec, .free])
theorem prbsTest : ∀ path lane, Statement (.prbsTest path lane) := fun _ _ => (by decide : Area.pending ∉ [Area.regs, .mod, .aug, .lanes, .hst, .sec, .free])
theorem prbsTestDone : ∀ lane errors, Statement (.prbsTestDone lane errors) := fun _ _ => (by decide : Area.pending ∉ [Area.regs, .mod, .lanes, .ring, .hst, .free])
theorem eyePointStart : ∀ path value, Statement (.eyePointStart path value) := fun _ _ => (by decide : Area.pending ∉ [Area.regs, .mod, .aug, .lanes, .sec])
theorem eyePointDone : ∀ errors bits, Statement (.eyePointDone errors bits) := fun _ _ => (by decide : Area.pending ∉ [Area.regs, .lanes])
theorem peakStep : ∀ lane, Statement (.peakStep lane) := fun _ => (by decide : Area.pending ∉ [Area.regs, .lanes])
theorem decSpareSwitch : Statement .decSpareSwitch := (by decide : Area.pending ∉ [Area.regs, .fast, .aug, .flt, .dec])
theorem ptpMessage : ∀ domain msg, Statement (.ptpMessage domain msg) := fun _ _ => (by decide : Area.pending ∉ [Area.regs, .aug, .tim, .free])
theorem holdoverEntry : ∀ domain, Statement (.holdoverEntry domain) := fun _ => (by decide : Area.pending ∉ [Area.regs, .aug, .tim])
theorem rateChange : ∀ domain rate, Statement (.rateChange domain rate) := fun _ _ => (by decide : Area.pending ∉ [Area.regs, .tim])
theorem timeStep : ∀ domain ns, Statement (.timeStep domain ns) := fun _ _ => (by decide : Area.pending ∉ [Area.regs, .aug, .tim])
theorem jumpAccept : ∀ path, Statement (.jumpAccept path) := fun _ => (by decide : Area.pending ∉ [Area.regs, .mod, .aug, .tim, .sec])
theorem switchRequest : ∀ path sel, Statement (.switchRequest path sel) := fun _ _ => (by decide : Area.pending ∉ [Area.regs, .mod, .aug, .tim, .sec])
theorem domainSwitch : Statement .domainSwitch := (by decide : Area.pending ∉ [Area.regs, .aug, .tim])
theorem ppsEdge : Statement .ppsEdge := (by decide : Area.pending ∉ [Area.regs, .aug, .tim])
theorem ppsMissing : Statement .ppsMissing := (by decide : Area.pending ∉ [Area.regs, .tim])
theorem burnOrder : ∀ path, Statement (.burnOrder path) := fun _ => (by decide : Area.pending ∉ [Area.regs, .mod, .aug, .sec])
theorem burnComplete : ∀ good, Statement (.burnComplete good) := fun _ => allButFlash_pending
theorem attest : ∀ path, Statement (.attest path) := fun _ => (by decide : Area.pending ∉ [Area.regs, .mod, .aug, .sec])
theorem attestComplete : Statement .attestComplete := (by decide : Area.pending ∉ [Area.regs, .sec])
theorem privateJtag : Statement .privateJtag := (by decide : Area.pending ∉ [Area.regs, .aug, .sec])
theorem mgtTransaction : ∀ bytes reads, Statement (.mgtTransaction bytes reads) := fun _ _ => allButFlash_pending
theorem readClear : ∀ path addr, Statement (.readClear path addr) := fun _ _ => (by decide : Area.pending ∉ [Area.regs, .latches, .answers, .mod, .aug, .sec, .svc, .free])
theorem leadingRegisterRead : ∀ path addr, Statement (.leadingRegisterRead path addr) := fun _ _ => (by decide : Area.pending ∉ [Area.regs, .latches, .answers, .mod, .aug, .sec, .svc, .free])
theorem registerWrite : ∀ path addr value, Statement (.registerWrite path addr value) := fun _ _ _ => allButFlash_pending
theorem flashDirectoryRead : Statement .flashDirectoryRead := (by decide : Area.pending ∉ [Area.regs, .mod, .fast, .eng, .aug, .dec])

end Sys2Proof.Laws.Areas
end

