-- ==== Sys2Proof/Laws/State.lean ====
section
/-!
SUPPORT. What each plain update of the state leaves: one lemma for each field and update.
-/
namespace Sys2Proof.Machine

@[simp] theorem State.setReg_pending (s : State) (a : Nat) (v : Word) : (s.setReg a v).pending = s.pending := rfl
@[simp] theorem State.setReg_latches (s : State) (a : Nat) (v : Word) : (s.setReg a v).latches = s.latches := rfl
@[simp] theorem State.setReg_answers (s : State) (a : Nat) (v : Word) : (s.setReg a v).answers = s.answers := rfl
@[simp] theorem State.setReg_mod (s : State) (a : Nat) (v : Word) : (s.setReg a v).mod = s.mod := rfl
@[simp] theorem State.setReg_hz (s : State) (a : Nat) (v : Word) : (s.setReg a v).hz = s.hz := rfl
@[simp] theorem State.setReg_prog (s : State) (a : Nat) (v : Word) : (s.setReg a v).prog = s.prog := rfl
@[simp] theorem State.setReg_beds (s : State) (a : Nat) (v : Word) : (s.setReg a v).beds = s.beds := rfl
@[simp] theorem State.setReg_grn (s : State) (a : Nat) (v : Word) : (s.setReg a v).grn = s.grn := rfl
@[simp] theorem State.setReg_fast (s : State) (a : Nat) (v : Word) : (s.setReg a v).fast = s.fast := rfl
@[simp] theorem State.setReg_eng (s : State) (a : Nat) (v : Word) : (s.setReg a v).eng = s.eng := rfl
@[simp] theorem State.setReg_aug (s : State) (a : Nat) (v : Word) : (s.setReg a v).aug = s.aug := rfl
@[simp] theorem State.setReg_flt (s : State) (a : Nat) (v : Word) : (s.setReg a v).flt = s.flt := rfl
@[simp] theorem State.setReg_stm (s : State) (a : Nat) (v : Word) : (s.setReg a v).stm = s.stm := rfl
@[simp] theorem State.setReg_dec (s : State) (a : Nat) (v : Word) : (s.setReg a v).dec = s.dec := rfl
@[simp] theorem State.setReg_lanes (s : State) (a : Nat) (v : Word) : (s.setReg a v).lanes = s.lanes := rfl
@[simp] theorem State.setReg_ring (s : State) (a : Nat) (v : Word) : (s.setReg a v).ring = s.ring := rfl
@[simp] theorem State.setReg_lck (s : State) (a : Nat) (v : Word) : (s.setReg a v).lck = s.lck := rfl
@[simp] theorem State.setReg_hst (s : State) (a : Nat) (v : Word) : (s.setReg a v).hst = s.hst := rfl
@[simp] theorem State.setReg_tim (s : State) (a : Nat) (v : Word) : (s.setReg a v).tim = s.tim := rfl
@[simp] theorem State.setReg_pwr (s : State) (a : Nat) (v : Word) : (s.setReg a v).pwr = s.pwr := rfl
@[simp] theorem State.setReg_sec (s : State) (a : Nat) (v : Word) : (s.setReg a v).sec = s.sec := rfl
@[simp] theorem State.setReg_flash (s : State) (a : Nat) (v : Word) : (s.setReg a v).flash = s.flash := rfl
@[simp] theorem State.setReg_svc (s : State) (a : Nat) (v : Word) : (s.setReg a v).svc = s.svc := rfl
@[simp] theorem State.setReg_free (s : State) (a : Nat) (v : Word) : (s.setReg a v).free = s.free := rfl

@[simp] theorem State.setFld_pending (s : State) (f : Field) (v : Nat) : (s.setFld f v).pending = s.pending := State.setReg_pending _ _ _
@[simp] theorem State.setFld_latches (s : State) (f : Field) (v : Nat) : (s.setFld f v).latches = s.latches := State.setReg_latches _ _ _
@[simp] theorem State.setFld_answers (s : State) (f : Field) (v : Nat) : (s.setFld f v).answers = s.answers := State.setReg_answers _ _ _
@[simp] theorem State.setFld_mod (s : State) (f : Field) (v : Nat) : (s.setFld f v).mod = s.mod := State.setReg_mod _ _ _
@[simp] theorem State.setFld_hz (s : State) (f : Field) (v : Nat) : (s.setFld f v).hz = s.hz := State.setReg_hz _ _ _
@[simp] theorem State.setFld_prog (s : State) (f : Field) (v : Nat) : (s.setFld f v).prog = s.prog := State.setReg_prog _ _ _
@[simp] theorem State.setFld_beds (s : State) (f : Field) (v : Nat) : (s.setFld f v).beds = s.beds := State.setReg_beds _ _ _
@[simp] theorem State.setFld_grn (s : State) (f : Field) (v : Nat) : (s.setFld f v).grn = s.grn := State.setReg_grn _ _ _
@[simp] theorem State.setFld_fast (s : State) (f : Field) (v : Nat) : (s.setFld f v).fast = s.fast := State.setReg_fast _ _ _
@[simp] theorem State.setFld_eng (s : State) (f : Field) (v : Nat) : (s.setFld f v).eng = s.eng := State.setReg_eng _ _ _
@[simp] theorem State.setFld_aug (s : State) (f : Field) (v : Nat) : (s.setFld f v).aug = s.aug := State.setReg_aug _ _ _
@[simp] theorem State.setFld_flt (s : State) (f : Field) (v : Nat) : (s.setFld f v).flt = s.flt := State.setReg_flt _ _ _
@[simp] theorem State.setFld_stm (s : State) (f : Field) (v : Nat) : (s.setFld f v).stm = s.stm := State.setReg_stm _ _ _
@[simp] theorem State.setFld_dec (s : State) (f : Field) (v : Nat) : (s.setFld f v).dec = s.dec := State.setReg_dec _ _ _
@[simp] theorem State.setFld_lanes (s : State) (f : Field) (v : Nat) : (s.setFld f v).lanes = s.lanes := State.setReg_lanes _ _ _
@[simp] theorem State.setFld_ring (s : State) (f : Field) (v : Nat) : (s.setFld f v).ring = s.ring := State.setReg_ring _ _ _
@[simp] theorem State.setFld_lck (s : State) (f : Field) (v : Nat) : (s.setFld f v).lck = s.lck := State.setReg_lck _ _ _
@[simp] theorem State.setFld_hst (s : State) (f : Field) (v : Nat) : (s.setFld f v).hst = s.hst := State.setReg_hst _ _ _
@[simp] theorem State.setFld_tim (s : State) (f : Field) (v : Nat) : (s.setFld f v).tim = s.tim := State.setReg_tim _ _ _
@[simp] theorem State.setFld_pwr (s : State) (f : Field) (v : Nat) : (s.setFld f v).pwr = s.pwr := State.setReg_pwr _ _ _
@[simp] theorem State.setFld_sec (s : State) (f : Field) (v : Nat) : (s.setFld f v).sec = s.sec := State.setReg_sec _ _ _
@[simp] theorem State.setFld_flash (s : State) (f : Field) (v : Nat) : (s.setFld f v).flash = s.flash := State.setReg_flash _ _ _
@[simp] theorem State.setFld_svc (s : State) (f : Field) (v : Nat) : (s.setFld f v).svc = s.svc := State.setReg_svc _ _ _
@[simp] theorem State.setFld_free (s : State) (f : Field) (v : Nat) : (s.setFld f v).free = s.free := State.setReg_free _ _ _

@[simp] theorem State.setFlag_pending (s : State) (f : Field) (b : Bool) : (s.setFlag f b).pending = s.pending := State.setFld_pending _ _ _
@[simp] theorem State.setFlag_latches (s : State) (f : Field) (b : Bool) : (s.setFlag f b).latches = s.latches := State.setFld_latches _ _ _
@[simp] theorem State.setFlag_answers (s : State) (f : Field) (b : Bool) : (s.setFlag f b).answers = s.answers := State.setFld_answers _ _ _
@[simp] theorem State.setFlag_mod (s : State) (f : Field) (b : Bool) : (s.setFlag f b).mod = s.mod := State.setFld_mod _ _ _
@[simp] theorem State.setFlag_hz (s : State) (f : Field) (b : Bool) : (s.setFlag f b).hz = s.hz := State.setFld_hz _ _ _
@[simp] theorem State.setFlag_prog (s : State) (f : Field) (b : Bool) : (s.setFlag f b).prog = s.prog := State.setFld_prog _ _ _
@[simp] theorem State.setFlag_beds (s : State) (f : Field) (b : Bool) : (s.setFlag f b).beds = s.beds := State.setFld_beds _ _ _
@[simp] theorem State.setFlag_grn (s : State) (f : Field) (b : Bool) : (s.setFlag f b).grn = s.grn := State.setFld_grn _ _ _
@[simp] theorem State.setFlag_fast (s : State) (f : Field) (b : Bool) : (s.setFlag f b).fast = s.fast := State.setFld_fast _ _ _
@[simp] theorem State.setFlag_eng (s : State) (f : Field) (b : Bool) : (s.setFlag f b).eng = s.eng := State.setFld_eng _ _ _
@[simp] theorem State.setFlag_aug (s : State) (f : Field) (b : Bool) : (s.setFlag f b).aug = s.aug := State.setFld_aug _ _ _
@[simp] theorem State.setFlag_flt (s : State) (f : Field) (b : Bool) : (s.setFlag f b).flt = s.flt := State.setFld_flt _ _ _
@[simp] theorem State.setFlag_stm (s : State) (f : Field) (b : Bool) : (s.setFlag f b).stm = s.stm := State.setFld_stm _ _ _
@[simp] theorem State.setFlag_dec (s : State) (f : Field) (b : Bool) : (s.setFlag f b).dec = s.dec := State.setFld_dec _ _ _
@[simp] theorem State.setFlag_lanes (s : State) (f : Field) (b : Bool) : (s.setFlag f b).lanes = s.lanes := State.setFld_lanes _ _ _
@[simp] theorem State.setFlag_ring (s : State) (f : Field) (b : Bool) : (s.setFlag f b).ring = s.ring := State.setFld_ring _ _ _
@[simp] theorem State.setFlag_lck (s : State) (f : Field) (b : Bool) : (s.setFlag f b).lck = s.lck := State.setFld_lck _ _ _
@[simp] theorem State.setFlag_hst (s : State) (f : Field) (b : Bool) : (s.setFlag f b).hst = s.hst := State.setFld_hst _ _ _
@[simp] theorem State.setFlag_tim (s : State) (f : Field) (b : Bool) : (s.setFlag f b).tim = s.tim := State.setFld_tim _ _ _
@[simp] theorem State.setFlag_pwr (s : State) (f : Field) (b : Bool) : (s.setFlag f b).pwr = s.pwr := State.setFld_pwr _ _ _
@[simp] theorem State.setFlag_sec (s : State) (f : Field) (b : Bool) : (s.setFlag f b).sec = s.sec := State.setFld_sec _ _ _
@[simp] theorem State.setFlag_flash (s : State) (f : Field) (b : Bool) : (s.setFlag f b).flash = s.flash := State.setFld_flash _ _ _
@[simp] theorem State.setFlag_svc (s : State) (f : Field) (b : Bool) : (s.setFlag f b).svc = s.svc := State.setFld_svc _ _ _
@[simp] theorem State.setFlag_free (s : State) (f : Field) (b : Bool) : (s.setFlag f b).free = s.free := State.setFld_free _ _ _

@[simp] theorem State.bumpBy_pending (s : State) (a n : Nat) : (s.bumpBy a n).pending = s.pending := State.setReg_pending _ _ _
@[simp] theorem State.bumpBy_latches (s : State) (a n : Nat) : (s.bumpBy a n).latches = s.latches := State.setReg_latches _ _ _
@[simp] theorem State.bumpBy_answers (s : State) (a n : Nat) : (s.bumpBy a n).answers = s.answers := State.setReg_answers _ _ _
@[simp] theorem State.bumpBy_mod (s : State) (a n : Nat) : (s.bumpBy a n).mod = s.mod := State.setReg_mod _ _ _
@[simp] theorem State.bumpBy_hz (s : State) (a n : Nat) : (s.bumpBy a n).hz = s.hz := State.setReg_hz _ _ _
@[simp] theorem State.bumpBy_prog (s : State) (a n : Nat) : (s.bumpBy a n).prog = s.prog := State.setReg_prog _ _ _
@[simp] theorem State.bumpBy_beds (s : State) (a n : Nat) : (s.bumpBy a n).beds = s.beds := State.setReg_beds _ _ _
@[simp] theorem State.bumpBy_grn (s : State) (a n : Nat) : (s.bumpBy a n).grn = s.grn := State.setReg_grn _ _ _
@[simp] theorem State.bumpBy_fast (s : State) (a n : Nat) : (s.bumpBy a n).fast = s.fast := State.setReg_fast _ _ _
@[simp] theorem State.bumpBy_eng (s : State) (a n : Nat) : (s.bumpBy a n).eng = s.eng := State.setReg_eng _ _ _
@[simp] theorem State.bumpBy_aug (s : State) (a n : Nat) : (s.bumpBy a n).aug = s.aug := State.setReg_aug _ _ _
@[simp] theorem State.bumpBy_flt (s : State) (a n : Nat) : (s.bumpBy a n).flt = s.flt := State.setReg_flt _ _ _
@[simp] theorem State.bumpBy_stm (s : State) (a n : Nat) : (s.bumpBy a n).stm = s.stm := State.setReg_stm _ _ _
@[simp] theorem State.bumpBy_dec (s : State) (a n : Nat) : (s.bumpBy a n).dec = s.dec := State.setReg_dec _ _ _
@[simp] theorem State.bumpBy_lanes (s : State) (a n : Nat) : (s.bumpBy a n).lanes = s.lanes := State.setReg_lanes _ _ _
@[simp] theorem State.bumpBy_ring (s : State) (a n : Nat) : (s.bumpBy a n).ring = s.ring := State.setReg_ring _ _ _
@[simp] theorem State.bumpBy_lck (s : State) (a n : Nat) : (s.bumpBy a n).lck = s.lck := State.setReg_lck _ _ _
@[simp] theorem State.bumpBy_hst (s : State) (a n : Nat) : (s.bumpBy a n).hst = s.hst := State.setReg_hst _ _ _
@[simp] theorem State.bumpBy_tim (s : State) (a n : Nat) : (s.bumpBy a n).tim = s.tim := State.setReg_tim _ _ _
@[simp] theorem State.bumpBy_pwr (s : State) (a n : Nat) : (s.bumpBy a n).pwr = s.pwr := State.setReg_pwr _ _ _
@[simp] theorem State.bumpBy_sec (s : State) (a n : Nat) : (s.bumpBy a n).sec = s.sec := State.setReg_sec _ _ _
@[simp] theorem State.bumpBy_flash (s : State) (a n : Nat) : (s.bumpBy a n).flash = s.flash := State.setReg_flash _ _ _
@[simp] theorem State.bumpBy_svc (s : State) (a n : Nat) : (s.bumpBy a n).svc = s.svc := State.setReg_svc _ _ _
@[simp] theorem State.bumpBy_free (s : State) (a n : Nat) : (s.bumpBy a n).free = s.free := State.setReg_free _ _ _

@[simp] theorem State.bump_pending (s : State) (a : Nat) : (s.bump a).pending = s.pending := State.bumpBy_pending _ _ _
@[simp] theorem State.bump_latches (s : State) (a : Nat) : (s.bump a).latches = s.latches := State.bumpBy_latches _ _ _
@[simp] theorem State.bump_answers (s : State) (a : Nat) : (s.bump a).answers = s.answers := State.bumpBy_answers _ _ _
@[simp] theorem State.bump_mod (s : State) (a : Nat) : (s.bump a).mod = s.mod := State.bumpBy_mod _ _ _
@[simp] theorem State.bump_hz (s : State) (a : Nat) : (s.bump a).hz = s.hz := State.bumpBy_hz _ _ _
@[simp] theorem State.bump_prog (s : State) (a : Nat) : (s.bump a).prog = s.prog := State.bumpBy_prog _ _ _
@[simp] theorem State.bump_beds (s : State) (a : Nat) : (s.bump a).beds = s.beds := State.bumpBy_beds _ _ _
@[simp] theorem State.bump_grn (s : State) (a : Nat) : (s.bump a).grn = s.grn := State.bumpBy_grn _ _ _
@[simp] theorem State.bump_fast (s : State) (a : Nat) : (s.bump a).fast = s.fast := State.bumpBy_fast _ _ _
@[simp] theorem State.bump_eng (s : State) (a : Nat) : (s.bump a).eng = s.eng := State.bumpBy_eng _ _ _
@[simp] theorem State.bump_aug (s : State) (a : Nat) : (s.bump a).aug = s.aug := State.bumpBy_aug _ _ _
@[simp] theorem State.bump_flt (s : State) (a : Nat) : (s.bump a).flt = s.flt := State.bumpBy_flt _ _ _
@[simp] theorem State.bump_stm (s : State) (a : Nat) : (s.bump a).stm = s.stm := State.bumpBy_stm _ _ _
@[simp] theorem State.bump_dec (s : State) (a : Nat) : (s.bump a).dec = s.dec := State.bumpBy_dec _ _ _
@[simp] theorem State.bump_lanes (s : State) (a : Nat) : (s.bump a).lanes = s.lanes := State.bumpBy_lanes _ _ _
@[simp] theorem State.bump_ring (s : State) (a : Nat) : (s.bump a).ring = s.ring := State.bumpBy_ring _ _ _
@[simp] theorem State.bump_lck (s : State) (a : Nat) : (s.bump a).lck = s.lck := State.bumpBy_lck _ _ _
@[simp] theorem State.bump_hst (s : State) (a : Nat) : (s.bump a).hst = s.hst := State.bumpBy_hst _ _ _
@[simp] theorem State.bump_tim (s : State) (a : Nat) : (s.bump a).tim = s.tim := State.bumpBy_tim _ _ _
@[simp] theorem State.bump_pwr (s : State) (a : Nat) : (s.bump a).pwr = s.pwr := State.bumpBy_pwr _ _ _
@[simp] theorem State.bump_sec (s : State) (a : Nat) : (s.bump a).sec = s.sec := State.bumpBy_sec _ _ _
@[simp] theorem State.bump_flash (s : State) (a : Nat) : (s.bump a).flash = s.flash := State.bumpBy_flash _ _ _
@[simp] theorem State.bump_svc (s : State) (a : Nat) : (s.bump a).svc = s.svc := State.bumpBy_svc _ _ _
@[simp] theorem State.bump_free (s : State) (a : Nat) : (s.bump a).free = s.free := State.bumpBy_free _ _ _

@[simp] theorem State.setReg64_pending (s : State) (a : Nat) (v : U64) : (s.setReg64 a v).pending = s.pending := (State.setReg_pending _ _ _).trans (State.setReg_pending _ _ _)
@[simp] theorem State.setReg64_latches (s : State) (a : Nat) (v : U64) : (s.setReg64 a v).latches = s.latches := (State.setReg_latches _ _ _).trans (State.setReg_latches _ _ _)
@[simp] theorem State.setReg64_answers (s : State) (a : Nat) (v : U64) : (s.setReg64 a v).answers = s.answers := (State.setReg_answers _ _ _).trans (State.setReg_answers _ _ _)
@[simp] theorem State.setReg64_mod (s : State) (a : Nat) (v : U64) : (s.setReg64 a v).mod = s.mod := (State.setReg_mod _ _ _).trans (State.setReg_mod _ _ _)
@[simp] theorem State.setReg64_hz (s : State) (a : Nat) (v : U64) : (s.setReg64 a v).hz = s.hz := (State.setReg_hz _ _ _).trans (State.setReg_hz _ _ _)
@[simp] theorem State.setReg64_prog (s : State) (a : Nat) (v : U64) : (s.setReg64 a v).prog = s.prog := (State.setReg_prog _ _ _).trans (State.setReg_prog _ _ _)
@[simp] theorem State.setReg64_beds (s : State) (a : Nat) (v : U64) : (s.setReg64 a v).beds = s.beds := (State.setReg_beds _ _ _).trans (State.setReg_beds _ _ _)
@[simp] theorem State.setReg64_grn (s : State) (a : Nat) (v : U64) : (s.setReg64 a v).grn = s.grn := (State.setReg_grn _ _ _).trans (State.setReg_grn _ _ _)
@[simp] theorem State.setReg64_fast (s : State) (a : Nat) (v : U64) : (s.setReg64 a v).fast = s.fast := (State.setReg_fast _ _ _).trans (State.setReg_fast _ _ _)
@[simp] theorem State.setReg64_eng (s : State) (a : Nat) (v : U64) : (s.setReg64 a v).eng = s.eng := (State.setReg_eng _ _ _).trans (State.setReg_eng _ _ _)
@[simp] theorem State.setReg64_aug (s : State) (a : Nat) (v : U64) : (s.setReg64 a v).aug = s.aug := (State.setReg_aug _ _ _).trans (State.setReg_aug _ _ _)
@[simp] theorem State.setReg64_flt (s : State) (a : Nat) (v : U64) : (s.setReg64 a v).flt = s.flt := (State.setReg_flt _ _ _).trans (State.setReg_flt _ _ _)
@[simp] theorem State.setReg64_stm (s : State) (a : Nat) (v : U64) : (s.setReg64 a v).stm = s.stm := (State.setReg_stm _ _ _).trans (State.setReg_stm _ _ _)
@[simp] theorem State.setReg64_dec (s : State) (a : Nat) (v : U64) : (s.setReg64 a v).dec = s.dec := (State.setReg_dec _ _ _).trans (State.setReg_dec _ _ _)
@[simp] theorem State.setReg64_lanes (s : State) (a : Nat) (v : U64) : (s.setReg64 a v).lanes = s.lanes := (State.setReg_lanes _ _ _).trans (State.setReg_lanes _ _ _)
@[simp] theorem State.setReg64_ring (s : State) (a : Nat) (v : U64) : (s.setReg64 a v).ring = s.ring := (State.setReg_ring _ _ _).trans (State.setReg_ring _ _ _)
@[simp] theorem State.setReg64_lck (s : State) (a : Nat) (v : U64) : (s.setReg64 a v).lck = s.lck := (State.setReg_lck _ _ _).trans (State.setReg_lck _ _ _)
@[simp] theorem State.setReg64_hst (s : State) (a : Nat) (v : U64) : (s.setReg64 a v).hst = s.hst := (State.setReg_hst _ _ _).trans (State.setReg_hst _ _ _)
@[simp] theorem State.setReg64_tim (s : State) (a : Nat) (v : U64) : (s.setReg64 a v).tim = s.tim := (State.setReg_tim _ _ _).trans (State.setReg_tim _ _ _)
@[simp] theorem State.setReg64_pwr (s : State) (a : Nat) (v : U64) : (s.setReg64 a v).pwr = s.pwr := (State.setReg_pwr _ _ _).trans (State.setReg_pwr _ _ _)
@[simp] theorem State.setReg64_sec (s : State) (a : Nat) (v : U64) : (s.setReg64 a v).sec = s.sec := (State.setReg_sec _ _ _).trans (State.setReg_sec _ _ _)
@[simp] theorem State.setReg64_flash (s : State) (a : Nat) (v : U64) : (s.setReg64 a v).flash = s.flash := (State.setReg_flash _ _ _).trans (State.setReg_flash _ _ _)
@[simp] theorem State.setReg64_svc (s : State) (a : Nat) (v : U64) : (s.setReg64 a v).svc = s.svc := (State.setReg_svc _ _ _).trans (State.setReg_svc _ _ _)
@[simp] theorem State.setReg64_free (s : State) (a : Nat) (v : U64) : (s.setReg64 a v).free = s.free := (State.setReg_free _ _ _).trans (State.setReg_free _ _ _)

@[simp] theorem State.bump64_pending (s : State) (a n : Nat) : (s.bump64 a n).pending = s.pending := State.setReg64_pending _ _ _
@[simp] theorem State.bump64_latches (s : State) (a n : Nat) : (s.bump64 a n).latches = s.latches := State.setReg64_latches _ _ _
@[simp] theorem State.bump64_answers (s : State) (a n : Nat) : (s.bump64 a n).answers = s.answers := State.setReg64_answers _ _ _
@[simp] theorem State.bump64_mod (s : State) (a n : Nat) : (s.bump64 a n).mod = s.mod := State.setReg64_mod _ _ _
@[simp] theorem State.bump64_hz (s : State) (a n : Nat) : (s.bump64 a n).hz = s.hz := State.setReg64_hz _ _ _
@[simp] theorem State.bump64_prog (s : State) (a n : Nat) : (s.bump64 a n).prog = s.prog := State.setReg64_prog _ _ _
@[simp] theorem State.bump64_beds (s : State) (a n : Nat) : (s.bump64 a n).beds = s.beds := State.setReg64_beds _ _ _
@[simp] theorem State.bump64_grn (s : State) (a n : Nat) : (s.bump64 a n).grn = s.grn := State.setReg64_grn _ _ _
@[simp] theorem State.bump64_fast (s : State) (a n : Nat) : (s.bump64 a n).fast = s.fast := State.setReg64_fast _ _ _
@[simp] theorem State.bump64_eng (s : State) (a n : Nat) : (s.bump64 a n).eng = s.eng := State.setReg64_eng _ _ _
@[simp] theorem State.bump64_aug (s : State) (a n : Nat) : (s.bump64 a n).aug = s.aug := State.setReg64_aug _ _ _
@[simp] theorem State.bump64_flt (s : State) (a n : Nat) : (s.bump64 a n).flt = s.flt := State.setReg64_flt _ _ _
@[simp] theorem State.bump64_stm (s : State) (a n : Nat) : (s.bump64 a n).stm = s.stm := State.setReg64_stm _ _ _
@[simp] theorem State.bump64_dec (s : State) (a n : Nat) : (s.bump64 a n).dec = s.dec := State.setReg64_dec _ _ _
@[simp] theorem State.bump64_lanes (s : State) (a n : Nat) : (s.bump64 a n).lanes = s.lanes := State.setReg64_lanes _ _ _
@[simp] theorem State.bump64_ring (s : State) (a n : Nat) : (s.bump64 a n).ring = s.ring := State.setReg64_ring _ _ _
@[simp] theorem State.bump64_lck (s : State) (a n : Nat) : (s.bump64 a n).lck = s.lck := State.setReg64_lck _ _ _
@[simp] theorem State.bump64_hst (s : State) (a n : Nat) : (s.bump64 a n).hst = s.hst := State.setReg64_hst _ _ _
@[simp] theorem State.bump64_tim (s : State) (a n : Nat) : (s.bump64 a n).tim = s.tim := State.setReg64_tim _ _ _
@[simp] theorem State.bump64_pwr (s : State) (a n : Nat) : (s.bump64 a n).pwr = s.pwr := State.setReg64_pwr _ _ _
@[simp] theorem State.bump64_sec (s : State) (a n : Nat) : (s.bump64 a n).sec = s.sec := State.setReg64_sec _ _ _
@[simp] theorem State.bump64_flash (s : State) (a n : Nat) : (s.bump64 a n).flash = s.flash := State.setReg64_flash _ _ _
@[simp] theorem State.bump64_svc (s : State) (a n : Nat) : (s.bump64 a n).svc = s.svc := State.setReg64_svc _ _ _
@[simp] theorem State.bump64_free (s : State) (a n : Nat) : (s.bump64 a n).free = s.free := State.setReg64_free _ _ _

@[simp] theorem State.raiseFld_pending (s : State) (f : Field) (v : Nat) : (s.raiseFld f v).pending = s.pending := State.setFld_pending _ _ _
@[simp] theorem State.raiseFld_latches (s : State) (f : Field) (v : Nat) : (s.raiseFld f v).latches = s.latches := State.setFld_latches _ _ _
@[simp] theorem State.raiseFld_answers (s : State) (f : Field) (v : Nat) : (s.raiseFld f v).answers = s.answers := State.setFld_answers _ _ _
@[simp] theorem State.raiseFld_mod (s : State) (f : Field) (v : Nat) : (s.raiseFld f v).mod = s.mod := State.setFld_mod _ _ _
@[simp] theorem State.raiseFld_hz (s : State) (f : Field) (v : Nat) : (s.raiseFld f v).hz = s.hz := State.setFld_hz _ _ _
@[simp] theorem State.raiseFld_prog (s : State) (f : Field) (v : Nat) : (s.raiseFld f v).prog = s.prog := State.setFld_prog _ _ _
@[simp] theorem State.raiseFld_beds (s : State) (f : Field) (v : Nat) : (s.raiseFld f v).beds = s.beds := State.setFld_beds _ _ _
@[simp] theorem State.raiseFld_grn (s : State) (f : Field) (v : Nat) : (s.raiseFld f v).grn = s.grn := State.setFld_grn _ _ _
@[simp] theorem State.raiseFld_fast (s : State) (f : Field) (v : Nat) : (s.raiseFld f v).fast = s.fast := State.setFld_fast _ _ _
@[simp] theorem State.raiseFld_eng (s : State) (f : Field) (v : Nat) : (s.raiseFld f v).eng = s.eng := State.setFld_eng _ _ _
@[simp] theorem State.raiseFld_aug (s : State) (f : Field) (v : Nat) : (s.raiseFld f v).aug = s.aug := State.setFld_aug _ _ _
@[simp] theorem State.raiseFld_flt (s : State) (f : Field) (v : Nat) : (s.raiseFld f v).flt = s.flt := State.setFld_flt _ _ _
@[simp] theorem State.raiseFld_stm (s : State) (f : Field) (v : Nat) : (s.raiseFld f v).stm = s.stm := State.setFld_stm _ _ _
@[simp] theorem State.raiseFld_dec (s : State) (f : Field) (v : Nat) : (s.raiseFld f v).dec = s.dec := State.setFld_dec _ _ _
@[simp] theorem State.raiseFld_lanes (s : State) (f : Field) (v : Nat) : (s.raiseFld f v).lanes = s.lanes := State.setFld_lanes _ _ _
@[simp] theorem State.raiseFld_ring (s : State) (f : Field) (v : Nat) : (s.raiseFld f v).ring = s.ring := State.setFld_ring _ _ _
@[simp] theorem State.raiseFld_lck (s : State) (f : Field) (v : Nat) : (s.raiseFld f v).lck = s.lck := State.setFld_lck _ _ _
@[simp] theorem State.raiseFld_hst (s : State) (f : Field) (v : Nat) : (s.raiseFld f v).hst = s.hst := State.setFld_hst _ _ _
@[simp] theorem State.raiseFld_tim (s : State) (f : Field) (v : Nat) : (s.raiseFld f v).tim = s.tim := State.setFld_tim _ _ _
@[simp] theorem State.raiseFld_pwr (s : State) (f : Field) (v : Nat) : (s.raiseFld f v).pwr = s.pwr := State.setFld_pwr _ _ _
@[simp] theorem State.raiseFld_sec (s : State) (f : Field) (v : Nat) : (s.raiseFld f v).sec = s.sec := State.setFld_sec _ _ _
@[simp] theorem State.raiseFld_flash (s : State) (f : Field) (v : Nat) : (s.raiseFld f v).flash = s.flash := State.setFld_flash _ _ _
@[simp] theorem State.raiseFld_svc (s : State) (f : Field) (v : Nat) : (s.raiseFld f v).svc = s.svc := State.setFld_svc _ _ _
@[simp] theorem State.raiseFld_free (s : State) (f : Field) (v : Nat) : (s.raiseFld f v).free = s.free := State.setFld_free _ _ _

@[simp] theorem State.drawNat_pending (s : State) : s.drawNat.2.pending = s.pending := rfl
@[simp] theorem State.drawNat_regs (s : State) : s.drawNat.2.regs = s.regs := rfl
@[simp] theorem State.drawNat_latches (s : State) : s.drawNat.2.latches = s.latches := rfl
@[simp] theorem State.drawNat_answers (s : State) : s.drawNat.2.answers = s.answers := rfl
@[simp] theorem State.drawNat_mod (s : State) : s.drawNat.2.mod = s.mod := rfl
@[simp] theorem State.drawNat_hz (s : State) : s.drawNat.2.hz = s.hz := rfl
@[simp] theorem State.drawNat_prog (s : State) : s.drawNat.2.prog = s.prog := rfl
@[simp] theorem State.drawNat_beds (s : State) : s.drawNat.2.beds = s.beds := rfl
@[simp] theorem State.drawNat_grn (s : State) : s.drawNat.2.grn = s.grn := rfl
@[simp] theorem State.drawNat_fast (s : State) : s.drawNat.2.fast = s.fast := rfl
@[simp] theorem State.drawNat_eng (s : State) : s.drawNat.2.eng = s.eng := rfl
@[simp] theorem State.drawNat_aug (s : State) : s.drawNat.2.aug = s.aug := rfl
@[simp] theorem State.drawNat_flt (s : State) : s.drawNat.2.flt = s.flt := rfl
@[simp] theorem State.drawNat_stm (s : State) : s.drawNat.2.stm = s.stm := rfl
@[simp] theorem State.drawNat_dec (s : State) : s.drawNat.2.dec = s.dec := rfl
@[simp] theorem State.drawNat_lanes (s : State) : s.drawNat.2.lanes = s.lanes := rfl
@[simp] theorem State.drawNat_ring (s : State) : s.drawNat.2.ring = s.ring := rfl
@[simp] theorem State.drawNat_lck (s : State) : s.drawNat.2.lck = s.lck := rfl
@[simp] theorem State.drawNat_hst (s : State) : s.drawNat.2.hst = s.hst := rfl
@[simp] theorem State.drawNat_tim (s : State) : s.drawNat.2.tim = s.tim := rfl
@[simp] theorem State.drawNat_pwr (s : State) : s.drawNat.2.pwr = s.pwr := rfl
@[simp] theorem State.drawNat_sec (s : State) : s.drawNat.2.sec = s.sec := rfl
@[simp] theorem State.drawNat_flash (s : State) : s.drawNat.2.flash = s.flash := rfl
@[simp] theorem State.drawNat_svc (s : State) : s.drawNat.2.svc = s.svc := rfl

@[simp] theorem State.drawBytes_pending (s : State) (n : Nat) : (s.drawBytes n).2.pending = s.pending := rfl
@[simp] theorem State.drawBytes_regs (s : State) (n : Nat) : (s.drawBytes n).2.regs = s.regs := rfl
@[simp] theorem State.drawBytes_latches (s : State) (n : Nat) : (s.drawBytes n).2.latches = s.latches := rfl
@[simp] theorem State.drawBytes_answers (s : State) (n : Nat) : (s.drawBytes n).2.answers = s.answers := rfl
@[simp] theorem State.drawBytes_mod (s : State) (n : Nat) : (s.drawBytes n).2.mod = s.mod := rfl
@[simp] theorem State.drawBytes_hz (s : State) (n : Nat) : (s.drawBytes n).2.hz = s.hz := rfl
@[simp] theorem State.drawBytes_prog (s : State) (n : Nat) : (s.drawBytes n).2.prog = s.prog := rfl
@[simp] theorem State.drawBytes_beds (s : State) (n : Nat) : (s.drawBytes n).2.beds = s.beds := rfl
@[simp] theorem State.drawBytes_grn (s : State) (n : Nat) : (s.drawBytes n).2.grn = s.grn := rfl
@[simp] theorem State.drawBytes_fast (s : State) (n : Nat) : (s.drawBytes n).2.fast = s.fast := rfl
@[simp] theorem State.drawBytes_eng (s : State) (n : Nat) : (s.drawBytes n).2.eng = s.eng := rfl
@[simp] theorem State.drawBytes_aug (s : State) (n : Nat) : (s.drawBytes n).2.aug = s.aug := rfl
@[simp] theorem State.drawBytes_flt (s : State) (n : Nat) : (s.drawBytes n).2.flt = s.flt := rfl
@[simp] theorem State.drawBytes_stm (s : State) (n : Nat) : (s.drawBytes n).2.stm = s.stm := rfl
@[simp] theorem State.drawBytes_dec (s : State) (n : Nat) : (s.drawBytes n).2.dec = s.dec := rfl
@[simp] theorem State.drawBytes_lanes (s : State) (n : Nat) : (s.drawBytes n).2.lanes = s.lanes := rfl
@[simp] theorem State.drawBytes_ring (s : State) (n : Nat) : (s.drawBytes n).2.ring = s.ring := rfl
@[simp] theorem State.drawBytes_lck (s : State) (n : Nat) : (s.drawBytes n).2.lck = s.lck := rfl
@[simp] theorem State.drawBytes_hst (s : State) (n : Nat) : (s.drawBytes n).2.hst = s.hst := rfl
@[simp] theorem State.drawBytes_tim (s : State) (n : Nat) : (s.drawBytes n).2.tim = s.tim := rfl
@[simp] theorem State.drawBytes_pwr (s : State) (n : Nat) : (s.drawBytes n).2.pwr = s.pwr := rfl
@[simp] theorem State.drawBytes_sec (s : State) (n : Nat) : (s.drawBytes n).2.sec = s.sec := rfl
@[simp] theorem State.drawBytes_flash (s : State) (n : Nat) : (s.drawBytes n).2.flash = s.flash := rfl
@[simp] theorem State.drawBytes_svc (s : State) (n : Nat) : (s.drawBytes n).2.svc = s.svc := rfl

@[simp] theorem State.setEng_pending (s : State) (e : Fin 2) (g : Engine) : (s.setEng e g).pending = s.pending := rfl
@[simp] theorem State.setEng_regs (s : State) (e : Fin 2) (g : Engine) : (s.setEng e g).regs = s.regs := rfl
@[simp] theorem State.setEng_latches (s : State) (e : Fin 2) (g : Engine) : (s.setEng e g).latches = s.latches := rfl
@[simp] theorem State.setEng_answers (s : State) (e : Fin 2) (g : Engine) : (s.setEng e g).answers = s.answers := rfl
@[simp] theorem State.setEng_mod (s : State) (e : Fin 2) (g : Engine) : (s.setEng e g).mod = s.mod := rfl
@[simp] theorem State.setEng_hz (s : State) (e : Fin 2) (g : Engine) : (s.setEng e g).hz = s.hz := rfl
@[simp] theorem State.setEng_prog (s : State) (e : Fin 2) (g : Engine) : (s.setEng e g).prog = s.prog := rfl
@[simp] theorem State.setEng_beds (s : State) (e : Fin 2) (g : Engine) : (s.setEng e g).beds = s.beds := rfl
@[simp] theorem State.setEng_grn (s : State) (e : Fin 2) (g : Engine) : (s.setEng e g).grn = s.grn := rfl
@[simp] theorem State.setEng_fast (s : State) (e : Fin 2) (g : Engine) : (s.setEng e g).fast = s.fast := rfl
@[simp] theorem State.setEng_aug (s : State) (e : Fin 2) (g : Engine) : (s.setEng e g).aug = s.aug := rfl
@[simp] theorem State.setEng_flt (s : State) (e : Fin 2) (g : Engine) : (s.setEng e g).flt = s.flt := rfl
@[simp] theorem State.setEng_stm (s : State) (e : Fin 2) (g : Engine) : (s.setEng e g).stm = s.stm := rfl
@[simp] theorem State.setEng_dec (s : State) (e : Fin 2) (g : Engine) : (s.setEng e g).dec = s.dec := rfl
@[simp] theorem State.setEng_lanes (s : State) (e : Fin 2) (g : Engine) : (s.setEng e g).lanes = s.lanes := rfl
@[simp] theorem State.setEng_ring (s : State) (e : Fin 2) (g : Engine) : (s.setEng e g).ring = s.ring := rfl
@[simp] theorem State.setEng_lck (s : State) (e : Fin 2) (g : Engine) : (s.setEng e g).lck = s.lck := rfl
@[simp] theorem State.setEng_hst (s : State) (e : Fin 2) (g : Engine) : (s.setEng e g).hst = s.hst := rfl
@[simp] theorem State.setEng_tim (s : State) (e : Fin 2) (g : Engine) : (s.setEng e g).tim = s.tim := rfl
@[simp] theorem State.setEng_pwr (s : State) (e : Fin 2) (g : Engine) : (s.setEng e g).pwr = s.pwr := rfl
@[simp] theorem State.setEng_sec (s : State) (e : Fin 2) (g : Engine) : (s.setEng e g).sec = s.sec := rfl
@[simp] theorem State.setEng_flash (s : State) (e : Fin 2) (g : Engine) : (s.setEng e g).flash = s.flash := rfl
@[simp] theorem State.setEng_svc (s : State) (e : Fin 2) (g : Engine) : (s.setEng e g).svc = s.svc := rfl
@[simp] theorem State.setEng_free (s : State) (e : Fin 2) (g : Engine) : (s.setEng e g).free = s.free := rfl

@[simp] theorem State.setBed_pending (s : State) (b : Fin 4) (g : Bed) : (s.setBed b g).pending = s.pending := rfl
@[simp] theorem State.setBed_regs (s : State) (b : Fin 4) (g : Bed) : (s.setBed b g).regs = s.regs := rfl
@[simp] theorem State.setBed_latches (s : State) (b : Fin 4) (g : Bed) : (s.setBed b g).latches = s.latches := rfl
@[simp] theorem State.setBed_answers (s : State) (b : Fin 4) (g : Bed) : (s.setBed b g).answers = s.answers := rfl
@[simp] theorem State.setBed_mod (s : State) (b : Fin 4) (g : Bed) : (s.setBed b g).mod = s.mod := rfl
@[simp] theorem State.setBed_hz (s : State) (b : Fin 4) (g : Bed) : (s.setBed b g).hz = s.hz := rfl
@[simp] theorem State.setBed_prog (s : State) (b : Fin 4) (g : Bed) : (s.setBed b g).prog = s.prog := rfl
@[simp] theorem State.setBed_grn (s : State) (b : Fin 4) (g : Bed) : (s.setBed b g).grn = s.grn := rfl
@[simp] theorem State.setBed_fast (s : State) (b : Fin 4) (g : Bed) : (s.setBed b g).fast = s.fast := rfl
@[simp] theorem State.setBed_eng (s : State) (b : Fin 4) (g : Bed) : (s.setBed b g).eng = s.eng := rfl
@[simp] theorem State.setBed_aug (s : State) (b : Fin 4) (g : Bed) : (s.setBed b g).aug = s.aug := rfl
@[simp] theorem State.setBed_flt (s : State) (b : Fin 4) (g : Bed) : (s.setBed b g).flt = s.flt := rfl
@[simp] theorem State.setBed_stm (s : State) (b : Fin 4) (g : Bed) : (s.setBed b g).stm = s.stm := rfl
@[simp] theorem State.setBed_dec (s : State) (b : Fin 4) (g : Bed) : (s.setBed b g).dec = s.dec := rfl
@[simp] theorem State.setBed_lanes (s : State) (b : Fin 4) (g : Bed) : (s.setBed b g).lanes = s.lanes := rfl
@[simp] theorem State.setBed_ring (s : State) (b : Fin 4) (g : Bed) : (s.setBed b g).ring = s.ring := rfl
@[simp] theorem State.setBed_lck (s : State) (b : Fin 4) (g : Bed) : (s.setBed b g).lck = s.lck := rfl
@[simp] theorem State.setBed_hst (s : State) (b : Fin 4) (g : Bed) : (s.setBed b g).hst = s.hst := rfl
@[simp] theorem State.setBed_tim (s : State) (b : Fin 4) (g : Bed) : (s.setBed b g).tim = s.tim := rfl
@[simp] theorem State.setBed_pwr (s : State) (b : Fin 4) (g : Bed) : (s.setBed b g).pwr = s.pwr := rfl
@[simp] theorem State.setBed_sec (s : State) (b : Fin 4) (g : Bed) : (s.setBed b g).sec = s.sec := rfl
@[simp] theorem State.setBed_flash (s : State) (b : Fin 4) (g : Bed) : (s.setBed b g).flash = s.flash := rfl
@[simp] theorem State.setBed_svc (s : State) (b : Fin 4) (g : Bed) : (s.setBed b g).svc = s.svc := rfl
@[simp] theorem State.setBed_free (s : State) (b : Fin 4) (g : Bed) : (s.setBed b g).free = s.free := rfl

@[simp] theorem State.setLane_pending (s : State) (l : Fin 80) (g : Lane) : (s.setLane l g).pending = s.pending := rfl
@[simp] theorem State.setLane_regs (s : State) (l : Fin 80) (g : Lane) : (s.setLane l g).regs = s.regs := rfl
@[simp] theorem State.setLane_latches (s : State) (l : Fin 80) (g : Lane) : (s.setLane l g).latches = s.latches := rfl
@[simp] theorem State.setLane_answers (s : State) (l : Fin 80) (g : Lane) : (s.setLane l g).answers = s.answers := rfl
@[simp] theorem State.setLane_mod (s : State) (l : Fin 80) (g : Lane) : (s.setLane l g).mod = s.mod := rfl
@[simp] theorem State.setLane_hz (s : State) (l : Fin 80) (g : Lane) : (s.setLane l g).hz = s.hz := rfl
@[simp] theorem State.setLane_prog (s : State) (l : Fin 80) (g : Lane) : (s.setLane l g).prog = s.prog := rfl
@[simp] theorem State.setLane_beds (s : State) (l : Fin 80) (g : Lane) : (s.setLane l g).beds = s.beds := rfl
@[simp] theorem State.setLane_grn (s : State) (l : Fin 80) (g : Lane) : (s.setLane l g).grn = s.grn := rfl
@[simp] theorem State.setLane_fast (s : State) (l : Fin 80) (g : Lane) : (s.setLane l g).fast = s.fast := rfl
@[simp] theorem State.setLane_eng (s : State) (l : Fin 80) (g : Lane) : (s.setLane l g).eng = s.eng := rfl
@[simp] theorem State.setLane_aug (s : State) (l : Fin 80) (g : Lane) : (s.setLane l g).aug = s.aug := rfl
@[simp] theorem State.setLane_flt (s : State) (l : Fin 80) (g : Lane) : (s.setLane l g).flt = s.flt := rfl
@[simp] theorem State.setLane_stm (s : State) (l : Fin 80) (g : Lane) : (s.setLane l g).stm = s.stm := rfl
@[simp] theorem State.setLane_dec (s : State) (l : Fin 80) (g : Lane) : (s.setLane l g).dec = s.dec := rfl
@[simp] theorem State.setLane_ring (s : State) (l : Fin 80) (g : Lane) : (s.setLane l g).ring = s.ring := rfl
@[simp] theorem State.setLane_lck (s : State) (l : Fin 80) (g : Lane) : (s.setLane l g).lck = s.lck := rfl
@[simp] theorem State.setLane_hst (s : State) (l : Fin 80) (g : Lane) : (s.setLane l g).hst = s.hst := rfl
@[simp] theorem State.setLane_tim (s : State) (l : Fin 80) (g : Lane) : (s.setLane l g).tim = s.tim := rfl
@[simp] theorem State.setLane_pwr (s : State) (l : Fin 80) (g : Lane) : (s.setLane l g).pwr = s.pwr := rfl
@[simp] theorem State.setLane_sec (s : State) (l : Fin 80) (g : Lane) : (s.setLane l g).sec = s.sec := rfl
@[simp] theorem State.setLane_flash (s : State) (l : Fin 80) (g : Lane) : (s.setLane l g).flash = s.flash := rfl
@[simp] theorem State.setLane_svc (s : State) (l : Fin 80) (g : Lane) : (s.setLane l g).svc = s.svc := rfl
@[simp] theorem State.setLane_free (s : State) (l : Fin 80) (g : Lane) : (s.setLane l g).free = s.free := rfl

@[simp] theorem State.setPort_pending (s : State) (p : Fin 4) (g : RingPort) : (s.setPort p g).pending = s.pending := rfl
@[simp] theorem State.setPort_regs (s : State) (p : Fin 4) (g : RingPort) : (s.setPort p g).regs = s.regs := rfl
@[simp] theorem State.setPort_latches (s : State) (p : Fin 4) (g : RingPort) : (s.setPort p g).latches = s.latches := rfl
@[simp] theorem State.setPort_answers (s : State) (p : Fin 4) (g : RingPort) : (s.setPort p g).answers = s.answers := rfl
@[simp] theorem State.setPort_mod (s : State) (p : Fin 4) (g : RingPort) : (s.setPort p g).mod = s.mod := rfl
@[simp] theorem State.setPort_hz (s : State) (p : Fin 4) (g : RingPort) : (s.setPort p g).hz = s.hz := rfl
@[simp] theorem State.setPort_prog (s : State) (p : Fin 4) (g : RingPort) : (s.setPort p g).prog = s.prog := rfl
@[simp] theorem State.setPort_beds (s : State) (p : Fin 4) (g : RingPort) : (s.setPort p g).beds = s.beds := rfl
@[simp] theorem State.setPort_grn (s : State) (p : Fin 4) (g : RingPort) : (s.setPort p g).grn = s.grn := rfl
@[simp] theorem State.setPort_fast (s : State) (p : Fin 4) (g : RingPort) : (s.setPort p g).fast = s.fast := rfl
@[simp] theorem State.setPort_eng (s : State) (p : Fin 4) (g : RingPort) : (s.setPort p g).eng = s.eng := rfl
@[simp] theorem State.setPort_aug (s : State) (p : Fin 4) (g : RingPort) : (s.setPort p g).aug = s.aug := rfl
@[simp] theorem State.setPort_flt (s : State) (p : Fin 4) (g : RingPort) : (s.setPort p g).flt = s.flt := rfl
@[simp] theorem State.setPort_stm (s : State) (p : Fin 4) (g : RingPort) : (s.setPort p g).stm = s.stm := rfl
@[simp] theorem State.setPort_dec (s : State) (p : Fin 4) (g : RingPort) : (s.setPort p g).dec = s.dec := rfl
@[simp] theorem State.setPort_lanes (s : State) (p : Fin 4) (g : RingPort) : (s.setPort p g).lanes = s.lanes := rfl
@[simp] theorem State.setPort_lck (s : State) (p : Fin 4) (g : RingPort) : (s.setPort p g).lck = s.lck := rfl
@[simp] theorem State.setPort_hst (s : State) (p : Fin 4) (g : RingPort) : (s.setPort p g).hst = s.hst := rfl
@[simp] theorem State.setPort_tim (s : State) (p : Fin 4) (g : RingPort) : (s.setPort p g).tim = s.tim := rfl
@[simp] theorem State.setPort_pwr (s : State) (p : Fin 4) (g : RingPort) : (s.setPort p g).pwr = s.pwr := rfl
@[simp] theorem State.setPort_sec (s : State) (p : Fin 4) (g : RingPort) : (s.setPort p g).sec = s.sec := rfl
@[simp] theorem State.setPort_flash (s : State) (p : Fin 4) (g : RingPort) : (s.setPort p g).flash = s.flash := rfl
@[simp] theorem State.setPort_svc (s : State) (p : Fin 4) (g : RingPort) : (s.setPort p g).svc = s.svc := rfl
@[simp] theorem State.setPort_free (s : State) (p : Fin 4) (g : RingPort) : (s.setPort p g).free = s.free := rfl

@[simp] theorem State.setEng_eng (s : State) (e : Fin 2) (g : Engine) : (s.setEng e g).eng = s.eng.set e g := rfl
@[simp] theorem State.setBed_beds (s : State) (b : Fin 4) (g : Bed) : (s.setBed b g).beds = s.beds.set b g := rfl
@[simp] theorem State.setLane_lanes (s : State) (l : Fin 80) (g : Lane) : (s.setLane l g).lanes = s.lanes.set l g := rfl
@[simp] theorem State.drawNat_free (s : State) : s.drawNat.2.free = s.free + 1 := rfl
@[simp] theorem State.drawBytes_free (s : State) (n : Nat) : (s.drawBytes n).2.free = s.free + n := rfl
@[simp] theorem State.drawNat_fst (s : State) : s.drawNat.1 = Config.freeNat s.free := rfl

end Sys2Proof.Machine
end

