-- ==== Sys2Proof/Laws/Regs.lean ====
section
/-!
SUPPORT. Reads of registers and fields after writes of registers and fields.
-/
namespace Sys2Proof.Machine

@[simp] theorem State.reg_setReg (s : State) (a : Nat) (v : Word) : (s.setReg a v).reg a = v :=
  mapGet_mapPut_self regReset s.regs a v

theorem State.reg_setReg_ne (s : State) {a b : Nat} (v : Word) (h : b ≠ a) : (s.setReg a v).reg b = s.reg b :=
  mapGet_mapPut_ne regReset s.regs v h

/-- Two states with the same register store read the same. -/
theorem State.reg_congr {s t : State} (h : s.regs = t.regs) (a : Nat) : s.reg a = t.reg a := by
  unfold State.reg; rw [h]

theorem State.fld_congr {s t : State} (h : s.regs = t.regs) (f : Field) : s.fld f = t.fld f := by
  unfold State.fld; rw [State.reg_congr h]

theorem State.flag_congr {s t : State} (h : s.regs = t.regs) (f : Field) : s.flag f = t.flag f := by
  unfold State.flag; rw [State.fld_congr h]

theorem State.fld_of_reg {s t : State} {f : Field} (h : s.reg f.addr = t.reg f.addr) : s.fld f = t.fld f := by
  unfold State.fld; rw [h]

theorem State.flag_of_reg {s t : State} {f : Field} (h : s.reg f.addr = t.reg f.addr) : s.flag f = t.flag f := by
  unfold State.flag; rw [State.fld_of_reg h]

theorem getLsbD_mask (lo w i : Nat) (hi : i < 32) :
    ((BitVec.ofNat 32 (2 ^ w - 1)) <<< lo).getLsbD i = decide (lo ≤ i ∧ i < lo + w) := by
  simp only [BitVec.getLsbD_shiftLeft, BitVec.getLsbD_ofNat, Nat.testBit_two_pow_sub_one]
  by_cases h1 : i < lo
  · simp [hi, h1]
  · have h2 : i - lo < 32 := by omega
    simp only [hi, h1, h2, decide_true, decide_false, Bool.not_false, Bool.true_and]
    exact decide_eq_decide.mpr ⟨fun _ => ⟨by omega, by omega⟩, fun _ => by omega⟩

/-- A bit of a register after a field has been put into it. -/
theorem getLsbD_putBits (r : Word) (lo w v i : Nat) (hi : i < 32) :
    (putBits r lo w v).getLsbD i = if lo ≤ i ∧ i < lo + w then v.testBit (i - lo) else r.getLsbD i := by
  have hm := getLsbD_mask lo w i hi
  unfold putBits
  simp only [BitVec.getLsbD_or, BitVec.getLsbD_and, BitVec.getLsbD_not, hm, hi, decide_true, Bool.true_and,
    BitVec.getLsbD_shiftLeft, BitVec.getLsbD_ofNat]
  by_cases h : lo ≤ i ∧ i < lo + w
  · have h2 : i - lo < 32 := by omega
    have h3 : ¬ i < lo := by omega
    simp [h, h2, h3]
  · simp [h]

theorem bitsOf_testBit (v lo w i : Nat) : (bitsOf v lo w).testBit i = (decide (i < w) && v.testBit (lo + i)) := by
  unfold bitsOf
  rw [Nat.testBit_mod_two_pow, Nat.testBit_div_two_pow, Nat.add_comm]

/-- A field reads what was put into it. -/
theorem bitsOf_putBits (r : Word) (lo w v : Nat) (h : lo + w ≤ 32) : bitsOf (putBits r lo w v).toNat lo w = v % 2 ^ w := by
  refine Nat.eq_of_testBit_eq fun i => ?_
  rw [bitsOf_testBit, Nat.testBit_mod_two_pow]
  by_cases hi : i < w
  · have := getLsbD_putBits r lo w v (lo + i) (by omega)
    rw [BitVec.getLsbD] at this
    rw [this]
    simp [hi]
  · simp [hi]

/-- A field that does not meet the one written reads as before. -/
theorem bitsOf_putBits_ne (r : Word) (lo w v lo2 w2 : Nat) (h : lo + w ≤ lo2 ∨ lo2 + w2 ≤ lo) (h2 : lo2 + w2 ≤ 32) :
    bitsOf (putBits r lo w v).toNat lo2 w2 = bitsOf r.toNat lo2 w2 := by
  refine Nat.eq_of_testBit_eq fun i => ?_
  rw [bitsOf_testBit, bitsOf_testBit]
  by_cases hi : i < w2
  · have := getLsbD_putBits r lo w v (lo2 + i) (by omega)
    rw [if_neg (by omega)] at this
    rw [BitVec.getLsbD, BitVec.getLsbD] at this
    rw [this]
  · simp [hi]

/-- A field stands within its register. -/
abbrev Field.fits (f : Field) : Prop := f.lo + f.w ≤ 32

theorem State.fld_setFld (s : State) (f : Field) (v : Nat) (h : f.fits) : (s.setFld f v).fld f = v % 2 ^ f.w := by
  unfold State.fld State.setFld
  rw [State.reg_setReg, bitsOf_putBits _ _ _ _ h]

theorem State.reg_setFld_ne (s : State) {f : Field} {a : Nat} (v : Nat) (h : a ≠ f.addr) : (s.setFld f v).reg a = s.reg a :=
  State.reg_setReg_ne _ _ h

theorem State.fld_setFld_ne (s : State) {f g : Field} (v : Nat) (h : g.addr ≠ f.addr) : (s.setFld f v).fld g = s.fld g :=
  State.fld_of_reg (State.reg_setFld_ne s v h)

/-- Another field of the same register. -/
theorem State.fld_setFld_beside (s : State) {f g : Field} (v : Nat) (ha : g.addr = f.addr) (h : f.lo + f.w ≤ g.lo ∨ g.lo + g.w ≤ f.lo)
    (hg : g.fits) : (s.setFld f v).fld g = s.fld g := by
  unfold State.fld State.setFld
  rw [ha, State.reg_setReg, bitsOf_putBits_ne _ _ _ _ _ _ h hg]

/-- A field that does not meet the one written, in the same register or another, reads as before. -/
theorem State.fld_setFld_apart (s : State) {f g : Field} (v : Nat) (h : g.addr ≠ f.addr ∨ (f.lo + f.w ≤ g.lo ∨ g.lo + g.w ≤ f.lo) ∧ g.fits) :
    (s.setFld f v).fld g = s.fld g := by
  by_cases ha : g.addr = f.addr
  · obtain ⟨h1, h2⟩ := h.resolve_left (not_not.mpr ha)
    exact s.fld_setFld_beside v ha h1 h2
  · exact s.fld_setFld_ne v ha

theorem State.flag_setFlag (s : State) (f : Field) (b : Bool) (h : f.fits) (hw : f.w = 1) : (s.setFlag f b).flag f = b := by
  unfold State.flag State.setFlag
  rw [State.fld_setFld s f _ h, hw]
  cases b <;> rfl

theorem State.flag_setFld_apart (s : State) {f g : Field} (v : Nat)
    (h : g.addr ≠ f.addr ∨ (f.lo + f.w ≤ g.lo ∨ g.lo + g.w ≤ f.lo) ∧ g.fits) : (s.setFld f v).flag g = s.flag g := by
  unfold State.flag; rw [State.fld_setFld_apart s v h]

theorem State.flag_setFlag_apart (s : State) {f g : Field} (b : Bool)
    (h : g.addr ≠ f.addr ∨ (f.lo + f.w ≤ g.lo ∨ g.lo + g.w ≤ f.lo) ∧ g.fits) : (s.setFlag f b).flag g = s.flag g :=
  State.flag_setFld_apart s _ h

theorem State.fld_setFlag_apart (s : State) {f g : Field} (b : Bool)
    (h : g.addr ≠ f.addr ∨ (f.lo + f.w ≤ g.lo ∨ g.lo + g.w ≤ f.lo) ∧ g.fits) : (s.setFlag f b).fld g = s.fld g :=
  State.fld_setFld_apart s _ h

theorem State.reg_setFlag_ne (s : State) {f : Field} {a : Nat} (b : Bool) (h : a ≠ f.addr) : (s.setFlag f b).reg a = s.reg a :=
  State.reg_setFld_ne s _ h

@[simp] theorem State.reg_bumpBy (s : State) (a n : Nat) :
    (s.bumpBy a n).reg a = BitVec.ofNat 32 (min ((s.reg a).toNat + n) 0xFFFFFFFF) := State.reg_setReg _ _ _

@[simp] theorem State.reg_bump (s : State) (a : Nat) : (s.bump a).reg a = BitVec.ofNat 32 (min ((s.reg a).toNat + 1) 0xFFFFFFFF) :=
  State.reg_bumpBy _ _ _

theorem State.reg_bumpBy_ne (s : State) {a b : Nat} (n : Nat) (h : b ≠ a) : (s.bumpBy a n).reg b = s.reg b := State.reg_setReg_ne _ _ h

theorem State.reg_bump_ne (s : State) {a b : Nat} (h : b ≠ a) : (s.bump a).reg b = s.reg b := State.reg_bumpBy_ne _ _ h

theorem State.fld_setReg_ne (s : State) {a : Nat} {f : Field} (v : Word) (h : f.addr ≠ a) : (s.setReg a v).fld f = s.fld f :=
  State.fld_of_reg (s.reg_setReg_ne v h)

theorem State.flag_setReg_ne (s : State) {a : Nat} {f : Field} (v : Word) (h : f.addr ≠ a) : (s.setReg a v).flag f = s.flag f :=
  State.flag_of_reg (s.reg_setReg_ne v h)

theorem State.fld_bump_ne (s : State) {a : Nat} {f : Field} (h : f.addr ≠ a) : (s.bump a).fld f = s.fld f := s.fld_setReg_ne _ h

theorem State.flag_bump_ne (s : State) {a : Nat} {f : Field} (h : f.addr ≠ a) : (s.bump a).flag f = s.flag f := s.flag_setReg_ne _ h

end Sys2Proof.Machine
end

