-- ==== Sys2Proof/Laws/Records.lean ====
section
/-!
SUPPORT. What writing a record does: the tail, the next number, the registers that a seal close before it may change.
-/
namespace Sys2Proof.Machine

/-- The areas that `f s` leaves alone, from its `Keeps` lemma. -/
theorem Keeps.same {T : List Area} {r s : State} (h : Keeps T r s) (p : Area) (hp : T.contains p = false) : p.same r s :=
  h.only p fun hm => by rw [List.contains_iff_mem.mpr hm] at hp; exact Bool.noConfusion hp

theorem State.numberRec_regs (s : State) (r : Record) : (s.numberRec r).regs = s.regs := by
  unfold State.numberRec; split <;> rfl

theorem State.numberRec_tail (s : State) (r : Record) (h : s.canNumber = true) :
    (s.numberRec r).aug.tail = s.aug.tail ++ [⟨s.aug.nextSeq, r⟩] ∧ (s.numberRec r).aug.nextSeq = s.aug.nextSeq + 1 := by
  unfold State.numberRec
  rw [if_pos h]
  dsimp only
  split <;> split <;> exact ⟨rfl, rfl⟩

theorem State.numberRec_canNumber (s : State) (r : Record) : (s.numberRec r).canNumber = s.canNumber := by
  unfold State.numberRec
  split
  · dsimp only
    unfold State.canNumber
    dsimp only
    split <;> split <;> rfl
  · rfl

theorem State.closeRun_canNumber (s : State) (k : Nat) : (s.closeRun k).canNumber = s.canNumber := by
  unfold State.closeRun
  split
  · rfl
  · exact State.numberRec_canNumber s _

theorem State.closeRun_regs (s : State) (k : Nat) : (s.closeRun k).regs = s.regs := by
  unfold State.closeRun
  split
  · rfl
  · exact State.numberRec_regs s _

theorem State.closeRuns_canNumber (s : State) : s.closeRuns.canNumber = s.canNumber := by
  unfold State.closeRuns
  generalize s.aug.runs.map Prod.fst = l
  induction l generalizing s with
  | nil => rfl
  | cons k l ih => exact (ih (s.closeRun k)).trans (s.closeRun_canNumber k)

theorem State.closeRuns_regs (s : State) : s.closeRuns.regs = s.regs := by
  unfold State.closeRuns
  generalize s.aug.runs.map Prod.fst = l
  induction l generalizing s with
  | nil => rfl
  | cons k l ih => exact (ih (s.closeRun k)).trans (s.closeRun_regs k)

theorem foldl_snapshot_marks (l : List (Fin 8)) (a : Aug) :
    (l.foldl Aug.snapshot a).running = a.running ∧ (l.foldl Aug.snapshot a).numberingFailed = a.numberingFailed := by
  induction l generalizing a with
  | nil => exact ⟨rfl, rfl⟩
  | cons k l ih => exact ih (a.snapshot k)

theorem State.closeSeal_canNumber (s : State) (r : Nat) : (s.closeSeal r).canNumber = s.canNumber := by
  unfold State.closeSeal
  split
  · rename_i h
    have h1 := s.closeRuns_canNumber
    have hb : ∀ (t : State) (a : Aug), a.running = t.aug.running → a.numberingFailed = t.aug.numberingFailed →
        ({ t with aug := a } : State).canNumber = t.canNumber := by
      intro t a e1 e2; unfold State.canNumber; dsimp only; rw [e1, e2]
    dsimp only
    split
    · exact (hb _ _ rfl rfl).trans h1
    · have hm := foldl_snapshot_marks (List.finRange 8)
      split
      · unfold State.canNumber
        simp only [State.setFlag_aug, State.setFld_aug, State.setReg_aug]
        rw [(hm _).1, (hm _).2]
        exact h1
      · unfold State.canNumber
        simp only [State.setFlag_aug, State.setFld_aug, State.setReg_aug]
        rw [(hm _).1, (hm _).2]
        exact h1
  · rfl

theorem State.closeSeal_reg (s : State) (r : Nat) {a : Nat} (h1 : a ≠ AUG_RATE) (h2 : a ≠ AUG_STAT) : (s.closeSeal r).reg a = s.reg a := by
  unfold State.closeSeal
  split
  · dsimp only
    split
    · exact State.reg_congr s.closeRuns_regs a
    · split
      · rw [State.reg_setFlag_ne _ _ h2, State.reg_setFlag_ne _ _ h2, State.reg_setFld_ne _ _ h2, State.reg_setReg_ne _ _ h1]
        exact State.reg_congr s.closeRuns_regs a
      · rw [State.reg_setFlag_ne _ _ h2, State.reg_setFld_ne _ _ h2, State.reg_setReg_ne _ _ h1]
        exact State.reg_congr s.closeRuns_regs a
  · rfl

theorem State.closeDueSeal_canNumber (s : State) : s.closeDueSeal.canNumber = s.canNumber := by
  unfold State.closeDueSeal
  split
  · rfl
  · split
    · rfl
    · exact s.closeSeal_canNumber _

theorem State.closeDueSeal_reg (s : State) {a : Nat} (h1 : a ≠ AUG_RATE) (h2 : a ≠ AUG_STAT) : s.closeDueSeal.reg a = s.reg a := by
  unfold State.closeDueSeal
  split
  · rfl
  · split
    · rfl
    · exact s.closeSeal_reg _ h1 h2

theorem State.numberEvent_regs (s : State) (code : Nat) (h : U64) (l p : Nat) (args : List Nat) (v : List Byte) :
    (s.numberEvent code h l p args v).regs = s.regs := by
  unfold State.numberEvent
  dsimp only
  split <;> exact s.numberRec_regs _

theorem State.numberEvent_canNumber (s : State) (code : Nat) (h : U64) (l p : Nat) (args : List Nat) (v : List Byte) :
    (s.numberEvent code h l p args v).canNumber = s.canNumber := by
  unfold State.numberEvent
  dsimp only
  split <;> exact s.numberRec_canNumber _

theorem State.numberEvent_last (s : State) (code : Nat) (h : U64) (l p : Nat) (args : List Nat) (v : List Byte) (hn : s.canNumber = true) :
    (s.numberEvent code h l p args v).lastEvent = some (code % 65536, args) := by
  have ht := (s.numberRec_tail (s.eventRecord code h l p args v) hn).1
  unfold State.numberEvent
  dsimp only
  rw [State.numberRec_canNumber, if_pos hn]
  unfold State.lastEvent
  dsimp only
  rw [ht, List.getLast?_append]
  simp [State.eventRecord]

theorem State.timeMark_regs (s : State) : s.timeMark.regs = s.regs := by
  unfold State.timeMark
  split
  · exact State.numberEvent_regs _ _ _ _ _ _ _
  · rfl

theorem State.timeMark_canNumber (s : State) : s.timeMark.canNumber = s.canNumber := by
  unfold State.timeMark
  split
  · exact State.numberEvent_canNumber _ _ _ _ _ _ _
  · rfl

/-- An EVENT record is the newest record once it has been written. -/
theorem State.writeEventAt_last (s : State) (code : Nat) (h : U64) (l : Nat) (args : List Nat) (hn : s.canNumber = true) :
    (s.writeEventAt code h l args).lastEvent = some (code % 65536, args) := by
  unfold State.writeEventAt
  exact State.numberEvent_last _ _ _ _ _ _ _ (by rw [State.timeMark_canNumber, State.closeDueSeal_canNumber]; exact hn)

/-- Writing an EVENT record changes no register but AUG_RATE and AUG_STAT, which a seal close before it may. -/
theorem State.writeEventAt_reg (s : State) (code : Nat) (h : U64) (l : Nat) (args : List Nat) {a : Nat} (h1 : a ≠ AUG_RATE) (h2 : a ≠ AUG_STAT) :
    (s.writeEventAt code h l args).reg a = s.reg a := by
  unfold State.writeEventAt
  rw [State.reg_congr (State.numberEvent_regs _ _ _ _ _ _ _), State.reg_congr (State.timeMark_regs _), State.closeDueSeal_reg _ h1 h2]

theorem State.writeEventAt_canNumber (s : State) (code : Nat) (h : U64) (l : Nat) (args : List Nat) :
    (s.writeEventAt code h l args).canNumber = s.canNumber := by
  unfold State.writeEventAt
  rw [State.numberEvent_canNumber, State.timeMark_canNumber, State.closeDueSeal_canNumber]

theorem State.writeEvent_last (s : State) (code : Nat) (args : List Nat) (hn : s.canNumber = true) :
    (s.writeEvent code args).lastEvent = some (code % 65536, args) := State.writeEventAt_last _ _ _ _ _ hn

theorem State.writeEvent_reg (s : State) (code : Nat) (args : List Nat) {a : Nat} (h1 : a ≠ AUG_RATE) (h2 : a ≠ AUG_STAT) :
    (s.writeEvent code args).reg a = s.reg a := State.writeEventAt_reg _ _ _ _ _ h1 h2

theorem State.writeEventAt_only (s : State) (code : Nat) (h : U64) (l : Nat) (args : List Nat) :
    Only [.regs, .aug] s (s.writeEventAt code h l args) := (Keeps.writeEventAt (Keeps.refl _ s) rfl _ _ _ _).only

theorem State.writeEvent_only (s : State) (code : Nat) (args : List Nat) : Only [.regs, .aug] s (s.writeEvent code args) :=
  State.writeEventAt_only _ _ _ _ _

/-! Entering a module state -/

/-- DEC_STAT and DEC_HOLD_CNT are the registers that driving the HOLD_N lines changes. -/
theorem State.driveHold_reg (s : State) {a : Nat} (h1 : a ≠ DEC_HOLD_CNT) (h2 : a ≠ DEC_STAT) : s.driveHold.reg a = s.reg a := by
  have hc : ∀ (t : State) (c : Bool), (if c = true then t.bump DEC_HOLD_CNT else t).reg a = t.reg a := by
    intro t c; split
    · exact State.reg_bump_ne _ h1
    · rfl
  unfold State.driveHold
  extract_lets l0 l1 t1 t2 t3
  have e : t3.reg a = s.reg a := by
    rw [State.reg_setFlag_ne _ _ h2, State.reg_setFlag_ne _ _ h2, hc, hc]
  exact e

theorem State.driveHold_only (s : State) : Only [.regs, .dec, .fast] s s.driveHold := (Keeps.driveHold (Keeps.refl _ s) rfl).only

/-- The module is in the state it enters. -/
theorem State.enterState_st (s : State) (new : ModState) (h b r : Nat) : (s.enterState new h b r).mod.st = new := by
  unfold State.enterState
  extract_lets old t1 m t2 t3 t4
  have e3 : t3.mod = t2.mod := (State.writeEvent_only t2 _ _) .mod (by decide)
  have e4 : t4.mod = t3.mod := by
    show (if r = 0 then t3 else t3.closeSeal r).mod = t3.mod
    split
    · rfl
    · exact ((Keeps.closeSeal (Keeps.refl [.regs, .aug] t3) rfl r).only) .mod (by decide)
  have e5 : t4.driveHold.mod = t4.mod := t4.driveHold_only .mod (by decide)
  rw [e5, e4, e3]

/-- Entering a state changes no register outside the auger unit and the decision output. -/
theorem State.enterState_reg (s : State) (new : ModState) (h b r : Nat) {a : Nat} (h1 : a ≠ AUG_RATE) (h2 : a ≠ AUG_STAT)
    (h3 : a ≠ DEC_HOLD_CNT) (h4 : a ≠ DEC_STAT) : (s.enterState new h b r).reg a = s.reg a := by
  unfold State.enterState
  extract_lets old t1 m t2 t3 t4
  have hf : ∀ (t : State) (e : Fin 2), (t.flushLate e).reg a = t.reg a := by
    intro t e
    unfold State.flushLate
    dsimp only
    split
    · rfl
    · exact State.writeEventAt_reg _ _ _ _ _ h1 h2
  have e1 : t1.reg a = s.reg a := by
    show s.leaveGrowing.reg a = _
    unfold State.leaveGrowing
    split
    · rw [State.reg_congr (State.closeRuns_regs _), hf, hf]
    · rfl
  have e3 : t3.reg a = t1.reg a := State.writeEvent_reg t2 _ _ h1 h2
  have e4 : t4.reg a = t3.reg a := by
    show (if r = 0 then t3 else t3.closeSeal r).reg a = t3.reg a
    split
    · rfl
    · exact t3.closeSeal_reg r h1 h2
  rw [State.driveHold_reg _ h3 h4, e4, e3, e1]

theorem State.fld_writeEvent (s : State) (code : Nat) (args : List Nat) {f : Field} (h1 : f.addr ≠ AUG_RATE) (h2 : f.addr ≠ AUG_STAT) :
    (s.writeEvent code args).fld f = s.fld f := State.fld_of_reg (s.writeEvent_reg code args h1 h2)

theorem State.flag_writeEvent (s : State) (code : Nat) (args : List Nat) {f : Field} (h1 : f.addr ≠ AUG_RATE) (h2 : f.addr ≠ AUG_STAT) :
    (s.writeEvent code args).flag f = s.flag f := State.flag_of_reg (s.writeEvent_reg code args h1 h2)

theorem State.fld_driveHold (s : State) {f : Field} (h1 : f.addr ≠ DEC_HOLD_CNT) (h2 : f.addr ≠ DEC_STAT) :
    s.driveHold.fld f = s.fld f := State.fld_of_reg (s.driveHold_reg h1 h2)

theorem State.flag_driveHold (s : State) {f : Field} (h1 : f.addr ≠ DEC_HOLD_CNT) (h2 : f.addr ≠ DEC_STAT) :
    s.driveHold.flag f = s.flag f := State.flag_of_reg (s.driveHold_reg h1 h2)

theorem State.fld_enterState (s : State) (new : ModState) (h b r : Nat) {f : Field} (h1 : f.addr ≠ AUG_RATE) (h2 : f.addr ≠ AUG_STAT)
    (h3 : f.addr ≠ DEC_HOLD_CNT) (h4 : f.addr ≠ DEC_STAT) : (s.enterState new h b r).fld f = s.fld f :=
  State.fld_of_reg (s.enterState_reg new h b r h1 h2 h3 h4)

theorem State.flag_enterState (s : State) (new : ModState) (h b r : Nat) {f : Field} (h1 : f.addr ≠ AUG_RATE) (h2 : f.addr ≠ AUG_STAT)
    (h3 : f.addr ≠ DEC_HOLD_CNT) (h4 : f.addr ≠ DEC_STAT) : (s.enterState new h b r).flag f = s.flag f :=
  State.flag_of_reg (s.enterState_reg new h b r h1 h2 h3 h4)

/-- Driving the HOLD_N lines leaves the frames and the waiting verdicts, and the lines follow `holdLine` (R28, R430). -/
theorem State.driveHold_facts (s : State) : s.driveHold.fast.frames = s.fast.frames ∧ s.driveHold.dec.queue = s.dec.queue ∧
    s.driveHold.dec.lines = (s.dec.lines.set 0 (s.holdLine 0)).set 1 (s.holdLine 1) := by
  have hc : ∀ (c : Bool) (t : State), (if c = true then t.bump DEC_HOLD_CNT else t).fast = t.fast ∧
      (if c = true then t.bump DEC_HOLD_CNT else t).dec = t.dec := by
    intro c t
    split <;> exact ⟨rfl, rfl⟩
  unfold State.driveHold
  extract_lets l0 l1 t1 t2 t3
  have e3 : t3.fast = s.fast ∧ t3.dec = s.dec :=
    have a3 : t3.fast = t2.fast ∧ t3.dec = t2.dec := ⟨rfl, rfl⟩
    ⟨a3.1.trans ((hc _ _).1.trans (hc _ _).1), a3.2.trans ((hc _ _).2.trans (hc _ _).2)⟩
  refine ⟨?_, ?_, ?_⟩
  · show t3.fast.frames = _; rw [e3.1]
  · show t3.dec.queue = _; rw [e3.2]
  · show (t3.dec.lines.set 0 l0).set 1 l1 = _; rw [e3.2]

end Sys2Proof.Machine
end

