-- ==== Sys2Proof/Machine/Pins.lean ====
section
/-!
DEFINITION. What the module shows at its contacts: where a lane's pair lands (R545), the levels of the low-speed outputs (R518, R547, Table
19.4), IDCODE (R550), the inlet temperature that a loop may reach (R557, R558). Every level is a view of the state; no command reads one.
-/
namespace Sys2Proof.Machine

/-! CN1 -/

/-- A row of CN1 (R545). -/
inductive ContactRow where
  | a | b | c | d | e | f
deriving DecidableEq, Repr, Inhabited

/-- A pair site of CN1. -/
structure PairSite where
  row : ContactRow
  site : Nat
deriving DecidableEq, Repr, Inhabited

/-- Column of the _P contact of a site; the _N contact follows it (R545). -/
def PairSite.column (p : PairSite) : Nat := 3 * p.site + 2

/-- Where a lane's receive pair lands, by lane index (Table 21.1, Table 13.1). -/
def rxSite (l : Nat) : Option PairSite :=
  if l < 20 then some ⟨.a, l⟩
  else if l < 40 then some ⟨.b, l - 20⟩
  else if l < 48 then some ⟨.c, l - 40⟩
  else if l < 56 then none
  else if l < 72 then some ⟨.d, l - 56⟩
  else if l < 80 then some ⟨.c, 8 + (l - 72)⟩
  else none

/-- Where a lane's transmit pair lands, by lane index (Table 21.1, Table 13.1). -/
def txSite (l : Nat) : Option PairSite :=
  if l < 48 then none
  else if l < 56 then some ⟨.f, l - 48⟩
  else if l < 72 then some ⟨.e, l - 56⟩
  else if l < 80 then some ⟨.f, 8 + (l - 72)⟩
  else none

/-! CN2 and CN3 outputs -/

/-- A low-speed output of the module (Table 21.3). -/
inductive OutPin where
  | syncOut
  | hold (die : Fin 2)
  | tripN
  | present
  | pgood
  | growing
  | gpio (i : Fin 4)
deriving DecidableEq, Repr, Inhabited

/-- The main domains drive their outputs: they are powered down in Off and in Fallow (Table 19.4). -/
def State.mainDrives (s : State) : Bool := s.mod.st.powered && s.mod.st != .fallow

/-- Level of an output as the carrier reads it, with the pulls of Table 21.3; HZN_SYNC_OUT floats in Off, and has no pull (R518, R547). -/
def State.pinLevel (s : State) : OutPin → Option Bool
  | .syncOut => if s.mod.st.powered then some (s.mainDrives && s.hz.syncOut) else none
  | .hold d => some (s.mod.vstby && !s.holdLine d)
  | .tripN => some (!s.mod.thmTrip)
  | .present => some false
  | .pgood => some (s.mainDrives && s.mod.rails)
  | .growing => some (s.mainDrives && s.mod.st == .growing)
  | .gpio _ => some false

/-- What JTAG's IDCODE register reads: the stepping, 0xC707, 0x3C5 and 1 (R550). -/
def State.idcode (s : State) : Word := BitVec.ofNat 32 (bitsOf s.topId 8 4 * 2 ^ 28 + 0xC707 * 2 ^ 12 + 0x3C5 * 2 + 1)

/-! Cooling -/

/-- Junction-to-inlet resistance in mK/W at a flow in 0.1 L/min; between the rows that of the next lower one applies (Table 21.7, R558). -/
def coldPlate (flow : Nat) : Nat := if flow < 20 then 85 else if flow < 30 then 72 else if flow < 40 then 60 else 55

/-- Highest inlet temperature in mK above 0 °C that a loop may reach at a flow under PWR_BUDGET: 95 °C less the rise, and at most 45 °C (R557,
R558). -/
def State.inletLimit (s : State) (flow : Nat) : Int :=
  min 45000 (95000 - (((s.reg PWR_BUDGET).toNat % 65536 * coldPlate flow / 10 : Nat) : Int))

end Sys2Proof.Machine
end

