-- ==== Sys2Proof/Tests/Slice0.lean ====
section
/-!
SUPPORT. Tests: well-formedness, worked examples of the spec, single commands, and for every statement with hypotheses a witness that meets
them.
-/
namespace Sys2Proof.Tests
set_option linter.unusedVariables false
set_option Elab.async false
open Sys2Proof Sys2Proof.Machine

/-! A small running module -/

/-- A query kind that every frame with VALID bit 0 opens. -/
def kind0 : QueryKind := { mask := 1, value := 1, f := 1000, dflt := 0, cost := 1, setWcet := 10, program := 0 }

/-- A network with no operation and four weight-port words in grain 0: its verdict bits are zeros. -/
def net0 : Network := { (default : Network) with regions := [⟨0, .weights, 0, 1024⟩] }

/-- The variant of bed 0. -/
def variant0 : Variant := { phase := 1, layoutBed := 0, u := 64, bedLat := 100, powerFabric := 10, net := net0 }

/-- Slot 0, eight bytes of payload. -/
def slot0 : SlotProg := { slot := 0, length := 8, absentPolicy := 0, corruptPolicy := 0, tallyP := 0, map := [] }

/-- A channel group of one channel. -/
def group0 : GroupDecl :=
  { group := 0, channels := 1, width := 2, signed := false, absent := 0, depth := 4, slowTicks := 16, slowDeadline := 8, slowSettle := 4, spill := false, base := 0 }

/-- The east engine's section: a ring and a group. -/
def loess0 : LoessSection :=
  { (default : LoessSection) with streams := [⟨0, 16, false, 0⟩], groups := [group0], chans := [⟨5, 1, 0, 0⟩], settled := [[]] }

/-- One phase with one layout bed. -/
def phase0 (mirrored : Bool) : PhaseProg :=
  { (default : PhaseProg) with
    ph := { (default : Phase) with
      id := 1, log2II := 2, layoutBeds := 1, mirrored := mirrored, a := 40, q := 40, s := 5000, d := 100, w := 50, kinds := [kind0] }
    entry := ⟨[[slot0]], Vector.replicate 16 default⟩
    decision := { (default : DecisionSection) with map := [⟨0, 0, [0]⟩, ⟨0, 1, [1]⟩], subst := [0, 0, 0, 0, 0, 0, 0, 0] }
    variants := [variant0]
    east := loess0 }

/-- The phase in force in most samples. -/
def phaseA : PhaseProg := phase0 false

/-- Two modules on a line: this one sends a deepening span and a fan-out span to itself. -/
def casc0 : Cascade :=
  { xdim := 2, ydim := 1, lead := 0, deputy := 1, rate := 4, cableMax := 0, positions := [(1, 1), (2, 2)]
    spans := [⟨1, 1, 0, 0, 0, 0, 0, 10, 10⟩, ⟨0, 1, 0, 0, 64, 1, 1, 10, 10⟩] }

/-- An image copy of a program. -/
def image0 (mirrored : Bool) (casc : Option Cascade) : ImageCopy :=
  { bytes := [], digest := [7], keySlot := 0, index := 0
    program := { tickPs := 1000000, firstPhase := 1, modules := 1, phases := [phase0 mirrored], cascade := casc, reshard := [] } }

/-- The east engine at work. -/
def engine0 : Engine :=
  { Engine.off with
    running := true, start := some 0
    streams := [(0, { decl := ⟨0, 16, false, 0⟩, start := 0, entries := [], givenUp := [], newest := 0 })]
    groups := [(0, { decl := group0, start := 0, slabs := [], openBufs := [], lost := [], givenUp := [], newest := 0 })] }

/-- A module at tick 2,048 in a state of Table 1.4, with a program. -/
def modFor (mirrored : Bool) (casc : Option Cascade) (st : ModState) : State :=
  { State.reset with
    mod := { State.reset.mod with st := st, rails := true, dramDone := true, dirRead := true, fwOk := true, copyDigest := [7] }
    hz := { State.reset.hz with count := 2048 }
    prog := { Prog.none with image := some (image0 mirrored casc), phase := 1, place := [(0, none)], nextIndex := 1 }
    beds := State.reset.beds.set 0 { Bed.off with variant := some variant0 }
    fast := { Fast.empty with accept := [(0, none)] }
    eng := State.reset.eng.set 0 engine0
    aug := Aug.cold
    hst := { Hst.off with up := true, txSeq := 1, rxSeq := 1 }
    sec := { State.reset.sec with shadow := shippedHardpan, gen := some 0 } }

/-- The usual sample. -/
def modIn (st : ModState) : State := modFor false none st

/-- In Growing. -/
def grow : State := modIn .growing

/-- In Unplanted: no program. -/
def bare : State := { modIn .unplanted with prog := Prog.none }

/-- In a cold Waking with the firmware running. -/
def waking : State := modIn .waking

/-- A mirror pair: layout bed 0 on bed 0 and its partner. -/
def paired : State :=
  { modFor true none .growing with
    prog := { (modFor true none .growing).prog with place := [(0, some 2)] }
    beds := (grow.beds).set 2 { Bed.off with variant := some variant0 } }

/-- Beds 0 and 2 after a release: bed 0 alone. -/
def single : State := { paired with prog := { paired.prog with place := [(0, none)] } }

/-- The lead of a cascade. -/
def lead : State := ((modFor false (some casc0) .growing).setFlag RNG_CTL_CASC_EN true).setFld RNG_ROLE_ROLE 1

/-- A ring port that is up. -/
def linked (s : State) : State := { s with ring := { s.ring with ports := s.ring.ports.set 0 { RingPort.off with down := false } } }

/-- A lane in a state of Table 13.9. -/
def laneIn (l n : Nat) (s : State) : State := s.setFld (LNK_STAT_STATE.on (lnkOff l)) n

/-- Replace one lane. -/
def withLane (l : Fin 80) (f : Lane → Lane) (s : State) : State := { s with lanes := s.lanes.set l (f s.lanes[l]) }

/-- A peer of rate code 3 that is ready. -/
def peer0 : Training := { lverMajor := 1, lverMinor := 0, tstate := 1, maxRate := 3, nextRate := 0, link := 2, lane := 0, peerId := 0x01000000 }

/-- A frame of tick 2,040 in slot 0 of layout bed 0. -/
def frame0 : Frame := { (default : Frame) with hzn := 2040, phase := 1, hasSettled := true, copies := [{ (default : BedCopy) with intact := true }] }

/-- A module that holds one frame. -/
def holding (f : Frame) (s : State) : State := { s with fast := { s.fast with frames := [f] } }

/-- The east engine of a sample, changed. -/
def engWith (f : Engine → Engine) (s : State) : State := { s with eng := s.eng.set 0 (f s.eng[0]) }

/-- Sender 1 bound to slot 0 of layout bed 0, for frames. -/
def bound (s : State) : State := { s with stm := { s.stm with active := [(0, ⟨1, 0x8000⟩)] } }

/-- The decision lanes are Up. -/
def decUp (s : State) : State := [48, 49, 50, 51, 52, 53, 54, 55].foldl (fun s l => laneIn l 5 s) s

/-- A part of the fan-out span, for tick 2,048. -/
def part0 : Part := { hzn := 2048, src := 1, part := 0, flags := 1, bits := 1, causes := 0, summary := [] }

/-- The lead, with that part received. -/
def leadPart : State := { lead with ring := { lead.ring with parts := [part0] } }

/-- Flash whose directory names neither firmware nor an image. -/
def goodDirectory : Flash :=
  let d := padTo 60 (asciiBytes "CHT7FDIR" ++ leBytes 2 1)
  { dev := State.reset.flash.dev.set 0 { (State.reset.flash.dev[0] : FlashDev) with bytes := putBytes erasedByte [] 0 (d ++ leBytes 4 (crc32 d)) } }

/-- Flash whose directory is all zeros. -/
def blankDirectory : Flash :=
  { dev := State.reset.flash.dev.set 0 { (State.reset.flash.dev[0] : FlashDev) with bytes := (List.range 64).map (fun i => (i, 0)) } }

/-! Well-formed commands: one ill-formed term for each check, which the check refuses -/

/-- A command with operands in their bounds passes. -/
theorem test_wf_accepts : (Instr.thermalTrip 3 1680).wellFormed = true ∧ (Instr.frameItem 0 1 2 (zeroBytes 8) false false 0).wellFormed = true
    ∧ (Instr.elasticCellReceived 0 (zeroBytes 336)).wellFormed = true ∧ (Instr.grnWindowWrite .mgt 0x1040FC 7).wellFormed = true := by
  decide +kernel

theorem test_wf_mainRailsValid : (Instr.mainRailsValid (Vector.replicate 18 40000)).wellFormed = false := by decide
theorem test_wf_thermalTrip : (Instr.thermalTrip 3 32768).wellFormed = false := by decide
theorem test_wf_criticalShutdown : (Instr.criticalShutdown 3 (-32769)).wellFormed = false := by decide
theorem test_wf_thermalWarning : (Instr.thermalWarning 3 32768).wellFormed = false := by decide
theorem test_wf_dramStackHot : (Instr.dramStackHot 0 32768).wellFormed = false := by decide
theorem test_wf_frameItem : (Instr.frameItem 0 1 2 (zeroBytes 9) false false 0).wellFormed = false := by decide
theorem test_wf_summaryItem : (Instr.summaryItem 0 1 2 [] false 0).wellFormed = false := by decide
theorem test_wf_siltAccess : (Instr.siltMoverRetry 0 ⟨0, 0, .add 0 [], none⟩).wellFormed = false := by decide
theorem test_wf_siltMoverRetry : (Instr.siltMoverRetry 0 ⟨0, 0, .read, some []⟩).wellFormed = false := by decide
theorem test_wf_ringFrameReceived : (Instr.ringFrameReceived 0 0 [zeroBytes 32]).wellFormed = false := by decide +kernel
theorem test_wf_elasticCellReceived : (Instr.elasticCellReceived 0 (zeroBytes 335)).wellFormed = false := by decide +kernel
theorem test_wf_lckStart : (Instr.lckStart (default : LckPeer)).wellFormed = false := by decide
theorem test_wf_grnWindowWrite : (Instr.grnWindowWrite .mgt 0x104100 7).wellFormed = false := by decide
theorem test_wf_hostCellReceived : (Instr.hostCellReceived 0 (zeroBytes 126)).wellFormed = false := by decide +kernel
theorem test_wf_prbsTestDone : (Instr.prbsTestDone 0 (2 ^ 32 + 1)).wellFormed = false := by decide
theorem test_wf_timeStep : (Instr.timeStep 0 (2 ^ 63)).wellFormed = false := by decide
theorem test_wf_regWrite : (Instr.regWrite 0 0 (List.replicate 65537 0)).wellFormed = false := by
  show messageOk (List.replicate 65537 0) = false
  rw [messageOk, List.length_replicate]; decide

theorem test_wf_sowData : (Instr.sowData 0 0 (List.replicate 65537 0)).wellFormed = false := by
  show messageOk (List.replicate 65537 0) = false
  rw [messageOk, List.length_replicate]; decide
theorem test_wf_flashProgram : (Instr.flashProgram 0 0 (List.replicate 65537 0) true).wellFormed = false := by
  show messageOk (List.replicate 65537 0) = false
  rw [messageOk, List.length_replicate]; decide
theorem test_wf_coldWrite : (Instr.coldWrite 0 0 (List.replicate 65537 0)).wellFormed = false := by
  show messageOk (List.replicate 65537 0) = false
  rw [messageOk, List.length_replicate]; decide

/-! Contacts against the worked examples of the spec -/

/-- R545: stream lane 31 lands on CN1-B35. -/
theorem test_rxSite : (rxSite 31).map (fun p => (p.row, p.column)) = some (.b, 35) := by decide

/-- R545: ring port 2, lane 1 transmits on CN1-E29. -/
theorem test_txSite : (txSite 65).map (fun p => (p.row, p.column)) = some (.e, 29) := by decide

/-- R550: IDCODE of stepping S1. -/
theorem test_idcode : State.reset.idcode = 0x1C70778B := by decide

/-- R558: 700 W at 1.5 L/min leave an inlet of 35.5 °C. -/
theorem test_inletLimit : (State.reset.setReg PWR_BUDGET 7000).inletLimit 15 = 35500 := by decide

/-! Arithmetic against the worked examples of the spec -/

/-- R132: round_half_even(−2, 2) is 0. -/
theorem test_round_half_even_tie : roundHalfEven (-2) 2 = 0 := by decide

/-- Table 4.2, from the row after the flips on: a marl transform of size 8. -/
theorem test_marl_table_4_2 :
    (marl [60, 20, -15, 8, 12, 25, -5, 1] { marlDesc 0x00380203 with signs := false } 0).1 = [26, 0, 32, 14, 10, 9, 12, 18] := by decide +kernel

/-- The descriptor word of that example. -/
theorem test_marl_descriptor : marlDesc 0x00380203 = { pattern := 3, signs := true, inverse := false, shift := 2, log2n := 3 } := by decide

/-- "A clamped Ashcombe scale": the sample 1,523 gives 22, clamped. -/
theorem test_normalise_clamps :
    normalise 0x05F3 { enable := true, format := 3, nshift := 10, scaleMin := 0x100, scaleMax := 0x200, offsetMin := 1000, offsetMax := 2000 }
      0x300 1480 = (22, true, 0) := by decide

/-- Table 5.7, vector 0: the row sum is 2,496. -/
theorem test_row_sum_table_5_7 :
    rowSum [12, 3, -5, 20, 7, 0, 15, 3, 9, -2, 30, 4, 3, 11, -8, 6] [4, 1, -4, 17, 7, -1, 26, 1, 11, -7, 40, 4, -1, 17, -11, 7] = 2496 := by
  decide +kernel

/-- Table 5.8: the product of the group rounds to 178 and the accumulator −365 narrows to −91. -/
theorem test_narrow_table_5_8 : roundHalfEven 186160000 20 = 178 ∧ roundHalfEven (-365) 2 = -91 := by decide

/-- Table 7.3: the prefix tree gives 12,110, 10,649, 12,918 and 11,703. -/
theorem test_prefix_tree_table_7_3 :
    ((recurBlock 29491 [1000, -250, 3333, 77] 12345).map Prod.fst) = [12110, 10649, 12918, 11703] := by decide +kernel

/-- Table 7.4: the shed frame's settled verdict is 0xF001; an absent frame under HOLD_LAST reads 0x2000. -/
theorem test_verdict_words : verdictWord 1 [7] true false = 0xF001 ∧ verdictWord 0 [1] false false = 0x2000 := by decide

/-- Table 2.4: tick 0x4_7F00_13FF, slot 0 has tag 0xFFC0; the next tick's is 0. -/
theorem test_frame_tags : frameTag 0x47F0013FF 0 = 0xFFC0 ∧ frameTag 0x47F001400 0 = 0 := by decide

/-- The Fenwick array: the arrival limit of position 0 is 100.0 ns after the tick. -/
theorem test_arrival_limit : arrivalLimit { (default : Phase) with a := 150 } 0 = 100000 := by decide

/-- "Seed choice across a block boundary": the header of a data block with seed 1 is 0x05, and it is good. -/
theorem test_lane_header : laneHeader 0 1 = 0x05 ∧ headerGood 0x05 = true := by decide

/-- "A run broken by an absent frame": the header of a RUN record in lane 5 is the word 0x0000_0005_0000_0102. -/
theorem test_run_header :
    (recBytes { flags := 0, lane := 5, body := .run (default : RunBody) }).take 8 = leBytes 8 0x0000000500000102 := by decide +kernel

/-- CRC-32 of IEEE 802.3 over the nine digits, the check value of its definition. -/
theorem test_crc32_check : crc32 (asciiBytes "123456789") = 0xCBF43926 := by decide +kernel

/-- SHA-512 of "abc", the example of its definition (FIPS 180-4): the first eight bytes. -/
theorem test_sha512_abc : (sha512 (asciiBytes "abc")).take 8 = [0xDD, 0xAF, 0x35, 0xA1, 0x93, 0x61, 0x7A, 0xBA] := by decide +kernel

/-! Single commands -/

/-- The state that a command answers. -/
def after (c : Instr) (s : State) : State := match exec c s with | .next t => t | _ => s

/-- The count becomes 2,049 after a tick at 2,048 (R40). -/
theorem test_tick_counts : (after (.tick 1000000 false) grow).count = 2049 := by decide +kernel

/-- "A rate change and a wrap": at 2^40 ns the rate of TIMA moves from 0x4000 to 0x8000 and 2^48 units leave the offset. -/
theorem test_rate_change :
    (after (.rateChange 0 0x8000)
      { (grow.setFlag (TIM_D_CTL_EN.on (timOff 0)) true).setReg (TIM_D_RATE + timOff 0) 0x4000 with tim := { grow.tim with c := 1099511627776 } }).tim.off[0]
      = 0 - 281474976710656 := by decide +kernel

/-- "Reading the horizon count over the management port": the transaction answers the low half and latches the high half. -/
theorem test_mgt_read_latches :
    (after (.mgtTransaction [0, 0, 1, 0] 4) { grow with hz := { grow.hz with count := 0x4FFFFFFFF } }).answers[1] = 0xFFFFFFFF := by decide +kernel

/-- The port's read of the high half returns the latch, the host's the live value 5. -/
theorem test_latch_per_path :
    let s : State := { grow with hz := { grow.hz with count := 0x500000000 }, latches := [(latchKey .mgt 0x10004, 4)] }
    (after (.leadingRegisterRead .mgt 0x10004) s).answers[1] = 4 ∧ (after (.leadingRegisterRead .host 0x10004) s).answers[0] = 5 := by decide +kernel

/-- A trip in Growing halts the module; 104.9 °C does not (Table 19.7). -/
theorem test_trip_level : (after (.thermalTrip 0 1680) grow).mod.st = .halted ∧ (after (.thermalTrip 0 1679) grow).mod.st = .growing := by
  decide +kernel

/-- An acknowledgement of an unassigned number is ignored and sets ACK_BAD (Table 10.9). -/
theorem test_ack_bad : (after (.recAck 7 1 0) grow).flag AUG_STAT_ACK_BAD = true := by decide +kernel

/-- A frame that does not come enters as absent and is counted (Table 2.1). -/
theorem test_absent_frame_counts : (after (.frameEntry 0 0 2048 []) (bound grow)).reg HZN_ABSENT_CNT = 1 := by decide +kernel

/-- A rotation outside Growing is refused with code 8 (Table 18.1). -/
theorem test_rotation_needs_growing : (after (.rotLoad .mgt) bare).fld TOP_ROT_STAT_CODE = 8 := by decide +kernel

/-- A microcode buffer without the magic is refused with code 4 (Table 18.3). -/
theorem test_microcode_magic : (after (.ucVerify .mgt) grow).fld TOP_UC_STAT_CODE = 4 := by decide +kernel

/-- A write of PWR_BUDGET above the cap stores the cap, 7,000 in the shipped settings (Table 12.2). -/
theorem test_budget_cap : (after (.registerWrite .mgt 0xF0014 0xFFFF) grow).reg PWR_BUDGET = 7000 := by decide +kernel

/-- The retrain order of a lane that is enabled takes it back to Detect (Table 13.9). -/
theorem test_retrain : (after (.lnkRetrain .mgt 60) (laneIn 60 5 (grow.setFlag (LNK_CTL_ENABLE.on (lnkOff 60)) true))).laneState 60 = 1 := by
  decide +kernel

/-- FREEZE freezes a comparing pair (Table 9.10). -/
theorem test_lck_freeze :
    (after (.lckFreeze .mgt) ((grow.setFlag RNG_LCK_CTL_EN true).setFld RNG_LCK_STAT_STATE 2)).lckState = 3 := by decide +kernel

/-- A burn order without its magic ends with code 0x01 (Table 12.4). -/
theorem test_burn_magic : (after (.burnOrder .mgt) grow).fld SEC_STAT_RESULT = 1 := by decide +kernel

/-! Witnesses: for each clause of a statement, a state and operands that meet its hypotheses -/

theorem witness_StepRunsTheFrontCommand :
    ∃ (c : Instr) (rest : List Instr) (s : State), s.pending = c :: rest :=
  ⟨.tickLoss, [.dramRefresh 0 0 0], { grow with pending := [.tickLoss, .dramRefresh 0 0 0] }, by decide⟩

theorem witness_IdleStepPassesOneNanosecond :
    ∃ (s : State), s.pending = [] :=
  ⟨grow, by decide⟩

theorem witness_EveryCommandAnswersAndLeavesTheQueue :
    ∃ (c : Instr) (s : State) (t : State), exec c s = .next t :=
  ⟨.dramInitDone, State.reset, State.reset, rfl⟩

theorem witness_CommandsKeepTheOtherAreas :
    ∃ (c : Instr) (s : State) (t : State), exec c s = .next t :=
  ⟨.dramInitDone, State.reset, State.reset, rfl⟩

theorem witness_EveryStepKeepsTheInvariant :
    ∃ (s : State) (t : State), s.Inv ∧ step s = .next t :=
  ⟨{ State.reset with pending := [.dramInitDone] }, State.reset, by decide, rfl⟩

theorem witness_EveryStepKeepsWhatIsBurned :
    ∃ (s : State) (t : State), s.fusesOk ∧ step s = .next t :=
  ⟨{ State.reset with pending := [.dramInitDone] }, State.reset, by decide, rfl⟩

theorem witness_MainRailsStartAColdWaking :
    ∃ (temps : Vector Int 18) (s : State), s.mod.st = .off ∧
      (s.mod.criticalOff = false ∨ ({ s with pwr := { s.pwr with temps := temps } } : State).allCool = true) :=
  ⟨(Vector.replicate 18 400), State.reset, by decide, by decide⟩

theorem witness_LosingTheRailsGoesOff :
    (∃ (s : State), s.mod.st ≠ .off) ∧
    (∃ (s : State), s.mod.st ≠ .off) ∧
    (∃ (s : State), s.mod.st ≠ .off ∧ s.mod.st ≠ .fallow) ∧
    (∃ (s : State), s.mod.st = .fallow) ∧
    (∃ (k : Fin 18) (temp : Int) (s : State), s.mod.st ≠ .off ∧ k.val < 16 ∧ 115 * 16 ≤ temp) :=
  ⟨⟨grow, by decide⟩,
   ⟨grow, by decide⟩,
   ⟨grow, by decide, by decide⟩,
   ⟨(modIn .fallow), by decide⟩,
   ⟨15, 1840, grow, by decide, by decide, by decide⟩⟩

theorem witness_ColdWakingSteps :
    (∃ (s : State), s.coldWaking = true ∧ s.mod.dramDone = false) ∧
    (∃ (s : State), s.coldWaking = true ∧ s.mod.dirRead = false) ∧
    (∃ (s : State), s.coldWaking = true ∧ s.mod.dirRead = true ∧ s.mod.fwOk = false) :=
  ⟨⟨{ waking with mod := { waking.mod with dramDone := false } }, by decide, by decide⟩,
   ⟨{ waking with mod := { waking.mod with dirRead := false } }, by decide, by decide⟩,
   ⟨{ waking with mod := { waking.mod with fwOk := false }, flash := blankDirectory }, by decide, by decide, by decide⟩⟩

theorem witness_ImageLoadEndsTheWaking :
    ∃ (s : State), s.imageMayLoad = true :=
  ⟨(decUp waking), by decide⟩

theorem witness_WarmResetAndWaking :
    (∃ (s : State), (s.mod.st = .sown ∨ s.mod.st = .unplanted ∨ s.mod.st = .growing ∨ s.mod.st = .halted) ∧ s.mod.entry = none ∧
      s.burning = false) ∧
    (∃ (s : State), (s.mod.st = .off ∨ s.mod.st = .waking)) ∧
    (∃ (s : State), s.mod.rstHeld = false) ∧
    (∃ (s : State), s.mod.rstHeld = true ∧ s.mod.copyDigest ≠ []) ∧
    (∃ (p : Path) (s : State), s.opens p TOP_CTL ∧ s.mod.entry = none ∧ (s.mod.st = .sown ∨ s.mod.st = .unplanted) ∧ s.burning = false ∧
      s.mod.copyDigest ≠ []) ∧
    (∃ (p : Path) (s : State), s.opens p TOP_CTL ∧ s.mod.entry = none ∧ s.mod.st = .growing) ∧
    (∃ (p : Path) (s : State), s.opens p TOP_CTL ∧ s.mod.entry = none ∧ s.mod.st = .halted) ∧
    (∃ (s : State), (s.mod.draining = true ∨ s.mod.resetWaits = true) ∧ s.mod.st.serving = true ∧ s.drained = true ∧
      s.mod.copyDigest ≠ []) ∧
    (∃ (fwBad : Bool) (imgBad : Bool) (s : State), s.warmMayEnd fwBad imgBad = true ∧ (fwBad = true ∨ imgBad = true ∧
      s.prog.copying = false)) ∧
    (∃ (s : State), s.warmMayEnd false false = true ∧ s.prog.image ≠ none) :=
  ⟨⟨grow, by decide, by decide, by decide⟩,
   ⟨waking, by decide⟩,
   ⟨grow, by decide⟩,
   ⟨{ waking with mod := { waking.mod with warm := true, rstHeld := true } }, by decide, by decide⟩,
   ⟨.mgt, (modIn .sown), by decide, by decide, by decide, by decide, by decide⟩,
   ⟨.mgt, grow, by decide, by decide, by decide⟩,
   ⟨.mgt, (modIn .halted), by decide, by decide, by decide⟩,
   ⟨{ grow with mod := { grow.mod with draining := true } }, by decide, by decide, by decide, by decide⟩,
   ⟨true, false, { waking with mod := { waking.mod with warm := true } }, by decide, by decide⟩,
   ⟨{ decUp waking with mod := { waking.mod with warm := true } }, by decide, by decide⟩⟩

theorem witness_SensorsAndMonitorsReport :
    (∃ (k : Fin 18) (temp : Int) (s : State), s.mod.st ≠ .off ∧ temp < tripLevel k) ∧
    (∃ (k : Fin 18) (temp : Int) (s : State), s.mod.st ≠ .off ∧ k.val < 16 ∧ s.warnLevel ≤ temp) ∧
    (∃ (d : Fin 2) (temp : Int) (s : State), s.mod.st ≠ .off) ∧
    (∃ (m : BitVec 16) (v : BitVec 16) (i : BitVec 16) (b : BitVec 16) (s : State), s.mod.st ≠ .off) ∧
    (∃ (s : State), s.flag PWR_STAT_THROTTLE = true ∧ s.flag PWR_STAT_OVER = true ∧ 100 ≤ s.pwr.throttleMs ∧ s.pwr.alarmed = false) ∧
    (∃ (s : State), s.mod.st ≠ .off) ∧
    (∃ (d : Fin 60) (s : State), s.mod.st ≠ .off ∧ fromPll d.val = true) :=
  ⟨⟨17, 1519, grow, by decide, by decide⟩,
   ⟨15, 1600, grow, by decide, by decide, by decide⟩,
   ⟨1, 1360, grow, by decide⟩,
   ⟨500, 700, 900, 1000, grow, by decide⟩,
   ⟨{ (grow.setFlag PWR_STAT_THROTTLE true).setFlag PWR_STAT_OVER true with pwr := { grow.pwr with throttleMs := 100 } }, by decide,
    by decide, by decide, by decide⟩,
   ⟨grow, by decide⟩,
   ⟨1, grow, by decide, by decide⟩⟩

theorem witness_ThermalTripStopsTheModule :
    (∃ (k : Fin 18) (temp : Int) (s : State), s.mod.st = .growing ∧ s.mod.entry = none ∧ tripLevel k ≤ temp ∧
      s.flag THM_STAT_TRIPPED = false) ∧
    (∃ (k : Fin 18) (temp : Int) (s : State), (s.mod.st = .sown ∨ s.mod.st = .unplanted ∨ s.mod.st = .fallow) ∧ s.mod.entry = none ∧
      tripLevel k ≤ temp) ∧
    (∃ (s : State), s.flag THM_STAT_TRIPPED = true ∧ s.mod.st = .halted ∧ s.verdictsDue = false) :=
  ⟨⟨0, 1680, grow, by decide, by decide, by decide, by decide⟩,
   ⟨16, 1520, (modIn .sown), by decide, by decide, by decide⟩,
   ⟨((modIn .halted).setFlag THM_STAT_TRIPPED true), by decide, by decide, by decide⟩⟩

theorem witness_WatchdogHaltsTheModule :
    ∃ (s : State), s.mod.fwOk = true ∧ (s.mod.st = .growing ∨ s.mod.st = .sown ∨ s.mod.st = .unplanted) ∧ s.mod.entry = none :=
  ⟨grow, by decide, by decide, by decide⟩

theorem witness_FallowIsEnteredOrAbandoned :
    (∃ (s : State), s.mayFallow = true ∧ s.idleHeld = false ∧ s.idleExpired = true ∧ s.fallowBlocked = false) ∧
    (∃ (s : State), s.mayFallow = true ∧ s.idleHeld = false ∧ s.idleExpired = true ∧ s.fallowBlocked = true) ∧
    (∃ (p : Path) (s : State), s.opens p PWR_CTL ∧ s.mayFallow = true ∧ s.idleHeld = false) ∧
    (∃ (s : State), s.mod.entry = some ⟨false, none, false⟩) ∧
    (∃ (k : Fin 6) (s : State), k.val < 4 ∧ s.mod.entry = some ⟨true, none, false⟩) ∧
    (∃ (k : Fin 6) (c : Nat) (s : State), k.val < 4 ∧ s.mod.entry = some ⟨false, some c, false⟩ ∧ s.mod.st = .growing) :=
  ⟨⟨{ grow with mod := { grow.mod with expiryWaits := true } }, by decide, by decide, by decide, by decide⟩,
   ⟨{ grow with mod := { grow.mod with expiryWaits := true }, prog := { grow.prog with sow := some ⟨true, 0, []⟩ } }, by decide, by decide,
    by decide, by decide⟩,
   ⟨.mgt, grow, by decide, by decide, by decide⟩,
   ⟨{ grow with mod := { grow.mod with entry := some ⟨false, none, false⟩ } }, by decide⟩,
   ⟨3, { grow with mod := { grow.mod with entry := some ⟨true, none, false⟩ } }, by decide, by decide⟩,
   ⟨0, 4, { grow with mod := { grow.mod with entry := some ⟨false, some 4, false⟩ } }, by decide, by decide, by decide⟩⟩

theorem witness_FallowIsLeft :
    (∃ (bs : List Byte) (n : Nat) (s : State), s.mod.st = .fallow ∧ s.mod.wakeSrc = none ∧ s.mod.mgtHeld = none) ∧
    (∃ (bs : List Byte) (n : Nat) (s : State), s.mod.st = .off ∧ s.mod.vstby = true) ∧
    (∃ (bs : List Byte) (n : Nat) (e : FallowEntry) (s : State), s.mod.st = .growing ∧ s.mod.entry = some e) ∧
    (∃ (l : Fin 8) (s : State), s.flag PWR_CTL_WAKE_HOST_EN = true ∧ s.mod.st = .fallow ∧ s.mod.wakeSrc = none) ∧
    (∃ (l : Fin 8) (s : State), s.flag PWR_CTL_WAKE_HOST_EN = false) ∧
    (∃ (src : WakeSrc) (c : U64) (s : State), s.mod.st = .fallow ∧ s.mod.wakeSrc = some (src, c) ∧ s.mod.rstWaits = false ∧
      s.mod.mgtHeld = none) :=
  ⟨⟨[], 0, (modIn .fallow), by decide, by decide, by decide⟩,
   ⟨[], 0, State.reset, by decide, by decide⟩,
   ⟨[], 0, ⟨false, none, false⟩, { grow with mod := { grow.mod with entry := some ⟨false, none, false⟩ } }, by decide, by decide⟩,
   ⟨7, ((modIn .fallow).setFlag PWR_CTL_WAKE_HOST_EN true), by decide, by decide, by decide⟩,
   ⟨0, ((modIn .fallow).setFlag PWR_CTL_WAKE_HOST_EN false), by decide⟩,
   ⟨.management, 100, { modIn .fallow with mod := { (modIn .fallow).mod with wakeSrc := some (.management, 100), left := .growing } },
    by decide, by decide, by decide, by decide⟩⟩

theorem witness_TicksAndPresetsMoveTheCount :
    (∃ (ps : Nat) (sync : Bool) (s : State), s.mod.st ≠ .off ∧ s.sameTick ps = false) ∧
    (∃ (ps : Nat) (sync : Bool) (s : State), s.mod.st ≠ .off ∧ s.sameTick ps = true) ∧
    (∃ (s : State), s.mod.st ≠ .off ∧ s.hz.loss = true ∧ s.tickPs ≠ 0) ∧
    (∃ (temps : Vector Int 18) (s : State), s.mod.st = .off ∧
      (s.mod.criticalOff = false ∨ ({ s with pwr := { s.pwr with temps := temps } } : State).allCool = true)) ∧
    (∃ (ps : Nat) (sync : Bool) (s : State), s.mod.st = .off) ∧
    (∃ (c : Instr) (s : State) (t : State), exec c s = .next t ∧ .hz ∉ commandAreas c) ∧
    (∃ (p : Path) (s : State), s.opens p HZN_CTL ∧ s.mod.st ≠ .growing ∧ lowZero 16 (s.reg64 HZN_PRESET_LO) = true) ∧
    (∃ (p : Path) (s : State), s.opens p HZN_CTL ∧ (s.mod.st = .growing ∨ lowZero 16 (s.reg64 HZN_PRESET_LO) = false)) ∧
    (∃ (s : State), s.hz.due = true ∧ s.mod.st ≠ .growing) :=
  ⟨⟨1500000, false, { grow.setReg HZN_TICK_PERIOD 1000000 with hz := { grow.hz with loss := true, flyTicks := 1 } }, by decide, by decide⟩,
   ⟨1499999, false, { grow.setReg HZN_TICK_PERIOD 1000000 with hz := { grow.hz with loss := true, flyTicks := 1 } }, by decide, by decide⟩,
   ⟨{ grow.setReg HZN_TICK_PERIOD 1000000 with hz := { grow.hz with loss := true, flyTicks := 1 } }, by decide, by decide, by decide⟩,
   ⟨(Vector.replicate 18 400), State.reset, by decide, by decide⟩,
   ⟨0, true, State.reset, by decide⟩,
   ⟨.siltColumnRepairDone 0 0, State.reset, State.reset, rfl, by decide⟩,
   ⟨.mgt, bare, by decide, by decide, by decide⟩,
   ⟨.mgt, grow, by decide, by decide⟩,
   ⟨{ bare with hz := { bare.hz with armed := true, due := true } }, by decide, by decide⟩⟩

theorem witness_TickLossHoldsAcceptance :
    (∃ (s : State), s.mod.st = .growing ∧ s.hz.loss = false ∧ s.tickPs ≠ 0) ∧
    (∃ (s : State), s.mod.st ≠ .off ∧ s.hz.loss = false ∧ s.tickPs = 0) ∧
    (∃ (s : State), s.mayResume = true) ∧
    (∃ (ps : Nat) (s : State), s.mod.st ≠ .off ∧ s.tickPs ≠ 0 ∧ near ps s.tickPs = true) ∧
    (∃ (ps : Nat) (s : State), s.mod.st ≠ .off ∧ s.tickPs ≠ 0 ∧ near ps s.tickPs = false) :=
  ⟨⟨(grow.setReg HZN_TICK_PERIOD 1000000), by decide, by decide, by decide⟩,
   ⟨bare, by decide, by decide, by decide⟩,
   ⟨{ grow with hz := { grow.hz with lossHold := true, returning := true, steady := true } }, by decide⟩,
   ⟨1001000, (grow.setReg HZN_TICK_PERIOD 1000000), by decide, by decide, by decide⟩,
   ⟨1001001, (grow.setReg HZN_TICK_PERIOD 1000000), by decide, by decide, by decide⟩⟩

theorem witness_LaunchEntersGrowing :
    (∃ (s : State), s.flag HZN_STAT_LAUNCH_PEND = true ∧ s.aug.running = true ∧ s.hz.due = false ∧ s.count = s.hz.launchAt ∧
      s.launchCode = 0) ∧
    (∃ (s : State), s.flag HZN_STAT_LAUNCH_PEND = true ∧ s.aug.running = true ∧ s.hz.due = false ∧ s.count = s.hz.launchAt ∧
      s.launchCode ≠ 0) :=
  ⟨⟨{ (modIn .sown).setFlag HZN_STAT_LAUNCH_PEND true with hz := { grow.hz with launchAt := 2048 } }, by decide, by decide, by decide,
    by decide, by decide⟩,
   ⟨{ ((modIn .sown).setFlag HZN_STAT_LAUNCH_PEND true).setFlag HZN_STAT_FLYWHEEL true with hz := { grow.hz with launchAt := 2048 } },
    by decide, by decide, by decide, by decide, by decide⟩⟩

theorem witness_LanesTrainStepAndVerify :
    (∃ (l : Fin 80) (tr : Training) (s : State), 48 ≤ l.val ∧ s.laneState l = 2 ∧ (s.lanes[l] : Lane).peer = some tr ∧
      (s.lanes[l] : Lane).frozen = none) ∧
    (∃ (l : Fin 80) (s : State), 48 ≤ l.val ∧ s.laneState l = 2) ∧
    (∃ (l : Fin 80) (s : State), 56 ≤ l.val ∧ s.laneState l = 3 ∧ s.laneRate l < 4) ∧
    (∃ (l : Fin 80) (locked : Bool) (s : State), laneLink l = 1 ∧ s.laneState l = 3) ∧
    (∃ (l : Fin 80) (s : State), l.val < 48 ∧ s.laneState l = 3) ∧
    (∃ (l : Fin 80) (s : State), laneLink l = 1 ∧ s.laneState l = 4) ∧
    (∃ (l : Fin 80) (s : State), l.val < 48 ∧ s.laneState l = 4 ∧ (s.lanes[l] : Lane).verifyBad = false) ∧
    (∃ (l : Fin 80) (s : State), l.val < 48 ∧ s.laneState l = 4 ∧ (s.lanes[l] : Lane).verifyBad = true) ∧
    (∃ (l : Fin 80) (s : State), 56 ≤ l.val ∧ s.laneState l = 4 ∧ (s.lanes[l] : Lane).verifyBad = false ∧
      s.laneRate l < (s.lanes[l] : Lane).target) :=
  ⟨⟨48, peer0, (withLane 48 (fun x => { x with peer := some peer0 }) (laneIn 48 2 grow)), by decide, by decide, by decide, by decide⟩,
   ⟨79, (laneIn 79 2 grow), by decide, by decide⟩,
   ⟨56, (laneIn 56 3 grow), by decide, by decide, by decide⟩,
   ⟨48, true, (laneIn 48 3 grow), by decide, by decide⟩,
   ⟨47, (laneIn 47 3 grow), by decide, by decide⟩,
   ⟨55, (laneIn 55 4 grow), by decide, by decide⟩,
   ⟨0, (laneIn 0 4 grow), by decide, by decide, by decide⟩,
   ⟨0, (withLane 0 (fun x => { x with verifyBad := true }) (laneIn 0 4 grow)), by decide, by decide, by decide⟩,
   ⟨56, (withLane 56 (fun x => { x with target := 2 }) (laneIn 56 4 grow)), by decide, by decide, by decide, by decide⟩⟩

theorem witness_LanesStartAgainAndAreTested :
    (∃ (l : Fin 80) (s : State), laneLink l ≠ 1 ∧ s.laneState l = 5 ∧ s.laneLock l = false ∧ (s.lanes[l] : Lane).brought = true) ∧
    (∃ (l : Fin 80) (s : State), (laneLink l = 1 ∨ s.laneState l ≠ 5 ∨ s.laneLock l = true)) ∧
    (∃ (p : Path) (l : Fin 80) (s : State), s.opens p (LNK_CTL + lnkOff l) ∧ s.flag (LNK_CTL_ENABLE.on (lnkOff l)) = true ∧
      s.laneRetired l = false) ∧
    (∃ (p : Path) (l : Fin 80) (s : State), s.opens p (LNK_CTL + lnkOff l) ∧ s.mod.st ≠ .growing ∧ s.laneState l ≠ 0 ∧ s.laneState l ≠ 6) ∧
    (∃ (p : Path) (l : Fin 80) (s : State), s.opens p (LNK_CTL + lnkOff l) ∧ s.mod.st = .growing) ∧
    (∃ (l : Fin 80) (n : Nat) (st : Nat) (s : State), (s.lanes[l] : Lane).tested = some st ∧ (l.val < 72 ∨ st ≠ 5) ∧ st < 16) ∧
    (∃ (p : Path) (v : Word) (l : Fin 80) (s : State), s.opens p LNK_EYE_CTL ∧ (s.reg LNK_EYE_SEL).toNat % 128 = l.val ∧
      v.getLsbD 31 = true ∧ s.laneState l = 5 ∧ laneLink l ≠ 1 ∧ s.flag LNK_EYE_STAT_BUSY = false) ∧
    (∃ (errors : Word) (bits : U64) (s : State), s.flag LNK_EYE_STAT_BUSY = true) ∧
    (∃ (l : Fin 80) (s : State), s.laneState l = 5 ∧ s.flag (LNK_EQ_AUTO.on (lnkOff l)) = false ∧
      1024 ≤ (s.lanes[l] : Lane).blocksToPeak ∧ s.fld (LNK_EQ_PEAK_USED.on (lnkOff l)) ≠ s.fld (LNK_EQ_PEAK.on (lnkOff l))) :=
  ⟨⟨0, (withLane 0 (fun x => { x with brought := true }) (laneIn 0 5 grow)), by decide, by decide, by decide, by decide⟩,
   ⟨48, grow, by decide⟩,
   ⟨.mgt, 47, (grow.setFlag (LNK_CTL_ENABLE.on (lnkOff 47)) true), by decide, by decide, by decide⟩,
   ⟨.mgt, 79, (laneIn 79 5 bare), by decide, by decide, by decide, by decide⟩,
   ⟨.mgt, 0, grow, by decide, by decide⟩,
   ⟨0, 3, 5, (withLane 0 (fun x => { x with tested := some 5 }) (laneIn 0 6 bare)), by decide, by decide, by decide⟩,
   ⟨.mgt, 0x80000000, 47, ((laneIn 47 5 bare).setReg LNK_EYE_SEL 47), by decide, by decide, by decide, by decide, by decide, by decide⟩,
   ⟨5, 100, ((bare.setReg LNK_EYE_SEL 47).setFlag LNK_EYE_STAT_BUSY true), by decide⟩,
   ⟨0,
    (withLane 0 (fun x => { x with blocksToPeak := 1024 }) (((laneIn 0 5 bare).setFlag (LNK_EQ_AUTO.on (lnkOff 0)) false).setFld (LNK_EQ_PEAK.on (lnkOff 0)) 3)),
    by decide, by decide, by decide, by decide⟩⟩

theorem witness_BlocksAreReceived :
    (∃ (l : Fin 80) (line : BitVec 1032) (s : State), s.receives l = true ∧ s.laneLock l = false ∧ (s.lanes[l] : Lane).goodRun = 63 ∧
      (receiveBlock (s.lanes[l] : Lane).rx (s.flag (LNK_STAT_INVERTED.on (lnkOff l))) line).headerBad = false) ∧
    (∃ (l : Fin 80) (line : BitVec 1032) (s : State), s.receives l = true ∧ 48 ≤ l.val ∧ s.laneLock l = true ∧
      (s.lanes[l] : Lane).eyeOn = false ∧
      (receiveBlock (s.lanes[l] : Lane).rx (s.flag (LNK_STAT_INVERTED.on (lnkOff l))) line).headerBad = true ∧
      15 ≤ (((s.lanes[l] : Lane).heads.take 63).filter (fun g => !g)).length) ∧
    (∃ (l : Fin 80) (line : BitVec 1032) (s : State), s.receives l = true ∧ 48 ≤ l.val ∧ s.laneLock l = true ∧
      (receiveBlock (s.lanes[l] : Lane).rx (s.flag (LNK_STAT_INVERTED.on (lnkOff l))) line).failed = false ∧
      (receiveBlock (s.lanes[l] : Lane).rx (s.flag (LNK_STAT_INVERTED.on (lnkOff l))) line).kind = 0 ∧
      (((s.lanes[l] : Lane).heads.take 63).filter (fun g => !g)).length < 16) ∧
    (∃ (l : Fin 80) (line : BitVec 1032) (s : State), s.receives l = true ∧ s.laneLock l = false) ∧
    (∃ (l : Fin 80) (line : BitVec 1032) (s : State), s.receives l = false) :=
  ⟨⟨0, (lineWord (sendBlock ⟨false, 0⟩ 0 (zeroBytes 127)).line), (withLane 0 (fun x => { x with goodRun := 63 }) (laneIn 0 1 bare)),
    by decide, by decide, by decide, by decide +kernel⟩,
   ⟨56, 0,
    (withLane 56 (fun x => { x with heads := List.replicate 15 false }) ((laneIn 56 5 bare).setFlag (LNK_STAT_LOCK.on (lnkOff 56)) true)),
    by decide, by decide, by decide, by decide, by decide +kernel, by decide⟩,
   ⟨79, (lineWord (sendBlock ⟨false, 0⟩ 0 (zeroBytes 127)).line), ((laneIn 79 5 bare).setFlag (LNK_STAT_LOCK.on (lnkOff 79)) true),
    by decide, by decide, by decide, by decide +kernel, by decide +kernel, by decide⟩,
   ⟨0, 0, (withLane 0 (fun x => { x with goodRun := 3 }) (laneIn 0 1 bare)), by decide, by decide⟩,
   ⟨48, 0, bare, by decide⟩⟩

theorem witness_BlocksAreSent :
    (∃ (l : Fin 80) (s : State), laneLink l ≠ 0 ∧ s.mod.st ≠ .off ∧ s.mod.st ≠ .fallow ∧ s.laneState l ≠ 0) ∧
    (∃ (l : Fin 80) (s : State), laneLink l ≠ 0 ∧ s.mod.st ≠ .off ∧ s.mod.st ≠ .fallow ∧ s.laneState l = 3 ∧ s.txIdle l = false) ∧
    (∃ (l : Fin 80) (s : State), laneLink l ≠ 0 ∧ s.mod.st ≠ .off ∧ s.mod.st ≠ .fallow ∧ 6 ≤ s.laneState l ∧ s.txIdle l = false) ∧
    (∃ (l : Fin 80) (s : State), (laneLink l = 0 ∨ s.mod.st = .off ∨ s.laneState l = 0)) :=
  ⟨⟨48, (laneIn 48 5 bare), by decide, by decide, by decide, by decide⟩,
   ⟨56, (laneIn 56 3 bare), by decide, by decide, by decide, by decide, by decide⟩,
   ⟨72, (laneIn 72 6 bare), by decide, by decide, by decide, by decide, by decide⟩,
   ⟨47, bare, by decide⟩⟩

theorem witness_DecisionLanesMoveToTheirSpare :
    (∃ (a : Nat) (b : Nat) (s : State), b < 8 ∧ s.atBoundary = true ∧ s.dec.moveDue = [(a, b)]) ∧
    (∃ (s : State), s.atBoundary = false) :=
  ⟨⟨0, 7, { grow with dec := { grow.dec with moveDue := [(0, 7)] } }, by decide, by decide, by decide⟩,
   ⟨{ grow with hz := { grow.hz with count := 2049 } }, by decide⟩⟩

theorem witness_UnboundAndRefusedFramesAreCounted :
    (∃ (l : Fin 48) (w : Word) (st : BitVec 24) (pl : List Byte) (bad : Bool) (br : Bool) (ps : Nat) (i : Nat) (s : State),
      s.streamOn l = true ∧ s.boundPlace w (extendStamp s.count.toNat st.toNat) = none ∧
      s.stm.quar.find? (fun e => e.2.sender == w) = none ∧ i < 256 ∧ mapFind s.stm.quar i = none) ∧
    (∃ (l : Fin 48) (w : Word) (st : BitVec 24) (pl : List Byte) (bad : Bool) (br : Bool) (ps : Nat) (i : Nat) (q : Quar) (s : State),
      s.streamOn l = true ∧ s.boundPlace w (extendStamp s.count.toNat st.toNat) = none ∧
      s.stm.quar.find? (fun e => e.2.sender == w) = some (i, q)) ∧
    (∃ (l : Fin 48) (w : Word) (st : BitVec 24) (pl : List Byte) (bad : Bool) (br : Bool) (ps : Nat) (s : State), s.streamOn l = true ∧
      s.boundPlace w (extendStamp s.count.toNat st.toNat) = none ∧ s.stm.quar.find? (fun e => e.2.sender == w) = none ∧ (∀ i,
      i < 256 → (mapFind s.stm.quar i).isSome = true)) ∧
    (∃ (l : Fin 48) (w : Word) (st : BitVec 24) (pl : List Byte) (bad : Bool) (br : Bool) (ps : Nat) (place : Nat) (s : State),
      s.streamOn l = true ∧ s.boundPlace w (extendStamp s.count.toNat st.toNat) = some place ∧ s.mod.st ≠ .growing) :=
  ⟨⟨0, 1, 2050, [1, 2, 3, 4, 5, 6, 7, 8], false, false, 0, 255, ((laneIn 0 5 grow).setFlag (LNK_CTL_ENABLE.on (lnkOff 0)) true), by decide,
    by decide, by decide, by decide, by decide⟩,
   ⟨0, 1, 2050, [1, 2, 3, 4, 5, 6, 7, 8], false, false, 0, 3, ⟨1, 5, false, true, 7, 65535⟩,
    { ((laneIn 0 5 bare).setFlag (LNK_CTL_ENABLE.on (lnkOff 0)) true) with stm := { grow.stm with quar := [(3, ⟨1, 5, false, true, 7, 65535⟩)] } },
    by decide, by decide, by decide⟩,
   ⟨0, 1, 2050, [1, 2, 3, 4, 5, 6, 7, 8], true, false, 0,
    { ((laneIn 0 5 grow).setFlag (LNK_CTL_ENABLE.on (lnkOff 0)) true) with stm := { grow.stm with quar := (List.range 256).map (fun i => (i, ⟨2, 5, false, true, 7, 1⟩)) } },
    by decide +kernel, by decide +kernel, by decide +kernel, by decide +kernel⟩,
   ⟨0, 1, 2050, [1, 2, 3, 4, 5, 6, 7, 8], false, true, 0, 0,
    (bound ((laneIn 0 5 (modIn .sown)).setFlag (LNK_CTL_ENABLE.on (lnkOff 0)) true)), by decide, by decide, by decide⟩⟩

theorem witness_FrameItemsAreJudged :
    (∃ (l : Fin 48) (w : Word) (st : BitVec 24) (pl : List Byte) (bad : Bool) (br : Bool) (ps : Nat) (place : Nat) (h : Nat) (p : PhaseProg) (s : State),
      s.streamOn l = true ∧ h = extendStamp s.count.toNat st.toNat ∧ s.boundPlace w h = some place ∧ s.mod.st = .growing ∧
      s.phaseAt h = some p ∧ (br = false ∨ s.homeDie h place = laneDie l)) ∧
    (∃ (l : Fin 48) (w : Word) (st : BitVec 24) (pl : List Byte) (bad : Bool) (ps : Nat) (place : Nat) (h : Nat) (p : PhaseProg) (s : State),
      s.streamOn l = true ∧ h = extendStamp s.count.toNat st.toNat ∧ s.boundPlace w h = some place ∧ s.mod.st = .growing ∧
      s.phaseAt h = some p ∧ s.homeDie h place ≠ laneDie l) :=
  ⟨⟨0, 1, 2050, [1, 2, 3, 4, 5, 6, 7, 8], false, true, 0, 0, 2050, phaseA,
    (bound ((laneIn 0 5 grow).setFlag (LNK_CTL_ENABLE.on (lnkOff 0)) true)), by decide, by decide, by decide, by decide, by decide,
    by decide⟩,
   ⟨24, 1, 2050, [1, 2, 3, 4, 5, 6, 7, 8], false, 0, 0, 2050, phaseA,
    (bound ((laneIn 24 5 grow).setFlag (LNK_CTL_ENABLE.on (lnkOff 24)) true)), by decide, by decide, by decide, by decide, by decide,
    by decide⟩⟩

theorem witness_SummaryItemsFillSlabs :
    (∃ (l : Fin 48) (w : Word) (st : BitVec 24) (body : List Byte) (bad : Bool) (ps : Nat) (i : Nat) (s : State), s.streamOn l = true ∧
      (∀ tick, (s.tableAt tick).any (fun e => e.2.summaries && e.2.sender == w && w.toNat % 256 != 0) = false) ∧
      s.stm.quar.find? (fun e => e.2.sender == w) = none ∧ i < 256 ∧ mapFind s.stm.quar i = none) ∧
    (∃ (l : Fin 48) (w : Word) (st : BitVec 24) (body : List Byte) (ps : Nat) (s : State), s.streamOn l = true ∧ (∀ tick,
      (s.tableAt tick).any (fun e => e.2.summaries && e.2.sender == w && w.toNat % 256 != 0) = true)) ∧
    (∃ (l : Fin 48) (w : Word) (st : BitVec 24) (body : List Byte) (ps : Nat) (grp : Nat) (i : Nat) (period : Nat) (e : Fin 2) (g : ChanGroup) (s : State),
      s.streamOn l = true ∧ leAt body 4 2 = 1 ∧ leAt body 6 1 = g.decl.width ∧ 8 + g.decl.width ≤ body.length ∧
      s.channel? (leAt body 0 4 % 2 ^ 20) = some (e, grp, i) ∧ mapFind (s.eng[e] : Engine).groups grp = some g ∧
      period = extendStamp (s.count.toNat / max g.decl.slowTicks 1) st.toNat ∧
      (s.tableAt ((period + 1) * g.decl.slowTicks)).any (fun e => e.2.summaries && e.2.sender == w && w.toNat % 256 != 0) = true ∧
      (s.eng[e] : Engine).running = true ∧ s.count.toNat < (period + 1) * g.decl.slowTicks + g.decl.slowDeadline ∧
      mapFind g.slabs period = none ∧ mapFind g.openBufs period = none) :=
  ⟨⟨0, 1, 127, [5, 0, 0, 0, 1, 0, 2, 0, 9, 1, 0, 0, 0, 0, 0, 0], false, 0, 255,
    ((laneIn 0 5 grow).setFlag (LNK_CTL_ENABLE.on (lnkOff 0)) true), by decide, fun _ => rfl, by decide, by decide, by decide⟩,
   ⟨0, 1, 128, [5, 0, 0, 0, 1, 0, 2, 0, 9, 1, 0, 0, 0, 0, 0, 0], 0,
    { ((laneIn 0 5 grow).setFlag (LNK_CTL_ENABLE.on (lnkOff 0)) true) with stm := { grow.stm with active := [(0, ⟨1, 0x4000⟩)] } },
    by decide, fun _ => rfl⟩,
   ⟨0, 1, 128, [5, 0, 0, 0, 1, 0, 2, 0, 9, 1, 0, 0, 0, 0, 0, 0], 0, 0, 0, 128, 0,
    { decl := group0, start := 0, slabs := [], openBufs := [], lost := [], givenUp := [], newest := 0 },
    { ((laneIn 0 5 grow).setFlag (LNK_CTL_ENABLE.on (lnkOff 0)) true) with stm := { grow.stm with active := [(0, ⟨1, 0x4000⟩)] } },
    by decide, by decide, by decide, by decide, by decide, by decide, by decide, by decide, by decide, by decide, by decide, by decide⟩⟩

theorem witness_BindingTablesAreStagedAndTakeEffect :
    (∃ (p : Path) (s : State), s.opens p STM_BIND_CMD) ∧
    (∃ (p : Path) (s : State), s.opens p STM_BIND_CMD) ∧
    (∃ (p : Path) (s : State), s.opens p STM_BIND_CMD) ∧
    (∃ (p : Path) (s : State), s.opens p STM_BIND_CMD) ∧
    (∃ (p : Path) (s : State), s.opens p STM_BIND_CMD ∧ s.mod.st = .growing) ∧
    (∃ (p : Path) (s : State), s.opens p STM_BIND_CMD ∧ s.mod.st ≠ .growing) ∧
    (∃ (p : Path) (v : Word) (h : U64) (s : State), s.opens p STM_BIND_COMMIT_HI ∧
      h = BitVec.ofNat 64 (v.toNat * 2 ^ 32 + (s.reg STM_BIND_COMMIT_LO).toNat)) ∧
    (∃ (p : Path) (h : U64) (s : State), s.opens p STM_BIND_CMD ∧ s.stm.armed = some h) ∧
    (∃ (h : U64) (s : State), s.stm.armed = some h ∧ h.toNat ≤ s.count.toNat ∧ s.reshardFirst h = false) ∧
    (∃ (p : Path) (s : State), s.opens p STM_QUAR_CMD) ∧
    (∃ (p : Path) (s : State), s.opens p STM_QUAR_CMD) :=
  ⟨⟨.mgt, (bound grow), by decide⟩,
   ⟨.mgt, (bound grow), by decide⟩,
   ⟨.mgt, (bound grow), by decide⟩,
   ⟨.mgt, (bound grow), by decide⟩,
   ⟨.mgt, grow, by decide, by decide⟩,
   ⟨.mgt, bare, by decide, by decide⟩,
   ⟨.mgt, 0, 0x1000, (grow.setReg STM_BIND_COMMIT_LO 0x1000), by decide, by decide⟩,
   ⟨.mgt, 4096, { grow with stm := { grow.stm with armed := some 4096 } }, by decide, by decide⟩,
   ⟨2048, { grow with stm := { grow.stm with armed := some 2048 } }, by decide, by decide, by decide⟩,
   ⟨.mgt, { grow with stm := { grow.stm with quar := [(0, ⟨1, 0, true, false, 5, 1⟩)] } }, by decide⟩,
   ⟨.mgt, { grow with stm := { grow.stm with quar := [(0, ⟨1, 0, true, false, 5, 1⟩)] } }, by decide⟩⟩

theorem witness_FramesEnterTheirBed :
    (∃ (bed : Fin 4) (slot : Fin 64) (hzn : U64) (p : PhaseProg) (q : SlotProg) (s : State), s.mod.st = .growing ∧
      (s.progAt hzn.toNat).phase? = some p ∧ p.slot? bed slot = some q ∧ s.tickOpen hzn = true ∧ hzn.toNat ≤ s.count.toNat ∧
      s.diesAble ((s.progAt hzn.toNat).beds bed) = true ∧ s.boundAt (ringKey bed slot) hzn.toNat = true ∧ s.frame? bed slot hzn = none) ∧
    (∃ (bed : Fin 4) (slot : Fin 64) (hzn : U64) (errs : List UnitError) (s : State), s.mod.st ≠ .growing) :=
  ⟨⟨0, 0, 2048, phaseA, slot0, (bound grow), by decide, by decide, by decide, by decide, by decide, by decide, by decide, by decide⟩,
   ⟨3, 63, 0, [], bare, by decide⟩⟩

theorem witness_BedsGiveTheirVerdict :
    (∃ (bed : Fin 4) (slot : Fin 64) (hzn : U64) (errs : List UnitError) (f : Frame) (g : Frame) (p : PhaseProg) (u : State) (r : Released) (s : State),
      s.frame? bed slot hzn = some f ∧ s.phaseAt hzn.toNat = some p ∧ f.exited = false ∧ u = s.exitErrors p f errs ∧
      u.frame? bed slot hzn = some g ∧
      r = decide3 p g ((u.copyRuns p g).map Prod.snd) (!((u.copyRuns p g).flatMap (fun x => x.1.missing)).isEmpty)) ∧
    (∃ (bed : Fin 4) (slot : Fin 64) (hzn : U64) (errs : List UnitError) (s : State), s.frame? bed slot hzn = none) :=
  ⟨⟨0, 0, 2040, [], frame0, frame0, phaseA, _, _, (holding frame0 grow), by decide, by decide, by decide, rfl, by decide, rfl⟩,
   ⟨3, 63, 0, [], bare, by decide⟩⟩

theorem witness_VerdictsReachTheirLanes :
    (∃ (bed : Fin 4) (slot : Fin 64) (hzn : U64) (settled : Bool) (ui : List Nat) (f : Frame) (p : PhaseProg) (s : State),
      s.frame? bed slot hzn = some f ∧ s.phaseAt hzn.toNat = some p ∧
      (if settled then f.settledDone && f.hasSettled && !f.settledSent else f.exited && !f.quickSent) = true) ∧
    (∃ (bed : Fin 4) (slot : Fin 64) (hzn : U64) (settled : Bool) (ui : List Nat) (s : State), s.frame? bed slot hzn = none) :=
  ⟨⟨0, 0, 2040, false, [0], { frame0 with exited := true }, phaseA, (holding { frame0 with exited := true } grow), by decide, by decide,
    by decide⟩,
   ⟨3, 63, 0, true, [], bare, by decide⟩⟩

theorem witness_StreamRingsTakeTheirEntries :
    (∃ (bed : Fin 4) (slot : Fin 64) (hzn : U64) (f : Frame) (s : State), s.frame? bed slot hzn = some f ∧ f.exited = true ∧
      f.ringDone = false) ∧
    (∃ (bed : Fin 4) (slot : Fin 64) (hzn : U64) (p : PhaseProg) (s : State), s.frame? bed slot hzn = none ∧ s.mod.st = .growing ∧
      (s.progAt hzn.toNat).phase? = some p ∧ (p.slot? bed slot).isSome = true ∧ s.boundAt (ringKey bed slot) hzn.toNat = false ∧
      s.deepSlot (ringKey bed slot) = false ∧ s.tickOpen hzn = true ∧ hzn.toNat ≤ s.count.toNat) :=
  ⟨⟨0, 0, 2040, { frame0 with exited := true }, (holding { frame0 with exited := true } grow), by decide, by decide, by decide⟩,
   ⟨0, 0, 2048, phaseA, grow, by decide, by decide, by decide, by decide, by decide, by decide, by decide, by decide⟩⟩

theorem witness_FramesAreRecorded :
    (∃ (bed : Fin 4) (slot : Fin 64) (hzn : U64) (f : Frame) (s : State), s.frame? bed slot hzn = some f ∧ f.entryReady = true ∧
      s.canNumber = true ∧ f.needsRecord = true) ∧
    (∃ (bed : Fin 4) (slot : Fin 64) (hzn : U64) (f : Frame) (s : State), s.frame? bed slot hzn = some f ∧ f.entryReady = true ∧
      s.canNumber = true ∧ f.needsRecord = false ∧ s.aug.sealDue = 0 ∧ mapFind s.aug.runs (bedSlot bed slot) = none) ∧
    (∃ (bed : Fin 4) (slot : Fin 64) (hzn : U64) (f : Frame) (r : OpenRun) (s : State), s.frame? bed slot hzn = some f ∧
      f.entryReady = true ∧ s.canNumber = true ∧ f.needsRecord = false ∧ s.aug.sealDue = 0 ∧
      mapFind s.aug.runs (bedSlot bed slot) = some r ∧ r.flags = (s.marked f).flags ∧ r.causes = f.runCauses ∧
      r.phase = BitVec.ofNat 8 (f.phase % 16) ∧ hzn.toNat = r.start.toNat + r.count ∧ r.count < 65534) ∧
    (∃ (bed : Fin 4) (slot : Fin 64) (hzn : U64) (s : State), s.frame? bed slot hzn = none) :=
  ⟨⟨0, 0, 2040, { frame0 with exited := true, settledDone := true, tally := true },
    (holding { frame0 with exited := true, settledDone := true, tally := true } grow), by decide, by decide, by decide, by decide⟩,
   ⟨0, 0, 2040, { frame0 with exited := true, settledDone := true }, (holding { frame0 with exited := true, settledDone := true } grow),
    by decide, by decide, by decide, by decide, by decide, by decide⟩,
   ⟨0, 0, 2040, { frame0 with exited := true, settledDone := true },
    { flags := ({ frame0 with exited := true, settledDone := true } : Frame).flags, start := 2039, count := 1, qAccepts := 0, phase := 1, causes := 0, crcs := [0] },
    { holding { frame0 with exited := true, settledDone := true } grow with aug := { grow.aug with runs := [(bedSlot 0 0, { flags := ({ frame0 with exited := true, settledDone := true } : Frame).flags, start := 2039, count := 1, qAccepts := 0, phase := 1, causes := 0, crcs := [0] })] } },
    by decide, by decide, by decide, by decide, by decide, by decide, by decide, by decide, by decide, by decide, by decide⟩,
   ⟨3, 63, 0, bare, by decide⟩⟩

theorem witness_SettledVerdictsAreReleased :
    (∃ (e : Fin 2) (bed : Fin 4) (slot : Fin 64) (hzn : U64) (ps : Nat) (w : Work) (q : Query) (p : PhaseProg) (k : QueryKind) (s : State),
      (s.eng[e] : Engine).running = true ∧ s.unserved e hzn = [] ∧ (s.eng[e] : Engine).query? bed slot hzn = some q ∧
      s.phaseAt hzn.toNat = some p ∧ p.ph.kinds[q.kind]? = some k ∧ q.shed = false ∧ q.discarded = false ∧ q.answer = none ∧
      hzn.toNat + k.f ≤ s.count.toNat ∧ s.firstError w) ∧
    (∃ (e : Fin 2) (bed : Fin 4) (slot : Fin 64) (hzn : U64) (ps : Nat) (w : Work) (s : State), (s.eng[e] : Engine).running = false) ∧
    (∃ (bed : Fin 4) (slot : Fin 64) (hzn : U64) (f : Frame) (p : PhaseProg) (v : Verdict) (s : State), s.frame? bed slot hzn = some f ∧
      s.phaseAt hzn.toNat = some p ∧ f.hasSettled = true ∧ f.exited = true ∧ f.settledDone = false ∧ f.settledReady = some v) ∧
    (∃ (bed : Fin 4) (slot : Fin 64) (hzn : U64) (f : Frame) (p : PhaseProg) (k : QueryKind) (c : BedCopy) (x : Settled) (s : State),
      s.frame? bed slot hzn = some f ∧ s.phaseAt hzn.toNat = some p ∧ f.hasSettled = true ∧ f.exited = true ∧ f.settledDone = false ∧
      f.settledReady = none ∧ f.kind.bind (fun n => p.ph.kinds[n]?) = some k ∧ f.copies = [c] ∧ s.unserved (engOf (c.bed % 4)) hzn = [] ∧
      x = (s.eng[engOf (c.bed % 4)] : Engine).settledFor p f k) ∧
    (∃ (bed : Fin 4) (slot : Fin 64) (hzn : U64) (s : State), s.frame? bed slot hzn = none) :=
  ⟨⟨0, 0, 0, 1040, 0, .good,
    { hzn := 1040, bed := 0, slot := 0, kind := 0, admitNs := 0, answer := none, shed := false, discarded := false, failed := false },
    phaseA, kind0,
    (engWith (fun g => { g with queries := [{ hzn := 1040, bed := 0, slot := 0, kind := 0, admitNs := 0, answer := none, shed := false, discarded := false, failed := false }] }) grow),
    by decide, by decide, by decide, by decide, by decide, by decide, by decide, by decide, by decide, by intro u h; cases h⟩,
   ⟨1, 0, 0, 0, 0, .good, grow, by decide⟩,
   ⟨0, 0, 2040, { frame0 with exited := true, settledReady := some 0 }, phaseA, 0,
    (holding { frame0 with exited := true, settledReady := some 0 } grow), by decide, by decide, by decide, by decide, by decide,
    by decide⟩,
   ⟨0, 0, 2040, { frame0 with exited := true, kind := some 0 }, phaseA, kind0, { (default : BedCopy) with intact := true }, _,
    (engWith (fun g => { g with bucketAt := 2048 }) (holding { frame0 with exited := true, kind := some 0 } grow)), by decide, by decide,
    by decide, by decide, by decide, by decide, by decide, by decide, by decide, rfl⟩,
   ⟨3, 63, 0, bare, by decide⟩⟩

theorem witness_SlabsAndPackagesAreWritten :
    (∃ (e : Fin 2) (grp : Fin 256) (period : U64) (g : ChanGroup) (b : Slab) (s : State), (s.eng[e] : Engine).running = true ∧
      mapFind (s.eng[e] : Engine).groups grp = some g ∧ (period.toNat + 1) * g.decl.slowTicks + g.decl.slowDeadline ≤ s.count.toNat ∧
      mapFind g.slabs period.toNat = none ∧ period.toNat ∉ g.lost ∧ 0 < g.decl.depth ∧ b = (mapFind g.openBufs period.toNat).getD ⟨[], [],
      0⟩) ∧
    (∃ (e : Fin 2) (ring : Fin 128) (hzn : U64) (hist : U64) (ps : Nat) (ns : Nat) (key : Nat) (w : Work) (p : PhaseProg) (c : CtxProg) (s : State),
      (s.eng[e] : Engine).running = true ∧ s.layoutRing e ring = some key ∧ s.phaseAt hzn.toNat = some p ∧
      (s.eng[e] : Engine).resettingAt hzn = false ∧ (p.slot? (key / 64) (key % 64)).isSome = true ∧ hist.toNat ≤ s.count.toNat ∧
      hzn.toNat < s.usableFrom p.ph ps + 16 ∧ (s.looseAt hzn = true ∨ hist.toNat + p.ph.d = hzn.toNat ∧
      (s.eng[e] : Engine).pkgs.any (fun k => k.ring == key && k.hzn == hzn) = false) ∧
      c = ((p.loess e).ctx.find? (fun c => c.ring == key)).getD ⟨key, [], []⟩ ∧ s.firstError w) :=
  ⟨⟨0, 0, 126, { decl := group0, start := 0, slabs := [], openBufs := [], lost := [], givenUp := [], newest := 0 }, _, grow, by decide,
    by decide, by decide, by decide, by decide, by decide, rfl⟩,
   ⟨0, 0, 2048, 1948, 0, 0, 0, .good, phaseA, _, (grow.setReg HZN_TICK_PERIOD 1000000), by decide, by decide, by decide, by decide,
    by decide, by decide, by decide, by decide, rfl, by intro u h; cases h⟩⟩

theorem witness_EnginesWarmAndReset :
    (∃ (e : Fin 2) (c : U64) (s : State), (s.eng[e] : Engine).running = true ∧ (s.eng[e] : Engine).warming = false ∧
      (s.eng[e] : Engine).warmed = false ∧ (s.eng[e] : Engine).start = some c ∧ c.toNat ≤ s.count.toNat) ∧
    (∃ (e : Fin 2) (p : PhaseProg) (s : State), (s.eng[e] : Engine).running = true ∧ (s.eng[e] : Engine).warming = true ∧
      (s.eng[e] : Engine).warmEnd ≤ s.count.toNat ∧ s.phase? = some p) ∧
    (∃ (p : Path) (e : Fin 2) (s : State), s.opens p (LSS_CTL + lssOff e) ∧ (s.eng[e] : Engine).running = true) ∧
    (∃ (p : Path) (e : Fin 2) (s : State), s.opens p (LSS_CTL + lssOff e) ∧ (s.eng[e] : Engine).running = false) :=
  ⟨⟨0, 0, grow, by decide, by decide, by decide, by decide, by decide⟩,
   ⟨0, phaseA, (engWith (fun g => { g with warming := true, warmW := 2048 }) grow), by decide, by decide, by decide, by decide⟩,
   ⟨.mgt, 0, grow, by decide, by decide⟩,
   ⟨.mgt, 1, grow, by decide, by decide⟩⟩

theorem witness_CheckpointsAreStaged :
    (∃ (e : Fin 2) (c : U64) (s : State), (s.eng[e] : Engine).running = true ∧ (s.eng[e] : Engine).start = some c ∧
      c.toNat ≤ s.count.toNat ∧ lowZero 24 s.count = true ∧ (s.eng[e] : Engine).assembling = none ∧
      s.reg64 (LSS_CKPT_LO + lssOff e) ≠ s.count) ∧
    (∃ (e : Fin 2) (a : Assembling) (p : PhaseProg) (s : State), (s.eng[e] : Engine).running = true ∧
      (s.eng[e] : Engine).assembling = some a ∧ s.phase? = some p ∧ (p.loess e).streams.all (fun d => a.ready.contains d.ring) = true) :=
  ⟨⟨0, 0, { grow with hz := { grow.hz with count := 0x1000000 } }, by decide, by decide, by decide, by decide, by decide, by decide⟩,
   ⟨0, { hzn := 2000, loose := false, warming := false, taken := none, pkgs := [], ready := [0] }, phaseA,
    (engWith (fun g => { g with assembling := some { hzn := 2000, loose := false, warming := false, taken := none, pkgs := [], ready := [0] } }) (grow.setReg LSS_LAG 65)),
    by decide, by decide, by decide, by decide⟩⟩

theorem witness_MemoriesMoveTheirData :
    (∃ (e : Fin 2) (stream : Bool) (ring : Fin 256) (first : U64) (sent : Bool) (key : Nat) (s : State),
      (s.eng[e] : Engine).running = true ∧ (if stream then s.layoutRing e ring else some ring.val) = some key ∧
      (s.eng[e] : Engine).spills.any (fun u => u.stream == stream && u.ring == key && u.first == first.toNat && !u.sent) = true) ∧
    (∃ (e : Fin 2) (c : Fin 8) (bank : Fin 64) (s : State), s.dramServes = true ∧
      (s.eng[e].chans[c] : DramChan).started.any (fun x => x.bank == bank.val) = false) ∧
    (∃ (e : Fin 2) (c : Fin 8) (x : DramTx) (ch : DramChan) (s : State), s.dramServes = true ∧ ch = (s.gatherJobs e c).eng[e].chans[c] ∧
      s.pickTx e ch = some x) ∧
    (∃ (e : Fin 2) (c : Fin 8) (o : DramOutcome) (s : State), s.dramServes = true ∧ s.pickTx e (s.gatherJobs e c).eng[e].chans[c] = none) ∧
    (∃ (e : Fin 2) (bank : Fin 256) (word : Fin 8192) (a : SiltAccess) (old : List Byte) (s : State), (s.eng[e] : Engine).running = true ∧
      old = (s.siltWord e bank word).1) ∧
    (∃ (e : Fin 2) (bank : Fin 256) (word : Fin 8192) (a : SiltAccess) (d : List Word) (s : State), (s.eng[e] : Engine).running = true ∧
      s.mod.st ≠ .growing) ∧
    (∃ (e : Fin 2) (bank : Fin 256) (r : SiltRepair) (s : State),
      (s.eng[e] : Engine).repairs.find? (fun r => r.bank == bank.val) = some r ∧ r.broken = false) :=
  ⟨⟨0, true, 0, 64, false, 0, (engWith (fun g => { g with spills := [⟨true, 0, 64, false⟩] }) grow), by decide, by decide, by decide⟩,
   ⟨0, 7, 63, grow, by decide, by decide⟩,
   ⟨0, 0, ⟨3, 1, 5, none, 0, .none⟩, _,
    (engWith (fun g => { g with chans := g.chans.set 0 { waiting := [⟨3, 1, 5, none, 0, .none⟩], started := [], refresh := [] } }) grow),
    by decide, rfl, by decide⟩,
   ⟨0, 1, .good, grow, by decide, by decide⟩,
   ⟨0, 255, 8191, .read, _, grow, by decide, rfl⟩,
   ⟨0, 255, 8191, (.add 1 [1]), [7], (modIn .sown), by decide, by decide⟩,
   ⟨0, 255, ⟨255, 3, 1, [], false⟩, (engWith (fun g => { g with repairs := [⟨255, 3, 1, [], false⟩] }) grow), by decide, by decide⟩⟩

theorem witness_ModeAndHoldChangeAtABoundary :
    (∃ (p : Path) (v : Bool) (s : State), s.opens p TOP_CTL) ∧
    (∃ (v : Bool) (s : State), s.atBoundary = true ∧ s.mod.st.serving = true ∧ s.flag TOP_CTL_LOOSE = v ∧ s.mod.loose = !v) ∧
    (∃ (s : State), s.atBoundary = false) ∧
    (∃ (first : U64) (s : State), s.aug.hold = some first ∧ s.atBoundary = true ∧ s.aug.used ≤ 256 * 2 ^ 20) :=
  ⟨⟨.mgt, true, grow, by decide⟩,
   ⟨true, (grow.setFlag TOP_CTL_LOOSE true), by decide, by decide, by decide, by decide⟩,
   ⟨{ grow with hz := { grow.hz with count := 2049 } }, by decide⟩,
   ⟨5, { grow with aug := { grow.aug with hold := some 5 } }, by decide, by decide, by decide⟩⟩

theorem witness_RecordsAreSealedAndMirrored :
    (∃ (p : Path) (s : State), s.opens p AUG_CTL) ∧
    (∃ (r : Nat) (s : State), s.aug.sealDue = r ∧ r ≠ 0 ∧ s.canNumber = true ∧ s.aug.nextSeq ≠ s.aug.firstSeq ∧
      s.closeRuns.aug.nextSeq ≠ s.aug.firstSeq) ∧
    (∃ (s : State), s.aug.sealDue = 0) ∧
    (∃ (s : State), s.aug.running = true ∧ s.aug.rsaFailed = false ∧ s.aug.tail.any TailRec.unsigned = true) ∧
    (∃ (s : State), s.aug.running = true ∧ s.aug.rsaFailed = false ∧ s.aug.tail.any TailRec.unsigned = true) ∧
    (∃ (seq : U64) (s : State), s.aug.running = true ∧ s.flag AUG_CTL_MIRROR_EN = true ∧ s.flag RNG_MIRROR_TGT_VALID = true ∧
      s.aug.unmirrored = false) ∧
    (∃ (seq : U64) (s : State), s.aug.running = true ∧ s.flag AUG_CTL_MIRROR_EN = true ∧ s.flag RNG_MIRROR_TGT_VALID = true ∧
      s.aug.unmirrored = true) ∧
    (∃ (s : State), s.aug.running = true ∧ s.mirrored = true ∧ s.aug.assigned.toNat < s.aug.nextSeq.toNat) ∧
    (∃ (serial : U64) (rs : List MirrorRec) (s : State), s.aug.running = true ∧
      rs = (s.aug.mirror.filter (fun r => r.serial == serial)).foldl (fun acc r => mirrorInsert r acc) [] ∧ rs ≠ [] ∧
      s.hst.forward.any (fun f => f.1 == serial) = false) :=
  ⟨⟨.mgt, grow, by decide⟩,
   ⟨1, { grow with aug := { grow.aug with sealDue := 1, nextSeq := 9 } }, by decide, by decide, by decide, by decide, by decide⟩,
   ⟨grow, by decide⟩,
   ⟨{ grow with aug := { grow.aug with tail := [⟨0, ⟨0, 0, .close (default : SealBody)⟩⟩] } }, by decide, by decide, by decide⟩,
   ⟨{ grow with aug := { grow.aug with tail := [⟨0, ⟨0, 0, .close (default : SealBody)⟩⟩] } }, by decide, by decide, by decide⟩,
   ⟨0, ((grow.setFlag AUG_CTL_MIRROR_EN true).setFlag RNG_MIRROR_TGT_VALID true), by decide, by decide, by decide, by decide⟩,
   ⟨0, { (grow.setFlag AUG_CTL_MIRROR_EN true).setFlag RNG_MIRROR_TGT_VALID true with aug := { grow.aug with unmirrored := true } },
    by decide, by decide, by decide, by decide⟩,
   ⟨{ lead.setFlag AUG_CTL_MIRROR_EN true with aug := { lead.aug with nextSeq := 3 } }, by decide, by decide, by decide⟩,
   ⟨9, _, { grow with aug := { grow.aug with mirror := [⟨9, 4, false, []⟩] } }, by decide, rfl, by decide, by decide⟩⟩

theorem witness_SelfTestsClassifyDetections :
    (∃ (u : Word) (failing : List Word) (x : UnitTest) (s : State), s.mod.st.serving = true ∧
      s.flt.tests.find? (fun t => t.unit == u && !t.waits) = some x ∧ x.repeated = false) ∧
    (∃ (u : Word) (pass : Bool) (failing : List Word) (x : UnitTest) (s : State), s.mod.st.serving = true ∧
      s.flt.tests.find? (fun t => t.unit == u && !t.waits) = some x ∧ (pass = false ∨ x.repeated = true)) ∧
    (∃ (u : Word) (failing : List Word) (x : PairTest) (s : State), s.mod.st.serving = true ∧
      s.flt.tests.find? (fun t => t.unit == u && !t.waits) = none ∧ s.flt.pairTests.find? (fun t => bedUnit t.pair 0 3 == u) = some x ∧
      x.further = 0) ∧
    (∃ (p : Path) (b : Fin 4) (s : State), s.opens p (BED_CTL + bedOff b)) ∧
    (∃ (b : Fin 4) (u : Word) (failing : List Word) (n : Nat) (s : State), s.mod.st.serving = true ∧
      s.flt.tests.find? (fun t => t.unit == u && !t.waits) = none ∧ s.flt.pairTests.find? (fun t => bedUnit t.pair 0 3 == u) = none ∧
      unitType u = 2 ∧ unitBed u = b.val ∧ (s.beds[b] : Bed).selfTest = some n) :=
  ⟨⟨0x05000001, [], { unit := 0x05000001, cls := 4, hzn := 7, repeated := false, waits := false, part := none },
    { grow with flt := { grow.flt with tests := [{ unit := 0x05000001, cls := 4, hzn := 7, repeated := false, waits := false, part := none }] } },
    by decide, by decide, by decide⟩,
   ⟨0x05000001, false, [], { unit := 0x05000001, cls := 4, hzn := 7, repeated := false, waits := false, part := none },
    { grow with flt := { grow.flt with tests := [{ unit := 0x05000001, cls := 4, hzn := 7, repeated := false, waits := false, part := none }] } },
    by decide, by decide, by decide⟩,
   ⟨(bedUnit 1 0 3), [], { pair := 1, kind := 0, indices := [], further := 0, hzn := 7, slot := 0 },
    { grow with flt := { grow.flt with pairTests := [{ pair := 1, kind := 0, indices := [], further := 0, hzn := 7, slot := 0 }] } },
    by decide, by decide, by decide, by decide⟩,
   ⟨.mgt, 3, grow, by decide⟩,
   ⟨0, (bedUnit 0 0 3), [], 2, { grow with beds := grow.beds.set 0 { Bed.off with selfTest := some 2 } }, by decide, by decide, by decide,
    by decide, by decide, by decide⟩⟩

theorem witness_SparesAndPairsSwitchAtABoundary :
    (∃ (b : Fin 4) (l : SpareLoad) (s : State), s.mod.st.serving = true ∧ (s.beds[b] : Bed).spareLoad = [l] ∧ l.loaded = none) ∧
    (∃ (b : Fin 4) (l : SpareLoad) (h : U64) (s : State), s.mod.st.serving = true ∧ (s.beds[b] : Bed).spareLoad = [l] ∧ l.loaded = some h) ∧
    (∃ (p : Path) (b : Fin 4) (v : Bool) (lb : Nat) (s : State), s.opens p (BED_CTL + bedOff b) ∧ s.bedPresent b = true ∧
      s.bedState b ≠ 6 ∧ s.pairPlace b = some (lb, none) ∧ (s.beds[partnerOf b] : Bed).releaseDue = none ∧
      (s.beds[b] : Bed).releaseDue = none) ∧
    (∃ (b : Fin 4) (lb : Nat) (h : U64) (s : State), s.mod.st.serving = true ∧ s.flt.alarmRelease = Vector.replicate 2 none ∧
      (∀ k : Fin 4, k ≠ b → (s.beds[k] : Bed).releaseDue = none ∧ (s.beds[k] : Bed).rejoinAt = none) ∧
      (s.beds[b] : Bed).releaseDue = some h ∧ h.toNat ≤ s.count.toNat ∧ s.pairPlace b = some (lb, none)) ∧
    (∃ (pair : Fin 2) (lb : Nat) (a : Fin 4) (s : State), s.mod.st.serving = true ∧ s.pairPlace (Fin.ofNat 4 pair.val) = some (lb,
      some a) ∧ s.bedState (partnerOf a) = 6 ∧ (s.beds[partnerOf a] : Bed).target.isSome = true ∧
      (s.beds[partnerOf a] : Bed).rejoinAt = none) :=
  ⟨⟨0, ⟨32, 3, 0x02000003, none⟩, { grow with beds := grow.beds.set 0 { Bed.off with spareLoad := [⟨32, 3, 0x02000003, none⟩] } }, by decide,
    by decide, by decide⟩,
   ⟨0, ⟨33, 3, 0x02000003, some 2048⟩, 2048,
    { grow with beds := grow.beds.set 0 { Bed.off with spareLoad := [⟨33, 3, 0x02000003, some 2048⟩] } }, by decide, by decide, by decide⟩,
   ⟨.mgt, 0, true, 0, paired, by decide, by decide, by decide, by decide, by decide, by decide⟩,
   ⟨0, 0, 2048, { paired with beds := paired.beds.set 0 { Bed.off with releaseDue := some 2048 } }, by decide, by decide, by decide,
    by decide, by decide, by decide⟩,
   ⟨0, 0, 0, { single.setBedState 2 6 with beds := single.beds.set 2 { Bed.off with target := some variant0 } }, by decide, by decide,
    by decide, by decide, by decide⟩⟩

theorem witness_CorrectionsAndGrainCommands :
    (∃ (p : Path) (b : Fin 4) (v : Word) (h : U64) (code : Nat) (s : State), s.opens p (BED_CORR_HI + bedOff b) ∧ s.bedPresent b = true ∧
      h = BitVec.ofNat 64 (v.toNat * 2 ^ 32 + (s.reg (BED_CORR_LO + bedOff b)).toNat) ∧
      code = (if (s.reg (BED_II + bedOff b)).toNat % 8 = 0 then 3 else if s.beds[b].corrWord.any (fun x => decide ((match s.beds[b].variant with | some v => v.net.weightWords x.1 | none => 0) ≤ x.2)) then 4 else if lowZero 10 h = false ∨ h.toNat < s.count.toNat + 1024 then 5 else 1)) ∧
    (∃ (b : Fin 4) (h : U64) (s : State), s.mod.st.serving = true ∧ s.prog.corrArmed[b] = some h ∧ h.toNat ≤ s.count.toNat ∧
      s.rotates b h = false) ∧
    (∃ (b : Fin 4) (h : U64) (s : State), s.mod.st.serving = true ∧ s.prog.corrArmed[b] = some h ∧ h.toNat ≤ s.count.toNat ∧
      s.rotates b h = true) ∧
    (∃ (p : Path) (b : Fin 4) (s : State), s.opens p (BED_CTL + bedOff b)) ∧
    (∃ (p : Path) (b : Nat) (g : Nat) (s : State), s.opens p GRN_CMD ∧ s.grn = none ∧ s.selGrain = some (b, g)) ∧
    (∃ (pass : Bool) (r : GrnRun) (s : State), s.grn = some r) ∧
    (∃ (p : Path) (addr : Word) (v : Word) (off : Nat) (b : Nat) (g : Nat) (s : State), s.opens p addr.toNat ∧
      addr.toNat = 0x100000 + off ∧ off < 0x4000 ∧ off % 4 = 0 ∧ s.selGrain = some (b, g)) ∧
    (∃ (p : Path) (addr : Word) (v : Word) (off : Nat) (b : Nat) (g : Nat) (s : State), s.opens p addr.toNat ∧
      addr.toNat = 0x104000 + off ∧ off < 0x100 ∧ off % 4 = 0 ∧ s.selGrain = some (b, g)) :=
  ⟨⟨.mgt, 0, 0, 0x1000, 3, (grow.setReg BED_CORR_LO 0x1000), by decide, by decide, by decide, by decide⟩,
   ⟨0, 2048, { grow with prog := { grow.prog with corrArmed := grow.prog.corrArmed.set 0 (some 2048) } }, by decide, by decide, by decide,
    by decide⟩,
   ⟨0, 2048,
    { grow with prog := { grow.prog with corrArmed := grow.prog.corrArmed.set 0 (some 2048) }, svc := { grow.svc with rot := some ⟨1, false, [(0, 1, none)], none, true, some 2048⟩ } },
    by decide, by decide, by decide, by decide⟩,
   ⟨.mgt, 0, grow, by decide⟩,
   ⟨.mgt, 0, 0, grow, by decide, by decide, by decide⟩,
   ⟨true, ⟨2, 0, 0⟩, { grow with grn := some ⟨2, 0, 0⟩ }, by decide⟩,
   ⟨.mgt, 0x103FFC, 7, 0x3FFC, 0, 0, (modIn .sown), by decide, by decide, by decide, by decide, by decide⟩,
   ⟨.mgt, 0x1040FC, 7, 0xFC, 0, 0, grow, by decide, by decide, by decide, by decide, by decide⟩⟩

theorem witness_RingFramesAndCells :
    (∃ (port : Fin 4) (n : Nat) (slots : List (List Byte)) (s : State), s.portLive port = true) ∧
    (∃ (bed : Fin 4) (slot : Fin 64) (hzn : U64) (c : Cascade) (p : PhaseProg) (sp : CascSpan) (s : State), s.cascade? = some c ∧
      s.phaseAt hzn.toNat = some p ∧ s.mod.st = .growing ∧ s.tickOpen hzn = true ∧ hzn.toNat ≤ s.count.toNat ∧
      s.frame? bed slot hzn = none ∧ s.fast.arrived.any (fun a => a.layoutBed == bed.val && a.slot == slot.val && a.hzn == hzn) = false ∧
      (p.slot? bed slot).isSome = true ∧
      (c.spans.filter (fun sp => sp.destPart == ringKey bed slot)).find? (fun sp => sp.kind == 1 && sp.dest == s.position) = some sp) ∧
    (∃ (bed : Fin 4) (slot : Fin 64) (hzn : U64) (c : Cascade) (p : PhaseProg) (into : List CascSpan) (ps : List Part) (s : State),
      s.cascade? = some c ∧ s.phaseAt hzn.toNat = some p ∧ s.mod.st = .growing ∧ s.tickOpen hzn = true ∧ hzn.toNat ≤ s.count.toNat ∧
      s.frame? bed slot hzn = none ∧ s.role = 1 ∧ p.slot? bed slot = none ∧
      into = c.spans.filter (fun sp => sp.destPart == ringKey bed slot) ∧
      into.find? (fun sp => sp.kind == 1 && sp.dest == s.position) = none ∧ into.filter (fun sp => sp.kind == 0) ≠ [] ∧
      ((into.filter (fun sp => sp.kind == 0)).foldl (fun acc sp => placeSpan sp acc) []).map (fun sp => s.partFor sp hzn) = ps.map some) ∧
    (∃ (port : Fin 4) (cell : List Byte) (s : State), s.portLive port = true) ∧
    (∃ (port : Fin 4) (s : State), s.portLive port = true ∧ (s.ring.ports[port] : RingPort).unacked ≠ []) ∧
    (∃ (port : Fin 4) (n : Nat) (slots : List (List Byte)) (cell : List Byte) (s : State), s.portLive port = false) :=
  ⟨⟨0, 15, [], (linked grow), by decide⟩,
   ⟨0, 0, 2048, casc0, phaseA, ⟨1, 1, 0, 0, 0, 0, 0, 10, 10⟩, lead, by decide, by decide, by decide, by decide, by decide, by decide,
    by decide, by decide, by decide⟩,
   ⟨1, 0, 2048, casc0, phaseA, [⟨0, 1, 0, 0, 64, 1, 1, 10, 10⟩], [part0], leadPart, by decide, by decide, by decide, by decide, by decide,
    by decide, by decide, by decide, by decide, by decide, by decide, by decide⟩,
   ⟨0, (zeroBytes 127), (linked grow), by decide⟩,
   ⟨0,
    { linked grow with ring := { (linked grow).ring with ports := (linked grow).ring.ports.set 0 { RingPort.off with down := false, unacked := [default] } } },
    by decide, by decide⟩,
   ⟨3, 0, [], [], grow, by decide⟩⟩

theorem witness_LinksAndRolesOfTheCascade :
    (∃ (port : Fin 4) (s : State), s.portLive port = true) ∧
    (∃ (c : Cascade) (s : State), s.ring.rerouteDue = true ∧ s.atBoundary = true ∧ s.cascade? = some c) ∧
    (∃ (port : Fin 4) (src : Fin 64) (count : U64) (reach : List (Fin 64)) (cable : Nat) (s : State), s.portLive port = true) ∧
    (∃ (s : State), s.ring.leadLost = true ∧ s.role = 2 ∧ s.atBoundary = true) ∧
    (∃ (s : State), (s.ring.leadLost = false ∨ s.role ≠ 2 ∨ s.atBoundary = false)) ∧
    (∃ (src : Fin 64) (s : State), s.flag RNG_CTL_CASC_EN = true ∧ s.mod.st ≠ .off) :=
  ⟨⟨0, (linked grow), by decide⟩,
   ⟨casc0, { lead with ring := { lead.ring with rerouteDue := true } }, by decide, by decide, by decide⟩,
   ⟨0, 1, 2048, [1], 10, (linked grow), by decide⟩,
   ⟨{ (lead.setFld RNG_ROLE_ROLE 2) with ring := { lead.ring with leadLost := true } }, by decide, by decide, by decide⟩,
   ⟨grow, by decide⟩,
   ⟨1, lead, by decide, by decide⟩⟩

theorem witness_LaunchesAreCommitted :
    (∃ (p : Path) (v : Word) (h : U64) (s : State), s.opens p HZN_LAUNCH_HI ∧ s.flag RNG_CTL_CASC_EN = false ∧
      h = BitVec.ofNat 64 (v.toNat * 2 ^ 32 + (s.reg HZN_LAUNCH_LO).toNat) ∧ s.count.toNat + 2048 ≤ h.toNat ∧ lowZero 10 h = true) ∧
    (∃ (p : Path) (v : Word) (h : U64) (s : State), s.opens p HZN_LAUNCH_HI ∧ s.flag RNG_CTL_CASC_EN = false ∧
      h = BitVec.ofNat 64 (v.toNat * 2 ^ 32 + (s.reg HZN_LAUNCH_LO).toNat) ∧ (h.toNat < s.count.toNat + 2048 ∨ lowZero 10 h = false)) ∧
    (∃ (p : Path) (v : Word) (h : U64) (s : State), s.opens p HZN_LAUNCH_HI ∧ s.flag RNG_CTL_CASC_EN = true ∧ s.role = 1 ∧
      h = BitVec.ofNat 64 (v.toNat * 2 ^ 32 + (s.reg HZN_LAUNCH_LO).toNat) ∧ s.count.toNat + 4096 ≤ h.toNat ∧ lowZero 10 h = true) ∧
    (∃ (p : Path) (v : Word) (h : U64) (s : State), s.opens p HZN_LAUNCH_HI ∧ s.flag RNG_CTL_CASC_EN = true ∧ s.role = 1 ∧
      h = BitVec.ofNat 64 (v.toNat * 2 ^ 32 + (s.reg HZN_LAUNCH_LO).toNat) ∧ (h.toNat < s.count.toNat + 4096 ∨ lowZero 10 h = false)) ∧
    (∃ (p : Path) (v : Word) (s : State), s.opens p HZN_LAUNCH_HI ∧ s.flag RNG_CTL_CASC_EN = true ∧ s.role ≠ 1) ∧
    (∃ (src : Fin 64) (h : U64) (s : State), s.flag RNG_CTL_CASC_EN = true ∧ s.mod.st.serving = true ∧ s.role ≠ 1 ∧
      src.val = s.fld RNG_ROLE_LEAD ∧ s.commitCode h = 0) ∧
    (∃ (src : Fin 64) (h : U64) (s : State), s.flag RNG_CTL_CASC_EN = true ∧ s.mod.st.serving = true ∧ s.role ≠ 1 ∧
      src.val = s.fld RNG_ROLE_LEAD ∧ s.commitCode h ≠ 0) ∧
    (∃ (src : Fin 64) (h : U64) (s : State), s.flag RNG_CTL_CASC_EN = true ∧ s.mod.st.serving = true ∧ s.role ≠ 1 ∧
      src.val = s.fld RNG_ROLE_LEAD) ∧
    (∃ (src : Fin 64) (s : State), s.flag RNG_CTL_CASC_EN = true ∧ s.mod.st.serving = true ∧ s.role = 1 ∧ s.ring.launchOpen = true ∧
      src.val ∉ s.ring.confirmed) ∧
    (∃ (c : Cascade) (s : State), s.role = 1 ∧ s.ring.launchOpen = true ∧ s.flag HZN_STAT_LAUNCH_PEND = true ∧
      s.hz.launchAt.toNat ≤ s.count.toNat + 1024 ∧ s.cascade? = some c ∧ (∀ q,
      q < c.xdim * c.ydim → q = s.position ∨ q ∈ s.ring.confirmed)) ∧
    (∃ (c : Cascade) (q : Nat) (s : State), s.role = 1 ∧ s.ring.launchOpen = true ∧ s.flag HZN_STAT_LAUNCH_PEND = true ∧
      s.hz.launchAt.toNat ≤ s.count.toNat + 1024 ∧ s.cascade? = some c ∧ q < c.xdim * c.ydim ∧ q ≠ s.position ∧ q ∉ s.ring.confirmed ∧
      (∀ r, r < q → r = s.position ∨ r ∈ s.ring.confirmed)) :=
  ⟨⟨.mgt, 0, 0x2000, ((modIn .sown).setReg HZN_LAUNCH_LO 0x2000), by decide, by decide, by decide, by decide, by decide⟩,
   ⟨.mgt, 0, 4095, (((modIn .sown).setFlag HZN_STAT_LAUNCH_PEND true).setReg HZN_LAUNCH_LO 4095), by decide, by decide, by decide, by decide⟩,
   ⟨.mgt, 0, 6144, (lead.setReg HZN_LAUNCH_LO 6144), by decide, by decide, by decide, by decide, by decide, by decide⟩,
   ⟨.mgt, 0, 5120, ((lead.setFlag HZN_STAT_LAUNCH_PEND true).setReg HZN_LAUNCH_LO 5120), by decide, by decide, by decide, by decide,
    by decide⟩,
   ⟨.mgt, 0, (lead.setFld RNG_ROLE_ROLE 3), by decide, by decide, by decide⟩,
   ⟨0, 4096, (lead.setFld RNG_ROLE_ROLE 3), by decide, by decide, by decide, by decide, by decide⟩,
   ⟨0, 4095, (lead.setFld RNG_ROLE_ROLE 3), by decide, by decide, by decide, by decide, by decide⟩,
   ⟨0, 4096, (lead.setFld RNG_ROLE_ROLE 3), by decide, by decide, by decide, by decide⟩,
   ⟨1, { lead with ring := { lead.ring with launchOpen := true } }, by decide, by decide, by decide, by decide, by decide⟩,
   ⟨casc0,
    { lead.setFlag HZN_STAT_LAUNCH_PEND true with ring := { lead.ring with launchOpen := true, confirmed := [1] }, hz := { lead.hz with launchAt := 3072 } },
    by decide, by decide, by decide, by decide, by decide, by decide⟩,
   ⟨casc0, 1,
    { lead.setFlag HZN_STAT_LAUNCH_PEND true with ring := { lead.ring with launchOpen := true, confirmed := [] }, hz := { lead.hz with launchAt := 3072 } },
    by decide, by decide, by decide, by decide, by decide, by decide, by decide, by decide, by decide⟩⟩

theorem witness_LockStepArmsAndFreezes :
    (∃ (p : Path) (s : State), s.opens p RNG_LCK_CTL ∧ s.flag RNG_LCK_CTL_EN = false) ∧
    (∃ (p : Path) (s : State), s.opens p RNG_LCK_CTL ∧ s.flag RNG_LCK_CTL_EN = true) ∧
    (∃ (p : Path) (v : Word) (s : State), s.opens p RNG_LCK_START_HI) ∧
    (∃ (x : LckPeer) (s : State), s.flag RNG_LCK_CTL_EN = true ∧ s.lckState = 1 ∧ s.lckFrom.toNat ≤ s.count.toNat ∧
      s.mod.st.serving = true) ∧
    (∃ (s : State), s.lckState = 2) ∧
    (∃ (p : Path) (s : State), s.opens p RNG_LCK_CTL ∧ s.lckState = 2) ∧
    (∃ (p : Path) (s : State), s.opens p RNG_LCK_CTL ∧ (s.lckState = 3 ∨ s.lckState = 4)) ∧
    (∃ (p : Path) (s : State), s.opens p RNG_LCK_CTL ∧ s.lckState = 0) :=
  ⟨⟨.mgt, grow, by decide, by decide⟩,
   ⟨.mgt, (grow.setFlag RNG_LCK_CTL_EN true), by decide, by decide⟩,
   ⟨.mgt, 0, grow, by decide⟩,
   ⟨(default : LckPeer), ((grow.setFlag RNG_LCK_CTL_EN true).setFld RNG_LCK_STAT_STATE 1), by decide, by decide, by decide, by decide⟩,
   ⟨((grow.setFlag RNG_LCK_CTL_EN true).setFld RNG_LCK_STAT_STATE 2), by decide⟩,
   ⟨.mgt, ((grow.setFlag RNG_LCK_CTL_EN true).setFld RNG_LCK_STAT_STATE 2), by decide, by decide⟩,
   ⟨.mgt, ((grow.setFlag RNG_LCK_CTL_EN true).setFld RNG_LCK_STAT_STATE 3), by decide, by decide⟩,
   ⟨.mgt, grow, by decide, by decide⟩⟩

theorem witness_LockStepCompares :
    (∃ (w : U64) (late : Bool) (s : State), s.lckState = 2 ∧ s.lck.next = w ∧ s.windowFormed w.toNat = true) ∧
    (∃ (w : U64) (d : U64) (s : State), s.lckState = 2) ∧
    (∃ (ticks : List PeerTick) (results : List U64) (w : U64) (s : State), s.lckState = 3 ∧ s.lck.frozenWindow = some w) ∧
    (∃ (h : U64) (p : PhaseProg) (s : State), s.lck.snapDue = some h ∧ s.phase? = some p ∧ h.toNat ≤ s.count.toNat ∧
      (s.lckState = 3 ∨ s.lckState = 4)) ∧
    (∃ (w : U64) (s : State), s.lckState = 2 ∧ s.lck.gapWindows.contains w = false ∧
      s.lck.windows.any (fun x => x.start == w && decide (x.closedAt.toNat + 65536 ≤ s.count.toNat)) = true) :=
  ⟨⟨0, false, ((grow.setFlag RNG_LCK_CTL_EN true).setFld RNG_LCK_STAT_STATE 2), by decide, by decide, by decide⟩,
   ⟨0, 5, ((grow.setFlag RNG_LCK_CTL_EN true).setFld RNG_LCK_STAT_STATE 2), by decide⟩,
   ⟨[], [], 64, { ((grow.setFlag RNG_LCK_CTL_EN true).setFld RNG_LCK_STAT_STATE 3) with lck := { grow.lck with frozenWindow := some 64 } },
    by decide, by decide⟩,
   ⟨1024, phaseA, { ((grow.setFlag RNG_LCK_CTL_EN true).setFld RNG_LCK_STAT_STATE 3) with lck := { grow.lck with snapDue := some 1024 } },
    by decide, by decide, by decide, by decide⟩,
   ⟨0,
    { ((grow.setFlag RNG_LCK_CTL_EN true).setFld RNG_LCK_STAT_STATE 2) with hz := { grow.hz with count := 65600 }, lck := { grow.lck with windows := [⟨0, 5, 64⟩] } },
    by decide, by decide, by decide⟩⟩

theorem witness_RequestsAreAnswered :
    (∃ (tag : BitVec 16) (arg : U64) (s : State), s.mod.st.serving = true ∧ s.mod.dramDone = true ∧ s.hst.requests = []) ∧
    (∃ (tag : BitVec 16) (arg : U64) (bs : List Byte) (x : Nat × State) (s : State), s.mod.st.serving = true ∧ s.mod.dramDone = true ∧
      s.hst.requests = [] ∧ 4 ≤ bs.length ∧ bs.length ≤ 256 ∧ bs.length % 4 = 0 ∧
      x = State.writeWords (bs.length / 4) (arg.toNat % 2 ^ 32) bs s.idleRestart) ∧
    (∃ (tag : BitVec 16) (next : U64) (serial : U64) (s : State), s.mod.st.serving = true ∧ s.mod.dramDone = true ∧ s.hst.requests = [] ∧
      (serial.toNat = s.serial ∨ serial = 0) ∧ s.mirrored = false) ∧
    (∃ (tag : BitVec 16) (arg : U64) (x : Capture) (s : State), s.mod.st.serving = true ∧ s.mod.dramDone = true ∧ s.hst.requests = [] ∧
      s.mod.bootRom = false ∧ mapFind s.flt.captures (arg.toNat % 4096) = some x) ∧
    (∃ (tag : BitVec 16) (arg : U64) (bs : List Byte) (s : State), s.mod.st.serving = true ∧ s.mod.dramDone = true ∧ s.hst.requests = [] ∧
      s.mod.bootRom = false ∧ arg.toNat % 2 ^ 29 + bs.length ≤ 2 ^ 29) :=
  ⟨⟨7, 0x0000000100000000, grow, by decide, by decide, by decide⟩,
   ⟨7, 0x0000000000000100, [1, 0, 0, 0], _, grow, by decide, by decide, by decide, by decide, by decide, by decide, rfl⟩,
   ⟨7, 0, 0, grow, by decide, by decide, by decide, by decide, by decide⟩,
   ⟨7, 0, (default : Capture), { grow with flt := { grow.flt with captures := [(0, default)] } }, by decide, by decide, by decide, by decide,
    by decide⟩,
   ⟨7, 0x1FFFFFFF, [1], grow, by decide, by decide, by decide, by decide, by decide⟩⟩

theorem witness_SowingAndFlashRequests :
    (∃ (tag : BitVec 16) (arg : U64) (s : State), s.mod.st.serving = true ∧ s.hst.requests = [] ∧ s.hst.held = [] ∧ s.prog.sow = none ∧
      arg.getLsbD 32 = false ∧ arg.toNat % 2 ^ 32 ≤ 512 * 2 ^ 20 ∧ s.hostSows = true ∧ s.hostSowEn = true) ∧
    (∃ (tag : BitVec 16) (arg : U64) (s : State), s.mod.st.serving = true ∧ s.hst.requests = [] ∧ s.hst.held = [] ∧ s.prog.sow = none ∧
      arg.getLsbD 32 = true ∧ arg.toNat % 2 ^ 32 ≤ 256 * 2 ^ 20 ∧ s.mod.st ≠ .halted) ∧
    (∃ (tag : BitVec 16) (arg : U64) (bs : List Byte) (w : Sow) (s : State), s.mod.st.serving = true ∧ s.hst.requests = [] ∧
      s.hst.held = [] ∧ s.prog.sow = some w ∧ (if w.staged then s.mod.st ≠ .halted else s.hostSows = true) ∧
      arg.toNat % 2 ^ 32 + bs.length ≤ w.length) ∧
    (∃ (tag : BitVec 16) (w : Sow) (s : State), s.mod.st.serving = true ∧ s.hst.requests = [] ∧ s.hst.held = [] ∧ s.prog.sow = some w ∧
      w.staged = true ∧ s.mod.st ≠ .halted) ∧
    (∃ (tag : BitVec 16) (w : Sow) (u : State) (s : State), s.mod.st.serving = true ∧ s.hst.requests = [] ∧ s.hst.held = [] ∧
      s.prog.sow = some w ∧ w.staged = false ∧ s.hostSows = true ∧
      u = ({ s.idleRestart with prog := { s.prog with sow := none } } : State).setFlag HST_STAT_SOW_OPEN false) ∧
    (∃ (tag : BitVec 16) (arg : U64) (bs : List Byte) (s : State), s.mod.st.serving = true ∧ s.hst.requests = [] ∧ s.hst.held = [] ∧
      s.prog.sow = none) ∧
    (∃ (tag : BitVec 16) (arg : U64) (k : Fin 2) (off : Nat) (n : Nat) (s : State), s.mod.st.serving = true ∧ s.hst.requests = [] ∧
      s.hst.held = [] ∧ off = arg.toNat % 2 ^ 32 ∧ bitsOf arg.toNat 32 8 = k.val ∧ n = 4096 * bitsOf arg.toNat 40 24 ∧ off % 4096 = 0 ∧
      s.flashWriteEn = true ∧ (s.flash.dev[k] : FlashDev).present = true ∧ off + n ≤ (s.flash.dev[k] : FlashDev).size ∧ s.prog.sow = none) ∧
    (∃ (tag : BitVec 16) (arg : U64) (k : Fin 2) (off : Nat) (n : Nat) (s : State), s.mod.st.serving = true ∧ s.hst.requests = [] ∧
      s.hst.held = [] ∧ off = arg.toNat % 2 ^ 32 ∧ bitsOf arg.toNat 32 8 = k.val ∧ n = 4096 * bitsOf arg.toNat 40 24 ∧ off % 4096 = 0 ∧
      s.flashWriteEn = true ∧ (s.flash.dev[k] : FlashDev).present = true ∧ off + n ≤ (s.flash.dev[k] : FlashDev).size ∧ s.prog.sow = none) ∧
    (∃ (tag : BitVec 16) (arg : U64) (bs : List Byte) (new : List Byte) (k : Fin 2) (off : Nat) (s : State), s.mod.st.serving = true ∧
      s.hst.requests = [] ∧ s.hst.held = [] ∧ off = arg.toNat % 2 ^ 32 ∧ bitsOf arg.toNat 32 8 = k.val ∧ s.flashWriteEn = true ∧
      (s.flash.dev[k] : FlashDev).present = true ∧ off + bs.length ≤ (s.flash.dev[k] : FlashDev).size ∧ s.prog.sow = none ∧
      1 ≤ bs.length ∧ off % 256 + bs.length ≤ 256 ∧
      new = List.zipWith (fun (a b : Byte) => a &&& b) (bytesAt erasedByte (s.flash.dev[k] : FlashDev).bytes off bs.length) bs) ∧
    (∃ (tag : BitVec 16) (arg : U64) (bs : List Byte) (k : Fin 2) (off : Nat) (s : State), s.mod.st.serving = true ∧ s.hst.requests = [] ∧
      s.hst.held = [] ∧ off = arg.toNat % 2 ^ 32 ∧ bitsOf arg.toNat 32 8 = k.val ∧ s.flashWriteEn = true ∧
      (s.flash.dev[k] : FlashDev).present = true ∧ off + bs.length ≤ (s.flash.dev[k] : FlashDev).size ∧ s.prog.sow = none ∧
      1 ≤ bs.length ∧ off % 256 + bs.length ≤ 256) ∧
    (∃ (tag : BitVec 16) (arg : U64) (k : Fin 2) (off : Nat) (n : Nat) (s : State), s.mod.st.serving = true ∧ s.hst.requests = [] ∧
      s.hst.held = [] ∧ off = arg.toNat % 2 ^ 32 ∧ bitsOf arg.toNat 32 8 = k.val ∧ n = bitsOf arg.toNat 40 13 ∧
      (s.flash.dev[k] : FlashDev).present = true ∧ off + n ≤ (s.flash.dev[k] : FlashDev).size ∧ 1 ≤ n ∧ n ≤ 4096) ∧
    (∃ (p : Path) (s : State), s.opens p CFG_CTL ∧ s.mod.st = .unplanted ∧ s.prog.sow = none ∧ directoryGood (s.seen p).directory = true ∧
      (s.flashDev 0).present = true) ∧
    (∃ (p : Path) (s : State), s.opens p CFG_CTL ∧ s.mod.st = .unplanted ∧ s.prog.sow = none ∧
      (directoryGood (s.seen p).directory = false ∨ (s.flashDev 0).present = false)) ∧
    (∃ (p : Path) (s : State), s.opens p CFG_CTL ∧ (s.mod.st ≠ .unplanted ∨ s.prog.sow.isSome = true)) :=
  ⟨⟨7, 0x20000000, { modIn .sown with prog := { grow.prog with sow := none } }, by decide, by decide, by decide, by decide, by decide,
    by decide, by decide, by decide⟩,
   ⟨7, 0x0000000110000000, grow, by decide, by decide, by decide, by decide, by decide, by decide, by decide⟩,
   ⟨7, 0xFF, [9], ⟨false, 256, []⟩, { modIn .sown with prog := { grow.prog with sow := some ⟨false, 256, []⟩ } }, by decide, by decide,
    by decide, by decide, by decide, by decide⟩,
   ⟨7, ⟨true, 0, []⟩, { grow with prog := { grow.prog with sow := some ⟨true, 0, []⟩ } }, by decide, by decide, by decide, by decide,
    by decide, by decide⟩,
   ⟨7, ⟨false, 0, []⟩, _, { bare with prog := { bare.prog with sow := some ⟨false, 0, []⟩ } }, by decide, by decide, by decide, by decide,
    by decide, by decide, rfl⟩,
   ⟨7, 0, [1], grow, by decide, by decide, by decide, by decide⟩,
   ⟨7, 0x0000010000001000, 0, 0x1000, 4096, { grow with sec := { grow.sec with hardpan := mapSet grow.sec.hardpan 0x509 2 } }, by decide,
    by decide, by decide, by decide, by decide, by decide, by decide, by decide, by decide, by decide, by decide⟩,
   ⟨7, 0x0000010000001000, 0, 0x1000, 4096, { grow with sec := { grow.sec with hardpan := mapSet grow.sec.hardpan 0x509 2 } }, by decide,
    by decide, by decide, by decide, by decide, by decide, by decide, by decide, by decide, by decide, by decide⟩,
   ⟨7, 0x00000000000010FF, [0x0F], _, 0, 0x10FF, { grow with sec := { grow.sec with hardpan := mapSet grow.sec.hardpan 0x509 2 } },
    by decide, by decide, by decide, by decide, by decide, by decide, by decide, by decide, by decide, by decide, by decide, rfl⟩,
   ⟨7, 0x00000000000010FF, [0x0F], 0, 0x10FF, { grow with sec := { grow.sec with hardpan := mapSet grow.sec.hardpan 0x509 2 } }, by decide,
    by decide, by decide, by decide, by decide, by decide, by decide, by decide, by decide, by decide, by decide⟩,
   ⟨7, 0x0010000000001000, 0, 0x1000, 4096, grow, by decide, by decide, by decide, by decide, by decide, by decide, by decide, by decide,
    by decide, by decide⟩,
   ⟨.mgt, { bare with flash := goodDirectory }, by decide, by decide, by decide, by decide +kernel, by decide⟩,
   ⟨.mgt, bare, by decide, by decide, by decide, by decide⟩,
   ⟨.mgt, grow, by decide, by decide⟩⟩

theorem witness_TheHostLinkKeepsItsOrder :
    (∃ (s : State), s.linkMayForm = true ∧ s.hst.requests = [] ∧ s.hst.held = []) ∧
    (∃ (s : State), s.hst.up = true ∧ s.hst.requests = []) ∧
    (∃ (p : Path) (s : State), s.opens p HST_CTL) ∧
    (∃ (l : Fin 8) (c : List Byte) (s : State), s.hst.up = true ∧ s.hostServed = true ∧ s.hostLaneReady l = true ∧ c.length = 127 ∧
      s.hst.requests = [] ∧ leAt c 4 1 ≠ 2) ∧
    (∃ (s : State), s.hst.up = true ∧ s.hst.unacked ≠ []) ∧
    (∃ (m : Byte) (seq : BitVec 16) (s : State), s.hst.up = true) :=
  ⟨⟨{ withLane 72 (fun x => { x with peer := some peer0 }) (laneIn 72 5 (grow.setFlag HST_CTL_LINK_EN true)) with hst := Hst.off },
    by decide, by decide, by decide⟩,
   ⟨grow, by decide, by decide⟩,
   ⟨.mgt, grow, by decide⟩,
   ⟨0, (zeroBytes 127), (withLane 72 (fun x => { x with peer := some peer0 }) (laneIn 72 5 (grow.setFlag HST_CTL_LINK_EN true))), by decide,
    by decide, by decide, by decide +kernel, by decide, by decide⟩,
   ⟨{ grow with hst := { grow.hst with unacked := [default] } }, by decide, by decide⟩,
   ⟨255, 0, (withLane 72 (fun x => { x with peer := some peer0 }) (laneIn 72 5 (grow.setFlag HST_CTL_LINK_EN true))), by decide⟩⟩

theorem witness_RotationsLoadArmAndTakeEffect :
    (∃ (p : Path) (img : ImageCopy) (ph : PhaseProg) (s : State), s.opens p TOP_ROT_CTL ∧ s.prog.image = some img ∧ s.phase? = some ph) ∧
    (∃ (rot : Rotation) (s : State), s.mod.st.serving = true ∧ s.svc.rot = some rot ∧ rot.loaded = false) ∧
    (∃ (p : Path) (v : Word) (rot : Rotation) (h : U64) (s : State), s.opens p TOP_ROT_HZN_HI ∧ s.svc.rot = some rot ∧ rot.loaded = true ∧
      rot.armed = none ∧ h = BitVec.ofNat 64 (v.toNat * 2 ^ 32 + (s.reg TOP_ROT_HZN_LO).toNat)) ∧
    (∃ (p : Path) (s : State), s.opens p TOP_ROT_CTL) ∧
    (∃ (rot : Rotation) (h : U64) (s : State), s.mod.st = .growing ∧ s.svc.rot = some rot ∧ rot.armed = some h ∧ h.toNat ≤ s.count.toNat) ∧
    (∃ (rot : Rotation) (h : U64) (s : State), s.svc.rot = some rot ∧ rot.armed = some h ∧ s.count.toNat < h.toNat) ∧
    (∃ (b : Fin 4) (s : State), s.mod.st.serving = true) ∧
    (∃ (s : State), s.mod.st.serving = true ∧ s.prog.copying = true) :=
  ⟨⟨.mgt, (image0 false none), phaseA, grow, by decide, by decide, by decide⟩,
   ⟨⟨1, false, [], none, false, none⟩, { grow with svc := { grow.svc with rot := some ⟨1, false, [], none, false, none⟩ } }, by decide,
    by decide, by decide⟩,
   ⟨.mgt, 0, ⟨1, false, [], none, true, none⟩, 0x1000,
    { grow.setReg TOP_ROT_HZN_LO 0x1000 with svc := { grow.svc with rot := some ⟨1, false, [], none, true, none⟩ } }, by decide,
    by decide, by decide, by decide, by decide⟩,
   ⟨.mgt, { grow with svc := { grow.svc with rot := some ⟨1, false, [], none, true, none⟩ } }, by decide⟩,
   ⟨⟨1, false, [], none, true, some 2048⟩, 2048, { grow with svc := { grow.svc with rot := some ⟨1, false, [], none, true, some 2048⟩ } },
    by decide, by decide, by decide, by decide⟩,
   ⟨⟨1, false, [], none, true, some 2049⟩, 2049, { grow with svc := { grow.svc with rot := some ⟨1, false, [], none, true, some 2049⟩ } },
    by decide, by decide, by decide⟩,
   ⟨0, { grow with beds := grow.beds.set 0 { grow.beds[0] with leaving := true } }, by decide⟩,
   ⟨{ grow with prog := { grow.prog with copying := true } }, by decide, by decide⟩⟩

theorem witness_MicrocodeIsVerifiedAndSwapped :
    (∃ (p : Path) (n : Nat) (s : State), s.opens p TOP_UC_CTL ∧ n = s.fld TOP_UC_CTL_PORT) ∧
    (∃ (p : Path) (k : Fin 19) (s : State), s.opens p TOP_UC_CTL ∧ s.fld TOP_UC_CTL_PORT = k.val) ∧
    (∃ (p : Path) (s : State), s.opens p TOP_UC_CTL) ∧
    (∃ (k : Fin 19) (h : U64) (v : Nat) (s : State), s.mod.st.serving = true ∧ s.svc.ucArmed = some (k.val, h) ∧ h.toNat ≤ s.count.toNat ∧
      (s.svc.uc[k] : UcPort).standby = some v) :=
  ⟨⟨.mgt, 31, (grow.setFld TOP_UC_CTL_PORT 31), by decide, by decide⟩,
   ⟨.mgt, 18, { grow.setFld TOP_UC_CTL_PORT 18 with svc := { grow.svc with uc := grow.svc.uc.set 18 ⟨0x0100, some 0x0101⟩ } }, by decide,
    by decide⟩,
   ⟨.mgt, { grow with svc := { grow.svc with ucArmed := some (18, 4096) } }, by decide⟩,
   ⟨18, 2048, 0x0101, { grow with svc := { grow.svc with uc := grow.svc.uc.set 18 ⟨0x0100, some 0x0101⟩, ucArmed := some (18, 2048) } },
    by decide, by decide, by decide, by decide⟩⟩

theorem witness_StepsAndSwitchesOfTheDomains :
    (∃ (d : Fin 2) (r : Word) (s : State), s.servoOn d = true ∧ s.freeRuns d = false) ∧
    (∃ (d : Fin 2) (ns : Int) (s : State), s.servoOn d = true) ∧
    (∃ (p : Path) (s : State), s.opens p TIM_CTL) ∧
    (∃ (p : Path) (d : Fin 2) (s : State), s.opens p TIM_CTL) ∧
    (∃ (d : Fin 2) (s : State), s.timServed = true ∧ s.tim.switchTo = some d ∧ s.domainLocked d = true ∧
      (wholeNs (s.domainTime d)).toNat % 1000000000 ≤ 1) ∧
    (∃ (s : State), s.timServed = true ∧ s.flag TIM_CTL_PPS_EN = true) ∧
    (∃ (s : State), s.timServed = true ∧ s.flag TIM_CTL_PPS_EN = true ∧ s.tim.ppsSeen = true) :=
  ⟨⟨0, 5, { (grow.setFlag (TIM_D_CTL_EN.on (timOff 0)) true) with tim := { grow.tim with c := 1000000 } }, by decide, by decide⟩,
   ⟨0, -1001, (grow.setFlag (TIM_D_CTL_EN.on (timOff 0)) true), by decide⟩,
   ⟨.mgt, { grow with tim := { grow.tim with pend := some ⟨0, -1001⟩ } }, by decide⟩,
   ⟨.mgt, 1, grow, by decide⟩,
   ⟨1,
    { grow.setFlag (TIM_D_STAT_LOCKED.on (timOff 1)) true with tim := { grow.tim with switchTo := some 1, c := 1000000001, afterSwitch := some ⟨0, 2000⟩ } },
    by decide, by decide, by decide, by decide⟩,
   ⟨(grow.setFlag TIM_CTL_PPS_EN true), by decide, by decide⟩,
   ⟨{ (grow.setFlag TIM_CTL_PPS_EN true) with tim := { grow.tim with ppsSeen := true } }, by decide, by decide, by decide⟩⟩

theorem witness_ClocksFollowTheirMasters :
    (∃ (d : Fin 2) (m : PtpMsg) (s : State), s.timServed = true ∧ s.flag (TIM_D_CTL_EN.on (timOff d)) = true) ∧
    (∃ (d : Fin 2) (master : U64) (old : U64) (s : State), s.timServed = true ∧ s.flag (TIM_D_CTL_EN.on (timOff d)) = true ∧
      s.tracked d = true ∧ old = s.reg64 (TIM_D_MASTER_LO + timOff d)) ∧
    (∃ (d : Fin 2) (t1 : Int) (corr : Int) (s : State), s.timServed = true ∧ s.flag (TIM_D_CTL_EN.on (timOff d)) = true ∧
      s.tracked d = true) ∧
    (∃ (d : Fin 2) (t3 : Int) (t4 : Int) (corr : Int) (s : State), s.timServed = true ∧ s.flag (TIM_D_CTL_EN.on (timOff d)) = true ∧
      s.tracked d = true ∧ s.flag (TIM_D_CTL_P2P.on (timOff d)) = false) ∧
    (∃ (d : Fin 2) (mean : Int) (s : State), s.timServed = true ∧ s.flag (TIM_D_CTL_EN.on (timOff d)) = true ∧ s.tracked d = true ∧
      s.flag (TIM_D_CTL_P2P.on (timOff d)) = true) ∧
    (∃ (d : Fin 2) (s : State), s.timServed = true ∧ s.tracked d = true ∧ s.flag (TIM_D_CTL_EN.on (timOff d)) = true ∧
      s.flag (TIM_D_STAT_HOLDOVER.on (timOff d)) = false) :=
  ⟨⟨0, (.other true), (grow.setFlag (TIM_D_CTL_EN.on (timOff 0)) true), by decide, by decide⟩,
   ⟨0, 77, 5, ((grow.setFlag (TIM_D_CTL_EN.on (timOff 0)) true).setReg TIM_D_MASTER_LO 5), by decide, by decide, by decide, by decide⟩,
   ⟨0, -5, 1, { (grow.setFlag (TIM_D_CTL_EN.on (timOff 0)) true) with tim := { grow.tim with lockRun := grow.tim.lockRun.set 0 15 } },
    by decide, by decide, by decide⟩,
   ⟨0, 10, 20, 1, ((grow.setFlag (TIM_D_CTL_EN.on (timOff 0)) true).setFlag (TIM_D_CTL_P2P.on (timOff 0)) false), by decide, by decide,
    by decide, by decide⟩,
   ⟨0, -3, ((grow.setFlag (TIM_D_CTL_EN.on (timOff 0)) true).setFlag (TIM_D_CTL_P2P.on (timOff 0)) true), by decide, by decide, by decide,
    by decide⟩,
   ⟨0, (grow.setFlag (TIM_D_CTL_EN.on (timOff 0)) true), by decide, by decide, by decide, by decide⟩⟩

theorem witness_OrdersBurnAndStatementsAreSigned :
    (∃ (p : Path) (s : State), s.opens p SEC_CMD ∧ s.mod.st.serving = true ∧ s.sec.cmd = none) ∧
    (∃ (target : Nat) (index : Nat) (payload : List Byte) (s : State), s.sec.cmd = some (.burn target index payload) ∧ index ≤ 3 ∧
      payload.length = 128) ∧
    (∃ (target : Nat) (index : Nat) (payload : List Byte) (s : State), s.sec.cmd = some (.burn target index payload) ∧ s.fusesOk) ∧
    (∃ (p : Path) (s : State), s.opens p SEC_CMD) ∧
    (∃ (nonce : List Byte) (text : List Byte) (s : State), s.sec.cmd = some (.attest nonce) ∧ s.rsaFree = true ∧ text = s.statement nonce) ∧
    (∃ (s : State), s.mod.st ≠ .off ∧ s.debugLock = false) ∧
    (∃ (s : State), s.mod.st ≠ .off ∧ s.debugLock = true) :=
  ⟨⟨.mgt, grow, by decide, by decide, by decide⟩,
   ⟨2, 3, (List.replicate 128 0x5A), { grow with sec := { grow.sec with cmd := some (.burn 2 3 (List.replicate 128 0x5A)) } }, by decide,
    by decide, by decide +kernel⟩,
   ⟨4, 3, (List.replicate 128 0x5A), { grow with sec := { grow.sec with cmd := some (.burn 4 3 (List.replicate 128 0x5A)) } }, by decide,
    by decide⟩,
   ⟨.mgt, grow, by decide⟩,
   ⟨(zeroBytes 64), _, { grow with sec := { grow.sec with cmd := some (.attest (zeroBytes 64)) } }, by decide, by decide, rfl⟩,
   ⟨grow, by decide, by decide⟩,
   ⟨{ grow with sec := { grow.sec with fuses := grow.sec.fuses.set 9 2 } }, by decide, by decide⟩⟩

theorem witness_RegistersAreReadAndWritten :
    (∃ (p : Path) (addr : Word) (row : RegRow) (u : State) (s : State), s.opens p addr.toNat ∧ addr.toNat % 4 = 0 ∧
      addr.toNat < 0x100000 ∧ s.absentBlock addr.toNat = false ∧ rowOf addr.toNat = some row ∧ addr.toNat ≠ CLK_FREQ ∧ u = s.seen p) ∧
    (∃ (p : Path) (addr : Word) (s : State), s.pathWorks p = true ∧ addr.toNat % 4 ≠ 0) ∧
    (∃ (p : Path) (addr : Word) (s : State), s.pathWorks p = true ∧ addr.toNat % 4 = 0 ∧ addr.toNat < 0x1000000 ∧
      s.absentBlock addr.toNat = false ∧ s.blockAnswers addr.toNat = false) ∧
    (∃ (p : Path) (addr : Word) (v : Word) (row : RegRow) (u : State) (s : State), s.opens p addr.toNat ∧ addr.toNat % 4 = 0 ∧
      addr.toNat < 0x100000 ∧ s.absentBlock addr.toNat = false ∧ rowOf addr.toNat = some row ∧ u = s.seen p ∧
      u.writeLow addr.toNat v = none ∧ u.writeHigh p addr.toNat v = none) ∧
    (∃ (p : Path) (addr : Word) (v : Word) (s : State), s.opens p addr.toNat ∧ addr.toNat = PWR_BUDGET) ∧
    (∃ (p : Path) (addr : Word) (v : Word) (s : State), s.pathWorks p = true ∧ addr.toNat % 4 ≠ 0) ∧
    (∃ (p : Path) (addr : Word) (v : Word) (s : State), s.pathWorks p = false) :=
  ⟨⟨.mgt, 0x10000, ((rowOf 0x10000).getD ⟨0, 0, 0, 0, 0⟩), _, grow, by decide, by decide, by decide, by decide, by decide, by decide, rfl⟩,
   ⟨.mgt, 0x10001, grow, by decide, by decide⟩,
   ⟨.mgt, 0x10000, { waking with mod := { waking.mod with warm := true } }, by decide, by decide, by decide, by decide, by decide⟩,
   ⟨.mgt, 0x10008, 0xFFFFFFFF, ((rowOf 0x10008).getD ⟨0, 0, 0, 0, 0⟩), _, grow, by decide, by decide, by decide, by decide, by decide, rfl,
    by decide, by decide⟩,
   ⟨.mgt, (BitVec.ofNat 32 PWR_BUDGET), 0xFFFFFFFF, grow, by decide, by decide⟩,
   ⟨.mgt, 0x10003, 0, grow, by decide, by decide⟩,
   ⟨.jtag, 0x10000, 0, (modIn .fallow), by decide⟩⟩

theorem witness_ManagementTransactionsAccessTheirWords :
    (∃ (head : List Byte) (data : List Byte) (n : Nat) (k : Nat) (s : State), s.pathWorks .mgt = true ∧ head.length = 4 ∧ k < 4 ∧
      data.length = 4 * n + k) ∧
    (∃ (head : List Byte) (m : Nat) (k : Nat) (s : State), s.pathWorks .mgt = true ∧ head.length = 4 ∧ k < 4) ∧
    (∃ (bs : List Byte) (n : Nat) (s : State), s.pathWorks .mgt = true ∧ 0 < bs.length ∧ bs.length < 4) ∧
    (∃ (bs : List Byte) (n : Nat) (s : State), s.pathWorks .mgt = false) :=
  ⟨⟨[8, 0, 1, 0], [1, 2, 3, 4, 5], 1, 1, grow, by decide, by decide, by decide, by decide⟩,
   ⟨[8, 0, 1, 0], 1, 3, grow, by decide, by decide, by decide⟩,
   ⟨[8, 0, 1], 0, grow, by decide, by decide, by decide⟩,
   ⟨[], 0, (modIn .fallow), by decide⟩⟩

end Sys2Proof.Tests
end

/-!
Every command keeps the areas of the state that it does not list: one line per command, from the `Keeps` lemma of its meaning.
-/
namespace Sys2Proof.Machine
/-- A command keeps the state outside its areas, the queue, the canonical stores and what has been burned. -/
theorem exec_keeps {s t : State} : ∀ c : Instr, exec c s = .next t → Keeps (commandAreas c) s t
  | .mainRailsValid _, h => .execMainRailsValid (.refl _ s) rfl _ h
  | .dramInitDone, h => .execDramInitDone (.refl _ s) rfl h
  | .firmwareLoadComplete, h => .execFirmwareLoadComplete (.refl _ s) rfl h
  | .imageLoadComplete, h => .execImageLoadComplete (.refl _ s) rfl h
  | .mainRailsLost, h => .execMainRailsLost (.refl _ s) rfl h
  | .brownOut, h => .execBrownOut (.refl _ s) rfl h
  | .pwrMainEnLow, h => .execPwrMainEnLow (.refl _ s) rfl h
  | .rstWarmNAssert, h => .execRstWarmNAssert (.refl _ s) rfl h
  | .rstWarmNRelease, h => .execRstWarmNRelease (.refl _ s) rfl h
  | .vstbyLost, h => .execVstbyLost (.refl _ s) rfl h
  | .topWarmReset _, h => .execTopWarmReset (.refl _ s) rfl _ h
  | .drainComplete, h => .execDrainComplete (.refl _ s) rfl h
  | .warmWakingComplete _ _, h => .execWarmWakingComplete (.refl _ s) rfl _ _ h
  | .firmwareWatchdogExpiry, h => .execFirmwareWatchdogExpiry (.refl _ s) rfl h
  | .thermalTrip _ _, h => .execThermalTrip (.refl _ s) rfl _ _ h
  | .tripGating, h => .execTripGating (.refl _ s) rfl h
  | .criticalShutdown _ _, h => .execCriticalShutdown (.refl _ s) rfl _ _ h
  | .thermalWarning _ _, h => .execThermalWarning (.refl _ s) rfl _ _ h
  | .dramStackHot _ _, h => .execDramStackHot (.refl _ s) rfl _ _ h
  | .powerMeasurement _ _ _ _, h => .execPowerMeasurement (.refl _ s) rfl _ _ _ _ h
  | .powerAlarm, h => .execPowerAlarm (.refl _ s) rfl h
  | .pllUnlock _, h => .execPllUnlock (.refl _ s) rfl _ h
  | .idleTimerExpiry, h => .execIdleTimerExpiry (.refl _ s) rfl h
  | .fallowNow _, h => .execFallowNow (.refl _ s) rfl _ h
  | .fallowAbort _, h => .execFallowAbort (.refl _ s) rfl _ h
  | .fallowEntryComplete, h => .execFallowEntryComplete (.refl _ s) rfl h
  | .mgtAddressMatch _ _, h => .execMgtAddressMatch (.refl _ s) rfl _ _ h
  | .hostWake l, h => .execHostWake (.refl _ s) rfl l h
  | .restoreComplete, h => .execRestoreComplete (.refl _ s) rfl h
  | .tick _ _, h => .execTick (.refl _ s) rfl _ _ h
  | .tickLoss, h => .execTickLoss (.refl _ s) rfl h
  | .flywheelTick, h => .execFlywheelTick (.refl _ s) rfl h
  | .tickPeriodMeasured _, h => .execTickPeriodMeasured (.refl _ s) rfl _ h
  | .acceptanceResume, h => .execAcceptanceResume (.refl _ s) rfl h
  | .presetArm _, h => .execPresetArm (.refl _ s) rfl _ h
  | .presetApply, h => .execPresetApply (.refl _ s) rfl h
  | .launchCommit _ _, h => .execLaunchCommit (.refl _ s) rfl _ _ h
  | .launch, h => .execLaunch (.refl _ s) rfl h
  | .laneBlockReceived _ _, h => .execLaneBlockReceived (.refl _ s) rfl _ _ h
  | .frameItem _ _ _ _ _ _ _, h => .execFrameItem (.refl _ s) rfl _ _ _ _ _ _ _ h
  | .summaryItem _ _ _ _ _ _, h => .execSummaryItem (.refl _ s) rfl _ _ _ _ _ _ h
  | .frameEntry _ _ _ _, h => .execFrameEntry (.refl _ s) rfl _ _ _ _ h
  | .bedExit _ _ _ _, h => .execBedExit (.refl _ s) rfl _ _ _ _ h
  | .verdictOutput _ _ _ _ _, h => .execVerdictOutput (.refl _ s) rfl _ _ _ _ _ h
  | .streamRingEntryWrite _ _ _, h => .execStreamRingEntryWrite (.refl _ s) rfl _ _ _ h
  | .settledAnswer _ _ _ _ _, h => .execSettledAnswer (.refl _ s) rfl _ _ _ _ _ h
  | .settledRelease _ _ _, h => .execSettledRelease (.refl _ s) rfl _ _ _ h
  | .slabClose _ _ _, h => .execSlabClose (.refl _ s) rfl _ _ _ h
  | .contextPackageWrite _ _ _ _ _ _ _, h => .execContextPackageWrite (.refl _ s) rfl _ _ _ _ _ _ _ h
  | .warmingStart _, h => .execWarmingStart (.refl _ s) rfl _ h
  | .warmingEnd _, h => .execWarmingEnd (.refl _ s) rfl _ h
  | .engineReset _ _, h => .execEngineReset (.refl _ s) rfl _ _ h
  | .checkpointHorizon _, h => .execCheckpointHorizon (.refl _ s) rfl _ h
  | .checkpointComplete _, h => .execCheckpointComplete (.refl _ s) rfl _ h
  | .spillUnit _ _ _ _ _, h => .execSpillUnit (.refl _ s) rfl _ _ _ _ _ h
  | .dramRefresh _ _ _, h => .execDramRefresh (.refl _ s) rfl _ _ _ h
  | .dramTransactionBoundary _ _ _, h => .execDramTransactionBoundary (.refl _ s) rfl _ _ _ h
  | .siltMoverRetry _ _, h => .execSiltMoverRetry (.refl _ s) rfl _ _ h
  | .siltColumnRepairDone _ _, h => .execSiltColumnRepairDone (.refl _ s) rfl _ _ h
  | .looseWrite _ _, h => .execLooseWrite (.refl _ s) rfl _ _ h
  | .modeChange, h => .execModeChange (.refl _ s) rfl h
  | .recordEntry _ _ _, h => .execRecordEntry (.refl _ s) rfl _ _ _ h
  | .recordHoldRelease, h => .execRecordHoldRelease (.refl _ s) rfl h
  | .sealClose, h => .execSealClose (.refl _ s) rfl h
  | .sealNow _, h => .execSealNow (.refl _ s) rfl _ h
  | .sealSigned _, h => .execSealSigned (.refl _ s) rfl _ h
  | .mirrorAck _, h => .execMirrorAck (.refl _ s) rfl _ h
  | .mirrorTimeout, h => .execMirrorTimeout (.refl _ s) rfl h
  | .orphanTailForward _, h => .execOrphanTailForward (.refl _ s) rfl _ h
  | .selfTestComplete _ _ _, h => .execSelfTestComplete (.refl _ s) rfl _ _ _ h
  | .spareColumnLoaded _, h => .execSpareColumnLoaded (.refl _ s) rfl _ h
  | .spareColumnSwitch _, h => .execSpareColumnSwitch (.refl _ s) rfl _ h
  | .ringFrameReceived _ _ _, h => .execRingFrameReceived (.refl _ s) rfl _ _ _ h
  | .elasticCellReceived _ _, h => .execElasticCellReceived (.refl _ s) rfl _ _ h
  | .elasticRetransmit _, h => .execElasticRetransmit (.refl _ s) rfl _ h
  | .combiningSlot _ _ _, h => .execCombiningSlot (.refl _ s) rfl _ _ _ h
  | .ringLinkDown _, h => .execRingLinkDown (.refl _ s) rfl _ h
  | .reroute, h => .execReroute (.refl _ s) rfl h
  | .leadTakeover, h => .execLeadTakeover (.refl _ s) rfl h
  | .ringHello _ _ _ _ _, h => .execRingHello (.refl _ s) rfl _ _ _ _ _ h
  | .launchMessage _ _ _, h => .execLaunchMessage (.refl _ s) rfl _ _ _ h
  | .launchConfirmDeadline, h => .execLaunchConfirmDeadline (.refl _ s) rfl h
  | .roleChangeMessage _, h => .execRoleChangeMessage (.refl _ s) rfl _ h
  | .lckEn _ _, h => .execLckEn (.refl _ s) rfl _ _ h
  | .lckStartCommit _ _, h => .execLckStartCommit (.refl _ s) rfl _ _ h
  | .lckStart _, h => .execLckStart (.refl _ s) rfl _ h
  | .lckWindowClose _ _, h => .execLckWindowClose (.refl _ s) rfl _ _ h
  | .lckPartnerDigest _ _, h => .execLckPartnerDigest (.refl _ s) rfl _ _ h
  | .lckFreezeMessage, h => .execLckFreezeMessage (.refl _ s) rfl h
  | .lckLocateDone _ _, h => .execLckLocateDone (.refl _ s) rfl _ _ h
  | .lckSnapshot, h => .execLckSnapshot (.refl _ s) rfl h
  | .lckFreeze _, h => .execLckFreeze (.refl _ s) rfl _ h
  | .lckRearm _, h => .execLckRearm (.refl _ s) rfl _ h
  | .lckCaptureGap _, h => .execLckCaptureGap (.refl _ s) rfl _ h
  | .bedSelftest _ _, h => .execBedSelftest (.refl _ s) rfl _ _ h
  | .mirrorRelease _ _ _, h => .execMirrorRelease (.refl _ s) rfl _ _ _ h
  | .mirrorReleaseBoundary, h => .execMirrorReleaseBoundary (.refl _ s) rfl h
  | .mirrorRejoinLoaded _, h => .execMirrorRejoinLoaded (.refl _ s) rfl _ h
  | .corrArm _ _ _, h => .execCorrArm (.refl _ s) rfl _ _ _ h
  | .corrCommit _, h => .execCorrCommit (.refl _ s) rfl _ h
  | .corrCancel _ _, h => .execCorrCancel (.refl _ s) rfl _ _ h
  | .grnSnapshotStatus _, h => .execGrnSnapshotStatus (.refl _ s) rfl _ h
  | .grnMacScan _, h => .execGrnMacScan (.refl _ s) rfl _ h
  | .grnBankMarch _, h => .execGrnBankMarch (.refl _ s) rfl _ h
  | .grnTestDone _, h => .execGrnTestDone (.refl _ s) rfl _ h
  | .grnWindowWrite _ _ _, h => .execGrnWindowWrite (.refl _ s) rfl _ _ _ h
  | .sowBegin _ _, h => .execSowBegin (.refl _ s) rfl _ _ h
  | .sowData _ _ _, h => .execSowData (.refl _ s) rfl _ _ _ h
  | .sowEnd _, h => .execSowEnd (.refl _ s) rfl _ h
  | .regRead _ _, h => .execRegRead (.refl _ s) rfl _ _ h
  | .regWrite _ _ _, h => .execRegWrite (.refl _ s) rfl _ _ _ h
  | .flashErase _ _ _, h => .execFlashErase (.refl _ s) rfl _ _ _ h
  | .flashProgram _ _ _ _, h => .execFlashProgram (.refl _ s) rfl _ _ _ _ h
  | .flashRead _ _, h => .execFlashRead (.refl _ s) rfl _ _ h
  | .recAck _ _ _, h => .execRecAck (.refl _ s) rfl _ _ _ h
  | .captureRead _ _, h => .execCaptureRead (.refl _ s) rfl _ _ h
  | .coldWrite _ _ _, h => .execColdWrite (.refl _ s) rfl _ _ _ h
  | .linkMessage _ _, h => .execLinkMessage (.refl _ s) rfl _ _ h
  | .hostCellReceived _ _, h => .execHostCellReceived (.refl _ s) rfl _ _ h
  | .hostRetransmit, h => .execHostRetransmit (.refl _ s) rfl h
  | .hostLinkUp, h => .execHostLinkUp (.refl _ s) rfl h
  | .hostLinkDown, h => .execHostLinkDown (.refl _ s) rfl h
  | .linkReset _, h => .execLinkReset (.refl _ s) rfl _ h
  | .flashRestart _, h => .execFlashRestart (.refl _ s) rfl _ h
  | .rotLoad _, h => .execRotLoad (.refl _ s) rfl _ h
  | .rotLoadComplete, h => .execRotLoadComplete (.refl _ s) rfl h
  | .rotArm _ _, h => .execRotArm (.refl _ s) rfl _ _ h
  | .rotCancel _, h => .execRotCancel (.refl _ s) rfl _ h
  | .rotChangeHorizon, h => .execRotChangeHorizon (.refl _ s) rfl h
  | .oldBedIdle _, h => .execOldBedIdle (.refl _ s) rfl _ h
  | .stagedImageCopyDone, h => .execStagedImageCopyDone (.refl _ s) rfl h
  | .ucVerify _, h => .execUcVerify (.refl _ s) rfl _ h
  | .ucArm _, h => .execUcArm (.refl _ s) rfl _ h
  | .ucCancel _, h => .execUcCancel (.refl _ s) rfl _ h
  | .ucSwap, h => .execUcSwap (.refl _ s) rfl h
  | .bindCopyActive _, h => .execBindCopyActive (.refl _ s) rfl _ h
  | .bindWriteEntry _, h => .execBindWriteEntry (.refl _ s) rfl _ h
  | .bindReadPending _, h => .execBindReadPending (.refl _ s) rfl _ h
  | .bindReadActive _, h => .execBindReadActive (.refl _ s) rfl _ h
  | .bindApply _, h => .execBindApply (.refl _ s) rfl _ h
  | .bindCancel _, h => .execBindCancel (.refl _ s) rfl _ h
  | .bindCommitArm _ _, h => .execBindCommitArm (.refl _ s) rfl _ _ h
  | .bindCommitHorizon, h => .execBindCommitHorizon (.refl _ s) rfl h
  | .quarClearEntry _, h => .execQuarClearEntry (.refl _ s) rfl _ h
  | .quarClearAll _, h => .execQuarClearAll (.refl _ s) rfl _ h
  | .txBlock _, h => .execTxBlock (.refl _ s) rfl _ h
  | .trainComplete _, h => .execTrainComplete (.refl _ s) rfl _ h
  | .trainTimeout _, h => .execTrainTimeout (.refl _ s) rfl _ h
  | .rateStepDone _ _, h => .execRateStepDone (.refl _ s) rfl _ _ h
  | .verifyComplete _, h => .execVerifyComplete (.refl _ s) rfl _ h
  | .laneLockLossTimeout _, h => .execLaneLockLossTimeout (.refl _ s) rfl _ h
  | .lnkRetrain _ _, h => .execLnkRetrain (.refl _ s) rfl _ _ h
  | .prbsTest _ _, h => .execPrbsTest (.refl _ s) rfl _ _ h
  | .prbsTestDone _ _, h => .execPrbsTestDone (.refl _ s) rfl _ _ h
  | .eyePointStart _ _, h => .execEyePointStart (.refl _ s) rfl _ _ h
  | .eyePointDone _ _, h => .execEyePointDone (.refl _ s) rfl _ _ h
  | .peakStep _, h => .execPeakStep (.refl _ s) rfl _ h
  | .decSpareSwitch, h => .execDecSpareSwitch (.refl _ s) rfl h
  | .ptpMessage _ _, h => .execPtpMessage (.refl _ s) rfl _ _ h
  | .holdoverEntry _, h => .execHoldoverEntry (.refl _ s) rfl _ h
  | .rateChange _ _, h => .execRateChange (.refl _ s) rfl _ _ h
  | .timeStep _ _, h => .execTimeStep (.refl _ s) rfl _ _ h
  | .jumpAccept _, h => .execJumpAccept (.refl _ s) rfl _ h
  | .switchRequest _ _, h => .execSwitchRequest (.refl _ s) rfl _ _ h
  | .domainSwitch, h => .execDomainSwitch (.refl _ s) rfl h
  | .ppsEdge, h => .execPpsEdge (.refl _ s) rfl h
  | .ppsMissing, h => .execPpsMissing (.refl _ s) rfl h
  | .burnOrder _, h => .execBurnOrder (.refl _ s) rfl _ h
  | .burnComplete _, h => .execBurnComplete (.refl _ s) rfl _ h
  | .attest _, h => .execAttest (.refl _ s) rfl _ h
  | .attestComplete, h => .execAttestComplete (.refl _ s) rfl h
  | .privateJtag, h => .execPrivateJtag (.refl _ s) rfl h
  | .mgtTransaction _ _, h => .execMgtTransaction (.refl _ s) rfl _ _ h
  | .readClear _ _, h => .execReadClear (.refl _ s) rfl _ _ h
  | .leadingRegisterRead _ _, h => .execLeadingRegisterRead (.refl _ s) rfl _ _ h
  | .registerWrite _ _ _, h => .execRegisterWrite (.refl _ s) rfl _ _ _ h
  | .flashDirectoryRead, h => .execFlashDirectoryRead (.refl _ s) rfl h
end Sys2Proof.Machine

/-!
What an update leaves: the rules of `Framed`, for writes of registers and of one area.
-/
namespace Sys2Proof.Machine

theorem Only.refl (A : List Area) (s : State) : Only A s s := fun p _ => p.same_refl s

theorem Only.trans {A : List Area} {a b c : State} (h : Only A a b) (k : Only A b c) : Only A a c :=
  fun p hp => Area.same_trans (h p hp) (k p hp)

theorem Only.mono {A B : List Area} {s t : State} (h : Only A s t) (hA : A ⊆ B) : Only B s t :=
  fun p hp => h p fun hm => hp (hA hm)

theorem Framed.refl (A : List Area) (R : List Nat) (s : State) : Framed A R s s := ⟨Only.refl A s, fun _ _ => rfl⟩

theorem Framed.trans {A : List Area} {R : List Nat} {a b c : State} (h : Framed A R a b) (k : Framed A R b c) : Framed A R a c :=
  ⟨h.1.trans k.1, fun n hn => (k.2 n hn).trans (h.2 n hn)⟩

theorem Framed.mono {A B : List Area} {R Q : List Nat} {s t : State} (h : Framed A R s t) (hA : A ⊆ B) (hR : R ⊆ Q) : Framed B Q s t :=
  ⟨h.1.mono hA, fun n hn => h.2 n fun hm => hn (hR hm)⟩

/-- An operation that keeps the areas outside `A`, and of the registers those outside `R`. -/
theorem Keeps.framed {A : List Area} {R : List Nat} {s t : State} (k : Keeps A s t) (hr : ∀ a, a ∉ R → t.reg a = s.reg a) :
    Framed A R s t := ⟨k.only, hr⟩

/-- The area an update is about reads anew, every other as before; no register is written. -/
theorem Framed.area {A : List Area} {R : List Nat} {r s t : State} (h : Framed A R r s) (q : Area) (hq : q ∈ A) (hr : t.regs = s.regs)
    (ho : ∀ p, p ≠ q → p.same s t) : Framed A R r t :=
  h.trans ⟨fun p hp => ho p fun e => hp (e ▸ hq), fun a _ => State.reg_congr hr a⟩

theorem Framed.setHz {A : List Area} {R : List Nat} {r s : State} (h : Framed A R r s) (hA : Area.hz ∈ A) (z : Hz) :
    Framed A R r { s with hz := z } :=
  h.area .hz hA rfl fun p hp => by cases p <;> first | rfl | exact absurd rfl hp

theorem Framed.setMod {A : List Area} {R : List Nat} {r s : State} (h : Framed A R r s) (hA : Area.mod ∈ A) (z : ModCtl) :
    Framed A R r { s with mod := z } :=
  h.area .mod hA rfl fun p hp => by cases p <;> first | rfl | exact absurd rfl hp

theorem Framed.setRing {A : List Area} {R : List Nat} {r s : State} (h : Framed A R r s) (hA : Area.ring ∈ A) (z : Ring) :
    Framed A R r { s with ring := z } :=
  h.area .ring hA rfl fun p hp => by cases p <;> first | rfl | exact absurd rfl hp

theorem Framed.idleZero {A : List Area} {R : List Nat} {r s : State} (h : Framed A R r s) (hA : Area.mod ∈ A) : Framed A R r s.idleZero :=
  h.setMod hA _

theorem Framed.setReg {A : List Area} {R : List Nat} {r s : State} (h : Framed A R r s) (hA : Area.regs ∈ A) {a : Nat} (ha : a ∈ R) (v : Word) :
    Framed A R r (s.setReg a v) :=
  h.trans ((Keeps.setReg (.refl A s) (by simpa [within] using hA) a v).framed fun b hb => s.reg_setReg_ne v fun e => hb (e ▸ ha))

theorem Framed.setFld {A : List Area} {R : List Nat} {r s : State} (h : Framed A R r s) (hA : Area.regs ∈ A) {f : Field} (hf : f.addr ∈ R)
    (v : Nat) : Framed A R r (s.setFld f v) := h.setReg hA hf _

theorem Framed.setFlag {A : List Area} {R : List Nat} {r s : State} (h : Framed A R r s) (hA : Area.regs ∈ A) {f : Field} (hf : f.addr ∈ R)
    (b : Bool) : Framed A R r (s.setFlag f b) := h.setFld hA hf _

/-- An EVENT record, with the seal that may close before it. -/
theorem Framed.writeEvent {A : List Area} {R : List Nat} {r s : State} (h : Framed A R r s) (hA : [Area.regs, .aug] ⊆ A)
    (hR : [AUG_RATE, AUG_STAT] ⊆ R) (code : Nat) (args : List Nat) : Framed A R r (s.writeEvent code args) :=
  h.trans ⟨(s.writeEvent_only code args).mono hA,
    fun _ ha => s.writeEvent_reg code args (fun e => ha (hR (by simp [e]))) fun e => ha (hR (by simp [e]))⟩

end Sys2Proof.Machine

/-!
A register access that completes: what being seen leaves of itself, and that its effect then takes place (R531, R540).
-/
namespace Sys2Proof.Machine

/-- An access moves the idle timer and an entry to Fallow, and nothing else of the module control (R32, R508). -/
theorem State.accessSeen_mod (s : State) : ∃ e i n b,
    s.accessSeen = { s with mod := { s.mod with entry := e, idle := i, idleNs := n, busyTick := b } } := by
  unfold State.accessSeen State.wakeEntry State.idleRestart
  split <;> split <;> exact ⟨_, _, _, _, rfl⟩

theorem State.usePrivate_framed (s : State) : Framed [.regs, .aug, .sec] [SEC_STAT, AUG_RATE, AUG_STAT] s s.usePrivate := by
  refine (Keeps.usePrivate (.refl _ s) rfl).framed fun a ha => ?_
  simp only [List.mem_cons, List.not_mem_nil, or_false, not_or] at ha
  unfold State.usePrivate
  split
  · rfl
  · rw [State.writeEvent_reg _ _ _ ha.2.1 ha.2.2, State.reg_setFlag_ne _ _ ha.1]
    rfl

theorem State.usePrivate_shadow (s : State) : s.usePrivate.sec.shadow = s.sec.shadow := by
  unfold State.usePrivate
  split
  · rfl
  · exact (congrArg Sec.shadow (State.writeEvent_only _ 0x0104 [] .sec (by decide))).trans rfl

theorem State.usePrivate_canNumber (s : State) : s.usePrivate.canNumber = s.canNumber := by
  unfold State.usePrivate
  split
  · rfl
  · exact State.writeEventAt_canNumber _ _ _ _ _

theorem State.pathUsed_framed (s : State) (p : Path) : Framed [.regs, .aug, .sec] [SEC_STAT, AUG_RATE, AUG_STAT] s (s.pathUsed p) := by
  unfold State.pathUsed
  split
  · exact s.usePrivate_framed
  · exact Framed.refl _ _ s

theorem State.pathUsed_shadow (s : State) (p : Path) : (s.pathUsed p).sec.shadow = s.sec.shadow := by
  unfold State.pathUsed
  split
  · exact s.usePrivate_shadow
  · rfl

theorem State.pathUsed_canNumber (s : State) (p : Path) : (s.pathUsed p).canNumber = s.canNumber := by
  unfold State.pathUsed
  split
  · exact s.usePrivate_canNumber
  · rfl

/-- What an access that is seen changes: the first use of JTAG and its record, the idle timer, an entry to Fallow. -/
theorem State.seen_framed (s : State) (p : Path) :
    Framed [.regs, .mod, .aug, .sec] [SEC_STAT, AUG_RATE, AUG_STAT] s (s.seen p) := by
  obtain ⟨e, i, n, b, h⟩ := (s.pathUsed p).accessSeen_mod
  rw [State.seen, h]
  exact ((s.pathUsed_framed p).mono (by decide) (List.Subset.refl _)).setMod (by decide) _

theorem State.seen_mod (s : State) (p : Path) : ∃ e i n b,
    (s.seen p).mod = { s.mod with entry := e, idle := i, idleNs := n, busyTick := b } := by
  obtain ⟨e, i, n, b, h⟩ := (s.pathUsed p).accessSeen_mod
  have hm : (s.pathUsed p).mod = s.mod := (s.pathUsed_framed p).1 .mod (by decide)
  exact ⟨e, i, n, b, by rw [State.seen, h, hm]⟩

theorem State.seen_shadow (s : State) (p : Path) : (s.seen p).sec.shadow = s.sec.shadow := by
  obtain ⟨e, i, n, b, h⟩ := (s.pathUsed p).accessSeen_mod
  rw [State.seen, h]
  exact s.pathUsed_shadow p

@[simp] theorem State.seen_canNumber (s : State) (p : Path) : (s.seen p).canNumber = s.canNumber := by
  obtain ⟨e, i, n, b, h⟩ := (s.pathUsed p).accessSeen_mod
  rw [State.seen, h]
  exact s.pathUsed_canNumber p

@[simp] theorem State.seen_st (s : State) (p : Path) : (s.seen p).mod.st = s.mod.st := by
  obtain ⟨e, i, n, b, h⟩ := s.seen_mod p
  rw [h]

@[simp] theorem State.seen_hz (s : State) (p : Path) : (s.seen p).hz = s.hz := (s.seen_framed p).1 .hz (by decide)

@[simp] theorem State.seen_count (s : State) (p : Path) : (s.seen p).count = s.count := congrArg Hz.count (s.seen_hz p)

@[simp] theorem State.setReg_count (s : State) (a : Nat) (v : Word) : (s.setReg a v).count = s.count := rfl

@[simp] theorem State.seen_ring (s : State) (p : Path) : (s.seen p).ring = s.ring := (s.seen_framed p).1 .ring (by decide)

theorem State.seen_reg (s : State) (p : Path) {a : Nat} (ha : a ∉ [SEC_STAT, AUG_RATE, AUG_STAT]) : (s.seen p).reg a = s.reg a :=
  (s.seen_framed p).2 a ha

theorem State.seen_fld (s : State) (p : Path) {f : Field} (hf : f.addr ∉ [SEC_STAT, AUG_RATE, AUG_STAT]) : (s.seen p).fld f = s.fld f :=
  State.fld_of_reg (s.seen_reg p hf)

theorem State.seen_flag (s : State) (p : Path) {f : Field} (hf : f.addr ∉ [SEC_STAT, AUG_RATE, AUG_STAT]) : (s.seen p).flag f = s.flag f :=
  State.flag_of_reg (s.seen_reg p hf)

theorem State.seen_absentBlock (s : State) (p : Path) (a : Nat) : (s.seen p).absentBlock a = s.absentBlock a := by
  unfold State.absentBlock State.bedPresent State.isB State.shadowBytes
  rw [State.seen_shadow]

theorem State.seen_blockAnswers (s : State) (p : Path) (a : Nat) : (s.seen p).blockAnswers a = s.blockAnswers a := by
  obtain ⟨e, i, n, b, h⟩ := s.seen_mod p
  unfold State.blockAnswers
  rw [h]

/-- A write that reaches its register has its effect, on the state in which it has been seen. -/
theorem State.via_of_opens {s : State} {p : Path} {a : Nat} (h : s.opens p a) (f : State → State) : s.via p a f = f (s.seen p) := by
  obtain ⟨hp, ha, hb⟩ := h
  have ha' := (s.seen_absentBlock p a).trans ha
  have hb' := (s.seen_blockAnswers p a).trans hb
  unfold State.seen at ha' hb' ⊢
  simp only [State.via, hp, ha', hb', if_true, if_false, Bool.false_eq_true]

end Sys2Proof.Machine

/-!
Launch commits (R55, R450): what committing and refusing a launch horizon do.
-/
namespace Sys2Proof.Machine

/-- A refused launch changes HZN_STAT and writes its record (R55). -/
theorem State.refuseLaunch_framed (s : State) (n : Nat) :
    Framed [.regs, .aug] [HZN_STAT, AUG_RATE, AUG_STAT] s (s.refuseLaunch n) :=
  ((((Framed.refl _ _ s).setFlag (by decide) (by decide) false).setFlag (by decide) (by decide) true).setFld
    (f := HZN_STAT_LREF_CODE) (by decide) (by decide) n).writeEvent (by decide) (by decide) _ _

theorem State.refuseLaunch_pend (s : State) (n : Nat) : (s.refuseLaunch n).flag HZN_STAT_LAUNCH_PEND = false := by
  unfold State.refuseLaunch
  rw [State.flag_writeEvent _ _ _ (by decide) (by decide), State.flag_setFld_apart _ _ (by decide),
    State.flag_setFlag_apart _ _ (by decide), State.flag_setFlag _ _ _ (by decide) rfl]

theorem State.refuseLaunch_lref (s : State) (n : Nat) : (s.refuseLaunch n).flag HZN_STAT_LREF = true := by
  unfold State.refuseLaunch
  rw [State.flag_writeEvent _ _ _ (by decide) (by decide), State.flag_setFld_apart _ _ (by decide),
    State.flag_setFlag _ _ _ (by decide) rfl]

theorem State.refuseLaunch_code (s : State) {n : Nat} (hn : n < 16) : (s.refuseLaunch n).fld HZN_STAT_LREF_CODE = n := by
  unfold State.refuseLaunch
  rw [State.fld_writeEvent _ _ _ (by decide) (by decide), State.fld_setFld _ _ _ (by decide)]
  exact Nat.mod_eq_of_lt hn

theorem State.refuseLaunch_last (s : State) (n : Nat) (hn : s.canNumber = true) :
    (s.refuseLaunch n).lastEvent = some (0x0103, [n]) := State.writeEvent_last _ _ _ hn

/-- A refused launch leaves the flags of HZN_STAT other than LAUNCH_PEND and those of the refusal. -/
theorem State.refuseLaunch_flag (s : State) (n : Nat) {f : Field} (ha : f.addr = HZN_STAT) (hl : f.lo + f.w ≤ 3 ∨ 4 ≤ f.lo)
    (hh : f.lo + f.w ≤ 10) : (s.refuseLaunch n).flag f = s.flag f := by
  have hfit : f.fits := by unfold Field.fits; omega
  unfold State.refuseLaunch
  rw [State.flag_writeEvent _ _ _ (ha ▸ by decide) (ha ▸ by decide),
    State.flag_setFld_apart _ _ (.inr ⟨.inr (hh.trans (by decide)), hfit⟩),
    State.flag_setFlag_apart (f := HZN_STAT_LREF) _ _ (.inr ⟨.inr hh, hfit⟩),
    State.flag_setFlag_apart (f := HZN_STAT_LAUNCH_PEND) _ _ (.inr ⟨hl.symm, hfit⟩)]

/-- A horizon is accepted where it stands 2,048 ticks ahead and is a boundary (R55). -/
theorem State.commitCode_eq_zero (s : State) (h : U64) :
    s.commitCode h = 0 ↔ s.count.toNat + 2048 ≤ h.toNat ∧ lowZero 10 h = true := by
  unfold State.commitCode
  split
  · simp; omega
  · cases lowZero 10 h
    · simp
    · simp; omega

/-- The codes of a refused commit: 1 for a horizon too near, 2 for one that is no boundary (Table 2.10, log entry 106). -/
theorem State.commitCode_refused (s : State) {h : U64} (hr : h.toNat < s.count.toNat + 2048 ∨ lowZero 10 h = false) :
    s.commitCode h = if h.toNat < s.count.toNat + 2048 then 1 else 2 := by
  unfold State.commitCode
  split
  · rfl
  · rw [hr.resolve_left ‹_›]; rfl

theorem State.commitCode_lt (s : State) (h : U64) : s.commitCode h < 16 := by
  unfold State.commitCode
  split
  · decide
  · split <;> decide

theorem State.commitCode_congr {s t : State} (h : s.hz = t.hz) (x : U64) : s.commitCode x = t.commitCode x := by
  unfold State.commitCode State.count
  rw [h]

@[simp] theorem State.idleZero_regs (s : State) : s.idleZero.regs = s.regs := rfl

theorem State.commitLaunch_accepted {s : State} {h : U64} (hc : s.commitCode h = 0) :
    s.commitLaunch h = (({ s with hz := { s.hz with launchAt := h } } : State).setFlag HZN_STAT_LAUNCH_PEND true).idleZero := if_pos hc

theorem State.commitLaunch_refused {s : State} {h : U64} (hc : s.commitCode h ≠ 0) :
    s.commitLaunch h = s.refuseLaunch (s.commitCode h) := if_neg hc

theorem State.commitLaunch_accepted_framed {s : State} {h : U64} (hc : s.commitCode h = 0) :
    Framed [.regs, .mod, .hz] [HZN_STAT] s (s.commitLaunch h) := by
  rw [State.commitLaunch_accepted hc]
  exact (((Framed.refl _ _ s).setHz (by decide) { s.hz with launchAt := h }).setFlag (by decide) (by decide) true).idleZero (by decide)

theorem State.commitLaunch_accepted_hz {s : State} {h : U64} (hc : s.commitCode h = 0) :
    (s.commitLaunch h).hz = { s.hz with launchAt := h } := by
  rw [State.commitLaunch_accepted hc]
  rfl

theorem State.commitLaunch_accepted_pend {s : State} {h : U64} (hc : s.commitCode h = 0) :
    (s.commitLaunch h).flag HZN_STAT_LAUNCH_PEND = true := by
  rw [State.commitLaunch_accepted hc, State.flag_congr (State.idleZero_regs _), State.flag_setFlag _ _ _ (by decide) rfl]

/-- The horizon that a write of HZN_LAUNCH_HI names: the word written over the low word that stands (R11, R55). -/
def State.launchHorizon (s : State) (v : Word) : U64 := BitVec.ofNat 64 (v.toNat * 2 ^ 32 + (s.reg HZN_LAUNCH_LO).toNat)

theorem State.reg64_setReg_launch (s : State) (v : Word) : (s.setReg HZN_LAUNCH_HI v).reg64 HZN_LAUNCH_LO = s.launchHorizon v := by
  unfold State.reg64 State.launchHorizon
  rw [show HZN_LAUNCH_LO + 4 = HZN_LAUNCH_HI from rfl, State.reg_setReg, State.reg_setReg_ne _ _ (by decide)]

/-- A module of a cascade that is not its lead ignores the write (R450). -/
theorem State.launchWrite_member {s : State} (v : Word) (hc : s.flag RNG_CTL_CASC_EN = true) (hr : s.role ≠ 1) :
    s.launchWrite v = s.setFlag RNG_STAT_LOCAL_LAUNCH true := by
  unfold State.launchWrite
  rw [if_pos (by simp [hc, hr])]

/-- A stand-alone module commits the horizon written (R55). -/
theorem State.launchWrite_alone {s : State} (v : Word) (hc : s.flag RNG_CTL_CASC_EN = false) :
    s.launchWrite v = (s.setReg HZN_LAUNCH_HI v).commitLaunch (s.launchHorizon v) := by
  have hc' : (s.setReg HZN_LAUNCH_HI v).flag RNG_CTL_CASC_EN = false := (s.flag_setReg_ne v (by decide)).trans hc
  unfold State.launchWrite
  rw [if_neg (by simp [hc])]
  dsimp only
  rw [hc', State.reg64_setReg_launch]
  exact if_neg Bool.false_ne_true

section
variable {s : State} {v : Word}

/-- What the lead of a cascade does with the horizon written (R450). -/
theorem State.launchWrite_lead (hc : s.flag RNG_CTL_CASC_EN = true) (hr : s.role = 1) {u : State} (hu : u = s.setReg HZN_LAUNCH_HI v)
    {h : U64} (hh : h = s.launchHorizon v) :
    s.launchWrite v =
      if u.commitCode h ≠ 0 then (u.commitLaunch h).setReg RNG_LAUNCH 1
      else if decide (h.toNat < u.count.toNat + 4096) = true then (u.setFlag HZN_STAT_LAUNCH_PEND false).setReg RNG_LAUNCH 1
      else ({ (u.commitLaunch h).setReg RNG_LAUNCH 0 with
        ring := { ((u.commitLaunch h).setReg RNG_LAUNCH 0).ring with confirmed := [], launchOpen := true } } : State).sendAll 7 [0, h.toNat] := by
  have hc' : u.flag RNG_CTL_CASC_EN = true := by rw [hu, State.flag_setReg_ne _ _ (by decide), hc]
  have hg : u.reg64 HZN_LAUNCH_LO = h := by rw [hu, hh, State.reg64_setReg_launch]
  unfold State.launchWrite
  rw [if_neg (by simp [hr])]
  dsimp only
  rw [← hu, hc', hg]
  exact if_pos rfl

/-- The lead refuses a horizon that fails a test of R55 with that test's code. -/
theorem State.launchWrite_lead_refused (hc : s.flag RNG_CTL_CASC_EN = true) (hr : s.role = 1) (h0 : s.commitCode (s.launchHorizon v) ≠ 0) :
    s.launchWrite v = ((s.setReg HZN_LAUNCH_HI v).refuseLaunch (s.commitCode (s.launchHorizon v))).setReg RNG_LAUNCH 1 := by
  have h0' : (s.setReg HZN_LAUNCH_HI v).commitCode (s.launchHorizon v) ≠ 0 := h0
  rw [State.launchWrite_lead hc hr rfl rfl, if_pos h0', State.commitLaunch_refused h0']
  rfl

/-- The lead does not take a horizon less than 4,096 ticks ahead (R450). -/
theorem State.launchWrite_lead_near (hc : s.flag RNG_CTL_CASC_EN = true) (hr : s.role = 1) (h0 : s.commitCode (s.launchHorizon v) = 0)
    (hn : (s.launchHorizon v).toNat < s.count.toNat + 4096) :
    s.launchWrite v = ((s.setReg HZN_LAUNCH_HI v).setFlag HZN_STAT_LAUNCH_PEND false).setReg RNG_LAUNCH 1 := by
  have h0' : (s.setReg HZN_LAUNCH_HI v).commitCode (s.launchHorizon v) = 0 := h0
  have hn' : decide ((s.launchHorizon v).toNat < (s.setReg HZN_LAUNCH_HI v).count.toNat + 4096) = true := decide_eq_true hn
  rw [State.launchWrite_lead hc hr rfl rfl, if_neg (not_not.mpr h0'), if_pos hn']

/-- The lead takes any other horizon: it commits it, waits for the answers and sends it to every position (R450). -/
theorem State.launchWrite_lead_taken (hc : s.flag RNG_CTL_CASC_EN = true) (hr : s.role = 1) (h0 : s.commitCode (s.launchHorizon v) = 0)
    (hn : s.count.toNat + 4096 ≤ (s.launchHorizon v).toNat) {u : State}
    (hu : u = ((s.setReg HZN_LAUNCH_HI v).commitLaunch (s.launchHorizon v)).setReg RNG_LAUNCH 0) :
    s.launchWrite v =
      ({ u with ring := { u.ring with confirmed := [], launchOpen := true } } : State).sendAll 7 [0, (s.launchHorizon v).toNat] := by
  have h0' : (s.setReg HZN_LAUNCH_HI v).commitCode (s.launchHorizon v) = 0 := h0
  have hn' : ¬ decide ((s.launchHorizon v).toNat < (s.setReg HZN_LAUNCH_HI v).count.toNat + 4096) = true :=
    fun hd => absurd (of_decide_eq_true hd) (Nat.not_lt.mpr hn)
  rw [State.launchWrite_lead hc hr rfl rfl, if_neg (not_not.mpr h0'), if_neg hn', ← hu]

end

end Sys2Proof.Machine

/-!
The launch commit in a cascade (R450): the write at the lead, the lead's messages at a member, the answers and their deadline.
-/
namespace Sys2Proof.Machine

theorem exec_launchCommit {s : State} {p : Path} (h : s.opens p HZN_LAUNCH_HI) (v : Word) :
    exec (.launchCommit p v) s = .next ((s.seen p).launchWrite v) :=
  congrArg Host.Outcome.next (State.via_of_opens h fun u => u.launchWrite v)

theorem State.seen_launchHorizon (s : State) (p : Path) (v : Word) : (s.seen p).launchHorizon v = s.launchHorizon v := by
  unfold State.launchHorizon
  rw [State.seen_reg _ _ (by decide)]

theorem State.seen_cascade (s : State) (p : Path) : (s.seen p).flag RNG_CTL_CASC_EN = s.flag RNG_CTL_CASC_EN := s.seen_flag p (by decide)

theorem State.seen_role (s : State) (p : Path) : (s.seen p).role = s.role := s.seen_fld p (by decide)

/-- A message of the launch commit reaches a module of a cascade that serves. -/
theorem exec_launchMessage {s : State} (hc : s.flag RNG_CTL_CASC_EN = true) (hs : s.mod.st.serving = true) (src : Fin 64) (h : U64)
    (m : LaunchMsg) : exec (.launchMessage src h m) s = .next (s.launchMessage src h m) := by
  show Host.Outcome.next _ = _
  rw [if_pos (by rw [hc, hs]; rfl)]

section
variable {s : State} {src : Fin 64}

/-- A message of the lead to a module that is not the lead. -/
theorem State.launchMessage_commit (hr : s.role ≠ 1) (hl : src.val = s.fld RNG_ROLE_LEAD) (h : U64) :
    s.launchMessage src h .commit =
      (s.commitLaunch h).sendMessage 7 src
        [2, h.toNat, ((s.commitLaunch h).flag HZN_STAT_LAUNCH_PEND && (s.commitLaunch h).hz.launchAt == h).toNat] [] := by
  show (if _ then _ else _) = _
  rw [if_pos (by simp [hr, hl])]

theorem State.launchMessage_cancel (hr : s.role ≠ 1) (hl : src.val = s.fld RNG_ROLE_LEAD) (h : U64) :
    s.launchMessage src h .cancel = s.setFlag HZN_STAT_LAUNCH_PEND false := by
  show (if _ then _ else _) = _
  rw [if_pos (by simp [hr, hl])]

/-- The lead notes the first accepting answer of a position for the pending horizon (R450). -/
theorem State.launchMessage_answer (hr : s.role = 1) (ho : s.ring.launchOpen = true) (hn : src.val ∉ s.ring.confirmed) :
    s.launchMessage src s.hz.launchAt (.answer true) =
      { s with ring := { s.ring with confirmed := s.ring.confirmed ++ [src.val] } } := by
  show (if _ then _ else _) = _
  rw [if_pos (by simp [hr, ho, hn])]

/-- An answer that refuses leaves the lead as it is: the deadline finds it missing (R450). -/
theorem State.launchMessage_refusal (s : State) (src : Nat) (h : U64) : s.launchMessage src h (.answer false) = s := by
  show (if _ then _ else _) = _
  rw [if_neg (by simp)]

end

section
variable {s : State} {c : Cascade}

/-- The deadline of a launch that waits at the lead has come (R450). -/
theorem exec_launchConfirmDeadline (hr : s.role = 1) (ho : s.ring.launchOpen = true) (hp : s.flag HZN_STAT_LAUNCH_PEND = true)
    (hd : s.hz.launchAt.toNat ≤ s.count.toNat + 1024) : exec .launchConfirmDeadline s = .next s.confirmDeadline := by
  show Host.Outcome.next _ = _
  rw [if_pos (by simp [hr, ho, hp, hd])]

/-- The position whose answer is missing at the deadline, in the order in which they are looked at. -/
def State.missing? (s : State) (n : Nat) : Option Nat :=
  (List.range n).find? (fun q => q != s.position && !s.ring.confirmed.contains q)

theorem State.missing?_eq_none {n : Nat} (h : ∀ q, q < n → q = s.position ∨ q ∈ s.ring.confirmed) : s.missing? n = none := by
  refine List.find?_eq_none.mpr fun q hq => ?_
  rcases h q (List.mem_range.mp hq) with e | e
  · simp [e]
  · simp [e]

theorem State.missing?_eq_some {n q : Nat} (hq : q < n) (hp : q ≠ s.position) (hc : q ∉ s.ring.confirmed)
    (h : ∀ r, r < q → r = s.position ∨ r ∈ s.ring.confirmed) : s.missing? n = some q := by
  refine List.find?_range_eq_some.mpr ⟨by simp [hp, hc], List.mem_range.mpr hq, fun r hr => ?_⟩
  rcases h r hr with e | e
  · simp [e]
  · simp [e]

theorem State.confirmDeadline_confirmed (hc : s.cascade? = some c) (hm : s.missing? (c.xdim * c.ydim) = none) :
    s.confirmDeadline = { s with ring := { s.ring with launchOpen := false } } := by
  unfold State.missing? at hm
  unfold State.confirmDeadline
  rw [hc]
  dsimp only
  simp only [State.position, State.fld, State.reg] at hm ⊢
  rw [hm]

theorem State.confirmDeadline_missing {q : Nat} (hc : s.cascade? = some c) (hm : s.missing? (c.xdim * c.ydim) = some q) :
    s.confirmDeadline = ((({ s with ring := { s.ring with launchOpen := false } } : State).setFlag HZN_STAT_LAUNCH_PEND false).setReg
      RNG_LAUNCH (BitVec.ofNat 32 (q * 256 + 2))).sendAll 7 [1, s.hz.launchAt.toNat] := by
  unfold State.missing? at hm
  unfold State.confirmDeadline
  rw [hc]
  dsimp only
  simp only [State.position, State.fld, State.reg] at hm ⊢
  rw [hm]
  rfl

end

end Sys2Proof.Machine

/-!
Launch horizons are committed or refused.
-/
namespace Sys2Proof.Machine

/-- A register written and then a launch refused: what is left of the registers. -/
theorem State.setReg_refuseLaunch_framed (s : State) (v : Word) (n : Nat) :
    Framed [.regs, .aug] [HZN_LAUNCH_HI, HZN_STAT, AUG_RATE, AUG_STAT] s ((s.setReg HZN_LAUNCH_HI v).refuseLaunch n) :=
  ((Framed.refl _ _ s).setReg (by decide) (by decide) v).trans ((State.refuseLaunch_framed _ n).mono (by decide) (by decide))

theorem State.setReg_refuseLaunch_reg (s : State) (v : Word) (n : Nat) :
    ((s.setReg HZN_LAUNCH_HI v).refuseLaunch n).reg HZN_LAUNCH_HI = v :=
  ((State.refuseLaunch_framed _ n).2 _ (by decide)).trans (State.reg_setReg _ _ _)

/-- The state in which the lead has committed horizon `h` and waits for the answers (R450). -/
def State.launchOpened (s : State) (v : Word) (h : U64) : State :=
  let u := ((s.setReg HZN_LAUNCH_HI v).commitLaunch h).setReg RNG_LAUNCH 0
  { u with ring := { u.ring with confirmed := [], launchOpen := true } }

theorem State.launchOpened_regs (s : State) (v : Word) (h : U64) :
    (s.launchOpened v h).regs = (((s.setReg HZN_LAUNCH_HI v).commitLaunch h).setReg RNG_LAUNCH 0).regs := rfl

theorem State.launchOpened_framed {s : State} (v : Word) {h : U64} (h0 : s.commitCode h = 0) :
    Framed [.regs, .mod, .hz, .ring] [HZN_LAUNCH_HI, HZN_STAT, RNG_LAUNCH] s (s.launchOpened v h) := by
  have h0' : (s.setReg HZN_LAUNCH_HI v).commitCode h = 0 := h0
  have k := ((Framed.refl [.regs, .mod, .hz, .ring] [HZN_LAUNCH_HI, HZN_STAT, RNG_LAUNCH] s).setReg (by decide) (by decide) v).trans
    ((State.commitLaunch_accepted_framed h0').mono (by decide) (by decide))
  exact (k.setReg (by decide) (by decide) 0).setRing (by decide) _

/-- Settles O48: each command goes through the lemma about what committing, refusing, answering or the deadline does. -/
theorem launchesAreCommitted : Obligations.LaunchesAreCommitted := by
  unfold Obligations.LaunchesAreCommitted
  refine ⟨?alone, ?aloneRefused, ?lead, ?leadRefused, ?ignored, ?member, ?memberRefused, ?cancel, ?answer, ?refusal, ?confirmed, ?missing⟩
  case alone =>
    intro p v h s ho hc hh hfar hz
    have hl : (s.seen p).launchHorizon v = h := (s.seen_launchHorizon p v).trans hh.symm
    have h0 : ((s.seen p).setReg HZN_LAUNCH_HI v).commitCode h = 0 := (State.commitCode_eq_zero _ _).mpr ⟨by simpa using hfar, hz⟩
    refine ⟨_, exec_launchCommit ho v, ?_⟩
    rw [State.launchWrite_alone v ((s.seen_cascade p).trans hc), hl]
    have k := State.commitLaunch_accepted_framed h0
    exact ⟨(k.2 _ (by decide)).trans (State.reg_setReg _ _ _), State.commitLaunch_accepted_pend h0,
      by rw [State.commitLaunch_accepted_hz h0, State.setReg_hz, State.seen_hz],
      ((Framed.refl _ _ _).setReg (by decide) (by decide) v).trans (k.mono (by decide) (by decide))⟩
  case aloneRefused =>
    intro p v h s ho hc hh hbad
    have hl : (s.seen p).launchHorizon v = h := (s.seen_launchHorizon p v).trans hh.symm
    have hcode : ((s.seen p).setReg HZN_LAUNCH_HI v).commitCode h = if h.toNat < s.count.toNat + 2048 then 1 else 2 := by
      rw [State.commitCode_congr (t := s) (by simp), State.commitCode_refused s hbad]
    have hne : ((s.seen p).setReg HZN_LAUNCH_HI v).commitCode h ≠ 0 := by rw [hcode]; split <;> decide
    refine ⟨_, exec_launchCommit ho v, ?_⟩
    rw [State.launchWrite_alone v ((s.seen_cascade p).trans hc), hl, State.commitLaunch_refused hne, hcode]
    set n := if h.toNat < s.count.toNat + 2048 then 1 else 2 with hn
    have hfld : (((s.seen p).setReg HZN_LAUNCH_HI v).refuseLaunch n).fld HZN_STAT_LREF_CODE = n :=
      State.refuseLaunch_code _ (by rw [hn]; split <;> decide)
    rw [hfld]
    refine ⟨State.setReg_refuseLaunch_reg _ _ _, State.refuseLaunch_pend _ _, State.refuseLaunch_lref _ _, ?_, ?_, ?_,
      fun hn => State.refuseLaunch_last _ _ ((s.seen_canNumber p).trans hn), State.setReg_refuseLaunch_framed _ _ _⟩
    · rw [hn]; split <;> simp
    · intro hz
      rw [hn, if_pos (hbad.resolve_right (by simp [hz]))]
    · intro hfar
      rw [hn, if_neg (Nat.not_lt.mpr hfar)]
  case lead =>
    intro p v h s ho hc hr hh hfar hz
    have hl : (s.seen p).launchHorizon v = h := (s.seen_launchHorizon p v).trans hh.symm
    have h0 : (s.seen p).commitCode h = 0 := (State.commitCode_eq_zero _ _).mpr ⟨by rw [State.seen_count]; omega, hz⟩
    have h0' : ((s.seen p).setReg HZN_LAUNCH_HI v).commitCode h = 0 := h0
    have k := State.commitLaunch_accepted_framed h0'
    refine ⟨_, exec_launchCommit ho v, (s.seen p).launchOpened v h, ?_, ?_, ?_, ?_, ?_, ?_, State.launchOpened_framed v h0⟩
    · subst hl
      exact State.launchWrite_lead_taken ((s.seen_cascade p).trans hc) ((s.seen_role p).trans hr) h0
        (by rwa [State.seen_count]) rfl
    · rw [State.reg_congr (State.launchOpened_regs _ _ _), State.reg_setReg_ne _ _ (by decide), k.2 _ (by decide), State.reg_setReg]
    · rw [State.flag_congr (State.launchOpened_regs _ _ _), State.flag_setReg_ne _ _ (by decide), State.commitLaunch_accepted_pend h0']
    · exact (State.commitLaunch_accepted_hz h0').trans (by rw [State.setReg_hz, State.seen_hz])
    · rw [State.reg_congr (State.launchOpened_regs _ _ _), State.reg_setReg]
    · have hring : (((s.seen p).setReg HZN_LAUNCH_HI v).commitLaunch h).ring = s.ring :=
        (k.1 .ring (by decide)).trans (s.seen_ring p)
      show { (((s.seen p).setReg HZN_LAUNCH_HI v).commitLaunch h).ring with confirmed := [], launchOpen := true } = _
      rw [hring]
  case leadRefused =>
    intro p v h s ho hc hr hh hbad
    have hl : (s.seen p).launchHorizon v = h := (s.seen_launchHorizon p v).trans hh.symm
    have hcode : (s.seen p).commitCode h = s.commitCode h := State.commitCode_congr (s.seen_hz p) h
    have hc' := (s.seen_cascade p).trans hc
    have hr' := (s.seen_role p).trans hr
    subst hl
    refine ⟨_, exec_launchCommit ho v, ?_⟩
    by_cases h0 : s.commitCode ((s.seen p).launchHorizon v) = 0
    · have hz := ((State.commitCode_eq_zero _ _).mp h0).2
      have hn : ((s.seen p).launchHorizon v).toNat < (s.seen p).count.toNat + 4096 := by
        rw [State.seen_count]
        exact hbad.resolve_right (by simp [hz])
      rw [State.launchWrite_lead_near hc' hr' (hcode.trans h0) hn]
      refine ⟨?_, ?_, State.reg_setReg _ _ _, fun hne => absurd h0 hne, ?_⟩
      · rw [State.reg_setReg_ne _ _ (by decide), State.reg_setFlag_ne _ _ (by decide), State.reg_setReg]
      · rw [State.flag_setReg_ne _ _ (by decide), State.flag_setFlag _ _ _ (by decide) rfl]
      · exact (((Framed.refl _ _ _).setReg (by decide) (by decide) v).setFlag (by decide) (by decide) false).setReg
          (by decide) (by decide) 1
    · rw [State.launchWrite_lead_refused hc' hr' (hcode ▸ h0), hcode]
      refine ⟨?_, ?_, State.reg_setReg _ _ _, fun _ => ⟨?_, ?_, fun hn => ?_⟩, ?_⟩
      · rw [State.reg_setReg_ne _ _ (by decide), State.setReg_refuseLaunch_reg]
      · rw [State.flag_setReg_ne _ _ (by decide), State.refuseLaunch_pend]
      · rw [State.flag_setReg_ne _ _ (by decide), State.refuseLaunch_lref]
      · rw [State.fld_setReg_ne _ _ (by decide), State.refuseLaunch_code _ (s.commitCode_lt _)]
      · exact State.refuseLaunch_last ((s.seen p).setReg HZN_LAUNCH_HI v) _ ((s.seen_canNumber p).trans hn)
      · exact ((State.setReg_refuseLaunch_framed _ _ _).mono (List.Subset.refl _) (by decide)).setReg (by decide) (by decide) 1
  case ignored =>
    intro p v s ho hc hr
    refine ⟨_, exec_launchCommit ho v, ?_⟩
    rw [State.launchWrite_member v ((s.seen_cascade p).trans hc) (by rwa [State.seen_role])]
    exact ⟨State.flag_setFlag _ _ _ (by decide) rfl, (Framed.refl _ _ _).setFlag (by decide) (by decide) true⟩
  case member =>
    intro src h s hc hs hr hl h0
    refine ⟨_, exec_launchMessage hc hs src h .commit, s.commitLaunch h, ?_, State.commitLaunch_accepted_pend h0,
      State.commitLaunch_accepted_hz h0, State.commitLaunch_accepted_framed h0⟩
    rw [State.launchMessage_commit hr hl, State.commitLaunch_accepted_pend h0, State.commitLaunch_accepted_hz h0]
    simp
  case memberRefused =>
    intro src h s hc hs hr hl h0
    refine ⟨_, exec_launchMessage hc hs src h .commit, s.refuseLaunch (s.commitCode h), ?_, State.refuseLaunch_pend _ _,
      State.refuseLaunch_lref _ _, State.refuseLaunch_code _ (s.commitCode_lt h), State.refuseLaunch_last _ _, State.refuseLaunch_framed _ _⟩
    rw [State.launchMessage_commit hr hl, State.commitLaunch_refused h0, State.refuseLaunch_pend]
    rfl
  case cancel =>
    intro src h s hc hs hr hl
    refine ⟨_, exec_launchMessage hc hs src h .cancel, ?_⟩
    rw [State.launchMessage_cancel hr hl]
    exact ⟨State.flag_setFlag _ _ _ (by decide) rfl, (Framed.refl _ _ _).setFlag (by decide) (by decide) false⟩
  case answer =>
    intro src s hc hs hr ho hn
    rw [exec_launchMessage hc hs, State.launchMessage_answer hr ho hn]
  case refusal =>
    intro src h s
    show Host.Outcome.next _ = _
    rw [State.launchMessage_refusal, ite_self]
  case confirmed =>
    intro c s hr ho hp hd hc hall
    rw [exec_launchConfirmDeadline hr ho hp hd, State.confirmDeadline_confirmed hc (State.missing?_eq_none hall)]
  case missing =>
    intro c q s hr ho hp hd hc hq hpos hmem hall
    refine ⟨_, exec_launchConfirmDeadline hr ho hp hd, _, State.confirmDeadline_missing hc (State.missing?_eq_some hq hpos hmem hall),
      rfl, ?_, State.reg_setReg _ _ _, ?_⟩
    · rw [State.flag_setReg_ne _ _ (by decide), State.flag_setFlag _ _ _ (by decide) rfl]
    · exact (((Framed.refl _ _ s).setRing (by decide) { s.ring with launchOpen := false }).setFlag (by decide) (by decide) false).setReg
        (by decide) (by decide) _

end Sys2Proof.Machine

/-!
What entering a module state leaves of the module control and of the engines, and register pairs.
-/
namespace Sys2Proof.Machine

theorem State.reg64_of_reg {s t : State} {lo : Nat} (h : s.reg lo = t.reg lo) (h' : s.reg (lo + 4) = t.reg (lo + 4)) :
    s.reg64 lo = t.reg64 lo := by
  unfold State.reg64
  rw [h, h']

theorem State.reg_setReg64_ne (s : State) {lo a : Nat} (v : U64) (h : a ≠ lo) (h' : a ≠ lo + 4) : (s.setReg64 lo v).reg a = s.reg a := by
  unfold State.setReg64
  rw [State.reg_setReg_ne _ _ h', State.reg_setReg_ne _ _ h]

/-- A pair reads the value stored in it (R11). -/
theorem State.reg64_setReg64 (s : State) (lo : Nat) (v : U64) : (s.setReg64 lo v).reg64 lo = v := by
  unfold State.reg64 State.setReg64
  rw [State.reg_setReg, State.reg_setReg_ne _ _ (by omega), State.reg_setReg]
  have hv := v.isLt
  apply BitVec.eq_of_toNat_eq
  simp only [BitVec.toNat_ofNat, BitVec.truncate_eq_setWidth, BitVec.toNat_setWidth, BitVec.toNat_ushiftRight, Nat.shiftRight_eq_div_pow]
  omega

/-- A state is entered by leaving Growing and naming the new one; its record, its seal and the HOLD_N lines follow (R26, R28, R332). -/
theorem State.enterState_keeps (s : State) (new : ModState) (h b r : Nat) :
    Keeps [.regs, .fast, .aug, .dec] { s.leaveGrowing with mod := { s.leaveGrowing.mod with st := new } } (s.enterState new h b r) := by
  unfold State.enterState
  dsimp only
  refine Keeps.driveHold ?_ rfl
  have k := Keeps.writeStateChange (.refl [.regs, .fast, .aug, .dec] { s.leaveGrowing with mod := { s.leaveGrowing.mod with st := new } })
    rfl s.mod.st new h b
  split
  · exact k
  · exact Keeps.closeSeal k rfl r

/-- Entering a state changes nothing else of the module control. -/
theorem State.enterState_mod (s : State) (new : ModState) (h b r : Nat) : (s.enterState new h b r).mod = { s.mod with st := new } := by
  have hl : s.leaveGrowing.mod = s.mod := (Keeps.leaveGrowing (.refl [.regs, .eng, .aug] s) rfl).same .mod rfl
  rw [(s.enterState_keeps new h b r).same .mod rfl, hl]

/-- Entering a state from one other than Growing leaves the engines. -/
theorem State.enterState_eng (s : State) (new : ModState) (h b r : Nat) (hg : s.mod.st ≠ .growing) : (s.enterState new h b r).eng = s.eng := by
  have hl : s.leaveGrowing = s := if_neg (by simpa using hg)
  rw [(s.enterState_keeps new h b r).same .eng rfl, hl]

end Sys2Proof.Machine

/-!
The launch itself (R56, R57, R202): the engines, the beds, the registers of a module that launches.
-/
namespace Sys2Proof.Machine

/-- An engine that has been started at launch horizon `h` (R202). -/
structure Engine.LaunchedAt (g : Engine) (h : U64) : Prop where
  running : g.running = true
  start : g.start = some h
  queries : g.queries = []

theorem State.launchEngine_launched (s : State) (e : Fin 2) (h : U64) : ((s.launchEngine e h).eng[e] : Engine).LaunchedAt h := by
  unfold State.launchEngine
  dsimp only
  rw [State.setEng_eng, Fin.getElem_fin, Vector.getElem_set_self]
  exact ⟨rfl, rfl, rfl⟩

theorem State.launchEngine_other (s : State) {e k : Fin 2} (hk : k ≠ e) (h : U64) :
    ((s.launchEngine e h).eng[k] : Engine) = s.eng[k] := by
  unfold State.launchEngine
  dsimp only
  rw [State.setEng_eng, Fin.getElem_fin, Vector.getElem_set_ne _ _ fun hv => hk (Fin.ext hv.symm)]
  rfl

/-- Both engines have started once each has been launched. -/
theorem State.launchEngines_launched (s : State) (h : U64) (e : Fin 2) :
    (((s.launchEngine 0 h).launchEngine 1 h).eng[e] : Engine).LaunchedAt h := by
  by_cases he : e = 1
  · subst he
    exact State.launchEngine_launched _ 1 h
  · have h0 : e = 0 := by omega
    subst h0
    rw [State.launchEngine_other _ (by decide)]
    exact State.launchEngine_launched s 0 h

/-- The beds that begin to run change BED_STAT only. -/
theorem State.runBeds_reg (s : State) {a : Nat} (ha : ∀ b, b < 4 → a ≠ BED_STAT + bedOff b) : s.runBeds.reg a = s.reg a := by
  unfold State.runBeds
  refine List.foldlRecOn (motive := fun t : State => t.reg a = s.reg a) _ _ rfl fun t ht b _ => ?_
  dsimp only
  split
  · exact (State.reg_setFld_ne _ _ (ha _ (Fin.ofNat 4 b).isLt)).trans ht
  · exact ht

/-- The module at its launch, before the records of it: the registers, the engines, what the launch ends (R51, R57, R202). -/
def State.atLaunch (s : State) (h : U64) : State :=
  let s := (s.setFlag HZN_STAT_LAUNCH_PEND false).setReg64 HZN_LAUNCH_LO h
  let s := (s.launchEngine 0 h).launchEngine 1 h
  { s with
    hz := { s.hz with lossHold := false, returning := false, steady := false, syncSince := false, armed := false, due := false }
    mod := { s.mod with idle := 0, idleNs := 0, expiryWaits := false, fallowNow := false, wakeHold := false }
    fast := { s.fast with accept := [] }
    ring := { s.ring with launchOpen := false } }

theorem State.launchNow_eq (s : State) (h : U64) :
    s.launchNow h = (((s.atLaunch h).writeEventAt 0x0102 h 0 []).freezeRing.enterState .growing 0 0 0).runBeds := rfl

theorem State.atLaunch_regs (s : State) (h : U64) :
    (s.atLaunch h).regs = ((s.setFlag HZN_STAT_LAUNCH_PEND false).setReg64 HZN_LAUNCH_LO h).regs := rfl

theorem State.atLaunch_count (s : State) (h : U64) : (s.atLaunch h).count = s.count := rfl

theorem State.atLaunch_st (s : State) (h : U64) : (s.atLaunch h).mod.st = s.mod.st := rfl

theorem State.atLaunch_idle (s : State) (h : U64) : (s.atLaunch h).mod.idle = 0 := rfl

theorem State.atLaunch_launched (s : State) (h : U64) (e : Fin 2) : ((s.atLaunch h).eng[e] : Engine).LaunchedAt h :=
  State.launchEngines_launched _ h e

section
variable (s : State) (h : U64)

/-- The records of a launch and the change of state leave the horizon unit as it stood at the launch. -/
theorem State.launchNow_count : (s.launchNow h).count = s.count := by
  have hk : Keeps [.regs, .mod, .fast, .eng, .aug, .dec, .lanes] (s.atLaunch h) (s.launchNow h) :=
    Keeps.runBeds (Keeps.enterState (Keeps.freezeRing (Keeps.writeEventAt (.refl _ _) rfl _ _ _ _) rfl) rfl _ _ _ _) rfl
  exact (congrArg Hz.count (hk.same .hz rfl)).trans (s.atLaunch_count h)

theorem State.launchNow_mod : (s.launchNow h).mod = { (s.atLaunch h).mod with st := .growing } := by
  rw [State.launchNow_eq, (Keeps.runBeds (.refl [.regs] _) rfl).same .mod rfl, State.enterState_mod,
    (Keeps.freezeRing (.refl [.lanes] _) rfl).same .mod rfl, State.writeEventAt_only _ _ _ _ _ .mod (by decide)]

theorem State.launchNow_eng (hg : s.mod.st ≠ .growing) : (s.launchNow h).eng = (s.atLaunch h).eng := by
  have hm : ((s.atLaunch h).writeEventAt 0x0102 h 0 []).freezeRing.mod = (s.atLaunch h).mod := by
    rw [(Keeps.freezeRing (.refl [.lanes] _) rfl).same .mod rfl, State.writeEventAt_only _ _ _ _ _ .mod (by decide)]
  rw [State.launchNow_eq, (Keeps.runBeds (.refl [.regs] _) rfl).same .eng rfl,
    State.enterState_eng _ _ _ _ _ (by rwa [hm, State.atLaunch_st]),
    (Keeps.freezeRing (.refl [.lanes] _) rfl).same .eng rfl, State.writeEventAt_only _ _ _ _ _ .eng (by decide)]

/-- The registers of the horizon unit read after a launch as they stood at it. -/
theorem State.launchNow_reg {a : Nat} (ha : a ∉ noteRegs) (hb : ∀ b, b < 4 → a ≠ BED_STAT + bedOff b) :
    (s.launchNow h).reg a = ((s.setFlag HZN_STAT_LAUNCH_PEND false).setReg64 HZN_LAUNCH_LO h).reg a := by
  simp only [noteRegs, List.mem_cons, List.not_mem_nil, or_false, not_or] at ha
  obtain ⟨h1, h2, h3, h4⟩ := ha
  rw [State.launchNow_eq, State.runBeds_reg _ hb, State.enterState_reg _ _ _ _ _ h1 h2 h3 h4,
    State.reg_congr ((Keeps.freezeRing (.refl [.lanes] _) rfl).same .regs rfl), State.writeEventAt_reg _ _ _ _ _ h1 h2,
    State.reg_congr (State.atLaunch_regs s h)]

theorem State.launchNow_pend : (s.launchNow h).flag HZN_STAT_LAUNCH_PEND = false := by
  rw [State.flag_of_reg (State.launchNow_reg s h (by decide) (by decide)),
    State.flag_of_reg (State.reg_setReg64_ne _ _ (by decide) (by decide)), State.flag_setFlag _ _ _ (by decide) rfl]

theorem State.launchNow_launch : (s.launchNow h).reg64 HZN_LAUNCH_LO = h := by
  rw [State.reg64_of_reg (State.launchNow_reg s h (by decide) (by decide)) (State.launchNow_reg s h (by decide) (by decide)),
    State.reg64_setReg64]

end

/-- A launch is judged in Sown only (R56). -/
theorem State.sown_of_launchCode {s : State} (h : s.launchCode = 0) : s.mod.st = .sown := by
  unfold State.launchCode at h
  split at h
  · contradiction
  · rename_i hs
    simpa using hs

theorem State.launchCode_lt (s : State) : s.launchCode < 16 := by
  unfold State.launchCode
  repeat' split
  all_goals decide

/-- The count has reached the pending horizon and the auger unit runs: the launch is judged (R56). -/
theorem exec_launch {s : State} (hp : s.flag HZN_STAT_LAUNCH_PEND = true) (hr : s.aug.running = true) (hd : s.hz.due = false)
    (hc : s.count = s.hz.launchAt) : exec .launch s = .next s.launchDue := by
  have hs : s.settlePreset = s := if_neg (by simp [hd])
  show execLaunch s = _
  unfold execLaunch
  dsimp only
  rw [hs, if_pos (by simp [hp, hr, ← hc])]

/-- Settles O21: the launch horizon is the count, and `launchNow` and `refuseLaunch` say what each course leaves. -/
theorem launchEntersGrowing : Obligations.LaunchEntersGrowing := by
  unfold Obligations.LaunchEntersGrowing
  refine ⟨?launches, ?refused⟩
  case launches =>
    intro s hp hr hd hc h0
    have hdue : s.launchDue = s.launchNow s.count := (if_pos h0).trans (by rw [← hc])
    have hg : s.mod.st ≠ .growing := by rw [State.sown_of_launchCode h0]; decide
    refine ⟨_, exec_launch hp hr hd hc, ?_⟩
    rw [hdue]
    refine ⟨by rw [State.launchNow_mod], State.launchNow_pend _ _, State.launchNow_launch _ _, fun e => ?_, State.launchNow_count _ _,
      by rw [State.launchNow_mod, State.atLaunch_idle]⟩
    rw [State.launchNow_eng s s.count hg]
    obtain ⟨hrun, hstart, hq⟩ := State.atLaunch_launched s s.count e
    exact ⟨hrun, hstart, hq⟩
  case refused =>
    intro s hp hr hd hc h0
    have hdue : s.launchDue = s.refuseLaunch s.launchCode := if_neg h0
    refine ⟨_, exec_launch hp hr hd hc, ?_⟩
    rw [hdue]
    have k := s.refuseLaunch_framed s.launchCode
    exact ⟨k.1 .mod (by decide), State.refuseLaunch_pend _ _, State.refuseLaunch_lref _ _, State.refuseLaunch_code _ s.launchCode_lt,
      State.refuseLaunch_last _ _, k⟩

end Sys2Proof.Machine

/-!
What the records and the lines that go with a new count leave alone (R28, R245, R341, R352).
-/
namespace Sys2Proof.Machine

/-- `t` is `s` but for records, HOLD_N lines, frames and what shows of them: the horizon unit, the module state, the right to number records
and every register outside the auger unit, the decision output and FLT_CAUSE read as before. -/
structure Noted (s t : State) : Prop where
  hz : t.hz = s.hz
  st : t.mod.st = s.mod.st
  canNumber : t.canNumber = s.canNumber
  reg : ∀ a, a ∉ FLT_CAUSE :: noteRegs → t.reg a = s.reg a

theorem Noted.refl (s : State) : Noted s s := ⟨rfl, rfl, rfl, fun _ _ => rfl⟩

theorem Noted.trans {a b c : State} (h : Noted a b) (k : Noted b c) : Noted a c :=
  ⟨k.hz.trans h.hz, k.st.trans h.st, k.canNumber.trans h.canNumber, fun n hn => (k.reg n hn).trans (h.reg n hn)⟩

theorem Noted.fld {s t : State} (h : Noted s t) {f : Field} (hf : f.addr ∉ FLT_CAUSE :: noteRegs) : t.fld f = s.fld f :=
  State.fld_of_reg (h.reg _ hf)

theorem Noted.flag {s t : State} (h : Noted s t) {f : Field} (hf : f.addr ∉ FLT_CAUSE :: noteRegs) : t.flag f = s.flag f :=
  State.flag_of_reg (h.reg _ hf)

theorem State.noted_writeEventAt (s : State) (code : Nat) (h : U64) (l : Nat) (args : List Nat) : Noted s (s.writeEventAt code h l args) where
  hz := State.writeEventAt_only _ _ _ _ _ .hz (by decide)
  st := by rw [State.writeEventAt_only _ _ _ _ _ .mod (by decide)]
  canNumber := State.writeEventAt_canNumber _ _ _ _ _
  reg a ha := State.writeEventAt_reg _ _ _ _ _ (fun e => ha (by simp [noteRegs, e])) fun e => ha (by simp [noteRegs, e])

theorem State.noted_driveHold (s : State) : Noted s s.driveHold where
  hz := s.driveHold_only .hz (by decide)
  st := by rw [s.driveHold_only .mod (by decide)]
  canNumber := by unfold State.canNumber; rw [s.driveHold_only .aug (by decide)]
  reg a ha := s.driveHold_reg (fun e => ha (by simp [noteRegs, e])) fun e => ha (by simp [noteRegs, e])

theorem State.noted_setFlag (s : State) {f : Field} (hf : f.addr ∈ FLT_CAUSE :: noteRegs) (b : Bool) : Noted s (s.setFlag f b) :=
  ⟨rfl, rfl, rfl, fun _ ha => s.reg_setFlag_ne b fun e => ha (e ▸ hf)⟩

theorem State.noted_showStatus (s : State) (u : Word) (x y : Nat) : Noted s (s.showStatus u x y) := by
  have hset : ∀ (t : State) {f : Field} (_ : f.addr = FLT_CAUSE) (v : Nat), Noted t (t.setFld f v) := fun t f hf v =>
    ⟨rfl, rfl, rfl, fun _ ha => t.reg_setFld_ne v fun e => ha (by simp [e, hf])⟩
  unfold State.showStatus
  dsimp only
  split
  · split
    · exact hset s rfl x
    · exact (hset s rfl x).trans (hset _ rfl y)
  · exact .refl s

theorem State.noted_endTouch (s : State) (u : Word) : Noted s (s.endTouch u) := by
  unfold State.endTouch
  split <;> exact ⟨rfl, rfl, rfl, fun _ _ => rfl⟩

theorem State.noted_unitMoved (s : State) (u : Word) (n : Nat) (h : U64) : Noted s (s.unitMoved u n h) :=
  ((s.noted_writeEventAt _ _ _ _).trans (State.noted_showStatus _ u 2 1)).trans (State.noted_endTouch _ u)

theorem State.noted_flushLate (s : State) (e : Fin 2) : Noted s (s.flushLate e) := by
  unfold State.flushLate
  dsimp only
  split
  · exact .refl s
  · refine Noted.trans ?_ (State.noted_writeEventAt _ _ _ _ _)
    exact ⟨rfl, rfl, rfl, fun _ _ => rfl⟩

theorem State.noted_flushPast (s : State) (e : Fin 2) : Noted s (s.flushPast e) := by
  unfold State.flushPast
  split
  · split
    · exact s.noted_flushLate e
    · exact .refl s
  · exact .refl s

theorem State.noted_checkTail (s : State) : Noted s s.checkTail := by
  unfold State.checkTail
  split
  · have hold : Noted s { s with aug := { s.aug with hold := some (s.count + 1) } } := ⟨rfl, rfl, rfl, fun _ _ => rfl⟩
    exact ((hold.trans (State.noted_setFlag _ (by decide) true)).trans (State.noted_setFlag _ (by decide) true)).trans
      (State.noted_driveHold _)
  · exact .refl s

theorem State.noted_foldl {α : Type} (f : State → α → State) (hf : ∀ t x, Noted t (f t x)) (l : List α) (s : State) :
    Noted s (l.foldl f s) :=
  List.foldlRecOn (motive := Noted s) l f (.refl s) fun t ht x _ => ht.trans (hf t x)

/-- A count that has been reached is recorded and shown (R245, R332, R352). -/
theorem State.noted_countReached (s : State) : Noted s s.countReached := by
  unfold State.countReached
  extract_lets s1 m s2 due f t
  have h1 : Noted s s1 := by
    show Noted s (if _ then _ else _)
    split <;> exact ⟨rfl, rfl, rfl, fun _ _ => rfl⟩
  have h2 : Noted s1 s2 := ⟨rfl, rfl, rfl, fun _ _ => rfl⟩
  have h3 : Noted s2 t := by
    refine Noted.trans ?_ (State.noted_foldl _ (fun u x => u.noted_unitMoved _ _ _) due _)
    exact ⟨rfl, rfl, rfl, fun _ _ => rfl⟩
  exact ((((h1.trans h2).trans h3).trans (State.noted_flushPast _ 0)).trans (State.noted_flushPast _ 1)).trans
    ((State.noted_driveHold _).trans (State.noted_checkTail _))

end Sys2Proof.Machine

/-!
How the count moves (R40, R42, R45, R51): presets, ticks and flywheel ticks, and what goes with them.
-/
namespace Sys2Proof.Machine

/-- In `t` the count reads `c`; tick loss, the flywheel ticks in it, HZN_STAT.FLYWHEEL and the module state stand as in `s`. -/
structure CountsTo (s : State) (c : U64) (t : State) : Prop where
  count : t.count = c
  loss : t.hz.loss = s.hz.loss
  flyTicks : t.hz.flyTicks = s.hz.flyTicks
  st : t.mod.st = s.mod.st
  flywheel : t.flag HZN_STAT_FLYWHEEL = s.flag HZN_STAT_FLYWHEEL

theorem CountsTo.refl (s : State) : CountsTo s s.count s := ⟨rfl, rfl, rfl, rfl, rfl⟩

theorem CountsTo.trans {a b d : State} {c e : U64} (h : CountsTo a c b) (k : CountsTo b e d) : CountsTo a e d :=
  ⟨k.count, k.loss.trans h.loss, k.flyTicks.trans h.flyTicks, k.st.trans h.st, k.flywheel.trans h.flywheel⟩

/-- What follows leaves the count. -/
theorem CountsTo.stay {a b d : State} {c : U64} (h : CountsTo a c b) (k : CountsTo b b.count d) : CountsTo a c d :=
  h.count ▸ h.trans k

theorem Noted.countsTo {s t : State} (h : Noted s t) : CountsTo s s.count t :=
  ⟨congrArg Hz.count h.hz, congrArg Hz.loss h.hz, congrArg Hz.flyTicks h.hz, h.st, h.flag (by decide)⟩

/-- A write of a flag other than FLYWHEEL. -/
theorem State.countsTo_setFlag (s : State) {f : Field} (b : Bool)
    (hf : HZN_STAT_FLYWHEEL.addr ≠ f.addr ∨
      (f.lo + f.w ≤ HZN_STAT_FLYWHEEL.lo ∨ HZN_STAT_FLYWHEEL.lo + HZN_STAT_FLYWHEEL.w ≤ f.lo) ∧ HZN_STAT_FLYWHEEL.fits) :
    CountsTo s s.count (s.setFlag f b) := ⟨rfl, rfl, rfl, rfl, s.flag_setFlag_apart b hf⟩

theorem State.countsTo_writeEvent (s : State) (code : Nat) (args : List Nat) : CountsTo s s.count (s.writeEvent code args) :=
  (s.noted_writeEventAt code s.count 0 args).countsTo

/-! Presets (R51) -/

/-- The count that a preset loads: in follow mode plus SYNC_ADJ. -/
def State.presetCount (s : State) : U64 :=
  if s.follows then s.reg64 HZN_PRESET_LO + BitVec.ofNat 64 (s.fld HZN_CTL_SYNC_ADJ) else s.reg64 HZN_PRESET_LO

theorem State.presetCount_eq (s : State) :
    s.presetCount = s.reg64 HZN_PRESET_LO + (if s.follows then BitVec.ofNat 64 (s.fld HZN_CTL_SYNC_ADJ) else 0) := by
  unfold State.presetCount
  split
  · rfl
  · exact (BitVec.add_zero _).symm

/-- The state with the preset in the count and its flags shown, before the new count is recorded. -/
def State.presetLoaded (s : State) : State :=
  let t := ({ s with hz := { s.hz with count := s.presetCount, armed := false, due := false } } : State).driveSync
  let t := (t.setFlag HZN_STAT_PRESET_DONE true).setFlag HZN_STAT_SLIP false
  if t.follows then t.setFlag HZN_STAT_SYNC_LOCK true else t

/-- The state with the preset's record 0x0205, before a pending launch is judged. -/
def State.presetWritten (s : State) : State := s.presetLoaded.countReached.writeEvent 0x0205 [s.presetCount.toNat]

theorem State.applyPreset_eq (s : State) :
    s.applyPreset =
      if s.presetWritten.flag HZN_STAT_LAUNCH_PEND && decide (s.presetWritten.hz.launchAt.toNat < s.presetCount.toNat + 2048)
      then s.presetWritten.refuseLaunch 1 else s.presetWritten := by
  unfold State.applyPreset
  extract_lets p c z t1 t2 t3 u
  have h3 : t3 = s.presetLoaded := rfl
  have hu : u = s.presetWritten := congrArg (fun t : State => t.countReached.writeEvent 0x0205 [c.toNat]) h3
  rw [hu]
  rfl

theorem State.presetLoaded_hz (s : State) :
    ∃ o, s.presetLoaded.hz = { s.hz with count := s.presetCount, armed := false, due := false, syncOut := o } := by
  unfold State.presetLoaded
  dsimp only
  split <;> exact ⟨_, rfl⟩

theorem State.presetLoaded_aug (s : State) : s.presetLoaded.aug = s.aug := by
  unfold State.presetLoaded
  dsimp only
  split <;> rfl

theorem State.presetLoaded_st (s : State) : s.presetLoaded.mod.st = s.mod.st := by
  unfold State.presetLoaded
  dsimp only
  split <;> rfl

/-- A flag of HZN_STAT other than SYNC_LOCK reads in `presetLoaded` as PRESET_DONE and SLIP have left it. -/
theorem State.presetLoaded_flag (s : State) {f : Field}
    (hf : f.addr ≠ HZN_STAT_SYNC_LOCK.addr ∨
      (HZN_STAT_SYNC_LOCK.lo + HZN_STAT_SYNC_LOCK.w ≤ f.lo ∨ f.lo + f.w ≤ HZN_STAT_SYNC_LOCK.lo) ∧ f.fits) :
    s.presetLoaded.flag f = ((s.setFlag HZN_STAT_PRESET_DONE true).setFlag HZN_STAT_SLIP false).flag f := by
  unfold State.presetLoaded
  dsimp only
  split
  · exact State.flag_setFlag_apart _ _ hf
  · rfl

theorem State.presetLoaded_done (s : State) : s.presetLoaded.flag HZN_STAT_PRESET_DONE = true := by
  rw [State.presetLoaded_flag _ (by decide), State.flag_setFlag_apart _ _ (by decide), State.flag_setFlag _ _ _ (by decide) rfl]

theorem State.presetLoaded_slip (s : State) : s.presetLoaded.flag HZN_STAT_SLIP = false := by
  rw [State.presetLoaded_flag _ (by decide), State.flag_setFlag _ _ _ (by decide) rfl]

theorem State.presetLoaded_pend (s : State) : s.presetLoaded.flag HZN_STAT_LAUNCH_PEND = s.flag HZN_STAT_LAUNCH_PEND := by
  rw [State.presetLoaded_flag _ (by decide), State.flag_setFlag_apart _ _ (by decide), State.flag_setFlag_apart _ _ (by decide)]

theorem State.presetLoaded_flywheel (s : State) : s.presetLoaded.flag HZN_STAT_FLYWHEEL = s.flag HZN_STAT_FLYWHEEL := by
  rw [State.presetLoaded_flag _ (by decide), State.flag_setFlag_apart _ _ (by decide), State.flag_setFlag_apart _ _ (by decide)]

theorem State.presetWritten_noted (s : State) : Noted s.presetLoaded s.presetWritten := by
  unfold State.presetWritten State.writeEvent
  exact (State.noted_countReached _).trans (State.noted_writeEventAt _ _ _ _ _)

/-- The horizon unit once a preset has been applied. -/
theorem State.applyPreset_hz (s : State) :
    ∃ o, s.applyPreset.hz = { s.hz with count := s.presetCount, armed := false, due := false, syncOut := o } := by
  obtain ⟨o, ho⟩ := s.presetLoaded_hz
  have hw : s.presetWritten.hz = _ := s.presetWritten_noted.hz.trans ho
  refine ⟨o, ?_⟩
  rw [State.applyPreset_eq]
  split
  · exact ((State.refuseLaunch_framed _ 1).1 .hz (by decide)).trans hw
  · exact hw

/-- A flag of HZN_STAT below the refusal's and other than LAUNCH_PEND stands as the preset has loaded it. -/
theorem State.applyPreset_flag (s : State) {f : Field} (ha : f.addr = HZN_STAT) (hl : f.lo + f.w ≤ 3 ∨ 4 ≤ f.lo) (hh : f.lo + f.w ≤ 10) :
    s.applyPreset.flag f = s.presetLoaded.flag f := by
  have hw : s.presetWritten.flag f = s.presetLoaded.flag f := s.presetWritten_noted.flag (ha ▸ by decide)
  rw [State.applyPreset_eq]
  split
  · rw [State.refuseLaunch_flag _ _ ha hl hh, hw]
  · exact hw

theorem State.applyPreset_countsTo (s : State) : CountsTo s s.presetCount s.applyPreset := by
  obtain ⟨o, ho⟩ := s.applyPreset_hz
  refine ⟨by rw [State.count, ho], by rw [ho], by rw [ho], ?_,
    (s.applyPreset_flag rfl (by decide) (by decide)).trans s.presetLoaded_flywheel⟩
  have hw : s.presetWritten.mod.st = s.mod.st := s.presetWritten_noted.st.trans s.presetLoaded_st
  rw [State.applyPreset_eq]
  split
  · rw [(State.refuseLaunch_framed _ 1).1 .mod (by decide), hw]
  · exact hw

/-- With no launch pending the preset's record is the newest. -/
theorem State.applyPreset_last (s : State) (hn : s.canNumber = true) (hp : s.flag HZN_STAT_LAUNCH_PEND = false) :
    s.applyPreset.lastEvent = some (0x0205, [s.presetCount.toNat]) := by
  have hpend : s.presetWritten.flag HZN_STAT_LAUNCH_PEND = false :=
    (s.presetWritten_noted.flag (by decide)).trans (s.presetLoaded_pend.trans hp)
  have hcan : s.presetLoaded.countReached.canNumber = true := by
    rw [(State.noted_countReached _).canNumber, State.canNumber, State.presetLoaded_aug]
    exact hn
  rw [State.applyPreset_eq, hpend, Bool.false_and, if_neg Bool.false_ne_true, State.presetWritten]
  exact State.writeEvent_last _ _ _ hcan

/-- A preset whose tick has come is in the count once it has been settled (R51). -/
theorem State.settlePreset_countsTo (s : State) : CountsTo s s.countNow s.settlePreset := by
  unfold State.settlePreset State.countNow
  split
  · rw [← State.presetCount_eq]
    exact s.applyPreset_countsTo
  · exact .refl s

/-! Horizon sync, the idle timer (R32, R47 to R50) -/

theorem State.countsTo_syncSlip (s : State) : CountsTo s s.count s.syncSlip := by
  have hb : CountsTo s s.count (((s.setFlag HZN_STAT_SLIP true).setFlag HZN_STAT_SYNC_LOCK false).bump HZN_SLIP_CNT) :=
    ((s.countsTo_setFlag (f := HZN_STAT_SLIP) true (by decide)).stay
      (State.countsTo_setFlag (f := HZN_STAT_SYNC_LOCK) _ false (by decide))).stay
      ⟨rfl, rfl, rfl, rfl, State.flag_bump_ne _ (by decide)⟩
  exact (hb.stay (State.countsTo_writeEvent _ _ _)).stay (State.noted_driveHold _).countsTo

theorem State.countsTo_syncPulse (s : State) : CountsTo s s.count s.syncPulse := by
  unfold State.syncPulse
  split
  · exact ⟨rfl, rfl, rfl, rfl, rfl⟩
  · split
    · have hl := s.countsTo_setFlag (f := HZN_STAT_SYNC_LOCK) true (by decide)
      dsimp only
      split
      · exact hl.stay ⟨rfl, rfl, rfl, rfl, rfl⟩
      · exact hl
    · exact s.countsTo_syncSlip

theorem State.countsTo_syncHello (s : State) : CountsTo s s.count s.syncHello := by
  have k : Keeps [.ring] s s.syncHello := Keeps.syncHello (.refl _ s) rfl
  have hz := k.same .hz rfl
  exact ⟨congrArg Hz.count hz, congrArg Hz.loss hz, congrArg Hz.flyTicks hz, congrArg ModCtl.st (k.same .mod rfl),
    State.flag_congr (k.same .regs rfl) _⟩

theorem State.countsTo_syncAt (s : State) (pulse : Bool) : CountsTo s s.count (s.syncAt pulse) := by
  unfold State.syncAt
  extract_lets r t u marked
  have ht : CountsTo s s.count t := by
    show CountsTo s s.count (if _ then _ else _)
    split
    · exact ⟨rfl, rfl, rfl, rfl, State.flag_setFlag_apart _ _ (by decide)⟩
    · exact .refl s
  have hu : CountsTo s s.count u := (ht.stay (d := t.driveSync) ⟨rfl, rfl, rfl, rfl, rfl⟩).stay (State.countsTo_syncHello _)
  refine hu.stay ?_
  split
  · split
    · exact u.countsTo_syncPulse
    · split
      · exact (u.countsTo_setFlag false (by decide)).stay (State.countsTo_writeEvent _ _ _)
      · exact .refl u
  · split
    · exact ⟨rfl, rfl, rfl, rfl, rfl⟩
    · exact .refl u

theorem State.countsTo_idleTick (s : State) : CountsTo s s.count s.idleTick := by
  unfold State.idleTick
  dsimp only
  repeat' split
  all_goals exact ⟨rfl, rfl, rfl, rfl, rfl⟩

theorem State.countsTo_fallowAtTick (s : State) : CountsTo s s.count s.fallowAtTick := by
  unfold State.fallowAtTick
  split <;> exact ⟨rfl, rfl, rfl, rfl, rfl⟩

/-- A tick or flywheel tick that counts moves the count by one from where a due preset has put it (R40, R42, R51). -/
theorem State.advance_countsTo (s : State) (pulse : Bool) : CountsTo s (s.countNow + 1) (s.advance pulse) := by
  have hset := s.settlePreset_countsTo
  have hon : CountsTo s (s.countNow + 1) s.settlePreset.countOn :=
    hset.trans ⟨congrArg (· + 1) hset.count, rfl, rfl, rfl, rfl⟩
  exact (((hon.stay (State.noted_countReached _).countsTo).stay (State.countsTo_syncAt _ pulse)).stay (State.countsTo_idleTick _)).stay
    (State.countsTo_fallowAtTick _)

/-! Ticks (R42, R45) -/

theorem State.countNow_of_reg {s t : State} (hz : t.count = s.count) (hd : t.hz.due = s.hz.due)
    (hr : ∀ a, a ≠ HZN_STAT → t.reg a = s.reg a) : t.countNow = s.countNow := by
  unfold State.countNow State.follows
  rw [hd, hz, State.fld_of_reg (hr _ (by decide)), State.fld_of_reg (hr _ (by decide)),
    State.reg64_of_reg (hr _ (by decide)) (hr _ (by decide))]

/-- A rising edge of the tick clock ends the loss in `u`; there the count moves on, unless the edge is that of the last flywheel tick. -/
theorem State.tickEdge_eq (s : State) (ps : Nat) (pulse : Bool) :
    ∃ u, s.tickEdge ps pulse =
        (if !s.sameTick ps then u.advance pulse else if pulse && u.follows then u.syncPulse else u) ∧
      u.count = s.count ∧ u.countNow = s.countNow ∧ u.hz.loss = false ∧ u.flag HZN_STAT_FLYWHEEL = false ∧ u.mod.st = s.mod.st := by
  unfold State.tickEdge
  extract_lets same ret run t z v u
  have hr : ∀ a, a ≠ HZN_STAT → u.reg a = s.reg a := fun a ha =>
    (State.reg_setFlag_ne _ _ ha).trans (State.reg_setFlag_ne v _ ha)
  refine ⟨u, rfl, rfl, State.countNow_of_reg rfl rfl hr, rfl, ?_, rfl⟩
  exact (State.flag_setFlag_apart _ _ (by decide)).trans (State.flag_setFlag v _ _ (by decide) rfl)

theorem exec_tick {s : State} (h : s.mod.st ≠ .off) (ps : Nat) (sync : Bool) : exec (.tick ps sync) s = .next (s.tickEdge ps sync) := by
  have hc : s.counts = true := by
    unfold State.counts
    cases hs : s.mod.st with
    | off => exact absurd hs h
    | _ => rfl
  show Host.Outcome.next _ = _
  rw [if_pos hc]

end Sys2Proof.Machine

/-!
Ticks and presets are what moves the horizon count: the count at a cold Waking, the arming of a preset, and the statement itself.
-/
namespace Sys2Proof.Machine

theorem ModState.powered_of_ne_off {m : ModState} (h : m ≠ .off) : m.powered = true := by
  cases m with
  | off => exact absurd rfl h
  | _ => rfl

/-- The count starts at zero at a cold Waking (R41). -/
theorem State.coldStart_count (s : State) : s.coldStart.count = 0 := by
  have hfresh : ∀ (t : State) (b : Fin 4), (t.freshBed b).hz = t.hz := fun t b => (Keeps.freshBed (.refl [.regs, .beds] t) rfl b).same .hz rfl
  have hchain : ∀ t : State, t.chainStart.hz = t.hz := fun t => (Keeps.chainStart (.refl [.aug] t) rfl).same .hz rfl
  have hdrive : ∀ t : State, t.driveHold.hz = t.hz := fun t => t.driveHold_only .hz (by decide)
  have hhalt : ∀ (t : State) (n : Nat), (t.haltWaking n).hz = t.hz := fun t n =>
    (Keeps.haltWaking (.refl [.regs, .mod, .fast, .eng, .aug, .dec] t) rfl n).same .hz rfl
  have hwarn : ∀ t : State, t.showWarn.hz = t.hz := fun _ => rfl
  have hstep : ∀ (t : State) (n : Nat), (t.bootStep n).hz = t.hz := fun _ _ => rfl
  have hdrop : s.dropPower.hz = State.reset.hz := rfl
  unfold State.coldStart State.count
  dsimp only
  split
  all_goals simp only [hfresh, hchain, hdrive, hhalt, hwarn, hstep, hdrop, State.setFlag_hz, State.setFld_hz, State.setReg_hz]
  all_goals rfl

/-- The rails come up with no critical shutdown that holds them: the module starts cold (R517, R554). -/
theorem State.railsUp_count {s : State} {temps : Vector Int 18}
    (h : s.mod.criticalOff = false ∨ ({ s with pwr := { s.pwr with temps := temps } } : State).allCool = true) :
    (s.railsUp temps).count = 0 := by
  unfold State.railsUp
  extract_lets p t src
  have ht : ¬ (t.mod.criticalOff && !t.allCool) = true := by
    rcases h with h | h
    · rw [show t.mod.criticalOff = false from h]
      exact Bool.false_ne_true
    · rw [show t.allCool = true from h, Bool.not_true, Bool.and_false]
      exact Bool.false_ne_true
  rw [if_neg ht, State.count, State.setFld_hz]
  exact State.coldStart_count _

/-- A flywheel tick is noted in `u`; there the count moves on as at a tick (R42). -/
theorem State.flyTick_eq (s : State) :
    ∃ u : State, s.flyTick = u.advance false ∧ u.countNow = s.countNow ∧ u.hz.loss = s.hz.loss ∧ u.hz.flyTicks = s.hz.flyTicks + 1 :=
  ⟨{ s with hz := { s.hz with flyTicks := s.hz.flyTicks + 1, spans := (s.tickPs :: s.hz.spans).take spansKept } }, rfl,
    State.countNow_of_reg rfl rfl fun _ _ => rfl, rfl, rfl⟩

theorem exec_flywheelTick {s : State} (h : s.mod.st ≠ .off) (hl : s.hz.loss = true) (hp : s.tickPs ≠ 0) :
    exec .flywheelTick s = .next s.flyTick := by
  show Host.Outcome.next _ = _
  rw [if_pos (by simp [State.counts, ModState.powered_of_ne_off h, hl, hp])]

theorem exec_presetArm {s : State} {p : Path} (h : s.opens p HZN_CTL) : exec (.presetArm p) s = .next (s.seen p).armPreset :=
  congrArg Host.Outcome.next (State.via_of_opens h fun u => u.armPreset)

theorem State.seen_preset (s : State) (p : Path) : (s.seen p).reg64 HZN_PRESET_LO = s.reg64 HZN_PRESET_LO :=
  State.reg64_of_reg (s.seen_reg p (by decide)) (s.seen_reg p (by decide))

theorem State.armPreset_armed {s : State} (hg : s.mod.st ≠ .growing) (hz : lowZero 16 (s.reg64 HZN_PRESET_LO) = true) :
    s.armPreset = { s with hz := { s.hz with armed := true } } := by
  unfold State.armPreset
  rw [if_pos (by simp [hg, hz])]

theorem State.armPreset_ignored {s : State} (h : s.mod.st = .growing ∨ lowZero 16 (s.reg64 HZN_PRESET_LO) = false) : s.armPreset = s := by
  unfold State.armPreset
  refine if_neg ?_
  rcases h with h | h <;> simp [h]

theorem exec_presetApply {s : State} (hd : s.hz.due = true) (hg : s.mod.st ≠ .growing) : exec .presetApply s = .next s.applyPreset := by
  show Host.Outcome.next _ = _
  rw [if_pos (by simp [hd, hg])]

/-- Settles O19: `CountsTo` says how each command that moves the count moves it, `exec_keeps` that no other does. -/
theorem ticksAndPresetsMoveTheCount : Obligations.TicksAndPresetsMoveTheCount := by
  unfold Obligations.TicksAndPresetsMoveTheCount
  refine ⟨?tick, ?sameTick, ?flywheel, ?cold, ?off, ?others, ?armed, ?ignored, ?applied⟩
  case tick =>
    intro ps sync s hoff hsame
    obtain ⟨u, hu, -, hnow, hloss, hfly, hst⟩ := s.tickEdge_eq ps sync
    have k := u.advance_countsTo sync
    refine ⟨_, exec_tick hoff ps sync, ?_⟩
    rw [hu, hsame, Bool.not_false, if_pos rfl]
    exact ⟨k.count.trans (by rw [hnow]), k.loss.trans hloss, k.flywheel.trans hfly, k.st.trans hst⟩
  case sameTick =>
    intro ps sync s hoff hsame
    obtain ⟨u, hu, hcount, -, hloss, -, -⟩ := s.tickEdge_eq ps sync
    refine ⟨_, exec_tick hoff ps sync, ?_⟩
    rw [hu, hsame, Bool.not_true, if_neg Bool.false_ne_true]
    split
    · exact ⟨u.countsTo_syncPulse.count.trans hcount, u.countsTo_syncPulse.loss.trans hloss⟩
    · exact ⟨hcount, hloss⟩
  case flywheel =>
    intro s hoff hloss hps
    obtain ⟨u, hu, hnow, hul, hfly⟩ := s.flyTick_eq
    have k := u.advance_countsTo false
    refine ⟨_, exec_flywheelTick hoff hloss hps, ?_⟩
    rw [hu]
    exact ⟨k.count.trans (by rw [hnow]), k.loss.trans (hul.trans hloss), k.flyTicks.trans hfly⟩
  case cold =>
    intro temps s hoff hcool
    refine ⟨_, rfl, ?_⟩
    rw [if_pos (by simp [hoff])]
    exact State.railsUp_count hcool
  case off =>
    intro ps sync s hoff
    show Host.Outcome.next _ = _
    rw [if_neg (by simp [State.counts, hoff, ModState.powered])]
  case others =>
    intro c s t h hhz
    exact congrArg Hz.count ((exec_keeps c h).only .hz hhz)
  case armed =>
    intro p s ho hg hz
    refine ⟨_, exec_presetArm ho, ?_⟩
    rw [State.armPreset_armed (by rwa [State.seen_st]) (by rwa [State.seen_preset])]
    exact ⟨by rw [State.seen_hz], (Framed.refl _ _ _).setHz (by decide) _⟩
  case ignored =>
    intro p s ho h
    rw [exec_presetArm ho, State.armPreset_ignored (by rwa [State.seen_st, State.seen_preset])]
  case applied =>
    intro s hd hg
    obtain ⟨o, ho⟩ := s.applyPreset_hz
    have hcount : s.applyPreset.count = s.presetCount := s.applyPreset_countsTo.count
    refine ⟨_, exec_presetApply hd hg, hcount.trans s.presetCount_eq, by rw [ho], by rw [ho], ?_, ?_, fun hn hp => ?_⟩
    · rw [State.applyPreset_flag _ rfl (by decide) (by decide), State.presetLoaded_done]
    · rw [State.applyPreset_flag _ rfl (by decide) (by decide), State.presetLoaded_slip]
    · rw [State.applyPreset_last s hn hp, hcount]

end Sys2Proof.Machine

/-!
What closing a seal and writing an EVENT record leave: the record hold, and the fields of AUG_STAT that no seal shows (R332, R341).
-/
namespace Sys2Proof.Machine

theorem State.numberRec_hold (s : State) (r : Record) : (s.numberRec r).aug.hold = s.aug.hold := by
  unfold State.numberRec
  split
  · dsimp only
    split <;> split <;> rfl
  · rfl

theorem State.closeRun_hold (s : State) (k : Nat) : (s.closeRun k).aug.hold = s.aug.hold := by
  unfold State.closeRun
  split
  · rfl
  · exact s.numberRec_hold _

theorem State.closeRuns_hold (s : State) : s.closeRuns.aug.hold = s.aug.hold := by
  unfold State.closeRuns
  exact List.foldlRecOn (motive := fun t : State => t.aug.hold = s.aug.hold) _ _ rfl fun t ht k _ => (t.closeRun_hold k).trans ht

theorem foldl_snapshot_hold (l : List (Fin 8)) (a : Aug) : (l.foldl Aug.snapshot a).hold = a.hold :=
  List.foldlRecOn (motive := fun b : Aug => b.hold = a.hold) _ _ rfl fun _ hb _ _ => hb

theorem State.closeSeal_hold (s : State) (r : Nat) : (s.closeSeal r).aug.hold = s.aug.hold := by
  unfold State.closeSeal
  split
  · dsimp only
    split
    · exact s.closeRuns_hold
    · split
      all_goals
        simp only [State.setFlag_aug, State.setFld_aug, State.setReg_aug]
        exact (foldl_snapshot_hold _ _).trans s.closeRuns_hold
  · rfl

theorem State.closeDueSeal_hold (s : State) : s.closeDueSeal.aug.hold = s.aug.hold := by
  unfold State.closeDueSeal
  split
  · rfl
  · split
    · rfl
    · exact s.closeSeal_hold _

theorem State.numberEvent_hold (s : State) (code : Nat) (h : U64) (l p : Nat) (args : List Nat) (v : List Byte) :
    (s.numberEvent code h l p args v).aug.hold = s.aug.hold := by
  unfold State.numberEvent
  dsimp only
  split <;> exact s.numberRec_hold _

theorem State.timeMark_hold (s : State) : s.timeMark.aug.hold = s.aug.hold := by
  unfold State.timeMark
  split
  · exact State.numberEvent_hold _ _ _ _ _ _ _
  · rfl

theorem State.writeEventAt_hold (s : State) (code : Nat) (h : U64) (l : Nat) (args : List Nat) :
    (s.writeEventAt code h l args).aug.hold = s.aug.hold := by
  unfold State.writeEventAt
  rw [State.numberEvent_hold, State.timeMark_hold, State.closeDueSeal_hold]

/-- A write of field `g` leaves field `f`: they stand in different registers or do not meet. -/
abbrev Field.apartFrom (f g : Field) : Prop := f.addr ≠ g.addr ∨ (g.lo + g.w ≤ f.lo ∨ f.lo + f.w ≤ g.lo) ∧ f.fits

/-- A field that a seal close does not show: neither AUG_RATE nor LAST_REASON, SIGN_BUSY or SEAL_FORCED (Table 10.11). -/
abbrev Field.besideSeal (f : Field) : Prop :=
  f.addr ≠ AUG_RATE ∧ f.apartFrom AUG_STAT_LAST_REASON ∧ f.apartFrom AUG_STAT_SIGN_BUSY ∧ f.apartFrom AUG_STAT_SEAL_FORCED

section
variable (s : State) {f : Field} (hf : f.besideSeal)
include hf

theorem State.closeSeal_flag (r : Nat) : (s.closeSeal r).flag f = s.flag f := by
  obtain ⟨hrate, hreason, hbusy, hforced⟩ := hf
  unfold State.closeSeal
  split
  · dsimp only
    split
    · exact State.flag_congr s.closeRuns_regs f
    · split
      · rw [State.flag_setFlag_apart _ _ hforced, State.flag_setFlag_apart _ _ hbusy, State.flag_setFld_apart _ _ hreason,
          State.flag_setReg_ne _ _ hrate]
        exact State.flag_congr s.closeRuns_regs f
      · rw [State.flag_setFlag_apart _ _ hbusy, State.flag_setFld_apart _ _ hreason, State.flag_setReg_ne _ _ hrate]
        exact State.flag_congr s.closeRuns_regs f
  · rfl

theorem State.closeDueSeal_flag : s.closeDueSeal.flag f = s.flag f := by
  unfold State.closeDueSeal
  split
  · rfl
  · split
    · rfl
    · exact s.closeSeal_flag hf _

theorem State.writeEventAt_flag (code : Nat) (h : U64) (l : Nat) (args : List Nat) :
    (s.writeEventAt code h l args).flag f = s.flag f := by
  unfold State.writeEventAt
  rw [State.flag_congr (State.numberEvent_regs _ _ _ _ _ _ _), State.flag_congr (State.timeMark_regs _), State.closeDueSeal_flag _ hf]

end

/-- An EVENT record, with the seal that may close before it. -/
theorem Framed.writeEventAt {A : List Area} {R : List Nat} {r s : State} (h : Framed A R r s) (hA : [Area.regs, .aug] ⊆ A)
    (hR : [AUG_RATE, AUG_STAT] ⊆ R) (code : Nat) (x : U64) (l : Nat) (args : List Nat) : Framed A R r (s.writeEventAt code x l args) :=
  h.trans ⟨(s.writeEventAt_only code x l args).mono hA,
    fun _ ha => s.writeEventAt_reg code x l args (fun e => ha (hR (by simp [e]))) fun e => ha (hR (by simp [e]))⟩

theorem Framed.setAug {A : List Area} {R : List Nat} {r s : State} (h : Framed A R r s) (hA : Area.aug ∈ A) (z : Aug) :
    Framed A R r { s with aug := z } :=
  h.area .aug hA rfl fun p hp => by
    cases p with
    | aug => exact absurd rfl hp
    | _ => rfl

/-- A saturating counter that counts one more (R343). -/
theorem State.reg_bump_bumped (s : State) (a : Nat) : (s.bump a).reg a = bumped (s.reg a) := by
  rw [State.reg_bump]
  unfold bumped
  split
  · rename_i h
    rw [h]
    rfl
  · bv_omega

end Sys2Proof.Machine

/-!
The HOLD_N lines once they have been driven (R28, R430).
-/
namespace Sys2Proof.Machine

/-- What the HOLD_N lines follow: the module control, the count's losses and slips, the record hold and the beds that can produce verdicts. -/
theorem State.holdLine_congr {s t : State} (hmod : t.mod = s.mod) (hhz : t.hz = s.hz) (hprog : t.prog = s.prog) (hflt : t.flt = s.flt)
    (hhold : t.aug.hold = s.aug.hold) (hslip : t.flag HZN_STAT_SLIP = s.flag HZN_STAT_SLIP) (d : Nat) : t.holdLine d = s.holdLine d := by
  have hun : ∀ k, t.dieUnable k = s.dieUnable k := fun k => by
    have hplace : t.placeUnable = s.placeUnable := by
      funext p
      unfold State.placeUnable State.bedUnable
      rw [hflt]
    unfold State.dieUnable State.placed
    rw [hprog, hplace]
  unfold State.holdLine State.moduleHold State.holdCause State.slipHold
  rw [hun, hun, hun, hmod, hhz, hhold, hslip]

/-- Driving the lines changes nothing that they follow. -/
theorem State.driveHold_holdLine (s : State) (d : Nat) : s.driveHold.holdLine d = s.holdLine d :=
  State.holdLine_congr (s.driveHold_only .mod (by decide)) (s.driveHold_only .hz (by decide)) (s.driveHold_only .prog (by decide))
    (s.driveHold_only .flt (by decide)) (congrArg Aug.hold (s.driveHold_only .aug (by decide))) (s.flag_driveHold (by decide) (by decide)) d

theorem State.driveHold_lines (s : State) : s.driveHold.dec.lines = #v[s.driveHold.holdLine 0, s.driveHold.holdLine 1] := by
  obtain ⟨-, -, hlines⟩ := s.driveHold_facts
  rw [hlines, State.driveHold_holdLine, State.driveHold_holdLine]
  ext i hi
  match i, hi with
  | 0, _ => simp
  | 1, _ => simp

theorem Framed.driveHold {A : List Area} {R : List Nat} {r s : State} (h : Framed A R r s) (hA : [Area.regs, .dec, .fast] ⊆ A)
    (hR : [DEC_HOLD_CNT, DEC_STAT] ⊆ R) : Framed A R r s.driveHold :=
  h.trans ⟨s.driveHold_only.mono hA, fun _ ha => s.driveHold_reg (fun e => ha (hR (by simp [e]))) fun e => ha (hR (by simp [e]))⟩

theorem State.lastEvent_congr {s t : State} (h : t.aug = s.aug) : t.lastEvent = s.lastEvent := by
  unfold State.lastEvent
  rw [h]

theorem State.driveHold_lastEvent (s : State) : s.driveHold.lastEvent = s.lastEvent :=
  State.lastEvent_congr (s.driveHold_only .aug (by decide))

end Sys2Proof.Machine

/-!
The end of a record hold (R341).
-/
namespace Sys2Proof.Machine

/-- The state in which the record hold has ended and been counted, before its record. -/
def State.holdEnded (s : State) : State :=
  (({ s with aug := { s.aug with hold := none } } : State).setFlag AUG_STAT_HOLD false).bump AUG_HOLD_CNT

theorem State.releaseHold_eq (s : State) (first : U64) :
    s.releaseHold first = (s.holdEnded.writeEventAt 0x0801 first 0 [first.toNat, s.count.toNat - 1]).driveHold := rfl

theorem State.holdEnded_canNumber (s : State) : s.holdEnded.canNumber = s.canNumber := rfl

theorem State.holdEnded_hold (s : State) : s.holdEnded.aug.hold = none := rfl

theorem State.holdEnded_flag (s : State) : s.holdEnded.flag AUG_STAT_HOLD = false :=
  (State.flag_bump_ne _ (by decide)).trans (State.flag_setFlag _ _ _ (by decide) rfl)

theorem State.holdEnded_cnt (s : State) : s.holdEnded.reg AUG_HOLD_CNT = bumped (s.reg AUG_HOLD_CNT) := by
  unfold State.holdEnded
  rw [State.reg_bump_bumped, State.reg_setFlag_ne _ _ (by decide)]
  rfl

theorem State.holdEnded_framed (s : State) : Framed [.regs, .aug] [AUG_HOLD_CNT, AUG_STAT] s s.holdEnded :=
  (((Framed.refl _ _ s).setAug (by decide) _).setFlag (by decide) (by decide) false).setReg (by decide) (by decide) _

section
variable (s : State) (first : U64)

theorem State.releaseHold_hold : (s.releaseHold first).aug.hold = none := by
  rw [State.releaseHold_eq, State.driveHold_only _ .aug (by decide), State.writeEventAt_hold, State.holdEnded_hold]

theorem State.releaseHold_flag : (s.releaseHold first).flag AUG_STAT_HOLD = false := by
  rw [State.releaseHold_eq, State.flag_driveHold _ (by decide) (by decide), State.writeEventAt_flag _ (by decide), State.holdEnded_flag]

theorem State.releaseHold_cnt : (s.releaseHold first).reg AUG_HOLD_CNT = bumped (s.reg AUG_HOLD_CNT) := by
  rw [State.releaseHold_eq, State.driveHold_reg _ (by decide) (by decide), State.writeEventAt_reg _ _ _ _ _ (by decide) (by decide),
    State.holdEnded_cnt]

theorem State.releaseHold_last (hn : s.canNumber = true) :
    (s.releaseHold first).lastEvent = some (0x0801, [first.toNat, s.count.toNat - 1]) := by
  rw [State.releaseHold_eq, State.driveHold_lastEvent]
  exact State.writeEventAt_last _ _ _ _ _ (s.holdEnded_canNumber.trans hn)

theorem State.releaseHold_framed : Framed [.regs, .fast, .aug, .dec] (AUG_HOLD_CNT :: noteRegs) s (s.releaseHold first) :=
  ((s.holdEnded_framed.mono (by decide) (by decide)).writeEventAt (by decide) (by decide) _ _ _ _).driveHold (by decide) (by decide)

end

theorem exec_recordHoldRelease {s : State} {first : U64} (hh : s.aug.hold = some first) (hb : s.atBoundary = true)
    (hu : s.aug.used ≤ 256 * 2 ^ 20) : exec .recordHoldRelease s = .next (s.releaseHold first) := by
  show Host.Outcome.next _ = _
  rw [hh]
  dsimp only
  rw [if_pos (by rw [hb, decide_eq_true hu]; rfl)]

/-- Between boundaries a record hold stands (R341). -/
theorem exec_recordHoldRelease_of_not_boundary {s : State} (hb : s.atBoundary = false) : exec .recordHoldRelease s = .next s := by
  show Host.Outcome.next _ = _
  rw [hb]
  simp only [Bool.false_and, Bool.false_eq_true, if_false]
  split <;> rfl

end Sys2Proof.Machine

/-!
Loose mode: its request (R261, R371, R373) and its change at a boundary (R261 to R263).
-/
namespace Sys2Proof.Machine

/-- An access that is seen moves two marks of the security state, JTAG in use and DEBUG_USED (R371). -/
theorem State.seen_sec (s : State) (p : Path) : ∃ j d, (s.seen p).sec = { s.sec with jtag := j, debugUsed := d } := by
  obtain ⟨e, i, n, b, h⟩ := (s.pathUsed p).accessSeen_mod
  rw [State.seen, h]
  unfold State.pathUsed State.usePrivate
  split
  · split
    · exact ⟨_, _, rfl⟩
    · exact ⟨_, _, State.writeEvent_only _ _ _ .sec (by decide)⟩
  · exact ⟨_, _, rfl⟩

theorem State.seen_firmLock (s : State) (p : Path) : (s.seen p).firmLock = s.firmLock := by
  obtain ⟨j, d, h⟩ := s.seen_sec p
  unfold State.firmLock State.fuse
  rw [h]

theorem State.seen_locking (s : State) (p : Path) : (s.seen p).locking = s.locking := by
  obtain ⟨j, d, h⟩ := s.seen_sec p
  unfold State.locking
  rw [h]

theorem exec_looseWrite {s : State} {p : Path} (h : s.opens p TOP_CTL) (v : Bool) :
    exec (.looseWrite p v) s = .next ((s.seen p).requestLoose v) :=
  congrArg Host.Outcome.next (State.via_of_opens h fun u => u.requestLoose v)

/-- The state in which the new mode stands and both engines show it, before a lock-step comparison is ended and the record is written. -/
def State.modeSet (s : State) (v : Bool) : State :=
  (({ s with
    mod := { s.mod with
      loose := v
      modes := ((s.count, v) :: s.mod.modes).take 8
      looseTail := if v then none else some (BitVec.ofNat 64 ((s.count.toNat / 2 ^ 24 + 2) * 2 ^ 24)) }
    eng := s.eng.map (fun (g : Engine) => { g with looseSinceCkpt := g.looseSinceCkpt || v }) } : State).setFlag LSS_STAT_LOOSE v).setFlag
      (LSS_STAT_LOOSE.on (lssOff 1)) v

/-- The state in which the new mode has ended a lock-step comparison that ran (Table 9.8). -/
def State.modeShown (s : State) (v : Bool) : State :=
  if v ∧ (s.modeSet v).lckState = 2 then (s.modeSet v).lckRefuse 4 else s.modeSet v

theorem State.changeMode_eq (s : State) (v : Bool) : s.changeMode v = (s.modeShown v).writeEvent 0x0305 [v.toNat] := rfl

theorem State.lckRefuse_reg (s : State) (n : Nat) {a : Nat} (ha : a ≠ RNG_LCK_STAT) : (s.lckRefuse n).reg a = s.reg a :=
  (State.reg_setFld_ne _ _ ha).trans (State.reg_setFld_ne s _ ha)

theorem State.lckRefuse_state (s : State) (n : Nat) : (s.lckRefuse n).lckState = 5 :=
  (State.fld_setFld_apart _ _ (by decide)).trans (State.fld_setFld s _ _ (by decide))

theorem State.lckRefuse_code (s : State) {n : Nat} (hn : n < 16) : (s.lckRefuse n).fld RNG_LCK_STAT_REF_CODE = n :=
  (State.fld_setFld _ _ _ (by decide)).trans (Nat.mod_eq_of_lt hn)

section
variable (s : State) (v : Bool)

/-- The engines' LOOSE flags are the registers that the mode shows in. -/
theorem State.modeSet_reg {a : Nat} (h0 : a ≠ LSS_STAT) (h1 : a ≠ LSS_STAT + lssOff 1) : (s.modeSet v).reg a = s.reg a :=
  (State.reg_setFlag_ne _ _ h1).trans (State.reg_setFlag_ne _ _ h0)

theorem State.modeSet_flag : (s.modeSet v).flag LSS_STAT_LOOSE = v ∧ (s.modeSet v).flag (LSS_STAT_LOOSE.on (lssOff 1)) = v :=
  ⟨(State.flag_setFlag_apart _ _ (by decide)).trans (State.flag_setFlag _ _ _ (by decide) rfl), State.flag_setFlag _ _ _ (by decide) rfl⟩

theorem State.modeSet_lckState : (s.modeSet v).lckState = s.lckState :=
  State.fld_of_reg (s.modeSet_reg v (by decide) (by decide))

theorem State.modeShown_cases :
    (v = true ∧ s.lckState = 2) ∧ s.modeShown v = (s.modeSet v).lckRefuse 4 ∨
      ¬(v = true ∧ s.lckState = 2) ∧ s.modeShown v = s.modeSet v := by
  unfold State.modeShown
  rw [State.modeSet_lckState]
  split
  · exact .inl ⟨‹_›, rfl⟩
  · exact .inr ⟨‹_›, rfl⟩

/-- Ending a comparison shows in RNG_LCK_STAT only. -/
theorem State.modeShown_reg {a : Nat} (ha : a ≠ RNG_LCK_STAT) : (s.modeShown v).reg a = (s.modeSet v).reg a := by
  obtain ⟨-, h⟩ | ⟨-, h⟩ := s.modeShown_cases v
  · rw [h, State.lckRefuse_reg _ _ ha]
  · rw [h]

theorem State.modeShown_mod : (s.modeShown v).mod = (s.modeSet v).mod := by
  obtain ⟨-, h⟩ | ⟨-, h⟩ := s.modeShown_cases v
  · rw [h]; rfl
  · rw [h]

theorem State.modeShown_canNumber : (s.modeShown v).canNumber = s.canNumber := by
  obtain ⟨-, h⟩ | ⟨-, h⟩ := s.modeShown_cases v
  · rw [h]; rfl
  · rw [h]; rfl

theorem State.changeMode_mod : (s.changeMode v).mod = (s.modeSet v).mod := by
  rw [State.changeMode_eq, State.writeEvent_only _ _ _ .mod (by decide), State.modeShown_mod]

theorem State.changeMode_flag {f : Field} (hf : f.addr ≠ RNG_LCK_STAT) (h1 : f.addr ≠ AUG_RATE) (h2 : f.addr ≠ AUG_STAT) :
    (s.changeMode v).flag f = (s.modeSet v).flag f := by
  rw [State.changeMode_eq, State.flag_writeEvent _ _ _ h1 h2, State.flag_of_reg (s.modeShown_reg v hf)]

/-- Loose mode refuses a comparison that runs, with code 4; any other change leaves RNG_LCK_STAT (Table 9.8). -/
theorem State.changeMode_lck :
    if v = true ∧ s.lckState = 2 then (s.changeMode v).lckState = 5 ∧ (s.changeMode v).fld RNG_LCK_STAT_REF_CODE = 4
    else (s.changeMode v).reg RNG_LCK_STAT = s.reg RNG_LCK_STAT := by
  have hreg : (s.changeMode v).reg RNG_LCK_STAT = (s.modeShown v).reg RNG_LCK_STAT := State.writeEvent_reg _ _ _ (by decide) (by decide)
  obtain ⟨hc, h⟩ | ⟨hc, h⟩ := s.modeShown_cases v
  · rw [if_pos hc]
    rw [h] at hreg
    exact ⟨(State.fld_of_reg hreg).trans (State.lckRefuse_state _ _), (State.fld_of_reg hreg).trans (State.lckRefuse_code _ (by decide))⟩
  · rw [if_neg hc, hreg, h]
    exact s.modeSet_reg v (by decide) (by decide)

theorem State.changeMode_last (hn : s.canNumber = true) : (s.changeMode v).lastEvent = some (0x0305, [v.toNat]) :=
  State.writeEvent_last _ _ _ ((s.modeShown_canNumber v).trans hn)

end

theorem exec_modeChange {s : State} {v : Bool} (hb : s.atBoundary = true) (hs : s.mod.st.serving = true) (hr : s.flag TOP_CTL_LOOSE = v)
    (hl : s.mod.loose = !v) : exec .modeChange s = .next (s.changeMode v) := by
  have hne : (v != !v) = true := by cases v <;> rfl
  show Host.Outcome.next _ = _
  rw [hr, hl, hb, hs, hne]
  exact congrArg Host.Outcome.next (if_pos rfl)

/-- Between boundaries the mode stands (R261). -/
theorem exec_modeChange_of_not_boundary {s : State} (hb : s.atBoundary = false) : exec .modeChange s = .next s := by
  show Host.Outcome.next _ = _
  rw [hb]
  exact congrArg Host.Outcome.next (if_neg (by simp))

/-- Settles O41: `changeMode` and `releaseHold` say what each change leaves; between boundaries neither happens. -/
theorem modeAndHoldChangeAtABoundary : Obligations.ModeAndHoldChangeAtABoundary := by
  unfold Obligations.ModeAndHoldChangeAtABoundary
  refine ⟨?request, ?change, ?between, ?release⟩
  case request =>
    intro p v s ho
    refine ⟨_, exec_looseWrite ho v, ?_⟩
    unfold State.requestLoose
    rw [State.seen_firmLock, State.seen_locking]
    split
    · rfl
    · exact ⟨State.flag_setFlag _ _ _ (by decide) rfl, (Framed.refl _ _ _).setFlag (by decide) (by decide) v⟩
  case change =>
    intro v s hb hs hr hl
    obtain ⟨hflag0, hflag1⟩ := s.modeSet_flag v
    exact ⟨_, exec_modeChange hb hs hr hl, by rw [State.changeMode_mod]; rfl,
      (s.changeMode_flag v (by decide) (by decide) (by decide)).trans hflag0,
      (s.changeMode_flag v (by decide) (by decide) (by decide)).trans hflag1,
      by rw [State.changeMode_mod]; rfl, s.changeMode_lck v, s.changeMode_last v⟩
  case between =>
    intro s hb
    exact ⟨exec_modeChange_of_not_boundary hb, exec_recordHoldRelease_of_not_boundary hb⟩
  case release =>
    intro first s hh hb hu
    exact ⟨_, exec_recordHoldRelease hh hb hu, s.releaseHold_hold first, s.releaseHold_flag first, s.releaseHold_cnt first,
      State.driveHold_lines _, s.releaseHold_last first, s.releaseHold_framed first⟩

end Sys2Proof.Machine

/-!
The quarantine of items whose sender is not bound to their class (R419).
-/
namespace Sys2Proof.Machine

theorem Framed.setStm {A : List Area} {R : List Nat} {r s : State} (h : Framed A R r s) (hA : Area.stm ∈ A) (z : Stm) :
    Framed A R r { s with stm := z } :=
  h.area .stm hA rfl fun p hp => by
    cases p with
    | stm => exact absurd rfl hp
    | _ => rfl

theorem Framed.bump {A : List Area} {R : List Nat} {r s : State} (h : Framed A R r s) (hA : Area.regs ∈ A) {a : Nat} (ha : a ∈ R) :
    Framed A R r (s.bump a) := h.setReg hA ha _

/-- The lowest free entry of the quarantine table, which a new sender takes (log entry 74). -/
def Stm.freeQuar? (m : Stm) : Option Nat := (List.range 256).find? (fun i => (mapFind m.quar i).isNone)

theorem Stm.free_of_freeQuar? {m : Stm} {j : Nat} (h : m.freeQuar? = some j) : j < 256 ∧ mapFind m.quar j = none :=
  ⟨List.mem_range.mp (List.mem_of_find?_eq_some h), Option.isNone_iff_eq_none.mp (List.find?_some h :)⟩

/-- A table with a free entry offers one. -/
theorem Stm.exists_freeQuar? {m : Stm} {i : Nat} (hi : i < 256) (hf : mapFind m.quar i = none) : ∃ j, m.freeQuar? = some j :=
  Option.isSome_iff_exists.mp (List.find?_isSome.mpr ⟨i, List.mem_range.mpr hi, Option.isNone_iff_eq_none.mpr hf⟩)

theorem Stm.freeQuar?_eq_none {m : Stm} (h : ∀ i, i < 256 → (mapFind m.quar i).isSome = true) : m.freeQuar? = none :=
  List.find?_eq_none.mpr fun i hi hn => by
    have hs := h i (List.mem_range.mp hi)
    rw [Option.isNone_iff_eq_none.mp hn] at hs
    exact Bool.false_ne_true hs

/-- The state in which entry `i` of the quarantine table lists `q` and QUAR shows that an item was quarantined. -/
def State.quarListed (s : State) (i : Nat) (q : Quar) : State :=
  { s.setFlag STM_STAT_QUAR true with stm := { s.stm with quar := mapSet s.stm.quar i q } }

/-- The state in which an item is quarantined that finds no entry: it is in the overflow count. -/
def State.quarOverflow (s : State) : State := ((s.setFlag STM_STAT_QUAR true).setFlag STM_STAT_QUAR_OVF true).bump STM_QUAR_OVF_CNT

section
variable (s : State)

theorem State.quarListed_flag (i : Nat) (q : Quar) : (s.quarListed i q).flag STM_STAT_QUAR = true :=
  State.flag_setFlag s STM_STAT_QUAR true (by decide) rfl

theorem State.quarListed_stm (i : Nat) (q : Quar) : (s.quarListed i q).stm = { s.stm with quar := mapSet s.stm.quar i q } := rfl

theorem State.quarListed_framed (i : Nat) (q : Quar) : Framed [.regs, .stm] [STM_STAT] s (s.quarListed i q) :=
  ((Framed.refl _ _ s).setFlag (by decide) (by decide) true).setStm (by decide) _

theorem State.quarOverflow_quar : s.quarOverflow.flag STM_STAT_QUAR = true := by
  unfold State.quarOverflow
  rw [State.flag_bump_ne _ (by decide), State.flag_setFlag_apart _ _ (by decide), State.flag_setFlag _ _ _ (by decide) rfl]

theorem State.quarOverflow_ovf : s.quarOverflow.flag STM_STAT_QUAR_OVF = true := by
  unfold State.quarOverflow
  rw [State.flag_bump_ne _ (by decide), State.flag_setFlag _ _ _ (by decide) rfl]

theorem State.quarOverflow_cnt : s.quarOverflow.reg STM_QUAR_OVF_CNT = bumped (s.reg STM_QUAR_OVF_CNT) := by
  unfold State.quarOverflow
  rw [State.reg_bump_bumped, State.reg_setFlag_ne _ _ (by decide), State.reg_setFlag_ne _ _ (by decide)]

theorem State.quarOverflow_framed : Framed [.regs] [STM_STAT, STM_QUAR_OVF_CNT] s s.quarOverflow :=
  (((Framed.refl _ _ s).setFlag (by decide) (by decide) true).setFlag (by decide) (by decide) true).bump (by decide) (by decide)

end

section
variable {s : State} {w : Word}

/-- A sender that is listed counts in its own entry, which shows the lane and the class of its newest item too. -/
theorem State.quarantine_listed {i : Nat} {q : Quar} (hq : s.stm.quar.find? (fun e => e.2.sender == w) = some (i, q)) (lane : Nat)
    (summary : Bool) (first : U64) : s.quarantine w lane summary first =
      s.quarListed i { q with
        lane := lane, frameSeen := q.frameSeen || !summary, sumSeen := q.sumSeen || summary, items := min (q.items + 1) 0xFFFF } := by
  unfold State.quarantine
  dsimp only
  rw [State.setFlag_stm, hq]
  rfl

/-- A new sender takes the lowest free entry. -/
theorem State.quarantine_new {j : Nat} (hq : s.stm.quar.find? (fun e => e.2.sender == w) = none) (hj : s.stm.freeQuar? = some j) (lane : Nat)
    (summary : Bool) (first : U64) :
    s.quarantine w lane summary first = s.quarListed j ⟨w, lane, !summary, summary, first, 1⟩ := by
  unfold Stm.freeQuar? at hj
  unfold State.quarantine
  dsimp only
  rw [State.setFlag_stm, hq]
  dsimp only
  rw [hj]
  rfl

/-- A new sender that finds the table full is in the overflow count. -/
theorem State.quarantine_full (hq : s.stm.quar.find? (fun e => e.2.sender == w) = none) (hj : s.stm.freeQuar? = none) (lane : Nat)
    (summary : Bool) (first : U64) : s.quarantine w lane summary first = s.quarOverflow := by
  unfold Stm.freeQuar? at hj
  unfold State.quarantine
  dsimp only
  rw [State.setFlag_stm, hq]
  dsimp only
  rw [hj]
  rfl

end

end Sys2Proof.Machine

/-!
Frame items of unbound senders, and of bound ones outside Growing (R419, R420).
-/
namespace Sys2Proof.Machine

section
variable {s : State} {l : Fin 48} {w : Word} {st : BitVec 24}

/-- A frame item that its lane delivers and no entry binds is quarantined under the horizon of its stamp, in every state (R419). -/
theorem exec_frameItem_unbound (hl : s.streamOn l = true) (hb : s.boundPlace w (extendStamp s.count.toNat st.toNat) = none)
    (pl : List Byte) (bad br : Bool) (ps : Nat) : exec (.frameItem l w st pl bad br ps) s =
      .next (s.quarantine w l false (BitVec.ofNat 64 (extendStamp s.count.toNat st.toNat))) := by
  show Host.Outcome.next _ = _
  rw [if_pos hl, State.frameItem]
  dsimp only
  rw [hb]

/-- A bound frame item that comes outside Growing is counted as refused, and nothing else is done with it (R420). -/
theorem exec_frameItem_refused {place : Nat} (hl : s.streamOn l = true)
    (hb : s.boundPlace w (extendStamp s.count.toNat st.toNat) = some place) (hg : s.mod.st ≠ .growing)
    (pl : List Byte) (bad br : Bool) (ps : Nat) : exec (.frameItem l w st pl bad br ps) s =
      .next (s.bump (slotCounter STM_SLOT_REFUSED_CNT place)) := by
  show Host.Outcome.next _ = _
  rw [if_pos hl, State.frameItem]
  dsimp only
  rw [hb]
  exact congrArg Host.Outcome.next (if_neg (by simp [hg]))

end

/-- Settles O27: the three cases of `quarantine` for an unbound sender, and the count of a frame refused outside Growing. -/
theorem unboundAndRefusedFramesAreCounted : Obligations.UnboundAndRefusedFramesAreCounted := by
  unfold Obligations.UnboundAndRefusedFramesAreCounted
  refine ⟨?new, ?listed, ?full, ?refused⟩
  case new =>
    intro l w st pl bad br ps i s hl hb hq hi hf
    obtain ⟨j, hj⟩ := Stm.exists_freeQuar? hi hf
    obtain ⟨hlt, hfree⟩ := Stm.free_of_freeQuar? hj
    refine ⟨_, exec_frameItem_unbound hl hb pl bad br ps, ?_⟩
    rw [State.quarantine_new hq hj]
    exact ⟨s.quarListed_flag _ _, ⟨j, hlt, hfree, s.quarListed_stm _ _⟩, s.quarListed_framed _ _⟩
  case listed =>
    intro l w st pl bad br ps i q s hl hb hq
    refine ⟨_, exec_frameItem_unbound hl hb pl bad br ps, ?_⟩
    rw [State.quarantine_listed hq, Bool.not_false, Bool.or_true, Bool.or_false]
    exact ⟨s.quarListed_flag _ _, s.quarListed_stm _ _, s.quarListed_framed _ _⟩
  case full =>
    intro l w st pl bad br ps s hl hb hq hall
    refine ⟨_, exec_frameItem_unbound hl hb pl bad br ps, ?_⟩
    rw [State.quarantine_full hq (Stm.freeQuar?_eq_none hall)]
    exact ⟨s.quarOverflow_quar, s.quarOverflow_ovf, s.quarOverflow_cnt, s.quarOverflow_framed⟩
  case refused =>
    intro l w st pl bad br ps place s hl hb hg
    exact ⟨_, exec_frameItem_refused hl hb hg pl bad br ps, s.reg_bump_bumped _,
      (Framed.refl _ _ s).bump (by decide) (List.mem_singleton_self _)⟩

end Sys2Proof.Machine

/-!
Management transactions: the words they access in order, and what a word cut off leaves (R532).
-/
namespace Sys2Proof.Machine

/-- `t` is `w` with a word that the management port cut off reported at address `a`: ERR, PATH, REASON 4 and the address (Table 20.9). -/
abbrev State.reportsCut (w t : State) (a : Nat) : Prop :=
  t.flag TOP_ACC_STAT_ERR = true ∧ t.fld TOP_ACC_STAT_PATH = 1 ∧ t.fld TOP_ACC_STAT_REASON = 4 ∧ t.reg TOP_ACC_ADDR = BitVec.ofNat 32 a ∧
    Framed [.regs] [TOP_ACC_STAT, TOP_ACC_ADDR] w t

/-! What a refused access leaves (Table 20.9) -/

section
variable (s : State) (p : Path) (a reason : Nat)

theorem State.refuseAccess_err : (s.refuseAccess p a reason).flag TOP_ACC_STAT_ERR = true := by
  unfold State.refuseAccess
  rw [State.flag_setReg_ne _ _ (by decide), State.flag_setFld_apart _ _ (by decide), State.flag_setFld_apart _ _ (by decide),
    State.flag_setFlag _ _ _ (by decide) rfl]

theorem State.refuseAccess_path : (s.refuseAccess p a reason).fld TOP_ACC_STAT_PATH = pathCode p := by
  unfold State.refuseAccess
  rw [State.fld_setReg_ne _ _ (by decide), State.fld_setFld_apart _ _ (by decide), State.fld_setFld _ _ _ (by decide)]
  cases p <;> rfl

theorem State.refuseAccess_reason {reason : Nat} (h : reason < 16) : (s.refuseAccess p a reason).fld TOP_ACC_STAT_REASON = reason := by
  unfold State.refuseAccess
  rw [State.fld_setReg_ne _ _ (by decide), State.fld_setFld _ _ _ (by decide)]
  exact Nat.mod_eq_of_lt h

theorem State.refuseAccess_addr : (s.refuseAccess p a reason).reg TOP_ACC_ADDR = BitVec.ofNat 32 a := State.reg_setReg _ _ _

theorem State.refuseAccess_framed : Framed [.regs] [TOP_ACC_STAT, TOP_ACC_ADDR] s (s.refuseAccess p a reason) :=
  ((((Framed.refl _ _ s).setFlag (by decide) (by decide) true).setFld (by decide) (by decide) _).setFld (by decide) (by decide) _).setReg
    (by decide) (by decide) _

end

/-! A word that is cut off -/

theorem State.partialWord_reportsCut {w : State} (h : w.pathWorks .mgt = true) (a : Nat) : w.reportsCut (w.partialWord a) a := by
  unfold State.partialWord
  rw [if_pos h]
  exact ⟨w.refuseAccess_err .mgt a 4, w.refuseAccess_path .mgt a 4, w.refuseAccess_reason .mgt a (by decide), w.refuseAccess_addr .mgt a 4,
    w.refuseAccess_framed .mgt a 4⟩

/-- An access of the transaction itself may have stopped the port: nothing can be reported then. -/
theorem State.partialWord_of_not_works {w : State} (h : ¬w.pathWorks .mgt = true) (a : Nat) : w.partialWord a = w := if_neg h

/-- The `k` bytes after the whole words are reported at `a`, unless there are none or the port no longer works. -/
theorem State.cut_reportsCut (w : State) (k a : Nat) :
    if k ≠ 0 ∧ w.pathWorks .mgt = true then w.reportsCut (if k = 0 then w else w.partialWord a) a
    else (if k = 0 then w else w.partialWord a) = w := by
  by_cases hk : k = 0
  · simp [hk]
  · rw [if_neg hk]
    split
    · next h => exact State.partialWord_reportsCut h.2 a
    · next h => exact State.partialWord_of_not_works (fun hw => h ⟨hk, hw⟩) a

/-! The words of a transaction -/

/-- The state after the first `n` words of `data` have been written from address `a` on. -/
def State.wordsWritten (s : State) (a : Nat) (data : List Byte) (n : Nat) : State :=
  (List.range n).foldl (fun s j => s.pathWrites .mgt ((a + 4 * j) % 2 ^ 32) (BitVec.ofNat 32 (leAt data (4 * j) 4))) s

/-- The state after `n` words have been read from address `a` on. -/
def State.wordsRead (s : State) (a n : Nat) : State := (List.range n).foldl (fun s j => s.pathReads .mgt ((a + 4 * j) % 2 ^ 32)) s

/-- Each address of a transaction with the number of its word. -/
theorem wordAddrs_zipIdx (a n : Nat) : (wordAddrs a n).zipIdx = (List.range n).map fun j => ((a + 4 * j) % 2 ^ 32, j) :=
  List.ext_getElem (by simp [wordAddrs]) (by simp [wordAddrs])

/-- Addresses wrap at 2^32, the first one too. -/
theorem wordAddrs_mod (a n : Nat) : wordAddrs (a % 2 ^ 32) n = wordAddrs a n := by
  unfold wordAddrs
  simp only [Nat.mod_add_mod]

theorem State.mgtWrites_eq (s : State) (a : Nat) {data : List Byte} {n k : Nat} (hk : k < 4) (hd : data.length = 4 * n + k) :
    s.mgtWrites a data =
      if k = 0 then s.wordsWritten a data n else (s.wordsWritten a data n).partialWord ((a + 4 * n) % 2 ^ 32) := by
  have hn : data.length / 4 = n := by omega
  have hm : data.length % 4 = k := by omega
  unfold State.mgtWrites State.wordsWritten
  dsimp only
  rw [hn, hm, wordAddrs_zipIdx, List.foldl_map]

theorem State.mgtReads_eq (s : State) (a m : Nat) {k : Nat} (hk : k < 4) :
    s.mgtReads (a % 2 ^ 32) (4 * m + k) =
      if k = 0 then s.wordsRead a (if k = 0 then m else m + 1)
      else (s.wordsRead a (if k = 0 then m else m + 1)).partialWord ((a + 4 * m) % 2 ^ 32) := by
  have hn : (4 * m + k + 3) / 4 = if k = 0 then m else m + 1 := by split <;> omega
  have hm : (4 * m + k) % 4 = k := by omega
  have ha : (a % 2 ^ 32 + (4 * m + k) - k) % 2 ^ 32 = (a + 4 * m) % 2 ^ 32 := by omega
  unfold State.mgtReads State.wordsRead
  rw [hn, hm, ha, wordAddrs_mod, wordAddrs, List.foldl_map]

/-! The transaction -/

/-- That an access is seen does not stop the management port. -/
theorem State.accessSeen_pathWorks_mgt (s : State) : s.accessSeen.pathWorks .mgt = s.pathWorks .mgt := by
  obtain ⟨e, i, n, b, h⟩ := s.accessSeen_mod
  rw [h]
  rfl

theorem exec_mgtTransaction {s : State} (h : s.pathWorks .mgt = true) (bs : List Byte) (n : Nat) :
    exec (.mgtTransaction bs n) s = .next (s.mgtRuns bs n) := congrArg Host.Outcome.next (if_pos h)

theorem exec_mgtTransaction_of_not_works {s : State} (h : s.pathWorks .mgt = false) (bs : List Byte) (n : Nat) :
    exec (.mgtTransaction bs n) s = .next s := congrArg Host.Outcome.next (if_neg (by simp [h]))

/-- A transaction that ends inside the register address (R532). -/
theorem State.mgtRuns_short (s : State) {bs : List Byte} (h0 : 0 < bs.length) (h4 : bs.length < 4) (n : Nat) :
    s.mgtRuns bs n = s.accessSeen.partialWord (leNat bs) := by
  have hne : ¬bs.isEmpty = true := fun he => by simp [List.isEmpty_iff.mp he] at h0
  unfold State.mgtRuns
  rw [if_pos h4, if_neg hne]

/-- A transaction that reaches its words first writes the data, then reads from where the writes end. -/
theorem State.mgtRuns_words (s : State) {head : List Byte} (hh : head.length = 4) (data : List Byte) (n : Nat) :
    s.mgtRuns (head ++ data) n =
      (s.accessSeen.mgtWrites (leNat head) data).mgtReads ((leNat head + 4 * (data.length / 4)) % 2 ^ 32) n := by
  unfold State.mgtRuns
  rw [if_neg (by simp [hh]), ← hh, List.take_left, List.drop_left]

theorem State.mgtRuns_write (s : State) {head : List Byte} (hh : head.length = 4) (data : List Byte) :
    s.mgtRuns (head ++ data) 0 = s.accessSeen.mgtWrites (leNat head) data := s.mgtRuns_words hh data 0

theorem State.mgtRuns_read (s : State) {head : List Byte} (hh : head.length = 4) (n : Nat) :
    s.mgtRuns head n = s.accessSeen.mgtReads (leNat head % 2 ^ 32) n := by
  have h := s.mgtRuns_words hh [] n
  rwa [List.append_nil] at h

/-- Settles O60: the words of a write or a read are folded in order, and what is cut off is a partial word after them. -/
theorem managementTransactionsAccessTheirWords : Obligations.ManagementTransactionsAccessTheirWords := by
  unfold Obligations.ManagementTransactionsAccessTheirWords
  refine ⟨?write, ?read, ?short, ?closed⟩
  case write =>
    intro head data n k s hp hh hk hd
    refine ⟨_, s.accessSeen.wordsWritten (leNat head) data n, exec_mgtTransaction hp _ _, rfl, ?_⟩
    rw [s.mgtRuns_write hh, State.mgtWrites_eq _ _ hk hd]
    exact State.cut_reportsCut _ k _
  case read =>
    intro head m k s hp hh hk
    refine ⟨_, s.accessSeen.wordsRead (leNat head) (if k = 0 then m else m + 1), exec_mgtTransaction hp _ _, rfl, ?_⟩
    rw [s.mgtRuns_read hh, State.mgtReads_eq _ _ _ hk]
    exact State.cut_reportsCut _ k _
  case short =>
    intro bs n s hp h0 h4
    refine ⟨_, exec_mgtTransaction hp bs n, ?_⟩
    rw [s.mgtRuns_short h0 h4]
    exact State.partialWord_reportsCut (s.accessSeen_pathWorks_mgt.trans hp) _
  case closed =>
    intro bs n s hp
    exact exec_mgtTransaction_of_not_works hp bs n

end Sys2Proof.Machine

/-!
The queue, the step and the invariants: a step runs one command, or the clocks when none waits, and `Keeps` says what is kept either way.
-/
namespace Sys2Proof.Machine

/-- No command is refused and none ends in a fault: each has a next state. -/
theorem exec_answers (c : Instr) (s : State) : ∃ t, exec c s = .next t := by
  cases c <;> exact ⟨_, rfl⟩

theorem step_of_idle {s : State} (h : s.pending = []) : step s = .next s.idleStep := by
  unfold step
  rw [h]

theorem step_of_command {s : State} {c : Instr} {rest : List Instr} (h : s.pending = c :: rest) :
    step s = exec c { s with pending := rest } := by
  unfold step
  rw [h]

/-- Every step keeps what its command keeps, from the state in which the command has left the queue. -/
theorem step_keeps {s t : State} (h : step s = .next t) : ∃ q T, Keeps T { s with pending := q } t := by
  cases hq : s.pending with
  | nil =>
    obtain rfl : s.idleStep = t := Host.Outcome.next.inj ((step_of_idle hq).symm.trans h)
    exact ⟨s.pending, [.mod, .tim], Keeps.idleStep (.refl _ s) rfl⟩
  | cons c rest => exact ⟨rest, commandAreas c, exec_keeps c ((step_of_command hq).symm.trans h)⟩

/-- The stores stay canonical and the fuse counts legal. -/
theorem Keeps.inv {T : List Area} {r s : State} (k : Keeps T r s) (h : r.Inv) : s.Inv := by
  obtain ⟨⟨hregs, hflash, hpan, hshadow, horder, hstmt, huc, hback⟩, hfuses⟩ := h
  exact ⟨⟨k.regs hregs, k.flash hflash, k.sec.hardpanCanon hpan, k.sec.shadowCanon hpan hshadow, k.sec.orderCanon horder,
    k.sec.stmtCanon hstmt, k.svc.uc huc, k.svc.back hback⟩, fun i => (k.sec.fuses hfuses i).2⟩

/-- What is burned into the hardpan stays. -/
theorem Keeps.burned_kept {T : List Area} {r s : State} (k : Keeps T r s) (h : r.fusesOk) : r.burnsKept s :=
  ⟨k.sec.hardpan, fun i => (k.sec.fuses h i).1, k.sec.bad⟩

/-- Settles O6: a step is a command or an idle step, and `Keeps.inv` carries the invariant over either. -/
theorem everyStepKeepsTheInvariant : Obligations.EveryStepKeepsTheInvariant := by
  intro s t hs h
  obtain ⟨q, T, k⟩ := step_keeps h
  exact k.inv hs

/-- Settles O7: a step is a command or an idle step, and `Keeps.burned_kept` holds over either. -/
theorem everyStepKeepsWhatIsBurned : Obligations.EveryStepKeepsWhatIsBurned := by
  intro s t hs h
  obtain ⟨q, T, k⟩ := step_keeps h
  exact k.burned_kept hs

/-- Settles O4: `exec_keeps` names the areas of each command. -/
theorem commandsKeepTheOtherAreas : Obligations.CommandsKeepTheOtherAreas :=
  fun c _ _ h => (exec_keeps c h).only

/-- Settles O1: the front command leaves the queue and runs. -/
theorem stepRunsTheFrontCommand : Obligations.StepRunsTheFrontCommand :=
  fun _ _ _ h => step_of_command h

/-- Settles O3: each command answers, and `Keeps` holds the queue. -/
theorem everyCommandAnswersAndLeavesTheQueue : Obligations.EveryCommandAnswersAndLeavesTheQueue :=
  ⟨exec_answers, fun c _ _ h => (exec_keeps c h).pending⟩

theorem State.idleNano_st (s : State) : s.idleNano.mod.st = s.mod.st := by
  unfold State.idleNano
  split
  · rfl
  · split <;> rfl

theorem State.idleNano_tim (s : State) : s.idleNano.tim = s.tim := (Keeps.idleNano (.refl [.mod] s) rfl).same .tim rfl

/-- The oscillator of a powered module runs: a nanosecond is in C, and the idle timer may take it (R32, R477). -/
theorem State.idleStep_running {s : State} (h : s.mod.st ≠ .off ∧ s.flag CLK_STAT_REF_OK = true) :
    s.idleStep = if s.timeOn.idleByTime then s.timeOn.idleNano else s.timeOn := by
  unfold State.idleStep
  rw [if_pos (by rw [ModState.powered_of_ne_off h.1, h.2]; rfl)]

theorem State.idleStep_stopped {s : State} (h : ¬(s.mod.st ≠ .off ∧ s.flag CLK_STAT_REF_OK = true)) : s.idleStep = s := by
  unfold State.idleStep
  refine if_neg fun hc => h ?_
  rw [Bool.and_eq_true] at hc
  exact ⟨fun ho => by simp [ho, ModState.powered] at hc, hc.2⟩

/-- With TICK_OK set the idle timer counts ticks and no time (R32). -/
theorem State.idleByTime_of_tickOk {s : State} (h : s.flag HZN_STAT_TICK_OK = true) : s.idleByTime = false := by
  unfold State.idleByTime
  rw [h, Bool.not_true, Bool.and_false]

/-- Settles O2: C takes the nanosecond in `timeOn`, and `idleNano` touches the module control only. -/
theorem idleStepPassesOneNanosecond : Obligations.IdleStepPassesOneNanosecond := by
  intro s hq
  refine ⟨_, step_of_idle hq, (Keeps.idleStep (.refl [.tim, .mod] s) rfl).only, ?_⟩
  by_cases h : s.mod.st ≠ .off ∧ s.flag CLK_STAT_REF_OK = true
  · rw [if_pos h, State.idleStep_running h]
    split
    · rename_i hi
      refine ⟨by rw [State.idleNano_tim]; rfl, s.timeOn.idleNano_st, fun hk => ?_⟩
      have hn : s.timeOn.idleByTime = false := State.idleByTime_of_tickOk hk
      exact absurd (hn.symm.trans hi) Bool.false_ne_true
    · exact ⟨rfl, rfl, fun _ => rfl⟩
  · rw [if_neg h, State.idleStep_stopped h]
    exact ⟨rfl, rfl, fun _ => rfl⟩

/-- Settles O5: the stores of the reset state are empty or as shipped. -/
theorem resetMeetsTheInvariant : Obligations.ResetMeetsTheInvariant := by
  unfold Obligations.ResetMeetsTheInvariant
  refine ⟨⟨mapCanon_nil _, fun k => ?_, by decide, mapCanon_nil _, mapCanon_nil _, mapCanon_nil _, mapCanon_nil _, mapCanon_nil _⟩, ?_⟩
  · revert k
    decide
  · decide

/-- Settles O8: each part of the reset state as `State.reset` lists it. -/
theorem resetIsOffWithResetValues : Obligations.ResetIsOffWithResetValues :=
  ⟨rfl, rfl, rfl, by decide, by decide, rfl, fun _ => rfl, rfl, rfl, rfl, rfl, by decide, by decide, by decide, by decide, by decide⟩

end Sys2Proof.Machine

/-!
Entering a module state and driving the HOLD_N lines: which condition asserts them, and that the frames stand (R28, R37, R430).
-/
namespace Sys2Proof.Machine

/-- The module-wide conditions that hold acceptance (Table 14.11). -/
theorem State.moduleHold_eq (s : State) : s.moduleHold =
    (s.mod.st != .growing || (s.mod.entry.isSome || s.mod.wakeHold) || s.hz.lossHold || s.slipHold || s.aug.hold.isSome || s.mod.draining) := by
  unfold State.moduleHold State.holdCause
  generalize (s.mod.st != .growing) = a, (s.mod.entry.isSome || s.mod.wakeHold) = b, s.hz.lossHold = c, s.slipHold = d, s.aug.hold.isSome = e,
    s.mod.draining = f, s.dieUnable 0 = g, s.dieUnable 1 = h
  revert a b c d e f g h
  decide

theorem State.moduleHold_of_not_growing {s : State} (h : s.mod.st ≠ .growing) : s.moduleHold = true := by
  rw [State.moduleHold_eq, bne_iff_ne.mpr h]
  rfl

theorem State.driveHold_moduleHold (s : State) (h : s.moduleHold = true) : s.driveHold.dec.lines = Vector.replicate 2 true := by
  have hd : ∀ d, s.driveHold.holdLine d = true := fun d => by rw [State.driveHold_holdLine, State.holdLine, h, Bool.true_or]
  rw [State.driveHold_lines, hd, hd]
  rfl

theorem State.driveHold_frames (s : State) : s.driveHold.fast.frames = s.fast.frames := s.driveHold_facts.1

/-- Entering a state ends in driving the lines, on a state that has the new state, its record and its seal. -/
theorem State.enterState_eq (s : State) (new : ModState) (h b r : Nat) :
    ∃ u, s.enterState new h b r = u.driveHold ∧
      Keeps [.regs, .aug] { s.leaveGrowing with mod := { s.leaveGrowing.mod with st := new } } u := by
  refine ⟨_, rfl, ?_⟩
  have k := Keeps.writeStateChange (.refl [.regs, .aug] { s.leaveGrowing with mod := { s.leaveGrowing.mod with st := new } })
    rfl s.mod.st new h b
  split
  · exact k
  · exact Keeps.closeSeal k rfl r

/-- Entering a state leaves the frames. -/
theorem State.enterState_frames (s : State) (new : ModState) (h b r : Nat) : (s.enterState new h b r).fast.frames = s.fast.frames := by
  obtain ⟨u, hu, k⟩ := s.enterState_eq new h b r
  have hl : s.leaveGrowing.fast = s.fast := (Keeps.leaveGrowing (.refl [.regs, .eng, .aug] s) rfl).same .fast rfl
  rw [hu, State.driveHold_frames, k.same .fast rfl, hl]

/-- Outside Growing both lines are asserted (R28). -/
theorem State.enterState_lines (s : State) {new : ModState} (hn : new ≠ .growing) (h b r : Nat) :
    (s.enterState new h b r).dec.lines = Vector.replicate 2 true := by
  obtain ⟨u, hu, k⟩ := s.enterState_eq new h b r
  rw [hu]
  refine u.driveHold_moduleHold (State.moduleHold_of_not_growing ?_)
  rw [k.same .mod rfl]
  exact hn

end Sys2Proof.Machine

/-!
Loss of the main rails (R30, R511, R527, R559): what bedrock, the hardpan and the flash keep.
-/
namespace Sys2Proof.Machine

/-- The register store that `keepRegs` builds, from a store it has begun. -/
def keepOnto (regs m : Map Word) (kept : List (Nat × Word)) : Map Word :=
  kept.foldl (fun m a => mapPut regReset m a.1 ((mapGet regReset regs a.1 &&& a.2) ||| (regReset a.1 &&& ~~~a.2))) m

theorem keepRegs_eq (regs : Map Word) (kept : List (Nat × Word)) : keepRegs regs kept = keepOnto regs [] kept := rfl

theorem mapGet_keepOnto_of_not_mem (regs : Map Word) {a : Nat} {kept : List (Nat × Word)} (h : a ∉ kept.map Prod.fst) (m : Map Word) :
    mapGet regReset (keepOnto regs m kept) a = mapGet regReset m a := by
  induction kept generalizing m with
  | nil => rfl
  | cons x kept ih =>
    simp only [List.map_cons, List.mem_cons, not_or] at h
    exact (ih h.2 _).trans (mapGet_mapPut_ne regReset m _ h.1)

/-- A register outside the list is at its Reset value (R539). -/
theorem mapGet_keepRegs_of_not_mem (regs : Map Word) {a : Nat} {kept : List (Nat × Word)} (h : a ∉ kept.map Prod.fst) :
    mapGet regReset (keepRegs regs kept) a = regReset a := mapGet_keepOnto_of_not_mem regs h []

/-- A register of the list keeps the bits that are named (R539). -/
theorem mapGet_keepRegs_of_mem (regs : Map Word) {a : Nat} {v : Word} {kept : List (Nat × Word)} (hn : (kept.map Prod.fst).Nodup)
    (h : (a, v) ∈ kept) : mapGet regReset (keepRegs regs kept) a = (mapGet regReset regs a &&& v) ||| (regReset a &&& ~~~v) := by
  obtain ⟨l, r, rfl⟩ := List.append_of_mem h
  rw [List.map_append, List.map_cons, List.nodup_append, List.nodup_cons] at hn
  have hs : keepRegs regs (l ++ (a, v) :: r) =
      keepOnto regs (mapPut regReset (keepOnto regs [] l) a ((mapGet regReset regs a &&& v) ||| (regReset a &&& ~~~v))) r :=
    List.foldl_append
  rw [hs, mapGet_keepOnto_of_not_mem regs hn.2.1.1, mapGet_mapPut_self]

/-- A field whose bits are all kept reads as before. -/
theorem bitsOf_kept (r v z : Word) {lo w : Nat} (h : ∀ i, i < w → v.getLsbD (lo + i) = true) :
    bitsOf ((r &&& v) ||| (z &&& ~~~v)).toNat lo w = bitsOf r.toNat lo w := by
  refine Nat.eq_of_testBit_eq fun i => ?_
  rw [bitsOf_testBit, bitsOf_testBit]
  by_cases hi : i < w
  · have hv := h i hi
    have hb : ((r &&& v) ||| (z &&& ~~~v)).getLsbD (lo + i) = r.getLsbD (lo + i) := by
      simp [hv]
    rw [BitVec.getLsbD, BitVec.getLsbD] at hb
    rw [hb]
  · simp [hi]

section
variable (s : State)

theorem State.cutBurn_keeps : Keeps [.sec, .free] s s.cutBurn := Keeps.cutBurn (.refl _ s) rfl

/-- The registers after a loss of power: the bedrock bits of PWR_STAT and PWR_BROWNOUT_CNT stand (R527). -/
theorem State.dropPower_reg (a : Nat) : s.dropPower.reg a = mapGet regReset (keepRegs s.regs bedrockRegs) a := by
  show mapGet regReset (keepRegs s.cutBurn.regs bedrockRegs) a = _
  rw [s.cutBurn_keeps.same .regs rfl]

theorem State.dropPower_reg_reset {a : Nat} (h1 : a ≠ PWR_STAT) (h2 : a ≠ PWR_BROWNOUT_CNT) : s.dropPower.reg a = regReset a := by
  rw [State.dropPower_reg, mapGet_keepRegs_of_not_mem _ (by simpa [bedrockRegs] using ⟨h1, h2⟩)]

theorem State.dropPower_brownouts : s.dropPower.reg PWR_BROWNOUT_CNT = s.reg PWR_BROWNOUT_CNT := by
  rw [State.dropPower_reg, mapGet_keepRegs_of_mem _ (v := 0xFFFFFFFF) (by decide) (by decide)]
  show (s.reg PWR_BROWNOUT_CNT &&& BitVec.allOnes 32) ||| (regReset PWR_BROWNOUT_CNT &&& ~~~BitVec.allOnes 32) = _
  rw [BitVec.not_allOnes, BitVec.and_zero, BitVec.or_zero, BitVec.and_allOnes]

theorem State.dropPower_wakeSrc : s.dropPower.fld PWR_STAT_WAKE_SRC = s.fld PWR_STAT_WAKE_SRC := by
  unfold State.fld
  rw [State.dropPower_reg, show PWR_STAT_WAKE_SRC.addr = PWR_STAT from rfl,
    mapGet_keepRegs_of_mem _ (v := 0xEF1) (by decide) (by decide), bitsOf_kept _ _ _ (by decide)]
  rfl

theorem State.dropPower_flash : s.dropPower.flash = s.flash := s.cutBurn_keeps.same .flash rfl

theorem State.dropPower_hist : s.dropPower.flt.hist = s.flt.hist := by
  show s.cutBurn.flt.hist = _
  rw [s.cutBurn_keeps.same .flt rfl]

theorem State.dropPower_tim : s.dropPower.tim.c = s.tim.c ∧ s.dropPower.tim.off = s.tim.off := by
  show s.cutBurn.tim.c = _ ∧ s.cutBurn.tim.off = _
  rw [s.cutBurn_keeps.same .tim rfl]
  exact ⟨rfl, rfl⟩

theorem State.dropPower_mod : s.dropPower.mod =
    { State.reset.mod with vstby := s.mod.vstby, mainEn := s.mod.mainEn, thmTrip := s.mod.thmTrip } := by
  show { State.reset.mod with vstby := s.cutBurn.mod.vstby, mainEn := s.cutBurn.mod.mainEn, thmTrip := s.cutBurn.mod.thmTrip } = _
  rw [s.cutBurn_keeps.same .mod rfl]

theorem State.dropPower_powerLost : s.powerLost s.dropPower :=
  ⟨rfl, rfl, rfl, rfl, rfl, rfl, rfl, rfl, s.dropPower_flash, s.dropPower_hist, s.dropPower_tim.1, s.dropPower_tim.2,
    fun _ h1 h2 => s.dropPower_reg_reset h1 h2, s.dropPower_brownouts, s.dropPower_wakeSrc⟩

end

theorem exec_mainRailsLost {s : State} (h : s.mod.st ≠ .off) : exec .mainRailsLost s = .next s.dropPower :=
  congrArg Host.Outcome.next (if_pos (ModState.powered_of_ne_off h))

theorem exec_brownOut {s : State} (h : s.mod.st ≠ .off) : exec .brownOut s = .next s.brownOut :=
  congrArg Host.Outcome.next (if_pos (ModState.powered_of_ne_off h))

theorem State.mainEnLow_powered {s : State} (h : s.mod.st ≠ .off) :
    s.mainEnLow = { s.dropPower with mod := { s.dropPower.mod with mainEn := false } } := by
  unfold State.mainEnLow
  rw [if_pos (ModState.powered_of_ne_off h)]

/-- A critical junction temperature takes the rails of a powered module (R524). -/
theorem exec_criticalShutdown {s : State} (h : s.mod.st ≠ .off) {k : Fin 18} (hk : k.val < 16) {temp : Int} (ht : 115 * 16 ≤ temp) :
    exec (.criticalShutdown k temp) s = .next (s.sense k temp).criticalOff := by
  show Host.Outcome.next (if _ then _ else _) = _
  rw [if_pos (ModState.powered_of_ne_off h)]
  exact congrArg Host.Outcome.next (if_pos ⟨hk, ht⟩)

theorem State.criticalOff_thermalOff (s : State) : s.criticalOff.flag PWR_STAT_THERMAL_OFF = true :=
  s.dropPower.flag_setFlag PWR_STAT_THERMAL_OFF true (by decide) rfl

theorem State.criticalOff_flash (s : State) : s.criticalOff.flash = s.flash := s.dropPower_flash

/-- Settles O10: each command is `dropPower` with its mark, and `dropPower_powerLost` says what that leaves. -/
theorem losingTheRailsGoesOff : Obligations.LosingTheRailsGoesOff := by
  unfold Obligations.LosingTheRailsGoesOff
  refine ⟨?rails, ?mainEn, ?brownOut, ?brownOutFallow, ?critical, ?standby⟩
  case rails =>
    intro s h
    exact ⟨_, exec_mainRailsLost h, s.dropPower_powerLost⟩
  case mainEn =>
    intro s h
    refine ⟨s.mainEnLow, rfl, ?_⟩
    rw [State.mainEnLow_powered h]
    exact ⟨s.dropPower_powerLost, rfl⟩
  case brownOut =>
    intro s h hf
    refine ⟨_, exec_brownOut h, ?_⟩
    rw [State.brownOut, if_neg hf]
    exact s.dropPower_powerLost
  case brownOutFallow =>
    intro s hf
    refine ⟨_, exec_brownOut (by rw [hf]; decide), ?_⟩
    rw [State.brownOut, if_pos hf]
    refine ⟨rfl, ?_, ?_, s.dropPower_flash⟩
    · rw [State.flag_bump_ne _ (by decide), State.flag_setFlag _ _ _ (by decide) rfl]
    · rw [State.reg_bump_bumped, State.reg_setFlag_ne _ _ (by decide), State.dropPower_brownouts]
  case critical =>
    intro k temp s h hk ht
    exact ⟨_, exec_criticalShutdown h hk ht, rfl, rfl, State.criticalOff_thermalOff _, State.criticalOff_flash _⟩
  case standby =>
    intro s
    refine ⟨s.standbyLost, rfl, ?_⟩
    unfold State.standbyLost
    exact ⟨rfl, rfl, fun _ => rfl, rfl, rfl, s.dropPower_flash⟩

end Sys2Proof.Machine

/-!
A cold Waking (R35, R40, R379, R380): what it starts anew, and a hardpan that fails its check.
-/
namespace Sys2Proof.Machine

section
variable (s : State) (n : Nat)

theorem State.haltWaking_keeps : Keeps [.regs, .mod, .fast, .eng, .aug, .dec] s (s.haltWaking n) := Keeps.haltWaking (.refl _ s) rfl n

/-- A Waking that fails is Halted with the boot ROM running (R380). -/
theorem State.haltWaking_mod : (s.haltWaking n).mod = { s.mod with haltCause := 0, bootRom := true, st := .halted } := by
  unfold State.haltWaking
  rw [State.enterState_mod]
  rfl

theorem State.haltWaking_code (hn : n < 256) : (s.haltWaking n).fld CFG_BOOT_STAT_CODE = n := by
  unfold State.haltWaking
  rw [State.fld_enterState _ _ _ _ _ (by decide) (by decide) (by decide) (by decide), State.fld_setFlag_apart _ _ (by decide)]
  exact (State.fld_setFld s _ _ (by decide)).trans (Nat.mod_eq_of_lt hn)

theorem State.haltWaking_frames : (s.haltWaking n).fast.frames = s.fast.frames := by
  unfold State.haltWaking
  rw [State.enterState_frames]
  rfl

end

/-- The state in which start-up step 1 has sensed the hardpan and selected the generation (R365 to R369). -/
def State.coldSensed (s : State) : State :=
  let s := s.dropPower
  let s := { s with
    mod := { s.mod with st := .waking, warm := false, rails := true, vstby := true, mainEn := true }
    flt := { s.flt with hist := [] }
    tim := State.reset.tim
    sec := { s.sec with shadow := putBytes zeroByte (s.sec.hardpan.filter (fun x => decide (x.1 < 0x2800))) 0x0820 s.lockBytes } }
  let g := s.pickGen
  let s := { s with sec := { s.sec with gen := g } }
  let s := (s.setFld CFG_BOOT_STAT_GEN (g.getD 0)).setFlag CFG_BOOT_STAT_DEFAULTS g.isNone
  let s := (s.setReg PWR_BUDGET (BitVec.ofNat 32 (min 7000 s.budgetCap))).bootStep 1
  let s := ((s.setFlag CLK_STAT_REF_OK true).setFlag CLK_STAT_PLLS_LOCKED true).showWarn
  { s with mod := { s.mod with thmTrip := s.mod.thmTrip && !s.allCool } }

/-- The state in which the auger unit has started and the lines are driven, before the factory data is judged (R35, R331). -/
def State.coldBegun (s : State) : State :=
  let s := s.coldSensed
  let s := (((s.freshBed 0).freshBed 1).freshBed 2).freshBed 3
  let s := { s with aug := Aug.cold }
  s.chainStart.driveHold

theorem State.coldStart_eq (s : State) :
    s.coldStart = if s.coldBegun.factoryGood then s.coldBegun else s.coldBegun.haltWaking 1 := rfl

section
variable (s : State)

theorem State.coldSensed_mod : ∃ b, s.coldSensed.mod =
    { s.dropPower.mod with st := .waking, warm := false, rails := true, vstby := true, mainEn := true, thmTrip := b } := ⟨_, rfl⟩

theorem State.coldSensed_prog : s.coldSensed.prog = Prog.none := rfl

theorem State.coldSensed_fast : s.coldSensed.fast = Fast.empty := rfl

theorem State.coldSensed_temps : s.coldSensed.pwr.temps = s.pwr.temps := by
  show s.cutBurn.pwr.temps = _
  rw [s.cutBurn_keeps.same .pwr rfl]

theorem State.coldSensed_flash : s.coldSensed.flash = s.flash := by
  simp only [State.coldSensed, State.showWarn, State.bootStep, State.setFlag_flash, State.setFld_flash, State.setReg_flash,
    State.dropPower_flash]

/-- The beds, the chain starts and the lines. -/
theorem State.coldBegun_keeps : Keeps [.regs, .beds, .fast, .aug, .dec] s.coldSensed s.coldBegun := by
  have hbeds : Keeps [.regs, .beds, .fast, .aug, .dec] s.coldSensed ((((s.coldSensed.freshBed 0).freshBed 1).freshBed 2).freshBed 3) :=
    Keeps.freshBed (Keeps.freshBed (Keeps.freshBed (Keeps.freshBed (.refl _ _) rfl 0) rfl 1) rfl 2) rfl 3
  unfold State.coldBegun
  dsimp only
  generalize (((s.coldSensed.freshBed 0).freshBed 1).freshBed 2).freshBed 3 = u at hbeds ⊢
  refine Keeps.driveHold (Keeps.chainStart (hbeds.fields fun p => ?_) rfl) rfl
  cases p with
  | aug => exact .inl (by decide)
  | _ => exact .inr rfl

theorem State.coldBegun_frames : s.coldBegun.fast.frames = [] := by
  have k : Keeps [.regs, .beds, .aug] s.coldSensed ((((s.coldSensed.freshBed 0).freshBed 1).freshBed 2).freshBed 3) :=
    Keeps.freshBed (Keeps.freshBed (Keeps.freshBed (Keeps.freshBed (.refl _ _) rfl 0) rfl 1) rfl 2) rfl 3
  unfold State.coldBegun
  dsimp only
  rw [State.driveHold_frames, (Keeps.chainStart (.refl [.aug] _) rfl).same .fast rfl]
  dsimp only
  rw [k.same .fast rfl, State.coldSensed_fast]
  rfl

/-- The factory data is judged last: a failure halts the Waking and leaves the areas that it does not concern. -/
theorem State.coldStart_keeps : Keeps [.regs, .mod, .fast, .eng, .aug, .dec] s.coldBegun s.coldStart := by
  rw [State.coldStart_eq]
  split
  · exact .refl _ _
  · exact State.haltWaking_keeps _ 1

theorem State.factoryGood_congr {s t : State} (h : t.sec = s.sec) : t.factoryGood = s.factoryGood := by
  unfold State.factoryGood State.hardpanBytes
  rw [h]

theorem State.coldStart_factoryGood : s.coldStart.factoryGood = s.coldBegun.factoryGood :=
  State.factoryGood_congr (s.coldStart_keeps.same .sec rfl)

theorem State.coldStart_cases : s.coldStart.factoryGood = true ∧ s.coldStart = s.coldBegun ∨
    s.coldStart.factoryGood = false ∧ s.coldStart = s.coldBegun.haltWaking 1 := by
  rw [State.coldStart_factoryGood, State.coldStart_eq]
  cases s.coldBegun.factoryGood with
  | true => exact .inl ⟨rfl, if_pos rfl⟩
  | false => exact .inr ⟨rfl, if_neg Bool.false_ne_true⟩

theorem State.coldBegun_mod : s.coldBegun.mod = s.coldSensed.mod := s.coldBegun_keeps.same .mod rfl

theorem State.coldStart_st : s.coldStart.mod.st = if s.coldStart.factoryGood then .waking else .halted := by
  obtain ⟨b, hb⟩ := s.coldSensed_mod
  obtain ⟨hg, h⟩ | ⟨hg, h⟩ := s.coldStart_cases
  · rw [hg, h, State.coldBegun_mod, hb]
    rfl
  · rw [hg, h, State.haltWaking_mod]
    rfl

/-- The Waking is a cold one, with the rails up. -/
theorem State.coldStart_warm : s.coldStart.mod.warm = false ∧ s.coldStart.mod.rails = true := by
  obtain ⟨b, hb⟩ := s.coldSensed_mod
  obtain ⟨-, h⟩ | ⟨-, h⟩ := s.coldStart_cases
  · rw [h, State.coldBegun_mod, hb]
    exact ⟨rfl, rfl⟩
  · rw [h, State.haltWaking_mod, State.coldBegun_mod, hb]
    exact ⟨rfl, rfl⟩

/-- Bad factory data leaves boot code 1 (R380). -/
theorem State.coldStart_bad (h : s.coldStart.factoryGood = false) :
    s.coldStart.fld CFG_BOOT_STAT_CODE = 1 ∧ s.coldStart.mod.bootRom = true := by
  obtain ⟨hg, -⟩ | ⟨-, hh⟩ := s.coldStart_cases
  · exact absurd (hg.symm.trans h) (by decide)
  · rw [hh]
    exact ⟨State.haltWaking_code _ 1 (by decide), by rw [State.haltWaking_mod]⟩

theorem State.coldStart_frames : s.coldStart.fast.frames = [] := by
  obtain ⟨-, h⟩ | ⟨-, h⟩ := s.coldStart_cases
  · rw [h, State.coldBegun_frames]
  · rw [h, State.haltWaking_frames, State.coldBegun_frames]

theorem State.coldStart_tim : s.coldStart.tim = State.reset.tim := (s.coldStart_keeps.same .tim rfl).trans (s.coldBegun_keeps.same .tim rfl)

theorem State.coldStart_prog : s.coldStart.prog = Prog.none :=
  ((s.coldStart_keeps.same .prog rfl).trans (s.coldBegun_keeps.same .prog rfl)).trans s.coldSensed_prog

theorem State.coldStart_temps : s.coldStart.pwr.temps = s.pwr.temps := by
  rw [s.coldStart_keeps.same .pwr rfl, s.coldBegun_keeps.same .pwr rfl, State.coldSensed_temps]

theorem State.coldStart_flash : s.coldStart.flash = s.flash := by
  rw [s.coldStart_keeps.same .flash rfl, s.coldBegun_keeps.same .flash rfl, State.coldSensed_flash]

end

/-- The rails come up with no critical shutdown that holds them (R517, R554). -/
theorem exec_mainRailsValid {s : State} {temps : Vector Int 18} (hoff : s.mod.st = .off)
    (h : s.mod.criticalOff = false ∨ ({ s with pwr := { s.pwr with temps := temps } } : State).allCool = true) :
    exec (.mainRailsValid temps) s = .next
      (({ s with pwr := { s.pwr with temps := temps } } : State).coldStart.setFld PWR_STAT_WAKE_SRC (if s.mod.wakeOff then 1 else 3)) := by
  show Host.Outcome.next (if _ then _ else _) = _
  rw [if_pos (by rw [hoff]; rfl)]
  refine congrArg Host.Outcome.next (if_neg ?_)
  rcases h with h | h
  · simp [h]
  · simp [h]

/-- Settles O9: the rails start `coldStart`, whose lemmas say what is anew; PWR_STAT takes the source. -/
theorem mainRailsStartAColdWaking : Obligations.MainRailsStartAColdWaking := by
  intro temps s hoff hcool
  refine ⟨_, exec_mainRailsValid hoff hcool, ?_⟩
  generalize hu : ({ s with pwr := { s.pwr with temps := temps } } : State) = u
  have hg : (u.coldStart.setFld PWR_STAT_WAKE_SRC (if s.mod.wakeOff then 1 else 3)).factoryGood = u.coldStart.factoryGood :=
    State.factoryGood_congr (State.setFld_sec _ _ _)
  obtain ⟨hwarm, hrails⟩ := u.coldStart_warm
  simp only [hg, State.setFld_mod, State.setFld_tim, State.setFld_fast, State.setFld_prog, State.setFld_pwr,
    State.setFld_flash]
  refine ⟨u.coldStart_st, fun hbad => ?_, hwarm, hrails,
    (congrArg Hz.count (State.setFld_hz _ _ _)).trans u.coldStart_count, by rw [u.coldStart_tim]; rfl, u.coldStart_frames,
    u.coldStart_prog, ?_, by rw [u.coldStart_temps, ← hu], by rw [u.coldStart_flash, ← hu]⟩
  · obtain ⟨hcode, hrom⟩ := u.coldStart_bad hbad
    exact ⟨(State.fld_setFld_ne _ _ (by decide)).trans hcode, hrom⟩
  · rw [State.fld_setFld _ _ _ (by decide)]
    split <;> rfl

end Sys2Proof.Machine

/-!
The steps of a cold Waking (R209, R376, R379, R380): the DRAM, the flash directory, the firmware, the image of flash.
-/
namespace Sys2Proof.Machine

theorem State.fld_lt (s : State) (f : Field) : s.fld f < 2 ^ f.w := Nat.mod_lt _ (Nat.two_pow_pos _)

theorem State.flag_setFld_ne (s : State) {f g : Field} (v : Nat) (h : g.addr ≠ f.addr) : (s.setFld f v).flag g = s.flag g :=
  State.flag_of_reg (s.reg_setFld_ne v h)

theorem State.flag_setFlag_ne (s : State) {f g : Field} (b : Bool) (h : g.addr ≠ f.addr) : (s.setFlag f b).flag g = s.flag g :=
  s.flag_setFld_ne _ h

theorem State.fld_setFlag_ne (s : State) {f g : Field} (b : Bool) (h : g.addr ≠ f.addr) : (s.setFlag f b).fld g = s.fld g :=
  s.fld_setFld_ne _ h

theorem Framed.setEngs {A : List Area} {R : List Nat} {r s : State} (h : Framed A R r s) (hA : Area.eng ∈ A) (z : Vector Engine 2) :
    Framed A R r { s with eng := z } :=
  h.area .eng hA rfl fun p hp => by
    cases p with
    | eng => exact absurd rfl hp
    | _ => rfl

theorem State.fld_withMod (s : State) (m : ModCtl) (f : Field) : ({ s with mod := m } : State).fld f = s.fld f := rfl

theorem State.coldWaking_iff (s : State) : s.coldWaking = true ↔ s.mod.st = .waking ∧ s.mod.warm = false := by
  unfold State.coldWaking
  simp

section
variable (s : State)

/-- A boot step raises STEP and never lowers it (Table 12.6). -/
theorem State.bootStep_step {n : Nat} (hn : n < 16) : (s.bootStep n).fld CFG_BOOT_STAT_STEP = max n (s.fld CFG_BOOT_STAT_STEP) := by
  have h := s.fld_lt CFG_BOOT_STAT_STEP
  unfold State.bootStep
  rw [State.fld_setFld _ _ _ (by decide)]
  exact Nat.mod_eq_of_lt (max_lt hn h)

theorem Framed.bootStep {A : List Area} {R : List Nat} {r s : State} (h : Framed A R r s) (hA : Area.regs ∈ A) (hR : CFG_BOOT_STAT ∈ R)
    (n : Nat) : Framed A R r (s.bootStep n) := h.setFld hA (f := CFG_BOOT_STAT_STEP) hR _

theorem State.bootStep_mod (n : Nat) : (s.bootStep n).mod = s.mod := State.setFld_mod _ _ _

/-! DRAM (R209) -/

theorem State.dramReady_eq (h : s.mod.st = .waking) : s.dramReady =
    ((({ s with
      mod := { s.mod with dramDone := true }
      eng := s.eng.map (fun (e : Engine) => { e with silt := [], siltCleared := true }) } : State).setFlag LSS_MEM_STAT_INIT_DONE true).setFlag
        (LSS_MEM_STAT_INIT_DONE.on (lssOff 1)) true).bootStep 2 := by
  unfold State.dramReady
  exact if_pos h

theorem State.siltAnswers_of_none (h : s.svc.siltWaits = []) : s.siltAnswers = s := by
  unfold State.siltAnswers
  dsimp only
  rw [h]
  show ({ s with svc := { s.svc with siltWaits := [] } } : State) = { s with svc := { s.svc with siltWaits := s.svc.siltWaits } }
  rw [h]

theorem State.pumpAll_of_none (h : s.hst.requests = []) : s.pumpAll = s := by
  unfold State.pumpAll
  rw [h]
  rfl

theorem State.serveHeld_of_none (h : s.hst.held = []) (hr : s.hst.requests = []) : s.serveHeld = s := by
  have hs : ({ s with hst := { s.hst with held := [] } } : State) = { s with hst := { s.hst with held := s.hst.held } } := by rw [h]
  unfold State.serveHeld
  dsimp only
  rw [h, List.foldl_nil, hs]
  exact s.pumpAll_of_none hr

/-! The directory (R376) -/

theorem State.directory_congr {s t : State} (h : t.flash = s.flash) : t.directory = s.directory := by
  unfold State.directory State.flashDev
  rw [h]

theorem State.flashDev_congr {s t : State} (h : t.flash = s.flash) (n : Nat) : t.flashDev n = s.flashDev n := by
  unfold State.flashDev
  rw [h]

/-- The devices shown in their registers, and step 3. -/
def State.flashShown (s : State) : State := ((s.showFlash 0).showFlash 1).bootStep 3

theorem State.flashShown_framed : Framed [.regs] [CFG_FLASH0, CFG_FLASH0 + 4, CFG_BOOT_STAT] s s.flashShown :=
  (((Framed.refl _ _ s).setReg (by decide) (by decide) _).setReg (by decide) (by decide) _).bootStep (by decide) (by decide) 3

theorem State.flashShown_step : s.flashShown.fld CFG_BOOT_STAT_STEP = max 3 (s.fld CFG_BOOT_STAT_STEP) := by
  unfold State.flashShown
  rw [State.bootStep_step _ (by decide)]
  congr 1
  exact State.fld_of_reg ((State.reg_setReg_ne _ _ (by decide)).trans (State.reg_setReg_ne _ _ (by decide)))

theorem State.directoryRead_eq : s.directoryRead =
    if (s.flashDev 0).present = false then s.flashShown.haltWaking 2
    else if directoryGood s.directory = false then s.flashShown.haltWaking 3
    else { s.flashShown with mod := { s.flashShown.mod with dirRead := true } } := by
  have hf : s.flashShown.flash = s.flash := s.flashShown_framed.1 .flash (by decide)
  show (if !(s.flashShown.flashDev 0).present then _ else if !directoryGood s.flashShown.directory then _ else _) = _
  rw [State.flashDev_congr hf, State.directory_congr hf]
  simp only [Bool.not_eq_true']
  rfl

/-- A directory step that halts the Waking shows its code. -/
theorem State.haltWaking_halts (n : Nat) (hn : n < 256) :
    (s.haltWaking n).mod.st = .halted ∧ (s.haltWaking n).fld CFG_BOOT_STAT_CODE = n ∧ (s.haltWaking n).mod.bootRom = true := by
  rw [State.haltWaking_mod, State.haltWaking_code s n hn]
  exact ⟨rfl, rfl, rfl⟩

/-! The firmware (R377, R380) -/

theorem State.firmwareCode_lt (fw : List Byte) : s.firmwareCode fw < 256 := by
  unfold State.firmwareCode
  dsimp only
  repeat' split
  all_goals decide

/-- The state with firmware that has passed its checks, before the lanes start. -/
def State.firmwareTaken (s : State) : State :=
  ({ s.bootStep 4 with
    mod := { s.mod with fwOk := true, fwDigest := sha512 (s.firmware.take (s.firmware.length - 1280)) } } : State).setFld
      CFG_FW_VER_RUNNING (leAt s.firmware 8 2)

theorem State.firmwareLoaded_good (h : s.firmwareCode s.firmware = 0) : s.firmwareLoaded = s.firmwareTaken.startLanes.checkStep5 := by
  unfold State.firmwareLoaded
  dsimp only
  exact if_neg (not_not.mpr h)

theorem State.firmwareLoaded_bad (h : s.firmwareCode s.firmware ≠ 0) :
    s.firmwareLoaded = (s.bootStep 4).haltWaking (s.firmwareCode s.firmware) := by
  unfold State.firmwareLoaded
  dsimp only
  exact if_pos h

theorem State.firmwareTaken_framed : Framed [.regs, .mod] [CFG_BOOT_STAT, CFG_FW_VER] s s.firmwareTaken :=
  (((Framed.refl _ _ s).bootStep (by decide) (by decide) 4).setMod (by decide) _).setFld (by decide) (by decide) _

/-- The lanes start and step 5 may end. -/
theorem State.firmwareLoaded_keeps (h : s.firmwareCode s.firmware = 0) :
    Keeps [.regs, .lanes, .hst, .free] s.firmwareTaken s.firmwareLoaded := by
  rw [State.firmwareLoaded_good s h]
  exact Keeps.checkStep5 (Keeps.startLanes (.refl _ _) rfl) rfl

theorem State.firmwareLoaded_mod (h : s.firmwareCode s.firmware = 0) : s.firmwareLoaded.mod =
    { s.mod with fwOk := true, fwDigest := sha512 (s.firmware.take (s.firmware.length - 1280)) } :=
  (s.firmwareLoaded_keeps h).same .mod rfl

end

theorem exec_dramInitDone {s : State} (h : s.coldWaking = true) (hd : s.mod.dramDone = false) :
    exec .dramInitDone s = .next s.dramReady.siltAnswers.serveHeld :=
  congrArg Host.Outcome.next (if_pos (by rw [h, hd]; rfl))

theorem exec_flashDirectoryRead {s : State} (h : s.coldWaking = true) (hd : s.mod.dirRead = false) :
    exec .flashDirectoryRead s = .next s.directoryRead :=
  congrArg Host.Outcome.next (if_pos (by rw [h, hd]; rfl))

theorem exec_firmwareLoadComplete {s : State} (h : s.coldWaking = true) (hd : s.mod.dirRead = true) (hf : s.mod.fwOk = false) :
    exec .firmwareLoadComplete s = .next s.firmwareLoaded :=
  congrArg Host.Outcome.next (if_pos (by rw [h, hd, hf]; rfl))

/-- The DRAM step: what it shows, what it changes, and that nothing waits unless something has waited (R209, R228). -/
theorem State.dramReady_framed (s : State) (h : s.mod.st = .waking) :
    Framed [.regs, .mod, .eng] [LSS_MEM_STAT, LSS_MEM_STAT + lssOff 1, CFG_BOOT_STAT] s s.dramReady := by
  rw [s.dramReady_eq h]
  exact (((((Framed.refl _ _ s).setMod (by decide) { s.mod with dramDone := true }).setEngs (by decide) _).setFlag
    (f := LSS_MEM_STAT_INIT_DONE) (by decide) (by decide) true).setFlag (f := LSS_MEM_STAT_INIT_DONE.on (lssOff 1))
      (by decide) (by decide) true).bootStep (by decide) (by decide) 2

theorem State.dramReady_done (s : State) (h : s.mod.st = .waking) : s.dramReady.flag LSS_MEM_STAT_INIT_DONE = true ∧
    s.dramReady.flag (LSS_MEM_STAT_INIT_DONE.on (lssOff 1)) = true := by
  rw [s.dramReady_eq h, State.bootStep]
  constructor
  · rw [State.flag_setFld_ne _ _ (by decide), State.flag_setFlag_ne _ _ (by decide), State.flag_setFlag _ _ _ (by decide) rfl]
  · rw [State.flag_setFld_ne _ _ (by decide), State.flag_setFlag _ _ _ (by decide) rfl]

theorem State.dramReady_step (s : State) (h : s.mod.st = .waking) :
    s.dramReady.fld CFG_BOOT_STAT_STEP = max 2 (s.fld CFG_BOOT_STAT_STEP) := by
  rw [s.dramReady_eq h, State.bootStep_step _ (by decide), State.fld_setFlag_ne _ _ (by decide), State.fld_setFlag_ne _ _ (by decide)]
  exact congrArg (max 2) (State.fld_congr rfl _)

theorem State.dramReady_eng (s : State) (h : s.mod.st = .waking) (e : Fin 2) :
    (s.dramReady.eng[e] : Engine) = { s.eng[e] with silt := [], siltCleared := true } := by
  have he : s.dramReady.eng = s.eng.map (fun (e : Engine) => { e with silt := [], siltCleared := true }) := by rw [s.dramReady_eq h]; rfl
  rw [he, Fin.getElem_fin, Vector.getElem_map]
  rfl

/-- Settles O11: the equation of each step, and what halting the Waking leaves. -/
theorem coldWakingSteps : Obligations.ColdWakingSteps := by
  unfold Obligations.ColdWakingSteps
  refine ⟨?dram, ?directory, ?firmware⟩
  case dram =>
    intro s hc hd
    have hw := (s.coldWaking_iff.mp hc).1
    have hframe := s.dramReady_framed hw
    obtain ⟨hd0, hd1⟩ := s.dramReady_done hw
    refine ⟨exec_dramInitDone hc hd, by rw [s.dramReady_eq hw]; rfl, hd0, hd1, s.dramReady_step hw, s.dramReady_eng hw, hframe,
      fun hs hh hr => ?_⟩
    have hsvc : s.dramReady.svc = s.svc := hframe.1 .svc (by decide)
    have hhst : s.dramReady.hst = s.hst := hframe.1 .hst (by decide)
    rw [State.siltAnswers_of_none _ (by rw [hsvc, hs]), State.serveHeld_of_none _ (by rw [hhst, hh]) (by rw [hhst, hr])]
  case directory =>
    intro s hc hd
    refine ⟨_, exec_flashDirectoryRead hc hd, ?_⟩
    rw [State.directoryRead_eq]
    split
    · exact State.haltWaking_halts _ 2 (by decide)
    · split
      · exact State.haltWaking_halts _ 3 (by decide)
      · exact ⟨congrArg (fun m : ModCtl => { m with dirRead := true }) (s.flashShown_framed.1 .mod (by decide)),
          (State.fld_withMod _ _ _).trans s.flashShown_step,
          (s.flashShown_framed.mono (by decide) (by decide)).setMod (by decide) _⟩
  case firmware =>
    intro s hc hd hf
    have hgood := s.firmwareLoaded_mod
    have hkeeps := s.firmwareLoaded_keeps
    have hbad := s.firmwareLoaded_bad
    have hlt := s.firmwareCode_lt s.firmware
    generalize s.firmwareCode s.firmware = n at hgood hkeeps hbad hlt ⊢
    refine ⟨_, exec_firmwareLoadComplete hc hd hf, ?_⟩
    split
    · rename_i h0
      rw [hgood h0]
      exact ⟨rfl, (s.coldWaking_iff.mp hc).1, rfl, (s.firmwareTaken_framed.1.mono (by decide)).trans ((hkeeps h0).only.mono (by decide))⟩
    · rename_i h0
      rw [hbad h0, State.haltWaking_mod, State.haltWaking_code _ _ hlt, State.bootStep_mod]
      exact ⟨rfl, hf, rfl, rfl⟩

/-! The image of flash ends the Waking (R30, R379, R380) -/

section
variable (s : State)

theorem State.endWaking_st (new : ModState) (n : Nat) : (s.endWaking new n).mod.st = new := State.enterState_st _ _ _ _ _

theorem State.endWaking_code (new : ModState) {n : Nat} (hn : n < 256) : (s.endWaking new n).fld CFG_BOOT_STAT_CODE = n := by
  unfold State.endWaking
  rw [State.fld_enterState _ _ _ _ _ (by decide) (by decide) (by decide) (by decide)]
  exact (State.fld_setFld s _ _ (by decide)).trans (Nat.mod_eq_of_lt hn)

theorem State.flashImage_congr {s t : State} (h : t.flash = s.flash) : t.flashImage = s.flashImage := by
  unfold State.flashImage
  rw [State.directory_congr h, State.flashDev_congr h]

/-- Without an image the load fails with code 0x10, and one that the loader refuses fails with code 0x11 (Table 12.7). -/
theorem State.loadFlash_fails (h : s.loadFlash.1 = false) : s.loadFlash.2.1 = if s.flashImage = none then 0x10 else 0x11 := by
  unfold State.loadFlash at h ⊢
  cases hi : s.flashImage with
  | none => rfl
  | some img =>
    simp only [hi] at h
    simp [h]

theorem State.loadFlash_of_no_image (h : s.flashImage = none) : s.loadFlash.1 = false := by
  unfold State.loadFlash
  rw [h]

theorem State.imageLoaded_eq : s.imageLoaded =
    if (s.bootStep 6).loadFlash.1 then ((s.bootStep 6).loadFlash.2.2.bootStep 7).endWaking .sown 0
    else (s.bootStep 6).loadFlash.2.2.endWaking .unplanted (s.bootStep 6).loadFlash.2.1 := rfl

end

theorem exec_imageLoadComplete {s : State} (h : s.imageMayLoad = true) : exec .imageLoadComplete s = .next s.imageLoaded.serveHeld :=
  congrArg Host.Outcome.next (if_pos h)

/-- Settles O12: the two ways the load of the image ends, each with its state and its boot code. -/
theorem imageLoadEndsTheWaking : Obligations.ImageLoadEndsTheWaking := by
  intro s h
  have himg : (s.bootStep 6).flashImage = s.flashImage := State.flashImage_congr rfl
  refine ⟨exec_imageLoadComplete h, ?_, ?_, fun hn => State.loadFlash_of_no_image _ (himg.trans hn)⟩
  · rw [State.imageLoaded_eq]
    split
    · exact State.endWaking_st _ _ _
    · exact State.endWaking_st _ _ _
  · rw [State.imageLoaded_eq]
    split
    · exact State.endWaking_code _ _ (by decide)
    · rename_i hl
      rw [State.loadFlash_fails _ (Bool.eq_false_iff.mpr hl), himg]
      refine State.endWaking_code _ _ ?_
      split <;> decide

end Sys2Proof.Machine

/-!
What halts the module (R36, R37, R354): the halt itself, and the detection of an error whose class is a halt cause.
-/
namespace Sys2Proof.Machine

/-- Recording the late packages leaves what an engine runs and answers. -/
theorem State.flushLate_eng (s : State) (e k : Fin 2) :
    ((s.flushLate e).eng[k] : Engine).running = (s.eng[k] : Engine).running ∧
      ((s.flushLate e).eng[k] : Engine).queries = (s.eng[k] : Engine).queries := by
  unfold State.flushLate
  dsimp only
  split
  · exact ⟨rfl, rfl⟩
  · rw [State.writeEventAt_only _ _ _ _ _ .eng (by decide)]
    by_cases h : e.val = k.val
    · obtain rfl := Fin.ext h
      simp only [Fin.getElem_fin, Vector.getElem_set_self, and_self]
    · simp only [Fin.getElem_fin, Vector.getElem_set_ne _ _ h, and_self]

theorem State.leaveGrowing_eng (s : State) (k : Fin 2) :
    (s.leaveGrowing.eng[k] : Engine).running = (s.eng[k] : Engine).running ∧
      (s.leaveGrowing.eng[k] : Engine).queries = (s.eng[k] : Engine).queries := by
  by_cases hg : (s.mod.st == .growing) = true
  · have heng : s.leaveGrowing.eng = ((s.flushLate 0).flushLate 1).eng := by
      rw [State.leaveGrowing, if_pos hg, (Keeps.closeRuns (.refl [.aug] ((s.flushLate 0).flushLate 1)) rfl).same .eng rfl]
    rw [heng]
    obtain ⟨hr0, hq0⟩ := s.flushLate_eng 0 k
    obtain ⟨hr1, hq1⟩ := (s.flushLate 0).flushLate_eng 1 k
    exact ⟨hr1.trans hr0, hq1.trans hq0⟩
  · rw [show s.leaveGrowing = s from if_neg hg]
    exact ⟨rfl, rfl⟩

theorem State.enterState_engine (s : State) (new : ModState) (h b r : Nat) (k : Fin 2) :
    ((s.enterState new h b r).eng[k] : Engine).running = (s.eng[k] : Engine).running ∧
      ((s.enterState new h b r).eng[k] : Engine).queries = (s.eng[k] : Engine).queries := by
  rw [(s.enterState_keeps new h b r).same .eng rfl]
  exact s.leaveGrowing_eng k

/-- The module at a halt, before the state change: the frames substituted, the engines stopped (R37). -/
def State.haltTaken (s : State) (cause : Nat) : State :=
  { s.bumpBy FLT_SUB_CNT ((s.fast.frames.filter (fun f => !f.recorded && !f.quickSent)).length) with
    fast := { s.fast with frames := s.fast.frames.map (fun f => f.halted (s.substBits 3)), arrived := [] }
    eng := s.eng.map (fun (e : Engine) => { e with running := false, queries := [] })
    mod := { s.mod with haltCause := cause, entry := none, expiryWaits := false, fallowNow := false } }

theorem State.haltNow_eq (s : State) (cause : Nat) :
    s.haltNow cause =
      (if s.launchedNow then (s.haltTaken cause).refuseLaunch 3 else s.haltTaken cause).enterState .halted cause 0 5 := rfl

section
variable (s : State) (cause : Nat)

/-- A launch of the same tick is refused, which changes registers and records only. -/
theorem State.haltTaken_refused :
    Framed [.regs, .aug] [HZN_STAT, AUG_RATE, AUG_STAT] (s.haltTaken cause)
      (if s.launchedNow then (s.haltTaken cause).refuseLaunch 3 else s.haltTaken cause) := by
  split
  · exact State.refuseLaunch_framed _ 3
  · exact Framed.refl _ _ _

theorem State.haltTaken_mod :
    (s.haltTaken cause).mod = { s.mod with haltCause := cause, entry := none, expiryWaits := false, fallowNow := false } := rfl

theorem State.haltTaken_frames : (s.haltTaken cause).fast.frames = s.fast.frames.map (fun f => f.halted (s.substBits 3)) := rfl

theorem State.haltTaken_eng : (s.haltTaken cause).eng = s.eng.map (fun (e : Engine) => { e with running := false, queries := [] }) := rfl

theorem State.haltTaken_reg {a : Nat} (h : a ≠ FLT_SUB_CNT) : (s.haltTaken cause).reg a = s.reg a := s.reg_bumpBy_ne _ h

theorem State.haltNow_mod : (s.haltNow cause).mod =
    { s.mod with haltCause := cause, entry := none, expiryWaits := false, fallowNow := false, st := .halted } := by
  rw [State.haltNow_eq, State.enterState_mod, (s.haltTaken_refused cause).1 .mod (by decide), State.haltTaken_mod]

theorem State.haltNow_frames : (s.haltNow cause).fast.frames = s.fast.frames.map (fun f => f.halted (s.substBits 3)) := by
  rw [State.haltNow_eq, State.enterState_frames, (s.haltTaken_refused cause).1 .fast (by decide), State.haltTaken_frames]

theorem State.haltNow_lines : (s.haltNow cause).dec.lines = Vector.replicate 2 true := by
  rw [State.haltNow_eq]
  exact State.enterState_lines _ (by decide) _ _ _

/-- Both engines stand and hold no query. -/
theorem State.haltNow_eng (e : Fin 2) :
    ((s.haltNow cause).eng[e] : Engine).running = false ∧ ((s.haltNow cause).eng[e] : Engine).queries = [] := by
  have h : ((s.haltTaken cause).eng[e] : Engine) = { s.eng[e] with running := false, queries := [] } := by
    rw [State.haltTaken_eng, Fin.getElem_fin, Vector.getElem_map]
    rfl
  obtain ⟨hr, hq⟩ := State.enterState_engine (if s.launchedNow then (s.haltTaken cause).refuseLaunch 3 else s.haltTaken cause) .halted cause 0 5 e
  rw [State.haltNow_eq, hr, hq, (s.haltTaken_refused cause).1 .eng (by decide), h]
  exact ⟨rfl, rfl⟩

/-- The registers that a halt changes: HZN_STAT by a refused launch, FLT_SUB_CNT, and those of records and lines. -/
theorem State.haltNow_reg {a : Nat} (ha : a ∉ FLT_SUB_CNT :: HZN_STAT :: noteRegs) : (s.haltNow cause).reg a = s.reg a := by
  simp only [noteRegs, List.mem_cons, List.not_mem_nil, or_false, not_or] at ha
  obtain ⟨hsub, hhz, hrate, hstat, hcnt, hdec⟩ := ha
  rw [State.haltNow_eq, State.enterState_reg _ _ _ _ _ hrate hstat hcnt hdec,
    (s.haltTaken_refused cause).2 a (by simp [hhz, hrate, hstat]), State.haltTaken_reg _ _ hsub]

/-- A halt cause in a serving state other than Halted, with no entry to Fallow: the module halts (R36). -/
theorem State.halt_eq (he : s.mod.entry = none) (hs : s.mod.st = .growing ∨ s.mod.st = .sown ∨ s.mod.st = .unplanted) :
    s.halt cause = s.haltNow cause := by
  unfold State.halt
  rw [he]
  refine if_pos ?_
  rcases hs with h | h | h <;> rw [h] <;> rfl

end

theorem State.wakeEntry_of_none {s : State} (h : s.mod.entry = none) : s.wakeEntry = s := by
  unfold State.wakeEntry
  rw [h]

/-- The error is shown in the FLT block and recorded (R344, R345). -/
def State.errorShown (s : State) (u : Word) (cls cause : Nat) (h : U64) (tag : Nat) : State :=
  let s := s.wakeEntry
  let s := s.setReg FLT_CAUSE (BitVec.ofNat 32 (cls * 65536 + cause * 16))
  let s := (s.setReg FLT_UNIT u).setReg64 FLT_HZN_LO h
  let s := (s.setFlag FLT_STAT_FAULT true).classSide u cls
  s.detectEvent u cls h tag

/-- An error of a class with a halt cause halts the module (R354); class 0x10 stops the numbering beside it. -/
theorem State.detect_halts (s : State) (u : Word) {cls : Nat} (hc : classHalt cls ≠ 0) (hn : cls ≠ 0x10) (h : U64) (tag : Nat) :
    s.detect u cls h tag = ((s.errorShown u cls (classCause cls) h tag).setFld FLT_CAUSE_ACTION 3).halt (classHalt cls) := by
  unfold State.detect State.detectAs State.errorShown
  dsimp only
  rw [if_pos hc, if_neg hn]

section
variable (s : State) (u : Word) (cls cause : Nat) (h : U64) (tag : Nat)

theorem State.detectEvent_reg {a : Nat} (h1 : a ≠ AUG_RATE) (h2 : a ≠ AUG_STAT) : (s.detectEvent u cls h tag).reg a = s.reg a := by
  unfold State.detectEvent
  split
  · rfl
  · exact State.writeEventAt_reg _ _ _ _ _ h1 h2

theorem State.errorShown_keeps : Keeps [.regs, .aug, .flt] s.wakeEntry (s.errorShown u cls cause h tag) := by
  unfold State.errorShown
  exact Keeps.detectEvent (Keeps.classSide (Keeps.setFlag (Keeps.setReg64 (Keeps.setReg (Keeps.setReg (.refl _ _) rfl _ _) rfl _ _) rfl _ _)
    rfl _ _) rfl _ _) rfl _ _ _ _

/-- The halting classes set no status beside the FLT block. -/
theorem State.classSide_halts (hc : classHalt cls ≠ 0) : s.classSide u cls = s := by
  unfold classHalt at hc
  unfold State.classSide
  dsimp only
  split
  all_goals first | rfl | exact absurd rfl hc

theorem State.errorShown_unit (hc : classHalt cls ≠ 0) : (s.errorShown u cls cause h tag).reg FLT_UNIT = u := by
  unfold State.errorShown
  dsimp only
  rw [State.detectEvent_reg _ _ _ _ _ (by decide) (by decide), State.classSide_halts _ _ _ hc, State.reg_setFlag_ne _ _ (by decide),
    State.reg_setReg64_ne _ _ (by decide) (by decide), State.reg_setReg]

/-- Outside the FLT block only a record shows. -/
theorem State.errorShown_reg (hc : classHalt cls ≠ 0) {a : Nat}
    (ha : a ∉ [FLT_CAUSE, FLT_UNIT, FLT_HZN_LO, FLT_HZN_LO + 4, FLT_STAT, AUG_RATE, AUG_STAT]) :
    (s.errorShown u cls cause h tag).reg a = s.wakeEntry.reg a := by
  simp only [List.mem_cons, List.not_mem_nil, or_false, not_or] at ha
  obtain ⟨hcause, hunit, hlo, hhi, hstat, hrate, haug⟩ := ha
  unfold State.errorShown
  dsimp only
  rw [State.detectEvent_reg _ _ _ _ _ hrate haug, State.classSide_halts _ _ _ hc, State.reg_setFlag_ne _ _ hstat,
    State.reg_setReg64_ne _ _ hlo hhi, State.reg_setReg_ne _ _ hunit, State.reg_setReg_ne _ _ hcause]

end

/-- What an error that halts the module leaves of it. -/
structure HaltedBy (s : State) (u : Word) (cause : Nat) (t : State) : Prop where
  mod : t.mod = { s.mod with haltCause := cause, entry := none, expiryWaits := false, fallowNow := false, st := .halted }
  lines : t.dec.lines = Vector.replicate 2 true
  frames : t.fast.frames = s.fast.frames.map (fun f => f.halted (s.substBits 3))
  eng : ∀ e : Fin 2, (t.eng[e] : Engine).running = false ∧ (t.eng[e] : Engine).queries = []
  unit : t.reg FLT_UNIT = u
  reg : ∀ a, a ∉ [FLT_CAUSE, FLT_UNIT, FLT_HZN_LO, FLT_HZN_LO + 4, FLT_STAT, FLT_SUB_CNT, HZN_STAT] ++ noteRegs → t.reg a = s.reg a

theorem State.substBits_congr {s t : State} (h : t.prog = s.prog) (n : Nat) : t.substBits n = s.substBits n := by
  unfold State.substBits State.phase? State.program?
  rw [h]

theorem State.detect_haltedBy {s : State} (u : Word) {cls : Nat} (hc : classHalt cls ≠ 0) (hn : cls ≠ 0x10) (h : U64) (tag : Nat)
    (he : s.mod.entry = none) (hs : s.mod.st = .growing ∨ s.mod.st = .sown ∨ s.mod.st = .unplanted) :
    HaltedBy s u (classHalt cls) (s.detect u cls h tag) := by
  have hw := State.wakeEntry_of_none he
  have k := s.errorShown_keeps u cls (classCause cls) h tag
  have hunit := s.errorShown_unit u cls (classCause cls) h tag hc
  have hreg := fun a => s.errorShown_reg u cls (classCause cls) h tag hc (a := a)
  rw [hw] at k hreg
  rw [State.detect_halts s u hc hn h tag]
  generalize s.errorShown u cls (classCause cls) h tag = v at k hunit hreg ⊢
  have hmod : (v.setFld FLT_CAUSE_ACTION 3).mod = s.mod := k.same .mod rfl
  have hprog : (v.setFld FLT_CAUSE_ACTION 3).prog = s.prog := k.same .prog rfl
  have hfast : (v.setFld FLT_CAUSE_ACTION 3).fast = s.fast := k.same .fast rfl
  rw [State.halt_eq _ _ (by rw [hmod, he]) (by rwa [hmod])]
  refine ⟨by rw [State.haltNow_mod, hmod], State.haltNow_lines _ _, by rw [State.haltNow_frames, State.substBits_congr hprog, hfast],
    State.haltNow_eng _ _, ?_, fun a ha => ?_⟩
  · rw [State.haltNow_reg _ _ (by decide), State.reg_setFld_ne _ _ (by decide), hunit]
  · simp only [noteRegs, List.mem_append, List.mem_cons, List.not_mem_nil, or_false, not_or] at ha
    obtain ⟨⟨hcause, hun, hlo, hhi, hstat, hsub, hhz⟩, hrate, haug, hcnt, hdec⟩ := ha
    rw [State.haltNow_reg _ _ (by simp [noteRegs, hsub, hhz, hrate, haug, hcnt, hdec]), State.reg_setFld_ne _ _ hcause,
      hreg a (by simp [hcause, hun, hlo, hhi, hstat, hrate, haug])]

theorem exec_firmwareWatchdogExpiry {s : State} (hf : s.mod.fwOk = true)
    (hs : s.mod.st = .growing ∨ s.mod.st = .sown ∨ s.mod.st = .unplanted) :
    exec .firmwareWatchdogExpiry s = .next (s.detect firmwareUnit 0x12 s.count 0) := by
  refine congrArg Host.Outcome.next (if_pos ?_)
  rw [hf]
  rcases hs with h | h | h <;> rw [h] <;> rfl

/-- Settles O16: an error of class 0x12 is a halt cause, and `detect_haltedBy` says what it leaves. -/
theorem watchdogHaltsTheModule : Obligations.WatchdogHaltsTheModule := by
  intro s hf hs he
  have k := State.detect_haltedBy firmwareUnit (cls := 0x12) (by decide) (by decide) s.count 0 he hs
  exact ⟨_, exec_firmwareWatchdogExpiry hf hs, by rw [k.mod], by rw [k.mod]; rfl, k.lines, k.frames, k.unit, k.eng⟩

end Sys2Proof.Machine

/-!
Thermal trips (R524, R525).
-/
namespace Sys2Proof.Machine

/-- An update of areas that are listed. -/
theorem Framed.fields {A : List Area} {R : List Nat} {r s t : State} (h : Framed A R r s) (hr : t.regs = s.regs)
    (ho : ∀ p : Area, p ∈ A ∨ p.same s t) : Framed A R r t :=
  h.trans ⟨fun p hp => (ho p).resolve_left hp, fun a _ => State.reg_congr hr a⟩

section
variable (s : State) (k : Fin 18) (temp : Int)

theorem State.sense_mod : (s.sense k temp).mod = s.mod := rfl

theorem State.sense_flash : (s.sense k temp).flash = s.flash := rfl

end

theorem exec_thermalTrip {s : State} (h : s.mod.st ≠ .off) {k : Fin 18} {temp : Int} (ht : tripLevel k ≤ temp) :
    exec (.thermalTrip k temp) s = .next ((s.sense k temp).trips k) := by
  show Host.Outcome.next (if _ then _ else _) = _
  rw [if_pos (ModState.powered_of_ne_off h)]
  exact congrArg Host.Outcome.next (if_pos ht)

/-- The state in which THM_TRIP_N is asserted and THM_STAT names the source, before the error is reported. -/
def State.tripShown (s : State) (k : Fin 18) : State :=
  (({ s with mod := { s.mod with thmTrip := true } } : State).setFlag THM_STAT_TRIPPED true).setFld THM_STAT_TRIP_SRC
    (if k.val < 16 then 1 else 2)

/-- A trip in Growing that finds none is an error of class 0x13. -/
theorem State.trips_growing {s : State} (k : Fin 18) (hs : s.mod.st = .growing) :
    s.trips k = (s.tripShown k).detect (thermalUnit (sensorDie k)) 0x13 s.count 0 := by
  unfold State.trips
  dsimp only
  rw [if_neg (by rw [hs]; simp), if_neg (by rw [hs]; simp)]
  rfl

/-- A trip where nothing is served takes the rails (R525). -/
theorem State.trips_dropPower {s : State} (k : Fin 18) (hs : s.mod.st = .sown ∨ s.mod.st = .unplanted ∨ s.mod.st = .fallow)
    (he : s.mod.entry = none) : s.trips k = ({ s with mod := { s.mod with thmTrip := true } } : State).dropPower := by
  unfold State.trips
  dsimp only
  refine if_pos ⟨?_, by rw [he]; rfl⟩
  rcases hs with h | h | h
  · exact .inr (.inl h)
  · exact .inl h
  · exact .inr (.inr h)

theorem State.tripShown_mod (s : State) (k : Fin 18) : (s.tripShown k).mod = { s.mod with thmTrip := true } := rfl

theorem State.tripShown_tripped (s : State) (k : Fin 18) : (s.tripShown k).flag THM_STAT_TRIPPED = true :=
  (State.flag_setFld_apart _ _ (by decide)).trans (State.flag_setFlag _ _ _ (by decide) rfl)

theorem State.tripShown_src (s : State) (k : Fin 18) : (s.tripShown k).fld THM_STAT_TRIP_SRC = if k.val < 16 then 1 else 2 := by
  refine (State.fld_setFld _ _ _ (by decide)).trans ?_
  split <;> rfl

theorem exec_tripGating {s : State} (ht : s.flag THM_STAT_TRIPPED = true) (hs : s.mod.st = .halted) (hd : s.verdictsDue = false) :
    exec .tripGating s = .next { s with
      mod := { s.mod with tripGated := true }
      eng := s.eng.map (fun (e : Engine) => { e with running := false }) } :=
  congrArg Host.Outcome.next (if_pos (by rw [ht, hs, hd]; rfl))

/-- Settles O15: a trip is an error of class 0x13, or takes the rails; gating stops the engines. -/
theorem thermalTripStopsTheModule : Obligations.ThermalTripStopsTheModule := by
  unfold Obligations.ThermalTripStopsTheModule
  refine ⟨?growing, ?rails, ?gating⟩
  case growing =>
    intro k temp s hs he ht _
    refine ⟨_, exec_thermalTrip (by rw [hs]; decide) ht, ?_⟩
    rw [State.trips_growing k (by rw [State.sense_mod, hs])]
    have hmod := (s.sense k temp).tripShown_mod k
    have htrip := (s.sense k temp).tripShown_tripped k
    have hsrc := (s.sense k temp).tripShown_src k
    rw [State.sense_mod] at hmod
    generalize (s.sense k temp).tripShown k = v at hmod htrip hsrc ⊢
    have q := State.detect_haltedBy (thermalUnit (sensorDie k)) (cls := 0x13) (by decide) (by decide) (s.sense k temp).count 0
      (s := v) (by rw [hmod, he]) (.inl (by rw [hmod, hs]))
    exact ⟨by rw [q.mod], by rw [q.mod]; rfl, by rw [q.mod, hmod], (State.flag_of_reg (q.reg _ (by decide))).trans htrip,
      (State.fld_of_reg (q.reg _ (by decide))).trans hsrc, q.lines⟩
  case rails =>
    intro k temp s hs he ht
    refine ⟨_, exec_thermalTrip (by rcases hs with h | h | h <;> rw [h] <;> decide) ht, ?_⟩
    rw [State.trips_dropPower k (by rwa [State.sense_mod]) (by rwa [State.sense_mod]), State.dropPower_mod, State.dropPower_flash]
    exact ⟨rfl, rfl, s.sense_flash k temp⟩
  case gating =>
    intro s ht hs hd
    refine ⟨_, exec_tripGating ht hs hd, rfl, fun e => ?_, 
      (Framed.refl [.mod, .eng] [] s).fields rfl fun p => ?_⟩
    · simp only [Fin.getElem_fin, Vector.getElem_map]
    · cases p with
      | mod | eng => exact .inl (by decide)
      | _ => exact .inr rfl

end Sys2Proof.Machine

/-!
Sensors, the power meter, the alarm and the clock monitors (R207, R521 to R524).
-/
namespace Sys2Proof.Machine

section
variable (s : State) (k : Fin 18) (temp : Int)

theorem State.sense_pwr : (s.sense k temp).pwr = { s.pwr with temps := s.pwr.temps.set k temp } := rfl

theorem Framed.setPwr {A : List Area} {R : List Nat} {r s : State} (h : Framed A R r s) (hA : Area.pwr ∈ A) (z : Pwr) :
    Framed A R r { s with pwr := z } :=
  h.area .pwr hA rfl fun p hp => by
    cases p with
    | pwr => exact absurd rfl hp
    | _ => rfl

theorem State.sense_framed : Framed [.regs, .pwr] [THM_STAT] s (s.sense k temp) :=
  ((Framed.refl _ _ s).setPwr (by decide) { s.pwr with temps := s.pwr.temps.set k temp }).setFlag (f := THM_STAT_WARN) (by decide)
    (by decide) _

theorem State.sense_warnLevel : (s.sense k temp).warnLevel = s.warnLevel := by
  unfold State.warnLevel
  rw [State.fld_of_reg ((s.sense_framed k temp).2 THM_WARN_LEVEL.addr (by decide))]

/-- A junction at its warn level shows WARN (Table 19.10). -/
theorem State.sense_warn (hk : k.val < 16) (ht : s.warnLevel ≤ temp) : (s.sense k temp).flag THM_STAT_WARN = true := by
  unfold State.sense State.showWarn
  rw [State.flag_setFlag _ _ _ (by decide) rfl]
  refine List.any_eq_true.mpr ⟨k.val, List.mem_range.mpr hk, decide_eq_true ?_⟩
  show s.warnLevel ≤ (s.pwr.temps.set k temp).toList.getD k 0
  rw [Vector.toList_set, List.getD_eq_getElem _ _ (by simp), List.getElem_set_self]
  exact ht

theorem exec_thermalTrip_below {s : State} (h : s.mod.st ≠ .off) {k : Fin 18} {temp : Int} (ht : temp < tripLevel k) :
    exec (.thermalTrip k temp) s = .next (s.sense k temp) := by
  show Host.Outcome.next (if _ then _ else _) = _
  rw [if_pos (ModState.powered_of_ne_off h)]
  exact congrArg Host.Outcome.next (if_neg (not_le.mpr ht))

theorem exec_thermalWarning {s : State} (h : s.mod.st ≠ .off) {k : Fin 18} {temp : Int} (hk : k.val < 16) (ht : s.warnLevel ≤ temp) :
    exec (.thermalWarning k temp) s = .next (((s.sense k temp).setFlag THM_STAT_WARN_SEEN true).bump THM_WARN_CNT) := by
  show Host.Outcome.next (if _ then _ else _) = _
  rw [if_pos (ModState.powered_of_ne_off h)]
  exact congrArg Host.Outcome.next (if_pos ⟨hk, by rwa [State.sense_warnLevel]⟩)

theorem exec_dramStackHot {s : State} (h : s.mod.st ≠ .off) (d : Fin 2) (temp : Int) :
    exec (.dramStackHot d temp) s = .next (s.stackHot d temp) :=
  congrArg Host.Outcome.next (if_pos (ModState.powered_of_ne_off h))

theorem State.stackHot_pwr (d : Fin 2) : (s.stackHot d temp).pwr =
    { s.pwr with
      temps := s.pwr.temps.set (Fin.ofNat 18 (16 + d.val)) temp
      hotRefresh := s.pwr.hotRefresh.set d (decide (85 * 16 ≤ temp)) } := rfl

theorem State.stackHot_framed (d : Fin 2) : Framed [.regs, .pwr] [THM_STAT, LSS_MEM_STAT + lssOff d] s (s.stackHot d temp) :=
  (((s.sense_framed (Fin.ofNat 18 (16 + d.val)) temp).mono (by decide) (by simp)).setPwr (by decide) _).setFlag
    (f := LSS_MEM_STAT_HOT.on (lssOff d)) (by decide) (List.mem_cons_of_mem _ (List.mem_singleton.mpr rfl)) _

end

/-! The power meter and its alarm (R522, R523) -/

section
variable (s : State) (m v i b : Nat)

/-- What the meter reads, in its registers, with PEAK raised and OVER shown. -/
def State.meterShown (s : State) (meas vin iin vstby : Nat) : State :=
  let s := ((s.setReg PWR_MEAS (BitVec.ofNat 32 meas)).setReg PWR_VIN (BitVec.ofNat 32 vin)).setReg PWR_IIN (BitVec.ofNat 32 iin)
  let s := (s.setReg PWR_VSTBY (BitVec.ofNat 32 vstby)).raiseFld ⟨PWR_PEAK, 0, 16⟩ meas
  s.setFlag PWR_STAT_OVER (decide (s.budget < meas))

theorem State.meterShown_framed :
    Framed [.regs] [PWR_MEAS, PWR_VIN, PWR_IIN, PWR_VSTBY, PWR_PEAK, PWR_STAT] s (s.meterShown m v i b) :=
  ((((((Framed.refl _ _ s).setReg (by decide) (a := PWR_MEAS) (by decide) _).setReg (by decide) (a := PWR_VIN) (by decide) _).setReg
    (by decide) (a := PWR_IIN) (by decide) _).setReg (by decide) (a := PWR_VSTBY) (by decide) _).setFld (by decide)
      (f := ⟨PWR_PEAK, 0, 16⟩) (by decide) _).setFlag (by decide) (f := PWR_STAT_OVER) (by decide) _

theorem State.meterShown_regs : (s.meterShown m v i b).reg PWR_MEAS = BitVec.ofNat 32 m ∧ (s.meterShown m v i b).reg PWR_VIN = BitVec.ofNat 32 v ∧
    (s.meterShown m v i b).reg PWR_IIN = BitVec.ofNat 32 i ∧ (s.meterShown m v i b).reg PWR_VSTBY = BitVec.ofNat 32 b := by
  unfold State.meterShown State.raiseFld
  dsimp only
  refine ⟨?_, ?_, ?_, ?_⟩
  · rw [State.reg_setFlag_ne _ _ (by decide), State.reg_setFld_ne _ _ (by decide), State.reg_setReg_ne _ _ (by decide),
      State.reg_setReg_ne _ _ (by decide), State.reg_setReg_ne _ _ (by decide), State.reg_setReg]
  · rw [State.reg_setFlag_ne _ _ (by decide), State.reg_setFld_ne _ _ (by decide), State.reg_setReg_ne _ _ (by decide),
      State.reg_setReg_ne _ _ (by decide), State.reg_setReg]
  · rw [State.reg_setFlag_ne _ _ (by decide), State.reg_setFld_ne _ _ (by decide), State.reg_setReg_ne _ _ (by decide), State.reg_setReg]
  · rw [State.reg_setFlag_ne _ _ (by decide), State.reg_setFld_ne _ _ (by decide), State.reg_setReg]

theorem State.meterShown_budget : (s.meterShown m v i b).budget = s.budget := by
  unfold State.budget
  rw [(s.meterShown_framed m v i b).2 PWR_BUDGET (by decide)]

theorem State.meterShown_over : (s.meterShown m v i b).flag PWR_STAT_OVER = decide (s.budget < m) := by
  have h : (s.meterShown m v i b).flag PWR_STAT_OVER = decide ((s.meterShown m v i b).budget < m) := by
    unfold State.meterShown
    dsimp only
    rw [State.flag_setFlag _ _ _ (by decide) rfl]
    congr 2
    unfold State.budget
    rw [State.reg_setFlag_ne _ _ (by decide)]
  rw [h, State.meterShown_budget]

theorem State.meterShown_throttle : (s.meterShown m v i b).flag PWR_STAT_THROTTLE = s.flag PWR_STAT_THROTTLE := by
  unfold State.meterShown State.raiseFld
  dsimp only
  rw [State.flag_setFlag_apart _ _ (by decide), State.flag_setFld_ne _ _ (by decide), State.flag_setReg_ne _ _ (by decide),
    State.flag_setReg_ne _ _ (by decide), State.flag_setReg_ne _ _ (by decide), State.flag_setReg_ne _ _ (by decide)]

theorem State.meterShown_pwr : (s.meterShown m v i b).pwr = s.pwr := (s.meterShown_framed m v i b).1 .pwr (by decide)

/-- The throttling after a measurement: it begins or goes on above the budget, and ends after ten calm milliseconds (R522). -/
def State.throttleSet (s : State) (above : Bool) (meas : Nat) : State :=
  if above then
    ({ s with pwr := { s.pwr with
        calmMs := 0, throttleMs := if s.flag PWR_STAT_THROTTLE then s.pwr.throttleMs + 1 else 0
        alarmed := s.flag PWR_STAT_THROTTLE && s.pwr.alarmed } } : State).setFlag PWR_STAT_THROTTLE true
  else if s.flag PWR_STAT_THROTTLE then
    ({ s with pwr := { s.pwr with
        calmMs := if meas * 100 ≤ s.budget * 95 then s.pwr.calmMs + 1 else 0, throttleMs := s.pwr.throttleMs + 1 } } : State).setFlag
      PWR_STAT_THROTTLE (decide ((if meas * 100 ≤ s.budget * 95 then s.pwr.calmMs + 1 else 0) < 10))
  else s

theorem State.measured_eq : s.measured m v i b = (s.meterShown m v i b).throttleSet (decide (s.budget < m)) m := by
  have h : s.measured m v i b =
      (s.meterShown m v i b).throttleSet (decide ((s.meterShown m v i b).budget < m)) m := by
    unfold State.measured State.throttleSet State.meterShown
    dsimp only
    have hb : ∀ (u : State) (c : Bool), (u.setFlag PWR_STAT_OVER c).budget = u.budget := fun u c => by
      unfold State.budget
      rw [State.reg_setFlag_ne _ _ (by decide)]
    simp only [hb]
  rw [h, State.meterShown_budget]

section
variable (above : Bool)

theorem State.throttleSet_framed : Framed [.regs, .pwr] [PWR_STAT] s (s.throttleSet above m) := by
  unfold State.throttleSet
  split
  · exact ((Framed.refl _ _ s).setPwr (by decide) _).setFlag (by decide) (by decide) _
  · split
    · exact ((Framed.refl _ _ s).setPwr (by decide) _).setFlag (by decide) (by decide) _
    · exact Framed.refl _ _ s

theorem State.throttleSet_over : (s.throttleSet above m).flag PWR_STAT_OVER = s.flag PWR_STAT_OVER := by
  unfold State.throttleSet
  split
  · exact (State.flag_setFlag_apart _ _ (by decide)).trans (State.flag_congr rfl _)
  · split
    · exact (State.flag_setFlag_apart _ _ (by decide)).trans (State.flag_congr rfl _)
    · rfl

theorem State.throttleSet_throttle : (s.throttleSet above m).flag PWR_STAT_THROTTLE =
    (above || s.flag PWR_STAT_THROTTLE && !(decide (m * 100 ≤ s.budget * 95) && decide (9 ≤ s.pwr.calmMs))) := by
  unfold State.throttleSet
  cases above with
  | true => exact State.flag_setFlag _ _ _ (by decide) rfl
  | false =>
    simp only [Bool.false_eq_true, if_false, Bool.false_or]
    split
    · rename_i hwas
      rw [State.flag_setFlag _ _ _ (by decide) rfl, hwas, Bool.true_and]
      by_cases hm : m * 100 ≤ s.budget * 95
      · rw [if_pos hm, decide_eq_true hm, Bool.true_and, ← decide_not]
        exact decide_eq_decide.mpr (by omega)
      · rw [if_neg hm, decide_eq_false hm]
        rfl
    · rename_i hwas
      rw [Bool.eq_false_iff.mpr hwas, Bool.false_and]

end

end

theorem exec_powerMeasurement {s : State} (h : s.mod.st ≠ .off) (m v i b : BitVec 16) :
    exec (.powerMeasurement m v i b) s = .next (s.measured m.toNat v.toNat i.toNat b.toNat) :=
  congrArg Host.Outcome.next (if_pos (ModState.powered_of_ne_off h))

theorem exec_powerAlarm {s : State} (ht : s.flag PWR_STAT_THROTTLE = true) (ho : s.flag PWR_STAT_OVER = true) (hm : 100 ≤ s.pwr.throttleMs)
    (ha : s.pwr.alarmed = false) : exec .powerAlarm s =
      .next ((({ s with pwr := { s.pwr with alarmed := true } } : State).setFlag PWR_STAT_ALARM true).bump PWR_OVER_CNT) :=
  congrArg Host.Outcome.next (if_pos (by rw [ht, ho, ha, decide_eq_true hm]; rfl))

theorem exec_pllUnlock {s : State} (h : s.mod.st ≠ .off) (d : Fin 60) : exec (.pllUnlock d) s = .next (s.unlocked d) :=
  congrArg Host.Outcome.next (if_pos (ModState.powered_of_ne_off h))

/-- The reference oscillator fails (R521). -/
theorem State.unlocked_reference (s : State) : s.unlocked 0 = (s.setFlag CLK_STAT_REF_LOSS true).setFlag CLK_STAT_REF_OK false := rfl

theorem State.unlocked_pll (s : State) {d : Nat} (h : fromPll d = true) :
    s.unlocked d = ((s.setFlag CLK_STAT_UNLOCK true).setFlag CLK_STAT_PLLS_LOCKED false).bump CLK_UNLOCK_CNT := by
  unfold State.unlocked
  rw [if_neg (fun h0 => by rw [h0] at h; exact absurd h (by decide)), if_pos h]

/-- Settles O14: one lemma for what each sensor, meter and monitor leaves. -/
theorem sensorsAndMonitorsReport : Obligations.SensorsAndMonitorsReport := by
  unfold Obligations.SensorsAndMonitorsReport
  refine ⟨?below, ?warning, ?hot, ?power, ?alarm, ?reference, ?pll⟩
  case below =>
    intro k temp s h ht
    exact ⟨_, exec_thermalTrip_below h ht, s.sense_pwr k temp, s.sense_framed k temp⟩
  case warning =>
    intro k temp s h hk ht
    refine ⟨_, exec_thermalWarning h hk ht, s.sense_pwr k temp, ?_, ?_, ?_, ?_⟩
    · rw [State.flag_bump_ne _ (by decide), State.flag_setFlag_apart _ _ (by decide), s.sense_warn k temp hk ht]
    · rw [State.flag_bump_ne _ (by decide), State.flag_setFlag _ _ _ (by decide) rfl]
    · rw [State.reg_bump_bumped, State.reg_setFlag_ne _ _ (by decide), (s.sense_framed k temp).2 _ (by decide)]
    · exact (((s.sense_framed k temp).mono (by decide) (by decide)).setFlag (by decide) (by decide) true).bump (by decide) (by decide)
  case hot =>
    intro d temp s h
    refine ⟨_, exec_dramStackHot h d temp, ?_, ?_, State.flag_setFlag _ _ _ (by unfold Field.fits; decide +revert) rfl, s.stackHot_framed temp d⟩
    · rw [State.stackHot_pwr, Vector.toList_set, Fin.ofNat_eq_cast, Fin.val_natCast, Nat.mod_eq_of_lt (by omega)]
    · rw [State.stackHot_pwr, Fin.getElem_fin, Vector.getElem_set_self]
  case power =>
    intro m v i b s h
    refine ⟨_, exec_powerMeasurement h m v i b, ?_⟩
    rw [State.measured_eq]
    have hk := s.meterShown_framed m.toNat v.toNat i.toNat b.toNat
    obtain ⟨hm, hv, hi, hb⟩ := s.meterShown_regs m.toNat v.toNat i.toNat b.toNat
    rw [BitVec.ofNat_toNat] at hm hv hi hb
    have ho := s.meterShown_over m.toNat v.toNat i.toNat b.toNat
    have ht := s.meterShown_throttle m.toNat v.toNat i.toNat b.toNat
    have hg := s.meterShown_budget m.toNat v.toNat i.toNat b.toNat
    have hp := s.meterShown_pwr m.toNat v.toNat i.toNat b.toNat
    generalize s.meterShown m.toNat v.toNat i.toNat b.toNat = u at *
    have kt := u.throttleSet_framed m.toNat (decide (s.budget < m.toNat))
    refine ⟨(kt.2 _ (by decide)).trans hm, (kt.2 _ (by decide)).trans hv, (kt.2 _ (by decide)).trans hi, (kt.2 _ (by decide)).trans hb, ?_, ?_,
      (hk.mono (by decide) (by decide)).trans (kt.mono (by decide) (by decide))⟩
    · rw [State.throttleSet_over, ho]
    · rw [State.throttleSet_throttle, ht, hg, hp]
  case alarm =>
    intro s ht ho hm ha
    refine ⟨_, exec_powerAlarm ht ho hm ha, ?_, rfl, ?_, ?_⟩
    · rw [State.flag_bump_ne _ (by decide), State.flag_setFlag _ _ _ (by decide) rfl]
    · rw [State.reg_bump_bumped, State.reg_setFlag_ne _ _ (by decide)]
      rfl
    · exact (((Framed.refl _ _ s).setPwr (by decide) _).setFlag (by decide) (by decide) true).bump (by decide) (by decide)
  case reference =>
    intro s h
    refine ⟨_, exec_pllUnlock h 0, ?_⟩
    rw [show ((0 : Fin 60) : Nat) = 0 from rfl, State.unlocked_reference]
    exact ⟨(State.flag_setFlag_apart _ _ (by decide)).trans (State.flag_setFlag _ _ _ (by decide) rfl),
      State.flag_setFlag _ _ _ (by decide) rfl,
      ((Framed.refl _ _ s).setFlag (by decide) (by decide) true).setFlag (by decide) (by decide) false⟩
  case pll =>
    intro d s h hd
    refine ⟨_, exec_pllUnlock h d, ?_⟩
    rw [State.unlocked_pll s hd]
    refine ⟨?_, ?_, ?_, ?_⟩
    · rw [State.flag_bump_ne _ (by decide), State.flag_setFlag_apart _ _ (by decide), State.flag_setFlag _ _ _ (by decide) rfl]
    · rw [State.flag_bump_ne _ (by decide), State.flag_setFlag _ _ _ (by decide) rfl]
    · rw [State.reg_bump_bumped, State.reg_setFlag_ne _ _ (by decide), State.reg_setFlag_ne _ _ (by decide)]
    · exact (((Framed.refl _ _ s).setFlag (by decide) (by decide) true).setFlag (by decide) (by decide) false).bump (by decide) (by decide)

end Sys2Proof.Machine

/-!
Warm resets (R34, R359, R555): the contact, the request of software, the drain, and the Waking that follows.
-/
namespace Sys2Proof.Machine

section
variable (s : State)

theorem State.driveHold_keeps : Keeps [.regs, .fast, .dec] s s.driveHold := Keeps.driveHold (.refl _ s) rfl

theorem State.driveHold_mod : s.driveHold.mod = s.mod := s.driveHold_keeps.same .mod rfl

theorem State.driveHold_arrived : s.driveHold.fast.arrived = s.fast.arrived := by
  have hc : ∀ (c : Bool) (t : State), (if c = true then t.bump DEC_HOLD_CNT else t).fast = t.fast := by
    intro c t
    split <;> rfl
  unfold State.driveHold
  extract_lets l0 l1 t1 t2 t3
  have e3 : t3.fast = s.fast := ((hc _ _).trans (hc _ _) : t2.fast = s.fast)
  show t3.fast.arrived = _
  rw [e3]

/-! The contact (R555) -/

/-- The state in which the contact has taken effect: the frames, the waiting verdicts and the open runs are gone. -/
def State.pinTaken (s : State) : State :=
  { s with
    mod := { s.mod with st := .waking, warm := true, rstHeld := true, left := s.mod.st, lost := s.lostEntries, rstWaits := false
                        draining := false, entry := none }
    fast := { s.fast with frames := [], arrived := [] }
    dec := { s.dec with queue := Vector.replicate 8 [] }
    eng := s.eng.map (fun (e : Engine) => { e with running := false, queries := [] })
    aug := { s.aug with runs := [], running := false } }

theorem State.pinReset_low (h : s.mod.rstLow = true) : s.pinReset = s.pinTaken.driveHold := by
  have hl : s.pinTaken.driveHold.mod.rstLow = true := by rw [State.driveHold_mod]; exact h
  exact if_pos hl

theorem State.resetLow_takes (hs : s.mod.st = .sown ∨ s.mod.st = .unplanted ∨ s.mod.st = .growing ∨ s.mod.st = .halted)
    (he : s.mod.entry = none) (hb : s.burning = false) :
    s.resetLow = ({ s with mod := { s.mod with rstLow := true } } : State).pinReset := by
  have hb' : ({ s with mod := { s.mod with rstLow := true } } : State).burning = false := hb
  have hs' : ({ s with mod := { s.mod with rstLow := true } } : State).mod.st = s.mod.st := rfl
  have he' : ({ s with mod := { s.mod with rstLow := true } } : State).mod.entry = s.mod.entry := rfl
  unfold State.resetLow
  generalize ({ s with mod := { s.mod with rstLow := true } } : State) = u at hb' hs' he' ⊢
  dsimp only
  rcases hs with h | h | h | h <;> rw [hs', he', h, he] <;> dsimp only <;> rw [hb'] <;> rfl

/-! The warm Waking begins (R34, R339) -/

/-- The state change to Waking with its record, and the record of the entries that are lost (R339). -/
def State.warmNamed (s : State) : State :=
  ((({ s with aug := { s.aug with runs := [], running := true } } : State).clearEntry).enterState .waking 0 0 0).recordGap
    (s.mod.lost ++ s.lostEntries)

/-- Every unit has restarted; `held` are the requests that the host link keeps (R34, R539). -/
def State.unitsRestarted (s : State) (held : List HostReq) : State :=
  { s with
    mod := { s.mod with
      warm := true, dramDone := true, dirRead := true, fwOk := false, bootRom := false, draining := false, loose := false
      looseTail := none, modes := [], wakeHold := false, fallowCkpt := none, rstWaits := false, resetWaits := false, tripGated := false
      mgtHeld := none, lost := [], idle := 0, idleNs := 0, busyTick := false }
    hz := { s.hz with lossHold := false, returning := false, steady := false, syncSince := false, armed := false, due := false }
    prog := { s.prog with sow := none, past := [], corrArmed := Vector.replicate 4 none }
    beds := s.beds.map Bed.warmReset
    grn := none
    fast := { Fast.empty with starts := s.fast.starts }
    eng := s.eng.map Engine.warmReset
    aug := { s.aug with hold := none, unmirrored := false, numberingFailed := false, rsaFailed := false, jobs := [], mirrorOut := [] }
    flt := { s.flt with
      tests := s.flt.tests.map (fun (t : UnitTest) => { t with waits := true })
      touching := s.flt.touching.filter (fun (t : Touching) => s.flt.tests.any (fun (x : UnitTest) => x.unit == t.unit))
      divCount := Vector.replicate 2 0, divStart := Vector.replicate 2 none, seen := []
      alarmRelease := Vector.replicate 2 none
      bridgeDue := [], exitFailed := Vector.replicate 4 (false, false), jobs := [] }
    stm := { s.stm with armed := none }
    dec := { s.dec with queue := Vector.replicate 8 [], moveDue := [], failedLanes := [] }
    lanes := s.lanes.map Lane.warmReset
    ring := Ring.off
    lck := Lck.off
    hst := { Hst.off with recNext := s.aug.ack, forward := s.hst.forward, held := held }
    tim := { s.tim with lockRun := Vector.replicate 2 0, pend := none, switchTo := none, afterSwitch := none, firstStep := false
                        syncDelay := Vector.replicate 2 0, ppsSeen := false }
    pwr := { s.pwr with calmMs := 0, throttleMs := 0, alarmed := false }
    sec := { s.sec with cmd := none }
    svc := { Svc.idle with readBack := s.svc.readBack } }

/-- The state of the warm Waking before tests, lines and lanes show it. -/
def State.warmBegun (s : State) : State := s.warmNamed.warmRegs.unitsRestarted s.warmNamed.hst.held

theorem State.beginWarm_eq (h : s.mod.copyDigest ≠ []) : s.beginWarm = s.warmBegun.showTesting.driveHold.startLanes.refusePassed := by
  unfold State.beginWarm
  exact if_neg (by simpa using h)

/-- What shows the restart touches neither the module control nor the count. -/
theorem State.beginWarm_keeps (h : s.mod.copyDigest ≠ []) :
    Keeps [.regs, .fast, .aug, .dec, .lanes, .hst, .free] s.warmBegun s.beginWarm := by
  rw [s.beginWarm_eq h]
  exact Keeps.refusePassed (Keeps.startLanes (Keeps.driveHold (Keeps.showTesting (.refl _ _) rfl) rfl) rfl) rfl

theorem State.warmNamed_mod : s.warmNamed.mod = { s.mod with entry := none, expiryWaits := false, fallowNow := false, st := .waking } := by
  unfold State.warmNamed
  rw [(Keeps.recordGap (.refl [.regs, .aug] _) rfl _).same .mod rfl, State.enterState_mod]
  rfl

theorem State.warmNamed_keeps : Keeps [.regs, .mod, .fast, .eng, .aug, .dec] s s.warmNamed := by
  have k : Keeps [.regs, .mod, .fast, .eng, .aug, .dec] s ({ s with aug := { s.aug with runs := [], running := true } } : State) :=
    (Keeps.refl _ s).fields fun p => by
      cases p with
      | aug => exact .inl (by decide)
      | _ => exact .inr rfl
  exact Keeps.recordGap (Keeps.enterState (Keeps.clearEntry k rfl) rfl _ _ _ _) rfl _

theorem State.warmRegs_keeps : Keeps [.regs, .latches] s s.warmRegs := Keeps.warmRegs (.refl _ s) rfl

/-- The warm Waking in the module control; it leaves the pin, what flash holds and the digests. -/
structure WarmWaking (s t : State) : Prop where
  st : t.mod.st = .waking
  warm : t.mod.warm = true
  draining : t.mod.draining = false
  rstHeld : t.mod.rstHeld = s.mod.rstHeld
  count : t.count = s.count
  flash : t.flash = s.flash

theorem State.warmBegun_warm : WarmWaking s s.warmBegun := by
  have hm : s.warmNamed.warmRegs.mod = { s.mod with entry := none, expiryWaits := false, fallowNow := false, st := .waking } :=
    (s.warmNamed.warmRegs_keeps.same .mod rfl).trans s.warmNamed_mod
  have hz : s.warmNamed.warmRegs.hz = s.hz := (s.warmNamed.warmRegs_keeps.same .hz rfl).trans (s.warmNamed_keeps.same .hz rfl)
  have hf : s.warmNamed.warmRegs.flash = s.flash := (s.warmNamed.warmRegs_keeps.same .flash rfl).trans (s.warmNamed_keeps.same .flash rfl)
  unfold State.warmBegun
  generalize s.warmNamed.warmRegs = u at hm hz hf ⊢
  have hst : u.mod.st = .waking := by rw [hm]
  have hheld : u.mod.rstHeld = s.mod.rstHeld := by rw [hm]
  exact ⟨hst, rfl, rfl, hheld, (congrArg Hz.count hz : u.hz.count = _), hf⟩

theorem State.beginWarm_warm (h : s.mod.copyDigest ≠ []) : WarmWaking s s.beginWarm := by
  have k := s.beginWarm_keeps h
  have q := s.warmBegun_warm
  have hm := k.same .mod rfl
  exact ⟨by rw [hm, q.st], by rw [hm, q.warm], by rw [hm, q.draining], by rw [hm, q.rstHeld],
    (congrArg Hz.count (k.same .hz rfl)).trans q.count, (k.same .flash rfl).trans q.flash⟩

end

/-- What came before the warm Waking left the pin, the count and the flash. -/
theorem WarmWaking.before {r s t : State} (h : WarmWaking s t) (hp : s.mod.rstHeld = r.mod.rstHeld) (hz : s.hz = r.hz)
    (hf : s.flash = r.flash) : WarmWaking r t :=
  ⟨h.st, h.warm, h.draining, h.rstHeld.trans hp, h.count.trans (congrArg Hz.count hz), h.flash.trans hf⟩

section
variable {s : State}

/-! The request of software (R359) -/

theorem State.accessSeen_entry (h : s.mod.entry = none) : s.accessSeen.mod.entry = none := by
  unfold State.accessSeen
  have hi : s.idleRestart.mod.entry = none := by
    unfold State.idleRestart
    split <;> exact h
  rw [State.wakeEntry_of_none hi]
  exact hi

theorem State.seen_entry (p : Path) (h : s.mod.entry = none) : (s.seen p).mod.entry = none := by
  have hm : (s.pathUsed p).mod = s.mod := (s.pathUsed_framed p).1 .mod (by decide)
  exact State.accessSeen_entry (by rwa [hm])

theorem State.seen_burning (p : Path) : (s.seen p).burning = s.burning := by
  obtain ⟨j, d, h⟩ := s.seen_sec p
  unfold State.burning
  rw [h]

theorem State.seen_copyDigest (p : Path) : (s.seen p).mod.copyDigest = s.mod.copyDigest := by
  obtain ⟨e, i, n, b, h⟩ := s.seen_mod p
  rw [h]

theorem State.cancelRotation_keeps (s : State) : Keeps [.regs, .beds, .svc] s s.cancelRotation := Keeps.cancelRotation (.refl _ s) rfl

theorem State.requestReset_idle (he : s.mod.entry = none) (hs : s.mod.st = .sown ∨ s.mod.st = .unplanted) (hb : s.burning = false) :
    s.requestReset = s.cancelRotation.beginWarm := by
  unfold State.requestReset
  rw [he]
  rcases hs with h | h <;> rw [h] <;> dsimp only <;> rw [hb] <;> rfl

theorem State.requestReset_growing (he : s.mod.entry = none) (hs : s.mod.st = .growing) :
    s.requestReset = ({ s with mod := { s.mod with draining := true } } : State).cancelRotation.driveHold := by
  unfold State.requestReset
  rw [he, hs]

theorem State.requestReset_halted (he : s.mod.entry = none) (hs : s.mod.st = .halted) :
    s.requestReset = { s with mod := { s.mod with resetWaits := true } } := by
  unfold State.requestReset
  rw [he, hs]

theorem exec_topWarmReset {p : Path} (h : s.opens p TOP_CTL) : exec (.topWarmReset p) s = .next (s.seen p).requestReset :=
  congrArg Host.Outcome.next (State.via_of_opens h fun u => u.requestReset)

theorem exec_drainComplete (hd : s.mod.draining = true ∨ s.mod.resetWaits = true) (hs : s.mod.st.serving = true) (hr : s.drained = true) :
    exec .drainComplete s = .next s.closeRuns.beginWarm := by
  refine congrArg Host.Outcome.next (if_pos ?_)
  rw [hs, hr]
  rcases hd with h | h <;> simp [h]

/-! The end of the warm Waking (R34, R382) -/

theorem exec_warmWakingComplete {fwBad imgBad : Bool} (h : s.warmMayEnd fwBad imgBad = true) :
    exec (.warmWakingComplete fwBad imgBad) s =
      .next (if (s.warmWakes fwBad imgBad).mod.st = .waking then s.warmWakes fwBad imgBad else (s.warmWakes fwBad imgBad).serveHeld) :=
  congrArg Host.Outcome.next (if_pos h)

theorem State.warmWakes_cold {fwBad imgBad : Bool} (h : fwBad = true ∨ imgBad = true ∧ s.prog.copying = false) :
    s.warmWakes fwBad imgBad = s.coldStart := by
  refine if_pos ?_
  rcases h with h | ⟨h, hc⟩
  · simp [h]
  · simp [h, hc]

theorem State.warmWakes_good (s : State) : s.warmWakes false false = s.warmEnds := rfl

/-- A cold Waking begins with no request. -/
theorem State.coldStart_serveHeld (s : State) : s.coldStart.serveHeld = s.coldStart := by
  have h : s.coldStart.hst = Hst.off := (s.coldStart_keeps.same .hst rfl).trans (s.coldBegun_keeps.same .hst rfl)
  exact State.serveHeld_of_none _ (by rw [h]; rfl) (by rw [h]; rfl)

/-- With an image a warm Waking ends in Sown or Unplanted (R34). -/
theorem State.warmEnds_st (h : s.prog.image ≠ none) : s.warmEnds.mod.st = .sown ∨ s.warmEnds.mod.st = .unplanted := by
  unfold State.warmEnds
  split
  · rename_i hn
    exact absurd hn h
  · dsimp only
    split
    · exact .inr (State.endWaking_st _ _ _)
    · split
      · exact .inr (State.endWaking_st _ _ _)
      · exact .inl (State.endWaking_st _ _ _)

end

/-- Settles O13: `pinTaken` and `WarmWaking` say what the contact and the Waking leave; each request goes through its own equation. -/
theorem warmResetAndWaking : Obligations.WarmResetAndWaking := by
  unfold Obligations.WarmResetAndWaking
  refine ⟨?contact, ?ignored, ?released, ?wakes, ?software, ?growing, ?halted, ?drained, ?cold, ?ends⟩
  case contact =>
    intro s hs he hb
    refine ⟨s.resetLow, rfl, ?_⟩
    rw [s.resetLow_takes hs he hb, State.pinReset_low _ rfl]
    have hcount : ∀ u : State, u.driveHold.count = u.count := fun u => congrArg Hz.count (u.driveHold_keeps.same .hz rfl)
    have haug : ∀ u : State, u.driveHold.aug = u.aug := fun u => u.driveHold_keeps.same .aug rfl
    rw [State.driveHold_mod, State.driveHold_frames, State.driveHold_arrived, (State.driveHold_facts _).2.1, haug, hcount]
    exact ⟨rfl, rfl, rfl, rfl, rfl, rfl, rfl, rfl, rfl, rfl⟩
  case ignored =>
    intro s hs
    show Host.Outcome.next s.resetLow = _
    unfold State.resetLow
    rcases hs with h | h <;> dsimp only <;> rw [h]
  case released =>
    intro s h
    refine congrArg Host.Outcome.next (if_neg ?_)
    show ¬ s.mod.rstHeld = true
    rw [h]
    exact Bool.false_ne_true
  case wakes =>
    intro s h hd
    refine ⟨s.resetHigh, rfl, ?_⟩
    have heq : s.resetHigh =
        ({ s with mod := { s.mod with rstLow := false, st := s.mod.left, warm := false, rstHeld := false } } : State).beginWarm := if_pos h
    have k := State.beginWarm_warm
      ({ s with mod := { s.mod with rstLow := false, st := s.mod.left, warm := false, rstHeld := false } } : State) hd
    rw [heq]
    exact ⟨k.st, k.warm, k.rstHeld, k.count, k.flash⟩
  case software =>
    intro p s ho he hs hb hd
    refine ⟨_, exec_topWarmReset ho, ?_⟩
    rw [State.requestReset_idle (State.seen_entry p he) (by rwa [State.seen_st]) (by rw [State.seen_burning, hb])]
    have hk := (s.seen p).cancelRotation_keeps
    have k := State.beginWarm_warm (s.seen p).cancelRotation (by rw [hk.same .mod rfl, State.seen_copyDigest]; exact hd)
    exact ⟨k.st, k.warm, k.count.trans ((congrArg Hz.count (hk.same .hz rfl)).trans (s.seen_count p))⟩
  case growing =>
    intro p s ho he hs
    refine ⟨_, exec_topWarmReset ho, ?_⟩
    rw [State.requestReset_growing (State.seen_entry p he) (by rwa [State.seen_st])]
    have hk := State.cancelRotation_keeps ({ s.seen p with mod := { (s.seen p).mod with draining := true } } : State)
    generalize State.cancelRotation _ = u at hk ⊢
    have hm := hk.same .mod rfl
    refine ⟨by rw [State.driveHold_mod, hm, ← hs]; exact s.seen_st p, by rw [State.driveHold_mod, hm], u.driveHold_moduleHold ?_⟩
    rw [State.moduleHold_eq, hm, Bool.or_true]
  case halted =>
    intro p s ho he hs
    refine ⟨_, exec_topWarmReset ho, ?_⟩
    rw [State.requestReset_halted (State.seen_entry p he) (by rwa [State.seen_st])]
    exact ⟨(s.seen_st p).trans hs, rfl⟩
  case drained =>
    intro s hd hs hr hc
    refine ⟨_, exec_drainComplete hd hs hr, ?_⟩
    have hk : Keeps [.aug] s s.closeRuns := Keeps.closeRuns (.refl _ s) rfl
    have k := (State.beginWarm_warm s.closeRuns (by rw [hk.same .mod rfl]; exact hc)).before (congrArg ModCtl.rstHeld (hk.same .mod rfl))
      (hk.same .hz rfl) (hk.same .flash rfl)
    exact ⟨k.st, k.warm, k.draining, k.count⟩
  case cold =>
    intro fwBad imgBad s h hbad
    refine ⟨?_, s.coldStart_warm.1, s.coldStart_count, s.coldStart_st⟩
    rw [exec_warmWakingComplete h, State.warmWakes_cold hbad, State.coldStart_serveHeld, ite_self]
  case ends =>
    intro s h himg
    have hst := State.warmEnds_st himg
    refine ⟨hst, ?_⟩
    rw [exec_warmWakingComplete h, State.warmWakes_good, if_neg]
    rcases hst with e | e <;> rw [e] <;> decide

end Sys2Proof.Machine

/-!
The loss of the tick, its measured period and the end of the hold that a loss leaves (R42 to R46).
-/
namespace Sys2Proof.Machine

section
variable (s : State)

/-- The count's control once the tick is lost; a loss in Growing with a known period holds acceptance (R42 to R44). -/
def State.tickGone (s : State) : State :=
  { s with hz := { s.hz with
      loss := true, flyTicks := 0, goodRun := 0, steady := false, returning := false
      lossHold := s.hz.lossHold || (s.growingOrLeft && s.tickPs != 0) } }

theorem State.tickGone_framed : Framed [.hz] [] s s.tickGone := (Framed.refl [.hz] [] s).setHz (by decide) _

theorem State.showTickOk_ok : s.showTickOk.flag HZN_STAT_TICK_OK = (!s.hz.loss && !s.flag HZN_STAT_TICK_UNSTABLE) :=
  State.flag_setFlag _ _ _ (by decide) rfl

theorem State.showTickOk_flag_ne {f : Field} (h : f.apartFrom HZN_STAT_TICK_OK) : s.showTickOk.flag f = s.flag f :=
  State.flag_setFlag_apart _ _ h

theorem Framed.showTickOk {A : List Area} {R : List Nat} {r s : State} (h : Framed A R r s) (hA : Area.regs ∈ A) (hR : HZN_STAT ∈ R) :
    Framed A R r s.showTickOk := h.setFlag hA hR _

theorem State.loseTicks_free (h : s.tickPs = 0) : s.loseTicks = s.tickGone.showTickOk := if_pos h

theorem State.loseTicks_flies (h : s.tickPs ≠ 0) :
    s.loseTicks = ((s.tickGone.showTickOk.setFlag HZN_STAT_FLYWHEEL true).writeEventAt 0x0201 (s.count + 1) 0
      [(s.count + 1).toNat]).driveHold := if_neg h

theorem State.periodMeasured_near {ps : Nat} (h : near ps s.tickPs = true) :
    s.periodMeasured ps = (s.setFlag HZN_STAT_TICK_UNSTABLE false).showTickOk := if_pos h

theorem State.periodMeasured_far {ps : Nat} (h : near ps s.tickPs = false) :
    s.periodMeasured ps = (s.setFlag HZN_STAT_TICK_UNSTABLE true).showTickOk.writeEvent 0x0202 [s.count.toNat] :=
  if_neg (by rw [h]; exact Bool.false_ne_true)

theorem exec_tickLoss {s : State} (h : s.mod.st ≠ .off) (hl : s.hz.loss = false) : exec .tickLoss s = .next s.loseTicks := by
  refine congrArg Host.Outcome.next (if_pos ?_)
  rw [hl]
  cases hs : s.mod.st with
  | off => exact absurd hs h
  | _ => unfold State.counts; rw [hs]; rfl

theorem exec_tickPeriodMeasured {s : State} {ps : Nat} (h : s.mod.st ≠ .off) (hp : s.tickPs ≠ 0) :
    exec (.tickPeriodMeasured ps) s = .next (s.periodMeasured ps) := by
  refine congrArg Host.Outcome.next (if_pos ?_)
  have hb : (s.tickPs != 0) = true := bne_iff_ne.mpr hp
  rw [hb]
  cases hs : s.mod.st with
  | off => exact absurd hs h
  | _ => unfold State.counts; rw [hs]; rfl

/-- Losing the tick in Growing: the hold, the lines and the record 0x0201. -/
theorem State.loseTicks_growing (hs : s.mod.st = .growing) (hp : s.tickPs ≠ 0) :
    s.loseTicks.hz.loss = true ∧ s.loseTicks.hz.lossHold = true ∧ s.loseTicks.flag HZN_STAT_TICK_OK = false ∧
      s.loseTicks.flag HZN_STAT_FLYWHEEL = true ∧ s.loseTicks.dec.lines = Vector.replicate 2 true ∧
      (s.canNumber = true → s.loseTicks.lastEvent = some (0x0201, [(s.count + 1).toNat])) ∧
      Framed [.regs, .hz, .fast, .aug, .dec] (HZN_STAT :: noteRegs) s s.loseTicks := by
  have hlh : s.tickGone.hz.lossHold = true := by
    show (s.hz.lossHold || (s.growingOrLeft && s.tickPs != 0)) = true
    rw [bne_iff_ne.mpr hp, State.growingOrLeft, hs]
    exact Bool.or_true _
  have hok : s.tickGone.showTickOk.flag HZN_STAT_TICK_OK = false := s.tickGone.showTickOk_ok
  have hcan : (s.tickGone.showTickOk.setFlag HZN_STAT_FLYWHEEL true).canNumber = s.canNumber := rfl
  have hzg : (s.tickGone.showTickOk.setFlag HZN_STAT_FLYWHEEL true).hz = s.tickGone.hz := rfl
  have hok' : (s.tickGone.showTickOk.setFlag HZN_STAT_FLYWHEEL true).flag HZN_STAT_TICK_OK = false := by
    rw [State.flag_setFlag_apart _ _ (by decide), hok]
  have hfly : (s.tickGone.showTickOk.setFlag HZN_STAT_FLYWHEEL true).flag HZN_STAT_FLYWHEEL = true :=
    State.flag_setFlag _ _ _ (by decide) rfl
  have hfr : Framed [.regs, .hz, .fast, .aug, .dec] (HZN_STAT :: noteRegs) s (s.tickGone.showTickOk.setFlag HZN_STAT_FLYWHEEL true) :=
    ((s.tickGone_framed.mono (by decide) (by decide)).showTickOk (by decide) (by decide)).setFlag (by decide) (by decide) true
  have hloss : s.tickGone.hz.loss = true := rfl
  rw [s.loseTicks_flies hp]
  generalize s.tickGone.showTickOk.setFlag HZN_STAT_FLYWHEEL true = u at hcan hzg hok' hfly hfr ⊢
  have hw := u.writeEventAt_only 0x0201 (s.count + 1) 0 [(s.count + 1).toNat]
  have hhz : (u.writeEventAt 0x0201 (s.count + 1) 0 [(s.count + 1).toNat]).hz = s.tickGone.hz := (hw .hz (by decide)).trans hzg
  have hflag : ∀ f : Field, f.addr = HZN_STAT →
      (u.writeEventAt 0x0201 (s.count + 1) 0 [(s.count + 1).toNat]).driveHold.flag f = u.flag f := fun f hf => by
    rw [State.flag_driveHold _ (by rw [hf]; decide) (by rw [hf]; decide)]
    exact State.flag_of_reg (u.writeEventAt_reg _ _ _ _ (by rw [hf]; decide) (by rw [hf]; decide))
  refine ⟨?_, ?_, ?_, ?_, ?_, ?_, ?_⟩
  · rw [State.driveHold_only _ .hz (by decide), hhz, hloss]
  · rw [State.driveHold_only _ .hz (by decide), hhz, hlh]
  · rw [hflag _ rfl, hok']
  · rw [hflag _ rfl, hfly]
  · refine State.driveHold_moduleHold _ ?_
    rw [State.moduleHold_eq, hhz, hlh]
    simp
  · intro hc
    rw [State.driveHold_lastEvent]
    exact State.writeEventAt_last _ _ _ _ _ (hcan.trans hc)
  · exact (hfr.writeEventAt (by decide) (by decide) _ _ _ _).driveHold (by decide) (by decide)

end

/-- Settles O20: `tickGone`, the two outcomes of a measured period, and the lines that follow the end of the hold. -/
theorem tickLossHoldsAcceptance : Obligations.TickLossHoldsAcceptance := by
  unfold Obligations.TickLossHoldsAcceptance
  refine ⟨?lost, ?free, ?resumes, ?near, ?far⟩
  case lost =>
    intro s hs hl hp
    exact ⟨_, exec_tickLoss (by rw [hs]; decide) hl, s.loseTicks_growing hs hp⟩
  case free =>
    intro s hs hl hp
    refine ⟨_, exec_tickLoss hs hl, ?_⟩
    rw [s.loseTicks_free hp]
    have hh : s.tickGone.hz.lossHold = s.hz.lossHold := by
      show (s.hz.lossHold || (s.growingOrLeft && s.tickPs != 0)) = _
      rw [hp]
      simp
    exact ⟨rfl, hh, s.tickGone.showTickOk_ok, rfl,
      (s.tickGone_framed.mono (by decide) (by decide)).showTickOk (by decide) (by decide)⟩
  case resumes =>
    intro s h
    refine ⟨s.resumeAcceptance, congrArg Host.Outcome.next (if_pos h), State.driveHold_only _ .hz (by decide), State.driveHold_lines _, ?_⟩
    exact ((Framed.refl _ _ s).setHz (by decide) _).driveHold (by decide) (by decide)
  case near =>
    intro ps s hs hp hn
    refine ⟨_, exec_tickPeriodMeasured hs hp, ?_⟩
    rw [s.periodMeasured_near hn]
    have hu : (s.setFlag HZN_STAT_TICK_UNSTABLE false).flag HZN_STAT_TICK_UNSTABLE = false := State.flag_setFlag _ _ _ (by decide) rfl
    refine ⟨?_, ?_, ((Framed.refl _ _ s).setFlag (by decide) (by decide) false).showTickOk (by decide) (by decide)⟩
    · rw [State.showTickOk_flag_ne _ (by decide), hu]
    · rw [State.showTickOk_ok, hu]
      exact Bool.and_true _
  case far =>
    intro ps s hs hp hn
    refine ⟨_, exec_tickPeriodMeasured hs hp, ?_⟩
    rw [s.periodMeasured_far hn]
    have hu : (s.setFlag HZN_STAT_TICK_UNSTABLE true).flag HZN_STAT_TICK_UNSTABLE = true := State.flag_setFlag _ _ _ (by decide) rfl
    refine ⟨?_, ?_, fun hc => State.writeEvent_last _ _ _ hc, ?_⟩
    · rw [State.flag_writeEvent _ _ _ (by decide) (by decide), State.showTickOk_flag_ne _ (by decide), hu]
    · rw [State.flag_writeEvent _ _ _ (by decide) (by decide), State.showTickOk_ok, hu]
      exact Bool.and_false _
    · exact (((Framed.refl _ _ s).setFlag (by decide) (by decide) true).showTickOk (by decide) (by decide)).writeEvent (by decide)
        (by decide) _ _

end Sys2Proof.Machine

/-!
Serial lanes: their registers, and what a lane's fall out of traffic, its start and its stop leave (R399, R401, R409).
-/
namespace Sys2Proof.Machine

/-! Addresses and fields of a lane -/

/-- The registers of the lanes: a block of 0x100 for each. -/
abbrev laneBlock (a : Nat) : Prop := 0x90000 ≤ a ∧ a < 0x95000

theorem laneBlock_on (l : Fin 80) {a : Nat} (ha : 0x90000 ≤ a ∧ a < 0x90100) : laneBlock (a + lnkOff l) := by
  unfold laneBlock lnkOff
  omega

/-- A register of a lane is no register outside the lanes. -/
theorem laneReg_ne {a b : Nat} (ha : laneBlock a) (hb : b < 0x90000 ∨ 0x95000 ≤ b) : a ≠ b := by
  unfold laneBlock at ha
  omega

theorem add_lnkOff_ne {a b : Nat} (o : Nat) (h : a ≠ b) : a + o ≠ b + o := fun e => h (Nat.add_right_cancel e)

/-- Two fields of a register that do not meet are apart wherever the register stands. -/
theorem Field.on_apart {f g : Field} (o : Nat) (h : (g.lo + g.w ≤ f.lo ∨ f.lo + f.w ≤ g.lo) ∧ f.fits) : (f.on o).apartFrom (g.on o) := .inr h

section
variable (s : State)

theorem State.laneState_setLaneState (l : Nat) {v : Nat} (hv : v < 16) : (s.setLaneState l v).laneState l = v := by
  unfold State.laneState State.setLaneState
  rw [State.fld_setFld s (LNK_STAT_STATE.on (lnkOff l)) v (by decide : LNK_STAT_STATE.fits)]
  exact Nat.mod_eq_of_lt hv

theorem State.laneRate_setLaneRate (l v : Nat) : (s.setLaneRate l v).laneRate l = v % 16 :=
  State.fld_setFld s (LNK_STAT_RATE.on (lnkOff l)) v (by decide : LNK_STAT_RATE.fits)

theorem State.laneLock_setLock (l : Nat) (b : Bool) : (s.setFlag (LNK_STAT_LOCK.on (lnkOff l)) b).laneLock l = b :=
  State.flag_setFlag s (LNK_STAT_LOCK.on (lnkOff l)) b (by decide : LNK_STAT_LOCK.fits) rfl

/-- Setting the state leaves every other field of the lane's status. -/
theorem State.fld_setLaneState (l v : Nat) {f : Field} (h : (LNK_STAT_STATE.lo + LNK_STAT_STATE.w ≤ f.lo ∨ f.lo + f.w ≤ LNK_STAT_STATE.lo) ∧ f.fits) :
    (s.setLaneState l v).fld (f.on (lnkOff l)) = s.fld (f.on (lnkOff l)) :=
  State.fld_setFld_apart s v (Field.on_apart (lnkOff l) h)

theorem State.laneRate_setLaneState (l v : Nat) : (s.setLaneState l v).laneRate l = s.laneRate l := s.fld_setLaneState l v (by decide)

theorem State.flag_setLaneState (l v : Nat) {f : Field} (h : (LNK_STAT_STATE.lo + LNK_STAT_STATE.w ≤ f.lo ∨ f.lo + f.w ≤ LNK_STAT_STATE.lo) ∧ f.fits) :
    (s.setLaneState l v).flag (f.on (lnkOff l)) = s.flag (f.on (lnkOff l)) :=
  congrArg (· != 0) (s.fld_setLaneState l v h)

theorem State.laneLock_setLaneState (l v : Nat) : (s.setLaneState l v).laneLock l = s.laneLock l := s.flag_setLaneState l v (by decide)

theorem State.setLaneState_lanes (l v : Nat) : (s.setLaneState l v).lanes = s.lanes := rfl

/-- A write of a flag of the lane's status leaves its state and its rate. -/
theorem State.laneState_setFlag (l : Nat) {f : Field} (b : Bool) (h : (f.lo + f.w ≤ LNK_STAT_STATE.lo ∨ LNK_STAT_STATE.lo + LNK_STAT_STATE.w ≤ f.lo)) :
    (s.setFlag (f.on (lnkOff l)) b).laneState l = s.laneState l :=
  State.fld_setFlag_apart s b (Field.on_apart (lnkOff l) ⟨h, by decide⟩)

theorem State.laneRate_setFlag (l : Nat) {f : Field} (b : Bool) (h : (f.lo + f.w ≤ LNK_STAT_RATE.lo ∨ LNK_STAT_RATE.lo + LNK_STAT_RATE.w ≤ f.lo)) :
    (s.setFlag (f.on (lnkOff l)) b).laneRate l = s.laneRate l :=
  State.fld_setFlag_apart s b (Field.on_apart (lnkOff l) ⟨h, by decide⟩)

/-- What is shown of a lane stands where its registers do. -/
theorem State.laneState_of_reg {s t : State} {l : Nat} (h : t.reg (LNK_STAT + lnkOff l) = s.reg (LNK_STAT + lnkOff l)) : t.laneState l = s.laneState l :=
  State.fld_of_reg h

theorem State.laneRate_of_reg {s t : State} {l : Nat} (h : t.reg (LNK_STAT + lnkOff l) = s.reg (LNK_STAT + lnkOff l)) : t.laneRate l = s.laneRate l :=
  State.fld_of_reg h

theorem State.laneLock_of_reg {s t : State} {l : Nat} (h : t.reg (LNK_STAT + lnkOff l) = s.reg (LNK_STAT + lnkOff l)) : t.laneLock l = s.laneLock l :=
  State.flag_of_reg h

theorem State.setLane_same (l : Fin 80) (g : Lane) : ((s.setLane l g).lanes[l] : Lane) = g := by
  rw [State.setLane_lanes, Fin.getElem_fin, Vector.getElem_set_self]

theorem State.setLane_ne {l k : Fin 80} (g : Lane) (h : k ≠ l) : ((s.setLane l g).lanes[k] : Lane) = s.lanes[k] := by
  rw [State.setLane_lanes, Fin.getElem_fin, Vector.getElem_set_ne _ _ fun hv => h (Fin.ext hv.symm)]
  rfl

end

theorem Framed.setLane {A : List Area} {R : List Nat} {r s : State} (h : Framed A R r s) (hA : Area.lanes ∈ A) (l : Fin 80) (g : Lane) :
    Framed A R r (s.setLane l g) :=
  h.area .lanes hA rfl fun p hp => by
    cases p with
    | lanes => exact absurd rfl hp
    | _ => rfl

theorem Framed.setLaneState {A : List Area} {R : List Nat} {r s : State} (h : Framed A R r s) (hA : Area.regs ∈ A) {l : Nat}
    (hR : LNK_STAT + lnkOff l ∈ R) (v : Nat) : Framed A R r (s.setLaneState l v) := h.setFld (f := LNK_STAT_STATE.on (lnkOff l)) hA hR v

theorem Framed.setLaneRate {A : List Area} {R : List Nat} {r s : State} (h : Framed A R r s) (hA : Area.regs ∈ A) {l : Nat}
    (hR : LNK_STAT + lnkOff l ∈ R) (v : Nat) : Framed A R r (s.setLaneRate l v) := h.setFld (f := LNK_STAT_RATE.on (lnkOff l)) hA hR v

/-- A field of the status register of a lane. -/
theorem Framed.setStat {A : List Area} {R : List Nat} {r s : State} (h : Framed A R r s) (hA : Area.regs ∈ A) {l : Nat} {f : Field}
    (hf : f.addr = LNK_STAT) (hR : LNK_STAT + lnkOff l ∈ R) (b : Bool) : Framed A R r (s.setFlag (f.on (lnkOff l)) b) :=
  h.setFlag (f := f.on (lnkOff l)) hA (by show f.addr + lnkOff l ∈ R; rw [hf]; exact hR) b

/-! A lane leaves its traffic -/

/-- The registers of the links: lanes, stream input, decision output, ring and host link. -/
abbrev linkBlock (a : Nat) : Prop := 0x90000 ≤ a ∧ a < 0xE0000

/-- `t` is `s` with another lane record at `l` that differs in its scan and its reassembly; of the registers those of the lanes stand, and
those outside the links. -/
structure LaneLeft (l : Fin 80) (s t : State) : Prop where
  lanes : ∃ e r, t.lanes = s.lanes.set l { s.lanes[l] with eyeOn := e, reasm := r }
  reg : ∀ a, laneBlock a ∨ ¬ linkBlock a → t.reg a = s.reg a

theorem LaneLeft.refl (l : Fin 80) (s : State) : LaneLeft l s s :=
  ⟨⟨_, _, (Vector.set_getElem_self (by omega)).symm⟩, fun _ _ => rfl⟩

theorem LaneLeft.trans {l : Fin 80} {s t u : State} (h : LaneLeft l s t) (k : LaneLeft l t u) : LaneLeft l s u := by
  obtain ⟨e, r, hl⟩ := h.lanes
  obtain ⟨e', r', hk⟩ := k.lanes
  refine ⟨⟨e', r', ?_⟩, fun a ha => (k.reg a ha).trans (h.reg a ha)⟩
  rw [hk, hl]
  simp

/-- An update that writes registers of the links outside the lanes. -/
theorem LaneLeft.of_regs {l : Fin 80} {s t u : State} {R : List Nat} (h : LaneLeft l s t) (hl : u.lanes = t.lanes)
    (hr : ∀ a, a ∉ R → u.reg a = t.reg a) (hn : ∀ a ∈ R, 0x95000 ≤ a ∧ a < 0xE0000) : LaneLeft l s u := by
  obtain ⟨e, r, h'⟩ := h.lanes
  refine ⟨⟨e, r, hl.trans h'⟩, fun a ha => (hr a fun hm => ?_).trans (h.reg a ha)⟩
  have := hn a hm
  unfold laneBlock linkBlock at ha
  omega

section
variable (s : State) (l : Fin 80)

theorem State.abortEye_left : LaneLeft l s (s.abortEye l) := by
  unfold State.abortEye
  dsimp only
  split
  · have k : LaneLeft l s (s.drawNat.2.drawNat.2.setLane l { s.lanes[l] with eyeOn := false }) := ⟨⟨_, _, rfl⟩, fun _ _ => rfl⟩
    refine k.of_regs (R := [LNK_EYE_STAT, LNK_EYE_ERR, LNK_EYE_BITS_LO, LNK_EYE_BITS_HI]) rfl (fun a ha => ?_) (by decide)
    simp only [List.mem_cons, List.not_mem_nil, or_false, not_or] at ha
    obtain ⟨hstat, herr, hlo, hhi⟩ := ha
    rw [State.reg_setFlag_ne _ _ hstat, State.reg_setFlag_ne _ _ hstat, State.reg_setFlag_ne _ _ hstat, State.reg_setReg64_ne _ _ hlo hhi,
      State.reg_setReg_ne _ _ herr]
  · exact .refl l s

theorem State.dropItem_left : LaneLeft l s (s.dropItem l) := by
  unfold State.dropItem
  dsimp only
  have k : LaneLeft l s (s.setLane l { s.lanes[l] with reasm := ⟨[], 0, true⟩ }) := ⟨⟨_, _, rfl⟩, fun _ _ => rfl⟩
  split
  · exact k
  · exact k.of_regs (R := [STM_LOST_CNT]) rfl (fun a ha => State.reg_bump_ne _ (by simpa using ha)) (by decide)

theorem State.setHostSet_left (m : Byte) : LaneLeft l s (s.setHostSet m) := by
  unfold State.setHostSet
  split
  · refine (LaneLeft.refl l s).of_regs (R := [HST_STAT, HST_LANES]) rfl (fun a ha => ?_) (by decide)
    simp only [List.mem_cons, List.not_mem_nil, or_false, not_or] at ha
    dsimp only
    rw [State.reg_setFld_ne _ _ ha.2, State.reg_setFlag_ne _ _ ha.1]
    rfl
  · exact .refl l s

theorem State.portDown_left (h : 56 ≤ l.val ∧ l.val < 72) : LaneLeft l s (s.setFlag (portField RNG_PORT_STAT0_UP ((l.val - 56) / 4)) false) := by
  refine (LaneLeft.refl l s).of_regs (R := [RNG_PORT_STAT0 + 4 * ((l.val - 56) / 4)]) rfl
    (fun a h => State.reg_setFlag_ne _ _ (List.ne_of_not_mem_cons h)) ?_
  simp only [List.mem_singleton, forall_eq, RNG_PORT_STAT0]
  omega

theorem State.laneLeaves_left : LaneLeft l s (s.laneLeaves l) := by
  have hd : ∀ t, LaneLeft l s t → LaneLeft l s (if l.val < 48 then t.dropItem l else t) := fun t h => by
    split
    · exact h.trans (t.dropItem_left l)
    · exact h
  have hh : ∀ t, LaneLeft l s t → LaneLeft l s (if 72 ≤ l.val then t.setHostSet (t.hst.mask &&& ~~~(BitVec.ofNat 8 (2 ^ (l.val - 72)))) else t) :=
    fun t h => by
      split
      · exact h.trans (t.setHostSet_left l _)
      · exact h
  have hp : ∀ t, LaneLeft l s t →
      LaneLeft l s (if 56 ≤ l.val ∧ l.val < 72 then t.setFlag (portField RNG_PORT_STAT0_UP ((l.val - 56) / 4)) false else t) := fun t h => by
    split
    · rename_i hl
      exact h.trans (t.portDown_left l hl)
    · exact h
  exact hp _ (hh _ (hd _ (s.abortEye_left l)))

/-- What a lane keeps when it leaves its traffic: everything but its scan and its reassembly. -/
theorem LaneLeft.brought {s t : State} {l : Fin 80} (h : LaneLeft l s t) : (t.lanes[l] : Lane).brought = (s.lanes[l] : Lane).brought := by
  obtain ⟨e, r, hl⟩ := h.lanes
  rw [hl, Fin.getElem_fin, Vector.getElem_set_self]

/-! A lane starts its bring-up -/

/-- The lane record from which a bring-up starts (R399). -/
def State.laneFresh (s : State) (l : Fin 80) (ln : Lane) : Lane :=
  { ln with
    rx := ⟨false, 0⟩, heads := [], goodRun := 0, invSeen := 0, peer := none, verifyBad := false, attempts := 0
    target := s.laneOffer l, tested := none, blocksToPeak := 0, reasm := ⟨[], 0, true⟩, brought := true }

/-- The lane has left its traffic, and a lane brought up before counts it (R399). -/
def State.laneRecounted (s : State) (l : Fin 80) : State :=
  if ((s.laneLeaves l).lanes[l] : Lane).brought then (s.laneLeaves l).bump (LNK_RETRAIN_CNT + lnkOff l) else s.laneLeaves l

/-- The lane at 2.5 Gb/s without lock, before its state shows the start. -/
def State.laneReset (s : State) (l : Fin 80) : State :=
  ((((((s.laneRecounted l).setLane l ((s.laneRecounted l).laneFresh l ((s.laneLeaves l).lanes[l]))).setLaneRate l 0).setFld
    (LNK_STAT_PEER_MAX.on (lnkOff l)) 0).setFlag (LNK_STAT_INVERTED.on (lnkOff l)) false).setFlag (LNK_STAT_LOCK.on (lnkOff l)) false).fixedPeak l

theorem State.startLane_eq : s.startLane l = (s.laneReset l).setLaneState l (if laneLink l = 1 then 3 else 1) := rfl

theorem State.fixedPeak_framed (l : Nat) : Framed [.regs] [LNK_EQ + lnkOff l] s (s.fixedPeak l) := by
  unfold State.fixedPeak
  split
  · exact .refl _ _ s
  · exact (Framed.refl _ _ s).setFld (f := LNK_EQ_PEAK_USED.on (lnkOff l)) (by decide) (List.mem_singleton.mpr rfl) _

theorem State.laneRecounted_framed : Framed [.regs] [LNK_RETRAIN_CNT + lnkOff l] (s.laneLeaves l) (s.laneRecounted l) := by
  unfold State.laneRecounted
  split
  · exact (Framed.refl _ _ _).bump (by decide) (List.mem_singleton.mpr rfl)
  · exact .refl _ _ _

/-- A start writes the status, the equaliser and the count of its lane. -/
theorem State.laneReset_framed :
    Framed [.regs, .lanes] [LNK_STAT + lnkOff l, LNK_EQ + lnkOff l, LNK_RETRAIN_CNT + lnkOff l] (s.laneLeaves l) (s.laneReset l) := by
  have h1 := (s.laneRecounted_framed l).mono (B := [.regs, .lanes]) (Q := [LNK_STAT + lnkOff l, LNK_EQ + lnkOff l, LNK_RETRAIN_CNT + lnkOff l])
    (by decide) (by simp)
  have h2 := (h1.setLane (by decide) l ((s.laneRecounted l).laneFresh l ((s.laneLeaves l).lanes[l]))).setLaneRate (l := l) (by decide)
    List.mem_cons_self 0
  have h3 := ((h2.setFld (f := LNK_STAT_PEER_MAX.on (lnkOff l)) (by decide) List.mem_cons_self 0).setStat (l := l) (f := LNK_STAT_INVERTED) (by decide)
    rfl List.mem_cons_self false).setStat (l := l) (f := LNK_STAT_LOCK) (by decide) rfl List.mem_cons_self false
  exact h3.trans ((State.fixedPeak_framed _ l).mono (by decide) (by simp))

theorem State.startLane_framed :
    Framed [.regs, .lanes] [LNK_STAT + lnkOff l, LNK_EQ + lnkOff l, LNK_RETRAIN_CNT + lnkOff l] (s.laneLeaves l) (s.startLane l) := by
  rw [State.startLane_eq]
  exact (s.laneReset_framed l).setLaneState (by decide) (by simp) _

/-- A start leaves the registers outside the links. -/
theorem State.startLane_reg {a : Nat} (ha : ¬ linkBlock a) : (s.startLane l).reg a = s.reg a := by
  have hb : ∀ k : Nat, laneBlock (k + lnkOff l) → a ≠ k + lnkOff l := by
    intro k hk e
    unfold laneBlock at hk
    unfold linkBlock at ha
    omega
  rw [(s.startLane_framed l).2 a, (s.laneLeaves_left l).reg a (.inr ha)]
  simp only [List.mem_cons, List.not_mem_nil, or_false, not_or]
  exact ⟨hb _ (laneBlock_on l (by decide)), hb _ (laneBlock_on l (by decide)), hb _ (laneBlock_on l (by decide))⟩

theorem State.startLane_state : (s.startLane l).laneState l = if laneLink l = 1 then 3 else 1 := by
  rw [State.startLane_eq, State.laneState_setLaneState _ _ (by split <;> decide)]

theorem State.fixedPeak_stat (l : Nat) : (s.fixedPeak l).reg (LNK_STAT + lnkOff l) = s.reg (LNK_STAT + lnkOff l) :=
  (s.fixedPeak_framed l).2 _ (List.not_mem_cons_of_ne_of_not_mem (add_lnkOff_ne _ (by decide)) (List.not_mem_nil))

theorem State.startLane_lock : (s.startLane l).laneLock l = false := by
  rw [State.startLane_eq, State.laneLock_setLaneState, State.laneReset, State.laneLock_of_reg (State.fixedPeak_stat _ _), State.laneLock_setLock]

theorem State.startLane_rate : (s.startLane l).laneRate l = 0 := by
  rw [State.startLane_eq, State.laneRate_setLaneState, State.laneReset, State.laneRate_of_reg (State.fixedPeak_stat _ _)]
  rw [State.laneRate_setFlag _ _ _ (by decide), State.laneRate_setFlag _ _ _ (by decide)]
  unfold State.laneRate
  rw [State.fld_setFld_apart _ _ (Field.on_apart (lnkOff l) (by decide))]
  exact State.laneRate_setLaneRate _ _ _

theorem State.startLane_lanes : (s.startLane l).lanes =
    (s.laneRecounted l).lanes.set l ((s.laneRecounted l).laneFresh l ((s.laneLeaves l).lanes[l])) := by
  rw [State.startLane_eq, State.setLaneState_lanes, State.laneReset, (State.fixedPeak_framed _ l).1 .lanes (by decide)]
  rfl

theorem State.startLane_peer : ((s.startLane l).lanes[l] : Lane).peer = none := by
  rw [State.startLane_lanes, Fin.getElem_fin, Vector.getElem_set_self]
  rfl

theorem State.startLane_count (h : (s.lanes[l] : Lane).brought = true) :
    (s.startLane l).reg (LNK_RETRAIN_CNT + lnkOff l) = bumped (s.reg (LNK_RETRAIN_CNT + lnkOff l)) := by
  have hl := s.laneLeaves_left l
  have hb : s.laneRecounted l = (s.laneLeaves l).bump (LNK_RETRAIN_CNT + lnkOff l) := if_pos (hl.brought.trans h)
  rw [State.startLane_eq, State.setLaneState, State.reg_setFld_ne _ _ (add_lnkOff_ne _ (by decide)), State.laneReset,
    (State.fixedPeak_framed _ l).2 _ (List.not_mem_cons_of_ne_of_not_mem (add_lnkOff_ne _ (by decide)) (List.not_mem_nil)),
    State.reg_setFlag_ne _ _ (add_lnkOff_ne _ (by decide)), State.reg_setFlag_ne _ _ (add_lnkOff_ne _ (by decide)),
    State.reg_setFld_ne _ _ (add_lnkOff_ne _ (by decide)), State.setLaneRate, State.reg_setFld_ne _ _ (add_lnkOff_ne _ (by decide)), hb]
  show ((s.laneLeaves l).bump (LNK_RETRAIN_CNT + lnkOff l)).reg _ = _
  rw [State.reg_bump_bumped, hl.reg _ (.inl (laneBlock_on l (by decide)))]

end

end Sys2Proof.Machine

/-!
Bring-up after training: steps and verification of a lane (R399, R401, R403).
-/
namespace Sys2Proof.Machine

section
variable {s : State} {l : Fin 80}

theorem laneLink_one_iff (l : Nat) : laneLink l = 1 ↔ 48 ≤ l ∧ l < 56 := by
  unfold laneLink
  by_cases h1 : l < 48
  · rw [if_pos h1]
    omega
  · rw [if_neg h1]
    by_cases h2 : l < 56
    · rw [if_pos h2]
      omega
    · rw [if_neg h2]
      split <;> omega

theorem laneLink_stream {l : Nat} (h : l < 48) : laneLink l = 0 := if_pos h

theorem State.reg_setLane (s : State) (l : Fin 80) (g : Lane) (a : Nat) : (s.setLane l g).reg a = s.reg a := rfl

theorem State.flag_setLane (s : State) (l : Fin 80) (g : Lane) (f : Field) : (s.setLane l g).flag f = s.flag f := rfl

theorem State.laneRate_setLane (s : State) (l : Fin 80) (g : Lane) (k : Nat) : (s.setLane l g).laneRate k = s.laneRate k := rfl

theorem State.laneLock_setLane (s : State) (l : Fin 80) (g : Lane) (k : Nat) : (s.setLane l g).laneLock k = s.laneLock k := rfl

theorem State.laneState_setLane (s : State) (l : Fin 80) (g : Lane) (k : Nat) : (s.setLane l g).laneState k = s.laneState k := rfl

theorem State.laneLock_setLaneRate (s : State) (l v : Nat) : (s.setLaneRate l v).laneLock l = s.laneLock l :=
  State.flag_setFld_apart s v (Field.on_apart (lnkOff l) (by decide))

/-- The equaliser alone changes when a rate starts (R405). -/
theorem State.adaptPeak_framed (s : State) (l : Nat) : Framed [.regs, .free] [LNK_EQ + lnkOff l] s (s.adaptPeak l) := by
  unfold State.adaptPeak
  split
  · have h : Framed [.regs, .free] [LNK_EQ + lnkOff l] s s.drawNat.2 := ⟨fun p hp => by
      cases p with
      | free => exact absurd (by decide) hp
      | _ => rfl, fun _ _ => rfl⟩
    exact h.setFld (f := LNK_EQ_PEAK_USED.on (lnkOff l)) (by decide) (List.mem_singleton.mpr rfl) _
  · exact (s.fixedPeak_framed l).mono (by decide) (by simp)

theorem State.adaptPeak_stat (s : State) (l : Nat) : (s.adaptPeak l).reg (LNK_STAT + lnkOff l) = s.reg (LNK_STAT + lnkOff l) :=
  (s.adaptPeak_framed l).2 _ (List.not_mem_cons_of_ne_of_not_mem (add_lnkOff_ne _ (by decide)) (List.not_mem_nil))

theorem State.laneOffer_of_none (h : (s.lanes[l] : Lane).frozen = none) : s.laneOffer l = s.fld (LNK_CTL_MAX_RATE.on (lnkOff l)) := by
  unfold State.laneOffer
  rw [h]

theorem State.trainDone_agreed {tr : Training} (hl : 48 ≤ l.val) (hs : s.laneState l = 2) (hp : (s.lanes[l] : Lane).peer = some tr)
    (hf : (s.lanes[l] : Lane).frozen = none) : s.trainDone l =
      (s.setLane l { s.lanes[l] with
        target := min (s.fld (LNK_CTL_MAX_RATE.on (lnkOff l))) tr.maxRate, attempts := 0, verifyBad := false }).setLaneState l 4 := by
  unfold State.trainDone
  dsimp only
  rw [hp]
  dsimp only
  rw [if_pos ⟨hs, hl⟩, hf, State.laneOffer_of_none hf]
  rfl

theorem State.trainExpired_train (hl : 48 ≤ l.val) (hs : s.laneState l = 2) : s.trainExpired l =
    ((s.setLane l { s.lanes[l] with heads := [], goodRun := 0, peer := none }).setFlag (LNK_STAT_LOCK.on (lnkOff l)) false).setLaneState l 1 :=
  if_pos ⟨hs, hl⟩

theorem State.rateStepped_step (hs : s.laneState l = 3) (locked : Bool) : s.rateStepped l locked =
    (if laneLink l = 1 then
      ((s.setLaneRate l (s.laneOffer l)).setLane l { s.lanes[l] with verifyBad := false }).setLaneState l 4
    else if l.val < 48 then
      if locked then
        ((((s.setLaneRate l (s.lanes[l] : Lane).target).setFlag (LNK_STAT_LOCK.on (lnkOff l)) true).setLane l
          { s.lanes[l] with verifyBad := false, heads := [], goodRun := 0 }).adaptPeak l).setLaneState l 4
      else ((s.setFlag (LNK_STAT_STEP_FAIL.on (lnkOff l)) true).setFlag (LNK_STAT_LOCK.on (lnkOff l)) false).setLaneState l 1
    else if locked then
      ((((s.setLaneRate l (s.laneRate l + 1)).setFlag (LNK_STAT_LOCK.on (lnkOff l)) true).setLane l
        { s.lanes[l] with verifyBad := false, heads := [], goodRun := 0 }).adaptPeak l).setLaneState l 4
    else s.laneAttemptFails l true) :=
  if_neg (not_not.mpr hs)

/-- A step that locks: the rate, the lock and the verification (R399). -/
theorem State.rateStepped_locks {r : Nat} (hr : r < 16) (g : Lane) :
    (((((s.setLaneRate l r).setFlag (LNK_STAT_LOCK.on (lnkOff l)) true).setLane l g).adaptPeak l).setLaneState l 4).laneState l = 4 ∧
    (((((s.setLaneRate l r).setFlag (LNK_STAT_LOCK.on (lnkOff l)) true).setLane l g).adaptPeak l).setLaneState l 4).laneRate l = r ∧
    (((((s.setLaneRate l r).setFlag (LNK_STAT_LOCK.on (lnkOff l)) true).setLane l g).adaptPeak l).setLaneState l 4).laneLock l = true := by
  refine ⟨State.laneState_setLaneState _ _ (by decide), ?_, ?_⟩
  · rw [State.laneRate_setLaneState, State.laneRate_of_reg (State.adaptPeak_stat _ _)]
    rw [State.laneRate_setLane, State.laneRate_setFlag _ _ _ (by decide), State.laneRate_setLaneRate, Nat.mod_eq_of_lt hr]
  · rw [State.laneLock_setLaneState, State.laneLock_of_reg (State.adaptPeak_stat _ _), State.laneLock_setLane, State.laneLock_setLock]

theorem State.verifyDone_verify (hs : s.laneState l = 4) : s.verifyDone l =
    (if laneLink l = 1 then s.laneUp l
    else if l.val < 48 then
      if (s.lanes[l] : Lane).verifyBad then
        ((((s.setFlag (LNK_STAT_STEP_FAIL.on (lnkOff l)) true).setFlag (LNK_STAT_LOCK.on (lnkOff l)) false).setLane l
          { s.lanes[l] with heads := [], goodRun := 0, verifyBad := false, peer := none }).setLaneRate l 0).setLaneState l 1
      else s.laneUp l
    else if (s.lanes[l] : Lane).verifyBad then s.laneAttemptFails l false
    else s.laneVerified l) :=
  if_neg (not_not.mpr hs)

theorem State.laneUp_decision (h : laneLink l = 1) : s.laneUp l = (s.setLaneState l 5).checkStep5 := if_pos h

theorem State.laneUp_stream (h : l.val < 48) : s.laneUp l = s.setLaneState l 5 := by
  unfold State.laneUp
  rw [laneLink_stream h]
  rfl

theorem State.checkStep5_framed (s : State) : Framed [.regs] [CFG_BOOT_STAT] s s.checkStep5 := by
  unfold State.checkStep5
  split
  · exact (Framed.refl _ _ s).setFld (by decide) (by decide) _
  · exact .refl _ _ s

end

/-- Settles O22: what each end of a step or a verification does, by the kind of the lane. -/
theorem lanesTrainStepAndVerify : Obligations.LanesTrainStepAndVerify := by
  unfold Obligations.LanesTrainStepAndVerify
  refine ⟨?trained, ?expired, ?stepped, ?decStepped, ?streamFails, ?decUp, ?streamUp, ?streamBad, ?nextStep⟩
  case trained =>
    intro l tr s hl hs hp hf
    refine ⟨_, rfl, ?_⟩
    rw [State.trainDone_agreed hl hs hp hf]
    exact ⟨State.laneState_setLaneState _ _ (by decide), State.setLane_same _ _ _, fun k hk => State.setLane_ne _ _ hk,
      ((Framed.refl _ _ s).setLane (by decide) l _).setLaneState (by decide) List.mem_cons_self _⟩
  case expired =>
    intro l s hl hs
    refine ⟨_, rfl, ?_⟩
    rw [State.trainExpired_train hl hs]
    refine ⟨State.laneState_setLaneState _ _ (by decide), ?_, ?_, fun k hk => State.setLane_ne _ _ hk, ?_⟩
    · rw [State.laneLock_setLaneState, State.laneLock_setLock]
    · exact congrArg Lane.peer (State.setLane_same s l _)
    · exact (((Framed.refl _ _ s).setLane (by decide) l _).setStat (l := l) (by decide) rfl List.mem_cons_self false).setLaneState (by decide)
        List.mem_cons_self _
  case stepped =>
    intro l s hl hs hr
    refine ⟨_, rfl, ?_⟩
    rw [State.rateStepped_step hs, if_neg (by rw [laneLink_one_iff]; omega), if_neg (by omega), if_pos rfl]
    exact State.rateStepped_locks (by omega) _
  case decStepped =>
    intro l locked s hl hs
    refine ⟨_, rfl, ?_⟩
    rw [State.rateStepped_step hs, if_pos hl]
    refine ⟨State.laneState_setLaneState _ _ (by decide), ?_⟩
    rw [State.laneRate_setLaneState, State.laneRate_setLane, State.laneRate_setLaneRate]
  case streamFails =>
    intro l s hl hs
    refine ⟨_, rfl, ?_⟩
    rw [State.rateStepped_step hs, if_neg (by rw [laneLink_one_iff]; omega), if_pos hl, if_neg Bool.false_ne_true]
    refine ⟨State.laneState_setLaneState _ _ (by decide), ?_, ?_, ?_⟩
    · rw [State.laneLock_setLaneState, State.laneLock_setLock]
    · rw [State.flag_setLaneState _ _ _ (by decide), State.flag_setFlag_apart _ _ (Field.on_apart _ (by decide))]
      exact State.flag_setFlag _ _ _ (by decide : LNK_STAT_STEP_FAIL.fits) rfl
    · exact (((Framed.refl _ _ s).setStat (l := l) (by decide) rfl List.mem_cons_self true).setStat (l := l) (by decide) rfl
        List.mem_cons_self false).setLaneState (by decide) List.mem_cons_self _
  case decUp =>
    intro l s hl hs
    refine ⟨_, rfl, ?_⟩
    rw [State.verifyDone_verify hs, if_pos hl, State.laneUp_decision hl]
    have hc := (s.setLaneState l 5).checkStep5_framed
    refine ⟨?_, (((Framed.refl _ _ s).setLaneState (by decide) List.mem_cons_self 5)).trans (hc.mono (by decide) (by simp))⟩
    rw [State.laneState_of_reg (hc.2 _ (List.not_mem_cons_of_ne_of_not_mem (laneReg_ne (laneBlock_on l (by decide)) (by decide)) List.not_mem_nil))]
    exact State.laneState_setLaneState _ _ (by decide)
  case streamUp =>
    intro l s hl hs hv
    refine ⟨_, rfl, ?_⟩
    rw [State.verifyDone_verify hs, if_neg (by rw [laneLink_one_iff]; omega), if_pos hl, if_neg (by rw [hv]; exact Bool.false_ne_true),
      State.laneUp_stream hl]
    exact ⟨State.laneState_setLaneState _ _ (by decide), (Framed.refl _ _ s).setLaneState (by decide) List.mem_cons_self 5⟩
  case streamBad =>
    intro l s hl hs hv
    refine ⟨_, rfl, ?_⟩
    rw [State.verifyDone_verify hs, if_neg (by rw [laneLink_one_iff]; omega), if_pos hl, if_pos hv]
    refine ⟨State.laneState_setLaneState _ _ (by decide), ?_, ?_, ?_, ?_⟩
    · rw [State.laneRate_setLaneState, State.laneRate_setLaneRate]
    · rw [State.laneLock_setLaneState, State.laneLock_setLaneRate, State.laneLock_setLane, State.laneLock_setLock]
    · rw [State.flag_setLaneState _ _ _ (by decide), State.setLaneRate, State.flag_setFld_apart _ _ (Field.on_apart _ (by decide)),
        State.flag_setLane, State.flag_setFlag_apart _ _ (Field.on_apart _ (by decide))]
      exact State.flag_setFlag _ _ _ (by decide : LNK_STAT_STEP_FAIL.fits) rfl
    · exact (((((Framed.refl _ _ s).setStat (l := l) (by decide) rfl List.mem_cons_self true).setStat (l := l) (by decide) rfl List.mem_cons_self
        false).setLane (by decide) l _).setLaneRate (by decide) List.mem_cons_self 0).setLaneState (by decide) List.mem_cons_self _
  case nextStep =>
    intro l s hl hs hv hr
    refine ⟨_, rfl, ?_⟩
    have hstep : s.laneVerified l = (s.setLane l { s.lanes[l] with attempts := 0, verifyBad := false }).setLaneState l 3 := if_pos hr
    rw [State.verifyDone_verify hs, if_neg (by rw [laneLink_one_iff]; omega), if_neg (by omega), if_neg (by rw [hv]; exact Bool.false_ne_true), hstep]
    exact ⟨State.laneState_setLaneState _ _ (by decide), ((Framed.refl _ _ s).setLane (by decide) l _).setLaneState (by decide) List.mem_cons_self _⟩

end Sys2Proof.Machine

/-!
Lanes that start again, and the tests of a lane: PRBS31, eye points and the peaking code (R399, R401, R406 to R408).
-/
namespace Sys2Proof.Machine

section
variable {s : State} {l : Fin 80} {p : Path}

/-! What an access leaves of a lane -/

theorem State.seen_laneReg (s : State) (p : Path) {a : Nat} (h : laneBlock a) : (s.seen p).reg a = s.reg a := by
  refine s.seen_reg p fun hm => ?_
  simp only [List.mem_cons, List.not_mem_nil, or_false] at hm
  rcases hm with e | e | e <;> exact laneReg_ne h (by decide) e

theorem State.seen_laneState (s : State) (p : Path) (l : Fin 80) : (s.seen p).laneState l = s.laneState l :=
  State.laneState_of_reg (s.seen_laneReg p (laneBlock_on l (by decide)))

theorem State.seen_laneRetired (s : State) (p : Path) (l : Nat) : (s.seen p).laneRetired l = s.laneRetired l := by
  unfold State.laneRetired
  by_cases h : l < 32
  · rw [if_pos h, s.seen_flag p (f := ⟨STM_LANE_RET_LO, l % 32, 1⟩) (show STM_LANE_RET_LO ∉ _ by decide)]
  · rw [if_neg h, s.seen_flag p (f := ⟨STM_LANE_RET_HI, l % 32, 1⟩) (show STM_LANE_RET_HI ∉ _ by decide)]

/-- A register access of any path that completes is made of a powered module outside Fallow (R26). -/
theorem State.opens_powered {a : Nat} (h : s.opens p a) : s.mod.st.powered = true ∧ s.mod.st ≠ .fallow := by
  obtain ⟨hp, -, -⟩ := h
  unfold State.pathWorks at hp
  simp only [Bool.and_eq_true, bne_iff_ne] at hp
  exact hp.1.1

/-! Starting again -/

theorem State.lockTimeout_starts (hl : laneLink l ≠ 1) (hs : s.laneState l = 5) (hk : s.laneLock l = false) : s.lockTimeout l = s.startLane l := by
  refine if_pos ?_
  rw [hs, hk, bne_iff_ne.mpr hl]
  rfl

theorem State.lockTimeout_ignored (h : laneLink l = 1 ∨ s.laneState l ≠ 5 ∨ s.laneLock l = true) : s.lockTimeout l = s := by
  refine if_neg ?_
  rcases h with h | h | h <;> simp [h]

theorem exec_lnkRetrain (h : s.opens p (LNK_CTL + lnkOff l)) : exec (.lnkRetrain p l) s = .next ((s.seen p).retrain l) :=
  congrArg Host.Outcome.next (State.via_of_opens h fun u => u.retrain l)

theorem State.retrain_starts (hp : s.mod.st.powered = true) (hf : s.mod.st ≠ .fallow) (he : s.flag (LNK_CTL_ENABLE.on (lnkOff l)) = true)
    (hr : s.laneRetired l = false) : s.retrain l = s.startLane l := by
  refine if_pos ?_
  rw [hp, he, hr, bne_iff_ne.mpr hf]
  rfl

/-! PRBS31 -/

theorem exec_prbsTest (h : s.opens p (LNK_CTL + lnkOff l)) : exec (.prbsTest p l) s = .next ((s.seen p).prbsOrder l) :=
  congrArg Host.Outcome.next (State.via_of_opens h fun u => u.prbsOrder l)

theorem State.prbsOrder_starts (hp : s.mod.st.powered = true) (hf : s.mod.st ≠ .fallow) (hg : s.mod.st ≠ .growing) (h0 : s.laneState l ≠ 0) :
    s.prbsOrder l = s.startPrbs l := by
  refine if_pos ?_
  rw [hp, bne_iff_ne.mpr hf, bne_iff_ne.mpr hg, bne_iff_ne.mpr h0]
  rfl

theorem State.prbsOrder_growing (hg : s.mod.st = .growing) : s.prbsOrder l = s := by
  refine if_neg ?_
  rw [hg]
  simp

theorem State.startPrbs_eq (h : s.laneState l ≠ 6) : s.startPrbs l =
    ((s.laneLeaves l).setLane l { (s.laneLeaves l).lanes[l] with tested := some (s.laneState l), heads := [], goodRun := 0 }).setLaneState l 6 :=
  if_neg h

/-- The state after PRBS_DONE and the count, before the lane returns. -/
def State.prbsCounted (s : State) (l : Fin 80) (errors : Nat) : State :=
  if errors = 0 then s.setFlag (LNK_STAT_PRBS_DONE.on (lnkOff l)) true
  else ((s.setFlag (LNK_STAT_PRBS_DONE.on (lnkOff l)) true).setFlag (LNK_STAT_PRBS_FAIL.on (lnkOff l)) true).bumpBy (LNK_PRBS_ERR_CNT + lnkOff l) errors

theorem State.prbsCounted_done (s : State) (l : Fin 80) (n : Nat) : (s.prbsCounted l n).flag (LNK_STAT_PRBS_DONE.on (lnkOff l)) = true := by
  have hd : (s.setFlag (LNK_STAT_PRBS_DONE.on (lnkOff l)) true).flag (LNK_STAT_PRBS_DONE.on (lnkOff l)) = true :=
    State.flag_setFlag _ _ _ (by decide : LNK_STAT_PRBS_DONE.fits) rfl
  unfold State.prbsCounted
  split
  · exact hd
  · refine (State.flag_of_reg (State.reg_bumpBy_ne _ _ ?_)).trans ?_
    · exact add_lnkOff_ne (lnkOff l) (by decide : LNK_STAT ≠ LNK_PRBS_ERR_CNT)
    · rw [State.flag_setFlag_apart _ _ (Field.on_apart _ (by decide)), hd]

theorem State.prbsCounted_fail (s : State) (l : Fin 80) (n : Nat) : (s.prbsCounted l n).flag (LNK_STAT_PRBS_FAIL.on (lnkOff l)) =
    if n = 0 then s.flag (LNK_STAT_PRBS_FAIL.on (lnkOff l)) else true := by
  unfold State.prbsCounted
  split
  · exact State.flag_setFlag_apart _ _ (Field.on_apart _ (by decide))
  · refine (State.flag_of_reg (State.reg_bumpBy_ne _ _ ?_)).trans ?_
    · exact add_lnkOff_ne (lnkOff l) (by decide : LNK_STAT ≠ LNK_PRBS_ERR_CNT)
    · exact State.flag_setFlag _ _ _ (by decide : LNK_STAT_PRBS_FAIL.fits) rfl

/-- The lane has the state that it had before its test and searches lock again (R408). -/
def State.prbsReturned (s : State) (l : Fin 80) (st errors : Nat) : State :=
  (((s.prbsCounted l errors).setLane l { s.lanes[l] with tested := none }).setFlag (LNK_STAT_LOCK.on (lnkOff l)) false).setLaneState l st

theorem State.prbsReturned_flag (s : State) (l : Fin 80) (st n : Nat) {f : Field}
    (hs : (LNK_STAT_STATE.lo + LNK_STAT_STATE.w ≤ f.lo ∨ f.lo + f.w ≤ LNK_STAT_STATE.lo) ∧ f.fits)
    (hl : (LNK_STAT_LOCK.lo + LNK_STAT_LOCK.w ≤ f.lo ∨ f.lo + f.w ≤ LNK_STAT_LOCK.lo) ∧ f.fits) :
    (s.prbsReturned l st n).flag (f.on (lnkOff l)) = (s.prbsCounted l n).flag (f.on (lnkOff l)) := by
  rw [State.prbsReturned, State.flag_setLaneState _ _ _ hs, State.flag_setFlag_apart _ _ (Field.on_apart _ hl), State.flag_setLane]

theorem State.endPrbs_eq {st : Nat} (h : (s.lanes[l] : Lane).tested = some st) (n : Nat) : s.endPrbs l n =
    (if 56 ≤ l.val ∧ l.val < 72 ∧ st = 5 then
      (if (s.prbsReturned l st n).portLanesUp ((Fin.ofNat 4 ((l.val - 56) / 4) : Fin 4)) then
        (s.prbsReturned l st n).portUp (Fin.ofNat 4 ((l.val - 56) / 4)) else s.prbsReturned l st n)
    else if 72 ≤ l.val ∧ st = 5 then (s.prbsReturned l st n).hostLaneUp
    else s.prbsReturned l st n) := by
  unfold State.endPrbs
  dsimp only
  rw [h]
  rfl

/-- A port that comes up leaves the registers of the lanes. -/
theorem State.portUp_laneReg (s : State) (q : Fin 4) {a : Nat} (ha : laneBlock a) : (s.portUp q).reg a = s.reg a := by
  have hn : a ≠ RNG_PORT_STAT0 + 4 * q.val := laneReg_ne ha (by right; unfold RNG_PORT_STAT0; omega)
  have hc : ∀ (c : Bool) (t : State), (if c = true then { t with ring := { t.ring with rerouteDue := true } } else t).reg a = t.reg a := by
    intro c t
    split <;> rfl
  unfold State.portUp
  extract_lets bad ids ver t1 t2 port t3 t4
  have h2 : t2.reg a = s.reg a := by
    show State.reg (State.setFld _ _ _) a = _
    rw [State.reg_setFld_ne _ _ hn, State.reg_setFlag_ne _ _ hn, State.reg_setFlag_ne _ _ hn]
  split
  · exact h2
  · refine (hc _ _).trans ?_
    show State.reg (State.setFlag (State.setFlag _ _ _) _ _) a = _
    rw [State.reg_setFlag_ne _ _ hn, State.reg_setFlag_ne _ _ hn]
    exact h2

/-- What the end of a self-test shows of its lane, where no host lane returns to Up. -/
theorem State.endPrbs_lane {st : Nat} (h : (s.lanes[l] : Lane).tested = some st) (hst : l.val < 72 ∨ st ≠ 5) (n : Nat) :
    (s.endPrbs l n).reg (LNK_STAT + lnkOff l) = (s.prbsReturned l st n).reg (LNK_STAT + lnkOff l) ∧
      (s.endPrbs l n).lanes = (s.prbsReturned l st n).lanes := by
  rw [State.endPrbs_eq h]
  split
  · split
    · exact ⟨State.portUp_laneReg _ _ (laneBlock_on l (by decide)), (Keeps.portUp (.refl [.regs, .mod, .ring] _) rfl _).same .lanes rfl⟩
    · exact ⟨rfl, rfl⟩
  · rw [if_neg (by omega)]
    exact ⟨rfl, rfl⟩

/-! Eye points -/

theorem exec_eyePointStart (h : s.opens p LNK_EYE_CTL) (v : Word) : exec (.eyePointStart p v) s = .next ((s.seen p).eyeWrite v) :=
  congrArg Host.Outcome.next (State.via_of_opens h fun u => u.eyeWrite v)

theorem State.eyeWrite_starts {v : Word} (hn : (s.reg LNK_EYE_SEL).toNat % 128 = l.val) (hv : v.getLsbD 31 = true) (hs : s.laneState l = 5)
    (hl : laneLink l ≠ 1) (hb : s.flag LNK_EYE_STAT_BUSY = false) : s.eyeWrite v =
      ((s.setReg LNK_EYE_CTL (v &&& 0x01F0FF7F)).setLane l { s.lanes[l] with eyeOn := true }).setFlag LNK_EYE_STAT_BUSY true := by
  have hsel : ((s.setReg LNK_EYE_CTL (v &&& 0x01F0FF7F)).reg LNK_EYE_SEL).toNat % 128 = l.val := by
    rw [State.reg_setReg_ne _ _ (by decide), hn]
  have hbit : bitsOf v.toNat 31 1 = 1 := by
    refine Nat.eq_of_testBit_eq fun i => ?_
    rw [bitsOf_testBit]
    cases i with
    | zero => simpa [BitVec.getLsbD] using hv
    | succ i => simp [Nat.testBit_succ]
  have hst : (s.setReg LNK_EYE_CTL (v &&& 0x01F0FF7F)).laneState l = 5 :=
    (State.laneState_of_reg (State.reg_setReg_ne _ _ (laneReg_ne (laneBlock_on l (by decide)) (by decide)))).trans hs
  have hbusy : (s.setReg LNK_EYE_CTL (v &&& 0x01F0FF7F)).flag LNK_EYE_STAT_BUSY = false :=
    (State.flag_setReg_ne _ _ (by decide)).trans hb
  unfold State.eyeWrite
  dsimp only
  simp only [hsel, l.isLt, dif_pos, Fin.eta]
  exact if_pos ⟨hbit, hst, hl, hbusy⟩

/-- The results of an eye point, and its end (R407). -/
def State.eyeShown (s : State) (errors : Word) (bits : U64) : State :=
  (((({ s with lanes := s.lanes.map (fun (ln : Lane) => { ln with eyeOn := false }) } : State).setReg LNK_EYE_ERR errors).setReg64
    LNK_EYE_BITS_LO bits).setFlag LNK_EYE_STAT_BUSY false).setFlag LNK_EYE_STAT_DONE true

theorem State.eyeShown_framed (s : State) (errors : Word) (bits : U64) :
    Framed [.regs, .lanes] [LNK_EYE_ERR, LNK_EYE_BITS_LO, LNK_EYE_BITS_LO + 4, LNK_EYE_STAT] s (s.eyeShown errors bits) := by
  have h0 : Framed [.regs, .lanes] [LNK_EYE_ERR, LNK_EYE_BITS_LO, LNK_EYE_BITS_LO + 4, LNK_EYE_STAT] s
      ({ s with lanes := s.lanes.map (fun (ln : Lane) => { ln with eyeOn := false }) } : State) :=
    (Framed.refl _ _ s).area .lanes (by decide) rfl fun p hp => by
      cases p with
      | lanes => exact absurd rfl hp
      | _ => rfl
  exact ((((h0.setReg (a := LNK_EYE_ERR) (by decide) (by decide) _).setReg (a := LNK_EYE_BITS_LO) (by decide) (by decide) _).setReg
    (a := LNK_EYE_BITS_LO + 4) (by decide) (by decide) _).setFlag (f := LNK_EYE_STAT_BUSY) (by decide) (by decide) false).setFlag
      (f := LNK_EYE_STAT_DONE) (by decide) (by decide) true

theorem State.eyeShown_eyeOn (s : State) (errors : Word) (bits : U64) (k : Fin 80) : ((s.eyeShown errors bits).lanes[k] : Lane).eyeOn = false := by
  have h : (s.eyeShown errors bits).lanes = s.lanes.map (fun (ln : Lane) => { ln with eyeOn := false }) := rfl
  rw [h, Fin.getElem_fin, Vector.getElem_map]

theorem State.eyeEnds_eq (h : s.flag LNK_EYE_STAT_BUSY = true) (errors : Word) (bits : U64) : s.eyeEnds errors bits =
    if bits.toNat < (s.eyeShown errors bits).eyeDwell then (s.eyeShown errors bits).setFlag LNK_EYE_STAT_ABORTED true else s.eyeShown errors bits :=
  if_pos h

theorem State.eyeShown_dwell (s : State) (errors : Word) (bits : U64) : (s.eyeShown errors bits).eyeDwell = s.eyeDwell := by
  unfold State.eyeDwell
  rw [State.fld_of_reg ((s.eyeShown_framed errors bits).2 _ (by decide))]

theorem State.eyeShown_err (s : State) (errors : Word) (bits : U64) : (s.eyeShown errors bits).reg LNK_EYE_ERR = errors := by
  rw [State.eyeShown, State.reg_setFlag_ne _ _ (by decide), State.reg_setFlag_ne _ _ (by decide), State.reg_setReg64_ne _ _ (by decide) (by decide),
    State.reg_setReg]

theorem State.eyeShown_bits (s : State) (errors : Word) (bits : U64) : (s.eyeShown errors bits).reg64 LNK_EYE_BITS_LO = bits := by
  unfold State.eyeShown
  rw [State.reg64_of_reg (State.reg_setFlag_ne _ _ (by decide)) (State.reg_setFlag_ne _ _ (by decide)),
    State.reg64_of_reg (State.reg_setFlag_ne _ _ (by decide)) (State.reg_setFlag_ne _ _ (by decide)), State.reg64_setReg64]

theorem State.eyeShown_busy (s : State) (errors : Word) (bits : U64) : (s.eyeShown errors bits).flag LNK_EYE_STAT_BUSY = false := by
  rw [State.eyeShown, State.flag_setFlag_apart _ _ (by decide), State.flag_setFlag _ _ _ (by decide) rfl]

theorem State.eyeShown_done (s : State) (errors : Word) (bits : U64) : (s.eyeShown errors bits).flag LNK_EYE_STAT_DONE = true := by
  rw [State.eyeShown, State.flag_setFlag _ _ _ (by decide) rfl]

/-- An eye point reports; it was ended early where it compared too few bits (R407). -/
theorem State.eyeEnds_reports (h : s.flag LNK_EYE_STAT_BUSY = true) (errors : Word) (bits : U64) :
    (s.eyeEnds errors bits).flag LNK_EYE_STAT_BUSY = false ∧ (s.eyeEnds errors bits).flag LNK_EYE_STAT_DONE = true ∧
      (s.eyeEnds errors bits).reg LNK_EYE_ERR = errors ∧ (s.eyeEnds errors bits).reg64 LNK_EYE_BITS_LO = bits ∧
      (∀ l : Fin 80, ((s.eyeEnds errors bits).lanes[l] : Lane).eyeOn = false) ∧
      (bits.toNat < s.eyeDwell → (s.eyeEnds errors bits).flag LNK_EYE_STAT_ABORTED = true) ∧
      Framed [.regs, .lanes] [LNK_EYE_ERR, LNK_EYE_BITS_LO, LNK_EYE_BITS_LO + 4, LNK_EYE_STAT] s (s.eyeEnds errors bits) := by
  rw [State.eyeEnds_eq h, State.eyeShown_dwell]
  have hbusy := s.eyeShown_busy errors bits
  have hdone := s.eyeShown_done errors bits
  have herr := s.eyeShown_err errors bits
  have hbits := s.eyeShown_bits errors bits
  have heye := s.eyeShown_eyeOn errors bits
  have hfr := s.eyeShown_framed errors bits
  generalize s.eyeShown errors bits = u at hbusy hdone herr hbits heye hfr ⊢
  split
  · refine ⟨?_, ?_, ?_, ?_, heye, fun _ => State.flag_setFlag _ _ _ (by decide) rfl, hfr.setFlag (by decide) (by decide) true⟩
    · rw [State.flag_setFlag_apart _ _ (by decide), hbusy]
    · rw [State.flag_setFlag_apart _ _ (by decide), hdone]
    · rw [State.reg_setFlag_ne _ _ (by decide), herr]
    · rw [State.reg64_of_reg (State.reg_setFlag_ne _ _ (by decide)) (State.reg_setFlag_ne _ _ (by decide)), hbits]
  · rename_i hd
    exact ⟨hbusy, hdone, herr, hbits, heye, fun hlt => absurd hlt hd, hfr⟩

/-! The peaking code -/

theorem State.peakMoves_step (hs : s.laneState l = 5) (ha : s.flag (LNK_EQ_AUTO.on (lnkOff l)) = false)
    (hb : 1024 ≤ (s.lanes[l] : Lane).blocksToPeak)
    (hne : s.fld (LNK_EQ_PEAK_USED.on (lnkOff l)) ≠ s.fld (LNK_EQ_PEAK.on (lnkOff l))) : s.peakMoves l =
      (s.setLane l { s.lanes[l] with blocksToPeak := 0 }).setFld (LNK_EQ_PEAK_USED.on (lnkOff l))
        (if s.fld (LNK_EQ_PEAK_USED.on (lnkOff l)) < s.fld (LNK_EQ_PEAK.on (lnkOff l)) then s.fld (LNK_EQ_PEAK_USED.on (lnkOff l)) + 1
         else s.fld (LNK_EQ_PEAK_USED.on (lnkOff l)) - 1) :=
  if_pos ⟨hs, ha, hne, hb⟩

end

/-- Settles O23: a start of a lane as `startLane_*` says it, and each test of a lane by its own equation. -/
theorem lanesStartAgainAndAreTested : Obligations.LanesStartAgainAndAreTested := by
  unfold Obligations.LanesStartAgainAndAreTested
  refine ⟨?timeout, ?ignored, ?retrain, ?prbs, ?prbsGrowing, ?prbsEnds, ?eyeStarts, ?eyeEnds, ?peak⟩
  case timeout =>
    intro l s hl hs hk hb
    refine ⟨_, rfl, ?_⟩
    rw [State.lockTimeout_starts hl hs hk]
    exact ⟨(s.startLane_state l).trans (if_neg hl), s.startLane_rate l, s.startLane_lock l, s.startLane_count l hb, s.startLane_peer l⟩
  case ignored => exact fun l s h => congrArg Host.Outcome.next (State.lockTimeout_ignored h)
  case retrain =>
    intro p l s ho he hr
    obtain ⟨hp, hf⟩ := State.opens_powered ho
    refine ⟨_, exec_lnkRetrain ho, ?_⟩
    rw [State.retrain_starts (by rwa [State.seen_st]) (by rwa [State.seen_st])
      ((State.flag_of_reg (s.seen_laneReg p (laneBlock_on l (by decide)))).trans he) (by rwa [State.seen_laneRetired])]
    exact ⟨State.startLane_state _ l, State.startLane_rate _ l, State.startLane_lock _ l⟩
  case prbs =>
    intro p l s ho hg h0 h6
    obtain ⟨hp, hf⟩ := State.opens_powered ho
    have hs := s.seen_laneState p l
    refine ⟨_, exec_prbsTest ho, ?_⟩
    rw [State.prbsOrder_starts (by rwa [State.seen_st]) (by rwa [State.seen_st]) (by rwa [State.seen_st]) (by rwa [hs]),
      State.startPrbs_eq (by rwa [hs]), hs]
    exact ⟨State.laneState_setLaneState _ _ (by decide), congrArg Lane.tested (State.setLane_same _ l _)⟩
  case prbsGrowing =>
    intro p l s ho hg
    rw [exec_prbsTest ho, State.prbsOrder_growing (by rwa [State.seen_st])]
  case prbsEnds =>
    intro l n st s ht hst hlt
    refine ⟨_, rfl, ?_⟩
    obtain ⟨hr, hl⟩ := State.endPrbs_lane ht hst n
    refine ⟨?_, ?_, ?_, ?_, fun hn => ?_, fun hn => ?_⟩
    · rw [State.laneState_of_reg hr]
      exact State.laneState_setLaneState _ _ hlt
    · rw [hl]
      exact congrArg Lane.tested (State.setLane_same (s.prbsCounted l n) l _)
    · rw [State.laneLock_of_reg hr, State.prbsReturned, State.laneLock_setLaneState, State.laneLock_setLock]
    · rw [State.flag_of_reg (f := LNK_STAT_PRBS_DONE.on (lnkOff l)) hr, State.prbsReturned_flag _ _ _ _ (by decide) (by decide),
        State.prbsCounted_done]
    · rw [State.flag_of_reg (f := LNK_STAT_PRBS_FAIL.on (lnkOff l)) hr, State.prbsReturned_flag _ _ _ _ (by decide) (by decide),
        State.prbsCounted_fail, if_neg hn]
    · rw [State.flag_of_reg (f := LNK_STAT_PRBS_FAIL.on (lnkOff l)) hr, State.prbsReturned_flag _ _ _ _ (by decide) (by decide),
        State.prbsCounted_fail, if_pos hn]
  case eyeStarts =>
    intro p v l s ho hn hv hs hl hb
    refine ⟨_, exec_eyePointStart ho v, ?_⟩
    rw [State.eyeWrite_starts (l := l) (by rwa [s.seen_reg p (by decide)]) hv (by rwa [s.seen_laneState]) hl
      (by rwa [s.seen_flag p (by decide)])]
    refine ⟨State.flag_setFlag _ _ _ (by decide) rfl, congrArg Lane.eyeOn (State.setLane_same _ l _), ?_, ?_⟩
    · rw [State.reg_setFlag_ne _ _ (by decide), State.reg_setLane, State.reg_setReg]
    · exact (((Framed.refl _ _ _).setReg (by decide) (by decide) _).setLane (by decide) l _).setFlag (by decide) (by decide) true
  case eyeEnds =>
    intro errors bits s h
    exact ⟨_, rfl, State.eyeEnds_reports h errors bits⟩
  case peak =>
    intro l s hs ha hb hne
    refine ⟨_, rfl, ?_⟩
    rw [State.peakMoves_step hs ha hb hne]
    have hlt : ∀ f : Field, s.fld f < 2 ^ f.w := fun f => s.fld_lt f
    have hu := hlt (LNK_EQ_PEAK_USED.on (lnkOff l))
    have hp := hlt (LNK_EQ_PEAK.on (lnkOff l))
    refine ⟨congrArg Lane.blocksToPeak (State.setLane_same s l _), ?_, ?_⟩
    · refine (State.fld_setFld _ (LNK_EQ_PEAK_USED.on (lnkOff l)) _ (by decide : LNK_EQ_PEAK_USED.fits)).trans (Nat.mod_eq_of_lt ?_)
      have hw : (LNK_EQ_PEAK_USED.on (lnkOff l)).w = (LNK_EQ_PEAK.on (lnkOff l)).w := rfl
      rw [hw] at hu ⊢
      split <;> omega
    · exact ((Framed.refl _ _ s).setLane (by decide) l _).setFld (f := LNK_EQ_PEAK_USED.on (lnkOff l)) (by decide) List.mem_cons_self _

end Sys2Proof.Machine

/-!
Blocks that a lane receives: block lock and delivery (R397, R398).
-/
namespace Sys2Proof.Machine

section
variable (s : State) (l : Fin 80) (line : BitVec 1032)

/-! Receiving -/

/-- The block that a receiver takes. -/
def State.blockTaken : RxBlock := receiveBlock s.lanes[l].rx (s.flag (LNK_STAT_INVERTED.on (lnkOff l))) line

/-- Consecutive blocks that suggest an inverted lane, this one included (R402). -/
def State.inversionsSeen : Nat :=
  if s.laneState l = 1 ∧ (s.blockTaken l line).header.toNat % 4 = 2 then s.lanes[l].invSeen + 1 else 0

/-- The lane before its header is counted. -/
def State.laneTaking : Lane := { s.lanes[l] with rx := (s.blockTaken l line).run, invSeen := s.inversionsSeen l line }

/-- The header counted for block lock, and whether the lane is in lock after it (R398). -/
def State.headCounted : Lane × Bool := (s.laneTaking l line).countHead (s.laneLock l) (!(s.blockTaken l line).headerBad)

/-- The lane once it has taken the block. -/
def State.laneHeard : Lane :=
  { (s.headCounted l line).1 with
    blocksToPeak := if s.laneState l = 5 then (s.headCounted l line).1.blocksToPeak + 1 else (s.headCounted l line).1.blocksToPeak }

/-- The state in which the lane has taken the block; an inverted lane out of lock is turned (R402). -/
def State.blockHeard : State :=
  if s.inversionsSeen l line = 64 ∧ !s.laneLock l then
    ((s.setLane l (s.laneHeard l line)).setLane l { s.laneHeard l line with
      heads := [], goodRun := 0, invSeen := 0, rx := ⟨!(s.laneHeard l line).rx.last, (s.laneHeard l line).rx.run⟩ }).setFlag
        (LNK_STAT_INVERTED.on (lnkOff l)) true
  else s.setLane l (s.laneHeard l line)

theorem State.blockTaken_eq : s.blockTaken l line = receiveBlock s.lanes[l].rx (s.flag (LNK_STAT_INVERTED.on (lnkOff l))) line := rfl

theorem State.receiveLine_eq : s.receiveLine l line =
    if s.laneLock l then
      (if (s.headCounted l line).2 then (s.blockHeard l line).deliverBlock l (s.blockTaken l line) else (s.blockHeard l line).lockLost l)
    else if (s.headCounted l line).2 then (s.blockHeard l line).lockGained l
    else s.blockHeard l line := rfl

theorem State.blockHeard_framed : Framed [.regs, .lanes] [LNK_STAT + lnkOff l] s (s.blockHeard l line) := by
  unfold State.blockHeard
  split
  · exact (((Framed.refl _ _ s).setLane (by decide) l _).setLane (by decide) l _).setStat (l := l) (f := LNK_STAT_INVERTED) (by decide) rfl
      List.mem_cons_self true
  · exact (Framed.refl _ _ s).setLane (by decide) l _

theorem State.blockHeard_ne {k : Fin 80} (h : k ≠ l) : ((s.blockHeard l line).lanes[k] : Lane) = s.lanes[k] := by
  unfold State.blockHeard
  split
  · exact (State.setLane_ne (s.setLane l _) _ h).trans (State.setLane_ne s _ h)
  · exact State.setLane_ne s _ h

theorem State.blockHeard_state : (s.blockHeard l line).laneState l = s.laneState l := by
  unfold State.blockHeard
  split
  · rw [State.laneState_setFlag _ _ _ (by decide), State.laneState_setLane, State.laneState_setLane]
  · rfl

theorem State.blockHeard_lock : (s.blockHeard l line).laneLock l = s.laneLock l := by
  unfold State.blockHeard
  split
  · unfold State.laneLock
    rw [State.flag_setFlag_apart _ _ (Field.on_apart _ (by decide)), State.flag_setLane, State.flag_setLane]
  · rfl

/-- In lock nothing is turned. -/
theorem State.blockHeard_locked (h : s.laneLock l = true) : s.blockHeard l line = s.setLane l (s.laneHeard l line) :=
  if_neg (by rw [h]; simp)

/-- Out of lock the 64th good header in a row gains it (R398). -/
theorem Lane.countHead_open (ln : Lane) (good : Bool) : (ln.countHead false good).2 = decide (64 ≤ if good then ln.goodRun + 1 else 0) := by
  unfold Lane.countHead
  dsimp only
  generalize (if good = true then ln.goodRun + 1 else 0) = run
  rw [if_neg Bool.false_ne_true]
  split
  · rename_i h
    exact (decide_eq_true h).symm
  · rename_i h
    exact (decide_eq_false h).symm

/-- In lock the 16th wrong header of 64 loses it (R398). -/
theorem Lane.countHead_locked (ln : Lane) (good : Bool) :
    (ln.countHead true good).2 = decide ((((good :: ln.heads).take 64).filter (fun g => !g)).length < 16) := by
  unfold Lane.countHead
  dsimp only
  rw [if_pos rfl]
  split
  · rename_i h
    exact (decide_eq_false (Nat.not_lt.mpr h)).symm
  · rename_i h
    exact (decide_eq_true (Nat.not_le.mp h)).symm

theorem Lane.countHead_eyeOn (ln : Lane) (lock good : Bool) : (ln.countHead lock good).1.eyeOn = ln.eyeOn := by
  unfold Lane.countHead
  dsimp only
  generalize (if good = true then ln.goodRun + 1 else 0) = run
  split
  · split <;> rfl
  · split <;> rfl

theorem State.laneTaking_eyeOn : (s.laneTaking l line).eyeOn = (s.lanes[l] : Lane).eyeOn := by
  unfold State.laneTaking
  dsimp only

theorem State.laneTaking_goodRun : (s.laneTaking l line).goodRun = (s.lanes[l] : Lane).goodRun := by
  unfold State.laneTaking
  dsimp only

theorem State.laneTaking_heads : (s.laneTaking l line).heads = (s.lanes[l] : Lane).heads := by
  unfold State.laneTaking
  dsimp only

theorem State.laneHeard_eyeOn : (s.laneHeard l line).eyeOn = (s.lanes[l] : Lane).eyeOn := by
  unfold State.laneHeard State.headCounted
  dsimp only
  rw [Lane.countHead_eyeOn, State.laneTaking_eyeOn]

theorem State.headCounted_open (h : s.laneLock l = false) :
    (s.headCounted l line).2 = decide (64 ≤ if !(s.blockTaken l line).headerBad then (s.lanes[l] : Lane).goodRun + 1 else 0) := by
  unfold State.headCounted
  rw [h, Lane.countHead_open, State.laneTaking_goodRun]

theorem State.headCounted_locked (h : s.laneLock l = true) : (s.headCounted l line).2 =
    decide (((((!(s.blockTaken l line).headerBad) :: (s.lanes[l] : Lane).heads).take 64).filter (fun g => !g)).length < 16) := by
  unfold State.headCounted
  rw [h, Lane.countHead_locked, State.laneTaking_heads]

theorem State.lockGained_framed : Framed [.regs] [LNK_STAT + lnkOff l] s (s.lockGained l) := by
  unfold State.lockGained
  have h : Framed [.regs] [LNK_STAT + lnkOff l] s (s.setFlag (LNK_STAT_LOCK.on (lnkOff l)) true) :=
    (Framed.refl _ _ s).setStat (l := l) (f := LNK_STAT_LOCK) (by decide) rfl List.mem_cons_self true
  dsimp only
  split
  · exact h.setLaneState (by decide) List.mem_cons_self 2
  · exact h

theorem State.lockGained_lock : (s.lockGained l).laneLock l = true := by
  unfold State.lockGained
  dsimp only
  split
  · rw [State.laneLock_setLaneState, State.laneLock_setLock]
  · exact State.laneLock_setLock _ _ _

theorem State.lockGained_state : (s.lockGained l).laneState l = if s.laneState l = 1 then 2 else s.laneState l := by
  unfold State.lockGained
  dsimp only
  rw [State.laneState_setFlag _ _ _ (by decide)]
  split
  · exact State.laneState_setLaneState _ _ (by decide)
  · exact State.laneState_setFlag _ _ _ (by decide)

/-- Lock is lost on a lane that is no stream lane, with no scan running (R398). -/
theorem State.lockLost_eq (h : 48 ≤ l.val) (he : (s.lanes[l] : Lane).eyeOn = false) : s.lockLost l =
    ((s.setFlag (LNK_STAT_LOCK.on (lnkOff l)) false).setFlag (LNK_STAT_LOCK_LOSS.on (lnkOff l)) true).bump (LNK_LOCK_LOSS_CNT + lnkOff l) := by
  have ha : s.abortEye l = s := if_neg (by rw [he]; exact Bool.false_ne_true)
  unfold State.lockLost
  dsimp only
  rw [ha, if_neg (by omega), if_neg (by omega)]

theorem State.lockLost_shows (h : 48 ≤ l.val) (he : (s.lanes[l] : Lane).eyeOn = false) :
    (s.lockLost l).laneLock l = false ∧ (s.lockLost l).flag (LNK_STAT_LOCK_LOSS.on (lnkOff l)) = true ∧
      (s.lockLost l).reg (LNK_LOCK_LOSS_CNT + lnkOff l) = bumped (s.reg (LNK_LOCK_LOSS_CNT + lnkOff l)) ∧
      Framed [.regs] [LNK_STAT + lnkOff l, LNK_LOCK_LOSS_CNT + lnkOff l] s (s.lockLost l) := by
  rw [State.lockLost_eq _ _ h he]
  have hne : LNK_STAT + lnkOff l ≠ LNK_LOCK_LOSS_CNT + lnkOff l := add_lnkOff_ne _ (by decide)
  refine ⟨?_, ?_, ?_, ?_⟩
  · rw [State.laneLock_of_reg (State.reg_bump_ne _ hne)]
    unfold State.laneLock
    rw [State.flag_setFlag_apart _ _ (Field.on_apart _ (by decide))]
    exact State.laneLock_setLock s l false
  · rw [State.flag_bump_ne (f := LNK_STAT_LOCK_LOSS.on (lnkOff l)) _ hne]
    exact State.flag_setFlag _ _ _ (by decide : LNK_STAT_LOCK_LOSS.fits) rfl
  · rw [State.reg_bump_bumped, State.reg_setFlag_ne _ _ hne.symm, State.reg_setFlag_ne _ _ hne.symm]
  · exact (((Framed.refl _ _ s).setStat (l := l) (f := LNK_STAT_LOCK) (by decide) rfl List.mem_cons_self false).setStat (l := l)
      (f := LNK_STAT_LOCK_LOSS) (by decide) rfl List.mem_cons_self true).bump (by decide) (List.mem_cons_of_mem _ List.mem_cons_self)

/-- A block that has not failed has no code error and a good header. -/
theorem receiveBlock_good {r : RunState} {i : Bool} {line : BitVec 1032} (h : (receiveBlock r i line).failed = false) :
    (receiveBlock r i line).codeError = false ∧ (receiveBlock r i line).headerBad = false := by
  unfold receiveBlock at h ⊢
  dsimp only at h ⊢
  simp only [Bool.or_eq_false_iff] at h
  obtain ⟨⟨hcode, hbad⟩, -⟩ := h
  exact ⟨by simpa using hcode, by simpa using hbad⟩

theorem State.blockTaken_good {s : State} {l : Fin 80} {line : BitVec 1032} (h : (s.blockTaken l line).failed = false) :
    (s.blockTaken l line).codeError = false ∧ (s.blockTaken l line).headerBad = false := by
  unfold State.blockTaken at h ⊢
  exact receiveBlock_good h

/-- A good data block of a lane without stream items is counted and nothing else (R397). -/
theorem State.deliverBlock_data {b : RxBlock} (h : 48 ≤ l.val) (hf : b.failed = false) (hc : b.codeError = false) (hh : b.headerBad = false)
    (hk : b.kind = 0) : s.deliverBlock l b = s.bump64 (LNK_BLOCKS_LO + lnkOff l) 1 := by
  have he : (s.bump64 (LNK_BLOCKS_LO + lnkOff l) 1).countBlockErrors l b = s.bump64 (LNK_BLOCKS_LO + lnkOff l) 1 := by
    unfold State.countBlockErrors
    dsimp only
    rw [hc, hh, hk]
    rfl
  unfold State.deliverBlock
  dsimp only
  rw [he, hf, hk, if_neg Bool.false_ne_true, if_neg (by decide), if_neg (by omega)]

theorem exec_laneBlockReceived {s : State} {l : Fin 80} (h : s.receives l = true) (line : BitVec 1032) :
    exec (.laneBlockReceived l line) s = .next (s.receiveLine l line) := congrArg Host.Outcome.next (if_pos h)

/-- Registers that hold a 64-bit count. -/
theorem Framed.bump64 {A : List Area} {R : List Nat} {r s : State} (h : Framed A R r s) (hA : Area.regs ∈ A) {a : Nat} (ha : a ∈ R) (hb : a + 4 ∈ R)
    (n : Nat) : Framed A R r (s.bump64 a n) := (h.setReg hA ha _).setReg hA hb _

theorem State.reg64_bump64 (s : State) (a n : Nat) : (s.bump64 a n).reg64 a = s.reg64 a + BitVec.ofNat 64 n := State.reg64_setReg64 _ _ _

end

/-- Settles O24: the header counted, then the block delivered, lock gained or lost. -/
theorem blocksAreReceived : Obligations.BlocksAreReceived := by
  unfold Obligations.BlocksAreReceived
  refine ⟨?gains, ?loses, ?data, ?noLock, ?deaf⟩
  case gains =>
    intro l line s hr hk hg hb
    rw [← State.blockTaken_eq] at hb
    refine ⟨_, exec_laneBlockReceived hr line, ?_⟩
    have hc : (s.headCounted l line).2 = true := by
      rw [State.headCounted_open _ _ _ hk, hg, hb]
      rfl
    rw [State.receiveLine_eq, hk, if_neg Bool.false_ne_true, if_pos hc]
    refine ⟨State.lockGained_lock _ l, ?_, (s.blockHeard_framed l line).trans ((State.lockGained_framed _ l).mono (by decide) (by simp))⟩
    rw [State.lockGained_state, State.blockHeard_state]
  case loses =>
    intro l line s hr hl hk he hb hw
    rw [← State.blockTaken_eq] at hb
    refine ⟨_, exec_laneBlockReceived hr line, ?_⟩
    have hc : (s.headCounted l line).2 = false := by
      rw [State.headCounted_locked _ _ _ hk, hb]
      refine decide_eq_false ?_
      simp only [List.take_succ_cons, Bool.not_true, Bool.not_false, List.filter_cons_of_pos, List.length_cons]
      omega
    rw [State.receiveLine_eq, if_pos hk, hc, if_neg Bool.false_ne_true, State.blockHeard_locked _ _ _ hk]
    have he' : ((s.setLane l (s.laneHeard l line)).lanes[l] : Lane).eyeOn = false := by
      rw [State.setLane_same, State.laneHeard_eyeOn, he]
    obtain ⟨hlock, hflag, hreg, hfr⟩ := State.lockLost_shows (s.setLane l (s.laneHeard l line)) l hl he'
    exact ⟨hlock, hflag, hreg, ((Framed.refl _ _ s).setLane (by decide) l _).trans (hfr.mono (by decide) (by simp))⟩
  case data =>
    intro l line s hr hl hk hf h0 hw
    rw [← State.blockTaken_eq] at hf h0
    refine ⟨_, exec_laneBlockReceived hr line, ?_⟩
    obtain ⟨hcode, hbad⟩ := State.blockTaken_good hf
    have hc : (s.headCounted l line).2 = true := by
      rw [State.headCounted_locked _ _ _ hk, hbad]
      refine decide_eq_true ?_
      simpa only [List.take_succ_cons, Bool.not_false, Bool.not_true, List.filter_cons_of_neg, Bool.false_eq_true, not_false_eq_true] using hw
    rw [State.receiveLine_eq, if_pos hk, if_pos hc, State.blockHeard_locked _ _ _ hk,
      State.deliverBlock_data _ _ hl (b := s.blockTaken l line) hf hcode hbad h0]
    refine ⟨State.reg64_bump64 _ _ _, ((Framed.refl _ _ s).setLane (by decide) l _).bump64 (by decide) List.mem_cons_self ?_ 1⟩
    have : LNK_BLOCKS_LO + lnkOff l + 4 = LNK_BLOCKS_HI + lnkOff l := by unfold LNK_BLOCKS_LO LNK_BLOCKS_HI; omega
    rw [this]
    exact List.mem_cons_of_mem _ List.mem_cons_self
  case noLock =>
    intro l line s hr hk
    refine ⟨_, exec_laneBlockReceived hr line, ?_⟩
    rw [State.receiveLine_eq, hk, if_neg Bool.false_ne_true, ← State.blockTaken_eq]
    have hheard := s.blockHeard_framed l line
    have hne := fun k (h : k ≠ l) => s.blockHeard_ne l line h
    have hlock := (s.blockHeard_lock l line).trans hk
    have hcount := s.headCounted_open l line hk
    generalize s.blockHeard l line = u, (s.headCounted l line).2 = c, (s.blockTaken l line).headerBad = b at *
    have hgain := State.lockGained_framed u l
    cases c with
    | true =>
      refine ⟨fun k h => ?_, fun hb => ?_, hheard.trans (hgain.mono (by decide) (by simp))⟩
      · rw [if_pos rfl, hgain.1 .lanes (by decide), hne k h]
      · rw [hb] at hcount
        exact absurd hcount (by simp)
    | false => exact ⟨hne, fun _ => hlock, hheard⟩
  case deaf => exact fun l line s h => congrArg Host.Outcome.next (if_neg (by rw [h]; exact Bool.false_ne_true))

end Sys2Proof.Machine

/-!
Blocks that a lane sends (R395, R399, R409), and the move of a failed decision lane to its spare (R352, R429).
-/
namespace Sys2Proof.Machine

section
variable (s : State) (l : Fin 80)

/-! Sending -/

/-- `t` is `s` once the lane has sent one block: what was taken for the block leaves the lanes and their registers. -/
def Sends (l : Fin 80) (s t : State) : Prop :=
  ∃ u b, t = State.sendLine u l b ∧ u.lanes = s.lanes ∧ ∀ a, laneBlock a → u.reg a = s.reg a

theorem Sends.of_keeps {u : State} {b : SentBlock} {T : List Area} (k : Keeps T s u) (hr : Area.regs ∉ T) (hl : Area.lanes ∉ T) :
    Sends l s (u.sendLine l b) :=
  ⟨u, b, rfl, k.only .lanes hl, fun _ _ => State.reg_congr (k.only .regs hr) _⟩

theorem State.sendLine_ne (b : SentBlock) {k : Fin 80} (h : k ≠ l) : ((s.sendLine l b).lanes[k] : Lane) = s.lanes[k] := by
  have hs : ((s.setLane l { s.lanes[l] with tx := b.run, line := lineWord b.line }).lanes[k] : Lane) = s.lanes[k] := State.setLane_ne s _ h
  unfold State.sendLine
  dsimp only
  split
  · exact hs
  · exact hs

theorem State.sendLine_same (b : SentBlock) :
    ((s.sendLine l b).lanes[l] : Lane) = { s.lanes[l] with tx := b.run, line := lineWord b.line } := by
  have hs := State.setLane_same s l { s.lanes[l] with tx := b.run, line := lineWord b.line }
  unfold State.sendLine
  dsimp only
  split
  · exact hs
  · exact hs

theorem State.sendLine_blocks (b : SentBlock) : (s.sendLine l b).reg64 (LNK_BLOCKS_LO + lnkOff l) = s.reg64 (LNK_BLOCKS_LO + lnkOff l) + 1 := by
  have hs := State.reg64_bump64 (s.setLane l { s.lanes[l] with tx := b.run, line := lineWord b.line }) (LNK_BLOCKS_LO + lnkOff l) 1
  unfold State.sendLine
  dsimp only
  split
  · refine Eq.trans (State.reg64_of_reg ?_ ?_) hs
    · rw [State.reg_bump_ne _ (add_lnkOff_ne _ (by decide)), State.reg_setFlag_ne _ _ (add_lnkOff_ne _ (by decide))]
    · have h4 : LNK_BLOCKS_LO + lnkOff l + 4 = LNK_BLOCKS_HI + lnkOff l := by unfold LNK_BLOCKS_LO LNK_BLOCKS_HI; omega
      rw [h4, State.reg_bump_ne _ (add_lnkOff_ne _ (by decide)), State.reg_setFlag_ne _ _ (add_lnkOff_ne _ (by decide))]
  · exact hs

/-- One block is counted, and no other lane changes. -/
theorem Sends.shows {s t : State} {l : Fin 80} (h : Sends l s t) :
    t.reg64 (LNK_BLOCKS_LO + lnkOff l) = s.reg64 (LNK_BLOCKS_LO + lnkOff l) + 1 ∧ ∀ k : Fin 80, k ≠ l → (t.lanes[k] : Lane) = s.lanes[k] := by
  obtain ⟨u, b, rfl, hl, hr⟩ := h
  have h4 : LNK_BLOCKS_LO + lnkOff l + 4 = LNK_BLOCKS_HI + lnkOff l := by unfold LNK_BLOCKS_LO LNK_BLOCKS_HI; omega
  refine ⟨?_, fun k hk => by rw [State.sendLine_ne _ _ _ hk, hl]⟩
  rw [State.sendLine_blocks, State.reg64_of_reg (hr _ (laneBlock_on l (by decide))) (by rw [h4]; exact hr _ (laneBlock_on l (by decide)))]

theorem State.sendIdle_sends : Sends l s (s.sendIdle l) := ⟨s, _, rfl, rfl, fun _ _ => rfl⟩

theorem State.sendTraining_sends : Sends l s (s.sendTraining l) := ⟨s.drawNat.2.drawNat.2, _, rfl, rfl, fun _ _ => rfl⟩

/-- A decision block, or an erase block in its place, with the placement delay that it shows (R427). -/
theorem State.decSend_sends {u : State} (hl : u.lanes = s.lanes) (hr : u.regs = s.regs) (b : SentBlock) (n : Nat) :
    Sends l s ((if b.erased then u else u.raiseFld ⟨DEC_PLACE_MAX, 0, 16⟩ n).sendLine l b) := by
  refine ⟨_, b, rfl, ?_, fun a ha => ?_⟩
  · split
    · exact hl
    · exact hl
  · split
    · exact State.reg_congr hr a
    · unfold State.raiseFld
      rw [State.reg_setFld_ne _ _ (laneReg_ne ha (show DEC_PLACE_MAX < 0x90000 ∨ 0x95000 ≤ DEC_PLACE_MAX by decide))]
      exact State.reg_congr hr a

theorem State.decBlock_sends (carries : Bool) : Sends l s (s.decBlock l carries) := by
  unfold State.decBlock
  dsimp only
  generalize s.logicalLane (l.val - 48) = logical
  cases logical with
  | none =>
    cases carries with
    | true => exact s.decSend_sends l rfl rfl _ _
    | false => exact s.sendIdle_sends l
  | some i =>
    cases carries with
    | true =>
      rw [if_pos rfl]
      dsimp only
      refine State.decSend_sends s l ?_ ?_ _ _
      · rfl
      · rfl
    | false => exact ⟨_, _, rfl, rfl, fun _ _ => rfl⟩

theorem State.ringBlock_sends : Sends l s (s.ringBlock l) := by
  unfold State.ringBlock
  extract_lets pi i t1 q q1 body q2
  have hk : Keeps [.aug, .ring] s t1 := by
    show Keeps _ s (if i = 0 then s.gatherMirror else s)
    split
    · exact Keeps.gatherMirror (.refl _ s) rfl
    · exact .refl _ s
  exact ⟨t1.setPort pi q2, _, rfl, hk.same .lanes rfl, fun a _ => State.reg_congr (hk.same .regs rfl) a⟩

theorem State.hostCell_sends : Sends l s (s.hostCell l) := by
  have hk : Keeps [.eng, .hst, .free] s (match State.nextCell s with | some y => y.2 | none => s) := Keeps.cellLeft (.refl _ s) rfl
  have hh : ∀ (u : State) (h : Hst), Keeps [.eng, .hst, .free] s u → Keeps [.eng, .hst, .free] s { u with hst := h } := fun u h k =>
    k.fields fun p => by
      cases p with
      | hst => exact .inl (by decide)
      | _ => exact .inr rfl
  unfold State.hostCell
  dsimp only
  split
  · exact Sends.of_keeps _ _ (hh _ _ (Keeps.drawBytes (Keeps.drawNat hk rfl) rfl 112)) (by decide) (by decide)
  · exact Sends.of_keeps _ _ (hh _ _ (Keeps.drawNat (hh _ _ (Keeps.drawBytes (Keeps.drawNat hk rfl) rfl 112)) rfl)) (by decide) (by decide)

theorem State.trafficBlock_sends : Sends l s (s.trafficBlock l) := by
  unfold State.trafficBlock
  split
  · exact s.decBlock_sends l _
  · split
    · exact s.ringBlock_sends l
    · exact s.sendIdle_sends l
  · split
    · exact s.hostCell_sends l
    · exact s.sendIdle_sends l

/-- A transmitter that is on, in a powered module outside Fallow. -/
theorem State.txBlock_on (hl : laneLink l ≠ 0) (ho : s.mod.st ≠ .off) (hf : s.mod.st ≠ .fallow) (h0 : s.laneState l ≠ 0) : s.txBlock l =
    if s.txIdle l then (if laneLink l = 1 then s.decBlock l false else s.sendIdle l)
    else if s.laneState l = 5 then s.trafficBlock l
    else if 1 ≤ s.laneState l ∧ s.laneState l ≤ 4 then s.sendTraining l
    else s.sendIdle l := by
  have hp : s.mod.st.powered = true := by
    cases h : s.mod.st with
    | off => exact absurd h ho
    | _ => rfl
  unfold State.txBlock
  dsimp only
  rw [if_neg (by rw [hp]; simp [hl, h0]), if_neg hf]

theorem State.txBlock_sends (hl : laneLink l ≠ 0) (ho : s.mod.st ≠ .off) (hf : s.mod.st ≠ .fallow) (h0 : s.laneState l ≠ 0) :
    Sends l s (s.txBlock l) := by
  rw [s.txBlock_on l hl ho hf h0]
  split
  · split
    · exact s.decBlock_sends l _
    · exact s.sendIdle_sends l
  · split
    · exact s.trafficBlock_sends l
    · split
      · exact s.sendTraining_sends l
      · exact s.sendIdle_sends l

/-- A lane in Step sends its training block (R399). -/
theorem State.sendTraining_step (h : s.laneState l = 3) : s.sendTraining l = s.drawNat.2.drawNat.2.sendLine l (s.blockOf l 2
    (trainingBody 2 (min (s.laneOffer l) 4) (if laneLink l = 1 then s.laneOffer l else s.laneRate l + 1) (laneLink l) (laneNumber l)
      (s.ownPeerId l))) := by
  unfold State.sendTraining
  dsimp only
  rw [h]
  rfl

end

/-- Settles O25: every block of a transmitter that is on is one `sendLine`. -/
theorem blocksAreSent : Obligations.BlocksAreSent := by
  unfold Obligations.BlocksAreSent
  refine ⟨?counted, ?step, ?idle, ?off⟩
  case counted => exact fun l s hl ho hf h0 => ⟨_, rfl, (s.txBlock_sends l hl ho hf h0).shows⟩
  case step =>
    intro l s hl ho hf h3 hi
    refine ⟨_, rfl, ?_⟩
    rw [s.txBlock_on l hl ho hf (by omega), hi, if_neg Bool.false_ne_true, if_neg (by omega), if_pos (by omega), s.sendTraining_step l h3]
    exact congrArg Lane.line (State.sendLine_same _ l _)
  case idle =>
    intro l s hl ho hf h6 hi
    refine ⟨_, rfl, ?_⟩
    rw [s.txBlock_on l hl ho hf (by omega), hi, if_neg Bool.false_ne_true, if_neg (by omega), if_neg (by omega)]
    exact State.sendLine_same s l _
  case off =>
    intro l s h
    refine congrArg Host.Outcome.next (if_pos ?_)
    rcases h with h | h | h
    · exact .inl h
    · rw [h]
      exact .inr (.inl rfl)
    · exact .inr (.inr h)

/-! The move of a decision lane -/

section
variable (s : State)

/-- The lanes of a list that name `a` in `map` name `b`. -/
def State.decMapped (s : State) (map a b : Nat) (ls : List Nat) : State :=
  ls.foldl (fun s l => if bitsOf map (4 * l) 4 = a then s.setFld ⟨DEC_LANE_MAP, 4 * l, 4⟩ b else s) s

theorem State.decMapped_keeps (map a b : Nat) (ls : List Nat) : Framed [.regs] [DEC_LANE_MAP] s (s.decMapped map a b ls) := by
  unfold State.decMapped
  induction ls generalizing s with
  | nil => exact .refl _ _ s
  | cons x xs ih =>
    rw [List.foldl_cons]
    refine Framed.trans ?_ (ih _)
    split
    · exact (Framed.refl _ _ s).setFld (f := ⟨DEC_LANE_MAP, 4 * x, 4⟩) (by decide) List.mem_cons_self b
    · exact .refl _ _ s

theorem State.decMapped_field {b : Nat} (hb : b < 16) (map a : Nat) (ls : List Nat) (hls : ∀ x ∈ ls, x < 8) {i : Nat} (hi : i < 8) :
    (s.decMapped map a b ls).fld ⟨DEC_LANE_MAP, 4 * i, 4⟩ =
      if i ∈ ls ∧ bitsOf map (4 * i) 4 = a then b else s.fld ⟨DEC_LANE_MAP, 4 * i, 4⟩ := by
  unfold State.decMapped
  induction ls generalizing s with
  | nil => simp
  | cons x xs ih =>
    rw [List.foldl_cons, ih _ fun y hy => hls y (List.mem_cons_of_mem _ hy)]
    have hx := hls x List.mem_cons_self
    by_cases hix : i = x
    · subst hix
      by_cases hm : bitsOf map (4 * i) 4 = a
      · rw [if_pos hm, State.fld_setFld _ _ _ (show 4 * i + 4 ≤ 32 by omega), show b % 2 ^ 4 = b from Nat.mod_eq_of_lt hb]
        simp [hm]
      · rw [if_neg hm]
        simp [hm]
    · have hf : (if bitsOf map (4 * x) 4 = a then s.setFld ⟨DEC_LANE_MAP, 4 * x, 4⟩ b else s).fld ⟨DEC_LANE_MAP, 4 * i, 4⟩ =
          s.fld ⟨DEC_LANE_MAP, 4 * i, 4⟩ := by
        split
        · refine State.fld_setFld_apart s b (.inr ⟨?_, ?_⟩)
          · show 4 * x + 4 ≤ 4 * i ∨ 4 * i + 4 ≤ 4 * x
            omega
          · show 4 * i + 4 ≤ 32
            omega
        · rfl
      rw [hf]
      simp [hix]

theorem State.moveDecLane_eq (a b : Nat) : s.moveDecLane (a, b) =
    ((s.decMapped (s.reg DEC_LANE_MAP).toNat a b (List.range 8)).setFlag DEC_STAT_SPARED true).unitMoved (decLaneUnit a) b s.count := by
  have hc : (s.decMapped (s.reg DEC_LANE_MAP).toNat a b (List.range 8)).count = s.count :=
    congrArg Hz.count ((s.decMapped_keeps _ a b _).1 .hz (by decide))
  rw [← hc]
  rfl

theorem State.unitMoved_last (u : Word) (n : Nat) (h : U64) (hn : s.canNumber = true) :
    (s.unitMoved u n h).lastEvent = some (0x0572, [u.toNat, n, h.toNat]) := by
  rw [← State.writeEvent_last s 0x0572 [u.toNat, n, h.toNat] hn]
  refine State.lastEvent_congr ?_
  exact (Keeps.endTouch (Keeps.showStatus (.refl [.regs, .fast, .flt] _) rfl u 2 1) rfl u).same .aug rfl

/-- A moved unit shows in its record and, where the last detection names it, in FLT_CAUSE. -/
theorem State.unitMoved_reg (u : Word) (n : Nat) (h : U64) {a : Nat} (ha : a ∉ [AUG_RATE, AUG_STAT, FLT_CAUSE]) :
    (s.unitMoved u n h).reg a = s.reg a := by
  simp only [List.mem_cons, List.not_mem_nil, or_false, not_or] at ha
  obtain ⟨hrate, hstat, hcause⟩ := ha
  have he : ∀ t : State, (t.endTouch u).reg a = t.reg a := fun t =>
    State.reg_congr ((Keeps.endTouch (.refl [.fast, .flt] t) rfl u).same .regs rfl) a
  have hs : ∀ t : State, (t.showStatus u 2 1).reg a = t.reg a := fun t => by
    unfold State.showStatus
    split
    · dsimp only
      rw [if_neg (by decide), State.reg_setFld_ne _ _ hcause, State.reg_setFld_ne _ _ hcause]
    · rfl
  unfold State.unitMoved
  rw [he, hs, State.writeEvent_reg _ _ _ hrate hstat]

end

/-- Settles O26: the map field by field, then the record of the moved unit. -/
theorem decisionLanesMoveToTheirSpare : Obligations.DecisionLanesMoveToTheirSpare := by
  unfold Obligations.DecisionLanesMoveToTheirSpare
  refine ⟨?moves, ?waits⟩
  case moves =>
    intro a b s hb hat hdue
    have heq : s.spareLanes = ({ s with dec := { s.dec with moveDue := [] } } : State).moveDecLane (a, b) := by
      unfold State.spareLanes
      rw [if_pos hat, hdue]
      rfl
    refine ⟨_, rfl, ?_⟩
    rw [heq, State.moveDecLane_eq]
    have hreg : ({ s with dec := { s.dec with moveDue := [] } } : State).reg DEC_LANE_MAP = s.reg DEC_LANE_MAP := rfl
    have hdec : ({ s with dec := { s.dec with moveDue := [] } } : State).dec = { s.dec with moveDue := [] } := rfl
    have hcan : ({ s with dec := { s.dec with moveDue := [] } } : State).canNumber = s.canNumber := rfl
    have hcount : ({ s with dec := { s.dec with moveDue := [] } } : State).count = s.count := rfl
    rw [← hdec, ← hcount, ← hcan, ← hreg]
    generalize ({ s with dec := { s.dec with moveDue := [] } } : State) = u
    have hk := u.decMapped_keeps (u.reg DEC_LANE_MAP).toNat a b (List.range 8)
    have hfld := fun i (hi : i < 8) => u.decMapped_field (show b < 16 by omega) (u.reg DEC_LANE_MAP).toNat a (List.range 8) (by simp) hi
    have hcan' : (u.decMapped (u.reg DEC_LANE_MAP).toNat a b (List.range 8)).canNumber = u.canNumber := by
      unfold State.canNumber
      rw [hk.1 .aug (by decide)]
    have hdec' := hk.1 .dec (by decide)
    generalize u.decMapped (u.reg DEC_LANE_MAP).toNat a b (List.range 8) = v at hfld hcan' hdec' ⊢
    refine ⟨?_, ?_, fun i => ?_, fun hn => ?_⟩
    · rw [(Keeps.unitMoved (.refl [.regs, .fast, .aug, .flt] _) rfl _ _ _).same .dec rfl]
      exact hdec'
    · rw [State.flag_of_reg (State.unitMoved_reg _ _ _ _ (by decide)), State.flag_setFlag _ _ _ (by decide) rfl]
    · rw [State.unitMoved_reg _ _ _ _ (by decide), State.reg_setFlag_ne _ _ (by decide)]
      refine (hfld i i.isLt).trans ?_
      by_cases hm : bitsOf (u.reg DEC_LANE_MAP).toNat (4 * i.val) 4 = a
      · rw [if_pos ⟨List.mem_range.mpr i.isLt, hm⟩, if_pos hm]
      · rw [if_neg (fun h => hm h.2), if_neg hm]
        rfl
    · exact State.unitMoved_last _ _ _ _ (hcan'.trans hn)
  case waits => exact fun s h => congrArg Host.Outcome.next (if_neg (by rw [h]; exact Bool.false_ne_true))

end Sys2Proof.Machine

/-!
What numbering records, closing runs and closing seals leave of the auger unit, and that they only lengthen the tail (R318, R325, R332).
-/
namespace Sys2Proof.Machine

/-- `b` is `a` with further records numbered: the tail is longer at its end, and what numbers, signs, mirrors and acknowledges stands. -/
structure Recorded (a b : Aug) : Prop where
  running : b.running = a.running
  numberingFailed : b.numberingFailed = a.numberingFailed
  rsaFailed : b.rsaFailed = a.rsaFailed
  unmirrored : b.unmirrored = a.unmirrored
  ack : b.ack = a.ack
  hold : b.hold = a.hold
  mirror : b.mirror = a.mirror
  tail : ∃ rs, b.tail = a.tail ++ rs

theorem Recorded.refl (a : Aug) : Recorded a a := ⟨rfl, rfl, rfl, rfl, rfl, rfl, rfl, [], (List.append_nil _).symm⟩

theorem Recorded.trans {a b c : Aug} (h : Recorded a b) (k : Recorded b c) : Recorded a c := by
  obtain ⟨rs, hr⟩ := h.tail
  obtain ⟨qs, hq⟩ := k.tail
  exact ⟨k.running.trans h.running, k.numberingFailed.trans h.numberingFailed, k.rsaFailed.trans h.rsaFailed, k.unmirrored.trans h.unmirrored,
    k.ack.trans h.ack, k.hold.trans h.hold, k.mirror.trans h.mirror, rs ++ qs, by rw [hq, hr, List.append_assoc]⟩

theorem Aug.foldl_snapshot_recorded (ls : List (Fin 8)) (a : Aug) : Recorded a (ls.foldl Aug.snapshot a) := by
  induction ls generalizing a with
  | nil => exact .refl a
  | cons l ls ih =>
    have h : Recorded a (a.snapshot l) := ⟨rfl, rfl, rfl, rfl, rfl, rfl, rfl, [], (List.append_nil _).symm⟩
    exact h.trans (ih (a.snapshot l))

section
variable (s : State)

theorem State.numberRec_recorded (r : Record) : Recorded s.aug (s.numberRec r).aug := by
  unfold State.numberRec
  split
  · dsimp only
    split <;> split <;> exact ⟨rfl, rfl, rfl, rfl, rfl, rfl, rfl, [⟨s.aug.nextSeq, r⟩], rfl⟩
  · exact .refl _

theorem State.closeRun_recorded (k : Nat) : Recorded s.aug (s.closeRun k).aug := by
  unfold State.closeRun
  split
  · exact .refl _
  · exact (s.numberRec_recorded _).trans ⟨rfl, rfl, rfl, rfl, rfl, rfl, rfl, [], (List.append_nil _).symm⟩

theorem State.closeRuns_recorded : Recorded s.aug s.closeRuns.aug := by
  unfold State.closeRuns
  exact List.foldlRecOn (motive := fun t : State => Recorded s.aug t.aug) _ _ (.refl _) fun t ht k _ => ht.trans (t.closeRun_recorded k)

theorem State.closeSeal_recorded (r : Nat) : Recorded s.aug (s.closeSeal r).aug := by
  have h := s.closeRuns_recorded
  unfold State.closeSeal
  split
  · dsimp only
    generalize s.closeRuns = u at h ⊢
    split
    · exact h.trans ⟨rfl, rfl, rfl, rfl, rfl, rfl, rfl, [], (List.append_nil _).symm⟩
    · split
      all_goals
        simp only [State.setFlag_aug, State.setFld_aug, State.setReg_aug]
        refine Recorded.trans ?_ (Aug.foldl_snapshot_recorded _ _)
        exact h.trans ⟨rfl, rfl, rfl, rfl, rfl, rfl, rfl, [⟨u.aug.nextSeq, _⟩], rfl⟩
  · exact .refl _

theorem State.closeDueSeal_recorded : Recorded s.aug s.closeDueSeal.aug := by
  unfold State.closeDueSeal
  split
  · exact .refl _
  · split
    · exact .refl _
    · exact s.closeSeal_recorded _

theorem State.numberEvent_recorded (code : Nat) (h : U64) (l p : Nat) (args : List Nat) (v : List Byte) :
    Recorded s.aug (s.numberEvent code h l p args v).aug := by
  have k := s.numberRec_recorded (s.eventRecord code h l p args v)
  unfold State.numberEvent
  dsimp only
  split
  · exact k.trans ⟨rfl, rfl, rfl, rfl, rfl, rfl, rfl, [], (List.append_nil _).symm⟩
  · exact k

theorem State.timeMark_recorded : Recorded s.aug s.timeMark.aug := by
  unfold State.timeMark
  split
  · exact State.numberEvent_recorded _ _ _ _ _ _ _
  · exact .refl _

theorem State.writeEventAt_recorded (code : Nat) (h : U64) (l : Nat) (args : List Nat) : Recorded s.aug (s.writeEventAt code h l args).aug :=
  (s.closeDueSeal_recorded.trans (State.timeMark_recorded _)).trans (State.numberEvent_recorded _ _ _ _ _ _ _)

theorem Recorded.writeEventAt {a : Aug} {u : State} (h : Recorded a u.aug) (code : Nat) (x : U64) (l : Nat) (args : List Nat) :
    Recorded a (u.writeEventAt code x l args).aug := h.trans (u.writeEventAt_recorded code x l args)

theorem Recorded.writeEvent {a : Aug} {u : State} (h : Recorded a u.aug) (code : Nat) (args : List Nat) :
    Recorded a (u.writeEvent code args).aug := h.writeEventAt _ _ _ _

theorem State.writeEvent_recorded (code : Nat) (args : List Nat) : Recorded s.aug (s.writeEvent code args).aug := s.writeEventAt_recorded _ _ _ _

theorem State.flushLate_recorded (e : Fin 2) : Recorded s.aug (s.flushLate e).aug := by
  unfold State.flushLate
  dsimp only
  split
  · exact .refl _
  · refine Recorded.writeEventAt ?_ _ _ _ _
    exact .refl s.aug

theorem State.leaveGrowing_recorded : Recorded s.aug s.leaveGrowing.aug := by
  unfold State.leaveGrowing
  split
  · exact ((s.flushLate_recorded 0).trans (State.flushLate_recorded _ 1)).trans (State.closeRuns_recorded _)
  · exact .refl _

theorem State.enterState_recorded (new : ModState) (h b r : Nat) : Recorded s.aug (s.enterState new h b r).aug := by
  have k : Recorded s.aug (State.writeStateChange { s.leaveGrowing with mod := { s.leaveGrowing.mod with st := new } } s.mod.st new h b).aug :=
    Recorded.writeEvent (u := { s.leaveGrowing with mod := { s.leaveGrowing.mod with st := new } }) s.leaveGrowing_recorded _ _
  unfold State.enterState
  dsimp only
  rw [State.driveHold_only _ .aug (by decide)]
  split
  · exact k
  · exact k.trans (State.closeSeal_recorded _ r)

theorem State.refuseLaunch_recorded (n : Nat) : Recorded s.aug (s.refuseLaunch n).aug :=
  Recorded.writeEvent (u := (((s.setFlag HZN_STAT_LAUNCH_PEND false).setFlag HZN_STAT_LREF true)).setFld HZN_STAT_LREF_CODE n) (.refl s.aug) _ _

theorem State.refusePassed_recorded : Recorded s.aug s.refusePassed.aug := by
  unfold State.refusePassed
  split
  · exact s.refuseLaunch_recorded 3
  · exact .refl _

end

end Sys2Proof.Machine

/-!
Wake events and the restore from Fallow (R33, R473, R512 to R517).
-/
namespace Sys2Proof.Machine

section
variable {s : State}

theorem State.wakes_first (src : WakeSrc) (h : s.mod.wakeSrc = none) : s.wakes src = { s with mod := { s.mod with wakeSrc := some (src, s.tim.c) } } := by
  unfold State.wakes
  rw [h]

/-- The lanes that come up again leave the registers outside the links (R510). -/
theorem State.lanesAgain_reg (s : State) {a : Nat} (ha : ¬ linkBlock a) : s.lanesAgain.reg a = s.reg a := by
  unfold State.lanesAgain
  refine List.foldlRecOn (motive := fun t : State => t.reg a = s.reg a) _ _ rfl fun t ht l _ => ?_
  split
  · exact (t.startLane_reg l ha).trans ht
  · exact ht

/-- The module control, the auger unit and the engines as the restore begins (R33, R512). -/
def State.restoreBegun (s : State) : State :=
  { s with
    mod := { s.mod with wakeSrc := none, wakeHold := s.mod.left == ModState.growing, fallowCkpt := none, idle := 0, idleNs := 0 }
    aug := { s.aug with running := true }
    eng := s.eng.map (fun (e : Engine) => { e with running := e.start.isSome }) }

/-- The record of a checkpoint horizon that passed in Fallow (R512). -/
def State.nameSkipped (s : State) : Option U64 → State
  | some c => s.writeEventAt 0x0406 c 0 [0, c.toNat]
  | none => s

/-- The state that was left is entered, and the source of the wake is shown. -/
def State.restoreShown (s : State) (src : WakeSrc) : State :=
  (((s.restoreBegun.enterState s.mod.left 0 0 0).nameSkipped s.mod.fallowCkpt).refusePassed).showWake src

theorem State.restores_eq (src : WakeSrc) (hw : s.mod.rstWaits = false) : s.restores src = ((s.restoreShown src).lanesAgain).finishTransfer := by
  have h : s.restores src = if s.mod.rstWaits then ((s.restoreShown src).lanesAgain).finishTransfer.pinReset
      else ((s.restoreShown src).lanesAgain).finishTransfer := by
    unfold State.restores State.restoreShown State.nameSkipped State.restoreBegun
    cases s.mod.fallowCkpt <;> rfl
  rw [h, hw]
  exact if_neg Bool.false_ne_true

theorem State.finishTransfer_of_none (h : s.mod.mgtHeld = none) : s.finishTransfer = s := by
  unfold State.finishTransfer
  rw [h]

theorem State.nameSkipped_keeps (s : State) (c : Option U64) : Keeps [.regs, .aug] s (s.nameSkipped c) := by
  cases c with
  | none => exact .refl _ s
  | some c => exact Keeps.writeEventAt (.refl _ s) rfl _ _ _ _

theorem State.nameSkipped_recorded (s : State) (c : Option U64) : Recorded s.aug (s.nameSkipped c).aug := by
  cases c with
  | none => exact .refl _
  | some c => exact s.writeEventAt_recorded _ _ _ _

theorem State.showWake_keeps (s : State) (src : WakeSrc) : Keeps [.regs] s (s.showWake src) := Keeps.showWake (.refl _ s) rfl src

/-- What shows the wake touches registers and records only. -/
theorem State.restoreShown_keeps (s : State) (src : WakeSrc) :
    Keeps [.regs, .aug] (s.restoreBegun.enterState s.mod.left 0 0 0) (s.restoreShown src) :=
  Keeps.showWake (Keeps.refusePassed (s := (s.restoreBegun.enterState s.mod.left 0 0 0).nameSkipped s.mod.fallowCkpt)
    (State.nameSkipped_keeps _ _) rfl) rfl src

theorem State.restoreShown_mod (s : State) (src : WakeSrc) : (s.restoreShown src).mod = { s.restoreBegun.mod with st := s.mod.left } :=
  ((s.restoreShown_keeps src).same .mod rfl).trans (State.enterState_mod _ _ _ _ _)

theorem State.restoreShown_running (s : State) (src : WakeSrc) : (s.restoreShown src).aug.running = true := by
  have h1 := s.restoreBegun.enterState_recorded s.mod.left 0 0 0
  have h2 := State.nameSkipped_recorded (s.restoreBegun.enterState s.mod.left 0 0 0) s.mod.fallowCkpt
  have h3 := State.refusePassed_recorded ((s.restoreBegun.enterState s.mod.left 0 0 0).nameSkipped s.mod.fallowCkpt)
  rw [State.restoreShown, (State.showWake_keeps _ src).same .aug rfl, ((h1.trans h2).trans h3).running]
  rfl

theorem State.restoreShown_engine (s : State) (src : WakeSrc) (e : Fin 2) :
    ((s.restoreShown src).eng[e] : Engine).running = (s.eng[e] : Engine).start.isSome := by
  have heng : (s.restoreShown src).eng = (s.restoreBegun.enterState s.mod.left 0 0 0).eng := (s.restoreShown_keeps src).same .eng rfl
  have hb : s.restoreBegun.eng = s.eng.map (fun (e : Engine) => { e with running := e.start.isSome }) := rfl
  rw [heng, (State.enterState_engine _ _ _ _ _ e).1, hb, Fin.getElem_fin, Vector.getElem_map]
  rfl

theorem State.restoreShown_rest (s : State) (src : WakeSrc) : (s.restoreShown src).hz = s.hz ∧ (s.restoreShown src).flash = s.flash := by
  have k := s.restoreShown_keeps src
  have e := State.enterState_eq s.restoreBegun s.mod.left 0 0 0
  have k' : Keeps [.regs, .mod, .fast, .eng, .aug, .dec] s.restoreBegun (s.restoreBegun.enterState s.mod.left 0 0 0) :=
    Keeps.enterState (.refl _ _) rfl _ _ _ _
  exact ⟨(k.same .hz rfl).trans (k'.same .hz rfl), (k.same .flash rfl).trans (k'.same .flash rfl)⟩

theorem State.showWake_woke (s : State) (src : WakeSrc) : (s.showWake src).flag PWR_STAT_WOKE = true := by
  have h : (s.setFlag PWR_STAT_WOKE true).flag PWR_STAT_WOKE = true := State.flag_setFlag _ _ _ (by decide) rfl
  cases src with
  | management => exact (State.flag_setFld_apart _ _ (by decide)).trans h
  | hostLink => exact (State.flag_setFlag_apart _ _ (by decide)).trans ((State.flag_setFld_apart _ _ (by decide)).trans h)
  | resetPin => exact h

theorem State.showWake_management (s : State) : (s.showWake .management).fld PWR_STAT_WAKE_SRC = 1 := State.fld_setFld _ _ _ (by decide)

theorem State.showWake_hostLink (s : State) : (s.showWake .hostLink).fld PWR_STAT_WAKE_SRC = 2 :=
  (State.fld_setFlag_apart _ _ (by decide)).trans (State.fld_setFld _ _ _ (by decide))

end

/-- Settles O18: the first wake event is noted; the restore is `restoreShown`, and the lanes that come up leave it. -/
theorem fallowIsLeft : Obligations.FallowIsLeft := by
  unfold Obligations.FallowIsLeft
  refine ⟨?management, ?off, ?entering, ?host, ?disabled, ?restored⟩
  case management =>
    intro bs n s hs hw hm
    show Host.Outcome.next (match s.mod.st with | .fallow => _ | .off => _ | _ => _) = _
    rw [hs]
    dsimp only
    rw [State.wakes_first _ hw]
    dsimp only
    rw [hm]
    rfl
  case off =>
    intro bs n s hs hv
    show Host.Outcome.next (match s.mod.st with | .fallow => _ | .off => _ | _ => _) = _
    rw [hs]
    dsimp only
    rw [if_pos hv]
  case entering =>
    intro bs n e s hs he
    show Host.Outcome.next (match s.mod.st with | .fallow => _ | .off => _ | _ => _) = _
    rw [hs]
    dsimp only
    unfold State.wakeEntry
    rw [he]
  case host =>
    intro l s hen hs hw
    refine ⟨s.hostWakes, (congrArg Host.Outcome.next (if_pos hen)).trans (congrArg Host.Outcome.next (if_pos hs)), ?_⟩
    have hb : s.hostWakes = (s.bump HST_WAKE_CNT).wakes .hostLink := by
      unfold State.hostWakes
      rw [hw]
      rfl
    rw [hb, State.wakes_first _ (by exact hw)]
    exact ⟨rfl, s.reg_bump_bumped _, ((Framed.refl _ _ s).bump (by decide) List.mem_cons_self).setMod (by decide) _⟩
  case disabled => exact fun l s h => congrArg Host.Outcome.next (if_neg (by rw [h]; exact Bool.false_ne_true))
  case restored =>
    intro src c s hs hw hr hm
    have hexec : exec .restoreComplete s = .next (s.restores src) := by
      show Host.Outcome.next (match s.mod.wakeSrc with | some w => _ | none => _) = _
      rw [hw]
      exact congrArg Host.Outcome.next (if_pos hs)
    refine ⟨_, hexec, ?_⟩
    have hmod := s.restoreShown_mod src
    have hrun := s.restoreShown_running src
    have heng := s.restoreShown_engine src
    obtain ⟨hhz, hflash⟩ := s.restoreShown_rest src
    have hwoke : (s.restoreShown src).flag PWR_STAT_WOKE = true := State.showWake_woke _ _
    have hmgt : src = .management → (s.restoreShown src).fld PWR_STAT_WAKE_SRC = 1 := fun h => by rw [h]; exact State.showWake_management _
    have hhost : src = .hostLink → (s.restoreShown src).fld PWR_STAT_WAKE_SRC = 2 := fun h => by rw [h]; exact State.showWake_hostLink _
    have k : Keeps [.regs, .lanes, .hst, .free] (s.restoreShown src) (s.restoreShown src).lanesAgain := Keeps.lanesAgain (.refl _ _) rfl
    have hreg : (s.restoreShown src).lanesAgain.reg PWR_STAT = (s.restoreShown src).reg PWR_STAT := State.lanesAgain_reg _ (by decide)
    rw [State.restores_eq src hr, State.finishTransfer_of_none (by rw [k.same .mod rfl, hmod]; exact hm)]
    generalize s.restoreShown src = u at hmod hrun heng hhz hflash hwoke hmgt hhost k hreg ⊢
    have hm' := k.same .mod rfl
    refine ⟨by rw [hm', hmod], by rw [hm', hmod]; rfl, by rw [hm', hmod]; rfl, congrArg Hz.count ((k.same .hz rfl).trans hhz), ?_, ?_, ?_, ?_, ?_, ?_⟩
    · rw [k.same .aug rfl, hrun]
    · exact fun e => by rw [k.same .eng rfl]; exact heng e
    · rw [State.flag_of_reg hreg, hwoke]
    · exact fun h => (State.fld_of_reg hreg).trans (hmgt h)
    · exact fun h => (State.fld_of_reg hreg).trans (hhost h)
    · exact (k.same .flash rfl).trans hflash

end Sys2Proof.Machine

/-!
Binding tables and the quarantine (R418, R419), slow summaries (R424), and how a bound frame item is judged (R422).
-/
namespace Sys2Proof.Machine

section
variable {s : State} {p : Path}

/-! The binding commands -/

theorem exec_bindCopyActive (h : s.opens p STM_BIND_CMD) : exec (.bindCopyActive p) s = .next (s.seen p).bindCopy :=
  congrArg Host.Outcome.next (State.via_of_opens h fun u => u.bindCopy)

theorem exec_bindWriteEntry (h : s.opens p STM_BIND_CMD) : exec (.bindWriteEntry p) s = .next (s.seen p).bindWrite :=
  congrArg Host.Outcome.next (State.via_of_opens h fun u => u.bindWrite)

theorem exec_bindReadPending (h : s.opens p STM_BIND_CMD) : exec (.bindReadPending p) s =
    .next ((s.seen p).stageEntry (mapGet emptyBinding (s.seen p).stm.pending (s.seen p).bindIdx)) :=
  congrArg Host.Outcome.next (State.via_of_opens h fun u => u.stageEntry (mapGet emptyBinding u.stm.pending u.bindIdx))

theorem exec_bindReadActive (h : s.opens p STM_BIND_CMD) : exec (.bindReadActive p) s =
    .next ((s.seen p).stageEntry (mapGet emptyBinding (s.seen p).stm.active (s.seen p).bindIdx)) :=
  congrArg Host.Outcome.next (State.via_of_opens h fun u => u.stageEntry (mapGet emptyBinding u.stm.active u.bindIdx))

theorem exec_bindApply (h : s.opens p STM_BIND_CMD) : exec (.bindApply p) s = .next (s.seen p).bindApply :=
  congrArg Host.Outcome.next (State.via_of_opens h fun u => u.bindApply)

theorem exec_bindCommitArm (h : s.opens p STM_BIND_COMMIT_HI) (v : Word) : exec (.bindCommitArm p v) s = .next ((s.seen p).bindArm v) :=
  congrArg Host.Outcome.next (State.via_of_opens h fun u => u.bindArm v)

theorem exec_bindCancel (h : s.opens p STM_BIND_CMD) : exec (.bindCancel p) s = .next (s.seen p).bindCancel :=
  congrArg Host.Outcome.next (State.via_of_opens h fun u => u.bindCancel)

theorem exec_quarClearEntry (h : s.opens p STM_QUAR_CMD) : exec (.quarClearEntry p) s =
    .next { s.seen p with stm := { (s.seen p).stm with quar := mapErase (s.seen p).stm.quar (((s.seen p).reg STM_QUAR_IDX).toNat % 256) } } :=
  congrArg Host.Outcome.next (State.via_of_opens h fun u =>
    { u with stm := { u.stm with quar := mapErase u.stm.quar ((u.reg STM_QUAR_IDX).toNat % 256) } })

theorem exec_quarClearAll (h : s.opens p STM_QUAR_CMD) : exec (.quarClearAll p) s =
    .next { s.seen p with stm := { (s.seen p).stm with quar := [] } } :=
  congrArg Host.Outcome.next (State.via_of_opens h fun u => { u with stm := { u.stm with quar := [] } })

theorem exec_bindCommitHorizon {h : U64} (ha : s.stm.armed = some h) (hh : h.toNat ≤ s.count.toNat) (hr : s.reshardFirst h = false) :
    exec .bindCommitHorizon s = .next (s.bindCommit h) := by
  show Host.Outcome.next (match s.stm.armed with | some h => _ | none => s) = _
  rw [ha]
  refine congrArg Host.Outcome.next (if_pos ?_)
  rw [hr]
  simp [hh]

theorem State.seen_stm (s : State) (p : Path) : (s.seen p).stm = s.stm := (s.seen_framed p).1 .stm (by decide)

theorem State.seen_bindIdx (s : State) (p : Path) : (s.seen p).bindIdx = s.bindIdx := by
  unfold State.bindIdx
  rw [s.seen_reg p (by decide)]

/-- The checks of a binding table look at the phase in force and at the count. -/
theorem State.bindCheck_congr {s t : State} (hp : t.prog = s.prog) (hc : t.count = s.count) (m : Map Binding) : t.bindCheck m = s.bindCheck m := by
  have hphase : t.phase? = s.phase? := by
    unfold State.phase? State.program?
    rw [hp]
  have horder : t.inOrder t.count.toNat = s.inOrder s.count.toNat := by
    funext place
    unfold State.inOrder State.phaseAt State.progAt
    rw [hp, hc]
  unfold State.bindCheck
  rw [hphase, horder]

theorem State.seen_bindCheck (s : State) (p : Path) (m : Map Binding) : (s.seen p).bindCheck m = s.bindCheck m :=
  State.bindCheck_congr ((s.seen_framed p).1 .prog (by decide)) (s.seen_count p) m

theorem Framed.bindStat {A : List Area} {R : List Nat} {r s : State} (h : Framed A R r s) (hA : Area.regs ∈ A) (hR : STM_BIND_STAT ∈ R)
    (code conflict : Nat) : Framed A R r (s.bindStat code conflict) := h.setReg hA hR _

theorem State.stageEntry_shows (s : State) (b : Binding) : (s.stageEntry b).reg STM_BIND_SENDER = b.sender ∧
    (s.stageEntry b).reg STM_BIND_TARGET = b.target ∧ Framed [.regs] [STM_BIND_SENDER, STM_BIND_TARGET] s (s.stageEntry b) := by
  unfold State.stageEntry
  refine ⟨?_, State.reg_setReg _ _ _, ((Framed.refl _ _ s).setReg (by decide) List.mem_cons_self _).setReg (by decide) (by decide) _⟩
  rw [State.reg_setReg_ne _ _ (by decide), State.reg_setReg]

/-- A table is taken: BIND_DONE and status 2 (R418). -/
def State.bindTaken (s : State) (z : Stm) : State := (({ s with stm := z } : State).setFlag STM_STAT_BIND_DONE true).bindStat 2 0

theorem State.bindTaken_shows (s : State) (z : Stm) : (s.bindTaken z).stm = z ∧ (s.bindTaken z).flag STM_STAT_BIND_DONE = true ∧
    (s.bindTaken z).reg STM_BIND_STAT = 2 ∧ Framed [.regs, .stm] [STM_STAT, STM_BIND_STAT] s (s.bindTaken z) := by
  unfold State.bindTaken
  refine ⟨rfl, ?_, State.reg_setReg _ _ _, (((Framed.refl _ _ s).setStm (by decide) z).setFlag (by decide) (by decide) true).bindStat (by decide)
    (by decide) 2 0⟩
  rw [State.bindStat, State.flag_setReg_ne _ _ (by decide), State.flag_setFlag _ _ _ (by decide) rfl]

theorem State.bindApply_growing (h : s.mod.st = .growing) : s.bindApply = s.bindStat 9 0 := if_pos (by rw [h]; rfl)

theorem State.bindApply_eq (h : s.mod.st ≠ .growing) : s.bindApply =
    if (s.bindCheck s.stm.pending).1 = 0 then s.bindTaken { s.stm with active := s.stm.pending, former := [] }
    else s.bindStat (s.bindCheck s.stm.pending).1 (s.bindCheck s.stm.pending).2 := if_neg (by simpa using h)

theorem State.bindCommit_eq (s : State) (h : U64) : s.bindCommit h =
    if (s.bindCheck s.stm.pending).1 = 0 then
      s.bindTaken { s.stm with armed := none, former := (h, s.stm.active) :: s.stm.former.take 7, active := s.stm.pending }
    else ({ s with stm := { s.stm with armed := none } } : State).bindStat (s.bindCheck s.stm.pending).1 (s.bindCheck s.stm.pending).2 := rfl

theorem State.bindCancel_armed {h : U64} (ha : s.stm.armed = some h) :
    s.bindCancel = ({ s with stm := { s.stm with armed := none } } : State).bindStat 8 0 := if_pos (by rw [ha]; rfl)

/-- The horizon that a write of STM_BIND_COMMIT_HI names. -/
theorem State.bindArm_horizon (s : State) (v : Word) : (s.setReg STM_BIND_COMMIT_HI v).reg64 STM_BIND_COMMIT_LO =
    BitVec.ofNat 64 (v.toNat * 2 ^ 32 + (s.reg STM_BIND_COMMIT_LO).toNat) := by
  show BitVec.ofNat 64 (((s.setReg STM_BIND_COMMIT_HI v).reg STM_BIND_COMMIT_HI).toNat * 2 ^ 32 +
    ((s.setReg STM_BIND_COMMIT_HI v).reg STM_BIND_COMMIT_LO).toNat) = _
  rw [State.reg_setReg, State.reg_setReg_ne _ _ (by decide)]

theorem State.bindArm_eq {v : Word} {h : U64} (hh : h = BitVec.ofNat 64 (v.toNat * 2 ^ 32 + (s.reg STM_BIND_COMMIT_LO).toNat)) :
    s.bindArm v = if lowZero 10 h = true ∧ s.count.toNat + 1024 ≤ h.toNat then
      ({ s.setReg STM_BIND_COMMIT_HI v with stm := { s.stm with armed := some h } } : State).bindStat 1 0
    else (s.setReg STM_BIND_COMMIT_HI v).bindStat 3 0 := by
  unfold State.bindArm
  dsimp only
  rw [s.bindArm_horizon v, ← hh]
  by_cases hc : lowZero 10 h = true ∧ s.count.toNat + 1024 ≤ h.toNat
  · rw [if_pos hc, if_neg]
    · rfl
    · have hlt : ¬ h.toNat < (s.setReg STM_BIND_COMMIT_HI v).count.toNat + 1024 := Nat.not_lt.mpr hc.2
      rw [hc.1, decide_eq_false hlt]
      exact Bool.false_ne_true
  · rw [if_neg hc, if_pos]
    by_cases hz : lowZero 10 h = true
    · have hlt : h.toNat < s.count.toNat + 1024 := Nat.not_le.mp fun hle => hc ⟨hz, hle⟩
      rw [show (s.setReg STM_BIND_COMMIT_HI v).count = s.count from rfl, decide_eq_true hlt, Bool.or_true]
    · rw [Bool.eq_false_iff.mpr hz]
      rfl

/-! Frame items -/

/-- A per-slot counter stands above every register of the address space. -/
theorem slotCounter_ne {a b : Nat} (place : Nat) (h : b < 0x1000000) : slotCounter a place ≠ b := by
  unfold slotCounter
  omega

theorem exec_frameItem_growing {l : Fin 48} {w : Word} {st : BitVec 24} {place h : Nat} {q : PhaseProg} (hl : s.streamOn l = true)
    (hh : h = extendStamp s.count.toNat st.toNat) (hb : s.boundPlace w h = some place) (hg : s.mod.st = .growing) (hq : s.phaseAt h = some q)
    (pl : List Byte) (bad br : Bool) (ps : Nat) : exec (.frameItem l w st pl bad br ps) s =
      .next ((if br && s.homeDie h place != laneDie l then
          s.detect (bridgeUnit (laneDie l)) 8 (BitVec.ofNat 64 h) (frameTag (BitVec.ofNat 64 h) (place % 64)) else s).judgeFrame
        q place h ps pl bad (br && s.homeDie h place != laneDie l)) := by
  show Host.Outcome.next _ = _
  rw [if_pos hl, State.frameItem]
  dsimp only
  rw [← hh, hb]
  dsimp only
  rw [hg, hq]
  rfl

theorem State.judgeFrame_early {q : PhaseProg} {place h : Nat} (he : s.count.toNat + s.fld HZN_ALIGN_EARLY_TOL < h) (ps : Nat) (pl : List Byte)
    (bad br : Bool) : s.judgeFrame q place h ps pl bad br = (s.bump (slotCounter STM_SLOT_EARLY_CNT place)).bump HZN_EARLY_CNT := if_pos he

theorem State.judgeFrame_late {q : PhaseProg} {place h ps : Nat} (he : ¬ s.count.toNat + s.fld HZN_ALIGN_EARLY_TOL < h)
    (hl : arrivalLimit q.ph ((q.pos? (place / 64) (place % 64)).getD 0) < s.sinceTick h + ps) (pl : List Byte) (bad br : Bool) :
    s.judgeFrame q place h ps pl bad br = (s.bump (slotCounter STM_SLOT_LATE_CNT place)).bump HZN_LATE_CNT :=
  (if_neg he).trans (if_pos hl)

theorem State.judgeFrame_onTime {q : PhaseProg} {place h ps : Nat} (he : ¬ s.count.toNat + s.fld HZN_ALIGN_EARLY_TOL < h)
    (hl : ¬ arrivalLimit q.ph ((q.pos? (place / 64) (place % 64)).getD 0) < s.sinceTick h + ps) (pl : List Byte) (bad br : Bool) :
    ∃ corrupt, s.judgeFrame q place h ps pl bad br = s.holdArrival place h pl corrupt br :=
  ⟨_, (if_neg he).trans (if_neg hl)⟩

/-- The counters of an item that does not come on time. -/
theorem State.bumpSlot_shows (s : State) (a place : Nat) {b : Nat} (hb : b < 0x1000000) :
    ((s.bump (slotCounter a place)).bump b).reg (slotCounter a place) = bumped (s.reg (slotCounter a place)) ∧
      ((s.bump (slotCounter a place)).bump b).reg b = bumped (s.reg b) ∧
      Framed [.regs] [slotCounter a place, b] s ((s.bump (slotCounter a place)).bump b) := by
  have hne := slotCounter_ne (a := a) place hb
  refine ⟨?_, ?_, ((Framed.refl _ _ s).bump (by decide) List.mem_cons_self).bump (by decide) (List.mem_cons_of_mem _ List.mem_cons_self)⟩
  · rw [State.reg_bump_ne _ hne, State.reg_bump_bumped]
  · rw [State.reg_bump_bumped, State.reg_bump_ne _ hne.symm]

theorem Framed.setFast {A : List Area} {R : List Nat} {r s : State} (h : Framed A R r s) (hA : Area.fast ∈ A) (z : Fast) :
    Framed A R r { s with fast := z } :=
  h.area .fast hA rfl fun p hp => by
    cases p with
    | fast => exact absurd rfl hp
    | _ => rfl

theorem State.holdArrival_framed (s : State) (place h : Nat) (pl : List Byte) (c br : Bool) : Framed [.fast] [] s (s.holdArrival place h pl c br) := by
  unfold State.holdArrival
  dsimp only
  split
  · exact (Framed.refl _ _ s).setFast (by decide) _
  · exact (Framed.refl _ _ s).setFast (by decide) _

theorem State.holdArrival_new {place h : Nat}
    (hn : s.fast.arrived.find? (fun a => a.layoutBed == place / 64 && a.slot == place % 64 && a.hzn.toNat == h) = none)
    (pl : List Byte) (c br : Bool) :
    (s.holdArrival place h pl c br).fast.arrived.map Arrived.payload = s.fast.arrived.map Arrived.payload ++ [pl] := by
  unfold State.holdArrival
  dsimp only
  rw [hn]
  exact List.map_append

/-! Summary items -/

theorem exec_summaryItem {l : Fin 48} (hl : s.streamOn l = true) (w : Word) (st : BitVec 24) (body : List Byte) (bad : Bool) (ps : Nat) :
    exec (.summaryItem l w st body bad ps) s = .next (s.summaryItem l w st.toNat body bad ps) := congrArg Host.Outcome.next (if_pos hl)

/-- An unbound sender's summary is quarantined (R419). -/
theorem State.summaryItem_unbound {w : Word}
    (hb : ∀ tick, (s.tableAt tick).any (fun e => e.2.summaries && e.2.sender == w && w.toNat % 256 != 0) = false)
    (lane stamp : Nat) (body : List Byte) (bad : Bool) (ps : Nat) : s.summaryItem lane w stamp body bad ps = s.quarantine w lane true s.count := by
  unfold State.summaryItem
  dsimp only
  rw [hb]
  rfl

/-- A bound summary that is broken is counted (R424). -/
theorem State.summaryItem_broken {w : Word}
    (hb : ∀ tick, (s.tableAt tick).any (fun e => e.2.summaries && e.2.sender == w && w.toNat % 256 != 0) = true)
    (lane stamp : Nat) (body : List Byte) (ps : Nat) : s.summaryItem lane w stamp body true ps = s.bump STM_SUM_BAD_CNT := by
  unfold State.summaryItem
  dsimp only
  rw [hb]
  rfl

/-- The first entry of a channel for a period opens its slab buffer (R200). -/
theorem State.summaryEntry_opens {e : Fin 2} {grp period i : Nat} {g : ChanGroup} (hg : mapFind (s.eng[e] : Engine).groups grp = some g)
    (hlt : s.count.toNat < (period + 1) * g.decl.slowTicks + g.decl.slowDeadline) (hs : mapFind g.slabs period = none)
    (ho : mapFind g.openBufs period = none) (v ps : Nat) : s.summaryEntry e grp period i v ps =
      s.setEng e { s.eng[e] with
        groups := mapSet (s.eng[e] : Engine).groups grp ({ g with openBufs := mapSet g.openBufs period ⟨mapSet [] i v, [], 0⟩ }) } := by
  have hlate : (decide ((period + 1) * g.decl.slowTicks + g.decl.slowDeadline < s.count.toNat)
      || (decide ((period + 1) * g.decl.slowTicks + g.decl.slowDeadline = s.count.toNat) && ps != 0) || (mapFind g.slabs period).isSome) = false := by
    rw [hs, decide_eq_false (by omega), decide_eq_false (by omega)]
    rfl
  unfold State.summaryEntry
  dsimp only
  rw [hg]
  dsimp only
  rw [hlate, ho]
  rfl

/-- A good summary of one channel is one entry (R424). -/
theorem State.summaryItem_single {w : Word} {stamp : Nat} {body : List Byte} {grp i period : Nat} {e : Fin 2} {g : ChanGroup}
    (hn : leAt body 4 2 = 1) (hwd : leAt body 6 1 = g.decl.width) (hlen : 8 + g.decl.width ≤ body.length)
    (hch : s.channel? (leAt body 0 4 % 2 ^ 20) = some (e, grp, i)) (hg : mapFind (s.eng[e] : Engine).groups grp = some g)
    (hp : period = extendStamp (s.count.toNat / max g.decl.slowTicks 1) stamp)
    (hb : (s.tableAt ((period + 1) * g.decl.slowTicks)).any (fun e => e.2.summaries && e.2.sender == w && w.toNat % 256 != 0) = true)
    (hr : (s.eng[e] : Engine).running = true) (lane ps : Nat) :
    s.summaryItem lane w stamp body false ps = s.summaryEntry e grp period i (leAt body 8 g.decl.width) ps := by
  unfold State.summaryItem
  dsimp only
  rw [hch, hn, hwd]
  simp only [Option.bind_some, hg, ← hp, hb, hr, List.range_one, List.map_cons, List.map_nil, Nat.add_zero, hch]
  simp [Nat.not_lt.mpr hlen]

end

/-- Settles O30: each binding command on the state in which its access has been seen. -/
theorem bindingTablesAreStagedAndTakeEffect : Obligations.BindingTablesAreStagedAndTakeEffect := by
  unfold Obligations.BindingTablesAreStagedAndTakeEffect
  refine ⟨?copy, ?write, ?readPending, ?readActive, ?growing, ?applied, ?commit, ?cancel, ?horizon, ?clear, ?clearAll⟩
  case copy =>
    intro p s ho
    refine ⟨_, exec_bindCopyActive ho, ?_, (Framed.refl _ _ _).setStm (by decide) _⟩
    show ({ (s.seen p).stm with pending := (s.seen p).stm.active } : Stm) = _
    rw [State.seen_stm]
  case write =>
    intro p s ho
    refine ⟨_, exec_bindWriteEntry ho, ?_, fun i hi => ?_, ?_, (Framed.refl _ _ _).setStm (by decide) _⟩
    · refine (congrArg (mapGet emptyBinding _) (s.seen_bindIdx p).symm).trans ((mapGet_mapPut_self _ _ _ _).trans ?_)
      rw [s.seen_reg p (by decide), s.seen_reg p (by decide)]
    · refine (mapGet_mapPut_ne _ _ _ (by rwa [s.seen_bindIdx p])).trans ?_
      rw [State.seen_stm]
    · show (s.seen p).stm.active = _
      rw [State.seen_stm]
  case readPending =>
    intro p s ho
    refine ⟨_, exec_bindReadPending ho, ?_⟩
    rw [State.seen_stm, State.seen_bindIdx]
    exact State.stageEntry_shows _ _
  case readActive =>
    intro p s ho
    refine ⟨_, exec_bindReadActive ho, ?_⟩
    rw [State.seen_stm, State.seen_bindIdx]
    exact State.stageEntry_shows _ _
  case growing =>
    intro p s ho hg
    refine ⟨_, exec_bindApply ho, ?_⟩
    rw [State.bindApply_growing (by rwa [State.seen_st])]
    exact ⟨State.reg_setReg _ _ _, (Framed.refl _ _ _).bindStat (by decide) (by decide) 9 0⟩
  case applied =>
    intro p s ho hg
    refine ⟨_, exec_bindApply ho, ?_⟩
    rw [State.bindApply_eq (by rwa [State.seen_st]), State.seen_stm, State.seen_bindCheck]
    by_cases hc : (s.bindCheck s.stm.pending).1 = 0
    · rw [if_pos hc, if_pos hc]
      obtain ⟨hstm, hdone, hstat, hfr⟩ := (s.seen p).bindTaken_shows { s.stm with active := s.stm.pending, former := [] }
      exact ⟨⟨by rw [hstm], hdone, hstat⟩, hfr⟩
    · rw [if_neg hc, if_neg hc]
      exact ⟨⟨s.seen_stm p, State.reg_setReg _ _ _⟩, (Framed.refl _ _ _).bindStat (by decide) (by decide) _ _⟩
  case commit =>
    intro p v h s ho hh
    refine ⟨_, exec_bindCommitArm ho v, ?_⟩
    rw [State.bindArm_eq (h := h) (by rw [s.seen_reg p (by decide)]; exact hh), State.seen_count]
    split
    · refine ⟨?_, ⟨?_, State.reg_setReg _ _ _⟩, ?_⟩
      · rw [State.bindStat, State.reg_setReg_ne _ _ (by decide)]
        exact State.reg_setReg _ _ _
      · show ({ (s.seen p).stm with armed := some h } : Stm) = _
        rw [State.seen_stm]
      · exact (((Framed.refl _ _ _).setReg (by decide) (by decide) v).setStm (by decide) _).bindStat (by decide) (by decide) 1 0
    · refine ⟨?_, ⟨s.seen_stm p, State.reg_setReg _ _ _⟩, ?_⟩
      · rw [State.bindStat, State.reg_setReg_ne _ _ (by decide), State.reg_setReg]
      · exact ((Framed.refl _ _ _).setReg (by decide) (by decide) v).bindStat (by decide) (by decide) 3 0
  case cancel =>
    intro p h s ho ha
    refine ⟨_, exec_bindCancel ho, ?_⟩
    rw [State.bindCancel_armed (by rwa [State.seen_stm])]
    refine ⟨?_, State.reg_setReg _ _ _, ((Framed.refl _ _ _).setStm (by decide) _).bindStat (by decide) (by decide) 8 0⟩
    show ({ (s.seen p).stm with armed := none } : Stm) = _
    rw [State.seen_stm]
  case horizon =>
    intro h s ha hh hr
    refine ⟨_, exec_bindCommitHorizon ha hh hr, ?_⟩
    rw [State.bindCommit_eq]
    by_cases hc : (s.bindCheck s.stm.pending).1 = 0
    · rw [if_pos hc, if_pos hc]
      obtain ⟨hstm, hdone, hstat, hfr⟩ := s.bindTaken_shows
        { s.stm with armed := none, former := (h, s.stm.active) :: s.stm.former.take 7, active := s.stm.pending }
      exact ⟨by rw [hstm], ⟨by rw [hstm], hdone, hstat⟩, hfr⟩
    · rw [if_neg hc, if_neg hc]
      exact ⟨rfl, ⟨rfl, State.reg_setReg _ _ _⟩, ((Framed.refl _ _ _).setStm (by decide) _).bindStat (by decide) (by decide) _ _⟩
  case clear =>
    intro p s ho
    refine ⟨_, exec_quarClearEntry ho, ?_, (Framed.refl _ _ _).setStm (by decide) _⟩
    rw [State.seen_stm, s.seen_reg p (by decide)]
  case clearAll =>
    intro p s ho
    refine ⟨_, exec_quarClearAll ho, ?_, (Framed.refl _ _ _).setStm (by decide) _⟩
    rw [State.seen_stm]

/-- Settles O29: quarantined, counted bad, or one entry that opens its slab buffer. -/
theorem summaryItemsFillSlabs : Obligations.SummaryItemsFillSlabs := by
  unfold Obligations.SummaryItemsFillSlabs
  refine ⟨?unbound, ?broken, ?good⟩
  case unbound =>
    intro l w st body bad ps i s hl hb hq hi hf
    obtain ⟨j, hj⟩ := Stm.exists_freeQuar? hi hf
    obtain ⟨hlt, hfree⟩ := Stm.free_of_freeQuar? hj
    refine ⟨_, exec_summaryItem hl w st body bad ps, ?_⟩
    rw [State.summaryItem_unbound hb, State.quarantine_new hq hj]
    exact ⟨s.quarListed_flag _ _, ⟨j, hlt, hfree, s.quarListed_stm _ _⟩, s.quarListed_framed _ _⟩
  case broken =>
    intro l w st body ps s hl hb
    refine ⟨_, exec_summaryItem hl w st body true ps, ?_⟩
    rw [State.summaryItem_broken hb]
    exact ⟨s.reg_bump_bumped _, (Framed.refl _ _ s).bump (by decide) List.mem_cons_self⟩
  case good =>
    intro l w st body ps grp i period e g s hl hn hwd hlen hch hg hp hb hr hlt hs ho
    rw [exec_summaryItem hl, State.summaryItem_single hn hwd hlen hch hg hp hb hr, State.summaryEntry_opens hg hlt hs ho]

/-- Settles O28: the three judgements, and the detection that precedes them at a bridge crossing. -/
theorem frameItemsAreJudged : Obligations.FrameItemsAreJudged := by
  unfold Obligations.FrameItemsAreJudged
  refine ⟨?judged, ?crossed⟩
  case judged =>
    intro l w st pl bad br ps place h p s hl hh hb hg hp hx
    have hcross : (br && s.homeDie h place != laneDie l) = false := by
      rcases hx with hx | hx
      · rw [hx]
        rfl
      · rw [hx]
        simp
    refine ⟨_, exec_frameItem_growing hl hh hb hg hp pl bad br ps, ?_⟩
    rw [hcross, if_neg Bool.false_ne_true]
    by_cases he : s.count.toNat + s.fld HZN_ALIGN_EARLY_TOL < h
    · rw [if_pos he, State.judgeFrame_early he]
      exact s.bumpSlot_shows _ _ (by decide)
    · rw [if_neg he]
      by_cases hlate : arrivalLimit p.ph ((p.pos? (place / 64) (place % 64)).getD 0) < s.sinceTick h + ps
      · rw [if_pos hlate, State.judgeFrame_late he hlate]
        exact s.bumpSlot_shows _ _ (by decide)
      · obtain ⟨corrupt, heq⟩ := State.judgeFrame_onTime he hlate pl bad false
        rw [if_neg hlate, heq]
        exact ⟨s.holdArrival_framed _ _ _ _ _, fun hn => State.holdArrival_new hn _ _ _⟩
  case crossed =>
    intro l w st pl bad ps place h p s hl hh hb hg hp hx
    have hcross : (true && s.homeDie h place != laneDie l) = true := by
      rw [Bool.true_and]
      exact bne_iff_ne.mpr hx
    rw [exec_frameItem_growing hl hh hb hg hp, hcross, if_pos rfl]

end Sys2Proof.Machine

/-! Lock-step: arming, freezing and rearming (chapter 9). -/

namespace Sys2Proof.Machine

theorem Framed.setLck {A : List Area} {R : List Nat} {r s : State} (h : Framed A R r s) (hA : Area.lck ∈ A) (z : Lck) :
    Framed A R r { s with lck := z } := h.area .lck hA rfl (fun p hp => by
  cases p with
  | lck => exact absurd rfl hp
  | _ => rfl)

theorem State.seen_lck (s : State) (p : Path) : (s.seen p).lck = s.lck := (s.seen_framed p).1 .lck (by decide)

theorem State.seen_lckState (s : State) (p : Path) : (s.seen p).lckState = s.lckState := s.seen_fld p (by decide)

theorem State.sendMessage_keeps (s : State) (typ dest : Nat) (vals : List Nat) (bytes : List Byte) :
    Keeps [.ring] s (s.sendMessage typ dest vals bytes) := Keeps.sendMessage (.refl _ s) rfl _ _ _ _

theorem State.sendMessage_regs (s : State) (typ dest : Nat) (vals : List Nat) (bytes : List Byte) : (s.sendMessage typ dest vals bytes).regs = s.regs :=
  (s.sendMessage_keeps typ dest vals bytes).same .regs rfl

theorem State.sendMessage_lck (s : State) (typ dest : Nat) (vals : List Nat) (bytes : List Byte) : (s.sendMessage typ dest vals bytes).lck = s.lck :=
  (s.sendMessage_keeps typ dest vals bytes).same .lck rfl

theorem State.sendMessage_count (s : State) (typ dest : Nat) (vals : List Nat) (bytes : List Byte) :
    (s.sendMessage typ dest vals bytes).count = s.count :=
  congrArg Hz.count ((s.sendMessage_keeps typ dest vals bytes).same .hz rfl)

theorem State.lckState_setLckState (s : State) {v : Nat} (h : v < 16) : (s.setLckState v).lckState = v :=
  (State.fld_setFld _ _ _ (by decide)).trans (Nat.mod_eq_of_lt h)

theorem State.flag_setLckState (s : State) (v : Nat) {f : Field}
    (h : f.addr ≠ RNG_LCK_STAT_STATE.addr ∨
      (RNG_LCK_STAT_STATE.lo + RNG_LCK_STAT_STATE.w ≤ f.lo ∨ f.lo + f.w ≤ RNG_LCK_STAT_STATE.lo) ∧ f.fits) : (s.setLckState v).flag f = s.flag f :=
  State.flag_setFld_apart _ _ h

theorem Framed.lckRefuse {A : List Area} {R : List Nat} {r s : State} (h : Framed A R r s) (hA : Area.regs ∈ A) (hR : RNG_LCK_STAT ∈ R) (n : Nat) :
    Framed A R r (s.lckRefuse n) := (h.setFld hA hR 5).setFld hA hR n

theorem exec_lckEn {p : Path} {s : State} (h : s.opens p RNG_LCK_CTL) (v : Bool) : exec (.lckEn p v) s = .next ((s.seen p).lckEnable v) :=
  congrArg Host.Outcome.next (State.via_of_opens h fun u => u.lckEnable v)

theorem exec_lckStartCommit {p : Path} {s : State} (h : s.opens p RNG_LCK_START_HI) (v : Word) :
    exec (.lckStartCommit p v) s = .next ((s.seen p).lckCommit v) :=
  congrArg Host.Outcome.next (State.via_of_opens h fun u => u.lckCommit v)

theorem exec_lckFreeze {p : Path} {s : State} (h : s.opens p RNG_LCK_CTL) : exec (.lckFreeze p) s = .next (s.seen p).lckFreezeWrite :=
  congrArg Host.Outcome.next (State.via_of_opens h fun u => u.lckFreezeWrite)

theorem exec_lckRearm {p : Path} {s : State} (h : s.opens p RNG_LCK_CTL) : exec (.lckRearm p) s = .next (s.seen p).lckRearms :=
  congrArg Host.Outcome.next (State.via_of_opens h fun u => u.lckRearms)

section
variable (s : State)

/-- The lock-step unit started anew: what the start horizon's commit left is all it keeps (R310). -/
def Lck.anew (l : Lck) : Lck := { Lck.off with commitAt := l.commitAt, startSet := l.startSet }

/-- EN stands and the unit has started anew with no refusal. -/
def State.lckEnabled : State :=
  ({ s.setFlag RNG_LCK_CTL_EN true with lck := s.lck.anew } : State).setFld RNG_LCK_STAT_REF_CODE 0

theorem State.lckEnabled_framed : Framed [.regs, .lck] [RNG_LCK_CTL, RNG_LCK_STAT] s s.lckEnabled :=
  (((Framed.refl _ _ s).setFlag (by decide) (by decide) true).setLck (by decide) _).setFld (by decide) (by decide) 0

theorem State.lckEnabled_reg {a : Nat} (h : a ≠ RNG_LCK_STAT) (h' : a ≠ RNG_LCK_CTL) : s.lckEnabled.reg a = s.reg a :=
  (State.reg_setFld_ne _ _ h).trans (State.reg_setFlag_ne s _ h')

theorem State.lckEnabled_en : s.lckEnabled.flag RNG_LCK_CTL_EN = true :=
  (State.flag_setFld_apart _ _ (by decide)).trans (State.flag_setFlag s _ _ (by decide) rfl)

theorem State.lckEnabled_start : s.lckEnabled.reg64 RNG_LCK_START_LO = s.reg64 RNG_LCK_START_LO :=
  State.reg64_of_reg (s.lckEnabled_reg (by decide) (by decide)) (s.lckEnabled_reg (by decide) (by decide))

theorem State.lckEnable_on (h : s.flag RNG_LCK_CTL_EN = false) : s.lckEnable true =
    if !s.lck.startSet || decide ((s.reg64 RNG_LCK_START_LO).toNat ≤ s.count.toNat) then s.lckEnabled.lckRefuse 5 else s.lckEnabled.setLckState 1 := by
  rw [← State.lckEnabled_start]
  exact if_pos (by rw [h]; rfl)

theorem State.lckEnable_off (h : s.flag RNG_LCK_CTL_EN = true) : s.lckEnable false =
    ({ s.setFlag RNG_LCK_CTL_EN false with lck := s.lck.anew } : State).setLckState 0 := by
  unfold State.lckEnable
  rw [h]
  rfl

theorem State.lckFreezeAt_lck (w : Option U64) :
    (s.lckFreezeAt w).lck = { s.lck with frozenWindow := w, snapDue := some (nextBoundary s.count) } := rfl

theorem State.lckFreezeAt_state (w : Option U64) : (s.lckFreezeAt w).lckState = 3 := State.lckState_setLckState _ (by decide)

theorem State.lckFreezeAt_framed (w : Option U64) : Framed [.regs, .lck] [RNG_LCK_STAT] s (s.lckFreezeAt w) :=
  ((Framed.refl _ _ s).setLck (by decide) _).setFld (by decide) (by decide) 3

/-- DIVERGED is shown, the partner is told, and the module freezes. -/
def State.divergedAt (w : Option U64) : State := ((s.setFlag RNG_LCK_STAT_DIVERGED true).sendMessage 8 s.lckPartner [2] []).lckFreezeAt w

theorem State.divergedAt_state (w : Option U64) : (s.divergedAt w).lckState = 3 := State.lckFreezeAt_state _ w

theorem State.divergedAt_diverged (w : Option U64) : (s.divergedAt w).flag RNG_LCK_STAT_DIVERGED = true :=
  (State.flag_setLckState _ 3 (by decide)).trans
    ((State.flag_congr (State.sendMessage_regs _ _ _ _ _) _).trans (State.flag_setFlag s _ _ (by decide) rfl))

theorem State.divergedAt_lck (w : Option U64) :
    (s.divergedAt w).lck = { s.lck with frozenWindow := w, snapDue := some (nextBoundary s.count) } := by
  unfold State.divergedAt
  rw [State.lckFreezeAt_lck, State.sendMessage_lck, State.sendMessage_count]
  rfl

theorem State.divergedAt_reg (w : Option U64) {a : Nat} (h : a ≠ RNG_LCK_STAT) : (s.divergedAt w).reg a = s.reg a :=
  ((State.lckFreezeAt_framed _ w).2 a (by simpa using h)).trans
    ((State.reg_congr (State.sendMessage_regs _ _ _ _ _) a).trans (State.reg_setFlag_ne s _ h))

end

section
variable {s : State}

theorem State.lckFreezeWrite_comparing (h : s.lckState = 2) : s.lckFreezeWrite = s.divergedAt none := if_pos h

theorem State.lckFreezeWrite_ignored (h : s.lckState ≠ 2) : s.lckFreezeWrite = s := if_neg h

theorem State.lckRearms_ignored (h3 : s.lckState ≠ 3) (h4 : s.lckState ≠ 4) : s.lckRearms = s :=
  if_neg fun h => h.elim h3 h4

theorem State.lckRearms_eq (h : s.lckState = 3 ∨ s.lckState = 4) : s.lckRearms =
    ({ s with lck := { s.lck.anew with rearmAt := some (BitVec.ofNat 64 ((s.count.toNat + 2048 + 63) / 64 * 64)) } } : State).setLckState 1 :=
  if_pos h

theorem exec_lckStart (he : s.flag RNG_LCK_CTL_EN = true) (h1 : s.lckState = 1) (hf : s.lckFrom.toNat ≤ s.count.toNat)
    (hs : s.mod.st.serving = true) (x : LckPeer) : exec (.lckStart x) s = .next (s.lckBegin x) :=
  congrArg Host.Outcome.next (if_pos (by rw [he, h1, hs, decide_eq_true hf]; rfl))

/-- The offer at the start horizon has gone to the partner. -/
def State.lckOffered (s : State) : State :=
  s.sendMessage 8 s.lckPartner s.lckOffer ((((s.prog.image.map ImageCopy.digest).getD [])) ++ ((s.program?.map Program.keyDigest).getD []))

theorem State.lckOffered_lckFrom (s : State) : s.lckOffered.lckFrom = s.lckFrom := by
  unfold State.lckOffered State.lckFrom
  rw [State.sendMessage_lck, State.reg64_of_reg (State.reg_congr (State.sendMessage_regs s _ _ _ _) _)
    (State.reg_congr (State.sendMessage_regs s _ _ _ _) _)]

theorem State.lckBegin_eq (s : State) (x : LckPeer) : s.lckBegin x =
    if s.lckStartCode x = 0 then ({ s.lckOffered with lck := { s.lckOffered.lck with
      results := [], windows := [], partner := [], frozenWindow := none, gapWindows := [], next := s.lckOffered.lckFrom } } : State).setLckState 2
    else s.lckOffered.lckRefuse (s.lckStartCode x) := rfl

theorem State.lckStartCode_lt (s : State) (x : LckPeer) : s.lckStartCode x < 16 := by
  unfold State.lckStartCode
  dsimp only
  repeat' split
  all_goals decide

end

/-- Settles O49: arming and its refusal, the start, the freezes and the rearming. -/
theorem lockStepArmsAndFreezes : Obligations.LockStepArmsAndFreezes := by
  unfold Obligations.LockStepArmsAndFreezes
  refine ⟨?arm, ?stop, ?commit, ?start, ?message, ?freeze, ?rearm, ?ignored⟩
  case arm =>
    intro p s ho he
    have hfr := (s.seen p).lckEnabled_framed
    refine ⟨_, exec_lckEn ho true, ?_⟩
    rw [State.lckEnable_on _ ((s.seen_flag p (by decide)).trans he), State.seen_lck, State.seen_count,
      State.reg64_of_reg (s.seen_reg p (by decide)) (s.seen_reg p (by decide))]
    have hlck : (s.seen p).lckEnabled.lck = { Lck.off with commitAt := s.lck.commitAt, startSet := s.lck.startSet } := by
      show (s.seen p).lck.anew = _
      rw [State.seen_lck]
      rfl
    by_cases hc : s.lck.startSet = true ∧ s.count.toNat < (s.reg64 RNG_LCK_START_LO).toNat
    · have hneg : ¬ (!s.lck.startSet || decide ((s.reg64 RNG_LCK_START_LO).toNat ≤ s.count.toNat)) = true := by
        rw [hc.1, decide_eq_false (Nat.not_le.mpr hc.2)]
        decide
      rw [if_neg hneg, if_pos hc]
      exact ⟨(State.flag_setLckState _ 1 (by decide)).trans (State.lckEnabled_en _), hlck,
        ⟨State.lckState_setLckState _ (by decide), (State.fld_setFld_apart _ _ (by decide)).trans (State.fld_setFld _ _ _ (by decide))⟩,
        hfr.setFld (by decide) (by decide) 1⟩
    · have hpos : (!s.lck.startSet || decide ((s.reg64 RNG_LCK_START_LO).toNat ≤ s.count.toNat)) = true := by
        simp only [Bool.or_eq_true, Bool.not_eq_true', decide_eq_true_eq]
        by_cases hs : s.lck.startSet = true
        · exact .inr (Nat.not_lt.mp fun h => hc ⟨hs, h⟩)
        · exact .inl (Bool.eq_false_iff.mpr hs)
      rw [if_pos hpos, if_neg hc]
      exact ⟨(State.flag_of_reg (State.lckRefuse_reg _ _ (by decide))).trans (State.lckEnabled_en _), hlck,
        ⟨State.lckRefuse_state _ _, State.lckRefuse_code _ (by decide)⟩, hfr.lckRefuse (by decide) (by decide) 5⟩
  case stop =>
    intro p s ho he
    refine ⟨_, exec_lckEn ho false, ?_⟩
    rw [State.lckEnable_off _ ((s.seen_flag p (by decide)).trans he)]
    exact ⟨(State.flag_setLckState _ 0 (by decide)).trans (State.flag_setFlag (s.seen p) _ _ (by decide) rfl), State.lckState_setLckState _ (by decide),
      (((Framed.refl _ _ _).setFlag (by decide) (by decide) false).setLck (by decide) _).setFld (by decide) (by decide) 0⟩
  case commit =>
    intro p v s ho
    refine ⟨_, exec_lckStartCommit ho v, State.reg_setReg (s.seen p) _ _, ?_, ((Framed.refl _ _ _).setReg (by decide) (by decide) v).setLck (by decide) _⟩
    show ({ (s.seen p).lck with commitAt := (s.seen p).count, startSet := true } : Lck) = _
    rw [State.seen_lck, State.seen_count]
  case start =>
    intro x s he h1 hf hs
    refine ⟨_, exec_lckStart he h1 hf hs x, ?_⟩
    rw [State.lckBegin_eq]
    by_cases hc : s.lckStartCode x = 0
    · rw [if_pos hc, if_pos hc]
      exact ⟨State.lckState_setLckState _ (by decide), s.lckOffered_lckFrom, rfl, rfl⟩
    · rw [if_neg hc, if_neg hc]
      exact ⟨State.lckRefuse_state _ _, State.lckRefuse_code _ (s.lckStartCode_lt x), State.sendMessage_lck s _ _ _ _⟩
  case message =>
    intro s h2
    exact ⟨_, congrArg Host.Outcome.next (if_pos (by rw [h2]; rfl)), s.lckFreezeAt_state none, rfl, s.lckFreezeAt_framed none⟩
  case freeze =>
    intro p s ho h2
    refine ⟨_, exec_lckFreeze ho, ?_⟩
    rw [State.lckFreezeWrite_comparing ((s.seen_lckState p).trans h2)]
    refine ⟨State.divergedAt_state _ _, State.divergedAt_diverged _ _, ?_⟩
    rw [State.divergedAt_lck, State.seen_lck, State.seen_count]
  case rearm =>
    intro p s ho h
    refine ⟨_, exec_lckRearm ho, ?_⟩
    rw [State.lckRearms_eq (by rwa [State.seen_lckState]), State.seen_count]
    exact ⟨State.lckState_setLckState _ (by decide), rfl, ((Framed.refl _ _ _).setLck (by decide) _).setFld (by decide) (by decide) 1⟩
  case ignored =>
    intro p s ho h0
    have h0' : (s.seen p).lckState = 0 := (s.seen_lckState p).trans h0
    exact ⟨(exec_lckFreeze ho).trans (congrArg _ (State.lckFreezeWrite_ignored (by rw [h0']; decide))),
      (exec_lckRearm ho).trans (congrArg _ (State.lckRearms_ignored (by rw [h0']; decide) (by rw [h0']; decide)))⟩

end Sys2Proof.Machine

/-! Lock-step: windows, location and the snapshot (chapter 9). -/

namespace Sys2Proof.Machine

theorem State.sendMessage_canNumber (s : State) (typ dest : Nat) (vals : List Nat) (bytes : List Byte) :
    (s.sendMessage typ dest vals bytes).canNumber = s.canNumber := by
  unfold State.canNumber
  rw [(s.sendMessage_keeps typ dest vals bytes).same .aug rfl]

section
variable (s : State)

theorem State.eng_setEng (e : Fin 2) (g : Engine) : ((s.setEng e g).eng[e] : Engine) = g := by
  rw [State.setEng_eng]
  exact Vector.getElem_set_self _

theorem State.eng_setEng_ne {e k : Fin 2} (h : k ≠ e) (g : Engine) : ((s.setEng e g).eng[k] : Engine) = s.eng[k] := by
  rw [State.setEng_eng]
  exact Vector.getElem_set_ne _ _ fun hv => h (Fin.ext hv.symm)

/-- Storing digests moves places in the scratch and queues jobs; the rest of the lock-step unit stands. -/
def Lck.storesAs (a b : Lck) : Prop := ∃ p j, b = { a with storeAt := p, jobs := j }

theorem Lck.storesAs_foldl {α : Type} (f : State → α → State) (hf : ∀ u x, Lck.storesAs u.lck (f u x).lck) (xs : List α) (u : State) :
    Lck.storesAs u.lck (xs.foldl f u).lck := by
  induction xs generalizing u with
  | nil => exact ⟨_, _, rfl⟩
  | cons x xs ih =>
    obtain ⟨p, j, h⟩ := hf u x
    obtain ⟨p', j', h'⟩ := ih (f u x)
    exact ⟨p', j', by rw [List.foldl_cons, h', h]⟩

theorem State.storeDigests_lck (h bed n : Nat) : Lck.storesAs s.lck (s.storeDigests h bed n).lck := by
  unfold State.storeDigests
  refine Lck.storesAs_foldl _ (fun u _ => ?_) _ s
  exact ⟨_, _, rfl⟩

theorem State.captureGap_framed (w : U64) : Framed [.regs, .lck] [RNG_LCK_GAP_CNT, RNG_LCK_STAT] s (s.captureGap w) :=
  (((Framed.refl _ _ s).bump (by decide) (by decide)).setFlag (by decide) (by decide) true).setLck (by decide) _

theorem State.captureGap_shows (w : U64) : (s.captureGap w).flag RNG_LCK_STAT_GAP = true ∧
    (s.captureGap w).reg RNG_LCK_GAP_CNT = bumped (s.reg RNG_LCK_GAP_CNT) ∧ (s.captureGap w).lckState = s.lckState :=
  ⟨State.flag_setFlag (s.bump RNG_LCK_GAP_CNT) _ _ (by decide) rfl,
    (State.reg_setFlag_ne (s.bump RNG_LCK_GAP_CNT) true (by decide)).trans (s.reg_bump_bumped _),
    (State.fld_setFlag_apart (s.bump RNG_LCK_GAP_CNT) true (by decide)).trans (State.fld_bump_ne s (by decide))⟩

theorem Keeps.setLckArea (z : Lck) : Keeps [.lck] s { s with lck := z } := .fields (.refl _ s) fun p => by
  cases p with
  | lck => exact .inl (by decide)
  | _ => exact .inr rfl

/-- The window is the last that closed, and its tick digests are stored. -/
def State.windowStored (w : U64) : State :=
  (({ s with lck := { s.lck with next := w + 64 } } : State).windowTicks w.toNat).foldl (fun s x => s.storeDigests x.1 x.2 8)
    { s with lck := { s.lck with next := w + 64 } }

theorem State.windowStored_keeps (w : U64) : Keeps [.lck] s (s.windowStored w) :=
  Keeps.foldl _ (Keeps.setLckArea s _) (fun _ _ k => Keeps.storeDigests k rfl _ _ _)

theorem State.windowStored_lck (w : U64) : Lck.storesAs { s.lck with next := w + 64 } (s.windowStored w).lck :=
  Lck.storesAs_foldl _ (fun u _ => u.storeDigests_lck _ _ _) _ _

/-- A late store has made the window a capture gap, and the partner has its digest. -/
def State.windowSent (w : U64) (late : Bool) : State :=
  (if late then (s.windowStored w).captureGap w else s.windowStored w).sendMessage 8
    (if late then (s.windowStored w).captureGap w else s.windowStored w).lckPartner [1, w.toNat, (s.windowDigest w.toNat).toNat] []

theorem State.windowSent_lck (w : U64) (late : Bool) : (s.windowSent w late).lck.next = w + 64 ∧ (s.windowSent w late).lck.windows = s.lck.windows ∧
    (s.windowSent w late).lck.partner = s.lck.partner := by
  obtain ⟨p, j, h⟩ := s.windowStored_lck w
  unfold State.windowSent
  rw [State.sendMessage_lck]
  have hstored : (s.windowStored w).lck.next = w + 64 ∧ (s.windowStored w).lck.windows = s.lck.windows ∧
      (s.windowStored w).lck.partner = s.lck.partner := by
    rw [h]
    exact ⟨rfl, rfl, rfl⟩
  cases late with
  | true => exact hstored
  | false => exact hstored

theorem State.windowSent_shows (w : U64) (late : Bool) : (s.windowSent w late).lckState = s.lckState ∧
    (s.windowSent w late).reg64 RNG_LCK_WIN_LO = s.reg64 RNG_LCK_WIN_LO ∧ (s.windowSent w late).count = s.count ∧
    (late = true → (s.windowSent w late).flag RNG_LCK_STAT_GAP = true ∧
      (s.windowSent w late).reg RNG_LCK_GAP_CNT = bumped (s.reg RNG_LCK_GAP_CNT)) := by
  have hregs : (s.windowStored w).regs = s.regs := (s.windowStored_keeps w).same .regs rfl
  have hcount : (s.windowStored w).count = s.count := congrArg Hz.count ((s.windowStored_keeps w).same .hz rfl)
  have hfr := (s.windowStored w).captureGap_framed w
  obtain ⟨hgap, hcnt, hst⟩ := (s.windowStored w).captureGap_shows w
  have hreg : ∀ a, (s.windowSent w late).reg a = (if late then (s.windowStored w).captureGap w else s.windowStored w).reg a :=
    State.reg_congr (State.sendMessage_regs _ _ _ _ _)
  cases late with
  | true =>
    refine ⟨?_, ?_, ?_, fun _ => ⟨(State.flag_of_reg (hreg _)).trans hgap, ?_⟩⟩
    · exact (State.fld_of_reg (hreg _)).trans (hst.trans (State.fld_congr hregs _))
    · exact (State.reg64_of_reg ((hreg _).trans (hfr.2 _ (by decide))) ((hreg _).trans (hfr.2 _ (by decide)))).trans
        (State.reg64_of_reg (State.reg_congr hregs _) (State.reg_congr hregs _))
    · exact (State.sendMessage_count _ _ _ _ _).trans hcount
    · rw [hreg, ← State.reg_congr hregs]
      exact hcnt
  | false =>
    refine ⟨?_, ?_, ?_, fun h => absurd h Bool.false_ne_true⟩
    · exact (State.fld_of_reg (hreg _)).trans (State.fld_congr hregs _)
    · exact State.reg64_of_reg ((hreg _).trans (State.reg_congr hregs _)) ((hreg _).trans (State.reg_congr hregs _))
    · exact (State.sendMessage_count _ _ _ _ _).trans hcount

theorem State.closeWindow_eq (w : U64) (late : Bool) : s.closeWindow w late =
    match (s.windowSent w late).lck.partner.find? (fun x => x.1 == w) with
    | some x => ({ s.windowSent w late with lck := { (s.windowSent w late).lck with partner := (s.windowSent w late).lck.partner.filter (fun y => y.1 != w) } } :
        State).compareWindow w (s.windowDigest w.toNat) x.2
    | none => { s.windowSent w late with
        lck := { (s.windowSent w late).lck with windows := (s.windowSent w late).lck.windows ++ [⟨w, s.windowDigest w.toNat, (s.windowSent w late).count⟩] } } := by
  unfold State.closeWindow State.windowSent State.windowStored
  cases late <;> rfl

theorem State.divergedAt_gap (w : Option U64) : (s.divergedAt w).flag RNG_LCK_STAT_GAP = s.flag RNG_LCK_STAT_GAP :=
  (State.flag_setLckState _ 3 (by decide)).trans ((State.flag_congr (State.sendMessage_regs _ _ _ _ _) _).trans
    (State.flag_setFlag_apart s true (by decide)))

theorem State.compareWindow_agree (w : U64) {a b : U64} (h : a = b) : s.compareWindow w a b = s.bump64 RNG_LCK_WIN_LO 1 := by
  unfold State.compareWindow
  exact if_pos h

theorem State.compareWindow_differ (w : U64) {a b : U64} (h : a ≠ b) (h2 : (s.bump64 RNG_LCK_WIN_LO 1).lckState = 2) :
    s.compareWindow w a b = (s.bump64 RNG_LCK_WIN_LO 1).divergedAt (some w) := by
  unfold State.compareWindow
  rw [if_neg h]
  unfold State.diverge
  rw [if_pos h2]
  rfl

/-- A compared window is counted; digests that differ freeze the module (R311). -/
theorem State.compareWindow_shows (w a b : U64) (h : s.lckState = 2) :
    (s.compareWindow w a b).reg64 RNG_LCK_WIN_LO = s.reg64 RNG_LCK_WIN_LO + 1 ∧ (s.compareWindow w a b).lck.next = s.lck.next ∧
    (s.compareWindow w a b).lck.windows = s.lck.windows ∧ (s.compareWindow w a b).flag RNG_LCK_STAT_GAP = s.flag RNG_LCK_STAT_GAP ∧
    (s.compareWindow w a b).reg RNG_LCK_GAP_CNT = s.reg RNG_LCK_GAP_CNT ∧
    (if a = b then (s.compareWindow w a b).lckState = 2 else (s.compareWindow w a b).lckState = 3 ∧
      (s.compareWindow w a b).flag RNG_LCK_STAT_DIVERGED = true ∧ (s.compareWindow w a b).lck.frozenWindow = some w ∧
      (s.compareWindow w a b).lck.snapDue = some (nextBoundary s.count)) := by
  have hreg : ∀ {x : Nat}, x ≠ RNG_LCK_WIN_LO → x ≠ RNG_LCK_WIN_LO + 4 → (s.bump64 RNG_LCK_WIN_LO 1).reg x = s.reg x :=
    fun h h' => State.reg_setReg64_ne _ _ h h'
  have hst : (s.bump64 RNG_LCK_WIN_LO 1).lckState = 2 := (State.fld_of_reg (hreg (by decide) (by decide))).trans h
  have hwin := s.reg64_bump64 RNG_LCK_WIN_LO 1
  have hkeep : Keeps [.regs] s (s.bump64 RNG_LCK_WIN_LO 1) := Keeps.setReg64 (.refl _ s) rfl _ _
  have hlck : (s.bump64 RNG_LCK_WIN_LO 1).lck = s.lck := hkeep.same .lck rfl
  have hcount : (s.bump64 RNG_LCK_WIN_LO 1).count = s.count := congrArg Hz.count (hkeep.same .hz rfl)
  by_cases hab : a = b
  · rw [State.compareWindow_agree s w hab, if_pos hab]
    exact ⟨hwin, congrArg Lck.next hlck, congrArg Lck.windows hlck, State.flag_of_reg (hreg (by decide) (by decide)), hreg (by decide) (by decide), hst⟩
  · rw [State.compareWindow_differ s w hab hst, if_neg hab, State.divergedAt_lck, hlck, hcount]
    refine ⟨?_, rfl, rfl, ?_, ?_, State.divergedAt_state _ _, State.divergedAt_diverged _ _, rfl, rfl⟩
    · exact (State.reg64_of_reg (State.divergedAt_reg _ _ (by decide)) (State.divergedAt_reg _ _ (by decide))).trans hwin
    · exact (State.divergedAt_gap _ _).trans (State.flag_of_reg (hreg (by decide) (by decide)))
    · exact (State.divergedAt_reg _ _ (by decide)).trans (hreg (by decide) (by decide))

theorem State.tickResults_congr {s t : State} (hp : t.prog = s.prog) (hl : t.lck = s.lck) (h b : Nat) : t.tickResults h b = s.tickResults h b := by
  unfold State.tickResults State.phaseAt State.progAt
  rw [hp, hl]

theorem State.firstTick_congr {s t : State} (hp : t.prog = s.prog) (hl : t.lck = s.lck) (w : Nat) (ticks : List PeerTick) :
    t.firstTick w ticks = s.firstTick w ticks := by
  have hbeds : t.layoutBeds = s.layoutBeds := by
    funext h
    unfold State.layoutBeds State.phaseAt State.progAt
    rw [hp]
  have hdigest : t.tickDigest = s.tickDigest := by
    funext h b
    unfold State.tickDigest
    rw [State.tickResults_congr hp hl]
  unfold State.firstTick
  rw [hbeds, hdigest]

/-- Where a divergence stands is shown in DIV and DIV_LOC before STATE and the record say that it is located. -/
def State.divShown (h : U64) (bed : Nat) (slot : Option Nat) : State :=
  (((s.setReg64 RNG_LCK_DIV_LO h).setFlag RNG_LCK_DIV_LOC_SLOT_VALID slot.isSome).setFld RNG_LCK_DIV_LOC_BED bed).setFld RNG_LCK_DIV_LOC_SLOT (slot.getD 0)

theorem State.located_shows (w h : U64) (bed : Nat) (slot : Option Nat) : (s.located w h bed slot).lckState = 4 ∧
    (s.located w h bed slot).reg64 RNG_LCK_DIV_LO = h ∧ (s.located w h bed slot).flag RNG_LCK_DIV_LOC_SLOT_VALID = slot.isSome ∧
    (s.canNumber = true → (s.located w h bed slot).lastEvent = some (0x0601, [w.toNat, bedSlot bed (slot.getD 0)])) := by
  have heq : s.located w h bed slot = ((s.divShown h bed slot).setLckState 4).writeEventAt 0x0601 h (slot.getD 0 % 8) [w.toNat, bedSlot bed (slot.getD 0)] := rfl
  have hreg : ∀ {a : Nat}, a ≠ AUG_RATE → a ≠ AUG_STAT → (s.located w h bed slot).reg a = ((s.divShown h bed slot).setLckState 4).reg a := by
    intro a h1 h2
    rw [heq]
    exact State.writeEventAt_reg _ _ _ _ _ h1 h2
  have hdiv : ∀ {a : Nat}, a ≠ RNG_LCK_DIV_LOC → (s.divShown h bed slot).reg a = (s.setReg64 RNG_LCK_DIV_LO h).reg a := fun hn =>
    (State.reg_setFld_ne _ _ hn).trans ((State.reg_setFld_ne _ _ hn).trans (State.reg_setFlag_ne _ _ hn))
  have hlo : ∀ {a : Nat}, a ≠ AUG_RATE → a ≠ AUG_STAT → a ≠ RNG_LCK_STAT → a ≠ RNG_LCK_DIV_LOC →
      (s.located w h bed slot).reg a = (s.setReg64 RNG_LCK_DIV_LO h).reg a := fun h1 h2 h3 h4 =>
    (hreg h1 h2).trans ((State.reg_setFld_ne _ _ h3).trans (hdiv h4))
  refine ⟨(State.fld_of_reg (hreg (by decide) (by decide))).trans (State.lckState_setLckState _ (by decide)), ?_, ?_, fun hn => ?_⟩
  · exact (State.reg64_of_reg (hlo (by decide) (by decide) (by decide) (by decide)) (hlo (by decide) (by decide) (by decide) (by decide))).trans
      (State.reg64_setReg64 _ _ _)
  · exact (State.flag_of_reg (hreg (by decide) (by decide))).trans ((State.flag_setLckState _ 4 (by decide)).trans
      ((State.flag_setFld_apart _ _ (by decide)).trans ((State.flag_setFld_apart _ _ (by decide)).trans (State.flag_setFlag _ _ _ (by decide) rfl))))
  · rw [heq]
    exact State.writeEventAt_last _ _ _ _ _ hn

end

section
variable {s : State}

theorem exec_lckWindowClose {w : U64} (h2 : s.lckState = 2) (hw : s.lck.next = w) (hf : s.windowFormed w.toNat = true) (late : Bool) :
    exec (.lckWindowClose w late) s = .next (s.closeWindow w late) :=
  congrArg Host.Outcome.next (if_pos (by rw [h2, hw, hf, beq_self_eq_true w]; rfl))

theorem exec_lckPartnerDigest (h2 : s.lckState = 2) (w d : U64) : exec (.lckPartnerDigest w d) s = .next (s.partnerDigest w d) :=
  congrArg Host.Outcome.next (if_pos (by rw [h2]; rfl))

theorem exec_lckLocateDone (h3 : s.lckState = 3) (ticks : List PeerTick) (results : List U64) :
    exec (.lckLocateDone ticks results) s = .next (s.locate ticks results) := congrArg Host.Outcome.next (if_pos (by rw [h3]; rfl))

theorem exec_lckSnapshot {h : U64} {p : PhaseProg} (hd : s.lck.snapDue = some h) (hp : s.phase? = some p) (hh : h.toNat ≤ s.count.toNat)
    (h34 : s.lckState = 3 ∨ s.lckState = 4) : exec .lckSnapshot s = .next (s.lckSnap p h) := by
  have hst : (s.lckState == 3 || s.lckState == 4) = true := by
    rcases h34 with h | h <;> rw [h] <;> rfl
  show Host.Outcome.next (match s.lck.snapDue, s.phase? with
    | some h, some p => if h.toNat ≤ s.count.toNat && (s.lckState == 3 || s.lckState == 4) then s.lckSnap p h else s
    | _, _ => s) = _
  rw [hd, hp]
  exact congrArg Host.Outcome.next (if_pos (by rw [decide_eq_true hh, hst]; rfl))

theorem exec_lckCaptureGap {w : U64} (h2 : s.lckState = 2) (hg : s.lck.gapWindows.contains w = false)
    (ha : s.lck.windows.any (fun x => x.start == w && decide (x.closedAt.toNat + 65536 ≤ s.count.toNat)) = true) :
    exec (.lckCaptureGap w) s = .next (s.captureGap w) := congrArg Host.Outcome.next (if_pos (by rw [h2, hg, ha]; rfl))

/-- This module's side of the exchange has been sent: the tick digests of the window (R311). -/
def State.windowTold (s : State) (w : Nat) : State := s.sendMessage 8 s.lckPartner [3, w] (s.windowBytes w)

theorem State.locate_gap {w : U64} (hf : s.lck.frozenWindow = some w) (hg : w ∈ s.lck.gapWindows) (ticks : List PeerTick) (results : List U64) :
    s.locate ticks results = (s.windowTold w.toNat).located w w 0 none := by
  unfold State.locate
  rw [hf]
  dsimp only
  rw [BitVec.ofNat_toNat, BitVec.setWidth_eq, State.sendMessage_lck]
  exact if_pos (by simpa using hg)

theorem State.locate_ungapped {w : U64} (hf : s.lck.frozenWindow = some w) (hg : w ∉ s.lck.gapWindows) (ticks : List PeerTick) (results : List U64) :
    s.locate ticks results = match s.firstTick w.toNat ticks with
      | some (t, b) => ((s.windowTold w.toNat).sendMessage 8 (s.windowTold w.toNat).lckPartner [4, t, b]
          ((s.tickResults t b).flatMap (fun x => leBytes 8 x.digest.toNat))).located w (BitVec.ofNat 64 t) b (firstSlot (s.tickResults t b) results)
      | none => (s.windowTold w.toNat).located w w 0 none := by
  have hprog : (s.windowTold w.toNat).prog = s.prog := (State.sendMessage_keeps s _ _ _ _).same .prog rfl
  have hlck : (s.windowTold w.toNat).lck = s.lck := State.sendMessage_lck s _ _ _ _
  have heq : s.locate ticks results = if (s.windowTold w.toNat).lck.gapWindows.contains w then (s.windowTold w.toNat).located w w 0 none
      else match (s.windowTold w.toNat).firstTick w.toNat ticks with
        | some (t, b) => ((s.windowTold w.toNat).sendMessage 8 (s.windowTold w.toNat).lckPartner [4, t, b]
            (((s.windowTold w.toNat).tickResults t b).flatMap (fun x => leBytes 8 x.digest.toNat))).located w (BitVec.ofNat 64 t) b
              (firstSlot ((s.windowTold w.toNat).tickResults t b) results)
        | none => (s.windowTold w.toNat).located w w 0 none := by
    unfold State.locate
    rw [hf]
    dsimp only
    rw [BitVec.ofNat_toNat, BitVec.setWidth_eq]
    rfl
  rw [heq, hlck, if_neg (by simpa using hg), State.firstTick_congr hprog hlck, funext₂ (State.tickResults_congr hprog hlck)]

end

section
variable (s : State)

theorem State.queueTx_staged (e : Fin 2) (cls block : Nat) (item : TxItem) :
    ((s.queueTx e cls block item).eng[e] : Engine).staged = (s.eng[e] : Engine).staged := by
  unfold State.queueTx
  rw [State.eng_setEng]

theorem State.queueBlocks_staged (e : Fin 2) (cls : Nat) (blocks : List Nat) (item : TxItem) :
    ((s.queueBlocks e cls blocks item).eng[e] : Engine).staged = (s.eng[e] : Engine).staged := by
  unfold State.queueBlocks
  induction blocks generalizing s with
  | nil => rfl
  | cons b bs ih => exact (ih _).trans (s.queueTx_staged e cls b item)

/-- A checkpoint or snapshot that is staged stands behind those that were (R264). -/
theorem State.stage_staged (e : Fin 2) (x : Staged) : ((s.stage e x).eng[e] : Engine).staged = (s.eng[e] : Engine).staged ++ [x] := by
  have h : (((s.queueBlocks e 5 (stagingBlocks (s.eng[e] : Engine).staged.length x.bytes.length) .store).setEng e
      ({ ((s.queueBlocks e 5 (stagingBlocks (s.eng[e] : Engine).staged.length x.bytes.length) .store).eng[e] : Engine) with
        staged := ((s.queueBlocks e 5 (stagingBlocks (s.eng[e] : Engine).staged.length x.bytes.length) .store).eng[e] : Engine).staged ++ [x] })).eng[e] :
      Engine).staged = (s.eng[e] : Engine).staged ++ [x] := by
    rw [State.eng_setEng]
    exact congrArg (· ++ [x]) (s.queueBlocks_staged e _ _ _)
  unfold State.stage
  dsimp only
  split
  · exact (State.queueBlocks_staged _ e _ _ _).trans h
  · exact h

theorem Engine.setRecurs_staged (g : Engine) (t : U64) (r : Recurs) : (g.setRecurs t r).staged = g.staged := by
  unfold Engine.setRecurs
  split
  · split
    · rfl
    · rfl
  · rfl

theorem State.advanceRecurs_staged (e : Fin 2) (l : LoessSection) (t : U64) (u : Nat) :
    ((s.advanceRecurs e l t u).eng[e] : Engine).staged = (s.eng[e] : Engine).staged := by
  unfold State.advanceRecurs
  dsimp only
  rw [(Keeps.countSat (.refl [.regs] _) rfl _ _).same .eng rfl, State.eng_setEng, Engine.setRecurs_staged]

theorem State.writePair_reg (code : Nat) (h : U64) (l ctx : Nat) (v : List Byte) {a : Nat} (h1 : a ≠ AUG_RATE) (h2 : a ≠ AUG_STAT) :
    (s.writePair code h l ctx v).reg a = s.reg a := by
  unfold State.writePair
  rw [State.reg_congr (State.numberEvent_regs _ _ _ _ _ _ _), State.reg_congr (State.numberEvent_regs _ _ _ _ _ _ _),
    State.reg_congr (State.timeMark_regs _), State.closeDueSeal_reg _ h1 h2]

/-- A snapshot stands in the staging of the east engine: SNAP, its records, the digest of the image copy and SNAP_DONE (R312). -/
def State.snapshotTaken (h : U64) (x : Staged) : State :=
  (((((s.stage 0 x).setReg64 RNG_LCK_SNAP_LO h).writePair 0x0602 h 0 h.toNat x.digest).snapshotImage h).setFlag RNG_LCK_STAT_SNAP_DONE true)

theorem State.snapshotTaken_shows (h : U64) (x : Staged) : (s.snapshotTaken h x).lck = s.lck ∧
    (s.snapshotTaken h x).flag RNG_LCK_STAT_SNAP_DONE = true ∧ (s.snapshotTaken h x).reg64 RNG_LCK_SNAP_LO = h ∧
    ((s.snapshotTaken h x).eng[(0 : Fin 2)] : Engine).staged = (s.eng[(0 : Fin 2)] : Engine).staged ++ [x] := by
  have hrec : Keeps [.regs, .aug] (s.stage 0 x) (s.snapshotTaken h x) :=
    Keeps.setFlag (Keeps.snapshotImage (Keeps.writePair (Keeps.setReg64 (.refl _ _) rfl _ _) rfl _ _ _ _ _) rfl _) rfl _ _
  have hstage : Keeps [.regs, .eng, .hst] s (s.stage 0 x) := Keeps.stage (.refl _ s) rfl 0 x
  have hreg : ∀ {a : Nat}, a ≠ AUG_RATE → a ≠ AUG_STAT → a ≠ RNG_LCK_STAT → (s.snapshotTaken h x).reg a = ((s.stage 0 x).setReg64 RNG_LCK_SNAP_LO h).reg a :=
    fun h1 h2 h3 => (State.reg_setFlag_ne _ _ h3).trans ((State.writePair_reg _ _ _ _ _ _ h1 h2).trans (State.writePair_reg _ _ _ _ _ _ h1 h2))
  refine ⟨(hrec.same .lck rfl).trans (hstage.same .lck rfl), State.flag_setFlag _ _ _ (by decide) rfl, ?_, ?_⟩
  · exact (State.reg64_of_reg (hreg (by decide) (by decide) (by decide)) (hreg (by decide) (by decide) (by decide))).trans (State.reg64_setReg64 _ _ _)
  · rw [hrec.same .eng rfl]
    exact s.stage_staged 0 x

/-- The snapshot is no longer due. -/
def State.snapBegun : State := { s with lck := { s.lck with snapDue := none } }

theorem State.lckSnap_serves (p : PhaseProg) {h : U64} (ha : (s.eng[(0 : Fin 2)] : Engine).assembling.any (fun a => a.hzn == h) = true) :
    s.lckSnap p h = { s.snapBegun with lck := { s.snapBegun.lck with ckptServes := true } } := if_pos ha

theorem State.lckSnap_skipped (p : PhaseProg) {h : U64} (ha : ¬ (s.eng[(0 : Fin 2)] : Engine).assembling.any (fun a => a.hzn == h) = true)
    (hf : 4 ≤ (s.eng[(0 : Fin 2)] : Engine).staged.length + (s.eng[(0 : Fin 2)] : Engine).assembling.toList.length) :
    s.lckSnap p h = s.snapBegun.setFlag RNG_LCK_STAT_SNAP_SKIP true := (if_neg ha).trans (if_pos hf)

theorem State.lckSnap_taken (p : PhaseProg) {h : U64} (ha : ¬ (s.eng[(0 : Fin 2)] : Engine).assembling.any (fun a => a.hzn == h) = true)
    (hf : ¬ 4 ≤ (s.eng[(0 : Fin 2)] : Engine).staged.length + (s.eng[(0 : Fin 2)] : Engine).assembling.toList.length) :
    ∃ x : Staged, x.hzn = h ∧ x.snapshot = true ∧ x.digest = sha512 x.bytes ∧
      s.lckSnap p h = (s.snapBegun.advanceRecurs 0 p.east h (h.toNat - 1)).snapshotTaken h x :=
  ⟨_, rfl, rfl, rfl, (if_neg ha).trans (if_neg hf)⟩

end

/-- Settles O50: closing and meeting a window, its comparison, the location, the snapshot and the capture gap. -/
theorem lockStepCompares : Obligations.LockStepCompares := by
  unfold Obligations.LockStepCompares
  refine ⟨?close, ?partner, ?locate, ?snapshot, ?gap⟩
  case close =>
    intro w late s h2 hw hf
    refine ⟨_, exec_lckWindowClose h2 hw hf late, ?_⟩
    obtain ⟨hnext, hwins, hpart⟩ := s.windowSent_lck w late
    obtain ⟨hst, hwin, hcount, hgap⟩ := s.windowSent_shows w late
    rw [State.closeWindow_eq, hpart]
    cases hx : s.lck.partner.find? (fun x => x.1 == w) with
    | none =>
      refine ⟨hnext, hgap, hst.trans h2, ?_⟩
      show (s.windowSent w late).lck.windows ++ _ = _
      rw [hwins, hcount]
    | some x =>
      obtain ⟨cwin, cnext, -, cgap, ccnt, cst⟩ := ({ s.windowSent w late with lck := { (s.windowSent w late).lck with
        partner := s.lck.partner.filter (fun y => y.1 != w) } } : State).compareWindow_shows w (s.windowDigest w.toNat) x.2 (hst.trans h2)
      refine ⟨cnext.trans hnext, fun hl => ⟨cgap.trans (hgap hl).1, ccnt.trans (hgap hl).2⟩, cwin.trans (congrArg (· + 1) hwin), ?_⟩
      rw [← hcount]
      exact cst
  case partner =>
    intro w d s h2
    refine ⟨_, exec_lckPartnerDigest h2 w d, ?_⟩
    unfold State.partnerDigest
    cases hx : s.lck.windows.find? (fun x => x.start == w) with
    | none =>
      dsimp only
      by_cases hn : s.lck.next.toNat ≤ w.toNat
      · rw [if_pos ⟨h2, hn⟩]
        exact ⟨h2, fun _ => List.mem_append_right _ List.mem_cons_self⟩
      · rw [if_neg fun h => hn h.2]
        exact ⟨h2, fun h => absurd h hn⟩
    | some x =>
      obtain ⟨cwin, -, cwins, -, -, cst⟩ := ({ s with lck := { s.lck with windows := s.lck.windows.filter (fun y => y.start != w) } } :
        State).compareWindow_shows w x.digest d h2
      refine ⟨cwin, fun y hy => ?_, ?_⟩
      · rw [cwins] at hy
        simpa using (List.mem_filter.mp hy).2
      · by_cases hd : x.digest = d
        · rw [if_pos hd] at cst ⊢
          exact cst
        · rw [if_neg hd] at cst ⊢
          exact ⟨cst.1, cst.2.1, cst.2.2.1⟩
  case locate =>
    intro ticks results w s h3 hf
    refine ⟨_, exec_lckLocateDone h3 ticks results, ?_⟩
    by_cases hg : w ∈ s.lck.gapWindows
    · obtain ⟨hst, hdiv, hslot, -⟩ := (s.windowTold w.toNat).located_shows w w 0 none
      rw [State.locate_gap hf hg, if_pos hg]
      exact ⟨hst, hdiv, hslot⟩
    · rw [State.locate_ungapped hf hg, if_neg hg]
      cases s.firstTick w.toNat ticks with
      | none =>
        obtain ⟨hst, hdiv, hslot, -⟩ := (s.windowTold w.toNat).located_shows w w 0 none
        exact ⟨hst, hdiv, hslot⟩
      | some x =>
        obtain ⟨h, b⟩ := x
        obtain ⟨hst, hdiv, hslot, hlast⟩ := ((s.windowTold w.toNat).sendMessage 8 (s.windowTold w.toNat).lckPartner [4, h, b]
          ((s.tickResults h b).flatMap (fun x => leBytes 8 x.digest.toNat))).located_shows w (BitVec.ofNat 64 h) b (firstSlot (s.tickResults h b) results)
        refine ⟨hst, hdiv, hslot, fun hn => hlast ?_⟩
        rw [State.sendMessage_canNumber, State.windowTold, State.sendMessage_canNumber]
        exact hn
  case snapshot =>
    intro h p s hd hp hh h34
    refine ⟨_, exec_lckSnapshot hd hp hh h34, ?_⟩
    by_cases ha : (s.eng[(0 : Fin 2)] : Engine).assembling.any (fun a => a.hzn == h) = true
    · rw [State.lckSnap_serves s p ha, if_pos ha]
      exact ⟨rfl, rfl, rfl⟩
    · rw [if_neg ha]
      by_cases hfull : 4 ≤ (s.eng[(0 : Fin 2)] : Engine).staged.length + (s.eng[(0 : Fin 2)] : Engine).assembling.toList.length
      · rw [State.lckSnap_skipped s p ha hfull, if_pos hfull]
        exact ⟨rfl, State.flag_setFlag _ _ _ (by decide) rfl, rfl⟩
      · obtain ⟨x, hx, hsn, hdg, heq⟩ := State.lckSnap_taken s p ha hfull
        have hadv : Keeps [.regs, .eng] s.snapBegun (s.snapBegun.advanceRecurs 0 p.east h (h.toNat - 1)) := Keeps.advanceRecurs (.refl _ _) rfl _ _ _ _
        obtain ⟨hlck, hdone, hlo, hstaged⟩ := (s.snapBegun.advanceRecurs 0 p.east h (h.toNat - 1)).snapshotTaken_shows h x
        rw [heq, if_neg hfull]
        refine ⟨?_, hdone, hlo, x, hx, hsn, hdg, ?_⟩
        · rw [hlck, hadv.same .lck rfl]
          rfl
        · rw [hstaged, State.advanceRecurs_staged]
          rfl
  case gap =>
    intro w s h2 hg ha
    obtain ⟨hgap, hcnt, -⟩ := s.captureGap_shows w
    exact ⟨_, exec_lckCaptureGap h2 hg ha, rfl, hgap, hcnt, s.captureGap_framed w⟩

end Sys2Proof.Machine

/-! Verdict output (chapters 2 and 14). -/

namespace Sys2Proof.Machine

theorem State.frame?_key {s : State} {bed slot : Nat} {h : U64} {f : Frame} (hf : s.frame? bed slot h = some f) :
    f.layoutBed = bed ∧ f.slot = slot ∧ f.hzn = h := by
  have := List.find?_some hf
  simp only [Bool.and_eq_true, beq_iff_eq] at this
  exact ⟨this.1.1, this.1.2, this.2⟩

/-- A frame that is found after an update and the purge is an updated one. -/
theorem State.frame?_updFrame_purge {s : State} {bed slot : Nat} {h : U64} {u : Frame → Frame}
{g : Frame}
    (hg : (s.updFrame bed slot h u).purge.frame? bed slot h = some g) : ∃ x, g = u x := by
  obtain ⟨kb, ks, kh⟩ := State.frame?_key hg
  have hmem := (List.mem_filter.mp (List.mem_of_find?_eq_some hg)).1
  obtain ⟨x, -, hx⟩ := List.mem_map.mp hmem
  by_cases hc : x.layoutBed = bed ∧ x.slot = slot ∧ x.hzn = h
  · rw [if_pos hc] at hx
    exact ⟨x, hx.symm⟩
  · rw [if_neg hc] at hx
    exact absurd ⟨hx ▸ kb, hx ▸ ks, hx ▸ kh⟩ hc

/-- A verdict joins the queues of the lanes it names, in the order of its line of the map. -/
def decQueued (x : Nat → DecEntry) (ls : List (Nat × Nat)) (q : Vector (List DecEntry) 8) : Vector (List DecEntry) 8 :=
  ls.foldl (fun (q : Vector (List DecEntry) 8) l => if h : l.1 < 8 then q.set l.1 ((x l.2).enter q[l.1]) else q) q

theorem decQueued_lane (x : Nat → DecEntry) (ls : List (Nat × Nat)) (q : Vector (List DecEntry) 8) (k : Fin 8) :
    ((decQueued x ls q)[k] : List DecEntry) = (ls.filter (fun l => l.1 == k.val)).foldl (fun q l => (x l.2).enter q) q[k] := by
  unfold decQueued
  induction ls generalizing q with
  | nil => rfl
  | cons l ls ih =>
    rw [List.foldl_cons, ih]
    by_cases hl : l.1 = k.val
    · rw [List.filter_cons_of_pos (by simpa using hl), List.foldl_cons]
      have hlt : l.1 < 8 := hl ▸ k.isLt
      congr 1
      rw [dif_pos hlt]
      simp [hl]
    · rw [List.filter_cons_of_neg (by simpa using hl)]
      congr 1
      split
      · exact Vector.getElem_set_ne _ _ hl
      · rfl

section
variable (s : State) (p : PhaseProg) (f : Frame) (settled : Bool) (ui : List Nat)

/-- The verdict of a frame as it waits for its lane. -/
def Frame.decEntry (i : Nat) : DecEntry :=
  ⟨f.hzn.toNat % 128, settled.toNat, f.layoutBed, f.slot, if settled then f.settled else f.quick, (ui.getD i 0 : Nat)⟩

/-- The verdict waits for its lanes and is counted. -/
def State.verdictQueued : State :=
  ({ s with dec := { s.dec with queue := decQueued (f.decEntry settled ui) (p.lanesFor f.layoutBed settled).zipIdx s.dec.queue } } : State).bump64
    (if settled then DEC_SETTLED_LO else DEC_QUICK_LO) 1

/-- The frame's verdict is marked as sent. -/
def Frame.markSent (y : Frame) : Frame := if settled then { y with settledSent := true } else { y with quickSent := true }

theorem Frame.markSent_sent (y : Frame) : (if settled then (y.markSent settled).settledSent else (y.markSent settled).quickSent) = true := by
  cases settled <;> rfl

theorem State.outputVerdict_eq : s.outputVerdict p f settled ui =
    ((s.verdictQueued p f settled ui).updFrame f.layoutBed f.slot f.hzn (Frame.markSent settled)).purge := rfl

theorem Framed.setDec {A : List Area} {R : List Nat} {r s : State} (h : Framed A R r s) (hA : Area.dec ∈ A) (z : Dec) :
    Framed A R r { s with dec := z } := h.area .dec hA rfl (fun p hp => by
  cases p with
  | dec => exact absurd rfl hp
  | _ => rfl)

theorem State.verdictQueued_framed : Framed [.regs, .fast, .dec] (if settled then [DEC_SETTLED_LO, DEC_SETTLED_LO + 4] else [DEC_QUICK_LO, DEC_QUICK_LO + 4])
    s (s.verdictQueued p f settled ui) := by
  refine ((Framed.refl _ _ s).setDec (by decide) _).bump64 (by decide) ?_ ?_ 1 <;> cases settled <;> decide

theorem State.verdictQueued_queue : (s.verdictQueued p f settled ui).dec.queue =
    decQueued (f.decEntry settled ui) (p.lanesFor f.layoutBed settled).zipIdx s.dec.queue :=
  congrArg Dec.queue ((Keeps.setReg64 (.refl [.regs] _) rfl _ _).same .dec rfl)

theorem State.verdictQueued_count : (s.verdictQueued p f settled ui).reg64 (if settled then DEC_SETTLED_LO else DEC_QUICK_LO) =
    s.reg64 (if settled then DEC_SETTLED_LO else DEC_QUICK_LO) + 1 := by
  unfold State.verdictQueued
  rw [State.reg64_bump64]
  rfl

theorem State.updFrame_purge_reg64 (b k : Nat) (h : U64) (u : Frame → Frame) (a : Nat) : (s.updFrame b k h u).purge.reg64 a = s.reg64 a := rfl

theorem State.updFrame_purge_dec (b k : Nat) (h : U64) (u : Frame → Frame) : (s.updFrame b k h u).purge.dec = s.dec := rfl

theorem State.updFrame_purge_framed (b k : Nat) (h : U64) (u : Frame → Frame) : Framed [.fast] [] s (s.updFrame b k h u).purge :=
  (Framed.refl _ _ s).setFast (by decide) _

theorem exec_verdictOutput {s : State} {bed : Fin 4} {slot : Fin 64} {hzn : U64} {f : Frame} {p : PhaseProg} (hf : s.frame? bed slot hzn = some f)
    (hp : s.phaseAt hzn.toNat = some p) (hd : (if settled then f.settledDone && f.hasSettled && !f.settledSent else f.exited && !f.quickSent) = true) :
    exec (.verdictOutput bed slot hzn settled ui) s = .next (s.outputVerdict p f settled ui) := by
  show Host.Outcome.next (match s.frame? bed slot hzn, s.phaseAt hzn.toNat with
    | some f, some p =>
      let due := if settled then f.settledDone && f.hasSettled && !f.settledSent else f.exited && !f.quickSent
      if due then s.outputVerdict p f settled ui else s
    | _, _ => s) = _
  rw [hf, hp]
  exact congrArg Host.Outcome.next (if_pos hd)

end

/-- Settles O33: the verdict enters the queue of every lane of its line of the map, is counted, and is marked as sent. -/
theorem verdictsReachTheirLanes : Obligations.VerdictsReachTheirLanes := by
  unfold Obligations.VerdictsReachTheirLanes
  refine ⟨?due, ?absent⟩
  case due =>
    intro bed slot hzn settled ui f p s hf hp hd
    obtain ⟨hb, hs, hh⟩ := State.frame?_key hf
    refine ⟨_, exec_verdictOutput settled ui hf hp hd, ?_⟩
    rw [State.outputVerdict_eq]
    refine ⟨fun k => ?_, ?_, fun g hg => ?_, ?_⟩
    · rw [State.updFrame_purge_dec, State.verdictQueued_queue, decQueued_lane, hb]
      unfold Frame.decEntry
      rw [hb, hs, hh]
    · rw [State.updFrame_purge_reg64, State.verdictQueued_count]
    · rw [hb, hs, hh] at hg
      obtain ⟨x, rfl⟩ := State.frame?_updFrame_purge hg
      exact Frame.markSent_sent settled x
    · exact (s.verdictQueued_framed p f settled ui).trans ((State.updFrame_purge_framed _ _ _ _ _).mono (by decide) (List.nil_subset _))
  case absent =>
    intro bed slot hzn settled ui s hf
    show Host.Outcome.next (match s.frame? bed slot hzn, s.phaseAt hzn.toNat with
      | some f, some p =>
        let due := if settled then f.settledDone && f.hasSettled && !f.settledSent else f.exited && !f.quickSent
        if due then s.outputVerdict p f settled ui else s
      | _, _ => s) = _
    rw [hf]

end Sys2Proof.Machine

/-!
What the fault unit has shown stays shown while a unit is retired or a test begins (R344, R351, R352): the unit, tick and counters of the FLT
block, and the records of the tail.
-/

namespace Sys2Proof.Machine

/-- The registers of the FLT block that name the last detection and count. -/
def fltKept : List Nat :=
  [FLT_UNIT, FLT_HZN_LO, FLT_HZN_HI, FLT_TRANSIENT_CNT, FLT_LASTING_CNT, FLT_UNEXPL_CNT, FLT_DIV_CNT, FLT_DISAGREE_CNT]

/-- The marks of FLT_STAT that only a read or a write of software clears. -/
def fltMarks : List Field := [FLT_STAT_FAULT, FLT_STAT_TRANSIENT, FLT_STAT_LASTING, FLT_STAT_ALARM]

/-- `t` shows what `s` has shown of detections, and its tail holds the records of `s` first. -/
structure Retained (s t : State) : Prop where
  reg : ∀ a, a ∈ fltKept → t.reg a = s.reg a
  flag : ∀ f, f ∈ fltMarks → t.flag f = s.flag f
  tail : s.aug.tail <+: t.aug.tail

theorem Retained.refl (s : State) : Retained s s := ⟨fun _ _ => rfl, fun _ _ => rfl, List.prefix_refl _⟩

theorem Retained.trans {a b c : State} (h : Retained a b) (k : Retained b c) : Retained a c :=
  ⟨fun x hx => (k.reg x hx).trans (h.reg x hx), fun f hf => (k.flag f hf).trans (h.flag f hf), h.tail.trans k.tail⟩

theorem Retained.of_reg {s t : State} (h : ∀ a, a ∈ FLT_STAT :: fltKept → t.reg a = s.reg a) (ht : s.aug.tail <+: t.aug.tail) : Retained s t := by
  refine ⟨fun a ha => h a (List.mem_cons_of_mem _ ha), fun f hf => State.flag_of_reg (h _ ?_), ht⟩
  have haddr : ∀ f ∈ fltMarks, f.addr = FLT_STAT := by decide
  rw [haddr f hf]
  exact List.mem_cons_self

theorem Retained.of_keeps {T : List Area} {s t : State} (k : Keeps T s t) (hr : T.contains Area.regs = false) (ha : T.contains Area.aug = false) :
    Retained s t :=
  .of_reg (fun a _ => State.reg_congr (k.same .regs hr) a) (by rw [k.same .aug ha])

theorem Retained.of_regs {s t : State} (hr : t.regs = s.regs) (ha : t.aug.tail = s.aug.tail) : Retained s t :=
  .of_reg (fun a _ => State.reg_congr hr a) (by rw [ha])

/-- An address outside the FLT block. -/
theorem notin_flt {a : Nat} (h : a < 0x60000 ∨ 0x70000 ≤ a) : a ∉ FLT_STAT :: fltKept := by
  have hb : ∀ x ∈ FLT_STAT :: fltKept, 0x60000 ≤ x ∧ x < 0x70000 := by decide
  intro ha
  have := hb a ha
  omega

section
variable {r s : State}

theorem Retained.setReg (h : Retained r s) {a : Nat} (ha : a ∉ FLT_STAT :: fltKept) (v : Word) : Retained r (s.setReg a v) :=
  h.trans (.of_reg (fun _ hx => State.reg_setReg_ne _ _ fun he => ha (he ▸ hx)) (List.prefix_refl _))

theorem Retained.setFld (h : Retained r s) {f : Field} (hf : f.addr ∉ FLT_STAT :: fltKept) (v : Nat) : Retained r (s.setFld f v) := h.setReg hf _

theorem Retained.setFlag (h : Retained r s) {f : Field} (hf : f.addr ∉ FLT_STAT :: fltKept) (b : Bool) : Retained r (s.setFlag f b) := h.setReg hf _

theorem Retained.bump (h : Retained r s) {a : Nat} (ha : a ∉ FLT_STAT :: fltKept) : Retained r (s.bump a) := h.setReg ha _

theorem Retained.bumpBy (h : Retained r s) {a : Nat} (ha : a ∉ FLT_STAT :: fltKept) (n : Nat) : Retained r (s.bumpBy a n) := h.setReg ha _

theorem Retained.setReg64 (h : Retained r s) {a : Nat} (ha : a ∉ FLT_STAT :: fltKept) (hb : a + 4 ∉ FLT_STAT :: fltKept) (v : U64) :
    Retained r (s.setReg64 a v) := (h.setReg ha _).setReg hb _

/-- A flag of FLT_STAT beside the marks. -/
theorem Retained.setStat (h : Retained r s) {f : Field} (ha : f.addr = FLT_STAT)
    (hf : ∀ g ∈ fltMarks, (f.lo + f.w ≤ g.lo ∨ g.lo + g.w ≤ f.lo) ∧ g.fits) (b : Bool) : Retained r (s.setFlag f b) := by
  have hne : ∀ a ∈ fltKept, a ≠ f.addr := by
    rw [ha]
    decide
  exact h.trans ⟨fun a hx => State.reg_setFlag_ne _ _ (hne a hx), fun g hg => State.flag_setFlag_apart _ _ (.inr (hf g hg)), List.prefix_refl _⟩

theorem Retained.keeps (h : Retained r s) {T : List Area} {t : State} (k : Keeps T s t) (hr : T.contains Area.regs = false)
    (ha : T.contains Area.aug = false) : Retained r t := h.trans (.of_keeps k hr ha)

theorem Retained.setBed (h : Retained r s) (b : Fin 4) (g : Bed) : Retained r (s.setBed b g) := h.trans (.of_regs rfl rfl)

theorem Retained.setEng (h : Retained r s) (e : Fin 2) (g : Engine) : Retained r (s.setEng e g) := h.trans (.of_regs rfl rfl)

theorem Retained.setFlt (h : Retained r s) (z : Flt) : Retained r { s with flt := z } := h.trans (.of_regs rfl rfl)

theorem Retained.setDec (h : Retained r s) (z : Dec) : Retained r { s with dec := z } := h.trans (.of_regs rfl rfl)

theorem Retained.setSvc (h : Retained r s) (z : Svc) : Retained r { s with svc := z } := h.trans (.of_regs rfl rfl)

theorem Retained.setAug (h : Retained r s) {z : Aug} (hz : z.tail = s.aug.tail) : Retained r { s with aug := z } := h.trans (.of_regs rfl hz)

theorem Recorded.tailExtends {a b : Aug} (h : Recorded a b) : a.tail <+: b.tail := by
  obtain ⟨rs, hr⟩ := h.tail
  exact ⟨rs, hr.symm⟩

theorem Retained.writeEventAt (h : Retained r s) (code : Nat) (x : U64) (l : Nat) (args : List Nat) : Retained r (s.writeEventAt code x l args) := by
  have hrate : ∀ a ∈ FLT_STAT :: fltKept, a ≠ AUG_RATE ∧ a ≠ AUG_STAT := by decide
  exact h.trans (.of_reg (fun a ha => State.writeEventAt_reg _ _ _ _ _ (hrate a ha).1 (hrate a ha).2) (s.writeEventAt_recorded _ _ _ _).tailExtends)

theorem Retained.writeEvent (h : Retained r s) (code : Nat) (args : List Nat) : Retained r (s.writeEvent code args) := h.writeEventAt _ _ _ _

theorem Retained.showStatus (h : Retained r s) (u : Word) (x y : Nat) : Retained r (s.showStatus u x y) := by
  unfold State.showStatus
  split
  · dsimp only
    split
    · exact h.setFld (by decide) x
    · exact (h.setFld (by decide) x).setFld (by decide) y
  · exact h

theorem Retained.endTouch (h : Retained r s) (u : Word) : Retained r (s.endTouch u) := h.keeps (Keeps.endTouch (.refl [.fast, .flt] s) rfl u) rfl rfl

theorem Retained.markDegraded (h : Retained r s) (u : Word) : Retained r (s.markDegraded u) :=
  (((h.writeEvent _ _).showStatus u 2 2).endTouch u).setStat rfl (by decide) _

theorem Retained.unitMoved (h : Retained r s) (u : Word) (n : Nat) (x : U64) : Retained r (s.unitMoved u n x) :=
  ((h.writeEvent _ _).showStatus u 2 1).endTouch u

theorem bedStat_notin_flt {b : Nat} (hb : b < 4) : BED_STAT + bedOff b ∉ FLT_STAT :: fltKept := by
  refine notin_flt (.inl ?_)
  unfold BED_STAT bedOff
  omega

theorem lssReg_notin_flt {a e : Nat} (ha : a < 0x50000) (he : e < 2) : a + lssOff e ∉ FLT_STAT :: fltKept := by
  refine notin_flt (.inl ?_)
  unfold lssOff
  omega

theorem Retained.setBedState (h : Retained r s) {b : Nat} (hb : b < 4) (v : Nat) : Retained r (s.setBedState b v) := h.setFld (bedStat_notin_flt hb) v

theorem Retained.degradeBed (h : Retained r s) (b : Fin 4) (u : Word) (x : Bool) : Retained r (s.degradeBed b u x) := by
  have hmark : ∀ t : State, Retained r t → Retained r ((if (t.setFlag (degradedBed b) true).bedState b = 0 then t.setFlag (degradedBed b) true
      else (t.setFlag (degradedBed b) true).setBedState b 4).markDegraded u) := by
    intro t ht
    have h1 := ht.setFlag (f := degradedBed b) (by decide : FLT_DEGRADED ∉ FLT_STAT :: fltKept) true
    split
    · exact h1.markDegraded u
    · exact (h1.setBedState b.isLt 4).markDegraded u
  cases x with
  | true => exact hmark _ (h.setBed b _)
  | false => exact hmark s h

theorem Retained.degradeEngine (h : Retained r s) {e : Nat} (he : e < 2) (u : Word) : Retained r (s.degradeEngine e u) :=
  ((h.setFlag (f := degradedEngine e) (by decide : FLT_DEGRADED ∉ FLT_STAT :: fltKept) true).setFld (lssReg_notin_flt (by decide) he) 3).markDegraded u

theorem Retained.driveHold (h : Retained r s) : Retained r s.driveHold := by
  have hne : ∀ a ∈ FLT_STAT :: fltKept, a ≠ DEC_HOLD_CNT ∧ a ≠ DEC_STAT := by decide
  refine h.trans (.of_reg (fun a ha => State.driveHold_reg _ (hne a ha).1 (hne a ha).2) ?_)
  rw [s.driveHold_keeps.same .aug rfl]

theorem State.haltNow_recorded (s : State) (cause : Nat) : Recorded s.aug (s.haltNow cause).aug := by
  rw [State.haltNow_eq]
  refine Recorded.trans ?_ (State.enterState_recorded _ _ _ _ _)
  split
  · exact State.refuseLaunch_recorded (s.haltTaken cause) 3
  · exact .refl _

theorem Retained.halt (h : Retained r s) (cause : Nat) : Retained r (s.halt cause) := by
  have hne : ∀ a ∈ FLT_STAT :: fltKept, a ∉ FLT_SUB_CNT :: HZN_STAT :: noteRegs := by decide
  unfold State.halt
  split
  · exact h.trans (.of_regs rfl rfl)
  · split
    · exact h.trans (.of_reg (fun a ha => State.haltNow_reg _ _ (hne a ha)) (s.haltNow_recorded cause).tailExtends)
    · exact h

theorem Retained.retireColumn (h : Retained r s) (b : Fin 4) (p : Nat) (u : Word) : Retained r (s.retireColumn b p u) := by
  have hgone : ∀ g, Retained r (((s.setBed b g).showStatus u 2 1).endTouch u) := fun g => ((h.setBed b g).showStatus u 2 1).endTouch u
  unfold State.retireColumn
  dsimp only
  split
  · split
    · exact h
    · exact h.endTouch u
  · split
    · exact hgone _
    · split
      · exact hgone _
      · split
        · split
          · exact h.setBed b _
          · exact (h.setBed b _).degradeBed b u true
        · exact (h.setBed b _).degradeBed b u true

theorem Retained.retireExit (h : Retained r s) (b : Fin 4) (x : Bool) (u : Word) : Retained r (s.retireExit b x u) := by
  have h1 := ((h.setFlt { s.flt with exitFailed := s.flt.exitFailed.set b (s.flt.exitFailed[b].1 || !x, s.flt.exitFailed[b].2 || x) }).degradeBed
    b u false).driveHold
  unfold State.retireExit
  dsimp only
  split
  · exact (h1.setFld (by decide) 3).halt 1
  · exact h1

theorem Retained.retireDecLane (h : Retained r s) (l : Nat) (u : Word) : Retained r (s.retireDecLane l u) := by
  unfold State.retireDecLane
  dsimp only
  split
  · exact h.setDec _
  · exact ((h.setDec _).setFlag (f := DEC_STAT_LANE_FAULT) (by decide) true).markDegraded u

theorem Retained.laneLeft (h : Retained r s) {l : Fin 80} {t : State} (k : LaneLeft l s t) (ha : t.aug = s.aug) : Retained r t := by
  have hne : ∀ a ∈ FLT_STAT :: fltKept, ¬ linkBlock a := by
    intro a hm hb
    have hf : ∀ x ∈ FLT_STAT :: fltKept, 0x60000 ≤ x ∧ x < 0x70000 := by decide
    have := hf a hm
    unfold linkBlock at hb
    omega
  exact h.trans (.of_reg (fun a hm => k.reg a (.inr (hne a hm))) (by rw [ha]))

theorem laneStat_notin_flt (l : Fin 80) : LNK_STAT + lnkOff l ∉ FLT_STAT :: fltKept := by
  refine notin_flt (.inr ?_)
  unfold LNK_STAT
  omega

theorem Retained.retireStreamLane (h : Retained r s) (l : Fin 80) (u : Word) : Retained r (s.retireStreamLane l u) := by
  have hret : (if l.val < 32 then STM_LANE_RET_LO else STM_LANE_RET_HI) ∉ FLT_STAT :: fltKept := by
    split <;> decide
  have h1 := (h.setFlag (f := STM_STAT_LANE_RET) (by decide) true).setFlag
    (f := ⟨if l.val < 32 then STM_LANE_RET_LO else STM_LANE_RET_HI, l.val % 32, 1⟩) hret true
  have h2 := h1.laneLeft (State.abortEye_left _ l) ((Keeps.abortEye (.refl [.regs, .lanes, .free] _) rfl l).same .aug rfl)
  have h3 := h2.laneLeft (State.dropItem_left _ l) ((Keeps.dropItem (.refl [.regs, .lanes] _) rfl l).same .aug rfl)
  exact ((h3.setFld (f := LNK_STAT_STATE.on (lnkOff l)) (laneStat_notin_flt l) 0).setFlag (f := LNK_STAT_LOCK.on (lnkOff l))
    (laneStat_notin_flt l) false).unitMoved u 0xFF _

theorem Retained.degradeBank (h : Retained r s) (e : Fin 2) (b : Nat) (u : Word) : Retained r (s.degradeBank e b u) :=
  (h.setEng e _).degradeEngine e.isLt u

theorem Retained.retireSilt (h : Retained r s) (e : Fin 2) (b c : Nat) (u : Word) : Retained r (s.retireSilt e b c u) := by
  unfold State.retireSilt
  dsimp only
  split
  · exact (h.setEng e _).degradeBank e b u
  · split
    · exact h.setEng e _
    · exact h.degradeBank e b u

theorem Retained.retireBridge (h : Retained r s) (d : Fin 2) (u : Word) : Retained r (s.retireBridge d u) := by
  unfold State.retireBridge
  split
  · exact h.setFlt _
  · exact (h.setFlag (by decide) true).markDegraded u

theorem Retained.retireUnit (h : Retained r s) (u : Word) : Retained r (s.retireUnit u) := by
  have hdie : unitDie u < 2 := Nat.mod_lt _ (by decide)
  unfold State.retireUnit
  dsimp only
  split
  · exact h.retireColumn _ _ u
  · split
    · exact h.retireExit _ false u
    · exact h.retireExit _ true u
    · exact h.degradeBed _ u true
  · exact ((h.setEng _ _).setFlag (f := LSS_MEM_STAT_ROW_SPARED.on (lssOff (Fin.ofNat 2 (unitDie u)).val))
      (lssReg_notin_flt (by decide) (Fin.isLt _)) true).unitMoved u 0 _
  · exact h.retireSilt _ _ _ u
  · exact h.degradeEngine hdie u
  · exact h.retireStreamLane _ u
  · exact h.retireDecLane _ u
  · exact h.markDegraded u
  · exact h.retireBridge _ u
  · exact ((h.setAug (z := { s.aug with rsaFailed := true }) rfl).setFlag (f := FLT_DEGRADED_RSA) (by decide) true).markDegraded u
  · exact h.markDegraded u

theorem Retained.dropTarget (h : Retained r s) (b : Fin 4) : Retained r (s.dropTarget b) := by
  unfold State.dropTarget
  dsimp only
  split
  · split
    · exact (h.setBed b _).setBedState b.isLt 1
    · exact h.setBed b _
  · exact h

theorem Retained.dropTargets (h : Retained r s) (bs : List Nat) : Retained r (bs.foldl (fun s b => s.dropTarget (Fin.ofNat 4 b)) s) := by
  induction bs generalizing s with
  | nil => exact h
  | cons b bs ih => exact ih (h.dropTarget _)

theorem Retained.cancelRotation (h : Retained r s) : Retained r s.cancelRotation := by
  unfold State.cancelRotation
  split
  · exact h
  · exact (((((h.setSvc _).dropTargets _).setFld (by decide) 0).setFld (by decide) 0).setFlag (by decide) false).setFld (by decide) 9

theorem Retained.dropFaultyTarget (h : Retained r s) (u : Word) : Retained r (s.dropFaultyTarget u) := by
  have hdrop : ∀ mine loads : Bool, Retained r (if unitType u == 1 && loads then s
      else if mine then s.cancelRotation else s.dropTarget (Fin.ofNat 4 (unitBed u))) := by
    intro mine loads
    split
    · exact h
    · split
      · exact h.cancelRotation
      · exact h.dropTarget _
  unfold State.dropFaultyTarget
  extract_lets b
  split
  · exact hdrop _ _
  · exact h

end

end Sys2Proof.Machine

/-! What a detection shows and a classification leaves (R344, R345, R351). -/

namespace Sys2Proof.Machine

section
variable {r s t : State}

theorem State.notes.mono {code : Nat} {args : List Nat} (h : s.notes t code args) {u : State} (k : t.aug.tail <+: u.aug.tail) : s.notes u code args := by
  obtain ⟨x, b, hx, hb⟩ := h
  exact ⟨x, b, (k.drop _).subset hx, hb⟩

theorem State.notes.since {code : Nat} {args : List Nat} (h : s.notes t code args) (k : r.aug.tail <+: s.aug.tail) : r.notes t code args := by
  obtain ⟨x, b, hx, hb⟩ := h
  exact ⟨x, b, List.drop_subset_drop_left _ k.length_le hx, hb⟩

end

section
variable (s : State)

theorem State.numberEvent_appends (code : Nat) (h : U64) (l p : Nat) (args : List Nat) (v : List Byte) (hn : s.canNumber = true) :
    (s.numberEvent code h l p args v).aug.tail = s.aug.tail ++ [⟨s.aug.nextSeq, s.eventRecord code h l p args v⟩] := by
  have ht := (s.numberRec_tail (s.eventRecord code h l p args v) hn).1
  unfold State.numberEvent
  dsimp only
  split
  · exact ht
  · exact ht

/-- An EVENT record that is written stands among the new records of the tail. -/
theorem State.writeEventAt_notes {code : Nat} (hc : code < 65536) (h : U64) (l : Nat) (args : List Nat) (hn : s.canNumber = true) :
    s.notes (s.writeEventAt code h l args) code args := by
  have hn' : (s.closeDueSeal.timeMark).canNumber = true := by rw [State.timeMark_canNumber, State.closeDueSeal_canNumber, hn]
  have hpre := (s.closeDueSeal_recorded.trans (State.timeMark_recorded _)).tailExtends
  have htail := s.closeDueSeal.timeMark.numberEvent_appends code h l 1 args [] hn'
  have hcode : (BitVec.ofNat 16 code).toNat = code := Nat.mod_eq_of_lt hc
  refine State.notes.since (s := s.closeDueSeal.timeMark) ⟨⟨s.closeDueSeal.timeMark.aug.nextSeq, s.closeDueSeal.timeMark.eventRecord code h l 1 args []⟩, _, ?_, rfl, hcode, rfl⟩
    hpre
  show _ ∈ (s.closeDueSeal.timeMark.numberEvent code h l 1 args []).aug.tail.drop _
  rw [htail, List.drop_left]
  exact List.mem_cons_self

theorem State.writeEvent_notes {code : Nat} (hc : code < 65536) (args : List Nat) (hn : s.canNumber = true) :
    s.notes (s.writeEvent code args) code args := s.writeEventAt_notes hc _ _ _ hn

/-- The unit is counted and shown as lasting before its record is written. -/
def State.lastingShown (u : Word) : State := ((s.bump FLT_LASTING_CNT).setFlag FLT_STAT_LASTING true).showStatus u 2 0

theorem State.showStatus_reg (u : Word) (x y : Nat) {a : Nat} (h : a ≠ FLT_CAUSE) : (s.showStatus u x y).reg a = s.reg a := by
  unfold State.showStatus
  split
  · dsimp only
    split
    · exact State.reg_setFld_ne _ _ h
    · exact (State.reg_setFld_ne _ _ h).trans (State.reg_setFld_ne s _ h)
  · rfl

theorem State.lastingShown_reg (u : Word) {a : Nat} (h : a ≠ FLT_CAUSE) (h' : a ≠ FLT_STAT) (h'' : a ≠ FLT_LASTING_CNT) :
    (s.lastingShown u).reg a = s.reg a :=
  (State.showStatus_reg _ u 2 0 h).trans ((State.reg_setFlag_ne _ true h').trans (s.reg_bump_ne h''))

theorem State.lastingShown_retained (u : Word) (n : Nat) : Retained (s.lastingShown u) (s.retire u n) :=
  ((((Retained.refl _).writeEvent _ _).dropFaultyTarget u).retireUnit u)

end

/-- The FLT block names a detection of unit `u` at tick `h`. -/
structure Detected (u : Word) (h : U64) (t : State) : Prop where
  fault : t.flag FLT_STAT_FAULT = true
  unit : t.reg FLT_UNIT = u
  hzn : t.reg64 FLT_HZN_LO = h

section
variable {u : Word} {h : U64} {s : State}

theorem Detected.of_reg {t : State} (k : Detected u h s) (hr : ∀ a, a ∈ [FLT_UNIT, FLT_HZN_LO, FLT_HZN_HI] → t.reg a = s.reg a)
    (hf : t.flag FLT_STAT_FAULT = s.flag FLT_STAT_FAULT) : Detected u h t :=
  ⟨hf.trans k.fault, (hr _ (by decide)).trans k.unit, (State.reg64_of_reg (hr _ (by decide)) (hr _ (by decide))).trans k.hzn⟩

theorem Detected.retained {t : State} (k : Detected u h s) (x : Retained s t) : Detected u h t := by
  have hsub : ∀ a ∈ [FLT_UNIT, FLT_HZN_LO, FLT_HZN_HI], a ∈ fltKept := by decide
  exact k.of_reg (fun a ha => x.reg a (hsub a ha)) (x.flag _ (by decide))

theorem Detected.setReg (k : Detected u h s) {a : Nat} (ha : a ∉ [FLT_STAT, FLT_UNIT, FLT_HZN_LO, FLT_HZN_HI]) (v : Word) :
    Detected u h (s.setReg a v) := by
  have hne : ∀ x ∈ [FLT_STAT, FLT_UNIT, FLT_HZN_LO, FLT_HZN_HI], x ≠ a := fun x hx he => ha (he ▸ hx)
  exact k.of_reg (fun x hx => State.reg_setReg_ne _ _ (hne x (List.mem_cons_of_mem _ hx))) (State.flag_of_reg (State.reg_setReg_ne _ _ (hne _ (by decide))))

theorem Detected.setStat (k : Detected u h s) {f : Field} (ha : f.addr = FLT_STAT)
    (hf : (f.lo + f.w ≤ FLT_STAT_FAULT.lo ∨ FLT_STAT_FAULT.lo + FLT_STAT_FAULT.w ≤ f.lo) ∧ FLT_STAT_FAULT.fits) (b : Bool) :
    Detected u h (s.setFlag f b) := by
  have hne : ∀ x ∈ [FLT_UNIT, FLT_HZN_LO, FLT_HZN_HI], x ≠ f.addr := by
    rw [ha]
    decide
  exact k.of_reg (fun x hx => State.reg_setFlag_ne _ _ (hne x hx)) (State.flag_setFlag_apart _ _ (.inr hf))

theorem Detected.retire (k : Detected u h s) (v : Word) (n : Nat) : Detected u h (s.retire v n) := by
  have hne : ∀ x ∈ [FLT_UNIT, FLT_HZN_LO, FLT_HZN_HI], x ≠ FLT_CAUSE ∧ x ≠ FLT_STAT ∧ x ≠ FLT_LASTING_CNT := by decide
  refine (k.of_reg (t := s.lastingShown v) (fun x hx => s.lastingShown_reg v (hne x hx).1 (hne x hx).2.1 (hne x hx).2.2) ?_).retained
    (s.lastingShown_retained v n)
  exact (State.flag_of_reg (State.showStatus_reg _ v 2 0 (by decide))).trans
    ((State.flag_setFlag_apart _ true (by decide)).trans (State.flag_bump_ne s (by decide)))

theorem Detected.transient (k : Detected u h s) (v : Word) (x : U64) : Detected u h (s.transient v x) :=
  (((k.retained (t := { s with flt := { s.flt with hist := histStore s.flt.hist v x } }) (.of_regs rfl rfl)).setReg (a := FLT_TRANSIENT_CNT)
    (by decide) _).setStat (f := FLT_STAT_TRANSIENT) rfl (by decide) true).retained
      ((((Retained.refl _).showStatus v 1 0).writeEvent _ _).endTouch v)

theorem Detected.classify (k : Detected u h s) (v : Word) (cls : Nat) (x : U64) : Detected u h (s.classify v cls x) := by
  unfold State.classify
  split
  · exact k.retained (.of_regs rfl rfl)
  · split
    · exact k.retire v 2
    · split
      · exact k.transient v x
      · exact (k.retained (Retained.setFlt (.refl s) _)).setStat (f := FLT_STAT_TESTING) rfl (by decide) _

theorem Detected.testFeeders (k : Detected u h s) (v : Word) (x : U64) : Detected u h (s.testFeeders v x) :=
  k.retained (.of_keeps (Keeps.testFeeders (.refl [.flt] s) rfl v x) rfl rfl)

theorem Detected.classSide (k : Detected u h s) (v : Word) (cls : Nat) : Detected u h (s.classSide v cls) := by
  have hbed : ∀ {a : Nat}, a < 0x50000 → a + bedOff (unitBed v) ∉ FLT_STAT :: fltKept := by
    intro a ha
    have hb : unitBed v < 4 := Nat.mod_lt _ (by decide)
    refine notin_flt (.inl ?_)
    unfold bedOff
    omega
  have hdie : unitDie v < 2 := Nat.mod_lt _ (by decide)
  have hr : Retained s (s.classSide v cls) := by
    unfold State.classSide
    dsimp only
    split
    · exact ((Retained.refl s).setFlag (f := BED_STAT_OCC_ERR.on _) (hbed (by decide)) true).bump (hbed (by decide))
    · exact ((Retained.refl s).setFlag (f := BED_STAT_STEER_ERR.on _) (hbed (by decide)) true).bump (hbed (by decide))
    · exact ((Retained.refl s).setFlag (f := LSS_MEM_STAT_DRAM_UNCORR.on _) (lssReg_notin_flt (by decide) hdie) true).bump
        (lssReg_notin_flt (by decide) hdie)
    · exact (Retained.refl s).setFlag (f := LSS_MEM_STAT_SILT_UNCORR.on _) (lssReg_notin_flt (by decide) hdie) true
    · exact ((Retained.refl s).setFlag (f := LSS_STAT_SEQ_ERR.on _) (lssReg_notin_flt (by decide) hdie) true).bump (lssReg_notin_flt (by decide) hdie)
    · exact .refl s
  exact k.retained hr

theorem Retained.detectEvent {r : State} (k : Retained r s) (v : Word) (cls : Nat) (x : U64) (tag : Nat) : Retained r (s.detectEvent v cls x tag) := by
  unfold State.detectEvent
  split
  · exact k
  · exact (k.setFlt _).writeEventAt _ _ _ _

theorem State.errorShown_detected (s : State) (u : Word) (cls cause : Nat) (h : U64) (tag : Nat) : Detected u h (s.errorShown u cls cause h tag) := by
  have hset : Detected u h ((((s.wakeEntry.setReg FLT_CAUSE (BitVec.ofNat 32 (cls * 65536 + cause * 16))).setReg FLT_UNIT u).setReg64 FLT_HZN_LO h).setFlag
      FLT_STAT_FAULT true) := by
    refine ⟨State.flag_setFlag _ _ _ (by decide) rfl, ?_, ?_⟩
    · rw [State.reg_setFlag_ne _ _ (by decide), State.reg_setReg64_ne _ _ (by decide) (by decide), State.reg_setReg]
    · rw [State.reg64_of_reg (State.reg_setFlag_ne _ _ (by decide)) (State.reg_setFlag_ne _ _ (by decide)), State.reg64_setReg64]
  exact (hset.classSide u cls).retained ((Retained.refl _).detectEvent u cls h tag)

/-- What follows an error that is shown: a halt of its class, or touching and classification (R346, R351, R354). -/
def State.errorSorted (s : State) (u : Word) (cls cause : Nat) (h : U64) : State :=
  if classHalt cls ≠ 0 then
    let s := (s.setFld FLT_CAUSE_ACTION 3).halt (classHalt cls)
    if cls = 0x10 then { s with aug := { s.aug with numberingFailed := true } } else s
  else
    let touch := ((1 ≤ cls ∧ cls ≤ 6) ∨ cls = 8) ∧ !s.noTest u cls
    let s := if touch ∧ !s.flt.touching.any (fun t => t.unit == u && t.stop.isNone) then
        { s with flt := { s.flt with touching := s.flt.touching ++ [(⟨u, cause, h, none⟩ : Touching)] } }
      else s
    if cls = 7 then s
    else
      let s := s.classify u cls h
      if cls = 5 then s.testFeeders u h else s

theorem State.detect_eq (s : State) (u : Word) (cls : Nat) (h : U64) (tag : Nat) :
    s.detect u cls h tag = (s.errorShown u cls (classCause cls) h tag).errorSorted u cls (classCause cls) h := rfl

theorem Detected.errorSorted (k : Detected u h s) (cls cause : Nat) : Detected u h (s.errorSorted u cls cause h) := by
  have hsort : ∀ t : State, Detected u h t → Detected u h (if cls = 7 then t else
      if cls = 5 then (t.classify u cls h).testFeeders u h else t.classify u cls h) := by
    intro t ht
    split
    · exact ht
    · split
      · exact (ht.classify u cls h).testFeeders u h
      · exact ht.classify u cls h
  unfold State.errorSorted
  split
  · have hh := k.retained (((Retained.refl s).setFld (f := FLT_CAUSE_ACTION) (by decide) 3).halt (classHalt cls))
    dsimp only
    split
    · exact hh.retained (Retained.setAug (.refl _) rfl)
    · exact hh
  · refine hsort _ ?_
    split
    · exact k.retained (Retained.setFlt (.refl s) _)
    · exact k

/-- After a detection the FLT block names its unit and tick (R344). -/
theorem State.detect_detected (s : State) (u : Word) (cls : Nat) (h : U64) (tag : Nat) : Detected u h (s.detect u cls h tag) :=
  (s.errorShown_detected u cls (classCause cls) h tag).errorSorted cls (classCause cls)

end

end Sys2Proof.Machine

/-! Seals and mirroring (chapter 10). -/

namespace Sys2Proof.Machine

/-! Closing a seal -/

/-- Head snapshots change the snapshots and their counts only. -/
theorem Aug.foldl_snapshot_eq (ls : List (Fin 8)) (a : Aug) : ∃ n m, ls.foldl Aug.snapshot a = { a with snaps := n, sinceSnap := m } := by
  induction ls generalizing a with
  | nil => exact ⟨_, _, rfl⟩
  | cons l ls ih =>
    obtain ⟨n, m, h⟩ := ih (a.snapshot l)
    exact ⟨n, m, h⟩

section
variable (s : State)

/-- Numbering a record and closing a run leave the seal interval. -/
theorem State.numberRec_interval (r : Record) : (s.numberRec r).aug.firstSeq = s.aug.firstSeq ∧ (s.numberRec r).aug.sealNo = s.aug.sealNo := by
  unfold State.numberRec
  split
  · dsimp only
    split <;> split <;> exact ⟨rfl, rfl⟩
  · exact ⟨rfl, rfl⟩

theorem State.closeRun_interval (k : Nat) : (s.closeRun k).aug.firstSeq = s.aug.firstSeq ∧ (s.closeRun k).aug.sealNo = s.aug.sealNo := by
  unfold State.closeRun
  split
  · exact ⟨rfl, rfl⟩
  · exact s.numberRec_interval _

theorem State.closeRuns_interval : s.closeRuns.aug.firstSeq = s.aug.firstSeq ∧ s.closeRuns.aug.sealNo = s.aug.sealNo := by
  unfold State.closeRuns
  exact List.foldlRecOn (motive := fun t : State => t.aug.firstSeq = s.aug.firstSeq ∧ t.aug.sealNo = s.aug.sealNo) _ _ ⟨rfl, rfl⟩
    fun t ht k _ => ⟨(t.closeRun_interval k).1.trans ht.1, (t.closeRun_interval k).2.trans ht.2⟩

/-- The auger unit once a seal of reason `r` stands behind the records and a new interval begins (R332). -/
def State.sealStands (r : Nat) : Aug :=
  (List.finRange 8).foldl Aug.snapshot { s.aug.append (s.sealRecord r) s.mirrored s.tim.c with
    counts := Vector.replicate 8 0
    firstSeq := (s.aug.append (s.sealRecord r) s.mirrored s.tim.c).nextSeq
    sealNo := s.aug.sealNo + 1
    lastTimed := some s.recordNs
    intervalBytes := 0
    intervalStart := s.tim.c }

theorem State.sealStands_eq (r : Nat) : ∃ n m, s.sealStands r = { s.aug.append (s.sealRecord r) s.mirrored s.tim.c with
    counts := Vector.replicate 8 0
    firstSeq := (s.aug.append (s.sealRecord r) s.mirrored s.tim.c).nextSeq
    sealNo := s.aug.sealNo + 1
    lastTimed := some s.recordNs
    intervalBytes := 0
    intervalStart := s.tim.c
    snaps := n
    sinceSnap := m } := Aug.foldl_snapshot_eq _ _

/-- The seal is no longer due. -/
def State.sealBegun : State := { s.closeRuns with aug := { s.closeRuns.aug with sealDue := 0 } }

/-- AUG_RATE and the fields of AUG_STAT that a seal shows. -/
def State.sealShown (rate r : Nat) : State :=
  ((s.setReg AUG_RATE (BitVec.ofNat 32 rate)).setFld AUG_STAT_LAST_REASON r).setFlag AUG_STAT_SIGN_BUSY true

theorem State.closeSeal_eq (r : Nat) (hn : s.canNumber = true) (hne : s.closeRuns.aug.nextSeq ≠ s.closeRuns.aug.firstSeq) :
    ∃ rate, s.closeSeal r = if 3 ≤ r then (State.sealShown { s.sealBegun with aug := s.sealBegun.sealStands r } rate r).setFlag AUG_STAT_SEAL_FORCED true
      else State.sealShown { s.sealBegun with aug := s.sealBegun.sealStands r } rate r := by
  unfold State.closeSeal
  rw [if_pos hn]
  exact ⟨_, if_neg hne⟩

theorem State.closeSeal_aug (r : Nat) (hn : s.canNumber = true) (hne : s.closeRuns.aug.nextSeq ≠ s.closeRuns.aug.firstSeq) :
    (s.closeSeal r).aug = s.sealBegun.sealStands r := by
  obtain ⟨rate, h⟩ := s.closeSeal_eq r hn hne
  rw [h]
  split <;> rfl

theorem State.closeSeal_busy (r : Nat) (hn : s.canNumber = true) (hne : s.closeRuns.aug.nextSeq ≠ s.closeRuns.aug.firstSeq) :
    (s.closeSeal r).flag AUG_STAT_SIGN_BUSY = true ∧ (3 ≤ r → (s.closeSeal r).flag AUG_STAT_SEAL_FORCED = true) := by
  obtain ⟨rate, h⟩ := s.closeSeal_eq r hn hne
  rw [h]
  split
  · exact ⟨(State.flag_setFlag_apart _ true (by decide)).trans (State.flag_setFlag _ _ _ (by decide) rfl),
      fun _ => State.flag_setFlag _ _ _ (by decide) rfl⟩
  · exact ⟨State.flag_setFlag _ _ _ (by decide) rfl, fun h3 => absurd h3 ‹_›⟩

theorem State.closeSeal_framed (r : Nat) : Framed [.regs, .aug] [AUG_RATE, AUG_STAT] s (s.closeSeal r) :=
  (Keeps.closeSeal (.refl [.regs, .aug] s) rfl r).framed fun a ha => by
    simp only [List.mem_cons, List.not_mem_nil, or_false, not_or] at ha
    exact s.closeSeal_reg r ha.1 ha.2

theorem State.closeDueSeal_eq {r : Nat} (hd : s.aug.sealDue = r) (hr : r ≠ 0) (hne : s.aug.nextSeq ≠ s.aug.firstSeq) :
    s.closeDueSeal = s.closeSeal r := by
  unfold State.closeDueSeal
  rw [hd, if_neg hr, if_neg]
  simp [hne]

theorem State.writePair_framed (code : Nat) (h : U64) (l c : Nat) (v : List Byte) :
    Framed [.regs, .aug] [AUG_RATE, AUG_STAT] s (s.writePair code h l c v) :=
  (Keeps.writePair (.refl [.regs, .aug] s) rfl _ _ _ _ _).framed fun a ha => by
    simp only [List.mem_cons, List.not_mem_nil, or_false, not_or] at ha
    exact s.writePair_reg code h l c v ha.1 ha.2

theorem State.writePair_last (code : Nat) (h : U64) (l c : Nat) (v : List Byte) (hn : s.canNumber = true) :
    (s.writePair code h l c v).lastEvent = some (code % 65536, [c]) := by
  refine State.numberEvent_last _ _ _ _ _ _ _ ?_
  rw [State.numberEvent_canNumber, State.timeMark_canNumber, State.closeDueSeal_canNumber, hn]

theorem State.writePair_flag {f : Field} (code : Nat) (h : U64) (l c : Nat) (v : List Byte) (hf : f.apartFrom AUG_STAT_LAST_REASON ∧
    f.apartFrom AUG_STAT_SIGN_BUSY ∧ f.apartFrom AUG_STAT_SEAL_FORCED) (hr : f.addr ≠ AUG_RATE) : (s.writePair code h l c v).flag f = s.flag f := by
  unfold State.writePair
  rw [State.flag_congr (State.numberEvent_regs _ _ _ _ _ _ _), State.flag_congr (State.numberEvent_regs _ _ _ _ _ _ _),
    State.flag_congr (State.timeMark_regs _), State.closeDueSeal_flag _ ⟨hr, hf⟩]

end

/-! Numbers that are assigned at their tail write -/

/-- The unit assigns every number it gives at once: mirroring is off for a neighbour that did not answer (R337). -/
def Aug.assignsAll (a : Aug) : Prop := a.unmirrored = true ∧ a.assigned = a.nextSeq

section
variable {s : State}

theorem State.mirrored_of_assignsAll (h : s.aug.assignsAll) : s.mirrored = false := by
  unfold State.mirrored
  rw [h.1]
  simp

theorem State.numberRec_assignsAll (h : s.aug.assignsAll) (r : Record) : (s.numberRec r).aug.assignsAll := by
  unfold State.numberRec
  rw [State.mirrored_of_assignsAll h]
  split
  · dsimp only
    split <;> split <;> exact ⟨h.1, rfl⟩
  · exact h

theorem State.closeRun_assignsAll (h : s.aug.assignsAll) (k : Nat) : (s.closeRun k).aug.assignsAll := by
  unfold State.closeRun
  split
  · exact h
  · exact State.numberRec_assignsAll h _

theorem State.closeRuns_assignsAll (h : s.aug.assignsAll) : s.closeRuns.aug.assignsAll := by
  unfold State.closeRuns
  exact List.foldlRecOn (motive := fun t : State => t.aug.assignsAll) _ _ h fun t ht k _ => State.closeRun_assignsAll ht k

theorem State.closeSeal_assignsAll (h : s.aug.assignsAll) (r : Nat) : (s.closeSeal r).aug.assignsAll := by
  have hr : s.closeRuns.aug.assignsAll := State.closeRuns_assignsAll h
  by_cases hn : s.canNumber = true
  · by_cases hne : s.closeRuns.aug.nextSeq = s.closeRuns.aug.firstSeq
    · unfold State.closeSeal
      rw [if_pos hn]
      dsimp only
      rw [if_pos hne]
      exact hr
    · obtain ⟨n, m, he⟩ := s.sealBegun.sealStands_eq r
      have hm : s.sealBegun.mirrored = false := State.mirrored_of_assignsAll (s := s.sealBegun) hr
      rw [State.closeSeal_aug s r hn hne, he, hm]
      exact ⟨hr.1, rfl⟩
  · unfold State.closeSeal
    rw [if_neg hn]
    exact h

theorem State.closeDueSeal_assignsAll (h : s.aug.assignsAll) : s.closeDueSeal.aug.assignsAll := by
  unfold State.closeDueSeal
  split
  · exact h
  · split
    · exact h
    · exact State.closeSeal_assignsAll h _

theorem State.numberEvent_assignsAll (h : s.aug.assignsAll) (code : Nat) (x : U64) (l p : Nat) (args : List Nat) (v : List Byte) :
    (s.numberEvent code x l p args v).aug.assignsAll := by
  have k := State.numberRec_assignsAll h (s.eventRecord code x l p args v)
  unfold State.numberEvent
  dsimp only
  split
  · exact k
  · exact k

theorem State.timeMark_assignsAll (h : s.aug.assignsAll) : s.timeMark.aug.assignsAll := by
  unfold State.timeMark
  split
  · exact State.numberEvent_assignsAll h _ _ _ _ _ _
  · exact h

theorem State.writeEvent_assignsAll (h : s.aug.assignsAll) (code : Nat) (args : List Nat) : (s.writeEvent code args).aug.assignsAll :=
  State.numberEvent_assignsAll (State.timeMark_assignsAll (State.closeDueSeal_assignsAll h)) _ _ _ _ _ _

/-! The commands -/

theorem exec_sealNow {p : Path} (h : s.opens p AUG_CTL) : exec (.sealNow p) s = .next (s.seen p).sealRequest :=
  congrArg Host.Outcome.next (State.via_of_opens h fun u => u.sealRequest)

theorem exec_sealSigned (hr : s.aug.running = true) (hf : s.aug.rsaFailed = false) (hu : s.aug.tail.any TailRec.unsigned = true) (good : Bool) :
    exec (.sealSigned good) s = .next (s.sealSigned good) := congrArg Host.Outcome.next (if_pos (by rw [hr, hf, hu]; rfl))

theorem exec_mirrorAck (hr : s.aug.running = true) (he : s.flag AUG_CTL_MIRROR_EN = true) (hv : s.flag RNG_MIRROR_TGT_VALID = true) (seq : U64) :
    exec (.mirrorAck seq) s = .next (s.mirrorAcked seq) := congrArg Host.Outcome.next (if_pos (by rw [hr, he, hv]; rfl))

theorem exec_mirrorTimeout (hr : s.aug.running = true) (hm : s.mirrored = true) (ha : s.aug.assigned.toNat < s.aug.nextSeq.toNat) :
    exec .mirrorTimeout s = .next s.mirrorExpired := congrArg Host.Outcome.next (if_pos (by rw [hr, hm, decide_eq_true ha]; rfl))

/-- The signature is in, and a mirrored seal goes to the neighbour again (R334). -/
def Aug.signed (a : Aug) (m : Bool) : Aug :=
  ({ a with tail := signFirst a.tail, mirrorOut := a.mirrorOut ++ (if m then ({ a with tail := signFirst a.tail } : Aug).newlySigned a.tail else []) } :
    Aug).release

theorem State.sealSigned_eq (s : State) : s.sealSigned true =
    ({ s with aug := s.aug.signed s.mirrored } : State).setFlag AUG_STAT_SIGN_BUSY ((s.aug.signed s.mirrored).tail.any TailRec.unsigned) := by
  have hm : ({ s with aug := { s.aug with tail := signFirst s.aug.tail } } : State).mirrored = s.mirrored := rfl
  unfold State.sealSigned Aug.signed
  dsimp only
  rw [if_pos rfl, hm]
  cases s.mirrored with
  | true => rfl
  | false => rw [if_neg Bool.false_ne_true, if_neg Bool.false_ne_true, List.append_nil]

theorem State.mirrorTail_regs (s : State) : s.mirrorTail.regs = s.regs := rfl

theorem State.mirrorTail_framed (s : State) : Framed [.aug] [] s s.mirrorTail := (Framed.refl _ _ s).setAug (by decide) _

/-- The neighbour's answer brings mirroring back (R337). -/
def State.mirrorReturns (s : State) : State :=
  (({ s with aug := { s.aug with unmirrored := false } } : State).setFlag AUG_STAT_UNMIRRORED false).mirrorTail

theorem State.mirrorReturns_shows (s : State) : s.mirrorReturns.canNumber = s.canNumber ∧ s.mirrorReturns.aug.unmirrored = false ∧
    s.mirrorReturns.flag AUG_STAT_UNMIRRORED = false ∧ Framed [.regs, .ring, .aug, .free] [AUG_RATE, AUG_STAT] s s.mirrorReturns :=
  ⟨rfl, rfl, (State.flag_congr (State.mirrorTail_regs _) _).trans (State.flag_setFlag _ _ _ (by decide) rfl),
    (((Framed.refl _ _ s).setAug (by decide) _).setFlag (by decide) (by decide) false).trans
      ((State.mirrorTail_framed _).mono (by decide) (List.nil_subset _))⟩

theorem State.mirrorAcked_returns (h : s.aug.unmirrored = true) (seq : U64) : s.mirrorAcked seq = s.mirrorReturns.writeEvent 0x0804 [0] := if_pos h

theorem State.mirrorAcked_assigns (h : s.aug.unmirrored = false) (seq : U64) : s.mirrorAcked seq =
    if s.aug.assigned.toNat ≤ seq.toNat ∧ seq.toNat < s.aug.nextSeq.toNat then { s with aug := { s.aug with assigned := seq + 1 } } else s :=
  if_neg (by rw [h]; exact Bool.false_ne_true)

/-- The neighbour has not answered: numbers are assigned at their tail write (R337). -/
def State.mirrorLost (s : State) : State :=
  ({ s with aug := { s.aug with unmirrored := true, assigned := s.aug.nextSeq } } : State).setFlag AUG_STAT_UNMIRRORED true

theorem State.mirrorLost_shows (s : State) : s.mirrorLost.canNumber = s.canNumber ∧ s.mirrorLost.aug.assignsAll ∧
    s.mirrorLost.flag AUG_STAT_UNMIRRORED = true ∧ Framed [.regs, .aug] [AUG_RATE, AUG_STAT] s s.mirrorLost :=
  ⟨rfl, ⟨rfl, rfl⟩, State.flag_setFlag _ _ _ (by decide) rfl, ((Framed.refl _ _ s).setAug (by decide) _).setFlag (by decide) (by decide) true⟩

theorem State.mirrorExpired_eq (s : State) : s.mirrorExpired = s.mirrorLost.writeEvent 0x0804 [1] := rfl

theorem Framed.setHst {A : List Area} {R : List Nat} {r s : State} (h : Framed A R r s) (hA : Area.hst ∈ A) (z : Hst) :
    Framed A R r { s with hst := z } := h.area .hst hA rfl (fun p hp => by
  cases p with
  | hst => exact absurd rfl hp
  | _ => rfl)

/-- The lost module's records wait for the host, counted, with ORPHAN (R340). -/
def State.orphanQueued (s : State) (serial : U64) (rs : List MirrorRec) : State :=
  (({ s with hst := { s.hst with forward := s.hst.forward ++ rs.map (fun (r : MirrorRec) => (serial, r.seq)) } } : State).bumpBy AUG_ORPHAN_CNT
    rs.length).setFlag AUG_STAT_ORPHAN true

theorem State.orphanQueued_shows (s : State) (serial : U64) (rs : List MirrorRec) : (s.orphanQueued serial rs).canNumber = s.canNumber ∧
    (s.orphanQueued serial rs).hst = { s.hst with forward := s.hst.forward ++ rs.map (fun r => (serial, r.seq)) } ∧
    (s.orphanQueued serial rs).flag AUG_STAT_ORPHAN = true ∧
    Framed [.regs, .hst, .aug] [AUG_ORPHAN_CNT, AUG_RATE, AUG_STAT] s (s.orphanQueued serial rs) :=
  ⟨rfl, rfl, State.flag_setFlag _ _ _ (by decide) rfl,
    (((Framed.refl _ _ s).setHst (by decide) _).setReg (by decide) (by decide) _).setFlag (by decide) (by decide) true⟩

theorem State.forwardOrphan_eq (s : State) (serial : U64) (rs : List MirrorRec) : ∃ v, s.forwardOrphan serial rs =
    (s.orphanQueued serial rs).writePair 0x0803 s.count 0 serial.toNat v := ⟨_, rfl⟩

theorem exec_orphanTailForward {serial : U64} {rs : List MirrorRec} (hr : s.aug.running = true)
    (he : rs = (s.aug.mirror.filter (fun r => r.serial == serial)).foldl (fun acc r => mirrorInsert r acc) []) (hn : rs ≠ [])
    (hf : s.hst.forward.any (fun f => f.1 == serial) = false) : exec (.orphanTailForward serial) s = .next (s.forwardOrphan serial rs) := by
  have hne : rs.isEmpty = false := by simpa using hn
  subst he
  exact congrArg Host.Outcome.next (if_pos (by rw [hr, hf, hne]; rfl))

end

/-- Settles O42: the seals, and the four turns of mirroring. -/
theorem recordsAreSealedAndMirrored : Obligations.RecordsAreSealedAndMirrored := by
  unfold Obligations.RecordsAreSealedAndMirrored
  refine ⟨?ask, ?close, ?none, ?signed, ?failed, ?ack, ?back, ?timeout, ?orphan⟩
  case ask =>
    intro p s ho
    refine ⟨_, exec_sealNow ho, ?_, (Framed.refl _ _ _).setAug (by decide) _⟩
    show (s.seen p).aug.sealFalls 3 = _
    unfold Aug.sealFalls
    rw [if_neg (c := (s.seen p).aug.sealDue = 2 ∧ 3 = 1) fun h => absurd h.2 (by decide)]
  case close =>
    intro r s hd hr hn hne hne'
    obtain ⟨hfirst, hno⟩ := s.closeRuns_interval
    have hne'' : s.closeRuns.aug.nextSeq ≠ s.closeRuns.aug.firstSeq := by rw [hfirst]; exact hne'
    obtain ⟨n, m, he⟩ := s.sealBegun.sealStands_eq r
    obtain ⟨hbusy, hforced⟩ := s.closeSeal_busy r hn hne''
    refine ⟨_, congrArg Host.Outcome.next (s.closeDueSeal_eq hd hr hne), ?_⟩
    rw [State.closeSeal_aug s r hn hne'', he]
    exact ⟨rfl, rfl, congrArg (· + 1) hno, rfl, rfl, rfl, hbusy, hforced, s.closeSeal_framed r⟩
  case none =>
    intro s hd
    exact congrArg Host.Outcome.next (if_pos hd)
  case signed =>
    intro s hr hf hu
    refine ⟨_, exec_sealSigned hr hf hu true, ?_⟩
    rw [State.sealSigned_eq]
    exact ⟨rfl, State.flag_setFlag _ _ _ (by decide) rfl, ((Framed.refl _ _ s).setAug (by decide) _).setFlag (by decide) (by decide) _⟩
  case failed =>
    intro s hr hf hu
    obtain ⟨hfault, hunit, hhzn⟩ := s.detect_detected rsaUnit 0x11 s.count 0
    exact ⟨_, exec_sealSigned hr hf hu false, hfault, hunit, hhzn⟩
  case ack =>
    intro seq s hr he hv hm
    rw [exec_mirrorAck hr he hv, State.mirrorAcked_assigns hm]
  case back =>
    intro seq s hr he hv hm
    refine ⟨_, exec_mirrorAck hr he hv seq, ?_⟩
    rw [State.mirrorAcked_returns hm]
    obtain ⟨hcan, hun, hflag, hfr⟩ := s.mirrorReturns_shows
    exact ⟨(State.writeEvent_recorded _ _ _).unmirrored.trans hun, (State.writeEventAt_flag _ (by decide) _ _ _ _).trans hflag,
      fun hn => State.writeEvent_last _ _ _ (hcan.trans hn), hfr.writeEvent (by decide) (by decide) _ _⟩
  case timeout =>
    intro s hr hm ha
    obtain ⟨hcan, hall, hflag, hfr⟩ := s.mirrorLost_shows
    obtain ⟨hun, has⟩ := State.writeEvent_assignsAll hall 0x0804 [1]
    refine ⟨_, exec_mirrorTimeout hr hm ha, ?_⟩
    rw [State.mirrorExpired_eq]
    exact ⟨hun, has, (State.writeEventAt_flag _ (by decide) _ _ _ _).trans hflag, fun hn => State.writeEvent_last _ _ _ (hcan.trans hn),
      hfr.writeEvent (by decide) (by decide) _ _⟩
  case orphan =>
    intro serial rs s hr he hne hf
    obtain ⟨v, hv⟩ := s.forwardOrphan_eq serial rs
    refine ⟨_, exec_orphanTailForward hr he hne hf, ?_⟩
    rw [hv]
    obtain ⟨hcan, hhst, hflag, hfr⟩ := s.orphanQueued_shows serial rs
    exact ⟨((State.writePair_framed _ _ _ _ _ _).1 .hst (by decide)).trans hhst,
      (State.writePair_flag _ _ _ _ _ _ (by decide) (by decide)).trans hflag, fun hn => State.writePair_last _ _ _ _ _ _ (hcan.trans hn),
      hfr.trans ((State.writePair_framed _ _ _ _ _ _).mono (by decide) (by decide))⟩

end Sys2Proof.Machine

/-! Self-tests (chapter 11). -/

namespace Sys2Proof.Machine

/-- A targeted self-test of a grain that takes part in the test of a steering unit (R108): it ends with that unit's test, not by itself. -/
def feederTest : UnitTest := ⟨0x10000000, 5, 0, false, false, some 0x20000005⟩

/-- The module Sown, with the one test of a feeder grain running. -/
def State.feederTested : State :=
  { State.reset with mod := { State.reset.mod with st := .sown }, flt := { State.reset.flt with tests := [feederTest] } }

theorem State.selfTestEnds_of_feeder : State.feederTested.selfTestEnds 0x10000000 true [] = State.feederTested := by
  have htest : State.feederTested.flt.tests.find? (fun (t : UnitTest) => t.unit == 0x10000000 && !t.waits && t.part.isNone) = none := by decide
  have hpair : State.feederTested.flt.pairTests.find? (fun (t : PairTest) => bedUnit t.pair 0 3 == 0x10000000) = none := by decide
  unfold State.selfTestEnds
  rw [htest, hpair]
  exact if_neg fun h => absurd h.1 (by decide)

/-- Refutes O43: the first clause names every test of the unit that runs, but the test of a grain that feeds a steering unit ends with that unit's
test (R108), so the end of the grain's own test leaves the tests as they are. -/
theorem not_selfTestsClassifyDetections : ¬ Obligations.SelfTestsClassifyDetections := by
  unfold Obligations.SelfTestsClassifyDetections
  rintro ⟨transient, -⟩
  obtain ⟨t, he, htests, -⟩ := transient 0x10000000 [] feederTest State.feederTested rfl (by decide) rfl
  have hexec : exec (.selfTestComplete 0x10000000 true []) State.feederTested = .next State.feederTested :=
    congrArg Host.Outcome.next ((if_pos rfl).trans State.selfTestEnds_of_feeder)
  have ht : State.feederTested = t := Host.Outcome.next.inj (hexec.symm.trans he)
  rw [← ht] at htests
  exact absurd htests (by decide)

end Sys2Proof.Machine

/-! Mirror pairs (chapters 3 and 18). -/

namespace Sys2Proof.Machine

theorem State.bed_setBed (s : State) (b : Fin 4) (g : Bed) : ((s.setBed b g).beds[b] : Bed) = g := by
  rw [State.setBed_beds]
  exact Vector.getElem_set_self _

/-- A target bed that is dropped holds no variant (R499). -/
theorem State.dropTarget_target (s : State) (b : Fin 4) : ((s.dropTarget b).beds[b] : Bed).target = none := by
  unfold State.dropTarget
  dsimp only
  by_cases h : (s.beds[b] : Bed).target.isSome = true
  · rw [if_pos h]
    split
    · exact congrArg Bed.target (s.bed_setBed b _)
    · exact congrArg Bed.target (s.bed_setBed b _)
  · rw [if_neg h]
    exact Option.not_isSome_iff_eq_none.mp h

/-- A phase of mirrored layout beds. -/
def mirroredPhase : PhaseProg := { (default : PhaseProg) with ph := { (default : Phase) with mirrored := true } }

/-- An image with this one phase. -/
def mirroredImage : ImageCopy := { (default : ImageCopy) with program := { (default : Program) with phases := [mirroredPhase] } }

/-- Layout bed 0 runs on bed 0 alone, and its partner has loaded a variant for no column at all. -/
def State.rejoinMisfits : State :=
  (({ State.reset with
      mod := { State.reset.mod with st := .sown }
      prog := { State.reset.prog with image := some mirroredImage, phase := 0, place := [(0, none)] } } : State).setBed 2
    { State.reset.beds[(2 : Fin 4)] with target := some (default : Variant) }).setBedState 2 6

theorem State.rejoinMisfits_pair : State.rejoinMisfits.pairPlace (Fin.ofNat 4 (0 : Fin 2).val) = some (0, some 0) := by
  decide

theorem State.rejoinMisfits_state : State.rejoinMisfits.bedState (partnerOf 0) = 6 :=
  (State.fld_setFld _ _ _ (by decide)).trans (by decide)

theorem State.rejoinMisfits_bed : (State.rejoinMisfits.beds[partnerOf 0] : Bed) =
    { State.reset.beds[(2 : Fin 4)] with target := some (default : Variant) } := State.bed_setBed _ 2 _

theorem State.rejoinMisfits_drops : State.rejoinMisfits.rejoinLoaded 0 = State.rejoinMisfits.dropTarget (partnerOf 0) := by
  unfold State.rejoinLoaded
  rw [State.rejoinMisfits_pair]
  dsimp only
  rw [State.rejoinMisfits_state, State.rejoinMisfits_bed]
  rfl

/-- Refutes O44: where the loaded variant does not fit the columns that are usable when it has loaded, the partner does not rejoin but is given
back, with no target (R500). -/
theorem not_sparesAndPairsSwitchAtABoundary : ¬ Obligations.SparesAndPairsSwitchAtABoundary := by
  unfold Obligations.SparesAndPairsSwitchAtABoundary
  rintro ⟨-, -, -, -, rejoin⟩
  have htarget : (State.rejoinMisfits.beds[partnerOf 0] : Bed).target.isSome = true := by rw [State.rejoinMisfits_bed]; rfl
  have hat : (State.rejoinMisfits.beds[partnerOf 0] : Bed).rejoinAt = none := by
    rw [State.rejoinMisfits_bed]
    decide
  have h := rejoin 0 0 0 State.rejoinMisfits rfl State.rejoinMisfits_pair State.rejoinMisfits_state htarget hat
  have hexec : exec (.mirrorRejoinLoaded 0) State.rejoinMisfits = .next (State.rejoinMisfits.dropTarget (partnerOf 0)) :=
    congrArg Host.Outcome.next ((if_pos rfl).trans State.rejoinMisfits_drops)
  have heq := congrArg (fun t : State => (t.beds[partnerOf 0] : Bed).target) (Host.Outcome.next.inj (hexec.symm.trans h))
  dsimp only at heq
  rw [State.dropTarget_target, State.bed_setBed, State.rejoinMisfits_bed] at heq
  exact absurd heq (by decide)

end Sys2Proof.Machine

/-! Weight corrections and the GRN block (chapter 3). -/

namespace Sys2Proof.Machine

/-! Frames and the seen state -/

theorem Framed.setProg {A : List Area} {R : List Nat} {r s : State} (h : Framed A R r s) (hA : Area.prog ∈ A) (z : Prog) :
    Framed A R r { s with prog := z } := h.area .prog hA rfl (fun p hp => by
  cases p with
  | prog => exact absurd rfl hp
  | _ => rfl)

theorem Framed.setGrn {A : List Area} {R : List Nat} {r s : State} (h : Framed A R r s) (hA : Area.grn ∈ A) (z : Option GrnRun) :
    Framed A R r { s with grn := z } := h.area .grn hA rfl (fun p hp => by
  cases p with
  | grn => exact absurd rfl hp
  | _ => rfl)

theorem Framed.setBed {A : List Area} {R : List Nat} {r s : State} (h : Framed A R r s) (hA : Area.beds ∈ A) (b : Fin 4) (g : Bed) :
    Framed A R r (s.setBed b g) := h.area .beds hA rfl (fun p hp => by
  cases p with
  | beds => exact absurd rfl hp
  | _ => rfl)

theorem Framed.refuseAccess {A : List Area} {R : List Nat} {r s : State} (h : Framed A R r s) (hA : Area.regs ∈ A) (hR : [TOP_ACC_STAT, TOP_ACC_ADDR] ⊆ R)
    (p : Path) (a n : Nat) : Framed A R r (s.refuseAccess p a n) :=
  h.trans ((s.refuseAccess_framed p a n).mono (by simpa using hA) hR)

section
variable (s : State) (p : Path)

theorem State.seen_prog : (s.seen p).prog = s.prog := (s.seen_framed p).1 .prog (by decide)

theorem State.seen_beds : (s.seen p).beds = s.beds := (s.seen_framed p).1 .beds (by decide)

theorem State.seen_grn : (s.seen p).grn = s.grn := (s.seen_framed p).1 .grn (by decide)

theorem State.seen_bedPresent (b : Nat) : (s.seen p).bedPresent b = s.bedPresent b := by
  unfold State.bedPresent State.isB State.shadowBytes
  rw [State.seen_shadow]

theorem State.seen_selGrain : (s.seen p).selGrain = s.selGrain := by
  unfold State.selGrain
  simp only [s.seen_fld p (f := GRN_SEL_BED) (by decide), s.seen_fld p (f := GRN_SEL_COLUMN) (by decide), s.seen_fld p (f := GRN_SEL_ROW) (by decide),
    s.seen_flag p (f := GRN_SEL_PHYS) (by decide), State.seen_beds, State.seen_bedPresent]

theorem State.seen_bedFull (b : Nat) : (s.seen p).bedFull b = s.bedFull b := by
  unfold State.bedFull State.phase? State.program? State.tickPs
  rw [State.seen_beds, State.seen_prog, s.seen_reg p (by decide)]

/-- A register of a bed's block is none that an access leaves its mark in. -/
theorem State.seen_bedReg {a : Nat} (ha : 0x20000 ≤ a ∧ a < 0x24000) (b : Fin 4) : (s.seen p).reg (a + bedOff b) = s.reg (a + bedOff b) := by
  have hmark : ∀ x ∈ [SEC_STAT, AUG_RATE, AUG_STAT], 0x30000 ≤ x := by decide
  refine s.seen_reg p fun hm => ?_
  have := hmark _ hm
  have := b.isLt
  unfold bedOff at *
  omega

theorem State.seen_bedState (b : Fin 4) : (s.seen p).bedState b = s.bedState b := State.fld_of_reg (s.seen_bedReg p (by decide) b)

end

/-! Bytes that have been written -/

theorem bytesAt_putBytes {d : Nat → Byte} (m : Map Byte) (a : Nat) (bs : List Byte) : bytesAt d (putBytes d m a bs) a bs.length = bs := by
  refine List.ext_getElem (by simp [bytesAt]) fun i h h' => ?_
  simp only [bytesAt, List.getElem_map, List.getElem_range]
  exact mapGet_putBytes_in m a bs h'

theorem leBytes_length (n v : Nat) : (leBytes n v).length = n := by simp [leBytes]

/-! Corrections -/

section
variable (s : State) (b : Fin 4)

theorem exec_corrArm {p : Path} (ho : s.opens p (BED_CORR_HI + bedOff b)) (hb : s.bedPresent b = true) (v : Word) :
    exec (.corrArm p b v) s = .next ((s.seen p).corrArm b v) :=
  (congrArg Host.Outcome.next (State.via_of_opens ho fun u => if u.bedPresent b then u.corrArm b v else u)).trans
    (congrArg Host.Outcome.next (if_pos (by rw [State.seen_bedPresent]; exact hb)))

theorem exec_corrCancel {p : Path} (ho : s.opens p (BED_CTL + bedOff b)) : exec (.corrCancel p b) s = .next ((s.seen p).corrDrop b) :=
  congrArg Host.Outcome.next (State.via_of_opens ho fun u => u.corrDrop b)

theorem State.corrCode_congr {s t : State} {b : Fin 4} (hb : t.beds = s.beds) (hi : t.reg (BED_II + bedOff b) = s.reg (BED_II + bedOff b))
    (hc : t.count = s.count) (h : U64) : t.corrCode b h = s.corrCode b h := by
  unfold State.corrCode
  rw [hb, hi, hc]

theorem State.corrCode_lt (h : U64) : s.corrCode b h < 16 := by
  unfold State.corrCode
  dsimp only
  repeat' split
  all_goals decide

theorem State.corrCode_eq (h : U64) : s.corrCode b h = (if (s.reg (BED_II + bedOff b)).toNat % 8 = 0 then 3
      else if s.beds[b].corrWord.any (fun x => decide ((match s.beds[b].variant with | some v => v.net.weightWords x.1 | none => 0) ≤ x.2)) then 4
      else if lowZero 10 h = false ∨ h.toNat < s.count.toNat + 1024 then 5 else 1) := by
  have hc : (!lowZero 10 h || decide (h.toNat < s.count.toNat + 1024)) = true ↔ lowZero 10 h = false ∨ h.toNat < s.count.toNat + 1024 := by
    simp
  unfold State.corrCode
  dsimp only
  rw [if_congr hc rfl rfl] <;> rfl

/-- The commit horizon's upper half is written, and CODE shows what the commit's checks say. -/
def State.corrChecked (v : Word) (code : Nat) : State := (s.setReg (BED_CORR_HI + bedOff b) v).setFld (BED_CORR_STAT_CODE.on (bedOff b)) code

theorem State.corrHorizon (v : Word) : (s.setReg (BED_CORR_HI + bedOff b) v).reg64 (BED_CORR_LO + bedOff b) =
    BitVec.ofNat 64 (v.toNat * 2 ^ 32 + (s.reg (BED_CORR_LO + bedOff b)).toNat) := by
  have hhi : BED_CORR_LO + bedOff b + 4 = BED_CORR_HI + bedOff b := by
    unfold BED_CORR_LO BED_CORR_HI
    omega
  have hlo : BED_CORR_LO + bedOff b ≠ BED_CORR_HI + bedOff b := by omega
  unfold State.reg64
  rw [hhi, State.reg_setReg, State.reg_setReg_ne _ _ hlo]

theorem State.corrArm_eq {v : Word} {h : U64} (hh : h = BitVec.ofNat 64 (v.toNat * 2 ^ 32 + (s.reg (BED_CORR_LO + bedOff b)).toNat)) :
    s.corrArm b v = if s.corrCode b h = 1 then { s.corrChecked b v (s.corrCode b h) with
        prog := { s.prog with corrArmed := s.prog.corrArmed.set b (some h) } }
      else s.corrChecked b v (s.corrCode b h) := by
  have hii : BED_II + bedOff b ≠ BED_CORR_HI + bedOff b := by
    unfold BED_II BED_CORR_HI
    omega
  have hc : (s.setReg (BED_CORR_HI + bedOff b) v).corrCode b h = s.corrCode b h :=
    State.corrCode_congr (s := s) (t := s.setReg (BED_CORR_HI + bedOff b) v) rfl (State.reg_setReg_ne _ _ hii) rfl h
  unfold State.corrArm
  dsimp only
  rw [State.corrHorizon, ← hh, hc]
  rfl

theorem State.corrChecked_shows (v : Word) {code : Nat} (hc : code < 16) : (s.corrChecked b v code).reg (BED_CORR_HI + bedOff b) = v ∧
    (s.corrChecked b v code).fld (BED_CORR_STAT_CODE.on (bedOff b)) = code ∧
    Framed [.regs, .prog] [BED_CORR_HI + bedOff b, BED_CORR_STAT + bedOff b] s (s.corrChecked b v code) := by
  have hne : BED_CORR_HI + bedOff b ≠ (BED_CORR_STAT_CODE.on (bedOff b)).addr := by
    show BED_CORR_HI + bedOff b ≠ BED_CORR_STAT + bedOff b
    unfold BED_CORR_HI BED_CORR_STAT
    omega
  have hmem : (BED_CORR_STAT_CODE.on (bedOff b)).addr ∈ [BED_CORR_HI + bedOff b, BED_CORR_STAT + bedOff b] := by
    show BED_CORR_STAT + bedOff b ∈ _
    exact List.mem_cons_of_mem _ (List.mem_singleton_self _)
  have hfits : (BED_CORR_STAT_CODE.on (bedOff b)).fits := (by decide : BED_CORR_STAT_CODE.fits)
  refine ⟨?_, ?_, ?_⟩
  · exact (State.reg_setFld_ne _ _ hne).trans (State.reg_setReg _ _ _)
  · exact (State.fld_setFld _ _ _ hfits).trans (Nat.mod_eq_of_lt hc)
  · exact ((Framed.refl _ _ s).setReg (by decide) (List.mem_cons_self (a := BED_CORR_HI + bedOff b)) v).setFld (by decide) hmem code

theorem State.corrDrop_armed (h : (s.prog.corrArmed[b]).isSome = true) : s.corrDrop b =
    ({ s with prog := { s.prog with corrArmed := s.prog.corrArmed.set b none } } : State).setFld (BED_CORR_STAT_CODE.on (bedOff b)) 6 := if_pos h

theorem State.corrDrop_shows (h : (s.prog.corrArmed[b]).isSome = true) : (s.corrDrop b).prog.corrArmed = s.prog.corrArmed.set b none ∧
    (s.corrDrop b).fld (BED_CORR_STAT_CODE.on (bedOff b)) = 6 ∧ (s.corrDrop b).beds = s.beds ∧
    Framed [.regs, .prog] [BED_CORR_STAT + bedOff b] s (s.corrDrop b) := by
  rw [State.corrDrop_armed s b h]
  exact ⟨rfl, State.fld_setFld _ _ _ (by decide : BED_CORR_STAT_CODE.fits), rfl,
    ((Framed.refl _ _ s).setProg (by decide) _).setFld (by decide) List.mem_cons_self 6⟩

/-- The words that a commit writes into the banks of a bed. -/
def Bed.corrected (g : Bed) (ws : List (Nat × Nat)) : Map Byte :=
  ws.foldl (fun m x => putBytes zeroByte m (x.1 * 16384 + (match g.variant with | some v => v.net.weightBase x.1 | none => 0) + x.2 * 256)
    (bytesAt zeroByte g.corrBytes (x.1 * 256) 256)) g.banks

/-- A bed with other bank contents. -/
def Bed.withBanks (g : Bed) (m : Map Byte) : Bed := { g with banks := m }

theorem Bed.corrected_one (g : Bed) (x : Nat × Nat) : putBytes zeroByte g.banks
    (x.1 * 16384 + (match g.variant with | some v => v.net.weightBase x.1 | none => 0) + x.2 * 256) (bytesAt zeroByte g.corrBytes (x.1 * 256) 256) =
      g.corrected [x] := by
  cases hv : g.variant with
  | none => simp only [Bed.corrected, List.foldl_cons, List.foldl_nil, hv]
  | some v => simp only [Bed.corrected, List.foldl_cons, List.foldl_nil, hv]

/-- What writing words of a bed's corrections leaves: its banks corrected, the rest of it and what is armed as before (R114). -/
structure CorrWritten (b : Fin 4) (ws : List (Nat × Nat)) (s t : State) : Prop where
  bed : (t.beds[b] : Bed) = { s.beds[b] with banks := (s.beds[b] : Bed).corrected ws }
  armed : t.prog.corrArmed = s.prog.corrArmed
  can : t.canNumber = s.canNumber
  last : ∀ x, s.canNumber = true → ws.getLast? = some x → t.lastEvent = some (0x0304, [b.val, x.1, x.2])

theorem State.corrWrite_written (x : Nat × Nat) : CorrWritten b [x] s (s.corrWrite b x.1 x.2) := by
  have hrec : ∀ u : State, u.canNumber = s.canNumber → (u.beds[b] : Bed) = { s.beds[b] with banks := (s.beds[b] : Bed).corrected [x] } →
      u.prog.corrArmed = s.prog.corrArmed → CorrWritten b [x] s (u.writeEvent 0x0304 [b.val, x.1, x.2]) := by
    intro u hc hb ha
    refine ⟨?_, ?_, ?_, fun y hn hy => ?_⟩
    · rw [State.writeEvent_only _ _ _ .beds (by decide), hb]
    · rw [State.writeEvent_only _ _ _ .prog (by decide), ha]
    · exact (State.writeEventAt_canNumber _ _ _ _ _).trans hc
    · rw [List.getLast?_singleton] at hy
      rw [← Option.some.inj hy]
      exact State.writeEvent_last _ _ _ (hc.trans hn)
  unfold State.corrWrite
  dsimp only
  split
  · exact hrec _ rfl ((State.bed_setBed s b _).trans (congrArg (Bed.withBanks s.beds[b]) (Bed.corrected_one s.beds[b] x))) rfl
  · exact hrec _ rfl ((State.bed_setBed s b _).trans (congrArg (Bed.withBanks s.beds[b]) (Bed.corrected_one s.beds[b] x))) rfl

theorem CorrWritten.append {s t u : State} {ws : List (Nat × Nat)} {x : Nat × Nat} (h : CorrWritten b ws s t) (k : CorrWritten b [x] t u) :
    CorrWritten b (ws ++ [x]) s u := by
  refine ⟨?_, k.armed.trans h.armed, k.can.trans h.can, fun y hn hy => ?_⟩
  · rw [k.bed, h.bed]
    unfold Bed.corrected
    rw [List.foldl_append]
  · rw [List.getLast?_concat] at hy
    exact k.last y (h.can.trans hn) (by rw [List.getLast?_singleton, hy])

theorem State.corrWrites_written (ws : List (Nat × Nat)) : CorrWritten b ws s (ws.foldl (fun s x => s.corrWrite b x.1 x.2) s) := by
  induction ws using List.reverseRecOn with
  | nil => exact ⟨rfl, rfl, rfl, fun x _ h => absurd h (by simp)⟩
  | append_singleton ws x ih =>
    rw [List.foldl_append]
    exact ih.append b (State.corrWrite_written _ b x)

/-- The commit horizon has come: nothing is armed, and frames of earlier ticks keep the old words. -/
def State.corrBegun (h : U64) : State :=
  ({ s with prog := { s.prog with corrArmed := s.prog.corrArmed.set b none } } : State).setBed b
    { s.beds[b] with before := (h, s.beds[b].banks) :: s.beds[b].before.take 3 }

/-- The registers are empty, and CORR_DONE and CODE show the commit. -/
def State.corrEnded : State :=
  ((s.setBed b { s.beds[b] with corrWord := [], corrBytes := [] }).setFlag (BED_STAT_CORR_DONE.on (bedOff b)) true).setFld
    (BED_CORR_STAT_CODE.on (bedOff b)) 2

theorem State.corrCommit_eq (h : U64) : s.corrCommit b h =
    ((s.beds[b].corrWord).foldl (fun s x => s.corrWrite b x.1 x.2) (s.corrBegun b h)).corrEnded b := rfl

theorem State.corrEnded_shows : ((s.corrEnded b).beds[b] : Bed) = { s.beds[b] with corrWord := [], corrBytes := [] } ∧
    (s.corrEnded b).prog = s.prog ∧ (s.corrEnded b).lastEvent = s.lastEvent ∧ (s.corrEnded b).flag (BED_STAT_CORR_DONE.on (bedOff b)) = true ∧
    (s.corrEnded b).fld (BED_CORR_STAT_CODE.on (bedOff b)) = 2 := by
  have hne : (BED_STAT_CORR_DONE.on (bedOff b)).addr ≠ (BED_CORR_STAT_CODE.on (bedOff b)).addr := by
    show BED_STAT + bedOff b ≠ BED_CORR_STAT + bedOff b
    unfold BED_STAT BED_CORR_STAT
    omega
  refine ⟨State.bed_setBed s b _, rfl, rfl, ?_, State.fld_setFld _ _ _ (by decide : BED_CORR_STAT_CODE.fits)⟩
  exact (State.flag_setFld_apart _ _ (.inl hne)).trans (State.flag_setFlag _ _ _ (by decide : BED_STAT_CORR_DONE.fits) rfl)

theorem exec_corrCommit {h : U64} (hs : s.mod.st.serving = true) (ha : s.prog.corrArmed[b] = some h) (hh : h.toNat ≤ s.count.toNat) :
    exec (.corrCommit b) s = .next (if s.rotates b h then s.corrDrop b else s.corrCommit b h) := by
  show Host.Outcome.next (match s.prog.corrArmed[b] with
    | some h => if h.toNat ≤ s.count.toNat && s.mod.st.serving then (if s.rotates b h then s.corrDrop b else s.corrCommit b h) else s
    | none => s) = _
  rw [ha]
  exact congrArg Host.Outcome.next (if_pos (by rw [decide_eq_true hh, hs]; rfl))

/-! The GRN block -/

/-- A GRN command runs on a grain; a test reports that it runs. -/
def State.grnRuns (cmd b g : Nat) : State :=
  if cmd = 1 then ({ s with grn := some ⟨cmd, b, g⟩ } : State).setFlag GRN_STAT_BUSY true
  else (({ s with grn := some ⟨cmd, b, g⟩ } : State).setFlag GRN_STAT_BUSY true).setFld GRN_STAT_TEST 3

theorem State.grnStart_runs {b g : Nat} (hg : s.grn = none) (hs : s.selGrain = some (b, g)) {cmd : Nat} (hc : cmd ≠ 2 ∨ s.bedFull b = false) :
    s.grnStart cmd = s.grnRuns cmd b g := by
  have hn : ¬(cmd = 2 ∧ s.bedFull b = true) := by
    rintro ⟨h2, hf⟩
    rcases hc with h | h
    · exact h h2
    · rw [hf] at h
      exact Bool.false_ne_true h.symm
  unfold State.grnStart
  rw [hg, hs]
  exact if_neg hn

theorem State.grnStart_full {b g : Nat} (hg : s.grn = none) (hs : s.selGrain = some (b, g)) (hf : s.bedFull b = true) : s.grnStart 2 = s := by
  unfold State.grnStart
  rw [hg, hs]
  exact if_pos ⟨rfl, hf⟩

theorem State.grnRuns_shows (cmd b g : Nat) : (s.grnRuns cmd b g).grn = some ⟨cmd, b, g⟩ ∧ (s.grnRuns cmd b g).flag GRN_STAT_BUSY = true ∧
    (cmd ≠ 1 → (s.grnRuns cmd b g).fld GRN_STAT_TEST = 3) ∧ Framed [.regs, .grn] [GRN_STAT] s (s.grnRuns cmd b g) := by
  have hfr := ((Framed.refl [.regs, .grn] [GRN_STAT] s).setGrn (by decide) (some ⟨cmd, b, g⟩)).setFlag (f := GRN_STAT_BUSY) (by decide) (by decide) true
  unfold State.grnRuns
  by_cases hc : cmd = 1
  · rw [if_pos hc]
    exact ⟨rfl, State.flag_setFlag _ _ _ (by decide) rfl, fun h => absurd hc h, hfr⟩
  · rw [if_neg hc]
    exact ⟨rfl, (State.flag_setFld_apart _ _ (by decide)).trans (State.flag_setFlag _ _ _ (by decide) rfl),
      fun _ => State.fld_setFld _ _ _ (by decide), hfr.setFld (by decide) (by decide) 3⟩

theorem State.grnEnds_shows {r : GrnRun} (hg : s.grn = some r) (pass : Bool) : (s.grnEnds pass).grn = none ∧ (s.grnEnds pass).flag GRN_STAT_BUSY = false ∧
    (s.grnEnds pass).fld GRN_STAT_TEST = (if r.cmd = 1 then s.fld GRN_STAT_TEST else if pass then 1 else 2) ∧
    Framed [.regs, .grn] [GRN_STAT] s (s.grnEnds pass) := by
  have hfr := ((Framed.refl [.regs, .grn] [GRN_STAT] s).setGrn (by decide) none).setFlag (f := GRN_STAT_BUSY) (by decide) (by decide) false
  have heq : s.grnEnds pass = if r.cmd = 1 then ({ s with grn := none } : State).setFlag GRN_STAT_BUSY false
      else (({ s with grn := none } : State).setFlag GRN_STAT_BUSY false).setFld GRN_STAT_TEST (if pass then 1 else 2) := by
    unfold State.grnEnds
    rw [hg]
  rw [heq]
  by_cases hc : r.cmd = 1
  · rw [if_pos hc, if_pos hc]
    exact ⟨rfl, State.flag_setFlag _ _ _ (by decide) rfl, State.fld_setFld_apart _ _ (by decide), hfr⟩
  · rw [if_neg hc, if_neg hc]
    refine ⟨rfl, (State.flag_setFld_apart _ _ (by decide)).trans (State.flag_setFlag _ _ _ (by decide) rfl),
      (State.fld_setFld _ _ _ (by decide)).trans ?_, hfr.setFld (by decide) (by decide) _⟩
    cases pass <;> rfl

theorem State.selGrain_lt {b g : Nat} (h : s.selGrain = some (b, g)) : b < 4 := by
  have hb : s.fld GRN_SEL_BED % 4 < 4 := Nat.mod_lt _ (by decide)
  unfold State.selGrain at h
  dsimp only at h
  split at h
  · exact absurd h (by simp)
  · split at h
    · split at h
      · rw [← (Prod.mk.inj (Option.some.inj h)).1]
        exact hb
      · split at h
        · rw [← (Prod.mk.inj (Option.some.inj h)).1]
          exact hb
        · exact absurd h (by simp)
    · split at h
      · rw [← (Prod.mk.inj (Option.some.inj h)).1]
        exact hb
      · exact absurd h (by simp)

theorem exec_grnWindowWrite {p : Path} {addr : Word} (ho : s.opens p addr.toNat) (v : Word) :
    exec (.grnWindowWrite p addr v) s = .next ((s.seen p).grnWindow p addr.toNat v) :=
  congrArg Host.Outcome.next (State.via_of_opens ho fun u => u.grnWindow p addr.toNat v)

theorem State.grnWindow_bank {p : Path} {off : Nat} (ho : off < 0x4000) (h4 : off % 4 = 0) (v : Word) :
    s.grnWindow p (0x100000 + off) v = s.bankWrite p (0x100000 + off) v :=
  (if_neg (by omega)).trans (if_pos (by omega))

theorem State.grnWindow_corr {p : Path} {off : Nat} (ho : off < 0x100) (h4 : off % 4 = 0) (v : Word) :
    s.grnWindow p (0x104000 + off) v = s.corrFill p (0x104000 + off) v :=
  (if_neg (by omega)).trans ((if_neg (by omega)).trans (if_pos (by omega)))

theorem State.bankWrite_taken {b g : Nat} (hs : s.selGrain = some (b, g)) (hb : s.bedState b = 1 ∨ s.bedState b = 2) (p : Path) (off : Nat) (v : Word) :
    bytesAt zeroByte ((s.bankWrite p (0x100000 + off) v).beds[(Fin.ofNat 4 b : Fin 4)] : Bed).banks (g * 16384 + off) 4 = leBytes 4 v.toNat ∧
      Framed [.beds] [] s (s.bankWrite p (0x100000 + off) v) := by
  have hoff : 0x100000 + off - 0x100000 = off := by omega
  unfold State.bankWrite
  rw [hs]
  dsimp only
  rw [if_pos hb, hoff]
  refine ⟨?_, (Framed.refl _ _ s).setBed (by decide) _ _⟩
  rw [State.bed_setBed]
  have h := bytesAt_putBytes (d := zeroByte) (s.beds[(Fin.ofNat 4 b : Fin 4)] : Bed).banks (g * 16384 + off) (leBytes 4 v.toNat)
  rw [leBytes_length] at h
  exact h

theorem State.bankWrite_refused {b g : Nat} (hs : s.selGrain = some (b, g)) (hb : ¬(s.bedState b = 1 ∨ s.bedState b = 2)) (p : Path) (a : Nat) (v : Word) :
    s.bankWrite p a v = s.grnIgnored p a := by
  unfold State.bankWrite
  rw [hs]
  exact if_neg hb

theorem State.grnIgnored_shows (p : Path) (a : Nat) : (s.grnIgnored p a).flag GRN_STAT_WREJ = true ∧ (s.grnIgnored p a).fld TOP_ACC_STAT_REASON = 2 ∧
    (s.grnIgnored p a).reg TOP_ACC_ADDR = BitVec.ofNat 32 a ∧ Framed [.regs] [GRN_STAT, TOP_ACC_STAT, TOP_ACC_ADDR] s (s.grnIgnored p a) :=
  ⟨(State.flag_of_reg ((State.refuseAccess_framed _ p a 2).2 _ (by decide))).trans (State.flag_setFlag _ _ _ (by decide) rfl),
    State.refuseAccess_reason _ _ _ (by decide), State.refuseAccess_addr _ _ _ _,
    ((Framed.refl _ _ s).setFlag (by decide) (by decide) true).refuseAccess (by decide) (by decide) p a 2⟩

theorem State.corrFill_taken {b g : Nat} (hs : s.selGrain = some (b, g)) (p : Path) (off : Nat) (v : Word) :
    bytesAt zeroByte ((s.corrFill p (0x104000 + off) v).beds[(Fin.ofNat 4 b : Fin 4)] : Bed).corrBytes (g * 256 + off) 4 = leBytes 4 v.toNat ∧
      mapFind ((s.corrFill p (0x104000 + off) v).beds[(Fin.ofNat 4 b : Fin 4)] : Bed).corrWord g = some ((s.reg GRN_CORR_ADDR).toNat % 64) ∧
      Framed [.beds] [] s (s.corrFill p (0x104000 + off) v) := by
  have hoff : 0x104000 + off - 0x104000 = off := by omega
  unfold State.corrFill
  rw [hs]
  dsimp only
  rw [hoff]
  have h := bytesAt_putBytes (d := zeroByte) (s.beds[(Fin.ofNat 4 b : Fin 4)] : Bed).corrBytes (g * 256 + off) (leBytes 4 v.toNat)
  rw [leBytes_length] at h
  refine ⟨?_, ?_, (Framed.refl _ _ s).setBed (by decide) _ _⟩
  · rw [State.bed_setBed]
    exact h
  · rw [State.bed_setBed]
    exact mapFind_mapSet_self _ _ _

end

/-- Settles O45: arming, committing and dropping a correction, the GRN commands and the two windows. -/
theorem correctionsAndGrainCommands : Obligations.CorrectionsAndGrainCommands := by
  unfold Obligations.CorrectionsAndGrainCommands
  refine ⟨?arm, ?commit, ?rotated, ?cancel, ?start, ?done, ?bank, ?fill⟩
  case arm =>
    intro p b v h code s ho hb hh hcode
    have hc : (s.seen p).corrCode b h = code := by
      rw [State.corrCode_congr (s.seen_beds p) (s.seen_bedReg p (by decide) b) (s.seen_count p), State.corrCode_eq]
      exact hcode.symm
    have hlt : code < 16 := hc ▸ (s.seen p).corrCode_lt b h
    obtain ⟨hreg, hfld, hfr⟩ := (s.seen p).corrChecked_shows b v hlt
    refine ⟨_, exec_corrArm s b ho hb v, ?_⟩
    rw [State.corrArm_eq _ b (h := h) (by rw [State.seen_bedReg _ _ (by decide)]; exact hh), hc]
    by_cases h1 : code = 1
    · rw [if_pos h1, if_pos h1]
      refine ⟨hreg, hfld, ?_, hfr.setProg (by decide) _⟩
      show (s.seen p).prog.corrArmed.set b (some h) = _
      rw [State.seen_prog]
    · rw [if_neg h1, if_neg h1]
      refine ⟨hreg, hfld, ?_, hfr⟩
      show (s.seen p).prog.corrArmed = _
      rw [State.seen_prog]
  case commit =>
    intro b h s hs ha hh hr
    have hw := (s.corrBegun b h).corrWrites_written b s.beds[b].corrWord
    have hbegun : ((s.corrBegun b h).beds[b] : Bed) = { s.beds[b] with before := (h, s.beds[b].banks) :: s.beds[b].before.take 3 } :=
      State.bed_setBed _ b _
    obtain ⟨hbed, hprog, hlast, hdone, hcode⟩ := State.corrEnded_shows ((s.beds[b].corrWord).foldl (fun s x => s.corrWrite b x.1 x.2) (s.corrBegun b h)) b
    refine ⟨_, exec_corrCommit s b hs ha hh, ?_⟩
    rw [if_neg (by rw [hr]; exact Bool.false_ne_true), State.corrCommit_eq, hbed, hw.bed, hbegun, hprog, hw.armed, hlast]
    refine ⟨?_, rfl, rfl, rfl, rfl, hdone, hcode, fun x hn hx => hw.last x hn hx⟩
    exact Vector.getElem_set_self _
  case rotated =>
    intro b h s hs ha hh hr
    obtain ⟨harmed, hcode, hbeds, -⟩ := s.corrDrop_shows b (by rw [ha]; rfl)
    refine ⟨_, exec_corrCommit s b hs ha hh, ?_⟩
    rw [if_pos hr]
    refine ⟨?_, hcode, by rw [hbeds]⟩
    rw [harmed]
    exact Vector.getElem_set_self _
  case cancel =>
    intro p b s ho
    refine ⟨_, exec_corrCancel s b ho, ?_⟩
    by_cases ha : (s.prog.corrArmed[b]).isSome = true
    · obtain ⟨harmed, hcode, -, hfr⟩ := (s.seen p).corrDrop_shows b (by rw [State.seen_prog]; exact ha)
      rw [if_pos ha]
      exact ⟨by rw [harmed, State.seen_prog], hcode, hfr⟩
    · rw [if_neg ha]
      exact if_neg (by rw [State.seen_prog]; exact ha)
  case start =>
    intro p b g s ho hg hs
    have hg' : (s.seen p).grn = none := (s.seen_grn p).trans hg
    have hs' : (s.seen p).selGrain = some (b, g) := (s.seen_selGrain p).trans hs
    have hexec : ∀ cmd, s.via p GRN_CMD (fun u => u.grnStart cmd) = (s.seen p).grnStart cmd := fun cmd => State.via_of_opens ho _
    obtain ⟨grn1, busy1, -, fr1⟩ := (s.seen p).grnRuns_shows 1 b g
    obtain ⟨grn2, busy2, test2, fr2⟩ := (s.seen p).grnRuns_shows 2 b g
    obtain ⟨grn3, busy3, test3, fr3⟩ := (s.seen p).grnRuns_shows 3 b g
    refine ⟨⟨_, congrArg Host.Outcome.next ((hexec 1).trans (State.grnStart_runs _ hg' hs' (.inl (by decide)))), grn1, busy1, fr1⟩,
      fun hf => ⟨_, congrArg Host.Outcome.next ((hexec 2).trans (State.grnStart_runs _ hg' hs' (.inr ((s.seen_bedFull p b).trans hf)))), grn2, busy2,
        test2 (by decide), fr2⟩,
      fun hf => congrArg Host.Outcome.next ((hexec 2).trans (State.grnStart_full _ hg' hs' ((s.seen_bedFull p b).trans hf))),
      ⟨_, congrArg Host.Outcome.next ((hexec 3).trans (State.grnStart_runs _ hg' hs' (.inl (by decide)))), grn3, busy3, test3 (by decide), fr3⟩⟩
  case done =>
    intro pass r s hg
    exact ⟨_, rfl, s.grnEnds_shows hg pass⟩
  case bank =>
    intro p addr v off b g s ho ha hlt h4 hs
    have hs' : (s.seen p).selGrain = some (b, g) := (s.seen_selGrain p).trans hs
    refine ⟨_, exec_grnWindowWrite s ho v, ?_⟩
    have haddr : BitVec.ofNat 32 (0x100000 + off) = addr := by rw [← ha, BitVec.ofNat_toNat, BitVec.setWidth_eq]
    have hst : (s.seen p).bedState b = s.bedState b := by
      have hb : b < 4 := by
        have := (s.seen p).selGrain_lt hs'
        exact this
      exact s.seen_bedState p ⟨b, hb⟩
    rw [ha, State.grnWindow_bank _ hlt h4]
    by_cases hc : s.bedState b = 1 ∨ s.bedState b = 2
    · rw [if_pos hc]
      exact State.bankWrite_taken _ hs' (by rw [hst]; exact hc) p off v
    · rw [if_neg hc, State.bankWrite_refused _ hs' (by rw [hst]; exact hc)]
      obtain ⟨hrej, hreason, hat, hfr⟩ := (s.seen p).grnIgnored_shows p (0x100000 + off)
      exact ⟨hrej, hreason, hat.trans haddr, hfr⟩
  case fill =>
    intro p addr v off b g s ho ha hlt h4 hs
    obtain ⟨hbytes, hword, hfr⟩ := (s.seen p).corrFill_taken ((s.seen_selGrain p).trans hs) p off v
    refine ⟨_, exec_grnWindowWrite s ho v, ?_⟩
    rw [ha, State.grnWindow_corr _ hlt h4]
    exact ⟨hbytes, hword.trans (by rw [s.seen_reg p (by decide)]), hfr⟩

end Sys2Proof.Machine

/-! The cascade (chapter 15): what a message leaves of the ring, links that fall, hellos, routes and roles. -/
namespace Sys2Proof.Machine

theorem Framed.setReg64 {A : List Area} {R : List Nat} {r s : State} (h : Framed A R r s) (hA : Area.regs ∈ A) {a : Nat} (ha : a ∈ R)
    (hb : a + 4 ∈ R) (v : U64) : Framed A R r (s.setReg64 a v) :=
  (h.setReg hA ha _).setReg hA hb _

theorem Keeps.framed_of_regs {T : List Area} {s t : State} (h : Keeps T s t) (hr : T.contains Area.regs = false) : Framed T [] s t :=
  ⟨h.only, fun a _ => State.reg_congr (h.same .regs hr) a⟩

/-- Cells that a module sends wait at its ports under their numbers; the rest of the ring stands, and so do the numbers the ports expect. -/
structure Ring.Sent (r r' : Ring) : Prop where
  rest : r' = { r with ports := r'.ports, msgSeq := r'.msgSeq }
  expected : ∀ p : Fin 4, (r'.ports[p] : RingPort).expected = (r.ports[p] : RingPort).expected

theorem Ring.Sent.refl (r : Ring) : Ring.Sent r r := ⟨rfl, fun _ => rfl⟩

theorem Ring.Sent.trans {a b c : Ring} (h : Ring.Sent a b) (k : Ring.Sent b c) : Ring.Sent a c :=
  ⟨by rw [k.rest, h.rest], fun p => (k.expected p).trans (h.expected p)⟩

section
variable {s : State}

theorem State.setPort_same (p : Fin 4) (g : RingPort) : ((s.setPort p g).ring.ports[p] : RingPort) = g := by simp [State.setPort]

theorem State.setPort_other {p q : Fin 4} (h : q ≠ p) (g : RingPort) : ((s.setPort p g).ring.ports[q] : RingPort) = s.ring.ports[q] := by
  have hv : p.val ≠ q.val := fun e => h (Fin.ext e.symm)
  simp [State.setPort, Vector.getElem_set_ne p.isLt q.isLt hv]

theorem State.setPort_expected (p q : Fin 4) {g : RingPort} (hg : g.expected = (s.ring.ports[p] : RingPort).expected) :
    ((s.setPort p g).ring.ports[q] : RingPort).expected = (s.ring.ports[q] : RingPort).expected := by
  by_cases h : q = p
  · rw [h, State.setPort_same, hg]
  · rw [State.setPort_other h]

theorem State.setPort_sent (p : Fin 4) {g : RingPort} (hg : g.expected = (s.ring.ports[p] : RingPort).expected) :
    Ring.Sent s.ring (s.setPort p g).ring :=
  ⟨rfl, fun q => State.setPort_expected p q hg⟩

theorem State.queueCell_sent (p : Fin 4) (typ dest src frag n : Nat) (data : List Byte) :
    Ring.Sent s.ring (s.queueCell p typ dest src frag n data).ring := State.setPort_sent p rfl

theorem State.queueCell_other {p q : Fin 4} (h : q ≠ p) (typ dest src frag n : Nat) (data : List Byte) :
    ((s.queueCell p typ dest src frag n data).ring.ports[q] : RingPort) = s.ring.ports[q] := State.setPort_other h _

theorem State.sendHello_sent (p : Fin 4) : Ring.Sent s.ring (s.sendHello p).ring :=
  ⟨rfl, fun q => State.setPort_expected (s := { s with ring := { s.ring with msgSeq := mapSet s.ring.msgSeq 128 _ } }) p q rfl⟩

theorem State.sendMessage_sent (typ dest : Nat) (vals : List Nat) (bytes : List Byte) :
    Ring.Sent s.ring (s.sendMessage typ dest vals bytes).ring := by
  unfold State.sendMessage
  split
  · exact .refl _
  · next p _ =>
    have hcells : ∀ (cs : List (Nat × List Byte)) (n : Nat) (t : State), Ring.Sent s.ring t.ring →
        Ring.Sent s.ring (cs.foldl (fun (u : State) c => u.queueCell p typ dest u.position c.1 n c.2) t).ring := by
      intro cs n
      induction cs with
      | nil => exact fun _ h => h
      | cons c cs ih => exact fun t h => ih _ (h.trans (State.queueCell_sent ..))
    exact hcells _ _ _ ⟨rfl, fun _ => rfl⟩

theorem State.sendAll_sent (typ : Nat) (vals : List Nat) : Ring.Sent s.ring (s.sendAll typ vals).ring := by
  unfold State.sendAll
  split
  · exact .refl _
  · have hall : ∀ (qs : List Nat) (t : State), Ring.Sent s.ring t.ring →
        Ring.Sent s.ring (qs.foldl (fun (u : State) q => if q = u.position then u else u.sendMessage typ q vals []) t).ring := by
      intro qs
      induction qs with
      | nil => exact fun _ h => h
      | cons q qs ih =>
        intro t h
        refine ih _ ?_
        beta_reduce
        split
        · exact h
        · exact h.trans (State.sendMessage_sent ..)
    exact hall _ _ (.refl _)

theorem State.sendAll_keeps (typ : Nat) (vals : List Nat) : Keeps [.ring] s (s.sendAll typ vals) := Keeps.sendAll (.refl _ s) rfl _ _

/-- A hello leaves every port that is up: the ring keeps the rest, and a port that is down keeps everything. -/
theorem State.helloPorts_sent (s : State) : Ring.Sent s.ring s.helloPorts.ring ∧
    ∀ q : Fin 4, (s.ring.ports[q] : RingPort).down = true → (s.helloPorts.ring.ports[q] : RingPort) = s.ring.ports[q] := by
  have hall : ∀ (ps : List (Fin 4)) (t : State),
      (Ring.Sent s.ring t.ring ∧ ∀ q : Fin 4, (s.ring.ports[q] : RingPort).down = true → (t.ring.ports[q] : RingPort) = s.ring.ports[q]) →
      let u := ps.foldl (fun (s : State) (p : Fin 4) =>
        if !(s.ring.ports[p] : RingPort).down && s.flag (portField RNG_PORT_STAT0_UP p) then s.sendHello p else s) t
      Ring.Sent s.ring u.ring ∧ ∀ q : Fin 4, (s.ring.ports[q] : RingPort).down = true → (u.ring.ports[q] : RingPort) = s.ring.ports[q] := by
    intro ps
    induction ps with
    | nil => exact fun _ h => h
    | cons p ps ih =>
      intro t ⟨hs, hd⟩
      refine ih _ ?_
      beta_reduce
      split
      · next hup =>
        refine ⟨hs.trans (State.sendHello_sent p), fun q hq => ?_⟩
        have hne : q ≠ p := by
          rintro rfl
          rw [hd q hq, hq] at hup
          simp at hup
        exact (State.queueCell_other hne ..).trans (hd q hq)
      · exact ⟨hs, hd⟩
  exact hall _ s ⟨.refl _, fun _ _ => rfl⟩

theorem State.helloPorts_framed (s : State) : Framed [.ring] [] s s.helloPorts :=
  (Keeps.helloPorts (.refl [.ring] s) rfl).framed_of_regs rfl

theorem State.showNeighbour_framed (s : State) : Framed [.regs, .aug] [RNG_MIRROR_TGT] s s.showNeighbour := by
  unfold State.showNeighbour
  dsimp only
  split
  · next q _ =>
    have hset := ((Framed.refl [.regs, .aug] [RNG_MIRROR_TGT] s).setFld (by decide) (f := RNG_MIRROR_TGT_POSITION) (by decide) q).setFlag (by decide)
      (f := RNG_MIRROR_TGT_VALID) (by decide) true
    have htail : ∀ (c : Prop) [Decidable c] (u : State), Framed [.regs, .aug] [RNG_MIRROR_TGT] s u →
        Framed [.regs, .aug] [RNG_MIRROR_TGT] s (if c then u.mirrorTail else u) := by
      intro c _ u hu
      split
      · exact hu.setAug (by decide) _
      · exact hu
    exact htail _ _ hset
  · exact (Framed.refl _ _ s).setReg (by decide) (by decide) 0

/-- The registers that show what a module reaches and what becomes of its lead. -/
def reachRegs : List Nat := [RNG_REACH_LO, RNG_REACH_LO + 4, RNG_MIRROR_TGT, RNG_STAT, HZN_STAT, RNG_LAUNCH]

theorem State.showLead_framed (s : State) : Framed [.regs, .aug, .ring] reachRegs s s.showLead := by
  unfold State.showLead
  extract_lets deputy lead u ring v
  have hv : Framed [.regs, .aug, .ring] reachRegs s v :=
    ((Framed.refl _ reachRegs s).setFlag (by decide) (f := RNG_STAT_NO_LEAD) (by decide) _).setRing (by decide) _
  split
  · exact (hv.setFlag (by decide) (f := HZN_STAT_LAUNCH_PEND) (by decide) false).setReg (by decide) (a := RNG_LAUNCH) (by decide) 3
  · exact hv

theorem State.showLead_ring (s : State) : ∃ b, s.showLead.ring = { s.ring with leadLost := b } := by
  unfold State.showLead
  extract_lets deputy lead u ring v
  split <;> exact ⟨_, rfl⟩

/-- The state in which the reachable positions and the neighbour are shown. -/
def State.reachShown (s : State) : State := (s.setReg64 RNG_REACH_LO (BitVec.ofNat 64 s.reachBits)).showNeighbour

theorem State.reachShown_framed (s : State) : Framed [.regs, .aug, .ring] reachRegs s s.reachShown :=
  ((Framed.refl _ _ s).setReg64 (by decide) (by decide) (by decide) _).trans ((State.showNeighbour_framed _).mono (by decide) (by decide))

theorem State.reachShown_ring (s : State) : s.reachShown.ring = s.ring := (State.showNeighbour_framed _).1 .ring (by decide)

theorem State.showReach_eq (s : State) : ∃ t, (t = s.reachShown ∨ t = s.reachShown.helloPorts) ∧ (s.showReach = t ∨ s.showReach = t.showLead) := by
  unfold State.showReach
  dsimp only
  split
  · split
    · exact ⟨_, .inr rfl, .inr rfl⟩
    · exact ⟨_, .inr rfl, .inl rfl⟩
  · split
    · exact ⟨_, .inl rfl, .inr rfl⟩
    · exact ⟨_, .inl rfl, .inl rfl⟩

theorem State.showReach_framed (s : State) : Framed [.regs, .aug, .ring] reachRegs s s.showReach := by
  obtain ⟨t, ht, hr⟩ := s.showReach_eq
  have hft : Framed [.regs, .aug, .ring] reachRegs s t := by
    rcases ht with rfl | rfl
    · exact s.reachShown_framed
    · exact s.reachShown_framed.trans ((State.helloPorts_framed _).mono (by decide) (by decide))
  rcases hr with hr | hr <;> rw [hr]
  · exact hft
  · exact hft.trans t.showLead_framed

/-- What the module shows of its reach leaves the ring but for hellos at its live ports and the loss of the lead. -/
theorem State.showReach_ring (s : State) : (∃ b n, s.showReach.ring = { s.ring with ports := s.showReach.ring.ports, msgSeq := n, leadLost := b }) ∧
    ∀ q : Fin 4, (s.ring.ports[q] : RingPort).down = true → (s.showReach.ring.ports[q] : RingPort) = s.ring.ports[q] := by
  obtain ⟨t, ht, hr⟩ := s.showReach_eq
  have hsent : (∃ n, t.ring = { s.ring with ports := t.ring.ports, msgSeq := n }) ∧
      ∀ q : Fin 4, (s.ring.ports[q] : RingPort).down = true → (t.ring.ports[q] : RingPort) = s.ring.ports[q] := by
    rcases ht with rfl | rfl
    · rw [State.reachShown_ring]
      exact ⟨⟨_, rfl⟩, fun _ _ => rfl⟩
    · obtain ⟨hs, hd⟩ := s.reachShown.helloPorts_sent
      rw [State.reachShown_ring] at hs hd
      exact ⟨⟨_, hs.rest⟩, hd⟩
  obtain ⟨⟨n, hn⟩, hd⟩ := hsent
  rcases hr with hr | hr <;> rw [hr]
  · exact ⟨⟨t.ring.leadLost, n, by rw [hn]⟩, hd⟩
  · obtain ⟨b, hb⟩ := t.showLead_ring
    rw [hb]
    exact ⟨⟨b, n, by rw [hn]⟩, hd⟩

theorem State.reg_setRing (z : Ring) (a : Nat) : ({ s with ring := z } : State).reg a = s.reg a := rfl

/-- The state in which a port's link is marked down. -/
def State.linkMarked (s : State) (port : Fin 4) : State :=
  let p : RingPort := s.ring.ports[port]
  ((s.setPort port { p with down := true, slots := [] }).setFlag (portField RNG_PORT_STAT0_DOWN port) true).setFlag (portField RNG_PORT_STAT0_UP port) false

/-- The state in which a link is marked down and nothing is reachable through it (R451). -/
def State.linkFallen (s : State) (port : Fin 4) : State :=
  let s := s.linkMarked port
  { s with ring := { s.ring with reach := s.ring.reach.set port [], rerouteDue := s.ring.rerouteDue || s.flag RNG_CTL_CASC_EN } }

theorem State.linkDown_eq (port : Fin 4) : s.linkDown port = (s.linkFallen port).showReach := rfl

theorem State.linkMarked_reg (port : Fin 4) {a : Nat} (ha : a ≠ RNG_PORT_STAT0 + 4 * port) : (s.linkMarked port).reg a = s.reg a := by
  have hd : a ≠ (portField RNG_PORT_STAT0_DOWN port).addr := ha
  have hu : a ≠ (portField RNG_PORT_STAT0_UP port).addr := ha
  unfold State.linkMarked
  rw [State.reg_setFlag_ne _ _ hu, State.reg_setFlag_ne _ _ hd]
  rfl

theorem State.linkMarked_ring (port : Fin 4) :
    (s.linkMarked port).ring = (s.setPort port { s.ring.ports[port] with down := true, slots := [] }).ring := rfl

theorem State.linkFallen_reg (port : Fin 4) {a : Nat} (ha : a ≠ RNG_PORT_STAT0 + 4 * port) : (s.linkFallen port).reg a = s.reg a :=
  (State.reg_setRing (s := s.linkMarked port) _ a).trans (State.linkMarked_reg port ha)

theorem portStat_notin_reachRegs : ∀ port : Fin 4, RNG_PORT_STAT0 + 4 * port.val ∉ reachRegs := by decide

theorem State.linkDown_reg (port : Fin 4) {a : Nat} (ha : a ≠ RNG_PORT_STAT0 + 4 * port) (hr : a ∉ reachRegs) : (s.linkDown port).reg a = s.reg a := by
  rw [State.linkDown_eq]
  exact ((State.showReach_framed _).2 a hr).trans (State.linkFallen_reg port ha)

theorem State.linkFallen_flags (port : Fin 4) : (s.linkFallen port).flag (portField RNG_PORT_STAT0_DOWN port) = true ∧
    (s.linkFallen port).flag (portField RNG_PORT_STAT0_UP port) = false := by
  have hd : ∀ port : Fin 4, (portField RNG_PORT_STAT0_DOWN port).fits := by decide
  have hu : ∀ port : Fin 4, (portField RNG_PORT_STAT0_UP port).fits := by decide
  have hfall : ∀ f, (s.linkFallen port).flag f = (s.linkMarked port).flag f := fun f => State.flag_of_reg (State.reg_setRing (s := s.linkMarked port) _ _)
  rw [hfall, hfall]
  refine ⟨?_, State.flag_setFlag _ _ _ (hu port) rfl⟩
  exact (State.flag_setFlag_apart (f := portField RNG_PORT_STAT0_UP port) (g := portField RNG_PORT_STAT0_DOWN port) _ false (.inr ⟨.inl (Nat.le_refl 1), hd port⟩)).trans (State.flag_setFlag _ _ _ (hd port) rfl)

theorem State.linkFallen_ring (port : Fin 4) : (s.linkFallen port).ring =
    { s.ring with ports := s.ring.ports.set port { s.ring.ports[port] with down := true, slots := [] }, reach := s.ring.reach.set port [],
                  rerouteDue := s.ring.rerouteDue || s.flag RNG_CTL_CASC_EN } := by
  have hne : ∀ port : Fin 4, RNG_CTL_CASC_EN.addr ≠ RNG_PORT_STAT0 + 4 * port.val := by decide
  unfold State.linkFallen
  dsimp only
  rw [State.flag_of_reg (State.linkMarked_reg port (hne port)), State.linkMarked_ring]
  rfl

theorem State.linkDown_port (port : Fin 4) : ((s.linkDown port).ring.ports[port] : RingPort) = { s.ring.ports[port] with down := true, slots := [] } := by
  have hp : ((s.linkFallen port).ring.ports[port] : RingPort) = { s.ring.ports[port] with down := true, slots := [] } := by
    rw [State.linkFallen_ring]
    simp
  rw [State.linkDown_eq, (s.linkFallen port).showReach_ring.2 port (by rw [hp]), hp]

theorem State.linkDown_ring (port : Fin 4) : ∃ ps n b, (s.linkDown port).ring =
    { s.ring with ports := ps, msgSeq := n, leadLost := b, reach := s.ring.reach.set port [],
                  rerouteDue := s.ring.rerouteDue || s.flag RNG_CTL_CASC_EN } := by
  obtain ⟨⟨b, n, h⟩, -⟩ := (s.linkFallen port).showReach_ring
  rw [State.linkDown_eq, h, State.linkFallen_ring]
  exact ⟨_, n, b, rfl⟩

theorem mem_alternates {α : Type} (xs : List α) (p : α → Prop) [DecidablePred p] {i : Nat} {x : α} (hx : xs[i]? = some x) :
    i ∈ xs.zipIdx.filterMap (fun y => if p y.1 then some y.2 else none) ↔ p x := by
  rw [List.mem_filterMap]
  constructor
  · rintro ⟨⟨y, j⟩, hy, hj⟩
    have hget := List.mem_zipIdx_iff_getElem?.mp hy
    split at hj
    · next hp =>
      cases hj
      simp only at hget hp
      rw [hx] at hget
      cases hget
      exact hp
    · exact nomatch hj
  · exact fun hp => ⟨(x, i), List.mem_zipIdx_iff_getElem?.mpr hx, if_pos hp⟩

/-- The spans `alt` stand on their alternate route, `n` of them changed. -/
def State.rerouted (s : State) (alt : List Nat) (n : Nat) : State :=
  let s : State := { s with ring := { s.ring with onAlt := alt, rerouteDue := false } }
  let s := s.bumpBy RNG_REROUTE_CNT n
  if n = 0 then s else s.setFlag RNG_STAT_REROUTE true

theorem State.rerouted_shows (alt : List Nat) (n : Nat) : (s.rerouted alt n).ring.rerouteDue = false ∧ (s.rerouted alt n).ring.onAlt = alt ∧
    Framed [.regs, .ring] [RNG_REROUTE_CNT, RNG_STAT] s (s.rerouted alt n) := by
  unfold State.rerouted
  extract_lets ring u v
  have hv : Framed [.regs, .ring] [RNG_REROUTE_CNT, RNG_STAT] s v :=
    ((Framed.refl _ _ s).setRing (by decide) _).setReg (by decide) (a := RNG_REROUTE_CNT) (by decide) _
  split
  · exact ⟨rfl, rfl, hv⟩
  · exact ⟨rfl, rfl, hv.setFlag (by decide) (f := RNG_STAT_REROUTE) (by decide) true⟩

/-- The spans whose route meets a link that is down and that have an alternate. -/
def State.alternates (s : State) (c : Cascade) : List Nat :=
  c.spans.zipIdx.filterMap (fun si => if si.1.altIdx ≠ 0xFF ∧ s.routeBad c (routeOf c si.1.src si.1.dest) then some si.2 else none)

/-- At the boundary the routes that meet a link that is down stand on their alternate, the others on their primary (R451). -/
theorem State.rerouteNow_shows {c : Cascade} (hc : s.cascade? = some c) : s.rerouteNow.ring.rerouteDue = false ∧
    (∀ i sp, c.spans[i]? = some sp → (i ∈ s.rerouteNow.ring.onAlt ↔ sp.altIdx ≠ 0xFF ∧ s.routeBad c (routeOf c sp.src sp.dest) = true)) ∧
    Framed [.regs, .ring] [RNG_REROUTE_CNT, RNG_STAT] s s.rerouteNow := by
  have heq : ∃ n, s.rerouteNow = s.rerouted (s.alternates c) n := by
    unfold State.rerouteNow
    rw [hc]
    exact ⟨_, rfl⟩
  obtain ⟨n, hn⟩ := heq
  obtain ⟨hdue, halt, hfr⟩ := State.rerouted_shows (s := s) (s.alternates c) n
  rw [hn, halt]
  exact ⟨hdue, fun i sp hsp => mem_alternates c.spans (fun sp => sp.altIdx ≠ 0xFF ∧ s.routeBad c (routeOf c sp.src sp.dest) = true) hsp, hfr⟩

/-- The state in which the cable delay of a port stands. -/
def State.cableShown (s : State) (port : Fin 4) (cable : Nat) (bad : Bool) : State :=
  let s := s.setReg (RNG_CABLE0 + 4 * port) (BitVec.ofNat 32 (min cable 255))
  let s := { s with ring := { s.ring with cables := s.ring.cables.set port (some cable) } }
  s.setFlag (portField RNG_PORT_STAT0_CABLE_BAD port) bad

theorem State.cableMeasured_cases (port : Fin 4) (cable : Nat) : ∃ bad, s.cableMeasured port cable = (s.cableShown port cable bad).linkDown port ∨
    s.cableMeasured port cable = s.cableShown port cable bad := by
  unfold State.cableMeasured
  extract_lets bad u ring v w
  refine ⟨bad, ?_⟩
  split
  · exact .inl rfl
  · exact .inr rfl

theorem State.cableShown_reg (port : Fin 4) (cable : Nat) (bad : Bool) {a : Nat} (ha : a ≠ RNG_PORT_STAT0 + 4 * port) :
    (s.cableShown port cable bad).reg a = (s.setReg (RNG_CABLE0 + 4 * port) (BitVec.ofNat 32 (min cable 255))).reg a :=
  (State.reg_setFlag_ne _ _ (f := portField RNG_PORT_STAT0_CABLE_BAD port) ha).trans (State.reg_setRing _ a)

theorem State.cableShown_cables (port : Fin 4) (cable : Nat) (bad : Bool) : (s.cableShown port cable bad).ring.cables[port] = some cable := by
  show (s.ring.cables.set port (some cable))[port] = some cable
  simp

/-- The cable delay that a hello brings stands at its port, in the register and for the checks of a load (R443). -/
theorem State.cableMeasured_shows (port : Fin 4) (cable : Nat) :
    (s.cableMeasured port cable).reg (RNG_CABLE0 + 4 * port) = BitVec.ofNat 32 (min cable 255) ∧
      (s.cableMeasured port cable).ring.cables[port] = some cable ∧ (s.cableMeasured port cable).position = s.position := by
  have hstat : ∀ port : Fin 4, RNG_CABLE0 + 4 * port.val ≠ RNG_PORT_STAT0 + 4 * port.val ∧ RNG_CABLE0 + 4 * port.val ∉ reachRegs := by decide
  have hrole : ∀ port : Fin 4, RNG_ROLE ≠ RNG_PORT_STAT0 + 4 * port.val ∧ RNG_ROLE ≠ RNG_CABLE0 + 4 * port.val := by decide
  obtain ⟨hs1, hs2⟩ := hstat port
  obtain ⟨hr1, hr2⟩ := hrole port
  obtain ⟨bad, hb⟩ := State.cableMeasured_cases (s := s) port cable
  have hcab := State.cableShown_cables (s := s) port cable bad
  have hreg := (State.cableShown_reg (s := s) port cable bad hs1).trans (State.reg_setReg _ _ _)
  have hpos := (State.cableShown_reg (s := s) port cable bad hr1).trans (State.reg_setReg_ne _ _ hr2)
  generalize s.cableShown port cable bad = w at hb hcab hreg hpos
  rcases hb with hb | hb <;> rw [hb]
  · obtain ⟨ps, n, b, h⟩ := State.linkDown_ring (s := w) port
    refine ⟨(State.linkDown_reg port hs1 hs2).trans hreg, by rw [h]; exact hcab, ?_⟩
    exact State.fld_of_reg ((State.linkDown_reg port hr1 (by decide)).trans hpos)
  · exact ⟨hreg, hcab, State.fld_of_reg hpos⟩

theorem State.syncSlip_framed (s : State) : Framed [.regs, .fast, .aug, .dec] [HZN_STAT, HZN_SLIP_CNT, AUG_RATE, AUG_STAT, DEC_HOLD_CNT, DEC_STAT]
    s s.syncSlip :=
  (((((Framed.refl _ _ s).setFlag (by decide) (f := HZN_STAT_SLIP) (by decide) true).setFlag (by decide) (f := HZN_STAT_SYNC_LOCK) (by decide) false).bump
    (by decide) (a := HZN_SLIP_CNT) (by decide)).writeEvent (by decide) (by decide) _ _).driveHold (by decide) (by decide)

/-- The count of a hello touches HZN_STAT, RNG_STAT and what a slip writes; of the ring only the mark of a bad count. -/
theorem State.helloCount_shows (src : Nat) (count : U64) : Framed [.regs, .fast, .aug, .dec, .ring]
      [RNG_STAT, HZN_STAT, HZN_SLIP_CNT, AUG_RATE, AUG_STAT, DEC_HOLD_CNT, DEC_STAT] s (s.helloCount src count) ∧
    ∃ b, (s.helloCount src count).ring = { s.ring with countBad := b } := by
  have hr := fun (z : Ring) => (Framed.refl [.regs, .fast, .aug, .dec, .ring] [RNG_STAT, HZN_STAT, HZN_SLIP_CNT, AUG_RATE, AUG_STAT, DEC_HOLD_CNT, DEC_STAT]
    s).setRing (by decide) z
  unfold State.helloCount
  extract_lets own
  split
  · split
    · split
      · exact ⟨.refl _ _ s, _, rfl⟩
      · exact ⟨(Framed.refl _ _ s).setFlag (by decide) (f := RNG_STAT_COUNT_BAD) (by decide) true, _, rfl⟩
    · split
      · split
        · exact ⟨hr _, _, rfl⟩
        · refine ⟨((hr _).setFlag (by decide) (f := RNG_STAT_COUNT_BAD) (by decide) true).trans ((State.syncSlip_framed _).mono (by decide) (by decide)), true, ?_⟩
          exact (State.syncSlip_framed _).1 .ring (by decide)
      · exact ⟨.refl _ _ s, _, rfl⟩
  · exact ⟨.refl _ _ s, _, rfl⟩

/-- A hello leaves its cable delay and the positions behind its port (R443, R451). -/
theorem State.hello_shows (port : Fin 4) (src : Nat) (count : U64) (reach : List Nat) (cable : Nat) :
    (s.hello port src count reach cable).ring.cables[port] = some cable ∧
      ((s.hello port src count reach cable).ring.reach[port] : List Nat) = (src :: reach).filter (fun q => q != s.position) ∧
      (s.hello port src count reach cable).reg (RNG_CABLE0 + 4 * port) = BitVec.ofNat 32 (min cable 255) := by
  have hcable : ∀ port : Fin 4, RNG_CABLE0 + 4 * port.val ∉ reachRegs ∧
      RNG_CABLE0 + 4 * port.val ∉ [RNG_STAT, HZN_STAT, HZN_SLIP_CNT, AUG_RATE, AUG_STAT, DEC_HOLD_CNT, DEC_STAT] := by decide
  obtain ⟨hreg, hcab, hpos⟩ := State.cableMeasured_shows (s := s) port cable
  unfold State.hello
  extract_lets u ring v
  have hv : v.ring = { u.ring with reach := u.ring.reach.set port ((src :: reach).filter (fun q => q != u.position)), dupPos := u.ring.dupPos || (u.flag RNG_CTL_CASC_EN && src == u.position) } := rfl
  obtain ⟨⟨b, n, hr⟩, -⟩ := v.showReach_ring
  obtain ⟨hfr, k, hk⟩ := State.helloCount_shows (s := v.showReach) src count
  rw [hk, hr, hv]
  refine ⟨hcab, ?_, ?_⟩
  · rw [← hpos]
    simp [u]
  · exact (hfr.2 _ (hcable port).2).trans ((v.showReach_framed.2 _ (hcable port).1).trans hreg)

/-- A change of role shows the role, the lead and the horizon of the takeover, with its record (R452). -/
theorem State.changeRole_shows {role lead : Nat} (hr : role < 4) (hl : lead < 64) : (s.changeRole role lead).role = role ∧
    (s.changeRole role lead).fld RNG_ROLE_LEAD = lead ∧ (s.changeRole role lead).flag RNG_STAT_TAKEOVER = true ∧
    (s.changeRole role lead).reg64 RNG_TAKEOVER_LO = s.count ∧ (s.changeRole role lead).ring = s.ring ∧
    (s.canNumber = true → (s.changeRole role lead).lastEvent = some (0x0101, [s.mod.st.code, s.mod.st.code, 0, 0, role])) := by
  unfold State.changeRole
  extract_lets u v
  have hw : ∀ a, a ≠ AUG_RATE → a ≠ AUG_STAT → (v.writeEvent 0x0101 [v.mod.st.code, v.mod.st.code, 0, 0, role]).reg a = v.reg a :=
    fun a h h' => State.writeEvent_reg _ _ _ h h'
  have hv : ∀ a, a ≠ RNG_TAKEOVER_LO → a ≠ RNG_TAKEOVER_LO + 4 → v.reg a = (u.setFlag RNG_STAT_TAKEOVER true).reg a :=
    fun a h h' => State.reg_setReg64_ne _ _ h h'
  have hrole : v.reg RNG_ROLE = u.reg RNG_ROLE := (hv _ (by decide) (by decide)).trans (State.reg_setFlag_ne _ _ (by decide))
  refine ⟨?_, ?_, ?_, ?_, ?_, ?_⟩
  · refine (State.fld_of_reg ((hw _ (by decide) (by decide)).trans hrole)).trans ((State.fld_setFld_apart _ _ (by decide)).trans ?_)
    exact (State.fld_setFld _ _ _ (by decide)).trans (Nat.mod_eq_of_lt hr)
  · exact (State.fld_of_reg ((hw _ (by decide) (by decide)).trans hrole)).trans ((State.fld_setFld _ _ _ (by decide)).trans (Nat.mod_eq_of_lt hl))
  · exact (State.flag_of_reg ((hw _ (by decide) (by decide)).trans (hv _ (by decide) (by decide)))).trans (State.flag_setFlag _ _ _ (by decide) rfl)
  · exact (State.reg64_of_reg (hw _ (by decide) (by decide)) (hw _ (by decide) (by decide))).trans (State.reg64_setReg64 _ _ _)
  · exact (State.writeEvent_only _ _ _) .ring (by decide)
  · exact State.writeEvent_last v _ _

/-- The module names itself the lead to every other position. -/
def State.leadNamed (s : State) : State :=
  let s : State := { s with ring := { s.ring with leadLost := false, syncOutDue := true } }
  s.sendAll 9 [1, s.position]

theorem State.leadNamed_shows : (∀ a, s.leadNamed.reg a = s.reg a) ∧ s.leadNamed.aug = s.aug ∧ s.leadNamed.ring.leadLost = false ∧
    s.leadNamed.ring.syncOutDue = true := by
  unfold State.leadNamed
  extract_lets ring v
  have hsent := (State.sendAll_sent (s := v) 9 [1, v.position]).rest
  have hkeep := State.sendAll_keeps (s := v) 9 [1, v.position]
  refine ⟨State.reg_congr (hkeep.same .regs rfl), hkeep.same .aug rfl, ?_, ?_⟩ <;> rw [hsent]

/-- The deputy leads from here on: its role, the horizon, and the message to every other position (R452). -/
theorem State.takeLead_shows : s.takeLead.role = 1 ∧ s.takeLead.fld RNG_ROLE_LEAD = s.position ∧ s.takeLead.flag RNG_STAT_TAKEOVER = true ∧
    s.takeLead.reg64 RNG_TAKEOVER_LO = s.count ∧ s.takeLead.ring.leadLost = false ∧ s.takeLead.ring.syncOutDue = true ∧
    (s.canNumber = true → s.takeLead.lastEvent = some (0x0101, [s.mod.st.code, s.mod.st.code, 0, 0, 1])) := by
  have heq : s.takeLead = (s.changeRole 1 s.position).leadNamed := rfl
  obtain ⟨hrole, hlead, hflag, htime, -, hev⟩ := State.changeRole_shows (s := s) (role := 1) (lead := s.position) (by decide) (s.fld_lt RNG_ROLE_POSITION)
  obtain ⟨hreg, haug, hlost, hsync⟩ := State.leadNamed_shows (s := s.changeRole 1 s.position)
  rw [heq]
  exact ⟨(State.fld_of_reg (hreg _)).trans hrole, (State.fld_of_reg (hreg _)).trans hlead, (State.flag_of_reg (hreg _)).trans hflag,
    (State.reg64_of_reg (hreg _) (hreg _)).trans htime, hlost, hsync, fun hn => (State.lastEvent_congr haug).trans (hev hn)⟩

/-- Settles O47: a link that falls, a hello, a boundary's routes, a takeover and a role message, each by what it shows of the ring and its registers. -/
theorem linksAndRolesOfTheCascade : Obligations.LinksAndRolesOfTheCascade := by
  refine ⟨?down, ?reroute, ?hello, ?takeover, ?waits, ?message⟩
  case down =>
    intro port s hl
    refine ⟨_, congrArg Host.Outcome.next (if_pos hl), State.linkDown_port port, ?_, ?_, ?_, ?_⟩
    · obtain ⟨ps, n, b, h⟩ := State.linkDown_ring (s := s) port
      rw [h]
      simp
    · exact (State.flag_of_reg ((State.showReach_framed _).2 _ (portStat_notin_reachRegs port))).trans (State.linkFallen_flags port).1
    · exact (State.flag_of_reg ((State.showReach_framed _).2 _ (portStat_notin_reachRegs port))).trans (State.linkFallen_flags port).2
    · obtain ⟨ps, n, b, h⟩ := State.linkDown_ring (s := s) port
      rw [h]
  case reroute =>
    intro c s hd hb hc
    exact ⟨_, congrArg Host.Outcome.next (if_pos (by rw [hd, hb]; rfl)), State.rerouteNow_shows hc⟩
  case hello => exact fun port src count reach cable s hl => ⟨_, congrArg Host.Outcome.next (if_pos hl), State.hello_shows ..⟩
  case takeover =>
    intro s hl hr hb
    exact ⟨_, congrArg Host.Outcome.next (if_pos (by rw [hl, hr, hb]; rfl)), State.takeLead_shows⟩
  case waits =>
    intro s h
    refine congrArg Host.Outcome.next (if_neg ?_)
    rintro hc
    simp only [Bool.and_eq_true, beq_iff_eq] at hc
    rcases h with h | h | h <;> simp_all
  case message =>
    intro src s hc hst
    refine ⟨_, congrArg Host.Outcome.next (if_pos (by rw [hc, ModState.powered_of_ne_off hst]; rfl)), ?_⟩
    by_cases hr : s.role = 1
    · rw [if_pos hr]
      by_cases hlt : src.val < s.position
      · rw [if_pos hlt, show s.roleMessage src = s.changeRole 3 src from (if_pos hr).trans (if_pos hlt)]
        obtain ⟨hrole, hlead, hflag, -, -, -⟩ := State.changeRole_shows (s := s) (role := 3) (by decide) src.isLt
        exact ⟨hrole, hlead, hflag⟩
      · rw [if_neg hlt]
        exact (if_pos hr).trans (if_neg hlt)
    · rw [if_neg hr, show s.roleMessage src = _ from if_neg hr]
      refine ⟨(State.fld_setFld _ _ _ (by decide)).trans (Nat.mod_eq_of_lt src.isLt), rfl, ?_⟩
      exact ((Framed.refl _ _ s).setRing (by decide) _).setFld (by decide) (f := RNG_ROLE_LEAD) (by decide) _

end

end Sys2Proof.Machine

/-! Ring frames and elastic cells (R438 to R440, R444 to R447): what an error of a ring lane leaves of the registers, what a part, a cell and a
merge leave of the ring. -/
namespace Sys2Proof.Machine

section
variable {s : State} {u : Word}

/-- The registers that an error of a unit outside the fabric, the engines and the lanes writes. -/
def errorRegs : List Nat :=
  [FLT_CAUSE, FLT_UNIT, FLT_HZN_LO, FLT_HZN_LO + 4, FLT_STAT, FLT_LASTING_CNT, FLT_TRANSIENT_CNT, AUG_RATE, AUG_STAT]

theorem Framed.reg {A : List Area} {R : List Nat} {r t : State} (h : Framed A R r t) {a : Nat} (ha : a ∉ R) : t.reg a = r.reg a := h.2 a ha

/-- Of the registers, those of `errorRegs` alone may have changed. -/
def ErrorsOnly (s t : State) : Prop := ∀ a, a ∉ errorRegs → t.reg a = s.reg a

theorem ErrorsOnly.refl (s : State) : ErrorsOnly s s := fun _ _ => rfl

theorem ErrorsOnly.trans {a b c : State} (h : ErrorsOnly a b) (k : ErrorsOnly b c) : ErrorsOnly a c := fun x hx => (k x hx).trans (h x hx)

theorem ErrorsOnly.setReg {r : State} (h : ErrorsOnly r s) {a : Nat} (ha : a ∈ errorRegs) (v : Word) : ErrorsOnly r (s.setReg a v) :=
  fun x hx => (State.reg_setReg_ne s v (ne_of_mem_of_not_mem ha hx).symm).trans (h x hx)

theorem ErrorsOnly.setFlag {r : State} (h : ErrorsOnly r s) {f : Field} (hf : f.addr ∈ errorRegs) (b : Bool) : ErrorsOnly r (s.setFlag f b) :=
  fun x hx => (State.reg_setFlag_ne s b (ne_of_mem_of_not_mem hf hx).symm).trans (h x hx)

theorem ErrorsOnly.bump {r : State} (h : ErrorsOnly r s) {a : Nat} (ha : a ∈ errorRegs) : ErrorsOnly r (s.bump a) := h.setReg ha _

theorem ErrorsOnly.setReg64 {r : State} (h : ErrorsOnly r s) {a : Nat} (ha : a ∈ errorRegs) (hb : a + 4 ∈ errorRegs) (v : U64) :
    ErrorsOnly r (s.setReg64 a v) := (h.setReg ha _).setReg hb _

theorem ErrorsOnly.setFlt {r : State} (h : ErrorsOnly r s) (z : Flt) : ErrorsOnly r { s with flt := z } := h

theorem ErrorsOnly.writeEventAt {r : State} (h : ErrorsOnly r s) (code : Nat) (x : U64) (l : Nat) (args : List Nat) :
    ErrorsOnly r (s.writeEventAt code x l args) :=
  h.trans fun _ ha => (Framed.writeEventAt (.refl [.regs, .aug] [AUG_RATE, AUG_STAT] s) (by decide) (by decide) code x l args).reg
    fun hm => ha (by simp only [List.mem_cons, List.not_mem_nil, or_false] at hm; rcases hm with rfl | rfl <;> decide)

theorem ErrorsOnly.writeEvent {r : State} (h : ErrorsOnly r s) (code : Nat) (args : List Nat) : ErrorsOnly r (s.writeEvent code args) := h.writeEventAt _ _ _ _

theorem ErrorsOnly.showStatus {r : State} (h : ErrorsOnly r s) (v : Word) (x y : Nat) : ErrorsOnly r (s.showStatus v x y) :=
  h.trans fun _ ha => s.showStatus_reg v x y (ne_of_mem_of_not_mem (by decide) ha).symm

theorem ErrorsOnly.keeps {r t : State} (h : ErrorsOnly r s) {T : List Area} (k : Keeps T s t) (hT : T.contains Area.regs = false) : ErrorsOnly r t :=
  h.trans fun a _ => State.reg_congr (k.same .regs hT) a

theorem ErrorsOnly.endTouch {r : State} (h : ErrorsOnly r s) (v : Word) : ErrorsOnly r (s.endTouch v) :=
  h.keeps (Keeps.endTouch (.refl [.fast, .flt] s) rfl v) rfl

/-- A lasting error of a lane unit marks the module degraded and retires nothing. -/
theorem ErrorsOnly.retire {r : State} (h : ErrorsOnly r s) (hu : unitType u = 8) (n : Nat) : ErrorsOnly r (s.retire u n) := by
  have h1 := (((h.bump (a := FLT_LASTING_CNT) (by decide)).setFlag (f := FLT_STAT_LASTING) (by decide) true).showStatus u 2 0).writeEvent
    0x0571 [u.toNat, n]
  have h2 : ∀ t, ErrorsOnly r t → ErrorsOnly r ((t.dropFaultyTarget u).retireUnit u) := by
    intro t ht
    have hd : t.dropFaultyTarget u = t := if_neg (by rw [hu]; simp)
    have hr : t.retireUnit u = t.markDegraded u := by simp only [State.retireUnit, hu]
    rw [hd, hr]
    exact (((ht.writeEvent _ _).showStatus u 2 2).endTouch u).setFlag (f := FLT_STAT_DEGRADED) (by decide) _
  exact h2 _ h1

theorem ErrorsOnly.transient {r : State} (h : ErrorsOnly r s) (x : U64) : ErrorsOnly r (s.transient u x) :=
  (((((h.setFlt { s.flt with hist := histStore s.flt.hist u x }).bump (a := FLT_TRANSIENT_CNT) (by decide)).setFlag (f := FLT_STAT_TRANSIENT)
    (by decide) true).showStatus u 1 0).writeEvent _ _).endTouch u

theorem ErrorsOnly.classify {r : State} (h : ErrorsOnly r s) (hu : unitType u = 8) (cls : Nat) (x : U64) : ErrorsOnly r (s.classify u cls x) := by
  unfold State.classify
  split
  · exact h.trans fun _ _ => rfl
  · split
    · exact h.retire hu 2
    · split
      · exact h.transient x
      · exact (h.setFlt _).setFlag (f := FLT_STAT_TESTING) (by decide) _

theorem State.errorShown_errors (s : State) (cause : Nat) (h : U64) (tag : Nat) : ErrorsOnly s (s.errorShown u 0xF cause h tag) := by
  have hw : ErrorsOnly s s.wakeEntry := (ErrorsOnly.refl s).keeps (Keeps.wakeEntry (.refl [.mod] s) rfl) rfl
  have h1 := ((hw.setReg (a := FLT_CAUSE) (by decide) (BitVec.ofNat 32 (0xF * 65536 + cause * 16))).setReg (a := FLT_UNIT) (by decide) u).setReg64
    (a := FLT_HZN_LO) (by decide) (by decide) h
  have h2 := h1.setFlag (f := FLT_STAT_FAULT) (by decide) true
  have h3 : ∀ t, ErrorsOnly s t → ErrorsOnly s (t.detectEvent u 0xF h tag) := by
    intro t ht
    unfold State.detectEvent
    split
    · exact ht
    · exact (ht.setFlt _).writeEventAt _ _ _ _
  exact h3 _ h2

/-- An error of class 0x0F on a ring lane writes the registers of the faults and of its records. -/
theorem State.detect_errors (s : State) (hu : unitType u = 8) (h : U64) (tag : Nat) : ErrorsOnly s (s.detect u 0xF h tag) := by
  rw [State.detect_eq]
  have h1 := s.errorShown_errors (u := u) (classCause 0xF) h tag
  generalize s.errorShown u 0xF (classCause 0xF) h tag = t at h1
  exact h1.classify hu 0xF h

theorem ringLaneUnit_type (port : Fin 4) : unitType (ringLaneUnit port 0) = 8 := by
  revert port
  decide

theorem ringLane_first (port : Fin 4) : (Fin.ofNat 80 (56 + 4 * port.val)).val = 56 + 4 * port.val := by
  revert port
  decide

theorem State.abortEye_framed (s : State) (l : Fin 80) :
    Framed [.regs, .lanes, .free] [LNK_EYE_STAT, LNK_EYE_ERR, LNK_EYE_BITS_LO, LNK_EYE_BITS_HI] s (s.abortEye l) := by
  refine (Keeps.abortEye (.refl [.regs, .lanes, .free] s) rfl l).framed fun a ha => ?_
  unfold State.abortEye
  dsimp only
  split
  · simp only [List.mem_cons, List.not_mem_nil, or_false, not_or] at ha
    obtain ⟨hstat, herr, hlo, hhi⟩ := ha
    rw [State.reg_setFlag_ne _ _ hstat, State.reg_setFlag_ne _ _ hstat, State.reg_setFlag_ne _ _ hstat, State.reg_setReg64_ne _ _ hlo hhi,
      State.reg_setReg_ne _ _ herr]
    rfl
  · rfl

/-- The self-test of a ring lane touches the registers of the lane, of its scan and of the port's status. -/
theorem State.startPrbs_ring (port : Fin 4) {a : Nat} (ha : a ∈ [RNG_STAT, RNG_FEC_UNCORR_CNT]) :
    (s.startPrbs (Fin.ofNat 80 (56 + 4 * port.val))).reg a = s.reg a := by
  have hl := ringLane_first port
  have hpl := port.isLt
  have heye : ∀ a ∈ [RNG_STAT, RNG_FEC_UNCORR_CNT], a ∉ [LNK_EYE_STAT, LNK_EYE_ERR, LNK_EYE_BITS_LO, LNK_EYE_BITS_HI] := by decide
  have hup : ∀ (port : Fin 4), ∀ a ∈ [RNG_STAT, RNG_FEC_UNCORR_CNT], a ≠ RNG_PORT_STAT0 + 4 * port.val ∧ a ≠ LNK_STAT + lnkOff (56 + 4 * port.val) := by
    decide
  generalize Fin.ofNat 80 (56 + 4 * port.val) = l at hl
  have hleave : s.laneLeaves l = (s.abortEye l).setFlag (portField RNG_PORT_STAT0_UP port.val) false := by
    have hport : (l.val - 56) / 4 = port.val := by omega
    unfold State.laneLeaves
    dsimp only
    rw [if_neg (show ¬ l.val < 48 by omega), if_neg (show ¬ 72 ≤ l.val by omega), if_pos (show 56 ≤ l.val ∧ l.val < 72 by omega), hport]
  unfold State.startPrbs
  dsimp only
  split
  · rfl
  · rw [hleave, hl]
    refine (State.reg_setFld_ne _ _ (hup port a ha).2).trans ?_
    exact (State.reg_setFlag_ne _ (f := portField RNG_PORT_STAT0_UP port.val) _ (hup port a ha).1).trans ((State.abortEye_framed s l).2 a (heye a ha))

/-- An uncorrectable codeword keeps its mark and its count through the error it is (R439). -/
theorem State.detectLane_ring (port : Fin 4) (h : U64) {a : Nat} (ha : a ∈ [RNG_STAT, RNG_FEC_UNCORR_CNT]) :
    (s.detectLane (Fin.ofNat 80 (56 + 4 * port.val)) 0xF h).reg a = s.reg a := by
  have hunit : laneUnit (Fin.ofNat 80 (56 + 4 * port.val)).val = some (ringLaneUnit port 0) := by
    revert port
    decide
  have herr : (s.detect (ringLaneUnit port 0) 0xF h 0).reg a = s.reg a := by
    refine s.detect_errors (ringLaneUnit_type port) h 0 a ?_
    simp only [List.mem_cons, List.not_mem_nil, or_false] at ha
    rcases ha with rfl | rfl <;> decide
  unfold State.detectLane
  rw [hunit]
  dsimp only
  split
  · exact (State.startPrbs_ring port ha).trans herr
  · exact herr

theorem State.forwardPart_sent (bytes : List Byte) (i : Nat) : Ring.Sent s.ring (s.forwardPart bytes i).ring := by
  have hq : ∀ (xs : List (Fin 4 × Nat)) (t : State), Ring.Sent s.ring t.ring →
      Ring.Sent s.ring (xs.foldl (fun (t : State) x => t.queuePart x.1 i bytes) t).ring := by
    intro xs
    induction xs with
    | nil => exact fun _ h => h
    | cons x xs ih => exact fun t h => ih _ (h.trans (State.setPort_sent x.1 rfl))
  unfold State.forwardPart
  split
  · split
    · exact .refl _
    · exact hq _ s (.refl _)
  · exact .refl _

/-- The state in which the parts of a ring frame that go on wait at their ports (R442). -/
def State.partsForwarded (s : State) (xs : List (List Byte × Nat)) : State := xs.foldl (fun s x => s.forwardPart (padTo 32 x.1) x.2) s

theorem State.partsForwarded_shows (xs : List (List Byte × Nat)) : Keeps [.ring] s (s.partsForwarded xs) ∧ Ring.Sent s.ring (s.partsForwarded xs).ring := by
  refine ⟨Keeps.foldl xs (.refl [.ring] s) fun t x h => Keeps.forwardPart h rfl _ _, ?_⟩
  have hall : ∀ (xs : List (List Byte × Nat)) (t : State), Ring.Sent s.ring t.ring → Ring.Sent s.ring (t.partsForwarded xs).ring := by
    intro xs
    induction xs with
    | nil => exact fun _ h => h
    | cons x xs ih => exact fun t h => ih _ (h.trans (State.forwardPart_sent _ _))
  exact hall xs s (.refl _)

theorem State.partMine_congr {t : State} (hp : t.prog = s.prog) (hr : t.reg RNG_ROLE = s.reg RNG_ROLE) (ho : t.ring.onAlt = s.ring.onAlt)
    (i : Nat) (x : Part) : t.partMine i x = s.partMine i x := by
  have hc : t.cascade? = s.cascade? := by
    unfold State.cascade? State.program?
    rw [hp]
  have hpos : t.position = s.position := State.fld_of_reg hr
  unfold State.partMine
  rw [hc, hpos, ho]

/-- An uncorrectable codeword is marked, counted and gives no part (R439). -/
theorem State.ringFrame_bad {port : Fin 4} {n : Nat} (hn : 15 < n) (slots : List (List Byte)) : (s.ringFrame port n slots).flag RNG_STAT_FEC_UNCORR = true ∧
    (s.ringFrame port n slots).reg RNG_FEC_UNCORR_CNT = bumped (s.reg RNG_FEC_UNCORR_CNT) ∧ (s.ringFrame port n slots).ring.parts = s.ring.parts := by
  obtain ⟨hk, hsent⟩ := State.partsForwarded_shows (s := s) ((slots.take 20).zipIdx)
  have hr := hsent.rest
  have hreg := State.reg_congr (hk.same .regs rfl) RNG_FEC_UNCORR_CNT
  have heq : s.ringFrame port n slots = State.detectLane (((s.partsForwarded ((slots.take 20).zipIdx)).setFlag RNG_STAT_FEC_UNCORR true).bump
      RNG_FEC_UNCORR_CNT) (Fin.ofNat 80 (56 + 4 * port.val)) 0x0F (s.partsForwarded ((slots.take 20).zipIdx)).count := if_pos hn
  rw [heq]
  generalize s.partsForwarded ((slots.take 20).zipIdx) = u at hr hreg
  refine ⟨(State.flag_of_reg (State.detectLane_ring port _ (by decide))).trans ?_, (State.detectLane_ring port _ (by decide)).trans ?_, ?_⟩
  · exact (State.flag_of_reg (State.reg_bump_ne _ (by decide))).trans (State.flag_setFlag _ _ _ (by decide) rfl)
  · rw [State.reg_bump_bumped, State.reg_setFlag_ne _ _ (by decide), hreg]
  · have hring := (Keeps.detectLane (.refl [.regs, .mod, .beds, .fast, .eng, .aug, .flt, .dec, .lanes, .hst, .svc, .free] ((u.setFlag RNG_STAT_FEC_UNCORR true).bump
      RNG_FEC_UNCORR_CNT)) rfl (Fin.ofNat 80 (56 + 4 * port.val)) 0x0F u.count).same .ring rfl
    have hp : ((u.setFlag RNG_STAT_FEC_UNCORR true).bump RNG_FEC_UNCORR_CNT).ring.parts = s.ring.parts := by
      show u.ring.parts = s.ring.parts
      rw [hr]
    exact (congrArg Ring.parts hring).trans hp

/-- A codeword of at most 15 symbol errors is corrected and counted, and every part for this module is kept (R439). -/
theorem State.ringFrame_good {port : Fin 4} {n : Nat} (hn : ¬ 15 < n) (slots : List (List Byte)) :
    (s.ringFrame port n slots).reg RNG_FEC_CORR_CNT = BitVec.ofNat 32 (min ((s.reg RNG_FEC_CORR_CNT).toNat + n) 0xFFFFFFFF) ∧
      (∀ i b x, (slots.take 20)[i]? = some b → readPart b = some x → s.partMine i x = true → x ∈ (s.ringFrame port n slots).ring.parts) ∧
      Framed [.regs, .ring] [RNG_FEC_CORR_CNT] s (s.ringFrame port n slots) := by
  obtain ⟨hk, hsent⟩ := State.partsForwarded_shows (s := s) ((slots.take 20).zipIdx)
  have hr := hsent.rest
  have hreg := State.reg_congr (hk.same .regs rfl)
  have hprog := hk.same .prog rfl
  have hfr := hk.framed_of_regs rfl
  have heq : s.ringFrame port n slots = (fun (u : State) =>
      ({ u with ring := { u.ring with parts := u.ring.parts.filter (fun p => decide (u.count.toNat < p.hzn.toNat + 8192)) ++
          (slots.take 20).zipIdx.filterMap (fun bi => (readPart bi.1).bind (fun p => if u.partMine bi.2 p then some p else none)) } } : State))
      ((s.partsForwarded ((slots.take 20).zipIdx)).bumpBy RNG_FEC_CORR_CNT n) := if_neg hn
  rw [heq]
  generalize s.partsForwarded ((slots.take 20).zipIdx) = u at hr hreg hprog hfr
  have honAlt : u.ring.onAlt = s.ring.onAlt := by rw [hr]
  refine ⟨?_, fun i b x hb hx hm => ?_, ?_⟩
  · exact (State.reg_setRing _ _).trans ((State.reg_bumpBy u RNG_FEC_CORR_CNT n).trans (by rw [hreg]))
  · refine List.mem_append_right _ (List.mem_filterMap.mpr ⟨(b, i), List.mem_zipIdx_iff_getElem?.mpr hb, ?_⟩)
    have hmine : (u.bumpBy RNG_FEC_CORR_CNT n).partMine i x = s.partMine i x :=
      State.partMine_congr (t := u.bumpBy RNG_FEC_CORR_CNT n) hprog ((State.reg_bumpBy_ne u n (a := RNG_FEC_CORR_CNT) (b := RNG_ROLE) (by decide)).trans (hreg _)) honAlt i x
    show (readPart b).bind _ = _
    rw [hx]
    exact if_pos (hmine.trans hm)
  · exact ((hfr.mono (by decide) (by decide)).setReg (by decide) (a := RNG_FEC_CORR_CNT) (by decide) _).setRing (by decide) _

/-! Elastic cells -/

/-- Every port expects the number that it expected before. -/
def Ring.ExpectsAs (r r' : Ring) : Prop := ∀ p : Fin 4, (r'.ports[p] : RingPort).expected = (r.ports[p] : RingPort).expected

theorem State.mirrorTaken_expects (src : Nat) (data : List Byte) : Ring.ExpectsAs s.ring (s.mirrorTaken src data).ring := by
  unfold State.mirrorTaken
  split
  · exact fun _ => rfl
  · exact fun p => (State.sendMessage_sent ..).expected p

theorem State.ringDeliver_expects (b : List Byte) : Ring.ExpectsAs s.ring (s.ringDeliver b).ring := by
  unfold State.ringDeliver
  dsimp only
  split
  · exact fun _ => rfl
  · split
    · split
      · exact fun p => State.mirrorTaken_expects _ _ p
      · exact fun _ => rfl
    · exact fun _ => rfl

theorem RingPort.acked_expected (p : RingPort) (ack : Nat) : (p.acked ack).expected = p.expected := by
  unfold RingPort.acked
  dsimp only
  split <;> rfl

/-- A cell that fails its check changes nothing (R440). -/
theorem State.elasticCell_bad {port : Fin 4} {cell : List Byte} (h : leAt (padTo 336 cell) 332 4 ≠ crc32 (slice (padTo 336 cell) 0 332)) :
    s.elasticCell port cell = s := if_neg h

/-- A good cell is accepted when it carries data under the number that is expected (R440). -/
theorem State.elasticCell_good {port : Fin 4} {cell : List Byte} (h : leAt (padTo 336 cell) 332 4 = crc32 (slice (padTo 336 cell) 0 332)) :
    ((s.elasticCell port cell).ring.ports[port] : RingPort).expected =
      (if leAt (padTo 336 cell) 6 1 ≠ 0 ∧ leAt (padTo 336 cell) 0 2 = (s.ring.ports[port] : RingPort).expected
        then ((s.ring.ports[port] : RingPort).expected + 1) % 65536 else (s.ring.ports[port] : RingPort).expected) := by
  have hack := RingPort.acked_expected s.ring.ports[port] (leAt (padTo 336 cell) 2 2)
  unfold State.elasticCell
  dsimp only
  rw [if_pos h, hack]
  split
  · next hn =>
    rw [State.setPort_same, hack, if_neg (by tauto)]
  · next hy =>
    have hacc : leAt (padTo 336 cell) 6 1 ≠ 0 ∧ leAt (padTo 336 cell) 0 2 = (s.ring.ports[port] : RingPort).expected :=
      ⟨fun e => hy (.inl e), not_not.mp fun e => hy (.inr e)⟩
    rw [if_pos hacc]
    split
    · rw [State.ringDeliver_expects _ port, State.setPort_same]
    · split
      · rw [(State.queueCell_sent ..).expected port, State.setPort_same]
      · rw [State.setPort_same]

/-- A retry sends again from the first cell without an ACK (R440). -/
theorem State.elasticRetry_shows {port : Fin 4} (h : (s.ring.ports[port] : RingPort).unacked ≠ []) :
    ((s.elasticRetry port).ring.ports[port] : RingPort) = { s.ring.ports[port] with sent := 0 } ∧
      (s.elasticRetry port).reg RNG_RETRY_CNT = bumped (s.reg RNG_RETRY_CNT) ∧ Framed [.regs, .ring] [RNG_RETRY_CNT] s (s.elasticRetry port) := by
  have hne : (s.ring.ports[port] : RingPort).unacked.isEmpty = false := by simpa using h
  have heq : s.elasticRetry port = (s.setPort port { s.ring.ports[port] with sent := 0 }).bump RNG_RETRY_CNT := if_neg (by rw [hne]; simp)
  rw [heq]
  exact ⟨State.setPort_same _ _, State.reg_bump_bumped _ _, ((Framed.refl _ _ s).setRing (by decide) _).bump (by decide) (by decide)⟩

/-! Combining slots -/

theorem exec_deepens {bed : Fin 4} {slot : Fin 64} {hzn : U64} {c : Cascade} {p : PhaseProg} {sp : CascSpan} (hc : s.cascade? = some c)
    (hp : s.phaseAt hzn.toNat = some p) (hg : s.mod.st = .growing) (ht : s.tickOpen hzn = true) (hh : hzn.toNat ≤ s.count.toNat)
    (hf : s.frame? bed slot hzn = none) (ha : s.fast.arrived.any (fun a => a.layoutBed == bed.val && a.slot == slot.val && a.hzn == hzn) = false)
    (hs : (p.slot? bed slot).isSome = true)
    (hsp : (c.spans.filter (fun sp => sp.destPart == ringKey bed slot)).find? (fun sp => sp.kind == 1 && sp.dest == s.position) = some sp) :
    exec (.combiningSlot bed slot hzn) s = .next (s.deepen sp bed slot hzn) := by
  have hd : decide (hzn.toNat ≤ s.count.toNat) = true := decide_eq_true hh
  show Host.Outcome.next (match s.cascade?, s.phaseAt hzn.toNat with | some c, some p => _ | _, _ => _) = _
  rw [hc, hp]
  dsimp only
  rw [hsp]
  dsimp only
  rw [hg, ht, hd, hf, ha, hs]
  simp

theorem exec_merges {bed : Fin 4} {slot : Fin 64} {hzn : U64} {c : Cascade} {p : PhaseProg} (hc : s.cascade? = some c)
    (hp : s.phaseAt hzn.toNat = some p) (hg : s.mod.st = .growing) (ht : s.tickOpen hzn = true) (hh : hzn.toNat ≤ s.count.toNat)
    (hf : s.frame? bed slot hzn = none) (hr : s.role = 1) (hs : p.slot? bed slot = none)
    (hsp : (c.spans.filter (fun sp => sp.destPart == ringKey bed slot)).find? (fun sp => sp.kind == 1 && sp.dest == s.position) = none)
    (hm : (c.spans.filter (fun sp => sp.destPart == ringKey bed slot)).filter (fun sp => sp.kind == 0) ≠ []) :
    exec (.combiningSlot bed slot hzn) s =
      .next (s.mergeGroup p ((c.spans.filter (fun sp => sp.destPart == ringKey bed slot)).filter (fun sp => sp.kind == 0)) bed slot hzn) := by
  have hd : decide (hzn.toNat ≤ s.count.toNat) = true := decide_eq_true hh
  have hem : ((c.spans.filter (fun sp => sp.destPart == ringKey bed slot)).filter (fun sp => sp.kind == 0)).isEmpty = false := by simpa using hm
  show Host.Outcome.next (match s.cascade?, s.phaseAt hzn.toNat with | some c, some p => _ | _, _ => _) = _
  rw [hc, hp]
  dsimp only
  rw [hsp]
  dsimp only
  rw [hg, ht, hd, hf, hr, hs, hem]
  simp

theorem State.deepen_part {sp : CascSpan} {lb slot : Nat} {h : U64} {x : Part} (hx : s.partFor sp h = some x) : ∃ a : Arrived,
    (s.deepen sp lb slot h).fast.arrived = s.fast.arrived ++ [a] ∧ a.layoutBed = lb ∧ a.slot = slot ∧ a.hzn = h ∧ a.missing = false ∧
      a.payload = (List.range 16).map (fun i => BitVec.ofInt 8 (x.summary.getD i 0)) ∧ Framed [.fast, .ring] [] s (s.deepen sp lb slot h) := by
  unfold State.deepen
  rw [hx]
  exact ⟨_, rfl, rfl, rfl, rfl, rfl, rfl, (Framed.refl [.fast, .ring] [] s).fields rfl fun p => by
    cases p with
    | fast => exact .inl (by decide)
    | ring => exact .inl (by decide)
    | _ => exact .inr rfl⟩

theorem State.partsMissing_shows (lb slot : Nat) (h : U64) (part n : Nat) : (s.partsMissing lb slot h part n).fast.arrived = s.fast.arrived ∧
    (s.partsMissing lb slot h part n).reg FLT_PARTIAL_CNT = bumped (s.reg FLT_PARTIAL_CNT) := by
  unfold State.partsMissing
  extract_lets u fast v
  split
  · exact ⟨rfl, State.reg_bump_bumped _ _⟩
  · have hfast : (v.writeEventAt 0x0560 h (slot % 8) [bedSlot lb slot, part, n]).fast = v.fast :=
      (Framed.writeEventAt (.refl [.regs, .aug] [AUG_RATE, AUG_STAT] v) (by decide) (by decide) _ _ _ _).1 .fast (by decide)
    refine ⟨(congrArg Fast.arrived hfast : _ = v.fast.arrived), ?_⟩
    exact (State.writeEventAt_reg _ _ _ _ _ (by decide) (by decide)).trans (State.reg_bump_bumped _ _)

theorem State.deepen_missing {sp : CascSpan} {lb slot : Nat} {h : U64} (hx : s.partFor sp h = none) : ∃ a : Arrived,
    (s.deepen sp lb slot h).fast.arrived = s.fast.arrived ++ [a] ∧ a.layoutBed = lb ∧ a.slot = slot ∧ a.hzn = h ∧ a.missing = true ∧
      (s.deepen sp lb slot h).reg FLT_PARTIAL_CNT = bumped (s.reg FLT_PARTIAL_CNT) := by
  unfold State.deepen
  rw [hx]
  dsimp only
  exact ⟨_, (State.partsMissing_shows ..).1, rfl, rfl, rfl, rfl, (State.partsMissing_shows ..).2⟩

/-- The part of a span at a tick, or its default and the mark that it is missing. -/
def State.spanPart (s : State) (p : PhaseProg) (h : U64) (sp : CascSpan) : Part × Bool :=
  match s.partFor sp h with
  | some x => (x, false)
  | none =>
    let d := p.decision.parts.find? (fun x => x.part == sp.src * 256 + sp.srcPart)
    ((⟨h, sp.src, sp.srcPart, 0, ((d.map PartDefault.bits).getD 0) % 2048, 2 ^ 4, (d.map PartDefault.values).getD []⟩ : Part), true)

theorem State.spanParts_found (p : PhaseProg) {h : U64} : ∀ {sps : List CascSpan} {ps : List Part}, sps.map (fun sp => s.partFor sp h) = ps.map some →
    sps.map (s.spanPart p h) = ps.map (fun x => (x, false))
  | [], [], _ => rfl
  | sp :: sps, x :: ps, hm => by
    simp only [List.map_cons, List.cons.injEq] at hm ⊢
    refine ⟨?_, State.spanParts_found p hm.2⟩
    unfold State.spanPart
    rw [hm.1]

theorem State.checkTail_frames (s : State) : s.checkTail.fast.frames = s.fast.frames := by
  unfold State.checkTail
  split
  · exact State.driveHold_frames _
  · rfl

/-- A merge whose parts are all here appends their frame, with the verdict and the summary that they merge to (R445). -/
theorem State.mergeGroup_shows {p : PhaseProg} {spans : List CascSpan} {lb slot : Nat} {h : U64} {ps : List Part}
    (hps : (spans.foldl (fun acc sp => placeSpan sp acc) []).map (fun sp => s.partFor sp h) = ps.map some) :
    ∃ f, (s.mergeGroup p spans lb slot h).fast.frames = s.fast.frames ++ [f] ∧ f.hzn = h ∧ f.layoutBed = lb ∧ f.slot = slot ∧ f.merged = true ∧
      f.exited = true ∧ f.payload = ps.flatMap Part.bytes ∧ f.summary = (mergeParts ps).2.2.2.1 ∧
      f.quick = verdictWord (mergeParts ps).1 (bitCauses (mergeParts ps).2.1) false false := by
  have hgot := State.spanParts_found p hps
  unfold State.mergeGroup
  extract_lets got lost m u causes payload v w bit f fast ring x
  have hg : got = ps.map (fun x => (x, false)) := hgot
  have hlost : lost = 0 := by
    show (got.filter Prod.snd).length = 0
    rw [hg]
    simp
  have hm : m = mergeParts ps := by
    show mergeParts (got.map Prod.fst) = _
    rw [hg]
    simp [Function.comp_def]
  have hpay : payload = ps.flatMap Part.bytes := by
    show got.flatMap (fun x => x.1.bytes) = _
    rw [hg]
    simp [List.flatMap_map]
  have hu : u.fast = s.fast := (Keeps.foldl _ (.refl [.regs] s) fun t b hk => Keeps.bedSat hk rfl _ _).same .fast rfl
  have hv : v = u := if_pos hlost
  have hw : w.fast = s.fast := ((Keeps.countSub (.refl [.regs] v) rfl causes).same .fast rfl).trans (by rw [hv, hu])
  refine ⟨f, (State.checkTail_frames x).trans (by show w.fast.frames ++ [f] = _; rw [hw]), rfl, rfl, rfl, rfl, rfl, hpay, ?_, ?_⟩
  · show m.2.2.2.1 = _
    rw [hm]
  · show verdictWord m.1 (bitCauses m.2.1) false false = _
    rw [hm]

end

/-- Settles O46: ring frames by the two cases of R439, the combining slot by its part or its spans, a cell by its check and its number. -/
theorem ringFramesAndCells : Obligations.RingFramesAndCells := by
  refine ⟨?frame, ?deepen, ?merge, ?cell, ?retry, ?dead⟩
  case frame =>
    intro port n slots s hl
    refine ⟨_, congrArg Host.Outcome.next (if_pos hl), ?_⟩
    split
    · next hn => exact State.ringFrame_bad hn slots
    · next hn => exact State.ringFrame_good hn slots
  case deepen =>
    intro bed slot hzn c p sp s hc hp hg ht hh hf ha hs hsp
    cases hx : s.partFor sp hzn with
    | some x =>
      obtain ⟨a, harr, hlb, hslot, hz, hmiss, hpay, hfr⟩ := State.deepen_part (lb := bed.val) (slot := slot.val) hx
      exact ⟨_, a, exec_deepens hc hp hg ht hh hf ha hs hsp, harr, hlb, hslot, hz, hmiss, hpay, hfr⟩
    | none =>
      obtain ⟨a, harr, hlb, hslot, hz, hmiss, hcnt⟩ := State.deepen_missing (lb := bed.val) (slot := slot.val) hx
      exact ⟨_, a, exec_deepens hc hp hg ht hh hf ha hs hsp, harr, hlb, hslot, hz, hmiss, hcnt⟩
  case merge =>
    rintro bed slot hzn c p into ps s hc hp hg ht hh hf hr hs rfl hsp hm hps
    obtain ⟨f, hshow⟩ := State.mergeGroup_shows (p := p) (lb := bed.val) (slot := slot.val) hps
    exact ⟨_, f, exec_merges hc hp hg ht hh hf hr hs hsp hm, hshow⟩
  case cell =>
    intro port cell s hl
    refine ⟨_, congrArg Host.Outcome.next (if_pos hl), ?_⟩
    split
    · next h => exact State.elasticCell_good h
    · next h => exact State.elasticCell_bad h
  case retry => exact fun port s hl hu => ⟨_, congrArg Host.Outcome.next (if_pos hl), State.elasticRetry_shows hu⟩
  case dead =>
    intro port n slots cell s hl
    have hdead : ¬ s.portLive port = true := by rw [hl]; exact Bool.false_ne_true
    exact ⟨congrArg Host.Outcome.next (if_neg hdead), congrArg Host.Outcome.next (if_neg hdead), congrArg Host.Outcome.next (if_neg hdead)⟩

end Sys2Proof.Machine

/-! Link microcode (R502, R503): what a verification, an arming, a cancellation and a swap leave of the bank pairs. -/
namespace Sys2Proof.Machine

theorem Framed.setSvc {A : List Area} {R : List Nat} {r s : State} (h : Framed A R r s) (hA : Area.svc ∈ A) (z : Svc) :
    Framed A R r { s with svc := z } :=
  h.fields rfl fun p => by
    cases p with
    | svc => exact .inl hA
    | _ => exact .inr rfl

section
variable {s : State} (p : Path)

theorem State.seen_svc : (s.seen p).svc = s.svc := (s.seen_framed p).1 .svc (by decide)

theorem State.seen_xogrimKey (h : List Byte) : (s.seen p).xogrimKey h = s.xogrimKey h := by
  obtain ⟨j, d, hs⟩ := s.seen_sec p
  unfold State.xogrimKey State.xkeyDisabled State.settings State.genBytes State.hardpanBytes
  rw [hs]

theorem State.seen_ucBytes (off n : Nat) : (s.seen p).ucBytes off n = s.ucBytes off n := by
  unfold State.ucBytes
  rw [State.seen_svc]

theorem State.seen_ucCode (n : Nat) : (s.seen p).ucCode n = s.ucCode n := by
  unfold State.ucCode
  simp only [State.seen_ucBytes, State.seen_xogrimKey, State.seen_svc]

theorem State.seen_ucPort : (s.seen p).ucPort = s.ucPort := s.seen_fld p (by decide)

variable {p}

theorem exec_ucVerify (h : s.opens p TOP_UC_CTL) : exec (.ucVerify p) s = .next (s.seen p).ucVerifies :=
  congrArg Host.Outcome.next (State.via_of_opens h fun u => u.ucVerifies)

theorem exec_ucArm (h : s.opens p TOP_UC_CTL) : exec (.ucArm p) s = .next (s.seen p).ucArms :=
  congrArg Host.Outcome.next (State.via_of_opens h fun u => u.ucArms)

theorem exec_ucCancel (h : s.opens p TOP_UC_CTL) : exec (.ucCancel p) s = .next (s.seen p).ucCancels :=
  congrArg Host.Outcome.next (State.via_of_opens h fun u => u.ucCancels)

/-- The code of a verification is one of those of Table 18.3. -/
theorem State.ucCode_cases (n : Nat) : s.ucCode n ∈ [1, 4, 5, 6, 7] := by
  unfold State.ucCode
  dsimp only
  split
  · decide
  · split
    · decide
    · split
      · decide
      · split <;> decide

theorem State.ucBytes_take {m n : Nat} (h : m ≤ n) : (s.ucBytes 0 n).take m = s.ucBytes 0 m := by
  unfold State.ucBytes bytesAt
  rw [← List.map_take, List.take_range, Nat.min_eq_left h]

/-- A buffer that does not open with the package's name is refused with code 4. -/
theorem State.ucCode_unnamed (h : s.ucBytes 0 8 ≠ asciiBytes "CHT7UCOD") (n : Nat) : s.ucCode n = 4 :=
  if_pos (.inl (by rw [State.ucBytes_take (by decide)]; exact h))

/-- A package that loads is one for a port without an armed swap. -/
theorem State.ucCode_loads {n : Nat} (h : s.ucCode n = 1) : s.svc.ucArmed.any (fun a => a.1 == n) = false := by
  unfold State.ucCode at h
  dsimp only at h
  split at h
  · exact absurd h (by decide)
  · split at h
    · exact absurd h (by decide)
    · split at h
      · exact absurd h (by decide)
      · split at h
        · exact absurd h (by decide)
        · next ha => simpa using ha

theorem State.setUcPort_uc (n : Nat) (u : UcPort) (k : Fin 19) : ((s.setUcPort n u).svc.uc[k] : UcPort) = if k.val = n then u else s.svc.uc[k] := by
  simp [State.setUcPort]

theorem State.setUcPort_fld (n : Nat) (u : UcPort) (f : Field) : (s.setUcPort n u).fld f = s.fld f :=
  State.fld_of_reg (State.reg_congr ((Keeps.setUcPort (.refl [.svc] s) rfl n u).same .regs rfl) _)

theorem State.setUcPort_framed (n : Nat) (u : UcPort) : Framed [.svc] [] s (s.setUcPort n u) :=
  (Keeps.setUcPort (.refl [.svc] s) rfl n u).framed_of_regs rfl

theorem ucPort_getD (v : Vector UcPort 19) (k : Fin 19) : v.toList.getD k.val ⟨0, none⟩ = v[k] := by
  simp [List.getD_eq_getElem?_getD]

/-- The package in the buffer is judged, and one that loads stands in the standby bank of its port alone (R502). -/
theorem State.ucVerifies_shows : s.ucVerifies.fld TOP_UC_STAT_CODE = s.ucCode s.ucPort ∧
    (s.ucVerifies.fld TOP_UC_STAT_CODE ≠ 1 → s.ucVerifies.svc = s.svc) ∧
    (s.ucVerifies.fld TOP_UC_STAT_CODE = 1 → ∀ k : Fin 19,
      s.ucVerifies.svc.uc[k] = if k.val = s.ucPort then { s.svc.uc[k] with standby := some (leAt (s.ucBytes 0 64) 8 2) } else s.svc.uc[k]) ∧
    Framed [.regs, .svc] [TOP_UC_STAT] s s.ucVerifies := by
  have hcode : (s.setFld TOP_UC_STAT_CODE (s.ucCode s.ucPort)).fld TOP_UC_STAT_CODE = s.ucCode s.ucPort := by
    have hlt : s.ucCode s.ucPort < 16 := by
      have h := s.ucCode_cases s.ucPort
      simp only [List.mem_cons, List.not_mem_nil, or_false] at h
      omega
    exact (State.fld_setFld _ _ _ (by decide)).trans (Nat.mod_eq_of_lt hlt)
  have hfr := (Framed.refl [.regs, .svc] [TOP_UC_STAT] s).setFld (by decide) (f := TOP_UC_STAT_CODE) (by decide) (s.ucCode s.ucPort)
  have hsvc : (s.setFld TOP_UC_STAT_CODE (s.ucCode s.ucPort)).svc = s.svc := rfl
  have hbytes : (s.setFld TOP_UC_STAT_CODE (s.ucCode s.ucPort)).ucBytes 0 64 = s.ucBytes 0 64 := rfl
  unfold State.ucVerifies
  dsimp only
  generalize s.setFld TOP_UC_STAT_CODE (s.ucCode s.ucPort) = u at *
  split
  · next h1 =>
    rw [State.setUcPort_fld, hbytes]
    refine ⟨hcode, fun hn => absurd (hcode.trans h1) hn, fun _ k => ?_, hfr.trans ((State.setUcPort_framed _ _).mono (by decide) (by decide))⟩
    rw [State.setUcPort_uc, hsvc]
    by_cases hk : k.val = s.ucPort
    · rw [if_pos hk, if_pos hk, ← hk, ucPort_getD]
    · rw [if_neg hk, if_neg hk]
  · next h1 => exact ⟨hcode, fun _ => hsvc, fun h => absurd (hcode.symm.trans h) h1, hfr⟩

theorem State.ucArms_busy (h : s.svc.ucArmed.isSome) : s.ucArms = s.setFld TOP_UC_STAT_CODE 7 := if_pos h

theorem State.ucArms_armed (h : ¬ s.svc.ucArmed.isSome) {k : Fin 19} (hk : s.ucPort = k.val) (hs : (s.svc.uc[k] : UcPort).standby.isSome) :
    s.ucArms = ({ s with svc := { s.svc with ucArmed := some (k.val, boundaryAfter s.count) } } : State).setFld TOP_UC_STAT_CODE 2 := by
  unfold State.ucArms
  dsimp only
  rw [if_neg h, hk, ucPort_getD, if_pos hs]

theorem State.ucArms_empty (h : ¬ s.svc.ucArmed.isSome) {k : Fin 19} (hk : s.ucPort = k.val) (hs : ¬ (s.svc.uc[k] : UcPort).standby.isSome) :
    s.ucArms = s := by
  unfold State.ucArms
  dsimp only
  rw [if_neg h, hk, ucPort_getD, if_neg hs]

/-- The banks of the armed port trade places, and no other port moves (R503). -/
theorem State.ucSwaps_shows {k : Fin 19} {v : Nat} (h : (s.svc.uc[k] : UcPort).standby = some v) :
    ((s.ucSwaps k).svc.uc[k] : UcPort) = ⟨v, some (s.svc.uc[k] : UcPort).running⟩ ∧ (∀ j : Fin 19, j ≠ k → ((s.ucSwaps k).svc.uc[j] : UcPort) = s.svc.uc[j]) ∧
      (s.ucSwaps k).svc.ucArmed = none ∧ (s.ucSwaps k).fld TOP_UC_STAT_CODE = 3 ∧ Framed [.regs, .svc] [TOP_UC_STAT] s (s.ucSwaps k) := by
  have hbank := fun j : Fin 19 => State.setUcPort_uc (s := s) k.val ⟨v, some (s.svc.uc[k] : UcPort).running⟩ j
  have hfr := State.setUcPort_framed (s := s) k.val ⟨v, some (s.svc.uc[k] : UcPort).running⟩
  unfold State.ucSwaps
  dsimp only
  rw [ucPort_getD, h]
  dsimp only
  generalize s.setUcPort k.val ⟨v, some (s.svc.uc[k] : UcPort).running⟩ = u at hbank hfr
  exact ⟨(hbank k).trans (if_pos rfl), fun j hj => (hbank j).trans (if_neg fun e => hj (Fin.ext e)), rfl, State.fld_setFld _ _ _ (by decide),
    ((hfr.mono (by decide) (by decide)).setSvc (by decide) _).setFld (by decide) (f := TOP_UC_STAT_CODE) (by decide) 3⟩

theorem exec_ucSwap {k : Fin 19} {h : U64} (hs : s.mod.st.serving = true) (ha : s.svc.ucArmed = some (k.val, h)) (hh : h.toNat ≤ s.count.toNat) :
    exec .ucSwap s = .next (s.ucSwaps k) := by
  show Host.Outcome.next (match s.svc.ucArmed with | some (_, _) => _ | none => _) = _
  rw [ha]
  exact congrArg Host.Outcome.next (if_pos ⟨hs, hh⟩)

end

/-- Settles O55: verification, arming, cancellation and swap, each by its own lemma on the state that has seen the access. -/
theorem microcodeIsVerifiedAndSwapped : Obligations.MicrocodeIsVerifiedAndSwapped := by
  refine ⟨?verify, ?arm, ?cancel, ?swap⟩
  case verify =>
    rintro p n s ho rfl
    obtain ⟨hcode, hkept, hload, hfr⟩ := State.ucVerifies_shows (s := s.seen p)
    rw [State.seen_ucCode, State.seen_ucPort] at hcode
    rw [State.seen_svc] at hkept
    rw [State.seen_svc, State.seen_ucBytes, State.seen_ucPort] at hload
    refine ⟨_, exec_ucVerify ho, hcode, fun hn => hcode.trans (State.ucCode_unnamed hn _), hkept, fun h1 => ⟨?_, hload h1⟩, hfr⟩
    exact State.ucCode_loads (hcode.symm.trans h1)
  case arm =>
    intro p k s ho hk
    have hport : (s.seen p).ucPort = k.val := (State.seen_ucPort p).trans hk
    have hsvc := State.seen_svc (s := s) p
    refine ⟨_, exec_ucArm ho, ?_⟩
    split
    · next ha =>
      rw [State.ucArms_busy (by rw [hsvc]; exact ha)]
      exact ⟨State.fld_setFld _ _ _ (by decide), (Framed.refl _ _ _).setFld (by decide) (f := TOP_UC_STAT_CODE) (by decide) 7⟩
    · next ha =>
      split
      · next hs =>
        rw [State.ucArms_armed (by rw [hsvc]; exact ha) hport (by rw [hsvc]; exact hs), hsvc, State.seen_count]
        exact ⟨State.fld_setFld _ _ _ (by decide), rfl, ((Framed.refl _ _ _).setSvc (by decide) _).setFld (by decide) (f := TOP_UC_STAT_CODE) (by decide) 2⟩
      · next hs => exact State.ucArms_empty (by rw [hsvc]; exact ha) hport (by rw [hsvc]; exact hs)
  case cancel =>
    intro p s ho
    have hsvc := State.seen_svc (s := s) p
    refine ⟨_, exec_ucCancel ho, ?_⟩
    split
    · next ha =>
      rw [show (s.seen p).ucCancels = _ from if_pos (by rw [hsvc]; exact ha), hsvc]
      exact ⟨State.fld_setFld _ _ _ (by decide), rfl, ((Framed.refl _ _ _).setSvc (by decide) _).setFld (by decide) (f := TOP_UC_STAT_CODE) (by decide) 8⟩
    · next ha => exact if_neg (by rw [hsvc]; exact ha)
  case swap => exact fun k h v s hs ha hh hv => ⟨_, exec_ucSwap hs ha hh, State.ucSwaps_shows hv⟩

end Sys2Proof.Machine

/-! Network time (chapter 17): the time of a domain, its steps, jumps and switches, and the clocks that follow a master. -/
namespace Sys2Proof.Machine

theorem Framed.setTim {A : List Area} {R : List Nat} {r s : State} (h : Framed A R r s) (hA : Area.tim ∈ A) (z : Tim) :
    Framed A R r { s with tim := z } :=
  h.fields rfl fun p => by
    cases p with
    | tim => exact .inl hA
    | _ => exact .inr rfl

section
variable {s : State}

theorem State.rate_congr {t : State} {d : Fin 2} (hr : t.reg (TIM_D_RATE + timOff d) = s.reg (TIM_D_RATE + timOff d)) : t.rate d = s.rate d := by
  unfold State.rate
  rw [hr]

theorem State.domainTime_congr {t : State} {d : Fin 2} (hc : t.tim.c = s.tim.c) (ho : (t.tim.off[d] : BitVec 96) = s.tim.off[d])
    (hr : t.reg (TIM_D_RATE + timOff d) = s.reg (TIM_D_RATE + timOff d)) : t.domainTime d = s.domainTime d := by
  unfold State.domainTime
  rw [hc, ho, State.rate_congr hr]

theorem State.selected_congr {t : State} (h : t.reg TIM_STAT = s.reg TIM_STAT) : t.selected = s.selected := by
  unfold State.selected
  rw [State.flag_of_reg h]

theorem State.domainLocked_congr {t : State} {d : Fin 2} (h : t.reg (TIM_D_STAT + timOff d) = s.reg (TIM_D_STAT + timOff d)) :
    t.domainLocked d = s.domainLocked d := State.flag_of_reg h

theorem State.parallel_congr {t : State} (hm : t.mod.st = s.mod.st) (hp : t.prog = s.prog) : t.parallel = s.parallel := by
  unfold State.parallel State.program?
  rw [hm, hp]

theorem State.tracked_congr {t : State} (hm : t.mod.st = s.mod.st) (hp : t.prog = s.prog) (h : t.reg TIM_STAT = s.reg TIM_STAT) (d : Fin 2) :
    t.tracked d = s.tracked d := by
  unfold State.tracked
  rw [State.parallel_congr hm hp, State.selected_congr h]

theorem domain_other (d : Fin 2) : d + 1 ≠ d := by
  revert d
  decide

theorem timReg_apart : ∀ d : Fin 2, TIM_D_RATE + timOff d ∉ [TIM_CTL, TIM_STAT, TIM_STEP_CNT, TIM_JUMP_REF_CNT, TIM_SWITCH_CNT, AUG_RATE, AUG_STAT] ∧
    TIM_D_RATE + timOff (d + 1 : Fin 2) ≠ TIM_D_RATE + timOff d := by decide

/-- A change of rate leaves the time of its domain as it is (R479). -/
theorem readTime_rate (c : U64) (old new : Int) (o : BitVec 96) :
    readTime c new (o + BitVec.ofInt 96 ((c.toNat : Int) * old / 64) - BitVec.ofInt 96 ((c.toNat : Int) * new / 64)) = readTime c old o := by
  unfold readTime
  rw [BitVec.ofInt_add, BitVec.ofInt_add]
  generalize BitVec.ofInt 96 ((c.toNat : Int) * 2 ^ 32) = x
  generalize BitVec.ofInt 96 ((c.toNat : Int) * old / 64) = y
  generalize BitVec.ofInt 96 ((c.toNat : Int) * new / 64) = z
  abel

theorem State.setRate_shows (d : Fin 2) (r : Word) : (s.setRate d r).reg (TIM_D_RATE + timOff d) = r ∧ (s.setRate d r).domainTime d = s.domainTime d ∧
    (s.setRate d r).domainTime (d + 1) = s.domainTime (d + 1) ∧ Framed [.regs, .tim] [TIM_D_RATE + timOff d] s (s.setRate d r) := by
  have hreg : (s.setRate d r).reg (TIM_D_RATE + timOff d) = r := State.reg_setReg _ _ _
  have htim : (s.setRate d r).tim = { s.tim with off := s.tim.off.set d (s.tim.off[d] + BitVec.ofInt 96 ((s.tim.c.toNat : Int) * s.rate d / 64) -
      BitVec.ofInt 96 ((s.tim.c.toNat : Int) * signedOf 32 r.toNat / 64)) } := rfl
  refine ⟨hreg, ?_, ?_, ((Framed.refl _ _ s).setTim (by decide) _).setReg (by decide) (List.mem_singleton.mpr rfl) _⟩
  · have hrate : (s.setRate d r).rate d = signedOf 32 r.toNat := by
      unfold State.rate
      rw [hreg]
    unfold State.domainTime
    rw [hrate, htim]
    have hset : ∀ o : BitVec 96, ((s.tim.off.set d o)[d] : BitVec 96) = o := fun o => by simp
    dsimp only
    rw [hset]
    exact readTime_rate s.tim.c (s.rate d) (signedOf 32 r.toNat) s.tim.off[d]
  · refine State.domainTime_congr (by rw [htim]) ?_ ((State.reg_setReg_ne _ _ (timReg_apart d).2))
    have hv : d.val ≠ (d + 1).val := fun e => domain_other d (Fin.ext e.symm)
    rw [htim]
    simp [Vector.getElem_set_ne d.isLt (d + 1).isLt hv]

/-- The offset of a domain moves by a step, the other one stands (R479). -/
def Tim.stepped (z : Tim) (x : Step) : Tim := { z with off := z.off.set x.domain ((z.off[x.domain] : BitVec 96) + BitVec.ofInt 96 (x.ns * 2 ^ 32)) }

theorem State.domainTime_stepped {t : State} {x : Step} {z : Tim} (hz : z.c = s.tim.c ∧ z.off = s.tim.off) (ht : t.tim = z.stepped x)
    (hr : ∀ d : Fin 2, t.reg (TIM_D_RATE + timOff d) = s.reg (TIM_D_RATE + timOff d)) :
    t.domainTime x.domain = s.domainTime x.domain + BitVec.ofInt 96 (x.ns * 2 ^ 32) ∧ t.domainTime (x.domain + 1) = s.domainTime (x.domain + 1) := by
  obtain ⟨hc, ho⟩ := hz
  have hv : x.domain.val ≠ (x.domain + 1).val := fun e => domain_other x.domain (Fin.ext e.symm)
  refine ⟨?_, State.domainTime_congr (by rw [ht]; exact hc) ?_ (hr _)⟩
  · unfold State.domainTime readTime
    rw [State.rate_congr (hr _), ht]
    unfold Tim.stepped
    rw [hc, ho]
    simp [add_assoc]
  · rw [ht]
    unfold Tim.stepped
    rw [ho]
    simp [Vector.getElem_set_ne x.domain.isLt (x.domain + 1).isLt hv]

theorem State.applyStep_tim (x : Step) : (s.applyStep x).tim = s.tim.stepped x := rfl

theorem State.applyStep_reg (x : Step) {a : Nat} (h : a ≠ TIM_STEP_CNT) : (s.applyStep x).reg a = s.reg a := State.reg_bump_ne _ h

theorem State.applyStep_count (x : Step) : (s.applyStep x).reg TIM_STEP_CNT = bumped (s.reg TIM_STEP_CNT) := State.reg_bump_bumped _ _

theorem State.applyStep_framed (x : Step) : Framed [.regs, .tim] [TIM_STEP_CNT] s (s.applyStep x) :=
  ((Framed.refl _ _ s).setTim (by decide) _).bump (by decide) (by decide)

theorem State.jumpApplied_reg (x : Step) {a : Nat} (h : a ≠ AUG_RATE) (h' : a ≠ AUG_STAT) : (s.jumpApplied x).reg a = (s.applyStep x).reg a :=
  State.writeEvent_reg _ _ _ h h'

theorem State.jumpApplied_tim (x : Step) : (s.jumpApplied x).tim = s.tim.stepped x := (State.writeEvent_only _ _ _) .tim (by decide)

theorem State.jumpApplied_last (x : Step) (hn : s.canNumber = true) : (s.jumpApplied x).lastEvent = some (0x0705, [x.domain.val, toBits 64 x.ns]) :=
  State.writeEvent_last (s.applyStep x) _ _ hn

theorem State.jumpApplied_count (x : Step) : (s.jumpApplied x).reg TIM_STEP_CNT = bumped (s.reg TIM_STEP_CNT) :=
  (State.jumpApplied_reg x (by decide) (by decide)).trans (State.applyStep_count x)

/-- A refused jump waits and is shown, counted and recorded (R487, R488). -/
theorem State.jumpRefused_shows (x : Step) : (s.jumpRefused x).tim = { s.tim with pend := some x } ∧ (s.jumpRefused x).flag TIM_STAT_JUMP_REF = true ∧
    (s.jumpRefused x).flag TIM_STAT_JUMP_PEND = true ∧ (s.jumpRefused x).reg TIM_JUMP_REF_CNT = bumped (s.reg TIM_JUMP_REF_CNT) ∧
    (s.canNumber = true → (s.jumpRefused x).lastEvent = some (0x0704, [x.domain.val, toBits 64 x.ns])) ∧
    Framed [.regs, .tim, .aug] [TIM_STAT, TIM_JUMP_REF_CNT, AUG_RATE, AUG_STAT] s (s.jumpRefused x) := by
  unfold State.jumpRefused
  extract_lets tim u v
  have hw : ∀ a, a ≠ AUG_RATE → a ≠ AUG_STAT → (v.writeEvent 0x0704 [x.domain.val, toBits 64 x.ns]).reg a = v.reg a :=
    fun a h h' => State.writeEvent_reg _ _ _ h h'
  have hstat : ∀ f : Field, f.addr = TIM_STAT → (v.writeEvent 0x0704 [x.domain.val, toBits 64 x.ns]).flag f =
      ((u.setFlag TIM_STAT_JUMP_REF true).setFlag TIM_STAT_JUMP_PEND true).flag f := by
    intro f hf
    refine State.flag_of_reg ?_
    rw [hf, hw _ (by decide) (by decide)]
    exact State.reg_bump_ne _ (by decide)
  refine ⟨(State.writeEvent_only v _ _) .tim (by decide), ?_, ?_, ?_, State.writeEvent_last v _ _, ?_⟩
  · rw [hstat _ rfl]
    exact (State.flag_setFlag_apart _ _ (by decide)).trans (State.flag_setFlag _ _ _ (by decide) rfl)
  · rw [hstat _ rfl]
    exact State.flag_setFlag _ _ _ (by decide) rfl
  · rw [hw _ (by decide) (by decide)]
    refine (State.reg_bump_bumped _ _).trans (congrArg bumped ?_)
    exact (State.reg_setFlag_ne _ _ (by decide)).trans (State.reg_setFlag_ne _ _ (by decide))
  · exact (((((Framed.refl _ _ s).setTim (by decide) _).setFlag (by decide) (f := TIM_STAT_JUMP_REF) (by decide) true).setFlag (by decide)
      (f := TIM_STAT_JUMP_PEND) (by decide) true).bump (by decide) (a := TIM_JUMP_REF_CNT) (by decide)).writeEvent (by decide) (by decide) _ _

/-! The cases of a step (Table 17.1) -/

theorem State.step1588_small {x : Step} (h : (s.tim.firstStep = true ∧ s.parallel = false ∧ s.selected = x.domain) ∨ x.ns.natAbs ≤ (s.reg TIM_JUMP_LIMIT).toNat) :
    ∃ b, s.step1588 x = ({ s with tim := { s.tim with firstStep := b } } : State).applyStep x := by
  unfold State.step1588
  split
  · exact ⟨false, rfl⟩
  · next hf =>
    have hsmall : x.ns.natAbs ≤ (s.reg TIM_JUMP_LIMIT).toNat := h.resolve_left fun ⟨h1, h2, h3⟩ => hf (by rw [h1, h2, h3]; simp)
    have hj : s.isJump x.ns = false := decide_eq_false (by omega)
    rw [hj]
    exact ⟨s.tim.firstStep, rfl⟩

theorem State.step1588_jump {x : Step} (h : ¬ ((s.tim.firstStep = true ∧ s.parallel = false ∧ s.selected = x.domain) ∨
      x.ns.natAbs ≤ (s.reg TIM_JUMP_LIMIT).toNat)) : s.step1588 x =
    if s.parallel = true ∧ s.selected ≠ x.domain then s.jumpApplied x
    else if s.parallel = true ∧ s.flag TIM_CTL_AUTO_SWITCH = true ∧ s.domainLocked (x.domain + 1) = true then
      { s with tim := { s.tim with switchTo := some (x.domain + 1), afterSwitch := some x } }
    else s.jumpRefused x := by
  rw [not_or] at h
  obtain ⟨hf, hl⟩ := h
  have hj : s.isJump x.ns = true := decide_eq_true (by omega)
  have hfirst : (s.tim.firstStep && !s.parallel && s.selected == x.domain) = false := by
    rw [Bool.eq_false_iff]
    intro hc
    simp only [Bool.and_eq_true, Bool.not_eq_true', beq_iff_eq] at hc
    exact hf ⟨hc.1.1, hc.1.2, hc.2⟩
  unfold State.step1588
  rw [hfirst, hj]
  cases s.parallel <;> simp

/-! Jumps that are accepted -/

variable (p : Path)

theorem State.seen_tim : (s.seen p).tim = s.tim := (s.seen_framed p).1 .tim (by decide)

theorem State.seen_parallel : (s.seen p).parallel = s.parallel := by
  obtain ⟨e, i, n, b, hm⟩ := s.seen_mod p
  exact State.parallel_congr (by rw [hm]) (s.seen_prog p)

theorem State.seen_selected : (s.seen p).selected = s.selected := State.selected_congr (s.seen_reg p (by decide))

variable {p}

theorem exec_jumpAccept (h : s.opens p TIM_CTL) : exec (.jumpAccept p) s = .next (s.seen p).acceptJump :=
  congrArg Host.Outcome.next (State.via_of_opens h fun u => u.acceptJump)

theorem exec_switchRequest (h : s.opens p TIM_CTL) (d : Fin 2) : exec (.switchRequest p d) s = .next ((s.seen p).requestSwitch d) :=
  congrArg Host.Outcome.next (State.via_of_opens h fun u => u.requestSwitch d)

theorem State.acceptJump_none (h : s.tim.pend = none) : s.acceptJump = s := by
  unfold State.acceptJump
  rw [h]

theorem State.acceptJump_some {x : Step} (h : s.tim.pend = some x) : s.acceptJump = s.clearPend.jumpApplied x := by
  unfold State.acceptJump
  rw [h]

theorem State.clearPend_flag : s.clearPend.flag TIM_STAT_JUMP_PEND = false := State.flag_setFlag _ _ _ (by decide) rfl

/-- The pending step is applied once: it waits no more, its offset moves, it counts and is recorded (R488). -/
theorem State.pendApplied_shows (x : Step) : (s.clearPend.jumpApplied x).tim.pend = none ∧ (s.clearPend.jumpApplied x).flag TIM_STAT_JUMP_PEND = false ∧
    (s.clearPend.jumpApplied x).tim.off = s.tim.off.set x.domain ((s.tim.off[x.domain] : BitVec 96) + BitVec.ofInt 96 (x.ns * 2 ^ 32)) ∧
    (s.clearPend.jumpApplied x).reg TIM_STEP_CNT = bumped (s.reg TIM_STEP_CNT) ∧
    (s.canNumber = true → (s.clearPend.jumpApplied x).lastEvent = some (0x0705, [x.domain.val, toBits 64 x.ns])) := by
  have htim : (s.clearPend.jumpApplied x).tim = s.clearPend.tim.stepped x := State.jumpApplied_tim x
  refine ⟨by rw [htim]; rfl, ?_, by rw [htim]; rfl, ?_, State.jumpApplied_last (s := s.clearPend) x⟩
  · refine (State.flag_of_reg (t := s.clearPend) ?_).trans State.clearPend_flag
    exact (State.jumpApplied_reg x (by decide) (by decide)).trans (State.applyStep_reg x (by decide))
  · exact (State.jumpApplied_count x).trans (congrArg bumped (State.reg_setFlag_ne _ _ (by decide)))

/-! Switches -/

theorem State.selected_setFlag (d : Fin 2) : (s.setFlag TIM_STAT_SELECTED (d == 1)).selected = d := by
  unfold State.selected
  rw [State.flag_setFlag _ _ _ (by decide) rfl]
  revert d
  decide

theorem State.sel_setFld (d : Fin 2) : (s.setFld TIM_CTL_SEL d.val).fld TIM_CTL_SEL = d.val :=
  (State.fld_setFld _ _ _ (by decide)).trans (Nat.mod_eq_of_lt d.isLt)

/-- In parallel mode a write of SEL asks for the switch (R486). -/
theorem State.requestSwitch_parallel (h : s.parallel = true) (d : Fin 2) : (s.requestSwitch d).fld TIM_CTL_SEL = d.val ∧
    (s.requestSwitch d).tim.switchTo = (if s.selected = d then none else some d) ∧ (s.requestSwitch d).selected = s.selected ∧
    Framed [.regs, .tim] [TIM_CTL] s (s.requestSwitch d) := by
  have hsel : (s.setFld TIM_CTL_SEL d.val).selected = s.selected := State.selected_congr (State.reg_setFld_ne _ _ (by decide))
  unfold State.requestSwitch
  rw [if_pos h]
  dsimp only
  rw [hsel]
  exact ⟨State.sel_setFld d, rfl, hsel, ((Framed.refl _ _ s).setFld (by decide) (f := TIM_CTL_SEL) (by decide) _).setTim (by decide) _⟩

theorem State.requestSwitch_growing (h : s.parallel = false) (hg : s.mod.st = .growing) (d : Fin 2) : s.requestSwitch d = s := by
  unfold State.requestSwitch
  rw [h, if_neg Bool.false_ne_true, if_pos hg]

/-- The state in which a domain is selected and the other one is no longer tracked. -/
def State.trackOnly (s : State) (d : Fin 2) : State :=
  ((({ s with tim := { s.tim with firstStep := true } } : State).setFlag TIM_STAT_SELECTED (d == 1)).untrack (d + 1)).showTimLock

theorem State.trackOnly_shows (d : Fin 2) : (s.trackOnly d).reg TIM_CTL = s.reg TIM_CTL ∧ (s.trackOnly d).selected = d ∧
    Framed [.regs, .tim] [TIM_STAT, TIM_D_STAT + timOff (d + 1 : Fin 2)] s (s.trackOnly d) := by
  have hne : ∀ d : Fin 2, TIM_CTL ∉ [TIM_STAT, TIM_D_STAT + timOff (d + 1 : Fin 2)] ∧ TIM_STAT ≠ TIM_D_STAT + timOff (d + 1 : Fin 2) := by decide
  have hfr : Framed [.regs, .tim] [TIM_STAT, TIM_D_STAT + timOff (d + 1 : Fin 2)] s (s.trackOnly d) :=
    (((((Framed.refl [.regs, .tim] [TIM_STAT, TIM_D_STAT + timOff (d + 1 : Fin 2)] s).setTim (by decide) _).setFlag (by decide) (f := TIM_STAT_SELECTED)
      List.mem_cons_self _).setTim (by decide) _).setFlag (by decide) (f := TIM_D_STAT_LOCKED.on (timOff (d + 1 : Fin 2)))
      (List.mem_cons_of_mem _ List.mem_cons_self) false).setFlag (by decide) (f := TIM_STAT_LOCKED) List.mem_cons_self _
  refine ⟨hfr.2 _ (hne d).1, ?_, hfr⟩
  have hflag : (s.trackOnly d).flag TIM_STAT_SELECTED =
      (({ s with tim := { s.tim with firstStep := true } } : State).setFlag TIM_STAT_SELECTED (d == 1)).flag TIM_STAT_SELECTED :=
    (State.flag_setFlag_apart _ _ (by decide)).trans (State.flag_setFlag_ne _ _ (f := TIM_D_STAT_LOCKED.on (timOff (d + 1 : Fin 2))) (hne d).2)
  refine Eq.trans ?_ (State.selected_setFlag (s := { s with tim := { s.tim with firstStep := true } }) d)
  unfold State.selected
  rw [hflag]

/-- Outside Growing a single domain moves its tracking at once (R490). -/
theorem State.requestSwitch_single (h : s.parallel = false) (hg : s.mod.st ≠ .growing) (d : Fin 2) : (s.requestSwitch d).fld TIM_CTL_SEL = d.val ∧
    (s.requestSwitch d).selected = d ∧ Framed [.regs, .tim] [TIM_CTL, TIM_STAT, TIM_D_STAT + timOff (d + 1 : Fin 2)] s (s.requestSwitch d) := by
  have hfr := (Framed.refl [.regs, .tim] [TIM_CTL, TIM_STAT, TIM_D_STAT + timOff (d + 1 : Fin 2)] s).setFld (by decide) (f := TIM_CTL_SEL)
    List.mem_cons_self d.val
  obtain ⟨hctl, hsel, hk⟩ := State.trackOnly_shows (s := s.setFld TIM_CTL_SEL d.val) d
  unfold State.requestSwitch
  rw [h, if_neg Bool.false_ne_true, if_neg hg]
  dsimp only
  split
  · next he => exact ⟨State.sel_setFld d, he, hfr⟩
  · exact ⟨(State.fld_of_reg hctl).trans (State.sel_setFld d), hsel, hfr.trans (hk.mono (by decide) (List.subset_cons_self _ _))⟩

/-- The state in which a domain is selected and the switch counted, before its lock is shown. -/
def State.switchMarked (s : State) (d : Fin 2) : State :=
  let s : State := { s with tim := { s.tim with switchTo := none, afterSwitch := none } }
  ((s.setFlag TIM_STAT_SELECTED (d == 1)).setFlag TIM_STAT_SWITCHED true).bump TIM_SWITCH_CNT

/-- The state in which the switch to a domain is shown, before its record. -/
def State.switchShown (s : State) (d : Fin 2) : State := (s.switchMarked d).showTimLock

theorem State.switchMarked_reg (d : Fin 2) {a : Nat} (h : a ≠ TIM_STAT) (h' : a ≠ TIM_SWITCH_CNT) : (s.switchMarked d).reg a = s.reg a :=
  (State.reg_bump_ne _ h').trans ((State.reg_setFlag_ne _ _ h).trans (State.reg_setFlag_ne _ _ h))

theorem State.switchMarked_shows (d : Fin 2) : (s.switchMarked d).selected = d ∧ (s.switchMarked d).flag TIM_STAT_SWITCHED = true ∧
    (s.switchMarked d).reg TIM_SWITCH_CNT = bumped (s.reg TIM_SWITCH_CNT) := by
  unfold State.switchMarked
  extract_lets tim u
  have hcnt : ∀ f : Field, f.addr = TIM_STAT → (((u.setFlag TIM_STAT_SELECTED (d == 1)).setFlag TIM_STAT_SWITCHED true).bump TIM_SWITCH_CNT).flag f =
      ((u.setFlag TIM_STAT_SELECTED (d == 1)).setFlag TIM_STAT_SWITCHED true).flag f := fun f hf => State.flag_of_reg (State.reg_bump_ne _ (by rw [hf]; decide))
  have hselflag : (((u.setFlag TIM_STAT_SELECTED (d == 1)).setFlag TIM_STAT_SWITCHED true).bump TIM_SWITCH_CNT).flag TIM_STAT_SELECTED =
      (u.setFlag TIM_STAT_SELECTED (d == 1)).flag TIM_STAT_SELECTED := (hcnt _ rfl).trans (State.flag_setFlag_apart _ _ (by decide))
  refine ⟨?_, (hcnt TIM_STAT_SWITCHED rfl).trans (State.flag_setFlag _ _ _ (by decide) rfl), ?_⟩
  · refine Eq.trans ?_ (State.selected_setFlag (s := u) d)
    unfold State.selected
    rw [hselflag]
  · exact (State.reg_bump_bumped _ _).trans (congrArg bumped ((State.reg_setFlag_ne _ _ (by decide)).trans (State.reg_setFlag_ne _ _ (by decide))))

theorem timDomain_apart : ∀ d : Fin 2, TIM_D_RATE + timOff d ≠ TIM_STAT ∧ TIM_D_RATE + timOff d ≠ TIM_SWITCH_CNT ∧
    TIM_D_STAT + timOff d ≠ TIM_STAT ∧ TIM_D_STAT + timOff d ≠ TIM_SWITCH_CNT := by decide

/-- The module shows the domain that is selected, that it has switched, how often, and the lock of that domain. -/
theorem State.switchShown_shows {d : Fin 2} (hl : s.domainLocked d = true) : (s.switchShown d).selected = d ∧ (s.switchShown d).flag TIM_STAT_SWITCHED = true ∧
    (s.switchShown d).flag TIM_STAT_LOCKED = true ∧ (s.switchShown d).reg TIM_SWITCH_CNT = bumped (s.reg TIM_SWITCH_CNT) := by
  obtain ⟨-, -, hd1, hd2⟩ := timDomain_apart d
  obtain ⟨hsel, hswitched, hcount⟩ := State.switchMarked_shows (s := s) d
  have hlock : (s.switchMarked d).domainLocked d = true := (State.domainLocked_congr (State.switchMarked_reg d hd1 hd2)).trans hl
  unfold State.switchShown
  generalize s.switchMarked d = v at hsel hlock hswitched hcount
  have hapart : v.showTimLock.selected = v.selected := by
    unfold State.selected
    rw [show v.showTimLock.flag TIM_STAT_SELECTED = v.flag TIM_STAT_SELECTED from State.flag_setFlag_apart _ _ (by decide)]
  refine ⟨hapart.trans hsel, (State.flag_setFlag_apart _ _ (by decide)).trans hswitched, ?_, (State.reg_setFlag_ne _ _ (by decide)).trans hcount⟩
  refine (State.flag_setFlag _ _ _ (by decide) rfl).trans ?_
  rw [hsel]
  exact hlock

/-- The state in which the switch is recorded. -/
def State.switchNoted (s : State) (d : Fin 2) : State :=
  (s.switchShown d).writeEvent 0x0703 ([s.selected.val, d.val] ++ s.fullTime s.selected ++ s.fullTime d)

theorem State.switchMarked_fullTime (d e : Fin 2) : (s.switchMarked d).fullTime e = s.fullTime e := by
  have ht : (s.switchMarked d).domainTime e = s.domainTime e :=
    State.domainTime_congr rfl rfl (State.switchMarked_reg d (timDomain_apart e).1 (timDomain_apart e).2.1)
  unfold State.fullTime
  rw [ht]

theorem State.switchNow_none (d : Fin 2) (h : s.tim.afterSwitch = none) : s.switchNow d = s.switchNoted d := by
  unfold State.switchNoted
  rw [← State.switchMarked_fullTime d s.selected, ← State.switchMarked_fullTime d d]
  unfold State.switchNow
  dsimp only
  rw [h]
  rfl

theorem State.switchNow_some (d : Fin 2) {x : Step} (h : s.tim.afterSwitch = some x) : s.switchNow d = (s.switchNoted d).jumpApplied x := by
  unfold State.switchNoted
  rw [← State.switchMarked_fullTime d s.selected, ← State.switchMarked_fullTime d d]
  unfold State.switchNow
  dsimp only
  rw [h]
  rfl

theorem State.switchNoted_reg (d : Fin 2) {a : Nat} (h : a ≠ AUG_RATE) (h' : a ≠ AUG_STAT) : (s.switchNoted d).reg a = (s.switchShown d).reg a :=
  State.writeEvent_reg _ _ _ h h'

theorem State.switchNoted_tim (d : Fin 2) : (s.switchNoted d).tim = { s.tim with switchTo := none, afterSwitch := none } :=
  (State.writeEvent_only _ _ _) .tim (by decide)

theorem State.switchNoted_notes (d : Fin 2) (hn : s.canNumber = true) :
    s.notes (s.switchNoted d) 0x0703 ([s.selected.val, d.val] ++ s.fullTime s.selected ++ s.fullTime d) :=
  State.writeEvent_notes (s.switchShown d) (by decide) _ hn

/-- What a state shows of a switch to domain `d`, once recorded and after a step that waited for it. -/
structure SwitchedTo (s : State) (d : Fin 2) (t : State) : Prop where
  selected : t.selected = d
  switchTo : t.tim.switchTo = none
  afterSwitch : t.tim.afterSwitch = none
  switched : t.flag TIM_STAT_SWITCHED = true
  locked : t.flag TIM_STAT_LOCKED = true
  count : t.reg TIM_SWITCH_CNT = bumped (s.reg TIM_SWITCH_CNT)
  notes : s.canNumber = true → s.notes t 0x0703 ([s.selected.val, d.val] ++ s.fullTime s.selected ++ s.fullTime d)

theorem State.switchNoted_shows {d : Fin 2} (hl : s.domainLocked d = true) : SwitchedTo s d (s.switchNoted d) := by
  obtain ⟨hsel, hsw, hlock, hcnt⟩ := State.switchShown_shows hl
  have hreg : (s.switchNoted d).reg TIM_STAT = (s.switchShown d).reg TIM_STAT := State.switchNoted_reg d (by decide) (by decide)
  exact ⟨(State.selected_congr hreg).trans hsel, by rw [State.switchNoted_tim], by rw [State.switchNoted_tim], (State.flag_of_reg hreg).trans hsw,
    (State.flag_of_reg hreg).trans hlock, (State.switchNoted_reg d (by decide) (by decide)).trans hcnt, State.switchNoted_notes d⟩

theorem SwitchedTo.jumpApplied {d : Fin 2} {t : State} (h : SwitchedTo s d t) (x : Step) : SwitchedTo s d (t.jumpApplied x) := by
  have hreg : ∀ a, a ≠ AUG_RATE → a ≠ AUG_STAT → a ≠ TIM_STEP_CNT → (t.jumpApplied x).reg a = t.reg a :=
    fun a h1 h2 h3 => (State.jumpApplied_reg x h1 h2).trans (State.applyStep_reg x h3)
  have hstat := hreg TIM_STAT (by decide) (by decide) (by decide)
  exact ⟨(State.selected_congr hstat).trans h.selected, by rw [State.jumpApplied_tim]; exact h.switchTo, by rw [State.jumpApplied_tim]; exact h.afterSwitch,
    (State.flag_of_reg hstat).trans h.switched, (State.flag_of_reg hstat).trans h.locked, (hreg _ (by decide) (by decide) (by decide)).trans h.count,
    fun hn => (h.notes hn).mono ((Retained.refl _).writeEvent _ _ : Retained (t.applyStep x) _).tail⟩

theorem exec_domainSwitch {d : Fin 2} (ht : s.timServed = true) (hs : s.tim.switchTo = some d) (hl : s.domainLocked d = true)
    (hw : (wholeNs (s.domainTime d)).toNat % 1000000000 ≤ 1) : exec .domainSwitch s = .next (s.switchNow d) := by
  have hdue : s.switchDue d = true := by
    unfold State.switchDue
    rw [hl, decide_eq_true hw]
    rfl
  show Host.Outcome.next (match s.tim.switchTo with | some _ => _ | none => _) = _
  rw [hs]
  exact congrArg Host.Outcome.next (if_pos (by rw [ht, hdue]; rfl))

/-! The 1 PPS input -/

/-- An edge is stamped and checked against the whole second (R489). -/
theorem State.ppsTaken_shows : s.ppsTaken.reg64 TIM_PPS_LO = s.recordNs ∧ s.ppsTaken.tim = { s.tim with ppsSeen := true } ∧
    (if s.domainLocked s.selected = true ∧ (s.reg TIM_PPS_TOL).toNat % 65536 < (secondOff s.recordNs).natAbs then
       s.ppsTaken.flag TIM_STAT_PPS_BAD = true ∧ (s.canNumber = true → s.ppsTaken.lastEvent = some (0x0706, [toBits 32 (secondOff s.recordNs)])) ∧
         Framed [.regs, .tim, .aug] [TIM_PPS_LO, TIM_PPS_HI, TIM_STAT, AUG_RATE, AUG_STAT] s s.ppsTaken
     else Framed [.regs, .tim] [TIM_PPS_LO, TIM_PPS_HI] s s.ppsTaken) := by
  have hstat : ∀ d : Fin 2, TIM_D_STAT + timOff d ≠ TIM_PPS_LO ∧ TIM_D_STAT + timOff d ≠ TIM_PPS_LO + 4 := by decide
  unfold State.ppsTaken
  extract_lets ns tim u v dev
  have hreg : ∀ a, a ≠ TIM_PPS_LO → a ≠ TIM_PPS_LO + 4 → v.reg a = s.reg a := fun a h h' => State.reg_setReg64_ne _ _ h h'
  have hsel : v.selected = s.selected := State.selected_congr (hreg _ (by decide) (by decide))
  have hlock : ∀ d, v.domainLocked d = s.domainLocked d := fun d => State.domainLocked_congr (hreg _ (hstat d).1 (hstat d).2)
  have htol : v.reg TIM_PPS_TOL = s.reg TIM_PPS_TOL := hreg _ (by decide) (by decide)
  have hns : v.reg64 TIM_PPS_LO = s.recordNs := State.reg64_setReg64 _ _ _
  have hdev : dev = secondOff s.recordNs := rfl
  have hfr : Framed [.regs, .tim] [TIM_PPS_LO, TIM_PPS_HI] s v :=
    ((Framed.refl _ _ s).setTim (by decide) _).setReg64 (by decide) (a := TIM_PPS_LO) (by decide) (by decide) _
  rw [hsel, hlock, htol, hdev]
  by_cases hc : s.domainLocked s.selected = true ∧ (s.reg TIM_PPS_TOL).toNat % 65536 < (secondOff s.recordNs).natAbs
  · have hb : (s.domainLocked s.selected && decide ((s.reg TIM_PPS_TOL).toNat % 65536 < (secondOff s.recordNs).natAbs)) = true := by
      rw [hc.1, decide_eq_true hc.2]
      rfl
    rw [if_pos hb, if_pos hc]
    have hw := fun a => State.writeEvent_reg (v.setFlag TIM_STAT_PPS_BAD true) 0x0706 [toBits 32 (secondOff s.recordNs)] (a := a)
    refine ⟨?_, (State.writeEvent_only _ _ _) .tim (by decide), ?_, State.writeEvent_last (v.setFlag TIM_STAT_PPS_BAD true) _ _, ?_⟩
    · refine Eq.trans (State.reg64_of_reg ?_ ?_) hns
      · exact (hw _ (by decide) (by decide)).trans (State.reg_setFlag_ne _ _ (by decide))
      · exact (hw _ (by decide) (by decide)).trans (State.reg_setFlag_ne _ _ (by decide))
    · exact (State.flag_of_reg (hw _ (by decide) (by decide))).trans (State.flag_setFlag _ _ _ (by decide) rfl)
    · exact ((hfr.mono (by decide) (by decide)).setFlag (by decide) (f := TIM_STAT_PPS_BAD) (by decide) true).writeEvent (by decide) (by decide) _ _
  · have hb : ¬ (s.domainLocked s.selected && decide ((s.reg TIM_PPS_TOL).toNat % 65536 < (secondOff s.recordNs).natAbs)) = true := by
      simpa using hc
    rw [if_neg hb, if_neg hc]
    exact ⟨hns, rfl, hfr⟩

/-- An edge that does not come is shown and counted (R489). -/
theorem State.ppsLate_shows : s.ppsLate.tim = { s.tim with ppsSeen := false } ∧ s.ppsLate.flag TIM_STAT_PPS_MISS = true ∧
    s.ppsLate.reg TIM_PPS_MISS_CNT = bumped (s.reg TIM_PPS_MISS_CNT) ∧ Framed [.regs, .tim] [TIM_STAT, TIM_PPS_MISS_CNT] s s.ppsLate := by
  refine ⟨rfl, ?_, ?_, ?_⟩
  · exact (State.flag_of_reg (State.reg_bump_ne _ (by decide))).trans (State.flag_setFlag _ _ _ (by decide) rfl)
  · exact (State.reg_bump_bumped _ _).trans (congrArg bumped (State.reg_setFlag_ne _ _ (by decide)))
  · exact (((Framed.refl _ _ s).setTim (by decide) _).setFlag (by decide) (f := TIM_STAT_PPS_MISS) (by decide) true).bump (by decide) (by decide)

/-- A step of a domain that the servo holds, by the cases of Table 17.1. -/
theorem State.timeStep_shows (d : Fin 2) (ns : Int) :
    if (s.tim.firstStep = true ∧ s.parallel = false ∧ s.selected = d) ∨ ns.natAbs ≤ (s.reg TIM_JUMP_LIMIT).toNat then
      (s.step1588 ⟨d, ns⟩).domainTime d = s.domainTime d + BitVec.ofInt 96 (ns * 2 ^ 32) ∧
        (s.step1588 ⟨d, ns⟩).domainTime (d + 1) = s.domainTime (d + 1) ∧
        (s.step1588 ⟨d, ns⟩).reg TIM_STEP_CNT = bumped (s.reg TIM_STEP_CNT) ∧ Framed [.regs, .tim] [TIM_STEP_CNT] s (s.step1588 ⟨d, ns⟩)
    else if s.parallel = true ∧ s.selected ≠ d then
      (s.step1588 ⟨d, ns⟩).domainTime d = s.domainTime d + BitVec.ofInt 96 (ns * 2 ^ 32) ∧
        (s.step1588 ⟨d, ns⟩).reg TIM_STEP_CNT = bumped (s.reg TIM_STEP_CNT) ∧
        (s.canNumber = true → (s.step1588 ⟨d, ns⟩).lastEvent = some (0x0705, [d.val, toBits 64 ns]))
    else if s.parallel = true ∧ s.flag TIM_CTL_AUTO_SWITCH = true ∧ s.domainLocked (d + 1) = true then
      (s.step1588 ⟨d, ns⟩).tim = { s.tim with switchTo := some (d + 1), afterSwitch := some ⟨d, ns⟩ } ∧ Framed [.tim] [] s (s.step1588 ⟨d, ns⟩)
    else
      (s.step1588 ⟨d, ns⟩).tim = { s.tim with pend := some ⟨d, ns⟩ } ∧ (s.step1588 ⟨d, ns⟩).flag TIM_STAT_JUMP_REF = true ∧
        (s.step1588 ⟨d, ns⟩).flag TIM_STAT_JUMP_PEND = true ∧ (s.step1588 ⟨d, ns⟩).reg TIM_JUMP_REF_CNT = bumped (s.reg TIM_JUMP_REF_CNT) ∧
        (s.canNumber = true → (s.step1588 ⟨d, ns⟩).lastEvent = some (0x0704, [d.val, toBits 64 ns])) ∧
        Framed [.regs, .tim, .aug] [TIM_STAT, TIM_JUMP_REF_CNT, AUG_RATE, AUG_STAT] s (s.step1588 ⟨d, ns⟩) := by
  have hrate : ∀ e : Fin 2, TIM_D_RATE + timOff e ≠ TIM_STEP_CNT ∧ TIM_D_RATE + timOff e ≠ AUG_RATE ∧ TIM_D_RATE + timOff e ≠ AUG_STAT := by decide
  split
  · next hsmall =>
    obtain ⟨b, hb⟩ := State.step1588_small (x := ⟨d, ns⟩) hsmall
    rw [hb]
    obtain ⟨ht, ho⟩ := State.domainTime_stepped (s := s) (x := ⟨d, ns⟩) (z := { s.tim with firstStep := b }) ⟨rfl, rfl⟩
      (State.applyStep_tim (s := { s with tim := { s.tim with firstStep := b } }) ⟨d, ns⟩) fun e => State.applyStep_reg _ (hrate e).1
    exact ⟨ht, ho, State.applyStep_count _, ((Framed.refl _ _ s).setTim (by decide) _).trans (State.applyStep_framed _)⟩
  · next hjump =>
    rw [State.step1588_jump (x := ⟨d, ns⟩) hjump]
    split
    · obtain ⟨ht, -⟩ := State.domainTime_stepped (s := s) (x := ⟨d, ns⟩) (z := s.tim) ⟨rfl, rfl⟩ (State.jumpApplied_tim ⟨d, ns⟩)
        fun e => (State.jumpApplied_reg _ (hrate e).2.1 (hrate e).2.2).trans (State.applyStep_reg _ (hrate e).1)
      exact ⟨ht, State.jumpApplied_count _, State.jumpApplied_last _⟩
    · split
      · exact ⟨rfl, (Framed.refl _ _ s).setTim (by decide) _⟩
      · exact State.jumpRefused_shows ⟨d, ns⟩

end

/-- Settles O56: rates, steps and jumps on the offsets, switches and the 1 PPS input on the domain in force. -/
theorem stepsAndSwitchesOfTheDomains : Obligations.StepsAndSwitchesOfTheDomains := by
  refine ⟨?rate, ?step, ?accept, ?request, ?switch, ?edge, ?missing⟩
  case rate => exact fun d r s hs hf => ⟨_, congrArg Host.Outcome.next (if_pos (by rw [hs, hf]; rfl)), State.setRate_shows d r⟩
  case step => exact fun d ns s hs => ⟨_, congrArg Host.Outcome.next (if_pos hs), State.timeStep_shows d ns⟩
  case accept =>
    intro p s ho
    refine ⟨_, exec_jumpAccept ho, ?_⟩
    have htim := State.seen_tim (s := s) p
    cases h : s.tim.pend with
    | none => exact State.acceptJump_none (by rw [htim, h])
    | some x =>
      obtain ⟨hpend, hflag, hoff, hcnt, hev⟩ := State.pendApplied_shows (s := s.seen p) x
      rw [htim] at hoff
      rw [s.seen_reg p (by decide)] at hcnt
      rw [s.seen_canNumber p] at hev
      rw [State.acceptJump_some (s := s.seen p) (x := x) (by rw [htim, h])]
      exact ⟨hpend, hflag, hoff, hcnt, hev⟩
  case request =>
    intro p d s ho
    refine ⟨_, exec_switchRequest ho d, ?_⟩
    have hpar := State.seen_parallel (s := s) p
    have hsel := State.seen_selected (s := s) p
    have hst : (s.seen p).mod.st = s.mod.st := by
      obtain ⟨e, i, n, b, hm⟩ := s.seen_mod p
      rw [hm]
    split
    · next h =>
      have hreq := State.requestSwitch_parallel (hpar.trans h) d
      rwa [hsel] at hreq
    · next h =>
      have hp : (s.seen p).parallel = false := hpar.trans (Bool.eq_false_iff.mpr h)
      split
      · next hg => exact State.requestSwitch_growing hp (hst.trans hg) d
      · next hg => exact State.requestSwitch_single hp (fun e => hg (hst.symm.trans e)) d
  case switch =>
    intro d s ht hs hl hw
    have hsw := State.switchNoted_shows hl
    refine ⟨_, exec_domainSwitch ht hs hl hw, ?_⟩
    cases hx : s.tim.afterSwitch with
    | none =>
      rw [State.switchNow_none d hx]
      exact ⟨hsw.selected, hsw.switchTo, hsw.afterSwitch, hsw.switched, hsw.locked, hsw.count, hsw.notes, by rw [State.switchNoted_tim]⟩
    | some x =>
      have hj := hsw.jumpApplied x
      rw [State.switchNow_some d hx]
      exact ⟨hj.selected, hj.switchTo, hj.afterSwitch, hj.switched, hj.locked, hj.count, hj.notes, by rw [State.jumpApplied_tim, State.switchNoted_tim]; rfl⟩
  case edge => exact fun s ht hp => ⟨_, congrArg Host.Outcome.next (if_pos (by rw [ht, hp]; rfl)), State.ppsTaken_shows⟩
  case missing => exact fun s ht hp hs => ⟨_, congrArg Host.Outcome.next (if_pos (by rw [ht, hp, hs]; rfl)), State.ppsLate_shows⟩

end Sys2Proof.Machine

/-! The clocks of the timing ports (R480 to R482, R486): what each message of a master leaves. -/
namespace Sys2Proof.Machine

section
variable {s : State}

/-- What a message of an enabled port leaves before its clock takes it: the link is shown and an event message counted. -/
def State.ptpSeen (s : State) (d : Fin 2) (m : PtpMsg) : State :=
  let s := s.setFlag (TIM_D_STAT_LINK.on (timOff d)) true
  if ptpEvent m then s.bump (TIM_D_RX_CNT + timOff d) else s

/-- What a tracked clock makes of a message. -/
def State.ptpHeard (s : State) (d : Fin 2) (m : PtpMsg) : State :=
  match m with
  | .announce master => s.announced d master
  | .sync t1 corr => s.syncTaken d t1 corr
  | .delayResp t3 t4 corr => if s.flag (TIM_D_CTL_P2P.on (timOff d)) then s else s.delayTaken d t3 t4 corr
  | .pdelayResp mean => if s.flag (TIM_D_CTL_P2P.on (timOff d)) then s.setReg (TIM_D_MPD + timOff d) (BitVec.ofInt 32 mean) else s
  | .other _ => s

theorem State.ptpTaken_eq (d : Fin 2) (m : PtpMsg) :
    s.ptpTaken d m = if (s.ptpSeen d m).tracked d then (s.ptpSeen d m).ptpHeard d m else s.ptpSeen d m := by
  cases m <;> rfl

theorem State.ptpSeen_framed (d : Fin 2) (m : PtpMsg) : Framed [.regs] [TIM_D_STAT + timOff d, TIM_D_RX_CNT + timOff d] s (s.ptpSeen d m) := by
  have h1 := (Framed.refl [.regs] [TIM_D_STAT + timOff d, TIM_D_RX_CNT + timOff d] s).setFlag (by decide) (f := TIM_D_STAT_LINK.on (timOff d))
    List.mem_cons_self true
  unfold State.ptpSeen
  dsimp only
  split
  · exact h1.bump (by decide) (List.mem_cons_of_mem _ List.mem_cons_self)
  · exact h1

theorem State.ptpSeen_reg (d : Fin 2) (m : PtpMsg) {a : Nat} (h : a ≠ TIM_D_STAT + timOff d) (h' : a ≠ TIM_D_RX_CNT + timOff d) :
    (s.ptpSeen d m).reg a = s.reg a := (State.ptpSeen_framed d m).2 a (by simp [h, h'])

theorem State.ptpSeen_shows (d : Fin 2) (m : PtpMsg) : (s.ptpSeen d m).flag (TIM_D_STAT_LINK.on (timOff d)) = true ∧
    (s.ptpSeen d m).reg (TIM_D_RX_CNT + timOff d) = (if ptpEvent m then bumped (s.reg (TIM_D_RX_CNT + timOff d)) else s.reg (TIM_D_RX_CNT + timOff d)) := by
  have hne : ∀ d : Fin 2, TIM_D_STAT + timOff d ≠ TIM_D_RX_CNT + timOff d := by decide
  have hlink : (s.setFlag (TIM_D_STAT_LINK.on (timOff d)) true).flag (TIM_D_STAT_LINK.on (timOff d)) = true :=
    State.flag_setFlag _ _ _ (by decide : TIM_D_STAT_LINK.fits) rfl
  have hrx : (s.setFlag (TIM_D_STAT_LINK.on (timOff d)) true).reg (TIM_D_RX_CNT + timOff d) = s.reg (TIM_D_RX_CNT + timOff d) :=
    State.reg_setFlag_ne _ _ (f := TIM_D_STAT_LINK.on (timOff d)) (hne d).symm
  unfold State.ptpSeen
  dsimp only
  split
  · exact ⟨(State.flag_of_reg (f := TIM_D_STAT_LINK.on (timOff d)) (State.reg_bump_ne _ (hne d))).trans hlink,
      (State.reg_bump_bumped _ _).trans (congrArg bumped hrx)⟩
  · exact ⟨hlink, hrx⟩

theorem State.ptpSeen_tim (d : Fin 2) (m : PtpMsg) : (s.ptpSeen d m).tim = s.tim := (State.ptpSeen_framed d m).1 .tim (by decide)

theorem State.ptpSeen_tracked (d : Fin 2) (m : PtpMsg) (e : Fin 2) : (s.ptpSeen d m).tracked e = s.tracked e := by
  have hne : ∀ d : Fin 2, TIM_STAT ≠ TIM_D_STAT + timOff d ∧ TIM_STAT ≠ TIM_D_RX_CNT + timOff d := by decide
  have hmod : (s.ptpSeen d m).mod = s.mod := (State.ptpSeen_framed d m).1 .mod (by decide)
  exact State.tracked_congr (by rw [hmod]) ((State.ptpSeen_framed d m).1 .prog (by decide)) (State.ptpSeen_reg d m (hne d).1 (hne d).2) e

/-- The clock of a port leaves the link, the count of event messages and the offsets. -/
structure ClockKept (d : Fin 2) (s t : State) : Prop where
  link : t.flag (TIM_D_STAT_LINK.on (timOff d)) = s.flag (TIM_D_STAT_LINK.on (timOff d))
  rx : t.reg (TIM_D_RX_CNT + timOff d) = s.reg (TIM_D_RX_CNT + timOff d)
  off : t.tim.off = s.tim.off

theorem ClockKept.refl (d : Fin 2) (s : State) : ClockKept d s s := ⟨rfl, rfl, rfl⟩

theorem ClockKept.trans {d : Fin 2} {a b c : State} (h : ClockKept d a b) (k : ClockKept d b c) : ClockKept d a c :=
  ⟨k.link.trans h.link, k.rx.trans h.rx, k.off.trans h.off⟩

theorem ClockKept.setReg {d : Fin 2} {r : State} (h : ClockKept d r s) {a : Nat} (ha : TIM_D_STAT + timOff d ≠ a ∧ TIM_D_RX_CNT + timOff d ≠ a) (v : Word) :
    ClockKept d r (s.setReg a v) :=
  h.trans ⟨State.flag_of_reg (f := TIM_D_STAT_LINK.on (timOff d)) (State.reg_setReg_ne _ _ ha.1), State.reg_setReg_ne _ _ ha.2, rfl⟩

theorem ClockKept.setStat {d : Fin 2} {r : State} (h : ClockKept d r s) {f : Field} (hf : f.addr = TIM_D_STAT + timOff d)
    (ha : 1 ≤ f.lo) (b : Bool) : ClockKept d r (s.setFlag f b) := by
  have hne : ∀ d : Fin 2, TIM_D_RX_CNT + timOff d ≠ TIM_D_STAT + timOff d := by decide
  exact h.trans ⟨State.flag_setFlag_apart (g := TIM_D_STAT_LINK.on (timOff d)) _ _ (.inr ⟨.inr ha, (by decide : TIM_D_STAT_LINK.fits)⟩),
    State.reg_setFlag_ne _ _ (by rw [hf]; exact hne d), rfl⟩

theorem ClockKept.showTimLock {d : Fin 2} {r : State} (h : ClockKept d r s) : ClockKept d r s.showTimLock := by
  have hne : ∀ d : Fin 2, TIM_D_STAT + timOff d ≠ TIM_STAT ∧ TIM_D_RX_CNT + timOff d ≠ TIM_STAT := by decide
  exact h.setReg (hne d) _

theorem ClockKept.writeEvent {d : Fin 2} {r : State} (h : ClockKept d r s) (code : Nat) (args : List Nat) : ClockKept d r (s.writeEvent code args) := by
  have hne : ∀ d : Fin 2, (TIM_D_STAT + timOff d ≠ AUG_RATE ∧ TIM_D_STAT + timOff d ≠ AUG_STAT) ∧
      TIM_D_RX_CNT + timOff d ≠ AUG_RATE ∧ TIM_D_RX_CNT + timOff d ≠ AUG_STAT := by decide
  obtain ⟨⟨h1, h2⟩, h3, h4⟩ := hne d
  exact h.trans ⟨State.flag_of_reg (f := TIM_D_STAT_LINK.on (timOff d)) (State.writeEvent_reg _ _ _ h1 h2), State.writeEvent_reg _ _ _ h3 h4,
    congrArg Tim.off ((State.writeEvent_only _ _ _) .tim (by decide))⟩

theorem ClockKept.setTim {d : Fin 2} {r : State} (h : ClockKept d r s) {z : Tim} (hz : z.off = s.tim.off) : ClockKept d r { s with tim := z } :=
  h.trans ⟨State.flag_of_reg (State.reg_congr rfl _), State.reg_congr rfl _, hz⟩

theorem ClockKept.drawNat {d : Fin 2} {r : State} (h : ClockKept d r s) : ClockKept d r s.drawNat.2 :=
  h.trans ⟨State.flag_of_reg (State.reg_congr rfl _), State.reg_congr rfl _, rfl⟩

theorem timPort_regs : ∀ d : Fin 2, ∀ a ∈ [TIM_D_OFM + timOff d, TIM_D_MPD + timOff d, TIM_D_MASTER_LO + timOff d, TIM_D_MASTER_LO + timOff d + 4],
    TIM_D_STAT + timOff d ≠ a ∧ TIM_D_RX_CNT + timOff d ≠ a := by decide

theorem ClockKept.announced (d : Fin 2) (master : U64) : ClockKept d s (s.announced d master) := by
  unfold State.announced
  extract_lets a old u
  have hu : ClockKept d s u := ((ClockKept.refl d s).setReg (a := TIM_D_MASTER_LO + timOff d) (timPort_regs d _ (by simp)) _).setReg
    (a := TIM_D_MASTER_LO + timOff d + 4) (timPort_regs d _ (by simp)) _
  split
  · exact hu
  · exact (hu.setStat (f := TIM_D_STAT_MASTER_CHG.on (timOff d)) rfl (by decide : 1 ≤ TIM_D_STAT_MASTER_CHG.lo) true).writeEvent _ _

theorem ClockKept.lockStep {d : Fin 2} {r : State} (h : ClockKept d r s) (x : Int) : ClockKept d r (s.lockStep1588 d x) := by
  unfold State.lockStep1588
  extract_lets was n tim u v w
  have hu : ClockKept d r u := h.setTim rfl
  have hw : ClockKept d r w := ((hu.setStat (f := TIM_D_STAT_HOLDOVER.on (timOff d)) rfl (by decide : 1 ≤ TIM_D_STAT_HOLDOVER.lo) false).setStat
    (f := TIM_D_STAT_LOCKED.on (timOff d)) rfl (by decide : 1 ≤ TIM_D_STAT_LOCKED.lo) _).showTimLock
  split
  · exact hw.writeEvent _ _
  · exact hw

theorem ClockKept.syncTaken (d : Fin 2) (t1 corr : Int) : ClockKept d s (s.syncTaken d t1 corr) := by
  unfold State.syncTaken
  extract_lets t2 u delay offset tim v w
  have hw : ClockKept d s w := ((((ClockKept.refl d s).drawNat).setTim (z := { u.tim with syncDelay := u.tim.syncDelay.set d delay }) rfl).setReg
    (timPort_regs d _ (by simp)) _)
  exact hw.lockStep offset

theorem ClockKept.delayTaken (d : Fin 2) (t3 t4 corr : Int) : ClockKept d s (s.delayTaken d t3 t4 corr) :=
  ((ClockKept.refl d s).drawNat).setReg (timPort_regs d _ (by simp)) _

theorem ClockKept.ptpHeard (d : Fin 2) (m : PtpMsg) : ClockKept d s (s.ptpHeard d m) := by
  cases m with
  | announce master => exact .announced d master
  | sync t1 corr => exact .syncTaken d t1 corr
  | delayResp t3 t4 corr =>
    unfold State.ptpHeard
    dsimp only
    split
    · exact .refl d s
    · exact .delayTaken d t3 t4 corr
  | pdelayResp mean =>
    unfold State.ptpHeard
    dsimp only
    split
    · exact (ClockKept.refl d s).setReg (timPort_regs d _ (by simp)) _
    · exact .refl d s
  | other e => exact .refl d s

theorem exec_ptpMessage {d : Fin 2} (hs : s.timServed = true) (he : s.flag (TIM_D_CTL_EN.on (timOff d)) = true) (m : PtpMsg) :
    exec (.ptpMessage d m) s = .next (s.ptpTaken d m) := congrArg Host.Outcome.next (if_pos (by rw [hs, he]; rfl))

theorem State.ptpTaken_tracked {d : Fin 2} (h : s.tracked d = true) (m : PtpMsg) : s.ptpTaken d m = (s.ptpSeen d m).ptpHeard d m := by
  rw [State.ptpTaken_eq, State.ptpSeen_tracked, if_pos h]

theorem State.ptpTaken_untracked {d : Fin 2} (h : s.tracked d = false) (m : PtpMsg) : s.ptpTaken d m = s.ptpSeen d m := by
  rw [State.ptpTaken_eq, State.ptpSeen_tracked, h, if_neg Bool.false_ne_true]

/-- The registers of a port that a message reads stand while it is seen. -/
theorem timPort_read : ∀ d : Fin 2, ∀ a ∈ [TIM_D_OFM, TIM_D_MPD, TIM_D_MASTER_LO, TIM_D_MASTER_LO + 4, TIM_D_ASYM, TIM_D_CTL, TIM_D_RATE],
    a + timOff d ≠ TIM_D_STAT + timOff d ∧ a + timOff d ≠ TIM_D_RX_CNT + timOff d := by decide

theorem State.ptpSeen_read (d : Fin 2) (m : PtpMsg) {a : Nat} (ha : a ∈ [TIM_D_OFM, TIM_D_MPD, TIM_D_MASTER_LO, TIM_D_MASTER_LO + 4, TIM_D_ASYM, TIM_D_CTL, TIM_D_RATE]) :
    (s.ptpSeen d m).reg (a + timOff d) = s.reg (a + timOff d) := State.ptpSeen_reg d m (timPort_read d a ha).1 (timPort_read d a ha).2

theorem masterHigh (d : Nat) : TIM_D_MASTER_LO + timOff d + 4 = TIM_D_MASTER_LO + 4 + timOff d := Nat.add_right_comm _ _ _

theorem State.ptpSeen_master (d : Fin 2) (m : PtpMsg) : (s.ptpSeen d m).reg64 (TIM_D_MASTER_LO + timOff d) = s.reg64 (TIM_D_MASTER_LO + timOff d) := by
  refine State.reg64_of_reg (State.ptpSeen_read d m (by decide)) ?_
  rw [masterHigh]
  exact State.ptpSeen_read d m (by decide)

theorem State.ptpSeen_canNumber (d : Fin 2) (m : PtpMsg) : (s.ptpSeen d m).canNumber = s.canNumber := by
  unfold State.canNumber
  rw [show (s.ptpSeen d m).aug = s.aug from (State.ptpSeen_framed d m).1 .aug (by decide)]

theorem State.ptpSeen_time (d : Fin 2) (m : PtpMsg) : (s.ptpSeen d m).domainTime d = s.domainTime d :=
  State.domainTime_congr (by rw [State.ptpSeen_tim]) (by rw [State.ptpSeen_tim]) (State.ptpSeen_read d m (by decide))

theorem State.ptpSeen_asym (d : Fin 2) (m : PtpMsg) : (s.ptpSeen d m).asym d = s.asym d := by
  unfold State.asym
  rw [State.ptpSeen_read d m (by decide)]

theorem State.ptpSeen_meanPath (d : Fin 2) (m : PtpMsg) : (s.ptpSeen d m).meanPath d = s.meanPath d := by
  unfold State.meanPath
  rw [State.ptpSeen_read d m (by decide)]

/-- An Announce shows its master; a changed one is marked and recorded (Table 17.2). -/
theorem State.announced_shows (d : Fin 2) (master : U64) : (s.announced d master).reg64 (TIM_D_MASTER_LO + timOff d) = master ∧
    (s.reg64 (TIM_D_MASTER_LO + timOff d) ≠ master → s.reg64 (TIM_D_MASTER_LO + timOff d) ≠ 0 →
      (s.announced d master).flag (TIM_D_STAT_MASTER_CHG.on (timOff d)) = true ∧
      (s.canNumber = true → (s.announced d master).lastEvent = some (0x0707, [d.val, (s.reg64 (TIM_D_MASTER_LO + timOff d)).toNat, master.toNat]))) := by
  have hne : ∀ d : Fin 2, ∀ a ∈ [TIM_D_MASTER_LO + timOff d, TIM_D_MASTER_LO + timOff d + 4], a ≠ AUG_RATE ∧ a ≠ AUG_STAT ∧ a ≠ TIM_D_STAT + timOff d := by decide
  have hstat : ∀ d : Fin 2, TIM_D_STAT + timOff d ≠ AUG_RATE ∧ TIM_D_STAT + timOff d ≠ AUG_STAT := by decide
  have hset : (s.setReg64 (TIM_D_MASTER_LO + timOff d) master).reg64 (TIM_D_MASTER_LO + timOff d) = master := State.reg64_setReg64 _ _ _
  unfold State.announced
  dsimp only
  generalize s.reg64 (TIM_D_MASTER_LO + timOff d) = old
  have hcn : (s.setReg64 (TIM_D_MASTER_LO + timOff d) master).canNumber = s.canNumber := rfl
  generalize s.setReg64 (TIM_D_MASTER_LO + timOff d) master = u at hset hcn
  split
  · next ho => exact ⟨hset, fun h1 h2 => absurd ho (not_or.mpr ⟨h1, h2⟩)⟩
  · have hw := fun (a : Nat) (h1 : a ≠ AUG_RATE) (h2 : a ≠ AUG_STAT) =>
      State.writeEvent_reg (u.setFlag (TIM_D_STAT_MASTER_CHG.on (timOff d)) true) 0x0707 [d.val, old.toNat, master.toNat] h1 h2
    have hm : ∀ a ∈ [TIM_D_MASTER_LO + timOff d, TIM_D_MASTER_LO + timOff d + 4],
        ((u.setFlag (TIM_D_STAT_MASTER_CHG.on (timOff d)) true).writeEvent 0x0707 [d.val, old.toNat, master.toNat]).reg a = u.reg a := by
      intro a ha
      obtain ⟨h1, h2, h3⟩ := hne d a ha
      exact (hw a h1 h2).trans (State.reg_setFlag_ne _ _ (f := TIM_D_STAT_MASTER_CHG.on (timOff d)) h3)
    refine ⟨(State.reg64_of_reg (hm _ (by simp)) (hm _ (by simp))).trans hset, fun _ _ => ⟨?_, fun hn => ?_⟩⟩
    · exact (State.flag_of_reg (f := TIM_D_STAT_MASTER_CHG.on (timOff d)) (hw _ (hstat d).1 (hstat d).2)).trans
        (State.flag_setFlag _ _ _ (by decide : TIM_D_STAT_MASTER_CHG.fits) rfl)
    · exact State.writeEvent_last (u.setFlag (TIM_D_STAT_MASTER_CHG.on (timOff d)) true) _ _ (hcn.trans hn)

/-- Sixteen Syncs in a row within 100 ns lock the domain; holdover is over (R482). -/
theorem State.lockStep_shows (d : Fin 2) (x : Int) : (s.lockStep1588 d x).flag (TIM_D_STAT_HOLDOVER.on (timOff d)) = false ∧
    (s.lockStep1588 d x).domainLocked d = decide (x.natAbs ≤ 100 ∧ 15 ≤ (s.tim.lockRun[d] : Nat)) ∧
    (s.lockStep1588 d x).reg (TIM_D_OFM + timOff d) = s.reg (TIM_D_OFM + timOff d) ∧ (s.lockStep1588 d x).tim.syncDelay = s.tim.syncDelay := by
  have hne : ∀ d : Fin 2, TIM_D_STAT + timOff d ∉ [TIM_STAT, AUG_RATE, AUG_STAT] ∧
      TIM_D_OFM + timOff d ∉ [TIM_D_STAT + timOff d, TIM_STAT, AUG_RATE, AUG_STAT] := by decide
  have hsh := hne d
  simp only [List.mem_cons, List.not_mem_nil, or_false, not_or] at hsh
  obtain ⟨⟨hs1, hs2, hs3⟩, ho1, ho2, ho3, ho4⟩ := hsh
  unfold State.lockStep1588
  extract_lets was n tim u v w
  have hn : (n == 16) = decide (x.natAbs ≤ 100 ∧ 15 ≤ (s.tim.lockRun[d] : Nat)) := by
    show ((if x.natAbs ≤ 100 then min 16 (s.tim.lockRun[d] + 1) else 0) == 16) = _
    by_cases hx : x.natAbs ≤ 100
    · rw [if_pos hx, Bool.eq_iff_iff, beq_iff_eq, decide_eq_true_iff]
      exact ⟨fun h => ⟨hx, by omega⟩, fun h => by omega⟩
    · rw [if_neg hx, decide_eq_false fun h => hx h.1]
      rfl
  have hhold : v.flag (TIM_D_STAT_HOLDOVER.on (timOff d)) = false :=
    (State.flag_setFlag_apart (f := TIM_D_STAT_LOCKED.on (timOff d)) (g := TIM_D_STAT_HOLDOVER.on (timOff d)) _ _
      (.inr ⟨.inl (by decide : 1 + 1 ≤ 2), (by decide : TIM_D_STAT_HOLDOVER.fits)⟩)).trans (State.flag_setFlag _ _ _ (by decide : TIM_D_STAT_HOLDOVER.fits) rfl)
  have hlock : v.flag (TIM_D_STAT_LOCKED.on (timOff d)) = (n == 16) := State.flag_setFlag _ _ _ (by decide : TIM_D_STAT_LOCKED.fits) rfl
  have hofm : v.reg (TIM_D_OFM + timOff d) = s.reg (TIM_D_OFM + timOff d) :=
    (State.reg_setFlag_ne _ _ (f := TIM_D_STAT_LOCKED.on (timOff d)) ho1).trans (State.reg_setFlag_ne _ _ (f := TIM_D_STAT_HOLDOVER.on (timOff d)) ho1)
  have hw : ∀ a, a ≠ TIM_STAT → w.reg a = v.reg a := fun a h => State.reg_setFlag_ne _ _ h
  have hdelay : w.tim.syncDelay = s.tim.syncDelay := rfl
  have hshow : ∀ t : State, t.tim = w.tim → (∀ a, a ≠ AUG_RATE → a ≠ AUG_STAT → t.reg a = w.reg a) → t.flag (TIM_D_STAT_HOLDOVER.on (timOff d)) = false ∧
      t.domainLocked d = decide (x.natAbs ≤ 100 ∧ 15 ≤ (s.tim.lockRun[d] : Nat)) ∧
      t.reg (TIM_D_OFM + timOff d) = s.reg (TIM_D_OFM + timOff d) ∧ t.tim.syncDelay = s.tim.syncDelay := by
    intro t htim hreg
    have hstat : t.reg (TIM_D_STAT + timOff d) = v.reg (TIM_D_STAT + timOff d) := (hreg _ hs2 hs3).trans (hw _ hs1)
    exact ⟨(State.flag_of_reg (f := TIM_D_STAT_HOLDOVER.on (timOff d)) hstat).trans hhold,
      (State.flag_of_reg (f := TIM_D_STAT_LOCKED.on (timOff d)) hstat).trans (hlock.trans hn), (hreg _ ho3 ho4).trans ((hw _ ho2).trans hofm),
      by rw [htim]; exact hdelay⟩
  split
  · exact hshow _ ((State.writeEvent_only _ _ _) .tim (by decide)) fun a h h' => State.writeEvent_reg _ _ _ h h'
  · exact hshow _ rfl fun _ _ _ => rfl

/-- A Sync, stamped within one nanosecond: the offset from the master and the lock (R480 to R482). -/
theorem State.syncTaken_shows (d : Fin 2) (t1 corr : Int) : (s.syncTaken d t1 corr).flag (TIM_D_STAT_HOLDOVER.on (timOff d)) = false ∧
    ∃ delay : Int, (delay - ((wholeNs (s.domainTime d)).toNat - t1 - corr - s.asym d)).natAbs ≤ 1 ∧
      (s.syncTaken d t1 corr).reg (TIM_D_OFM + timOff d) = satInt32 (delay - s.meanPath d) ∧ ((s.syncTaken d t1 corr).tim.syncDelay[d] : Int) = delay ∧
      (s.syncTaken d t1 corr).domainLocked d = decide ((delay - s.meanPath d).natAbs ≤ 100 ∧ 15 ≤ (s.tim.lockRun[d] : Nat)) := by
  unfold State.syncTaken
  extract_lets t2 u delay offset tim v w
  have hdelay : delay = ((wholeNs (s.domainTime d)).toNat : Int) + ((s.drawNat.1 % 3 : Nat) : Int) - 1 - t1 - corr - s.asym d := rfl
  have hoff : offset = delay - s.meanPath d := rfl
  have hofm : w.reg (TIM_D_OFM + timOff d) = satInt32 offset := State.reg_setReg _ _ _
  have hsync : (w.tim.syncDelay[d] : Int) = delay := by
    show ((u.tim.syncDelay.set d delay)[d] : Int) = delay
    simp
  have hrun : w.tim.lockRun = s.tim.lockRun := rfl
  obtain ⟨hhold, hlock, hr, hd⟩ := State.lockStep_shows (s := w) d offset
  have hmod : s.drawNat.1 % 3 < 3 := Nat.mod_lt _ (by decide)
  refine ⟨hhold, delay, ?_, hr.trans (hofm.trans (by rw [hoff])), by rw [hd]; exact hsync, by rw [hlock, hrun, hoff]⟩
  rw [hdelay]
  omega

/-- A Delay_Resp leaves the mean path delay, its half nanosecond rounded either way (R480). -/
theorem State.delayTaken_shows (d : Fin 2) (t3 t4 corr : Int) : ∃ half : Int, 0 ≤ half ∧ half ≤ 1 ∧
    (s.delayTaken d t3 t4 corr).reg (TIM_D_MPD + timOff d) =
      BitVec.ofInt 32 (((s.tim.syncDelay[d] : Int) + (t4 - t3 - corr) + s.asym d + half) / 2) := by
  have hmod : s.drawNat.1 % 2 < 2 := Nat.mod_lt _ (by decide)
  exact ⟨((s.drawNat.1 % 2 : Nat) : Int), by omega, by omega, State.reg_setReg _ _ _⟩

/-- The state in which the holdover of a domain is shown and recorded. -/
def State.heldOver (s : State) (d : Fin 2) : State :=
  let s := { s with tim := { s.tim with lockRun := s.tim.lockRun.set d 0 } }
  let s := (s.setFlag (TIM_D_STAT_HOLDOVER.on (timOff d)) true).setFlag (TIM_D_STAT_LOCKED.on (timOff d)) false
  s.showTimLock.writeEvent 0x0702 [d]

theorem State.heldOver_framed (d : Fin 2) : Framed [.regs, .aug, .tim] [TIM_D_STAT + timOff d, TIM_STAT, AUG_RATE, AUG_STAT] s (s.heldOver d) :=
  (((((Framed.refl _ _ s).setTim (by decide) _).setFlag (by decide) (f := TIM_D_STAT_HOLDOVER.on (timOff d)) List.mem_cons_self true).setFlag (by decide)
    (f := TIM_D_STAT_LOCKED.on (timOff d)) List.mem_cons_self false).setFlag (by decide) (f := TIM_STAT_LOCKED)
    (List.mem_cons_of_mem _ List.mem_cons_self) _).writeEvent (by decide) (fun _ h => List.mem_cons_of_mem _ (List.mem_cons_of_mem _ h)) _ _

theorem State.heldOver_tim (d : Fin 2) : (s.heldOver d).tim = { s.tim with lockRun := s.tim.lockRun.set d 0 } := (State.writeEvent_only _ _ _) .tim (by decide)

theorem State.heldOver_shows (d : Fin 2) : (s.heldOver d).flag (TIM_D_STAT_HOLDOVER.on (timOff d)) = true ∧ (s.heldOver d).domainLocked d = false ∧
    (s.heldOver d).flag TIM_STAT_SELECTED = s.flag TIM_STAT_SELECTED ∧
    (s.canNumber = true → (s.heldOver d).lastEvent = some (0x0702, [d.val])) := by
  have hne : ∀ d : Fin 2, TIM_D_STAT + timOff d ∉ [TIM_STAT, AUG_RATE, AUG_STAT] := by decide
  have hsh := hne d
  simp only [List.mem_cons, List.not_mem_nil, or_false, not_or] at hsh
  obtain ⟨hs1, hs2, hs3⟩ := hsh
  unfold State.heldOver
  extract_lets tim u v
  have hstat : (v.showTimLock.writeEvent 0x0702 [d.val]).reg (TIM_D_STAT + timOff d) = v.reg (TIM_D_STAT + timOff d) :=
    (State.writeEvent_reg _ _ _ hs2 hs3).trans (State.reg_setFlag_ne _ _ (f := TIM_STAT_LOCKED) hs1)
  refine ⟨?_, ?_, ?_, State.writeEvent_last v.showTimLock _ _⟩
  · refine (State.flag_of_reg (f := TIM_D_STAT_HOLDOVER.on (timOff d)) hstat).trans ?_
    exact (State.flag_setFlag_apart (f := TIM_D_STAT_LOCKED.on (timOff d)) (g := TIM_D_STAT_HOLDOVER.on (timOff d)) _ _
      (.inr ⟨.inl (by decide : 1 + 1 ≤ 2), (by decide : TIM_D_STAT_HOLDOVER.fits)⟩)).trans (State.flag_setFlag _ _ _ (by decide : TIM_D_STAT_HOLDOVER.fits) rfl)
  · exact (State.flag_of_reg (f := TIM_D_STAT_LOCKED.on (timOff d)) hstat).trans (State.flag_setFlag _ _ _ (by decide : TIM_D_STAT_LOCKED.fits) rfl)
  · have hsel : v.flag TIM_STAT_SELECTED = s.flag TIM_STAT_SELECTED :=
      (State.flag_setFlag_ne _ _ (f := TIM_D_STAT_LOCKED.on (timOff d)) (g := TIM_STAT_SELECTED) (Ne.symm hs1)).trans
        (State.flag_setFlag_ne _ _ (f := TIM_D_STAT_HOLDOVER.on (timOff d)) (g := TIM_STAT_SELECTED) (Ne.symm hs1))
    exact (State.flag_of_reg (State.writeEvent_reg _ _ _ (by decide) (by decide))).trans ((State.flag_setFlag_apart _ _ (by decide)).trans hsel)

theorem State.holdover_eq (d : Fin 2) : s.holdover d =
    if (s.heldOver d).parallel && (s.heldOver d).selected == d && (s.heldOver d).flag TIM_CTL_AUTO_SWITCH && (s.heldOver d).domainLocked (d + 1) then
      { s.heldOver d with tim := { (s.heldOver d).tim with switchTo := some (d + 1) } }
    else s.heldOver d := rfl

/-- Holdover keeps rate and offset, is recorded, and with AUTO_SWITCH gives way to a domain that is locked (R482, R486). -/
theorem State.holdover_shows (d : Fin 2) : (s.holdover d).flag (TIM_D_STAT_HOLDOVER.on (timOff d)) = true ∧ (s.holdover d).domainLocked d = false ∧
    (s.holdover d).tim.off = s.tim.off ∧ (s.holdover d).rate d = s.rate d ∧
    (s.canNumber = true → (s.holdover d).lastEvent = some (0x0702, [d.val])) ∧
    (s.holdover d).tim.switchTo = (if s.parallel = true ∧ s.selected = d ∧ s.flag TIM_CTL_AUTO_SWITCH = true ∧ s.domainLocked (d + 1) = true
      then some (d + 1) else s.tim.switchTo) ∧
    Framed [.regs, .aug, .tim] [TIM_D_STAT + timOff d, TIM_STAT, AUG_RATE, AUG_STAT] s (s.holdover d) := by
  have hapart : ∀ d : Fin 2, TIM_D_RATE + timOff d ∉ [TIM_D_STAT + timOff d, TIM_STAT, AUG_RATE, AUG_STAT] ∧
      TIM_CTL ∉ [TIM_D_STAT + timOff d, TIM_STAT, AUG_RATE, AUG_STAT] ∧
      TIM_D_STAT + timOff (d + 1 : Fin 2) ∉ [TIM_D_STAT + timOff d, TIM_STAT, AUG_RATE, AUG_STAT] := by decide
  obtain ⟨hrate, hctl, hother⟩ := hapart d
  obtain ⟨hhold, hlock, hselected, hev⟩ := State.heldOver_shows (s := s) d
  have htim := State.heldOver_tim (s := s) d
  have hfr := State.heldOver_framed (s := s) d
  have hsel : (s.heldOver d).selected = s.selected := by
    unfold State.selected
    rw [hselected]
  have hpar : (s.heldOver d).parallel = s.parallel :=
    State.parallel_congr (by rw [show (s.heldOver d).mod = s.mod from hfr.1 .mod (by decide)]) (hfr.1 .prog (by decide))
  have hr : (s.heldOver d).rate d = s.rate d := State.rate_congr (hfr.2 _ hrate)
  have hauto : (s.heldOver d).flag TIM_CTL_AUTO_SWITCH = s.flag TIM_CTL_AUTO_SWITCH := State.flag_of_reg (hfr.2 TIM_CTL hctl)
  rw [State.holdover_eq, hpar, hsel, hauto, State.domainLocked_congr (hfr.2 _ hother)]
  generalize s.heldOver d = u at hhold hlock htim hfr hev hr
  have hcond : (s.parallel && s.selected == d && s.flag TIM_CTL_AUTO_SWITCH && s.domainLocked (d + 1)) = true ↔
      s.parallel = true ∧ s.selected = d ∧ s.flag TIM_CTL_AUTO_SWITCH = true ∧ s.domainLocked (d + 1) = true := by
    simp only [Bool.and_eq_true, beq_iff_eq, and_assoc]
  by_cases hc : s.parallel = true ∧ s.selected = d ∧ s.flag TIM_CTL_AUTO_SWITCH = true ∧ s.domainLocked (d + 1) = true
  · rw [if_pos (hcond.mpr hc), if_pos hc]
    exact ⟨hhold, hlock, by rw [htim], hr, hev, rfl, hfr.setTim (by decide) _⟩
  · rw [if_neg fun h => hc (hcond.mp h), if_neg hc]
    exact ⟨hhold, hlock, by rw [htim], hr, hev, by rw [htim], hfr⟩

end

/-- Settles O57: what every message leaves, then each message by the state in which it is seen, and holdover. -/
theorem clocksFollowTheirMasters : Obligations.ClocksFollowTheirMasters := by
  refine ⟨?message, ?announce, ?sync, ?delay, ?pdelay, ?holdover⟩
  case message =>
    intro d m s ht he
    obtain ⟨hlink, hrx⟩ := State.ptpSeen_shows (s := s) d m
    refine ⟨_, exec_ptpMessage ht he m, ?_⟩
    cases hk : s.tracked d with
    | true =>
      have hkept := ClockKept.ptpHeard (s := s.ptpSeen d m) d m
      rw [State.ptpTaken_tracked hk]
      exact ⟨hkept.link.trans hlink, hkept.rx.trans hrx, hkept.off.trans (by rw [State.ptpSeen_tim]), nofun⟩
    | false =>
      rw [State.ptpTaken_untracked hk]
      exact ⟨hlink, hrx, by rw [State.ptpSeen_tim], fun _ => State.ptpSeen_framed d m⟩
  case announce =>
    rintro d master old s ht he hk rfl
    refine ⟨_, exec_ptpMessage ht he _, ?_⟩
    have hshow := State.announced_shows (s := s.ptpSeen d (.announce master)) d master
    rw [State.ptpSeen_master, State.ptpSeen_canNumber] at hshow
    rw [State.ptpTaken_tracked hk]
    exact hshow
  case sync =>
    intro d t1 corr s ht he hk
    refine ⟨_, exec_ptpMessage ht he _, ?_⟩
    have hshow := State.syncTaken_shows (s := s.ptpSeen d (.sync t1 corr)) d t1 corr
    rw [State.ptpSeen_time, State.ptpSeen_asym, State.ptpSeen_meanPath, State.ptpSeen_tim] at hshow
    rw [State.ptpTaken_tracked hk]
    exact hshow
  case delay =>
    intro d t3 t4 corr s ht he hk hp
    refine ⟨_, exec_ptpMessage ht he _, ?_⟩
    have hshow := State.delayTaken_shows (s := s.ptpSeen d (.delayResp t3 t4 corr)) d t3 t4 corr
    rw [State.ptpSeen_tim, State.ptpSeen_asym] at hshow
    have hp2p : (s.ptpSeen d (.delayResp t3 t4 corr)).flag (TIM_D_CTL_P2P.on (timOff d)) = false :=
      (State.flag_of_reg (f := TIM_D_CTL_P2P.on (timOff d)) (State.ptpSeen_read d _ (a := TIM_D_CTL) (by decide))).trans hp
    rw [State.ptpTaken_tracked hk, show (s.ptpSeen d (.delayResp t3 t4 corr)).ptpHeard d (.delayResp t3 t4 corr) = _ from
      if_neg (by rw [hp2p]; exact Bool.false_ne_true)]
    exact hshow
  case pdelay =>
    intro d mean s ht he hk hp
    refine ⟨_, exec_ptpMessage ht he _, ?_⟩
    have hp2p : (s.ptpSeen d (.pdelayResp mean)).flag (TIM_D_CTL_P2P.on (timOff d)) = true :=
      (State.flag_of_reg (f := TIM_D_CTL_P2P.on (timOff d)) (State.ptpSeen_read d _ (a := TIM_D_CTL) (by decide))).trans hp
    rw [State.ptpTaken_tracked hk, show (s.ptpSeen d (.pdelayResp mean)).ptpHeard d (.pdelayResp mean) = _ from if_pos hp2p]
    exact State.reg_setReg _ _ _
  case holdover =>
    exact fun d s ht hk he hh => ⟨_, congrArg Host.Outcome.next (if_pos (by rw [ht, hk, he, hh]; rfl)), State.holdover_shows d⟩

end Sys2Proof.Machine

/-! The security engine (R365, R366, R371 to R374, R385): orders, burns, statements and the debug use of JTAG. -/
namespace Sys2Proof.Machine

theorem Framed.setSec {A : List Area} {R : List Nat} {r s : State} (h : Framed A R r s) (hA : Area.sec ∈ A) (z : Sec) :
    Framed A R r { s with sec := z } :=
  h.fields rfl fun p => by
    cases p with
    | sec => exact .inl hA
    | _ => exact .inr rfl

theorem bytesAt_putBytes_apart {d : Nat → Byte} (m : Map Byte) {a b n : Nat} {bs : List Byte} (h : b + n ≤ a ∨ a + bs.length ≤ b) :
    bytesAt d (putBytes d m a bs) b n = bytesAt d m b n := by
  unfold bytesAt
  refine List.map_congr_left fun i hi => mapGet_putBytes_out m a bs ?_
  rw [List.mem_range] at hi
  omega

section
variable {s : State}

/-! What an access that is seen leaves of the checks -/

variable (p : Path)

theorem State.orderCode_congr {t : State} {j d : Bool} (h : t.sec = { s.sec with jtag := j, debugUsed := d })
    (hf : t.flag TOP_CTL_LOOSE = s.flag TOP_CTL_LOOSE) : t.orderCode = s.orderCode := by
  have hgen : ∀ g, t.genStatus g = s.genStatus g := by
    intro g
    unfold State.genStatus State.genRevoked State.fuse State.genBytes State.hardpanBytes
    rw [h]
  have hprog : ∀ g, t.genProgrammed g = s.genProgrammed g := by
    intro g
    unfold State.genProgrammed State.genBytes State.hardpanBytes
    rw [h]
  have hslot : ∀ k, t.slotStatus k = s.slotStatus k := by
    intro k
    unfold State.slotStatus State.slotRevoked State.fuse State.slotBytes State.hardpanBytes
    rw [h]
  have hbytes : ∀ k, t.slotBytes k = s.slotBytes k := by
    intro k
    unfold State.slotBytes State.hardpanBytes
    rw [h]
  have hfuse : ∀ i, t.fuse i = s.fuse i := by
    intro i
    unfold State.fuse
    rw [h]
  have horder : ∀ a n, t.orderBytes a n = s.orderBytes a n := by
    intro a n
    unfold State.orderBytes
    rw [h]
  have hserial : t.serial = s.serial := by
    unfold State.serial
    rw [h]
  have hkey : ∀ x, t.keySlot x = s.keySlot x := by
    intro x
    unfold State.keySlot
    simp only [hslot, hbytes]
  have hset : ∀ n i, t.targetSet n i = s.targetSet n i := by
    intro n i
    unfold State.targetSet State.genRevoked State.slotRevoked State.firmLock State.debugLock
    simp only [hgen, hslot, hfuse]
  unfold State.orderCode State.slotValid
  simp only [horder, hserial, hkey, hset, hslot, hprog, hf]

theorem State.seen_orderCode : (s.seen p).orderCode = s.orderCode := by
  obtain ⟨j, d, h⟩ := s.seen_sec p
  exact State.orderCode_congr h (s.seen_flag p (by decide))

theorem State.seen_orderBytes (a n : Nat) : (s.seen p).orderBytes a n = s.orderBytes a n := by
  obtain ⟨j, d, h⟩ := s.seen_sec p
  unfold State.orderBytes
  rw [h]

theorem State.seen_secCmd : (s.seen p).sec.cmd = s.sec.cmd := by
  obtain ⟨j, d, h⟩ := s.seen_sec p
  rw [h]

theorem State.seen_nonce : (s.seen p).nonce = s.nonce := by
  have hne : ∀ n : Fin 16, SEC_NONCE0 + 4 * n.val ∉ [SEC_STAT, AUG_RATE, AUG_STAT] := by decide
  have hreg : ∀ n ∈ List.range 16, leBytes 4 ((s.seen p).reg (SEC_NONCE0 + 4 * n)).toNat = leBytes 4 (s.reg (SEC_NONCE0 + 4 * n)).toNat := by
    intro n hn
    rw [s.seen_reg p (hne ⟨n, List.mem_range.mp hn⟩)]
  exact List.flatMap_congr hreg

variable {p}

theorem exec_burnOrder (h : s.opens p SEC_CMD) : exec (.burnOrder p) s = .next (s.seen p).orderRuns :=
  congrArg Host.Outcome.next (State.via_of_opens h fun u => u.orderRuns)

theorem exec_attest (h : s.opens p SEC_CMD) : exec (.attest p) s = .next (s.seen p).attests :=
  congrArg Host.Outcome.next (State.via_of_opens h fun u => u.attests)

/-! The engine's commands -/

theorem State.secStarts_shows (c : SecCmd) : (s.secStarts c).sec.cmd = some c ∧ (s.secStarts c).flag SEC_STAT_BUSY = true ∧
    Framed [.regs, .sec] [SEC_STAT] s (s.secStarts c) :=
  ⟨rfl, State.flag_setFlag _ _ _ (by decide) rfl, ((Framed.refl _ _ s).setSec (by decide) _).setFlag (by decide) (by decide) true⟩

theorem State.secEnds_sec (n : Nat) : (s.secEnds n).sec = { s.sec with cmd := none } := rfl

theorem State.secEnds_reg (n : Nat) {a : Nat} (h : a ≠ SEC_STAT) : (s.secEnds n).reg a = s.reg a :=
  (State.reg_setFlag_ne _ _ h).trans ((State.reg_setFlag_ne _ _ h).trans (State.reg_setFld_ne _ _ h))

theorem State.secEnds_framed (n : Nat) : Framed [.regs, .sec] [SEC_STAT] s (s.secEnds n) :=
  ((((Framed.refl _ _ s).setSec (by decide) _).setFld (by decide) (f := SEC_STAT_RESULT) (by decide) n).setFlag (by decide) (f := SEC_STAT_DONE)
    (by decide) true).setFlag (by decide) (f := SEC_STAT_BUSY) (by decide) false

theorem State.secEnds_shows {n : Nat} (h : n < 256) : (s.secEnds n).fld SEC_STAT_RESULT = n ∧ (s.secEnds n).flag SEC_STAT_DONE = true ∧
    (s.secEnds n).flag SEC_STAT_BUSY = false := by
  unfold State.secEnds
  extract_lets sec u
  refine ⟨?_, ?_, State.flag_setFlag _ _ _ (by decide) rfl⟩
  · refine (State.fld_setFlag_apart _ _ (by decide)).trans ((State.fld_setFlag_apart _ _ (by decide)).trans ?_)
    exact (State.fld_setFld _ _ _ (by decide)).trans (Nat.mod_eq_of_lt h)
  · exact (State.flag_setFlag_apart _ _ (by decide)).trans (State.flag_setFlag _ _ _ (by decide) rfl)

theorem State.orderCode_lt : s.orderCode < 256 := by
  unfold State.orderCode
  dsimp only
  repeat' split
  all_goals decide

theorem State.orderRuns_eq (hc : s.sec.cmd = none) (hs : s.mod.st.serving = true) : s.orderRuns =
    if s.orderCode = 0 then s.secStarts (.burn (leNat (s.orderBytes 12 1)) (leNat (s.orderBytes 13 1)) (s.orderBytes 128 128)) else s.secEnds s.orderCode := by
  unfold State.orderRuns
  rw [hc, hs]
  rfl

theorem State.attests_starts (hc : s.sec.cmd = none) (hs : s.mod.st.serving = true) : s.attests = s.secStarts (.attest s.nonce) := by
  unfold State.attests
  rw [hc, hs]
  rfl

theorem State.attests_ignored (h : ¬ (s.sec.cmd = none ∧ s.mod.st.serving = true)) : s.attests = s := by
  refine if_pos ?_
  by_cases hc : s.sec.cmd = none
  · have hs : s.mod.st.serving = false := Bool.eq_false_iff.mpr fun e => h ⟨hc, e⟩
    rw [hs]
    simp
  · have hsome : s.sec.cmd.isSome = true := Option.isSome_iff_ne_none.mpr hc
    rw [hsome]
    rfl

/-! Burns -/

/-- A place of the hardpan takes the bits of its bytes (R365). -/
def State.programmed (s : State) (index : Nat) (payload : List Byte) (x : Nat × Nat) : State :=
  let new := List.zipWith (fun (a b : Byte) => a ||| b) (bytesAt zeroByte s.sec.hardpan x.1 x.2) (burnBytes index x.1 x.2 payload)
  { s with sec := { s.sec with hardpan := putBytes zeroByte s.sec.hardpan x.1 new } }

theorem bytesAt_length (d : Nat → Byte) (m : Map Byte) (a n : Nat) : (bytesAt d m a n).length = n := by simp [bytesAt]

theorem State.programmed_same {index : Nat} {payload : List Byte} {x : Nat × Nat} (hx : x.2 ≤ (burnBytes index x.1 x.2 payload).length) :
    (s.programmed index payload x).hardpanBytes x.1 x.2 =
      List.zipWith (fun (a b : Byte) => a ||| b) (s.hardpanBytes x.1 x.2) (burnBytes index x.1 x.2 payload) := by
  have hlen : (List.zipWith (fun (a b : Byte) => a ||| b) (bytesAt zeroByte s.sec.hardpan x.1 x.2) (burnBytes index x.1 x.2 payload)).length = x.2 := by
    rw [List.length_zipWith, bytesAt_length, Nat.min_eq_left hx]
  have h := bytesAt_putBytes (d := zeroByte) s.sec.hardpan x.1
    (List.zipWith (fun (a b : Byte) => a ||| b) (bytesAt zeroByte s.sec.hardpan x.1 x.2) (burnBytes index x.1 x.2 payload))
  rw [hlen] at h
  exact h

theorem State.programmed_apart {index : Nat} {payload : List Byte} {x y : Nat × Nat} (h : y.1 + y.2 ≤ x.1 ∨ x.1 + x.2 ≤ y.1) :
    (s.programmed index payload x).hardpanBytes y.1 y.2 = s.hardpanBytes y.1 y.2 := by
  refine bytesAt_putBytes_apart _ ?_
  rw [List.length_zipWith, bytesAt_length]
  omega

theorem State.burned_fuse {target index : Nat} {payload : List Byte} {f : Fin 10} (h : burnFuse target index = some f) :
    s.burned target index payload = { s with sec := { s.sec with fuses := s.sec.fuses.set f 3 } } := by
  unfold State.burned
  rw [h]

theorem State.burned_places {target index : Nat} {payload : List Byte} (h : burnFuse target index = none) :
    s.burned target index payload = (burnPlaces target index).foldl (fun s x => s.programmed index payload x) s := by
  unfold State.burned
  rw [h]
  rfl

theorem burnBytes_slot (index : Nat) {off n : Nat} {payload : List Byte} (h : off ≠ 0x0800 + 4 * index) (hn : n ≤ payload.length) :
    n ≤ (burnBytes index off n payload).length := by
  unfold burnBytes
  rw [if_neg h]
  simp [slice, hn]

theorem burnBytes_crc (index : Nat) (payload : List Byte) : 4 ≤ (burnBytes index (0x0800 + 4 * index) 4 payload).length := by
  unfold burnBytes
  rw [if_pos rfl, leBytes_length]

/-- The bits of a target are programmed, and none that was programmed is cleared (R365, R373). -/
theorem State.burned_bytes {target index : Nat} {payload : List Byte} (h : burnFuse target index = none) (hi : index ≤ 3) (hp : payload.length = 128)
    {x : Nat × Nat} (hx : x ∈ burnPlaces target index) : (s.burned target index payload).hardpanBytes x.1 x.2 =
      List.zipWith (fun (a b : Byte) => a ||| b) (s.hardpanBytes x.1 x.2) (burnBytes index x.1 x.2 payload) := by
  rw [State.burned_places h]
  unfold burnPlaces at hx ⊢
  by_cases h1 : target = 1
  · rw [if_pos h1] at hx ⊢
    rw [List.mem_singleton] at hx
    subst hx
    exact State.programmed_same (burnBytes_slot index (by dsimp only; omega) (by rw [hp]))
  · rw [if_neg h1] at hx ⊢
    by_cases h2 : target = 2
    · rw [if_pos h2] at hx ⊢
      rw [List.mem_pair] at hx
      show ((s.programmed index payload (0x0700 + 0x40 * index, 64)).programmed index payload (0x0800 + 4 * index, 4)).hardpanBytes x.1 x.2 = _
      rcases hx with rfl | rfl
      · rw [State.programmed_apart (x := (0x0800 + 4 * index, 4)) (by dsimp only; omega)]
        exact State.programmed_same (burnBytes_slot index (by dsimp only; omega) (by rw [hp]; omega))
      · rw [State.programmed_same (x := (0x0800 + 4 * index, 4)) (burnBytes_crc index payload),
          State.programmed_apart (x := (0x0700 + 0x40 * index, 64)) (by dsimp only; omega)]
    · rw [if_neg h2] at hx
      exact nomatch hx

/-- No command runs any more, and the hardpan and its fuses are those of `s`. -/
structure BurnOver (s t : State) : Prop where
  cmd : t.sec.cmd = none
  hardpan : t.sec.hardpan = s.sec.hardpan
  fuses : t.sec.fuses = s.sec.fuses

theorem BurnOver.bytes {t : State} (h : BurnOver s t) (a n : Nat) : t.hardpanBytes a n = s.hardpanBytes a n := by
  unfold State.hardpanBytes
  rw [h.hardpan]

theorem BurnOver.keeps {t u : State} (h : BurnOver s t) {T : List Area} (k : Keeps T t u) (hT : T.contains Area.sec = false) : BurnOver s u := by
  have hs : u.sec = t.sec := k.same .sec hT
  exact ⟨by rw [hs]; exact h.cmd, by rw [hs]; exact h.hardpan, by rw [hs]; exact h.fuses⟩

theorem BurnOver.coldSensed (h : s.sec.cmd = none) : BurnOver s s.coldSensed := by
  have hcut : s.cutBurn = s := by
    unfold State.cutBurn
    rw [h]
  have hd : BurnOver s s.dropPower := by
    unfold State.dropPower
    rw [hcut]
    exact ⟨rfl, rfl, rfl⟩
  exact ⟨hd.cmd, hd.hardpan, hd.fuses⟩

theorem BurnOver.coldStart (h : s.sec.cmd = none) : BurnOver s s.coldStart :=
  ((BurnOver.coldSensed h).keeps s.coldBegun_keeps rfl).keeps s.coldStart_keeps rfl

theorem BurnOver.warmBegun : BurnOver s s.warmBegun := by
  have hsec : s.warmNamed.warmRegs.sec = s.sec := (State.warmRegs_keeps _ |>.same .sec rfl).trans (s.warmNamed_keeps.same .sec rfl)
  unfold State.warmBegun
  generalize s.warmNamed.warmRegs = u at hsec
  have hu : (u.unitsRestarted s.warmNamed.hst.held).sec = { u.sec with cmd := none } := rfl
  exact ⟨by rw [hu], by rw [hu, hsec], by rw [hu, hsec]⟩

theorem BurnOver.beginWarm (h : s.sec.cmd = none) : BurnOver s s.beginWarm := by
  by_cases hd : s.mod.copyDigest = []
  · rw [show s.beginWarm = s.coldStart from if_pos (by rw [hd]; rfl)]
    exact .coldStart h
  · exact BurnOver.warmBegun.keeps (s.beginWarm_keeps hd) rfl

theorem BurnOver.pinReset (h : s.sec.cmd = none) : BurnOver s s.pinReset := by
  have heq : s.pinReset = if s.pinTaken.driveHold.mod.rstLow then s.pinTaken.driveHold else s.pinTaken.driveHold.pinReleased := rfl
  have hv : s.pinTaken.driveHold.sec = s.sec := (State.driveHold_keeps (s := s.pinTaken)).same .sec rfl
  rw [heq]
  generalize s.pinTaken.driveHold = v at hv
  have hself : BurnOver s v := ⟨by rw [hv, h], by rw [hv], by rw [hv]⟩
  split
  · exact hself
  · unfold State.pinReleased
    split
    · have hb := BurnOver.beginWarm (s := { v with mod := { v.mod with st := v.mod.left, warm := false, rstHeld := false } }) hself.cmd
      exact ⟨hb.cmd, hb.hardpan.trans hself.hardpan, hb.fuses.trans hself.fuses⟩
    · exact hself

/-- The state in which the bits of a burn are programmed, or in part where its read-back is not good, and its result shown. -/
def State.burnShown (s : State) (target index : Nat) (payload : List Byte) (good : Bool) : State :=
  if good then (s.burned target index payload).secEnds 0 else (s.burnBroken target index payload).secEnds 0x0A

/-- The locks take effect: DEBUG_LOCK ends a debug session, FIRM_LOCK the loose mode (R371). -/
def State.locksTaken (s : State) : State :=
  let s := if s.debugLock then { s with sec := { s.sec with jtag := false } } else s
  if s.firmLock then s.setFlag TOP_CTL_LOOSE false else s

theorem State.burnEnds_eq (target index : Nat) (payload : List Byte) (good : Bool) : s.burnEnds target index payload good =
    if (s.burnShown target index payload good).locksTaken.mod.rstWaits then (s.burnShown target index payload good).locksTaken.pinReset
    else (s.burnShown target index payload good).locksTaken := rfl

theorem State.locksTaken_framed : Framed [.regs, .sec] [TOP_CTL] s s.locksTaken := by
  have hfirm : ∀ t, Framed [.regs, .sec] [TOP_CTL] s t → Framed [.regs, .sec] [TOP_CTL] s (if t.firmLock then t.setFlag TOP_CTL_LOOSE false else t) := by
    intro t ht
    split
    · exact ht.setFlag (by decide) (by decide) false
    · exact ht
  refine hfirm _ ?_
  split
  · exact (Framed.refl _ _ s).setSec (by decide) _
  · exact .refl _ _ s

theorem State.locksTaken_sec : ∃ j, s.locksTaken.sec = { s.sec with jtag := j } := by
  unfold State.locksTaken
  dsimp only
  split <;> split <;> exact ⟨_, rfl⟩

/-- The module control stands while a burn is shown. -/
theorem State.burnShown_mod (target index : Nat) (payload : List Byte) (good : Bool) : (s.burnShown target index payload good).locksTaken.mod = s.mod := by
  refine (State.locksTaken_framed.1 .mod (by decide)).trans ?_
  unfold State.burnShown
  split
  · exact ((State.secEnds_framed 0).1 .mod (by decide)).trans ((Keeps.burned (.refl [.sec] s) rfl target index payload).same .mod rfl)
  · exact ((State.secEnds_framed 0x0A).1 .mod (by decide)).trans ((Keeps.burnBroken (.refl [.sec, .free] s) rfl target index payload).same .mod rfl)

/-- After a burn no command runs, and the hardpan holds what the burn left. -/
theorem State.burnEnds_over (target index : Nat) (payload : List Byte) (good : Bool) :
    BurnOver (s.burnShown target index payload good) (s.burnEnds target index payload good) := by
  have hcmd : (s.burnShown target index payload good).sec.cmd = none := by
    unfold State.burnShown
    split <;> rfl
  obtain ⟨j, hj⟩ := State.locksTaken_sec (s := s.burnShown target index payload good)
  have hl : BurnOver (s.burnShown target index payload good) (s.burnShown target index payload good).locksTaken :=
    ⟨by rw [hj]; exact hcmd, by rw [hj], by rw [hj]⟩
  rw [State.burnEnds_eq]
  split
  · have hp := BurnOver.pinReset hl.cmd
    exact ⟨hp.cmd, hp.hardpan.trans hl.hardpan, hp.fuses.trans hl.fuses⟩
  · exact hl

/-- Without a reset that waits the result of a burn is shown and the module stays in its state. -/
theorem State.burnEnds_shows (hw : s.mod.rstWaits = false) (target index : Nat) (payload : List Byte) (good : Bool) :
    (s.burnEnds target index payload good).fld SEC_STAT_RESULT = (if good then 0 else 0x0A) ∧
    (s.burnEnds target index payload good).flag SEC_STAT_DONE = true ∧ (s.burnEnds target index payload good).flag SEC_STAT_BUSY = false ∧
    (s.burnEnds target index payload good).mod = s.mod := by
  have hmod := State.burnShown_mod (s := s) target index payload good
  have hshow : (s.burnShown target index payload good).fld SEC_STAT_RESULT = (if good then 0 else 0x0A) ∧
      (s.burnShown target index payload good).flag SEC_STAT_DONE = true ∧ (s.burnShown target index payload good).flag SEC_STAT_BUSY = false := by
    unfold State.burnShown
    split
    · exact State.secEnds_shows (by decide)
    · exact State.secEnds_shows (by decide)
  rw [State.burnEnds_eq, hmod, hw, if_neg Bool.false_ne_true]
  have hreg := (State.locksTaken_framed (s := s.burnShown target index payload good)).2 SEC_STAT (by decide)
  exact ⟨(State.fld_of_reg hreg).trans hshow.1, (State.flag_of_reg hreg).trans hshow.2.1, (State.flag_of_reg hreg).trans hshow.2.2, hmod⟩

theorem exec_burnComplete {target index : Nat} {payload : List Byte} (h : s.sec.cmd = some (.burn target index payload)) (good : Bool) :
    exec (.burnComplete good) s = .next (s.burnEnds target index payload good) := by
  show Host.Outcome.next (match s.sec.cmd with | some (.burn _ _ _) => _ | _ => _) = _
  rw [h]

/-! Statements and the debug use of JTAG -/

theorem exec_attestComplete {nonce : List Byte} (h : s.sec.cmd = some (.attest nonce)) (hr : s.rsaFree = true) :
    exec .attestComplete s = .next (s.attestEnds nonce) := by
  show Host.Outcome.next (match s.sec.cmd with | some (.attest _) => _ | _ => _) = _
  rw [h]
  exact congrArg Host.Outcome.next (if_pos hr)

/-- A statement text with its signature is put into the buffer and shown. -/
def State.statementShown (s : State) (text : List Byte) : State :=
  (({ s with sec := { s.sec with stmt := putBytes zeroByte [] 0 (text ++ (List.range 512).map (Config.attSign text)) } } : State).bump SEC_ATT_CNT).secEnds 0

theorem State.attestEnds_eq (nonce : List Byte) : s.attestEnds nonce = s.statementShown (s.statement nonce) := by
  unfold State.attestEnds State.statementShown
  rfl

/-- The statement and its signature stand in the buffer, counted and with RESULT 0 (R385). -/
theorem State.statementShown_shows (text : List Byte) :
    (s.statementShown text).sec = { s.sec with cmd := none, stmt := putBytes zeroByte [] 0 (text ++ (List.range 512).map (Config.attSign text)) } ∧
    (s.statementShown text).reg SEC_ATT_CNT = bumped (s.reg SEC_ATT_CNT) ∧ (s.statementShown text).fld SEC_STAT_RESULT = 0 ∧
    (s.statementShown text).flag SEC_STAT_DONE = true ∧ (s.statementShown text).flag SEC_STAT_BUSY = false ∧
    Framed [.regs, .sec] [SEC_STAT, SEC_ATT_CNT] s (s.statementShown text) := by
  unfold State.statementShown
  generalize putBytes zeroByte [] 0 (text ++ (List.range 512).map (Config.attSign text)) = st
  have hu : Framed [.regs, .sec] [SEC_STAT, SEC_ATT_CNT] s ({ s with sec := { s.sec with stmt := st } } : State) := (Framed.refl _ _ s).setSec (by decide) _
  have hsec : ({ s with sec := { s.sec with stmt := st } } : State).sec = { s.sec with stmt := st } := rfl
  have hcnt : ({ s with sec := { s.sec with stmt := st } } : State).reg SEC_ATT_CNT = s.reg SEC_ATT_CNT := rfl
  generalize ({ s with sec := { s.sec with stmt := st } } : State) = u at hu hsec hcnt ⊢
  obtain ⟨hres, hdone, hbusy⟩ := State.secEnds_shows (s := u.bump SEC_ATT_CNT) (n := 0) (by decide)
  refine ⟨?_, ?_, hres, hdone, hbusy, ?_⟩
  · rw [State.secEnds_sec, State.bump_sec, hsec]
  · rw [State.secEnds_reg 0 (by decide), State.reg_bump_bumped, hcnt]
  · exact (hu.bump (by decide) (a := SEC_ATT_CNT) (by decide)).trans ((State.secEnds_framed 0).mono (by decide) (by decide))

theorem State.usePrivate_again (h : s.sec.debugUsed = true) : s.usePrivate = { s with sec := { s.sec with jtag := true } } := if_pos h

/-- The first debug use of JTAG is marked and recorded (R371). -/
theorem State.usePrivate_first (h : s.sec.debugUsed = false) : s.usePrivate.sec = { s.sec with jtag := true, debugUsed := true } ∧
    s.usePrivate.flag SEC_STAT_DEBUG_USED = true ∧ (s.canNumber = true → s.usePrivate.lastEvent = some (0x0104, [])) ∧
    Framed [.regs, .sec, .aug] [SEC_STAT, AUG_RATE, AUG_STAT] s s.usePrivate := by
  have heq : s.usePrivate = (({ s with sec := { s.sec with jtag := true, debugUsed := true } } : State).setFlag SEC_STAT_DEBUG_USED true).writeEvent 0x0104 [] :=
    if_neg (by rw [h]; exact Bool.false_ne_true)
  rw [heq]
  refine ⟨(State.writeEvent_only _ _ _) .sec (by decide), ?_, fun hn => State.writeEvent_last _ _ _ hn, ?_⟩
  · exact (State.flag_of_reg (State.writeEvent_reg _ _ _ (by decide) (by decide))).trans (State.flag_setFlag _ _ _ (by decide) rfl)
  · exact (((Framed.refl _ _ s).setSec (by decide) _).setFlag (by decide) (f := SEC_STAT_DEBUG_USED) (by decide) true).writeEvent (by decide) (by decide) _ _

end

/-- Settles O58: orders by their code, burns by what they leave in the hardpan, statements and the debug use of JTAG by what they show. -/
theorem ordersBurnAndStatementsAreSigned : Obligations.OrdersBurnAndStatementsAreSigned := by
  refine ⟨?order, ?burn, ?broken, ?attest, ?signed, ?jtag, ?locked⟩
  case order =>
    intro p s ho hs hc
    refine ⟨_, exec_burnOrder ho, ?_⟩
    rw [State.orderRuns_eq ((State.seen_secCmd p).trans hc) (by rw [s.seen_st p]; exact hs), State.seen_orderCode]
    split
    · obtain ⟨hcmd, hbusy, hfr⟩ := State.secStarts_shows (s := s.seen p)
        (.burn (leNat ((s.seen p).orderBytes 12 1)) (leNat ((s.seen p).orderBytes 13 1)) ((s.seen p).orderBytes 128 128))
      simp only [State.seen_orderBytes] at hcmd hbusy hfr ⊢
      exact ⟨⟨hbusy, hcmd⟩, hfr⟩
    · obtain ⟨hres, hdone, -⟩ := State.secEnds_shows (s := s.seen p) (State.orderCode_lt (s := s))
      exact ⟨⟨rfl, hres, hdone⟩, State.secEnds_framed _⟩
  case burn =>
    intro target index payload s hc hi hp
    have hover := State.burnEnds_over (s := s) target index payload true
    have hshown : (s.burnShown target index payload true).sec = { (s.burned target index payload).sec with cmd := none } := rfl
    refine ⟨_, exec_burnComplete hc true, hover.cmd, fun f hf => ?_, fun x hf hx => ?_, fun hw => ?_⟩
    · rw [hover.fuses, hshown, State.burned_fuse hf]
    · rw [hover.bytes]
      exact State.burned_bytes hf hi hp hx
    · obtain ⟨hres, hdone, hbusy, hmod⟩ := State.burnEnds_shows hw target index payload true
      exact ⟨hres, hdone, hbusy, by rw [hmod]⟩
  case broken =>
    intro target index payload s hc hf
    refine ⟨_, exec_burnComplete hc false, (State.burnEnds_over target index payload false).cmd, ?_, fun hw => ?_⟩
    · exact (exec_keeps _ (exec_burnComplete hc false)).burned_kept hf
    · obtain ⟨hres, hdone, hbusy, -⟩ := State.burnEnds_shows hw target index payload false
      exact ⟨hres, hdone, hbusy⟩
  case attest =>
    intro p s ho
    refine ⟨_, exec_attest ho, ?_⟩
    split
    · next h =>
      rw [State.attests_starts ((State.seen_secCmd p).trans h.1) (by rw [s.seen_st p]; exact h.2), State.seen_nonce]
      exact State.secStarts_shows _
    · next h => exact State.attests_ignored (by rw [State.seen_secCmd, s.seen_st p]; exact h)
  case signed =>
    intro nonce text s hc hr ht
    refine ⟨_, exec_attestComplete hc hr, ?_⟩
    rw [State.attestEnds_eq, ← ht]
    exact State.statementShown_shows _
  case jtag =>
    intro s hs hd
    refine ⟨_, congrArg Host.Outcome.next (if_pos (by rw [ModState.powered_of_ne_off hs, hd]; rfl)), ?_⟩
    cases hu : s.sec.debugUsed with
    | true =>
      rw [State.usePrivate_again hu]
      exact ⟨by rw [← hu], (Framed.refl _ _ s).setSec (by decide) _⟩
    | false =>
      obtain ⟨hsec, hflag, hev, hfr⟩ := State.usePrivate_first hu
      exact ⟨hsec, hflag, hev, hfr⟩
  case locked => exact fun s _ hd => congrArg Host.Outcome.next (if_neg (by rw [hd]; simp))

end Sys2Proof.Machine

/-! The life of an engine: warming, resets and the restart horizon (chapters 6 and 7). -/
namespace Sys2Proof.Machine

theorem Framed.setEng {A : List Area} {R : List Nat} {r s : State} (h : Framed A R r s) (hA : Area.eng ∈ A) (e : Fin 2) (g : Engine) :
    Framed A R r (s.setEng e g) := h.setEngs hA _

theorem Framed.foldl {A : List Area} {R : List Nat} {α : Type} {f : State → α → State} (hf : ∀ u x, Framed A R u (f u x)) (xs : List α) (s : State) :
    Framed A R s (xs.foldl f s) := by
  induction xs generalizing s with
  | nil => exact .refl _ _ s
  | cons x xs ih => exact (hf s x).trans (ih _)

theorem Framed.canNumber {A : List Area} {R : List Nat} {s t : State} (h : Framed A R s t) (hA : Area.aug ∉ A) : t.canNumber = s.canNumber := by
  unfold State.canNumber
  rw [h.1 .aug hA]

theorem Framed.count {A : List Area} {R : List Nat} {s t : State} (h : Framed A R s t) (hA : Area.hz ∉ A) : t.count = s.count := by
  unfold State.count
  rw [h.1 .hz hA]

section
variable {s : State}

/-! The state field of an engine -/

theorem State.showEngine_framed (e : Fin 2) (v : Nat) : Framed [.regs] [LSS_STAT + lssOff e] s (s.showEngine e v) := by
  unfold State.showEngine
  split
  · exact (Framed.refl _ _ s).setFld (by decide) (f := LSS_STAT_STATE.on (lssOff e)) (by exact List.mem_singleton.2 rfl) _
  · exact (Framed.refl _ _ s).setFld (by decide) (f := LSS_STAT_STATE.on (lssOff e)) (by exact List.mem_singleton.2 rfl) _

/-- An engine shows what it is told, a degraded one keeps its mark (Table 7.11). -/
theorem State.showEngine_fld (e : Fin 2) {v : Nat} (hv : v < 16) :
    (s.showEngine e v).fld (LSS_STAT_STATE.on (lssOff e)) = if s.flag (degradedEngine e) then 3 else v := by
  have hfit : ∀ n < 16, (s.setFld (LSS_STAT_STATE.on (lssOff e)) n).fld (LSS_STAT_STATE.on (lssOff e)) = n :=
    fun n hn => (State.fld_setFld _ _ _ (by decide : (24 : Nat) + 4 ≤ 32)).trans (Nat.mod_eq_of_lt hn)
  unfold State.showEngine
  have hflag : s.flag (degradedEngine e) = (bitsOf (s.reg FLT_DEGRADED).toNat (6 + e.val) 1 != 0) := rfl
  have hlt : bitsOf (s.reg FLT_DEGRADED).toNat (6 + e.val) 1 < 2 := Nat.mod_lt _ (by decide)
  rw [hflag]
  by_cases h : bitsOf (s.reg FLT_DEGRADED).toNat (6 + e.val) 1 = 1
  · rw [if_pos h, if_pos (by rw [h]; rfl), hfit 3 (by decide)]
  · have h0 : bitsOf (s.reg FLT_DEGRADED).toNat (6 + e.val) 1 = 0 := by omega
    rw [if_neg h, if_neg (by rw [h0]; decide), hfit v hv]

/-- The registers of an engine are none of those that a record or a degradation changes. -/
theorem engineReg_apart (e : Fin 2) {a : Nat} (ha : a ∈ [LSS_BUCKET, LSS_STAT, LSS_WARM_END_LO, LSS_WARM_END_LO + 4, LSS_CKPT_STAT, LSS_CKPT_LO, LSS_CKPT_LO + 4]) :
    a + lssOff e ≠ AUG_RATE ∧ a + lssOff e ≠ AUG_STAT ∧ a + lssOff e ≠ FLT_DEGRADED := by
  revert e a
  decide

/-! Warming -/

theorem exec_warmingStart {e : Fin 2} {c : U64} (hr : (s.eng[e] : Engine).running = true) (hw : (s.eng[e] : Engine).warming = false)
    (hd : (s.eng[e] : Engine).warmed = false) (hs : (s.eng[e] : Engine).start = some c) (hc : c.toNat ≤ s.count.toNat) :
    exec (.warmingStart e) s = .next ((s.setEng e { s.eng[e] with warming := true, silt := [], siltCleared := false }).showEngine e 1) :=
  congrArg Host.Outcome.next (if_pos (by rw [hr, hw, hd, hs]; simpa using hc))

theorem exec_warmingEnd {e : Fin 2} (hr : (s.eng[e] : Engine).running = true) (hw : (s.eng[e] : Engine).warming = true)
    (hd : (s.eng[e] : Engine).warmEnd ≤ s.count.toNat) : exec (.warmingEnd e) s = .next (s.endWarming e) :=
  congrArg Host.Outcome.next (if_pos (by rw [hr, hw]; simpa using hd))

/-- Registers in which the end of warming shows. -/
def warmEndRegs (e : Fin 2) : List Nat :=
  [LSS_BUCKET + lssOff e, LSS_STAT + lssOff e, LSS_WARM_END_LO + lssOff e, LSS_WARM_END_LO + lssOff e + 4, AUG_RATE, AUG_STAT]

/-- An engine whose warming ends, before its registers show it. -/
def Engine.warmedUp (g : Engine) : Engine := { g with warming := false, warmed := true, bucketAt := BitVec.ofNat 64 g.warmEnd - 1 }

/-- The end of warming in the registers. -/
def State.warmEndShown (s : State) (e : Fin 2) (max : Nat) (h : U64) : State :=
  (((s.setReg (LSS_BUCKET + lssOff e) (BitVec.ofNat 32 max)).setFlag (LSS_STAT_WARM_DONE.on (lssOff e)) true).setReg64 (LSS_WARM_END_LO + lssOff e) h).showEngine e 2

theorem State.endWarming_eq (e : Fin 2) {p : PhaseProg} (hp : s.phase? = some p) :
    s.endWarming e = ((s.setEng e (s.eng[e] : Engine).warmedUp).warmEndShown e p.ph.bucketMax (BitVec.ofNat 64 (s.eng[e] : Engine).warmEnd)).writeEventAt 0x0402
      (BitVec.ofNat 64 (s.eng[e] : Engine).warmEnd) 0 [e] := by
  unfold State.endWarming
  rw [hp]
  rfl

theorem warmEndRegs_apart : ∀ e : Fin 2, LSS_BUCKET + lssOff e ≠ LSS_STAT + lssOff e ∧ LSS_WARM_END_LO + lssOff e ≠ LSS_STAT + lssOff e ∧
    LSS_WARM_END_LO + lssOff e + 4 ≠ LSS_STAT + lssOff e ∧ LSS_STAT + lssOff e ≠ LSS_WARM_END_LO + lssOff e ∧
    LSS_STAT + lssOff e ≠ LSS_WARM_END_LO + lssOff e + 4 ∧ LSS_BUCKET + lssOff e ≠ LSS_WARM_END_LO + lssOff e ∧
    LSS_BUCKET + lssOff e ≠ LSS_WARM_END_LO + lssOff e + 4 := by decide

theorem State.warmEndShown_shows (e : Fin 2) (max : Nat) (h : U64) :
    (s.warmEndShown e max h).reg (LSS_BUCKET + lssOff e) = BitVec.ofNat 32 max ∧
    (s.warmEndShown e max h).flag (LSS_STAT_WARM_DONE.on (lssOff e)) = true ∧ (s.warmEndShown e max h).reg64 (LSS_WARM_END_LO + lssOff e) = h ∧
    Framed [.regs] (warmEndRegs e) s (s.warmEndShown e max h) := by
  obtain ⟨hb, hl, hh, hsl, hsh, hbl, hbh⟩ := warmEndRegs_apart e
  have hshow := fun u : State => (State.showEngine_framed (s := u) e 2).2
  unfold State.warmEndShown
  refine ⟨?_, ?_, ?_, ?_⟩
  · rw [hshow _ _ (by simpa using hb), State.reg_setReg64_ne _ _ hbl hbh, State.reg_setFlag_ne _ _ hb, State.reg_setReg]
  · have hkeep : ∀ u : State, (u.showEngine e 2).flag (LSS_STAT_WARM_DONE.on (lssOff e)) = u.flag (LSS_STAT_WARM_DONE.on (lssOff e)) := by
      intro u
      unfold State.showEngine
      split
      · exact State.flag_setFld_apart _ _ (.inr ⟨.inr (by decide : (0 : Nat) + 1 ≤ 24), (by decide : (0 : Nat) + 1 ≤ 32)⟩)
      · exact State.flag_setFld_apart _ _ (.inr ⟨.inr (by decide : (0 : Nat) + 1 ≤ 24), (by decide : (0 : Nat) + 1 ≤ 32)⟩)
    rw [hkeep, State.flag_of_reg (State.reg_setReg64_ne _ _ hsl hsh), State.flag_setFlag _ _ _ (by decide : (0 : Nat) + 1 ≤ 32) rfl]
  · exact (State.reg64_of_reg (hshow _ _ (by simpa using hl)) (hshow _ _ (by simpa using hh))).trans (State.reg64_setReg64 _ _ _)
  · refine Framed.trans ((((Framed.refl _ _ s).setReg (by decide) ?_ _).setFlag (by decide) (f := LSS_STAT_WARM_DONE.on (lssOff e)) ?_ true).setReg64
      (by decide) ?_ ?_ h) ((State.showEngine_framed e 2).mono (by decide) ?_)
    · simp [warmEndRegs]
    · exact List.mem_cons_of_mem _ List.mem_cons_self
    · simp [warmEndRegs]
    · simp [warmEndRegs]
    · simp [warmEndRegs]

theorem State.endWarming_shows (e : Fin 2) {p : PhaseProg} (hp : s.phase? = some p) :
    ((s.endWarming e).eng[e] : Engine) = (s.eng[e] : Engine).warmedUp ∧
    (s.endWarming e).reg (LSS_BUCKET + lssOff e) = BitVec.ofNat 32 p.ph.bucketMax ∧ (s.endWarming e).flag (LSS_STAT_WARM_DONE.on (lssOff e)) = true ∧
    (s.endWarming e).reg64 (LSS_WARM_END_LO + lssOff e) = BitVec.ofNat 64 (s.eng[e] : Engine).warmEnd ∧
    (s.canNumber = true → (s.endWarming e).lastEvent = some (0x0402, [e.val])) ∧ Framed [.regs, .eng, .aug] (warmEndRegs e) s (s.endWarming e) := by
  rw [State.endWarming_eq e hp]
  have hset : Framed [.regs, .eng, .aug] (warmEndRegs e) s (s.setEng e (s.eng[e] : Engine).warmedUp) := (Framed.refl _ _ s).setEng (by decide) e _
  have heng := State.eng_setEng s e (s.eng[e] : Engine).warmedUp
  have hcan : (s.setEng e (s.eng[e] : Engine).warmedUp).canNumber = s.canNumber := rfl
  generalize s.setEng e (s.eng[e] : Engine).warmedUp = u at hset heng hcan ⊢
  obtain ⟨hbucket, hdone, hend, hfr⟩ := State.warmEndShown_shows (s := u) e p.ph.bucketMax (BitVec.ofNat 64 (s.eng[e] : Engine).warmEnd)
  generalize u.warmEndShown e p.ph.bucketMax (BitVec.ofNat 64 (s.eng[e] : Engine).warmEnd) = v at hbucket hdone hend hfr ⊢
  have hreg : ∀ a ∈ [LSS_BUCKET, LSS_STAT, LSS_WARM_END_LO, LSS_WARM_END_LO + 4, LSS_CKPT_STAT, LSS_CKPT_LO, LSS_CKPT_LO + 4],
      (v.writeEventAt 0x0402 (BitVec.ofNat 64 (s.eng[e] : Engine).warmEnd) 0 [e]).reg (a + lssOff e) = v.reg (a + lssOff e) :=
    fun a ha => v.writeEventAt_reg _ _ _ _ (engineReg_apart e ha).1 (engineReg_apart e ha).2.1
  refine ⟨?_, ?_, ?_, ?_, fun hn => ?_, ?_⟩
  · rw [(v.writeEventAt_only _ _ _ _) .eng (by decide), hfr.1 .eng (by decide), heng]
  · rw [hreg LSS_BUCKET (by decide), hbucket]
  · exact (State.flag_of_reg (f := LSS_STAT_WARM_DONE.on (lssOff e)) (hreg LSS_STAT (by decide))).trans hdone
  · have hhigh : LSS_WARM_END_LO + lssOff e + 4 = LSS_WARM_END_LO + 4 + lssOff e := by omega
    exact (State.reg64_of_reg (hreg LSS_WARM_END_LO (by decide)) (by rw [hhigh]; exact hreg (LSS_WARM_END_LO + 4) (by decide))).trans hend
  · exact State.writeEventAt_last _ _ _ _ _ ((hfr.canNumber (by decide)).trans (hcan.trans hn))
  · exact (hset.trans (hfr.mono (by decide) (List.Subset.refl _))).writeEventAt (by decide) (by simp [warmEndRegs]) _ _ _ _

/-! Admission changes an engine, its counters and its bucket -/

/-- Registers that admission changes. -/
def admitRegs (e : Fin 2) : List Nat :=
  [LSS_BUCKET + lssOff e, LSS_ADMIT_CNT + lssOff e, LSS_INFLIGHT_MAX + lssOff e, LSS_SHED_CNT + lssOff e, LSS_STAT + lssOff e]

/-- What admission leaves as it is. -/
abbrev Admits (e : Fin 2) (s t : State) : Prop := Framed [.regs, .fast, .eng, .free] (admitRegs e) s t

theorem State.admitOne_admits (e : Fin 2) (p : PhaseProg) (f : Frame) : Admits e s (s.admitOne e p f) := by
  have hset : ∀ {u : State} (g : Engine), Admits e s u → Admits e s (u.setEng e g) := fun g h => h.setEng (by decide) e g
  have hdraw : Admits e s s.drawNat.2 := (Keeps.drawNat (.refl [.free] s) rfl).framed_of_regs rfl |>.mono (by decide) (by simp)
  have hin : ∀ {u : State} (q : Query) (n : Nat), Admits e s u →
      Admits e s ((((u.bump (LSS_ADMIT_CNT + lssOff e)).raiseFld ⟨LSS_INFLIGHT_MAX + lssOff e, 0, 11⟩ n).scanQuery e p q).updFrame f.layoutBed f.slot f.hzn
        (fun x => { x with admitted := true })) := by
    intro u q n h
    have hr : Admits e s ((u.bump (LSS_ADMIT_CNT + lssOff e)).raiseFld ⟨LSS_INFLIGHT_MAX + lssOff e, 0, 11⟩ n) :=
      (h.bump (by decide) (by simp [admitRegs])).setFld (by decide) (by simp [admitRegs]) _
    exact hr.trans (((Keeps.updFrame (.scanQuery (.refl [.eng, .fast] _) rfl _ _ _) rfl _ _ _ _).framed_of_regs rfl).mono (by decide) (by simp))
  have hout : ∀ {u : State}, Admits e s u → Admits e s ((u.bump (LSS_SHED_CNT + lssOff e)).setFlag (LSS_STAT_SHED.on (lssOff e)) true) := by
    intro u h
    refine (h.bump (by decide) (by simp [admitRegs])).setFlag (by decide) (f := LSS_STAT_SHED.on (lssOff e)) ?_ true
    show LSS_STAT + lssOff e ∈ admitRegs e
    simp [admitRegs]
  unfold State.admitOne
  split
  · exact .refl _ _ s
  · extract_lets g cost bucket now room r u q v w n x
    split
    · exact .refl _ _ s
    · have hr : Admits e s r.2 := by
        unfold r
        split
        · exact hdraw
        · exact .refl _ _ s
      have hv : Admits e s v := hset _ hr
      split
      · refine hin _ _ ?_
        unfold w
        split
        · exact hv
        · exact hv.setReg (by decide) (by simp [admitRegs]) _
      · exact hout hv

theorem State.admitTick_admits (e : Fin 2) (h : U64) : Admits e s (s.admitTick e h) := by
  unfold State.admitTick
  split
  · exact .refl _ _ s
  · next p _ =>
    extract_lets u g a v w fs
    have hu : Admits e s u := ((Keeps.takeBucket (.refl [.eng] s) rfl _ _ _).framed_of_regs rfl).mono (by decide) (by simp)
    have hw : Admits e s w := (hu.setReg (by decide) (by simp [admitRegs, a]) _).setEng (by decide) e _
    exact hw.trans (Framed.foldl (fun x f => State.admitOne_admits e p f) _ _)

theorem State.admitUpTo_admits (e : Fin 2) (h : U64) : Admits e s (s.admitUpTo e h) :=
  Framed.foldl (fun _ _ => State.admitTick_admits e _) _ _

/-! Reset -/

/-- A checkpoint that assembles is abandoned (R264). -/
def State.abandonAssembling (s : State) (e : Fin 2) : State :=
  match (s.eng[e] : Engine).assembling with
  | some a => ((s.setEng e { s.eng[e] with assembling := none }).setFld (LSS_CKPT_STAT_STATE.on (lssOff e)) 0).writeEvent 0x040B [e, a.hzn.toNat]
  | none => s

/-- An engine whose banks are cleared and whose answers are discarded. -/
def Engine.discarded (g : Engine) : Engine :=
  { g with
    silt := [], siltCleared := true, filled := [], scanFailed := []
    queries := g.queries.map (fun (q : Query) => if q.shed then q else { q with discarded := true, answer := none })
    groups := g.groups.map (fun x => (x.1, { x.2 with lost := x.2.lost ++ x.2.openBufs.map Prod.fst, openBufs := [] })) }

/-- The engine as a reset leaves it before its restart horizon is announced. -/
def State.engineDiscarded (s : State) (e : Fin 2) : State :=
  let t := ((s.admitUpTo e s.count).abandonAssembling e).flushLate e
  t.setEng e (t.eng[e] : Engine).discarded

theorem State.resetEngine_eq (e : Fin 2) (hr : (s.eng[e] : Engine).running = true) : s.resetEngine e = (s.engineDiscarded e).announceRestart e := by
  unfold State.resetEngine
  rw [if_pos hr]
  rfl

theorem degradedEngine_kept : ∀ e : Fin 2, FLT_DEGRADED ∉ admitRegs e ++ [LSS_CKPT_STAT + lssOff e, AUG_RATE, AUG_STAT] := by decide

/-- What a reset leaves as it is until its restart horizon is announced. -/
abbrev ResetsTo (s t : State) : Prop := ∃ R : List Nat, FLT_DEGRADED ∉ R ∧ Framed [.regs, .fast, .eng, .aug, .free] R s t

theorem State.abandonAssembling_framed (e : Fin 2) :
    Framed [.regs, .eng, .aug] [LSS_CKPT_STAT + lssOff e, AUG_RATE, AUG_STAT] s (s.abandonAssembling e) := by
  unfold State.abandonAssembling
  split
  · exact (((Framed.refl _ _ s).setEng (by decide) e _).setFld (by decide) (f := LSS_CKPT_STAT_STATE.on (lssOff e)) List.mem_cons_self 0).writeEvent
      (by decide) (by simp) _ _
  · exact .refl _ _ s

theorem State.abandonAssembling_canNumber (e : Fin 2) : (s.abandonAssembling e).canNumber = s.canNumber := by
  unfold State.abandonAssembling
  split
  · exact State.writeEventAt_canNumber _ _ _ _ _
  · rfl

theorem State.abandonAssembling_none (e : Fin 2) : ((s.abandonAssembling e).eng[e] : Engine).assembling = none := by
  unfold State.abandonAssembling
  split
  · rw [(State.writeEvent_only _ _ _) .eng (by decide), State.setFld_eng, State.eng_setEng]
  · assumption

theorem State.flushLate_framed (e : Fin 2) : Framed [.regs, .eng, .aug] [AUG_RATE, AUG_STAT] s (s.flushLate e) := by
  unfold State.flushLate
  dsimp only
  split
  · exact .refl _ _ s
  · exact ((Framed.refl _ _ s).setEngs (by decide) _).writeEventAt (by decide) (by simp) _ _ _ _

theorem State.flushLate_canNumber (e : Fin 2) : (s.flushLate e).canNumber = s.canNumber := by
  unfold State.flushLate
  dsimp only
  split
  · rfl
  · exact State.writeEventAt_canNumber _ _ _ _ _

theorem State.flushLate_assembling (e : Fin 2) : ((s.flushLate e).eng[e] : Engine).assembling = (s.eng[e] : Engine).assembling := by
  unfold State.flushLate
  dsimp only
  split
  · rfl
  · rw [(State.writeEventAt_only _ _ _ _ _) .eng (by decide)]
    exact (congrArg Engine.assembling (State.eng_setEng s e { (s.eng[e] : Engine) with lateTick := none })).trans rfl

theorem State.engineDiscarded_shows (e : Fin 2) : ResetsTo s (s.engineDiscarded e) ∧ (s.engineDiscarded e).canNumber = s.canNumber ∧
    ((s.engineDiscarded e).eng[e] : Engine).assembling = none ∧ ((s.engineDiscarded e).eng[e] : Engine).silt = [] ∧
    (∀ q, q ∈ ((s.engineDiscarded e).eng[e] : Engine).queries → q.shed = true ∨ q.discarded = true ∧ q.answer = none) := by
  have hadmit : Admits e s (s.admitUpTo e s.count) := State.admitUpTo_admits e _
  have hcan := hadmit.canNumber (by decide)
  have habandon := State.abandonAssembling_framed (s := s.admitUpTo e s.count) e
  have hflush := State.flushLate_framed (s := (s.admitUpTo e s.count).abandonAssembling e) e
  have hframe : Framed [.regs, .fast, .eng, .aug, .free] (admitRegs e ++ [LSS_CKPT_STAT + lssOff e, AUG_RATE, AUG_STAT]) s
      (((s.admitUpTo e s.count).abandonAssembling e).flushLate e) :=
    ((hadmit.mono (by decide) (List.subset_append_left _ _)).trans (habandon.mono (by decide) (List.subset_append_right _ _))).trans
      (hflush.mono (by decide) (by simp))
  have hnum : (((s.admitUpTo e s.count).abandonAssembling e).flushLate e).canNumber = s.canNumber :=
    (State.flushLate_canNumber e).trans ((State.abandonAssembling_canNumber e).trans hcan)
  have hnone : ((((s.admitUpTo e s.count).abandonAssembling e).flushLate e).eng[e] : Engine).assembling = none :=
    (State.flushLate_assembling e).trans (State.abandonAssembling_none e)
  unfold State.engineDiscarded
  dsimp only
  generalize ((s.admitUpTo e s.count).abandonAssembling e).flushLate e = u at hframe hnum hnone ⊢
  refine ⟨⟨_, ?_, hframe.setEng (by decide) e _⟩, hnum, ?_, ?_, ?_⟩
  · exact degradedEngine_kept e
  · rw [State.eng_setEng]
    exact hnone
  · rw [State.eng_setEng]
    rfl
  · rw [State.eng_setEng]
    intro q hq
    obtain ⟨x, -, rfl⟩ := List.mem_map.1 hq
    cases hx : x.shed with
    | true => exact .inl (by rw [if_pos rfl]; exact hx)
    | false => exact .inr (by rw [if_neg Bool.false_ne_true]; exact ⟨rfl, rfl⟩)

theorem State.announceRestart_shows (e : Fin 2) : ((s.announceRestart e).eng[e] : Engine) =
      { (s.eng[e] : Engine).startAt s.restartHorizon with running := true, warmW := (s.reg (LSS_WARM + lssOff e)).toNat } ∧
    (s.announceRestart e).fld (LSS_STAT_STATE.on (lssOff e)) = (if s.flag (degradedEngine e) then 3 else 4) ∧
    (s.canNumber = true → (s.announceRestart e).lastEvent = some (0x0401, [e.val])) := by
  unfold State.announceRestart
  dsimp only
  generalize hu : (s.addStart e s.restartHorizon).setEng e _ = u
  have heng : (u.eng[e] : Engine) = { (s.eng[e] : Engine).startAt s.restartHorizon with running := true, warmW := (s.reg (LSS_WARM + lssOff e)).toNat } := by
    rw [← hu, State.eng_setEng]
    rfl
  have hflag : u.flag (degradedEngine e) = s.flag (degradedEngine e) := by rw [← hu]; rfl
  have hcan : u.canNumber = s.canNumber := by rw [← hu]; rfl
  clear hu
  refine ⟨?_, ?_, fun hn => ?_⟩
  · rw [(State.writeEventAt_only _ _ _ _ _) .eng (by decide), (State.showEngine_framed e 4).1 .eng (by decide), heng]
  · obtain ⟨hrate, hstat, -⟩ := engineReg_apart e (a := LSS_STAT) (by decide)
    rw [State.fld_of_reg (f := LSS_STAT_STATE.on (lssOff e)) (State.writeEventAt_reg _ _ _ _ _ hrate hstat), State.showEngine_fld e (by decide), hflag]
  · exact State.writeEventAt_last _ _ _ _ _ (((State.showEngine_framed e 4).canNumber (by decide)).trans (hcan.trans hn))

end

/-- Settles O38: each step of an engine's life by the lemma about what it leaves. -/
theorem enginesWarmAndReset : Obligations.EnginesWarmAndReset := by
  refine ⟨?start, ?ended, ?reset, ?idle⟩
  case start =>
    intro e c s hr hw hd hs hc
    refine ⟨_, exec_warmingStart hr hw hd hs hc, ?_, ?_, ?_⟩
    · rw [(State.showEngine_framed e 1).1 .eng (by decide), State.eng_setEng]
    · rw [State.showEngine_fld e (by decide)]
      rfl
    · exact ((Framed.refl _ _ s).setEng (by decide) e _).trans ((State.showEngine_framed e 1).mono (by decide) (List.Subset.refl _))
  case ended =>
    intro e p s hr hw hd hp
    obtain ⟨heng, hbucket, hdone, hend, hev, hfr⟩ := State.endWarming_shows e hp
    exact ⟨_, exec_warmingEnd hr hw hd, by rw [heng]; rfl, by rw [heng]; rfl, hbucket, hdone, hend, hev, hfr⟩
  case reset =>
    intro p e s ho hr
    have hrun : ((s.seen p).eng[e] : Engine).running = true := by rw [(s.seen_framed p).1 .eng (by decide)]; exact hr
    refine ⟨_, congrArg Host.Outcome.next (State.via_of_opens ho fun u => u.resetEngine e), ?_⟩
    rw [State.resetEngine_eq e hrun]
    obtain ⟨⟨R, hR, hfr⟩, hcan, hnone, hsilt, hq⟩ := State.engineDiscarded_shows (s := s.seen p) e
    obtain ⟨heng, hfld, hev⟩ := State.announceRestart_shows (s := (s.seen p).engineDiscarded e) e
    have hhzn : ((s.seen p).engineDiscarded e).restartHorizon = s.restartHorizon := by
      unfold State.restartHorizon
      rw [hfr.count (by decide), s.seen_count p]
    have hdeg : ((s.seen p).engineDiscarded e).flag (degradedEngine e) = s.flag (degradedEngine e) :=
      (State.flag_of_reg (hfr.2 _ hR)).trans (s.seen_flag p (by show FLT_DEGRADED ∉ _; decide))
    generalize (s.seen p).engineDiscarded e = u at hnone hsilt hq heng hfld hev hhzn hdeg hcan ⊢
    rw [heng, hfld, hdeg, hhzn]
    exact ⟨rfl, rfl, hsilt, rfl, hnone, hq, rfl, fun hn => hev (hcan.trans ((s.seen_canNumber p).trans hn))⟩
  case idle =>
    intro p e s ho hr
    have heng : (s.seen p).eng = s.eng := (s.seen_framed p).1 .eng (by decide)
    refine congrArg Host.Outcome.next ((State.via_of_opens ho fun u => u.resetEngine e).trans ?_)
    unfold State.resetEngine
    rw [heng, if_neg (by rw [hr]; exact Bool.false_ne_true)]

end Sys2Proof.Machine

/-! Checkpoints (R264, R265). -/
namespace Sys2Proof.Machine

section
variable {s : State}

/-! Transactions that are queued change the channels of their engine only -/

/-- Nothing of an engine but its channels differs. -/
def Engine.ChannelsOnly (g h : Engine) : Prop := ∃ c, h = { g with chans := c }

theorem Engine.ChannelsOnly.trans {g h k : Engine} (x : g.ChannelsOnly h) (y : h.ChannelsOnly k) : g.ChannelsOnly k := by
  obtain ⟨c, rfl⟩ := x
  obtain ⟨d, rfl⟩ := y
  exact ⟨d, rfl⟩

theorem State.queueTx_channels (e : Fin 2) (cls block : Nat) (item : TxItem) :
    (s.eng[e] : Engine).ChannelsOnly ((s.queueTx e cls block item).eng[e] : Engine) := ⟨_, by unfold State.queueTx; rw [State.eng_setEng]⟩

theorem State.queueBlocks_channels (e : Fin 2) (cls : Nat) (blocks : List Nat) (item : TxItem) :
    (s.eng[e] : Engine).ChannelsOnly ((s.queueBlocks e cls blocks item).eng[e] : Engine) := by
  unfold State.queueBlocks
  induction blocks generalizing s with
  | nil => exact ⟨_, rfl⟩
  | cons b bs ih => exact (State.queueTx_channels e cls b item).trans ih

theorem State.queueBlocks_framed (e : Fin 2) (cls : Nat) (blocks : List Nat) (item : TxItem) : Framed [.eng] [] s (s.queueBlocks e cls blocks item) :=
  (Keeps.queueBlocks (.refl [.eng] s) rfl _ _ _ _).framed_of_regs rfl

/-! Staging -/

/-- A staged object in its engine, and STAGED. -/
def State.stagedShown (s : State) (e : Fin 2) (x : Staged) : State :=
  (s.setEng e { (s.eng[e] : Engine) with staged := (s.eng[e] : Engine).staged ++ [x] }).showStaged e

theorem State.stage_eq (e : Fin 2) (x : Staged) : s.stage e x =
    if ((s.queueBlocks e 5 (stagingBlocks (s.eng[e] : Engine).staged.length x.bytes.length) .store).stagedShown e x).flag (LSS_CTL_CKPT_EXPORT.on (lssOff e))
    then ((s.queueBlocks e 5 (stagingBlocks (s.eng[e] : Engine).staged.length x.bytes.length) .store).stagedShown e x).exportStaged e x
    else (s.queueBlocks e 5 (stagingBlocks (s.eng[e] : Engine).staged.length x.bytes.length) .store).stagedShown e x := rfl

theorem State.stagedShown_framed (e : Fin 2) (x : Staged) : Framed [.regs, .eng, .hst] [LSS_CKPT_STAT + lssOff e] s (s.stagedShown e x) :=
  ((Framed.refl _ _ s).setEng (by decide) e _).setFld (by decide) (f := LSS_CKPT_STAT_STAGED.on (lssOff e)) List.mem_cons_self _

theorem State.exportStaged_framed (e : Fin 2) (x : Staged) : Framed [.eng, .hst] [] s (s.exportStaged e x) :=
  (Keeps.exportStaged (.refl [.eng, .hst] s) rfl _ _).framed_of_regs rfl

theorem State.exportStaged_channels (e : Fin 2) (x : Staged) : (s.eng[e] : Engine).ChannelsOnly ((s.exportStaged e x).eng[e] : Engine) := by
  unfold State.exportStaged State.queueBulk
  exact State.queueBlocks_channels e _ _ _

theorem State.stage_framed (e : Fin 2) (x : Staged) : Framed [.regs, .eng, .hst] [LSS_CKPT_STAT + lssOff e] s (s.stage e x) := by
  have h : Framed [.regs, .eng, .hst] [LSS_CKPT_STAT + lssOff e] s
      ((s.queueBlocks e 5 (stagingBlocks (s.eng[e] : Engine).staged.length x.bytes.length) .store).stagedShown e x) :=
    ((State.queueBlocks_framed e _ _ _).mono (by decide) (by simp)).trans (State.stagedShown_framed e x)
  rw [State.stage_eq]
  split
  · exact h.trans ((State.exportStaged_framed e x).mono (by decide) (by simp))
  · exact h

/-- The state field of the checkpoint stands while STAGED moves. -/
theorem State.stage_fld (e : Fin 2) (x : Staged) : (s.stage e x).fld (LSS_CKPT_STAT_STATE.on (lssOff e)) = s.fld (LSS_CKPT_STAT_STATE.on (lssOff e)) := by
  have h : ∀ u : State, (u.stagedShown e x).fld (LSS_CKPT_STAT_STATE.on (lssOff e)) = u.fld (LSS_CKPT_STAT_STATE.on (lssOff e)) := by
    intro u
    exact (State.fld_setFld_apart (f := LSS_CKPT_STAT_STAGED.on (lssOff e)) _ _
      (.inr ⟨.inr (by decide : (0 : Nat) + 4 ≤ 4), (by decide : (0 : Nat) + 4 ≤ 32)⟩)).trans rfl
  have hq := State.fld_of_reg (f := LSS_CKPT_STAT_STATE.on (lssOff e))
    ((State.queueBlocks_framed (s := s) e 5 (stagingBlocks (s.eng[e] : Engine).staged.length x.bytes.length) .store).2 _ List.not_mem_nil)
  rw [State.stage_eq]
  split
  · exact (State.fld_of_reg ((State.exportStaged_framed e x).2 _ List.not_mem_nil)).trans ((h _).trans hq)
  · exact (h _).trans hq

theorem State.stage_assembling (e : Fin 2) (x : Staged) : ((s.stage e x).eng[e] : Engine).assembling = (s.eng[e] : Engine).assembling := by
  have h : ∀ u : State, ((u.stagedShown e x).eng[e] : Engine).assembling = (u.eng[e] : Engine).assembling := by
    intro u
    unfold State.stagedShown State.showStaged
    rw [State.setFld_eng, State.eng_setEng]
  obtain ⟨c, hc⟩ := State.queueBlocks_channels (s := s) e 5 (stagingBlocks (s.eng[e] : Engine).staged.length x.bytes.length) .store
  have hq := (h (s.queueBlocks e 5 (stagingBlocks (s.eng[e] : Engine).staged.length x.bytes.length) .store)).trans (congrArg Engine.assembling hc)
  rw [State.stage_eq]
  split
  · obtain ⟨d, hd⟩ := State.exportStaged_channels (s := (s.queueBlocks e 5 (stagingBlocks (s.eng[e] : Engine).staged.length x.bytes.length) .store).stagedShown e x) e x
    exact (congrArg Engine.assembling hd).trans hq
  · exact hq

/-! A checkpoint begins -/

theorem exec_checkpointHorizon {e : Fin 2} {c : U64} (hr : (s.eng[e] : Engine).running = true) (hs : (s.eng[e] : Engine).start = some c)
    (hc : c.toNat ≤ s.count.toNat) (hz : lowZero 24 s.count = true) (ha : (s.eng[e] : Engine).assembling = none)
    (hl : s.reg64 (LSS_CKPT_LO + lssOff e) ≠ s.count) : exec (.checkpointHorizon e) s = .next (s.startCheckpoint e) :=
  congrArg Host.Outcome.next (if_pos (by rw [hr, hs, hz, ha]; simpa using ⟨hc, hl⟩))

/-- The engine at a checkpoint horizon: a change of SLOW_MIRROR takes effect (R266). -/
def State.atCheckpoint (s : State) (e : Fin 2) : Engine :=
  { s.eng[e] with slowMirror := s.flag (LSS_CTL_SLOW_MIRROR.on (lssOff e)), looseSinceCkpt := s.mod.loose }

theorem State.startCheckpoint_begun (e : Fin 2) (h : (s.eng[e] : Engine).staged.length < 4) :
    ((s.startCheckpoint e).eng[e] : Engine).assembling.map Assembling.hzn = some s.count ∧
    (s.startCheckpoint e).fld (LSS_CKPT_STAT_STATE.on (lssOff e)) = 1 ∧ Framed [.regs, .eng] [LSS_CKPT_STAT + lssOff e] s (s.startCheckpoint e) := by
  have hset : ((s.setEng e (s.atCheckpoint e)).eng[e] : Engine) = s.atCheckpoint e := s.eng_setEng e _
  have hneg : ¬ 4 ≤ ((s.setEng e (s.atCheckpoint e)).eng[e] : Engine).staged.length := by
    rw [hset]
    exact Nat.not_le.2 h
  rw [show s.startCheckpoint e = _ from if_neg hneg]
  refine ⟨?_, (State.fld_setFld _ _ _ (by decide : (0 : Nat) + 4 ≤ 32)).trans rfl, ?_⟩
  · rw [State.setFld_eng, State.eng_setEng]
    rfl
  · exact (((Framed.refl _ _ s).setEng (by decide) e _).setEng (by decide) e _).setFld (by decide) (f := LSS_CKPT_STAT_STATE.on (lssOff e))
      List.mem_cons_self 1

theorem State.startCheckpoint_skipped (e : Fin 2) (h : ¬ (s.eng[e] : Engine).staged.length < 4) :
    ((s.startCheckpoint e).eng[e] : Engine).assembling = (s.eng[e] : Engine).assembling ∧
    (s.startCheckpoint e).fld (LSS_CKPT_STAT_STATE.on (lssOff e)) = 4 ∧
    (s.canNumber = true → (s.startCheckpoint e).lastEvent = some (0x0406, [e.val, s.count.toNat])) := by
  have hset : ((s.setEng e (s.atCheckpoint e)).eng[e] : Engine) = s.atCheckpoint e := s.eng_setEng e _
  have hpos : 4 ≤ ((s.setEng e (s.atCheckpoint e)).eng[e] : Engine).staged.length := by
    rw [hset]
    exact Nat.not_lt.1 h
  rw [show s.startCheckpoint e = _ from if_pos hpos]
  obtain ⟨hrate, hstat, -⟩ := engineReg_apart e (a := LSS_CKPT_STAT) (by decide)
  refine ⟨?_, ?_, fun hn => State.writeEventAt_last _ _ _ _ _ hn⟩
  · rw [(State.writeEventAt_only _ _ _ _ _) .eng (by decide), State.setFld_eng]
    exact (congrArg Engine.assembling hset).trans rfl
  · rw [State.fld_of_reg (f := LSS_CKPT_STAT_STATE.on (lssOff e)) (State.writeEventAt_reg _ _ _ _ _ hrate hstat),
      State.fld_setFld _ _ _ (by decide : (0 : Nat) + 4 ≤ 32)]
    rfl

/-! A checkpoint is complete -/

theorem exec_checkpointComplete {e : Fin 2} {a : Assembling} {p : PhaseProg} (hr : (s.eng[e] : Engine).running = true)
    (ha : (s.eng[e] : Engine).assembling = some a) (hp : s.phase? = some p)
    (hd : (p.loess e).streams.all (fun d => a.ready.contains d.ring) = true) : exec (.checkpointComplete e) s = .next (s.completeCheckpoint e p a) := by
  show Host.Outcome.next (match (s.eng[e] : Engine).assembling, s.phase? with | some a, some p => _ | _, _ => _) = _
  rw [ha, hp]
  exact congrArg Host.Outcome.next (if_pos (by rw [hr, hd]; rfl))

/-- The checkpoint leaves the assembly: DONE and its horizon in the registers. -/
def State.checkpointLeft (s : State) (e : Fin 2) (h : U64) : State :=
  ((s.setEng e { (s.eng[e] : Engine) with assembling := none }).setFld (LSS_CKPT_STAT_STATE.on (lssOff e)) 2).setReg64 (LSS_CKPT_LO + lssOff e) h

/-- A checkpoint that is complete: its bytes in the staging and its digest in the records. -/
def State.checkpointTaken (s : State) (e : Fin 2) (h : U64) (x : Staged) : State :=
  ((s.checkpointLeft e h).stage e x).writePair 0x0405 h 0 e x.digest

theorem ckptRegs_apart : ∀ e : Fin 2, LSS_CKPT_STAT + lssOff e ≠ LSS_CKPT_LO + lssOff e ∧ LSS_CKPT_STAT + lssOff e ≠ LSS_CKPT_LO + lssOff e + 4 ∧
    LSS_CKPT_LO + lssOff e ≠ RNG_LCK_STAT ∧ LSS_CKPT_LO + lssOff e + 4 ≠ RNG_LCK_STAT ∧ LSS_CKPT_STAT + lssOff e ≠ RNG_LCK_STAT ∧
    LSS_CKPT_LO + lssOff e ∉ [RNG_LCK_SNAP_LO, RNG_LCK_SNAP_LO + 4] ∧ LSS_CKPT_LO + lssOff e + 4 ∉ [RNG_LCK_SNAP_LO, RNG_LCK_SNAP_LO + 4] ∧
    LSS_CKPT_STAT + lssOff e ∉ [RNG_LCK_SNAP_LO, RNG_LCK_SNAP_LO + 4] := by decide

theorem State.checkpointTaken_shows (e : Fin 2) (h : U64) (x : Staged) :
    ((s.checkpointTaken e h x).eng[e] : Engine).assembling = none ∧
    ((s.checkpointTaken e h x).eng[e] : Engine).staged = (s.eng[e] : Engine).staged ++ [x] ∧
    (s.checkpointTaken e h x).reg64 (LSS_CKPT_LO + lssOff e) = h ∧ (s.checkpointTaken e h x).fld (LSS_CKPT_STAT_STATE.on (lssOff e)) = 2 ∧
    (s.checkpointTaken e h x).lck = s.lck ∧ (s.canNumber = true → (s.checkpointTaken e h x).lastEvent = some (0x0405, [e.val])) := by
  obtain ⟨hsl, hsh, -⟩ := ckptRegs_apart e
  have heng : ((s.checkpointLeft e h).eng[e] : Engine) = { (s.eng[e] : Engine) with assembling := none } := s.eng_setEng e _
  have hfld : (s.checkpointLeft e h).fld (LSS_CKPT_STAT_STATE.on (lssOff e)) = 2 :=
    (State.fld_of_reg (State.reg_setReg64_ne _ _ hsl hsh)).trans ((State.fld_setFld _ _ _ (by decide : (0 : Nat) + 4 ≤ 32)).trans rfl)
  have hreg : (s.checkpointLeft e h).reg64 (LSS_CKPT_LO + lssOff e) = h := State.reg64_setReg64 _ _ _
  have hlck : (s.checkpointLeft e h).lck = s.lck := rfl
  have hcan : (s.checkpointLeft e h).canNumber = s.canNumber := rfl
  unfold State.checkpointTaken
  generalize s.checkpointLeft e h = u at heng hfld hreg hlck hcan ⊢
  have hpair : ∀ a, a ≠ AUG_RATE → a ≠ AUG_STAT → ((u.stage e x).writePair 0x0405 h 0 e x.digest).reg a = (u.stage e x).reg a :=
    fun a h1 h2 => (u.stage e x).writePair_reg _ _ _ _ _ h1 h2
  have hpe : ((u.stage e x).writePair 0x0405 h 0 e x.digest).eng = (u.stage e x).eng := (State.writePair_framed _ _ _ _ _ _).1 .eng (by decide)
  have hst := State.stage_framed (s := u) e x
  have hlo := engineReg_apart e (a := LSS_CKPT_LO) (by decide)
  have hhi := engineReg_apart e (a := LSS_CKPT_LO + 4) (by decide)
  have hs := engineReg_apart e (a := LSS_CKPT_STAT) (by decide)
  refine ⟨?_, ?_, ?_, ?_, ?_, fun hn => ?_⟩
  · rw [hpe, State.stage_assembling, heng]
  · rw [hpe, State.stage_staged, heng]
  · have h4 : LSS_CKPT_LO + 4 + lssOff e = LSS_CKPT_LO + lssOff e + 4 := by omega
    rw [h4] at hhi
    refine (State.reg64_of_reg ?_ ?_).trans hreg
    · exact (hpair _ hlo.1 hlo.2.1).trans (hst.2 _ (by simpa using hsl.symm))
    · exact (hpair _ hhi.1 hhi.2.1).trans (hst.2 _ (by simpa using hsh.symm))
  · exact (State.fld_of_reg (hpair _ hs.1 hs.2.1)).trans ((State.stage_fld e x).trans hfld)
  · exact ((State.writePair_framed _ _ _ _ _ _).1 .lck (by decide)).trans ((hst.1 .lck (by decide)).trans hlck)
  · exact State.writePair_last _ _ _ _ _ _ ((hst.canNumber (by decide)).trans (hcan.trans hn))

theorem State.takeBucket_shows (e : Fin 2) (p : Phase) (t : Nat) : ((s.takeBucket e p t).eng[e] : Engine).staged = (s.eng[e] : Engine).staged ∧
    Framed [.eng] [] s (s.takeBucket e p t) := by
  refine ⟨?_, (Keeps.takeBucket (.refl [.eng] s) rfl _ _ _).framed_of_regs rfl⟩
  unfold State.takeBucket
  dsimp only
  split
  · rfl
  · split
    · rfl
    · rw [State.eng_setEng]

/-- A checkpoint that completes is taken; a snapshot that it serves is shown after it (R264, R312). -/
theorem State.completeCheckpoint_takes (e : Fin 2) (p : PhaseProg) (a : Assembling) : ∃ (u : State) (x : Staged),
    x.hzn = a.hzn ∧ x.snapshot = false ∧ x.digest = sha512 x.bytes ∧ (u.eng[e] : Engine).staged = (s.eng[e] : Engine).staged ∧ u.lck = s.lck ∧
    u.canNumber = s.canNumber ∧ s.completeCheckpoint e p a =
      (if (u.checkpointTaken e a.hzn x).lck.ckptServes ∧ e = 0 then (u.checkpointTaken e a.hzn x).serveSnapshot a.hzn else u.checkpointTaken e a.hzn x) := by
  obtain ⟨hstaged, htake⟩ := State.takeBucket_shows (s := s) e p.ph a.hzn.toNat
  have hadv : Keeps [.regs, .eng] (s.takeBucket e p.ph a.hzn.toNat) ((s.takeBucket e p.ph a.hzn.toNat).advanceRecurs e (p.loess e) a.hzn (a.hzn.toNat - 1)) :=
    Keeps.advanceRecurs (.refl _ _) rfl _ _ _ _
  refine ⟨(s.takeBucket e p.ph a.hzn.toNat).advanceRecurs e (p.loess e) a.hzn (a.hzn.toNat - 1), _, rfl, rfl, rfl,
    (State.advanceRecurs_staged _ _ _ _ _).trans hstaged, (hadv.same .lck rfl).trans (htake.1 .lck (by decide)), ?_, rfl⟩
  unfold State.canNumber
  rw [hadv.same .aug rfl, htake.1 .aug (by decide)]

theorem State.serveSnapshot_shows (h : U64) : (s.serveSnapshot h).eng = s.eng ∧
    (∀ a, a ∉ [RNG_LCK_SNAP_LO, RNG_LCK_SNAP_LO + 4] → a ≠ RNG_LCK_STAT → a ≠ AUG_RATE → a ≠ AUG_STAT → (s.serveSnapshot h).reg a = s.reg a) := by
  refine ⟨(Keeps.serveSnapshot (.refl [.regs, .aug, .lck] s) rfl h).same .eng rfl, fun a ha hl h1 h2 => ?_⟩
  simp only [List.mem_cons, List.not_mem_nil, or_false, not_or] at ha
  unfold State.serveSnapshot State.snapshotImage
  rw [State.reg_setReg64_ne _ _ ha.1 ha.2, State.reg_setFlag_ne _ _ hl, State.writePair_reg _ _ _ _ _ _ h1 h2]
  rfl

end

/-- Settles O39: the horizon by the room in staging, the complete checkpoint by what it leaves, with or without a snapshot that it serves. -/
theorem checkpointsAreStaged : Obligations.CheckpointsAreStaged := by
  refine ⟨?horizon, ?complete⟩
  case horizon =>
    intro e c s hr hs hc hz ha hl
    refine ⟨_, exec_checkpointHorizon hr hs hc hz ha hl, ?_⟩
    split
    · next h => exact State.startCheckpoint_begun e h
    · next h =>
      obtain ⟨hnone, hfld, hev⟩ := State.startCheckpoint_skipped e h
      exact ⟨hnone.trans ha, hfld, hev⟩
  case complete =>
    intro e a p s hr ha hp hd
    obtain ⟨u, x, hx, hsnap, hdig, hst, hlck, hcan, heq⟩ := State.completeCheckpoint_takes (s := s) e p a
    obtain ⟨hnone, hstaged, hlo, hfld, hserve, hev⟩ := State.checkpointTaken_shows (s := u) e a.hzn x
    refine ⟨_, x, exec_checkpointComplete hr ha hp hd, ?_⟩
    rw [heq]
    generalize u.checkpointTaken e a.hzn x = v at hnone hstaged hlo hfld hserve hev ⊢
    have hv : v.lck.ckptServes = s.lck.ckptServes := by rw [hserve, hlck]
    by_cases hc : v.lck.ckptServes ∧ e = 0
    · rw [if_pos hc]
      obtain ⟨-, -, hl, hh, hs, hl', hh', hs'⟩ := ckptRegs_apart e
      obtain ⟨heng, hreg⟩ := State.serveSnapshot_shows (s := v) a.hzn
      have hlor := engineReg_apart e (a := LSS_CKPT_LO) (by decide)
      have hhir := engineReg_apart e (a := LSS_CKPT_LO + 4) (by decide)
      have hsr := engineReg_apart e (a := LSS_CKPT_STAT) (by decide)
      have h4 : LSS_CKPT_LO + 4 + lssOff e = LSS_CKPT_LO + lssOff e + 4 := by omega
      rw [h4] at hhir
      refine ⟨by rw [heng, hnone], by rw [heng, hstaged, hst], hx, hsnap, hdig, ?_, ?_, fun _ hf => absurd (hv.symm.trans hc.1) (by rw [hf]; decide)⟩
      · exact (State.reg64_of_reg (hreg _ hl' hl hlor.1 hlor.2.1) (hreg _ hh' hh hhir.1 hhir.2.1)).trans hlo
      · exact (State.fld_of_reg (hreg _ hs' hs hsr.1 hsr.2.1)).trans hfld
    · rw [if_neg hc]
      exact ⟨hnone, by rw [hstaged, hst], hx, hsnap, hdig, hlo, hfld, fun hn _ => hev (hcan.trans hn)⟩

end Sys2Proof.Machine

/-! The host link: link-up, link loss, the order of its cells, retransmission and the lane set (chapter 16). -/
namespace Sys2Proof.Machine

section
variable {s : State}

/-! With no request waiting nothing is pumped -/

theorem State.pumpAll_idle (h : s.hst.requests = []) : s.pumpAll = s := by
  unfold State.pumpAll
  rw [h]
  rfl

theorem State.flushReqs_idle (h : s.hst.requests = []) : s.flushReqs = { s with hst := { s.hst with responses := [] } } := by
  unfold State.flushReqs
  rw [h]
  exact congrArg (fun q => ({ s with hst := { s.hst with requests := q, responses := [] } } : State)) h.symm

theorem State.heldNone (hh : s.hst.held = []) : ({ s with hst := { s.hst with held := [] } } : State) = s :=
  congrArg (fun q => ({ s with hst := { s.hst with held := q } } : State)) hh.symm

theorem State.serveHeld_idle (hq : s.hst.requests = []) (hh : s.hst.held = []) : s.serveHeld = s := by
  unfold State.serveHeld
  rw [hh]
  dsimp only [List.foldl_nil]
  rw [State.heldNone hh, State.pumpAll_idle hq]

/-! Link-up -/

theorem State.restartRecords_framed : Framed [.regs, .hst] [HST_STAT, HST_LANES] s s.restartRecords := (Framed.refl _ _ s).setHst (by decide) _

theorem State.restartRecords_reg (a : Nat) : s.restartRecords.reg a = s.reg a := rfl

/-- The link as it stands once both sides have exchanged their LINK message. -/
def Hst.formed (h : Hst) (mask : Byte) (cell : HostCell) : Hst :=
  { Hst.off with
    up := true, txSeq := 1, rxSeq := 1, unacked := [cell], mask := mask, bulk := h.bulk, forward := h.forward
    lastTag := h.lastTag, held := h.held, requests := h.requests }

/-- The registers of a link that has formed. -/
def State.linkRegs (s : State) (mask : Byte) (rate : Nat) : State :=
  ((s.setFlag HST_STAT_LINK_UP true).setFld HST_LANES_MASK mask.toNat).setFld HST_LANES_RATE rate

theorem State.linkRegs_up (mask : Byte) (rate : Nat) : (s.linkRegs mask rate).flag HST_STAT_LINK_UP = true := by
  have hreg : (s.linkRegs mask rate).reg HST_STAT = (s.setFlag HST_STAT_LINK_UP true).reg HST_STAT :=
    (State.reg_setFld_ne _ _ (by decide)).trans (State.reg_setFld_ne _ _ (by decide))
  exact (State.flag_of_reg hreg).trans (State.flag_setFlag _ _ _ (by decide) rfl)

theorem State.linkRegs_framed (mask : Byte) (rate : Nat) : Framed [.regs] [HST_STAT, HST_LANES] s (s.linkRegs mask rate) :=
  (((Framed.refl _ _ s).setFlag (by decide) (by decide) true).setFld (by decide) (by decide) _).setFld (by decide) (by decide) _

/-- A link that has formed: its registers, and its records from the first one not acknowledged. -/
def State.linkShown (s : State) (mask : Byte) (rate : Nat) (cell : HostCell) : State :=
  (({ s with hst := s.hst.formed mask cell } : State).linkRegs mask rate).restartRecords

theorem State.linkShown_shows (mask : Byte) (rate : Nat) (cell : HostCell) :
    (s.linkShown mask rate cell).hst = { s.hst.formed mask cell with recNext := s.aug.ack, forwardSent := [], sending := mapErase [] 4 } ∧
    (s.linkShown mask rate cell).flag HST_STAT_LINK_UP = true ∧ Framed [.regs, .hst] [HST_STAT, HST_LANES] s (s.linkShown mask rate cell) := by
  have hs : Framed [.regs, .hst] [HST_STAT, HST_LANES] s ({ s with hst := s.hst.formed mask cell } : State) := (Framed.refl _ _ s).setHst (by decide) _
  have hh : ({ s with hst := s.hst.formed mask cell } : State).hst = s.hst.formed mask cell := rfl
  unfold State.linkShown
  generalize ({ s with hst := s.hst.formed mask cell } : State) = u at hs hh ⊢
  have hup := State.linkRegs_up (s := u) mask rate
  have hfr := State.linkRegs_framed (s := u) mask rate
  refine ⟨?_, hup, (hs.trans (hfr.mono (by decide) (List.Subset.refl _))).trans State.restartRecords_framed⟩
  unfold State.restartRecords
  rw [hfr.1 .hst (by decide), hfr.1 .aug (by decide), hh, hs.1 .aug (by decide)]
  rfl

/-- The requests that wait are executed before the link forms. -/
def State.beforeLink (s : State) : State := if s.hostServed then s.flushReqs else s

theorem State.beforeLink_idle (hq : s.hst.requests = []) : ∃ r, s.beforeLink = { s with hst := { s.hst with responses := r } } := by
  unfold State.beforeLink
  split
  · exact ⟨_, State.flushReqs_idle hq⟩
  · exact ⟨_, rfl⟩

/-- What forms once nothing waits. -/
theorem State.linkForms_eq : ∃ rate cell, s.linkForms =
    (if (s.beforeLink.linkShown s.beforeLink.hostReady rate cell).mod.st.serving then (s.beforeLink.linkShown s.beforeLink.hostReady rate cell).serveHeld
    else (s.beforeLink.linkShown s.beforeLink.hostReady rate cell).pumpAll) := ⟨_, _, rfl⟩

/-- A link that forms with nothing waiting or held (R457, R472). -/
theorem State.linkForms_shows (hq : s.hst.requests = []) (hh : s.hst.held = []) : ∃ r rate cell,
    s.linkForms = ({ s with hst := { s.hst with responses := r } } : State).linkShown s.hostReady rate cell := by
  obtain ⟨rate, cell, heq⟩ := State.linkForms_eq (s := s)
  obtain ⟨r, hr⟩ := State.beforeLink_idle hq
  have hready : ({ s with hst := { s.hst with responses := r } } : State).hostReady = s.hostReady := rfl
  rw [hr, hready] at heq
  refine ⟨r, rate, cell, heq.trans ?_⟩
  obtain ⟨hu, -, -⟩ := State.linkShown_shows (s := { s with hst := { s.hst with responses := r } }) s.hostReady rate cell
  generalize ({ s with hst := { s.hst with responses := r } } : State).linkShown s.hostReady rate cell = u at hu ⊢
  have huq : u.hst.requests = [] := by rw [hu]; exact hq
  have huh : u.hst.held = [] := by rw [hu]; exact hh
  split
  · exact State.serveHeld_idle huq huh
  · exact State.pumpAll_idle huq

/-! Link loss -/

/-- The link as it stands once it has gone down. -/
def Hst.lost (h : Hst) : Hst :=
  { Hst.off with requests := h.requests, bulk := h.bulk.map (fun b => { b with sent := 0 }), forward := h.forward, lastTag := h.lastTag, held := h.held }

/-- The registers of a link that has gone down. -/
def State.linkLostShown (s : State) : State :=
  (((s.setFlag HST_STAT_LINK_UP false).setFlag HST_STAT_LINK_DOWN true).setFld HST_LANES_MASK 0).setFld HST_LANES_RATE 0 |>.bump HST_LINKDOWN_CNT

theorem State.hostLinkLost_eq : s.hostLinkLost = (({ s with hst := s.hst.lost } : State).linkLostShown).restartRecords := rfl

theorem State.linkLostShown_framed : Framed [.regs] [HST_STAT, HST_LANES, HST_LINKDOWN_CNT] s s.linkLostShown :=
  (((((Framed.refl _ _ s).setFlag (by decide) (by decide) false).setFlag (by decide) (by decide) true).setFld (by decide) (by decide) 0).setFld (by decide)
    (by decide) 0).bump (by decide) (by decide)

theorem State.linkLostShown_shows : s.linkLostShown.flag HST_STAT_LINK_UP = false ∧ s.linkLostShown.flag HST_STAT_LINK_DOWN = true ∧
    s.linkLostShown.reg HST_LINKDOWN_CNT = bumped (s.reg HST_LINKDOWN_CNT) := by
  have hreg : s.linkLostShown.reg HST_STAT = ((s.setFlag HST_STAT_LINK_UP false).setFlag HST_STAT_LINK_DOWN true).reg HST_STAT :=
    (State.reg_bump_ne _ (by decide)).trans ((State.reg_setFld_ne _ _ (by decide)).trans (State.reg_setFld_ne _ _ (by decide)))
  refine ⟨?_, ?_, ?_⟩
  · exact (State.flag_of_reg hreg).trans ((State.flag_setFlag_apart _ _ (by decide)).trans (State.flag_setFlag _ _ _ (by decide) rfl))
  · exact (State.flag_of_reg hreg).trans (State.flag_setFlag _ _ _ (by decide) rfl)
  · refine (State.reg_bump_bumped _ _).trans (congrArg bumped ?_)
    rw [State.reg_setFld_ne _ _ (by decide), State.reg_setFld_ne _ _ (by decide), State.reg_setFlag_ne _ _ (by decide), State.reg_setFlag_ne _ _ (by decide)]

/-- A link that goes down discards everything in flight, shows it and counts it (R472). -/
theorem State.hostLinkLost_shows : s.hostLinkLost.hst = { s.hst.lost with recNext := s.aug.ack, forwardSent := [], sending := mapErase [] 4 } ∧
    s.hostLinkLost.flag HST_STAT_LINK_UP = false ∧ s.hostLinkLost.flag HST_STAT_LINK_DOWN = true ∧
    s.hostLinkLost.reg HST_LINKDOWN_CNT = bumped (s.reg HST_LINKDOWN_CNT) ∧
    Framed [.regs, .hst] [HST_STAT, HST_LANES, HST_LINKDOWN_CNT] s s.hostLinkLost := by
  rw [State.hostLinkLost_eq]
  have hs : Framed [.regs, .hst] [HST_STAT, HST_LANES, HST_LINKDOWN_CNT] s ({ s with hst := s.hst.lost } : State) := (Framed.refl _ _ s).setHst (by decide) _
  have hh : ({ s with hst := s.hst.lost } : State).hst = s.hst.lost := rfl
  have hcnt : ({ s with hst := s.hst.lost } : State).reg HST_LINKDOWN_CNT = s.reg HST_LINKDOWN_CNT := rfl
  generalize ({ s with hst := s.hst.lost } : State) = u at hs hh hcnt ⊢
  obtain ⟨hup, hdown, hbump⟩ := State.linkLostShown_shows (s := u)
  have hfr := State.linkLostShown_framed (s := u)
  refine ⟨?_, hup, hdown, hbump.trans (congrArg bumped hcnt), ?_⟩
  · unfold State.restartRecords
    rw [hfr.1 .hst (by decide), hfr.1 .aug (by decide), hh, hs.1 .aug (by decide)]
    rfl
  · exact (hs.trans (hfr.mono (by decide) (List.Subset.refl _))).setHst (by decide) _

theorem State.dropLink_up (h : s.hst.up = true) : s.dropLink = s.hostLinkLost := if_pos h

theorem State.dropLink_down (h : s.hst.up = false) : s.dropLink = s := if_neg (by rw [h]; exact Bool.false_ne_true)

/-! Received cells -/

/-- Nothing that arrives but a numbered cell moves the SEQ expected; nothing but a request joins those that wait. -/
structure InOrder (s t : State) : Prop where
  rxSeq : t.hst.rxSeq = s.hst.rxSeq
  requests : t.hst.requests = s.hst.requests

theorem InOrder.refl (s : State) : InOrder s s := ⟨rfl, rfl⟩

theorem InOrder.trans {a b c : State} (x : InOrder a b) (y : InOrder b c) : InOrder a c :=
  ⟨y.rxSeq.trans x.rxSeq, y.requests.trans x.requests⟩

theorem InOrder.past {s t : State} (z : Hst) (hr : z.rxSeq = s.hst.rxSeq) (hq : z.requests = s.hst.requests)
    (h : InOrder { s with hst := z } t) : InOrder s t := ⟨h.rxSeq.trans hr, h.requests.trans hq⟩

theorem InOrder.of_hst {a b : State} (h : b.hst = a.hst) : InOrder a b := ⟨by rw [h], by rw [h]⟩

theorem State.bulkDelivered_inOrder : InOrder s s.bulkDelivered := by
  unfold State.bulkDelivered
  split
  · exact .refl s
  · next b rest _ =>
    have h : InOrder s ({ s with hst := { s.hst with bulk := rest } } : State) := ⟨rfl, rfl⟩
    dsimp only
    split
    · refine h.trans (.of_hst ?_)
      rw [State.setFld_hst]
      exact (State.setFld_hst _ _ _).trans (State.setEng_hst _ _ _)
    · split
      · exact h.trans (.of_hst ((Keeps.bump64 (.refl [.regs] _) rfl _ _).same .hst rfl))
      · exact h

theorem State.cellTaken_inOrder (c : HostCell) : InOrder s (s.cellTaken c) := by
  have h : InOrder s (s.bump64 HST_BULK_LO c.object) := .of_hst ((Keeps.bump64 (.refl [.regs] s) rfl _ _).same .hst rfl)
  unfold State.cellTaken
  split
  · dsimp only
    split
    · exact h.trans State.bulkDelivered_inOrder
    · exact h
  · exact .refl s

theorem InOrder.foldl {α : Type} {f : State → α → State} (hf : ∀ u x, InOrder u (f u x)) (xs : List α) (s : State) : InOrder s (xs.foldl f s) := by
  induction xs generalizing s with
  | nil => exact .refl s
  | cons x xs ih => exact (hf s x).trans (ih _)

theorem State.takeAck_inOrder (n : Nat) : InOrder s (s.takeAck n) := by
  unfold State.takeAck
  dsimp only
  split
  · exact InOrder.past { s.hst with unacked := s.hst.unacked.drop ((n + 65536 - s.hst.firstUnacked % 65536) % 65536) } rfl rfl
      (InOrder.foldl (fun u c => State.cellTaken_inOrder c) _ _)
  · exact .refl s

theorem State.takeCredit_inOrder (ch n : Nat) : InOrder s (s.takeCredit ch n) := by
  unfold State.takeCredit
  dsimp only
  split
  · exact ⟨rfl, rfl⟩
  · split
    · exact ⟨rfl, rfl⟩
    · split
      · exact ⟨rfl, rfl⟩
      · exact .refl s

theorem State.setHostSet_inOrder (m : Byte) : InOrder s (s.setHostSet m) := by
  unfold State.setHostSet
  split
  · refine InOrder.past { s.hst with mask := m, control := s.hst.control ++ [linkMessage m s.hst.txSeq s.hst.lastTag] } rfl rfl (.of_hst ?_)
    dsimp only
    rw [State.setFld_hst, State.setFlag_hst]
  · exact .refl s

theorem State.hostSetDue_inOrder : InOrder s s.hostSetDue := by
  unfold State.hostSetDue
  split
  · split
    · exact InOrder.past { s.hst with maskAt := none } rfl rfl (State.setHostSet_inOrder _)
    · exact .refl s
  · exact .refl s

theorem State.linkTold_inOrder (m : Byte) (q : Nat) : InOrder s (s.linkTold m q) :=
  InOrder.past { s.hst with maskAt := some (m, q) } rfl rfl State.hostSetDue_inOrder

theorem State.hostMessage_inOrder {k : Nat} (hk : k ≠ 2) (m : List Byte) : InOrder s (s.hostMessage k m) := by
  unfold State.hostMessage
  dsimp only
  rw [if_neg hk]
  split
  · exact .refl s
  · split
    · split
      · exact State.linkTold_inOrder _ _
      · exact .refl s
    · exact .refl s

theorem State.cellData_inOrder {k : Nat} (hk : k ≠ 2) (first last : Bool) (d : List Byte) : InOrder s (s.cellData k first last d) := by
  unfold State.cellData
  dsimp only
  split
  · exact .refl s
  · split
    · exact InOrder.past { s.hst with msgs := mapErase s.hst.msgs k } rfl rfl (State.hostMessage_inOrder hk _)
    · exact ⟨rfl, rfl⟩

/-- What a good cell of any kind but a request's does after its SEQ has been judged. -/
theorem State.cellEnd_inOrder {u : State} (hu : u.hst.requests = []) : InOrder u u.hostSetDue.pumpAll := by
  have h := State.hostSetDue_inOrder (s := u)
  rw [State.pumpAll_idle (h.requests.trans hu)]
  exact h

theorem State.goodCell_discards {c : List Byte} (hk : 1 ≤ leAt c 4 1 ∧ leAt c 4 1 ≤ 5) (hs : leAt c 0 2 ≠ s.hst.rxSeq) :
    s.goodCell c = s.bump HST_SEQ_DISCARD_CNT := if_pos ⟨by simpa using hk, hs⟩

theorem State.goodCell_takes {c : List Byte} (hk : 1 ≤ leAt c 4 1 ∧ leAt c 4 1 ≤ 5) (h2 : leAt c 4 1 ≠ 2) (hs : leAt c 0 2 = s.hst.rxSeq)
    (hq : s.hst.requests = []) : (s.goodCell c).hst.rxSeq = (s.hst.rxSeq + 1) % 65536 := by
  have hn : decide (1 ≤ leAt c 4 1 ∧ leAt c 4 1 ≤ 5) = true := by simpa using hk
  unfold State.goodCell
  dsimp only
  rw [if_neg (fun h => h.2 hs), if_pos hn, if_pos hn]
  generalize hu : ({ s with hst := { s.hst with
      rxSeq := (s.hst.rxSeq + 1) % 65536, credReq := if leAt c 4 1 = 2 then s.hst.credReq - 1 else s.hst.credReq } } : State) = u
  have hur : u.hst.rxSeq = (s.hst.rxSeq + 1) % 65536 := by rw [← hu]
  have huq : u.hst.requests = [] := by rw [← hu]; exact hq
  have h := (State.takeAck_inOrder (s := u) (leAt c 2 2)).trans ((State.takeCredit_inOrder (leAt c 5 1 / 16) (leAt c 6 2)).trans
    (State.cellData_inOrder h2 (leAt c 5 1 % 2 == 1) (leAt c 5 1 / 2 % 2 == 1) (slice c 10 (min (leAt c 8 1) 112))))
  exact (h.trans (State.cellEnd_inOrder (h.requests.trans huq))).rxSeq.trans hur

theorem State.goodCell_unnumbered {c : List Byte} (hk : ¬ (1 ≤ leAt c 4 1 ∧ leAt c 4 1 ≤ 5)) (hq : s.hst.requests = []) :
    (s.goodCell c).hst.rxSeq = s.hst.rxSeq := by
  have hn : ¬ decide (1 ≤ leAt c 4 1 ∧ leAt c 4 1 ≤ 5) = true := by simpa using hk
  unfold State.goodCell
  dsimp only
  rw [if_neg (fun h => hn h.1), if_neg hn, if_neg hn]
  have h := (State.takeAck_inOrder (s := s) (leAt c 2 2)).trans (State.takeCredit_inOrder (leAt c 5 1 / 16) (leAt c 6 2))
  exact (h.trans (State.cellEnd_inOrder (h.requests.trans hq))).rxSeq

theorem exec_hostCellReceived {l : Fin 8} {c : List Byte} (hu : s.hst.up = true) (hs : s.hostServed = true) (hl : s.hostLaneReady l = true)
    (hc : c.length = 127) : exec (.hostCellReceived l c) s = .next (s.cellReceived c) :=
  congrArg Host.Outcome.next (if_pos (by unfold State.hostLinkRuns; rw [hu, hs, hl, hc]; rfl))

/-! Retransmission and the lane set -/

/-- The cells that are not acknowledged wait to be sent again, with their credits. -/
def Hst.again (h : Hst) : Hst :=
  { h with
    txSeq := h.firstUnacked, resend := h.unacked.filter (fun (c : HostCell) => c.kind != 4) ++ h.resend, unacked := []
    credRsp := h.credRsp + spent 3 h.unacked, credRec := h.credRec + spent 4 h.unacked, credBulk := h.credBulk + spent 5 h.unacked }

theorem State.retransmits_eq : s.retransmits =
    ((({ s with hst := s.hst.again } : State).bump HST_RETRY_CNT).setFlag HST_STAT_RETRY true).restartRecords := rfl

theorem State.retransmits_shows :
    s.retransmits.hst = { s.hst.again with recNext := s.aug.ack, forwardSent := [], sending := mapErase s.hst.sending 4 } ∧
    s.retransmits.flag HST_STAT_RETRY = true ∧ s.retransmits.reg HST_RETRY_CNT = bumped (s.reg HST_RETRY_CNT) ∧
    Framed [.regs, .hst] [HST_STAT, HST_RETRY_CNT] s s.retransmits := by
  have hs : Framed [.regs, .hst] [HST_STAT, HST_RETRY_CNT] s ({ s with hst := s.hst.again } : State) := (Framed.refl _ _ s).setHst (by decide) _
  have hh : ({ s with hst := s.hst.again } : State).hst = s.hst.again := rfl
  have hcnt : ({ s with hst := s.hst.again } : State).reg HST_RETRY_CNT = s.reg HST_RETRY_CNT := rfl
  rw [State.retransmits_eq]
  generalize ({ s with hst := s.hst.again } : State) = u at hs hh hcnt ⊢
  have hfr : Framed [.regs] [HST_STAT, HST_RETRY_CNT] u ((u.bump HST_RETRY_CNT).setFlag HST_STAT_RETRY true) :=
    ((Framed.refl _ _ u).bump (by decide) (by decide)).setFlag (by decide) (by decide) true
  have hflag : ((u.bump HST_RETRY_CNT).setFlag HST_STAT_RETRY true).flag HST_STAT_RETRY = true := State.flag_setFlag _ _ _ (by decide) rfl
  have hbump : ((u.bump HST_RETRY_CNT).setFlag HST_STAT_RETRY true).reg HST_RETRY_CNT = bumped (s.reg HST_RETRY_CNT) :=
    (State.reg_setFlag_ne _ _ (by decide)).trans ((State.reg_bump_bumped _ _).trans (congrArg bumped hcnt))
  generalize (u.bump HST_RETRY_CNT).setFlag HST_STAT_RETRY true = v at hfr hflag hbump ⊢
  refine ⟨?_, (State.flag_of_reg (v.restartRecords_reg _)).trans hflag, (v.restartRecords_reg _).trans hbump,
    (hs.trans (hfr.mono (by decide) (List.Subset.refl _))).setHst (by decide) _⟩
  unfold State.restartRecords
  rw [hfr.1 .hst (by decide), hfr.1 .aug (by decide), hh, hs.1 .aug (by decide)]
  rfl

theorem State.setHostSet_shows (hu : s.hst.up = true) (m : Byte) : (s.setHostSet m).hst.mask = m ∧ (s.setHostSet m).hst.maskAt = s.hst.maskAt ∧
    Framed [.regs, .hst] [HST_STAT, HST_LANES] s (s.setHostSet m) := by
  unfold State.setHostSet
  split
  · refine ⟨?_, ?_, (((Framed.refl _ _ s).setHst (by decide) _).setFlag (by decide) (by decide) true).setFld (by decide) (by decide) _⟩
    · rw [State.setFld_hst, State.setFlag_hst]
    · rw [State.setFld_hst, State.setFlag_hst]
  · next h =>
    exact ⟨by simpa [hu] using h, rfl, .refl _ _ s⟩

theorem State.linkTold_shows (hu : s.hst.up = true) (m : Byte) {q : Nat} (hq : q < 65536) :
    (if (s.hst.rxSeq + 65536 - q) % 65536 < 32768 then (s.linkTold m q).hst.mask = (m &&& s.hostReady) ∧ (s.linkTold m q).hst.maskAt = none
     else (s.linkTold m q).hst = { s.hst with maskAt := some (m, q) }) ∧ Framed [.regs, .hst] [HST_STAT, HST_LANES] s (s.linkTold m q) := by
  have heq : s.linkTold m q = if (s.hst.rxSeq + 65536 - q % 65536) % 65536 < 32768 then
      ({ s with hst := { s.hst with maskAt := none } } : State).setHostSet (m &&& s.hostReady)
      else { s with hst := { s.hst with maskAt := some (m, q) } } := rfl
  rw [heq, Nat.mod_eq_of_lt hq]
  split
  · obtain ⟨hm, hat, hfr⟩ := State.setHostSet_shows (s := { s with hst := { s.hst with maskAt := none } }) hu (m &&& s.hostReady)
    exact ⟨⟨hm, hat⟩, ((Framed.refl _ _ s).setHst (by decide) _).trans hfr⟩
  · exact ⟨rfl, (Framed.refl _ _ s).setHst (by decide) _⟩

end

/-- Settles O53: forming and losing the link, the order of its cells, retransmission and the lane set, each by its lemma. -/
theorem theHostLinkKeepsItsOrder : Obligations.TheHostLinkKeepsItsOrder := by
  refine ⟨?forms, ?down, ?reset, ?cell, ?again, ?told⟩
  case forms =>
    intro s hm hq hh
    obtain ⟨r, rate, cell, heq⟩ := State.linkForms_shows hq hh
    refine ⟨_, congrArg Host.Outcome.next (if_pos hm), ?_⟩
    rw [heq]
    have hs : Framed [.regs, .hst] [HST_STAT, HST_LANES] s ({ s with hst := { s.hst with responses := r } } : State) := (Framed.refl _ _ s).setHst (by decide) _
    obtain ⟨hu, hup, hshown⟩ := State.linkShown_shows (s := { s with hst := { s.hst with responses := r } }) s.hostReady rate cell
    have hfr := hs.trans hshown
    generalize ({ s with hst := { s.hst with responses := r } } : State).linkShown s.hostReady rate cell = u at hu hup hfr ⊢
    rw [hu]
    exact ⟨rfl, rfl, rfl, rfl, rfl, rfl, rfl, rfl, hup, hfr⟩
  case down =>
    intro s hu hq
    refine ⟨_, congrArg Host.Outcome.next (if_pos hu), ?_⟩
    rw [State.flushReqs_idle hq, State.dropLink_up (s := { s with hst := { s.hst with responses := [] } }) hu]
    obtain ⟨hh, hup, hdown, hcnt, hfr⟩ := State.hostLinkLost_shows (s := { s with hst := { s.hst with responses := [] } })
    have hall := ((Framed.refl [.regs, .hst] [HST_STAT, HST_LANES, HST_LINKDOWN_CNT] s).setHst (by decide) { s.hst with responses := [] }).trans hfr
    generalize ({ s with hst := { s.hst with responses := [] } } : State).hostLinkLost = u at hh hup hdown hcnt hall ⊢
    rw [hh]
    exact ⟨rfl, rfl, rfl, rfl, rfl, rfl, hup, hdown, hcnt, hall⟩
  case reset =>
    intro p s ho
    refine ⟨_, congrArg Host.Outcome.next (State.via_of_opens ho State.dropLink), ?_⟩
    have hhst : (s.seen p).hst = s.hst := (s.seen_framed p).1 .hst (by decide)
    cases hu : s.hst.up with
    | true =>
      rw [State.dropLink_up (hhst ▸ hu)]
      obtain ⟨hh, -, hdown, hcnt, hfr⟩ := State.hostLinkLost_shows (s := s.seen p)
      rw [hh, hhst]
      exact ⟨rfl, rfl, fun _ => ⟨hdown, hcnt.trans (congrArg bumped (s.seen_reg p (by decide)))⟩, hfr⟩
    | false =>
      rw [State.dropLink_down (hhst ▸ hu), hhst]
      exact ⟨hu, rfl, fun h => absurd h Bool.false_ne_true, .refl _ _ _⟩
  case cell =>
    intro l c s hu hs hl hc hq h2
    refine ⟨_, exec_hostCellReceived hu hs hl hc, ?_⟩
    unfold State.cellReceived
    split
    · split
      · next hk =>
        split
        · next hseq => exact State.goodCell_takes hk h2 hseq hq
        · next hseq =>
          rw [State.goodCell_discards hk hseq]
          exact ⟨State.reg_bump_bumped _ _, (Framed.refl _ _ s).bump (by decide) (by decide)⟩
      · next hk => exact State.goodCell_unnumbered hk hq
    · exact ⟨State.reg_bump_bumped _ _, (Framed.refl _ _ s).bump (by decide) (by decide)⟩
  case again =>
    intro s hu hn
    refine ⟨_, congrArg Host.Outcome.next (if_pos (by rw [hu]; simpa using hn)), ?_⟩
    obtain ⟨hh, hretry, hcnt, hfr⟩ := State.retransmits_shows (s := s)
    rw [hh]
    exact ⟨rfl, rfl, rfl, rfl, hretry, hcnt, hfr⟩
  case told =>
    intro m seq s hu
    exact ⟨_, congrArg Host.Outcome.next (if_pos hu), State.linkTold_shows hu m seq.isLt⟩

end Sys2Proof.Machine

/-! Requests of the host link: how one is served, its response, and register, record, capture and cold history requests (chapter 16). -/
namespace Sys2Proof.Machine

theorem leNat_leBytes (n v : Nat) : leNat (leBytes n v) = v % 256 ^ n := by
  induction n generalizing v with
  | zero => rw [Nat.pow_zero, Nat.mod_one]; rfl
  | succ n ih =>
    have hcons : leBytes (n + 1) v = BitVec.ofNat 8 v :: leBytes n (v / 256) := by
      unfold leBytes
      rw [List.range_succ_eq_map, List.map_cons, List.map_map]
      refine congrArg₂ _ (by rw [Nat.pow_zero, Nat.div_one]) (List.map_congr_left fun i _ => ?_)
      show BitVec.ofNat 8 (v / 256 ^ (i + 1)) = BitVec.ofNat 8 (v / 256 / 256 ^ i)
      rw [Nat.pow_succ', Nat.div_div_eq_div_mul]
    have hhead : (BitVec.ofNat 8 v).toNat = v % 256 := BitVec.toNat_ofNat _ _
    rw [hcons, leNat, ih, hhead, Nat.pow_succ', Nat.mod_mul]

theorem leBytes_toNat64 (v : U64) : leNat (leBytes 8 v.toNat) = v.toNat := by
  rw [leNat_leBytes]
  exact Nat.mod_eq_of_lt v.isLt

section
variable {s : State}

/-! A request that finds none waiting is served at once (R463) -/

theorem State.idleRestart_framed : Framed [.mod] [] s s.idleRestart := (Keeps.idleRestart (.refl [.mod] s) rfl).framed_of_regs rfl

/-- The idle timer is all of the module control that an access moves. -/
theorem State.idleRestart_mod : ∃ a b c, s.idleRestart.mod = { s.mod with idle := a, idleNs := b, busyTick := c } := by
  unfold State.idleRestart
  split
  · exact ⟨_, _, _, rfl⟩
  · exact ⟨_, _, _, rfl⟩

theorem State.idleRestart_st : s.idleRestart.mod.st = s.mod.st := by
  obtain ⟨a, b, c, h⟩ := State.idleRestart_mod (s := s)
  rw [h]

theorem State.idleRestart_reg (a : Nat) : s.idleRestart.reg a = s.reg a := State.idleRestart_framed.2 a List.not_mem_nil

theorem State.hostServed_of_serving (h : s.mod.st.serving = true) : s.hostServed = true := by
  unfold State.hostServed
  rw [h]
  rfl

theorem ModState.not_waking_of_serving {m : ModState} (h : m.serving = true) : (m == .waking) = false := by
  cases m <;> first | rfl | exact absurd h (by decide)

/-- Nothing makes the request wait in a state that serves: none is held, or the silt banks are clear. -/
theorem State.startReq_serves {r : HostReq} (hs : s.mod.st.serving = true) (hw : s.hst.held = [] ∨ s.mod.dramDone = true) (hr : s.siltReq r = false) :
    s.startReq r = s.serveReq r := by
  have hwait : (!s.hst.held.isEmpty && (s.mod.st == .waking || !s.mod.dramDone)) = false := by
    rw [ModState.not_waking_of_serving hs]
    cases hw with
    | inl h => rw [h]; rfl
    | inr h => rw [h]; simp
  unfold State.startReq
  dsimp only
  rw [hwait, ModState.not_waking_of_serving hs, hr]
  rfl

theorem State.requestOf_serves {tag op : Nat} {arg : U64} {bs : List Byte} {good : Bool} (hs : s.mod.st.serving = true) (hq : s.hst.requests = [])
    (hw : s.hst.held = [] ∨ s.mod.dramDone = true) (hr : s.idleRestart.siltReq ⟨tag, op, arg, bs, good⟩ = false) :
    s.requestOf tag op arg bs good = s.idleRestart.serveReq ⟨tag, op, arg, bs, good⟩ := by
  obtain ⟨a, b, c, hm⟩ := State.idleRestart_mod (s := s)
  have hh : s.idleRestart.hst = s.hst := State.idleRestart_framed.1 .hst (by decide)
  unfold State.requestOf State.request
  dsimp only
  rw [if_pos (State.hostServed_of_serving hs), hh, hq]
  exact State.startReq_serves (by rw [hm]; exact hs) (by rw [hm, hh]; exact hw) hr

theorem State.siltReq_of_dramDone (h : s.mod.dramDone = true) (r : HostReq) : s.idleRestart.siltReq r = false := by
  obtain ⟨a, b, c, hm⟩ := State.idleRestart_mod (s := s)
  unfold State.siltReq
  rw [hm]
  dsimp only
  rw [h]
  rfl

theorem State.siltReq_of_op {r : HostReq} (h : r.op ≠ 1 ∧ r.op ≠ 2) : s.siltReq r = false := by
  have h1 : (r.op == 1) = false := by simpa using h.1
  have h2 : (r.op == 2) = false := by simpa using h.2
  unfold State.siltReq
  dsimp only
  rw [h1, h2]
  simp

/-! Responses -/

theorem State.respond_hst (tag status code : Nat) (bs : List Byte) :
    (s.respond tag status code bs).hst = { s.hst with responses := s.hst.responses ++ [⟨tag, status, code, bs⟩], lastTag := tag } := by
  unfold State.respond
  dsimp only
  split
  · rw [State.bump_hst]
  · rw [State.bump_hst, State.bump_hst]

theorem State.respond_framed (tag status code : Nat) (bs : List Byte) :
    Framed [.regs, .hst] [HST_REQ_CNT, HST_REQ_ERR_CNT] s (s.respond tag status code bs) := by
  unfold State.respond
  dsimp only
  split
  · exact ((Framed.refl _ _ s).bump (by decide) (by decide)).setHst (by decide) _
  · exact (((Framed.refl _ _ s).bump (by decide) (by decide)).bump (by decide) (by decide)).setHst (by decide) _

/-- A response with status 0 counts no error. -/
theorem State.respond_good_framed (tag code : Nat) (bs : List Byte) : Framed [.regs, .hst] [HST_REQ_CNT] s (s.respond tag 0 code bs) :=
  ((Framed.refl _ _ s).bump (by decide) (by decide)).setHst (by decide) _

theorem State.respond_counts (tag status code : Nat) (bs : List Byte) :
    (s.respond tag status code bs).reg HST_REQ_CNT = bumped (s.reg HST_REQ_CNT) ∧
    (s.respond tag status code bs).reg HST_REQ_ERR_CNT = if status = 0 then s.reg HST_REQ_ERR_CNT else bumped (s.reg HST_REQ_ERR_CNT) := by
  have hne : (s.bump HST_REQ_CNT).reg HST_REQ_ERR_CNT = s.reg HST_REQ_ERR_CNT := State.reg_bump_ne _ (by decide)
  have hreg : ∀ a, (s.respond tag status code bs).reg a =
      (if status = 0 then s.bump HST_REQ_CNT else (s.bump HST_REQ_CNT).bump HST_REQ_ERR_CNT).reg a := fun _ => rfl
  rw [hreg, hreg]
  split
  · exact ⟨State.reg_bump_bumped _ _, hne⟩
  · exact ⟨(State.reg_bump_ne _ (by decide)).trans (State.reg_bump_bumped _ _), (State.reg_bump_bumped _ _).trans (congrArg bumped hne)⟩

/-- A response after work that leaves the link and its counters alone. -/
theorem State.respond_responds {u : State} (hh : u.hst.responses = s.hst.responses) (hc : u.reg HST_REQ_CNT = s.reg HST_REQ_CNT)
    (he : u.reg HST_REQ_ERR_CNT = s.reg HST_REQ_ERR_CNT) (tag status code : Nat) (bs : List Byte) :
    s.responds (u.respond tag status code bs) tag status code bs := by
  obtain ⟨h1, h2⟩ := State.respond_counts (s := u) tag status code bs
  refine ⟨?_, ?_, by rw [h1, hc], by rw [h2, he]⟩
  · rw [State.respond_hst, hh]
  · rw [State.respond_hst]

/-- A response after work that is framed by areas other than the link's. -/
theorem Framed.responds {A : List Area} {R : List Nat} {u : State} (h : Framed A R s u) (hA : Area.hst ∉ A) (hR : HST_REQ_CNT ∉ R ∧ HST_REQ_ERR_CNT ∉ R)
    (tag status code : Nat) (bs : List Byte) : s.responds (u.respond tag status code bs) tag status code bs :=
  State.respond_responds (by rw [h.1 .hst hA]) (h.2 _ hR.1) (h.2 _ hR.2) tag status code bs

/-- A request with no response (R463, R472). -/
theorem State.executed_shows (tag : Nat) : (s.executed tag).hst = { s.hst with lastTag := tag } ∧
    Framed [.regs, .hst] [HST_REQ_CNT] s (s.executed tag) := by
  unfold State.executed
  refine ⟨?_, ((Framed.refl _ _ s).bump (by decide) (by decide)).setHst (by decide) _⟩
  dsimp only
  rw [State.bump_hst]

/-! Register requests -/

theorem State.regReads_within (tag : Nat) (arg : U64) (h : 1 ≤ bitsOf arg.toNat 32 8 ∧ bitsOf arg.toNat 32 8 ≤ 64) :
    s.regReads ⟨tag, 1, arg, [], true⟩ = (s.readWords (bitsOf arg.toNat 32 8) (arg.toNat % 2 ^ 32) []).2.2.respond tag
      (s.readWords (bitsOf arg.toNat 32 8) (arg.toNat % 2 ^ 32) []).1 0 (s.readWords (bitsOf arg.toNat 32 8) (arg.toNat % 2 ^ 32) []).2.1 := by
  have hn : ¬ (bitsOf arg.toNat 32 8 < 1 ∨ 64 < bitsOf arg.toNat 32 8) := by omega
  exact if_neg hn

theorem State.regReads_beyond (tag : Nat) (arg : U64) (h : ¬ (1 ≤ bitsOf arg.toNat 32 8 ∧ bitsOf arg.toNat 32 8 ≤ 64)) :
    s.regReads ⟨tag, 1, arg, [], true⟩ = s.respond tag 1 0 [] := by
  have hn : bitsOf arg.toNat 32 8 < 1 ∨ 64 < bitsOf arg.toNat 32 8 := by omega
  exact if_pos hn

theorem State.regWrites_within (tag : Nat) (arg : U64) {bs : List Byte} {x : Nat × State} (h4 : 4 ≤ bs.length) (h256 : bs.length ≤ 256)
    (hm : bs.length % 4 = 0) (hx : x = s.writeWords (bs.length / 4) (arg.toNat % 2 ^ 32) bs) :
    s.regWrites ⟨tag, 2, arg, bs, true⟩ = if (s.hst.up && !x.2.hst.up) || !x.2.hostServed then x.2.executed tag else x.2.respond tag x.1 0 [] := by
  have hn : ¬ (bs.length < 4 ∨ 256 < bs.length ∨ bs.length % 4 ≠ 0) := by omega
  rw [hx]
  exact if_neg hn

/-! Record acknowledgements -/

/-- What an acknowledgement of the own serial leaves of the records (R338, R467). -/
theorem State.recordsTaken_own {next serial : U64} (h : serial.toNat = s.serial ∨ serial = 0) (hm : s.mirrored = false) :
    (if next.toNat ≤ s.aug.ack.toNat then (s.recordsTaken next serial).aug = s.aug
     else if s.aug.assigned.toNat < next.toNat then (s.recordsTaken next serial).aug = s.aug ∧ (s.recordsTaken next serial).flag AUG_STAT_ACK_BAD = true
     else (s.recordsTaken next serial).aug = ({ s.aug with ack := next } : Aug).release) ∧
    Framed [.regs, .aug] [AUG_STAT] s (s.recordsTaken next serial) := by
  have hmir : ({ s with aug := ({ s.aug with ack := next } : Aug).release } : State).mirrored = false := hm
  unfold State.recordsTaken
  dsimp only
  rw [if_pos h, hmir]
  split
  · exact ⟨rfl, .refl _ _ s⟩
  · split
    · exact ⟨⟨State.setFlag_aug _ _ _, State.flag_setFlag _ _ _ (by decide) rfl⟩, (Framed.refl _ _ s).setFlag (by decide) (by decide) true⟩
    · exact ⟨rfl, (Framed.refl _ _ s).setAug (by decide) _⟩

theorem State.recAcks_eq (tag : Nat) (next serial : U64) :
    s.recAcks ⟨tag, 0x30, next, leBytes 8 serial.toNat, true⟩ = (s.recordsTaken next serial).executed tag := by
  unfold State.recAcks
  rw [if_pos (leBytes_length _ _)]
  dsimp only
  rw [leBytes_toNat64, BitVec.ofNat_toNat, BitVec.setWidth_eq]

/-! Captures and cold history -/

/-- The place of a capture is free once it has been read. -/
def State.captureFreed (s : State) (i : Nat) : State :=
  ({ s with flt := { s.flt with captures := mapErase s.flt.captures i } } : State).hostDram 0 (captureBase + i * 2048) 2048

theorem State.captureTaken_eq {tag : Nat} {arg : U64} {x : Capture} (hb : s.mod.bootRom = false) (hs : s.mod.st.serving = true)
    (hx : mapFind s.flt.captures (arg.toNat % 4096) = some x) :
    s.captureTaken ⟨tag, 0x40, arg, [], true⟩ = (s.captureFreed (arg.toNat % 4096)).respond tag 0 0 x.bytes := by
  unfold State.captureTaken
  dsimp only
  rw [hx, hb, hs]
  rfl

theorem State.captureFreed_shows (i : Nat) : Framed [.flt, .svc] [] s (s.captureFreed i) ∧ mapFind (s.captureFreed i).flt.captures i = none :=
  ⟨(Framed.refl _ _ s).fields rfl fun p => by
    cases p with
    | flt => exact .inl (by decide)
    | svc => exact .inl (by decide)
    | _ => exact .inr rfl, mapFind_mapErase_self _ _⟩

/-- Cold history in the read-back buffer. -/
def State.coldPut (s : State) (off : Nat) (bs : List Byte) : State :=
  ({ s with svc := { s.svc with readBack := putBytes zeroByte s.svc.readBack off bs } } : State).hostDram 1 (buffersBase + off) bs.length

theorem State.coldTaken_eq {tag : Nat} {arg : U64} {bs : List Byte} (hb : s.mod.bootRom = false) (hs : s.mod.st.serving = true)
    (hl : arg.toNat % 2 ^ 29 + bs.length ≤ 2 ^ 29) :
    s.coldTaken ⟨tag, 0x41, arg, bs, true⟩ = (s.coldPut (arg.toNat % 2 ^ 29) bs).respond tag 0 0 [] := by
  have hd : decide (2 ^ 29 < arg.toNat % 2 ^ 29 + bs.length) = false := by simpa using hl
  unfold State.coldTaken
  dsimp only
  rw [hd, hb, hs]
  rfl

theorem State.coldPut_shows (off : Nat) (bs : List Byte) : Framed [.svc] [] s (s.coldPut off bs) ∧
    bytesAt zeroByte (s.coldPut off bs).svc.readBack off bs.length = bs :=
  ⟨(Framed.refl _ _ s).setSvc (by decide) _, bytesAt_putBytes _ _ _⟩

end

/-- Settles O51: with none waiting the request is served at once, and each kind by what it leaves. -/
theorem requestsAreAnswered : Obligations.RequestsAreAnswered := by
  refine ⟨?read, ?write, ?ack, ?capture, ?cold⟩
  case read =>
    intro tag arg s hs hd hq
    refine ⟨_, congrArg Host.Outcome.next (State.requestOf_serves hs hq (.inr hd) (State.siltReq_of_dramDone hd _)), ?_⟩
    split
    · next h =>
      refine ⟨_, rfl, ?_⟩
      show (State.regReads _ _).hst.responses = _ ∧ Framed _ _ _ (State.regReads _ _)
      rw [State.regReads_within _ _ h]
      exact ⟨by rw [State.respond_hst], State.respond_framed _ _ _ _⟩
    · next h =>
      show s.responds (State.regReads _ _) _ _ _ _
      rw [State.regReads_beyond _ _ h]
      exact State.idleRestart_framed.responds (by decide) (by decide) _ _ _ _
  case write =>
    intro tag arg bs x s hs hd hq h4 h256 hm hx
    refine ⟨_, congrArg Host.Outcome.next (State.requestOf_serves hs hq (.inr hd) (State.siltReq_of_dramDone hd _)), ?_⟩
    have hup : s.idleRestart.hst.up = s.hst.up := by rw [State.idleRestart_framed.1 .hst (by decide)]
    show (State.regWrites _ _).hst.lastTag = _ ∧ (State.regWrites _ _).hst.responses = _ ∧ Framed _ _ _ (State.regWrites _ _)
    rw [State.regWrites_within _ _ h4 h256 hm hx, hup]
    split
    · obtain ⟨hh, hfr⟩ := State.executed_shows (s := x.2) tag.toNat
      exact ⟨by rw [hh], by rw [hh, List.append_nil], hfr.mono (List.Subset.refl _) (by decide)⟩
    · exact ⟨by rw [State.respond_hst], by rw [State.respond_hst], State.respond_framed _ _ _ _⟩
  case ack =>
    intro tag next serial s hs hd hq hser hm
    refine ⟨_, congrArg Host.Outcome.next (State.requestOf_serves hs hq (.inr hd) (State.siltReq_of_dramDone hd _)), ?_⟩
    obtain ⟨a, b, c, hmod⟩ := State.idleRestart_mod (s := s)
    have hidle := State.idleRestart_framed (s := s)
    have haug : s.idleRestart.aug = s.aug := hidle.1 .aug (by decide)
    have hserial : s.idleRestart.serial = s.serial := by
      unfold State.serial
      rw [hidle.1 .sec (by decide)]
    have hmir : s.idleRestart.mirrored = false := by
      unfold State.mirrored State.flag State.fld
      rw [State.idleRestart_reg, hidle.1 .prog (by decide), haug]
      exact hm
    have htaken := State.recordsTaken_own (s := s.idleRestart) (next := next) (serial := serial) (by rw [hserial]; exact hser) hmir
    rw [haug] at htaken
    show (State.recAcks _ _).hst.responses = _ ∧ (State.recAcks _ _).hst.lastTag = _ ∧ (if _ then (State.recAcks _ _).aug = _
      else if _ then (State.recAcks _ _).aug = _ ∧ (State.recAcks _ _).flag _ = _ else (State.recAcks _ _).aug = _) ∧ Framed _ _ _ (State.recAcks _ _)
    rw [State.recAcks_eq]
    obtain ⟨hrec, hfr⟩ := htaken
    generalize s.idleRestart.recordsTaken next serial = u at hrec hfr ⊢
    obtain ⟨hh, hex⟩ := State.executed_shows (s := u) tag.toNat
    have hut : u.hst = s.hst := (hfr.1 .hst (by decide)).trans (hidle.1 .hst (by decide))
    have hea : (u.executed tag.toNat).aug = u.aug := hex.1 .aug (by decide)
    have hef : (u.executed tag.toNat).flag AUG_STAT_ACK_BAD = u.flag AUG_STAT_ACK_BAD := State.flag_of_reg (hex.2 _ (by decide))
    refine ⟨by rw [hh, hut], by rw [hh], ?_, ?_⟩
    · rw [hea, hef]
      exact hrec
    · exact ((hidle.mono (by decide) (by decide)).trans (hfr.mono (by decide) (by decide))).trans (hex.mono (by decide) (by decide))
  case capture =>
    intro tag arg x s hs hd hq hb hx
    refine ⟨_, congrArg Host.Outcome.next (State.requestOf_serves hs hq (.inr hd) (State.siltReq_of_dramDone hd _)), ?_⟩
    obtain ⟨a, b, c, hmod⟩ := State.idleRestart_mod (s := s)
    have hidle := State.idleRestart_framed (s := s)
    have hflt : s.idleRestart.flt = s.flt := hidle.1 .flt (by decide)
    show s.responds (State.captureTaken _ _) _ _ _ _ ∧ mapFind (State.captureTaken _ _).flt.captures _ = _
    rw [State.captureTaken_eq (by rw [hmod]; exact hb) (by rw [hmod]; exact hs) (by rw [hflt]; exact hx)]
    obtain ⟨hfr, hnone⟩ := State.captureFreed_shows (s := s.idleRestart) (arg.toNat % 4096)
    refine ⟨((hidle.mono (by decide) (by decide)).trans (hfr.mono (B := [.mod, .flt, .svc]) (Q := []) (by decide) (by decide))).responds (by decide) (by decide) _ _ _ _, ?_⟩
    rw [(State.respond_framed _ _ _ _).1 .flt (by decide)]
    exact hnone
  case cold =>
    intro tag arg bs s hs hd hq hb hl
    refine ⟨_, congrArg Host.Outcome.next (State.requestOf_serves hs hq (.inr hd) (State.siltReq_of_dramDone hd _)), ?_⟩
    obtain ⟨a, b, c, hmod⟩ := State.idleRestart_mod (s := s)
    have hidle := State.idleRestart_framed (s := s)
    show s.responds (State.coldTaken _ _) _ _ _ _ ∧ bytesAt zeroByte (State.coldTaken _ _).svc.readBack _ _ = _
    rw [State.coldTaken_eq (by rw [hmod]; exact hb) (by rw [hmod]; exact hs) hl]
    obtain ⟨hfr, hput⟩ := State.coldPut_shows (s := s.idleRestart) (arg.toNat % 2 ^ 29) bs
    refine ⟨((hidle.mono (by decide) (by decide)).trans (hfr.mono (B := [.mod, .svc]) (Q := []) (by decide) (by decide))).responds (by decide) (by decide) _ _ _ _, ?_⟩
    rw [(State.respond_framed _ _ _ _).1 .svc (by decide)]
    exact hput

end Sys2Proof.Machine

/-! A rotation whose target bed has lost columns while it loaded (R294): no variant of the incoming phase serves those that are left. -/
namespace Sys2Proof.Machine

/-- The end of loading where a target bed has no variant: the rotation is cancelled and refused (R294). -/
theorem State.rotLoaded_cancels {s : State} {rot : Rotation} {r : RotFrom} (h : s.svc.rot = some rot) (hl : rot.loaded = false)
    (hf : s.rotFrom rot = some r)
    (hv : (rot.moves.flatMap (fun m => (m.2.1 :: m.2.2.toList).map (fun b => (m.1, b)))).any
      (fun x => (pickVariant r.q x.1 s.beds[x.2 % 4]!.usable).isNone) = true) :
    s.rotLoaded = s.cancelRotation.refuseRot 0x10 (r.new.idx 2 r.q.ph.id) := by
  unfold State.rotLoaded
  rw [h]
  dsimp only
  rw [hl, if_neg Bool.false_ne_true, hf]
  exact if_pos hv

theorem State.cancelRotation_rot (s : State) : s.cancelRotation.svc.rot = none := by
  unfold State.cancelRotation
  split
  · assumption
  · next r _ =>
    have hs := (Keeps.foldl (T := [.regs, .beds]) (r.moves.flatMap (fun m => m.2.1 :: m.2.2.toList))
      (Keeps.refl [.regs, .beds] ({ s with svc := { s.svc with rot := none } } : State)) (f := fun s b => s.dropTarget (Fin.ofNat 4 b))
      fun u b h => Keeps.dropTarget h rfl _).same .svc rfl
    dsimp only
    rw [State.setFld_svc, State.setFlag_svc, State.setFld_svc, State.setFld_svc, hs]

theorem State.refuseRot_svc (s : State) (code sec : Nat) : (s.refuseRot code sec).svc = s.svc :=
  (Keeps.refuseRot (.refl [.regs, .aug] s) rfl code sec).same .svc rfl

/-- An image of one phase with no VARIANT section: a PROGRAM section alone (Tables 8.1 to 8.3). -/
def bareImage : List Byte := [1, 0, 0, 0, 1] ++ zeroBytes 11 ++ [5] ++ zeroBytes 15 ++ [1]

/-- The program of that image. -/
def bareProgram : Program := readProgram bareImage 0

/-- The phase of that image. -/
def barePhase : PhaseProg := readPhaseProg bareImage (readTable bareImage (readHeader bareImage)) 0 0

/-- A rotation of layout bed 0 to bed 0 of that image, still loading. -/
def bareRotation : Rotation := { phase := 0, staged := false, moves := [(0, 0, none)], image := none, loaded := false, armed := none }

/-- A module in Growing that loads that rotation. -/
def State.rotLoading : State :=
  { State.reset with
    mod := { State.reset.mod with st := .growing }
    prog := { State.reset.prog with image := some ⟨bareImage, [], 0, 0, bareProgram⟩, phase := 0 }
    svc := { State.reset.svc with rot := some bareRotation } }

theorem State.rotLoading_from : State.rotLoading.rotFrom bareRotation =
    some ⟨State.rotLoading.readLoad bareImage, barePhase, State.rotLoading.readLoad bareImage, barePhase⟩ := rfl

theorem barePhase_variants : barePhase.variants = [] := rfl

/-- Refutes O54: the end of loading cancels and refuses a rotation whose target bed has no variant for its columns (R294), it does not show it as
loaded. -/
theorem not_rotationsLoadArmAndTakeEffect : ¬ Obligations.RotationsLoadArmAndTakeEffect := by
  unfold Obligations.RotationsLoadArmAndTakeEffect
  rintro ⟨-, complete, -⟩
  obtain ⟨t, he, hloaded⟩ := complete bareRotation State.rotLoading rfl rfl rfl
  rw [State.rotLoading_from] at hloaded
  have hcancel := State.rotLoaded_cancels (s := State.rotLoading) rfl rfl State.rotLoading_from (by
    unfold pickVariant
    rw [barePhase_variants]
    rfl)
  have hexec : exec .rotLoadComplete State.rotLoading = .next State.rotLoading.rotLoaded := congrArg Host.Outcome.next (if_pos rfl)
  have ht : State.rotLoading.rotLoaded = t := Host.Outcome.next.inj (hexec.symm.trans he)
  have hrot : t.svc.rot = none := by rw [← ht, hcancel, State.refuseRot_svc, State.cancelRotation_rot]
  exact absurd (hrot.symm.trans hloaded.1) (by simp)

end Sys2Proof.Machine

/-! Sowing over the host link and the requests on the configuration flash (R464, R465, R498). -/
namespace Sys2Proof.Machine

section
variable {s : State}

/-! What an access leaves of a state, and the status of a request -/

/-- The idle timer is all that an access moves. -/
theorem State.idleRestart_eq : ∃ m : ModCtl, s.idleRestart = { s with mod := m } ∧ m.st = s.mod.st ∧ m.bootRom = s.mod.bootRom := by
  unfold State.idleRestart
  split
  · exact ⟨_, rfl, rfl, rfl⟩
  · exact ⟨_, rfl, rfl, rfl⟩

theorem State.responds_of_idle {t : State} {tag status code : Nat} {bs : List Byte} (h : s.idleRestart.responds t tag status code bs) :
    s.responds t tag status code bs := by
  obtain ⟨h1, h2, h3, h4⟩ := h
  rw [State.idleRestart_framed.1 .hst (by decide)] at h1
  rw [State.idleRestart_reg] at h3 h4
  exact ⟨h1, h2, h3, h4⟩

theorem Framed.of_idle {A : List Area} {R : List Nat} {t : State} (hA : Area.mod ∈ A) (h : Framed A R s.idleRestart t) : Framed A R s t :=
  (State.idleRestart_framed.mono (by simpa using hA) (List.nil_subset _)).trans h

/-- A request on the flash or a sow is served at once (R463). -/
theorem State.requestOf_plain {tag op : Nat} {arg : U64} {bs : List Byte} {good : Bool} (hs : s.mod.st.serving = true) (hq : s.hst.requests = [])
    (hh : s.hst.held = []) (ho : op ≠ 1 ∧ op ≠ 2) : s.requestOf tag op arg bs good = s.idleRestart.serveReq ⟨tag, op, arg, bs, good⟩ :=
  State.requestOf_serves hs hq (.inl hh) (State.siltReq_of_op ho)

theorem lowestStatus_zero {cs : List (Nat × Bool)} (h : ∀ c ∈ cs, c.2 = false) : lowestStatus cs = 0 := by
  unfold lowestStatus
  rw [List.find?_eq_none.2 fun c hc => by rw [h c hc]; exact Bool.false_ne_true]
  rfl

theorem State.hostDram_framed (die addr n : Nat) : Framed [.svc] [] s (s.hostDram die addr n) := (Framed.refl _ _ s).setSvc (by decide) _

/-! Sowing -/

/-- A sow opens over a zeroed buffer, a live one ends a pending launch (R465, R498). -/
def State.sowBegun (s : State) (staged : Bool) (len : Nat) : State :=
  let s := { s with prog := { s.prog with sow := some ⟨staged, len, []⟩, staged := if staged then none else s.prog.staged } }
  let s := if staged then s else s.setFlag HZN_STAT_LAUNCH_PEND false
  (s.hostDram 0 (sowBase staged) len).setFlag HST_STAT_SOW_OPEN true

theorem State.sowOpens_live {tag : Nat} {arg : U64} (hb : arg.getLsbD 32 = false) (hl : arg.toNat % 2 ^ 32 ≤ 512 * 2 ^ 20) (hs : s.hostSows = true)
    (he : s.hostSowEn = true) (hn : s.prog.sow = none) :
    s.sowOpens ⟨tag, 0x20, arg, [], true⟩ = (s.sowBegun false (arg.toNat % 2 ^ 32)).respond tag 0 0 [] := by
  have hst : lowestStatus [(1, decide (512 * 2 ^ 20 < arg.toNat % 2 ^ 32)), (3, !s.hostSows), (4, !false && !s.hostSowEn), (7, s.prog.sow.isSome),
      (8, !([] : List Byte).isEmpty)] = 0 := lowestStatus_zero (by
    rw [hs, he, hn, decide_eq_false (Nat.not_lt.2 hl)]
    decide)
  unfold State.sowOpens
  dsimp only
  rw [hb]
  exact if_neg (not_not.2 hst)

theorem State.sowOpens_staged {tag : Nat} {arg : U64} (hb : arg.getLsbD 32 = true) (hl : arg.toNat % 2 ^ 32 ≤ 256 * 2 ^ 20)
    (hs : s.mod.st.serving = true) (hh : s.mod.st ≠ .halted) (hn : s.prog.sow = none) :
    s.sowOpens ⟨tag, 0x20, arg, [], true⟩ = (s.sowBegun true (arg.toNat % 2 ^ 32)).respond tag 0 0 [] := by
  have hne : (s.mod.st != .halted) = true := by simpa using hh
  have hst : lowestStatus [(1, decide (256 * 2 ^ 20 < arg.toNat % 2 ^ 32)), (3, !(s.mod.st.serving && s.mod.st != .halted)),
      (4, !true && !s.hostSowEn), (7, s.prog.sow.isSome), (8, !([] : List Byte).isEmpty)] = 0 := lowestStatus_zero (by
    rw [hs, hne, hn, decide_eq_false (Nat.not_lt.2 hl)]
    cases s.hostSowEn <;> decide)
  unfold State.sowOpens
  dsimp only
  rw [hb]
  exact if_neg (not_not.2 hst)

theorem State.sowBegun_staged (len : Nat) : (s.sowBegun true len).prog = { s.prog with sow := some ⟨true, len, []⟩, staged := none } ∧
    (s.sowBegun true len).flag HST_STAT_SOW_OPEN = true ∧ Framed [.regs, .prog, .svc] [HST_STAT] s (s.sowBegun true len) := by
  unfold State.sowBegun
  dsimp only
  refine ⟨State.setFlag_prog _ _ _, State.flag_setFlag _ _ _ (by decide) rfl, ?_⟩
  exact (((Framed.refl _ _ s).setProg (by decide) _).trans ((State.hostDram_framed _ _ _).mono (by decide) (by decide))).setFlag (by decide) (by decide) true

theorem State.sowBegun_live (len : Nat) : (s.sowBegun false len).prog = { s.prog with sow := some ⟨false, len, []⟩ } ∧
    (s.sowBegun false len).flag HST_STAT_SOW_OPEN = true ∧ (s.sowBegun false len).flag HZN_STAT_LAUNCH_PEND = false ∧
    Framed [.regs, .prog, .svc] [HST_STAT, HZN_STAT] s (s.sowBegun false len) := by
  have hp : Framed [.regs, .prog, .svc] [HST_STAT, HZN_STAT] s ({ s with prog := { s.prog with sow := some ⟨false, len, []⟩, staged := s.prog.staged } } : State) :=
    (Framed.refl _ _ s).setProg (by decide) _
  have hprog : ({ s with prog := { s.prog with sow := some ⟨false, len, []⟩, staged := s.prog.staged } } : State).prog =
    { s.prog with sow := some ⟨false, len, []⟩ } := rfl
  unfold State.sowBegun
  dsimp only
  rw [if_neg Bool.false_ne_true, if_neg Bool.false_ne_true]
  generalize ({ s with prog := { s.prog with sow := some ⟨false, len, []⟩, staged := s.prog.staged } } : State) = u at hp hprog ⊢
  have hdram := State.hostDram_framed (s := u.setFlag HZN_STAT_LAUNCH_PEND false) 0 (sowBase false) len
  generalize (u.setFlag HZN_STAT_LAUNCH_PEND false).hostDram 0 (sowBase false) len = v at hdram ⊢
  refine ⟨?_, State.flag_setFlag _ _ _ (by decide) rfl, ?_, ?_⟩
  · rw [State.setFlag_prog, hdram.1 .prog (by decide), State.setFlag_prog, hprog]
  · rw [State.flag_setFlag_apart _ _ (by decide), State.flag_of_reg (hdram.2 _ List.not_mem_nil), State.flag_setFlag _ _ _ (by decide) rfl]
  · exact ((hp.setFlag (by decide) (by decide) false).trans (hdram.mono (by decide) (by decide))).setFlag (by decide) (by decide) true

/-- The sow may go on: its image goes to the state that takes it (R465, R498). -/
def State.sowRuns (s : State) (w : Sow) : Bool := if w.staged then s.mod.st.serving && s.mod.st != .halted else s.hostSows

theorem State.sowRuns_of {w : Sow} (hs : s.mod.st.serving = true) (h : if w.staged then s.mod.st ≠ .halted else s.hostSows = true) : s.sowRuns w = true := by
  unfold State.sowRuns
  split
  · next hw =>
    rw [if_pos hw] at h
    rw [hs]
    simpa using h
  · next hw =>
    rw [if_neg hw] at h
    exact h

theorem State.sowRuns_not (w : Sow) : (if w.staged then !(s.mod.st.serving && s.mod.st != .halted) else !s.hostSows) = !s.sowRuns w := by
  unfold State.sowRuns
  cases w.staged <;> rfl

/-- Image bytes in the buffer of the sow that is open. -/
def State.sowPut (s : State) (w : Sow) (off : Nat) (bs : List Byte) : State :=
  ({ s with prog := { s.prog with sow := some { w with bytes := putBytes zeroByte w.bytes off bs } } } : State).hostDram 0 (sowBase w.staged + off) bs.length

theorem State.sowTakes_put {tag : Nat} {arg : U64} {bs : List Byte} {w : Sow} (hw : s.prog.sow = some w) (hr : s.sowRuns w = true)
    (hl : arg.toNat % 2 ^ 32 + bs.length ≤ w.length) :
    s.sowTakes ⟨tag, 0x21, arg, bs, true⟩ = (s.sowPut w (arg.toNat % 2 ^ 32) bs).respond tag 0 0 [] := by
  have hst : lowestStatus [(3, if w.staged then !(s.mod.st.serving && s.mod.st != .halted) else !s.hostSows),
      (8, decide (w.length < arg.toNat % 2 ^ 32 + bs.length))] = 0 := lowestStatus_zero (by
    rw [State.sowRuns_not, hr, decide_eq_false (Nat.not_lt.2 hl)]
    decide)
  unfold State.sowTakes
  rw [hw]
  exact if_neg (not_not.2 hst)

theorem State.sowTakes_none {r : HostReq} (hw : s.prog.sow = none) : s.sowTakes r = s.respond r.tag 3 0 [] := by
  unfold State.sowTakes
  rw [hw]

theorem State.sowPut_shows (w : Sow) (off : Nat) (bs : List Byte) :
    (s.sowPut w off bs).prog = { s.prog with sow := some { w with bytes := putBytes zeroByte w.bytes off bs } } ∧
    Framed [.prog, .svc] [] s (s.sowPut w off bs) :=
  ⟨rfl, ((Framed.refl _ _ s).setProg (by decide) _).trans ((State.hostDram_framed _ _ _).mono (by decide) (by decide))⟩

/-- No sow is open any more. -/
def State.sowClosed (s : State) : State := ({ s with prog := { s.prog with sow := none } } : State).setFlag HST_STAT_SOW_OPEN false

theorem State.sowClosed_shows : s.sowClosed.prog = { s.prog with sow := none } ∧ s.sowClosed.flag HST_STAT_SOW_OPEN = false ∧
    Framed [.regs, .prog] [HST_STAT] s s.sowClosed :=
  ⟨State.setFlag_prog _ _ _, State.flag_setFlag _ _ _ (by decide) rfl, ((Framed.refl _ _ s).setProg (by decide) _).setFlag (by decide) (by decide) false⟩

theorem State.sowCloses_eq {tag : Nat} {arg : U64} {w : Sow} (hw : s.prog.sow = some w) (hr : s.sowRuns w = true) :
    s.sowCloses ⟨tag, 0x22, arg, [], true⟩ = if w.staged then
        ({ s.sowClosed with prog := { s.sowClosed.prog with staged := some (w.image, sha512 (w.image.take (readHeader w.image).sigOff)) } } : State).respond
          tag 0 0 []
      else s.sowClosed.liveSow tag w := by
  have hst : lowestStatus [(3, if w.staged then !(s.mod.st.serving && s.mod.st != .halted) else !s.hostSows), (8, !([] : List Byte).isEmpty)] = 0 :=
    lowestStatus_zero (by
      rw [State.sowRuns_not, hr]
      decide)
  unfold State.sowCloses
  rw [hw]
  exact if_neg (not_not.2 hst)

theorem State.sowCloses_none {r : HostReq} (hw : s.prog.sow = none) : s.sowCloses r = s.respond r.tag 3 0 [] := by
  unfold State.sowCloses
  rw [hw]

/-! Flash -/

theorem State.flashDev_of_fin (k : Fin 2) : s.flashDev k.val = (s.flash.dev[k] : FlashDev) := by
  unfold State.flashDev
  rw [List.getD_eq_getElem?_getD, List.getElem?_eq_getElem (by rw [Vector.length_toList]; exact k.isLt), Option.getD_some, Vector.getElem_toList]
  rfl

theorem State.setFlash_dev (k : Fin 2) (m : Map Byte) :
    ((s.setFlash k.val m).flash.dev[k] : FlashDev) = { (s.flash.dev[k] : FlashDev) with bytes := m } := by
  match k with
  | 0 => exact Vector.getElem_set_self _
  | 1 => exact Vector.getElem_set_self _

theorem State.setFlash_other {k j : Fin 2} (h : j ≠ k) (m : Map Byte) : ((s.setFlash k.val m).flash.dev[j] : FlashDev) = s.flash.dev[j] := by
  have hv : k.val ≠ j.val := fun e => h (Fin.ext e.symm)
  match k with
  | 0 => exact Vector.getElem_set_ne (i := 0) (by decide) _ hv
  | 1 => exact Vector.getElem_set_ne (i := 1) (by decide) _ hv

theorem State.setFlash_framed (n : Nat) (m : Map Byte) : Framed [.flash] [] s (s.setFlash n m) :=
  (Framed.refl _ _ s).fields rfl fun p => by
    cases p with
    | flash => exact .inl (by decide)
    | _ => exact .inr rfl

/-- The operation on a flash device may run: its status is 0 (Table 16.4). -/
theorem State.flashStatus_zero {k : Fin 2} {off n : Nat} {write range badLen : Bool} (hs : s.mod.st.serving = true)
    (hw : write = true → s.flashWriteEn = true ∧ s.prog.sow = none) (hr : range = false) (hb : badLen = false)
    (hp : (s.flash.dev[k] : FlashDev).present = true) (hl : off + n ≤ (s.flash.dev[k] : FlashDev).size) :
    s.flashStatus k.val off n write range badLen = 0 := by
  unfold State.flashStatus
  rw [State.flashDev_of_fin]
  refine lowestStatus_zero ?_
  rw [hs, hr, hb, hp, decide_eq_false (Nat.not_lt.2 hl), decide_eq_false (Nat.not_lt.2 (Nat.lt_succ_iff.1 k.isLt))]
  cases write with
  | true =>
    obtain ⟨he, hn⟩ := hw rfl
    rw [he, hn]
    decide
  | false => simp

theorem mapFind_filter_out (m : Map Byte) {p : Nat → Bool} {a : Nat} (hp : p a = false) : mapFind (m.filter (fun x => p x.1)) a = none := by
  induction m with
  | nil => rfl
  | cons x m ih =>
    obtain ⟨j, v⟩ := x
    rw [List.filter_cons]
    split
    · next hj =>
      have hne : j ≠ a := fun e => Bool.false_ne_true (hp.symm.trans (e ▸ hj))
      rw [mapFind, if_neg hne]
      exact ih
    · exact ih

/-- The sectors of a device that are erased hold no byte that differs from an erased one. -/
def FlashDev.erased (d : FlashDev) (off n : Nat) : Map Byte := d.bytes.filter (fun x => !decide (off ≤ x.1 ∧ x.1 < off + n))

theorem FlashDev.erased_in (d : FlashDev) {off n a : Nat} (h1 : off ≤ a) (h2 : a < off + n) : mapGet erasedByte (d.erased off n) a = 0xFF := by
  unfold FlashDev.erased mapGet
  rw [mapFind_filter_out d.bytes (p := fun x => !decide (off ≤ x ∧ x < off + n)) (by rw [decide_eq_true ⟨h1, h2⟩]; rfl)]
  rfl

theorem FlashDev.erased_out (d : FlashDev) {off n a : Nat} (h : a < off ∨ off + n ≤ a) :
    mapGet erasedByte (d.erased off n) a = mapGet erasedByte d.bytes a := by
  have hn : ¬ (off ≤ a ∧ a < off + n) := by omega
  unfold FlashDev.erased mapGet
  rw [mapFind_filter d.bytes _ a fun _ => by rw [decide_eq_false hn]; rfl]

/-- What a write to a device leaves of the flash. -/
theorem State.setFlash_bytes (k : Fin 2) (m : Map Byte) : ((s.setFlash k.val m).flash.dev[k] : FlashDev).bytes = m := by
  rw [State.setFlash_dev]

variable {tag : Nat} {arg : U64} {k : Fin 2}

theorem State.flashErases_good (hs : s.mod.st.serving = true) (hk : bitsOf arg.toNat 32 8 = k.val)
    (ho : arg.toNat % 2 ^ 32 % 4096 = 0) (hw : s.flashWriteEn = true) (hp : (s.flash.dev[k] : FlashDev).present = true)
    (hl : arg.toNat % 2 ^ 32 + 4096 * bitsOf arg.toNat 40 24 ≤ (s.flash.dev[k] : FlashDev).size) (hn : s.prog.sow = none) (good : Bool) :
    s.flashErases ⟨tag, 0x10, arg, [], good⟩ =
      if good then (s.setFlash k.val ((s.flash.dev[k] : FlashDev).erased (arg.toNat % 2 ^ 32) (4096 * bitsOf arg.toNat 40 24))).respond tag 0 0 []
      else ((s.drawBytes (4096 * bitsOf arg.toNat 40 24)).2.setFlash k.val (putBytes erasedByte (s.flash.dev[k] : FlashDev).bytes (arg.toNat % 2 ^ 32)
        (s.drawBytes (4096 * bitsOf arg.toNat 40 24)).1)).respond tag 6 0 [] := by
  have hst : s.flashStatus k.val (arg.toNat % 2 ^ 32) (4096 * bitsOf arg.toNat 40 24) true (arg.toNat % 2 ^ 32 % 4096 != 0) (!([] : List Byte).isEmpty) = 0 :=
    State.flashStatus_zero hs (fun _ => ⟨hw, hn⟩) (by rw [ho]; rfl) rfl hp hl
  unfold State.flashErases
  dsimp only
  rw [hk, State.flashDev_of_fin]
  exact if_neg (not_not.2 hst)

/-- What programming leaves of a page: bits are cleared only (R464). -/
def FlashDev.programmed (d : FlashDev) (off : Nat) (bs : List Byte) : List Byte :=
  List.zipWith (fun (a b : Byte) => a &&& b) (bytesAt erasedByte d.bytes off bs.length) bs

theorem FlashDev.programmed_length (d : FlashDev) (off : Nat) (bs : List Byte) : (d.programmed off bs).length = bs.length := by
  unfold FlashDev.programmed
  rw [List.length_zipWith, bytesAt_length, Nat.min_self]

theorem State.flashPrograms_eq {bs : List Byte} (hs : s.mod.st.serving = true) (hk : bitsOf arg.toNat 32 8 = k.val)
    (hw : s.flashWriteEn = true) (hp : (s.flash.dev[k] : FlashDev).present = true)
    (hl : arg.toNat % 2 ^ 32 + bs.length ≤ (s.flash.dev[k] : FlashDev).size) (hn : s.prog.sow = none) (h1 : 1 ≤ bs.length)
    (h256 : arg.toNat % 2 ^ 32 % 256 + bs.length ≤ 256) (good : Bool) :
    s.flashPrograms ⟨tag, 0x11, arg, bs, good⟩ =
      if good then (s.setFlash k.val (putBytes erasedByte (s.flash.dev[k] : FlashDev).bytes (arg.toNat % 2 ^ 32)
        ((s.flash.dev[k] : FlashDev).programmed (arg.toNat % 2 ^ 32) bs))).respond tag
          (if (s.flash.dev[k] : FlashDev).programmed (arg.toNat % 2 ^ 32) bs = bs then 0 else 6) 0 []
      else ((s.drawBytes bs.length).2.setFlash k.val (putBytes erasedByte (s.flash.dev[k] : FlashDev).bytes (arg.toNat % 2 ^ 32)
        (List.zipWith (fun (a b : Byte) => a &&& b) (bytesAt erasedByte (s.flash.dev[k] : FlashDev).bytes (arg.toNat % 2 ^ 32) bs.length)
          (s.drawBytes bs.length).1))).respond tag 6 0 [] := by
  have hbad : decide (bs.length < 1 ∨ 256 < arg.toNat % 2 ^ 32 % 256 + bs.length) = false := decide_eq_false (by omega)
  have hst : s.flashStatus k.val (arg.toNat % 2 ^ 32) bs.length true false (decide (bs.length < 1 ∨ 256 < arg.toNat % 2 ^ 32 % 256 + bs.length)) = 0 :=
    State.flashStatus_zero hs (fun _ => ⟨hw, hn⟩) rfl hbad hp hl
  unfold State.flashPrograms
  dsimp only
  rw [hk, State.flashDev_of_fin]
  exact if_neg (not_not.2 hst)

theorem State.flashReads_eq (hs : s.mod.st.serving = true) (hk : bitsOf arg.toNat 32 8 = k.val) (hp : (s.flash.dev[k] : FlashDev).present = true)
    (hl : arg.toNat % 2 ^ 32 + bitsOf arg.toNat 40 13 ≤ (s.flash.dev[k] : FlashDev).size) (h1 : 1 ≤ bitsOf arg.toNat 40 13)
    (h4096 : bitsOf arg.toNat 40 13 ≤ 4096) :
    s.flashReads ⟨tag, 0x12, arg, [], true⟩ =
      s.respond tag 0 0 (bytesAt erasedByte (s.flash.dev[k] : FlashDev).bytes (arg.toNat % 2 ^ 32) (bitsOf arg.toNat 40 13)) := by
  have hbad : decide (bitsOf arg.toNat 40 13 < 1 ∨ 4096 < bitsOf arg.toNat 40 13) = false := decide_eq_false (by omega)
  have hst : s.flashStatus k.val (arg.toNat % 2 ^ 32) (bitsOf arg.toNat 40 13) false (decide (bitsOf arg.toNat 40 13 < 1 ∨ 4096 < bitsOf arg.toNat 40 13))
      (!([] : List Byte).isEmpty) = 0 :=
    State.flashStatus_zero hs (fun h => absurd h Bool.false_ne_true) hbad rfl hp hl
  unfold State.flashReads
  dsimp only
  rw [hk, State.flashDev_of_fin]
  exact if_neg (not_not.2 hst)

theorem State.drawBytes_shows (n : Nat) : (s.drawBytes n).1.length = n ∧ Framed [.free] [] s (s.drawBytes n).2 := by
  refine ⟨?_, (Framed.refl _ _ s).fields rfl fun p => ?_⟩
  · unfold State.drawBytes
    rw [List.length_map, List.length_range]
  · cases p with
    | free => exact .inl (by decide)
    | _ => exact .inr rfl

end

end Sys2Proof.Machine

/-! The loader at a sow and at a restart from flash (R272, R273, R378, R465). -/
namespace Sys2Proof.Machine

section
variable {s : State}

/-! An image that the loader takes has its first phase -/

theorem firstRefusal_none {cs : List (Nat × List Nat)} (h : firstRefusal cs = none) {c : Nat × List Nat} (hc : c ∈ cs) : c.2 = [] := by
  unfold firstRefusal at h
  rw [Option.map_eq_none_iff, List.find?_eq_none] at h
  simpa using h c hc

theorem failIf_nil {b : Bool} {n : Nat} (h : failIf b n = []) : b = false := by
  unfold failIf at h
  cases b with
  | true => exact absurd h (by simp)
  | false => rfl

theorem State.loaderChecks_file {l : Load} (h : s.loaderChecks l = none) {c : Nat × List Nat} (hc : c ∈ s.fileChecks l) : c.2 = [] := by
  unfold State.loaderChecks at h
  dsimp only at h
  cases hf : firstRefusal (s.fileChecks l) with
  | none => exact firstRefusal_none hf hc
  | some r =>
    rw [hf] at h
    exact absurd h (by simp)

/-- A PHASE section stands for each phase of an image with no section missing (R271). -/
theorem Load.phase_section {l : Load} (h : l.missing = []) {n : Nat} (hn : n < l.prog.phases.length) : ∃ e, findSec l.table 2 n (fun _ => true) = some e := by
  unfold Load.missing at h
  dsimp only at h
  rw [List.append_eq_nil_iff] at h
  have hl := failIf_nil h.1
  rw [Bool.or_eq_false_iff, List.any_eq_false] at hl
  have hp := hl.1 n (List.mem_range.2 hn)
  simp only [List.any_cons, Bool.or_eq_true, not_or] at hp
  exact Option.ne_none_iff_exists'.1 (by simpa using hp.1.1.1.1.1)

/-- A PHASE section within its ranges names the phase that its entry does (Table 8.5). -/
theorem Load.phase_id {l : Load} (h : l.ranges = []) {n : Nat} {e : Nat × SecEntry} (he : findSec l.table 2 n (fun _ => true) = some e) :
    (readPhase (secBytes l.img e.2)).id = n := by
  have hm := List.mem_of_find?_eq_some he
  have hc := List.find?_some he
  rw [Bool.and_true, Bool.and_eq_true, beq_iff_eq, beq_iff_eq] at hc
  unfold Load.ranges at h
  dsimp only at h
  rw [List.append_eq_nil_iff, List.flatMap_eq_nil_iff] at h
  have hr := h.2 e hm
  rw [if_pos hc.1] at hr
  have hin := failIf_nil hr
  rw [Bool.not_eq_false'] at hin
  unfold phaseInRange at hin
  cases hid : (readPhase (secBytes l.img e.2)).id == e.2.phase with
  | true => exact (beq_iff_eq.1 hid).trans hc.2
  | false => exact absurd hin (by simp [hid])

/-- The first phase of an image is one of its phases (Table 8.3). -/
theorem Load.first_lt {l : Load} (h : l.ranges = []) : leAt (programSec l.img l.table).2 5 1 < leAt (programSec l.img l.table).2 4 1 := by
  unfold Load.ranges at h
  dsimp only at h
  rw [List.append_eq_nil_iff] at h
  have hb := failIf_nil h.1
  simp only [Bool.or_eq_false_iff, decide_eq_false_iff_not] at hb
  exact Nat.not_le.1 hb.1.2

/-- An image that passes the loader's checks has the phase that a sowing places (R271, R281). -/
theorem State.loaderChecks_phase {img : List Byte} (h : s.loaderChecks (s.readLoad img) = none) :
    ∃ q, (s.readLoad img).prog.phase? (s.readLoad img).prog.firstPhase = some q := by
  have hmiss : (s.readLoad img).missing = [] := State.loaderChecks_file h (c := (0x09, (s.readLoad img).missing)) (by simp [State.fileChecks])
  have hrange : (s.readLoad img).ranges = [] := State.loaderChecks_file h (c := (0x0B, (s.readLoad img).ranges)) (by simp [State.fileChecks])
  have hlt := Load.first_lt hrange
  obtain ⟨pos, hpos⟩ : ∃ pos, (s.readLoad img).prog = readProgram img pos := ⟨_, rfl⟩
  have hphases : (s.readLoad img).prog.phases = (List.range (leAt (programSec img (readTable img (readHeader img))).2 4 1)).map
      (readPhaseProg img (readTable img (readHeader img)) pos) := by rw [hpos]; rfl
  have hfirst : (s.readLoad img).prog.firstPhase = leAt (programSec img (readTable img (readHeader img))).2 5 1 := rfl
  have hn : (s.readLoad img).prog.firstPhase < leAt (programSec img (readTable img (readHeader img))).2 4 1 := hlt
  obtain ⟨e, he⟩ := Load.phase_section hmiss (n := (s.readLoad img).prog.firstPhase) (by rw [hphases, List.length_map, List.length_range]; exact hn)
  have hid := Load.phase_id hrange he
  have hsec : findSec (readTable img (readHeader img)) 2 (s.readLoad img).prog.firstPhase (fun _ => true) = some e := he
  have hmem : readPhaseProg img (readTable img (readHeader img)) pos (s.readLoad img).prog.firstPhase ∈ (s.readLoad img).prog.phases := by
    rw [hphases]
    exact List.mem_map_of_mem (List.mem_range.2 hn)
  have hq : (readPhaseProg img (readTable img (readHeader img)) pos (s.readLoad img).prog.firstPhase).ph.id = (s.readLoad img).prog.firstPhase := by
    refine Eq.trans ?_ hid
    unfold readPhaseProg
    dsimp only
    rw [hsec]
    rfl
  exact Option.isSome_iff_exists.1 (List.find?_isSome.2 ⟨_, hmem, beq_iff_eq.2 hq⟩)

/-! What an accepted image leaves -/

theorem State.placeProgram_prog (l : Load) (p : PhaseProg) (placed : List Placed) :
    (s.placeProgram l p placed).prog = { s.prog with phase := p.ph.id, place := placeList p.ph.layoutBeds placed } := by
  unfold State.placeProgram
  extract_lets u v w x y
  have hu : Keeps [.regs, .beds] s u := Keeps.foldl _ (.refl _ s) fun t b ht => by
    split
    · exact ht
    · exact Keeps.clearBed ht rfl _
  have hv : Keeps [.regs, .beds] s v := Keeps.foldl _ hu fun t b ht => Keeps.writeBedRegs (Keeps.loadBed ht rfl _ _ _) rfl _ _
  rw [(Keeps.writePhaseRegs (.refl [.regs] y) rfl _ _).same .prog rfl]
  exact congrArg (fun q : Prog => { q with phase := p.ph.id, place := placeList p.ph.layoutBeds placed }) (hv.same .prog rfl)

/-- The image copy of an accepted load (R289, R292). -/
def State.imageTaken (s : State) (l : Load) : ImageCopy :=
  { bytes := l.img, digest := l.digest, keySlot := (s.keySlot (blockKeyHash (sigBlock l.img l.hdr))).getD 0, index := s.prog.nextIndex, program := l.prog }

/-- The image stands in the copy before its first phase is placed. -/
def State.imageCopied (s : State) (l : Load) : State :=
  { s with prog := { s.prog with image := some (s.imageTaken l), nextIndex := s.prog.nextIndex + 1, corrections := [] }
           mod := { s.mod with copyDigest := l.digest } }

/-- The accepted image placed, with its roles, rates and the continued tick loss (R43, R403). -/
def State.imagePlaced (s : State) (l : Load) (p : PhaseProg) : State :=
  (((((s.imageCopied l).placeProgram l p (s.sowPlacing l).placed).showRole l.prog).freezeDecision).periodWritten (s.reg HZN_TICK_PERIOD).toNat)

theorem State.acceptLoad_eq {l : Load} {p : PhaseProg} (h : l.prog.phase? l.prog.firstPhase = some p) (source : Nat) :
    s.acceptLoad l source = ((s.imagePlaced l p).showLoad source 0 noSec).writePair 0x0301 (s.imagePlaced l p).count 0 s.prog.nextIndex l.digest := by
  unfold State.acceptLoad
  rw [h]
  rfl

theorem State.imagePlaced_keeps (l : Load) (p : PhaseProg) :
    Keeps [.regs, .aug, .lanes, .tim] ((s.imageCopied l).placeProgram l p (s.sowPlacing l).placed) (s.imagePlaced l p) :=
  Keeps.periodWritten (Keeps.freezeDecision (Keeps.showRole (.refl _ _) rfl _) rfl) rfl _

theorem State.imagePlaced_shows (l : Load) (p : PhaseProg) :
    (s.imagePlaced l p).prog = { s.prog with
      image := some (s.imageTaken l), nextIndex := s.prog.nextIndex + 1, corrections := [], phase := p.ph.id
      place := placeList p.ph.layoutBeds (s.sowPlacing l).placed } ∧
    (s.imagePlaced l p).mod = { s.mod with copyDigest := l.digest } := by
  have hk := State.imagePlaced_keeps (s := s) l p
  have hp : Keeps [.regs, .prog, .beds, .eng] (s.imageCopied l) ((s.imageCopied l).placeProgram l p (s.sowPlacing l).placed) :=
    Keeps.placeProgram (.refl _ _) rfl _ _ _
  refine ⟨?_, ?_⟩
  · rw [hk.same .prog rfl, State.placeProgram_prog]
    rfl
  · rw [hk.same .mod rfl, hp.same .mod rfl]
    rfl

/-- CFG_LOAD_STAT of a load from one of the sources (Table 12.11). -/
def loadStat (source code sec : Nat) : Word := BitVec.ofNat 32 (sec % 65536 * 65536 + source * 4096 + code)

theorem State.acceptLoad_shows {l : Load} {p : PhaseProg} (h : l.prog.phase? l.prog.firstPhase = some p) (source : Nat) :
    (s.acceptLoad l source).prog = { s.prog with
      image := some (s.imageTaken l), nextIndex := s.prog.nextIndex + 1, corrections := [], phase := p.ph.id
      place := placeList p.ph.layoutBeds (s.sowPlacing l).placed } ∧
    (s.acceptLoad l source).mod = { s.mod with copyDigest := l.digest } ∧ (s.acceptLoad l source).reg CFG_LOAD_STAT = loadStat source 0 noSec := by
  obtain ⟨hprog, hmod⟩ := State.imagePlaced_shows (s := s) l p
  rw [State.acceptLoad_eq h]
  generalize s.imagePlaced l p = u at hprog hmod ⊢
  have hpair := State.writePair_framed (u.showLoad source 0 noSec) 0x0301 u.count 0 s.prog.nextIndex l.digest
  refine ⟨?_, ?_, ?_⟩
  · exact (hpair.1 .prog (by decide)).trans hprog
  · exact (hpair.1 .mod (by decide)).trans hmod
  · exact (hpair.2 _ (by decide)).trans (State.reg_setReg _ _ _)

/-- A refused load changes its register and the records only (R272). -/
theorem State.refuseLoad_shows (source code sec : Nat) :
    (s.refuseLoad source code sec).reg CFG_LOAD_STAT = loadStat source code sec ∧
    (s.canNumber = true → (s.refuseLoad source code sec).lastEvent = some (0x0302, [code, sec])) ∧
    Framed [.regs, .aug] [CFG_LOAD_STAT, AUG_RATE, AUG_STAT] s (s.refuseLoad source code sec) := by
  unfold State.refuseLoad State.showLoad
  exact ⟨(State.writeEvent_reg _ _ _ (by decide) (by decide)).trans (State.reg_setReg _ _ _), fun hn => State.writeEvent_last _ _ _ hn,
    ((Framed.refl _ _ s).setReg (by decide) (by decide) _).writeEvent (by decide) (by decide) _ _⟩

theorem State.runLoader_refused {img : List Byte} {r : Nat × Nat} (h : s.loaderChecks (s.readLoad img) = some r) (source : Nat) :
    s.runLoader img source = (false, s.refuseLoad source r.1 r.2) := by
  unfold State.runLoader
  dsimp only
  rw [h]

theorem State.runLoader_accepted {img : List Byte} (h : s.loaderChecks (s.readLoad img) = none) (source : Nat) :
    s.runLoader img source = (true, s.acceptLoad (s.readLoad img) source) := by
  unfold State.runLoader
  dsimp only
  rw [h]

/-! A live sow ends -/

/-- An accepted sow leaves Unplanted for Sown (R30). -/
def State.sownNow (s : State) : State := if s.mod.st = .unplanted then s.enterState .sown 0 0 0 else s

theorem State.sownNow_shows (h : s.mod.st = .unplanted ∨ s.mod.st = .sown) : s.sownNow.mod.st = .sown ∧ s.sownNow.prog = s.prog ∧
    s.sownNow.hst = s.hst ∧ s.sownNow.reg CFG_LOAD_STAT = s.reg CFG_LOAD_STAT := by
  unfold State.sownNow
  split
  · have hk : Keeps [.regs, .mod, .fast, .eng, .aug, .dec] s (s.enterState .sown 0 0 0) := Keeps.enterState (.refl _ s) rfl _ _ _ _
    exact ⟨State.enterState_st _ _ _ _ _, hk.same .prog rfl, hk.same .hst rfl,
      State.enterState_reg _ _ _ _ _ (by decide) (by decide) (by decide) (by decide)⟩
  · next hn => exact ⟨h.resolve_left hn, rfl, rfl, rfl⟩

theorem State.liveSow_of {w : Sow} {b : Bool} {u : State} (h : s.runLoader w.image 2 = (b, u)) (tag : Nat) :
    s.liveSow tag w = (if b = true ∧ u.mod.st = .unplanted then u.enterState .sown 0 0 0 else u).respond tag 0
      (if b = true then 0 else u.fld CFG_LOAD_STAT_CODE) [] := by
  unfold State.liveSow
  rw [h]

theorem State.liveSow_accepted {w : Sow} (h : s.loaderChecks (s.readLoad w.image) = none) (tag : Nat) :
    s.liveSow tag w = ((s.acceptLoad (s.readLoad w.image) 2).sownNow).respond tag 0 0 [] := by
  rw [State.liveSow_of (State.runLoader_accepted h 2)]
  generalize s.acceptLoad (s.readLoad w.image) 2 = u
  unfold State.sownNow
  simp only [true_and, if_true]

theorem State.liveSow_refused {w : Sow} {r : Nat × Nat} (h : s.loaderChecks (s.readLoad w.image) = some r) (tag : Nat) :
    s.liveSow tag w = (s.refuseLoad 2 r.1 r.2).respond tag 0 ((s.refuseLoad 2 r.1 r.2).fld CFG_LOAD_STAT_CODE) [] := by
  rw [State.liveSow_of (State.runLoader_refused h 2), if_neg Bool.false_ne_true, if_neg fun hx => Bool.false_ne_true hx.1]

theorem State.respond_fld (tag status code : Nat) (bs : List Byte) : (s.respond tag status code bs).fld CFG_LOAD_STAT_CODE = s.fld CFG_LOAD_STAT_CODE :=
  State.fld_of_reg ((State.respond_framed _ _ _ _).2 _ (by decide))

/-- A live sow that the loader takes: Sown with its image, first phase and placement (R30, R272, R465). -/
theorem State.liveSow_takes {w : Sow} {q : PhaseProg} (h : s.loaderChecks (s.readLoad w.image) = none)
    (hq : (s.readLoad w.image).prog.phase? (s.readLoad w.image).prog.firstPhase = some q) (hs : s.mod.st = .unplanted ∨ s.mod.st = .sown) (tag : Nat) :
    (s.liveSow tag w).hst.responses = s.hst.responses ++ [⟨tag, 0, (s.liveSow tag w).fld CFG_LOAD_STAT_CODE, []⟩] ∧ (s.liveSow tag w).mod.st = .sown ∧
    (s.liveSow tag w).prog = { s.prog with
      image := some (s.imageTaken (s.readLoad w.image)), nextIndex := s.prog.nextIndex + 1, corrections := [], phase := q.ph.id
      place := placeList q.ph.layoutBeds (s.sowPlacing (s.readLoad w.image)).placed } ∧
    (s.liveSow tag w).reg CFG_LOAD_STAT = loadStat 2 0 noSec := by
  rw [State.liveSow_accepted h, State.respond_fld]
  have hk : Keeps [.regs, .mod, .prog, .beds, .eng, .aug, .lanes, .tim] s (s.acceptLoad (s.readLoad w.image) 2) := Keeps.acceptLoad (.refl _ s) rfl _ _
  have hhst := hk.same .hst rfl
  obtain ⟨hprog, hmod, hreg⟩ := State.acceptLoad_shows (s := s) hq 2
  generalize s.acceptLoad (s.readLoad w.image) 2 = u at hhst hprog hmod hreg ⊢
  obtain ⟨hst, hp, hh, hr⟩ := State.sownNow_shows (s := u) (by rw [hmod]; exact hs)
  have hcode : u.sownNow.fld CFG_LOAD_STAT_CODE = 0 := by
    unfold State.fld
    rw [show u.sownNow.reg CFG_LOAD_STAT_CODE.addr = loadStat 2 0 noSec from hr.trans hreg]
    decide
  have hresp := State.respond_framed (s := u.sownNow) tag 0 0 []
  refine ⟨?_, ?_, ?_, ?_⟩
  · rw [State.respond_hst, hcode, hh, hhst]
  · rw [hresp.1 .mod (by decide), hst]
  · rw [hresp.1 .prog (by decide), hp, hprog]
  · rw [hresp.2 _ (by decide), hr, hreg]

/-- A live sow that the loader refuses leaves its code and its record (R272, R465). -/
theorem State.liveSow_refuses {w : Sow} {r : Nat × Nat} (h : s.loaderChecks (s.readLoad w.image) = some r) (tag : Nat) :
    (s.liveSow tag w).hst.responses = s.hst.responses ++ [⟨tag, 0, (s.liveSow tag w).fld CFG_LOAD_STAT_CODE, []⟩] ∧
    (s.liveSow tag w).reg CFG_LOAD_STAT = loadStat 2 r.1 r.2 ∧ (s.liveSow tag w).mod = s.mod ∧ (s.liveSow tag w).prog = s.prog ∧
    (s.canNumber = true → (s.liveSow tag w).lastEvent = some (0x0302, [r.1, r.2])) := by
  rw [State.liveSow_refused h, State.respond_fld]
  obtain ⟨hreg, hev, hfr⟩ := State.refuseLoad_shows (s := s) 2 r.1 r.2
  generalize s.refuseLoad 2 r.1 r.2 = u at hreg hev hfr ⊢
  have hresp := State.respond_framed (s := u) tag 0 (u.fld CFG_LOAD_STAT_CODE) []
  refine ⟨?_, ?_, ?_, ?_, fun hn => ?_⟩
  · rw [State.respond_hst, hfr.1 .hst (by decide)]
  · rw [hresp.2 _ (by decide), hreg]
  · rw [hresp.1 .mod (by decide), hfr.1 .mod (by decide)]
  · rw [hresp.1 .prog (by decide), hfr.1 .prog (by decide)]
  · unfold State.lastEvent
    rw [hresp.1 .aug (by decide)]
    exact hev hn

/-! A restart from flash -/

theorem State.restartFlash_good (hs : s.mod.st = .unplanted) (hn : s.prog.sow = none) (hd : directoryGood s.directory = true)
    (hp : (s.flashDev 0).present = true) : s.restartFlash =
      if s.loadFlash.1 then ((s.loadFlash.2.2.setFld CFG_BOOT_STAT_CODE 0).bootStep 7).enterState .sown 0 0 0
      else s.loadFlash.2.2.setFld CFG_BOOT_STAT_CODE s.loadFlash.2.1 :=
  (if_pos ⟨hs, by rw [hn]; rfl⟩).trans (if_pos ⟨hd, hp⟩)

theorem State.restartFlash_bad (hs : s.mod.st = .unplanted) (hn : s.prog.sow = none)
    (hd : directoryGood s.directory = false ∨ (s.flashDev 0).present = false) :
    s.restartFlash = s.setFld CFG_BOOT_STAT_CODE (if (s.flashDev 0).present then 3 else 2) := by
  refine (if_pos ⟨hs, by rw [hn]; rfl⟩).trans (if_neg fun h => ?_)
  cases hd with
  | inl hx => exact Bool.false_ne_true (hx.symm.trans h.1)
  | inr hx => exact Bool.false_ne_true (hx.symm.trans h.2)

theorem State.restartFlash_ignored (h : s.mod.st ≠ .unplanted ∨ s.prog.sow.isSome = true) : s.restartFlash = s := by
  refine if_neg fun hx => ?_
  cases h with
  | inl hs => exact hs hx.1
  | inr hs => exact absurd hx.2 (by rw [Option.isNone_iff_eq_none, ← ne_eq, Option.ne_none_iff_isSome]; exact hs)

theorem State.loadFlash_keeps : Keeps [.regs, .mod, .prog, .beds, .eng, .aug, .lanes, .tim] s s.loadFlash.2.2 := by
  unfold State.loadFlash
  split
  · exact .refl _ s
  · exact Keeps.runLoader (.refl _ s) rfl _ _

/-- A load from flash that fails leaves the module control and the program alone. -/
theorem State.loadFlash_fails_keeps (h : s.loadFlash.1 = false) : s.loadFlash.2.2.mod = s.mod ∧ s.loadFlash.2.2.prog = s.prog := by
  unfold State.loadFlash at h ⊢
  split
  · exact ⟨rfl, rfl⟩
  · next img hi =>
    cases hl : s.loaderChecks (s.readLoad img) with
    | none =>
      rw [hi] at h
      dsimp only at h
      rw [State.runLoader_accepted hl] at h
      exact absurd (show true = false from h) (by decide)
    | some r =>
      rw [State.runLoader_refused hl]
      have hfr := (State.refuseLoad_shows (s := s) 0 r.1 r.2).2.2
      exact ⟨hfr.1 .mod (by decide), hfr.1 .prog (by decide)⟩

end

section
variable {s : State}

/-! What the requests of a host see of the state that an access leaves -/

theorem State.idleRestart_flash : s.idleRestart.flash = s.flash := State.idleRestart_framed.1 .flash (by decide)

theorem State.idleRestart_prog : s.idleRestart.prog = s.prog := State.idleRestart_framed.1 .prog (by decide)

theorem State.idleRestart_flashWriteEn : s.idleRestart.flashWriteEn = s.flashWriteEn := by
  obtain ⟨m, hm, -⟩ := State.idleRestart_eq (s := s)
  rw [hm]
  rfl

theorem State.idleRestart_hostSowEn : s.idleRestart.hostSowEn = s.hostSowEn := by
  obtain ⟨m, hm, -⟩ := State.idleRestart_eq (s := s)
  rw [hm]
  rfl

theorem State.idleRestart_hostSows : s.idleRestart.hostSows = s.hostSows := by
  obtain ⟨m, hm, hst, hboot⟩ := State.idleRestart_eq (s := s)
  unfold State.hostSows
  rw [hm]
  dsimp only
  rw [hst, hboot]

theorem State.hostSows_st (h : s.hostSows = true) : s.mod.st = .unplanted ∨ s.mod.st = .sown := by
  unfold State.hostSows at h
  simp only [Bool.and_eq_true, Bool.or_eq_true, beq_iff_eq] at h
  exact h.1

end

/-- The answer to a request on the flash of a device, after the idle timer has restarted. -/
theorem State.flash_answers {s u : State} {k : Fin 2} {m : Map Byte} {tag status : Nat} (hu : Framed [.free] [] s.idleRestart u) :
    s.responds ((u.setFlash k.val m).respond tag status 0 []) tag status 0 [] ∧
    (∀ j : Fin 2, j ≠ k → (((u.setFlash k.val m).respond tag status 0 []).flash.dev[j] : FlashDev) = s.flash.dev[j]) ∧
    (((u.setFlash k.val m).respond tag status 0 []).flash.dev[k] : FlashDev).bytes = m := by
  have hfr : Framed [.free, .flash] [] s.idleRestart (u.setFlash k.val m) :=
    (hu.mono (by decide) (by decide)).trans ((State.setFlash_framed _ _).mono (by decide) (by decide))
  have hflash : ((u.setFlash k.val m).respond tag status 0 []).flash = (u.setFlash k.val m).flash := (State.respond_framed _ _ _ _).1 .flash (by decide)
  have hdev : u.flash = s.flash := (hu.1 .flash (by decide)).trans State.idleRestart_flash
  refine ⟨State.responds_of_idle (hfr.responds (by decide) (by decide) _ _ _ _), fun j hj => ?_, ?_⟩
  · rw [hflash, State.setFlash_other hj, hdev]
  · rw [hflash, State.setFlash_bytes]

section
variable {s : State} {tag : BitVec 16} {arg : U64} {bs : List Byte}

/-! The requests of a host that finds none waiting -/

theorem exec_sowBegin_live (hs : s.mod.st.serving = true) (hq : s.hst.requests = []) (hh : s.hst.held = []) (hn : s.prog.sow = none)
    (hb : arg.getLsbD 32 = false) (hl : arg.toNat % 2 ^ 32 ≤ 512 * 2 ^ 20) (hr : s.hostSows = true) (he : s.hostSowEn = true) :
    exec (.sowBegin tag arg) s = .next ((s.idleRestart.sowBegun false (arg.toNat % 2 ^ 32)).respond tag.toNat 0 0 []) :=
  congrArg Host.Outcome.next ((State.requestOf_plain hs hq hh (by decide)).trans (State.sowOpens_live hb hl
    (State.idleRestart_hostSows.trans hr) (State.idleRestart_hostSowEn.trans he) (by rw [State.idleRestart_prog]; exact hn)))

theorem exec_sowBegin_staged (hs : s.mod.st.serving = true) (hq : s.hst.requests = []) (hh : s.hst.held = []) (hn : s.prog.sow = none)
    (hb : arg.getLsbD 32 = true) (hl : arg.toNat % 2 ^ 32 ≤ 256 * 2 ^ 20) (hne : s.mod.st ≠ .halted) :
    exec (.sowBegin tag arg) s = .next ((s.idleRestart.sowBegun true (arg.toNat % 2 ^ 32)).respond tag.toNat 0 0 []) :=
  congrArg Host.Outcome.next ((State.requestOf_plain hs hq hh (by decide)).trans (State.sowOpens_staged hb hl
    (by rw [State.idleRestart_st]; exact hs) (by rw [State.idleRestart_st]; exact hne) (by rw [State.idleRestart_prog]; exact hn)))

theorem State.idleRestart_sowRuns {w : Sow} (hs : s.mod.st.serving = true) (h : if w.staged then s.mod.st ≠ .halted else s.hostSows = true) :
    s.idleRestart.sowRuns w = true := by
  refine State.sowRuns_of (by rw [State.idleRestart_st]; exact hs) ?_
  rw [State.idleRestart_st, State.idleRestart_hostSows]
  exact h

theorem exec_sowData_put {w : Sow} (hs : s.mod.st.serving = true) (hq : s.hst.requests = []) (hh : s.hst.held = []) (hw : s.prog.sow = some w)
    (hr : if w.staged then s.mod.st ≠ .halted else s.hostSows = true) (hl : arg.toNat % 2 ^ 32 + bs.length ≤ w.length) :
    exec (.sowData tag arg bs) s = .next ((s.idleRestart.sowPut w (arg.toNat % 2 ^ 32) bs).respond tag.toNat 0 0 []) :=
  congrArg Host.Outcome.next ((State.requestOf_plain hs hq hh (by decide)).trans (State.sowTakes_put (by rw [State.idleRestart_prog]; exact hw)
    (State.idleRestart_sowRuns hs hr) hl))

theorem exec_sowEnd {w : Sow} (hs : s.mod.st.serving = true) (hq : s.hst.requests = []) (hh : s.hst.held = []) (hw : s.prog.sow = some w)
    (hr : if w.staged then s.mod.st ≠ .halted else s.hostSows = true) : exec (.sowEnd tag) s = .next (if w.staged then
        ({ s.idleRestart.sowClosed with prog := { s.idleRestart.sowClosed.prog with
          staged := some (w.image, sha512 (w.image.take (readHeader w.image).sigOff)) } } : State).respond tag.toNat 0 0 []
      else s.idleRestart.sowClosed.liveSow tag.toNat w) :=
  congrArg Host.Outcome.next ((State.requestOf_plain hs hq hh (by decide)).trans (State.sowCloses_eq (by rw [State.idleRestart_prog]; exact hw)
    (State.idleRestart_sowRuns hs hr)))

/-! What they leave -/

theorem State.sowBegun_live_answers (len : Nat) : s.responds ((s.idleRestart.sowBegun false len).respond tag.toNat 0 0 []) tag.toNat 0 0 [] ∧
    ((s.idleRestart.sowBegun false len).respond tag.toNat 0 0 []).prog = { s.prog with sow := some ⟨false, len, []⟩ } ∧
    ((s.idleRestart.sowBegun false len).respond tag.toNat 0 0 []).flag HST_STAT_SOW_OPEN = true ∧
    ((s.idleRestart.sowBegun false len).respond tag.toNat 0 0 []).flag HZN_STAT_LAUNCH_PEND = false ∧
    Framed [.regs, .mod, .prog, .hst, .svc] [HST_STAT, HZN_STAT, HST_REQ_CNT] s ((s.idleRestart.sowBegun false len).respond tag.toNat 0 0 []) := by
  obtain ⟨hprog, hopen, hpend, hfr⟩ := State.sowBegun_live (s := s.idleRestart) len
  generalize s.idleRestart.sowBegun false len = u at hprog hopen hpend hfr ⊢
  have hresp := State.respond_good_framed (s := u) tag.toNat 0 []
  refine ⟨State.responds_of_idle (hfr.responds (by decide) (by decide) _ _ _ _), ?_, ?_, ?_, ?_⟩
  · rw [hresp.1 .prog (by decide), hprog, State.idleRestart_prog]
  · exact (State.flag_of_reg (hresp.2 _ (by decide))).trans hopen
  · exact (State.flag_of_reg (hresp.2 _ (by decide))).trans hpend
  · exact ((hfr.mono (by decide) (by decide)).trans (hresp.mono (by decide) (by decide))).of_idle (by decide)

theorem State.sowBegun_staged_answers (len : Nat) : s.responds ((s.idleRestart.sowBegun true len).respond tag.toNat 0 0 []) tag.toNat 0 0 [] ∧
    ((s.idleRestart.sowBegun true len).respond tag.toNat 0 0 []).prog = { s.prog with sow := some ⟨true, len, []⟩, staged := none } ∧
    ((s.idleRestart.sowBegun true len).respond tag.toNat 0 0 []).flag HST_STAT_SOW_OPEN = true ∧
    Framed [.regs, .mod, .prog, .hst, .svc] [HST_STAT, HST_REQ_CNT] s ((s.idleRestart.sowBegun true len).respond tag.toNat 0 0 []) := by
  obtain ⟨hprog, hopen, hfr⟩ := State.sowBegun_staged (s := s.idleRestart) len
  generalize s.idleRestart.sowBegun true len = u at hprog hopen hfr ⊢
  have hresp := State.respond_good_framed (s := u) tag.toNat 0 []
  refine ⟨State.responds_of_idle (hfr.responds (by decide) (by decide) _ _ _ _), ?_, ?_, ?_⟩
  · rw [hresp.1 .prog (by decide), hprog, State.idleRestart_prog]
  · exact (State.flag_of_reg (hresp.2 _ (by decide))).trans hopen
  · exact ((hfr.mono (by decide) (by decide)).trans (hresp.mono (by decide) (by decide))).of_idle (by decide)

theorem State.sowPut_answers (w : Sow) (off : Nat) : s.responds ((s.idleRestart.sowPut w off bs).respond tag.toNat 0 0 []) tag.toNat 0 0 [] ∧
    ((s.idleRestart.sowPut w off bs).respond tag.toNat 0 0 []).prog = { s.prog with sow := some { w with bytes := putBytes zeroByte w.bytes off bs } } ∧
    Framed [.regs, .mod, .prog, .hst, .svc] [HST_REQ_CNT] s ((s.idleRestart.sowPut w off bs).respond tag.toNat 0 0 []) := by
  obtain ⟨hprog, hfr⟩ := State.sowPut_shows (s := s.idleRestart) w off bs
  generalize s.idleRestart.sowPut w off bs = u at hprog hfr ⊢
  have hresp := State.respond_good_framed (s := u) tag.toNat 0 []
  refine ⟨State.responds_of_idle (hfr.responds (by decide) (by decide) _ _ _ _), ?_, ?_⟩
  · rw [hresp.1 .prog (by decide), hprog, State.idleRestart_prog]
  · exact ((hfr.mono (by decide) (by decide)).trans (hresp.mono (by decide) (by decide))).of_idle (by decide)

theorem State.sowStaged_answers (x : Option (List Byte × List Byte)) :
    s.responds (({ s.idleRestart.sowClosed with prog := { s.idleRestart.sowClosed.prog with staged := x } } : State).respond tag.toNat 0 0 []) tag.toNat 0 0 [] ∧
    (({ s.idleRestart.sowClosed with prog := { s.idleRestart.sowClosed.prog with staged := x } } : State).respond tag.toNat 0 0 []).prog =
      { s.prog with sow := none, staged := x } ∧
    (({ s.idleRestart.sowClosed with prog := { s.idleRestart.sowClosed.prog with staged := x } } : State).respond tag.toNat 0 0 []).flag HST_STAT_SOW_OPEN = false ∧
    Framed [.regs, .mod, .prog, .hst] [HST_STAT, HST_REQ_CNT] s
      (({ s.idleRestart.sowClosed with prog := { s.idleRestart.sowClosed.prog with staged := x } } : State).respond tag.toNat 0 0 []) := by
  obtain ⟨hprog, hopen, hfr⟩ := State.sowClosed_shows (s := s.idleRestart)
  generalize s.idleRestart.sowClosed = u at hprog hopen hfr ⊢
  have hv : Framed [.regs, .prog] [HST_STAT] s.idleRestart ({ u with prog := { u.prog with staged := x } } : State) := hfr.setProg (by decide) _
  have hvp : ({ u with prog := { u.prog with staged := x } } : State).prog = { s.prog with sow := none, staged := x } := by
    dsimp only
    rw [hprog, State.idleRestart_prog]
  have hvo : ({ u with prog := { u.prog with staged := x } } : State).flag HST_STAT_SOW_OPEN = false := hopen
  generalize ({ u with prog := { u.prog with staged := x } } : State) = v at hv hvp hvo ⊢
  have hresp := State.respond_good_framed (s := v) tag.toNat 0 []
  refine ⟨State.responds_of_idle (hv.responds (by decide) (by decide) _ _ _ _), ?_, ?_, ?_⟩
  · rw [hresp.1 .prog (by decide), hvp]
  · exact (State.flag_of_reg (hresp.2 _ (by decide))).trans hvo
  · exact ((hv.mono (by decide) (by decide)).trans (hresp.mono (by decide) (by decide))).of_idle (by decide)

/-- A request that is answered with an error of the sow changes nothing but the response. -/
theorem State.sow_refused (status : Nat) : s.responds (s.idleRestart.respond tag.toNat status 0 []) tag.toNat status 0 [] ∧
    (s.idleRestart.respond tag.toNat status 0 []).prog = s.prog :=
  ⟨State.responds_of_idle ((Framed.refl [] [] s.idleRestart).responds (by decide) (by decide) _ _ _ _),
    ((State.respond_framed _ _ _ _).1 .prog (by decide)).trans State.idleRestart_prog⟩

end

/-- The end of a live sow, taken or refused. -/
theorem State.sowEnd_live {s u : State} {w : Sow} (hs : s.hostSows = true) (hu : u = s.idleRestart.sowClosed) (tag : Nat) :
    (u.liveSow tag w).hst.responses = s.hst.responses ++ [⟨tag, 0, (u.liveSow tag w).fld CFG_LOAD_STAT_CODE, []⟩] ∧ (u.liveSow tag w).prog.sow = none ∧
    (match u.loaderChecks (u.readLoad w.image) with
      | none => ∀ q, (u.readLoad w.image).prog.phase? (u.readLoad w.image).prog.firstPhase = some q →
          (u.liveSow tag w).mod.st = .sown ∧
            (∃ c, (u.liveSow tag w).prog.image = some c ∧ c.bytes = w.image ∧ c.program = (u.readLoad w.image).prog) ∧
            (u.liveSow tag w).prog.phase = q.ph.id ∧
            (u.liveSow tag w).prog.place = placeList q.ph.layoutBeds (u.sowPlacing (u.readLoad w.image)).placed ∧
            (u.liveSow tag w).reg CFG_LOAD_STAT = BitVec.ofNat 32 (0xFFFF * 65536 + 2 * 4096)
      | some r => (u.liveSow tag w).reg CFG_LOAD_STAT = BitVec.ofNat 32 (r.2 % 65536 * 65536 + 2 * 4096 + r.1) ∧ (u.liveSow tag w).mod.st = s.mod.st ∧
          (u.liveSow tag w).prog = { s.prog with sow := none } ∧ (s.canNumber = true → (u.liveSow tag w).lastEvent = some (0x0302, [r.1, r.2]))) := by
  obtain ⟨hprog, -, hfr⟩ := State.sowClosed_shows (s := s.idleRestart)
  rw [← hu] at hprog hfr
  have hmod : u.mod = s.idleRestart.mod := hfr.1 .mod (by decide)
  have hst : u.mod.st = s.mod.st := by rw [hmod, State.idleRestart_st]
  have hresp : u.hst.responses = s.hst.responses := by rw [hfr.1 .hst (by decide), State.idleRestart_framed.1 .hst (by decide)]
  have hcan : u.canNumber = s.canNumber := (hfr.canNumber (by decide)).trans (State.idleRestart_framed.canNumber (by decide))
  rw [State.idleRestart_prog] at hprog
  cases hl : u.loaderChecks (u.readLoad w.image) with
  | none =>
    obtain ⟨q, hq⟩ := State.loaderChecks_phase hl
    obtain ⟨hr, hsown, hp, hreg⟩ := State.liveSow_takes hl hq (by rw [hst]; exact State.hostSows_st hs) tag
    rw [hr, hp, hresp]
    refine ⟨rfl, by rw [hprog], fun q' hq' => ?_⟩
    have he : q = q' := Option.some.inj (hq.symm.trans hq')
    subst he
    exact ⟨hsown, ⟨_, rfl, rfl, rfl⟩, rfl, rfl, hreg⟩
  | some r =>
    obtain ⟨hr, hreg, hm, hp, hev⟩ := State.liveSow_refuses hl tag
    rw [hr, hp, hresp, hm, hprog]
    exact ⟨rfl, rfl, hreg, hst, rfl, fun hn => hev (hcan.trans hn)⟩

section
variable {s : State} {tag : BitVec 16} {arg : U64} {bs : List Byte} {k : Fin 2}

/-! Flash requests and the restart -/

theorem State.idleRestart_dev : (s.idleRestart.flash.dev[k] : FlashDev) = s.flash.dev[k] := by rw [State.idleRestart_flash]

theorem exec_flashErase (hs : s.mod.st.serving = true) (hq : s.hst.requests = []) (hh : s.hst.held = []) (hk : bitsOf arg.toNat 32 8 = k.val)
    (ho : arg.toNat % 2 ^ 32 % 4096 = 0) (hw : s.flashWriteEn = true) (hp : (s.flash.dev[k] : FlashDev).present = true)
    (hl : arg.toNat % 2 ^ 32 + 4096 * bitsOf arg.toNat 40 24 ≤ (s.flash.dev[k] : FlashDev).size) (hn : s.prog.sow = none) (good : Bool) :
    exec (.flashErase tag arg good) s = .next (
      if good then (s.idleRestart.setFlash k.val ((s.flash.dev[k] : FlashDev).erased (arg.toNat % 2 ^ 32) (4096 * bitsOf arg.toNat 40 24))).respond
        tag.toNat 0 0 []
      else ((s.idleRestart.drawBytes (4096 * bitsOf arg.toNat 40 24)).2.setFlash k.val (putBytes erasedByte (s.flash.dev[k] : FlashDev).bytes
        (arg.toNat % 2 ^ 32) (s.idleRestart.drawBytes (4096 * bitsOf arg.toNat 40 24)).1)).respond tag.toNat 6 0 []) := by
  refine congrArg Host.Outcome.next ((State.requestOf_plain hs hq hh (by decide)).trans ?_)
  rw [← State.idleRestart_dev] at hp hl ⊢
  exact State.flashErases_good (by rw [State.idleRestart_st]; exact hs) hk ho (State.idleRestart_flashWriteEn.trans hw) hp hl
    (by rw [State.idleRestart_prog]; exact hn) good

theorem exec_flashProgram (hs : s.mod.st.serving = true) (hq : s.hst.requests = []) (hh : s.hst.held = []) (hk : bitsOf arg.toNat 32 8 = k.val)
    (hw : s.flashWriteEn = true) (hp : (s.flash.dev[k] : FlashDev).present = true)
    (hl : arg.toNat % 2 ^ 32 + bs.length ≤ (s.flash.dev[k] : FlashDev).size) (hn : s.prog.sow = none) (h1 : 1 ≤ bs.length)
    (h256 : arg.toNat % 2 ^ 32 % 256 + bs.length ≤ 256) (good : Bool) :
    exec (.flashProgram tag arg bs good) s = .next (
      if good then (s.idleRestart.setFlash k.val (putBytes erasedByte (s.flash.dev[k] : FlashDev).bytes (arg.toNat % 2 ^ 32)
        ((s.flash.dev[k] : FlashDev).programmed (arg.toNat % 2 ^ 32) bs))).respond tag.toNat
          (if (s.flash.dev[k] : FlashDev).programmed (arg.toNat % 2 ^ 32) bs = bs then 0 else 6) 0 []
      else ((s.idleRestart.drawBytes bs.length).2.setFlash k.val (putBytes erasedByte (s.flash.dev[k] : FlashDev).bytes (arg.toNat % 2 ^ 32)
        (List.zipWith (fun (a b : Byte) => a &&& b) (bytesAt erasedByte (s.flash.dev[k] : FlashDev).bytes (arg.toNat % 2 ^ 32) bs.length)
          (s.idleRestart.drawBytes bs.length).1))).respond tag.toNat 6 0 []) := by
  refine congrArg Host.Outcome.next ((State.requestOf_plain hs hq hh (by decide)).trans ?_)
  rw [← State.idleRestart_dev] at hp hl ⊢
  exact State.flashPrograms_eq (by rw [State.idleRestart_st]; exact hs) hk (State.idleRestart_flashWriteEn.trans hw) hp hl
    (by rw [State.idleRestart_prog]; exact hn) h1 h256 good

theorem exec_flashRead (hs : s.mod.st.serving = true) (hq : s.hst.requests = []) (hh : s.hst.held = []) (hk : bitsOf arg.toNat 32 8 = k.val)
    (hp : (s.flash.dev[k] : FlashDev).present = true) (hl : arg.toNat % 2 ^ 32 + bitsOf arg.toNat 40 13 ≤ (s.flash.dev[k] : FlashDev).size)
    (h1 : 1 ≤ bitsOf arg.toNat 40 13) (h4096 : bitsOf arg.toNat 40 13 ≤ 4096) :
    exec (.flashRead tag arg) s = .next (s.idleRestart.respond tag.toNat 0 0
      (bytesAt erasedByte (s.flash.dev[k] : FlashDev).bytes (arg.toNat % 2 ^ 32) (bitsOf arg.toNat 40 13))) := by
  refine congrArg Host.Outcome.next ((State.requestOf_plain hs hq hh (by decide)).trans ?_)
  rw [← State.idleRestart_dev] at hp hl ⊢
  exact State.flashReads_eq (by rw [State.idleRestart_st]; exact hs) hk hp hl h1 h4096

theorem State.flash_framed {m : Map Byte} (status : Nat) : Framed [.regs, .mod, .hst, .flash] [HST_REQ_CNT, HST_REQ_ERR_CNT] s
    ((s.idleRestart.setFlash k.val m).respond tag.toNat status 0 []) :=
  Framed.of_idle (by decide) (((State.setFlash_framed _ _).mono (by decide) (by decide)).trans ((State.respond_framed _ _ _ _).mono (by decide) (by decide)))

theorem State.flash_good_framed {m : Map Byte} : Framed [.regs, .mod, .hst, .flash] [HST_REQ_CNT] s
    ((s.idleRestart.setFlash k.val m).respond tag.toNat 0 0 []) :=
  Framed.of_idle (by decide) (((State.setFlash_framed _ _).mono (by decide) (by decide)).trans ((State.respond_good_framed _ _ _).mono (by decide) (by decide)))

/-- Programming clears bits and sets none, whatever the pattern (R464). -/
theorem mapGet_putBytes_and (m : Map Byte) (off n : Nat) {xs : List Byte} (hx : xs.length = n) (a : Nat) :
    mapGet erasedByte (putBytes erasedByte m off (List.zipWith (fun (a b : Byte) => a &&& b) (bytesAt erasedByte m off n) xs)) a &&& mapGet erasedByte m a =
      mapGet erasedByte (putBytes erasedByte m off (List.zipWith (fun (a b : Byte) => a &&& b) (bytesAt erasedByte m off n) xs)) a := by
  have hlen : (List.zipWith (fun (a b : Byte) => a &&& b) (bytesAt erasedByte m off n) xs).length = n := by
    rw [List.length_zipWith, bytesAt_length, hx, Nat.min_self]
  by_cases ha : a < off ∨ off + n ≤ a
  · rw [mapGet_putBytes_out _ _ _ (by rw [hlen]; exact ha), BitVec.and_self]
  · obtain ⟨i, rfl⟩ : ∃ i, a = off + i := ⟨a - off, by omega⟩
    have hi : i < n := by omega
    rw [mapGet_putBytes_in _ _ _ (by rw [hlen]; exact hi), List.getElem_zipWith]
    have hb : (bytesAt erasedByte m off n)[i]'(by rw [bytesAt_length]; exact hi) = mapGet erasedByte m (off + i) := by
      unfold bytesAt
      rw [List.getElem_map, List.getElem_range]
    rw [hb, BitVec.and_assoc, BitVec.and_comm (xs[i]'_), ← BitVec.and_assoc, BitVec.and_self]

/-- What a write into a device leaves: the bytes outside it stand. -/
theorem State.flashWrite_answers {u : State} {tag status off : Nat} (hu : Framed [.free] [] s.idleRestart u) (xs : List Byte) :
    s.responds ((u.setFlash k.val (putBytes erasedByte (s.flash.dev[k] : FlashDev).bytes off xs)).respond tag status 0 []) tag status 0 [] ∧
    (∀ j : Fin 2, j ≠ k → (((u.setFlash k.val (putBytes erasedByte (s.flash.dev[k] : FlashDev).bytes off xs)).respond tag status 0 []).flash.dev[j] :
      FlashDev) = s.flash.dev[j]) ∧
    (∀ a, a < off ∨ off + xs.length ≤ a →
      mapGet erasedByte (((u.setFlash k.val (putBytes erasedByte (s.flash.dev[k] : FlashDev).bytes off xs)).respond tag status 0 []).flash.dev[k] :
        FlashDev).bytes a = mapGet erasedByte (s.flash.dev[k] : FlashDev).bytes a) := by
  obtain ⟨hresp, hother, hbytes⟩ := State.flash_answers (k := k) (m := putBytes erasedByte (s.flash.dev[k] : FlashDev).bytes off xs) (tag := tag)
    (status := status) hu
  refine ⟨hresp, hother, fun a ha => ?_⟩
  rw [hbytes, mapGet_putBytes_out _ _ _ ha]

/-- An erase that succeeds (R464). -/
theorem State.flashErase_answers (off n : Nat) :
    s.responds ((s.idleRestart.setFlash k.val ((s.flash.dev[k] : FlashDev).erased off n)).respond tag.toNat 0 0 []) tag.toNat 0 0 [] ∧
    (∀ j : Fin 2, j ≠ k → (((s.idleRestart.setFlash k.val ((s.flash.dev[k] : FlashDev).erased off n)).respond tag.toNat 0 0 []).flash.dev[j] : FlashDev) =
      s.flash.dev[j]) ∧
    (∀ a, off ≤ a → a < off + n →
      mapGet erasedByte (((s.idleRestart.setFlash k.val ((s.flash.dev[k] : FlashDev).erased off n)).respond tag.toNat 0 0 []).flash.dev[k] :
        FlashDev).bytes a = 0xFF) ∧
    (∀ a, a < off ∨ off + n ≤ a →
      mapGet erasedByte (((s.idleRestart.setFlash k.val ((s.flash.dev[k] : FlashDev).erased off n)).respond tag.toNat 0 0 []).flash.dev[k] :
        FlashDev).bytes a = mapGet erasedByte (s.flash.dev[k] : FlashDev).bytes a) ∧
    Framed [.regs, .mod, .hst, .flash] [HST_REQ_CNT] s ((s.idleRestart.setFlash k.val ((s.flash.dev[k] : FlashDev).erased off n)).respond tag.toNat 0 0 []) := by
  obtain ⟨hresp, hother, hbytes⟩ := State.flash_answers (k := k) (m := (s.flash.dev[k] : FlashDev).erased off n) (tag := tag.toNat) (status := 0)
    (Framed.refl [.free] [] s.idleRestart)
  refine ⟨hresp, hother, fun a h1 h2 => ?_, fun a ha => ?_, State.flash_good_framed⟩
  · rw [hbytes, FlashDev.erased_in _ h1 h2]
  · rw [hbytes, FlashDev.erased_out _ ha]

/-- The device after its page has been programmed. -/
def State.pagePut (s : State) (k : Fin 2) (off tag : Nat) (bs : List Byte) : State :=
  (s.idleRestart.setFlash k.val (putBytes erasedByte (s.flash.dev[k] : FlashDev).bytes off ((s.flash.dev[k] : FlashDev).programmed off bs))).respond tag
    (if (s.flash.dev[k] : FlashDev).programmed off bs = bs then 0 else 6) 0 []

/-- The device after a programming that failed: the pattern is open. -/
def State.pageSpoilt (s : State) (k : Fin 2) (off tag n : Nat) : State :=
  ((s.idleRestart.drawBytes n).2.setFlash k.val (putBytes erasedByte (s.flash.dev[k] : FlashDev).bytes off
    (List.zipWith (fun (a b : Byte) => a &&& b) (bytesAt erasedByte (s.flash.dev[k] : FlashDev).bytes off n) (s.idleRestart.drawBytes n).1))).respond tag 6 0 []

/-- A programming that succeeds and is read back (R464). -/
theorem State.flashProgram_answers (off : Nat) :
    s.responds (s.pagePut k off tag.toNat bs) tag.toNat (if (s.flash.dev[k] : FlashDev).programmed off bs = bs then 0 else 6) 0 [] ∧
    (∀ j : Fin 2, j ≠ k → ((s.pagePut k off tag.toNat bs).flash.dev[j] : FlashDev) = s.flash.dev[j]) ∧
    bytesAt erasedByte ((s.pagePut k off tag.toNat bs).flash.dev[k] : FlashDev).bytes off bs.length = (s.flash.dev[k] : FlashDev).programmed off bs ∧
    (∀ a, a < off ∨ off + bs.length ≤ a →
      mapGet erasedByte ((s.pagePut k off tag.toNat bs).flash.dev[k] : FlashDev).bytes a = mapGet erasedByte (s.flash.dev[k] : FlashDev).bytes a) ∧
    Framed [.regs, .mod, .hst, .flash] [HST_REQ_CNT, HST_REQ_ERR_CNT] s (s.pagePut k off tag.toNat bs) := by
  have hlen := (s.flash.dev[k] : FlashDev).programmed_length off bs
  unfold State.pagePut
  generalize (s.flash.dev[k] : FlashDev).programmed off bs = new at hlen ⊢
  obtain ⟨hresp, hother, hbytes⟩ := State.flash_answers (k := k) (m := putBytes erasedByte (s.flash.dev[k] : FlashDev).bytes off new)
    (tag := tag.toNat) (status := if new = bs then 0 else 6) (Framed.refl [.free] [] s.idleRestart)
  refine ⟨hresp, hother, ?_, fun a ha => ?_, State.flash_framed _⟩
  · rw [hbytes, ← hlen, bytesAt_putBytes]
  · rw [hbytes, mapGet_putBytes_out _ _ _ (by rw [hlen]; exact ha)]

/-- A programming that fails clears bits of its page only (R464). -/
theorem State.flashProgram_fails (off : Nat) {n : Nat} :
    s.responds (s.pageSpoilt k off tag.toNat n) tag.toNat 6 0 [] ∧
    (∀ j : Fin 2, j ≠ k → ((s.pageSpoilt k off tag.toNat n).flash.dev[j] : FlashDev) = s.flash.dev[j]) ∧
    (∀ a, mapGet erasedByte ((s.pageSpoilt k off tag.toNat n).flash.dev[k] : FlashDev).bytes a &&& mapGet erasedByte (s.flash.dev[k] : FlashDev).bytes a =
      mapGet erasedByte ((s.pageSpoilt k off tag.toNat n).flash.dev[k] : FlashDev).bytes a) ∧
    (∀ a, a < off ∨ off + n ≤ a →
      mapGet erasedByte ((s.pageSpoilt k off tag.toNat n).flash.dev[k] : FlashDev).bytes a = mapGet erasedByte (s.flash.dev[k] : FlashDev).bytes a) := by
  obtain ⟨hlen, hfree⟩ := State.drawBytes_shows (s := s.idleRestart) n
  obtain ⟨hresp, hother, hbytes⟩ := State.flash_answers (k := k) (m := putBytes erasedByte (s.flash.dev[k] : FlashDev).bytes off
    (List.zipWith (fun (a b : Byte) => a &&& b) (bytesAt erasedByte (s.flash.dev[k] : FlashDev).bytes off n) (s.idleRestart.drawBytes n).1))
    (tag := tag.toNat) (status := 6) hfree
  refine ⟨hresp, hother, fun a => ?_, fun a ha => ?_⟩
  · unfold State.pageSpoilt
    rw [hbytes]
    exact mapGet_putBytes_and _ _ _ hlen a
  · unfold State.pageSpoilt
    rw [hbytes, mapGet_putBytes_out _ _ _ (by rw [List.length_zipWith, bytesAt_length, hlen, Nat.min_self]; exact ha)]

variable {p : Path}

/-- A restart that reads a good directory: Sown with the image of flash, or the boot code that leaves the module Unplanted (R378, R380). -/
theorem State.restartFlash_loads (hs : s.mod.st = .unplanted) (hn : s.prog.sow = none) (hd : directoryGood s.directory = true)
    (hp : (s.flashDev 0).present = true) : s.restartFlash.flash = s.flash ∧
    (if s.loadFlash.1 = true then s.restartFlash.mod.st = .sown ∧ s.restartFlash.fld CFG_BOOT_STAT_CODE = 0 ∧ s.restartFlash.prog = s.loadFlash.2.2.prog
     else s.restartFlash.mod.st = .unplanted ∧ s.restartFlash.prog = s.prog ∧
       s.restartFlash.fld CFG_BOOT_STAT_CODE = (if s.flashImage = none then 0x10 else 0x11)) := by
  rw [State.restartFlash_good hs hn hd hp]
  have hk := State.loadFlash_keeps (s := s)
  have hflash := hk.same .flash rfl
  cases hl : s.loadFlash.1 with
  | true =>
    rw [if_pos rfl, if_pos rfl]
    generalize s.loadFlash.2.2 = u at hflash ⊢
    have hen : Keeps [.regs, .mod, .fast, .eng, .aug, .dec] ((u.setFld CFG_BOOT_STAT_CODE 0).bootStep 7) (((u.setFld CFG_BOOT_STAT_CODE 0).bootStep 7).enterState .sown 0 0 0) :=
      Keeps.enterState (.refl _ _) rfl _ _ _ _
    have hboot : Framed [.regs] [CFG_BOOT_STAT] u ((u.setFld CFG_BOOT_STAT_CODE 0).bootStep 7) :=
      ((Framed.refl _ _ u).setFld (by decide) (by decide) 0).bootStep (by decide) (by decide) 7
    refine ⟨(hen.same .flash rfl).trans ((hboot.1 .flash (by decide)).trans hflash), State.enterState_st _ _ _ _ _, ?_,
      (hen.same .prog rfl).trans (hboot.1 .prog (by decide))⟩
    rw [State.fld_of_reg (State.enterState_reg _ _ _ _ _ (by decide) (by decide) (by decide) (by decide))]
    exact (State.fld_setFld_apart _ _ (by decide)).trans ((State.fld_setFld _ _ _ (by decide)).trans rfl)
  | false =>
    obtain ⟨hm, hprog⟩ := State.loadFlash_fails_keeps hl
    have hcode := State.loadFlash_fails _ hl
    rw [if_neg Bool.false_ne_true, if_neg Bool.false_ne_true, State.setFld_flash, State.setFld_mod, State.setFld_prog, hm, hprog,
      State.fld_setFld _ _ _ (by decide), hcode]
    refine ⟨hflash, hs, rfl, ?_⟩
    split
    · rfl
    · rfl

theorem exec_flashRestart (ho : s.opens p CFG_CTL) : exec (.flashRestart p) s = .next (s.seen p).restartFlash :=
  congrArg Host.Outcome.next (State.via_of_opens ho fun u => u.restartFlash)

theorem State.seen_flash : (s.seen p).flash = s.flash := (s.seen_framed p).1 .flash (by decide)

theorem State.seen_program : (s.seen p).prog = s.prog := (s.seen_framed p).1 .prog (by decide)

theorem State.flashRestart_loads (hs : s.mod.st = .unplanted) (hn : s.prog.sow = none) (hd : directoryGood (s.seen p).directory = true)
    (hp : (s.flashDev 0).present = true) : (s.seen p).restartFlash.flash = s.flash ∧
    (if (s.seen p).loadFlash.1 = true then (s.seen p).restartFlash.mod.st = .sown ∧ (s.seen p).restartFlash.fld CFG_BOOT_STAT_CODE = 0 ∧
       (s.seen p).restartFlash.prog = (s.seen p).loadFlash.2.2.prog
     else (s.seen p).restartFlash.mod.st = .unplanted ∧ (s.seen p).restartFlash.prog = s.prog ∧
       (s.seen p).restartFlash.fld CFG_BOOT_STAT_CODE = (if (s.seen p).flashImage = none then 0x10 else 0x11)) := by
  have h := State.restartFlash_loads (s := s.seen p) (by rw [s.seen_st p]; exact hs) (by rw [State.seen_program]; exact hn) hd
    (by rw [State.flashDev_congr State.seen_flash]; exact hp)
  rw [State.seen_flash, State.seen_program] at h
  exact h

theorem State.flashRestart_bad (hs : s.mod.st = .unplanted) (hn : s.prog.sow = none)
    (hd : directoryGood (s.seen p).directory = false ∨ (s.flashDev 0).present = false) :
    (s.seen p).restartFlash.fld CFG_BOOT_STAT_CODE = (if (s.flashDev 0).present then 3 else 2) ∧
    Framed [.regs] [CFG_BOOT_STAT] (s.seen p) (s.seen p).restartFlash := by
  have hdev : (s.seen p).flashDev 0 = s.flashDev 0 := State.flashDev_congr State.seen_flash 0
  rw [State.restartFlash_bad (by rw [s.seen_st p]; exact hs) (by rw [State.seen_program]; exact hn) (by rw [hdev]; exact hd), hdev]
  refine ⟨?_, (Framed.refl _ _ _).setFld (by decide) (by decide) _⟩
  rw [State.fld_setFld _ _ _ (by decide)]
  cases (s.flashDev 0).present <;> rfl

theorem State.flashRestart_ignored (h : s.mod.st ≠ .unplanted ∨ s.prog.sow.isSome = true) : (s.seen p).restartFlash = s.seen p :=
  State.restartFlash_ignored (by rw [s.seen_st p, State.seen_program]; exact h)

end

/-- Settles O52: each request by its exec lemma and by what it leaves. -/
theorem sowingAndFlashRequests : Obligations.SowingAndFlashRequests := by
  refine ⟨?live, ?staged, ?data, ?endStaged, ?endLive, ?noSow, ?erase, ?eraseFails, ?program, ?programFails, ?read, ?restart, ?badDir, ?ignored⟩
  case live =>
    intro tag arg s hs hq hh hn hb hl hr he
    exact ⟨_, exec_sowBegin_live hs hq hh hn hb hl hr he, State.sowBegun_live_answers _⟩
  case staged =>
    intro tag arg s hs hq hh hn hb hl hne
    exact ⟨_, exec_sowBegin_staged hs hq hh hn hb hl hne, State.sowBegun_staged_answers _⟩
  case data =>
    intro tag arg bs w s hs hq hh hw hr hl
    obtain ⟨hresp, hprog, hfr⟩ := State.sowPut_answers (s := s) (tag := tag) (bs := bs) w (arg.toNat % 2 ^ 32)
    exact ⟨_, exec_sowData_put hs hq hh hw hr hl, hresp, _, hprog, rfl, rfl, bytesAt_putBytes _ _ _, fun a ha => mapGet_putBytes_out _ _ _ ha, hfr⟩
  case endStaged =>
    intro tag w s hs hq hh hw hst hne
    refine ⟨_, exec_sowEnd hs hq hh hw (by rw [if_pos hst]; exact hne), ?_⟩
    rw [if_pos hst]
    exact State.sowStaged_answers _
  case endLive =>
    intro tag w u s hs hq hh hw hst hr hu
    refine ⟨_, exec_sowEnd hs hq hh hw (by rw [hst, if_neg Bool.false_ne_true]; exact hr), ?_⟩
    have hclosed : u = s.idleRestart.sowClosed := by
      rw [hu, ← State.idleRestart_prog]
      rfl
    rw [hst, if_neg Bool.false_ne_true, ← hclosed]
    exact State.sowEnd_live hr hclosed tag.toNat
  case noSow =>
    intro tag arg bs s hs hq hh hn
    have hi : s.idleRestart.prog.sow = none := by rw [State.idleRestart_prog]; exact hn
    exact ⟨⟨_, congrArg Host.Outcome.next ((State.requestOf_plain hs hq hh (by decide)).trans (State.sowTakes_none hi)), State.sow_refused 3⟩,
      ⟨_, congrArg Host.Outcome.next ((State.requestOf_plain hs hq hh (by decide)).trans (State.sowCloses_none hi)), State.sow_refused 3⟩⟩
  case erase =>
    rintro tag arg k _ _ s hs hq hh rfl hk rfl ho hw hp hl hn
    exact ⟨_, exec_flashErase hs hq hh hk ho hw hp hl hn true, State.flashErase_answers _ _⟩
  case eraseFails =>
    rintro tag arg k _ _ s hs hq hh rfl hk rfl ho hw hp hl hn
    obtain ⟨hlen, hfree⟩ := State.drawBytes_shows (s := s.idleRestart) (4096 * bitsOf arg.toNat 40 24)
    obtain ⟨hresp, hother, hout⟩ := State.flashWrite_answers (k := k) (tag := tag.toNat) (status := 6) (off := arg.toNat % 2 ^ 32) hfree
      (s.idleRestart.drawBytes (4096 * bitsOf arg.toNat 40 24)).1
    rw [hlen] at hout
    exact ⟨_, exec_flashErase hs hq hh hk ho hw hp hl hn false, hresp, hother, hout⟩
  case program =>
    rintro tag arg bs new k _ s hs hq hh rfl hk hw hp hl hn h1 h256 hnew
    have hnew' : new = (s.flash.dev[k] : FlashDev).programmed (arg.toNat % 2 ^ 32) bs := hnew
    rw [hnew']
    exact ⟨_, exec_flashProgram hs hq hh hk hw hp hl hn h1 h256 true, State.flashProgram_answers _⟩
  case programFails =>
    rintro tag arg bs k _ s hs hq hh rfl hk hw hp hl hn h1 h256
    exact ⟨_, exec_flashProgram hs hq hh hk hw hp hl hn h1 h256 false, State.flashProgram_fails _⟩
  case read =>
    rintro tag arg k _ _ s hs hq hh rfl hk rfl hp hl h1 h4096
    exact ⟨_, exec_flashRead hs hq hh hk hp hl h1 h4096,
      State.responds_of_idle ((Framed.refl [] [] s.idleRestart).responds (by decide) (by decide) _ _ _ _),
      Framed.of_idle (by decide) ((State.respond_good_framed _ _ _).mono (by decide) (by decide))⟩
  case restart =>
    intro p s ho hs hn hd hp
    exact ⟨_, exec_flashRestart ho, State.flashRestart_loads hs hn hd hp⟩
  case badDir =>
    intro p s ho hs hn hd
    exact ⟨_, exec_flashRestart ho, State.flashRestart_bad hs hn hd⟩
  case ignored =>
    intro p s ho h
    exact (exec_flashRestart ho).trans (congrArg Host.Outcome.next (State.flashRestart_ignored h))

end Sys2Proof.Machine

/-!
# A register access that waits for the silt banks

In a cold Waking an access of the management port waits behind an earlier one that reaches a silt bank not yet cleared (R225, R228), whatever its
own address is. O59 has such an access refused at once.
-/
namespace Sys2Proof.Machine

/-- A cold Waking in which a read of the management port waits for the silt banks. -/
def State.siltWaiting : State :=
  { State.reset with
    mod := { State.reset.mod with st := .waking }
    svc := { State.reset.svc with siltWaits := [(.mgt, 0x200000, none)] } }

/-- A write that is held reports nothing. -/
theorem State.writeAccess_held {s : State} {p : Path} {a : Nat} (h : (s.arrives p).siltHolds p a = true) (v : Word) :
    (s.writeAccess p a v).2 = (s.arrives p).waitForSilt p a (some v) := by
  unfold State.writeAccess
  dsimp only
  rw [if_pos h]

theorem State.siltWaiting_holds : (State.siltWaiting.arrives .mgt).siltHolds .mgt 1 = true := by decide

theorem State.siltWaiting_writes (v : Word) :
    exec (.registerWrite .mgt 1 v) State.siltWaiting = .next ((State.siltWaiting.arrives .mgt).waitForSilt .mgt 1 (some v)) := by
  have hworks : State.siltWaiting.pathWorks .mgt = true := by decide
  have hexec : exec (.registerWrite .mgt 1 v) State.siltWaiting = .next (State.siltWaiting.pathWrites .mgt 1 v) := rfl
  rw [hexec]
  unfold State.pathWrites
  rw [if_pos hworks, State.writeAccess_held State.siltWaiting_holds]

/-- Refutes O59: a misaligned write of the management port waits while an earlier access of that port waits for the silt banks, it is not
refused yet. -/
theorem not_registersAreReadAndWritten : ¬ Obligations.RegistersAreReadAndWritten := by
  unfold Obligations.RegistersAreReadAndWritten
  rintro ⟨-, -, -, -, -, misaligned, -⟩
  obtain ⟨t, he, herr, -⟩ := misaligned .mgt 1 0 State.siltWaiting (by decide) (by decide)
  have ht := Host.Outcome.next.inj ((State.siltWaiting_writes 0).symm.trans he)
  rw [← ht] at herr
  exact absurd herr (by decide)

end Sys2Proof.Machine

/-! Stream ring entries (R194 to R196). -/
namespace Sys2Proof.Machine

/-! What the work that follows a write may change in the engines -/

/-- Nothing of an engine but its channels, its spill units and its recurrences differs. -/
def Engine.WorkOnly (g h : Engine) : Prop := ∃ c u r f, h = { g with chans := c, spills := u, recur := r, former := f }

theorem Engine.WorkOnly.trans {g h k : Engine} (x : g.WorkOnly h) (y : h.WorkOnly k) : g.WorkOnly k := by
  obtain ⟨_, _, _, _, rfl⟩ := x
  obtain ⟨c, u, r, f, rfl⟩ := y
  exact ⟨c, u, r, f, rfl⟩

/-- In every engine the channels, the spill units and the recurrences alone differ. -/
def State.WorkOnly (s t : State) : Prop := ∀ e : Fin 2, (s.eng[e] : Engine).WorkOnly (t.eng[e] : Engine)

theorem State.WorkOnly.of_eng {s t : State} (h : t.eng = s.eng) : s.WorkOnly t := fun e => by
  rw [h]
  exact ⟨_, _, _, _, rfl⟩

theorem State.WorkOnly.refl (s : State) : s.WorkOnly s := .of_eng rfl

theorem State.WorkOnly.trans {s t u : State} (x : s.WorkOnly t) (y : t.WorkOnly u) : s.WorkOnly u := fun e => (x e).trans (y e)

theorem State.WorkOnly.streams {s t : State} (h : s.WorkOnly t) (e : Fin 2) : (t.eng[e] : Engine).streams = (s.eng[e] : Engine).streams := by
  obtain ⟨c, u, r, f, hg⟩ := h e
  rw [hg]

theorem State.WorkOnly.setEng {s : State} {e : Fin 2} {g : Engine} (h : (s.eng[e] : Engine).WorkOnly g) : s.WorkOnly (s.setEng e g) := fun k => by
  by_cases hk : k = e
  · rw [hk, State.eng_setEng]
    exact h
  · rw [State.eng_setEng_ne s hk]
    exact ⟨_, _, _, _, rfl⟩

theorem State.WorkOnly.foldl {α : Type} {f : State → α → State} (hf : ∀ (s : State) x, s.WorkOnly (f s x)) (xs : List α) (s : State) :
    s.WorkOnly (xs.foldl f s) := by
  induction xs generalizing s with
  | nil => exact .refl s
  | cons x xs ih => exact (hf s x).trans (ih (f s x))

section
variable (s : State) (e : Fin 2)

theorem State.queueTx_workOnly (cls block : Nat) (item : TxItem) : s.WorkOnly (s.queueTx e cls block item) := .setEng ⟨_, _, _, _, rfl⟩

theorem State.queueBlocks_workOnly (cls : Nat) (blocks : List Nat) (item : TxItem) : s.WorkOnly (s.queueBlocks e cls blocks item) :=
  .foldl (fun (u : State) b => u.queueTx_workOnly e cls b item) blocks s

theorem State.scanUnit_workOnly (ring first : Nat) : s.WorkOnly (s.scanUnit e ring first) := by
  unfold State.scanUnit
  refine State.WorkOnly.foldl (fun (u : State) (q : Query) => ?_) _ s
  split
  · exact .refl u
  · split
    · exact .refl u
    · exact u.queueBlocks_workOnly e 4 _ _

theorem State.scanContext_workOnly (l : LoessSection) (stream : Bool) (ring t : Nat) : s.WorkOnly (s.scanContext e l stream ring t) :=
  .foldl (fun (u : State) _ => u.queueBlocks_workOnly e 3 _ _) _ s

theorem State.rewriteUnit_workOnly (stream : Bool) (ring first n : Nat) : s.WorkOnly (s.rewriteUnit e stream ring first n) := by
  unfold State.rewriteUnit
  extract_lets eng here blocks unread drop word u
  have hu : s.WorkOnly u := .setEng ⟨_, _, _, _, rfl⟩
  split
  · refine hu.trans (.of_eng ?_)
    exact (Keeps.writeEvent (.setFlag (.bump (.refl [.regs, .aug] _) rfl _) rfl _ _) rfl _ _).same .eng rfl
  · exact hu

theorem State.spillWaits_workOnly (stream : Bool) (ring first : Nat) : s.WorkOnly (s.spillWaits e stream ring first) := .setEng ⟨_, _, _, _, rfl⟩

theorem Engine.setRecurs_workOnly (g : Engine) (t : U64) (r : Recurs) : g.WorkOnly (g.setRecurs t r) := by
  unfold Engine.setRecurs
  split
  · split
    · exact ⟨_, _, _, _, rfl⟩
    · exact ⟨_, _, _, _, rfl⟩
  · exact ⟨_, _, _, _, rfl⟩

theorem State.countSat_eng (k n : Nat) : (s.countSat k n).eng = s.eng := by
  unfold State.countSat
  split
  · rfl
  · exact (Keeps.setFlag (.bumpBy (.refl [.regs] _) rfl _ _) rfl _ _).same .eng rfl

theorem State.advanceRecurs_workOnly (l : LoessSection) (t : U64) (n : Nat) : s.WorkOnly (s.advanceRecurs e l t n) := by
  unfold State.advanceRecurs
  exact (State.WorkOnly.setEng ((s.eng[e] : Engine).setRecurs_workOnly t _)).trans (.of_eng (State.countSat_eng _ _ _))

/-! One entry -/

/-- The ring with an entry written: the space of the oldest one is reused. -/
def StreamRing.with (r : StreamRing) (t : Nat) (x : StreamEntry) : StreamRing :=
  { r with entries := (mapSet r.entries t x).filter (fun y => decide (t < y.1 + r.span)), newest := max r.newest t }

theorem StreamRing.with_entry (r : StreamRing) (t : Nat) (x : StreamEntry) (h : 0 < r.decl.depth) : mapFind (r.with t x).entries t = some x := by
  have hspan : 0 < r.span := Nat.lt_of_lt_of_le h (Nat.le_add_right _ _)
  unfold StreamRing.with
  rw [mapFind_filter _ _ _ (fun v => by simpa using hspan), mapFind_mapSet_self]

/-- The engine with an entry written into one of its stream rings. -/
def Engine.withEntry (g : Engine) (r : StreamRing) (ring t : Nat) (x : StreamEntry) : Engine :=
  { g with streams := mapSet g.streams ring (r.with t x) }

/-- What follows an entry that fills a half of the ring head: the store of the half and the reads that wait for it. -/
def State.halfStored (r : StreamRing) (ring t : Nat) : State :=
  if t % 256 = 255 then
    let s := s.queueTx e 2 (r.block t) .store
    let s := s.scanUnit e ring (t - 255)
    match s.phaseAt t with
    | some p => s.scanContext e (p.loess e) true ring t
    | none => s
  else s

/-- What an entry does to the spill units of its ring. -/
def State.unitsAged (r : StreamRing) (ring t : Nat) : State :=
  if r.decl.spill && s.spillOn e then
    let s := if r.span ≤ t ∧ (t - r.span) % 256 = 0 then s.rewriteUnit e true ring (t - r.span) 256 else s
    if r.decl.depth + 256 ≤ t + 1 ∧ (t + 1 - r.decl.depth) % 256 = 0 ∧ r.start.toNat + r.decl.depth ≤ t then
      s.spillWaits e true ring (t + 1 - r.decl.depth - 256)
    else s
  else s

theorem State.putStreamEntry_eq (r : StreamRing) (ring t : Nat) (x : StreamEntry) : s.putStreamEntry e r ring t x =
    ((s.setEng e ((s.eng[e] : Engine).withEntry r ring t x)).halfStored e r ring t).unitsAged e r ring t := rfl

theorem State.halfStored_workOnly (r : StreamRing) (ring t : Nat) : s.WorkOnly (s.halfStored e r ring t) := by
  unfold State.halfStored
  split
  · refine ((s.queueTx_workOnly e 2 (r.block t) .store).trans (State.scanUnit_workOnly _ e ring (t - 255))).trans ?_
    dsimp only
    split
    · exact State.scanContext_workOnly _ e _ _ _ _
    · exact .refl _
  · exact .refl s

theorem State.unitsAged_workOnly (r : StreamRing) (ring t : Nat) : s.WorkOnly (s.unitsAged e r ring t) := by
  unfold State.unitsAged
  split
  · have hre : s.WorkOnly (if r.span ≤ t ∧ (t - r.span) % 256 = 0 then s.rewriteUnit e true ring (t - r.span) 256 else s) := by
      split
      · exact s.rewriteUnit_workOnly e _ _ _ _
      · exact .refl s
    refine hre.trans ?_
    generalize (if r.span ≤ t ∧ (t - r.span) % 256 = 0 then s.rewriteUnit e true ring (t - r.span) 256 else s) = u
    dsimp only
    split
    · exact u.spillWaits_workOnly e _ _ _
    · exact .refl u
  · exact .refl s

/-- The recurrences take in the ticks of which every entry stands. -/
def State.entriesTaken (t : Nat) : State :=
  match s.phaseAt t with
  | some p => s.advanceRecurs e (p.loess e) (BitVec.ofNat 64 t) (s.entriesThrough t)
  | none => s

theorem State.entriesTaken_workOnly (t : Nat) : s.WorkOnly (s.entriesTaken e t) := by
  unfold State.entriesTaken
  split
  · exact s.advanceRecurs_workOnly e _ _ _
  · exact .refl s

theorem State.writeStreamEntry_none {ring : Nat} (t : Nat) (x : StreamEntry) (h : mapFind (s.eng[e] : Engine).streams ring = none) :
    s.writeStreamEntry e ring t x = s := by
  unfold State.writeStreamEntry
  rw [h]

theorem State.writeStreamEntry_workOnly {ring : Nat} {r : StreamRing} (t : Nat) (x : StreamEntry)
    (h : mapFind (s.eng[e] : Engine).streams ring = some r) :
    (s.setEng e ((s.eng[e] : Engine).withEntry r ring t x)).WorkOnly (s.writeStreamEntry e ring t x) := by
  have heq : s.writeStreamEntry e ring t x = (s.putStreamEntry e r ring t x).entriesTaken e t := by
    unfold State.writeStreamEntry
    rw [h]
    rfl
  rw [heq, State.putStreamEntry_eq]
  exact ((State.halfStored_workOnly _ e r ring t).trans (State.unitsAged_workOnly _ e r ring t)).trans (State.entriesTaken_workOnly _ e t)

/-- The entry stands in its ring. -/
theorem State.writeStreamEntry_entry {ring : Nat} {r : StreamRing} (t : Nat) (x : StreamEntry)
    (h : mapFind (s.eng[e] : Engine).streams ring = some r) (hd : 0 < r.decl.depth) :
    (mapFind ((s.writeStreamEntry e ring t x).eng[e] : Engine).streams ring).bind (fun r => mapFind r.entries t) = some x := by
  rw [(s.writeStreamEntry_workOnly e t x h).streams e, State.eng_setEng]
  unfold Engine.withEntry
  rw [mapFind_mapSet_self]
  exact r.with_entry t x hd

/-- Nothing of what decides whether an engine takes an entry differs in the other engine. -/
theorem State.writeStreamEntry_other (ring t : Nat) (x : StreamEntry) {k : Fin 2} (hk : k ≠ e) :
    (s.eng[k] : Engine).WorkOnly ((s.writeStreamEntry e ring t x).eng[k] : Engine) := by
  cases h : mapFind (s.eng[e] : Engine).streams ring with
  | none =>
    rw [s.writeStreamEntry_none e t x h]
    exact State.WorkOnly.refl s k
  | some r =>
    have hw := s.writeStreamEntry_workOnly e t x h k
    rw [State.eng_setEng_ne s hk] at hw
    exact hw

end

/-! The engines of a frame -/

/-- An engine has started by a tick. -/
def Engine.startedBy (g : Engine) (h : U64) : Bool := g.running && (match g.start with | some t => decide (t.toNat ≤ h.toNat) | none => false)

/-- An entry into the ring of one engine, where it has started. -/
def State.entryInto (s : State) (ring : Nat) (h : U64) (x : StreamEntry) (e : Fin 2) : State :=
  if (s.eng[e] : Engine).startedBy h then s.writeStreamEntry e ring h.toNat x else s

/-- The engines that take the entries of a program's layout bed. -/
def PastProg.entryEngines (pg : PastProg) (lb : Nat) : List (Fin 2) :=
  if (pg.phase?.map (fun p => p.ph.mirrored)).getD false then [0, 1] else enginesOf (pg.beds lb)

theorem State.ringEntry_eq (s : State) (pg : PastProg) (lb slot : Nat) (h : U64) (x : StreamEntry) :
    s.ringEntry pg lb slot h x = (pg.entryEngines lb).foldl (fun s e => s.entryInto (ringKey lb slot) h x e) s := rfl

theorem eraseDups_nodup {α : Type} [DecidableEq α] (l : List α) : l.eraseDups.Nodup := by
  induction hn : l.length using Nat.strong_induction_on generalizing l with
  | _ n ih =>
    cases l with
    | nil => exact List.nodup_nil
    | cons a as =>
      have hlen : (as.filter (fun b => !b == a)).length < n := by
        rw [← hn]
        exact Nat.lt_succ_of_le (List.length_filter_le _ _)
      rw [List.eraseDups_cons]
      exact List.nodup_cons.mpr ⟨by simp [List.mem_eraseDups], ih _ hlen _ rfl⟩

theorem PastProg.entryEngines_nodup (pg : PastProg) (lb : Nat) : (pg.entryEngines lb).Nodup := by
  unfold PastProg.entryEngines
  split
  · decide
  · exact eraseDups_nodup _

theorem PastProg.mem_entryEngines {pg : PastProg} {lb : Nat} {e : Fin 2} (h : e ∈ enginesOf (pg.beds lb)) : e ∈ pg.entryEngines lb := by
  unfold PastProg.entryEngines
  split
  · exact (by decide : ∀ e : Fin 2, e ∈ [(0 : Fin 2), 1]) e
  · exact h

theorem State.entryInto_other (s : State) (ring : Nat) (h : U64) (x : StreamEntry) {e k : Fin 2} (hk : k ≠ e) :
    (s.eng[k] : Engine).WorkOnly ((s.entryInto ring h x e).eng[k] : Engine) := by
  unfold State.entryInto
  split
  · exact s.writeStreamEntry_other e ring _ x hk
  · exact State.WorkOnly.refl s k

/-- Entries into other engines leave an engine its rings. -/
theorem State.entriesInto_other (ring : Nat) (h : U64) (x : StreamEntry) {k : Fin 2} {es : List (Fin 2)} (hk : k ∉ es) (s : State) :
    (s.eng[k] : Engine).WorkOnly ((es.foldl (fun s e => s.entryInto ring h x e) s).eng[k] : Engine) := by
  induction es generalizing s with
  | nil => exact State.WorkOnly.refl s k
  | cons e es ih =>
    have hne : k ≠ e := fun h => hk (h ▸ List.mem_cons_self)
    have hnot : k ∉ es := fun h => hk (List.mem_cons_of_mem e h)
    exact (s.entryInto_other ring h x hne).trans (ih hnot _)

/-- The ring of an engine in which an entry goes takes it. -/
theorem State.entryInto_takes (s : State) (ring : Nat) (h : U64) (x : StreamEntry) (e : Fin 2) : s.ringTakes (s.entryInto ring h x e) e ring h x := by
  intro c r hrun hstart hc hr hd
  have hby : (s.eng[e] : Engine).startedBy h = true := by
    unfold Engine.startedBy
    rw [hrun, hstart]
    simpa using hc
  unfold State.entryInto
  rw [if_pos hby]
  exact s.writeStreamEntry_entry e h.toNat x hr hd

/-- What an engine that changes in its work alone takes is what it took before. -/
theorem State.ringTakes_of_workOnly {s u t : State} {e : Fin 2} {ring : Nat} {h : U64} {x : StreamEntry} (hw : (s.eng[e] : Engine).WorkOnly (u.eng[e] : Engine))
    (ht : u.ringTakes t e ring h x) : s.ringTakes t e ring h x := by
  intro c r hrun hstart hc hr hd
  obtain ⟨_, _, _, _, hg⟩ := hw
  exact ht c r (by rw [hg]; exact hrun) (by rw [hg]; exact hstart) hc (by rw [hg]; exact hr) hd

theorem State.ringEntry_takes (s : State) (pg : PastProg) (lb slot : Nat) (h : U64) (x : StreamEntry) {e : Fin 2} (he : e ∈ pg.entryEngines lb) :
    s.ringTakes (s.ringEntry pg lb slot h x) e (ringKey lb slot) h x := by
  obtain ⟨before, after, hes⟩ := List.append_of_mem he
  have hnodup := pg.entryEngines_nodup lb
  rw [hes] at hnodup
  have hbefore : e ∉ before := fun hm => (List.nodup_append.mp hnodup).2.2 e hm e List.mem_cons_self rfl
  have hafter : e ∉ after := (List.nodup_cons.mp (List.nodup_append.mp hnodup).2.1).1
  rw [State.ringEntry_eq, hes, List.foldl_append, List.foldl_cons]
  refine State.ringTakes_of_workOnly (State.entriesInto_other (ringKey lb slot) h x hbefore s) ?_
  intro c r hrun hstart hc hr hd
  have hentry := State.entryInto_takes _ (ringKey lb slot) h x e c r hrun hstart hc hr hd
  obtain ⟨_, _, _, _, hg⟩ := State.entriesInto_other (ringKey lb slot) h x hafter
    ((before.foldl (fun s e => s.entryInto (ringKey lb slot) h x e) s).entryInto (ringKey lb slot) h x e)
  rw [hg]
  exact hentry

theorem State.ringEntry_fast (s : State) (pg : PastProg) (lb slot : Nat) (h : U64) (x : StreamEntry) : (s.ringEntry pg lb slot h x).fast = s.fast :=
  (Keeps.ringEntry (.refl [.regs, .eng, .aug, .hst] s) rfl pg lb slot h x).same .fast rfl

/-! The command -/

section
variable {s : State} {bed : Fin 4} {slot : Fin 64} {hzn : U64}

theorem exec_streamRingEntryWrite_frame {f : Frame} (hf : s.frame? bed slot hzn = some f) (hx : f.exited = true) (hr : f.ringDone = false) :
    exec (.streamRingEntryWrite bed slot hzn) s =
      .next ((s.ringEntry (s.progAt hzn.toNat) bed slot hzn ⟨f.summary, f.quick, firstCause f.qCauses, true⟩).updFrame bed slot hzn
        (fun y => { y with ringDone := true })).purge := by
  show Host.Outcome.next (match s.frame? bed slot hzn with
    | some f =>
      if f.exited && !f.ringDone then
        let s := s.ringEntry (s.progAt hzn.toNat) bed slot hzn ⟨f.summary, f.quick, firstCause f.qCauses, true⟩
        (s.updFrame bed slot hzn (fun y => { y with ringDone := true })).purge
      else s
    | none => _) = _
  rw [hf]
  exact congrArg Host.Outcome.next (if_pos (by rw [hx, hr]; rfl))

theorem exec_streamRingEntryWrite_empty {p : PhaseProg} (hf : s.frame? bed slot hzn = none) (hst : s.mod.st = .growing)
    (hp : (s.progAt hzn.toNat).phase? = some p) (hslot : (p.slot? bed slot).isSome = true) (hbound : s.boundAt (ringKey bed slot) hzn.toNat = false)
    (hdeep : s.deepSlot (ringKey bed slot) = false) (hopen : s.tickOpen hzn = true) (hc : hzn.toNat ≤ s.count.toNat) :
    exec (.streamRingEntryWrite bed slot hzn) s =
      .next (s.ringEntry (s.progAt hzn.toNat) bed slot hzn ⟨List.replicate 16 0, 0, 0, false⟩) := by
  show Host.Outcome.next (match s.frame? bed slot hzn with
    | some f => _
    | none =>
      let inOrder := match (s.progAt hzn.toNat).phase? with | some p => (p.slot? bed slot).isSome | none => false
      let empty := inOrder && !s.boundAt (ringKey bed slot) hzn.toNat && !s.deepSlot (ringKey bed slot)
      if s.mod.st == ModState.growing && empty && s.tickOpen hzn && decide (hzn.toNat ≤ s.count.toNat) then
        s.ringEntry (s.progAt hzn.toNat) bed slot hzn ⟨List.replicate 16 0, 0, 0, false⟩
      else s) = _
  rw [hf, hp]
  exact congrArg Host.Outcome.next (if_pos (by simp [hst, hslot, hbound, hdeep, hopen, hc]))

end

/-- Settles O34: each engine in the list writes its own rings only, so the entry that it wrote stands after the others have written theirs. -/
theorem streamRingsTakeTheirEntries : Obligations.StreamRingsTakeTheirEntries := by
  unfold Obligations.StreamRingsTakeTheirEntries
  refine ⟨?frame, ?empty⟩
  case frame =>
    intro bed slot hzn f s hf hx hr
    refine ⟨_, exec_streamRingEntryWrite_frame hf hx hr, fun g hg => ?_, fun e he => ?_⟩
    · obtain ⟨y, rfl⟩ := State.frame?_updFrame_purge hg
      rfl
    · exact s.ringEntry_takes (s.progAt hzn.toNat) bed slot hzn _ (PastProg.mem_entryEngines he)
  case empty =>
    intro bed slot hzn p s hf hst hp hslot hbound hdeep hopen hc
    exact ⟨_, exec_streamRingEntryWrite_empty hf hst hp hslot hbound hdeep hopen hc, s.ringEntry_fast _ _ _ _ _,
      fun e he => s.ringEntry_takes (s.progAt hzn.toNat) bed slot hzn _ (PastProg.mem_entryEngines he)⟩

end Sys2Proof.Machine

/-! A frame leaves its bed (R103, R118 to R120, R123). -/
namespace Sys2Proof.Machine

/-! Frames that are found again -/

/-- What names a frame. -/
def Frame.key (f : Frame) : Nat × Nat × U64 := (f.layoutBed, f.slot, f.hzn)

/-- A change of every frame that leaves what names it finds the same frame, changed. -/
theorem State.frame?_map {s t : State} {φ : Frame → Frame} (h : t.fast.frames = s.fast.frames.map φ) (hk : ∀ f, (φ f).key = f.key) (b k : Nat)
    (hzn : U64) : t.frame? b k hzn = (s.frame? b k hzn).map φ := by
  have hp : (fun x : Frame => x.layoutBed == b && x.slot == k && x.hzn == hzn) ∘ φ = fun x => x.layoutBed == b && x.slot == k && x.hzn == hzn := by
    funext f
    have hf := hk f
    unfold Frame.key at hf
    obtain ⟨hb, hs, hh⟩ : (φ f).layoutBed = f.layoutBed ∧ (φ f).slot = f.slot ∧ (φ f).hzn = f.hzn := by simpa using hf
    simp [hb, hs, hh]
  unfold State.frame?
  rw [h, List.find?_map, hp]

/-- The frame that an update names is found updated. -/
theorem State.frame?_updFrame {s : State} {b k : Nat} {h : U64} {u : Frame → Frame} (hu : ∀ f, (u f).key = f.key) {f : Frame}
    (hf : s.frame? b k h = some f) : (s.updFrame b k h u).frame? b k h = some (u f) := by
  rw [State.frame?_map (s := s) (φ := fun x => if x.layoutBed = b ∧ x.slot = k ∧ x.hzn = h then u x else x) rfl (fun x => by
    by_cases hx : x.layoutBed = b ∧ x.slot = k ∧ x.hzn = h
    · rw [if_pos hx]
      exact hu x
    · rw [if_neg hx]), hf]
  exact congrArg some (if_pos (State.frame?_key hf))

/-! What stands of a frame that has left -/

/-- What names a frame, and what its verdict register holds. -/
def Frame.verdictView (f : Frame) : (Nat × Nat × U64) × Bool × Verdict × List Nat × List Int × Bool × List Byte × Bool × Bool :=
  (f.key, f.exited, f.quick, f.qCauses, f.summary, f.mirror, f.payload, f.quickSent, f.tally)

theorem Frame.key_of_verdictView {f g : Frame} (h : f.verdictView = g.verdictView) : f.key = g.key := congrArg Prod.fst h

/-- The frames stand, each with its verdict. -/
def State.VerdictsKept (s t : State) : Prop := ∃ φ : Frame → Frame, t.fast.frames = s.fast.frames.map φ ∧ ∀ f, (φ f).verdictView = f.verdictView

theorem State.VerdictsKept.of_frames {s t : State} (h : t.fast.frames = s.fast.frames) : s.VerdictsKept t :=
  ⟨id, by rw [h, List.map_id], fun _ => rfl⟩

theorem State.VerdictsKept.of_fast {s t : State} (h : t.fast = s.fast) : s.VerdictsKept t := .of_frames (congrArg Fast.frames h)

theorem State.VerdictsKept.refl (s : State) : s.VerdictsKept s := .of_frames rfl

theorem State.VerdictsKept.trans {s t u : State} (x : s.VerdictsKept t) (y : t.VerdictsKept u) : s.VerdictsKept u := by
  obtain ⟨φ, hφ, hv⟩ := x
  obtain ⟨ψ, hψ, hw⟩ := y
  exact ⟨ψ ∘ φ, by rw [hψ, hφ, List.map_map], fun f => (hw (φ f)).trans (hv f)⟩

theorem State.VerdictsKept.foldl {α : Type} {f : State → α → State} (hf : ∀ (s : State) x, s.VerdictsKept (f s x)) (xs : List α) (s : State) :
    s.VerdictsKept (xs.foldl f s) := by
  induction xs generalizing s with
  | nil => exact .refl s
  | cons x xs ih => exact (hf s x).trans (ih (f s x))

theorem State.VerdictsKept.updFrame {u : Frame → Frame} (hu : ∀ f, (u f).verdictView = f.verdictView) (s : State) (b k : Nat) (h : U64) :
    s.VerdictsKept (s.updFrame b k h u) := by
  refine ⟨_, rfl, fun f => ?_⟩
  by_cases hf : f.layoutBed = b ∧ f.slot = k ∧ f.hzn = h
  · rw [if_pos hf]
    exact hu f
  · rw [if_neg hf]

theorem State.VerdictsKept.frame? {s t : State} (x : s.VerdictsKept t) {b k : Nat} {h : U64} {f : Frame} (hf : s.frame? b k h = some f) :
    ∃ g, t.frame? b k h = some g ∧ g.verdictView = f.verdictView := by
  obtain ⟨φ, hφ, hv⟩ := x
  exact ⟨φ f, by rw [State.frame?_map hφ (fun f => Frame.key_of_verdictView (hv f)), hf]; rfl, hv f⟩

section
variable (s : State)

theorem State.partsMissing_verdicts (lb slot : Nat) (h : U64) (part n : Nat) : s.VerdictsKept (s.partsMissing lb slot h part n) := by
  unfold State.partsMissing
  extract_lets u src w
  have hu : u.fast = s.fast := (Keeps.bump (.refl [.regs] s) rfl _).same .fast rfl
  split
  · exact .of_fast hu
  · refine (State.VerdictsKept.of_frames (t := w) (show u.fast.frames = s.fast.frames from congrArg Fast.frames hu)).trans (.of_fast ?_)
    exact (Keeps.writeEventAt (.refl [.regs, .aug] w) rfl _ _ _ _).same .fast rfl

theorem State.checkTail_verdicts : s.VerdictsKept s.checkTail := .of_frames s.checkTail_frames

/-- A disagreement of a pair is counted, recorded and tested; no frame is touched by it. -/
theorem State.disagreement_fast (pair : Nat) (c : Capture) : (s.disagreement pair c).fast = s.fast := by
  unfold State.disagreement
  extract_lets u slot v skip index running waits tests w src x y
  have hv : v.fast = s.fast := (Keeps.writeEventAt (.bump (.refl [.regs, .aug] s) rfl _) rfl _ _ _ _).same .fast rfl
  have hw : w.fast = v.fast := by
    show (if skip then v else v.storeCapture index c : State).fast = v.fast
    split
    · rfl
    · exact (Keeps.storeCapture (.refl [.flt] v) rfl _ _).same .fast rfl
  have hy : y.fast = w.fast := by
    show (if waits then x else x.captureEvent index c).fast = w.fast
    split
    · rfl
    · exact (Keeps.captureEvent (.refl [.regs, .aug] x) rfl _ _).same .fast rfl
  have hd : ∀ (z : State) un h t, (z.detect un 7 h t).fast = z.fast := by
    intro z un h t
    rw [State.detect_eq]
    exact ((z.errorShown_keeps un 7 (classCause 7) h t).same .fast rfl).trans ((Keeps.wakeEntry (.refl [.mod] z) rfl).same .fast rfl)
  exact ((Keeps.showTesting (.refl [.regs] _) rfl).same .fast rfl).trans ((hd y _ _ _).trans (hy.trans (hw.trans hv)))

theorem State.openSettled_verdicts (p : PhaseProg) (f : Frame) : s.VerdictsKept (s.openSettled p f) := by
  unfold State.openSettled
  extract_lets bits sub set
  have hset : ∀ v cs, s.VerdictsKept (set v cs) := fun v cs =>
    .updFrame (u := fun x => { x with settledReady := some v, sCauses := cs }) (fun _ => rfl) s _ _ _
  split
  · exact .refl s
  · split
    · split
      · exact hset _ _
      · exact hset _ _
    · split
      · exact hset _ _
      · next k _ =>
        refine (State.VerdictsKept.updFrame (u := fun x => { x with kind := some k }) (fun _ => rfl) s f.layoutBed f.slot f.hzn).trans (.foldl (fun (v : State) e => ?_) _ _)
        dsimp only
        split
        · exact .of_fast rfl
        · exact .refl v

theorem State.admitOne_verdicts (e : Fin 2) (p : PhaseProg) (f : Frame) : s.VerdictsKept (s.admitOne e p f) := by
  unfold State.admitOne
  split
  · exact .refl s
  · extract_lets g cost bucket now room r u q v w n x
    have hu : u.fast = s.fast := by
      show (if s.looseAt f.hzn then _ else _ : Bool × State).2.fast = s.fast
      split
      · rfl
      · rfl
    split
    · exact .refl s
    · split
      · have hx : x.fast = s.fast := by
          refine Eq.trans ((Keeps.raiseFld (.bump (.refl [.regs] w) rfl _) rfl _ _).same .fast rfl) ?_
          show (if u.looseAt f.hzn then v else _ : State).fast = s.fast
          split
          · exact hu
          · exact ((Keeps.setReg (.refl [.regs] v) rfl _ _).same .fast rfl).trans hu
        exact (State.VerdictsKept.of_fast (((Keeps.scanQuery (.refl [.eng] x) rfl _ _ _).same .fast rfl).trans hx)).trans
          (.updFrame (u := fun x => { x with admitted := true }) (fun _ => rfl) _ _ _ _)
      · exact .of_fast (((Keeps.setFlag (.bump (.refl [.regs] v) rfl _) rfl _ _).same .fast rfl).trans hu)

theorem State.admitTick_verdicts (e : Fin 2) (h : U64) : s.VerdictsKept (s.admitTick e h) := by
  unfold State.admitTick
  split
  · exact .refl s
  · refine State.VerdictsKept.trans (.of_fast ?_) (.foldl (fun v f => v.admitOne_verdicts e _ f) _ _)
    exact (Keeps.setEng (.setReg (.takeBucket (.refl [.regs, .eng] s) rfl _ _ _) rfl _ _) rfl _ _).same .fast rfl

theorem State.serveTick_verdicts (e : Fin 2) (h : U64) : s.VerdictsKept (s.serveTick e h) := by
  have hup : s.VerdictsKept (s.admitUpTo e h) := .foldl (fun (v : State) t => v.admitTick_verdicts e _) _ s
  unfold State.serveTick
  dsimp only
  split
  · exact hup.trans (State.admitTick_verdicts _ e h)
  · exact hup

end

/-! The exit of a bed -/

section
variable (s : State) (p : PhaseProg) (f : Frame)

/-- The copies of a frame with their runs. -/
abbrev CopyRuns := List (CopyRun × BedCopy × Option Nat)

/-- The parts of a frame that were missing. -/
def missingParts (runs : CopyRuns) : List Nat := (runs.flatMap (fun x => x.1.missing)).eraseDups

theorem missingParts_isEmpty (runs : CopyRuns) : (missingParts runs).isEmpty = (runs.flatMap (fun x => x.1.missing)).isEmpty := by
  unfold missingParts
  cases runs.flatMap (fun x => x.1.missing) with
  | nil => rfl
  | cons a as => simp [List.eraseDups_cons]

/-- What the exit unit decides from the runs. -/
def Frame.release (runs : CopyRuns) : Released := decide3 p f (runs.map (fun x => x.2)) (!(missingParts runs).isEmpty)

/-- The parts that were missing are counted. -/
def State.missingTold (runs : CopyRuns) : State :=
  if (missingParts runs).isEmpty then s else s.partsMissing f.layoutBed f.slot f.hzn ((missingParts runs).headD 0) (missingParts runs).length

/-- What the exit counts: saturation, substitutions, a copy released alone. -/
def State.exitCounted (runs : CopyRuns) (r : Released) : State :=
  let sub := r.sub || decide (runs.length = 2) && f.dflt
  let s := runs.foldl (fun s (x : CopyRun × BedCopy × Option Nat) =>
    let b : Fin 4 := Fin.ofNat 4 x.2.1.bed
    let s := (s.bedSat b x.1.events).bumpBy GRN_SAT_CNT x.1.sel
    if sub then s.bump (BED_SUB_CNT + bedOff b) else s) s
  let s := match r.solo with
    | some b => (s.setFlag (BED_STAT_SOLO.on (bedOff b)) true).bump (BED_SOLO_CNT + bedOff b)
    | none => s
  s.countSub r.causes

/-- The verdict register of a frame that leaves. -/
def Released.write (r : Released) (runs : CopyRuns) (x : Frame) : Frame :=
  { x with
    exited := true, quick := verdictWord r.bits r.causes r.sub x.tally, qCauses := causeList r.causes, summary := r.summary
    mirror := r.mirror, sat := x.sat || decide (r.events ≠ 0), copies := runs.map (fun y => y.2.1) }

/-- The span words cross, and copies that differ are told. -/
def State.exitSent (runs : CopyRuns) (r : Released) : State :=
  let s := s.sendSpans p f runs
  match r.differ, runs with
  | true, [c, d] => s.disagreement (f.copies.headD default).bed (quickCapture f c.2.1 d.2.1)
  | _, _ => s

/-- The settled side of the frame opens, its parts form, and the engines serve its tick. -/
def State.exitServed : State :=
  match s.frame? f.layoutBed f.slot f.hzn with
  | none => s
  | some g =>
    let s := if g.hasSettled then s else s.formResult g
    let s := (s.openSettled p g).exitParts p g
    let s := [(0 : Fin 2), 1].foldl (fun s (e : Fin 2) => if s.tickDone p e f.hzn then s.serveTick e f.hzn else s) s
    s.checkTail

/-- The frame in the state that has taken in its errors leaves its bed. -/
def State.leavesBed (runs : CopyRuns) : State :=
  (((((s.missingTold f runs).exitCounted f runs (f.release p runs)).updFrame f.layoutBed f.slot f.hzn ((f.release p runs).write runs)).exitSent p f runs
    (f.release p runs))).exitServed p f

theorem State.exitBed_eq (errs : List UnitError) {g : Frame} (hg : (s.exitErrors p f errs).frame? f.layoutBed f.slot f.hzn = some g) :
    s.exitBed p f errs = (s.exitErrors p f errs).leavesBed p g ((s.exitErrors p f errs).copyRuns p g) := by
  unfold State.exitBed
  generalize s.exitErrors p f errs = u at hg ⊢
  dsimp only
  rw [hg]
  rfl

theorem State.missingTold_verdicts (runs : CopyRuns) : s.VerdictsKept (s.missingTold f runs) := by
  unfold State.missingTold
  split
  · exact .refl s
  · exact s.partsMissing_verdicts _ _ _ _ _

theorem State.exitCounted_fast (runs : CopyRuns) (r : Released) : (s.exitCounted f runs r).fast = s.fast := by
  unfold State.exitCounted
  extract_lets sub u v
  have hu : Keeps [.regs] s u := Keeps.foldl _ (.refl _ s) (fun v x hv => by
    have hb : Keeps [.regs] s ((v.bedSat (Fin.ofNat 4 x.2.1.bed) x.1.events).bumpBy GRN_SAT_CNT x.1.sel) := .bumpBy (.bedSat hv rfl _ _) rfl _ _
    dsimp only
    split
    · exact .bump hb rfl _
    · exact hb)
  have hv : Keeps [.regs] s v := by
    show Keeps [.regs] s (match r.solo with
      | some b => (u.setFlag (BED_STAT_SOLO.on (bedOff b)) true).bump (BED_SOLO_CNT + bedOff b)
      | none => u)
    split
    · exact .bump (.setFlag hu rfl _ _) rfl _
    · exact hu
  exact (Keeps.countSub hv rfl r.causes).same .fast rfl

theorem State.exitSent_verdicts (runs : CopyRuns) (r : Released) : s.VerdictsKept (s.exitSent p f runs r) := by
  have hspans : s.VerdictsKept (s.sendSpans p f runs) := .of_frames rfl
  unfold State.exitSent
  dsimp only
  split
  · exact hspans.trans (.of_fast (State.disagreement_fast _ _ _))
  · exact hspans

theorem State.exitServed_verdicts : s.VerdictsKept (s.exitServed p f) := by
  unfold State.exitServed
  split
  · exact .refl s
  · next g _ =>
    extract_lets u v w
    have hu : s.VerdictsKept u := by
      show s.VerdictsKept (if g.hasSettled then s else s.formResult g)
      split
      · exact .refl s
      · exact .of_fast ((Keeps.formResult (.refl [.lck] s) rfl g).same .fast rfl)
    have hv : u.VerdictsKept v := (u.openSettled_verdicts p g).trans
      (.of_fast ((Keeps.exitParts (.refl [.regs, .ring] _) rfl p g).same .fast rfl))
    have hw : v.VerdictsKept w := .foldl (fun (x : State) e => by
      split
      · exact x.serveTick_verdicts e f.hzn
      · exact .refl x) _ v
    exact (hu.trans (hv.trans hw)).trans w.checkTail_verdicts

/-- The frame that left is found with the verdict that the exit unit has decided. -/
theorem State.leavesBed_verdict (runs : CopyRuns) (hf : s.frame? f.layoutBed f.slot f.hzn = some f) :
    ∃ x g, (s.leavesBed p f runs).frame? f.layoutBed f.slot f.hzn = some x ∧ g.verdictView = f.verdictView ∧
      x.verdictView = ((f.release p runs).write runs g).verdictView := by
  have hbefore := (s.missingTold_verdicts f runs).trans (.of_fast (State.exitCounted_fast _ f runs (f.release p runs)))
  obtain ⟨g, hg, hview⟩ := hbefore.frame? hf
  have hwritten := State.frame?_updFrame (u := (f.release p runs).write runs) (fun _ => rfl) hg
  obtain ⟨x, hx, hlast⟩ := ((State.exitSent_verdicts _ p f runs (f.release p runs)).trans (State.exitServed_verdicts _ p f)).frame? hwritten
  exact ⟨x, g, hx, hview, hlast⟩

end

/-- What two frames of one verdict share. -/
theorem Frame.verdictView_iff {f g : Frame} : f.verdictView = g.verdictView ↔ f.key = g.key ∧ f.exited = g.exited ∧ f.quick = g.quick ∧
    f.qCauses = g.qCauses ∧ f.summary = g.summary ∧ f.mirror = g.mirror ∧ f.payload = g.payload ∧ f.quickSent = g.quickSent ∧ f.tally = g.tally := by
  simp [Frame.verdictView]

theorem exec_bedExit {bed : Fin 4} {slot : Fin 64} {hzn : U64} {s : State} {f : Frame} {p : PhaseProg} (errs : List UnitError)
    (hf : s.frame? bed slot hzn = some f) (hp : s.phaseAt hzn.toNat = some p) (hx : f.exited = false) :
    exec (.bedExit bed slot hzn errs) s = .next (s.exitBed p f errs) := by
  show Host.Outcome.next (match s.frame? bed slot hzn, s.phaseAt hzn.toNat with
    | some f, some p => if f.exited then s else s.exitBed p f errs
    | _, _ => s) = _
  rw [hf, hp]
  exact congrArg Host.Outcome.next (if_neg (by rw [hx]; exact Bool.false_ne_true))

/-- Settles O32: after the verdict register is written no later step of the exit changes it. -/
theorem bedsGiveTheirVerdict : Obligations.BedsGiveTheirVerdict := by
  unfold Obligations.BedsGiveTheirVerdict
  refine ⟨?exit, ?none⟩
  case exit =>
    intro bed slot hzn errs f g p u r s hf hp hx hu hg hr
    obtain ⟨hb, hs, hh⟩ := State.frame?_key hf
    obtain ⟨gb, gs, gh⟩ := State.frame?_key hg
    have hleft : s.exitBed p f errs = u.leavesBed p g (u.copyRuns p g) := by
      rw [State.exitBed_eq (g := g) s p f errs (by rw [hb, hs, hh, ← hu]; exact hg), ← hu]
    have hrel : g.release p (u.copyRuns p g) = r := by
      unfold Frame.release
      rw [missingParts_isEmpty]
      exact hr.symm
    obtain ⟨x, y, hx', hkeep, hview⟩ := u.leavesBed_verdict p g (u.copyRuns p g) (by rw [gb, gs, gh]; exact hg)
    rw [gb, gs, gh] at hx'
    rw [hrel] at hview
    obtain ⟨-, hexited, hquick, hcauses, hsum, hmir, hpay, hsent, -⟩ := Frame.verdictView_iff.mp hview
    obtain ⟨-, -, -, -, -, -, ypay, ysent, ytally⟩ := Frame.verdictView_iff.mp hkeep
    refine ⟨_, x, (exec_bedExit errs hf hp hx).trans (congrArg Host.Outcome.next hleft), hx', hexited, ?_, hcauses, hsum, hmir, hpay.trans ypay,
      hsent.trans ysent⟩
    rw [← ytally]
    exact hquick
  case none =>
    intro bed slot hzn errs s hf
    show Host.Outcome.next (match s.frame? bed slot hzn, s.phaseAt hzn.toNat with
      | some f, some p => if f.exited then s else s.exitBed p f errs
      | _, _ => s) = _
    rw [hf]

end Sys2Proof.Machine

/-! A slot's frame enters its bed (R64 to R66, R100 to R102, R422). -/
namespace Sys2Proof.Machine

/-! The registers that the context and the bed of a frame write -/

/-- The registers of the records, of an engine that gives a context, and of a bed that takes a frame. -/
def entryRegs : List Nat :=
  [AUG_RATE, AUG_STAT] ++
    [0, 1].flatMap (fun e => [LSS_CTX_LATE_CNT + lssOff e, LSS_STAT + lssOff e, LSS_LAG_USED + lssOff e, LSS_CLAMP_CNT + lssOff e]) ++
    [0, 1, 2, 3].flatMap (fun b => [BED_FRAMES_LO + bedOff b, BED_FRAMES_LO + bedOff b + 4, BED_SAT_CNT + bedOff b, BED_STAT + bedOff b])

/-- The areas that the entry of a frame changes. -/
def entryAreas : List Area := [.regs, .eng, .aug, .mod, .fast, .beds]

theorem engineEntryRegs (e : Fin 2) : LSS_CTX_LATE_CNT + lssOff e ∈ entryRegs ∧ LSS_STAT + lssOff e ∈ entryRegs ∧
    LSS_LAG_USED + lssOff e ∈ entryRegs ∧ LSS_CLAMP_CNT + lssOff e ∈ entryRegs :=
  (by decide : ∀ e : Fin 2, LSS_CTX_LATE_CNT + lssOff e ∈ entryRegs ∧ LSS_STAT + lssOff e ∈ entryRegs ∧
    LSS_LAG_USED + lssOff e ∈ entryRegs ∧ LSS_CLAMP_CNT + lssOff e ∈ entryRegs) e

theorem bedEntryRegs (b : Fin 4) : BED_FRAMES_LO + bedOff b ∈ entryRegs ∧ BED_FRAMES_LO + bedOff b + 4 ∈ entryRegs ∧
    BED_SAT_CNT + bedOff b ∈ entryRegs ∧ BED_STAT + bedOff b ∈ entryRegs :=
  (by decide : ∀ b : Fin 4, BED_FRAMES_LO + bedOff b ∈ entryRegs ∧ BED_FRAMES_LO + bedOff b + 4 ∈ entryRegs ∧
    BED_SAT_CNT + bedOff b ∈ entryRegs ∧ BED_STAT + bedOff b ∈ entryRegs) b

/-- The counters of the slots stand apart from all of them. -/
theorem slotCounter_not_entryRegs (a place : Nat) : slotCounter a place ∉ entryRegs := fun h =>
  slotCounter_ne place ((by decide : ∀ x ∈ entryRegs, x < 0x1000000) _ h) rfl

theorem Framed.bedSat {A : List Area} {R : List Nat} {r s : State} (h : Framed A R r s) (hA : Area.regs ∈ A) {b : Fin 4}
    (hc : BED_SAT_CNT + bedOff b ∈ R) (hs : BED_STAT + bedOff b ∈ R) (n : Nat) : Framed A R r (s.bedSat b n) := by
  unfold State.bedSat
  split
  · exact h
  · exact (h.setReg hA hc _).setFlag hA (f := BED_STAT_SAT.on (bedOff b)) hs true

section
variable (s : State)

theorem State.lateAt_framed (e : Fin 2) (h : U64) : Framed entryAreas entryRegs s (s.lateAt e h) := by
  obtain ⟨hlate, hstat, -⟩ := engineEntryRegs e
  unfold State.lateAt
  extract_lets g u k n v
  have hu : Framed entryAreas entryRegs s u := by
    show Framed entryAreas entryRegs s (match g.lateTick with
      | some (t, _) => if t = h then s else s.flushLate e
      | none => s)
    split
    · split
      · exact .refl _ _ s
      · exact (s.flushLate_framed e).mono (by decide) (by decide)
    · exact .refl _ _ s
  exact ((hu.setEng (by decide) e _).bump (by decide) hlate).setFlag (by decide) (f := LSS_STAT_CTX_LATE.on (lssOff e)) hstat true

theorem State.contextFor_framed (p : PhaseProg) (lb slot : Nat) (h : U64) (beds : List (Fin 4)) :
    Framed entryAreas entryRegs s (s.contextFor p lb slot h beds).2 := by
  unfold State.contextFor
  extract_lets es image offers bad u
  have hu : Framed entryAreas entryRegs s u := Framed.foldl (fun v x => by
    split
    · exact v.lateAt_framed _ h
    · exact .refl _ _ v) bad s
  split
  · exact .refl _ _ s
  · clear_value u bad offers
    split
    · exact hu.trans (Framed.foldl (fun v (e : Fin 2) => (Framed.refl _ _ v).setFld (by decide) (f := ⟨LSS_LAG_USED + lssOff e, 0, 20⟩)
        (engineEntryRegs e).2.2.1 _) es u)
    · exact hu

theorem State.contextFor_fast (p : PhaseProg) (lb slot : Nat) (h : U64) (beds : List (Fin 4)) : (s.contextFor p lb slot h beds).2.fast = s.fast :=
  (Keeps.contextFor (.refl [.regs, .eng, .aug] s) rfl p lb slot h beds).same .fast rfl

/-! The frame that enters -/

/-- An item is the one held for a layout bed, slot and tick. -/
def Arrived.isFor (lb slot : Nat) (h : U64) (a : Arrived) : Bool := a.layoutBed == lb && a.slot == slot && a.hzn == h

/-- The frame as it enters. -/
def State.entryFrame (pg : PastProg) (p : PhaseProg) (q : SlotProg) (lb slot : Nat) (h : U64) (plan : EntryPlan) (ctx : Context) : Frame :=
  let ent := entryBytes p q plan.payload ctx.bytes
  { hzn := h, layoutBed := lb, slot := slot, phase := p.ph.id, imageIndex := ((pg.image.map ImageCopy.index).getD 0xFFFF)
    payload := plan.payload, length := plan.payload.length, ownData := plan.own
    tally := tallyOf p.keys.tally h.toNat slot lb q.tallyP
    substitute := plan.policy == some 0
    causes := causeList (plan.causes ++ ctx.causes)
    warm := ctx.warm, dflt := ctx.dflt, clamp := ent.2.1, sat := ctx.sat, loose := s.looseNow || ctx.loose, mirror := false
    package := ctx.bytes, fromLoess := ctx.fromLoess, lag := ctx.lag, epoch := s.epochOf h
    copies := (pg.beds lb).map (fun b => (⟨b.val, 0, [], true, 0, ent.2.2, ent.1, []⟩ : BedCopy))
    exited := false, quick := 0, summary := [], qCauses := [], kind := none, admitted := false
    settledReady := none, sCauses := [], settledDone := p.ph.s == 0, settled := 0
    quickSent := false, settledSent := p.ph.s == 0, ringDone := false, merged := false, hasSettled := p.ph.s != 0, recorded := false }

/-- The frame stands among the frames in flight, and the item that it took is used. -/
def State.frameTaken (lb slot : Nat) (h : U64) (f : Frame) : State :=
  { s with
    fast := { s.fast with frames := s.fast.frames ++ [f], arrived := s.fast.arrived.filter (fun a => !a.isFor lb slot h) }
    mod := { s.mod with busyTick := true } }

/-- The beds take the frame, with its saturation events, and its engines count a clamp. -/
def State.bedsTake (beds : List (Fin 4)) (clamp : Bool) (sat : Nat) : State :=
  let s := beds.foldl (fun s (b : Fin 4) => ((s.setBed b (s.beds[b] : Bed).used).bump64 (BED_FRAMES_LO + bedOff b) 1).bedSat b sat) s
  if clamp then (enginesOf beds).foldl (fun s (e : Fin 2) => s.bump (LSS_CLAMP_CNT + lssOff e)) s else s

theorem State.bedsTake_framed (beds : List (Fin 4)) (clamp : Bool) (sat : Nat) : Framed entryAreas entryRegs s (s.bedsTake beds clamp sat) := by
  unfold State.bedsTake
  extract_lets u
  have hu : Framed entryAreas entryRegs s u := Framed.foldl (fun v b => by
    obtain ⟨hlo, hhi, hsat, hstat⟩ := bedEntryRegs b
    exact (((Framed.refl _ _ v).setBed (by decide) b _).bump64 (by decide) hlo hhi 1).bedSat (by decide) hsat hstat sat) beds s
  split
  · exact hu.trans (Framed.foldl (fun v e => (Framed.refl _ _ v).bump (by decide) (engineEntryRegs e).2.2.2) _ u)
  · exact hu

theorem State.bedsTake_fast (beds : List (Fin 4)) (clamp : Bool) (sat : Nat) : (s.bedsTake beds clamp sat).fast = s.fast := by
  have hbeds : Keeps [.regs, .beds] s (beds.foldl (fun s (b : Fin 4) =>
      ((s.setBed b (s.beds[b] : Bed).used).bump64 (BED_FRAMES_LO + bedOff b) 1).bedSat b sat) s) :=
    Keeps.foldl _ (.refl _ s) (fun v b hv => .bedSat (.bump64 (.setBed hv rfl _ _) rfl _ _) rfl _ _)
  unfold State.bedsTake
  split
  · exact (Keeps.foldl _ hbeds (fun v e hv => .bump hv rfl _)).same .fast rfl
  · exact hbeds.same .fast rfl

theorem State.enterFrame_eq (pg : PastProg) (p : PhaseProg) (q : SlotProg) (lb slot : Nat) (h : U64) {plan : EntryPlan × State} {ctx : Context × State}
    (hplan : plan = s.entryPlan q (ringKey lb slot) (s.fast.arrived.find? (fun a => a.isFor lb slot h)))
    (hctx : ctx = plan.2.contextFor p lb slot h (pg.beds lb)) :
    s.enterFrame pg p q lb slot h [] = (ctx.2.frameTaken lb slot h (ctx.2.entryFrame pg p q lb slot h plan.1 ctx.1)).bedsTake (pg.beds lb)
      (entryBytes p q plan.1.payload ctx.1.bytes).2.1 (entryBytes p q plan.1.payload ctx.1.bytes).2.2 := by
  rw [hctx, hplan]
  rfl

/-- What a slot's plan leaves of the frames. -/
theorem State.entryPlan_frames (q : SlotProg) (place : Nat) (a : Option Arrived) : (s.entryPlan q place a).2.fast.frames = s.fast.frames := by
  have hreg : ∀ {u v : State}, Keeps [.regs] u v → v.fast.frames = u.fast.frames := fun k => congrArg Fast.frames (k.same .fast rfl)
  unfold State.entryPlan
  extract_lets zeros replaced absent
  have habsent : ∀ c, (absent c).2.fast.frames = s.fast.frames := fun _ => hreg (.bump (.bump (.refl _ s) rfl _) rfl _)
  split
  · exact habsent 1
  · split
    · exact habsent 4
    · split
      · exact hreg (.bump (.bumpBy (.refl _ s) rfl _ _) rfl _)
      · split
        · exact hreg (.bump (.refl _ s) rfl _)
        · dsimp only
          rw [State.bump_fast]

/-- The absent policy's entry is counted (R65). -/
theorem State.entryPlan_none (q : SlotProg) (place : Nat) : (s.entryPlan q place none).1.own = false ∧ (s.entryPlan q place none).1.causes = [1] ∧
    (s.entryPlan q place none).2.reg HZN_ABSENT_CNT = bumped (s.reg HZN_ABSENT_CNT) ∧
    (s.entryPlan q place none).2.reg (slotCounter STM_SLOT_ABSENT_CNT place) = bumped (s.reg (slotCounter STM_SLOT_ABSENT_CNT place)) := by
  have hne := slotCounter_ne (a := STM_SLOT_ABSENT_CNT) place (b := HZN_ABSENT_CNT) (by decide)
  refine ⟨rfl, rfl, ?_, ?_⟩
  · exact (State.reg_bump_ne (s.bump HZN_ABSENT_CNT) hne.symm).trans (s.reg_bump_bumped _)
  · exact ((s.bump HZN_ABSENT_CNT).reg_bump_bumped _).trans (congrArg bumped (State.reg_bump_ne s hne))

/-- A good item enters with its own data, and is counted (R64). -/
theorem State.entryPlan_good (q : SlotProg) (place : Nat) {a : Arrived} (hm : a.missing = false) (hn : a.count < 2) (hc : a.corrupt = false)
    (hb : a.bridge = false) : (s.entryPlan q place (some a)).1.payload = a.payload ∧ (s.entryPlan q place (some a)).1.own = true ∧
    (s.entryPlan q place (some a)).2.reg (slotCounter STM_SLOT_OK_CNT place) = bumped (s.reg (slotCounter STM_SLOT_OK_CNT place)) := by
  have h : s.entryPlan q place (some a) = (⟨a.payload, true, none, a.causes⟩,
      { s with fast := { s.fast with last := mapSet s.fast.last place a.payload } }.bump (slotCounter STM_SLOT_OK_CNT place)) := by
    unfold State.entryPlan
    dsimp only
    rw [if_neg (by rw [hm]; exact Bool.false_ne_true), if_neg (Nat.not_le_of_lt hn), if_neg (by rw [hc, hb]; exact Bool.false_ne_true)]
  rw [h]
  exact ⟨rfl, rfl, State.reg_bump_bumped _ _⟩

/-- The entry adds its frame behind the others, and writes the registers of the entry only once its plan is made. -/
theorem State.enterFrame_shows (pg : PastProg) (p : PhaseProg) (q : SlotProg) (lb slot : Nat) (h : U64) {plan : EntryPlan × State}
    (hplan : plan = s.entryPlan q (ringKey lb slot) (s.fast.arrived.find? (fun a => a.isFor lb slot h))) :
    ∃ (u : State) (ctx : Context),
      (s.enterFrame pg p q lb slot h []).fast.frames = s.fast.frames ++ [u.entryFrame pg p q lb slot h plan.1 ctx] ∧
      ∀ a, a ∉ entryRegs → (s.enterFrame pg p q lb slot h []).reg a = plan.2.reg a := by
  obtain ⟨ctx, hctx⟩ : ∃ c, c = plan.2.contextFor p lb slot h (pg.beds lb) := ⟨_, rfl⟩
  have hframes : ctx.2.fast.frames = s.fast.frames := by
    rw [hctx, State.contextFor_fast, hplan]
    exact s.entryPlan_frames _ _ _
  have hregs : Framed entryAreas entryRegs plan.2 ctx.2 := by
    rw [hctx]
    exact plan.2.contextFor_framed p lb slot h _
  rw [s.enterFrame_eq pg p q lb slot h hplan hctx]
  refine ⟨ctx.2, ctx.1, ?_, fun a ha => ?_⟩
  · rw [State.bedsTake_fast, ← hframes]
    rfl
  · exact ((State.bedsTake_framed _ _ _ _).reg ha).trans (hregs.reg ha)

end

theorem exec_frameEntry {bed : Fin 4} {slot : Fin 64} {hzn : U64} {p : PhaseProg} {q : SlotProg} {s : State} (hst : s.mod.st = .growing)
    (hp : (s.progAt hzn.toNat).phase? = some p) (hq : p.slot? bed slot = some q) (hopen : s.tickOpen hzn = true) (hc : hzn.toNat ≤ s.count.toNat)
    (hdies : s.diesAble ((s.progAt hzn.toNat).beds bed) = true) (hbound : s.boundAt (ringKey bed slot) hzn.toNat = true)
    (hf : s.frame? bed slot hzn = none) (errs : List UnitError) :
    exec (.frameEntry bed slot hzn errs) s = .next (s.enterFrame (s.progAt hzn.toNat) p q bed slot hzn errs) := by
  show Host.Outcome.next (match (s.progAt hzn.toNat).phase? with
    | none => s
    | some p => match p.slot? bed slot with
      | none => s
      | some q =>
        if (s.mod.st == ModState.growing && s.tickOpen hzn && decide (hzn.toNat ≤ s.count.toNat) && s.diesAble ((s.progAt hzn.toNat).beds bed)) &&
            (s.boundAt (ringKey bed slot) hzn.toNat || s.deepSlot (ringKey bed slot)) && (s.frame? bed slot hzn).isNone then
          s.enterFrame (s.progAt hzn.toNat) p q bed slot hzn errs
        else s) = _
  rw [hp]
  dsimp only
  rw [hq]
  exact congrArg Host.Outcome.next (if_pos (by simp [hst, hopen, hc, hdies, hbound, hf]))

/-- Nothing enters outside Growing. -/
theorem exec_frameEntry_of_not_growing {s : State} (hst : s.mod.st ≠ .growing) (bed : Fin 4) (slot : Fin 64) (hzn : U64) (errs : List UnitError) :
    exec (.frameEntry bed slot hzn errs) s = .next s := by
  show Host.Outcome.next (match (s.progAt hzn.toNat).phase? with
    | none => s
    | some p => match p.slot? bed slot with
      | none => s
      | some q =>
        if (s.mod.st == ModState.growing && s.tickOpen hzn && decide (hzn.toNat ≤ s.count.toNat) && s.diesAble ((s.progAt hzn.toNat).beds bed)) &&
            (s.boundAt (ringKey bed slot) hzn.toNat || s.deepSlot (ringKey bed slot)) && (s.frame? bed slot hzn).isNone then
          s.enterFrame (s.progAt hzn.toNat) p q bed slot hzn errs
        else s) = _
  cases (s.progAt hzn.toNat).phase? with
  | none => rfl
  | some p =>
    cases hq : p.slot? bed slot with
    | none => simp only [hq]
    | some q => simp [hq, hst]

/-- Settles O31: the plan of the entry decides what the frame holds and counts, and nothing after it touches the counters of slots. -/
theorem framesEnterTheirBed : Obligations.FramesEnterTheirBed := by
  unfold Obligations.FramesEnterTheirBed
  refine ⟨?enters, ?closed⟩
  case enters =>
    intro bed slot hzn p q s hst hp hq hopen hc hdies hbound hf
    obtain ⟨plan, hplan⟩ : ∃ x, x = s.entryPlan q (ringKey bed slot) (s.fast.arrived.find? (fun a => a.isFor bed slot hzn)) := ⟨_, rfl⟩
    obtain ⟨u, ctx, hframes, hregs⟩ := s.enterFrame_shows (s.progAt hzn.toNat) p q bed slot hzn hplan
    refine ⟨_, _, exec_frameEntry hst hp hq hopen hc hdies hbound hf [], hframes, rfl, rfl, rfl, rfl, rfl, rfl, ?_, ?_⟩
    · show List.map BedCopy.bed (List.map _ _) = _
      rw [List.map_map]
      rfl
    · have hfind : s.fast.arrived.find? (fun a => a.layoutBed == bed.val && a.slot == slot.val && a.hzn == hzn) =
          s.fast.arrived.find? (fun a => a.isFor bed slot hzn) := rfl
      rw [hfind]
      cases ha : s.fast.arrived.find? (fun a => a.isFor bed slot hzn) with
      | none =>
        rw [ha] at hplan
        obtain ⟨hown, hcauses, habs, hslot⟩ := s.entryPlan_none q (ringKey bed slot)
        rw [← hplan] at hown hcauses habs hslot
        refine ⟨?_, hown, (hregs _ (by decide)).trans habs, (hregs _ (slotCounter_not_entryRegs _ _)).trans hslot⟩
        show 1 ∈ causeList (plan.1.causes ++ ctx.causes)
        rw [hcauses]
        simp [causeList]
      | some a =>
        intro hm hn hcor hb
        rw [ha] at hplan
        obtain ⟨hpay, hown, hok⟩ := s.entryPlan_good q (ringKey bed slot) hm hn hcor hb
        rw [← hplan] at hpay hown hok
        exact ⟨hpay, hown, (hregs _ (slotCounter_not_entryRegs _ _)).trans hok⟩
  case closed =>
    intro bed slot hzn errs s hst
    exact exec_frameEntry_of_not_growing hst bed slot hzn errs

end Sys2Proof.Machine

/-!
# Two runs under one slot

The open runs are a table that the statement O35 leaves free to list a slot twice. Of such a slot the run that is found can be the one that the
frame continues while the other one is stale: closing the stale run closes the slot, and the frame opens a run instead of joining one.
-/
namespace Sys2Proof.Machine

/-- A frame whose verdicts exist and that takes no record of its own. -/
def runFrame : Frame := { (default : Frame) with hzn := 10, exited := true, settledDone := true }

/-- The run that the frame continues. -/
def heldRun : OpenRun := ⟨0, 9, 1, 0, 0, 0, []⟩

/-- A run that ended long before the frame's tick. -/
def staleRun : OpenRun := ⟨0, 0, 1, 0, 0, 0, []⟩

/-- The slot of the frame is listed with both runs. -/
def State.twoRuns : State :=
  { State.reset with
    fast := { State.reset.fast with frames := [runFrame] }
    aug := { State.reset.aug with running := true, runs := [(0, heldRun), (0, staleRun)] } }

theorem State.closeRun_runs {s : State} {k : Nat} {r : OpenRun} (h : mapFind s.aug.runs k = some r) : mapFind (s.closeRun k).aug.runs k = none := by
  unfold State.closeRun
  rw [h]
  exact mapFind_mapErase_self _ k

/-- A frame whose slot has no open run begins one. -/
theorem State.intoRun_opens {s : State} {f : Frame} (h : mapFind s.aug.runs (bedSlot f.layoutBed f.slot) = none) :
    mapFind (s.intoRun f).aug.runs (bedSlot f.layoutBed f.slot) = some ⟨f.flags, f.hzn, 1, (f.quick.getLsbD 0).toNat, BitVec.ofNat 8 (f.phase % 16),
      f.runCauses, [f.inputCrc]⟩ := by
  have hclose : s.closeRun (bedSlot f.layoutBed f.slot) = s := by
    unfold State.closeRun
    rw [h]
  unfold State.intoRun
  extract_lets key fresh joins u found r src v
  have hjoins : joins = false := by
    show (match mapFind s.aug.runs key with
      | some r => decide (r.flags = f.flags ∧ r.causes = f.runCauses ∧ r.phase = fresh.phase ∧ f.hzn.toNat = r.start.toNat + r.count)
      | none => false) = false
    rw [h]
  have hu : u = s := by
    show (if joins then s else s.closeRun key) = s
    rw [hjoins]
    exact hclose
  have hfound : found = fresh := by
    show (mapFind u.aug.runs key).getD fresh = fresh
    rw [hu, h]
    rfl
  have hr : r = ⟨f.flags, f.hzn, 1, (f.quick.getLsbD 0).toNat, BitVec.ofNat 8 (f.phase % 16), f.runCauses, [f.inputCrc]⟩ := by
    show (⟨found.flags, found.start, found.count + 1, found.qAccepts + (f.quick.getLsbD 0).toNat, found.phase, found.causes,
      found.crcs ++ [f.inputCrc]⟩ : OpenRun) = _
    rw [hfound]
    exact congrArg (fun n => (⟨f.flags, f.hzn, 1, n, BitVec.ofNat 8 (f.phase % 16), f.runCauses, [f.inputCrc]⟩ : OpenRun)) (Nat.zero_add _)
  rw [if_neg (by rw [hr]; exact (by decide : ¬ (1 : Nat) = 65535)), ← hr]
  exact mapFind_mapSet_self _ _ _

theorem State.checkTail_runs (s : State) : s.checkTail.aug.runs = s.aug.runs := by
  unfold State.checkTail
  split
  · rw [State.driveHold_only _ .aug (by decide)]
    rfl
  · rfl

theorem State.writeEntry_runs {s u : State} {f : Frame} (hu : s.closeDueSeal.closeStale f.hzn.toNat = u) (h : f.needsRecord = false) :
    (s.writeEntry f).aug.runs = (u.intoRun (u.marked f)).aug.runs := by
  have hmarked : ¬ (u.marked f).needsRecord = true := fun hn => Bool.false_ne_true (h.symm.trans hn)
  unfold State.writeEntry
  rw [hu]
  dsimp only
  rw [State.checkTail_runs]
  show (if (u.marked f).needsRecord then
      ((u.closeRun (bedSlot f.layoutBed f.slot)).normPair (u.marked f)).numberRec (u.marked f).record
    else u.intoRun (u.marked f) : State).aug.runs = _
  rw [if_neg hmarked]

/-- The stale run closes the slot. -/
theorem State.twoRuns_stale : State.twoRuns.closeDueSeal.closeStale 10 = State.twoRuns.closeRun 0 := rfl

theorem exec_recordEntry {bed : Fin 4} {slot : Fin 64} {hzn : U64} {f : Frame} {s : State} (hf : s.frame? bed slot hzn = some f)
    (hr : f.entryReady = true) (hn : s.canNumber = true) : exec (.recordEntry bed slot hzn) s = .next (s.writeEntry f) := by
  show Host.Outcome.next (match s.frame? bed slot hzn with
    | some f => if f.entryReady && s.canNumber then s.writeEntry f else s
    | none => s) = _
  rw [hf]
  exact congrArg Host.Outcome.next (if_pos (by rw [hr, hn]; rfl))

/-- Refutes O35: where a slot is listed with a second run that is stale, the frame does not join the run that it continues. -/
theorem not_framesAreRecorded : ¬ Obligations.FramesAreRecorded := by
  unfold Obligations.FramesAreRecorded
  rintro ⟨-, -, joins, -⟩
  obtain ⟨t, he, -, hrun⟩ := joins 0 0 10 runFrame heldRun State.twoRuns rfl rfl rfl rfl rfl rfl rfl rfl rfl (by decide) (by decide)
  have ht : State.twoRuns.writeEntry runFrame = t := Host.Outcome.next.inj ((exec_recordEntry rfl rfl rfl).symm.trans he)
  have hopen := State.intoRun_opens (f := (State.twoRuns.closeRun 0).marked runFrame) (State.closeRun_runs (s := State.twoRuns) (k := 0) (r := heldRun) rfl)
  have hone := (congrArg (fun m => mapFind m 0) (State.writeEntry_runs (f := runFrame) State.twoRuns_stale rfl)).trans hopen
  rw [ht] at hone
  exact absurd (congrArg (Option.map OpenRun.count) (hone.symm.trans hrun)) (by decide)

end Sys2Proof.Machine

/-! Loess work items: what befalls one, and what an evaluation leaves (R214, R217, R220 to R223, R233, R259, R260). -/
namespace Sys2Proof.Machine

/-- The registers that a work item of the loess tier, its errors and their records write. -/
def workRegs : List Nat :=
  [FLT_CAUSE, FLT_UNIT, FLT_HZN_LO, FLT_HZN_LO + 4, FLT_STAT, AUG_RATE, AUG_STAT] ++
    [0, 1].flatMap (fun e => [LSS_MEM_STAT, LSS_STAT, LSS_SEQ_ERR_CNT, LSS_SILT_ECC_CNT, LSS_SAT_CNT, LSS_SILT_ATOM_SAT_CNT, LSS_CTX_TIME_MAX,
      LSS_SET_TIME_MAX].map (fun a => a + lssOff e))

/-- The registers of an engine that a work item writes. -/
def engineWorkRegs : List Nat :=
  [LSS_MEM_STAT, LSS_STAT, LSS_SEQ_ERR_CNT, LSS_SILT_ECC_CNT, LSS_SAT_CNT, LSS_SILT_ATOM_SAT_CNT, LSS_CTX_TIME_MAX, LSS_SET_TIME_MAX]

theorem engineWorkRegs_mem (e : Fin 2) {a : Nat} (h : a ∈ engineWorkRegs) : a + lssOff e ∈ workRegs :=
  (by decide : ∀ e : Fin 2, ∀ a ∈ engineWorkRegs, a + lssOff e ∈ workRegs) e a h

theorem unitDie_lt (u : Word) : unitDie u < 2 := Nat.mod_lt _ (by decide)

theorem dieWorkRegs_mem (u : Word) {a : Nat} (h : a ∈ engineWorkRegs) : a + lssOff (unitDie u) ∈ workRegs := engineWorkRegs_mem ⟨_, unitDie_lt u⟩ h

/-! Errors of work items -/

/-- The classes of the errors that a work item meets: a silt word that cannot be corrected, and a block sequence mismatch. -/
def workClasses : List Nat := [0xA, 0xC]

section
variable {s : State} {u : Word} {cls : Nat}

theorem Framed.setFlt {A : List Area} {R : List Nat} {r s : State} (h : Framed A R r s) (hA : Area.flt ∈ A) (z : Flt) :
    Framed A R r { s with flt := z } := h.area .flt hA rfl (fun p hp => by
  cases p with
  | flt => exact absurd rfl hp
  | _ => rfl)

theorem State.classSide_work (hc : cls ∈ workClasses) : Framed [.regs] workRegs s (s.classSide u cls) := by
  have hmem := dieWorkRegs_mem u (a := LSS_MEM_STAT) (by decide)
  have hstat := dieWorkRegs_mem u (a := LSS_STAT) (by decide)
  have hcnt := dieWorkRegs_mem u (a := LSS_SEQ_ERR_CNT) (by decide)
  simp only [workClasses, List.mem_cons, List.not_mem_nil, or_false] at hc
  rcases hc with rfl | rfl
  · exact (Framed.refl _ _ s).setFlag (by decide) (f := LSS_MEM_STAT_SILT_UNCORR.on (lssOff (unitDie u))) hmem true
  · exact ((Framed.refl _ _ s).setFlag (by decide) (f := LSS_STAT_SEQ_ERR.on (lssOff (unitDie u))) hstat true).bump (by decide) hcnt

theorem State.wakeEntry_framed (s : State) : Framed [.mod] [] s s.wakeEntry := (Keeps.wakeEntry (.refl [.mod] s) rfl).framed_of_regs rfl

theorem State.detectEvent_work (s : State) (u : Word) (cls : Nat) (h : U64) (tag : Nat) :
    Framed [.regs, .aug, .flt] [AUG_RATE, AUG_STAT] s (s.detectEvent u cls h tag) ∧ (s.detectEvent u cls h tag).flt.hist = s.flt.hist := by
  unfold State.detectEvent
  split
  · exact ⟨.refl _ _ s, rfl⟩
  · refine ⟨((Framed.refl _ _ s).setFlt (by decide) _).writeEventAt (by decide) (by simp) _ _ _ _, ?_⟩
    rw [(State.writeEventAt_only _ _ _ _ _) .flt (by decide)]

theorem State.errorShown_work (hc : cls ∈ workClasses) (cause : Nat) (h : U64) (tag : Nat) :
    Framed [.regs, .mod, .aug, .flt] workRegs s (s.errorShown u cls cause h tag) ∧ (s.errorShown u cls cause h tag).flt.hist = s.flt.hist := by
  obtain ⟨t, ht⟩ : ∃ t, t = ((((s.wakeEntry.setReg FLT_CAUSE (BitVec.ofNat 32 (cls * 65536 + cause * 16))).setReg FLT_UNIT u).setReg64
      FLT_HZN_LO h).setFlag FLT_STAT_FAULT true).classSide u cls := ⟨_, rfl⟩
  have hshown : Framed [.regs, .mod] workRegs s t := by
    rw [ht]
    exact (((((State.wakeEntry_framed s).mono (by decide) (by decide)).setReg (by decide) (by decide) _).setReg (by decide) (by decide) _).setReg64
      (by decide) (by decide) (by decide) _).setFlag (by decide) (f := FLT_STAT_FAULT) (by decide) true |>.trans
      ((State.classSide_work hc).mono (by decide) (List.Subset.refl _))
  have heq : s.errorShown u cls cause h tag = t.detectEvent u cls h tag := by
    rw [ht]
    rfl
  obtain ⟨hev, hhist⟩ := t.detectEvent_work u cls h tag
  rw [heq]
  exact ⟨(hshown.mono (by decide) (List.Subset.refl _)).trans (hev.mono (by decide) (by decide)),
    hhist.trans (congrArg Flt.hist (hshown.1 .flt (by decide)))⟩

/-- A first error of a work item is tested, or its test goes on. -/
theorem State.classify_work (hc : cls ∈ workClasses) (hist : s.flt.hist.any (fun e => e.unit == u) = false) (h : U64) :
    Framed [.regs, .flt] workRegs s (s.classify u cls h) := by
  have hnone : s.flt.hist.any (fun e => e.unit == u && decide (e.last.toNat + s.fltWindow > h.toNat)) = false := by
    rw [List.any_eq_false] at hist ⊢
    intro x hx hand
    exact hist x hx (Bool.and_eq_true_iff.mp hand).1
  have htest : s.noTest u cls = false := by
    simp only [workClasses, List.mem_cons, List.not_mem_nil, or_false] at hc
    rcases hc with rfl | rfl
    · rfl
    · rfl
  unfold State.classify
  rw [hnone, htest]
  split
  · exact (Framed.refl _ _ s).setFlt (by decide) _
  · exact ((Framed.refl _ _ s).setFlt (by decide) _).setFlag (by decide) (f := FLT_STAT_TESTING) (by decide) _

theorem State.errorSorted_work (hc : cls ∈ workClasses) (cause : Nat) (h : U64) : s.errorSorted u cls cause h = s.classify u cls h := by
  simp only [workClasses, List.mem_cons, List.not_mem_nil, or_false] at hc
  rcases hc with rfl | rfl
  · rfl
  · rfl

/-- A first error of a work item leaves the engines, the frames and the modes as they are. -/
theorem State.detect_work (hc : cls ∈ workClasses) (hist : s.flt.hist.any (fun e => e.unit == u) = false) (h : U64) (tag : Nat) :
    Framed [.regs, .mod, .aug, .flt] workRegs s (s.detect u cls h tag) ∧ (s.detect u cls h tag).mod = s.wakeEntry.mod := by
  obtain ⟨hshown, hhist⟩ := State.errorShown_work (s := s) (u := u) hc (classCause cls) h tag
  have hmod := (s.errorShown_keeps u cls (classCause cls) h tag).same .mod rfl
  rw [State.detect_eq, State.errorSorted_work hc]
  have hsort := State.classify_work (s := s.errorShown u cls (classCause cls) h tag) hc (by rw [hhist]; exact hist) h
  exact ⟨hshown.trans (hsort.mono (by decide) (List.Subset.refl _)), (hsort.1 .mod (by decide)).trans hmod⟩

end

/-- The modes of the module stand: loose mode and its changes. -/
def State.modesKept (s t : State) : Prop := t.mod.modes = s.mod.modes ∧ t.mod.loose = s.mod.loose

theorem State.modesKept.looseAt {s t : State} (h : s.modesKept t) (x : U64) : t.looseAt x = s.looseAt x := by
  unfold State.looseAt
  rw [h.1, h.2]

theorem State.modesKept.of_mod {s t : State} (h : t.mod = s.mod) : s.modesKept t := ⟨congrArg ModCtl.modes h, congrArg ModCtl.loose h⟩

theorem State.wakeEntry_modes (s : State) : s.modesKept s.wakeEntry := by
  unfold State.wakeEntry
  split
  · exact ⟨rfl, rfl⟩
  · exact ⟨rfl, rfl⟩

section
variable (s : State) (e : Fin 2) (stages : List Stage) (h : U64) (slot : Nat)

/-- What befalls a work item whose unit has no earlier error: its cause, and of the state the registers and the faults alone. -/
theorem State.takeWork_shows {w : Work} (hw : s.firstError w) : (s.takeWork e stages h slot w).1 = workCause stages w ∧
    Framed [.regs, .mod, .aug, .flt] workRegs s (s.takeWork e stages h slot w).2 ∧ s.modesKept (s.takeWork e stages h slot w).2 := by
  have herror : ∀ (u : Word) (cls tag : Nat), workUnit w = some u → cls ∈ workClasses →
      Framed [.regs, .mod, .aug, .flt] workRegs s (s.detect u cls h tag) ∧ s.modesKept (s.detect u cls h tag) := by
    intro u cls tag hu hc
    obtain ⟨hf, hm⟩ := State.detect_work hc (hw u hu) h tag
    exact ⟨hf, hm ▸ s.wakeEntry_modes.1, hm ▸ s.wakeEntry_modes.2⟩
  cases w with
  | good => exact ⟨rfl, .refl _ _ s, rfl, rfl⟩
  | corrected n =>
    have hcnt := engineWorkRegs_mem e (a := LSS_SILT_ECC_CNT) (by decide)
    have hstat := engineWorkRegs_mem e (a := LSS_MEM_STAT) (by decide)
    have hf : Framed [.regs] workRegs s (if n = 0 then s else
        (s.bumpBy (LSS_SILT_ECC_CNT + lssOff e) n).setFlag (LSS_MEM_STAT_SILT_CORR.on (lssOff e)) true) := by
      split
      · exact .refl _ _ s
      · exact ((Framed.refl _ _ s).setReg (by decide) hcnt _).setFlag (by decide) (f := LSS_MEM_STAT_SILT_CORR.on (lssOff e)) hstat true
    exact ⟨rfl, hf.mono (by decide) (List.Subset.refl _), .of_mod (hf.1 .mod (by decide))⟩
  | readFailed => exact ⟨rfl, .refl _ _ s, rfl, rfl⟩
  | siltFailed u =>
    refine ⟨rfl, ?_⟩
    show Framed _ _ s (if unitFits 0xA u then s.detect u 0xA h (frameTag h slot) else s) ∧
      s.modesKept (if unitFits 0xA u then s.detect u 0xA h (frameTag h slot) else s)
    split
    · exact herror u 0xA _ rfl (by decide)
    · exact ⟨.refl _ _ s, rfl, rfl⟩
  | slip u i block data scale =>
    by_cases hs : slips stages i block data scale = true
    · have hcause : workCause stages (.slip u i block data scale) = some 5 := if_pos hs
      have heq : s.takeWork e stages h slot (.slip u i block data scale) = (some 5, s.sequenceError u h slot) := if_pos hs
      rw [heq, hcause]
      refine ⟨rfl, ?_⟩
      show Framed _ _ s (s.sequenceError u h slot) ∧ s.modesKept (s.sequenceError u h slot)
      unfold State.sequenceError
      split
      · exact herror u 0xC _ rfl (by decide)
      · exact ⟨.refl _ _ s, rfl, rfl⟩
    · have hcause : workCause stages (.slip u i block data scale) = none := if_neg hs
      have heq : s.takeWork e stages h slot (.slip u i block data scale) = (none, s) := if_neg hs
      rw [heq, hcause]
      exact ⟨rfl, .refl _ _ s, rfl, rfl⟩

/-- A work item that runs leaves the registers alone changed. -/
theorem State.takeWork_runs {w : Work} (hc : workCause stages w = none) : Only [.regs] s (s.takeWork e stages h slot w).2 := by
  cases w with
  | good => exact Only.refl _ s
  | corrected n =>
    show Only [.regs] s (if n = 0 then s else
      (s.bumpBy (LSS_SILT_ECC_CNT + lssOff e) n).setFlag (LSS_MEM_STAT_SILT_CORR.on (lssOff e)) true)
    split
    · exact Only.refl _ s
    · exact (Keeps.setFlag (.bumpBy (.refl [.regs] s) rfl _ _) rfl _ _).only
  | readFailed => exact absurd hc (by simp [workCause])
  | siltFailed u => exact absurd hc (by simp [workCause])
  | slip u i block data scale =>
    have hs : ¬ slips stages i block data scale = true := fun hs => absurd ((if_pos hs).symm.trans hc : some 5 = none) (by simp)
    have heq : s.takeWork e stages h slot (.slip u i block data scale) = (none, s) := if_neg hs
    rw [heq]
    exact Only.refl _ s

end

end Sys2Proof.Machine

/-! The evaluation of loess programs (R217, R220 to R223, R231 to R242). -/
namespace Sys2Proof.Machine

/-- Nothing of an engine but its recurrences and its silt banks differs. -/
def Engine.EvalOnly (g h : Engine) : Prop :=
  ∃ r f m c b p, h = { g with recur := r, former := f, silt := m, siltCleared := c, filled := b, repairs := p }

theorem Engine.EvalOnly.refl (g : Engine) : g.EvalOnly g := ⟨_, _, _, _, _, _, rfl⟩

theorem Engine.EvalOnly.trans {g h k : Engine} (x : g.EvalOnly h) (y : h.EvalOnly k) : g.EvalOnly k := by
  obtain ⟨_, _, _, _, _, _, rfl⟩ := x
  obtain ⟨r, f, m, c, b, p, rfl⟩ := y
  exact ⟨r, f, m, c, b, p, rfl⟩

theorem Engine.EvalOnly.foldl {α : Type} {f : Engine → α → Engine} (hf : ∀ (g : Engine) x, g.EvalOnly (f g x)) (xs : List α) (g : Engine) :
    g.EvalOnly (xs.foldl f g) := by
  induction xs generalizing g with
  | nil => exact .refl g
  | cons x xs ih => exact (hf g x).trans (ih (f g x))

theorem Engine.setRecurs_evalOnly (g : Engine) (t : U64) (r : Recurs) : g.EvalOnly (g.setRecurs t r) := by
  unfold Engine.setRecurs
  split
  · split
    · exact ⟨_, _, _, _, _, _, rfl⟩
    · exact ⟨_, _, _, _, _, _, rfl⟩
  · exact ⟨_, _, _, _, _, _, rfl⟩

theorem Engine.fillBlock_evalOnly (g : Engine) (r : SiltRegion) (i : Nat) : g.EvalOnly (g.fillBlock r i) := by
  unfold Engine.fillBlock
  split
  · exact .refl g
  · exact ⟨_, _, _, _, _, _, rfl⟩

theorem Engine.putSilt_evalOnly (g : Engine) (bank word : Nat) (w : List Byte) : g.EvalOnly (g.putSilt bank word w) := ⟨_, _, _, _, _, _, rfl⟩

/-- What an evaluation on an engine leaves: its recurrences and silt banks, the counters of its events, and the free values that were drawn. -/
structure Evaluated (e : Fin 2) (s t : State) : Prop where
  framed : Framed [.regs, .eng, .free] workRegs s t
  engine : (s.eng[e] : Engine).EvalOnly (t.eng[e] : Engine)

section
variable {e : Fin 2} {s t : State}

theorem Evaluated.refl (e : Fin 2) (s : State) : Evaluated e s s := ⟨.refl _ _ s, .refl _⟩

theorem Evaluated.trans {u : State} (x : Evaluated e s t) (y : Evaluated e t u) : Evaluated e s u := ⟨x.framed.trans y.framed, x.engine.trans y.engine⟩

theorem Evaluated.setEng (x : Evaluated e s t) {g : Engine} (hg : (t.eng[e] : Engine).EvalOnly g) : Evaluated e s (t.setEng e g) :=
  ⟨x.framed.setEng (by decide) e g, by rw [State.eng_setEng]; exact x.engine.trans hg⟩

theorem Evaluated.of_regs (x : Evaluated e s t) {u : State} (hu : Framed [.regs] workRegs t u) : Evaluated e s u :=
  ⟨x.framed.trans (hu.mono (by decide) (List.Subset.refl _)), by rw [hu.1 .eng (by decide)]; exact x.engine⟩

theorem Evaluated.countSat (x : Evaluated e s t) (n : Nat) : Evaluated e s (t.countSat e n) := by
  refine x.of_regs ?_
  unfold State.countSat
  split
  · exact .refl _ _ t
  · exact ((Framed.refl _ _ t).setReg (by decide) (engineWorkRegs_mem e (a := LSS_SAT_CNT) (by decide)) _).setFlag (by decide)
      (f := LSS_STAT_SAT.on (lssOff e)) (engineWorkRegs_mem e (a := LSS_STAT) (by decide)) true

theorem Evaluated.advanceRecurs (x : Evaluated e s t) (l : LoessSection) (h : U64) (u : Nat) : Evaluated e s (t.advanceRecurs e l h u) :=
  (x.setEng ((t.eng[e] : Engine).setRecurs_evalOnly h _)).countSat _

theorem Evaluated.siltWord (x : Evaluated e s t) (bank word : Nat) : Evaluated e s (t.siltWord e bank word).2 :=
  ⟨x.framed.fields rfl (fun p => by
    cases p with
    | free => exact .inl (by decide)
    | _ => exact .inr rfl), x.engine⟩

theorem Evaluated.siltAccess (x : Evaluated e s t) (bank word : Nat) (a : SiltAccess) : Evaluated e s (t.siltAccess e bank word a).2.2 := by
  unfold State.siltAccess
  extract_lets old new u
  have hold : Evaluated e s old.2 := x.siltWord bank word
  have hu : Evaluated e s u := by
    show Evaluated e s (match a with
      | .read => old.2
      | _ => old.2.setEng e ((old.2.eng[e] : Engine).putSilt bank word (siltBytes new.1)))
    split
    · exact hold
    · exact hold.setEng (Engine.putSilt_evalOnly _ _ _ _)
  dsimp only
  split
  · exact hu
  · exact hu.of_regs ((Framed.refl _ _ u).setReg (by decide) (engineWorkRegs_mem e (a := LSS_SILT_ATOM_SAT_CNT) (by decide)) _)

/-- A fold over a count and a state evaluates as its steps do. -/
theorem Evaluated.foldl {α : Type} {f : Nat × State → α → Nat × State} (hf : ∀ (acc : Nat × State) x, Evaluated e acc.2 (f acc x).2) (xs : List α)
    (acc : Nat × State) : Evaluated e acc.2 (xs.foldl f acc).2 := by
  induction xs generalizing acc with
  | nil => exact .refl e acc.2
  | cons x xs ih => exact (hf acc x).trans (ih (f acc x))

/-- The accesses of one cycle, in the order of their lanes. -/
def laneStep (e : Fin 2) (run : LoessRun) (acc : Nat × State) (a : LaneAccess) : Nat × State :=
  (acc.1 + (acc.2.siltAccess e a.bank a.word (a.op.access run)).2.1, (acc.2.siltAccess e a.bank a.word (a.op.access run)).2.2)

theorem laneStep_evaluated (e : Fin 2) (run : LoessRun) (acc : Nat × State) (a : LaneAccess) : Evaluated e acc.2 (laneStep e run acc a).2 :=
  (Evaluated.refl e acc.2).siltAccess a.bank a.word (a.op.access run)

theorem State.runLanes_evaluated (s : State) (e : Fin 2) (run : LoessRun) (cycles : List (List LaneAccess)) :
    Evaluated e s (s.runLanes e run cycles).2 := by
  have hcycle : ∀ (acc : Nat × State) (c : List LaneAccess), Evaluated e acc.2 ((c.foldl (fun m a => a.enter m) []).foldl (laneStep e run) acc).2 :=
    fun acc c => Evaluated.foldl (laneStep_evaluated e run) _ acc
  exact Evaluated.foldl hcycle cycles (0, s)

theorem Evaluated.runSilt (x : Evaluated e s t) (l : LoessSection) (run : LoessRun) (cycles : List (List LaneAccess)) :
    Evaluated e s (t.runSilt e l run cycles).2 := by
  unfold State.runSilt
  extract_lets blocks u r g
  have hu : Evaluated e s u := x.setEng (.foldl (fun g b => g.fillBlock_evalOnly b.1 b.2) blocks _)
  have hr : Evaluated e s r.2 := hu.trans (u.runLanes_evaluated e run cycles)
  exact hr.setEng ⟨_, _, _, _, _, _, rfl⟩

end

theorem State.evalQuery_evaluated (s : State) (e : Fin 2) (p : PhaseProg) (k : QueryKind) (q : Query) : Evaluated e s (s.evalQuery e p k q).2.2 :=
  (((Evaluated.refl e s).advanceRecurs (p.loess e) q.hzn (q.hzn.toNat + k.f)).runSilt (p.loess e) _ ((p.loess e).settledSilt.getD k.program [])).countSat _

theorem State.evalPackage_evaluated (s : State) (e : Fin 2) (p : PhaseProg) (c : CtxProg) (h hist : U64) :
    Evaluated e s (s.evalPackage e p c h hist).2.2 :=
  (((Evaluated.refl e s).advanceRecurs (p.loess e) h hist.toNat).runSilt (p.loess e) _ c.silt).countSat _

end Sys2Proof.Machine

/-! Slabs close into their rings (R199, R200, R266). -/
namespace Sys2Proof.Machine

/-- The registers of the records, of the spill units and of the slow mirror. -/
def slabRegs : List Nat :=
  [AUG_RATE, AUG_STAT] ++
    [0, 1].flatMap (fun e => [LSS_SPILL_DROP_CNT, LSS_MEM_STAT, LSS_MIRROR_GAP_CNT, LSS_STAT].map (fun a => a + lssOff e))

theorem engineSlabRegs (e : Fin 2) {a : Nat} (h : a ∈ [LSS_SPILL_DROP_CNT, LSS_MEM_STAT, LSS_MIRROR_GAP_CNT, LSS_STAT]) : a + lssOff e ∈ slabRegs :=
  (by decide : ∀ e : Fin 2, ∀ a ∈ [LSS_SPILL_DROP_CNT, LSS_MEM_STAT, LSS_MIRROR_GAP_CNT, LSS_STAT], a + lssOff e ∈ slabRegs) e a h

section
variable (s : State) (e : Fin 2)

theorem State.rewriteUnit_framed (stream : Bool) (ring first n : Nat) : Framed [.regs, .eng, .aug, .hst] slabRegs s (s.rewriteUnit e stream ring first n) := by
  have hcnt := engineSlabRegs e (a := LSS_SPILL_DROP_CNT) (by decide)
  have hstat := engineSlabRegs e (a := LSS_MEM_STAT) (by decide)
  unfold State.rewriteUnit
  extract_lets eng here blocks unread drop word u src v
  have hu : Framed [.regs, .eng, .aug, .hst] slabRegs s u := (Framed.refl _ _ s).setEng (by decide) e _
  split
  · have hv : Framed [.regs, .eng, .aug, .hst] slabRegs s v := hu.setHst (by decide) _
    exact ((hv.bump (by decide) hcnt).setFlag (by decide) (f := LSS_MEM_STAT_SPILL_DROP.on (lssOff e)) hstat true).writeEvent (by decide) (by decide) _ _
  · exact hu

theorem State.scanContext_framed (l : LoessSection) (stream : Bool) (ring t : Nat) : Framed [.eng] [] s (s.scanContext e l stream ring t) :=
  (Keeps.scanContext (.refl [.eng] s) rfl e l stream ring t).framed_of_regs rfl

/-- The group with a slab written: the space of the oldest one is reused. -/
def ChanGroup.with (g : ChanGroup) (p : Nat) (b : Slab) : ChanGroup :=
  { g with slabs := (mapSet g.slabs p b).filter (fun y => decide (p < y.1 + g.decl.span)), openBufs := mapErase g.openBufs p, newest := max g.newest p }

theorem ChanGroup.with_slab (g : ChanGroup) (p : Nat) (b : Slab) (h : 0 < g.decl.depth) : mapFind (g.with p b).slabs p = some b := by
  have hspan : 0 < g.decl.span := Nat.lt_of_lt_of_le h (Nat.le_add_right _ _)
  unfold ChanGroup.with
  rw [mapFind_filter _ _ _ (fun v => by simpa using hspan), mapFind_mapSet_self]

/-- What follows a slab in its ring: its store, the reads that wait for it, and its spill units. -/
def State.slabFollowed (g : ChanGroup) (group p : Nat) : State :=
  let s := s.queueBlocks e 2 (g.decl.blocks p) .store
  let s := match s.phase? with
    | some q => s.scanContext e (q.loess e) false group p
    | none => s
  if g.decl.spill && s.spillOn e then
    let s := if g.decl.span ≤ p then s.rewriteUnit e false group (p - g.decl.span) 1 else s
    if g.decl.depth ≤ p ∧ g.start.toNat ≤ (p - g.decl.depth) * g.decl.slowTicks then s.spillWaits e false group (p - g.decl.depth) else s
  else s

/-- The engine with a slab written into one of its rings. -/
def Engine.withSlab (g : Engine) (x : ChanGroup) (group p : Nat) (b : Slab) : Engine := { g with groups := mapSet g.groups group (x.with p b) }

theorem State.writeSlab_eq {group : Nat} {g : ChanGroup} (h : mapFind (s.eng[e] : Engine).groups group = some g) (p : Nat) (b : Slab) :
    s.writeSlab e group p b = (s.setEng e ((s.eng[e] : Engine).withSlab g group p b)).slabFollowed e (g.with p b) group p := by
  unfold State.writeSlab
  extract_lets eng
  have hg : mapFind eng.groups group = some g := h
  split
  · next hn => exact absurd (hn.symm.trans hg) (by simp)
  · next x hx =>
    obtain rfl : x = g := Option.some.inj (hx.symm.trans hg)
    rfl

theorem State.slabFollowed_work (g : ChanGroup) (group p : Nat) :
    Framed [.regs, .eng, .aug, .hst] slabRegs s (s.slabFollowed e g group p) ∧ s.WorkOnly (s.slabFollowed e g group p) := by
  unfold State.slabFollowed
  extract_lets u v w
  have hu : Framed [.regs, .eng, .aug, .hst] slabRegs s u ∧ s.WorkOnly u :=
    ⟨(State.queueBlocks_framed e _ _ _).mono (by decide) (List.nil_subset _), s.queueBlocks_workOnly e _ _ _⟩
  have hv : Framed [.regs, .eng, .aug, .hst] slabRegs u v ∧ u.WorkOnly v := by
    show Framed _ _ u (match u.phase? with
      | some q => u.scanContext e (q.loess e) false group p
      | none => u) ∧ u.WorkOnly (match u.phase? with
      | some q => u.scanContext e (q.loess e) false group p
      | none => u)
    split
    · exact ⟨(u.scanContext_framed e _ _ _ _).mono (by decide) (List.nil_subset _), u.scanContext_workOnly e _ _ _ _⟩
    · exact ⟨.refl _ _ u, .refl u⟩
  have hw : Framed [.regs, .eng, .aug, .hst] slabRegs v w ∧ v.WorkOnly w := by
    show Framed _ _ v (if g.decl.span ≤ p then v.rewriteUnit e false group (p - g.decl.span) 1 else v) ∧
      v.WorkOnly (if g.decl.span ≤ p then v.rewriteUnit e false group (p - g.decl.span) 1 else v)
    split
    · exact ⟨v.rewriteUnit_framed e _ _ _ _, v.rewriteUnit_workOnly e _ _ _ _⟩
    · exact ⟨.refl _ _ v, .refl v⟩
  have huv : Framed [.regs, .eng, .aug, .hst] slabRegs s v ∧ s.WorkOnly v := ⟨hu.1.trans hv.1, hu.2.trans hv.2⟩
  split
  · split
    · exact ⟨(huv.1.trans hw.1).setEng (by decide) e _, (huv.2.trans hw.2).trans (w.spillWaits_workOnly e _ _ _)⟩
    · exact ⟨huv.1.trans hw.1, huv.2.trans hw.2⟩
  · exact huv

theorem State.WorkOnly.groups {s t : State} (h : s.WorkOnly t) (e : Fin 2) : (t.eng[e] : Engine).groups = (s.eng[e] : Engine).groups := by
  obtain ⟨c, u, r, f, hg⟩ := h e
  rw [hg]

/-- A slab is written into the ring of its group. -/
theorem State.writeSlab_shows {group : Nat} {g : ChanGroup} (h : mapFind (s.eng[e] : Engine).groups group = some g) (p : Nat) (b : Slab) :
    Framed [.regs, .eng, .aug, .hst] slabRegs s (s.writeSlab e group p b) ∧
      mapFind ((s.writeSlab e group p b).eng[e] : Engine).groups group = some (g.with p b) := by
  rw [s.writeSlab_eq e h]
  obtain ⟨hf, hw⟩ := State.slabFollowed_work (s.setEng e ((s.eng[e] : Engine).withSlab g group p b)) e (g.with p b) group p
  refine ⟨((Framed.refl _ _ s).setEng (by decide) e _).trans hf, ?_⟩
  rw [hw.groups e, State.eng_setEng]
  exact mapFind_mapSet_self _ _ _

/-- A slab that the slow mirror has not been sent yet is a gap when the next one comes (R266). -/
def State.mirrorGap (group : Nat) : State :=
  match mapFind (s.eng[e] : Engine).slabWaits group with
  | some old =>
    let s := { s with hst := { s.hst with bulk := s.hst.bulk.filter (fun (b : Bulk) =>
        !(b.op == 0xD2 && b.source == e.val && b.index == group && b.arg.toNat == old)) } }
    let s := (s.bump (LSS_MIRROR_GAP_CNT + lssOff e)).setFlag (LSS_STAT_MIRROR_GAP.on (lssOff e)) true
    s.writeEvent 0x0407 [e, group, old]
  | none => s

theorem State.mirrorGap_shows (group : Nat) : Framed [.regs, .aug, .hst] slabRegs s (s.mirrorGap e group) := by
  have hgap := engineSlabRegs e (a := LSS_MIRROR_GAP_CNT) (by decide)
  have hstat := engineSlabRegs e (a := LSS_STAT) (by decide)
  unfold State.mirrorGap
  split
  · exact ((((Framed.refl _ _ s).setHst (by decide) _).bump (by decide) hgap).setFlag (by decide) (f := LSS_STAT_MIRROR_GAP.on (lssOff e)) hstat
      true).writeEvent (by decide) (by decide) _ _
  · exact .refl _ _ s

/-- The slab waits for the slow mirror, read in class 5. -/
def State.slabQueued (group p : Nat) : State :=
  (s.setEng e { (s.eng[e] : Engine) with slabWaits := mapSet (s.eng[e] : Engine).slabWaits group p }).queueBlocks e 5
    ((s.eng[e] : Engine).unitBlocks false group p) .none

theorem State.mirrorSlab_eq (group p : Nat) (bytes : List Byte) :
    s.mirrorSlab e group p bytes = ((s.mirrorGap e group).slabQueued e group p).queueBulk 0xD2 (BitVec.ofNat 64 p) e group bytes := rfl

/-- The slow mirror takes the slab; the groups stand. -/
theorem State.mirrorSlab_shows (group p : Nat) (bytes : List Byte) :
    Framed [.regs, .eng, .aug, .hst] slabRegs s (s.mirrorSlab e group p bytes) ∧
      ((s.mirrorSlab e group p bytes).eng[e] : Engine).groups = (s.eng[e] : Engine).groups := by
  have hgap := s.mirrorGap_shows e group
  have hqueued : ∀ u : State, Framed [.eng] [] u (u.slabQueued e group p) ∧ ((u.slabQueued e group p).eng[e] : Engine).groups = (u.eng[e] : Engine).groups := by
    intro u
    refine ⟨((Framed.refl _ _ u).setEng (by decide) e _).trans (State.queueBlocks_framed e _ _ _), ?_⟩
    unfold State.slabQueued
    rw [(State.queueBlocks_workOnly _ e _ _ _).groups e, State.eng_setEng]
  rw [State.mirrorSlab_eq]
  obtain ⟨hf, hg⟩ := hqueued (s.mirrorGap e group)
  refine ⟨((hgap.mono (by decide) (List.Subset.refl _)).trans (hf.mono (by decide) (List.nil_subset _))).setHst (by decide) _, ?_⟩
  rw [hgap.1 .eng (by decide)] at hg
  exact hg

/-- A slab that is not lost closes into its ring, counted, and the slow mirror may take it. -/
theorem State.closeSlab_shows {group p : Nat} {g : ChanGroup} {b : Slab} (h : mapFind (s.eng[e] : Engine).groups group = some g) (hl : p ∉ g.lost)
    (hb : b = (mapFind g.openBufs p).getD ⟨[], [], 0⟩) :
    mapFind ((s.closeSlab e g group p).eng[e] : Engine).groups group = some (g.with p { b with count := b.values.length }) ∧
      (s.closeSlab e g group p).reg STM_SUM_OK_CNT = BitVec.ofNat 32 (min ((s.reg STM_SUM_OK_CNT).toNat + b.values.length) 0xFFFFFFFF) := by
  obtain ⟨u, hu⟩ : ∃ u, u = s.bumpBy STM_SUM_OK_CNT b.values.length := ⟨_, rfl⟩
  have hgu : mapFind (u.eng[e] : Engine).groups group = some g := by rw [hu, State.bumpBy_eng]; exact h
  obtain ⟨hf, hw⟩ := u.writeSlab_shows e hgu p { b with count := b.values.length }
  obtain ⟨v, hv⟩ : ∃ v, v = u.writeSlab e group p { b with count := b.values.length } := ⟨_, rfl⟩
  rw [← hv] at hf hw
  have heq : s.closeSlab e g group p =
      if (v.eng[e] : Engine).slowMirror then v.mirrorSlab e group p (g.slabImage { b with count := b.values.length } p) else v := by
    unfold State.closeSlab
    rw [if_neg (by simpa using hl), hv, hu, hb]
  have hreg : v.reg STM_SUM_OK_CNT = BitVec.ofNat 32 (min ((s.reg STM_SUM_OK_CNT).toNat + b.values.length) 0xFFFFFFFF) := by
    rw [hf.reg (by decide), hu]
    exact State.reg_setReg _ _ _
  rw [heq]
  split
  · obtain ⟨hm, hg⟩ := v.mirrorSlab_shows e group p (g.slabImage { b with count := b.values.length } p)
    exact ⟨by rw [hg]; exact hw, (hm.reg (by decide)).trans hreg⟩
  · exact ⟨hw, hreg⟩

end

end Sys2Proof.Machine

/-! Context packages enter the context buffer (R241, R242, R248); slabs and packages together. -/
namespace Sys2Proof.Machine

theorem State.usableFrom_congr {s t : State} (hc : t.count = s.count) (hp : t.reg HZN_TICK_PERIOD = s.reg HZN_TICK_PERIOD) (p : Phase) (ps : Nat) :
    t.usableFrom p ps = s.usableFrom p ps := by
  unfold State.usableFrom State.tickPs
  rw [hc, hp]

theorem Engine.EvalOnly.pkgs {g h : Engine} (x : g.EvalOnly h) : h.pkgs = g.pkgs := by
  obtain ⟨_, _, _, _, _, _, rfl⟩ := x
  rfl

theorem Engine.EvalOnly.warmAt {g h : Engine} (x : g.EvalOnly h) (t : U64) : h.warmAt t = g.warmAt t := by
  obtain ⟨_, _, _, _, _, _, rfl⟩ := x
  rfl

theorem Engine.intoCheckpoint_pkgs (g : Engine) (d : Nat) (k : Package) : (g.intoCheckpoint d k).pkgs = g.pkgs := by
  unfold Engine.intoCheckpoint
  split
  · rfl
  · rfl

/-- The context buffer takes a package, but none of a tick in warming (R248). -/
theorem Engine.putPackage_pkgs (g : Engine) (k : Package) :
    if g.warmAt k.hzn then (g.putPackage k).pkgs = g.pkgs else (g.putPackage k).pkgs.getLast? = some k := by
  unfold Engine.putPackage
  split
  · rfl
  · exact List.getLast?_append_of_ne_nil _ (by simp)

section
variable (s : State) (e : Fin 2) (p : PhaseProg) (c : CtxProg) (h hist : U64) (ps ns : Nat) (work : Work)

/-- The time of the package is shown, and what befalls its work item is taken in. -/
def State.packageTaken : Option Nat × State :=
  (s.raiseFld ⟨LSS_CTX_TIME_MAX + lssOff e, 0, 16⟩ ns).takeWork e c.stages h (c.ring % 64) work

/-- The cause that the package stands for the default with, if any. -/
def State.packageCause : Option Nat := if (s.eng[e] : Engine).scanFailed.contains c.ring then some 3 else workCause c.stages work

/-- The package as it is written, by what its evaluation gave. -/
def State.packageOf (r : List Byte × Bool × State) (cause : Option Nat) : Package :=
  { ring := c.ring, hzn := h, histTick := hist, bytes := r.1, sat := r.2.1, loose := s.looseAt h, usable := s.usableFrom p.ph ps, cause := cause.getD 0 }

theorem State.packageTaken_shows (hw : s.firstError work) : (s.packageTaken e c h ns work).1 = workCause c.stages work ∧
    Framed [.regs, .mod, .aug, .flt] workRegs s (s.packageTaken e c h ns work).2 ∧ s.modesKept (s.packageTaken e c h ns work).2 := by
  have hraise : Framed [.regs] workRegs s (s.raiseFld ⟨LSS_CTX_TIME_MAX + lssOff e, 0, 16⟩ ns) :=
    (Framed.refl _ _ s).setFld (by decide) (f := ⟨LSS_CTX_TIME_MAX + lssOff e, 0, 16⟩) (engineWorkRegs_mem e (a := LSS_CTX_TIME_MAX) (by decide)) _
  have hfirst : (s.raiseFld ⟨LSS_CTX_TIME_MAX + lssOff e, 0, 16⟩ ns).firstError work := fun u hu => by
    rw [hraise.1 .flt (by decide)]
    exact hw u hu
  obtain ⟨hcause, hf, hm⟩ := (s.raiseFld ⟨LSS_CTX_TIME_MAX + lssOff e, 0, 16⟩ ns).takeWork_shows e c.stages h (c.ring % 64) hfirst
  have hmod := State.modesKept.of_mod (hraise.1 .mod (by decide))
  exact ⟨hcause, (hraise.mono (by decide) (List.Subset.refl _)).trans hf, hm.1.trans hmod.1, hm.2.trans hmod.2⟩

theorem State.packageTaken_runs (hc : workCause c.stages work = none) : Only [.regs] s (s.packageTaken e c h ns work).2 :=
  (Keeps.raiseFld (.refl [.regs] s) rfl _ _).only.trans (State.takeWork_runs _ e c.stages h _ hc)

theorem State.packageBytes_evaluated (dflt : Bool) : Evaluated e s (s.packageBytes e p c h hist dflt).2.2 := by
  unfold State.packageBytes
  split
  · exact .refl e s
  · exact s.evalPackage_evaluated e p c h hist

/-- The package goes into the context buffer and the checkpoint that assembles. -/
def packageStored (r : List Byte × Bool × State) (k : Package) : State :=
  r.2.2.setEng e (({ (r.2.2.eng[e] : Engine) with
    scanFailed := (r.2.2.eng[e] : Engine).scanFailed.filter (· != c.ring) }.putPackage k).intoCheckpoint p.ph.d k)

theorem State.writePackage_eq {w : Option Nat × State} (hw : w = s.packageTaken e c h ns work) (hcause : w.1 = workCause c.stages work)
    {r : List Byte × Bool × State} (hr : r = w.2.packageBytes e p c h hist (s.packageCause e c work).isSome) :
    s.writePackage e p c h hist ps ns work = packageStored e p c r (r.2.2.packageOf p c h hist ps r (s.packageCause e c work)) := by
  have hc : s.packageCause e c work = if (s.eng[e] : Engine).scanFailed.contains c.ring then some 3 else w.1 := by
    rw [hcause]
    rfl
  rw [hr, hc, hw]
  rfl

/-- What a package of a tick leaves in the context buffer. -/
theorem State.writePackage_shows (hw : s.firstError work) :
    if (s.eng[e] : Engine).warmAt h then ((s.writePackage e p c h hist ps ns work).eng[e] : Engine).pkgs = (s.eng[e] : Engine).pkgs
    else ((s.writePackage e p c h hist ps ns work).eng[e] : Engine).pkgs.getLast? =
      some (s.packageOf p c h hist ps ((s.packageTaken e c h ns work).2.packageBytes e p c h hist (s.packageCause e c work).isSome)
        (s.packageCause e c work)) := by
  obtain ⟨w, hwdef⟩ : ∃ w, w = s.packageTaken e c h ns work := ⟨_, rfl⟩
  obtain ⟨hcause, hf, hm⟩ := s.packageTaken_shows e c h ns work hw
  rw [← hwdef] at hcause hf hm ⊢
  have heng : w.2.eng = s.eng := hf.1 .eng (by decide)
  obtain ⟨r, hr⟩ : ∃ r, r = w.2.packageBytes e p c h hist (s.packageCause e c work).isSome := ⟨_, rfl⟩
  have hev : Evaluated e w.2 r.2.2 := by rw [hr]; exact w.2.packageBytes_evaluated e p c h hist _
  have hengine : (s.eng[e] : Engine).EvalOnly (r.2.2.eng[e] : Engine) := by rw [← heng]; exact hev.engine
  have hpackage : r.2.2.packageOf p c h hist ps r (s.packageCause e c work) = s.packageOf p c h hist ps r (s.packageCause e c work) := by
    have hloose : r.2.2.looseAt h = s.looseAt h :=
      ((State.modesKept.of_mod (hev.framed.1 .mod (by decide))).looseAt h).trans (hm.looseAt h)
    have husable : r.2.2.usableFrom p.ph ps = s.usableFrom p.ph ps :=
      State.usableFrom_congr ((hev.framed.count (by decide)).trans (hf.count (by decide)))
        ((hev.framed.reg (by decide)).trans (hf.reg (by decide))) _ _
    unfold State.packageOf
    rw [hloose, husable]
  rw [s.writePackage_eq e p c h hist ps ns work hwdef hcause hr, hpackage, packageStored, State.eng_setEng, Engine.intoCheckpoint_pkgs, ← hr]
  have hput := Engine.putPackage_pkgs { (r.2.2.eng[e] : Engine) with scanFailed := (r.2.2.eng[e] : Engine).scanFailed.filter (· != c.ring) }
    (s.packageOf p c h hist ps r (s.packageCause e c work))
  have hwarm : ({ (r.2.2.eng[e] : Engine) with scanFailed := (r.2.2.eng[e] : Engine).scanFailed.filter (· != c.ring) } : Engine).warmAt h =
      (s.eng[e] : Engine).warmAt h := hengine.warmAt h
  rw [show (s.packageOf p c h hist ps r (s.packageCause e c work)).hzn = h from rfl, hwarm] at hput
  split
  · next hwm =>
    rw [if_pos hwm] at hput
    exact hput.trans hengine.pkgs
  · next hwm =>
    rw [if_neg hwm] at hput
    exact hput

end

/-! The commands -/

theorem exec_slabClose {s : State} {e : Fin 2} {grp : Fin 256} {period : U64} {g : ChanGroup} (hrun : (s.eng[e] : Engine).running = true)
    (hg : mapFind (s.eng[e] : Engine).groups grp = some g) (hd : (period.toNat + 1) * g.decl.slowTicks + g.decl.slowDeadline ≤ s.count.toNat)
    (hn : mapFind g.slabs period.toNat = none) : exec (.slabClose e grp period) s = .next (s.closeSlab e g grp period.toNat) := by
  show Host.Outcome.next (match mapFind (s.eng[e] : Engine).groups grp with
    | none => s
    | some g =>
      if (s.eng[e] : Engine).running && decide ((period.toNat + 1) * g.decl.slowTicks + g.decl.slowDeadline ≤ s.count.toNat) &&
          (mapFind g.slabs period.toNat).isNone then s.closeSlab e g grp period.toNat else s) = _
  rw [hg]
  exact congrArg Host.Outcome.next (if_pos (by rw [hrun, decide_eq_true hd, hn]; rfl))

theorem exec_contextPackageWrite {s : State} {e : Fin 2} {ring : Fin 128} {hzn hist : U64} {ps key : Nat} {p : PhaseProg}
    (hrun : (s.eng[e] : Engine).running = true) (hkey : s.layoutRing e ring = some key) (hp : s.phaseAt hzn.toNat = some p)
    (hstart : (s.eng[e] : Engine).resettingAt hzn = false) (hslot : (p.slot? (key / 64) (key % 64)).isSome = true) (hhist : hist.toNat ≤ s.count.toNat)
    (hzn' : hzn.toNat < s.usableFrom p.ph ps + 16)
    (hfirm : s.looseAt hzn = true ∨ hist.toNat + p.ph.d = hzn.toNat ∧
      (s.eng[e] : Engine).pkgs.any (fun k => k.ring == key && k.hzn == hzn) = false) (ns : Nat) (w : Work) :
    exec (.contextPackageWrite e ring hzn hist ps ns w) s =
      .next (s.writePackage e p (((p.loess e).ctx.find? (fun (c : CtxProg) => c.ring == key)).getD ⟨key, [], []⟩) hzn hist ps ns w) := by
  have hopen : (s.looseAt hzn || (hist.toNat + p.ph.d == hzn.toNat && !(s.eng[e] : Engine).pkgs.any (fun k => k.ring == key && k.hzn == hzn))) = true := by
    rcases hfirm with hl | ⟨hd, hk⟩
    · rw [hl, Bool.true_or]
    · rw [hk, hd]
      simp
  show Host.Outcome.next (match s.layoutRing e ring, s.phaseAt hzn.toNat with
    | some key, some p =>
      if (s.eng[e] : Engine).running && !(s.eng[e] : Engine).resettingAt hzn && (p.slot? (key / 64) (key % 64)).isSome &&
          (s.looseAt hzn || (hist.toNat + p.ph.d == hzn.toNat && !(s.eng[e] : Engine).pkgs.any (fun k => k.ring == key && k.hzn == hzn))) &&
          decide (hist.toNat ≤ s.count.toNat ∧ hzn.toNat < s.usableFrom p.ph ps + 16) then
        s.writePackage e p (((p.loess e).ctx.find? (fun (c : CtxProg) => c.ring == key)).getD ⟨key, [], []⟩) hzn hist ps ns w
      else s
    | _, _ => s) = _
  rw [hkey, hp]
  exact congrArg Host.Outcome.next (if_pos (by rw [hrun, hstart, hslot, hopen, decide_eq_true (And.intro hhist hzn')]; rfl))

/-- The context program that a ring has, or an empty one, is the ring's. -/
theorem ctxProg_ring (l : LoessSection) (key : Nat) : ((l.ctx.find? (fun (c : CtxProg) => c.ring == key)).getD ⟨key, [], []⟩).ring = key := by
  cases hf : l.ctx.find? (fun c => c.ring == key) with
  | none => rfl
  | some c => exact eq_of_beq (List.find?_some (p := fun c : CtxProg => c.ring == key) hf)

/-- Settles O37: a slab stands in its ring whatever its write sets off, and a package is the last of the context buffer. -/
theorem slabsAndPackagesAreWritten : Obligations.SlabsAndPackagesAreWritten := by
  unfold Obligations.SlabsAndPackagesAreWritten
  refine ⟨?slab, ?package⟩
  case slab =>
    intro e grp period g b s hrun hg hdue hnone hlost hdepth hb
    obtain ⟨hgroup, hcount⟩ := s.closeSlab_shows e hg hlost hb
    refine ⟨_, exec_slabClose hrun hg hdue hnone, ?_, ?_, hcount⟩
    · rw [hgroup]
      exact g.with_slab _ _ hdepth
    · rw [hgroup]
      exact mapFind_mapErase_self _ _
  case package =>
    intro e ring hzn hist ps ns key w p c s hrun hkey hp hstart hslot hhist hzn' hfirm hc hw
    have hring : c.ring = key := by rw [hc]; exact ctxProg_ring _ _
    have hexec := exec_contextPackageWrite hrun hkey hp hstart hslot hhist hzn' hfirm ns w
    rw [← hc] at hexec
    refine ⟨_, hexec, ?_⟩
    have hshows := s.writePackage_shows e p c hzn hist ps ns w hw
    have hcause : (if (s.eng[e] : Engine).scanFailed.contains key then some 3 else workCause c.stages w) = s.packageCause e c w := by
      unfold State.packageCause
      rw [hring]
    rw [hcause]
    split
    · next hwarm => rwa [if_pos hwarm] at hshows
    · next hwarm =>
      rw [if_neg hwarm] at hshows
      refine ⟨_, hshows, hring, rfl, rfl, rfl, rfl, ?_⟩
      cases hpc : s.packageCause e c w with
      | some x => exact ⟨rfl, by rw [← hring]; rfl, rfl⟩
      | none =>
        have hruns : workCause c.stages w = none := by
          unfold State.packageCause at hpc
          split at hpc
          · exact absurd hpc (by simp)
          · exact hpc
        exact ⟨rfl, _, s.packageTaken_runs e c hzn ns w hruns, rfl, rfl⟩

end Sys2Proof.Machine

/-! Settled answers and releases (R70, R214, R252, R255 to R257, R260). -/
namespace Sys2Proof.Machine

theorem Engine.EvalOnly.queries {g h : Engine} (x : g.EvalOnly h) : h.queries = g.queries := by
  obtain ⟨_, _, _, _, _, _, rfl⟩ := x
  rfl

/-! Queries -/

theorem Engine.query?_key {g : Engine} {lb slot : Nat} {h : U64} {q : Query} (hq : g.query? lb slot h = some q) :
    q.bed = lb ∧ q.slot = slot ∧ q.hzn = h := by
  have := List.find?_some hq
  simp only [Bool.and_eq_true, beq_iff_eq] at this
  exact ⟨this.1.1, this.1.2, this.2⟩

/-- The query that is put is found as the function has made it, where the function leaves what names it. -/
theorem Engine.query?_setQuery {g : Engine} {lb slot : Nat} {h : U64} {q : Query} {f : Query → Query}
    (hf : ∀ q, (f q).bed = q.bed ∧ (f q).slot = q.slot ∧ (f q).hzn = q.hzn) (hq : g.query? lb slot h = some q) :
    (g.setQuery h lb slot f).query? lb slot h = some (f q) := by
  have hp : (fun x : Query => x.bed == lb && x.slot == slot && x.hzn == h) ∘ (fun x => if x.hzn = h ∧ x.bed = lb ∧ x.slot = slot then f x else x) =
      fun x => x.bed == lb && x.slot == slot && x.hzn == h := by
    funext x
    obtain ⟨hb, hs, hh⟩ := hf x
    by_cases hx : x.hzn = h ∧ x.bed = lb ∧ x.slot = slot
    · simp [hx, hb, hs, hh]
    · simp [hx]
  unfold Engine.query? Engine.setQuery
  rw [List.find?_map, hp, show g.queries.find? (fun x => x.bed == lb && x.slot == slot && x.hzn == h) = some q from hq]
  obtain ⟨hb, hs, hh⟩ := Engine.query?_key hq
  exact congrArg some (if_pos ⟨hh, hb, hs⟩)

section
variable (s : State) (e : Fin 2) (p : PhaseProg) (k : QueryKind) (q : Query) (ps : Nat) (work : Work)

/-- The time of the answer is shown, and what befalls its work item is taken in. -/
def State.answerTaken : Option Nat × State :=
  (s.raiseFld ⟨LSS_SET_TIME_MAX + lssOff e, 0, 16⟩ ((s.tim.c - q.admitNs).toNat / 64)).takeWork e ((p.loess e).settled.getD k.program []) q.hzn q.slot work

/-- The answer of a query comes after its release margin. -/
def State.answerLate : Bool := decide (p.answerLimit q.bed q.slot < s.sinceTick q.hzn.toNat + ps)

/-- The query as its answer leaves it: discarded where the answer is late. -/
def Query.answered (late : Bool) (a : Nat × Bool × List Nat) (x : Query) : Query :=
  if late then { x with discarded := true } else { x with answer := some a }

theorem Query.answered_key (late : Bool) (a : Nat × Bool × List Nat) (x : Query) :
    (x.answered late a).bed = x.bed ∧ (x.answered late a).slot = x.slot ∧ (x.answered late a).hzn = x.hzn := by
  unfold Query.answered
  split
  · exact ⟨rfl, rfl, rfl⟩
  · exact ⟨rfl, rfl, rfl⟩

/-- The answer of a query, by the cause that its work item has. -/
def State.answerGiven (late : Bool) : Option Nat → State
  | some 3 => s.putQuery e q (Query.answered late (0, false, [3]))
  | some _ => s.putQuery e q (fun x => { x with discarded := true })
  | none => (s.evalQuery e p k q).2.2.putQuery e q (Query.answered late ((s.evalQuery e p k q).1.verdict, (s.evalQuery e p k q).2.1, []))

theorem State.sinceTick_congr {s t : State} (hh : t.hz = s.hz) (hp : t.reg HZN_TICK_PERIOD = s.reg HZN_TICK_PERIOD) (x : Nat) :
    t.sinceTick x = s.sinceTick x := by
  unfold State.sinceTick State.tickPs State.count
  rw [hh, hp]

theorem State.answerRaised_framed (n : Nat) : Framed [.regs] workRegs s (s.raiseFld ⟨LSS_SET_TIME_MAX + lssOff e, 0, 16⟩ n) :=
  (Framed.refl _ _ s).setFld (by decide) (f := ⟨LSS_SET_TIME_MAX + lssOff e, 0, 16⟩) (engineWorkRegs_mem e (a := LSS_SET_TIME_MAX) (by decide)) _

theorem State.answerQuery_eq : s.answerQuery e p k q ps work =
    (s.answerTaken e p k q work).2.answerGiven e p k q (s.answerLate p q ps) (if q.failed then some 3 else (s.answerTaken e p k q work).1) := by
  obtain ⟨n, hn⟩ : ∃ n, n = (s.tim.c - q.admitNs).toNat / 64 := ⟨_, rfl⟩
  have hlate : s.answerLate p q ps = (s.raiseFld ⟨LSS_SET_TIME_MAX + lssOff e, 0, 16⟩ n).answerLate p q ps := by
    have hf := s.answerRaised_framed e n
    unfold State.answerLate
    rw [State.sinceTick_congr (hf.1 .hz (by decide)) (hf.reg (by decide))]
  rw [hlate, hn]
  unfold State.answerQuery
  dsimp only
  show _ = State.answerGiven _ e p k q _ (if q.failed then some 3 else (s.answerTaken e p k q work).1)
  unfold State.answerTaken
  generalize (if q.failed then some 3 else ((s.raiseFld ⟨LSS_SET_TIME_MAX + lssOff e, 0, 16⟩ ((s.tim.c - q.admitNs).toNat / 64)).takeWork e
    ((p.loess e).settled.getD k.program []) q.hzn q.slot work).1 : Option Nat) = cause
  unfold State.answerGiven
  rfl

theorem State.answerTaken_shows (hw : s.firstError work) :
    (s.answerTaken e p k q work).1 = workCause ((p.loess e).settled.getD k.program []) work ∧ (s.answerTaken e p k q work).2.eng = s.eng := by
  have hraise := s.answerRaised_framed e ((s.tim.c - q.admitNs).toNat / 64)
  have hfirst : (s.raiseFld ⟨LSS_SET_TIME_MAX + lssOff e, 0, 16⟩ ((s.tim.c - q.admitNs).toNat / 64)).firstError work := fun u hu => by
    rw [hraise.1 .flt (by decide)]
    exact hw u hu
  obtain ⟨hcause, hf, -⟩ := State.takeWork_shows _ e ((p.loess e).settled.getD k.program []) q.hzn q.slot hfirst
  exact ⟨hcause, (hf.1 .eng (by decide)).trans (hraise.1 .eng (by decide))⟩

theorem State.answerTaken_runs (hc : workCause ((p.loess e).settled.getD k.program []) work = none) : Only [.regs] s (s.answerTaken e p k q work).2 :=
  (s.answerRaised_framed e _).1.trans (State.takeWork_runs _ e _ q.hzn q.slot hc)

/-- What an answer leaves of its query. -/
def State.answerOf (late : Bool) : Option Nat → Query
  | some 3 => q.answered late (0, false, [3])
  | some _ => { q with discarded := true }
  | none => q.answered late ((s.evalQuery e p k q).1.verdict, (s.evalQuery e p k q).2.1, [])

theorem State.answerOf_other (late : Bool) {x : Nat} (hx : x ≠ 3) : s.answerOf e p k q late (some x) = { q with discarded := true } := by
  unfold State.answerOf
  split
  · next h => exact absurd (Option.some.inj h) hx
  · rfl
  · next h => exact absurd h (by simp)

theorem State.putQuery_query? {u : State} {f : Query → Query} (hf : ∀ q, (f q).bed = q.bed ∧ (f q).slot = q.slot ∧ (f q).hzn = q.hzn)
    (hq : (u.eng[e] : Engine).query? q.bed q.slot q.hzn = some q) : ((u.putQuery e q f).eng[e] : Engine).query? q.bed q.slot q.hzn = some (f q) := by
  unfold State.putQuery
  rw [State.eng_setEng]
  exact Engine.query?_setQuery hf hq

theorem State.answerGiven_query (late : Bool) (cause : Option Nat) (hq : (s.eng[e] : Engine).query? q.bed q.slot q.hzn = some q) :
    ((s.answerGiven e p k q late cause).eng[e] : Engine).query? q.bed q.slot q.hzn = some (s.answerOf e p k q late cause) := by
  unfold State.answerGiven State.answerOf
  split
  · exact State.putQuery_query? e q (Query.answered_key _ _) hq
  · exact State.putQuery_query? e q (fun _ => ⟨rfl, rfl, rfl⟩) hq
  · refine State.putQuery_query? e q (Query.answered_key _ _) ?_
    unfold Engine.query?
    rw [(s.evalQuery_evaluated e p k q).engine.queries]
    exact hq

end

theorem State.admitUpTo_of_served {s : State} {e : Fin 2} {h : U64} (hu : s.unserved e h = []) : s.admitUpTo e h = s := by
  unfold State.admitUpTo
  rw [hu]
  rfl

/-! Releases -/

theorem State.frame?_congr {s t : State} (h : t.fast.frames = s.fast.frames) (b k : Nat) (x : U64) : t.frame? b k x = s.frame? b k x := by
  unfold State.frame?
  rw [h]

/-- The settled verdict that a frame takes. -/
def Frame.settledWith (v : Verdict) (causes : List Nat) (sat mirror : Bool) (x : Frame) : Frame :=
  { x with settledDone := true, settled := v, sCauses := causeList causes, sat := x.sat || sat, mirror := x.mirror || mirror }

section
variable (s : State) (f : Frame) (v : Verdict) (causes : List Nat) (sat mirror : Bool)

/-- The frame with its settled verdict, before its result forms. -/
def State.settledShown : State := (s.countSub causes).updFrame f.layoutBed f.slot f.hzn (Frame.settledWith v causes sat mirror)

theorem State.settle_eq : s.settle f v causes sat mirror = match (s.settledShown f v causes sat mirror).frame? f.layoutBed f.slot f.hzn with
    | some g => ((s.settledShown f v causes sat mirror).formResult g).checkTail
    | none => s.settledShown f v causes sat mirror := rfl

theorem State.settle_frame {g : Frame} (hg : s.frame? f.layoutBed f.slot f.hzn = some g) :
    (s.settle f v causes sat mirror).frame? f.layoutBed f.slot f.hzn = some (g.settledWith v causes sat mirror) := by
  have hcount : (s.countSub causes).frame? f.layoutBed f.slot f.hzn = some g :=
    (State.frame?_congr (congrArg Fast.frames ((Keeps.countSub (.refl [.regs] s) rfl causes).same .fast rfl)) _ _ _).trans hg
  have hshown : (s.settledShown f v causes sat mirror).frame? f.layoutBed f.slot f.hzn = some (g.settledWith v causes sat mirror) :=
    State.frame?_updFrame (u := Frame.settledWith v causes sat mirror) (fun _ => rfl) hcount
  rw [State.settle_eq, hshown]
  dsimp only
  rw [State.frame?_congr (State.checkTail_frames _), State.frame?_congr (congrArg Fast.frames
    ((Keeps.formResult (.refl [.lck] _) rfl (g.settledWith v causes sat mirror)).same .fast rfl))]
  exact hshown

theorem State.checkTail_tail : s.checkTail.aug.tail = s.aug.tail := by
  unfold State.checkTail
  split
  · rw [State.driveHold_only _ .aug (by decide)]
    rfl
  · rfl

/-- A settled verdict writes no record. -/
theorem State.settle_tail : (s.settle f v causes sat mirror).aug.tail = s.aug.tail := by
  have hshown : (s.settledShown f v causes sat mirror).aug = s.aug :=
    (Keeps.updFrame (.countSub (.refl [.regs, .fast] s) rfl causes) rfl _ _ _ _).same .aug rfl
  rw [State.settle_eq]
  split
  · rw [State.checkTail_tail, (Keeps.formResult (.refl [.lck] _) rfl _).same .aug rfl, hshown]
  · rw [hshown]

/-- The engines that have no answer in time, of those that serve a frame: told with one record. -/
theorem State.settledLate_last {e : Fin 2} (hn : s.canNumber = true) : (s.settledLate f [e]).lastEvent = some (0x0404, [bedSlot f.layoutBed f.slot]) := by
  have haug : ((s.bump (LSS_SET_LATE_CNT + lssOff e)).setFlag (LSS_STAT_SET_LATE.on (lssOff e)) true).aug = s.aug :=
    (Keeps.setFlag (.bump (.refl [.regs] s) rfl _) rfl _ _).same .aug rfl
  refine State.writeEventAt_last ((s.bump (LSS_SET_LATE_CNT + lssOff e)).setFlag (LSS_STAT_SET_LATE.on (lssOff e)) true) 0x0404 f.hzn (f.slot % 8) _ ?_
  unfold State.canNumber at hn ⊢
  rw [haug]
  exact hn

end

section
variable {s : State} {p : PhaseProg} {f : Frame} {k : QueryKind} {c : BedCopy}

/-- The release of a frame of one copy whose engine has served its tick. -/
theorem State.releaseQuery_one (hc : f.copies = [c]) (hu : s.unserved (engOf (c.bed % 4)) f.hzn = []) {x : Settled}
    (hx : x = (s.eng[engOf (c.bed % 4)] : Engine).settledFor p f k) :
    s.releaseQuery p f k = (((s.settledLate f (if x.late then [engOf (c.bed % 4)] else [])).settle f (verdictWord x.bits x.causes x.sub f.tally) x.causes
      x.sat false).dropQueries (engOf (c.bed % 4)) p.ph) := by
  have hes : enginesOf (f.copies.map (fun (c : BedCopy) => Fin.ofNat 4 c.bed)) = [engOf (c.bed % 4)] := by
    rw [hc]
    rfl
  unfold State.releaseQuery
  rw [hes]
  dsimp only [List.foldl, List.map]
  have hlate : ([(engOf (c.bed % 4), x)].filter (fun x => x.2.late)).map Prod.fst = if x.late then [engOf (c.bed % 4)] else [] := by
    cases hl : x.late <;> simp [hl]
  rw [State.admitUpTo_of_served hu, ← hx, hlate]

theorem State.dropQueries_fast (s : State) (e : Fin 2) (p : Phase) : (s.dropQueries e p).fast = s.fast := rfl

/-- What a release leaves of the frame, and its record where no answer is in time. -/
theorem State.releaseQuery_shows {g : Frame} (hg : s.frame? f.layoutBed f.slot f.hzn = some g) (hc : f.copies = [c])
    (hu : s.unserved (engOf (c.bed % 4)) f.hzn = []) {x : Settled} (hx : x = (s.eng[engOf (c.bed % 4)] : Engine).settledFor p f k) :
    (s.releaseQuery p f k).frame? f.layoutBed f.slot f.hzn =
        some (g.settledWith (verdictWord x.bits x.causes x.sub f.tally) x.causes x.sat false) ∧
      (x.late = true → s.canNumber = true → (s.releaseQuery p f k).lastEvent = some (0x0404, [bedSlot f.layoutBed f.slot])) := by
  rw [State.releaseQuery_one hc hu hx]
  refine ⟨?_, fun hl hn => ?_⟩
  · have hlate := (State.frame?_congr (congrArg Fast.frames ((Keeps.settledLate (.refl [.regs, .aug] s) rfl f
      (if x.late then [engOf (c.bed % 4)] else [])).same .fast rfl)) f.layoutBed f.slot f.hzn).trans hg
    exact (State.frame?_congr (congrArg Fast.frames (State.dropQueries_fast _ _ _)) _ _ _).trans (State.settle_frame _ f _ _ _ _ hlate)
  · rw [if_pos hl]
    have hlast := s.settledLate_last f (e := engOf (c.bed % 4)) hn
    unfold State.lastEvent at hlast ⊢
    rw [show (((s.settledLate f [engOf (c.bed % 4)]).settle f (verdictWord x.bits x.causes x.sub f.tally) x.causes x.sat false).dropQueries
      (engOf (c.bed % 4)) p.ph).aug.tail = (s.settledLate f [engOf (c.bed % 4)]).aug.tail from State.settle_tail _ _ _ _ _ _]
    exact hlast

end

/-! The commands -/

theorem exec_settledAnswer {s : State} {e : Fin 2} {bed : Fin 4} {slot : Fin 64} {hzn : U64} {q : Query} {p : PhaseProg} {k : QueryKind}
    (hrun : (s.eng[e] : Engine).running = true) (hu : s.unserved e hzn = []) (hq : (s.eng[e] : Engine).query? bed slot hzn = some q)
    (hp : s.phaseAt hzn.toNat = some p) (hk : p.ph.kinds[q.kind]? = some k) (hs : q.shed = false) (hd : q.discarded = false) (ha : q.answer = none)
    (hc : hzn.toNat + k.f ≤ s.count.toNat) (ps : Nat) (w : Work) :
    exec (.settledAnswer e bed slot hzn ⟨ps, w⟩) s = .next (s.answerQuery e p k q ps w) := by
  have hserved : (if (s.eng[e] : Engine).running then s.admitUpTo e hzn else s) = s := by
    rw [if_pos hrun]
    exact State.admitUpTo_of_served hu
  show Host.Outcome.next (
    let s := if (s.eng[e] : Engine).running then s.admitUpTo e hzn else s
    match (s.eng[e] : Engine).query? bed slot hzn, s.phaseAt hzn.toNat with
    | some q, some p =>
      match p.ph.kinds[q.kind]? with
      | some k =>
        if (s.eng[e] : Engine).running && !q.shed && !q.discarded && q.answer.isNone && decide (hzn.toNat + k.f ≤ s.count.toNat) then
          s.answerQuery e p k q ps w
        else s
      | none => s
    | _, _ => s) = _
  rw [hserved]
  dsimp only
  rw [hq, hp]
  dsimp only
  rw [hk]
  exact congrArg Host.Outcome.next (if_pos (by rw [hrun, hs, hd, ha, decide_eq_true hc]; rfl))

/-- An engine that does not run answers nothing. -/
theorem exec_settledAnswer_of_not_running {s : State} {e : Fin 2} (hrun : (s.eng[e] : Engine).running = false) (bed : Fin 4) (slot : Fin 64) (hzn : U64)
    (ps : Nat) (w : Work) : exec (.settledAnswer e bed slot hzn ⟨ps, w⟩) s = .next s := by
  have hserved : (if (s.eng[e] : Engine).running then s.admitUpTo e hzn else s) = s := if_neg (by rw [hrun]; exact Bool.false_ne_true)
  show Host.Outcome.next (
    let s := if (s.eng[e] : Engine).running then s.admitUpTo e hzn else s
    match (s.eng[e] : Engine).query? bed slot hzn, s.phaseAt hzn.toNat with
    | some q, some p =>
      match p.ph.kinds[q.kind]? with
      | some k =>
        if (s.eng[e] : Engine).running && !q.shed && !q.discarded && q.answer.isNone && decide (hzn.toNat + k.f ≤ s.count.toNat) then
          s.answerQuery e p k q ps w
        else s
      | none => s
    | _, _ => s) = _
  rw [hserved]
  dsimp only
  rw [hrun]
  split
  · split
    · rfl
    · rfl
  · rfl

section
variable {s : State} {bed : Fin 4} {slot : Fin 64} {hzn : U64} {f : Frame} {p : PhaseProg}

/-- The release of a frame that is due. -/
theorem exec_settledRelease (hf : s.frame? bed slot hzn = some f) (hp : s.phaseAt hzn.toNat = some p) (hs : f.hasSettled = true) (hx : f.exited = true)
    (hd : f.settledDone = false) : exec (.settledRelease bed slot hzn) s = .next (match f.settledReady with
      | some v => s.settle f v f.sCauses false false
      | none => match (f.kind).bind (fun k => p.ph.kinds[k]?) with
        | some k => s.releaseQuery p f k
        | none => s) := by
  show Host.Outcome.next (match s.frame? bed slot hzn, s.phaseAt hzn.toNat with
    | some f, some p =>
      if f.hasSettled && f.exited && !f.settledDone then
        match f.settledReady with
        | some v => s.settle f v f.sCauses false false
        | none => match (f.kind).bind (fun k => p.ph.kinds[k]?) with
          | some k => s.releaseQuery p f k
          | none => s
      else s
    | _, _ => s) = _
  rw [hf, hp]
  exact congrArg Host.Outcome.next (if_pos (by rw [hs, hx, hd]; rfl))

theorem exec_settledRelease_absent (hf : s.frame? bed slot hzn = none) : exec (.settledRelease bed slot hzn) s = .next s := by
  show Host.Outcome.next (match s.frame? bed slot hzn, s.phaseAt hzn.toNat with
    | some f, some p =>
      if f.hasSettled && f.exited && !f.settledDone then
        match f.settledReady with
        | some v => s.settle f v f.sCauses false false
        | none => match (f.kind).bind (fun k => p.ph.kinds[k]?) with
          | some k => s.releaseQuery p f k
          | none => s
      else s
    | _, _ => s) = _
  rw [hf]

end

/-- Settles O36: an answer changes its own query alone, and a release the settled side of its frame alone. -/
theorem settledVerdictsAreReleased : Obligations.SettledVerdictsAreReleased := by
  unfold Obligations.SettledVerdictsAreReleased
  refine ⟨?answer, ?idle, ?ready, ?query, ?absent⟩
  case answer =>
    intro e bed slot hzn ps w q p k s hrun hu hq hp hk hs hd ha hc hw
    obtain ⟨hb, hsl, hh⟩ := Engine.query?_key hq
    obtain ⟨hcause, heng⟩ := s.answerTaken_shows e p k q w hw
    have hquery : ((s.answerTaken e p k q w).2.eng[e] : Engine).query? q.bed q.slot q.hzn = some q := by rw [heng, hb, hsl, hh]; exact hq
    have hshows := State.answerGiven_query _ e p k q (s.answerLate p q ps) (if q.failed then some 3 else (s.answerTaken e p k q w).1) hquery
    rw [← State.answerQuery_eq, hb, hsl, hh, hcause] at hshows
    refine ⟨_, _, exec_settledAnswer hrun hu hq hp hk hs hd ha hc ps w, hshows, ?_⟩
    have hlate : ∀ a, q.answered (s.answerLate p q ps) a =
        if p.answerLimit bed slot < s.sinceTick hzn.toNat + ps then { q with discarded := true } else { q with answer := some a } := by
      intro a
      unfold Query.answered State.answerLate
      rw [hb, hsl, hh]
      by_cases hlt : p.answerLimit bed slot < s.sinceTick hzn.toNat + ps
      · rw [if_pos hlt, if_pos (decide_eq_true hlt)]
      · rw [if_neg hlt, if_neg (by simpa using hlt)]
    have hruns : (if q.failed then some 3 else workCause ((p.loess e).settled.getD k.program []) w) = none →
        Only [.regs] s (s.answerTaken e p k q w).2 := by
      intro hn
      split at hn
      · exact absurd hn (by simp)
      · exact s.answerTaken_runs e p k q w hn
    generalize (if q.failed then some 3 else workCause ((p.loess e).settled.getD k.program []) w : Option Nat) = cause at hruns ⊢
    split
    · exact hlate _
    · next x hx => exact State.answerOf_other _ e p k q _ hx
    · exact ⟨_, hruns rfl, hlate _⟩
  case idle =>
    intro e bed slot hzn ps w s hrun
    exact exec_settledAnswer_of_not_running hrun bed slot hzn ps w
  case ready =>
    intro bed slot hzn f p v s hf hp hs hx hd hv
    obtain ⟨hb, hsl, hh⟩ := State.frame?_key hf
    have hexec := exec_settledRelease hf hp hs hx hd
    rw [hv] at hexec
    have hframe := s.settle_frame f v f.sCauses false false (g := f) (by rw [hb, hsl, hh]; exact hf)
    rw [hb, hsl, hh] at hframe
    refine ⟨_, _, hexec, hframe, ?_⟩
    unfold Frame.settledWith
    rw [Bool.or_false, Bool.or_false]
  case query =>
    intro bed slot hzn f p k c x s hf hp hs hx hd hr hk hc hu hset
    obtain ⟨hb, hsl, hh⟩ := State.frame?_key hf
    have hexec := exec_settledRelease hf hp hs hx hd
    rw [hr, hk] at hexec
    obtain ⟨hframe, hlast⟩ := State.releaseQuery_shows (s := s) (p := p) (k := k) (g := f) (by rw [hb, hsl, hh]; exact hf) hc (by rw [hh]; exact hu) hset
    rw [hb, hsl, hh] at hframe
    rw [hb, hsl] at hlast
    exact ⟨_, _, hexec, hframe, rfl, rfl, rfl, rfl, hlast⟩
  case absent =>
    intro bed slot hzn s hf
    exact exec_settledRelease_absent hf

end Sys2Proof.Machine

/-! Spills, refreshes, DRAM starts, silt accesses and column repairs (R207, R210, R219, R224, R226). -/
namespace Sys2Proof.Machine

section
variable (s : State) (e : Fin 2)

/-! Spill units -/

/-- The engine with a unit marked as sent. -/
def Engine.spillSent (g : Engine) (stream : Bool) (ring first : Nat) : Engine :=
  { g with spills := g.spills.map (fun u => if u.stream = stream ∧ u.ring = ring ∧ u.first = first then { u with sent := true } else u) }

theorem Engine.spillSent_sent (g : Engine) (stream : Bool) (ring first : Nat) :
    ∀ u ∈ (g.spillSent stream ring first).spills, u.stream = stream → u.ring = ring → u.first = first → u.sent = true := by
  intro u hu
  obtain ⟨v, -, rfl⟩ := List.mem_map.mp hu
  by_cases h : v.stream = stream ∧ v.ring = ring ∧ v.first = first
  · rw [if_pos h]
    exact fun _ _ _ => rfl
  · rw [if_neg h]
    exact fun hs hr hf => absurd ⟨hs, hr, hf⟩ h

theorem State.queueBlocks_spills (cls : Nat) (blocks : List Nat) (item : TxItem) :
    ((s.queueBlocks e cls blocks item).eng[e] : Engine).spills = (s.eng[e] : Engine).spills := by
  obtain ⟨c, hc⟩ := s.queueBlocks_channels e cls blocks item
  rw [hc]

/-- What names a ring in a record is fixed by the placement. -/
theorem State.ringWord_congr {s t : State} (h : t.prog = s.prog) (e : Fin 2) (stream : Bool) (key : Nat) :
    t.ringWord e stream key = s.ringWord e stream key := by
  unfold State.ringWord State.ringNumber State.bedsOf
  rw [h]

theorem State.queueBulk_bulk (op : Nat) (arg : U64) (source index : Nat) (data : List Byte) :
    (s.queueBulk op arg source index data).hst.bulk = s.hst.bulk ++ [{ op := op, arg := arg, source := source, index := index, data := data, sent := 0 }] := rfl

theorem State.queueBulk_eng (op : Nat) (arg : U64) (source index : Nat) (data : List Byte) : (s.queueBulk op arg source index data).eng = s.eng := rfl

/-- A unit that is sent waits as a bulk object for the host, and stands as sent. -/
theorem State.spill_sent (stream : Bool) (ring : Nat) (first : U64) :
    ∃ b : Bulk, (b.op, b.arg, b.source, b.index, b.sent) = (0xD1, first, e.val, s.ringWord e stream ring, 0) ∧
      (s.spill e stream ring first true).hst.bulk = s.hst.bulk ++ [b] ∧
      ((s.spill e stream ring first true).eng[e] : Engine).spills = ((s.eng[e] : Engine).spillSent stream ring first.toNat).spills := by
  unfold State.spill
  extract_lets eng bytes u v
  rw [if_pos rfl]
  have hu : Only [.regs, .eng] s u := ((Framed.refl _ [] s).setEng (by decide) e _).1
  have hq : Only [.regs, .eng] u (u.queueBlocks e 5 (eng.unitBlocks stream ring first.toNat) .none) :=
    (State.queueBlocks_framed e 5 _ .none).1.mono (by decide)
  have hv : Only [.regs, .eng] s v := (hu.trans hq).trans (Keeps.bump64 (.refl [.regs, .eng] _) rfl _ _).only
  refine ⟨⟨0xD1, first, e.val, v.ringWord e stream ring, bytes, 0⟩, ?_, ?_, ?_⟩
  · rw [State.ringWord_congr (hv .prog (by decide))]
  · rw [State.queueBulk_bulk, hv .hst (by decide)]
  · have hev : v.eng = (u.queueBlocks e 5 (eng.unitBlocks stream ring first.toNat) .none).eng :=
      (Keeps.bump64 (.refl [.regs] _) rfl _ _).only .eng (by decide)
    rw [State.queueBulk_eng, hev, State.queueBlocks_spills, State.eng_setEng]
    rfl

theorem spillRegs_apart : ∀ e : Fin 2, LSS_SPILL_DROP_CNT + lssOff e ≠ AUG_RATE ∧ LSS_SPILL_DROP_CNT + lssOff e ≠ AUG_STAT ∧
    LSS_SPILL_DROP_CNT + lssOff e ≠ (LSS_MEM_STAT_SPILL_DROP.on (lssOff e)).addr := by decide

theorem spillStat_apart : ∀ e : Fin 2, (LSS_MEM_STAT_SPILL_DROP.on (lssOff e)).addr ≠ AUG_RATE ∧
    (LSS_MEM_STAT_SPILL_DROP.on (lssOff e)).addr ≠ AUG_STAT ∧ (LSS_MEM_STAT_SPILL_DROP.on (lssOff e)).fits := by decide

/-- A unit that has not gone out is dropped as its space is rewritten: counted, shown and recorded. -/
theorem State.rewriteUnit_dropped (stream : Bool) (ring first n : Nat)
    (h : (s.eng[e] : Engine).spills.any (fun u => u.stream == stream && u.ring == ring && u.first == first && !u.sent) = true) :
    ∃ t, s.rewriteUnit e stream ring first n = t ∧ t.reg (LSS_SPILL_DROP_CNT + lssOff e) = bumped (s.reg (LSS_SPILL_DROP_CNT + lssOff e)) ∧
      t.hst = { s.hst with bulk := s.hst.bulk.filter (fun b =>
        !(b.op == 0xD1 && b.source == e.val && b.index == s.ringWord e stream ring && b.arg.toNat == first && b.sent == 0)) } ∧
      t.flag (LSS_MEM_STAT_SPILL_DROP.on (lssOff e)) = true ∧
      (t.eng[e] : Engine).spills = s.eng[e].spills.filter (fun u => !(u.stream == stream && u.ring == ring && u.first == first)) ∧
      (s.canNumber = true → t.lastEvent = some (0x0408, [e.val, s.ringWord e stream ring, first, first + n - 1])) := by
  refine ⟨_, rfl, ?_⟩
  unfold State.rewriteUnit
  extract_lets eng here blocks unread drop word u src v w
  have hdrop : drop = true := by
    obtain ⟨x, hx, hxu⟩ := List.any_eq_true.mp h
    obtain ⟨hhere, hsent⟩ := Bool.and_eq_true_iff.mp hxu
    exact List.any_eq_true.mpr ⟨x, hx, Bool.and_eq_true_iff.mpr ⟨hhere, by rw [hsent]; rfl⟩⟩
  rw [if_pos hdrop]
  have hu : Framed [.regs, .eng, .hst] [LSS_SPILL_DROP_CNT + lssOff e, LSS_MEM_STAT + lssOff e] s u := (Framed.refl _ _ s).setEng (by decide) e _
  have hw : Only [.regs, .eng, .hst] s w := (((hu.setHst (by decide) _).bump (by decide) (a := LSS_SPILL_DROP_CNT + lssOff e) (by simp)).setFlag
    (by decide) (f := LSS_MEM_STAT_SPILL_DROP.on (lssOff e)) (List.mem_cons_of_mem _ (List.mem_singleton.mpr rfl)) true).1
  have hcnt := spillRegs_apart e
  have hstat := spillStat_apart e
  have hrest := w.writeEvent_only 0x0408 [e.val, word, first, first + n - 1]
  refine ⟨?_, ?_, ?_, ?_, fun hn => ?_⟩
  · rw [State.writeEvent_reg _ _ _ hcnt.1 hcnt.2.1, State.reg_setFlag_ne _ _ hcnt.2.2, State.reg_bump_bumped]
    rfl
  · rw [hrest .hst (by decide)]
    rfl
  · rw [State.flag_writeEvent _ _ _ hstat.1 hstat.2.1, State.flag_setFlag _ _ _ hstat.2.2 rfl]
  · rw [hrest .eng (by decide)]
    show (((s.setEng e _).eng[e] : Engine)).spills = _
    rw [State.eng_setEng]
  · exact w.writeEvent_last 0x0408 _ ((congrArg (fun a : Aug => a.running && !a.numberingFailed) (hw .aug (by decide))).trans hn)

end

/-! Refreshes -/

theorem foldl_keep_of_any {α β : Type} (p : α → Bool) (f : β → α → β) (b : β) (l : List α) (h : l.any p = false) :
    l.foldl (fun m x => if p x then f m x else m) b = b := by
  induction l with
  | nil => rfl
  | cons x xs ih =>
    obtain ⟨hx, hxs⟩ := Bool.or_eq_false_iff.mp (List.any_cons .. ▸ h)
    rw [List.foldl_cons, if_neg (by rw [hx]; exact Bool.false_ne_true)]
    exact ih hxs

theorem State.refreshBank_held (s : State) (e : Fin 2) (c : Fin 8) (bank : Fin 64)
    (h : (s.eng[e].chans[c] : DramChan).started.any (fun x => x.bank == bank.val) = false) :
    (bank.val, s.tim.c + 120) ∈ ((s.refreshBank e c bank).eng[e].chans[c] : DramChan).refresh ∧
      ((s.refreshBank e c bank).eng[e].chans[c] : DramChan).waiting = s.eng[e].chans[c].waiting ∧
      Framed [.regs, .eng] [LSS_BLOCK_MAX + lssOff e + 0x2000000] s (s.refreshBank e c bank) := by
  unfold State.refreshBank
  extract_lets eng ch busy wait live u
  have hbusy : busy = s.tim.c.toNat := by
    have := foldl_keep_of_any (fun x : DramStart => x.bank == bank.val) (fun (m : Nat) x => max m (x.ns.toNat + 45)) s.tim.c.toNat ch.started h
    simpa using this
  have hch : (u.eng[e].chans[c] : DramChan) = { ch with refresh := live ++ [(bank.val, BitVec.ofNat 64 (busy + 120))] } := by
    show (((s.setEng e _).eng[e] : Engine).chans[c] : DramChan) = _
    rw [State.eng_setEng]
    exact Vector.getElem_set_self _
  rw [State.raiseFld_eng, hch]
  refine ⟨List.mem_append_right _ (List.mem_singleton.mpr ?_), rfl, ?_⟩
  · rw [hbusy]
    exact congrArg (Prod.mk bank.val) (BitVec.eq_of_toNat_eq (by simp))
  · exact ((Framed.refl _ _ s).setEng (by decide) e _).setFld (by decide) (f := ⟨LSS_BLOCK_MAX + lssOff e + 0x1000000 * 2, 0, 16⟩) (by simp) _

/-! DRAM transactions -/

theorem State.gatherJobs_only (s : State) (e : Fin 2) (c : Fin 8) : Only [.eng, .aug, .flt, .lck, .svc] s (s.gatherJobs e c) :=
  (Keeps.gatherJobs (.refl [.eng, .aug, .flt, .lck, .svc] s) rfl e c).only

/-- What a channel starts depends on its state, on the counter C and on the ceilings in the registers. -/
theorem State.pickTx_congr {s t : State} (hr : t.regs = s.regs) (hc : t.tim = s.tim) (e : Fin 2) (ch : DramChan) : t.pickTx e ch = s.pickTx e ch := by
  have hreg : t.reg = s.reg := funext fun a => State.reg_congr hr a
  unfold State.pickTx State.ceiling State.flag State.fld
  rw [hc, hreg]

theorem Engine.fillNext_chans (g : Engine) (l : LoessSection) : (g.fillNext l).chans = g.chans := by
  unfold Engine.fillNext
  split
  · obtain ⟨_, _, _, _, _, _, hb⟩ := g.fillBlock_evalOnly _ _
    rw [hb]
  · rfl

theorem State.fillScan_chans (s : State) (e : Fin 2) (x : DramTx) : ((s.fillScan e x).eng[e] : Engine).chans = (s.eng[e] : Engine).chans := by
  unfold State.fillScan
  split
  · rw [State.eng_setEng, Engine.fillNext_chans]
  · rw [State.eng_setEng, Engine.fillNext_chans]
  · rfl

theorem State.txOutcome_good (s : State) (e : Fin 2) (c : Nat) (x : DramTx) : s.txOutcome e c x .good = s := by
  unfold State.txOutcome
  cases x.block with
  | none => rfl
  | some _ => rfl

/-- A read that meets no error is all that a boundary starts. -/
theorem State.startTx_good (s : State) (e : Fin 2) (c : Fin 8) (x : DramTx) (ch : DramChan) (hch : ch = (s.gatherJobs e c).eng[e].chans[c])
    (hx : s.pickTx e ch = some x) :
    ((s.startTx e c .good).eng[e].chans[c] : DramChan) =
      { ch with
        waiting := ch.waiting.erase x
        started := ch.started.filter (fun y => decide (s.tim.c.toNat < y.ns.toNat + 1000)) ++ [⟨x.cls, x.bank, s.tim.c⟩] } := by
  have hg := s.gatherJobs_only e c
  have hpick : (s.gatherJobs e c).pickTx e (s.gatherJobs e c).eng[e].chans[c] = some x := by
    rw [State.pickTx_congr (hg .regs (by decide)) (hg .tim (by decide)), ← hch]
    exact hx
  unfold State.startTx
  extract_lets u eng d
  rw [show u.pickTx e d = some x from hpick]
  dsimp only
  rw [State.txOutcome_good, State.fillScan_chans, State.raiseFld_eng, State.eng_setEng]
  refine (Vector.getElem_set_self _).trans ?_
  rw [hch, ← hg .tim (by decide)]

theorem State.startTx_none (s : State) (e : Fin 2) (c : Fin 8) (o : DramOutcome) (h : s.pickTx e (s.gatherJobs e c).eng[e].chans[c] = none) :
    s.startTx e c o = s.gatherJobs e c := by
  have hg := s.gatherJobs_only e c
  unfold State.startTx
  extract_lets u eng d
  rw [show u.pickTx e d = none from (State.pickTx_congr (hg .regs (by decide)) (hg .tim (by decide)) e _).trans h]

/-! Column repairs -/

theorem columnSpared_apart : ∀ e : Fin 2, (LSS_MEM_STAT_COL_SPARED.on (lssOff e)).addr ∉ [AUG_RATE, AUG_STAT, FLT_CAUSE] ∧
    (LSS_MEM_STAT_COL_SPARED.on (lssOff e)).fits := by decide

theorem State.columnRepaired_spared (s : State) (e : Fin 2) (r : SiltRepair) (h : r.broken = false) :
    (s.columnRepaired e r).flag (LSS_MEM_STAT_COL_SPARED.on (lssOff e)) = true ∧
      (∀ x, x ∈ ((s.columnRepaired e r).eng[e] : Engine).repairs → x.bank ≠ r.bank) ∧
      (s.canNumber = true → (s.columnRepaired e r).lastEvent = some (0x0572, [(siltUnit e r.bank r.column).toNat, r.spare, s.count.toNat])) := by
  unfold State.columnRepaired
  extract_lets eng u
  rw [if_neg (by rw [h]; exact Bool.false_ne_true)]
  have hmoved : ∀ (t : State) (v : Word) (n : Nat) (k : U64), (t.unitMoved v n k).eng = t.eng := fun t v n k =>
    (Keeps.unitMoved (.refl [.regs, .aug, .fast, .flt] t) rfl v n k).only .eng (by decide)
  refine ⟨?_, ?_, fun hn => ?_⟩
  · obtain ⟨hapart, hfits⟩ := columnSpared_apart e
    rw [State.flag_of_reg (State.unitMoved_reg _ _ _ _ hapart), State.flag_setFlag _ _ _ hfits rfl]
  · rw [hmoved, State.setFlag_eng, State.eng_setEng]
    intro x hx
    simpa using (List.mem_filter.mp hx).2
  · exact State.unitMoved_last _ _ _ _ hn

/-! Silt words -/

theorem foldl_mapSet_find {α : Type} (m : Map α) (k : Nat) (f : Nat → α) (n : Nat) (j : Nat) :
    mapFind ((List.range n).foldl (fun m i => mapSet m (k + i) (f i)) m) j = if k ≤ j ∧ j < k + n then some (f (j - k)) else mapFind m j := by
  induction n with
  | zero => rw [if_neg (by omega)]; rfl
  | succ n ih =>
    rw [List.range_succ, List.foldl_append, List.foldl_cons, List.foldl_nil]
    by_cases hj : j = k + n
    · rw [hj, mapFind_mapSet_self, if_pos (by omega), Nat.add_sub_cancel_left]
    · rw [mapFind_mapSet_ne _ _ hj, ih]
      exact if_congr (by omega) rfl rfl

/-- A word written byte by byte from key `k` on. -/
def wordStored (m : Map Byte) (k : Nat) (w : List Byte) : Map Byte := (List.range 64).foldl (fun m i => mapSet m (k + i) (w.getD i 0)) m

theorem wordStored_find (m : Map Byte) (k : Nat) (w : List Byte) (j : Nat) :
    mapFind (wordStored m k w) j = if k ≤ j ∧ j < k + 64 then some (w.getD (j - k) 0) else mapFind m j := by
  unfold wordStored
  exact foldl_mapSet_find m k _ 64 j

theorem Engine.putSilt_silt (g : Engine) (bank word : Nat) (w : List Byte) :
    (g.putSilt bank word w).silt = wordStored g.silt (siltKey bank word) w := by
  simp only [Engine.putSilt, wordStored]

theorem Engine.putSilt_find (g : Engine) (bank word : Nat) (w : List Byte) (j : Nat) :
    mapFind (g.putSilt bank word w).silt j =
      if siltKey bank word ≤ j ∧ j < siltKey bank word + 64 then some (w.getD (j - siltKey bank word) 0) else mapFind g.silt j := by
  rw [Engine.putSilt_silt, wordStored_find]

theorem Engine.putSilt_find_apart (g : Engine) (bank word : Nat) (w : List Byte) {j : Nat}
    (h : j < siltKey bank word ∨ siltKey bank word + 64 ≤ j) : mapFind (g.putSilt bank word w).silt j = mapFind g.silt j := by
  rw [Engine.putSilt_find]
  generalize siltKey bank word = k at h ⊢
  exact if_neg (by omega)

theorem siltBytes_length (xs : List Int) : (siltBytes xs).length = 64 := by
  unfold siltBytes
  simp [List.length_flatMap, leBytes_length]

/-- A byte of a silt word: what the bank holds, else a zero of a cleared bank, else a free byte (log entry 2). -/
theorem State.siltWord_getElem (s : State) (e : Fin 2) (bank word : Nat) :
    (s.siltWord e bank word).1 = (List.range 64).map (fun i =>
      (mapFind (s.eng[e] : Engine).silt (siltKey bank word + i)).getD
        (if (s.eng[e] : Engine).siltCleared then 0 else Config.freeByte (s.free + i))) := by
  unfold State.siltWord State.drawBytes
  dsimp only
  refine List.map_congr_left fun i hi => ?_
  have hi : i < 64 := List.mem_range.mp hi
  cases mapFind (s.eng[e] : Engine).silt (siltKey bank word + i) with
  | some v => rfl
  | none =>
    cases (s.eng[e] : Engine).siltCleared
    · simp [List.getD_eq_getElem?_getD, hi]
    · rfl

/-- A word that has been stored reads as it was stored. -/
theorem State.siltWord_of_put {t : State} {e : Fin 2} {g : Engine} {bank word : Nat} {w : List Byte}
    (h : (t.eng[e] : Engine).silt = (g.putSilt bank word w).silt) (hw : w.length = 64) : (t.siltWord e bank word).1 = w := by
  rw [State.siltWord_getElem, h]
  refine List.ext_getElem (by simp [hw]) fun i hi _ => ?_
  have hi : i < 64 := by simpa using hi
  rw [List.getElem_map, List.getElem_range, Engine.putSilt_find, if_pos (by omega), Nat.add_sub_cancel_left]
  simp [hw, hi]

section
variable (s : State) (e : Fin 2) (bank word : Nat)

/-- A read of port 0 only draws the free bytes of its word. -/
theorem State.siltAccess_read : (s.siltAccess e bank word .read).2.2 = { s with free := s.free + 64 } := rfl

/-- Any other access of port 0 stores the word that it leaves, and counts its saturating elements. -/
theorem State.siltAccess_stores {a : SiltAccess} (h : a ≠ .read) :
    (s.siltAccess e bank word a).2.2.eng[e] = (s.eng[e] : Engine).putSilt bank word (siltBytes (siltApply (siltElems (s.siltWord e bank word).1) a).1) ∧
    ((s.siltAccess e bank word a).2.2.reg (LSS_SILT_ATOM_SAT_CNT + lssOff e)).toNat =
      min ((s.reg (LSS_SILT_ATOM_SAT_CNT + lssOff e)).toNat + (siltApply (siltElems (s.siltWord e bank word).1) a).2) 0xFFFFFFFF ∧
    Framed [.regs, .eng, .free] [LSS_SILT_ATOM_SAT_CNT + lssOff e] s (s.siltAccess e bank word a).2.2 := by
  unfold State.siltAccess
  extract_lets old new u
  have hu : u = old.2.setEng e ((old.2.eng[e] : Engine).putSilt bank word (siltBytes new.1)) := by
    cases a with
    | read => exact absurd rfl h
    | _ => rfl
  have hframe : Framed [.regs, .eng, .free] [LSS_SILT_ATOM_SAT_CNT + lssOff e] s u := by
    rw [hu]
    exact ((Framed.refl _ _ s).fields (t := old.2) rfl (fun p => by
      cases p with
      | free => exact .inl (by decide)
      | _ => exact .inr rfl)).setEng (by decide) e _
  have heng : (u.eng[e] : Engine) = (s.eng[e] : Engine).putSilt bank word (siltBytes new.1) := by
    rw [hu, State.eng_setEng]
    rfl
  have hreg : u.reg (LSS_SILT_ATOM_SAT_CNT + lssOff e) = s.reg (LSS_SILT_ATOM_SAT_CNT + lssOff e) := by
    rw [hu]
    rfl
  dsimp only
  split
  · rename_i hz
    refine ⟨heng, ?_, hframe⟩
    rw [hreg, show (siltApply (siltElems (s.siltWord e bank word).1) a).2 = 0 from hz]
    have := (s.reg (LSS_SILT_ATOM_SAT_CNT + lssOff e)).isLt
    omega
  · refine ⟨heng, ?_, hframe.setReg (by decide) (List.mem_singleton.mpr rfl) _⟩
    rw [State.reg_bumpBy, hreg, BitVec.toNat_ofNat]
    exact Nat.mod_eq_of_lt (by omega)

/-- What port 1 reads reaches the mover. -/
theorem State.port1_read (s : State) (e : Fin 2) (bank word : Nat) :
    (s.port1 e bank word none).eng[e] = { (s.eng[e] : Engine) with moverWord := (s.siltWord e bank word).1 } ∧
      Framed [.eng, .free] [] s (s.port1 e bank word none) := by
  refine ⟨State.eng_setEng _ _ _, ?_⟩
  exact ((Framed.refl _ _ s).fields (t := (s.siltWord e bank word).2) rfl (fun p => by
    cases p with
    | free => exact .inl (by decide)
    | _ => exact .inr rfl)).setEng (by decide) e _

/-- An access of port 0 leaves every other word. -/
theorem State.siltAccess_apart (a : SiltAccess) :
    Framed [.regs, .eng, .free] [LSS_SILT_ATOM_SAT_CNT + lssOff e] s (s.siltAccess e bank word a).2.2 ∧
    ∀ i, i < siltKey bank word ∨ siltKey bank word + 64 ≤ i →
      mapFind ((s.siltAccess e bank word a).2.2.eng[e] : Engine).silt i = mapFind (s.eng[e] : Engine).silt i := by
  by_cases h : a = .read
  · rw [h, State.siltAccess_read]
    exact ⟨(Framed.refl _ _ s).fields rfl (fun p => by
      cases p with
      | free => exact .inl (by decide)
      | _ => exact .inr rfl), fun _ _ => rfl⟩
  · obtain ⟨heng, -, hframe⟩ := s.siltAccess_stores e bank word h
    exact ⟨hframe, fun i hi => by rw [heng, Engine.putSilt_find_apart _ _ _ _ hi]⟩

theorem siltCounters_apart : ∀ e : Fin 2, LSS_SILT_BUSY_CNT + lssOff e ≠ LSS_SILT_ATOM_SAT_CNT + lssOff e := by decide

/-! Both ports in one word -/

/-- Two reads do not meet: port 1 reads after port 0 has. -/
theorem State.moverRetry_read : s.moverRetry e bank word .read none = { s with free := s.free + 64 }.port1 e bank word none := rfl

/-- Port 1's read meets every other access, and sees the word that it leaves. -/
theorem State.moverRetry_stored {a : SiltAccess} (h : a ≠ .read) :
    s.moverRetry e bank word a none = ((s.siltAccess e bank word a).2.2.bump (LSS_SILT_BUSY_CNT + lssOff e)).port1 e bank word none := by
  have hb : siltBusy a false = true := by
    unfold siltBusy
    rw [Bool.or_false]
    exact bne_iff_ne.mpr h
  unfold State.moverRetry
  extract_lets u v
  rw [if_neg (by simp)]
  exact congrArg (fun t : State => t.port1 e bank word none) (if_pos hb)

/-- A write of port 1 meets every access, and is stored after it. -/
theorem State.moverRetry_written (a : SiltAccess) (d : List Word) (h : s.mod.st ≠ .growing) :
    s.moverRetry e bank word a (some d) = ((s.siltAccess e bank word a).2.2.bump (LSS_SILT_BUSY_CNT + lssOff e)).port1 e bank word (some d) := by
  have hb : siltBusy a true = true := Bool.or_true _
  have hmod := (s.siltAccess_apart e bank word a).1.1 .mod (by decide)
  unfold State.moverRetry
  extract_lets u v
  rw [if_neg (by rw [show u.mod = s.mod from hmod]; simpa using h)]
  exact congrArg (fun t : State => t.port1 e bank word (some d)) (if_pos hb)

/-- What the mover and the word hold after port 1's read has met an access that stores. -/
theorem State.moverRetry_stored_word {a : SiltAccess} (h : a ≠ .read) {t : State} (ht : t = s.moverRetry e bank word a none) :
    t.reg (LSS_SILT_BUSY_CNT + lssOff e) = bumped (s.reg (LSS_SILT_BUSY_CNT + lssOff e)) ∧
    (t.eng[e] : Engine).moverWord = siltBytes (siltApply (siltElems (s.siltWord e bank word).1) a).1 ∧
    (t.siltWord e bank word).1 = siltBytes (siltApply (siltElems (s.siltWord e bank word).1) a).1 ∧
    (t.reg (LSS_SILT_ATOM_SAT_CNT + lssOff e)).toNat =
      min ((s.reg (LSS_SILT_ATOM_SAT_CNT + lssOff e)).toNat + (siltApply (siltElems (s.siltWord e bank word).1) a).2) 0xFFFFFFFF := by
  obtain ⟨heng, hsat, hframe⟩ := s.siltAccess_stores e bank word h
  generalize hu : (s.siltAccess e bank word a).2.2 = u at heng hsat hframe
  obtain ⟨hport, hrest⟩ := (u.bump (LSS_SILT_BUSY_CNT + lssOff e)).port1_read e bank word
  rw [s.moverRetry_stored e bank word h, hu] at ht
  subst ht
  have hbumped : (u.bump (LSS_SILT_BUSY_CNT + lssOff e)).eng = u.eng := State.bump_eng _ _
  have hsilt := congrArg Engine.silt ((congrArg (fun g : Vector Engine 2 => g[e]) hbumped).trans heng)
  refine ⟨?_, ?_, ?_, ?_⟩
  · rw [hrest.2 _ (List.not_mem_nil), State.reg_bump_bumped, hframe.2 _ (by simpa using siltCounters_apart e)]
  · rw [hport]
    exact State.siltWord_of_put hsilt (siltBytes_length _)
  · exact State.siltWord_of_put (by rw [hport]; exact hsilt) (siltBytes_length _)
  · rw [hrest.2 _ (List.not_mem_nil), State.reg_bump_ne _ (siltCounters_apart e).symm, hsat]

/-- A retry with a read of port 1 leaves every other word, and what is not the engine's. -/
theorem State.moverRetry_apart (a : SiltAccess) :
    (∀ i, i < siltKey bank word ∨ siltKey bank word + 64 ≤ i →
      mapFind ((s.moverRetry e bank word a none).eng[e] : Engine).silt i = mapFind (s.eng[e] : Engine).silt i) ∧
    Framed [.regs, .eng, .free] [LSS_SILT_BUSY_CNT + lssOff e, LSS_SILT_ATOM_SAT_CNT + lssOff e] s (s.moverRetry e bank word a none) := by
  by_cases h : a = .read
  · rw [h, State.moverRetry_read]
    obtain ⟨hframe, -⟩ := s.siltAccess_apart e bank word .read
    obtain ⟨hport, hrest⟩ := State.port1_read { s with free := s.free + 64 } e bank word
    refine ⟨fun i hi => ?_, (hframe.mono (by decide) (by simp)).trans (hrest.mono (by decide) (List.nil_subset _))⟩
    rw [hport]
  · obtain ⟨hframe, hsilt⟩ := s.siltAccess_apart e bank word a
    rw [s.moverRetry_stored e bank word h]
    obtain ⟨hport, hrest⟩ := ((s.siltAccess e bank word a).2.2.bump (LSS_SILT_BUSY_CNT + lssOff e)).port1_read e bank word
    refine ⟨fun i hi => ?_, ((hframe.mono (by decide) (by simp)).bump (by decide) (by simp)).trans (hrest.mono (by decide) (List.nil_subset _))⟩
    rw [hport, State.bump_eng]
    exact hsilt i hi

/-- A retry with a write of port 1 counts, and stores what port 1 writes. -/
theorem State.moverRetry_written_word (a : SiltAccess) (d : List Word) (h : s.mod.st ≠ .growing) {t : State}
    (ht : t = s.moverRetry e bank word a (some d)) :
    t.reg (LSS_SILT_BUSY_CNT + lssOff e) = bumped (s.reg (LSS_SILT_BUSY_CNT + lssOff e)) ∧
    (t.siltWord e bank word).1 = siltBytes (d.map BitVec.toInt) ∧
    (∀ i, i < siltKey bank word ∨ siltKey bank word + 64 ≤ i → mapFind (t.eng[e] : Engine).silt i = mapFind (s.eng[e] : Engine).silt i) := by
  obtain ⟨hframe, hsilt⟩ := s.siltAccess_apart e bank word a
  rw [s.moverRetry_written e bank word a d h] at ht
  generalize (s.siltAccess e bank word a).2.2 = u at hframe hsilt ht
  have heng : (t.eng[e] : Engine) = ((u.bump (LSS_SILT_BUSY_CNT + lssOff e)).eng[e] : Engine).putSilt bank word (siltBytes (d.map BitVec.toInt)) := by
    rw [ht]
    exact State.eng_setEng _ _ _
  refine ⟨?_, State.siltWord_of_put (congrArg Engine.silt heng) (siltBytes_length _), fun i hi => ?_⟩
  · rw [ht]
    show (u.bump (LSS_SILT_BUSY_CNT + lssOff e)).reg (LSS_SILT_BUSY_CNT + lssOff e) = _
    rw [State.reg_bump_bumped, hframe.2 _ (by simpa using siltCounters_apart e)]
  · rw [heng, Engine.putSilt_find_apart _ _ _ _ hi, State.bump_eng]
    exact hsilt i hi

/-- Where the free bytes repeat after one word, a word reads the same again: port 0's read has drawn 64 of them. -/
theorem State.siltWord_again (h : ∀ n, Config.freeByte (n + 64) = Config.freeByte n) :
    ({ s with free := s.free + 64 }.siltWord e bank word).1 = (s.siltWord e bank word).1 := by
  rw [State.siltWord_getElem, State.siltWord_getElem]
  refine List.map_congr_left fun i _ => ?_
  show (mapFind (s.eng[e] : Engine).silt (siltKey bank word + i)).getD (if (s.eng[e] : Engine).siltCleared then 0 else Config.freeByte (s.free + 64 + i)) = _
  rw [Nat.add_right_comm, h]

end

/-! The commands -/

theorem exec_spillUnit {s : State} {e : Fin 2} {stream : Bool} {ring : Fin 256} {first : U64} {key : Nat} (sent : Bool)
    (hr : (s.eng[e] : Engine).running = true) (hk : (if stream then s.layoutRing e ring else some ring.val) = some key)
    (hu : (s.eng[e] : Engine).spills.any (fun u => u.stream == stream && u.ring == key && u.first == first.toNat && !u.sent) = true) :
    exec (.spillUnit e stream ring first sent) s = .next (s.spill e stream key first sent) := by
  show Host.Outcome.next (match (if stream then s.layoutRing e ring else some ring.val) with
    | none => s
    | some key => if (s.eng[e] : Engine).running && (s.eng[e] : Engine).spills.any (fun u => u.stream == stream && u.ring == key &&
        u.first == first.toNat && !u.sent) then s.spill e stream key first sent else s) = _
  rw [hk]
  exact congrArg Host.Outcome.next (if_pos (by rw [hr, hu]; rfl))

theorem exec_siltMoverRetry {s : State} {e : Fin 2} (hr : (s.eng[e] : Engine).running = true) (bank : Fin 256) (word : Fin 8192) (a : SiltAccess)
    (d : Option (List Word)) : exec (.siltMoverRetry e ⟨bank, word, a, d⟩) s = .next (s.moverRetry e bank word a d) :=
  congrArg Host.Outcome.next (if_pos hr)

theorem exec_siltColumnRepairDone {s : State} {e : Fin 2} {bank : Fin 256} {r : SiltRepair}
    (h : (s.eng[e] : Engine).repairs.find? (fun r => r.bank == bank.val) = some r) :
    exec (.siltColumnRepairDone e bank) s = .next (s.columnRepaired e r) :=
  congrArg (fun o : Option SiltRepair => (Host.Outcome.next (match o with
    | some r => s.columnRepaired e r
    | none => s) : Out)) h

/-- A state in which the engine works and no byte of its silt banks is known; the next free byte is the `n`-th. -/
def unknownSilt (n : Nat) : State :=
  { State.reset.setEng 0 { (State.reset.eng[0] : Engine) with running := true, siltCleared := false, silt := [] } with free := n }

theorem unknownSilt_engine (n : Nat) : ((unknownSilt n).eng[(0 : Fin 2)] : Engine) =
    { (State.reset.eng[0] : Engine) with running := true, siltCleared := false, silt := [] } := State.eng_setEng _ _ _

theorem unknownSilt_running (n : Nat) : ((unknownSilt n).eng[(0 : Fin 2)] : Engine).running = true := by rw [unknownSilt_engine]

theorem unknownSilt_byte (n : Nat) : ((unknownSilt n).siltWord 0 0 0).1[0]? = some (Config.freeByte n) := by
  rw [State.siltWord_getElem, unknownSilt_engine]
  rfl

/-- The obligation holds exactly where the model's free bytes repeat after 64: a mover read that meets a read of port 0 draws the bytes that
stand open (log entry 2) anew. `Config.freeByte` is a constant without a body, which settles neither side. -/
theorem memoriesMoveTheirData_iff : Obligations.MemoriesMoveTheirData ↔ ∀ n, Config.freeByte (n + 64) = Config.freeByte n := by
  unfold Obligations.MemoriesMoveTheirData
  constructor
  · rintro ⟨-, -, -, -, hread, -, -⟩ n
    obtain ⟨t, ht, hmover, -⟩ := hread 0 0 0 .read _ (unknownSilt n) (unknownSilt_running n) rfl
    obtain rfl : State.moverRetry (unknownSilt n) 0 0 0 .read none = t :=
      Host.Outcome.next.inj ((exec_siltMoverRetry (unknownSilt_running n) 0 0 .read none).symm.trans ht)
    have hfirst := congrArg (fun w => w[0]?) ((hmover rfl).1)
    obtain ⟨hport, -⟩ := State.port1_read (unknownSilt (n + 64)) 0 0 0
    rw [State.moverRetry_read, show { unknownSilt n with free := (unknownSilt n).free + 64 } = unknownSilt (n + 64) from rfl, hport] at hfirst
    exact Option.some.inj ((unknownSilt_byte (n + 64)).symm.trans (hfirst.trans (unknownSilt_byte n)))
  · intro hfree
    refine ⟨?_, ?_, ?_, ?_, ?_, ?_, ?_⟩
    · intro e stream ring first sent key s hr hk hu
      refine ⟨_, exec_spillUnit sent hr hk hu, ?_⟩
      cases sent with
      | true =>
        obtain ⟨b, hb, hbulk, hspills⟩ := s.spill_sent e stream key first
        refine ⟨by rw [hbulk, List.length_append]; rfl, by rw [hbulk, List.getLast?_concat]; exact congrArg some hb, ?_⟩
        rw [hspills]
        exact Engine.spillSent_sent _ stream key first.toNat
      | false =>
        obtain ⟨t, rfl, hcnt, hhst, hflag, hspills, hlast⟩ := s.rewriteUnit_dropped e stream key first.toNat (if stream then 256 else 1) hu
        exact ⟨hcnt, hhst, hflag, hspills, hlast⟩
    · intro e c bank s hs hb
      exact ⟨_, congrArg Host.Outcome.next (if_pos hs), s.refreshBank_held e c bank hb⟩
    · intro e c x ch s hs hch hx
      refine ⟨_, congrArg Host.Outcome.next (if_pos hs), ?_⟩
      rw [s.startTx_good e c x ch hch hx]
      exact ⟨rfl, List.getLast?_concat, rfl⟩
    · intro e c o s hs hx
      exact (congrArg Host.Outcome.next (if_pos hs)).trans (congrArg Host.Outcome.next (s.startTx_none e c o hx))
    · intro e bank word a old s hr hold
      refine ⟨_, exec_siltMoverRetry hr bank word a none, ?_⟩
      by_cases ha : a = .read
      · subst ha
        obtain ⟨hport, hrest⟩ := State.port1_read { s with free := s.free + 64 } e bank word
        refine ⟨fun _ => ⟨?_, hrest.2 _ List.not_mem_nil⟩, fun h => absurd rfl h, s.moverRetry_apart e bank word .read⟩
        rw [State.moverRetry_read, hport, hold]
        exact s.siltWord_again e bank word hfree
      · rw [hold]
        exact ⟨fun h => absurd h ha, fun _ => s.moverRetry_stored_word e bank word ha rfl, s.moverRetry_apart e bank word a⟩
    · intro e bank word a d s hr hst
      exact ⟨_, exec_siltMoverRetry hr bank word a (some d), s.moverRetry_written_word e bank word a d hst rfl⟩
    · intro e bank r s hf hb
      have hbank : r.bank = bank.val := by simpa using List.find?_some hf
      refine ⟨_, exec_siltColumnRepairDone hf, ?_⟩
      rw [← hbank]
      exact s.columnRepaired_spared e r hb

end Sys2Proof.Machine
